-- ==== Sys2Proof/Word.lean ====
section
/-! DEFINITION. The words, bytes and records that commands carry and that the block sends: field by field as the
spec lays them out. Everything here is plain data. -/

namespace Sys2Proof

/-- A 32-bit word (R11). -/
abbrev Word := BitVec 32

/-- A byte. -/
abbrev Byte := BitVec 8

/-- R66, R68: a complete cycle of the source voltage, as the tracking filter of R64 delivers it -/
structure SrcCycle where
  /-- time between its two positive-going crossings, ns -/
  period : Nat
  /-- fundamental amplitude at the pins, µV peak -/
  amp : Nat
  /-- running angle at the crossing that ends it -/
  cross : BitVec 16
deriving DecidableEq, Repr

/-- R101: the front-end STATUS word as last received. -/
structure StatusWord where
  /-- CONT_MAIN -/
  contMain : Bool
  /-- CONT_MAIN_FB -/
  mainFb : Bool
  /-- CONT_AUX -/
  contAux : Bool
  /-- CONT_AUX_FB -/
  auxFb : Bool
  /-- LOCK -/
  lock : Bool
  /-- LOCK_FB -/
  lockFb : Bool
  /-- PERMIT_OK -/
  permitOk : Bool
  /-- HOLDING -/
  holding : Bool
  /-- SLACK -/
  slack : BitVec 3
  /-- FAULT, bit 4 = EPOCH_CONFLICT -/
  fault : BitVec 5
  /-- PP_RAW -/
  ppRaw : BitVec 8
  /-- TEMP, 0.01 degree, signed -/
  temp : BitVec 16
  /-- I_EST, mA -/
  iEst : BitVec 32
  /-- WD_REMAIN, ms -/
  wdRemain : BitVec 16
  /-- PORT_A_UP -/
  portAUp : Bool
  /-- PORT_B_UP -/
  portBUp : Bool
  /-- COND_PORT -/
  condPort : Bool
  /-- PING -/
  ping : Bool
deriving DecidableEq, Repr


/-- The STATUS word with every field 0 (DESIGN CHOICE, log 3: no STATUS has been received). -/
def StatusWord.zero : StatusWord :=
  ⟨false, false, false, false, false, false, false, false, 0, 0, 0, 0, 0, 0, false, false, false, false⟩

/-- R105, R106: a mailbox message. -/
structure MbMsg where
  /-- MB_TYPE -/
  typ : BitVec 8
  /-- payload characters -/
  payload : List (BitVec 8)
deriving DecidableEq, Repr

/-- R105: a mailbox slot. -/
structure MbSlot where
  /-- MB_TYPE, 0 for an empty slot -/
  typ : BitVec 8
  /-- FIRST -/
  first : Bool
  /-- LAST -/
  last : Bool
  /-- SEG -/
  seg : BitVec 6
  /-- 14 payload characters -/
  payload : List (BitVec 8)
deriving DecidableEq, Repr

/-- R102: what a downlink frame carries. -/
structure Frame where
  /-- FRAME_NO -/
  frameNo : BitVec 16
  /-- EPOCH -/
  epoch : BitVec 32
  /-- LISTEN -/
  listen : Bool
  /-- HOLD -/
  hold : Bool
  /-- SIDE -/
  side : Bool
  /-- DUTY -/
  duty : BitVec 10
  /-- MODE -/
  mode : BitVec 3
  /-- OUT_CMD main, aux, lock -/
  out : BitVec 3
  /-- PERMIT -/
  permit : BitVec 16
  /-- TONE chips -/
  tone : BitVec 8
  /-- TONE_EN -/
  toneEn : Bool
  /-- RDR_CMD -/
  rdrCmd : BitVec 7
  /-- MBX -/
  mbx : MbSlot
  /-- GPT, oldest sample first -/
  gpt : List (BitVec 10)
  /-- CRC over characters 1 to 194 -/
  crc : BitVec 32
deriving DecidableEq, Repr

/-- R144: a command descriptor as fetched. -/
structure Cmd where
  /-- its CMD ring -/
  ring : Fin 16
  /-- bits [15:0] of its ring index, and above them the pass of its ring, so that the number stays the command's own when the indices restart (R131) -/
  index : BitVec 32
  /-- OPCODE -/
  opcode : BitVec 16
  /-- DEVICE -/
  device : Bool
  /-- FENCE -/
  fence : Bool
  /-- IRQ -/
  irq : Bool
  /-- a reserved field was not zero -/
  rsvd : Bool
  /-- HANDLE -/
  handle : BitVec 16
  /-- CMD_TAG -/
  tag : BitVec 32
  /-- AT, mains time; 0 = at once -/
  atMark : Nat
  /-- PARAM words 6 to 15 -/
  params : List (BitVec 32)
  /-- what the host's buffer that the command names held when the device read it (none where it names none) -/
  data : List (BitVec 8)
deriving DecidableEq, Repr

/-- R147: a completion descriptor. -/
structure Completion where
  /-- CMD_INDEX -/
  cmdIndex : BitVec 16
  /-- STATUS -/
  status : BitVec 8
  /-- LATE -/
  late : Bool
  /-- CMD_TAG -/
  tag : BitVec 32
  /-- RESULT -/
  result : BitVec 32
  /-- LAST_GSEQ; none until it is written, where the command caused no event (R147) -/
  lastGseq : Option (BitVec 32)
  /-- REPLAY -/
  replay : Bool
  /-- the command's IRQ: the completion is signalled at once (R159) -/
  irq : Bool
deriving DecidableEq, Repr


/-- R152, R169: the reset classes of the families: 0x02 and 0x10 class 0, 0x0A class 1, 0x01,
0x04 and 0x05 class 2, all others class 3. -/
def evtClassReset : Vector (BitVec 3) 17 :=
  #v[3, 2, 0, 3, 2, 2, 3, 3, 3, 3, 1, 3, 3, 3, 3, 3, 0]

/-- R149: an event; the sequence numbers are 0 until it is written (R151). -/
structure Event where
  /-- CODE -/
  code : BitVec 16
  /-- outlet-scoped: which outlet -/
  outlet : Option (Fin 128)
  /-- OUTLET_SEQ -/
  outletSeq : BitVec 32
  /-- GSEQ -/
  gseq : BitVec 32
  /-- TICK -/
  tick : Nat
  /-- MAINS -/
  mains : Nat
  /-- LEGAL -/
  legal : Nat
  /-- CAUSE_TAG -/
  causeTag : BitVec 32
  /-- BY_CMD -/
  byCmd : Bool
  /-- CMD_RING -/
  cmdRing : Fin 16
  /-- the model's own: ring index of the causing command -/
  cmdIndex : BitVec 32
  /-- the model's own: number of the event in posting order -/
  ident : Nat
  /-- it waits in the reserved part of the backlog (R153) -/
  resv : Bool
  /-- PAYLOAD, up to 16 bytes -/
  payload : List (BitVec 8)
  /-- REPLAY -/
  replay : Bool
deriving DecidableEq, Repr

/-- R155: an FTX descriptor. -/
structure FtxDesc where
  /-- HANDLE -/
  handle : BitVec 16
  /-- LENGTH -/
  length : Nat
  /-- IRQ -/
  irq : Bool
  /-- ADDR -/
  addr : BitVec 64
  /-- FRAME_TAG -/
  tag : BitVec 32
deriving DecidableEq, Repr

/-- R156: an FRX buffer the host has posted. -/
structure FrxBuf where
  /-- ADDR -/
  addr : BitVec 64
  /-- BUF_SIZE -/
  size : Nat
deriving DecidableEq, Repr

/-- R293, R300: the frozen inputs of one claimant. -/
structure ShareIn where
  /-- cluster outlet number -/
  handle : Nat
  /-- priority -/
  prio : Nat
  /-- weight -/
  weight : Nat
  /-- ceiling, native mA -/
  ceil : Nat
  /-- minimum, native mA -/
  min : Nat
  /-- phases loaded -/
  phases : BitVec 3
  /-- phase equivalent x = native * num / den -/
  num : Nat
  /-- see num -/
  den : Nat
  /-- held load, native mA -/
  held : Nat
  /-- previous grant, native mA -/
  prev : Nat
  /-- cycles waited at 0 -/
  waited : Nat
  /-- measured current, native mA -/
  meas : Nat
deriving DecidableEq, Repr

/-- R313, R316 to R325: a SLAC message a station receives, with what the station measured of it. -/
inductive SlacMsg where
  /-- CM_SLAC_PARAM.REQ -/
  | paramReq (src : BitVec 48) (run : BitVec 64)
  /-- CM_START_ATTEN_CHAR.IND -/
  | startAtten (src : BitVec 48) (run : BitVec 64)
  /-- CM_MNBC_SOUND: its length in ns, and, where its preamble was detected, its frame control decoded and no symbol marked, the attenuation of each carrier group in 0.1 dB (none for a group outside the tone mask) -/
  | sound (src : BitVec 48) (run : BitVec 64) (length : Nat) (atten : Option (List (Option Nat)))
  /-- CM_SLAC_MATCH.REQ -/
  | matchReq (src : BitVec 48) (run : BitVec 64)
  /-- CM_VALIDATE.REQ with the vehicle's timer value in ms -/
  | validateReq (src : BitVec 48) (run : BitVec 64) (timer : Nat)
  /-- any other message of R313 -/
  | other
deriving DecidableEq, Repr

/-- R317, R320, R325: a SLAC message a station sends. -/
inductive SlacTx where
  /-- CM_SLAC_PARAM.CNF -/
  | paramCnf
  /-- CM_ATTEN_CHAR.IND: the group averages in whole dB and the count of valid soundings -/
  | attenChar (avg : List Nat) (count : Nat)
  /-- CM_VALIDATE.CNF -/
  | validateCnf (toggles : Nat) (result : Nat)
  /-- CM_SLAC_MATCH.CNF -/
  | matchCnf (nmk : BitVec 128)
deriving DecidableEq, Repr

/-- R489: a Kite frame, its payload in plain. -/
structure KiteFrame where
  /-- TYPE -/
  typ : BitVec 4
  /-- PRI -/
  pri : BitVec 2
  /-- ACK_REQ -/
  ackReq : Bool
  /-- BCAST -/
  bcast : Bool
  /-- TX -/
  tx : Fin 64
  /-- RX -/
  rx : Fin 64
  /-- ORIG -/
  orig : Fin 64
  /-- DEST -/
  dest : Fin 64
  /-- HOPS -/
  hops : BitVec 4
  /-- LOCKED -/
  locked : Bool
  /-- SEQ -/
  seq : BitVec 16
  /-- TX_SERIAL -/
  serial : BitVec 64
  /-- FCNT -/
  fcnt : BitVec 40
  /-- MAINS -/
  mains : Nat
  /-- PAYLOAD -/
  payload : List (BitVec 8)
deriving DecidableEq, Repr

/-- R560: what a common or a line of the panel is driven to. -/
inductive PanelLevel where
  /-- VCOM -/
  | vcom
  /-- VPOS -/
  | vpos
  /-- VNEG -/
  | vneg
deriving DecidableEq, Repr

/-- R560, R561: one step of a common's update; every other common and line is at VCOM. -/
structure PanelStep where
  /-- DURATION -/
  ms : Nat
  /-- the selected common -/
  common : PanelLevel
  /-- lines at VPOS -/
  vposLines : BitVec 96
  /-- lines at VNEG -/
  vnegLines : BitVec 96
deriving DecidableEq, Repr

/-- R508 to R533: messages between the devices of a cluster or pair. -/
inductive TieMsg where
  /-- R514, R521 -/
  | heartbeat (role : BitVec 2) (mains : Nat) (commit : Nat) (mirrors : Nat) (ready : Bool)
  /-- R37, R521 -/
  | withdrawal
  /-- R530 -/
  | handover
  /-- R512 -/
  | mainsTime (mains : Nat) (freq : Nat) (locked : Bool)
  /-- R517 -/
  | mirror (kind : Nat) (words : List Nat)
  /-- R518: an event, with the EVT ring it is about to be written to -/
  | mirrorEvt (ring : Fin 57) (e : Event)
  /-- R520: an event of families 0x0A or 0x10 of a standby -/
  | standbyEvt (e : Event)
  /-- R300 -/
  | shareIn (slot : Nat) (cycle : Nat) (ins : List ShareIn) (lims : List Nat)
  /-- R301 -/
  | shareAlone (slot : Nat) (cycle : Nat)
  /-- R324: this device's scores of a run and its candidates -/
  | scores (slot : Nat) (src : BitVec 48) (run : BitVec 64) (list : List (Nat × Nat)) (cands : List Nat)
  /-- R390 -/
  | balance (slot : Nat) (window : Nat) (eout : Int) (valid : Bool)
  /-- R464 -/
  | storeChange (seq : Nat) (slot : Nat) (bytes : List (BitVec 8))
  /-- R584 -/
  | quiet (state : Nat)
  /-- R584: the domains that are up on the active side -/
  | domains (up : BitVec 19)
  /-- R599: a piece of a domino transfer, kept by the partner as well -/
  | dominoPiece (payload : List (BitVec 8))
  /-- R599: a firmware image stored by domino -/
  | image (target : Nat) (bytes : List (BitVec 8))
  /-- R601, R604: CFG_HIGHEST of the sender and its STORED configuration images, by VERSION and BODY_HASH -/
  | versions (highest : BitVec 32) (images : List (BitVec 32 × BitVec 256))
  /-- R601: an accepted activation -/
  | config (mark : Nat) (version : BitVec 32) (hash : BitVec 256) (source : BitVec 32) (yoyo : Bool) (auto : Bool)
  /-- R603: the sender's pending activation is void -/
  | configDrop
  /-- R593 step 1 -/
  | fwActivate
  /-- R593: the sender's application trial has ended -/
  | fwResult (ok : Bool) (version : BitVec 32)
  /-- R593: the command of a pair activation, handed over -/
  | fwPair (ring : Nat) (index : BitVec 32) (tag : BitVec 32)
deriving DecidableEq, Repr

/-- What the block has sent, in order: the model's own record of its outputs (log 5). -/
inductive Out where
  /-- an MSI-X message (R158), with the address and the data of its table entry -/
  | msix (vector : BitVec 6) (addr : BitVec 64) (data : BitVec 32)
  /-- bytes written to host memory, Relaxed Ordering and No Snoop clear (R126): ring entries, write-backs, command results -/
  | host (addr : BitVec 64) (bytes : List (BitVec 8))
  /-- frame payload written to host memory with Relaxed Ordering set and No Snoop clear (R126) -/
  | payload (addr : BitVec 64) (bytes : List (BitVec 8))
  /-- data returned to a BAR read -/
  | readData (value : BitVec 32)
  /-- a completion with Unsupported Request (R129) -/
  | unsupported
  /-- a downlink frame (R102) -/
  | frame (lane : Fin 128) (f : Frame)
  /-- consecutive DROP sets (R97) -/
  | drop (lane : Fin 128) (sets : Nat)
  /-- an ordered set (R90, R92): 0 TS1 and 1 TS2, from then on repeatedly, 2 one ECHO set, 3 IDLE, from then on -/
  | setWord (lane : Fin 128) (kind : Nat)
  /-- a mailbox message (R105) -/
  | mailbox (lane : Fin 128) (m : MbMsg)
  /-- bytes sent on a field-bus port (R184) -/
  | serialTx (port : Fin 12) (bytes : List (BitVec 8))
  /-- a frame a station sends (R314) -/
  | plc (station : Fin 128) (bytes : List (BitVec 8))
  /-- a SLAC message a station sends to a vehicle -/
  | slac (station : Fin 128) (src : BitVec 48) (run : BitVec 64) (m : SlacTx)
  /-- a reader or tag command (R455) -/
  | reader (outlet : Fin 128) (bytes : List (BitVec 8))
  /-- a sealed Kite frame, from byte 0 to its CRC (R486, R489, R492) -/
  | kite (bytes : List (BitVec 8))
  /-- a tie message (R508) -/
  | tie (port : Fin 4) (m : TieMsg)
  /-- a pulse (R383) -/
  | pulse (k : Fin 8)
  /-- bytes sent on the service UART (R597) -/
  | serviceUart (bytes : List (BitVec 8))
  /-- the update of a common: its waveform's steps (R560, R561) -/
  | display (common : Fin 4) (steps : List PanelStep)
deriving DecidableEq, Repr

/-- R456, R457: what a reader engine hears of cards. -/
inductive CardAnswer where
  /-- a Type A card with its UID -/
  | typeA (uid : List (BitVec 8))
  /-- a Type B card with its PUPI -/
  | typeB (pupi : List (BitVec 8))
  /-- more than one card answered -/
  | collision
  /-- a card answered polling, but its reading failed -/
  | failed
  /-- the answer to the keyed exchange, with SW 0x9000 -/
  | keyed (id : List (BitVec 8)) (mac : List (BitVec 8))
  /-- a step of the keyed exchange failed -/
  | refusedKey
deriving DecidableEq, Repr

/-- R489: a Kite frame as received, with what the receiver measured. -/
structure KiteRx where
  /-- its bytes, from FC to the CRC -/
  bytes : List (BitVec 8)
  /-- SNR class measured, 0 to 3 -/
  snr : Nat
  /-- the node's own mains angle at the first sample of the preamble -/
  angle : BitVec 16
  /-- tick of that sample -/
  at_ : Nat
deriving DecidableEq, Repr

/-- R508, R510, R512: what the two ends of a tie port exchange. -/
structure TiePeer where
  /-- serial number -/
  serial : BitVec 64
  /-- slot -/
  slot : BitVec 2
  /-- side -/
  side : Bool
  /-- CLUSTER_N -/
  clusterN : Nat
  /-- PAIRED -/
  paired : Bool
  /-- configuration version -/
  version : BitVec 32
  /-- cycle count it holds -/
  cycle : Nat
deriving DecidableEq, Repr

end Sys2Proof
end

