-- ==== Sys2Proof/Syntax.lean ====
section
/-! DEFINITION. The commands of the block: one constructor for each row of spec/opcode_table.json, in its order. -/

namespace Sys2Proof

/-- The commands (steps) of the block. Each constructor is the row of spec/opcode_table.json whose name its comment gives. -/
inductive Instr where
  /-- NO_OPERATION (R168): Ring-control command that completes once every event generated before it has been written or folded. -/
  | noOperation (c : Cmd)
  /-- MARKER (R168): Writes a Marker event carrying PARAM word 0 to every enabled EVT ring, in ascending ring order. -/
  | marker (c : Cmd)
  /-- FLUSH_TRANSMIT (R168): Drops the queued FTX frames of one outlet, each completing with TX_STATUS 3. -/
  | flushTransmit (c : Cmd)
  /-- READ_REGISTER (R168): Reads a BAR0 register on behalf of the ring's role, after checking that the register's block grants that role read access. -/
  | readRegister (c : Cmd)
  /-- WRITE_REGISTER (R168): Writes a BAR0 register on behalf of the ring's role, acting exactly as a BAR0 write of that value. -/
  | writeRegister (c : Cmd)
  /-- REGISTER_WRITE (R14): A write to a register field that has no row of its own, applied by its access code: W1C, RW, RWL or RWS. bar: 0 BAR0, 1 BAR2, 2 BAR4, 3 the configuration space of the endpoint. -/
  | registerWrite (bar : Fin 4) (off : Nat) (v : BitVec 32)
  /-- BAR_ACCESS_UNALIGNED (R129): A BAR0 or BAR2 access that is not an aligned 32-bit access completes with Unsupported Request and has no effect. -/
  | barAccessUnaligned (bar : Fin 3) (off : Nat) (size : Nat) (write : Bool)
  /-- DOORBELL_WRITE (R137): The host writes a ring index to a doorbell, and the device acts on the latest value. -/
  | doorbellWrite (r : Fin 57) (v : BitVec 32)
  /-- RING_ENABLE (R131): A write of EN = 1 checks the enable rules, resets the indices and replays held completions and unacknowledged events. -/
  | ringEnable (r : Fin 57) (v : BitVec 32)
  /-- RING_DISABLE (R131): A host write of EN = 0 stops the ring, keeps its held completions and unacknowledged events, and lapses any credential on it. -/
  | ringDisable (r : Fin 57)
  /-- LINK_LOSS (R130): PERST#, a link out of L0 for over 1 ms, a function level reset or D3hot stops requests and clears every EN. -/
  | linkLoss (cause : Fin 4)
  /-- COMMAND_FETCH (R141): The device fetches a command descriptor after reserving a CPL slot, and dispatches it by opcode. -/
  | commandFetch (r : Fin 16) (d : List (BitVec 32)) (data : List (BitVec 8))
  /-- COMMAND_AT_MARK (R145): The mark of a command with AT not equal to 0 fires and the command takes effect, flagged late if the mark was past. -/
  | commandAtMark (r : Fin 16) (index : BitVec 32)
  /-- BACKLOG_DRAIN (R153): Backlogged events are written to their EVT ring once it is enabled and has room. -/
  | backlogDrain
  /-- MODERATION_TIMEOUT (R158): MOD_TIME expires for a device-produced ring, and its MSI-X message is sent. -/
  | moderationTimeout (r : Fin 57)
  /-- FTX_FETCH (R155): An FTX descriptor is fetched and its frame is queued to the outlet's station. d: the words of the descriptor, as the device reads them from the ring; bytes: what its buffer holds. -/
  | ftxFetch (r : Fin 8) (d : List (BitVec 32)) (bytes : List (BitVec 8))
  /-- FRX_FILL (R156): A queued received frame is filled into the next FRX buffer the host has posted. d: the words of the buffer descriptor, as the device reads them from the ring. -/
  | frxFill (o : Fin 128) (d : List (BitVec 32))
  /-- FTX_DONE (R314): The station accepts a frame, or it is discarded, and DONE is written back in the FTX descriptor with its TX_STATUS. -/
  | ftxDone (o : Fin 128)
  /-- TIM_SNAP_READ (R88): A read of TIM_SNAP_TICK_LO latches tick, mains and legal time at one step-clock edge. -/
  | timSnapRead
  /-- TIM_CFG_LOCK (R88): A write of LOCK = 1 makes NOMINAL and SOURCE read-only until power-on reset. -/
  | timCfgLock (v : BitVec 32)
  /-- PLC_CFG_LOCK (R335): A write of LOCK = 1 makes PLC_MAC_BASE read-only until power-on reset. -/
  | plcCfgLock (v : BitVec 32)
  /-- AUT_CFG_LOCK (R481): A write of LOCK = 1 makes AUT_SALT read-only until power-on reset. -/
  | autCfgLock (v : BitVec 32)
  /-- KIT_CFG_LOCK (R507): A write of LOCK = 1 makes BAND, COUPLING and NODE_ID read-only until power-on reset. -/
  | kitCfgLock (v : BitVec 32)
  /-- TIE_CFG_LOCK (R535): A write of LOCK = 1 makes CLUSTER_N and PAIRED read-only until power-on reset. -/
  | tieCfgLock (v : BitVec 32)
  /-- LSW_CFG_LOCK (R569): A write of LOCK = 1 makes WD_WIN and LSW_FAILSAFE read-only until power-on reset. -/
  | lswCfgLock (v : BitVec 32)
  /-- RETRAIN (R91): A write of RETRAIN = 1 restarts lane training at step 1 and posts string-down with cause 4. -/
  | retrain (l : Fin 128)
  /-- LANE_ENABLE (R90): A write of EN = 1 to a lane starts its training. -/
  | laneEnable (l : Fin 128)
  /-- LANE_DISABLE (R91): A write of EN = 0 to a lane stops it and posts string-down with cause 5. -/
  | laneDisable (l : Fin 128)
  /-- WATERMARK_WRITE (R175): A write to MPL_Q_WM sets both watermarks or is refused; the queue is paused or released at once. -/
  | watermarkWrite (q : Fin 1024) (v : BitVec 32)
  /-- SITE_POWER_LIMIT_WRITE (R307): A write to SHR_SITE_P_HI applies the set-up power limit together with the preceding write to SHR_SITE_P_LO. -/
  | sitePowerLimitWrite (v : BitVec 32)
  /-- MAC_BASE_WRITE (R310): A write to PLC_MAC_BASE_HI applies the station address base, or is ignored if the base breaks the rules. -/
  | macBaseWrite (v : BitVec 32)
  /-- ALARM_WRITE (R580): A write to PWR_ALARM_HI sets the alarm time together with PWR_ALARM_LO, and arms or disarms the alarm. -/
  | alarmWrite (v : BitVec 32)
  /-- CURSOR_BASE_WRITE (R447): A write to REC_CURSOR_BASE moves the recorder window for every window read that arrives after it. -/
  | cursorBaseWrite (v : BitVec 32)
  /-- PULSE_SETTINGS_WRITE (R384): A write to ENR_PLS_CFG or ENR_PLS_CONST is held until the next commit and recorded in the legal log. -/
  | pulseSettingsWrite (k : Fin 8) (isConst : Bool) (v : BitVec 32)
  /-- DEMAND_LENGTH_CHANGE (R386): A change of DEMAND_LEN takes effect at the energy cut that closes the open interval. -/
  | demandLengthChange (v : BitVec 32)
  /-- BANDWIDTH_MONITOR_WRITE (R611): A change of PORT, DIR or WIN restarts a bandwidth monitor and clears LAST and PEAK. -/
  | bandwidthMonitorWrite (m : Fin 8) (v : BitVec 32)
  /-- PMC_CYC_READ (R617): A read of PMC_CYC_LO latches the group's cycle counter and its 8 counters at one edge. -/
  | pmcCycRead (g : Fin 8)
  /-- STAGE_INSERTION (R36): Contact stages make during insertion, which starts VIN soft-start and the sensing of inputs. contacts: the seating contacts that make with stage 4; vin: VIN in mV that stage 2 brings. -/
  | stageInsertion (stage : Fin 5) (contacts : BitVec 4) (vin : Nat)
  /-- SEATED (R34): All SEAT_x# have read low for 20 ms, and the dies are powered with power-on reset held. -/
  | seated
  /-- POWER_ON_RESET_RELEASE (R36): Power-on reset is released: straps are latched, keeping memory is loaded and training starts. The straps as they read, and the step of R272 at which the guard test fails (0 = it passes). -/
  | powerOnResetRelease (slot : BitVec 2) (side : Bool) (dbg : Bool) (guardFail : Fin 5)
  /-- PERST_RELEASE (R36): The host releases PERST#, and PCI Express link training runs. -/
  | perstRelease
  /-- SEAT_LOSS (R37): A SEAT_x# reads high for at least 10 µs while the module is powered, and the removal sequence starts. `bits` are the bits of the incomer's modulators since its last boundary, which step 2 of R377 closes with the open cycles. -/
  | seatLoss (contacts : BitVec 4) (bits : List (BitVec 8))
  /-- SEAT_GLITCH (R42): A SEAT_x# reads high for less than 10 µs, which sets SEAT_GLITCH and is recorded. -/
  | seatGlitch (contact : Fin 4)
  /-- RESEAT_WAIT_END (R38): All four SEAT_x# have read high together for 10 ms after a completed removal, and insertion restarts from step 5. -/
  | reseatWaitEnd
  /-- CAB_RST (R40): CAB_RST# held low for at least 1 µs raises the power-fail warning, then power-on reset follows. low: CAB_RST# has been held low for 1 µs; otherwise it returns high. `bits` are the bits of the incomer's modulators since its last boundary, which step 2 of R377 closes with the open cycles. -/
  | cabRst (low : Bool) (bits : List (BitVec 8))
  /-- POWER_FAIL_WARNING (R45): VIN falls below 16.0 V: the partial commit, the display discharge and the keeping-memory writes follow. vin: VIN in mV as it falls. `bits` are the bits of the incomer's modulators since its last boundary, which step 2 of R377 closes with the open cycles. -/
  | powerFailWarning (vin : Nat) (bits : List (BitVec 8))
  /-- VIN_RETURN (R378): VIN rises above 18.0 V before power is lost, and metering resumes. vin: VIN in mV as it rises. -/
  | vinReturn (vin : Nat)
  /-- KEEP_ENTRY (R577): VIN is absent, and only the always-on domain runs, from VBAT. -/
  | keepEntry
  /-- VBAT_LOW (R47): VBAT falls below 2.7 V or 2.5 V, which sets the low-battery flag or latches a clock-loss mark. -/
  | vbatLow (below25 : Bool)
  /-- STRAP_CHECK (R31): Once per second the live straps are compared with the latched values, and a difference sets MISMATCH. -/
  | strapCheck (slot : BitVec 2) (side : Bool) (dbg : Bool)
  /-- REFERENCE_LOST (R60): REFCLK deviates by more than 1,000 ppm or misses 8 edges, and the clocks move to the holdover oscillator. -/
  | referenceLost
  /-- REFERENCE_RESTORED (R61): REFCLK has been within 300 ppm for 100 ms, and the clocks return to it at a mains-cycle boundary. -/
  | referenceRestored
  /-- JUNCTION_TEMPERATURE (R58): A control-die junction sensor crosses 110 °C, 105 °C or 125 °C, which reports or raises a fault. -/
  | junctionTemperature (temp : Int)
  /-- MAINS_LOCKED (R69): The acquisition test passes, one angle correction is applied, and the clock enters LOCKED. cycles: the complete cycles of the source, in time order, over which the test of R66 is made; angle: the true angle. -/
  | mainsLocked (cycles : List SrcCycle) (angle : BitVec 16)
  /-- MAINS_LOST (R68): A crossing timeout, low amplitude or out-of-range frequency takes the angle clock to COAST. a, b: cause 1, the amplitudes of the last two half-cycles in µV; cause 2, the frequencies of the last two cycles in 0.001 Hz. -/
  | mainsLost (cause : Fin 3) (a : Nat) (b : Nat)
  /-- METERING_CYCLE_BOUNDARY (R361): At an outlet's metering-cycle boundary or 20 ms boundary, the per-cycle quantities are delivered and accrued. of an outlet, or (none) of the incomer, with the bits of its 8 modulators since its last boundary and the last cycle of the source voltage. -/
  | meteringCycleBoundary (o : Option (Fin 128)) (bits : List (BitVec 8)) (src : Option SrcCycle)
  /-- LEGAL_TIME_SYNC (R81): A host sync slews or steps legal time, or refuses the offset. utc: legal time the host gives; at_: tick time at which it was sampled. -/
  | legalTimeSync (role : BitVec 3) (utc : Nat) (at_ : Nat)
  /-- SLEW_END (R81): A running slew has removed its offset, and SLEWING returns to 0. -/
  | slewEnd
  /-- SYNC_AGE_EXPIRY (R80): The last synchronisation reaches SYNC_AGE, and LEGAL_STATE becomes AGED. -/
  | syncAgeExpiry
  /-- LOCAL_TABLE_END (R84): The last entry of the local-time table comes into force, and the local-table-end event is posted. -/
  | localTableEnd
  /-- TRAINING_SET_RECEIVED (R90): 64 consecutive TS1 or 8 consecutive TS2 are received, and training advances. -/
  | trainingSetReceived (l : Fin 128) (ts2 : Bool)
  /-- ECHO_RECEIVED (R90): The ECHO set returns, RTT is stored, and the lane enters IDLE. -/
  | echoReceived (l : Fin 128) (rtt : Nat)
  /-- LINK_FAULT (R91): Lock loss, code violations, a CRC burst or a missing SOF sends the lane to DOWN and restarts training. -/
  | linkFault (l : Fin 128) (cause : Fin 4)
  /-- UPLINK_FRAME_RECEIVED (R96): An uplink frame's EOF arrives, and the frame is checked, passed to metering and read for STATUS. chars: characters 1 to 198 as received; eof: EOF is at character 199; violation: a character is a code violation. -/
  | uplinkFrameReceived (l : Fin 128) (chars : List (BitVec 8)) (eof : Bool) (violation : Bool)
  /-- LINK_RESTORED (R239): 100 ms with no missing frame returns invariant LINK. -/
  | linkRestored (o : Fin 128)
  /-- LANE_SILENT (R339): 20 ms without an uplink frame makes the lane silent. -/
  | laneSilent (l : Fin 128)
  /-- DOWNLINK_FRAME (R102): A downlink frame starts, carrying the commands, the tone chips and the island's permit word. -/
  | downlinkFrame (l : Fin 128) (disagree : BitVec 13)
  /-- HELLO_RECEIVED (R108): A HELLO is checked for COMPAT, and a CHALLENGE is sent with a new epoch. -/
  | helloReceived (l : Fin 128)
  /-- PROOF_RECEIVED (R108): MAC_F is checked, and CONFIRM and PARAM are sent. -/
  | proofReceived (l : Fin 128)
  /-- PARAM_ACK_RECEIVED (R108): The lane enters UP with an EPOCH_CLAIM, or LISTEN, and the string-up event is posted. -/
  | paramAckReceived (l : Fin 128)
  /-- ATTACH_HOLDOFF_END (R109): The 10 s hold-off after 8 refusals ends, and the lane answers HELLO again. -/
  | attachHoldoffEnd (l : Fin 128)
  /-- MAILBOX_REPEAT (R105): An unanswered mailbox message is sent again after 100 µs, at most 8 times. -/
  | mailboxRepeat (l : Fin 128)
  /-- SERVICE_RESET (R119): The service domain resets, then contexts reload their journals and frames resume with HOLD. fault: it starts for a service-core fault. Given during a service reset, the reset ends. -/
  | serviceReset (fault : Bool)
  /-- ECC_ERROR (R181): A corrected or uncorrectable memory error is tallied or drops packets. -/
  | eccError (kind : Fin 4) (inst : Nat)
  /-- TRANSMIT (R184): Field-bus transmit command. -/
  | transmit (c : Cmd)
  /-- TRANSMIT_COMPLETE (R184): The last bit of a field-bus transmit leaves the line, and the command completes. -/
  | transmitComplete (p : Fin 12)
  /-- READ (R185): Field-bus read command, which completes when a packet is written to its buffer. -/
  | read (c : Cmd)
  /-- ABORT_PORT (R187): Ends the port's outstanding Reads and unstarted Transmits. -/
  | abortPort (c : Cmd)
  /-- RS485_PACKET_END (R189): An idle gap or MAX_PKT ends an RS-485 receive packet, which is linked to its queue. parity, framing: characters received with such an error. -/
  | rs485PacketEnd (q : Fin 8) (bytes : List (BitVec 8)) (parity : Nat) (framing : Nat)
  /-- CAN_FRAME_RECEIVED (R191): A CAN FD frame is filtered and queued, or dropped. w0, w1: the header words of R188. -/
  | canFrameReceived (c : Fin 4) (w0 : BitVec 32) (w1 : BitVec 32) (bytes : List (BitVec 8))
  /-- CAN_BUS_OFF (R191): A CAN FD port enters bus-off or error passive, and the Line error event is posted. busOff: bus-off, otherwise error passive. -/
  | canBusOff (c : Fin 4) (busOff : Bool) (tec : BitVec 8) (recErr : BitVec 8)
  /-- BUS_OFF_RECOVERY (R191): 128 occurrences of 11 recessive bits let a bus-off port rejoin. -/
  | busOffRecovery (c : Fin 4)
  /-- CTS_CHANGE (R190): FB_CTS changes, and transmission stops or resumes at a character boundary. -/
  | ctsChange (q : Fin 8) (level : Bool)
  /-- CONTEXT_STEP (R205): A context serves a queued trigger, testing transitions and running actions. -/
  | contextStep (o : Fin 128)
  /-- PILOT_EVALUATION (R214): The pilot plateaus are evaluated, and a debounced new class takes effect. -/
  | pilotEvaluation (o : Fin 128)
  /-- PROXIMITY_CLASS (R217): PP_RAW stays in a band for PROX_DEBOUNCE, and the proximity class takes effect. -/
  | proximityClass (o : Fin 128)
  /-- TIMER_EXPIRY (R210): A context timer expires, and its TIMER trigger is queued. -/
  | timerExpiry (o : Fin 128) (t : Fin 4)
  /-- ZERO_POINT_MARK (R221): A switching mark fires, the safety check runs again, and the command rides in the next frame. -/
  | zeroPointMark (o : Fin 128) (aux : Bool)
  /-- CONTACTOR_FEEDBACK (R223): A contactor feedback change queues CONT and updates the learnt delay. -/
  | contactorFeedback (o : Fin 128) (aux : Bool)
  /-- CONTACTOR_TIMEOUT (R223): CONT_TIMEOUT passes without feedback, or an unexpected change lasts 10 ms. -/
  | contactorTimeout (o : Fin 128) (aux : Bool)
  /-- LOCK_FEEDBACK (R226): LOCK_FB reaches a position, LOCK_TIMEOUT passes, or an unexpected release lasts 10 ms. -/
  | lockFeedback (o : Fin 128)
  /-- PROFILE_CHECK (R232): A profile copy fails its CRC scan or ECC, and it is restored from the other copy. version: the profile version held; copy: 0 first copy, 1 second copy, 2 both; crc: found by the CRC scan, otherwise by ECC. -/
  | profileCheck (p : Fin 32) (version : Nat) (copy : Fin 3) (crc : Bool)
  /-- CONTEXT_START (R230): After power-on, a lane first reaches UP, and its context enters INITIAL or takes its fault transition. -/
  | contextStart (o : Fin 128)
  /-- SIGNAL (R233): Queues a HOST trigger. -/
  | signal (c : Cmd)
  /-- BIND_PROFILE (R233): Binds a profile to the outlet. -/
  | bindProfile (c : Cmd)
  /-- ENABLE_OUTLET (R233): Enables or disables the outlet's context. -/
  | enableOutlet (c : Cmd)
  /-- AUTHORISE (R233): Sets or clears AUTHORISED and queues AUTH. -/
  | authorise (c : Cmd)
  /-- FORCE_FAULT (R233): Takes the fault transition with cause 5. -/
  | forceFault (c : Cmd)
  /-- RESET_CONTEXT (R233): Returns a context in a CLASS 4 state to INITIAL. -/
  | resetContext (c : Cmd)
  /-- FORGET_DELAYS (R233): Returns the learnt delays to their D0 values. -/
  | forgetDelays (c : Cmd)
  /-- READ_CONTEXT (R233): Returns the context state and its inputs. -/
  | readContext (c : Cmd)
  /-- RC_EVALUATION (R241): Every 1 ms the residual estimates are computed and the stage delays counted. -/
  | rcEvaluation (o : Fin 128)
  /-- RDC_TEST_STEP (R246): An RDC test step's awaited estimate is met or its bound is missed. -/
  | rdcTestStep (o : Fin 128)
  /-- RDC_OK_EXPIRY (R247): RDC_OK becomes older than 24 h and is cleared. -/
  | rdcOkExpiry (o : Fin 128)
  /-- IMD_HALF_END (R249): A source half ends, and after a pair of halves r_iso is computed and classed. -/
  | imdHalfEnd (o : Fin 128)
  /-- ISO_RESULT_AGED (R252): The last insulation result passes IMD_AGE, and invariant ISO fails. -/
  | isoResultAged (o : Fin 128)
  /-- CHECK_WELD_END (R254): WELD_T_DC, or 200 ms on AC, passes after open, and CHECK weld passes or fails. -/
  | checkWeldEnd (o : Fin 128)
  /-- PILOT_GRACE_END (R256): The 100 ms PILOT grace after a change to B ends. -/
  | pilotGraceEnd (o : Fin 128)
  /-- SAFETY_INPUT_CHANGE (R265): A safety input channel change stays stable for 2 ms, and the pair is judged open or closed. -/
  | safetyInputChange (k : Fin 32) (chanB : Bool) (high : Bool)
  /-- DISCREPANCY (R265): The channels of a pair differ for longer than DISC, which gives a discrepancy fault. -/
  | discrepancy (k : Fin 32)
  /-- CROSS_CIRCUIT_CHECK (R266): A channel fails to follow its test-pulse dropout. -/
  | crossCircuitCheck (k : Fin 32) (chanB : Bool)
  /-- AXIS_EVALUATION (R270): Every 1 ms the speed, standstill and SS1 envelope of each axis are checked. -/
  | axisEvaluation (k : Fin 16) (counts : Int)
  /-- OUTPUT_READBACK (R271): A safety output test pulse reads back wrongly, and an output fault is latched. chanB: the channel; stuckOn: it reads high during its pulse or while off, otherwise low while on. -/
  | outputReadback (k : Fin 16) (chanB : Bool) (stuckOn : Bool)
  /-- LOCKSTEP_MISMATCH (R527): An island's comparator finds a mismatch, and a lockstep restart runs. -/
  | lockstepMismatch (legal : Bool)
  /-- LOCKSTEP_RESTART_END (R527): A lockstep restart completes, or reaches 50 µs and becomes lasting. completed: within 50 µs. -/
  | lockstepRestartEnd (legal : Bool) (completed : Bool)
  /-- CLEAR_TRIP (R279): Clears a residual, insulation or weld latch after its test. -/
  | clearTrip (c : Cmd)
  /-- RUN_RDC_TEST (R279): Starts the RDC test. -/
  | runRdcTest (c : Cmd)
  /-- ACKNOWLEDGE_STOP (R279): Clears the latch of a safety input pair. -/
  | acknowledgeStop (c : Cmd)
  /-- STOP_AXIS (R279): Demands SS1 on an axis. -/
  | stopAxis (c : Cmd)
  /-- RELEASE_AXIS (R279): Releases an axis from STO. -/
  | releaseAxis (c : Cmd)
  /-- CLEAR_OUTPUT_FAULT (R279): Clears an output fault after an on-pulse test. -/
  | clearOutputFault (c : Cmd)
  /-- READ_INSULATION (R279): Returns the last r_iso. -/
  | readInsulation (c : Cmd)
  /-- SHARE_SNAPSHOT (R293): At the snapshot mark, the inputs are frozen and the allocation starts. -/
  | shareSnapshot
  /-- SHARE_APPLY (R293): At the apply mark, the grants are written and Setpoint events posted. -/
  | shareApply
  /-- PEER_FALLBACK (R301): 200 µs after the snapshot a peer's inputs are missing, and the device allocates its share only. -/
  | peerFallback
  /-- SITE_LIMIT_EXPIRY (R283): A command site limit's EXPIRY passes. -/
  | siteLimitExpiry
  /-- KITE_GRANT_EXPIRY (R304): A Kite grant passes 3 × PERIOD cycles, and the fallback applies. -/
  | kiteGrantExpiry
  /-- KITE_REPORT (R501): A Kite mark fires, and a share report is sent to the master. -/
  | kiteReport
  /-- SET_SITE_LIMIT (R305): Sets or clears the command site limit. -/
  | setSiteLimit (c : Cmd)
  /-- SET_REQUEST (R305): Sets the outlet's request. -/
  | setRequest (c : Cmd)
  /-- SET_PRIORITY (R305): Sets the claimant's priority and weight. -/
  | setPriority (c : Cmd)
  /-- READ_ALLOCATION (R305): Returns the outlet's grant. -/
  | readAllocation (c : Cmd)
  /-- PLC_FRAME_RECEIVED (R313): A station receives a frame and routes it. slac: the SLAC message it carries, where its MMTYPE is one of R313. -/
  | plcFrameReceived (o : Fin 128) (slac : Option SlacMsg) (bytes : List (BitVec 8))
  /-- SLAC_PARAM_REQ (R317): A CM_SLAC_PARAM.REQ opens a run with its candidates. heard: the stations that receive it. -/
  | slacParamReq (src : BitVec 48) (run : BitVec 64) (heard : List (Fin 128))
  /-- SOUNDING_WINDOW_CLOSE (R319): A run's sounding window closes, and the run is decided. -/
  | soundingWindowClose (src : BitVec 48) (run : BitVec 64)
  /-- PEER_SCORE_TIMEOUT (R324): 5 ms after the close, a peer's scores are missing, and the run is decided without them. -/
  | peerScoreTimeout (src : BitVec 48) (run : BitVec 64)
  /-- SLAC_MATCH_REQ (R320): A CM_SLAC_MATCH.REQ is accepted, and the station matches the vehicle. -/
  | slacMatchReq (o : Fin 128) (src : BitVec 48) (run : BitVec 64)
  /-- MATCH_TIMEOUT (R321): No accepted match within MATCH_T, so the run fails. -/
  | matchTimeout (src : BitVec 48) (run : BitVec 64)
  /-- VALIDATE_REQ (R325): A CM_VALIDATE.REQ is answered, or starts the toggle window. timer: the vehicle's timer value in ms; heard: the stations that receive it. -/
  | validateReq (src : BitVec 48) (run : BitVec 64) (timer : Nat) (heard : List (Fin 128))
  /-- TOGGLE_WINDOW_END (R325): The toggle window ends, and each station answers CM_VALIDATE.CNF. -/
  | toggleWindowEnd (src : BitVec 48) (run : BitVec 64)
  /-- COMMON_IMPULSE (R327): Marking on 8 or more stations within 10 µs invalidates the overlapping soundings. -/
  | commonImpulse (stations : List (Fin 128))
  /-- LEAVE_ASSOCIATION (R333): Ends the outlet's association. -/
  | leaveAssociation (c : Cmd)
  /-- TLS_SIGN (R332): Signs a digest with a TLS key slot. -/
  | tlsSign (c : Cmd)
  /-- READ_ASSOCIATION (R333): Returns the station's state. -/
  | readAssociation (c : Cmd)
  /-- TEMPERATURE_SOURCE (R351): The temperature source becomes faulty, or is restored after 1 s. -/
  | temperatureSource (o : Fin 128)
  /-- TONE_CORRELATION (R355): Every 1 s the tone ratio is computed, and the verification states are updated. -/
  | toneCorrelation (o : Fin 128) (l : Fin 8)
  /-- INCOMER_CHECK (R360): Every 10 s an internal reference checks the incomer chains. -/
  | incomerCheck (ch : Fin 8) (ppm : Int)
  /-- READ_VERIFICATION (R367): Returns a lane's verification state and DEV. -/
  | readVerification (c : Cmd)
  /-- TONE_CONTROL (R367): Enables or disables tone verification. -/
  | toneControl (c : Cmd)
  /-- RESTART_VERIFICATION (R367): Returns the lanes to PENDING. -/
  | restartVerification (c : Cmd)
  /-- COMMIT (R376): At each mains-cycle mark, the commit set is taken and written to the journal. fault: 0 the slot reads back well, 1 the write failed, 2 the read-back failed. -/
  | commit (fault : Fin 3)
  /-- BALANCE_EVALUATION (R388): 60 s after a window closes, the balance is evaluated and classed. -/
  | balanceEvaluation
  /-- PULSE_SEND (R383): An owed pulse is sent on a pulse output, with its pause. -/
  | pulseSend (k : Fin 8)
  /-- KEEP_BURST (R391): Once per second in Keep, incomer current is sampled and charge is accumulated. -/
  | keepBurst (rms : List Nat)
  /-- DECLARE_AUXILIARY (R393): Declares the auxiliary energy of a balance window. -/
  | declareAuxiliary (c : Cmd)
  /-- READ_ENERGY_REGISTER (R393): Energy Read register command, opcode 0x0511, which returns a committed energy register. -/
  | readEnergyRegister (c : Cmd)
  /-- RECORD_RELEASE (R415): A signed record is signed and released after its commit has been read back. -/
  | recordRelease
  /-- TAMPER_INPUT (R424): TAMP[k] reads high after at least 10 ms low, which is a tamper occurrence. -/
  | tamperInput (k : Fin 4)
  /-- READ_OBJECT (R431): Writes an object value block. -/
  | readObject (c : Cmd)
  /-- WRITE_OBJECT (R431): Writes an operator object. -/
  | writeObject (c : Cmd)
  /-- SELECT_PLAN (R431): Selects the outlet's tariff plan. -/
  | selectPlan (c : Cmd)
  /-- SIGN_READING (R431): Releases a KIND 3 signed reading. -/
  | signReading (c : Cmd)
  /-- ACKNOWLEDGE_RECORDS (R431): Acknowledges signed records up to REC_SEQ. -/
  | acknowledgeRecords (c : Cmd)
  /-- RECORD_WRITE (R444): A staged log record is written to keeping memory. -/
  | recordWrite (legal : Bool)
  /-- READ_RECORDS (R450): Copies log records without tearing. -/
  | readRecords (c : Cmd)
  /-- TAKE_SNAPSHOT (R450): Writes a Manual snapshot record. -/
  | takeSnapshot (c : Cmd)
  /-- PING (R453): A rising PING requests a reader engine. -/
  | ping (o : Fin 128)
  /-- TAG_POLL (R454): POLL_T expires, and a tag transaction is requested. -/
  | tagPoll (o : Fin 128)
  /-- ENGINE_GRANT (R455): A reader engine is granted and runs its transaction. -/
  | engineGrant (e : Fin 16)
  /-- TAG_REPLY (R468): A tag reply arrives, and the next transaction step runs. -/
  | tagReply (e : Fin 16) (bytes : List (BitVec 8))
  /-- CARD_RESPONSE (R456): A card answers polling or an exchange, and it is identified and decided. -/
  | cardResponse (e : Fin 16) (a : CardAnswer)
  /-- FIELD_COLLAPSE (R467): An answer is missing 2 ms after EOF, or its CRC_B fails twice. -/
  | fieldCollapse (e : Fin 16)
  /-- TRANSACTION_TIMEOUT (R454): A transaction reaches 200 ms and is ended. -/
  | transactionTimeout (e : Fin 16)
  /-- REQUEST_WAIT_LONG (R454): A request has waited 1 s for an engine, which sets WAIT_LONG. -/
  | requestWaitLong (o : Fin 128)
  /-- TAG_AGE_EXPIRY (R473): TAG_AGE passes without an authenticated read while the pilot is A. -/
  | tagAgeExpiry (o : Fin 128)
  /-- TABLE_SWITCH (R463): At the boundary mark, the shadow table becomes active. -/
  | tableSwitch
  /-- STORE_CHANGE_RECEIVED (R464): A forwarded store change is applied atomically per slot. -/
  | storeChangeReceived (seq : Nat) (slot : Nat) (bytes : List (BitVec 8))
  /-- STORE_RESYNCHRONISED (R464): A rejoining device copies the slots that differ from the peer with the higher STORE_SEQ. -/
  | storeResynchronised (src : Fin 4) (seq : BitVec 32) (slots : List (Nat × List (BitVec 8)))
  /-- STORE_SLOT (R477): Replaces one authorisation slot. -/
  | storeSlot (c : Cmd)
  /-- READ_SLOT (R477): Copies one slot to the host. -/
  | readSlot (c : Cmd)
  /-- BEGIN_SHADOW (R477): Clears the shadow MEMBER bits. -/
  | beginShadow (c : Cmd)
  /-- SWITCH_TABLE (R477): Schedules the table switch. -/
  | switchTable (c : Cmd)
  /-- BIND_CABLE (R477): Binds or unbinds the cable tag identity. -/
  | bindCable (c : Cmd)
  /-- READ_TAG (R477): Runs a tag transaction. -/
  | readTag (c : Cmd)
  /-- KITE_FRAME_RECEIVED (R489): A Kite frame is verified, forwarded or delivered. -/
  | kiteFrameReceived (r : KiteRx)
  /-- CONTENTION_SLOT (R486): The medium is idle and the chosen slot arrives, so a frame starts. -/
  | contentionSlot
  /-- ACK_TIMEOUT (R488): No ACK within 10 ms is a missed ACK, and the frame is retried or abandoned. -/
  | ackTimeout
  /-- HELLO_TIMER (R494): Every 10 s the node sends a HELLO. -/
  | helloTimer
  /-- NEIGHBOUR_LOST (R494): 35 s without a frame from a neighbour loses it. -/
  | neighbourLost (n : Fin 64)
  /-- TIME_BROADCAST (R502): Every 60 s a time source sends TIME. -/
  | timeBroadcast
  /-- NODE_REPLACEMENT (R504): 1 s passes with no frame from the old serial, so the new serial replaces it. -/
  | nodeReplacement (n : Fin 64)
  /-- PROBE_NODE (R505): Sends ECHO_REQ and times the round trip. -/
  | probeNode (c : Cmd)
  /-- CLEAR_PENALTY (R505): Removes a link penalty. -/
  | clearPenalty (c : Cmd)
  /-- DOMINO_RETRY (R599): Every 60 s an unreachable DOMINO_NEXT is retried. -/
  | dominoRetry
  /-- TIE_FRAME_RECEIVED (R508): A tie frame arrives and is delivered in order. -/
  | tieFrameReceived (p : Fin 4) (retries : Nat) (m : TieMsg)
  /-- TIE_PORT_DOWN (R508): Failed transmissions or 2 µs of silence take a tie port down, and it retrains. -/
  | tiePortDown (p : Fin 4)
  /-- TIE_PORT_UP (R510): A retrained tie port exchanges identities, and it is taken into use or refused for a mismatch. -/
  | tiePortUp (p : Fin 4) (x : TiePeer)
  /-- MAINS_TIME_TRANSFER (R512): Every 10 µs the time master sends mains time to its followers. -/
  | mainsTimeTransfer
  /-- ROLE_DECISION (R514): A JOINING device decides its role after waiting for the pair link. -/
  | roleDecision
  /-- HEARTBEAT_TIMEOUT (R521): The heartbeat and HOLDING conditions declare the partner lost, or the pair link down. -/
  | heartbeatTimeout
  /-- WITHDRAWAL_NOTICE (R521): A partner's withdrawal notice arrives. -/
  | withdrawalNotice
  /-- TAKEOVER (R524): The standby claims the outlets, adopts the rings and resumes. -/
  | takeover
  /-- FOREIGN_EPOCH (R523): An active device sees another EPOCH for 10 µs, and the lane goes to LISTEN. -/
  | foreignEpoch (l : Fin 128)
  /-- JOIN (R529): A joining device copies state and becomes READY standby. -/
  | join (version : BitVec 32) (fwMajor : Nat) (copy : List (Nat × List Nat))
  /-- HANDOVER (R530): The active device hands its role to the standby. -/
  | handover
  /-- HAND_OVER (R533): Command that starts a handover. -/
  | handOver (c : Cmd)
  /-- READ_PAIR_STATE (R533): Returns role, READY and link state. -/
  | readPairState (c : Cmd)
  /-- READ_TALLY (R533): Returns a tally class's state. -/
  | readTally (c : Cmd)
  /-- CLEAR_TALLY (R533): Frees a tally class's entries. -/
  | clearTally (c : Cmd)
  /-- LOAD_KEY (R543): Copies STAGE into a key slot. -/
  | loadKey (c : Cmd)
  /-- ERASE_KEY (R549): Empties a key slot. -/
  | eraseKey (c : Cmd)
  /-- GENERATE_KEY (R549): Generates a TLS key. -/
  | generateKey (c : Cmd)
  /-- READ_PUBLIC_KEY (R549): Returns a slot's public key. -/
  | readPublicKey (c : Cmd)
  /-- BEGIN_CREDENTIAL (R546): Writes a credential challenge. -/
  | beginCredential (c : Cmd)
  /-- PROVE_CREDENTIAL (R546): Verifies the response and grants the role to the ring. -/
  | proveCredential (c : Cmd)
  /-- CHALLENGE_EXPIRY (R546): A credential challenge expires after 60 s. -/
  | challengeExpiry
  /-- RANDOM_SOURCE_FAULT (R547): A health test fails, and the generator reseeds. -/
  | randomSourceFault
  /-- LIMITING_EXPIRY (R554): Limiting lasts SPACING, which is an over-current event and turns the channel off. -/
  | limitingExpiry (k : Fin 32)
  /-- RETRY_SPACING_END (R554): SPACING off elapses, and the channel retries or is latched. -/
  | retrySpacingEnd (k : Fin 32)
  /-- BANK_UNDERVOLTAGE (R555): VBANK_OK changes, and the bank's SPACING timers are suspended or resumed. -/
  | bankUndervoltage (b : Fin 4) (mv : Nat)
  /-- THERMAL_SHUTDOWN (R556): A channel junction reaches 150 °C or 170 °C. -/
  | thermalShutdown (k : Fin 32) (temp : BitVec 16)
  /-- WATCHDOG_EXPIRY (R557): A refresh source expires, and its outputs take their fail-safe states. -/
  | watchdogExpiry (src : Fin 3)
  /-- WATCHDOG_RESTORED (R558): A refresh source refreshes again. -/
  | watchdogRestored (src : Fin 3)
  /-- DISPLAY_UPDATE (R560): A display update pass drives each changed common through its waveform. -/
  | displayUpdate
  /-- BLINK (R563): Every BLINK_T the marked segments are reversed. -/
  | blink
  /-- CRACK_PULSE (R564): The per-second crack-loop pulse is checked. -/
  | crackPulse (returned : Bool)
  /-- SET_LOAD_CHANNELS (R567): Switches the masked channels. -/
  | setLoadChannels (c : Cmd)
  /-- CLEAR_LATCH (R567): Clears channel latches. -/
  | clearLatch (c : Cmd)
  /-- WRITE_OPERATOR_AREA (R567): Updates the operator area of the display. -/
  | writeOperatorArea (c : Cmd)
  /-- SET_LEGAL_VIEW (R567): Chooses the outlet shown in the legal area. -/
  | setLegalView (c : Cmd)
  /-- REDRAW (R567): Full clear and redraw of the display. -/
  | redraw (c : Cmd)
  /-- DOMAIN_DROP (R572): A domain without a vote for DROP_HOLD is dropped. -/
  | domainDrop (d : Fin 19)
  /-- DOMAIN_RAISE (R573): A vote raises a dropped domain; a raise that fails twice is a domain fault. raised: within its bound, at the first attempt or the retry. -/
  | domainRaise (d : Fin 19) (raised : Bool)
  /-- WAKE (R578): An enabled wake source leaves Hub-Quiet. -/
  | wake (source : Fin 9) (detail : BitVec 8)
  /-- RTC_ALARM (R580): Legal seconds reach ALARM, and the alarm fires once. -/
  | rtcAlarm
  /-- WAKE_RELEASE (R582): WAKE# is released when the link returns to L0, or after 1 s. -/
  | wakeRelease
  /-- ENTER_QUIET (R576): Enters Hub-Quiet. -/
  | enterQuiet (c : Cmd)
  /-- LEAVE_QUIET (R585): Leaves Hub-Quiet. -/
  | leaveQuiet (c : Cmd)
  /-- WRITE_IMAGE_BLOCK (R605): Writes image data into a slot. -/
  | writeImageBlock (c : Cmd)
  /-- VERIFY_IMAGE (R590): Checks a written slot. -/
  | verifyImage (c : Cmd)
  /-- ACTIVATE_FIRMWARE (R592): Starts a firmware trial. -/
  | activateFirmware (c : Cmd)
  /-- CONFIRM_FIRMWARE (R605): Confirms an application trial. -/
  | confirmFirmware (c : Cmd)
  /-- REVERT_FIRMWARE (R595): Swaps ACTIVE and PREVIOUS by hand. -/
  | revertFirmware (c : Cmd)
  /-- TRIAL_CONFIRMED (R594): A trial's conditions are met, and the slot becomes ACTIVE. -/
  | trialConfirmed (t : Fin 3)
  /-- FALL_BACK (R595): A failed or timed-out trial falls back to PREVIOUS. timeout: CONFIRM_T elapses with a condition unmet; otherwise a condition has failed. -/
  | fallBack (t : Fin 3) (timeout : Bool)
  /-- ACTIVATE_CONFIGURATION (R601): Checks an image and schedules its activation. -/
  | activateConfiguration (c : Cmd)
  /-- CONFIGURATION_ACTIVATION (R601): The activation mark fires, and the image becomes ACTIVE. -/
  | configurationActivation
  /-- CONFIRM_CONFIGURATION (R605): Confirms an activation. -/
  | confirmConfiguration (c : Cmd)
  /-- REVERT_CONFIGURATION (R604): Yo-yo to the PREVIOUS image. -/
  | revertConfiguration (c : Cmd)
  /-- AUTOMATIC_YO_YO (R604): CFG_CONFIRM_T passes without a confirmation. -/
  | automaticYoYo
  /-- DOMINO_SEND (R598): Starts a domino chain. -/
  | dominoSend (c : Cmd)
  /-- ENTER_RECOVERY (R597): Enters the recovery monitor. -/
  | enterRecovery (c : Cmd)
  /-- READ_SLOTS (R605): Returns the image slot states. -/
  | readSlots (c : Cmd)
  /-- DUMP (R612): Every DUMP_MS the counters are latched and written to the DMP ring. -/
  | dump
  /-- SAMPLE (R613): The sample down-counter reaches 0, and a sample entry is written. -/
  | sample (g : Fin 8) (n : Fin 8)
  /-- BANDWIDTH_WINDOW_END (R611): A bandwidth window ends, and LAST and PEAK are updated. -/
  | bandwidthWindowEnd (m : Fin 8)
  /-- DUMP_NOW (R615): Writes one dump at once. -/
  | dumpNow (c : Cmd)
  /-- CLEAR_COUNTERS (R615): Clears the named counters. -/
  | clearCounters (c : Cmd)
  /-- VIN_RETURN_LEAVING_KEEP (R575): VIN returns while the module is in Keep, and the module follows the insertion table from step 6 and records wake source 1. The straps as they read, and the step of R272 at which the guard test fails (0 = it passes). -/
  | vinReturnLeavingKeep (vin : Nat) (slot : BitVec 2) (side : Bool) (dbg : Bool) (guardFail : Fin 5)
  /-- STAGE_BREAK (R37): During withdrawal the stage-3 and then stage-2 contacts break, releasing the signal contacts and leaving the module unpowered, VBAT included. -/
  | stageBreak (stage : Fin 5)
  /-- INDEX_BUILT (R460): The authorisation-store index rebuild after power-on completes, READY is set and waiting lookups are served. -/
  | indexBuilt
  /-- LIMITING_CHANGE (R554): A load channel's current reaches the 8 A limit and it starts limiting, or the current falls below 7 A and limiting ends. -/
  | limitingChange (k : Fin 32) (limiting : Bool)
  /-- RETRY_COUNT_RESET (R554): A channel has been on for 1 s without limiting, and its retry count returns to 0. -/
  | retryCountReset (k : Fin 32)
  /-- CHANNEL_COOLED (R556): A thermally shut-down channel's junction falls below 150 °C, so it may switch on again once SPACING has elapsed. -/
  | channelCooled (k : Fin 32)
  /-- SERVICE_UART_COMMAND (R597): A command arrives on the service UART in recovery mode and is served under the Service role. -/
  | serviceUartCommand (d : List (BitVec 32)) (data : List (BitVec 8))
  /-- STATION_TX_DROP (R314): A station drops a host frame whose physical blocks still fail after 8 attempts, counts it in TX_DROP and reports Frames lost. -/
  | stationTxDrop (o : Fin 128)
  /-- RANDOM_SOURCE_RESTORED (R547): The reseed after a health-test failure completes, RNG_OK returns to 1 and the Random source event is posted as restored. -/
  | randomSourceRestored
deriving DecidableEq, Repr

end Sys2Proof
end

