-- ==== Sys2Proof/Config.lean ====
section
/-! DEFINITION. What an implementation fixes and the spec leaves open: the free values, constants without a body, so
that no proof can see what they are (assumption log 4). -/

namespace Sys2Proof

/-- A free value of 64 bits: the n-th value the spec leaves open (log 4). -/
opaque Config.free : Nat → BitVec 64

/-- A draw of the random generator of R547, as 256 bits: the n-th draw (log 4). -/
opaque Config.random : Nat → BitVec 256

/-- The PCI-SIG vendor ID of Renquin Microsystems, which R125 does not give (log 79). -/
opaque Config.vendorId : BitVec 16

/-- The public keys held in ROM: 0 Service credential, 1 test Operator, 2 test Custodian, 3 test Legal, 4 test Service credential
(R546, R548); 5 firmware root, 6 its test root, 7 safety root, 8 its test root, 9 test root of configuration images (R548, R589,
R590). The spec gives no value (log 4). -/
opaque Config.romKey : Nat → BitVec 256 × BitVec 256

/-- Whether the certificate chain, profile conformance and factory data of front-end hardware are accepted is decided
outside the block; the constant of R619's own COMPAT byte is here (log 4). -/
opaque Config.compat : BitVec 8

/-- The segments of the legal area in the display layout of a legal section (R562); the spec gives the layout no encoding, so it
stands as an open function of the section's CRC (log 72). -/
opaque Config.legalArea : BitVec 32 → BitVec 384

/-- The glyphs by which that layout shows the content of R430, given as: outlet in view, display forms of its billing import and of
its open session's import, tariff index, and the four marks (log 72). -/
opaque Config.legalGlyphs : BitVec 32 → List Nat → BitVec 384

/-- The entries of a local-time table (START, OFFSET, DST) in the bytes of its section (R83, R600); the spec gives the section no
layout (log 73). -/
opaque Config.localTable : List (BitVec 8) → List (Nat × Int × Bool)

/-- The selections and trigger entries of a recorder section in its bytes, word by word (R442, R600); the spec gives the lists no
layout (log 73). -/
opaque Config.recorderSection : List (BitVec 8) → List (List (BitVec 32)) × List (BitVec 32)

/-- Tap i of the 181-tap linear-phase FIR of stage 6 in 2^-23, for i up to 90; the other half mirrors it (R336, R337); the spec gives its
figures and no coefficients (log 134). -/
opaque Config.firTap : Nat → Int

/-- The fractional-delay filter of stage 8 (R346): the value, at a delay in ns, of a lane whose samples at 8 kS/s are given newest first
(log 134). -/
opaque Config.fracDelay : List Int → Int → Int

/-- What the integrator of R341 deviates in gain (2^-30, 2^30 = none) and in delay (ns) from the ideal response, at a frequency in
0.001 Hz (log 134). -/
opaque Config.integratorGain : Nat → Int
/-- See `Config.integratorGain`. -/
opaque Config.integratorDelay : Nat → Int

/-- The fundamental that the tracking band-pass of R361 finds at a frequency (0.001 Hz) in the samples of a cycle with their times, newest
first: its rms magnitude, and the tick of its positive-going crossing (log 134). -/
opaque Config.fundamental : Nat → List (Nat × Int) → Nat × Nat

/-- The pattern of the plain chips of a lane, given with their application times, as the nominal injection filter, stage 2 and the nominal
level show it at a sampling time, in 2^-22 (R355; log 134). -/
opaque Config.injected : List (Nat × BitVec 8) → Fin 8 → Nat → Int

/-- The band-pass from 10 kHz to 32 kHz on samples at 80 kS/s, newest first (R355; log 134). -/
opaque Config.bandPass : List Int → List Int

/-- The temperature of the interface die in 0.01 °C at a tick (R348); no command brings it (log 135). -/
opaque Config.dieTemp : Nat → Int

/-- Sample i of the Green PHY waveform that the slice sends on a lane from a tick on (R102): HomePlug Green PHY is outside the spec
(log 39). -/
opaque Config.gptSample : Fin 128 → Nat → Nat → BitVec 10

/-- Of a reader transaction on an outlet, in the frame of a tick (R102): whether the depth is 100 %, the chip count (0 to 2) and the
modulation chips; their coding is that of ISO/IEC 14443 (log 39). -/
opaque Config.rdrChips : Fin 128 → Nat → Bool × BitVec 2 × BitVec 2

end Sys2Proof
end

