-- ==== Sys2Proof/Machine/State.lean ====
section
/-! DEFINITION. The state of the block: every register, queue, buffer, counter and mode the spec gives it, as plain
data, and the queue of commands that wait. Each field's comment names the rule and the file of spec/ it comes from and
its reset value; INVENTORY.md lists the same. -/

namespace Sys2Proof.Machine

/-- Why the block stops with a fault. The spec gives the block no halting fault; no meaning answers one. -/
inductive Fault where
  /-- Nobody raises it: every condition the spec describes is an effect on the state. Safe. -/
  | none
deriving DecidableEq, Repr

/-- Why a command is refused. -/
inductive Refusal where
  /-- The command has no meaning in this model yet. Raised by `exec` alone; safe. -/
  | notModelled (mnemonic : String)
deriving DecidableEq, Repr

/-- What the module as a whole is doing (R36 to R41): the columns of the output-state table, normal running, and unpowered after a completed removal. -/
inductive Phase where
  /-- Contacts making, or seated and waiting (R36 steps 1 to 5); the always-on domain only -/
  | inserting
  /-- Dies powered, power-on reset held (R36 step 6, R40) -/
  | powerOnReset
  /-- Power-on reset released -/
  | running
  /-- The service domain is in reset (R119) -/
  | serviceReset
  /-- The removal sequence of R37 is running -/
  | removal
  /-- The removal sequence has completed while the module stays seated (R38) -/
  | unpowered
  /-- VIN absent; the always-on domain runs from VBAT (R577) -/
  | keep
deriving DecidableEq, Repr

/-- R65: state of the angle clock. -/
inductive MainsState where
  /-- R65 ACQUIRE (0) -/
  | acquire
  /-- R65 LOCKED (1) -/
  | locked
  /-- R65 COAST (2) -/
  | coast
deriving DecidableEq, Repr

/-- R80: validity of legal time. -/
inductive LegalState where
  /-- R80 UNSYNC (0) -/
  | unsync
  /-- R80 SYNCED (1) -/
  | synced
  /-- R80 AGED (2) -/
  | aged
deriving DecidableEq, Repr

/-- R75: who set a shared mark; the constructors stand in firing order. -/
inductive MarkOwner where
  /-- Safety island -/
  | safety
  /-- Legal island -/
  | legal
  /-- A sequencer command with AT (the contexts' own marks are reserved ones, R73) -/
  | sequencer
  /-- Share engine -/
  | share
  /-- Kite -/
  | kite
  /-- Configuration activation -/
  | config
  /-- Cluster and pair logic -/
  | cluster
deriving DecidableEq, Repr

/-- R89: state of a string lane. -/
inductive LinkState where
  /-- R89 DOWN (0) -/
  | down
  /-- R89 TRAIN (1) -/
  | train
  /-- R89 IDLE (2) -/
  | idle
  /-- R89 ATTACH (3) -/
  | attach
  /-- R89 UP (4) -/
  | up
  /-- R89 LISTEN (5) -/
  | listen
  /-- R89 SLACK (6) -/
  | slack
deriving DecidableEq, Repr

/-- R108: where an attach stands. -/
inductive AttachStep where
  /-- No attach is running -/
  | none
  /-- CHALLENGE sent, PROOF awaited -/
  | challenged
  /-- CONFIRM and PARAM sent, PARAM_ACK awaited -/
  | confirmed
deriving DecidableEq, Repr

/-- R202 SET_PILOT: what the pilot follows. -/
inductive PilotSel where
  /-- Steady +12 V -/
  | x1
  /-- Follows the effective limit (R219) -/
  | limit
  /-- MODE 1 at 5.0 % -/
  | digital
  /-- Steady -12 V -/
  | f
deriving DecidableEq, Repr

/-- R269: state of an axis. -/
inductive AxisState where
  /-- R269 STO (0) -/
  | sto
  /-- R269 RELEASED (1) -/
  | released
  /-- R269 SS1 (2) -/
  | ss1
deriving DecidableEq, Repr

/-- R192 FBP_CAN_STAT.STATE. -/
inductive CanState where
  /-- Error active (0) -/
  | active
  /-- Error passive (1) -/
  | passive
  /-- Bus-off (2) -/
  | busOff
deriving DecidableEq, Repr

/-- R4: the roles that can hold a command ring, by the codes of RNG_CTL.ROLE (R169). -/
inductive Role where
  /-- 1 -/
  | host
  /-- 2 -/
  | operator
  /-- 3 -/
  | custodian
  /-- 4 -/
  | legal
  /-- 5 -/
  | service
deriving DecidableEq, Repr

/-- R16 to R51, R58: the GLB block, the seating, the straps, the supplies and the always-on latches. -/
structure Glb where
  /-- R36, R37, R41 01. the module's condition; the model's reset state is the machine right after R36 step 7. -/
  phase : Phase := .running
  /-- R36 01. the model's own: the work of the release (straps, keeping memory, guard test) is still to be done; DESIGN CHOICE 1. -/
  porDue : Bool := true
  /-- R19, R36 01. mating stages made. -/
  stage : Nat := 4
  /-- R30, R42 01 GLB_STRAP.SLOT. DESIGN CHOICE 0 (the straps are the board's), log 3. -/
  slot : BitVec 2 := 0
  /-- R30, R42 01 GLB_STRAP.SIDE. DESIGN CHOICE 0, log 3. -/
  side : Bool := false
  /-- R30, R42 01 GLB_STRAP.DBG. DESIGN CHOICE 0, log 3. -/
  dbg : Bool := false
  /-- R31, R42 01 GLB_STRAP.SLOT_LIVE. DESIGN CHOICE 0, log 3. -/
  slotLive : BitVec 2 := 0
  /-- R31, R42 01 GLB_STRAP.SIDE_LIVE. DESIGN CHOICE 0, log 3. -/
  sideLive : Bool := false
  /-- R29 01. DESIGN CHOICE 0, log 3. -/
  dbgLive : Bool := false
  /-- R31, R42 01 GLB_STRAP.MISMATCH. reset 0. -/
  mismatch : Bool := false
  /-- R34, R42 01 GLB_SEAT.SEAT. reset 0xF. -/
  seat : BitVec 4 := 0xF
  /-- R34 01. tick at which all four contacts last became low; DESIGN CHOICE 0. -/
  seatLowSince : Nat := 0
  /-- R38 01. tick at which all four contacts last became high after a removal; reset none. -/
  seatHighSince : Option Nat := none
  /-- R44, R45, R46 02. VIN at the module; DESIGN CHOICE 24,000 (typical), log 3. -/
  vin : Nat := 24000
  /-- R45, R42 01 GLB_SEAT.VIN_OK. reset 1. -/
  vinOk : Bool := true
  /-- R48, R555 02. supplies VBANK0 to VBANK3 as last seen; DESIGN CHOICE 0. -/
  vbank : Vector Nat 4 := Vector.replicate 4 0
  /-- R48, R42 01 GLB_SEAT.VBANK_OK. reset 0. -/
  vbankOk : BitVec 4 := 0
  /-- R42 01 GLB_SEAT.SEAT_GLITCH. reset 0. -/
  seatGlitch : Bool := false
  /-- R31 01. tick of the last once-per-second comparison of the straps; DESIGN CHOICE 0. -/
  strapAt : Nat := 0
  /-- R37, R38 01. tick at which the removal sequence started; DESIGN CHOICE 0. -/
  removalAt : Nat := 0
  /-- R37, R40 01. the removal sequence runs from power-on reset: the powered clocks stand; DESIGN CHOICE 0. -/
  removalHeld : Bool := false
  /-- R50 02. tick at which Keep was entered, from which its 125 ms samples count; DESIGN CHOICE 0. -/
  keepAt : Nat := 0
  /-- R575, R581 20. VIN has returned in Keep and the power-up that follows is still to be made; reset 0. -/
  leftKeep : Bool := false
  /-- R42 01, R438 14. kept in the operations log; DESIGN CHOICE 0. -/
  seatGlitchCount : Nat := 0
  /-- R45 02. power-fail warning raised; DESIGN CHOICE 0. -/
  powerFail : Bool := false
  /-- R36, R39 01. steps 6 to 8 of an insertion are under way: the dies are powered and PERST# has not been released since; DESIGN CHOICE 0. -/
  insertion : Bool := false
  /-- R36, R40 01. PERST# asserted; DESIGN CHOICE released. -/
  perst : Bool := false
  /-- R40 01. CAB_RST# held low; DESIGN CHOICE released. -/
  cabRst : Bool := false
  /-- R41 01, R58 02, R263 08. MOD_FAULT# driven low by a lasting fault; DESIGN CHOICE 0. -/
  modFault : Bool := false
  /-- R58 02. the 110 degree report stands; DESIGN CHOICE 0. -/
  junctionHot : Bool := false
  /-- R47 02. always-on low-battery flag; DESIGN CHOICE 0. -/
  lowBattery : Bool := false
  /-- R47 02. always-on clock-loss mark; DESIGN CHOICE 0. -/
  clockLoss : Bool := false
  /-- R46 02. the always-on domain runs from VBAT; DESIGN CHOICE 0. -/
  aonOnBattery : Bool := false
deriving DecidableEq, Repr

/-- R73 to R76: a pending shared mark. The contexts' reserved marks stand in Ctx. -/
structure Mark where
  /-- R75 owner -/
  owner : MarkOwner
  /-- mains time (R8), 64 bits -/
  value : Nat
  /-- late policy of R76: true = NEXT, false = FIRE -/
  next : Bool
  /-- what the owner set it for (a command key, or 0) -/
  ref : Nat
  /-- R76 the mark fired late -/
  late : Bool
deriving DecidableEq, Repr

/-- R83: one entry of the local-time table. -/
structure LocalEntry where
  /-- 40 bits, legal seconds -/
  start : Nat
  /-- -56 to 56, units of 15 min -/
  offset : Int
  /-- daylight saving in force -/
  dst : Bool
deriving DecidableEq, Repr

/-- R8, R59 to R88: the TIM block and the clocks it keeps. -/
structure Tim where
  /-- R62 03. reset 0. -/
  tick : Nat := 0
  /-- R8 00, R77 03. reset 0 (a device with no committed count starts at cycle 0). -/
  mains : Nat := 0
  /-- R74 03. the model's own: fraction of an angle unit, in 10^-14; DESIGN CHOICE 0. -/
  mainsRem : Nat := 0
  /-- R8 00, R78 03. DESIGN CHOICE 0. -/
  legal : Nat := 0
  /-- R78 03. the model's own: fraction of a legal unit, in 10^-11; DESIGN CHOICE 0. -/
  legalRem : Nat := 0
  /-- R88 03 TIM_CFG.NOMINAL. reset 0. -/
  nominal60 : Bool := false
  /-- R63, R88 03 TIM_CFG.SOURCE. reset 0. -/
  source : Bool := false
  /-- R88 03 TIM_CFG.LOCK. reset 0. -/
  lock : Bool := false
  /-- R65, R88 03 TIM_STATUS.MAINS_STATE. reset 0 ACQUIRE. -/
  mainsState : MainsState := .acquire
  /-- R68, R88 03 TIM_STATUS.OUT_OF_RANGE. reset 0. -/
  outOfRange : Bool := false
  /-- R61 03. tick at which the reference was declared lost; DESIGN CHOICE 0. -/
  refLostAt : Nat := 0
  /-- R68 03. tick of the last valid crossing of the source; DESIGN CHOICE 0. -/
  lastCross : Nat := 0
  /-- R61, R88 03 TIM_STATUS.REF_HOLDOVER. reset 0. -/
  refHoldover : Bool := false
  /-- R80, R88 03 TIM_STATUS.LEGAL_STATE. reset 0 UNSYNC. -/
  legalState : LegalState := .unsync
  /-- R81, R88 03 TIM_STATUS.SLEWING. reset 0. -/
  slewing : Bool := false
  /-- R81 03. offset a slew still has to remove. -/
  slewLeft : Int := 0
  /-- R81 03. the model's own: legal time and its slew right after each adjustment, newest first, so that legal time at an earlier tick is known; none at reset. -/
  legalHist : List (Nat × Nat × Nat × Int × Nat) := []
  /-- R81 03. the model's own remainder of the slew, in 10^-11. -/
  slewRem : Nat := 0
  /-- R80 03. age of the last accepted synchronisation. -/
  syncAgeTicks : Nat := 0
  /-- R88 03 TIM_STATUS.MAINS_LOST. reset 0. -/
  mainsLostF : Bool := false
  /-- R88 03 TIM_STATUS.PHASE_STEP. reset 0. -/
  phaseStepF : Bool := false
  /-- R88 03 TIM_STATUS.LEGAL_STEP. reset 0. -/
  legalStepF : Bool := false
  /-- R88 03 TIM_STATUS.REF_LOST. reset 0. -/
  refLostF : Bool := false
  /-- R88 03 TIM_STATUS.PHASE_CHANGE. reset 0. -/
  phaseChangeF : Bool := false
  /-- R88 03 TIM_SNAP_TICK. reset 0. -/
  snapTick : Nat := 0
  /-- R88 03 TIM_SNAP_MAINS. reset 0. -/
  snapMains : Nat := 0
  /-- R88 03 TIM_SNAP_LEGAL. reset 0. -/
  snapLegal : Nat := 0
  /-- R88 03 TIM_FREQ. reset 50,000; the measured frequency while LOCKED. -/
  freq : Nat := 50000
  /-- R70 03. the running angle holds still until the true angle has caught up. -/
  angleHold : Nat := 0
  /-- R67 03. phase error still to be closed in LOCKED. -/
  angleErr : Int := 0
  /-- R73 03. shared pending marks; none at reset. -/
  marks : List Mark := []
  /-- R83 03. active local-time table; R600 default. -/
  localTab : List LocalEntry := [⟨0, 0, false⟩]
  /-- R84 03. the local-table-end event has been posted for this activation or power-up. -/
  localEndPosted : Bool := false
deriving DecidableEq, Repr

/-- R71, R72: an outlet's phase class and its run of cycles. -/
structure PhaseRun where
  /-- R72, R88 03 TIM_OUTLET_PHASE.PH. reset 0. -/
  cls : BitVec 2 := 0
  /-- R72 03. class of the running window. -/
  cand : BitVec 2 := 0
  /-- R72 03. consecutive cycles in that window. -/
  count : Nat := 0
deriving DecidableEq, Repr

/-- R89 to R124: one string lane. -/
structure Lane where
  /-- R123 04 STR_LANE_CTL.WD_WINDOW. reset 0. -/
  wdWindow : Nat := 0
  /-- R123 04 STR_LANE_CTL.EN. reset 0. -/
  en : Bool := false
  /-- R123 04 STR_LANE_CTL.OPEN_CONFIRM. reset 0. -/
  openConfirm : Nat := 0
  /-- R89, R123 04 STR_LANE_STATUS.LINK_STATE. reset 0 DOWN. -/
  link : LinkState := .down
  /-- R90 04. training step reached; 0 = not training. -/
  trainStep : Nat := 0
  /-- R90, R123 04 STR_LANE_STATUS.RTT. reset 0. -/
  rtt : Nat := 0
  /-- R123 04 STR_LANE_STATUS.CRC_BURST. reset 0. -/
  crcBurst : Bool := false
  /-- R123 04 STR_LANE_STATUS.ATTACH_FAIL. reset 0. -/
  attachFail : Bool := false
  /-- R123 04 STR_LANE_STATUS.SLACK_SEEN. reset 0. -/
  slackSeen : Bool := false
  /-- R123 04 STR_LANE_STATUS.EPOCH_CONFLICT. reset 0. -/
  conflictF : Bool := false
  /-- R96, R123 04 STR_LANE_CRC_ERR.COUNT. reset 0. -/
  crcErr : BitVec 32 := 0
  /-- R123 04 STR_LANE_EPOCH.EPOCH. reset 0. -/
  epoch : BitVec 32 := 0
  /-- R98, R115 04. NO_COND as last reported; DESIGN CHOICE 1. -/
  noCond : Bool := true
  /-- R93 04. FRAME_NO of the next downlink frame; DESIGN CHOICE 0. -/
  downNo : BitVec 16 := 0
  /-- R353 11. wraps of FRAME_NO since the adopted claim. -/
  downWraps : Nat := 0
  /-- R119 04. frames are sent with HOLD = 1. -/
  hold : Bool := false
  /-- R97, R119, R37 04. frames are not being sent on this lane. -/
  stopped : Bool := false
  /-- R108 04. where an attach stands. -/
  attach : AttachStep := .none
  /-- R108 04. tick of the HELLO. -/
  attachAt : Nat := 0
  /-- R106 04. nonce of the front-end. -/
  nf : BitVec 128 := 0
  /-- R106 04. nonce of the device. -/
  nd : BitVec 128 := 0
  /-- R106 04. SERIAL of the attached front-end. -/
  serial : BitVec 64 := 0
  /-- R108, R113 04. epoch offered in the CHALLENGE. -/
  offered : BitVec 32 := 0
  /-- R107 04. session key of the port. -/
  ks : BitVec 128 := 0
  /-- R115 04. WD_WINDOW in force at the front-end (last PARAM; 50 when none). -/
  paramWd : Nat := 50
  /-- R116 04. OPEN_CONFIRM of the last PARAM. -/
  paramOpen : Nat := 100
  /-- R109 04. refused attaches of the last 10 s. -/
  refusals : List Nat := []
  /-- R109 04. end of the 10 s hold-off. -/
  holdoffUntil : Option Nat := none
  /-- R105 04. mailbox message sent and not answered. -/
  mbWait : Option MbMsg := none
  /-- R105 04. repeats of that message. -/
  mbRepeats : Nat := 0
  /-- R105 04. tick of its last sending. -/
  mbSentAt : Nat := 0
  /-- R105 04. mailbox slots that wait for a downlink frame. -/
  mbOut : List MbSlot := []
  /-- R105 04. a message coming in: its MB_TYPE, the next SEG and the payload so far; reset none. -/
  mbIn : Option (BitVec 8 × Nat × List (BitVec 8)) := none
  /-- R105, R106 04. a complete message that has come in and is not worked yet; reset none. -/
  mbRx : Option MbMsg := none
  /-- R93 04. FRAME_NO expected in the next uplink frame; none until one has come since the training. -/
  upNo : Option (BitVec 16) := none
  /-- R106 04. lanes present, from HELLO; DESIGN CHOICE 0. -/
  lanesPresent : BitVec 8 := 0
  /-- R102, R110 04. the conductor epoch, as claimed by this side or mirrored by the active one; DESIGN CHOICE 0. -/
  condEpoch : BitVec 32 := 0
  /-- R201 07. the lane has been UP since power-on. -/
  wasUp : Bool := false
  /-- R101 04. last STATUS; DESIGN CHOICE all 0. -/
  status : StatusWord := StatusWord.zero
  /-- R101 04. a STATUS has been received since power-on. -/
  statusSeen : Bool := false
  /-- R91, R339 04. tick of the last good uplink frame. -/
  lastFrameAt : Nat := 0
  /-- R239 04. ticks of the frames missing in the last 1 ms. -/
  missed : List Nat := []
  /-- R91 04. ticks of the frames that failed their CRC in the last 1 ms. -/
  crcFails : List Nat := []
  /-- R239 08. tick of the last missing frame. -/
  lastMissAt : Nat := 0
  /-- R523 17. since when another EPOCH has been seen. -/
  foreignSince : Option Nat := none
  /-- R514 17. since when STATUS or the uplink has read NO_COND = 1 or HOLDING = 1. -/
  freeSince : Option Nat := none
deriving DecidableEq, Repr

/-- R123: the STR block's own registers. -/
structure Str where
  /-- R123 04 STR_STATUS.ANY_DOWN. reset 0. -/
  anyDown : Bool := false
  /-- R123 04 STR_STATUS.ANY_SLACK. reset 0. -/
  anySlack : Bool := false
  /-- R123 04 STR_STATUS.ANY_CONFLICT. reset 0. -/
  anyConflict : Bool := false
  /-- R123 04 STR_STATUS.ANY_REFUSED. reset 0. -/
  anyRefused : Bool := false
deriving DecidableEq, Repr

/-- R142, R145: how far a fetched command has come. -/
inductive CmdPhase where
  /-- AT is not 0 and its mark has not fired -/
  | waitMark
  /-- It may take effect as soon as the order of R142 allows -/
  | ready
  /-- Its effect has begun, and its completion is still owed -/
  | started
  /-- Its effect is visible; its completion waits for the events it caused, or for every event posted before upTo (R161, R168) -/
  | done (status : BitVec 8) (result : BitVec 32) (upTo : Option Nat)
deriving DecidableEq, Repr

/-- R141 to R146: a command in flight. -/
structure CmdRec where
  /-- the descriptor -/
  cmd : Cmd
  /-- how far it has come -/
  phase : CmdPhase
  /-- R145 its mark was late -/
  late : Bool
  /-- last event it caused that was written (R147) -/
  lastGseq : Option (BitVec 32)
  /-- Signal: the safety island refused an action (R227) -/
  refused : Bool
  /-- the outlet it acts on (R142) -/
  outlet : Option (Fin 128)
deriving DecidableEq, Repr

/-- R154: the Events lost summary of one scope. -/
structure LostSum where
  /-- scope -/
  outlet : Option (Fin 128)
  /-- folded events -/
  count : Nat
  /-- bitmap of folded families -/
  families : BitVec 32
  /-- mains time of the first folded event -/
  firstMains : Nat
  /-- mains time of the last folded event -/
  lastMains : Nat
  /-- events of that scope that stood before it in the backlog -/
  after : Nat
deriving DecidableEq, Repr

/-- R131 to R140, R158, R169: one ring. -/
structure Ring where
  /-- R169 05 RNG_BASE_LO/HI. reset 0. -/
  base : BitVec 64 := 0
  /-- R169 05 RNG_CTL.EN. reset 0. -/
  en : Bool := false
  /-- R169 05 RNG_CTL.SIZE_CODE. reset 0. -/
  sizeCode : BitVec 4 := 0
  /-- R169 05 RNG_CTL.ROLE. reset 1. -/
  role : BitVec 3 := 1
  /-- R169 05 RNG_CTL.VECTOR. reset 0. -/
  vector : BitVec 6 := 0
  /-- R169 05 RNG_CTL.MOD_COUNT. reset 1. -/
  modCount : BitVec 8 := 1
  /-- R169 05 RNG_CTL.MOD_TIME. reset 0. -/
  modTime : BitVec 10 := 0
  /-- R169 05 RNG_WB_LO/HI. reset 0. -/
  wb : BitVec 64 := 0
  /-- R169 05 RNG_HOST_IDX. reset 0. -/
  hostIdx : BitVec 32 := 0
  /-- R169 05 RNG_DEV_IDX. reset 0. -/
  devIdx : BitVec 32 := 0
  /-- R169 05 RNG_RING_STAT.ERR_CAUSE. reset 0. -/
  errCause : BitVec 3 := 0
  /-- R169 05 RNG_RING_STAT.ERR. reset 0. -/
  err : Bool := false
  /-- R137 05. latest doorbell value written; DESIGN CHOICE 0. -/
  doorbell : BitVec 32 := 0
  /-- R143, R546 05. role whose credential is held on this CMD ring; 0 = none. -/
  cred : BitVec 3 := 0
  /-- R548 18. EVT: Debug keys is still to be its first event of family 0x0B. -/
  debugDue : Bool := false
  /-- R133 05. EVT: its first event is still to be Device restart, with these values. -/
  restartDue : Option (BitVec 32 × Nat) := none
  /-- R158 05. entries written and not yet signalled. -/
  unsignalled : Nat := 0
  /-- R158 05. tick of the first of them. -/
  firstUnsigAt : Nat := 0
  /-- R131 05. CPL: completions held (written once or not), oldest first. -/
  cplHeld : List Completion := []
  /-- R131 05. CPL: completions written and not acknowledged. -/
  cplUnacked : List Completion := []
  /-- R131 05. EVT: unacknowledged events to replay at the next enable. -/
  evtHeld : List Event := []
  /-- R131 05. EVT: events written and not acknowledged. -/
  evtUnacked : List Event := []
  /-- R141 05. CPL: slots reserved for fetched commands. -/
  reserved : Nat := 0
  /-- R131 05. CMD: the model's own: how often bits [15:0] of its index have begun at 0 again; DESIGN CHOICE 0. -/
  pass : BitVec 16 := 0
deriving DecidableEq, Repr

/-- R173, R182: what a backlog queue of the pool keeps besides its events. -/
structure BackQ where
  /-- R173, R182 06 MPL_Q_LEVEL.PAUSED. reset 0. -/
  paused : Bool := false
  /-- R182 06 MPL_Q_PAUSES. reset 0. -/
  pauses : BitVec 32 := 0
  /-- R182 06 MPL_Q_DROPS. reset 0. -/
  drops : BitVec 32 := 0
deriving DecidableEq, Repr

/-- R151 to R169: the RNG block apart from its rings. -/
structure Rng where
  /-- R169 05 RNG_GCFG.ERR_VECTOR. reset 63. -/
  errVector : BitVec 6 := 63
  /-- R169 05 RNG_INT_STATUS.RING_ERR. reset 0. -/
  ringErr : Bool := false
  /-- R169 05 RNG_INT_STATUS.BACKLOG_HIGH. reset 0. -/
  backlogHigh : Bool := false
  /-- R169 05 RNG_INT_STATUS.LOST. reset 0. -/
  lost : Bool := false
  /-- R169 05 RNG_INT_STATUS.FRAMES_LOST. reset 0. -/
  framesLost : Bool := false
  /-- R169 05 RNG_BACKLOG.BACKLOG_COUNT. reset 0. -/
  backlogCount : BitVec 16 := 0
  /-- R152, R169 05 RNG_EVT_CLASS. reset per R169. -/
  evtClass : Vector (BitVec 3) 17 := evtClassReset
  /-- R157, R169 05 RNG_FRX_MAP. reset 0. -/
  frxMap : Vector (BitVec 3) 128 := Vector.replicate 128 0
  /-- R157 05. old FRX rings still in use, each with the frames queued before the change of the map that are still to be filled into it. -/
  frxOld : Vector (List (BitVec 3 × Nat)) 128 := Vector.replicate 128 []
  /-- R153 05. events waiting, oldest first. -/
  backlog : List Event := []
  /-- R154 05. Events lost summaries. -/
  lostSums : List LostSum := []
  /-- R141 05. fetched commands whose completion is owed. -/
  cmds : List CmdRec := []
  /-- R160 05. the model's own: events posted so far; DESIGN CHOICE 0. -/
  posted : Nat := 0
  /-- R130 05. the PCI Express link is up; DESIGN CHOICE 1. -/
  linkUp : Bool := true
  /-- R125 05. the endpoint is in D3hot; DESIGN CHOICE 0. -/
  d3hot : Bool := false
  /-- R125 05. max payload size, 128 to 512 bytes; PRESUMED 0 (PCI Express, log 79). -/
  mps : BitVec 3 := 0
  /-- R125 05. max read request size, 128 to 4,096 bytes; PRESUMED 2 (PCI Express, log 79). -/
  mrrs : BitVec 3 := 2
  /-- R125, R129 05. AER: an Unsupported Request was completed; PRESUMED 0 (PCI Express, log 79). -/
  aerUr : Bool := false
  /-- R125, R158 05. MSI-X Enable; PRESUMED 0 (PCI Express, log 79). -/
  msixEn : Bool := false
  /-- R125, R158 05. MSI-X Function Mask; PRESUMED 0 (PCI Express, log 79). -/
  msixFuncMask : Bool := false
  /-- R171 to R182 06. pool queues 256 and 257; their cells hold the backlog. -/
  backQ : Vector BackQ 2 := Vector.replicate 2 {}
  /-- R125, R127, R158 05. address and data of each MSI-X table entry; PRESUMED 0 (PCI Express, log 79). -/
  msixTable : Vector (BitVec 64 × BitVec 32) 64 := Vector.replicate 64 (0, 0)
  /-- R125, R127, R158 05. MSI-X mask bits; PRESUMED all 1 (PCI Express, log 79). -/
  msixMasked : BitVec 64 := BitVec.allOnes 64
  /-- R125, R158 05. MSI-X pending bits; PRESUMED 0 (PCI Express, log 79). -/
  msixPending : BitVec 64 := 0
deriving DecidableEq, Repr

/-- R172: a packet in a pool queue. -/
structure Packet where
  /-- payload -/
  bytes : List (BitVec 8)
  /-- cells it occupies -/
  cells : Nat
  /-- its LAST cell is linked -/
  complete : Bool
  /-- FTX frame tag, CAN header word 0 or 0 -/
  tag : BitVec 32
  /-- FTX ring it came from, or 0 -/
  ring : Nat
  /-- FTX index it came from, or 0 -/
  index : BitVec 32
  /-- FTX IRQ -/
  irq : Bool
  /-- data was lost before it (R185) -/
  gap : Bool
  /-- mains time at the end of reception -/
  mains : Nat
deriving DecidableEq, Repr

/-- R171 to R177, R182: one marble-pool queue. -/
structure PoolQ where
  /-- R171, R182 06 MPL_Q_WM.HIGH_WM. reset R171. -/
  high : Nat := 0
  /-- R171, R182 06 MPL_Q_WM.LOW_WM. reset R171. -/
  low : Nat := 0
  /-- R171, R172 06. packets held, oldest first; empty at reset. -/
  packets : List Packet := []
  /-- R174 06. packets staged by a producer that cannot wait. -/
  staging : List Packet := []
  /-- R173, R182 06 MPL_Q_LEVEL.PAUSED. reset 0. -/
  paused : Bool := false
  /-- R182 06 MPL_Q_PAUSES. reset 0. -/
  pauses : BitVec 32 := 0
  /-- R182 06 MPL_Q_DROPS. reset 0. -/
  drops : BitVec 32 := 0
deriving DecidableEq, Repr


/-- R171: the reset watermarks of queue `q`. -/
def poolWm (q : Nat) : Nat × Nat :=
  if q < 256 then (64, 32)
  else if q = 256 then (7168, 7168)
  else if q = 257 then (1024, 1024)
  else if q < 264 then (0, 0)
  else if q < 288 then (16, 8)
  else if q < 290 then (64, 32)
  else (0, 0)

/-- The queues after reset: empty, with the watermarks of R171. -/
def poolReset : Vector PoolQ 1024 :=
  Vector.ofFn fun q => { high := (poolWm q.val).1, low := (poolWm q.val).2 }

/-- R170 to R182: the marble pool. -/
structure Mpl where
  /-- R182 06 MPL_STATUS.ECC_DROP. reset 0. -/
  eccDrop : Bool := false
  /-- R182 06 MPL_STATUS.WM_REFUSED. reset 0. -/
  wmRefused : Bool := false
  /-- R171 06. queues; FREE and HIGH_SUM are computed from them. -/
  q : Vector PoolQ 1024 := poolReset
  /-- R170 06. link memory: the numbers of the cells of each queue's packets, in the order of the packets. -/
  links : Vector (List (List Nat)) 1024 := Vector.replicate 1024 []
  /-- R170 06. free list: cells that have been used and returned. -/
  freed : List Nat := []
  /-- R170 06. the lowest cell never used since the reset; the cells above it are free. -/
  unused : Nat := 0
deriving DecidableEq, Repr

/-- R185: an outstanding field-bus Read. -/
structure FbRead where
  /-- the command -/
  cmd : Cmd
  /-- BUF_SIZE -/
  size : Nat
  /-- buffer address -/
  addr : BitVec 64
deriving DecidableEq, Repr

/-- R184: a field-bus Transmit. -/
structure FbTx where
  /-- the command -/
  cmd : Cmd
  /-- the data -/
  bytes : List (BitVec 8)
  /-- bytes sent up to the last stop of transmission -/
  sent : Nat
  /-- its first bit has been sent -/
  started : Bool
  /-- since when it runs on the line; none while it waits or is stopped by FB_CTS -/
  runAt : Option Nat
deriving DecidableEq, Repr

/-- R183 to R191: the part of a field-bus port both kinds share. -/
structure Port where
  /-- R186 06. outstanding Reads. -/
  reads : List FbRead := []
  /-- R186 06. Transmits in fetch order. -/
  txs : List FbTx := []
  /-- R185, R189 06. data was lost; the next packet is read with GAP = 1. -/
  gapNext : Bool := false
  /-- R183 06. line errors since the last Line error event. -/
  lineErrs : Nat := 0
deriving DecidableEq, Repr

/-- R189, R190, R192: one RS-485 port. -/
structure Uart where
  /-- R192 06 FBP_UART_CFG.EN. reset 0. -/
  en : Bool := false
  /-- R192 06 PARITY. reset 0. -/
  parity : BitVec 2 := 0
  /-- R192 06 STOP2. reset 0. -/
  stop2 : Bool := false
  /-- R192 06 DATA7. reset 0. -/
  data7 : Bool := false
  /-- R192 06 RTS_MODE. reset 0. -/
  rtsMode : BitVec 2 := 0
  /-- R192 06 CTS_EN. reset 0. -/
  ctsEn : Bool := false
  /-- R192 06 GAP. reset 7. -/
  gap : BitVec 8 := 7
  /-- R192 06 MAX_PKT. reset 256. -/
  maxPkt : BitVec 16 := 256
  /-- R192 06 FBP_UART_BAUD. reset 9,600. -/
  baud : BitVec 24 := 9600
  /-- R192 06 FBP_UART_STAT.OVERRUN. reset 0. -/
  overrun : Bool := false
  /-- R192 06 FRAMING. reset 0. -/
  framing : Bool := false
  /-- R192 06 PARITY_ERR. reset 0. -/
  parityErr : Bool := false
  /-- R192 06 CTS. reset 0. -/
  cts : Bool := false
  /-- R192 06 ERR_COUNT. reset 0. -/
  errCount : BitVec 16 := 0
  /-- R183 06. shared part. -/
  port : Port := {}
deriving DecidableEq, Repr

/-- R191, R192: one acceptance filter. -/
structure CanFilter where
  /-- R192 06 FBP_CAN_FILT_ID.ID. reset 0. -/
  id : BitVec 29 := 0
  /-- R192 06 IDE. reset 0. -/
  ide : Bool := false
  /-- R192 06 EN. reset 0. -/
  en : Bool := false
  /-- R192 06 FBP_CAN_FILT_MASK.MASK. reset 0. -/
  mask : BitVec 29 := 0
  /-- R192 06 IDE_MASK. reset 0. -/
  ideMask : Bool := false
deriving DecidableEq, Repr

/-- R191, R192: one CAN FD port. -/
structure Can where
  /-- R192 06 FBP_CAN_CFG.EN. reset 0. -/
  en : Bool := false
  /-- R192 06 FD_EN. reset 0. -/
  fdEn : Bool := false
  /-- R192 06 BRS_EN. reset 0. -/
  brsEn : Bool := false
  /-- R192 06 LISTEN. reset 0. -/
  listen : Bool := false
  /-- R192 06 AUTO_RECOVER. reset 1. -/
  autoRecover : Bool := true
  /-- R192 06 FBP_CAN_NBT. reset 2, 79, 20, 20. -/
  nbt : BitVec 32 := 0x0A144F02
  /-- R192 06 FBP_CAN_DBT. reset 5, 7, 2, 2. -/
  dbt : BitVec 32 := 0x02020705
  /-- R192 06 FBP_CAN_STAT.TEC. reset 0. -/
  tec : BitVec 8 := 0
  /-- R192 06 REC. reset 0. -/
  recErr : BitVec 8 := 0
  /-- R192 06 STATE. reset 0. -/
  state : CanState := .active
  /-- R192 06 PASSIVE. reset 0. -/
  passiveF : Bool := false
  /-- R192 06 BUS_OFF. reset 0. -/
  busOffF : Bool := false
  /-- R192 06 RX_DROP. reset 0. -/
  rxDrop : Bool := false
  /-- R192 06. filters. -/
  filters : Vector CanFilter 16 := Vector.replicate 16 {}
  /-- R183 06. shared part. -/
  port : Port := {}
deriving DecidableEq, Repr

/-- R98, R101: the fields of an uplink frame. -/
structure Uplink where
  /-- FRAME_NO -/
  frameNo : BitVec 16
  /-- EPOCH -/
  epoch : BitVec 32
  /-- FLAGS PORT -/
  port : Bool
  /-- FLAGS NO_COND -/
  noCond : Bool
  /-- FLAGS RDR_COUNT -/
  rdrCount : BitVec 3
  /-- MOD: for each of the 10 modulator clocks, oldest first, the bits of the 8 lanes -/
  clocks : List (BitVec 8)
  /-- GPR, oldest sample first -/
  gpr : List (BitVec 10)
  /-- PILOT -/
  pilot : BitVec 12
  /-- RDR, oldest sample first -/
  rdr : List (BitVec 24)
  /-- STATUS -/
  status : StatusWord
  /-- MBX -/
  mbx : MbSlot
deriving DecidableEq, Repr

/-- R361: the quantities the legal island's chains deliver at a boundary, for an outlet or for the incomer. The energies are those of R373, computed from the samples. -/
structure CycleQ where
  /-- rms per lane or channel, mV or mA -/
  rms : Vector Nat 8
  /-- positive-going crossing angle of the fundamental, where it is valid -/
  cross : Vector (Option (BitVec 16)) 8
  /-- energy of the cycle or window, 2^-48 mWh -/
  e : Int
  /-- energy per lane pair, 2^-48 mWh -/
  pairs : Vector Int 3
  /-- reactive energy, 2^-48 mvarh -/
  q : Int
  /-- DC: sum of the squares of the IDC samples, mA^2 -/
  sumSq : Nat
  /-- zero-sequence voltage, mV -/
  u0 : Nat
  /-- line-to-line magnitudes, mV -/
  ll : Vector Nat 3
  /-- filled 80 kS/s samples -/
  filled : Nat
  /-- longest marked run, samples -/
  run : Nat
  /-- lanes over range -/
  overLanes : BitVec 8
  /-- largest |x| times 2^22 -/
  xMax : Nat
deriving DecidableEq, Repr

/-- R198: a state record. -/
structure StateRec where
  /-- FIRST_TRANS -/
  firstTrans : Nat
  /-- NTRANS -/
  ntrans : Nat
  /-- CLASS -/
  cls : BitVec 3
  /-- ENTRY_ACT -/
  entryAct : Nat
  /-- ENTRY_LEN -/
  entryLen : Nat
deriving DecidableEq, Repr

/-- R199: a transition record. -/
structure TransRec where
  /-- TARGET -/
  target : Nat
  /-- TRIGGER -/
  trigger : BitVec 8
  /-- ARG -/
  arg : BitVec 8
  /-- GUARD_MASK -/
  guardMask : BitVec 16
  /-- GUARD_VALUE -/
  guardValue : BitVec 16
  /-- ACT -/
  act : Nat
  /-- ACT_LEN -/
  actLen : Nat
deriving DecidableEq, Repr

/-- R193 to R199: an outlet profile. -/
structure Profile where
  /-- PROFILE_ID -/
  id : Fin 32
  /-- KIND -/
  dc : Bool
  /-- PROX_MODE -/
  proxMode : BitVec 2
  /-- ZP_EN -/
  zpEn : Bool
  /-- INITIAL -/
  initial : Nat
  /-- FAULT -/
  fault : Nat
  /-- ROLE_l -/
  roles : Vector (BitVec 4) 8
  /-- I_MAX, mA -/
  iMax : Nat
  /-- I_MIN, mA -/
  iMin : Nat
  /-- D0_CLOSE_MAIN, us -/
  d0CloseMain : Nat
  /-- D0_OPEN_MAIN -/
  d0OpenMain : Nat
  /-- D0_CLOSE_AUX -/
  d0CloseAux : Nat
  /-- D0_OPEN_AUX -/
  d0OpenAux : Nat
  /-- FB_OFFSET_CLOSE, us -/
  fbOffClose : Int
  /-- FB_OFFSET_OPEN, us -/
  fbOffOpen : Int
  /-- CONT_TIMEOUT, ms -/
  contTimeout : Nat
  /-- LOCK_TIMEOUT, ms -/
  lockTimeout : Nat
  /-- PILOT_DEBOUNCE -/
  debounce : Nat
  /-- ZP_CLOSE_LANE -/
  zpCloseLane : Fin 8
  /-- ZP_OPEN_LANE -/
  zpOpenLane : Fin 8
  /-- VSIDE -/
  vside : Bool
  /-- PROX_DEBOUNCE, ms -/
  proxDebounce : Nat
  /-- state records -/
  states : List StateRec
  /-- transition records -/
  trans : List TransRec
  /-- action words -/
  actions : List (BitVec 32)
deriving DecidableEq, Repr

/-- R277: a safety record. -/
structure SafetyRec where
  /-- PROFILE_ID -/
  profileId : Fin 32
  /-- AC_RC_EN -/
  acRcEn : Bool
  /-- TAG_REQ -/
  tagReq : Bool
  /-- LOCK_REQ -/
  lockReq : Bool
  /-- D_ALLOWED -/
  dAllowed : Bool
  /-- IMD_EN -/
  imdEn : Bool
  /-- DC1_T to DC3_T, AC1_T to AC3_T, 0.1 mA -/
  thr : Vector Nat 6
  /-- DC1_D to DC3_D, AC1_D to AC3_D, ms -/
  delay : Vector Nat 6
  /-- IMD_FAULT, kOhm -/
  imdFault : Nat
  /-- IMD_WARN, kOhm -/
  imdWarn : Nat
  /-- IMD_HALF, ms -/
  imdHalf : Nat
  /-- VM, V -/
  vm : Nat
  /-- IMD_AGE, s -/
  imdAge : Nat
  /-- RC, kOhm -/
  rc : Nat
  /-- RM, kOhm -/
  rm : Nat
  /-- WELD_V_AC, V -/
  weldVAc : Nat
  /-- WELD_V_DC, V -/
  weldVDc : Nat
  /-- WELD_T_DC, ms -/
  weldTDc : Nat
deriving DecidableEq, Repr

/-- R278: a binding record. -/
structure BindRec where
  /-- ESTOP_MASK -/
  estopMask : BitVec 32
  /-- AXIS -/
  axis : Fin 16
  /-- AXIS_EN -/
  axisEn : Bool
deriving DecidableEq, Repr

/-- R278: an input record. -/
structure InputRec where
  /-- FUNC -/
  func : BitVec 3
  /-- TP_A -/
  tpA : BitVec 2
  /-- TP_B -/
  tpB : BitVec 2
  /-- DRY -/
  dry : Bool
  /-- DISC, ms -/
  disc : Nat
  /-- AXIS_MASK -/
  axisMask : BitVec 16
deriving DecidableEq, Repr

/-- R278: an axis record. -/
structure AxisRec where
  /-- V_MAX -/
  vMax : Nat
  /-- V_SS -/
  vSs : Nat
  /-- DECEL -/
  decel : Nat
  /-- T_SS1, ms -/
  tSs1 : Nat
  /-- MARGIN -/
  margin : Nat
  /-- STANDSTILL_T, ms -/
  standstillT : Nat
deriving DecidableEq, Repr

/-- R292: a share record. -/
structure ShareRec where
  /-- PROFILE_ID -/
  profileId : Fin 32
  /-- PRIO_DEFAULT -/
  prio : Nat
  /-- WEIGHT_DEFAULT -/
  weight : Nat
  /-- EFF, % -/
  eff : Nat
  /-- RAMP_UP -/
  rampUp : Nat
  /-- REACT_T, ms -/
  reactT : Nat
  /-- VDC_MIN, V -/
  vdcMin : Nat
  /-- T_k and F_k, 8 points -/
  points : List (Int × Nat)
deriving DecidableEq, Repr

/-- R212, R232: one profile version the sequencer holds, with its safety and share records. -/
structure LoadedProfile where
  /-- configuration version -/
  version : Nat
  /-- tables -/
  prof : Profile
  /-- safety record -/
  saf : SafetyRec
  /-- share record -/
  share : ShareRec
  /-- the first SRAM copy has failed -/
  badA : Bool
  /-- the second SRAM copy has failed -/
  badB : Bool
  /-- CRC of the profile, which identifies its version (R602) -/
  crc : BitVec 32
  /-- the active configuration holds it (R212) -/
  active : Bool
deriving DecidableEq, Repr

/-- R201, R208: a queued trigger. -/
structure Trigger where
  /-- trigger code -/
  code : BitVec 8
  /-- argument -/
  arg : BitVec 8
  /-- the Signal command (ring and index) that queued it -/
  cmd : Option (Fin 16 × BitVec 32)
deriving DecidableEq, Repr

/-- R210: one context timer. -/
inductive Timer where
  /-- not running -/
  | off
  /-- expires at this tick time -/
  | ms (expiry : Nat)
  /-- expires at this mains time, the context's reserved mark -/
  | angle (mark : Nat)
deriving DecidableEq, Repr

/-- R221: a pending zero-point switch, on the context's reserved mark. -/
structure ZpMark where
  /-- mains time M of the mark -/
  mark : Nat
  /-- direction -/
  close : Bool
  /-- mains time T of the zero point -/
  target : Nat
deriving DecidableEq, Repr

/-- R223, R224: a switch that awaits its feedback. -/
structure ContWatch where
  /-- direction -/
  close : Bool
  /-- application tick, once the frame has left -/
  appliedAt : Option Nat
  /-- 0 = at once, 1 = at zero point, 2 = zero point skipped -/
  zp : BitVec 8
  /-- target angle -/
  target : BitVec 16
deriving DecidableEq, Repr

/-- R223, R224: what the sequencer keeps for one contactor of one outlet. -/
structure Contactor where
  /-- R228 07. commanded closed. -/
  cmd : Bool := false
  /-- R223 07. feedback reads closed. -/
  fb : Bool := false
  /-- R223, R257 07. tick of the last feedback change. -/
  fbSince : Nat := 0
  /-- R223 07. since when an uncommanded change lasts. -/
  unexpSince : Option Nat := none
  /-- R222 07. pending zero-point switch (mark 0 or 1). -/
  zp : Option ZpMark := none
  /-- R223 07. switch awaiting its feedback. -/
  watch : Option ContWatch := none
  /-- R224 07. consecutive outliers, closing. -/
  outClose : Nat := 0
  /-- R224 07. consecutive outliers, opening. -/
  outOpen : Nat := 0
  /-- R254 08. tick of the last command change. -/
  cmdAt : Nat := 0
  /-- R223 07. a feedback change the context has not handled yet. -/
  fbNew : Bool := false
deriving DecidableEq, Repr

/-- R213: a Signal whose output changes wait for the frame that applies them. -/
structure SigWait where
  /-- its ring -/
  ring : Fin 16
  /-- its index -/
  index : BitVec 32
  /-- its RESULT -/
  result : BitVec 32
  /-- tick at which they are applied, once the frame has left -/
  due : Option Nat
deriving DecidableEq, Repr

/-- R200 to R235: one sequencer context. -/
structure Ctx where
  /-- R235 07 SEQ_CTX_CFG.PROFILE. reset 0. -/
  profile : Fin 32 := 0
  /-- R235 07 BOUND. reset 0. -/
  bound : Bool := false
  /-- R235 07 ENABLED. reset 0. -/
  enabled : Bool := false
  /-- R212 07. profile version it runs; DESIGN CHOICE 0. -/
  version : Nat := 0
  /-- R230 07. waits for its lane's first UP after a power-on reset. -/
  waiting : Bool := true
  /-- R232 07. stopped because both copies of its profile failed. -/
  stopped : Bool := false
  /-- R232 07. not stepping while its profile is restored. -/
  paused : Bool := false
  /-- R235 07 SEQ_CTX_STATE.STATE. reset 0. -/
  state : Nat := 0
  /-- R235 07 FLAGS. reset 0. -/
  flags : BitVec 8 := 0
  /-- R200 07. DESIGN CHOICE 0. -/
  authorised : Bool := false
  /-- R216, R235 07 SEQ_CTX_INPUT.PILOT. reset 0. -/
  pilot : BitVec 3 := 0
  /-- R216 07. class being debounced. -/
  pilotCand : BitVec 3 := 0
  /-- R216 07. consecutive evaluations of it. -/
  pilotCount : Nat := 0
  /-- R216 07. stamp of the first of them. -/
  pilotStamp : Nat := 0
  /-- R99, R214 07. pilot samples of the last 1,000 frames, newest first, none where the frame is missing. -/
  pilots : List (Option (BitVec 12)) := []
  /-- R316 10. tick of the first of them. -/
  pilotTick : Nat := 0
  /-- R235 07 SEQ_CTX_PILOT.HIGH. reset 0. -/
  high : BitVec 12 := 0
  /-- R235 07 SEQ_CTX_PILOT.LOW. reset 0. -/
  low : BitVec 12 := 0
  /-- R217, R235 07 SEQ_CTX_INPUT.PROX. reset 6. -/
  prox : BitVec 3 := 6
  /-- R217 07. band PP_RAW is in. -/
  proxCand : BitVec 3 := 6
  /-- R217 07. since when. -/
  proxSince : Nat := 0
  /-- R202, R219 07. SET_PILOT in force; DESIGN CHOICE X1. -/
  pilotSel : PilotSel := .x1
  /-- R102, R235 07 SEQ_CTX_INPUT.MODE. reset 0. -/
  mode : BitVec 3 := 0
  /-- R102, R235 07 DUTY. reset 0. -/
  duty : BitVec 10 := 0
  /-- R223 07. main contactor. -/
  main : Contactor := {}
  /-- R223 07. auxiliary contactor. -/
  aux : Contactor := {}
  /-- R226 07. lock commanded engaged. -/
  lockCmd : Bool := false
  /-- R226 07. lock feedback reads engaged. -/
  lockFb : Bool := false
  /-- R226 07. LOCK_TIMEOUT of the movement awaited. -/
  lockDue : Option Nat := none
  /-- R226 07. since when an uncommanded release lasts. -/
  lockUnexpSince : Option Nat := none
  /-- R210 07. timers 0 to 3. -/
  timers : Vector Timer 4 := Vector.replicate 4 .off
  /-- R208 07. queued triggers in arrival order. -/
  queue : List Trigger := []
  /-- R235 07 SEQ_CTX_COUNT.TRIG_LOST. reset 0. -/
  trigLost : BitVec 16 := 0
  /-- R235 07 SEQ_CTX_COUNT.REFUSALS. reset 0. -/
  refusals : BitVec 16 := 0
  /-- R218 07. share engine's latest limit. -/
  limit : Nat := 0
  /-- R218 07. the effective limit as last recomputed. -/
  iEff : Nat := 0
  /-- R200, R218 07. LIMIT_NONZERO. -/
  limitNonzero : Bool := false
  /-- R213 07. Signals whose output changes await the frame that applies them. -/
  awaitApply : List SigWait := []
  /-- R254 08. CHECK weld running. -/
  checkWeld : Bool := false
  /-- R255 08. Clear trip that runs it. -/
  checkWeldCmd : Option (Fin 16 × BitVec 32) := none
  /-- R251 08. insulation results a CHECK still awaits. -/
  checkIso : Nat := 0
  /-- R251 08. one of them was of class 2 or 3. -/
  checkIsoBad : Bool := false
  /-- R208 07. a SAFETY trigger that found 16 SAFETY triggers queued: the fault transition with cause 0 is due at once. -/
  faultDue : Option Trigger := none
  /-- R216 07. MODE in force at the front-end until modeAt. -/
  modeOld : BitVec 3 := 0
  /-- R104, R216 07. tick at which MODE is applied at the front-end. -/
  modeAt : Nat := 0
  /-- R216 07. the MODE change has not left in a frame yet. -/
  modeDue : Bool := false
deriving DecidableEq, Repr

/-- R232, R235: the SEQ block's own registers and tables. -/
structure Seq where
  /-- R235 07 SEQ_STATUS.TRIG_LOST_ANY. reset 0. -/
  trigLostAny : Bool := false
  /-- R235 07 REFUSED_ANY. reset 0. -/
  refusedAny : Bool := false
  /-- R235 07 FAULT_ANY. reset 0. -/
  faultAny : Bool := false
  /-- R235 07 RELOAD_ANY. reset 0. -/
  reloadAny : Bool := false
  /-- R235 07 MISMATCH_ANY. reset 0. -/
  mismatchAny : Bool := false
  /-- R235 07 OUTLIER_ANY. reset 0. -/
  outlierAny : Bool := false
  /-- R193, R212 07. loaded profiles; SEQ_PROFILES is computed. -/
  profiles : List LoadedProfile := []
deriving DecidableEq, Repr

/-- R224, R225: learnt delays of an outlet (persistent). -/
structure Delays where
  /-- R224, R235 07 SEQ_CTX_DMAIN.CLOSE. reset D0 (0 while no profile is bound). -/
  closeMain : Nat := 0
  /-- R224, R235 07 SEQ_CTX_DMAIN.OPEN. reset D0. -/
  openMain : Nat := 0
  /-- R224, R235 07 SEQ_CTX_DAUX.CLOSE. reset D0. -/
  closeAux : Nat := 0
  /-- R224, R235 07 SEQ_CTX_DAUX.OPEN. reset D0. -/
  openAux : Nat := 0
deriving DecidableEq, Repr

/-- R228: the journal record of a context (persistent). -/
structure CtxJournal where
  /-- R228 07. a record has been written. -/
  valid : Bool := false
  /-- R228 07. profile. -/
  profile : Fin 32 := 0
  /-- R228 07. its version. -/
  version : Nat := 0
  /-- R228 07. a profile is bound. -/
  bound : Bool := false
  /-- R228 07. enabled. -/
  enabled : Bool := false
  /-- R228 07. state. -/
  state : Nat := 0
  /-- R228 07. user flags. -/
  flags : BitVec 8 := 0
  /-- R228 07. AUTHORISED. -/
  authorised : Bool := false
  /-- R228 07. running timers. -/
  timers : Vector Timer 4 := Vector.replicate 4 .off
  /-- R228 07. pending switch of main. -/
  zpMain : Option ZpMark := none
  /-- R228 07. pending switch of aux. -/
  zpAux : Option ZpMark := none
  /-- R228 07. commanded main. -/
  main : Bool := false
  /-- R228 07. commanded aux. -/
  aux : Bool := false
  /-- R228 07. commanded lock. -/
  lock : Bool := false
  /-- R228 07. commanded pilot mode. -/
  mode : BitVec 3 := 0
  /-- R228 07. commanded duty. -/
  duty : BitVec 10 := 0
  /-- R228 07. SET_PILOT in force. -/
  pilotSel : PilotSel := .x1
  /-- R228 07. learnt delays at the write. -/
  delays : Delays := {}
  /-- R228 07. sequence number of the slot. -/
  seq : BitVec 32 := 0
  /-- R228 07. CRC-32 of the slot. -/
  crc : BitVec 32 := 0
deriving DecidableEq, Repr

/-- R241: one residual-current stage. -/
structure StageRun where
  /-- its estimate is at or above its threshold -/
  running : Bool
  /-- delay counted, ms -/
  count : Nat
deriving DecidableEq, Repr

/-- R246: where an RDC test stands. -/
inductive RdcStep where
  /-- no test runs -/
  | idle
  /-- step 2: RDC_TEST set, an estimate of 7.0 to 13.0 mA awaited -/
  | wait1 (deadline : Nat)
  /-- step 4: RDC_TEST cleared, an estimate below 3.0 mA awaited -/
  | wait2 (deadline : Nat)
deriving DecidableEq, Repr

/-- R245, R246, R247, R273: what an RDC test was started for. -/
inductive RdcWhy where
  /-- the context entered a CLASS 0 or 1 state (R247) -/
  | auto
  /-- the outlet guard test (R273) -/
  | attachTest
  /-- Run RDC test (R279) -/
  | command (ring : Fin 16) (index : BitVec 32)
  /-- Clear trip of kind 0 (R245) -/
  | clear (ring : Fin 16) (index : BitVec 32)
deriving DecidableEq, Repr

/-- R238 to R281: the safety island's state for one outlet. -/
structure SafOut where
  /-- R256, R281 08 SAF_OUT_STATUS.INV. reset 0. -/
  inv : BitVec 12 := 0
  /-- R256, R281 08 PERMIT. reset 0. -/
  permit : Bool := false
  /-- R257, R281 08 RELEASE_OK. reset 0. -/
  releaseOk : Bool := false
  /-- R257 08. tick at which the permits were last asserted. -/
  permitOffAt : Nat := 0
  /-- R246, R281 08 RDC_OK. reset 0. -/
  rdcOk : Bool := false
  /-- R246 08. time of the last passed RDC test. -/
  rdcAt : Nat := 0
  /-- R246 08. RDC test running. -/
  rdc : RdcStep := .idle
  /-- R246 08. what it was started for. -/
  rdcWhy : RdcWhy := .auto
  /-- R251, R281 08 IMD_SRC. reset 0. -/
  imdSrc : BitVec 2 := 0
  /-- R252 08. the Clear trip of kind 1 that runs a cycle. -/
  imdClear : Option (Fin 16 × BitVec 32) := none
  /-- R249 08. tick at which the present half started. -/
  imdHalfAt : Nat := 0
  /-- R249 08. Vc of the finished +VM half. -/
  vcPlus : Option Int := none
  /-- R250 08. class of the last insulation result. -/
  lastClass : Option (BitVec 2) := none
  /-- R252 08. tick of that result. -/
  lastIsoAt : Nat := 0
  /-- R251 08. consecutive results of class 2 or 3 while closed. -/
  badRun : Nat := 0
  /-- R240, R281 08 SAF_OUT_IDC. reset 0. -/
  idc : Int := 0
  /-- R240, R281 08 SAF_OUT_IAC. reset 0. -/
  iac : Nat := 0
  /-- R240, R241 08. tick of the last 1 ms evaluation. -/
  rcAt : Nat := 0
  /-- R245 08. since when both estimates have been below the Clear trip limits. -/
  quietSince : Nat := 0
  /-- R241, R243 08. stages DC1 to DC3, AC1 to AC3. -/
  stages : Vector StageRun 6 := Vector.replicate 6 ⟨false, 0⟩
  /-- R281 08 SAF_OUT_ISO. reset 0xFFFF_FFFF. -/
  riso : BitVec 32 := 0xFFFFFFFF
  /-- R281 08 SAF_OUT_COUNT.TRIPS. reset 0. -/
  trips : BitVec 16 := 0
  /-- R281 08 INTERVENTIONS. reset 0. -/
  interventions : BitVec 16 := 0
  /-- R239 08. measurement lost. -/
  measLost : Bool := false
  /-- R273 08. outlet guard test passed. -/
  guardOk : Bool := false
  /-- R273 08. step of the outlet guard test running; 0 = none. -/
  guardStep : Nat := 0
  /-- R256 08. the island's own pilot class. -/
  pilot : BitVec 3 := 0
  /-- R273 08. tick at which the word of the running guard-test step is applied. -/
  guardAt : Nat := 0
  /-- R273 08. that word has left in a frame. -/
  guardSent : Bool := false
  /-- R256 08. end of the 100 ms grace after a change to B. -/
  pilotGraceUntil : Option Nat := none
  /-- R264 08. last permit word handed to the sentinel. -/
  lastWord : BitVec 16 := 0
  /-- R259 08. a withdrawal queued a SAFETY trigger; SAFETY 6 is owed. -/
  owesRestore : Bool := false
  /-- R254 08. consecutive cycles with V at or above WELD_V_AC. -/
  weldRunV : Nat := 0
  /-- R254 08. consecutive cycles with a current at or above 1,000 mA. -/
  weldRunI : Nat := 0
  /-- R257 08. largest current-lane reading. -/
  iMaxLane : Nat := 0
  /-- R257 08. VDC reading. -/
  vdc : Nat := 0
deriving DecidableEq, Repr

/-- R244, R281: the latches kept in the journals area (persistent). -/
structure SafeJournal where
  /-- R244, R281 08 SAF_OUT_STATUS.RC_LATCH. reset Journal; none after manufacture. -/
  rc : Bool := false
  /-- R252, R281 08 ISO_LATCH. reset Journal. -/
  iso : Bool := false
  /-- R255, R281 08 WELD_LATCH. reset Journal. -/
  weld : Bool := false
deriving DecidableEq, Repr

/-- R265 to R267: one safety input pair. -/
structure InPair where
  /-- R265 08. channel A, as judged after 2 ms; DESIGN CHOICE low. -/
  a : Bool := false
  /-- R265 08. channel B. -/
  b : Bool := false
  /-- R265 08. since when the channels differ. -/
  differSince : Option Nat := none
  /-- R265, R266 08. discrepancy or cross-circuit fault. -/
  fault : Bool := false
  /-- R265 08. both channels have read low since the fault. -/
  bothLow : Bool := false
  /-- R267, R281 08 SAF_SI_LATCH. reset 0. -/
  latched : Bool := false
  /-- R267 08. when an acknowledge pair closed. -/
  closedSince : Option Nat := none
deriving DecidableEq, Repr

/-- R268 to R271: one axis and its safety output pair. -/
structure Axis where
  /-- R269, R281 08 SAF_AXIS_STATUS.STATE. reset 0 STO. -/
  state : AxisState := .sto
  /-- R268, R281 08 STANDSTILL. reset 0. -/
  standstill : Bool := false
  /-- R268, R281 08 SPEED. reset 0. -/
  speed : Int := 0
  /-- R281 08 SAF_AXIS_POS. reset 0. -/
  pos : BitVec 32 := 0
  /-- R268 08. how long |v| has been at or below V_SS. -/
  slowMs : Nat := 0
  /-- R270 08. speed at the SS1 demand. -/
  v0 : Nat := 0
  /-- R270 08. time since the SS1 demand. -/
  t : Nat := 0
  /-- R271, R281 08 SAF_SO_STATE.FAULT. reset 0. -/
  outFault : Bool := false
deriving DecidableEq, Repr

/-- R236 to R281: the safety island and the sentinel apart from the outlets. -/
structure Saf where
  /-- R272, R281 08 SAF_STATUS.GUARD_OK. reset 0. -/
  guardOk : Bool := false
  /-- R263, R281 08 SAF_STATUS.ISLAND_FAULT. reset 0. -/
  islandFault : Bool := false
  /-- R281 08 TRIP_ANY. reset 0. -/
  tripAny : Bool := false
  /-- R281 08 SENTINEL_ANY. reset 0. -/
  sentinelAny : Bool := false
  /-- R281 08 STOP_ANY. reset 0. -/
  stopAny : Bool := false
  /-- R281 08 OUTFAULT_ANY. reset 0. -/
  outFaultAny : Bool := false
  /-- R281 08 RESTART_ANY. reset 0. -/
  restartAny : Bool := false
  /-- R276, R281 08 SAF_PARAM_CRC. reset 0. -/
  paramCrc : BitVec 32 := 0
  /-- R265 08. safety input pairs; SAF_SI_STATE and SAF_SI_LATCH are computed. -/
  pairs : Vector InPair 32 := Vector.replicate 32 {}
  /-- R268 08. axes; SAF_SO_STATE is computed. -/
  axes : Vector Axis 16 := Vector.replicate 16 {}
  /-- R276, R278 08. input records in force; DESIGN CHOICE unused, DISC 50. -/
  inputs : Vector InputRec 32 := Vector.replicate 32 ⟨0, 0, 0, false, 50, 0⟩
  /-- R276, R278 08. axis records in force; DESIGN CHOICE 0. -/
  axisRecs : Vector AxisRec 16 := Vector.replicate 16 ⟨0, 0, 0, 0, 0, 10⟩
  /-- R276, R278 08. binding records in force; DESIGN CHOICE 0. -/
  binds : Vector BindRec 128 := Vector.replicate 128 ⟨0, 0, false⟩
  /-- R264, R527 08. lockstep restart of the safety island, since this tick. -/
  restarting : Option Nat := none
  /-- R379, R527 17. lockstep restart of the legal island, since this tick. -/
  legalRestarting : Option Nat := none
deriving DecidableEq, Repr

/-- R307 SHR_STATUS.SOURCE. -/
inductive ShareSource where
  /-- 0 -/
  | setup
  /-- 1 -/
  | command
  /-- 2 -/
  | kiteGrant
  /-- 3 -/
  | kiteFallback
deriving DecidableEq, Repr

/-- R283: limits per phase and in total. -/
structure Limits where
  /-- mA per phase -/
  ph : Vector Nat 3
  /-- mW -/
  power : Nat
deriving DecidableEq, Repr

/-- R283, R305: the command site limit. -/
structure SiteCmd where
  /-- limits -/
  lim : Limits
  /-- tick at which it expires -/
  expiry : Option Nat
deriving DecidableEq, Repr

/-- R286 to R307: the share engine's state for one outlet. -/
structure ShareOut where
  /-- R288, R307 09 SHR_OUT_CLAIM.PRIORITY. reset 0. -/
  prio : Nat := 0
  /-- R288, R307 09 WEIGHT. reset 0. -/
  weight : Nat := 0
  /-- R288 09. priority and weight come from a Set priority command. -/
  prioCmd : Bool := false
  /-- R307 09 STATE. reset 0. -/
  state : BitVec 2 := 0
  /-- R307 09 PHASES. reset 0. -/
  phases : BitVec 3 := 0
  /-- R286, R307 09 SHR_OUT_REQ. reset 0. -/
  request : Nat := 0
  /-- R289, R307 09 SHR_OUT_CEIL. reset 0. -/
  ceiling : Nat := 0
  /-- R294, R307 09 SHR_OUT_GRANT. reset 0. -/
  grant : Nat := 0
  /-- R293 09. computed, to be applied at the apply mark. -/
  newGrant : Nat := 0
  /-- R295 09. held load and the tick of the fall. -/
  held : Option (Nat × Nat) := none
  /-- R294 09. cycles waited with a grant of 0. -/
  waited : Nat := 0
  /-- R290 09. derated current in use; none until TEMP has been seen. -/
  derated : Option Nat := none
  /-- R296 09. sum of V_p over the loaded phases (AC) or VDC_REF (DC), as frozen. -/
  volts : Nat := 0
  /-- R291 09. reclaim cap. -/
  reclaim : Option Nat := none
  /-- R291 09. cycles the measured current has stayed 2,000 mA below the grant. -/
  lowRun : Nat := 0
  /-- R291 09. largest measured current of those cycles. -/
  lowMax : Nat := 0
  /-- R291 09. cycles at or above cap - 1,000 mA. -/
  capRun : Nat := 0
  /-- R296 09. last posted grant. -/
  postedGrant : Nat := 0
  /-- R296 09. tick of the last posted rise. -/
  postedRiseAt : Option Nat := none
deriving DecidableEq, Repr

/-- R283 to R307: the SHR block apart from the outlets. -/
structure Shr where
  /-- R307 09 SHR_CFG.EN. reset 0. -/
  en : Bool := false
  /-- R307 09 INCOMER_EN. reset 0. -/
  incomerEn : Bool := false
  /-- R307 09 KITE_EN. reset 0. -/
  kiteEn : Bool := false
  /-- R307 09 KITE_MASTER. reset 0. -/
  kiteMaster : Bool := false
  /-- R307 09 RECLAIM_EN. reset 0. -/
  reclaimEn : Bool := false
  /-- R307 09 SHARE_ANGLE. reset 0x8000. -/
  shareAngle : BitVec 16 := 0x8000
  /-- R307 09 SHR_STATUS.SOURCE. reset 0. -/
  source : ShareSource := .setup
  /-- R301, R307 09 PEER_MODE. reset 0. -/
  peerMode : Bool := false
  /-- R307 09 MIN_DENIED. reset 0. -/
  minDenied : Bool := false
  /-- R307 09 OVERLOAD. reset 0. -/
  overload : Bool := false
  /-- R307 09 LATE. reset 0. -/
  late : Bool := false
  /-- R307 09 KITE_EXPIRED. reset 0. -/
  kiteExpired : Bool := false
  /-- R307 09 PEER_FALLBACK. reset 0. -/
  peerFallback : Bool := false
  /-- R307 09 SHR_SITE_PH, SHR_SITE_P. reset 0. -/
  site : Limits := ⟨Vector.replicate 3 0, 0⟩
  /-- R307 09 SHR_SITE_P_LO as written. reset 0. -/
  siteLo : BitVec 32 := 0
  /-- R307 09 SHR_RAMP. reset 0. -/
  ramp : Nat := 0
  /-- R307 09 SHR_EFF_PH, SHR_EFF_P. reset 0. -/
  eff : Limits := ⟨Vector.replicate 3 0, 0⟩
  /-- R307 09 SHR_LOAD_PH. reset 0. -/
  load : Vector Nat 3 := Vector.replicate 3 0
  /-- R307 09 SHR_CYCLE. reset 0. -/
  cycle : BitVec 32 := 0
  /-- R283 09. command site limit. -/
  cmd : Option SiteCmd := none
  /-- R304 09. Kite grant held, and the cycle it arrived in. -/
  kiteGrant : Option (Limits × Nat) := none
  /-- R304 09. Kite grant received, applied at the next snapshot. -/
  kitePending : Option Limits := none
  /-- R284 09. other_p of the last 50 cycles, newest first. -/
  otherMax : Vector (List Nat) 3 := Vector.replicate 3 []
  /-- R293 09. an allocation is between its marks. -/
  snapPending : Bool := false
  /-- R293 09. its grants are computed. -/
  allocDone : Bool := false
  /-- R293 09. frozen inputs of this device's claimants. -/
  frozen : List ShareIn := []
  /-- R283, R285, R300 09. frozen limits of L1 to L3 (mA), power (mW) and V_p of L1 to L3 (mV). -/
  lims : List Nat := []
  /-- R301 09. tick of the last snapshot. -/
  snapAt : Nat := 0
  /-- R305 09. share commands no allocation has used yet. -/
  waitSnap : List (Fin 16 × BitVec 32) := []
  /-- R305 09. share commands the running allocation uses. -/
  waitApply : List (Fin 16 × BitVec 32) := []
  /-- R300 09. frozen inputs and limits received from the peers, by slot. -/
  peerIn : Vector (Option (List ShareIn × List Nat)) 4 := Vector.replicate 4 none
  /-- R301 09. peers that allocate alone this cycle, by slot. -/
  peerAlone : Vector Bool 4 := Vector.replicate 4 false
  /-- R299 09. cycles of overload per phase. -/
  overRun : Vector Nat 3 := Vector.replicate 3 0
  /-- R299 09. tick of the last Overload event. -/
  overAt : Vector (Option Nat) 3 := Vector.replicate 3 none
  /-- R303 09. Kite master: rotation, minimums, ceilings and held load reported, in the master's lines, by node. -/
  reports : Vector (Option (Fin 3 × Limits × Limits × Limits)) 64 := Vector.replicate 64 none
  /-- R304 09. Kite master: grant last sent to each node, in the master's lines. -/
  granted : Vector (Option Limits) 64 := Vector.replicate 64 none
  /-- R304 09. Kite master: nodes whose grant fell and that have not yet reported a held load within it. -/
  fallen : List (Fin 64) := []
deriving DecidableEq, Repr

/-- R317 to R325: how far a SLAC run has come. -/
inductive RunPhase where
  /-- CM_SLAC_PARAM.REQ heard -/
  | opened
  /-- its sounding window runs -/
  | sounding
  /-- its decision waits for another run (R319 step 5) -/
  | waiting
  /-- assigned, CM_SLAC_MATCH.REQ awaited -/
  | answering
  /-- CM_VALIDATE exchange -/
  | validating
deriving DecidableEq, Repr

/-- R318: a run's soundings at one outlet. -/
structure OutScore where
  /-- cluster outlet number -/
  outlet : Nat
  /-- soundings received -/
  total : Nat
  /-- valid soundings -/
  valid : Nat
  /-- per carrier group inside the tone mask, sum of the attenuations of the valid soundings, 0.1 dB -/
  sum : List (Option Nat)
deriving DecidableEq, Repr

/-- R316 to R325: one SLAC run. -/
structure Run where
  /-- RunID -/
  id : BitVec 64
  /-- source address of the vehicle -/
  src : BitVec 48
  /-- candidates, cluster outlet numbers -/
  cands : List Nat
  /-- phase -/
  phase : RunPhase
  /-- tick at which the sounding window started -/
  winAt : Nat
  /-- tick at which it closed -/
  closedAt : Nat
  /-- soundings at each station -/
  scores : List OutScore
  /-- scores received from peer devices: outlet and score -/
  peers : List (Nat × Nat)
  /-- peers whose scores have arrived -/
  peerSlots : List Nat
  /-- candidates those peers hold for the run -/
  peerCands : List Nat
  /-- tick of the CM_SLAC_PARAM.REQ that opened it -/
  openedAt : Nat
  /-- decided without a peer's scores -/
  peersMissing : Bool
  /-- outlets it holds -/
  held : List Nat
  /-- score at the assigned outlet -/
  score : Nat
  /-- margin to the next score, 0xFFFF when none -/
  margin : Nat
  /-- tick of CM_ATTEN_CHAR.IND -/
  sentAt : Nat
  /-- validation ran -/
  validated : Bool
  /-- outlet that answered Success -/
  winner : Option Nat
  /-- CM_VALIDATE.REQ received -/
  reqs : Nat
  /-- end of the toggle window -/
  togUntil : Option Nat
  /-- toggles counted, by outlet -/
  toggles : List (Nat × Nat)
deriving DecidableEq, Repr

/-- R308 to R335: one Green PHY station. -/
structure Station where
  /-- R316 10. armed. -/
  armed : Bool := false
  /-- R316 10. tick of the last qualifying change. -/
  qualTick : Option Nat := none
  /-- R320, R335 10 PLC_STA_STATE.HLC. reset 0. -/
  assoc : Bool := false
  /-- R335 10 PLC_STA_STATE.SCORE. reset 0. -/
  score : BitVec 16 := 0
  /-- R335 10 PLC_STA_EV. reset 0. -/
  ev : BitVec 48 := 0
  /-- R320 10. network membership key; DESIGN CHOICE 0. -/
  nmk : BitVec 128 := 0
  /-- R320 10. central coordinator of that network. -/
  cco : Bool := false
  /-- R335 10 PLC_STA_RX.FRAMES. reset 0. -/
  rxFrames : BitVec 24 := 0
  /-- R335 10 DROPPED. reset 0. -/
  rxDropped : BitVec 8 := 0
  /-- R335 10 PLC_STA_TX. reset 0. -/
  txFrames : BitVec 32 := 0
  /-- R335 10 PLC_STA_NOISE.IMPULSES. reset 0. -/
  impulses : BitVec 16 := 0
  /-- R318 10. tick of the last symbol this station marked. -/
  markAt : Option Nat := none
  /-- R335 10 TX_DROP. reset 0. -/
  txDrop : BitVec 16 := 0
  /-- R335 10 PLC_STA_SOUND.VALID. reset 0. -/
  valid : BitVec 8 := 0
  /-- R335 10 TOTAL. reset 0. -/
  total : BitVec 8 := 0
  /-- R314 10. frames accepted and not yet sent. -/
  inStation : List Packet := []
  /-- R328 10. end of the switching interval. -/
  quietUntil : Option Nat := none
  /-- R325 10. toggle counter: 0 = none, 1 = B seen, 2 = C since togAt. -/
  togState : BitVec 2 := 0
  /-- R325 10. start of the C part. -/
  togAt : Nat := 0
  /-- R326 10. a toggle window withholds B and C from the context. -/
  togHeld : Bool := false
deriving DecidableEq, Repr

/-- R308 to R335: the PLC and SLC block apart from the stations. -/
structure Plc where
  /-- R335 10 PLC_CFG.EN. reset 0. -/
  en : Bool := false
  /-- R335 10 QUIET_EN. reset 1. -/
  quietEn : Bool := true
  /-- R335 10 CROSS_DEV. reset 1. -/
  crossDev : Bool := true
  /-- R335 10 TX_ATTEN. reset 0. -/
  txAtten : BitVec 7 := 0
  /-- R335 10 LOCK. reset 0. -/
  lock : Bool := false
  /-- R310, R335 10 PLC_MAC_BASE_LO as written. reset 0. -/
  macLo : BitVec 32 := 0
  /-- R310, R335 10 PLC_MAC_BASE in force. reset 0. -/
  mac : BitVec 48 := 0
  /-- R335 10 PLC_STATUS.FAIL_ANY. reset 0. -/
  failAny : Bool := false
  /-- R335 10 CONFLICT_ANY. reset 0. -/
  conflictAny : Bool := false
  /-- R335 10 FRAME_DROP. reset 0. -/
  frameDrop : Bool := false
  /-- R335 10 COMMON_IMPULSE. reset 0. -/
  commonImpulse : Bool := false
  /-- R335 10 STATION_FAULT. reset 0. -/
  stationFault : Bool := false
  /-- R335 10 PEER_SCORE_MISSING. reset 0. -/
  peerMissing : Bool := false
  /-- R335 10 IMPULSE_COUNT. reset 0. -/
  impulseCount : BitVec 16 := 0
  /-- R317 10. open runs. -/
  runs : List Run := []
  /-- R327 10. tick of the last common impulse. -/
  impulseAt : Option Nat := none
deriving DecidableEq, Repr

/-- R357: verification state of a lane. -/
inductive Verif where
  /-- 0 -/
  | pending
  /-- 1 -/
  | pass
  /-- 2 -/
  | drift
  /-- 3 -/
  | fail
  /-- 4 -/
  | absent
  /-- 5 -/
  | disabled
  /-- 6 -/
  | noRecord
deriving DecidableEq, Repr

/-- R344: a calibration record. -/
structure CalRec where
  /-- SERIAL -/
  serial : BitVec 64
  /-- LANE -/
  lane : Fin 8
  /-- SENSOR -/
  sensor : BitVec 2
  /-- TABLE -/
  table : BitVec 6
  /-- FS_RMS -/
  fsRms : Nat
  /-- GAIN -/
  gain : Nat
  /-- OFFSET -/
  offset : Int
  /-- PH_SHIFT -/
  phShift : Int
  /-- TONE_REF -/
  toneRef : Nat
  /-- CAL_TEMP -/
  calTemp : Int
  /-- CAL_TIME -/
  calTime : Nat
deriving DecidableEq, Repr

/-- R347: a temperature table. -/
structure TempTable where
  /-- TABLE_ID -/
  id : BitVec 6
  /-- GAIN_T, 30 points -/
  gainT : List Int
  /-- SHIFT_T, 30 points -/
  shiftT : List Int
deriving DecidableEq, Repr

/-- R342, R343: the legal section. -/
structure LegalSec where
  /-- DRIFT_LIM -/
  driftLim : Nat
  /-- FAIL_LIM -/
  failLim : Nat
  /-- temperature tables -/
  tables : List TempTable
  /-- calibration records -/
  cals : List CalRec
  /-- CRC -/
  crc : BitVec 32
deriving DecidableEq, Repr

/-- R355 to R357, R370: verification of one lane and its last quantities. -/
structure VLane where
  /-- R357, R370 11 MET_OUT_VERIFY.STATE. reset 0 PENDING. -/
  state : Verif := .pending
  /-- R357 11. state the running results qualify for. -/
  runState : Verif := .pending
  /-- R357 11. consecutive qualifying results. -/
  runCount : Nat := 0
  /-- R356, R357 11. consecutive absent results. -/
  absRun : Nat := 0
  /-- R357 11. consecutive valid results of PASS or DRIFT while in FAIL. -/
  recover : Nat := 0
  /-- R370 11 MET_LANE_DEV. reset 0. -/
  dev : Int := 0
  /-- R358 11. c0 of the latest result. -/
  c0 : Option Int := none
  /-- R357 11. tick at which PENDING was entered. -/
  enteredAt : Nat := 0
  /-- R370 11 MET_LANE_RMS. reset 0. -/
  rms : BitVec 32 := 0
  /-- R361 11. last positive-going crossing of the fundamental. -/
  angle : Option (BitVec 16) := none
  /-- R220, R221 07. crossings of the last 16 cycles, newest first. -/
  angleHist : List (BitVec 16) := []
  /-- R348 11. gain term in force. -/
  gT : Int := 0
  /-- R348 11. delay term in force. -/
  sT : Int := 0
  /-- R355 11. tick of the last correlation. -/
  toneAt : Nat := 0
deriving DecidableEq, Repr

/-- R338: an output sample of a chain. -/
structure CycSample where
  /-- sampling time, ns of tick time -/
  at_ : Nat
  /-- values of the lanes or channels, in 2^-16 mV or mA -/
  v : Vector Int 8
deriving DecidableEq, Repr

/-- R355: a stage 5 sample of a lane. -/
structure TapSample where
  /-- it is unmarked -/
  ok : Bool
  /-- the lane's sample, 2^-22 -/
  y : Int
  /-- the nominal injected pattern, 2^-22 -/
  p : Int
deriving DecidableEq, Repr

/-- R336, R341, R358, R364: the stages of one lane. -/
structure LaneChain where
  /-- R339 11. last unmarked stage 2 sample; reset none. -/
  lastX : Option Int := none
  /-- R341 11. last stage 3 sample; DESIGN CHOICE 0. -/
  xPrev : Int := 0
  /-- R341 11. integrator; DESIGN CHOICE 0. -/
  yInt : Int := 0
  /-- R336 11. stage 5 samples, newest first. -/
  s5 : List Int := []
  /-- R358 11. the pattern at stage 5, newest first. -/
  p5 : List Int := []
  /-- R346 11. stage 7 samples, newest first. -/
  v7 : List Int := []
  /-- R358 11. the pattern at stage 7, newest first. -/
  p7 : List Int := []
  /-- R355 11. the window of stage 5 samples, newest first. -/
  tap : List TapSample := []
  /-- R364 11. last bit; DESIGN CHOICE 0. -/
  eqBit : Bool := false
  /-- R364 11. run of equal bits. -/
  eqRun : Nat := 0
deriving DecidableEq, Repr

/-- R336 to R339, R238, R364: the measurement chains of an outlet, or of the incomer. -/
structure Chain where
  /-- R98, R336, R339 11. bits of the 8 modulators per clock, newest first, none where they were removed. -/
  bits : List (Option (BitVec 8)) := []
  /-- R336 11. modulator clocks since the chain started; DESIGN CHOICE 0. -/
  clk : Nat := 0
  /-- R339 11. marked samples that wait for the next unmarked one. -/
  pend : Nat := 0
  /-- R336 11. stage 5 samples since the last stage 6 sample. -/
  ten : Nat := 0
  /-- R336 11. lanes or channels. -/
  lanes : Vector LaneChain 8 := Vector.replicate 8 {}
  /-- R361 11. output samples of the running cycle or window, newest first. -/
  cyc : List CycSample := []
  /-- R339 11. filled samples of the running cycle. -/
  filled : Nat := 0
  /-- R339 11. longest marked run of the running cycle. -/
  run : Nat := 0
  /-- R364, R368 11. largest stage 2 sample of the running cycle. -/
  xMax : Nat := 0
  /-- R364 11. lanes over range in the running cycle. -/
  overs : BitVec 8 := 0
  /-- R238 08. samples of the safety island's own decimators, newest first. -/
  isl : List (Vector Int 8) := []
  /-- R354, R355 11. plain tone chips with their application times, newest first. -/
  chips : List (Nat × BitVec 8) := []
deriving DecidableEq, Repr

/-- R336 to R370: measurement of one outlet. -/
structure MetOut where
  /-- R357 11. lanes. -/
  lanes : Vector VLane 8 := Vector.replicate 8 {}
  /-- R362, R370 11 MET_OUT_STATUS.SEQ. reset 0. -/
  seqCls : BitVec 2 := 0
  /-- R362 11. 16-cycle rule of the sequence class. -/
  seqRun : PhaseRun := {}
  /-- R363, R370 11 NEUTRAL. reset 0. -/
  neutral : Bool := false
  /-- R363 11. cycles toward a declaration or a clearance. -/
  neutralRun : Nat := 0
  /-- R351, R370 11 TEMP_FAULT. reset 0. -/
  tempFault : Bool := false
  /-- R351 11. since when TEMP has been valid again. -/
  tempOkSince : Option Nat := none
  /-- R339, R370 11 SILENT. reset 0. -/
  silent : Bool := false
  /-- R364, R370 11 OVERRANGE. reset 0. -/
  overRange : BitVec 8 := 0
  /-- R364 11. tick of the last Over-range event. -/
  overAt : Option Nat := none
  /-- R370 11 MET_OUT_TEMP.TEMP. reset 0. -/
  tempIn : BitVec 16 := 0
  /-- R349 11. last TEMP sampled before the next boundary. -/
  tempNext : Option (BitVec 16) := none
  /-- R370 11 POINT. reset 0. -/
  point : BitVec 5 := 0
  /-- R339, R370 11 MET_OUT_GAPS. reset 0. -/
  gaps : BitVec 32 := 0
  /-- R339 11. frames missing in the metering cycle. -/
  missInCycle : Nat := 0
  /-- R350, R370 11 MET_OUT_CRC. reset 0. -/
  legalCrc : BitVec 32 := 0
  /-- R72 03. phase class. -/
  phase : PhaseRun := {}
  /-- R367 11. verification disabled by command. -/
  toneOff : Bool := false
  /-- R352 11. k_tone. -/
  toneKey : BitVec 128 := 0
  /-- R352 11. tone index u. -/
  toneIndex : Nat := 0
  /-- R361 11. outlet's measured current. -/
  iRms : Nat := 0
  /-- R361 11. measured DC power. -/
  power : Nat := 0
  /-- R336 11. the measurement chains of the outlet's lanes. -/
  chain : Chain := {}
  /-- R345, R350 11. calibration records that the chains apply; reset none. -/
  cal : Vector (Option CalRec) 8 := Vector.replicate 8 none
  /-- R349 11. tick of the last 20 ms boundary of a DC outlet; DESIGN CHOICE 0. -/
  boundAt : Nat := 0
deriving DecidableEq, Repr

/-- R342 to R370: the MET block apart from the outlets. -/
structure Met where
  /-- R370 11 MET_STATUS.VERIFY_ANY. reset 0. -/
  verifyAny : Bool := false
  /-- R370 11 ABSENT_ANY. reset 0. -/
  absentAny : Bool := false
  /-- R370 11 GAP_ANY. reset 0. -/
  gapAny : Bool := false
  /-- R370 11 TEMP_ANY. reset 0. -/
  tempAny : Bool := false
  /-- R370 11 SEQ_ANY. reset 0. -/
  seqAny : Bool := false
  /-- R370 11 NEUTRAL_ANY. reset 0. -/
  neutralAny : Bool := false
  /-- R370 11 OVERRANGE_ANY. reset 0. -/
  overAny : Bool := false
  /-- R370 11 INC_CHECK. reset 0. -/
  incCheck : Bool := false
  /-- R342 11. legal section in force; MET_LEGAL_CRC reads its CRC, 0 when none. -/
  legal : Option LegalSec := none
  /-- R370 11 MET_INC_STATE.SEQ. reset 0. -/
  incSeq : BitVec 2 := 0
  /-- R362 11. 16-cycle rule of the incomer. -/
  incSeqRun : PhaseRun := {}
  /-- R370 11 MET_INC_STATE.NEUTRAL. reset 0. -/
  incNeutral : Bool := false
  /-- R363 11. cycles toward a declaration or a clearance. -/
  incNeutralRun : Nat := 0
  /-- R370 11 PRESENT. reset 0. -/
  incPresent : BitVec 8 := 0
  /-- R370 11 MET_INC_RMS. reset 0. -/
  incRms : Vector (BitVec 32) 8 := Vector.replicate 8 0
  /-- R360 11. the measurement chains of the incomer. -/
  incChain : Chain := {}
  /-- R361 11. mains cycle of the incomer's last boundary; DESIGN CHOICE 0. -/
  incAt : Nat := 0
  /-- R348, R349 11. gain and delay term in force of the incomer's channels; DESIGN CHOICE 0. -/
  incTerms : Vector (Int × Int) 8 := Vector.replicate 8 (0, 0)
deriving DecidableEq, Repr

/-- R376: what a commit carries for one outlet. -/
structure EnrSet where
  /-- registers 0 to 12 of R371, in 2^-48 of the unit -/
  regs : Vector Nat 13
  /-- R407 billing import per tariff index, 2^-48 mWh -/
  impIdx : Vector Nat 16
  /-- R407 billing export per tariff index -/
  expIdx : Vector Nat 16
  /-- SILENT_S -/
  silentS : Nat
  /-- ENR_OUT_FLAGS: DRIFT, UNVER, NOT_LEGAL, SILENT, UNCOMP -/
  flags : BitVec 5
  /-- a gapped cycle was accrued since the last commit -/
  gapped : Bool
  /-- LAST_DEMAND, mW -/
  lastDemand : Nat
  /-- MAX_DEMAND, mW -/
  maxDemand : Nat
  /-- A+ at the start of the open interval -/
  demandBase : Nat
deriving DecidableEq, Repr


/-- All registers 0, as after manufacture (R371). -/
def EnrSet.zero : EnrSet :=
  ⟨Vector.replicate 13 0, Vector.replicate 16 0, Vector.replicate 16 0, 0, 0, false, 0, 0, 0⟩

/-- R372, R376: what a commit carries for the site. -/
structure SiteSet where
  /-- site registers of R372 in 2^-48 of the unit -/
  regs : Vector Nat 12
  /-- INC A+ per tariff index -/
  impIdx : Vector Nat 16
  /-- INC A- per tariff index -/
  expIdx : Vector Nat 16
  /-- incomer LAST_DEMAND -/
  lastDemand : Nat
  /-- incomer MAX_DEMAND -/
  maxDemand : Nat
  /-- INC A+ at the start of the open interval -/
  demandBase : Nat
  /-- remainder of the UNMET conversion, mA s -/
  unmetRem : Vector Nat 4
deriving DecidableEq, Repr


/-- All site registers 0, as after manufacture (R372). -/
def SiteSet.zero : SiteSet :=
  ⟨Vector.replicate 12 0, Vector.replicate 16 0, Vector.replicate 16 0, 0, 0, 0, Vector.replicate 4 0⟩

/-- R382, R383: a pulse output's part of a commit. -/
structure PulseSet where
  /-- accumulator, in 2^-48 mWh times const -/
  acc : Nat
  /-- owed pulses -/
  owed : Nat
deriving DecidableEq, Repr

/-- R376: a commit set, as written to a journal slot. -/
structure CommitSet where
  /-- commit number -/
  number : Nat
  /-- PARTIAL -/
  partialC : Bool
  /-- tick of its mark -/
  tick : Nat
  /-- legal time of its mark -/
  legal : Nat
  /-- outlets -/
  out : Vector EnrSet 128
  /-- site -/
  site : SiteSet
  /-- pulse outputs -/
  pulses : Vector PulseSet 8
  /-- legal seconds at which the open interval started -/
  demandStart : Nat
  /-- flags the open interval carries -/
  demandFlags : BitVec 4
  /-- commit at which the open balance window started -/
  balStart : Nat
  /-- net energy of the incomer and of every outlet at the window's start, in 2^-48 mWh -/
  balBase : Int × List Int
  /-- the open balance window is not valid -/
  balInvalid : Bool
  /-- every block passes its CRC -/
  good : Bool
deriving DecidableEq, Repr

/-- R371 to R395: accrual of one outlet between commits, the flags and the cable data. -/
structure OutEnr where
  /-- R371, R395 12 ENR_OUT. reset Journal; 0 after manufacture. -/
  live : EnrSet := EnrSet.zero
  /-- R375 12. start of the running silence. -/
  silentSince : Option Nat := none
  /-- R375 12. whole seconds of the running silence already counted. -/
  silentCounted : Nat := 0
  /-- R375 12. the running cycle began in a silence and is not accrued. -/
  skipCycle : Bool := false
  /-- R381, R394 12. compensation state last posted. -/
  comp : Bool := false
  /-- R407 13. billing import and export already accrued to the tariff registers. -/
  billBase : Nat × Nat := (0, 0)
deriving DecidableEq, Repr

/-- R382 to R384, R395: one pulse output. -/
structure PulseOut where
  /-- R395 12 ENR_PLS_CFG.EN. reset 0. -/
  en : Bool := false
  /-- R395 12 SRC. reset 0. -/
  src : BitVec 3 := 0
  /-- R395 12 OUTLET. reset 0. -/
  outlet : Fin 128 := 0
  /-- R395 12 WIDTH. reset 10. -/
  width : Nat := 10
  /-- R395 12 ENR_PLS_CONST. reset 1,000. -/
  const : Nat := 1000
  /-- R384 12. settings held until the next commit. -/
  next : Option (Bool × BitVec 3 × Fin 128 × Nat × Nat) := none
  /-- R382 12. accumulator. -/
  acc : Nat := 0
  /-- R383, R395 12 ENR_PLS_OWED.OWED. reset 0. -/
  owed : Nat := 0
  /-- R383, R395 12 DROPPED. reset 0. -/
  dropped : BitVec 12 := 0
  /-- R395 12 ENR_PLS_COUNT. reset 0. -/
  count : BitVec 32 := 0
  /-- R383 12. end of the running pulse and its pause. -/
  busyUntil : Nat := 0
  /-- R383 12. end of the low part of the running pulse. -/
  lowUntil : Nat := 0
  /-- R383 12. tick of the last Pulse overrun event. -/
  overAt : Option Nat := none
  /-- R382 12. source register at the last commit. -/
  lastSrc : Nat := 0
deriving DecidableEq, Repr

/-- R387, R388: a closed balance window awaiting its evaluation. -/
structure BalWindow where
  /-- window number -/
  number : Nat
  /-- tick of the close -/
  closedAt : Nat
  /-- e_inc, mWh -/
  einc : Int
  /-- e_out of this device, mWh -/
  eout : Int
  /-- length in tick time, ns -/
  span : Nat
  /-- nothing has made it invalid -/
  valid : Bool
  /-- declared auxiliary energy, mWh -/
  declared : Option Nat
  /-- sums received from peers: slot, e_out, valid -/
  peers : List (Nat × Int × Bool)
deriving DecidableEq, Repr

/-- R391: current-only measurement of one channel (always-on domain). -/
structure KeepChan where
  /-- mA s -/
  charge : Nat
  /-- bursts counted -/
  bursts : Nat
  /-- mA -/
  maxRms : Nat
  /-- RTC time of the first such burst -/
  first : Nat
  /-- RTC time of the last such burst -/
  last : Nat
deriving DecidableEq, Repr

/-- R371 to R395: the ENR block apart from the outlets. -/
structure Enr where
  /-- R395 12 ENR_CFG.DEMAND_LEN. reset 2. -/
  demandLen : BitVec 3 := 2
  /-- R386 12. change waiting for the energy cut. -/
  demandLenNext : Option (BitVec 3) := none
  /-- R395 12 DEMAND_EVT. reset 0. -/
  demandEvt : Bool := false
  /-- R395 12 BAL_EN. reset 0. -/
  balEn : Bool := false
  /-- R395 12 KEEP_EN. reset 0. -/
  keepEn : Bool := false
  /-- R395 12 BAL_WIN. reset 15. -/
  balWin : Nat := 15
  /-- R395 12 ENR_STATUS.COMMIT_FAULT. reset 0. -/
  commitFault : Bool := false
  /-- R395 12 BAL_ALARM. reset 0. -/
  balAlarmF : Bool := false
  /-- R395 12 UNMET_REPORTED. reset 0. -/
  unmetReported : Bool := false
  /-- R395 12 OVERRUN. reset 0. -/
  overrun : Bool := false
  /-- R395 12 SILENT_ANY. reset 0. -/
  silentAny : Bool := false
  /-- R395 12 UNCOMP_ANY. reset 0. -/
  uncompAny : Bool := false
  /-- R395 12 AUX_LATE. reset 0. -/
  auxLate : Bool := false
  /-- R372, R395 12 ENR_SITE. reset Journal; 0 after manufacture. -/
  site : SiteSet := SiteSet.zero
  /-- R382 12. pulse outputs. -/
  pulses : Vector PulseOut 8 := Vector.replicate 8 {}
  /-- R385 12. start of the open interval. -/
  demandStart : Nat := 0
  /-- R386 12. tick of that start. -/
  demandTick : Nat := 0
  /-- R386 12. flags the open interval carries; SHORT after power-on. -/
  demandFlags : BitVec 4 := 8
  /-- R386 12. passed-over intervals to report. -/
  passedOver : Nat := 0
  /-- R376, R395 12. last commit; ENR reads its values. -/
  committed : Option CommitSet := none
  /-- R387 12. commit at which the open window started. -/
  balStart : Nat := 0
  /-- R387 12. tick of that commit. -/
  balStartTick : Nat := 0
  /-- R388 12. something has made the open window invalid. -/
  balInvalid : Bool := false
  /-- R387 12. net energy of the incomer and of every outlet at the window's start (an empty list: 0). -/
  balBase : Int × List Int := (0, [])
  /-- R407 12. INC A+ and INC A- already accrued to the tariff registers. -/
  incBase : Nat × Nat := (0, 0)
  /-- R388 12. window awaiting its evaluation. -/
  balWait : Option BalWindow := none
  /-- R388, R393 12. auxiliary energy declared for windows not yet closed. -/
  balDecl : List (Nat × Nat) := []
  /-- R388 12. number of the last evaluated window. -/
  balLastEval : Option Nat := none
  /-- R395 12 ENR_BAL_D. reset 0. -/
  balD : Int := 0
  /-- R389 12. class of the running run. -/
  balClass : BitVec 2 := 0
  /-- R395 12 ENR_BAL_STATE.STATE. reset 0. -/
  balAlarm : BitVec 2 := 0
  /-- R395 12 LAST_VALID. reset 0. -/
  balLastValid : Bool := false
  /-- R395 12 RUN. reset 0. -/
  balRun : BitVec 16 := 0
  /-- R377 12. decimation stopped by a power-fail warning (step 2). -/
  stopped : Bool := false
  /-- R427 13. PENDING bitmap of the steps still due, bit k for step k. -/
  pending : BitVec 6 := 0
deriving DecidableEq, Repr

/-- R403: a tariff plan. -/
structure Plan where
  /-- COUNT -/
  count : Nat
  /-- DEF_INDEX -/
  defIndex : Fin 16
  /-- MINUTE, DAYS, INDEX -/
  points : List (Nat × BitVec 8 × Fin 16)
deriving DecidableEq, Repr

/-- R402, R403: the tariff section. -/
structure Tariff where
  /-- PERIOD_DAYS -/
  periodDays : Nat
  /-- ANCHOR -/
  anchor : Nat
  /-- DEFAULT_PLAN -/
  defaultPlan : Fin 64
  /-- 64 plans -/
  plans : List Plan
  /-- special days in use -/
  special : List Nat
deriving DecidableEq, Repr


/-- The tariff section where none is in force (R600): plan 0 has one switch point at minute 0 on every day type. -/
def Tariff.default : Tariff := ⟨30, 0, 0, [⟨1, 0, [(0, 0xFF, 0)]⟩], []⟩

/-- R412 to R417: an open or closing session. -/
structure Session where
  /-- 64-bit session ID -/
  id : Nat
  /-- plan fixed at its opening -/
  plan : Fin 64
  /-- start commit, once it is known -/
  startCommit : Option Nat
  /-- legal time of the start commit's mark -/
  startLegal : Nat
  /-- billing import at the start commit, 2^-48 mWh -/
  startImp : Nat
  /-- billing export at the start -/
  startExp : Nat
  /-- UNVERIFIED, GAPPED, UNCOMP and LOSS at the start -/
  startMark : List Nat
  /-- import per index at the start -/
  startIdx : Vector Nat 16
  /-- flags gathered so far (R417) -/
  flags : BitVec 15
  /-- CONTRACT -/
  contract : BitVec 32
  /-- ORIGIN -/
  origin : BitVec 64
  /-- LINK -/
  link : Nat
  /-- close reason, once closing -/
  closing : Option (BitVec 8)
  /-- reason 128: the end commit waits for both feedbacks to read open -/
  waitOpen : Bool
deriving DecidableEq, Repr

/-- R416: a signed record; every field of the layout. -/
structure SignedRec where
  /-- KIND -/
  kind : BitVec 8
  /-- REASON -/
  reason : BitVec 8
  /-- DEVICE -/
  device : Bool
  /-- FLAGS -/
  flags : BitVec 15
  /-- SIGNER -/
  signer : BitVec 64
  /-- REC_SEQ -/
  recSeq : BitVec 32
  /-- HANDLE -/
  handle : BitVec 16
  /-- PLAN -/
  plan : Nat
  /-- SESSION_ID -/
  sessionId : Nat
  /-- ORIGIN -/
  origin : BitVec 64
  /-- START_COMMIT -/
  startCommit : Nat
  /-- END_COMMIT -/
  endCommit : Nat
  /-- START_LEGAL -/
  startLegal : Nat
  /-- END_LEGAL -/
  endLegal : Nat
  /-- START_IMP -/
  startImp : Nat
  /-- END_IMP -/
  endImp : Nat
  /-- words 22 to 27 -/
  words22 : List (BitVec 32)
  /-- words 28 to 43 -/
  idxImp : List (BitVec 32)
  /-- LEGAL_CRC -/
  legalCrc : BitVec 32
  /-- CONFIG_VERSION -/
  configVersion : BitVec 32
  /-- LINK -/
  link : Nat
  /-- R -/
  r : BitVec 256
  /-- S -/
  s : BitVec 256
  /-- the Sign reading command that completes with its release -/
  cmd : Option (Fin 16 × BitVec 32)
deriving DecidableEq, Repr

/-- R424, R425: a tamper record. -/
structure Tamper where
  /-- COUNT -/
  count : BitVec 32
  /-- FIRST -/
  first : Nat
  /-- LAST -/
  last : Nat
  /-- FIRST_INST -/
  firstInst : BitVec 16
  /-- LAST_INST -/
  lastInst : BitVec 16
deriving DecidableEq, Repr

/-- R411: a period snapshot. -/
structure PeriodSnap where
  /-- period number -/
  period : BitVec 32
  /-- tariff import registers of the outlets -/
  imp : Vector (Vector Nat 16) 128
  /-- tariff export registers -/
  exp : Vector (Vector Nat 16) 128
  /-- MAX_DEMAND -/
  maxD : Vector Nat 128
  /-- incomer import registers -/
  incImp : Vector Nat 16
  /-- incomer export registers -/
  incExp : Vector Nat 16
  /-- incomer MAX_DEMAND -/
  incMaxD : Nat
deriving DecidableEq, Repr

/-- R405 to R413, R433: billing of one outlet (legal partition, persistent). -/
structure OutBil where
  /-- R412, R433 13 BIL_OUT_STATE.OPEN, BIL_OUT_SID, BIL_OUT_START. reset Journal; none after manufacture. -/
  session : Option Session := none
  /-- R413 13. sessions closed by a step and awaiting their end commit. -/
  closing : List Session := []
  /-- R405, R433 13 BIL_OUT_STATE.SELECTED. reset DEFAULT_PLAN. -/
  selected : Fin 64 := 0
  /-- R416 13, R458 15. contract index of the authorising entry. -/
  contract : BitVec 32 := 0
  /-- R406, R433 13 BIL_OUT_STATE.INDEX. reset 0. -/
  index : Fin 16 := 0
deriving DecidableEq, Repr

/-- R396 to R433: the BIL block apart from the outlets (legal partition, persistent but for the registers with a reset value). -/
structure Bil where
  /-- R433 13 BIL_STATUS.CLOCK_DEFAULT. reset 0. -/
  clockDefault : Bool := false
  /-- R433 13 BUF_HIGH. reset 0. -/
  bufHigh : Bool := false
  /-- R433 13 BUF_FULL. reset 0. -/
  bufFull : Bool := false
  /-- R433 13 OPEN_REFUSED. reset 0. -/
  openRefused : Bool := false
  /-- R433 13 TAMPER_ANY. reset 0. -/
  tamperAny : Bool := false
  /-- R433 13 PERIOD_CLOSED. reset 0. -/
  periodClosed : Bool := false
  /-- R433 13 BIL_REC_PAGE.PAGE. reset 0. -/
  page : BitVec 2 := 0
  /-- R415, R433 13 BIL_REC_NEXT. reset Journal; 1 after manufacture. -/
  recNext : BitVec 32 := 1
  /-- R415, R433 13 BIL_REC_ACKED. reset Journal; 0 after manufacture. -/
  recAcked : BitVec 32 := 0
  /-- R415 13. released records still in their slots, acknowledged ones too, oldest first. -/
  recs : List SignedRec := []
  /-- R415 13. records whose commit is written and that await release. -/
  waiting : List SignedRec := []
  /-- R420 13. closures waiting for a slot. -/
  overflow : List SignedRec := []
  /-- R420, R432 13. the Buffer event of cause 0 stands. -/
  highPosted : Bool := false
  /-- R432 13. the Buffer event of cause 1 stands. -/
  fullPosted : Bool := false
  /-- R432 13. the Buffer event of cause 2 stands. -/
  refPosted : Bool := false
  /-- R409, R433 13 BIL_PERIOD. reset Journal; 0 after manufacture. -/
  period : BitVec 32 := 0
  /-- R409 13. LAST. -/
  lastClose : Option Nat := none
  /-- R410 13. tick of the period's opening. -/
  periodTick : Nat := 0
  /-- R419 13. commit at which the period opened. -/
  periodStart : Nat := 0
  /-- R419 13. its legal time. -/
  periodStartLegal : Nat := 0
  /-- R419 13. INC A+ and INC A- at the opening. -/
  periodInc : Nat × Nat := (0, 0)
  /-- R419 13. INC A+ per index at the opening. -/
  periodIdx : Vector Nat 16 := Vector.replicate 16 0
  /-- R410 13. flags gathered in the period. -/
  periodFlags : BitVec 15 := 0
  /-- R411 13. period snapshots, newest first. -/
  snaps : List PeriodSnap := []
  /-- R424 13. tamper records; COUNT 0 after manufacture. -/
  tampers : Vector Tamper 16 := Vector.replicate 16 ⟨0, 0, 0, 0, 0⟩
  /-- R13 00, R412 13. next session ID; 1 after manufacture. -/
  nextSession : Nat := 1
  /-- R402, R403 13, R600 21. tariff section in force; reset default of R600. -/
  tariff : Tariff := Tariff.default
  /-- R407 13. tariff index of the incomer. -/
  incIndex : Fin 16 := 0
  /-- R427, R432 13. legal time of a power-fail warning whose record is open. -/
  outageAt : Option Nat := none
  /-- R399, R400 13. operator objects; all 0 after manufacture. -/
  operObjs : Vector (List (BitVec 8)) 256 := Vector.replicate 256 (List.replicate 64 0)
deriving DecidableEq, Repr

/-- R439: a log record; FORMAT, LOG, CRC and GEN_TAIL follow from the other fields. -/
structure LogRec where
  /-- PERM -/
  perm : Bool
  /-- FOLDED -/
  folded : Bool
  /-- CODE -/
  code : BitVec 16
  /-- GEN -/
  gen : BitVec 32
  /-- OUTLET and HANDLE -/
  outlet : Option (Fin 128)
  /-- SEL -/
  sel : BitVec 8
  /-- TICK -/
  tick : Nat
  /-- MAINS -/
  mains : Nat
  /-- LEGAL -/
  legal : Nat
  /-- GSEQ -/
  gseq : BitVec 32
  /-- OUTLET_SEQ -/
  outletSeq : BitVec 32
  /-- PAYLOAD, and PAYLOAD_X for a record code -/
  payload : List (BitVec 8)
  /-- SNAP, 46 words -/
  snap : List (BitVec 32)
  /-- the model's own: number of the event it records, 0 for a record code -/
  ident : Nat
deriving DecidableEq, Repr

/-- R434 to R436, R444: one of the two logs (keeping memory, persistent but for the staging). -/
structure Log where
  /-- R435, R451 14 REC_NEXT. reset Journal; 1 after manufacture. -/
  next : BitVec 32 := 1
  /-- R434, R435 14. circulating area, newest first; empty after manufacture; REC_OLDEST is computed. -/
  circ : List LogRec := []
  /-- R434, R435 14. permanent area, oldest first; REC_PERM is its length. -/
  permA : List LogRec := []
  /-- R436, R451 14 REC_STATUS.PERM_FULL. reset Journal; 0 after manufacture. -/
  permFull : Bool := false
  /-- R444 14. records waiting for keeping memory. -/
  staging : List LogRec := []
  /-- R444 14. records not kept since the last Records lost record. -/
  lostCount : Nat := 0
  /-- R444 14. first cause tick of those. -/
  lostFirst : Nat := 0
  /-- R444 14. last cause tick of those. -/
  lostLast : Nat := 0
  /-- R445 14. write journal: operations records a power-fail window could not write. -/
  unwritten : Nat := 0
deriving DecidableEq, Repr

/-- R442: a snapshot selection of the recorder section. -/
structure Selection where
  /-- offset and PER_OUTLET, 46 words -/
  words : List (BitVec 24 × Bool)
deriving DecidableEq, Repr

/-- R434 to R451: the REC block. -/
structure Rec where
  /-- R434 14. legal log. -/
  legal : Log := {}
  /-- R434 14. operations log. -/
  ops : Log := {}
  /-- R451 14 REC_STATUS.LOST_LEGAL. reset 0. -/
  lostLegal : Bool := false
  /-- R451 14 REC_STATUS.LOST_OPS. reset 0. -/
  lostOps : Bool := false
  /-- R451 14 REC_CURSOR_CTL.LOG. reset 0. -/
  cursorLog : Bool := false
  /-- R451 14 REC_CURSOR_CTL.AREA. reset 0. -/
  cursorArea : Bool := false
  /-- R451 14 REC_CURSOR_BASE. reset 0. -/
  cursorBase : BitVec 32 := 0
  /-- R451 14 REC_OPS_MASK. reset 0x0000_0002. -/
  opsMask : BitVec 32 := 2
  /-- R442 14. recorder section in force. -/
  selections : List Selection := []
  /-- R442 14. trigger entries: code and selection. -/
  triggers : List (BitVec 16 × Nat) := []
  /-- R450 14. Take snapshot commands awaiting their record: record GEN or tag, ring, index. -/
  snapCmds : List (BitVec 32 × Fin 16 × BitVec 32) := []
deriving DecidableEq, Repr

/-- R459: one non-empty authorisation slot. -/
structure AuthSlot where
  /-- HASH -/
  hash : BitVec 160
  /-- STATUS -/
  status : BitVec 3
  /-- MEMBER -/
  member : BitVec 2
  /-- GROUP -/
  group : BitVec 6
  /-- GROUP_EN -/
  groupEn : Bool
  /-- EXPIRY -/
  expiry : BitVec 16
  /-- CONTRACT -/
  contract : BitVec 32
  /-- CHECK -/
  check : BitVec 32
deriving DecidableEq, Repr

/-- R455: the step a reader engine's transaction has reached. -/
inductive TxStep where
  /-- steps 1 and 2 -/
  | harvest
  /-- step 3, TAG_ID awaited -/
  | wakeAll
  /-- step 4, AUTH1 sent -/
  | auth1
  /-- step 4, AUTH2 sent -/
  | auth2
  /-- step 5, READ of block 0 -/
  | readFactory
  /-- step 5, READ of block 1 -/
  | readBank0
  /-- step 5, READ of block 2 -/
  | readBank1
  /-- step 5, READ of block 3 -/
  | readCommit
  /-- step 5, MEASURE -/
  | measure
  /-- step 6, WRITE of the new bank (R475 step 2) -/
  | write2
  /-- step 6, READ back (R475 step 3) -/
  | write3
  /-- step 6, COMMIT (R475 step 4) -/
  | write4
  /-- step 6, READ of the commit byte (R475 step 5) -/
  | write5
  /-- steps 7 and 8, a second tag listened for -/
  | second
  /-- step 9, card polling -/
  | poll
  /-- step 9, keyed card exchange (R457) -/
  | exchange
deriving DecidableEq, Repr

/-- R471: a tag bank as read. -/
structure Bank where
  /-- GEN -/
  gen : BitVec 16
  /-- MATES -/
  mates : BitVec 32
  /-- LAST_HANDLE -/
  lastHandle : BitVec 16
  /-- its CRC passes -/
  sound : Bool
deriving DecidableEq, Repr

/-- R455: a transaction of a reader engine. -/
structure Transaction where
  /-- outlet served -/
  outlet : Fin 128
  /-- step reached -/
  step : TxStep
  /-- tick of the grant -/
  startAt : Nat
  /-- tick of the last command's EOF -/
  sentAt : Nat
  /-- the last tag frame sent -/
  sent : List (BitVec 8)
  /-- answers in a row whose CRC_B failed -/
  crcBad : Nat
  /-- TAG_ID answered -/
  tagId : BitVec 64
  /-- nr of AUTH1 -/
  nr : BitVec 64
  /-- k_tag -/
  kTag : BitVec 128
  /-- k_ts -/
  kts : BitVec 128
  /-- ctr -/
  ctr : BitVec 16
  /-- bank 0 read -/
  bank0 : Bank
  /-- bank 1 read -/
  bank1 : Bank
  /-- commit byte read -/
  commit : BitVec 8
  /-- the bank a write writes -/
  wBank : Bool
  /-- the content it writes -/
  wBytes : List (BitVec 8)
  /-- the tag has been authenticated -/
  authed : Bool
  /-- a field collapse occurred -/
  collapsed : Bool
  /-- nr of the card exchange -/
  cardNr : BitVec 128
  /-- Read tag commands that complete with it -/
  cmds : List (Fin 16 × BitVec 32)
deriving DecidableEq, Repr

/-- R453 to R481: reader and cable-tag state of one outlet. -/
structure OutAut where
  /-- R481 15 AUT_OUT_CFG.AUTH_MODE. reset 1. -/
  mode : BitVec 2 := 1
  /-- R481 15 TAG_EN. reset 0. -/
  tagEn : Bool := false
  /-- R202, R453 15. armed for cards by AUTH_ARM. -/
  armed : Bool := false
  /-- R473, R481 15 AUT_OUT_STATE.CABLE_VALID. reset 0. -/
  cableValid : Bool := false
  /-- R481 15 LAST_OUTCOME. reset 0. -/
  lastOutcome : BitVec 3 := 0
  /-- R454 15. tick of the waiting request. -/
  reqAt : Option Nat := none
  /-- R454 15. this request has already set WAIT_LONG. -/
  waitLong : Bool := false
  /-- R477 15. Read tag commands waiting for their transaction. -/
  readCmds : List (Fin 16 × BitVec 32) := []
  /-- R454 15. tick at which its last transaction ended. -/
  lastTxAt : Nat := 0
  /-- R473 15. tick of the last authenticated read. -/
  lastAuthAt : Nat := 0
  /-- R453 15. last PING level. -/
  pingSeen : Bool := false
deriving DecidableEq, Repr

/-- R474, R475: an outlet's cable-tag data in the journals area (persistent). -/
structure TagJournal where
  /-- R473, R481 15 AUT_OUT_STATE.BOUND, AUT_OUT_BIND. reset Journal; none after manufacture. -/
  bound : Option (BitVec 64) := none
  /-- R472, R481 15 DEGRADED. reset Journal. -/
  degraded : Bool := false
  /-- R477 15. an authenticated read has been made. -/
  authedOnce : Bool := false
  /-- R481 15 AUT_OUT_TAG. reset Journal. -/
  tagId : BitVec 64 := 0
  /-- R481 15 AUT_OUT_RLOOP. reset Journal. -/
  rLoop : BitVec 32 := 0
  /-- R481 15 AUT_OUT_TEMP. reset Journal. -/
  temp : BitVec 16 := 0
  /-- R475, R481 15 AUT_OUT_MATES. base count C; reset Journal, none (reads 0) after manufacture. -/
  mates : Option (BitVec 32) := none
  /-- R475, R481 15 AUT_OUT_STATE.PENDING. pending increments n; reset Journal. -/
  pend : Nat := 0
  /-- R475, R476, R481 15 IN_FLIGHT. target T, n0 and the step a collapse reached. -/
  target : Option (BitVec 32 × Nat × Nat) := none
deriving DecidableEq, Repr

/-- R452 to R481: the AUT and RDR block apart from the outlets. -/
structure Aut where
  /-- R481 15 AUT_CFG.EN. reset 0. -/
  en : Bool := false
  /-- R481 15 CARD_AUTH. reset 0. -/
  cardAuth : Bool := false
  /-- R481 15 LOCK. reset 0. -/
  lock : Bool := false
  /-- R481 15 AUT_STATUS.TAG_FAIL_ANY. reset 0. -/
  tagFailAny : Bool := false
  /-- R481 15 COLLAPSE_ANY. reset 0. -/
  collapseAny : Bool := false
  /-- R481 15 WAIT_LONG. reset 0. -/
  waitLongF : Bool := false
  /-- R481 15 CHECK_FAIL. reset 0. -/
  checkFail : Bool := false
  /-- R481 15 RESYNC. reset 0. -/
  resync : Bool := false
  /-- R463, R481 15 AUT_STORE.SWITCH_PENDING. boundary of the pending switch; reset 0 none. -/
  switchAt : Option Nat := none
  /-- R463 15. Switch table command that waits for it. -/
  switchCmd : Option (Fin 16 × BitVec 32) := none
  /-- R460, R481 15 AUT_STORE.READY. reset 0. -/
  ready : Bool := false
  /-- R481 15 AUT_SALT. reset 0. -/
  salt : Vector (BitVec 32) 4 := Vector.replicate 4 0
  /-- R481 15 RDR_AID_LEN. reset 0. -/
  aidLen : BitVec 5 := 0
  /-- R481 15 RDR_AID. reset 0. -/
  aid : Vector (BitVec 32) 4 := Vector.replicate 4 0
  /-- R454, R481 15 RDR_BUSY. reset 0 none. -/
  engines : Vector (Option Transaction) 16 := Vector.replicate 16 none
  /-- R460 15. lookups waiting for the index: outlet, type, identity. -/
  lookups : List (Fin 128 × BitVec 8 × List (BitVec 8)) := []
deriving DecidableEq, Repr

/-- R459 to R464: the authorisation store (keeping memory, persistent). -/
structure Store where
  /-- R459 15. non-empty slots by ascending slot number; all empty after manufacture. -/
  slots : List (Nat × AuthSlot) := []
  /-- R460, R481 15 AUT_STORE.ACTIVE. reset Journal; table 0 after manufacture. -/
  active : Bool := false
  /-- R463, R481 15 SHADOW_OPEN. reset Journal. -/
  shadowOpen : Bool := false
  /-- R464, R481 15 AUT_STORE_SEQ. reset Journal; 0 after manufacture. -/
  seq : BitVec 32 := 0
deriving DecidableEq, Repr

/-- R490: Kite frame types. -/
inductive KiteType where
  /-- 0x1 -/
  | hello
  /-- 0x2 -/
  | ack
  /-- 0x3 -/
  | time
  /-- 0x4 -/
  | shareReport
  /-- 0x5 -/
  | shareGrant
  /-- 0x6 -/
  | domino
  /-- 0x7 -/
  | echoReq
  /-- 0x8 -/
  | echoRep
deriving DecidableEq, Repr

/-- R486 to R488, R498: a Kite frame waiting to be sent or to be acknowledged. -/
structure KiteOut where
  /-- the frame -/
  frame : KiteFrame
  /-- retries made, up to 7 -/
  retries : Nat
  /-- end of its last sending, while an ACK is awaited -/
  sentAt : Option Nat
deriving DecidableEq, Repr

/-- R489, R498: a Kite frame that has passed its checks, with what the receiver measured. -/
structure KiteIn where
  /-- the frame, its payload in plain -/
  f : KiteFrame
  /-- SNR class measured, 0 to 3 -/
  snr : Nat
  /-- the node's own mains angle at the first sample of the preamble -/
  angle : BitVec 16
  /-- tick of that sample -/
  at_ : Nat
deriving DecidableEq, Repr

/-- R494 to R504, R507: what the node keeps of node n. -/
structure KiteNode where
  /-- R494, R507 16 KIT_NODE_STATE.NEIGHBOUR. reset 0. -/
  neighbour : Bool := false
  /-- R494 16. tick of the last frame from it. -/
  lastAt : Nat := 0
  /-- R494 16. SNR class measured from it. -/
  snrIn : Nat := 0
  /-- R494 16. SNR class it reports of this node. -/
  snrOut : Nat := 0
  /-- R495, R507 16 PENALTY. reset 0. -/
  penalty : Bool := false
  /-- R495 16. missed ACKs inside W. -/
  misses : List Nat := []
  /-- R495 16. consecutive acknowledged frames. -/
  ackRun : Nat := 0
  /-- R497, R507 16 REACHABLE. reset 0. -/
  reachable : Bool := false
  /-- R497, R507 16 ROUTE_COST. reset 0. -/
  routeCost : Nat := 0
  /-- R497, R507 16 NEXT_HOP. reset 0. -/
  nextHop : Fin 64 := 0
  /-- R494 16. route costs it advertises. -/
  routes : List (Fin 64 × Nat) := []
  /-- R499, R507 16 PHASE. reset 0. -/
  cls : BitVec 2 := 0
  /-- R499 16. class of the running window. -/
  clsCand : BitVec 2 := 0
  /-- R499 16. consecutive frames in it. -/
  clsCount : Nat := 0
  /-- R500, R507 16 ROTATION. reset 3. -/
  rotation : BitVec 2 := 3
  /-- R491 16. its HELLO carries MASTER. -/
  master : Bool := false
  /-- R507 16 KIT_NODE_SER. reset 0. -/
  serial : BitVec 64 := 0
  /-- R504 16. a new TX_SERIAL heard, and since when. -/
  newSerial : Option (BitVec 64 × Nat) := none
  /-- R507 16 KIT_NODE_COUNT.ACKED. reset 0. -/
  acked : BitVec 16 := 0
  /-- R507 16 MISSED. reset 0. -/
  missed : BitVec 16 := 0
  /-- R498 16. last SEQ values accepted with this node as ORIG, newest first. -/
  seqs : List (BitVec 16) := []
deriving DecidableEq, Repr

/-- R482 to R507: the KIT block. -/
structure Kit where
  /-- R507 16 KIT_CFG.EN. reset 0. -/
  en : Bool := false
  /-- R507 16 BAND. reset 0. -/
  band : BitVec 2 := 0
  /-- R507 16 COUPLING. reset 0. -/
  coupling : Bool := false
  /-- R507 16 NODE_ID. reset 0. -/
  nodeId : Fin 64 := 0
  /-- R507 16 TIME_SRC. reset 0. -/
  timeSrc : Bool := false
  /-- R507 16 KEY_SEL. reset 0. -/
  keySel : Bool := false
  /-- R507 16 TX_LEVEL. reset 0. -/
  txLevel : BitVec 7 := 0
  /-- R507 16 LOCK. reset 0. -/
  lock : Bool := false
  /-- R507 16 KIT_STATUS.CONFLICT. reset 0. -/
  conflict : Bool := false
  /-- R500, R507 16 ROTATION. reset 3. -/
  rotation : BitVec 2 := 3
  /-- R507 16 SEC_FAIL. reset 0. -/
  secFail : Bool := false
  /-- R507 16 ABANDONED. reset 0. -/
  abandoned : Bool := false
  /-- R507 16 PENALTY_ANY. reset 0. -/
  penaltyAny : Bool := false
  /-- R507 16 ROUTE_CHANGE. reset 0. -/
  routeChange : Bool := false
  /-- R507 16 CONFLICT_SEEN. reset 0. -/
  conflictSeen : Bool := false
  /-- R507 16 KIT_TALLY.N. reset 4. -/
  tallyN : Nat := 4
  /-- R507 16 KIT_TALLY.W. reset 100. -/
  tallyW : Nat := 100
  /-- R507 16 KIT_TX_COUNT. reset 0. -/
  txCount : BitVec 32 := 0
  /-- R507 16 KIT_RX_COUNT. reset 0. -/
  rxCount : BitVec 32 := 0
  /-- R507 16 KIT_DROP.SEC_DROP. reset 0. -/
  secDrop : BitVec 16 := 0
  /-- R507 16 NOISE_DROP. reset 0. -/
  noiseDrop : BitVec 16 := 0
  /-- R507 16. nodes. -/
  nodes : Vector KiteNode 64 := Vector.replicate 64 {}
  /-- R493 16. FCNT of the last frame sent. -/
  fcnt : BitVec 40 := 0
  /-- R489 16. last SEQ used as originator. -/
  seq : BitVec 16 := 0
  /-- R493 16. highest FCNT accepted per TX_SERIAL. -/
  seen : List (BitVec 64 × BitVec 40) := []
  /-- R498 16. frames to send or awaiting an ACK. -/
  outbox : List KiteOut := []
  /-- R171, R498, R503 16. frames received during a service reset, not yet served. -/
  inbox : List KiteIn := []
  /-- R486 16. end of the node's own last transmission. -/
  lastTxEnd : Nat := 0
  /-- R486 16. tick at which the medium became idle last. -/
  idleAt : Nat := 0
  /-- R494 16. tick of the last HELLO. -/
  lastHello : Nat := 0
  /-- R503 16. tick at which EN was set. -/
  startedAt : Nat := 0
  /-- R505 16. Probe node commands outstanding: token, node, ring, index, start tick. -/
  probes : List (BitVec 32 × Fin 64 × Fin 16 × BitVec 32 × Nat) := []
  /-- R502 16. tick of the last TIME. -/
  lastTime : Nat := 0
deriving DecidableEq, Repr

/-- R535 PAI_STATUS.ROLE. -/
inductive PairRole where
  /-- 0 -/
  | alone
  /-- 1 -/
  | active
  /-- 2 -/
  | standby
  /-- 3 -/
  | joining
deriving DecidableEq, Repr

/-- R528: a fault-tally entry. -/
structure TallyEntry where
  /-- class -/
  cls : Fin 16
  /-- instance -/
  inst : Nat
  /-- ticks of the events inside W, newest first -/
  times : List Nat
  /-- it has become lasting -/
  lasting : Bool
deriving DecidableEq, Repr


/-- R528: the N column; classes whose N is fixed read 1. -/
def tallyNReset : Vector Nat 16 := #v[3, 3, 3, 3, 3, 3, 3, 10, 16, 8, 1, 1, 1, 2, 1, 1]

/-- R528: the W column in ms; 0 where the table has a dash (DESIGN CHOICE, log 3). -/
def tallyWReset : Vector Nat 16 :=
  #v[10000, 10000, 10000, 10000, 10000, 10000, 10000, 1000, 1000, 1000, 0, 0, 0, 60000, 0, 0]

/-- R421: the last commit of a mirrored session. -/
structure MirrorCommit where
  /-- number of the commit -/
  number : Nat
  /-- legal time -/
  legal : Nat
  /-- billing import -/
  imp : Nat
  /-- billing export -/
  exp : Nat
  /-- the registers of R416's increments -/
  marks : List Nat
  /-- import per index -/
  idx : List Nat
deriving DecidableEq, Repr

/-- R421: a session of the active side, as its mirror records give it. -/
structure MirrorSess where
  /-- outlet -/
  outlet : Fin 128
  /-- the session -/
  sess : Session
  /-- its last mirrored commit -/
  last : Option MirrorCommit
deriving DecidableEq, Repr

/-- R508 to R510, R535: one tie port. -/
structure TiePort where
  /-- R535 17 TIE_PORT_STATUS.UP. reset 0. -/
  up : Bool := false
  /-- R535 17 PEER_SLOT. reset 0. -/
  peerSlot : BitVec 2 := 0
  /-- R535 17 PEER_SIDE. reset 0. -/
  peerSide : Bool := false
  /-- R535 17 TIE_PORT_PEER. reset 0. -/
  peer : BitVec 64 := 0
  /-- R535 17 TIE_PORT_RETRY. reset 0. -/
  retry : BitVec 32 := 0
  /-- R510 17. kept out of use for a mismatch. -/
  mismatch : Bool := false
  /-- R508 17. consecutive failed transmissions. -/
  fails : Nat := 0
  /-- R604 21. CFG_HIGHEST of the device at the other end. -/
  highest : BitVec 32 := 0
  /-- R601 21. its STORED configuration images, by VERSION and BODY_HASH. -/
  images : List (BitVec 32 × BitVec 256) := []
deriving DecidableEq, Repr

/-- R508 to R535: the TIE and PAI block. -/
structure Tie where
  /-- R535 17 TIE_CFG.CLUSTER_N. reset 1. -/
  clusterN : Nat := 1
  /-- R535 17 PAIRED. reset 0. -/
  paired : Bool := false
  /-- R535 17 LOCK. reset 0. -/
  lock : Bool := false
  /-- R535 17 TIE_STATUS.MEMBERS. reset 0. -/
  members : BitVec 4 := 0
  /-- R535 17 PORT_DOWN. reset 0. -/
  portDownF : Bool := false
  /-- R535 17 MEMBER_LOST. reset 0. -/
  memberLostF : Bool := false
  /-- R535 17 CFG_MISMATCH. reset 0. -/
  cfgMismatch : Bool := false
  /-- R535 17. tie ports; PORT_UP and LINK_UP are computed. -/
  ports : Vector TiePort 4 := Vector.replicate 4 {}
  /-- R535 17 PAI_CFG.STBY_RINGS. reset 0. -/
  stbyRings : BitVec 16 := 0
  /-- R535 17 PAI_STATUS.ROLE. reset 0 ALONE. -/
  role : PairRole := .alone
  /-- R535 17 READY. reset 0. -/
  ready : Bool := false
  /-- R530 17. the partner's READY as its heartbeat or join told. -/
  partnerReady : Bool := false
  /-- R514 17. the partner's role, as its heartbeat carries it. -/
  partnerRole : PairRole := .alone
  /-- R535 17 MIRROR_STALE. reset 0. -/
  mirrorStale : Bool := false
  /-- R535 17 TAKEOVER. reset 0. -/
  takeoverF : Bool := false
  /-- R535 17 PARTNER_LOST. reset 0. -/
  partnerLostF : Bool := false
  /-- R535 17 JOIN_REFUSED. reset 0. -/
  joinRefused : Bool := false
  /-- R535 17 CLAIM_LOST. reset 0. -/
  claimLost : Bool := false
  /-- R535 17 PAI_PARTNER. reset 0. -/
  partner : BitVec 64 := 0
  /-- R535 17 PAI_TAKEOVER.DURATION. reset 0. -/
  takeoverDur : BitVec 16 := 0
  /-- R535 17 CAUSE. reset 0. -/
  takeoverCause : BitVec 4 := 0
  /-- R535 17 PAI_TAKEOVER_COUNT. reset 0. -/
  takeovers : BitVec 32 := 0
  /-- R521, R524 17. partner declared lost: cause and tick. -/
  lost : Option (BitVec 4 × Nat) := none
  /-- R521 17. tick of the last heartbeat. -/
  lastBeat : Nat := 0
  /-- R518, R535 17 PAI_MIRROR.UNACKED. mirrored unacknowledged events, each with its EVT ring. -/
  mirrorEvts : List (Fin 57 × Event) := []
  /-- R518 17. mirrored unacknowledged completions. -/
  mirrorCpls : List (Fin 16 × Completion) := []
  /-- R517 17. mirrored commands that have not completed: ring, index, tag. -/
  mirrorCmds : List (Fin 16 × BitVec 32 × BitVec 32) := []
  /-- R165 05. mirrored FTX descriptors fetched and not finished: ring, index, outlet. -/
  mirrorTx : List (Fin 57 × BitVec 32 × Fin 128) := []
  /-- R517, R525 17. mirrored host and device indices of every ring. -/
  mirrorIdx : Vector (BitVec 32 × BitVec 32) 57 := Vector.replicate 57 (0, 0)
  /-- R421 17. mirrored sessions of the active side. -/
  mirrorSess : List MirrorSess := []
  /-- R530 17. a handover has been started. -/
  handing : Bool := false
  /-- R533 17. Hand over command to complete. -/
  handCmd : Option (Fin 16 × BitVec 32) := none
  /-- R527 17. a service reset follows the handover under way; reset 0. -/
  resetDue : Bool := false
  /-- R514, R529 17. tick at which JOINING was entered. -/
  joinAt : Nat := 0
  /-- R528 17. fault tally. -/
  tally : List TallyEntry := []
  /-- R528, R535 17 PAI_TALLY_CFG.N. reset R528. -/
  tallyN : Vector Nat 16 := tallyNReset
  /-- R528, R535 17 PAI_TALLY_CFG.W. reset R528. -/
  tallyW : Vector Nat 16 := tallyWReset
  /-- R535 17 PAI_TALLY_STATE.LASTING_COUNT. reset 0. -/
  lastingCount : Vector (BitVec 16) 16 := Vector.replicate 16 0
  /-- R528 17. class 13 lasting: held in service reset until power-on reset. -/
  heldReset : Bool := false
  /-- R528 17. class 2 lasting: the legal island accrues and releases nothing. -/
  legalStopped : Bool := false
deriving DecidableEq, Repr

/-- R536, R551: state of a key slot as kept; MASKED (3) is computed while debug is enabled (R548). -/
inductive KeyState where
  /-- R551 EMPTY (0) -/
  | empty
  /-- R551 VALID (1) -/
  | valid
  /-- R551 UNUSABLE (2) -/
  | unusable
deriving DecidableEq, Repr

/-- R536, R543: key material of a slot. -/
structure KeyMat where
  /-- 16 bytes of an AES key, 32 bytes of d, or 64 bytes of X then Y -/
  words : List (BitVec 8)
deriving DecidableEq, Repr

/-- R536 to R543, R551: one key slot (journals area, persistent); TYPE and USES are fixed by R536. -/
structure KeySlot where
  /-- R536, R551 18 KEY_SLOT.STATE. reset Journal; EMPTY after manufacture. -/
  state : KeyState := .empty
  /-- R541, R551 18 GEN. reset Journal; 0 after manufacture. -/
  gen : BitVec 16 := 0
  /-- R536 18. key material; none after manufacture. -/
  mat : KeyMat := ⟨[]⟩
  /-- R538 18. copy A is sound. -/
  soundA : Bool := true
  /-- R538 18. copy B is sound. -/
  soundB : Bool := true
  /-- R538 18. Key unusable has been posted for this failure. -/
  posted : Bool := false
deriving DecidableEq, Repr

/-- R539, R540, R551: one engine's working key register. -/
structure KeyEng where
  /-- R551 18 KEY_ENG.LOADED. reset 0. -/
  loaded : Bool := false
  /-- R551 18 KEY_ENG.SLOT. reset 0. -/
  slot : Fin 64 := 0
  /-- R551 18 KEY_ENG.GEN. reset 0. -/
  gen : BitVec 16 := 0
deriving DecidableEq, Repr

/-- R546: a credential challenge. -/
structure Challenge where
  /-- ring named -/
  ring : Fin 16
  /-- ROLE claimed -/
  role : BitVec 3
  /-- challenge -/
  value : BitVec 256
  /-- tick of its issue -/
  at_ : Nat
deriving DecidableEq, Repr

/-- R536 to R551: the KEY block apart from its slots. -/
structure Key where
  /-- R551 18 KEY_STATUS.DBG_KEYS. reset 0. -/
  dbgKeys : Bool := false
  /-- R551 18 RNG_OK. reset 0. -/
  rngOk : Bool := false
  /-- R551 18 UNUSABLE_ANY. reset 0. -/
  unusableAny : Bool := false
  /-- R551 18 CRED_FAIL. reset 0. -/
  credFail : Bool := false
  /-- R551 18 RNG_FAULT. reset 0. -/
  rngFault : Bool := false
  /-- R547 18. tick of the running health-test failure; none at reset. -/
  rngFailAt : Option Nat := none
  /-- R548 18. test meter-signing key drawn at power-on while debug is enabled. -/
  testMeter : Option (BitVec 256) := none
  /-- R539 18. working key registers. -/
  engines : Vector KeyEng 8 := Vector.replicate 8 {}
  /-- R543 18 STAGE. DESIGN CHOICE 0. -/
  stage : Vector (BitVec 8) 256 := Vector.replicate 256 0
  /-- R546 18 CHALLENGE. DESIGN CHOICE 0. -/
  challenge : Vector (BitVec 8) 32 := Vector.replicate 32 0
  /-- R546 18 RESPONSE. DESIGN CHOICE 0. -/
  response : Vector (BitVec 8) 64 := Vector.replicate 64 0
  /-- R546 18. challenge in force; none at reset. -/
  pending : Option Challenge := none
  /-- R546 18. failed checks of the last 10 s. -/
  fails : List Nat := []
  /-- R546 18. end of the throttling. -/
  throttleUntil : Option Nat := none
deriving DecidableEq, Repr

/-- R554, R569: state of a load channel. -/
inductive ChanState where
  /-- R569 0 -/
  | off
  /-- R569 1 -/
  | on
  /-- R569 2 -/
  | limiting
  /-- R569 3 -/
  | waiting
  /-- R569 4 -/
  | latched
  /-- R569 5 -/
  | thermalOff
deriving DecidableEq, Repr

/-- R552 to R558, R569: one load channel. -/
structure Chan where
  /-- R569 19 RETRIES. reset 3. -/
  retries : Nat := 3
  /-- R569 19 SPACING. reset 20. -/
  spacing : Nat := 20
  /-- R569 19 STATE. reset 0. -/
  state : ChanState := .off
  /-- R569 19 LSW_CMD. reset 0. -/
  cmd : Bool := false
  /-- R569 19 LSW_FAILSAFE. reset 0. -/
  failsafe : BitVec 2 := 0
  /-- R554, R569 19 COUNT. reset 0. -/
  count : Nat := 0
  /-- R569 19 TJ. reset 0. -/
  tj : BitVec 16 := 0
  /-- R569 19 CURRENT. reset 0. -/
  current : BitVec 32 := 0
  /-- R569 19 LSW_CH_EVENTS. reset 0. -/
  events : BitVec 32 := 0
  /-- R569 19 LSW_CH_STATE.FAILSAFE. reset 0. -/
  fsOn : Bool := false
  /-- R558 19. state the fail-safe state in force demands. -/
  fsDemand : Bool := false
  /-- R554, R555 19. elapsed part of the running SPACING, kept while suspended. -/
  timer : Nat := 0
  /-- R554 19. tick since when it runs. -/
  timerAt : Nat := 0
  /-- R554 19. since when on without limiting. -/
  onSince : Nat := 0
  /-- R556 19. junction is below 150 degrees. -/
  cooled : Bool := true
deriving DecidableEq, Repr

/-- R557: one refresh source. -/
structure Source where
  /-- R557 19. tick since when the source is known to send no refresh (a service reset). -/
  stoppedAt : Option Nat := none
  /-- R557 19. sequence of its last refresh. -/
  seq : BitVec 32 := 0
  /-- R557 19. the source has expired. -/
  expired : Bool := false
deriving DecidableEq, Repr

/-- R552 to R558, R569: the LSW block apart from the channels. -/
structure Lsw where
  /-- R569 19 LSW_CFG.LOCK. reset 0. -/
  lock : Bool := false
  /-- R569 19 LSW_STATUS.LATCH_ANY. reset 0. -/
  latchAny : Bool := false
  /-- R569 19 THERMAL_WARN. reset 0. -/
  thermalWarn : Bool := false
  /-- R569 19 SHUTDOWN_ANY. reset 0. -/
  shutdownAny : Bool := false
  /-- R569 19 WD_EXPIRED. reset 0. -/
  wdExpired : Bool := false
  /-- R552 19. channels. -/
  chans : Vector Chan 32 := Vector.replicate 32 {}
  /-- R557 19. service, safety and legal refresh sources. -/
  sources : Vector Source 3 := Vector.replicate 3 {}
deriving DecidableEq, Repr

/-- R565, R566: the display record of the journals area (persistent). -/
structure DisplayJournal where
  /-- target image -/
  target : BitVec 384
  /-- common reached -/
  common : Nat
  /-- the update was complete -/
  complete : Bool
  /-- a record exists -/
  valid : Bool
deriving DecidableEq, Repr

/-- R561: a waveform table: T_LOW in 0.01 degrees, and its steps as PHASE and DURATION in ms. -/
structure WaveTable where
  /-- T_LOW -/
  tLow : Int
  /-- STEPS -/
  steps : List (Nat × Nat)
deriving DecidableEq, Repr

/-- R559 to R569: the EPD block. -/
structure Epd where
  /-- R569 19 EPD_CFG.EN. reset 0. -/
  en : Bool := false
  /-- R569 19 EPD_CFG.COMMONS (commons fitted minus 1). reset 0. -/
  commons : BitVec 2 := 0
  /-- R569 19 EPD_CFG.BLINK_T. reset 2. -/
  blinkT : Nat := 2
  /-- R569 19 EPD_CFG.TEMP_OFFSET. reset 0. -/
  tempOffset : BitVec 16 := 0
  /-- R569 19 EPD_STATUS.BUSY. reset 0. -/
  busy : Bool := false
  /-- R569 19 CRACK. reset 0. -/
  crack : Bool := false
  /-- R569 19 CRACK_SEEN. reset 0. -/
  crackSeen : Bool := false
  /-- R569 19 INTERRUPTED. reset 0. -/
  interrupted : Bool := false
  /-- R561, R569 19 EPD_TEMP.TEMP. reset 0. -/
  temp : BitVec 16 := 0
  /-- R561, R569 19 EPD_TEMP.BAND. reset 0. -/
  band : BitVec 3 := 0
  /-- R561, R600 21. waveform tables in force; reset Journal (the active configuration); none after manufacture. -/
  waves : List WaveTable := []
  /-- R569 19 EPD_IMAGE. reset Journal; DESIGN CHOICE 0 after manufacture. -/
  image : BitVec 384 := 0
  /-- R560 19. image the update under way drives towards. -/
  target : BitVec 384 := 0
  /-- R562 19. operator image as last written; reset Journal. -/
  operImage : BitVec 384 := 0
  /-- R563 19. blink mask. -/
  blink : BitVec 384 := 0
  /-- R563 19. marked segments stand reversed. -/
  blinkPhase : Bool := false
  /-- R563 19. tick of the last reversal. -/
  blinkAt : Nat := 0
  /-- R430 13, R567 19. outlet shown in the legal area. -/
  view : Option (Fin 128) := none
  /-- R564 19. consecutive crack pulses missed. -/
  missedPulses : Nat := 0
  /-- R564 19. consecutive crack pulses returned. -/
  gotPulses : Nat := 0
  /-- R564 19. tick of the last crack pulse. -/
  pulseAt : Nat := 0
  /-- R560 19. common being updated. -/
  common : Option (Fin 4) := none
  /-- R560 19. its legal-area segments are being updated. -/
  legalPart : Bool := false
  /-- R560 19. tick at which its update started. -/
  commonAt : Nat := 0
  /-- R568 19. commons updated in this update. -/
  updated : BitVec 4 := 0
  /-- R566 19. commons the full clear under way has still to drive light. -/
  clearLeft : Nat := 0
  /-- R566 19. a full clear and redraw comes before any other update. -/
  redrawDue : Bool := false
  /-- R566 19. its target is the journal's. -/
  fromJournal : Bool := false
  /-- R565 19. the discharge sequence has run. -/
  stopped : Bool := false
  /-- R566 19. display record (persistent); DESIGN CHOICE none after manufacture. -/
  journal : DisplayJournal := ⟨0, 0, true, false⟩
  /-- R567 19. commands that complete with the update under way. -/
  waitCmds : List (Fin 16 × BitVec 32) := []
  /-- R560, R567 19. commands whose change waits for the next update. -/
  nextCmds : List (Fin 16 × BitVec 32) := []
deriving DecidableEq, Repr

/-- R575, R587: state of the power domains. -/
inductive PwrState where
  /-- R587 0 -/
  | run
  /-- R587 1 -/
  | baySleep
  /-- R587 2 -/
  | hubQuiet
  /-- R587 3 -/
  | entering
deriving DecidableEq, Repr

/-- R571 to R575: one power domain. -/
structure Domain where
  /-- R587 20 PWR_DOMAIN.UP. reset 1. -/
  up : Bool := true
  /-- R587 20 PWR_HOLD.HOLD. reset 0. -/
  hold : Bool := false
  /-- R572 20. since when no vote stands. -/
  noVoteSince : Option Nat := none
  /-- R573 20. a raise has failed twice. -/
  fault : Bool := false
deriving DecidableEq, Repr

/-- R578, R581: a wake, latched in the always-on domain. -/
structure WakeRec where
  /-- SOURCE code -/
  source : Nat
  /-- DETAIL -/
  detail : Nat
  /-- REPLAYED -/
  replayed : Bool
  /-- FROM -/
  from_ : Nat
  /-- PWR_WAKE_TIME -/
  legal : Nat
deriving DecidableEq, Repr

/-- R570 to R587: the PWR block. -/
structure Pwr where
  /-- R587 20 PWR_CFG.AUTO_BAY. reset 1. -/
  autoBay : Bool := true
  /-- R587 20 PWR_CFG.WAKE_EN. reset 0. -/
  wakeEn : Bool := false
  /-- R587 20 PWR_STATUS.STATE. reset 0. -/
  state : PwrState := .run
  /-- R587 20 WAKE. reset 0. -/
  wakeF : Bool := false
  /-- R587 20 FAULT. reset 0. -/
  faultF : Bool := false
  /-- R570 20. domains 0 to 18. -/
  domains : Vector Domain 19 := Vector.replicate 19 {}
  /-- R578, R587 20 PWR_LAST_WAKE, PWR_WAKE_TIME. reset AON; DESIGN CHOICE power-on, from none. -/
  lastWake : WakeRec := ⟨0, 0, false, 4, 0⟩
  /-- R580, R587 20 PWR_ALARM. reset AON; DESIGN CHOICE 0. -/
  alarm : BitVec 40 := 0
  /-- R580 20 PWR_ALARM_LO. reset AON; DESIGN CHOICE 0. -/
  alarmLo : BitVec 32 := 0
  /-- R580, R587 20 PWR_ALARM_HI.ARMED. reset AON; DESIGN CHOICE 0. -/
  armed : Bool := false
  /-- R579 20. wake latched during entry. -/
  latchedWake : Option (Nat × Nat) := none
  /-- R579 20. further wakes latched. -/
  furtherWakes : Nat := 0
  /-- R582 20. WAKE# driven since. -/
  wakePinSince : Option Nat := none
  /-- R586 20. state left by the entry. -/
  quietFrom : PwrState := .run
  /-- R576 20. Enter quiet command that completes with the entry. -/
  quietCmd : Option (Fin 16 × BitVec 32) := none
deriving DecidableEq, Repr

/-- R607: state of a firmware slot. -/
inductive FwState where
  /-- 0 -/
  | empty
  /-- 1 -/
  | writing
  /-- 2 -/
  | stored
  /-- 3 -/
  | trial
  /-- 4 -/
  | active
  /-- 5 -/
  | previous
  /-- 6 -/
  | bad
deriving DecidableEq, Repr

/-- R588, R607: one firmware slot (persistent). -/
structure FwSlot where
  /-- R607 21 UPD_SLOT_STATE. reset Journal; EMPTY after manufacture. -/
  state : FwState := .empty
  /-- R607 21 UPD_SLOT_VERSION. reset Journal; 0 after manufacture. -/
  version : BitVec 32 := 0
  /-- R589, R607 21 UPD_SLOT_HASH (its bytes 0 to 3). reset Journal; 0 after manufacture. -/
  hash : BitVec 256 := 0
  /-- R588 21. image bytes; an unlisted byte reads as 0xFF (DESIGN CHOICE, log 7). -/
  bytes : List Host.Cell := []
deriving DecidableEq, Repr

/-- R607: state of a configuration slot. -/
inductive CfgState where
  /-- 0 -/
  | empty
  /-- 1 -/
  | writing
  /-- 2 -/
  | stored
  /-- 3 -/
  | pending
  /-- 4 -/
  | active
  /-- 5 -/
  | previous
  /-- 6 -/
  | bad
deriving DecidableEq, Repr

/-- R588, R600, R607: one configuration slot (persistent). -/
structure CfgSlot where
  /-- R607 21 CFG_SLOT_STATE.STATE. reset Journal; EMPTY after manufacture. -/
  state : CfgState := .empty
  /-- R607 21 CFG_SLOT_STATE.FORMAT. reset Journal; 0. -/
  format : BitVec 8 := 0
  /-- R607 21 CFG_SLOT_VERSION. reset Journal; 0. -/
  version : BitVec 32 := 0
  /-- R588 21. image bytes. -/
  bytes : List Host.Cell := []
deriving DecidableEq, Repr

/-- R591 to R594: a running trial. -/
structure Trial where
  /-- slot on trial -/
  slot : Fin 2
  /-- tick of its first instruction -/
  startAt : Nat
  /-- confirmed by the host -/
  hostOk : Bool
  /-- commits written and read back since -/
  commits : Nat
  /-- a condition of R594 has failed -/
  failed : Bool
  /-- power-ons since its start -/
  powerOns : Nat
deriving DecidableEq, Repr

/-- R592, R595: a switch of firmware that waits for its moment. -/
structure SwitchDue where
  /-- none: an activation; else the cause of a fall-back -/
  fallBack : Option Nat
  /-- command that completes with it -/
  cmd : Option (Fin 16 × BitVec 32)
deriving DecidableEq, Repr

/-- R593: the pair activation under way, on the device that received the command or is to complete it. -/
structure PairFw where
  /-- 1: the partner's trial; 2: handover; 3: own trial; 4: this device completes the command for its partner -/
  step : Nat
  /-- ring of the command -/
  ring : Fin 16
  /-- its index -/
  index : BitVec 32
  /-- its CMD_TAG -/
  tag : BitVec 32
deriving DecidableEq, Repr

/-- R598, R599: an image coming in by domino (journals area, persistent). -/
structure DominoRx where
  /-- target -/
  target : Fin 3
  /-- VERSION -/
  version : BitVec 32
  /-- first 64 bits of BODY_HASH -/
  hash : BitVec 64
  /-- pieces held: block, offset and length -/
  pieces : List (Nat × Nat × Nat)
deriving DecidableEq, Repr

/-- R598, R599: an image going out by domino. -/
structure DominoTx where
  /-- target -/
  target : Fin 3
  /-- VERSION -/
  version : BitVec 32
  /-- first byte not yet acknowledged -/
  pos : Nat
  /-- bytes of the piece under way; 0 = none -/
  piece : Nat
  /-- DOMINO_NEXT was unreachable at this tick -/
  paused : Option Nat
deriving DecidableEq, Repr

/-- R601, R604: a pending activation. -/
structure CfgPend where
  /-- mains time of its mark -/
  mark : Nat
  /-- configuration slot -/
  slot : Fin 4
  /-- value CFG_ACTIVE and CFG_HIGHEST take -/
  version : BitVec 32
  /-- value CFG_REVERT takes -/
  source : BitVec 32
  /-- a yo-yo -/
  yoyo : Bool
  /-- an automatic one -/
  auto : Bool
deriving DecidableEq, Repr

/-- R588 to R607: the UPD and CFG block. -/
structure Upd where
  /-- R607 21 HOST_CONFIRM. reset 0. -/
  hostConfirm : Bool := false
  /-- R607 21 DOMINO_EN. reset 0. -/
  dominoEn : Bool := false
  /-- R607 21 DOMINO_NEXT. reset 0. -/
  dominoNext : Fin 64 := 0
  /-- R607 21 UPD_STATUS.RECOVERY. reset 0. -/
  recovery : Bool := false
  /-- R597 21. recovery follows the handover under way. -/
  recoverDue : Bool := false
  /-- R607 21 FELL_BACK. reset 0. -/
  fellBack : Bool := false
  /-- R607 21 VERIFY_FAIL. reset 0. -/
  verifyFail : Bool := false
  /-- R607 21 DOMINO_FAIL. reset 0. -/
  dominoFail : Bool := false
  /-- R592, R595 21. switches that wait: for the next commit mark, or for the service reset. -/
  switchDue : Vector (Option SwitchDue) 3 := Vector.replicate 3 none
  /-- R593 21. pair activation under way. -/
  pairFw : Option PairFw := none
  /-- R591, R607 21 TRIAL. reset 0. -/
  trials : Vector (Option Trial) 3 := Vector.replicate 3 none
  /-- R590, R607 21 UPD_FLOOR. reset Journal; 0 after manufacture. -/
  floors : Vector (BitVec 32) 3 := Vector.replicate 3 0
  /-- R588 21. firmware slots, A and B of each target; reset Journal; DESIGN CHOICE A ACTIVE, B EMPTY after manufacture. -/
  fw : Vector (Vector FwSlot 2) 3 := Vector.replicate 3 #v[{ state := .active }, {}]
  /-- R588 21. configuration slots. -/
  cfg : Vector CfgSlot 4 := Vector.replicate 4 {}
  /-- R607 21 CFG_ACTIVE. reset Journal; 0 after manufacture. -/
  cfgActive : BitVec 32 := 0
  /-- R607 21 CFG_HIGHEST. reset Journal; 0 after manufacture. -/
  cfgHighest : BitVec 32 := 0
  /-- R607 21 CFG_REVERT. reset Journal; 0 after manufacture. -/
  cfgRevert : BitVec 32 := 0
  /-- R601, R607 21 CFG_PEND_LO, CFG_PEND_HI. reset 0 (nothing pending). -/
  cfgPend : Option CfgPend := none
  /-- R607 21 CFG_CONFIRM. reset 0. -/
  cfgConfirmT : Nat := 0
  /-- R604, R607 21 AWAITING. since when a confirmation is awaited; reset none. -/
  awaiting : Option Nat := none
  /-- R598, R599 21. domino image coming in (persistent). -/
  dominoRx : Option DominoRx := none
  /-- R598, R599 21. domino image going out. -/
  dominoTx : Option DominoTx := none
deriving DecidableEq, Repr

/-- R608 to R617: one counter group. -/
structure PmcGroup where
  /-- R617 22 EN. reset 0. -/
  en : Bool := false
  /-- R617 22 DUMP. reset 0. -/
  dump : Bool := false
  /-- R617 22 PERIOD. reset 1. -/
  period : Nat := 1
  /-- R617 22 OVF. reset 0. -/
  ovf : BitVec 8 := 0
  /-- R617 22 PMC_CYC. reset 0. -/
  cyc : BitVec 64 := 0
  /-- R617 22 SEL event numbers. reset 0. -/
  sel : Vector (BitVec 8) 8 := Vector.replicate 8 0
  /-- R617 22 SAMPLE. reset 0. -/
  smp : Vector Bool 8 := Vector.replicate 8 false
  /-- R617 22 PMC_CNT. reset 0. -/
  cnt : Vector (BitVec 48) 8 := Vector.replicate 8 0
  /-- R617 22. copies latched by a read of PMC_CYC_LO; DESIGN CHOICE 0. -/
  latCyc : BitVec 64 := 0
  /-- R617 22. latched copies; DESIGN CHOICE 0. -/
  latCnt : Vector (BitVec 48) 8 := Vector.replicate 8 0
  /-- R608 22. the model's own: tick up to which the cycle counter stands; DESIGN CHOICE 0. -/
  cycAt : Nat := 0
  /-- R613 22. the group's sample down-counter. -/
  down : Nat := 1
deriving DecidableEq, Repr

/-- R611, R617: one bandwidth monitor. -/
structure BwMon where
  /-- R617 22 PORT. reset 0. -/
  port : BitVec 8 := 0
  /-- R617 22 DIR. reset 0. -/
  dir : Bool := false
  /-- R617 22 WIN. reset 1,000. -/
  win : Nat := 1000
  /-- R617 22 LAST. reset 0. -/
  last : BitVec 32 := 0
  /-- R617 22 PEAK. reset 0. -/
  peak : BitVec 32 := 0
  /-- R611 22. bytes counted in the running window. -/
  run : Nat := 0
  /-- R611 22. tick of its start. -/
  startAt : Nat := 0
deriving DecidableEq, Repr

/-- R608 to R617: the PMC block. -/
structure Pmc where
  /-- R617 22 PMC_CFG.DUMP_EN. reset 0. -/
  dumpEn : Bool := false
  /-- R617 22 DUMP_MS. reset 1,000. -/
  dumpMs : Nat := 1000
  /-- R617 22 PMC_STATUS.SKIPPED. reset 0. -/
  skipped : BitVec 16 := 0
  /-- R617 22 DROPPED. reset 0. -/
  dropped : BitVec 16 := 0
  /-- R608 22. counter groups. -/
  groups : Vector PmcGroup 8 := Vector.replicate 8 {}
  /-- R611 22. bandwidth monitors. -/
  mons : Vector BwMon 8 := Vector.replicate 8 {}
  /-- R612 22. dump number; DESIGN CHOICE 0. -/
  dumpNo : BitVec 32 := 0
  /-- R614 22. sample number; DESIGN CHOICE 0. -/
  sampleNo : BitVec 32 := 0
  /-- R616 22. dumps skipped since the last Dumps skipped event; DESIGN CHOICE 0. -/
  skippedNew : Nat := 0
  /-- R616 22. samples dropped since it; DESIGN CHOICE 0. -/
  droppedNew : Nat := 0
  /-- R612 22. tick of the last dump. -/
  lastDump : Nat := 0
  /-- R616 22. tick of the last Dump skipped event. -/
  lastSkip : Option Nat := none
deriving DecidableEq, Repr

/-- R391, R426, R46, R113, R133, R151, R493: what the always-on domain and the journals area keep besides the blocks' own persistent parts. -/
structure Keep where
  /-- R113 04. last epoch written per outlet; 0 after manufacture. -/
  epochs : Vector (BitVec 32) 128 := Vector.replicate 128 0
  /-- R151 05. last GSEQ assigned; 0 after manufacture. -/
  gseq : BitVec 32 := 0
  /-- R151 05. last OUTLET_SEQ assigned to each outlet handle; 0 after manufacture. -/
  outSeq : Vector (BitVec 32) 512 := Vector.replicate 512 0
  /-- R133 05. last GSEQ and backlog count written at the power-fail warning; none. -/
  failRec : Option (BitVec 32 × Nat) := none
  /-- R376 12. commit journal slots; none after manufacture. -/
  slots : Vector (Option CommitSet) 8 := Vector.replicate 8 none
  /-- R376 12. commit number last used; 0 after manufacture. -/
  commitNo : Nat := 0
  /-- R493 16. FCNT reserve written to the journal; 0 after manufacture. -/
  fcnt : BitVec 40 := 0
  /-- R391 12. current-only measurement in Keep; 0. -/
  chans : Vector KeepChan 4 := Vector.replicate 4 ⟨0, 0, 0, 0, 0⟩
  /-- R392 12. the always-on results were lost with their supply and fail their CRC. -/
  chansBad : Bool := false
  /-- R426 13. always-on tamper counts: count, first and last RTC time; 0. -/
  tampers : Vector (Nat × Nat × Nat) 4 := Vector.replicate 4 (0, 0, 0)
  /-- R46 02, R580 20. RTC; DESIGN CHOICE 0. -/
  rtc : Nat := 0
  /-- R78 03. the model's own remainder of the RTC; DESIGN CHOICE 0. -/
  rtcRem : Nat := 0
  /-- R1 00, R42 01. DEVICE_SERIAL; DESIGN CHOICE 0 (fixed at manufacture). -/
  serial : BitVec 64 := 0
  /-- R377 12. the last commit was PARTIAL. -/
  partialAt : Option Nat := none
  /-- R428 13. outage record opened at the power failure. -/
  openOutage : Option Nat := none
deriving DecidableEq, Repr

/-- The register fields whose writes are checked against a range, block by block: their effects are in the chapters named. -/
structure Settings where
  /-- R88 03 TIM_SYNC_LIMIT.SYNC_AGE. reset 0x1_5180. -/
  syncAge : Nat := 86400
  /-- R88 03 TIM_SYNC_LIMIT.MAX_STEP. reset 0x16E. -/
  maxStep : Nat := 366
  /-- R123 04 STR_CFG.WD_DEFAULT. reset 50. -/
  wdDefault : Nat := 50
  /-- R123 04 STR_CFG.OPEN_DEFAULT. reset 100. -/
  openDefault : Nat := 100
  /-- R301, R307 09 SHR_PEER. reset 25. -/
  peerShare : Vector Nat 4 := Vector.replicate 4 25
  /-- R307 09 SHR_KITE.FALLBACK_PCT. reset 25. -/
  fallbackPct : Nat := 25
  /-- R307 09 SHR_KITE.PERIOD. reset 50. -/
  kitePeriod : Nat := 50
  /-- R307 09 SHR_VNOM. reset 230,000. -/
  vnom : Nat := 230000
  /-- R335 10 SLC_WIN.ASSOC_WIN. reset 20. -/
  assocWin : Nat := 20
  /-- R335 10 SOUND_WIN. reset 600. -/
  soundWin : Nat := 600
  /-- R335 10 MATCH_T. reset 500. -/
  matchT : Nat := 500
  /-- R335 10 SLC_SCORE.MARGIN. reset 60. -/
  scoreMargin : Nat := 60
  /-- R335 10 ATTEN_MAX. reset 500. -/
  attenMax : Nat := 500
  /-- R335 10 MIN_SOUNDS. reset 5. -/
  minSounds : Nat := 5
  /-- R335 10 VALIDATE. reset 1. -/
  validate : BitVec 2 := 1
  /-- R335 10 SLC_TOGGLE.TOG_MIN. reset 50. -/
  togMin : Nat := 50
  /-- R335 10 TOG_MAX. reset 1,000. -/
  togMax : Nat := 1000
  /-- R395 12 ENR_BAL_CFG.TOL_PCT. reset 10. -/
  tolPct : Nat := 10
  /-- R395 12 TOL_WH. reset 100. -/
  tolWh : Nat := 100
  /-- R395 12 BAL_N. reset 2. -/
  balN : Nat := 2
  /-- R395 12 ENR_AUX_W. reset 0. -/
  auxW : Nat := 0
  /-- R395 12 ENR_KEEP_CFG.KEEP_THRESH. reset 1,000. -/
  keepThresh : Nat := 1000
  /-- R569 19 LSW_CFG.WD_WIN. reset 50. -/
  wdWin : Nat := 50
  /-- R587 20 PWR_CFG.DROP_HOLD. reset 10. -/
  dropHold : Nat := 10
  /-- R587 20 PWR_WAKE_MASK. reset 0x0FC. -/
  wakeMask : BitVec 9 := 0x0FC
  /-- R607 21 UPD_CFG.CONFIRM_T. reset 120. -/
  confirmT : Nat := 120
  /-- R481 15 POLL_T. reset 10. -/
  pollT : Nat := 10
  /-- R481 15 TAG_AGE. reset 60. -/
  tagAge : Nat := 60
deriving DecidableEq, Repr

/-- The whole state of the block, and the commands that wait. -/
structure State where
  /-- GLB block, seating, straps, supplies (chapters 01 and 02). -/
  glb : Glb := {}
  /-- TIM block and clocks (chapter 03). -/
  tim : Tim := {}
  /-- STR block (chapter 04). -/
  str : Str := {}
  /-- String lanes (chapter 04). -/
  lanes : Vector Lane 128 := Vector.replicate 128 {}
  /-- RNG block (chapter 05). -/
  rng : Rng := {}
  /-- The rings: 0 to 15 CMD, 16 to 31 CPL, 32 to 39 EVT, 40 to 47 FTX, 48 to 55 FRX, 56 DMP (R134). -/
  rings : Vector Ring 57 := Vector.replicate 57 {}
  /-- Marble pool (chapter 06). -/
  mpl : Mpl := {}
  /-- RS-485 ports (chapter 06). -/
  uarts : Vector Uart 8 := Vector.replicate 8 {}
  /-- CAN FD ports (chapter 06). -/
  cans : Vector Can 4 := Vector.replicate 4 {}
  /-- SEQ block (chapter 07). -/
  seq : Seq := {}
  /-- Sequencer contexts (chapter 07). -/
  ctxs : Vector Ctx 128 := Vector.replicate 128 {}
  /-- Journal records of the contexts (R228). -/
  jrn : Vector (Vector CtxJournal 2) 128 := Vector.replicate 128 (Vector.replicate 2 {})
  /-- Learnt delays (R224). -/
  delays : Vector Delays 128 := Vector.replicate 128 {}
  /-- Safety island and sentinel (chapter 08). -/
  saf : Saf := {}
  /-- Safety island, per outlet (chapter 08). -/
  safOut : Vector SafOut 128 := Vector.replicate 128 {}
  /-- Safety latches of the journals area (R244). -/
  safJ : Vector SafeJournal 128 := Vector.replicate 128 {}
  /-- Share engine (chapter 09). -/
  shr : Shr := {}
  /-- Share engine, per outlet (chapter 09). -/
  shrOut : Vector ShareOut 128 := Vector.replicate 128 {}
  /-- PLC and SLC block (chapter 10). -/
  plc : Plc := {}
  /-- Stations (chapter 10). -/
  stas : Vector Station 128 := Vector.replicate 128 {}
  /-- MET block (chapter 11). -/
  met : Met := {}
  /-- Measurement, per outlet (chapter 11). -/
  metOut : Vector MetOut 128 := Vector.replicate 128 {}
  /-- ENR block (chapter 12). -/
  enr : Enr := {}
  /-- Energy registers, per outlet (chapter 12). -/
  enrOut : Vector OutEnr 128 := Vector.replicate 128 {}
  /-- BIL block (chapter 13). -/
  bil : Bil := {}
  /-- Billing, per outlet (chapter 13). -/
  bilOut : Vector OutBil 128 := Vector.replicate 128 {}
  /-- Event recorder (chapter 14). -/
  recd : Rec := {}
  /-- AUT and RDR block (chapter 15). -/
  aut : Aut := {}
  /-- Readers and tags, per outlet (chapter 15). -/
  autOut : Vector OutAut 128 := Vector.replicate 128 {}
  /-- Cable-tag data of the journals area (R474). -/
  tagJ : Vector TagJournal 128 := Vector.replicate 128 {}
  /-- Authorisation store (R459). -/
  store : Store := {}
  /-- Kite (chapter 16). -/
  kit : Kit := {}
  /-- Tie and pair (chapter 17). -/
  tie : Tie := {}
  /-- KEY block (chapter 18). -/
  key : Key := {}
  /-- Key slots (R536). -/
  keys : Vector KeySlot 64 := Vector.replicate 64 {}
  /-- LSW block (chapter 19). -/
  lsw : Lsw := {}
  /-- EPD block (chapter 19). -/
  epd : Epd := {}
  /-- PWR block (chapter 20). -/
  pwr : Pwr := {}
  /-- UPD and CFG block (chapter 21). -/
  upd : Upd := {}
  /-- PMC block (chapter 22). -/
  pmc : Pmc := {}
  /-- Register fields whose writes are checked against a range (R88, R123, R307, R335, R395, R481, R569, R587, R607). -/
  cfg : Settings := {}
  /-- What the always-on domain and keeping memory keep besides. -/
  keep : Keep := {}
  /-- The model's own field, not the spec's: how many free values have been taken (log 4). -/
  fresh : Nat := 0
  /-- The model's own field, not the spec's: what the block has sent, newest first (log 5). -/
  out : List Out := []
  /-- Commands that wait, first in, first out. -/
  pending : List Instr := []
deriving DecidableEq, Repr

/-- The machine right after the release of power-on reset: every field at the value its comment names. -/
def State.reset : State := {}

end Sys2Proof.Machine
end

