-- ==== Sys2Proof/Machine/Ops.lean ====
section
/-! DEFINITION. The operations every family shares: access to the state's vectors, bit fields, byte packing, serial
numbers, CRC-32, free values, and what the block sends. -/

namespace Sys2Proof.Machine

/-- The outcome of a command. -/
abbrev Res := Host.Outcome State Fault Refusal

/-! ### Vectors -/

/-- Change element `i` of a vector. -/
def vmod {α : Type} {n : Nat} (v : Vector α n) (i : Fin n) (f : α → α) : Vector α n :=
  v.set i.val (f (v[i.val]'i.isLt)) i.isLt

/-- Element `i` of a vector. -/
def vget {α : Type} {n : Nat} (v : Vector α n) (i : Fin n) : α := v[i.val]'i.isLt

/-- Change every element of a vector. -/
def vall {α : Type} {n : Nat} (v : Vector α n) (f : α → α) : Vector α n := v.map f

/-- The outlets in index order. -/
def outlets : List (Fin 128) := List.finRange 128

/-- The index `i mod n`. -/
def fin (n : Nat) [NeZero n] (i : Nat) : Fin n := Fin.ofNat n i

/-- Change lane `l`. -/
def State.onLane (s : State) (l : Fin 128) (f : Lane → Lane) : State := { s with lanes := vmod s.lanes l f }
/-- Change ring `r`. -/
def State.onRing (s : State) (r : Fin 57) (f : Ring → Ring) : State := { s with rings := vmod s.rings r f }
/-- Change context `o`. -/
def State.onCtx (s : State) (o : Fin 128) (f : Ctx → Ctx) : State := { s with ctxs := vmod s.ctxs o f }
/-- Change the context journal of `o`. -/
def State.onJrn (s : State) (o : Fin 128) (f : Vector CtxJournal 2 → Vector CtxJournal 2) : State := { s with jrn := vmod s.jrn o f }
/-- Change the learnt delays of `o`. -/
def State.onDelays (s : State) (o : Fin 128) (f : Delays → Delays) : State := { s with delays := vmod s.delays o f }
/-- Change the safety state of `o`. -/
def State.onSaf (s : State) (o : Fin 128) (f : SafOut → SafOut) : State := { s with safOut := vmod s.safOut o f }
/-- Change the safety latches of `o`. -/
def State.onSafJ (s : State) (o : Fin 128) (f : SafeJournal → SafeJournal) : State := { s with safJ := vmod s.safJ o f }
/-- Change the share state of `o`. -/
def State.onShr (s : State) (o : Fin 128) (f : ShareOut → ShareOut) : State := { s with shrOut := vmod s.shrOut o f }
/-- Change station `o`. -/
def State.onSta (s : State) (o : Fin 128) (f : Station → Station) : State := { s with stas := vmod s.stas o f }
/-- Change the measurement of `o`. -/
def State.onMet (s : State) (o : Fin 128) (f : MetOut → MetOut) : State := { s with metOut := vmod s.metOut o f }
/-- Change the energy state of `o`. -/
def State.onEnr (s : State) (o : Fin 128) (f : OutEnr → OutEnr) : State := { s with enrOut := vmod s.enrOut o f }
/-- Change the billing state of `o`. -/
def State.onBil (s : State) (o : Fin 128) (f : OutBil → OutBil) : State := { s with bilOut := vmod s.bilOut o f }
/-- Change the reader state of `o`. -/
def State.onAut (s : State) (o : Fin 128) (f : OutAut → OutAut) : State := { s with autOut := vmod s.autOut o f }
/-- Change the tag journal of `o`. -/
def State.onTagJ (s : State) (o : Fin 128) (f : TagJournal → TagJournal) : State := { s with tagJ := vmod s.tagJ o f }
/-- `n` free cells of the pool: those returned last first, then the lowest never used (R170; which cells are taken is a DESIGN CHOICE,
log 16). -/
def Mpl.alloc : Nat → Mpl → List Nat × Mpl
  | 0, m => ([], m)
  | n + 1, m =>
    let x : Nat × Mpl := match m.freed with
      | c :: t => (c, { m with freed := t })
      | [] => (m.unused, { m with unused := m.unused + 1 })
    let r := Mpl.alloc n x.2
    (x.1 :: r.1, r.2)

/-- How many packets have left the front of a queue that held `old` and holds `new`. -/
def packetsGone (old new : List Packet) : Nat :=
  ((List.range (old.length + 1)).find? fun k => (old.drop k).isPrefixOf new).getD old.length

/-- The link memory follows a queue: the cells of the packets that left are returned, and new packets are given cells (R170, R172). -/
def Mpl.relink (m : Mpl) (q : Fin 1024) (old new : List Packet) : Mpl :=
  let chains := vget m.links q
  let k := packetsGone old new
  let m := { m with freed := (chains.take k).flatten ++ m.freed, links := vmod m.links q fun _ => chains.drop k }
  (new.drop (old.length - k)).foldl (fun m p =>
    let a := m.alloc p.cells
    { a.2 with links := vmod a.2.links q fun l => l ++ [a.1] }) m

/-- Change pool queue `q`. -/
def State.onQ (s : State) (q : Fin 1024) (f : PoolQ → PoolQ) : State :=
  let old := vget s.mpl.q q
  { s with mpl := { s.mpl.relink q old.packets (f old).packets with q := vmod s.mpl.q q f } }
/-- Change key slot `k`. -/
def State.onKey (s : State) (k : Fin 64) (f : KeySlot → KeySlot) : State := { s with keys := vmod s.keys k f }
/-- Change load channel `c`. -/
def State.onChan (s : State) (c : Fin 32) (f : Chan → Chan) : State :=
  { s with lsw := { s.lsw with chans := vmod s.lsw.chans c f } }

/-- Lane `l`. -/
def State.lane (s : State) (l : Fin 128) : Lane := vget s.lanes l
/-- Ring `r`. -/
def State.ring (s : State) (r : Fin 57) : Ring := vget s.rings r
/-- Context `o`. -/
def State.ctx (s : State) (o : Fin 128) : Ctx := vget s.ctxs o
/-- Safety state of outlet `o`. -/
def State.saf1 (s : State) (o : Fin 128) : SafOut := vget s.safOut o
/-- Safety latches of outlet `o`. -/
def State.safJ1 (s : State) (o : Fin 128) : SafeJournal := vget s.safJ o
/-- Share state of outlet `o`. -/
def State.shr1 (s : State) (o : Fin 128) : ShareOut := vget s.shrOut o
/-- Station `o`. -/
def State.sta (s : State) (o : Fin 128) : Station := vget s.stas o
/-- Measurement of outlet `o`. -/
def State.met1 (s : State) (o : Fin 128) : MetOut := vget s.metOut o
/-- Energy state of outlet `o`. -/
def State.enr1 (s : State) (o : Fin 128) : OutEnr := vget s.enrOut o
/-- Billing state of outlet `o`. -/
def State.bil1 (s : State) (o : Fin 128) : OutBil := vget s.bilOut o
/-- Reader state of outlet `o`. -/
def State.aut1 (s : State) (o : Fin 128) : OutAut := vget s.autOut o
/-- Tag journal of outlet `o`. -/
def State.tagJ1 (s : State) (o : Fin 128) : TagJournal := vget s.tagJ o
/-- Pool queue `q`. -/
def State.poolQ (s : State) (q : Fin 1024) : PoolQ := vget s.mpl.q q
/-- Key slot `k`. -/
def State.keySlot (s : State) (k : Fin 64) : KeySlot := vget s.keys k

/-! ### Bits and bytes (R11: little-endian) -/

/-- A bit as a number. -/
def b2n (b : Bool) : Nat := if b then 1 else 0

/-- A word from its fields, each given as its lowest bit and its value. -/
def pack (fs : List (Nat × Nat)) : Word := BitVec.ofNat 32 (fs.foldl (fun a f => a + f.2 * 2 ^ f.1) 0)

/-- The field of `n` bits of `v` whose lowest bit is `lo`. -/
def fld (v : Word) (lo n : Nat) : Nat := v.toNat / 2 ^ lo % 2 ^ n

/-- Bit `i` of `v`. -/
def bit (v : Word) (i : Nat) : Bool := v.getLsbD i

/-- A number from a list of bits, the first the lowest. -/
def ofBits (l : List Bool) : Nat := l.foldr (fun b a => b2n b + 2 * a) 0

/-- The `n` lowest bytes of a number, little-endian. -/
def leBytes (n v : Nat) : List Byte :=
  (List.range n).map fun i => BitVec.ofNat 8 (v / 2 ^ (8 * i))

/-- The number of a little-endian list of bytes. -/
def ofBytes (l : List Byte) : Nat := l.foldr (fun b a => b.toNat + 256 * a) 0

/-- The number of a big-endian list of bytes. -/
def ofBytesBE (l : List Byte) : Nat := l.foldl (fun a b => b.toNat + 256 * a) 0

/-- The `n` lowest bytes of a number, big-endian. -/
def beBytes (n v : Nat) : List Byte := (leBytes n v).reverse

/-- Bytes of 32-bit words, little-endian. -/
def wordBytes (l : List Word) : List Byte := l.flatMap fun w => leBytes 4 w.toNat

/-- The 32-bit words of a list of bytes, little-endian; a short last word is filled with zeros. -/
def bytesWords : List Byte → List Word
  | a :: b :: c :: d :: t => BitVec.ofNat 32 (ofBytes [a, b, c, d]) :: bytesWords t
  | [] => []
  | t => [BitVec.ofNat 32 (ofBytes t)]

/-- Word `i` of a list, 0 beyond its end. -/
def wAt (l : List Word) (i : Nat) : Word := l.getD i 0

/-- The number of `n` consecutive words from word `i`, the first the lowest. -/
def wNat (l : List Word) (i n : Nat) : Nat :=
  (List.range n).foldl (fun a k => a + (wAt l (i + k)).toNat * 2 ^ (32 * k)) 0

/-- Payload field: 8 bits. -/
def p8 (v : Nat) : List Byte := leBytes 1 v
/-- Payload field: 16 bits. -/
def p16 (v : Nat) : List Byte := leBytes 2 v
/-- Payload field: 32 bits. -/
def p32 (v : Nat) : List Byte := leBytes 4 v
/-- Payload field: 64 bits. -/
def p64 (v : Nat) : List Byte := leBytes 8 v

/-- An integer as two's complement in `n` bits. -/
def twos (n : Nat) (v : Int) : Nat := (v % (2 ^ n : Nat)).toNat

/-- A number of `n` bits read as two's complement. -/
def signed (n : Nat) (v : Nat) : Int := if v % 2 ^ n < 2 ^ (n - 1) then (v % 2 ^ n : Nat) else ((v % 2 ^ n : Nat) : Int) - (2 ^ n : Nat)

/-! ### Serial numbers (R12) -/

/-- RFC 1982 for `n`-bit numbers: `a` is later than `b`. Two numbers exactly half the series apart do not compare. -/
def laterN (n a b : Nat) : Bool := let d := (a + 2 ^ n - b % 2 ^ n) % 2 ^ n; 0 < d && d < 2 ^ (n - 1)

/-- `a` is later than `b`, 32-bit numbers. -/
def later (a b : BitVec 32) : Bool := laterN 32 a.toNat b.toNat

/-- A signed amount of R10 in `n` bits as a limit or a request: one below 0 allows nothing and asks for nothing (DESIGN CHOICE, log 144). -/
def amount (n v : Nat) : Nat := (signed n v).toNat

/-! ### CRC-32 of R94 -/

/-- One bit step of the reflected CRC-32 with polynomial 0x04C1_1DB7. -/
def crcBit (c : BitVec 32) : BitVec 32 :=
  if c.getLsbD 0 then (c >>> 1) ^^^ 0xEDB88320#32 else c >>> 1

/-- One byte of the CRC-32. -/
def crcByte (c : BitVec 32) (b : Byte) : BitVec 32 :=
  Nat.repeat crcBit 8 (c ^^^ b.zeroExtend 32)

/-- CRC-32 of R94: initial value and final inversion of all ones, bits reflected. -/
def crc32 (l : List Byte) : BitVec 32 := (l.foldl crcByte 0xFFFFFFFF#32) ^^^ 0xFFFFFFFF#32

/-! ### Time -/

/-- Nanoseconds in a microsecond. -/
def usNs : Nat := 1000
/-- Nanoseconds in a millisecond. -/
def msNs : Nat := 1000000
/-- Nanoseconds in a second. -/
def secNs : Nat := 1000000000

/-- Tick time now (R62). -/
def State.now (s : State) : Nat := s.tim.tick

/-- Legal seconds now (R8). -/
def State.legalSec (s : State) : Nat := s.tim.legal / 2 ^ 24

/-- Mains cycle count now (R8). -/
def State.cycle (s : State) : Nat := s.tim.mains / 65536

/-- At least `ns` nanoseconds have passed since tick `t`. -/
def State.since (s : State) (t ns : Nat) : Bool := decide (t + ns ≤ s.tim.tick)

/-- Progress of the angle in one step-clock period, in 10^-14 angle units (R65). -/
def Tim.rate (t : Tim) : Nat := t.freq * 65536000

/-- The angle clock over `n` step-clock periods: it holds still while a hold under R70 lasts, and closes a phase error by
running at most 1 % fast or slow (R67). -/
def Tim.runMains (t : Tim) (n : Nat) : Tim :=
  let p := n * t.rate
  let h := min t.angleHold p
  let p := p - h
  let e : Int := if 0 ≤ t.angleErr then min t.angleErr (p / 100 : Nat) else max t.angleErr (-(p / 100 : Nat) : Int)
  let all := t.mainsRem + ((p : Int) + e).toNat
  { t with mains := t.mains + all / 10 ^ 14, mainsRem := all % 10 ^ 14, angleHold := t.angleHold - h, angleErr := t.angleErr - e }

/-- Legal time over `n` step-clock periods (R78), with the slew of R81 at 500 ppm (the spec gives the bound; DESIGN CHOICE,
log 14). -/
def Tim.runLegal (t : Tim) (n : Nat) : Tim :=
  let full := t.slewRem + (if t.slewLeft = 0 then 0 else n * 8388608)
  let k := min (full / 10 ^ 11) t.slewLeft.natAbs
  let left : Int := if 0 ≤ t.slewLeft then t.slewLeft - k else t.slewLeft + k
  let all : Int := (t.legal * 10 ^ 11 + t.legalRem + n * 16777216000 : Nat) + (t.slewLeft - left) * 10 ^ 11
  { t with legal := all.toNat / 10 ^ 11, legalRem := all.toNat % 10 ^ 11, slewLeft := left,
           slewRem := if left = 0 then 0 else full % 10 ^ 11 }

/-- The module's clocks run (R59 to R62, R65, R78): it is powered and its reset is released. In a removal that began in power-on reset
they stand. -/
def State.clocksRun (s : State) : Bool :=
  s.glb.phase == .running || s.glb.phase == .serviceReset || (s.glb.phase == .removal && !s.glb.removalHeld)

/-- `n` step-clock periods of 10 ns pass (R62). Where the powered clocks stand, only the real-time clock of the always-on
domain runs (R46, R78); the tick then serves the model as a measure of the time passed. -/
def State.advance (s : State) (n : Nat) : State :=
  if s.clocksRun then
    let t := (s.tim.runMains n).runLegal n
    { s with tim := { t with tick := t.tick + 10 * n, syncAgeTicks := t.syncAgeTicks + 10 * n } }
  else
    let t := s.tim
    let r := s.keep.rtcRem + n * 16777216
    { s with tim := { t with tick := t.tick + 10 * n, syncAgeTicks := t.syncAgeTicks + 10 * n }
             keep := { s.keep with rtc := s.keep.rtc + r / 10 ^ 8, rtcRem := r % 10 ^ 8 } }

/-- Time runs on to tick `d`, if it has not come yet (log 15). -/
def State.toTick (s : State) (d : Nat) : State := s.advance ((d - s.tim.tick + 9) / 10)

/-- The next sample that the always-on domain takes of the seating and tamper inputs in Keep, every 125 ms (R50); in the other states
they are read at once. -/
def State.keepSample (s : State) : State :=
  if s.glb.phase = .keep then s.toTick (s.glb.keepAt + ((s.now - s.glb.keepAt) / (125 * msNs) + 1) * (125 * msNs)) else s

/-- The step-clock periods until mains time reaches `v` at the present rate. -/
def Tim.untilMains (t : Tim) (v : Nat) : Nat :=
  let need := v * 10 ^ 14 - (t.mains * 10 ^ 14 + t.mainsRem)
  let up (a b : Nat) : Nat := (a + b - 1) / b
  let p := if 0 ≤ t.angleErr then max (up (100 * need) 101) (need - t.angleErr.natAbs)
    else min (need + t.angleErr.natAbs) (up (100 * need) 99)
  if need = 0 then 0 else up (p + t.angleHold) t.rate

/-- Time runs on until mains time reaches `v`, if it has not yet (log 15). -/
def State.toMains (s : State) (v : Nat) : State := s.advance (s.tim.untilMains v)

/-- Time runs on until legal time reaches `v` (2^-24 s), if it has not yet (log 15). -/
def State.toLegal (s : State) (v : Nat) : State :=
  s.advance (((v - s.tim.legal) * 10 ^ 8 + 16777215) / 16777216)

/-! ### Free values and what the block sends -/

/-- A free value, and the state that has taken it. -/
def State.free (s : State) : BitVec 64 × State := (Config.free s.fresh, { s with fresh := s.fresh + 1 })

/-- A draw of the random generator, and the state that has taken it. -/
def State.draw (s : State) : BitVec 256 × State := (Config.random s.fresh, { s with fresh := s.fresh + 1 })

/-- The block sends something. -/
def State.send (s : State) (o : Out) : State := { s with out := o :: s.out }

/-- Fold a state change over a list. -/
def forAll {α : Type} (l : List α) (f : State → α → State) (s : State) : State := l.foldl f s

/-! ### Performance counters (R608, R609, R611) -/

/-- Add `n` events of a code to the counters of a group that select it; a wrap sets OVF (R608, R609). -/
def PmcGroup.add (x : PmcGroup) (code n : Nat) : PmcGroup :=
  let hit (k : Fin 8) : Bool := (vget x.sel k).toNat == code
  { x with
    cnt := Vector.ofFn fun k => if hit k then vget x.cnt k + BitVec.ofNat 48 n else vget x.cnt k
    ovf := (List.finRange 8).foldl (fun v k =>
      if hit k && decide (2 ^ 48 ≤ (vget x.cnt k).toNat + n) then v ||| (1#8 <<< k.val) else v) x.ovf }

/-- The model counts `n` events of a group (R608); the group counts while EN = 1. -/
def State.count (s : State) (g : Fin 8) (code n : Nat) : State :=
  { s with pmc := { s.pmc with groups := vmod s.pmc.groups g fun x => if x.en then x.add code n else x } }

/-- Characters 1 to 198 of a frame count in the bandwidth monitors of its lane and direction (R611). -/
def State.laneBytes (s : State) (l : Fin 128) (outward : Bool) : State :=
  { s with pmc := { s.pmc with mons := vall s.pmc.mons fun m =>
    if m.port.toNat = l.val ∧ m.dir = outward ∧ m.startAt ≤ s.tim.tick then { m with run := m.run + 198 } else m } }

/-! ### Handles (R6) -/

/-- The device's slot, as latched. -/
def State.slotNo (s : State) : Nat := s.glb.slot.toNat

/-- The outlet handle of outlet `o` of this device (R6). -/
def State.handle (s : State) (o : Fin 128) : Nat := s.slotNo * 128 + o.val

/-- The outlet of this device that a 16-bit handle names; none for a reserved bit or another device's handle. -/
def State.ofHandle (s : State) (h : Nat) : Option (Fin 128) :=
  if h < 512 ∧ h / 128 = s.slotNo then some (fin 128 (h % 128)) else none

/-- Journalled or live device serial (R1, R42). -/
def State.serial (s : State) : Nat := s.keep.serial.toNat

end Sys2Proof.Machine
end

