-- ==== Sys2Proof/Machine/Crypto.lean ====
section
/-! DEFINITION. The cryptographic functions the spec names and takes from outside standards: AES-128 (FIPS 197), AES-CMAC (RFC 4493),
SHA-256 (FIPS 180-4) and ECDSA over P-256 (FIPS 186); their constants are those of the standards (PRESUMED, log 4). -/

namespace Sys2Proof.Machine

/-! ### AES-128 -/

/-- The substitution box of FIPS 197. -/
def aesSbox : List Nat :=
  ([
    99, 124, 119, 123, 242, 107, 111, 197, 48, 1, 103, 43, 254, 215, 171, 118,
    202, 130, 201, 125, 250, 89, 71, 240, 173, 212, 162, 175, 156, 164, 114, 192,
    183, 253, 147, 38, 54, 63, 247, 204, 52, 165, 229, 241, 113, 216, 49, 21,
    4, 199, 35, 195, 24, 150, 5, 154, 7, 18, 128, 226, 235, 39, 178, 117] : List Nat) ++
  ([
    9, 131, 44, 26, 27, 110, 90, 160, 82, 59, 214, 179, 41, 227, 47, 132,
    83, 209, 0, 237, 32, 252, 177, 91, 106, 203, 190, 57, 74, 76, 88, 207,
    208, 239, 170, 251, 67, 77, 51, 133, 69, 249, 2, 127, 80, 60, 159, 168,
    81, 163, 64, 143, 146, 157, 56, 245, 188, 182, 218, 33, 16, 255, 243, 210] : List Nat) ++
  ([
    205, 12, 19, 236, 95, 151, 68, 23, 196, 167, 126, 61, 100, 93, 25, 115,
    96, 129, 79, 220, 34, 42, 144, 136, 70, 238, 184, 20, 222, 94, 11, 219,
    224, 50, 58, 10, 73, 6, 36, 92, 194, 211, 172, 98, 145, 149, 228, 121,
    231, 200, 55, 109, 141, 213, 78, 169, 108, 86, 244, 234, 101, 122, 174, 8] : List Nat) ++
  ([
    186, 120, 37, 46, 28, 166, 180, 198, 232, 221, 116, 31, 75, 189, 139, 138,
    112, 62, 181, 102, 72, 3, 246, 14, 97, 53, 87, 185, 134, 193, 29, 158,
    225, 248, 152, 17, 105, 217, 142, 148, 155, 30, 135, 233, 206, 85, 40, 223,
    140, 161, 137, 13, 191, 230, 66, 104, 65, 153, 45, 15, 176, 84, 187, 22] : List Nat)

/-- Substitution of one byte. -/
def subByte (b : Byte) : Byte := BitVec.ofNat 8 (aesSbox.getD b.toNat 0)

/-- Multiplication by x in the field of FIPS 197. -/
def xtime (b : Byte) : Byte := if b.getLsbD 7 then (b <<< 1) ^^^ 0x1B#8 else b <<< 1

/-- Two lists of bytes, added byte by byte. -/
def xorBytes (a b : List Byte) : List Byte := List.zipWith (· ^^^ ·) a b

/-- ShiftRows on the 16 bytes of the state, column by column. -/
def shiftRows (s : List Byte) : List Byte :=
  (List.range 16).map fun i => s.getD ((i + 4 * (i % 4)) % 16) 0

/-- MixColumns on one column. -/
def mixColumn (c : List Byte) : List Byte :=
  (List.range 4).map fun i =>
    let a (k : Nat) : Byte := c.getD ((i + k) % 4) 0
    xtime (a 0) ^^^ (xtime (a 1) ^^^ a 1) ^^^ a 2 ^^^ a 3

/-- MixColumns on the 16 bytes of the state. -/
def mixColumns (s : List Byte) : List Byte := (List.range 4).flatMap fun c => mixColumn ((s.drop (4 * c)).take 4)

/-- The next round key, with the round constant given. -/
def nextRoundKey (k : List Byte) (rcon : Byte) : List Byte :=
  let t := (k.drop 12).map subByte
  let w0 := xorBytes (k.take 4) (xorBytes (t.drop 1 ++ t.take 1) [rcon, 0, 0, 0])
  let w1 := xorBytes ((k.drop 4).take 4) w0
  let w2 := xorBytes ((k.drop 8).take 4) w1
  w0 ++ w1 ++ w2 ++ xorBytes (k.drop 12) w2

/-- Rounds 1 to 10 on a state, with the key of the round before: the last round does not mix its columns. -/
def aesRounds : List Nat → List Byte → List Byte → List Byte
  | [], _, s => s
  | r :: rest, k, s =>
    let k := nextRoundKey k (BitVec.ofNat 8 r)
    let s := shiftRows (s.map subByte)
    aesRounds rest k (xorBytes (if rest.isEmpty then s else mixColumns s) k)

/-- AES-128 encryption of the 16 bytes of a block under the 16 bytes of a key (FIPS 197). -/
def aesBytes (k b : List Byte) : List Byte :=
  aesRounds [0x01, 0x02, 0x04, 0x08, 0x10, 0x20, 0x40, 0x80, 0x1B, 0x36] k (xorBytes b k)

/-- A block of 16 bytes as a number, the first byte the most significant. -/
def block128 (l : List Byte) : BitVec 128 := BitVec.ofNat 128 (ofBytesBE (l.take 16))

/-- The 16 bytes of a block. -/
def blockBytes (b : BitVec 128) : List Byte := beBytes 16 b.toNat

/-- AES-128 encryption of one block under a key (R107, R352, R353, R457, R489). -/
def aesEncrypt (k b : BitVec 128) : BitVec 128 := block128 (aesBytes (blockBytes k) (blockBytes b))

/-! ### AES-CMAC -/

/-- A subkey of RFC 4493: doubling in the field of the blocks. -/
def cmacDouble (b : BitVec 128) : BitVec 128 := if b.getLsbD 127 then (b <<< 1) ^^^ 0x87#128 else b <<< 1

/-- The chain of RFC 4493 over full blocks; the last block comes complete, with its subkey. -/
def cmacChain (k : BitVec 128) : List (BitVec 128) → BitVec 128 → BitVec 128
  | [], x => x
  | b :: rest, x => cmacChain k rest (aesEncrypt k (x ^^^ b))

/-- AES-CMAC of a message under a 128-bit key (RFC 4493; R107, R352, R471). -/
def aesCmac (k : BitVec 128) (m : List Byte) : BitVec 128 :=
  let n := if m.isEmpty then 1 else (m.length + 15) / 16
  let full := m.length = 16 * n
  let k1 := cmacDouble (aesEncrypt k 0)
  let last := m.drop (16 * (n - 1))
  let last := if full then block128 last ^^^ k1
    else block128 (last ++ 0x80#8 :: List.replicate (15 - last.length) 0#8) ^^^ cmacDouble k1
  cmacChain k (((List.range (n - 1)).map fun i => block128 ((m.drop (16 * i)).take 16)) ++ [last]) 0

/-! ### AES-CCM (R492) -/

/-- Bytes filled up with zeros to whole blocks. -/
def padBlocks (l : List Byte) : List (BitVec 128) :=
  (List.range ((l.length + 15) / 16)).map fun i =>
    let b := (l.drop (16 * i)).take 16
    block128 (b ++ List.replicate (16 - b.length) 0#8)

/-- Counter block `i` of SP 800-38C for a nonce of 13 bytes. -/
def ccmCounter (nonce : List Byte) (i : Nat) : BitVec 128 := block128 (0x01#8 :: nonce ++ beBytes 2 i)

/-- Encrypt or decrypt a payload in the counter mode of CCM. -/
def ccmCrypt (k : BitVec 128) (nonce p : List Byte) : List Byte :=
  ((List.range ((p.length + 15) / 16)).flatMap fun i =>
    xorBytes ((p.drop (16 * i)).take 16) (blockBytes (aesEncrypt k (ccmCounter nonce (i + 1)))))

/-- The 8-byte MIC of CCM over associated data and a payload in plain, with a nonce of 13 bytes. -/
def ccmMic (k : BitVec 128) (nonce aad p : List Byte) : List Byte :=
  let b0 := block128 (0x59#8 :: nonce ++ beBytes 2 p.length)
  let t := cmacChain k (b0 :: padBlocks (beBytes 2 aad.length ++ aad) ++ padBlocks p) 0
  (blockBytes (t ^^^ aesEncrypt k (ccmCounter nonce 0))).take 8

/-! ### SHA-256 -/

/-- The constants of FIPS 180-4. -/
def shaK : List Nat :=
  ([
    0x428A2F98, 0x71374491, 0xB5C0FBCF, 0xE9B5DBA5, 0x3956C25B, 0x59F111F1, 0x923F82A4, 0xAB1C5ED5,
    0xD807AA98, 0x12835B01, 0x243185BE, 0x550C7DC3, 0x72BE5D74, 0x80DEB1FE, 0x9BDC06A7, 0xC19BF174,
    0xE49B69C1, 0xEFBE4786, 0x0FC19DC6, 0x240CA1CC, 0x2DE92C6F, 0x4A7484AA, 0x5CB0A9DC, 0x76F988DA,
    0x983E5152, 0xA831C66D, 0xB00327C8, 0xBF597FC7, 0xC6E00BF3, 0xD5A79147, 0x06CA6351, 0x14292967] : List Nat) ++
  ([
    0x27B70A85, 0x2E1B2138, 0x4D2C6DFC, 0x53380D13, 0x650A7354, 0x766A0ABB, 0x81C2C92E, 0x92722C85,
    0xA2BFE8A1, 0xA81A664B, 0xC24B8B70, 0xC76C51A3, 0xD192E819, 0xD6990624, 0xF40E3585, 0x106AA070,
    0x19A4C116, 0x1E376C08, 0x2748774C, 0x34B0BCB5, 0x391C0CB3, 0x4ED8AA4A, 0x5B9CCA4F, 0x682E6FF3,
    0x748F82EE, 0x78A5636F, 0x84C87814, 0x8CC70208, 0x90BEFFFA, 0xA4506CEB, 0xBEF9A3F7, 0xC67178F2] : List Nat)

/-- The initial hash value of FIPS 180-4. -/
def shaH : List Nat := [0x6A09E667, 0xBB67AE85, 0x3C6EF372, 0xA54FF53A, 0x510E527F, 0x9B05688C, 0x1F83D9AB, 0x5BE0CD19]

/-- Rotation to the right. -/
def ror32 (x : Word) (n : Nat) : Word := x.rotateRight n

/-- The 64 words of the message schedule, built backwards: the newest word is the head. -/
def shaSchedule : Nat → List Word → List Word
  | 0, w => w
  | n + 1, w =>
    let a (i : Nat) : Word := w.getD (i - 1) 0
    let s0 := ror32 (a 15) 7 ^^^ ror32 (a 15) 18 ^^^ (a 15 >>> 3)
    let s1 := ror32 (a 2) 17 ^^^ ror32 (a 2) 19 ^^^ (a 2 >>> 10)
    shaSchedule n ((a 16 + s0 + a 7 + s1) :: w)

/-- One round of the compression function on the words a to h. -/
def shaRound (v : List Word) (k w : Word) : List Word :=
  let x (i : Nat) : Word := v.getD i 0
  let s1 := ror32 (x 4) 6 ^^^ ror32 (x 4) 11 ^^^ ror32 (x 4) 25
  let ch := (x 4 &&& x 5) ^^^ (~~~(x 4) &&& x 6)
  let t1 := x 7 + s1 + ch + k + w
  let s0 := ror32 (x 0) 2 ^^^ ror32 (x 0) 13 ^^^ ror32 (x 0) 22
  let maj := (x 0 &&& x 1) ^^^ (x 0 &&& x 2) ^^^ (x 1 &&& x 2)
  [t1 + s0 + maj, x 0, x 1, x 2, x 3 + t1, x 4, x 5, x 6]

/-- The compression of one block of 64 bytes into the hash value. -/
def shaBlock (h : List Word) (b : List Byte) : List Word :=
  let w := (List.range 16).map fun i => BitVec.ofNat 32 (ofBytesBE ((b.drop (4 * i)).take 4))
  let sched := (shaSchedule 48 w.reverse).reverse
  let v := (shaK.zip sched).foldl (fun v x => shaRound v (BitVec.ofNat 32 x.1) x.2) h
  List.zipWith (· + ·) h v

/-- SHA-256 of a message (FIPS 180-4; R416, R459, R546, R589), the first byte the most significant. -/
def sha256 (m : List Byte) : BitVec 256 :=
  let pad := m ++ 0x80#8 :: List.replicate ((119 - m.length % 64) % 64) 0#8 ++ beBytes 8 (8 * m.length)
  let h := (List.range (pad.length / 64)).foldl (fun h i => shaBlock h ((pad.drop (64 * i)).take 64))
    (shaH.map (BitVec.ofNat 32))
  BitVec.ofNat 256 (h.foldl (fun a w => a * 2 ^ 32 + w.toNat) 0)

/-! ### ECDSA over P-256 -/

/-- The field prime of P-256. -/
def p256P : Nat := 0xFFFFFFFF00000001000000000000000000000000FFFFFFFFFFFFFFFFFFFFFFFF

/-- The order of P-256. -/
def p256Order : Nat := 0xFFFFFFFF00000000FFFFFFFFFFFFFFFFBCE6FAADA7179E84F3B9CAC2FC632551

/-- The coefficient b of P-256; the coefficient a is -3. -/
def p256B : Nat := 0x5AC635D8AA3A93E7B3EBBD55769886BC651D06B0CC53B0F63BCE3C3E27D2604B

/-- The base point of P-256. -/
def p256G : Nat × Nat :=
  (0x6B17D1F2E12C4247F8BCE6E563A440F277037D812DEB33A0F4A13945D898C296,
   0x4FE342E2FE1A7F9B8EE7EB4A7C0F9E162BCE33576B315ECECBB6406837BF51F5)

/-- `x` to the power `e`, below 2^256, modulo `m`. -/
def powMod (m x e : Nat) : Nat :=
  (List.range 256).foldl (fun a i => (if e.testBit (255 - i) then a * a % m * x else a * a) % m) (1 % m)

/-- The inverse modulo a prime. -/
def invMod (m x : Nat) : Nat := powMod m x (m - 2)

/-- The sum of two points of P-256; none is the point at infinity. -/
def ecAdd : Option (Nat × Nat) → Option (Nat × Nat) → Option (Nat × Nat)
  | none, q => q
  | p, none => p
  | some (x1, y1), some (x2, y2) =>
    let m := p256P
    if x1 = x2 ∧ (y1 + y2) % m = 0 then none
    else
      let l := if x1 = x2 then (3 * x1 * x1 + (m - 3)) % m * invMod m (2 * y1 % m) % m
        else (y2 + m - y1) % m * invMod m ((x2 + m - x1) % m) % m
      let x3 := (l * l + 2 * m - x1 - x2) % m
      some (x3, (l * ((x1 + m - x3) % m) + m - y1) % m)

/-- A multiple, below 2^256, of a point. -/
def ecMul (k : Nat) (p : Option (Nat × Nat)) : Option (Nat × Nat) :=
  (List.range 256).foldl (fun a i => let d := ecAdd a a; if k.testBit (255 - i) then ecAdd d p else d) none

/-- Whether X, Y lies on P-256 (R543). -/
def onCurve (x y : BitVec 256) : Bool :=
  let m := p256P
  decide (x.toNat < m) && decide (y.toNat < m) && y.toNat * y.toNat % m == (x.toNat ^ 3 + (m - 3) * x.toNat + p256B) % m

/-- A private key or a nonce from a draw: from 1 to the order less 1 (R543, R545). -/
def privateKey (d : BitVec 256) : Nat := d.toNat % (p256Order - 1) + 1

/-- The P-256 public key, X then Y, of a private key (R543). -/
def ecdsaPublic (d : BitVec 256) : BitVec 256 × BitVec 256 :=
  let q := (ecMul d.toNat (some p256G)).getD (0, 0)
  (BitVec.ofNat 256 q.1, BitVec.ofNat 256 q.2)

/-- ECDSA P-256 signature over a digest with a private key and the nonce of draw `n`: R, then S (R416, R332). FIPS 186 asks for another
nonce where R or S is 0, which the model leaves out (log 4). -/
def ecdsaSign (d digest : BitVec 256) (n : Nat) : BitVec 256 × BitVec 256 :=
  let k := privateKey (Config.random n)
  let r := ((ecMul k (some p256G)).getD (0, 0)).1 % p256Order
  let s := invMod p256Order k * (digest.toNat + r * d.toNat) % p256Order
  (BitVec.ofNat 256 r, BitVec.ofNat 256 s)

/-- ECDSA P-256 verification: public key X, Y, digest, R, S (R546, R589). -/
def ecdsaVerify (x y digest r s : BitVec 256) : Bool :=
  let n := p256Order
  let ok (v : BitVec 256) : Bool := decide (1 ≤ v.toNat) && decide (v.toNat < n)
  let w := invMod n s.toNat
  ok r && ok s && onCurve x y &&
    match ecAdd (ecMul (digest.toNat * w % n) (some p256G)) (ecMul (r.toNat * w % n) (some (x.toNat, y.toNat))) with
    | some q => q.1 % n == r.toNat
    | none => false

end Sys2Proof.Machine
end

