-- ==== Sys2Proof/Machine/ReadRegs.lean ====
section
/-! DEFINITION. What every BAR0 register reads as (R128), block by block, without side effects: the value a recorder
snapshot takes (R443), and the value a bus read returns besides the latching of R88 and R617. Offsets are those of
each block's own register tables; a reserved offset or field reads 0 (R11, R127). -/

namespace Sys2Proof.Machine

/-- Element and remainder of an array of registers at `base`, `n` elements every `stride` bytes. -/
def arr (off base stride n : Nat) : Option (Fin n × Nat) :=
  if h : base ≤ off ∧ (off - base) / stride < n then some (⟨(off - base) / stride, h.2⟩, (off - base) % stride) else none

/-- The low (`k = 0`) or a higher 32-bit word of a number. -/
def word (v k : Nat) : Word := BitVec.ofNat 32 (v / 2 ^ (32 * k))

/-- One word of bits computed per index. -/
def bitsWord (n : Nat) (f : Fin n → Bool) : Word := BitVec.ofNat 32 (ofBits ((List.finRange n).map f))

/-! ### Derived readings -/

/-- A safety input pair is closed and free of faults (R265, R281). -/
def InPair.closed (p : InPair) : Bool := p.a && p.b && !p.fault

/-- A safety output pair is on (R268, R271): its axis is not in STO and it has no output fault. -/
def Axis.on (a : Axis) : Bool := a.state != .sto && !a.outFault

/-- The profile a context runs (R212): its bound profile in the version it holds. -/
def State.ctxProfile (s : State) (o : Fin 128) : Option LoadedProfile :=
  s.seq.profiles.find? fun p => p.prof.id == (s.ctx o).profile && p.version == (s.ctx o).version

/-- The class of a context's current state (R198). -/
def State.ctxClass (s : State) (o : Fin 128) : Nat :=
  match s.ctxProfile o with
  | some p => ((p.prof.states[(s.ctx o).state]?).map (fun r => r.cls.toNat)).getD 0
  | none => 0

/-- The guard word of a context (R200). -/
def State.guard (s : State) (o : Fin 128) : Nat :=
  let c := s.ctx o
  c.flags.toNat + 256 * ofBits [c.authorised, (s.aut1 o).cableValid, (s.sta o).assoc, c.main.fb, c.aux.fb, c.lockFb,
    s.tim.mainsState == .locked, c.limitNonzero]

/-- The version of a profile that the active configuration holds (R212). -/
def State.activeProfile (s : State) (p : Fin 32) : Option LoadedProfile :=
  s.seq.profiles.find? fun x => x.prof.id == p && x.active

/-- A context runs an older version of its profile (R212); a version is identified by its CRC (R602). -/
def State.oldVersion (s : State) (o : Fin 128) : Bool :=
  match s.activeProfile (s.ctx o).profile, s.ctxProfile o with
  | some p, some q => (s.ctx o).bound && p.crc != q.crc
  | _, _ => false

/-- Cells a pool queue holds (R172, R182). -/
def PoolQ.level (q : PoolQ) : Nat := (q.packets.map (·.cells)).sum

/-- The families the reserved part of the backlog is for (R153). -/
def reservedFamily (code : BitVec 16) : Bool :=
  let f := code.toNat / 256
  f == 2 || f == 5 || f == 6 || f == 10 || f == 16

/-- A pool queue is tunable (R171). -/
def tunable (q : Nat) : Bool := q < 256 || (264 ≤ q && q < 290)

/-- Sum of HIGH_WM + 8 over the tunable queues (R175). -/
def Mpl.highSum (m : Mpl) : Nat :=
  ((List.finRange 1024).map fun q => if tunable q.val then (vget m.q q).high + 8 else 0).sum

/-- The waiting events that queue 256 (general part, `resv` false) or 257 (reserved part) holds (R171). -/
def State.backlogOf (s : State) (resv : Bool) : List Event := s.rng.backlog.filter fun e => e.resv == resv

/-- Cells of the general or the reserved backlog queue: four events to a cell (R172). The events that wait are counted as if packed anew
after each change (DESIGN CHOICE, log 16). -/
def State.backlogCells (s : State) (resv : Bool) : Nat := ((s.backlogOf resv).length + 3) / 4

/-- Free cells of the pool (R175). -/
def State.freeCells (s : State) : Nat :=
  65536 - ((s.mpl.q.toList.map PoolQ.level).sum + s.backlogCells false + s.backlogCells true)

/-- The backlog queue a pool queue number names: 256 the general one, 257 the reserved one (R171). -/
def backlogNo (q : Nat) : Option Bool := if q = 256 then some false else if q = 257 then some true else none

/-- The station's state code (R335). -/
def State.staCode (s : State) (o : Fin 128) : Nat :=
  let h := s.handle o
  if (s.sta o).assoc then 5
  else if s.plc.runs.any (fun r => r.phase == .validating && r.held.contains h) then 4
  else if s.plc.runs.any (fun r => r.phase == .answering && r.held.contains h) then 3
  else if s.plc.runs.any (fun r => (r.phase == .opened || r.phase == .sounding || r.phase == .waiting) && r.cands.contains h) then 2
  else if (s.sta o).armed then 1 else 0

/-- Cost of the link to a node (R495); 0 where there is no link. -/
def KiteNode.linkCost (n : KiteNode) : Nat :=
  if !n.neighbour then 0
  else
    let q := min n.snrIn n.snrOut
    let c := if q = 3 then 1 else if q = 2 then 2 else if q = 1 then 4 else 0
    if c = 0 then 0 else if n.penalty then min 15 (c + 8) else c

/-- This device carries the Kite node of its cluster (R482). -/
def State.kiteActive (s : State) : Bool :=
  s.kit.en && s.slotNo == 0 && (s.tie.role == .alone || s.tie.role == .active)

/-- Largest count of events in the window of any instance of a tally class (R535). -/
def State.tallyInWindow (s : State) (k : Fin 16) : Nat :=
  (s.tie.tally.filter (fun e => e.cls == k)).foldl
    (fun a e => max a (e.times.filter (fun t => decide (s.now ≤ t + vget s.tie.tallyW k * msNs))).length) 0

/-- A tally class has a lasting instance (R528). -/
def State.tallyLasting (s : State) (k : Fin 16) : Bool := s.tie.tally.any fun e => e.cls == k && e.lasting

/-- The value of a role (R169). -/
def Role.code : Role → Nat
  | .host => 1 | .operator => 2 | .custodian => 3 | .legal => 4 | .service => 5

/-- The TYPE code of a key slot (R536, R551). -/
def keyType (k : Nat) : Nat :=
  if k ≤ 4 then 1 else if k = 5 then 2 else if k ≤ 9 then 3 else if 16 ≤ k ∧ k ≤ 31 then 2 else 0

/-- The USES bits of a key slot (R536, R551). -/
def keyUses (k : Nat) : Nat :=
  if k = 0 then 1 else if k = 1 then 2 else if k = 2 then 4 else if k = 3 ∨ k = 4 then 8
  else if k = 5 then 32 else if 6 ≤ k ∧ k ≤ 8 then 64 else if k = 9 then 128 else if 16 ≤ k ∧ k ≤ 31 then 16 else 0

/-! ### Blocks -/

/-- GLB (R42). -/
def rdGlb (s : State) (off : Nat) : Word :=
  let g := s.glb
  if off = 0x10 then pack [(0, g.slot.toNat), (2, b2n g.side), (3, b2n g.dbg), (8, g.slotLive.toNat), (10, b2n g.sideLive),
    (16, b2n g.mismatch)]
  else if off = 0x14 then pack [(0, g.seat.toNat), (4, b2n g.vinOk), (8, g.vbankOk.toNat), (16, b2n g.seatGlitch)]
  else 0

/-- The code of MAINS_STATE (R88). -/
def MainsState.code : MainsState → Nat | .acquire => 0 | .locked => 1 | .coast => 2
/-- The code of LEGAL_STATE (R88). -/
def LegalState.code : LegalState → Nat | .unsync => 0 | .synced => 1 | .aged => 2

/-- The phase class of an outlet: DC outlets always read 0 (R71). -/
def phaseClass (s : State) (o : Fin 128) : Nat :=
  if (s.ctxProfile o).any fun p => p.prof.dc then 0 else (s.met1 o).phase.cls.toNat

/-- TIM (R88). -/
def rdTim (s : State) (off : Nat) : Word :=
  let t := s.tim
  if off = 0 then pack [(0, b2n t.nominal60), (1, b2n t.source), (31, b2n t.lock)]
  else if off = 4 then pack [(0, t.mainsState.code), (2, b2n t.outOfRange), (3, b2n t.refHoldover), (4, t.legalState.code),
    (6, b2n t.slewing), (16, b2n t.mainsLostF), (17, b2n t.phaseStepF), (18, b2n t.legalStepF), (19, b2n t.refLostF),
    (20, b2n t.phaseChangeF)]
  else if off = 0x10 then word t.snapTick 0
  else if off = 0x14 then word t.snapTick 1
  else if off = 0x18 then word t.snapMains 0
  else if off = 0x1C then word t.snapMains 1
  else if off = 0x20 then word t.snapLegal 0
  else if off = 0x24 then word t.snapLegal 1
  else if off = 0x28 then word t.freq 0
  else if off = 0x2C then pack [(0, s.cfg.syncAge), (20, s.cfg.maxStep)]
  else match arr off 0x100 4 8 with
    | some (b, 0) => pack ((List.range 16).map fun i => (2 * i, phaseClass s (fin 128 (16 * b.val + i))))
    | _ => 0

/-- RNG (R169). -/
def rdRng (s : State) (off : Nat) : Word :=
  let g := s.rng
  if off = 0 then pack [(0, g.errVector.toNat)]
  else if off = 4 then pack [(0, b2n g.ringErr), (1, b2n g.backlogHigh), (2, b2n g.lost), (3, b2n g.framesLost)]
  else if off = 8 then pack [(0, min 65535 g.backlog.length), (16, g.backlogCount.toNat)]
  else if off = 0x10 ∨ off = 0x14 then
    pack ((List.range 8).map fun i => (4 * i, (vget g.evtClass (fin 17 (2 * (off - 0x10) + i))).toNat))
  else if off = 0x18 then pack [(0, (vget g.evtClass 16).toNat)]
  else match arr off 0x100 4 16 with
    | some (w, 0) => pack ((List.range 8).map fun i => (4 * i, (vget g.frxMap (fin 128 (8 * w.val + i))).toNat))
    | _ => match arr off 0x1000 0x40 57 with
      | some (n, r) =>
        let x := s.ring n
        if r = 0 then word x.base.toNat 0 else if r = 4 then word x.base.toNat 1
        else if r = 8 then pack [(0, b2n x.en), (1, x.sizeCode.toNat), (5, x.role.toNat), (8, x.vector.toNat),
          (14, x.modCount.toNat), (22, x.modTime.toNat)]
        else if r = 0xC then word x.wb.toNat 0 else if r = 0x10 then word x.wb.toNat 1
        else if r = 0x14 then x.hostIdx else if r = 0x18 then x.devIdx
        else if r = 0x1C then pack [(0, x.errCause.toNat), (31, b2n x.err)] else 0
      | none => 0

/-- MPL (R182). -/
def rdMpl (s : State) (off : Nat) : Word :=
  if off = 0 then pack [(0, s.freeCells), (30, b2n s.mpl.eccDrop), (31, b2n s.mpl.wmRefused)]
  else if off = 4 then pack [(0, s.mpl.highSum)]
  else match arr off 0x1000 16 1024 with
    | some (n, r) =>
      let q := s.poolQ n
      if r = 0 then pack [(0, q.high), (16, q.low)]
      else match backlogNo n.val with
      | some k =>
        let b := vget s.rng.backQ (fin 2 (b2n k))
        let c := s.backlogCells k
        if r = 4 then pack [(0, c), (16, c), (31, b2n b.paused)] else if r = 8 then b.pauses else if r = 12 then b.drops else 0
      | none =>
      if r = 4 then pack [(0, min 65535 q.level), (16, min 0x7FFF (q.packets.filter (·.complete)).length), (31, b2n q.paused)]
      else if r = 8 then q.pauses else if r = 12 then q.drops else 0
    | none => 0

/-- The code of a link state (R89). -/
def LinkState.code : LinkState → Nat
  | .down => 0 | .train => 1 | .idle => 2 | .attach => 3 | .up => 4 | .listen => 5 | .slack => 6

/-- STR (R123). -/
def rdStr (s : State) (off : Nat) : Word :=
  if off = 0 then pack [(0, s.cfg.wdDefault), (16, s.cfg.openDefault)]
  else if off = 4 then pack [(0, b2n s.str.anyDown), (1, b2n s.str.anySlack), (2, b2n s.str.anyConflict), (3, b2n s.str.anyRefused)]
  else match arr off 0x1000 16 128 with
    | some (n, r) =>
      let l := s.lane n
      if r = 0 then pack [(0, l.wdWindow), (16, b2n l.en), (18, l.openConfirm)]
      else if r = 4 then pack [(0, l.link.code), (16, l.rtt), (28, b2n l.crcBurst), (29, b2n l.attachFail), (30, b2n l.slackSeen),
        (31, b2n l.conflictF)]
      else if r = 8 then l.crcErr else if r = 12 then l.epoch else 0
    | none => 0

/-- SEQ (R235). -/
def rdSeq (s : State) (off : Nat) : Word :=
  let q := s.seq
  if off = 0 then pack [(0, b2n q.trigLostAny), (1, b2n q.refusedAny), (2, b2n q.faultAny), (3, b2n q.reloadAny),
    (4, b2n q.mismatchAny), (5, b2n q.outlierAny)]
  else if off = 4 then bitsWord 32 fun p => q.profiles.any fun x => x.prof.id == p
  else match arr off 0x1000 0x20 128 with
    | some (o, r) =>
      let c := s.ctx o
      let d := vget s.delays o
      if r = 0 then pack [(0, c.profile.val), (5, b2n c.bound), (6, b2n c.enabled)]
      else if r = 4 then pack [(0, c.state), (8, s.ctxClass o), (11, b2n (s.oldVersion o)), (16, c.flags.toNat), (24, c.queue.length)]
      else if r = 8 then pack [(0, c.pilot.toNat), (3, c.prox.toNat), (8, s.guard o / 256), (16, c.duty.toNat), (26, c.mode.toNat % 4)]
      else if r = 0xC then pack [(0, c.high.toNat), (12, c.low.toNat)]
      else if r = 0x10 then pack [(0, d.closeMain), (16, d.openMain)]
      else if r = 0x14 then pack [(0, d.closeAux), (16, d.openAux)]
      else if r = 0x18 then pack [(0, c.trigLost.toNat), (16, c.refusals.toNat)] else 0
    | none => 0

/-- The code of an axis state (R269). -/
def AxisState.code : AxisState → Nat | .sto => 0 | .released => 1 | .ss1 => 2

/-- SAF (R281). -/
def rdSaf (s : State) (off : Nat) : Word :=
  let f := s.saf
  if off = 0 then pack [(0, b2n f.guardOk), (1, b2n f.islandFault), (16, b2n f.tripAny), (17, b2n f.sentinelAny),
    (18, b2n f.stopAny), (19, b2n f.outFaultAny), (20, b2n f.restartAny)]
  else if off = 4 then f.paramCrc
  else if off = 8 then bitsWord 32 fun k => (vget f.pairs k).closed
  else if off = 0xC then bitsWord 32 fun k => (vget f.pairs k).latched
  else if off = 0x10 then pack [(0, (bitsWord 16 fun k => (vget f.axes k).on).toNat),
    (16, (bitsWord 16 fun k => (vget f.axes k).outFault).toNat)]
  else match arr off 0x1000 0x20 128 with
    | some (o, r) =>
      let x := s.saf1 o
      let j := s.safJ1 o
      if r = 0 then pack [(0, x.inv.toNat), (12, b2n x.permit), (13, b2n x.releaseOk), (14, b2n j.rc), (15, b2n j.iso),
        (16, b2n j.weld), (17, b2n x.rdcOk), (18, x.imdSrc.toNat)]
      else if r = 4 then BitVec.ofNat 32 (twos 32 x.idc) else if r = 8 then word x.iac 0
      else if r = 0xC then x.riso else if r = 0x10 then pack [(0, x.trips.toNat), (16, x.interventions.toNat)] else 0
    | none => match arr off 0x2000 0x10 16 with
      | some (k, r) =>
        let a := vget f.axes k
        if r = 0 then pack [(0, a.state.code), (2, b2n a.standstill), (16, twos 16 a.speed)] else if r = 4 then a.pos else 0
      | none => 0

/-- The code of the source of the power limit (R307). -/
def ShareSource.code : ShareSource → Nat | .setup => 0 | .command => 1 | .kiteGrant => 2 | .kiteFallback => 3

/-- SHR (R307). -/
def rdShr (s : State) (off : Nat) : Word :=
  let h := s.shr
  if off = 0 then pack [(0, b2n h.en), (1, b2n h.incomerEn), (2, b2n h.kiteEn), (3, b2n h.kiteMaster), (4, b2n h.reclaimEn),
    (16, h.shareAngle.toNat)]
  else if off = 4 then pack [(0, h.source.code), (2, b2n h.kiteGrant.isSome), (3, b2n h.peerMode), (16, b2n h.minDenied),
    (17, b2n h.overload), (18, b2n h.late), (19, b2n h.kiteExpired), (20, b2n h.peerFallback)]
  else if off = 0x1C then h.siteLo
  else if off = 0x20 then word h.site.power 1
  else if off = 0x24 then word h.ramp 0
  else if off = 0x28 then pack ((List.finRange 4).map fun n => (8 * n.val, vget s.cfg.peerShare n))
  else if off = 0x2C then pack [(0, s.cfg.fallbackPct), (8, s.cfg.kitePeriod)]
  else if off = 0x3C then word h.eff.power 0 else if off = 0x40 then word h.eff.power 1
  else if off = 0x50 then h.cycle else if off = 0x54 then word s.cfg.vnom 0
  else match arr off 0x10 4 3 with
    | some (p, 0) => word (vget h.site.ph p) 0
    | _ => match arr off 0x30 4 3 with
      | some (p, 0) => word (vget h.eff.ph p) 0
      | _ => match arr off 0x44 4 3 with
        | some (p, 0) => word (vget h.load p) 0
        | _ => match arr off 0x1000 0x10 128 with
          | some (o, r) =>
            let x := s.shr1 o
            if r = 0 then pack [(0, x.prio), (4, x.weight), (8, x.state.toNat), (10, x.phases.toNat)]
            else if r = 4 then word x.request 0 else if r = 8 then word x.ceiling 0 else if r = 12 then word x.grant 0 else 0
          | none => 0

/-- PLC and SLC (R335). -/
def rdPlc (s : State) (off : Nat) : Word :=
  let p := s.plc
  if off = 0 then pack [(0, b2n p.en), (1, b2n p.quietEn), (2, b2n p.crossDev), (16, p.txAtten.toNat), (31, b2n p.lock)]
  else if off = 4 then word p.mac.toNat 0 else if off = 8 then word p.mac.toNat 1
  else if off = 0xC then pack [(0, b2n p.failAny), (1, b2n p.conflictAny), (2, b2n p.frameDrop), (3, b2n p.commonImpulse),
    (4, b2n p.stationFault), (5, b2n p.peerMissing), (16, p.impulseCount.toNat)]
  else if off = 0x100 then pack [(0, s.cfg.assocWin), (8, s.cfg.soundWin), (20, s.cfg.matchT)]
  else if off = 0x104 then pack [(0, s.cfg.scoreMargin), (10, s.cfg.attenMax), (20, s.cfg.minSounds), (24, s.cfg.validate.toNat)]
  else if off = 0x108 then pack [(0, s.cfg.togMin), (12, s.cfg.togMax)]
  else match arr off 0x1000 0x20 128 with
    | some (o, r) =>
      let x := s.sta o
      if r = 0 then pack [(0, s.staCode o), (3, b2n x.assoc), (16, x.score.toNat)]
      else if r = 4 then word x.ev.toNat 0 else if r = 8 then word x.ev.toNat 1
      else if r = 12 then pack [(0, x.rxFrames.toNat), (24, x.rxDropped.toNat)] else if r = 0x10 then x.txFrames
      else if r = 0x14 then pack [(0, x.impulses.toNat), (16, x.txDrop.toNat)]
      else if r = 0x18 then pack [(0, x.valid.toNat), (8, x.total.toNat)] else 0
    | none => 0

/-- The code of a verification state (R357). -/
def Verif.code : Verif → Nat
  | .pending => 0 | .pass => 1 | .drift => 2 | .fail => 3 | .absent => 4 | .disabled => 5 | .noRecord => 6

/-- MET (R370). -/
def rdMet (s : State) (off : Nat) : Word :=
  let m := s.met
  if off = 0 then pack [(0, b2n m.verifyAny), (1, b2n m.absentAny), (2, b2n m.gapAny), (3, b2n m.tempAny), (4, b2n m.seqAny),
    (5, b2n m.neutralAny), (6, b2n m.overAny), (7, b2n m.incCheck)]
  else if off = 4 then (m.legal.map (·.crc)).getD 0
  else if off = 8 then pack [(0, m.incSeq.toNat), (2, b2n m.incNeutral), (3, m.incPresent.toNat)]
  else match arr off 0x10 4 8 with
    | some (c, 0) => vget m.incRms c
    | _ => match arr off 0x1000 0x80 128 with
      | some (o, r) =>
        let x := s.met1 o
        if r = 0 then pack [(0, x.seqCls.toNat), (2, b2n x.neutral), (3, b2n x.tempFault), (4, b2n x.silent), (8, x.overRange.toNat)]
        else if r = 4 then pack [(0, x.tempIn.toNat), (16, x.point.toNat)]
        else if r = 8 then x.gaps
        else if r = 12 then pack ((List.finRange 8).map fun l => (3 * l.val, (vget x.lanes l).state.code))
        else if r = 0x10 then x.legalCrc
        else match arr r 0x20 4 8 with
          | some (l, 0) => (vget x.lanes l).rms
          | _ => match arr r 0x40 4 8 with
            | some (l, 0) => BitVec.ofNat 32 (twos 32 (vget x.lanes l).dev)
            | _ => 0
      | none => 0

/-- The integer part of an energy register held in 2^-48 units (R371). -/
def reg48 (v : Nat) : Nat := v / 2 ^ 48

/-- The last committed values of an outlet; zeros before the first commit (R395). -/
def State.committedOut (s : State) (o : Fin 128) : EnrSet :=
  match s.enr.committed with | some c => vget c.out o | none => EnrSet.zero

/-- The last committed site values (R395). -/
def State.committedSite (s : State) : SiteSet :=
  match s.enr.committed with | some c => c.site | none => SiteSet.zero

/-- ENR (R395). -/
def rdEnr (s : State) (off : Nat) : Word :=
  let e := s.enr
  let num := (e.committed.map (·.number)).getD 0
  if off = 0 then pack [(0, e.demandLen.toNat), (3, b2n e.demandEvt), (4, b2n e.balEn), (5, b2n e.keepEn), (6, e.balWin)]
  else if off = 4 then pack [(0, b2n e.commitFault), (1, b2n e.balAlarmF), (2, b2n e.unmetReported), (3, b2n e.overrun),
    (4, b2n e.silentAny), (5, b2n e.uncompAny), (6, b2n e.auxLate)]
  else if off = 8 then word num 0
  else if off = 0xC then pack [(0, num / 2 ^ 32 % 65536), (31, b2n ((e.committed.map (·.partialC)).getD false))]
  else if off = 0x10 then pack [(0, s.cfg.tolPct), (10, s.cfg.tolWh), (26, s.cfg.balN)]
  else if off = 0x14 then word s.cfg.auxW 0
  else if off = 0x18 then word s.cfg.keepThresh 0
  else if off = 0x260 ∨ off = 0x264 then word (twos 64 e.balD) ((off - 0x260) / 4)
  else if off = 0x268 then pack [(0, e.balAlarm.toNat), (2, b2n e.balLastValid), (16, e.balRun.toNat)]
  else match arr off 0x100 0x10 8 with
    | some (k, r) =>
      let p := vget e.pulses k
      if r = 0 then pack [(0, b2n p.en), (1, p.src.toNat), (4, p.outlet.val), (16, p.width)]
      else if r = 4 then word p.const 0 else if r = 8 then p.count else if r = 12 then pack [(0, p.owed), (20, p.dropped.toNat)] else 0
    | none => match arr off 0x200 8 12 with
      | some (j, r) => word (reg48 (vget s.committedSite.regs j)) (r / 4)
      | none => match arr off 0x1000 0x80 128 with
        | some (o, r) =>
          let x := s.committedOut o
          if r = 0x68 then pack [(0, x.flags.toNat)] else if r = 0x6C then word x.silentS 0
          else if r = 0x70 ∨ r = 0x74 then word x.lastDemand ((r - 0x70) / 4)
          else if r = 0x78 ∨ r = 0x7C then word x.maxDemand ((r - 0x78) / 4)
          else match arr r 0 8 13 with
            | some (j, q) => word (reg48 (vget x.regs j)) (q / 4)
            | none => 0
        | none => 0

/-- The plan an outlet uses: that of its open session, else its selected plan (R405). -/
def OutBil.plan (b : OutBil) : Fin 64 := (b.session.map (·.plan)).getD b.selected

/-- Released records that no command has acknowledged (R415, R420). -/
def Bil.unacked (b : Bil) : Nat := (b.recNext - 1 - b.recAcked).toNat

/-- BIL (R433). -/
def rdBil (s : State) (off : Nat) : Word :=
  let b := s.bil
  if off = 0 then pack [(0, b2n b.clockDefault), (16, b2n b.bufHigh), (17, b2n b.bufFull), (18, b2n b.openRefused),
    (19, b2n b.tamperAny), (20, b2n b.periodClosed)]
  else if off = 4 then b.recNext else if off = 8 then b.recAcked else if off = 0xC then pack [(0, b.page.toNat)]
  else if off = 0x10 then b.period
  else if off = 0x14 then pack [(0, b.unacked), (16, b.overflow.length)]
  else if off = 0x18 then bitsWord 16 fun k => (vget b.tampers k).count != 0
  else match arr off 0x1000 0x10 128 with
    | some (o, r) =>
      let x := s.bil1 o
      if r = 0 then pack [(0, b2n x.session.isSome), (1, x.plan.val), (7, x.index.val), (11, x.selected.val)]
      else if r = 4 then word ((x.session.map (·.id)).getD 0) 0 else if r = 8 then word ((x.session.map (·.id)).getD 0) 1
      else if r = 12 then word ((x.session.bind (·.startCommit)).getD 0) 0 else 0
    | none => 0

/-- Slots of a log's circulating area (R434). -/
def circSlots (ops : Bool) : Nat := if ops then 4096 else 16384
/-- Slots of a log's permanent area (R434). -/
def permSlots (ops : Bool) : Nat := if ops then 2048 else 1024

/-- The oldest GEN held in the circulating area (R451). -/
def Log.oldest (l : Log) : BitVec 32 := l.next - BitVec.ofNat 32 l.circ.length

/-- REC (R451). -/
def rdRec (s : State) (off : Nat) : Word :=
  let r := s.recd
  if off = 0 then pack [(0, b2n r.lostLegal), (1, b2n r.lostOps), (2, b2n r.legal.permFull), (3, b2n r.ops.permFull)]
  else if off = 0x10 then r.legal.next else if off = 0x14 then r.legal.oldest else if off = 0x18 then word r.legal.permA.length 0
  else if off = 0x20 then r.ops.next else if off = 0x24 then r.ops.oldest else if off = 0x28 then word r.ops.permA.length 0
  else if off = 0x30 then pack [(0, b2n r.cursorLog), (1, b2n r.cursorArea)]
  else if off = 0x34 then r.cursorBase else if off = 0x38 then r.opsMask else 0

/-- AUT and RDR (R481). -/
def rdAut (s : State) (off : Nat) : Word :=
  let a := s.aut
  if off = 0 then pack [(0, b2n a.en), (1, b2n a.cardAuth), (8, s.cfg.pollT), (16, s.cfg.tagAge), (31, b2n a.lock)]
  else if off = 4 then pack [(0, b2n a.tagFailAny), (1, b2n a.collapseAny), (2, b2n a.waitLongF), (3, b2n a.checkFail), (4, b2n a.resync)]
  else if off = 8 then pack [(0, b2n s.store.active), (1, b2n s.store.shadowOpen), (2, b2n a.switchAt.isSome), (3, b2n a.ready),
    (4, (s.store.slots.filter fun x => x.2.status != 0).length)]
  else if off = 0xC then s.store.seq
  else if off = 0x20 then pack [(0, a.aidLen.toNat)]
  else if off = 0x34 then pack [(0, (bitsWord 16 fun e => (vget a.engines e).isSome).toNat),
    (16, (outlets.filter fun o => (s.aut1 o).reqAt.isSome).length)]
  else match arr off 0x10 4 4 with
    | some (k, 0) => vget a.salt k
    | _ => match arr off 0x24 4 4 with
      | some (k, 0) => vget a.aid k
      | _ => match arr off 0x1000 0x40 128 with
        | some (o, r) =>
          let x := s.aut1 o
          let j := s.tagJ1 o
          if r = 0 then pack [(0, x.mode.toNat), (2, b2n x.tagEn)]
          else if r = 4 then pack [(0, b2n x.cableValid), (1, b2n j.bound.isSome), (2, b2n j.degraded), (3, b2n j.target.isSome),
            (8, min 255 j.pend), (16, x.lastOutcome.toNat)]
          else if r = 8 then word j.tagId.toNat 0 else if r = 12 then word j.tagId.toNat 1 else if r = 0x10 then j.rLoop
          else if r = 0x14 then word j.temp.toNat 0 else if r = 0x18 then j.mates.getD 0
          else if r = 0x1C then word (j.bound.getD 0).toNat 0 else if r = 0x20 then word (j.bound.getD 0).toNat 1 else 0
        | none => 0

/-- KIT (R507). -/
def rdKit (s : State) (off : Nat) : Word :=
  let k := s.kit
  if off = 0 then pack [(0, b2n k.en), (1, k.band.toNat), (3, b2n k.coupling), (4, k.nodeId.val), (10, b2n k.timeSrc), (11, b2n k.keySel),
    (16, k.txLevel.toNat), (31, b2n k.lock)]
  else if off = 4 then pack [(0, b2n s.kiteActive), (1, b2n k.conflict), (2, b2n (k.nodes.toList.any fun n => n.master && n.reachable)),
    (3, k.rotation.toNat), (16, b2n k.secFail), (17, b2n k.abandoned), (18, b2n k.penaltyAny), (19, b2n k.routeChange),
    (20, b2n k.conflictSeen)]
  else if off = 8 then pack [(0, k.tallyN), (8, k.tallyW)]
  else if off = 0xC then k.txCount else if off = 0x10 then k.rxCount
  else if off = 0x14 then pack [(0, k.secDrop.toNat), (16, k.noiseDrop.toNat)]
  else match arr off 0x1000 0x10 64 with
    | some (n, r) =>
      let x := vget k.nodes n
      if r = 0 then pack [(0, b2n x.neighbour), (1, b2n x.reachable), (2, x.linkCost), (6, b2n x.penalty), (8, x.routeCost),
        (16, x.nextHop.val), (22, x.cls.toNat), (24, x.rotation.toNat)]
      else if r = 4 then word x.serial.toNat 0 else if r = 8 then word x.serial.toNat 1
      else if r = 12 then pack [(0, x.acked.toNat), (16, x.missed.toNat)] else 0
    | none => 0

/-- The code of a pair role (R535). -/
def PairRole.code : PairRole → Nat | .alone => 0 | .active => 1 | .standby => 2 | .joining => 3

/-- The pair link is tie port 3 (R508); it is up while that port is up. -/
def State.pairLinkUp (s : State) : Bool := (vget s.tie.ports 3).up

/-- TIE and PAI (R535). -/
def rdTie (s : State) (off : Nat) : Word :=
  let t := s.tie
  if off = 0 then pack [(0, t.clusterN), (3, b2n t.paired), (31, b2n t.lock)]
  else if off = 4 then pack [(0, (bitsWord 4 fun p => (vget t.ports p).up).toNat), (4, t.members.toNat), (16, b2n t.portDownF),
    (17, b2n t.memberLostF), (18, b2n t.cfgMismatch)]
  else if off = 0x100 then pack [(0, t.stbyRings.toNat)]
  else if off = 0x104 then pack [(0, t.role.code), (2, b2n t.ready), (3, b2n t.mirrorStale), (4, b2n s.pairLinkUp), (16, b2n t.takeoverF),
    (17, b2n t.partnerLostF), (18, b2n t.joinRefused), (19, b2n t.claimLost)]
  else if off = 0x108 then word t.partner.toNat 0 else if off = 0x10C then word t.partner.toNat 1
  else if off = 0x110 then pack [(0, t.takeoverDur.toNat), (16, t.takeoverCause.toNat)]
  else if off = 0x114 then t.takeovers else if off = 0x118 then pack [(0, min 65535 t.mirrorEvts.length)]
  else match arr off 0x10 0x10 4 with
    | some (p, r) =>
      let x := vget t.ports p
      if r = 0 then pack [(0, b2n x.up), (1, x.peerSlot.toNat), (3, b2n x.peerSide)]
      else if r = 4 then word x.peer.toNat 0 else if r = 8 then word x.peer.toNat 1 else if r = 12 then x.retry else 0
    | none => match arr off 0x200 8 16 with
      | some (k, 0) => pack [(0, vget t.tallyN k), (8, vget t.tallyW k)]
      | some (k, 4) => pack [(0, min 255 (s.tallyInWindow k)), (8, b2n (s.tallyLasting k)), (16, (vget t.lastingCount k).toNat)]
      | _ => 0

/-- The code of a key slot's state (R551); MASKED under debug (R548). -/
def KeySlot.code (k : KeySlot) (dbg : Bool) : Nat :=
  match k.state with
  | .empty => 0
  | .valid => if dbg then 3 else 1
  | .unusable => if dbg then 3 else 2

/-- KEY (R551). -/
def rdKey (s : State) (off : Nat) : Word :=
  let k := s.key
  if off = 0 then pack [(0, b2n k.dbgKeys), (1, b2n k.rngOk), (16, b2n k.unusableAny), (17, b2n k.credFail), (18, b2n k.rngFault)]
  else if off = 4 then bitsWord 16 fun c => (s.ring ⟨c.val, by omega⟩).cred != 0
  else match arr off 0x1000 4 64 with
    | some (n, 0) =>
      let x := s.keySlot n
      pack [(0, keyType n.val), (2, x.code s.key.dbgKeys), (4, keyUses n.val), (16, x.gen.toNat)]
    | _ => match arr off 0x2000 4 8 with
      | some (e, 0) => let x := vget k.engines e; pack [(0, x.slot.val), (6, b2n x.loaded), (16, x.gen.toNat)]
      | _ => 0

/-- The code of a load channel's state (R569). -/
def ChanState.code : ChanState → Nat
  | .off => 0 | .on => 1 | .limiting => 2 | .waiting => 3 | .latched => 4 | .thermalOff => 5

/-- A channel conducts (R569 LSW_OUT). -/
def Chan.conducting (c : Chan) : Bool := c.state == .on || c.state == .limiting

/-- LSW (R569). -/
def rdLsw (s : State) (off : Nat) : Word :=
  let w := s.lsw
  if off = 0 then pack [(0, s.cfg.wdWin), (31, b2n w.lock)]
  else if off = 4 then pack [(0, b2n w.latchAny), (1, b2n w.thermalWarn), (2, b2n w.shutdownAny), (3, b2n w.wdExpired)]
  else if off = 8 then bitsWord 32 fun c => (vget w.chans c).cmd
  else if off = 0xC then bitsWord 32 fun c => (vget w.chans c).conducting
  else if off = 0x10 then bitsWord 32 fun c => (vget w.chans c).state == .latched
  else if off = 0x14 ∨ off = 0x18 then
    pack ((List.range 16).map fun i => (2 * i, (vget w.chans (fin 32 (4 * (off - 0x14) + i))).failsafe.toNat))
  else match arr off 0x1000 0x10 32 with
    | some (c, r) =>
      let x := vget w.chans c
      if r = 0 then pack [(0, x.retries), (4, x.spacing)]
      else if r = 4 then pack [(0, x.state.code), (3, b2n x.fsOn), (4, x.count), (16, x.tj.toNat)]
      else if r = 8 then x.current else if r = 12 then x.events else 0
    | none => 0

/-- EPD (R569). -/
def rdEpd (s : State) (off : Nat) : Word :=
  let e := s.epd
  if off = 0 then pack [(0, b2n e.en), (1, e.commons.toNat), (3, e.blinkT), (16, e.tempOffset.toNat)]
  else if off = 4 then pack [(0, b2n e.busy), (1, b2n e.crack), (16, b2n e.crackSeen), (17, b2n e.interrupted)]
  else if off = 8 then pack [(0, e.temp.toNat), (16, e.band.toNat)]
  else match arr off 0x10 4 12 with
    | some (w, 0) => word e.image.toNat w.val
    | _ => 0

/-- The code of the power state (R587). -/
def PwrState.code : PwrState → Nat | .run => 0 | .baySleep => 1 | .hubQuiet => 2 | .entering => 3

/-- PWR (R587). -/
def rdPwr (s : State) (off : Nat) : Word :=
  let p := s.pwr
  if off = 0 then pack [(0, b2n p.autoBay), (1, b2n p.wakeEn), (8, s.cfg.dropHold)]
  else if off = 4 then pack [(0, p.state.code), (2, (bitsWord 8 fun b => !(vget p.domains ⟨11 + b.val, by omega⟩).up).toNat),
    (16, b2n p.wakeF), (17, b2n p.faultF)]
  else if off = 8 then bitsWord 19 fun d => (vget p.domains d).up
  else if off = 0xC then bitsWord 19 fun d => (vget p.domains d).hold
  else if off = 0x10 then pack [(0, s.cfg.wakeMask.toNat)]
  else if off = 0x14 then pack [(0, p.lastWake.source), (4, b2n p.lastWake.replayed), (5, p.lastWake.from_), (8, p.lastWake.detail)]
  else if off = 0x18 then word p.lastWake.legal 0 else if off = 0x1C then word p.lastWake.legal 1
  else if off = 0x20 then p.alarmLo
  else if off = 0x24 then pack [(0, p.alarm.toNat / 2 ^ 32), (31, b2n p.armed)] else 0

/-- The code of a firmware slot's state (R607). -/
def FwState.code : FwState → Nat
  | .empty => 0 | .writing => 1 | .stored => 2 | .trial => 3 | .active => 4 | .previous => 5 | .bad => 6
/-- The code of a configuration slot's state (R607). -/
def CfgState.code : CfgState → Nat
  | .empty => 0 | .writing => 1 | .stored => 2 | .pending => 3 | .active => 4 | .previous => 5 | .bad => 6

/-- UPD and CFG (R607). -/
def rdUpd (s : State) (off : Nat) : Word :=
  let u := s.upd
  if off = 0 then pack [(0, s.cfg.confirmT), (12, b2n u.hostConfirm), (13, b2n u.dominoEn), (16, u.dominoNext.val)]
  else if off = 4 then pack [(0, b2n u.recovery), (1, (bitsWord 3 fun t => (vget u.trials t).isSome).toNat), (16, b2n u.fellBack),
    (17, b2n u.verifyFail), (18, b2n u.dominoFail)]
  else if off = 0x1000 then u.cfgActive else if off = 0x1004 then u.cfgHighest else if off = 0x1008 then u.cfgRevert
  else if off = 0x100C then word (((u.cfgPend.map (·.mark)).getD 0) / 65536) 0
  else if off = 0x1010 then pack [(0, ((u.cfgPend.map (·.mark)).getD 0) / 2 ^ 48 % 65536), (31, b2n u.cfgPend.isSome)]
  else if off = 0x1014 then pack [(0, u.cfgConfirmT), (16, b2n u.awaiting.isSome)]
  else match arr off 0x40 4 3 with
    | some (t, 0) => vget u.floors t
    | _ => match arr off 0x100 0x20 3 with
      | some (t, r) =>
        let x := vget (vget u.fw t) (fin 2 (r / 0x10))
        if r % 0x10 = 0 then pack [(0, x.state.code)] else if r % 0x10 = 4 then x.version
        else if r % 0x10 = 8 then BitVec.ofNat 32 (ofBytes ((beBytes 32 x.hash.toNat).take 4)) else 0
      | none => match arr off 0x1020 8 4 with
        | some (k, r) =>
          let x := vget u.cfg k
          if r = 0 then pack [(0, x.state.code), (8, x.format.toNat)] else if r = 4 then x.version else 0
        | none => 0

/-- PMC (R617). -/
def rdPmc (s : State) (off : Nat) : Word :=
  let p := s.pmc
  if off = 0 then pack [(0, b2n p.dumpEn), (16, p.dumpMs)]
  else if off = 4 then pack [(0, p.skipped.toNat), (16, p.dropped.toNat)]
  else match arr off 0x800 0x10 8 with
    | some (m, r) =>
      let x := vget p.mons m
      if r = 0 then pack [(0, x.port.toNat), (8, b2n x.dir), (12, x.win)] else if r = 4 then x.last else if r = 8 then x.peak else 0
    | none => match arr off 0x1000 0x100 8 with
      | some (g, r) =>
        let x := vget p.groups g
        if r = 0 then pack [(0, b2n x.en), (1, b2n x.dump), (8, x.period)]
        else if r = 4 then pack [(0, x.ovf.toNat)]
        else if r = 8 then word x.latCyc.toNat 0 else if r = 12 then word x.latCyc.toNat 1
        else match arr r 0x10 4 8 with
          | some (k, 0) => pack [(0, (vget x.sel k).toNat), (8, b2n (vget x.smp k))]
          | _ => match arr r 0x30 8 8 with
            | some (k, q) => word (vget x.latCnt k).toNat (q / 4)
            | none => 0
      | none => 0

/-- FB_RTS of an RS-485 port as driven (R190): negated in a service reset. -/
def State.rts (s : State) (p : Fin 8) : Bool :=
  let u := vget s.uarts p
  if s.glb.phase != .running then false
  else match u.rtsMode.toNat with
    | 1 => !(s.poolQ ⟨264 + p.val, by omega⟩).paused
    | 2 => true
    | _ => false

/-- The code of a CAN port's state (R192). -/
def CanState.code : CanState → Nat | .active => 0 | .passive => 1 | .busOff => 2

/-- FBP (R192). -/
def rdFbp (s : State) (off : Nat) : Word :=
  match arr off 0x1000 16 8 with
  | some (q, r) =>
    let u := vget s.uarts q
    if r = 0 then pack [(0, b2n u.en), (1, u.parity.toNat), (3, b2n u.stop2), (4, b2n u.data7), (5, u.rtsMode.toNat), (7, b2n u.ctsEn),
      (8, u.gap.toNat), (16, u.maxPkt.toNat)]
    else if r = 4 then pack [(0, u.baud.toNat)]
    else if r = 8 then pack [(0, b2n u.overrun), (1, b2n u.framing), (2, b2n u.parityErr), (3, b2n u.cts), (4, b2n (s.rts q)),
      (16, u.errCount.toNat)] else 0
  | none => match arr off 0x2000 0x100 4 with
    | some (c, r) =>
      let x := vget s.cans c
      if r = 0 then pack [(0, b2n x.en), (1, b2n x.fdEn), (2, b2n x.brsEn), (3, b2n x.listen), (4, b2n x.autoRecover)]
      else if r = 4 then x.nbt else if r = 8 then x.dbt
      else if r = 12 then pack [(0, x.tec.toNat), (8, x.recErr.toNat), (16, x.state.code), (24, b2n x.passiveF), (25, b2n x.busOffF),
        (26, b2n x.rxDrop)]
      else match arr r 0x80 8 16 with
        | some (f, 0) => let y := vget x.filters f; pack [(0, y.id.toNat), (29, b2n y.ide), (31, b2n y.en)]
        | some (f, 4) => let y := vget x.filters f; pack [(0, y.mask.toNat), (29, b2n y.ideMask)]
        | _ => 0
    | none => 0

/-- The value of the BAR0 register at `off`, without side effects (R128). -/
def readReg (s : State) (off : Nat) : Word :=
  let r := off % 0x10000
  match off / 0x10000 with
  | 0 => rdGlb s r | 1 => rdTim s r | 2 => rdRng s r | 3 => rdMpl s r | 4 => rdStr s r | 5 => rdSeq s r | 6 => rdSaf s r
  | 7 => rdShr s r | 8 => rdPlc s r | 9 => rdMet s r | 10 => rdEnr s r | 11 => rdBil s r | 12 => rdRec s r | 13 => rdAut s r
  | 14 => rdKit s r | 15 => rdTie s r | 16 => rdKey s r | 17 => rdLsw s r | 18 => rdEpd s r | 19 => rdPwr s r | 20 => rdUpd s r
  | 21 => rdPmc s r | 22 => rdFbp s r | _ => 0

end Sys2Proof.Machine
end

