-- ==== Sys2Proof/Machine/Events.lean ====
section
/-! DEFINITION. Records, events, completions and the rings they are written to (chapters 05 and 14), marks (R73 to R76)
and the fault tally (R528): the operations every family uses to report what it did. -/

namespace Sys2Proof.Machine

/-! ### Records (chapter 14) -/

/-- The event codes that a chapter assigns to the legal log (R87 with R81, R368, R394, R432, R478, R564, R606). -/
def legalCode (code : Nat) (payload : List Byte) : Bool :=
  let target1 := payload.head? == some 1#8
  (0x0500 ≤ code && code ≤ 0x0507 && code != 0x0506) || (0x0510 ≤ code && code ≤ 0x0517 && code != 0x0515)
    || code == 0x0583 || code == 0x0586 || (0x0600 ≤ code && code ≤ 0x0608 && code != 0x0606)
    || (0x0801 ≤ code && code ≤ 0x0803) || code == 0x0C03 || (0x0E01 ≤ code && code ≤ 0x0E03 && target1)
    || code == 0x0E04 || code == 0x0E05

/-- The events the operations log receives (R437, R550, R606; 0x0002 because R436 names it as a permanent kind of that
log: DEDUCED, log 12). -/
def opsCode (s : State) (code : Nat) (payload : List Byte) : Bool :=
  let fam := code / 256
  fam == 2 || fam == 10 || fam == 16 || ((fam == 5 || fam == 6) && !legalCode code payload)
    || (fam < 32 && bit s.recd.opsMask fam) || fam == 11 || (fam == 14 && !legalCode code payload) || code == 0x0002

/-- The permanent kinds of R436, by log and code; a Tamper event's COUNT stands in payload bytes 1 to 4. -/
def permKind (ops : Bool) (code : Nat) (payload : List Byte) : Bool :=
  if ops then
    code == 0x0002 || (code == 0x020E && payload.getD 1 0 != 0#8)
      || (code == 0x0E01 && payload.head? != some 1#8)
  else
    code == 0x0507 || code == 0x0511 || code == 0x0583 || code == 0x0586 || code == 0x0780 || code == 0x0786
      || (code == 0x0605 && ofBytes ((payload.drop 1).take 4) == 1) || (code == 0x0E01 && payload.head? == some 1#8)

/-- The per-outlet stride of the block at an offset (R442); 0 for a block without per-outlet registers. -/
def outletStride (off : Nat) : Nat :=
  match off / 0x10000 with
  | 4 => 16 | 5 => 0x20 | 6 => 0x20 | 7 => 0x10 | 8 => 0x20 | 9 => 0x80 | 10 => 0x80 | 11 => 0x10 | 13 => 0x40 | _ => 0

/-- The snapshot of an operations record under a selection (R442). -/
def opsSnap (s : State) (outlet : Option (Fin 128)) (sel : Selection) : List Word :=
  sel.words.map fun w =>
    if w.1 = 0 then 0
    else match w.2, outlet with
      | true, none => 0
      | true, some o => readReg s (w.1.toNat + outletStride w.1.toNat * o.val)
      | false, _ => readReg s w.1.toNat

/-- The fixed legal selection (R441). -/
def legalSnap (s : State) (outlet : Option (Fin 128)) : List Word :=
  let num := (s.enr.committed.map (·.number)).getD 0
  let regs (base n : Nat) : List Word := (List.range n).map fun i => readReg s (base + 4 * i)
  [word num 0, word num 1] ++ match outlet with
  | some o =>
    regs (0xA1000 + 0x80 * o.val) 26 ++
      [readReg s (0xA1068 + 0x80 * o.val), readReg s (0x9100C + 0x80 * o.val), readReg s (0xB1000 + 0x10 * o.val),
       readReg s (0x91010 + 0x80 * o.val)] ++ List.replicate 14 0
  | none => regs 0xA0200 24 ++ List.replicate 5 0 ++ [readReg s 0x90004] ++ List.replicate 14 0

/-- Records a staging holds (R444). -/
def stagingSlots (ops : Bool) : Nat := if ops then 512 else 1024

/-- One of the two logs. -/
def Rec.log (r : Rec) (ops : Bool) : Log := if ops then r.ops else r.legal

/-- Change one of the two logs. -/
def State.onLog (s : State) (ops : Bool) (f : Log → Log) : State :=
  { s with recd := if ops then { s.recd with ops := f s.recd.ops } else { s.recd with legal := f s.recd.legal } }

/-- Stage a record, or count it as lost where the staging is full (R444). The Records lost event of R450 is posted with the
Records lost record, when its count is complete (DEDUCED, log 13). -/
def pushRecord (s : State) (ops : Bool) (r : LogRec) : State :=
  if (s.recd.log ops).staging.length < stagingSlots ops then
    s.onLog ops fun l => { l with staging := l.staging ++ [r] }
  else
    let s := s.onLog ops fun l => { l with
      lostCount := l.lostCount + 1
      lostFirst := if l.lostCount = 0 then r.tick else l.lostFirst
      lostLast := r.tick }
    { s with recd := if ops then { s.recd with lostOps := true } else { s.recd with lostLegal := true } }

/-- The record of a cause at this instant, with the snapshot its log takes (R439, R441, R442). -/
def mkRecord (s : State) (ops : Bool) (code : Nat) (outlet : Option (Fin 128)) (payload : List Byte) (ident : Nat)
    (forced : Option Nat := none) : LogRec :=
  let sel : Nat × List Word :=
    if ops then
      match forced.orElse (fun _ => (s.recd.triggers.find? (fun t => t.1.toNat == code)).map (·.2)) with
      | some k => match s.recd.selections[k]? with
        | some w => (k, opsSnap s outlet w)
        | none => (k, List.replicate 46 0)
      | none => (0xFE, List.replicate 46 0)
    else (0xFF, legalSnap s outlet)
  { perm := false, folded := false, code := BitVec.ofNat 16 code, gen := 0, outlet := outlet, sel := BitVec.ofNat 8 sel.1,
    tick := s.tim.tick, mains := s.tim.mains, legal := s.tim.legal, gseq := 0, outletSeq := 0,
    payload := payload, snap := sel.2, ident := ident }

/-- Write a record that has no ring event (R438). -/
def recordOnly (s : State) (ops : Bool) (code : Nat) (outlet : Option (Fin 128)) (payload : List Byte) : State :=
  pushRecord s ops (mkRecord s ops code outlet payload 0)

/-- Change the staged record of an event (its numbers, or FOLDED). -/
def markRecord (s : State) (ident : Nat) (f : LogRec → LogRec) : State :=
  let g := fun (l : Log) => { l with staging := l.staging.map fun r => if r.ident = ident ∧ ident ≠ 0 then f r else r }
  (s.onLog true g).onLog false g

/-! ### MSI-X and write-backs (R139, R158) -/

/-- The device may issue requests (R125, R130, R133): the link is up, and the module runs, a service reset included. From step 1 of the
removal sequence on it issues none. -/
def requestsOn (s : State) : Bool := s.rng.linkUp && (s.glb.phase == .running || s.glb.phase == .serviceReset)

/-- A write to host memory (R126). One that falls to a time without requests is not made (R130: DEDUCED, log 145). -/
def State.hostWrite (s : State) (addr : BitVec 64) (bytes : List Byte) : State :=
  if requestsOn s then s.send (.host addr bytes) else s

/-- Send the MSI-X message of a vector (R158), or set its pending bit while the vector or the function is masked (PCI Express, log 79). -/
def sendMsix (s : State) (v : BitVec 6) : State :=
  if !requestsOn s || !s.rng.msixEn then s
  else if s.rng.msixFuncMask || s.rng.msixMasked.getLsbD v.toNat then
    { s with rng := { s.rng with msixPending := s.rng.msixPending ||| (1#64 <<< v.toNat) } }
  else
    let t := vget s.rng.msixTable (fin 64 v.toNat)
    s.send (.msix v t.1 t.2)

/-- A W1C field of RNG_INT_STATUS is set: the ERR_VECTOR message is sent (R159, and the text on R15 in chapter 05). -/
def rngInt (s : State) (f : Rng → Rng) : State := sendMsix { s with rng := f s.rng } s.rng.errVector

/-- The SIZE of a ring (R135). -/
def Ring.size (r : Ring) : Nat := 2 ^ (r.sizeCode.toNat + 6)

/-- Occupancy of a device-produced ring (R135): entries written and not acknowledged. -/
def Ring.used (r : Ring) : Nat := (r.devIdx - r.hostIdx).toNat

/-- Bytes of an entry of a ring (R134, R612). -/
def entrySize (r : Fin 57) : Nat :=
  if r.val < 16 then 64 else if r.val < 32 then 16 else if r.val < 40 then 64 else if r.val < 56 then 32 else 128

/-- The address of word `w` of the entry an index selects: entry index mod SIZE (R134, R135). -/
def entryAddr (x : Ring) (r : Fin 57) (index : BitVec 32) (w : Nat) : BitVec 64 :=
  x.base + BitVec.ofNat 64 (index.toNat % x.size * entrySize r + 4 * w)

/-- The PHASE bit of the entry at an index (R136). -/
def Ring.phase (x : Ring) (index : BitVec 32) : Nat := 1 - index.toNat / x.size % 2

/-- Write words of an entry of a ring, from word `w` on. -/
def State.writeEntry (s : State) (r : Fin 57) (index : BitVec 32) (w : Nat) (l : List Word) : State :=
  s.hostWrite (entryAddr (s.ring r) r index w) (wordBytes l)

/-- A device that does not work ring `r` now: a standby, unless `r` is a local ring or serves one (R519, R520). -/
def shadowed (s : State) (r : Fin 57) : Bool :=
  s.tie.role == .standby && !(r.val < 32 && s.tie.stbyRings.getLsbD (r.val % 16))

/-- The device may write entries to ring `r`: a service reset and a removal pause the writing (R165, R133), and so does a handover
(R530). -/
def canWrite (s : State) (r : Fin 57) : Bool :=
  s.glb.phase == .running && s.rng.linkUp && !s.tie.handing && !shadowed s r

/-- Signal the entries of a device-produced ring: at once, or by moderation (R158, R159). -/
def signalRing (s : State) (r : Fin 57) (now : Bool) : State :=
  let x := s.ring r
  if now || decide (max 1 x.modCount.toNat ≤ x.unsignalled) then
    sendMsix (s.onRing r fun y => { y with unsignalled := 0 }) x.vector
  else s

/-- The write-back of the device's own index (R139). -/
def writeBack (s : State) (r : Fin 57) : State :=
  s.hostWrite (s.ring r).wb (leBytes 4 (s.ring r).devIdx.toNat)

/-- After one entry of a device-produced ring has been sent: the index advances, is written back, and is signalled. -/
def afterEntry (s : State) (r : Fin 57) (now : Bool) : State :=
  let s := s.onRing r fun y => { y with
    devIdx := y.devIdx + 1
    firstUnsigAt := if y.unsignalled = 0 then s.tim.tick else y.firstUnsigAt
    unsignalled := y.unsignalled + 1 }
  signalRing (writeBack s r) r now

/-! ### Events (R149 to R154) -/

/-- EVT ring of class `c` (R134). -/
def evtRing (c : Nat) : Fin 57 := fin 57 (32 + c % 8)

/-- The EVT ring an event of a family goes to (R152): its class's ring, else the enabled one of the nearest lower class,
else the enabled one of the lowest class. -/
def evtTarget (s : State) (code : BitVec 16) : Option (Fin 57) :=
  let c := (vget s.rng.evtClass (fin 17 (code.toNat / 256))).toNat
  match ((List.range (c + 1)).reverse.find? fun k => (s.ring (evtRing k)).en) with
  | some k => some (evtRing k)
  | none => ((List.range 8).find? fun k => (s.ring (evtRing k)).en).map evtRing

/-- Events written to the EVT rings and not acknowledged. -/
def State.unackedEvts (s : State) : Nat := ((List.range 8).map fun k => (s.ring (evtRing k)).evtUnacked.length).sum

/-- An EVT ring can take a new event: it is enabled, what it owes first has been written (R131, R133, R548), it is not full (R135), and in
a pair fewer than 16,384 events are written and not acknowledged (R518). -/
def evtRoom (s : State) (r : Fin 57) : Bool :=
  let x := s.ring r
  x.en && x.evtHeld.isEmpty && x.restartDue.isNone && !x.debugDue && decide (x.used < x.size) && (s.tie.role == .alone || decide (s.unackedEvts < 16384))

/-- Events are written only while the device runs: a service reset and a removal pause the writing (R165, R133), and a
standby posts nothing of its outlets' numbers (R518). -/
def writingOn (s : State) : Bool := s.glb.phase == .running && s.rng.linkUp && !s.tie.handing && s.tie.role != .standby

/-- Families 0x02 and 0x10 are signalled at once (R159). -/
def evtAtOnce (code : BitVec 16) : Bool := let f := code.toNat / 256; f == 2 || f == 16

/-- The words of an event entry (R149). -/
def eventWords (e : Event) (handle phase : Nat) : List Word :=
  [pack [(0, e.code.toNat), (16, phase), (17, b2n e.replay), (18, b2n e.outlet.isSome)], BitVec.ofNat 32 handle, e.outletSeq, e.gseq,
   word e.tick 0, word e.tick 1, word e.mains 0, word e.mains 1, word e.legal 0, word e.legal 1, e.causeTag,
   pack [(0, b2n e.byCmd), (1, e.cmdRing.val)]]
  ++ (List.range 4).map fun i => BitVec.ofNat 32 (ofBytes ((e.payload.drop (4 * i)).take 4))

/-- The HANDLE of an event: its outlet's, or 0 (R149). -/
def State.evtHandle (s : State) (e : Event) : Nat := match e.outlet with | some o => s.handle o | none => 0

/-- Send one event entry as it stands, on ring `r`. -/
def putEvt (s : State) (r : Fin 57) (e : Event) : State :=
  let i := (s.ring r).devIdx
  let s := s.writeEntry r i 0 (eventWords e (s.evtHandle e) ((s.ring r).phase i))
  afterEntry (s.onRing r fun y => { y with evtUnacked := y.evtUnacked ++ [e] }) r (evtAtOnce e.code)

/-- Give an event its numbers (R151), note the last one a command caused (R147), and fill its staged record. -/
def numberEvt (s : State) (e : Event) : State × Event :=
  let g := s.keep.gseq + 1
  let q := match e.outlet with | some o => vget s.keep.outSeq (fin 512 (s.handle o)) + 1 | none => 0
  let e := { e with gseq := g, outletSeq := q }
  let keep := { s.keep with
    gseq := g
    outSeq := match e.outlet with | some o => vmod s.keep.outSeq (fin 512 (s.handle o)) (fun _ => q) | none => s.keep.outSeq }
  let cmds := s.rng.cmds.map fun c =>
    if e.byCmd ∧ c.cmd.ring = e.cmdRing ∧ c.cmd.index = e.cmdIndex then { c with lastGseq := some g } else c
  (markRecord { s with keep := keep, rng := { s.rng with cmds := cmds } } e.ident
    (fun r => { r with gseq := g, outletSeq := q }), e)

/-- The device is active in a pair and sends mirror records to its partner (R517). -/
def mirroring (s : State) : Bool := s.tie.role == .active && s.pairLinkUp

/-- Write an event to its ring (R151); its mirror leaves first (R517). -/
def writeEvt (s : State) (r : Fin 57) (e : Event) : State :=
  let p := numberEvt s e
  putEvt (if mirroring p.1 then p.1.send (.tie 3 (.mirrorEvt r p.2)) else p.1) r p.2

/-- Events waiting in the general part and in the reserved part of the backlog (R153). -/
def backlogParts (s : State) : Nat × Nat := ((s.backlogOf false).length, (s.backlogOf true).length)

/-- The backlog queues are judged against their watermarks, 7,168 and 1,024 cells, which are their high and their low ones (R171, R173):
a full queue pauses, and one that is no longer full is released. -/
def judgeBacklog (s : State) : State :=
  { s with rng := { s.rng with backQ := Vector.ofFn fun k =>
    let b := vget s.rng.backQ k
    let full := decide ((if k = 0 then 7168 else 1024) ≤ s.backlogCells (k == 1))
    { b with paused := full, pauses := if full && !b.paused then b.pauses + 1 else b.pauses } } }

/-- Fold an event into the summary of its scope (R154). -/
def foldEvt (s : State) (e : Event) : State :=
  let famBit : BitVec 32 := BitVec.ofNat 32 (2 ^ (e.code.toNat / 256))
  let sums :=
    if s.rng.lostSums.any (fun x => x.outlet == e.outlet) then
      s.rng.lostSums.map fun x => if x.outlet = e.outlet then
        { x with count := x.count + 1, families := x.families ||| famBit, lastMains := e.mains } else x
    else s.rng.lostSums ++ [⟨e.outlet, 1, famBit, e.mains, e.mains, (s.rng.backlog.filter fun b => b.outlet == e.outlet).length⟩]
  let s := markRecord s e.ident fun r => { r with folded := true }
  rngInt s fun g => { g with lostSums := sums, lost := true }

/-- Place an event: its ring, else the backlog, else a summary (R152 to R154). An event of an outlet waits behind the
earlier ones of that outlet (R160), and a device-scoped event behind earlier device-scoped ones (DESIGN CHOICE, log 11).
A standby writes no events of its own: those of families 0x0A and 0x10 go to its partner, or wait while the pair link is
down (R520). -/
def placeEvt (s : State) (e : Event) : State :=
  if s.tie.role == .standby then
    let f := e.code.toNat / 256
    if f == 10 || f == 16 then if s.pairLinkUp then s.send (.tie 3 (.standbyEvt e)) else enqueue s e else s
  else
  let blocked := s.rng.backlog.any (fun b => b.outlet == e.outlet) || s.rng.lostSums.any (fun x => x.outlet == e.outlet)
  match evtTarget s e.code with
  | some r =>
    if writingOn s && evtRoom s r && !blocked then writeEvt s r e
    else enqueue s e
  | none => enqueue s e
where
  /-- Into the backlog, or folded. -/
  enqueue (s : State) (e : Event) : State :=
    let parts := backlogParts s
    let high (s : State) : State :=
      if s.rng.backlog.length = 24576 then
        rngInt s fun g => { g with backlogHigh := true, backlogCount := g.backlogCount + 1 }
      else s
    if parts.1 < 28672 then
      high (judgeBacklog { s with rng := { s.rng with backlog := s.rng.backlog ++ [{ e with resv := false }] } })
    else if reservedFamily e.code ∧ parts.2 < 4096 then
      high (judgeBacklog { s with rng := { s.rng with backlog := s.rng.backlog ++ [{ e with resv := true }] } })
    else foldEvt s e

/-- A new event: recorded in the logs that receive it (R437), not yet placed. `by_` is the command that causes it. -/
def newEvent (s : State) (code : Nat) (outlet : Option (Fin 128)) (payload : List Byte) (by_ : Option Cmd) : State × Event :=
  let id := s.rng.posted + 1
  let e : Event := {
    code := BitVec.ofNat 16 code, outlet := outlet, outletSeq := 0, gseq := 0, tick := s.tim.tick, mains := s.tim.mains,
    legal := s.tim.legal, causeTag := (by_.map (·.tag)).getD 0, byCmd := by_.isSome, cmdRing := (by_.map (·.ring)).getD 0,
    cmdIndex := (by_.map (·.index)).getD 0, ident := id, resv := false, payload := payload, replay := false }
  let s := { s with rng := { s.rng with posted := id } }
  let s := if legalCode code payload then pushRecord s false (mkRecord s false code outlet payload id) else s
  (if opsCode s code payload then pushRecord s true (mkRecord s true code outlet payload id) else s, e)

/-- Post an event now: record it, then place it. -/
def postEvent (s : State) (code : Nat) (outlet : Option (Fin 128)) (payload : List Byte) (by_ : Option Cmd := none) : State :=
  let p := newEvent s code outlet payload by_
  placeEvt p.1 p.2

/-- Post an event of an outlet. -/
def postOut (s : State) (code : Nat) (o : Fin 128) (payload : List Byte) (by_ : Option Cmd := none) : State :=
  postEvent s code (some o) payload by_

/-- Post an event of an outlet with the mains time of its cause. -/
def postStamped (s : State) (code : Nat) (o : Fin 128) (payload : List Byte) (mains : Nat) : State :=
  let p := newEvent s code (some o) payload none
  placeEvt p.1 { p.2 with mains := mains }

/-- Post a device-scoped event. -/
def postDev (s : State) (code : Nat) (payload : List Byte) (by_ : Option Cmd := none) : State :=
  postEvent s code none payload by_

/-- Write the summary of a scope, if it stands at the head of that scope and its ring has room (R154). Its MAINS is that of the last folded
event; TICK and LEGAL are those of the writing (DESIGN CHOICE, log 141). -/
def writeSummary (s : State) (scope : Option (Fin 128)) : State :=
  match s.rng.lostSums.find? fun x => x.outlet == scope with
  | some x =>
    match evtTarget s 0x0001 with
    | some r =>
      if x.after = 0 ∧ evtRoom s r then
        let e : Event := {
          code := 0x0001, outlet := x.outlet, outletSeq := 0, gseq := 0, tick := s.tim.tick, mains := x.lastMains,
          legal := s.tim.legal, causeTag := 0, byCmd := false, cmdRing := 0, cmdIndex := 0, ident := s.rng.posted + 1,
          resv := false, payload := (p32 x.count ++ leBytes 4 x.families.toNat ++ p64 x.firstMains), replay := false }
        writeEvt { s with rng := { s.rng with posted := s.rng.posted + 1,
                                              lostSums := s.rng.lostSums.filter fun y => y.outlet != scope } } r e
      else s
    | none => s
  | none => s

/-- Write the waiting events in order, each to its ring while it has room; the events of a scope keep their order (R153,
R154, R160). The list is what stood in the backlog; what stays is put back in order. -/
def drainGo : List Event → State → State
  | [], s => s
  | e :: rest, s =>
    let s := writeSummary s e.outlet
    let blocked := s.rng.backlog.any (fun b => b.outlet == e.outlet)
      || s.rng.lostSums.any (fun x => x.outlet == e.outlet && x.after == 0)
    match evtTarget s e.code with
    | some r =>
      if evtRoom s r ∧ !blocked then
        let s := { s with rng := { s.rng with lostSums := s.rng.lostSums.map fun x =>
          if x.outlet = e.outlet then { x with after := x.after - 1 } else x } }
        drainGo rest (writeEvt s r e)
      else drainGo rest { s with rng := { s.rng with backlog := s.rng.backlog ++ [e] } }
    | none => drainGo rest { s with rng := { s.rng with backlog := s.rng.backlog ++ [e] } }

/-! ### Completions (R141 to R148) -/

/-- The CPL ring of a CMD ring (R134). -/
def cplRing (c : Fin 16) : Fin 57 := ⟨16 + c.val, by omega⟩
/-- A CMD ring as a ring. -/
def cmdRing (c : Fin 16) : Fin 57 := ⟨c.val, by omega⟩

/-- The completion of a command (R147). -/
def mkCpl (r : CmdRec) (status : BitVec 8) (result : BitVec 32) : Completion :=
  { cmdIndex := r.cmd.index.truncate 16, status := status, late := r.late, tag := r.cmd.tag, result := result,
    lastGseq := r.lastGseq, replay := false, irq := r.cmd.irq }

/-- The words of a completion entry (R147). -/
def cplWords (c : Completion) (phase : Nat) : List Word :=
  [pack [(0, c.cmdIndex.toNat), (16, c.status.toNat), (24, phase), (25, b2n c.replay), (26, b2n c.late)], c.tag, c.result, c.lastGseq.getD 0]

/-- Send one completion entry. LAST_GSEQ of a command that caused no event is that of the last event written before (R147), and IRQ signals
it at once (R159). -/
def putCpl (s : State) (r : Fin 57) (c : Completion) : State :=
  let c := { c with lastGseq := some (c.lastGseq.getD s.keep.gseq) }
  let i := (s.ring r).devIdx
  let s := s.writeEntry r i 0 (cplWords c ((s.ring r).phase i))
  afterEntry (s.onRing r fun y => { y with cplUnacked := y.cplUnacked ++ [c] }) r c.irq

/-- A CPL ring can take a new completion now: it is enabled and worked, what it holds has been written, and it is not full. -/
def cplRoom (s : State) (r : Fin 57) : Bool :=
  let x := s.ring r
  x.en && x.cplHeld.isEmpty && canWrite s r && decide (x.used < x.size)

/-- Write the completion of a command, or hold it while its CPL ring cannot take it (R131); the reserved slot is used up. -/
def writeCpl (s : State) (r : CmdRec) (status : BitVec 8) (result : BitVec 32) : State :=
  let k := cplRing r.cmd.ring
  let c := mkCpl r status result
  let s := { s with rng := { s.rng with cmds := s.rng.cmds.filter fun x => !(x.cmd.ring == r.cmd.ring && x.cmd.index == r.cmd.index) } }
  let s := s.onRing k fun y => { y with reserved := y.reserved - 1 }
  if cplRoom s k then putCpl s k c else s.onRing k fun y => { y with cplHeld := y.cplHeld ++ [c] }

/-- Whether an event a command caused still waits (R161). -/
def eventsWait (s : State) (r : CmdRec) : Bool :=
  s.rng.backlog.any fun e => e.byCmd && e.cmdRing == r.cmd.ring && e.cmdIndex == r.cmd.index

/-- The record of a command in flight, as it stands now. -/
def State.cmdRec (s : State) (ring : Fin 16) (index : BitVec 32) : Option CmdRec :=
  s.rng.cmds.find? fun x => x.cmd.ring == ring && x.cmd.index == index

/-- Change the record of a command in flight. -/
def State.onCmd (s : State) (ring : Fin 16) (index : BitVec 32) (f : CmdRec → CmdRec) : State :=
  { s with rng := { s.rng with cmds := s.rng.cmds.map fun x => if x.cmd.ring = ring ∧ x.cmd.index = index then f x else x } }

/-- A command's resulting state is mirrored (R517). -/
def mirrorDone (s : State) (c : Cmd) (status : BitVec 8) (result : BitVec 32) : State :=
  if mirroring s then s.send (.tie 3 (.mirror 5 [c.ring.val, c.index.toNat, 1, c.tag.toNat, status.toNat, result.toNat])) else s

/-- A command's effect is visible: its completion is mirrored (R517, R518), and written once every event it caused has been
(R161). -/
def complete (s : State) (c : Cmd) (status : BitVec 8) (result : BitVec 32 := 0) : State :=
  match s.cmdRec c.ring c.index with
  | some r =>
    let s := mirrorDone s c status result
    if eventsWait s r then s.onCmd c.ring c.index fun x => { x with phase := .done status result none }
    else writeCpl s r status result
  | none => s

/-- Complete the command of a ring and index. -/
def completeKey (s : State) (ring : Fin 16) (index : BitVec 32) (status : BitVec 8) (result : BitVec 32 := 0) : State :=
  match s.cmdRec ring index with
  | some r => complete s r.cmd status result
  | none => s

/-- A command's effect has begun and its completion is owed. -/
def started (s : State) (c : Cmd) : State := s.onCmd c.ring c.index fun x => { x with phase := .started }

/-- Write the completions whose events have all been written (R161, R168). -/
def flushDone (s : State) : State :=
  s.rng.cmds.foldl (fun s r =>
    match r.phase with
    | .done st res upTo =>
      let waits := match upTo with
        | some n => s.rng.backlog.any fun e => decide (e.ident < n)
        | none => eventsWait s r
      if waits then s else match s.cmdRec r.cmd.ring r.cmd.index with
        | some r => writeCpl s r st res
        | none => s
    | _ => s) s

/-- Write the entries a device-produced ring holds back, while it has room (R131). -/
def replayRing (s : State) (r : Fin 57) : State :=
  let x := s.ring r
  let n := x.size - x.used
  if 16 ≤ r.val ∧ r.val < 32 then
    (x.cplHeld.take n).foldl (fun s c => putCpl s r c) (s.onRing r fun y => { y with cplHeld := y.cplHeld.drop n })
  else if 32 ≤ r.val ∧ r.val < 40 then
    (x.evtHeld.take n).foldl (fun s e => putEvt s r e) (s.onRing r fun y => { y with evtHeld := y.evtHeld.drop n })
  else s

/-- The Device restart event, the first on an EVT ring after a power-on that follows a power failure (R133). -/
def restartEvent (s : State) (r : Fin 57) : State :=
  match (s.ring r).restartDue with
  | some f =>
    let p := newEvent (s.onRing r fun x => { x with restartDue := none }) 0x0002 none (leBytes 4 f.1.toNat ++ p32 f.2) none
    writeEvt p.1 r p.2
  | none => s

/-- The Debug keys event, on every EVT ring before any other event of its family (R548). -/
def debugEvent (s : State) (r : Fin 57) : State :=
  if (s.ring r).debugDue then
    let p := newEvent (s.onRing r fun x => { x with debugDue := false }) 0x0B04 none [] none
    writeEvt p.1 r p.2
  else s

/-- What an enabled ring owes is written, while the device may write to it and it has room (R131, R133, R166, R548). -/
def openRing (s : State) (r : Fin 57) : State :=
  if (s.ring r).en && canWrite s r then replayRing (debugEvent (restartEvent s r) r) r else s

/-- The rings that completions and events are written to. -/
def reportRings : List (Fin 57) := (List.range 24).map fun k => fin 57 (16 + k)

/-- Write what waits: what the rings hold back, backlogged events, summaries, then the completions that waited for them (R131, R153,
R161). -/
def drainAll (s : State) : State :=
  let s := forAll reportRings openRing s
  flushDone (if writingOn s then
    let s1 := drainGo s.rng.backlog { s with rng := { s.rng with backlog := [] } }
    judgeBacklog (s1.rng.lostSums.foldl (fun s x => writeSummary s x.outlet) s1)
  else s)

/-! ### Marks (R73 to R76) -/

/-- A free shared mark exists (R73). -/
def State.markFree (s : State) : Bool := decide (s.tim.marks.length < 1536)

/-- Drop the shared marks of an owner that carry `ref`. -/
def State.dropMark (s : State) (owner : MarkOwner) (ref : Nat) : State :=
  { s with tim := { s.tim with marks := s.tim.marks.filter fun m => !(m.owner == owner && m.ref == ref) } }

/-- A mark's value has been reached (R74). -/
def State.reached (s : State) (v : Nat) : Bool := decide (v ≤ s.tim.mains)

/-- R76 NEXT: the same angle in the first cycle in which it still lies ahead. -/
def nextMark (mains v : Nat) : Nat :=
  if mains < v then v
  else
    let a := v % 65536
    let m := mains / 65536 * 65536 + a
    if mains < m then m else m + 65536

/-! ### Fault tally (R528) and MOD_FAULT# -/

/-- Action H of R528: an active device of a pair with a READY standby starts a handover (R530). -/
def actionH (s : State) : State :=
  if s.tie.role == .active && s.tie.partnerReady then { s with tie := { s.tie with handing := true } } else s

/-- What becoming lasting does, class by class (R528). Classes 5, 8 and 10 act where they are counted (R232, R508, R464). -/
def lastingAction (s : State) (cls : Nat) : State :=
  match cls with
  | 2 => actionH { s with tie := { s.tie with legalStopped := true }, glb := { s.glb with modFault := true } }
  | 3 => actionH { s with saf := { s.saf with islandFault := true }, glb := { s.glb with modFault := true } }
  | 4 => actionH { s with saf := { s.saf with islandFault := true }, glb := { s.glb with modFault := true } }
  | 6 => actionH { s with glb := { s.glb with modFault := true } }
  | 9 => { s with tie := { s.tie with mirrorStale := true } }
  | 12 => actionH { s with glb := { s.glb with modFault := true } }
  | 13 => { s with tie := { s.tie with heldReset := true }, glb := { s.glb with modFault := true } }
  | 14 => actionH s
  | _ => s

/-- Post the Device fault event (R528, R534). -/
def postFault (s : State) (cls inst : Nat) (lasting : Bool) (n : Nat) : State :=
  postDev s 0x1000 (p8 (b2n s.glb.side) ++ p8 s.slotNo ++ p8 cls ++ p32 inst ++ p8 (b2n lasting) ++ p8 (min 255 n))

/-- Make an instance lasting (R528). -/
def makeLasting (s : State) (cls inst : Nat) : State :=
  let k := fin 16 cls
  let old := s.tie.tally.find? fun e => e.cls == k && e.inst == inst
  let e : TallyEntry := ⟨k, inst, s.now :: (old.map (·.times)).getD [], true⟩
  let s := { s with tie := { s.tie with
    tally := e :: s.tie.tally.filter (fun x => !(x.cls == k && x.inst == inst))
    lastingCount := vmod s.tie.lastingCount k (· + 1) } }
  lastingAction (postFault s cls inst true e.times.length) cls

/-- A mismatch, a sentinel intervention or a service-core fault fails the trial of the firmware it concerns (R594). -/
def failTrial (s : State) (cls : Nat) : State :=
  let f (t : Fin 3) : State :=
    { s with upd := { s.upd with trials := vmod s.upd.trials t fun x => x.map fun y => { y with failed := true } } }
  match cls with | 2 => f 1 | 3 => f 2 | 4 => f 2 | 13 => f 0 | _ => s

/-- Count one event of a fault class (R528). Entries whose window holds no event are freed first; a new entry that finds
256 entries is not kept (R528 gives the tally 256 entries), and the event is posted. -/
def tally (s : State) (cls inst : Nat) : State :=
  let k := fin 16 cls
  let s := failTrial s cls
  let win (e : TallyEntry) : Nat := vget s.tie.tallyW e.cls * msNs
  let live := (s.tie.tally.map fun e => { e with times := e.times.filter fun t => decide (s.now ≤ t + win e) }).filter
    fun e => e.lasting || !e.times.isEmpty
  let old := live.find? fun e => e.cls == k && e.inst == inst
  let times := s.now :: (old.map (·.times)).getD []
  let wasLasting := (old.map (·.lasting)).getD false
  let rest := live.filter fun e => !(e.cls == k && e.inst == inst)
  let s := { s with tie := { s.tie with tally := if rest.length < 256 then ⟨k, inst, times, wasLasting⟩ :: rest else rest } }
  if wasLasting then postFault s cls inst true times.length
  else if vget s.tie.tallyN k ≤ times.length then makeLasting s cls inst
  else postFault s cls inst false times.length

/-- An instance of a class is lasting (R528). -/
def State.lastingAt (s : State) (cls inst : Nat) : Bool :=
  s.tie.tally.any fun e => e.cls == fin 16 cls && e.inst == inst && e.lasting

/-- The owner of a mark as an instance of fault class 7, and in the firing order of R75. -/
def MarkOwner.code : MarkOwner → Nat
  | .safety => 0 | .legal => 1 | .sequencer => 2 | .share => 3 | .kite => 4 | .config => 5 | .cluster => 6

/-- A mark request that finds no free shared mark is counted (R73). -/
def refuseMark (s : State) (owner : MarkOwner) : State := tally s 7 owner.code

/-- A request for a shared mark; refused and counted where none is free (R73). A value equal to the present mains time counts as past and
makes the mark late (R76: DESIGN CHOICE, log 133). -/
def State.setMark (s : State) (owner : MarkOwner) (value ref : Nat) : State × Bool :=
  if s.markFree then
    ({ s with tim := { s.tim with marks := s.tim.marks ++ [⟨owner, value, false, ref, s.reached value⟩] } }, true)
  else (refuseMark s owner, false)

/-! ### Tamper records (R424) -/

/-- Flag the open session of outlet `o` and its closing ones (R417). -/
def flagSession (s : State) (o : Fin 128) (f : BitVec 15) : State :=
  s.onBil o fun b => { b with
    session := b.session.map fun x => { x with flags := x.flags ||| f }
    closing := b.closing.map fun x => { x with flags := x.flags ||| f } }

/-- Flag every open session and the open period (R410, R417). -/
def flagAll (s : State) (f : BitVec 15) : State :=
  let s := forAll outlets (fun s o => if (s.bil1 o).session.isSome || !(s.bil1 o).closing.isEmpty then flagSession s o f else s) s
  { s with bil := { s.bil with periodFlags := s.bil.periodFlags ||| f } }

/-- A tamper occurrence (R424): the record, the legal-log record and the Tamper event; the sessions it touches carry TAMPER
(R417): those of the outlet it occurred on, or all. -/
def tamper (s : State) (kind : Fin 16) (inst : Nat) (outlet : Option (Fin 128)) : State :=
  let t := vget s.bil.tampers kind
  let n := if t.count = 0xFFFFFFFF#32 then t.count else t.count + 1
  let t' : Tamper := {
    count := n, first := if t.count = 0 then s.tim.legal else t.first, last := s.tim.legal,
    firstInst := if t.count = 0 then BitVec.ofNat 16 inst else t.firstInst, lastInst := BitVec.ofNat 16 inst }
  let s := { s with bil := { s.bil with tampers := vmod s.bil.tampers kind (fun _ => t'), tamperAny := true } }
  let s := match outlet with | some o => flagSession s o 0x2000#15 | none => flagAll s 0x2000#15
  postDev s 0x0605 (p8 kind.val ++ leBytes 4 n.toNat ++ p16 inst)

end Sys2Proof.Machine
end

