-- ==== Sys2Proof/Machine/Commands.lean ====
section
/-! DEFINITION. Ring commands (R141 to R148): the opcodes with their scopes and roles as their chapters give them, the
checks at the fetch, the order in which commands take effect, and the frame every command's meaning is set in. -/

namespace Sys2Proof

/-- PARAM word `i`. -/
def Cmd.p (c : Cmd) (i : Nat) : Word := Machine.wAt c.params i

/-- PARAM words `i` and `i + 1` as one address or value. -/
def Cmd.p2 (c : Cmd) (i : Nat) : Nat := Machine.wNat c.params i 2

end Sys2Proof

namespace Sys2Proof.Machine

/-- The scope of an opcode (R144). -/
inductive Scope where
  /-- Device-scoped. -/
  | dev
  /-- Outlet-scoped. -/
  | out
  /-- Open to both scopes: DEVICE selects. -/
  | both
deriving DecidableEq, Repr

/-- The codes of the roles of R169: 1 Host, 2 Operator, 3 Custodian, 4 Legal, 5 Service. -/
def opTable (op : Nat) (ps : List Word) : Option (Scope × List Nat) :=
  let w0 := (wAt ps 0)
  match op with
  | 0x0000 | 0x0001 | 0x0002 | 0x0003 | 0x0004 => some (.dev, [1, 2, 3, 4, 5])
  | 0x0100 | 0x0103 | 0x0104 | 0x0105 => some (.out, [1])
  | 0x0101 | 0x0102 | 0x0106 | 0x0107 => some (.out, [1, 2])
  | 0x0200 => some (.out, if fld w0 0 2 = 2 then [2] else [1])
  | 0x0201 | 0x0206 => some (.out, [1, 2])
  | 0x0202 | 0x0203 | 0x0204 => some (.dev, [1, 2])
  | 0x0205 => some (.dev, [2])
  | 0x0300 => some (.dev, [1, 2])
  | 0x0301 => some (.out, [1])
  | 0x0302 | 0x0303 => some (.out, [1, 2])
  | 0x0400 => some (.out, [1])
  | 0x0401 => some (.dev, [1])
  | 0x0402 => some (.out, [1, 2])
  | 0x0500 => some (.out, [1, 2, 4])
  | 0x0501 | 0x0502 => some (.out, [4])
  | 0x0510 => some (.dev, [1, 2])
  | 0x0511 => some (.both, [1, 2, 4])
  | 0x0600 => some (.dev, [1, 2, 3, 4, 5])
  | 0x0601 => some (.dev, [1, 2])
  | 0x0602 => some (.out, [1, 2])
  | 0x0603 => some (.out, [1, 2, 4])
  | 0x0604 => some (.dev, [1])
  | 0x0700 => some (.dev, if bit w0 0 then [1, 2, 5] else [1, 2, 4, 5])
  | 0x0701 => some (.both, [1, 2])
  | 0x0800 | 0x0801 | 0x0802 | 0x0803 => some (.dev, [1, 2])
  | 0x0804 => some (.out, [2])
  | 0x0805 => some (.out, [1, 2])
  | 0x0900 => some (.dev, [1, 2])
  | 0x0901 => some (.dev, [2])
  | 0x0A00 | 0x0A01 => some (.dev, [1, 2])
  | 0x1000 => some (.dev, [1, 2, 5])
  | 0x1001 => some (.dev, [2, 5])
  | 0x0B00 => some (.dev, [1, 3, 4])
  | 0x0B01 => some (.dev, if fld w0 0 6 = 8 then [4] else [3])
  | 0x0B02 => some (.dev, [3])
  | 0x0B03 => some (.dev, [1, 2, 3, 4])
  | 0x0B04 | 0x0B05 => some (.dev, [1])
  | 0x0C00 | 0x0C01 | 0x0C02 | 0x0C03 | 0x0C04 | 0x0C40 | 0x0C41 | 0x0C42 => some (.dev, [1, 2])
  | 0x0D00 | 0x0D01 => some (.dev, [1, 2])
  | 0x0E00 | 0x0E01 => some (.dev, if fld w0 0 2 = 1 then [1, 2, 4, 5] else [1, 2, 5])
  | 0x0E02 | 0x0E04 => some (.dev, if fld w0 0 2 = 1 then [4] else [2, 5])
  | 0x0E03 | 0x0E06 => some (.dev, [1, 2])
  | 0x0E05 => some (.dev, [1, 2, 4, 5])
  | 0x0E07 => some (.dev, [2, 4])
  | 0x0E08 => some (.dev, [2, 5])
  | 0x0E09 => some (.dev, [5])
  | 0x0E0A => some (.dev, [1, 2, 4, 5])
  | 0x0F00 | 0x0F01 => some (.dev, [1, 2, 5])
  | _ => none

/-- A descriptor of 16 words as a command of a ring (R144); `data` is what the host buffer it names held. -/
def parseCmd (ring : Fin 16) (index : BitVec 32) (d : List Word) (data : List Byte) : Cmd :=
  let w0 := wAt d 0
  { ring := ring, index := index, opcode := BitVec.ofNat 16 (fld w0 0 16), device := bit w0 16, fence := bit w0 17,
    irq := bit w0 18, rsvd := fld w0 19 13 != 0 || fld (wAt d 1) 16 16 != 0 || wAt d 3 != 0,
    handle := BitVec.ofNat 16 (fld (wAt d 1) 0 16), tag := wAt d 2, atMark := wNat d 4 2,
    params := (List.range 10).map fun i => wAt d (6 + i), data := data }

/-- The ROLE of a command's ring (R169). -/
def State.roleOf (s : State) (c : Cmd) : Nat := (s.ring (cmdRing c.ring)).role.toNat

/-- The outlet a command acts on, by the scope of its opcode (R144). -/
def State.cmdOutlet (s : State) (c : Cmd) : Option (Fin 128) :=
  match opTable c.opcode.toNat c.params with
  | some (.out, _) => s.ofHandle c.handle.toNat
  | some (.both, _) => if c.device then none else s.ofHandle c.handle.toNat
  | _ => none

/-- A role refusal is recorded in the operations log (R3, R143, R438). -/
def recordRefusal (s : State) (c : Cmd) : State :=
  recordOnly s true 0x0784 none (p8 c.ring.val ++ p8 (s.roleOf c) ++ p16 c.opcode.toNat)

/-- The commands recovery serves (R597). -/
def recoveryServes (c : Cmd) : Bool :=
  let op := c.opcode.toNat
  op == 0x0E00 || op == 0x0E01 || (op == 0x0E02 && fld (c.p 0) 0 2 == 0) || op == 0x0E0A || op == 0x0000

/-- The bits of PARAM each opcode's chapter gives a meaning to, word by word; every other bit is reserved (R11, R144,
DEDUCED, log 80). -/
def paramMask (op : Nat) : List Nat :=
  let all : Nat := 0xFFFFFFFF
  match op with
  | 0x0001 => [all] | 0x0002 => [0xFFFF] | 0x0003 => [0xFFFFFF] | 0x0004 => [0xFFFFFF, all]
  | 0x0100 => [0xFF] | 0x0101 => [0x1F] | 0x0102 | 0x0103 => [1] | 0x0104 => [0xFF] | 0x0106 => [3]
  | 0x0200 => [3] | 0x0202 => [0x1F] | 0x0203 | 0x0204 | 0x0205 => [0xF]
  | 0x0300 => [all, all, all, all, all, all, 1] | 0x0301 => [all] | 0x0302 => [0xF7]
  | 0x0401 => [0xFF, all, all]
  | 0x0500 => [7] | 0x0501 => [1] | 0x0510 => [all, all, all] | 0x0511 => [0xFF]
  | 0x0600 | 0x0601 => [0xFFFF, all, 0xFFFF, all, all, 0xFFFF] | 0x0602 => [0x3F] | 0x0604 => [all]
  | 0x0700 => [3, all, 0x1F, all, all] | 0x0701 => [0xF]
  | 0x0800 => [0x3FFFF, 0, all, all, all, all, all, all, all, all] | 0x0801 => [0x3FFFF, all, all] | 0x0804 => [1]
  | 0x0900 | 0x0901 => [0x3F]
  | 0x0B00 | 0x0B01 | 0x0B02 => [0x3F] | 0x0B03 => [0x3F, all, all] | 0x0B04 => [0x7F] | 0x0B05 => [0xF]
  | 0x0C00 => [all, all] | 0x0C01 => [all] | 0x0C02 => [all, all] | 0x0C03 => [0xFFFF]
  | 0x0C40 | 0x0C41 => [0xF, all, all, 0xFFFF] | 0x0C42 => [0xF]
  | 0x0E00 => [0xF, all, all, all, all] | 0x0E01 => [0xF] | 0x0E02 => [0x103] | 0x0E03 | 0x0E04 | 0x0E08 => [3]
  | 0x0E05 => [3, all, 0xFFFF]
  | 0x0F01 => [0x1FF] | 0x1000 | 0x1001 => [0xF]
  | _ => []

/-- A reserved field of a descriptor is not zero (R144, R148). -/
def reservedSet (c : Cmd) : Bool :=
  c.rsvd || (List.range 10).any fun i => (wAt c.params i &&& ~~~BitVec.ofNat 32 ((paramMask c.opcode.toNat).getD i 0)) != 0

/-- The status with which a fetched command is refused before it takes effect; none where it goes on. The spec gives the
checks no order: this one is a DESIGN CHOICE (log 9). -/
def fetchStatus (s : State) (c : Cmd) : Option (BitVec 8) :=
  if s.upd.recovery && !recoveryServes c then some 0x01
  else match opTable c.opcode.toNat c.params with
  | none => some 0x01
  | some (scope, roles) =>
    if !roles.contains (s.roleOf c) then some 0x03
    else if reservedSet c then some 0x02
    else if s.tie.role == .standby && (scope == .out || (scope == .both && !c.device) ||
        !([0, 7, 10, 15, 16].contains (c.opcode.toNat / 256))) then some 0x09
    else if (scope == .out && c.device) || ((scope == .out || (scope == .both && !c.device)) && (s.ofHandle c.handle.toNat).isNone) then
      some 0x02
    else if c.atMark ≠ 0 && !s.markFree then some 0x05
    else none

/-- The domain a command's operation needs (R571). -/
def opDomain (op : Nat) : Option (Fin 19) :=
  match op with
  | 0x0805 => some 8
  | 0x0401 | 0x0B05 | 0x0E01 => some 9
  | 0x0900 => some 10
  | _ => none

/-- Whether a record stands before the record of (ring, index) in fetch order. -/
def earlier (s : State) (c : Cmd) : List CmdRec :=
  (s.rng.cmds.takeWhile fun x => !(x.cmd.ring == c.ring && x.cmd.index == c.index)).filter fun x => x.cmd.ring == c.ring

/-- A command's effect has become visible, though its completion may still wait (R142, R146). -/
def CmdRec.visible (r : CmdRec) : Bool := match r.phase with | .done _ _ _ => true | _ => false

/-- What a field-bus command keeps its fetch order with (R186): Transmits, and Reads, of one port. -/
def portOrder (c : Cmd) : Option Nat :=
  if c.opcode = 0x0C40 ∨ c.opcode = 0x0C41 then some (16 * (c.opcode.toNat % 16) + fld (c.p 0) 0 4) else none

/-- A command has begun to take effect. -/
def CmdRec.begun (r : CmdRec) : Bool := match r.phase with | .started | .done _ _ _ => true | _ => false

/-- The order of R142: every earlier command of the ring for the same outlet is visible or complete; with FENCE, every
earlier command of the ring is complete. The Transmits and the Reads of a field-bus port begin in fetch order (R186). -/
def orderOk (s : State) (r : CmdRec) : Bool :=
  let e := earlier s r.cmd
  (!r.cmd.fence || e.isEmpty) && (r.outlet.isNone || e.all fun x => x.outlet != r.outlet || x.visible)
    && ((portOrder r.cmd).isNone || e.all fun x => portOrder x.cmd != portOrder r.cmd || x.begun)

/-- A command that is in flight, may take effect now, and whose domain is up (R142, R573). -/
def startable (s : State) (c : Cmd) : Option CmdRec :=
  match s.cmdRec c.ring c.index with
  | some r =>
    if r.cmd = c ∧ r.phase = .ready ∧ orderOk s r ∧ s.glb.phase = .running then some r else none
  | none => none

/-- Ask for a dropped domain (R573): the vote restarts its count; where the domain has failed to rise, the waiting
command completes with status 0x0A. -/
def askDomain (s : State) (d : Fin 19) (c : Cmd) : State :=
  if (vget s.pwr.domains d).fault then complete s c 0x0A
  else { s with pwr := { s.pwr with domains := vmod s.pwr.domains d fun x => { x with noVoteSince := none } } }

/-- The frame of a command's meaning: its effect where the command is in flight and may take effect, nothing otherwise. -/
def cmdStep (ops : List Nat) (eff : Cmd → State → State) (c : Cmd) (s : State) : State :=
  if ops.contains c.opcode.toNat then
    match startable s c with
    | some _ =>
      match opDomain c.opcode.toNat with
      | some d => if (vget s.pwr.domains d).up then eff c s else askDomain s d c
      | none => eff c s
    | none => s
  else s

/-- Run an outlet command's effect on its outlet. -/
def onOutlet (c : Cmd) (s : State) (f : Fin 128 → State) : State :=
  match s.ofHandle c.handle.toNat with
  | some o => f o
  | none => complete s c 0x02

/-- A fetched command, with the consumer index of its ring, as the words of a mirror record (R517, R525). -/
def fetchWords (s : State) (c : Cmd) : List Nat := [c.ring.val, c.index.toNat, 0, c.tag.toNat, (s.ring (cmdRing c.ring)).devIdx.toNat]

/-- Mirror a fetched command to the standby (R517); its completion is mirrored by `complete`. -/
def mirrorCmd (s : State) (c : Cmd) : State :=
  if mirroring s then s.send (.tie 3 (.mirror 5 (fetchWords s c))) else s

end Sys2Proof.Machine
end

