-- ==== Sys2Proof/Machine/Pool.lean ====
section
/-! DEFINITION. The marble pool (chapter 06): what a queue does when a packet is linked, staged, taken or dropped, and the
watermark writes. A queue is kept as its packets with the cells they occupy; the cell numbers stand beside (log 16). -/

namespace Sys2Proof.Machine

/-- Cells a packet of `n` bytes occupies (R170). -/
def cellsFor (n : Nat) : Nat := max 1 ((n + 255) / 256)

/-- Compare the level with the watermarks once (R173, R176, R177). -/
def PoolQ.judge (q : PoolQ) : PoolQ :=
  if q.paused then { q with paused := !decide (q.level ≤ q.low) }
  else if q.high ≤ q.level then { q with paused := true, pauses := q.pauses + 1 }
  else q

/-- Link a whole packet (R172). -/
def PoolQ.link (q : PoolQ) (p : Packet) : PoolQ := { q with packets := q.packets ++ [p] }.judge

/-- Staged packets move into the queue while it is released (R174). -/
def unstage : List Packet → PoolQ → PoolQ
  | [], q => { q with staging := [] }
  | p :: t, q => if q.paused then { q with staging := p :: t } else unstage t (q.link p)

/-- The queue settles after its consumer has freed cells or its watermarks have changed. -/
def PoolQ.settle (q : PoolQ) : PoolQ := let q := q.judge; unstage q.staging q

/-- Bytes held in the staging buffer. -/
def PoolQ.staged (q : PoolQ) : Nat := (q.staging.map fun p => p.bytes.length).sum

/-- A producer that cannot wait offers a packet: linked, staged in a buffer of `cap` bytes, or dropped whole and counted
(R174). The Bool says that it was kept. -/
def PoolQ.offer (q : PoolQ) (cap : Nat) (p : Packet) : PoolQ × Bool :=
  if !q.paused && q.staging.isEmpty then (q.link p, true)
  else if q.staged + p.bytes.length ≤ cap then ({ q with staging := q.staging ++ [p] }, true)
  else ({ q with drops := q.drops + 1 }, false)

/-- The consumer takes the oldest packet. -/
def PoolQ.take (q : PoolQ) : PoolQ := { q with packets := q.packets.drop 1 }.settle

/-- The consumer drops the oldest packet, or the rest of it (R178). -/
def PoolQ.dropOne (q : PoolQ) : PoolQ := { q with packets := q.packets.drop 1, drops := q.drops + 1 }.settle

/-- A packet of `bytes` with nothing else attached. -/
def Packet.plain (bytes : List Byte) (mains : Nat) : Packet :=
  { bytes := bytes, cells := cellsFor bytes.length, complete := true, tag := 0, ring := 0, index := 0, irq := false,
    gap := false, mains := mains }

/-- The entries of the link memory for the packets of a queue, with their cell numbers (R170, R172): next cell, byte count, FIRST and
LAST. The last cell of the last packet names no next cell: 0 (DESIGN CHOICE, log 16). -/
def linkEntries (packets : List Packet) (chains : List (List Nat)) : List (Nat × Nat × Nat × Bool × Bool) :=
  let cells := (packets.zip chains).flatMap fun x => (List.range x.2.length).map fun i =>
    (x.2.getD i 0, min 256 (x.1.bytes.length - 256 * i), i == 0, i + 1 == x.2.length)
  (List.range cells.length).map fun i =>
    let c := cells.getD i (0, 0, false, false)
    (c.1, (cells.getD (i + 1) (0, 0, false, false)).1, c.2.1, c.2.2.1, c.2.2.2)

/-- The link memory's entry of a cell in use: next cell, byte count, FIRST and LAST (R170). -/
def State.linkEntry (s : State) (cell : Nat) : Option (Nat × Nat × Bool × Bool) :=
  ((List.finRange 1024).findSome? fun q =>
    (linkEntries (s.poolQ q).packets (vget s.mpl.links q)).find? fun e => e.1 == cell).map (·.2)

/-- Receive queue of outlet `o`. -/
def rxQ (o : Fin 128) : Fin 1024 := ⟨o.val, by omega⟩
/-- Transmit queue of outlet `o`. -/
def txQ (o : Fin 128) : Fin 1024 := ⟨128 + o.val, by omega⟩

/-- A watermark write (R175, R176, R182). -/
def writeWatermark (s : State) (q : Fin 1024) (v : Word) : State :=
  if tunable q.val then
    let high := fld v 0 16
    let low := fld v 16 16
    let m : Mpl := { s.mpl with q := vmod s.mpl.q q fun x => { x with high := high, low := low } }
    if low < high ∧ m.highSum ≤ 40960 then { s with mpl := m }.onQ q PoolQ.settle
    else { s with mpl := { s.mpl with wmRefused := true } }
  else s

/-- An access of the host arrives: the link carries it only while the module runs with a reference and PERST# released, and
then the link is in L0 and the endpoint in D0 (R61, R125, R129; log 17). -/
def viaHost (s : State) (f : State → State) : State :=
  if (s.glb.phase == .running || s.glb.phase == .serviceReset) && !s.glb.perst && !s.tim.refHoldover then
    f { s with rng := { s.rng with linkUp := true, d3hot := false } }
  else s

/-- Recovery mode answers only the GLB, RNG and UPD blocks, the blocks 0, 2 and 20 of R128 (R597). -/
def blockAnswers (s : State) (blk : Nat) : Bool := !s.upd.recovery || blk == 0 || blk == 2 || blk == 20

/-- A host write of a register of BAR0 block `blk`. -/
def viaBar (s : State) (blk : Nat) (f : State → State) : State := viaHost s fun s => if blockAnswers s blk then f s else s

/-- WATERMARK_WRITE (R175): a write to MPL_Q_WM. -/
def execWatermarkWrite (q : Fin 1024) (v : BitVec 32) (s : State) : Res := .next (viaBar s 3 fun s => writeWatermark s q v)

end Sys2Proof.Machine
end

