-- ==== Sys2Proof/Machine/Rings.lean ====
section
/-! DEFINITION. The rings (chapter 05): doorbells, enabling and disabling, link loss, the fetch of commands, the writing of
what waits, moderation, vehicle frames, and the ring-control commands that act on rings. -/

namespace Sys2Proof.Machine

/-- What a ring does (R134). -/
inductive RingKind where
  /-- command ring -/
  | cmd
  /-- completion ring -/
  | cpl
  /-- event ring -/
  | evt
  /-- transmit-frame ring -/
  | ftx
  /-- receive-frame ring -/
  | frx
  /-- dump ring -/
  | dmp
deriving DecidableEq, Repr

/-- The type of ring `r` (R134). -/
def ringKind (r : Fin 57) : RingKind :=
  if r.val < 16 then .cmd else if r.val < 32 then .cpl else if r.val < 40 then .evt else if r.val < 48 then .ftx
  else if r.val < 56 then .frx else .dmp

/-- The frames queued from FTX ring `r` have no descriptor to be written back to any more (R131: DEDUCED, log 145). -/
def orphanFtx (s : State) (r : Fin 57) : State :=
  if ringKind r = .ftx then
    forAll outlets (fun s o => s.onQ (txQ o) fun q => { q with packets := q.packets.map fun p => if p.ring = r.val then { p with ring := 0, irq := false } else p }) s
  else s

/-- EN is cleared, for whatever reason: unacknowledged entries are held for a replay (R131), and a credential lapses
(R546). -/
def ringDown (s : State) (r : Fin 57) : State :=
  orphanFtx (s.onRing r fun x => { x with
    en := false
    cred := 0
    pass := x.pass + 1
    cplHeld := (x.cplUnacked.map fun c => { c with replay := true }) ++ x.cplHeld
    cplUnacked := []
    evtHeld := (x.evtUnacked.map fun e => { e with replay := true }) ++ x.evtHeld
    evtUnacked := [] }) r

/-- A ring error is recorded and reported (R138, R618). -/
def reportRingError (s : State) (r : Fin 57) (cause : Nat) : State :=
  let s := s.onRing r fun x => { x with errCause := BitVec.ofNat 3 cause, err := true }
  postDev (rngInt s fun g => { g with ringErr := true }) 0x0003 (p8 r.val ++ p8 cause)

/-- A ring error of a doorbell (R138): EN cleared, the cause recorded, the Ring error event posted. -/
def ringError (s : State) (r : Fin 57) (cause : Nat) : State := reportRingError (ringDown s r) r cause

/-- Occupancy of a ring with its host index at `v` (R135). -/
def Ring.occupancy (x : Ring) (k : RingKind) (v : BitVec 32) : Nat :=
  match k with
  | .cmd | .ftx | .frx => (v - x.devIdx).toNat
  | _ => (x.devIdx - v).toNat

/-- The error of a doorbell value (R138), by its ERR_CAUSE. A value that goes backwards gives cause 2 also where it exceeds
SIZE (DESIGN CHOICE, log 18). -/
def doorbellError (x : Ring) (k : RingKind) (v : BitVec 32) : Option Nat :=
  if v ≠ x.hostIdx ∧ !later v x.hostIdx then some 2
  else if x.size < x.occupancy k v then some 1
  else none

/-- The host's index of a ring moves to `v`: entries it has passed are acknowledged, and what the ring still holds back is written
(R131, R137). -/
def acknowledge (s : State) (r : Fin 57) (v : BitVec 32) : State :=
  openRing (s.onRing r fun x =>
    let n := (v - x.hostIdx).toNat
    { x with hostIdx := v, cplUnacked := x.cplUnacked.drop n, evtUnacked := x.evtUnacked.drop n }) r

/-- A doorbell value (R137, R138, R519). One written to a disabled ring is kept and not acted on (DESIGN CHOICE, log 18). -/
def doorbell (s : State) (r : Fin 57) (v : BitVec 32) : State :=
  let s := s.onRing r fun x => { x with doorbell := v }
  let s := if mirroring s then s.send (.tie 3 (.mirror 7 [r.val, v.toNat, (s.ring r).devIdx.toNat])) else s
  let x := s.ring r
  if shadowed s r then s.onRing r fun y => { y with hostIdx := v }
  else if !x.en then s
  else match doorbellError x (ringKind r) v with
    | some cause => ringError s r cause
    | none => acknowledge s r v

/-- DOORBELL_WRITE (R137). -/
def execDoorbellWrite (r : Fin 57) (v : BitVec 32) (s : State) : Res := .next (viaHost s fun s => doorbell s r v)

/-- The fields of RNG_CTL but EN take their written values; ROLE written with another role than the credential's lets the
credential lapse (R169, R546). -/
def ctlFields (s : State) (r : Fin 57) (v : Word) : State :=
  s.onRing r fun x =>
    let role := BitVec.ofNat 3 (fld v 5 3)
    { x with
      sizeCode := BitVec.ofNat 4 (fld v 1 4)
      role := role
      vector := BitVec.ofNat 6 (fld v 8 6)
      modCount := BitVec.ofNat 8 (fld v 14 8)
      modTime := BitVec.ofNat 10 (fld v 22 10)
      cred := if x.cred = role then x.cred else 0 }

/-- The first enable rule a ring breaks, by its ERR_CAUSE (R618). -/
def enableError (s : State) (r : Fin 57) : Option Nat :=
  let x := s.ring r
  let cpl := s.ring (cplRing (fin 16 r.val))
  let cmd := ringKind r == .cmd
  if 10 < x.sizeCode.toNat then some 7
  else if x.base.toNat % 4096 ≠ 0 ∨ x.wb.toNat % 64 ≠ 0 then some 4
  else if cmd && !(1 ≤ x.role.toNat && x.role.toNat ≤ 5 && (x.role == 1 || x.cred == x.role)) then some 6
  else if cmd && !cpl.en then some 5
  else if cmd && decide (cpl.size < x.size) then some 3
  else none

/-- A ring that obeys the rules is enabled: its indices are 0, and what it holds is written first (R131). -/
def ringUp (s : State) (r : Fin 57) : State :=
  openRing (s.onRing r fun x => { x with en := true, hostIdx := 0, devIdx := 0, unsignalled := 0 }) r

/-- A write of RNG_CTL (R131, R169, R618). EN = 1 on an enabled ring is checked as at an enable; where it breaks no rule it writes the
other fields only, and the indices go on (DESIGN CHOICE, log 18). In recovery only rings 0, 16 and 32 can be enabled (R597). -/
def writeRngCtl (s : State) (r : Fin 57) (v : Word) : State :=
  let was := (s.ring r).en
  let s := ctlFields s r v
  if !bit v 0 then if was then ringDown s r else s
  else if !was && s.upd.recovery && !([0, 16, 32].contains r.val) then s
  else match enableError s r with
    | some cause => reportRingError (if was then ringDown s r else s) r cause
    | none => if was then s else ringUp s r

/-- RING_ENABLE (R131): a write of RNG_CTL with EN = 1. -/
def execRingEnable (r : Fin 57) (v : BitVec 32) (s : State) : Res := .next (viaHost s fun s => writeRngCtl s r (v ||| 1))

/-- RING_DISABLE (R131): a host write of EN = 0, the other fields as they stand. -/
def execRingDisable (r : Fin 57) (s : State) : Res := .next (viaHost s fun s => ringDown s r)

/-- Every EN is cleared (R130). -/
def allRingsDown (s : State) : State :=
  forAll (List.finRange 57) (fun s r => if (s.ring r).en then ringDown s r else s) s

/-- What a fundamental or a function level reset puts back in the endpoint: its settings, the MSI-X table with every vector masked, and the
pending bits (R125: PRESUMED from PCI Express, log 79). -/
def endpointReset (s : State) : State :=
  { s with rng := { s.rng with
    mps := 0, mrrs := 2, aerUr := false, msixEn := false, msixFuncMask := false
    msixTable := Vector.replicate 64 (0, 0), msixMasked := BitVec.allOnes 64, msixPending := 0 } }

/-- Link loss (R130). Causes: 0 PERST#, 1 the link out of L0, 2 a function level reset, 3 D3hot. No request leaves from then on, until the
host has reached the device again (log 17). -/
def linkLoss (s : State) (cause : Nat) : State :=
  let s := allRingsDown s
  let s := if cause = 0 ∨ cause = 2 then endpointReset s else s
  { s with
    rng := { s.rng with linkUp := false, d3hot := s.rng.d3hot || cause == 3 }
    glb := { s.glb with perst := s.glb.perst || cause == 0 } }

/-- LINK_LOSS (R130). -/
def execLinkLoss (cause : Fin 4) (s : State) : Res := .next (linkLoss s cause.val)

/-- PERST_RELEASE (R36 step 8): the host releases PERST# and the link trains. -/
def execPerstRelease (s : State) : Res :=
  .next { s with glb := { s.glb with perst := false, insertion := false }
                 rng := { s.rng with linkUp := s.glb.phase == .running && !s.tim.refHoldover, d3hot := false } }

/-- A command can be fetched on a ring (R141): the device works it, an entry waits, at most 31 others are in flight, and a slot
of the CPL ring can be reserved. -/
def fetchable (s : State) (c : Fin 16) : Bool :=
  let x := s.ring (cmdRing c)
  let k := s.ring (cplRing c)
  s.glb.phase == .running && s.rng.linkUp && !s.tie.handing && !shadowed s (cmdRing c) && x.en && k.en
    && x.hostIdx != x.devIdx && decide ((s.rng.cmds.filter fun r => r.cmd.ring == c).length < 32)
    && decide (k.used + k.cplHeld.length + k.reserved < k.size)

/-- The command's record, put in flight; AT sets a mark, and a late mark lets the command take effect at once (R145). An AT equal to the
present mains time is late (DESIGN CHOICE, log 133). -/
def putInFlight (s : State) (c : Cmd) : State :=
  let late := c.atMark != 0 && s.reached c.atMark
  let phase : CmdPhase := if c.atMark = 0 ∨ late then .ready else .waitMark
  let r : CmdRec := { cmd := c, phase := phase, late := late, lastGseq := none, refused := false, outlet := s.cmdOutlet c }
  let s := { s with rng := { s.rng with cmds := s.rng.cmds ++ [r] } }
  if phase = .waitMark then (s.setMark .sequencer c.atMark (c.ring.val + 16 * c.index.toNat)).1 else s

/-- The number of the next command of a ring: bits [15:0] of its index, and the pass above them (R131, R147). -/
def Ring.cmdNo (x : Ring) : BitVec 32 := BitVec.ofNat 32 (x.pass.toNat * 65536 + x.devIdx.toNat % 65536)

/-- Fetch one descriptor (R141, R143, R144, R145, R148, R167). -/
def fetchCommand (s : State) (ring : Fin 16) (d : List Word) (data : List Byte) : State :=
  let k := cmdRing ring
  let c := parseCmd ring (s.ring k).cmdNo d data
  let s := (s.onRing k fun x => { x with devIdx := x.devIdx + 1, pass := if x.devIdx.toNat % 65536 = 65535 then x.pass + 1 else x.pass }).onRing (cplRing ring) fun x => { x with reserved := x.reserved + 1 }
  let s := writeBack s k
  let r : CmdRec := { cmd := c, phase := .ready, late := false, lastGseq := none, refused := false, outlet := none }
  match fetchStatus s c with
  | some st =>
    let s := mirrorDone (mirrorCmd s c) c st 0
    writeCpl (if st = 0x03 then recordRefusal s c else if st = 0x05 then refuseMark s .sequencer else s) r st 0
  | none => mirrorCmd (putInFlight s c) c

/-- COMMAND_FETCH (R141). -/
def execCommandFetch (r : Fin 16) (d : List (BitVec 32)) (data : List (BitVec 8)) (s : State) : Res :=
  .next (if fetchable s r then fetchCommand s r d data else s)

/-- The mark of a command with AT fires (R145): the command may take effect. -/
def fireCmdMark (s : State) (ring : Fin 16) (index : BitVec 32) : State :=
  match s.cmdRec ring index with
  | some r =>
    if r.phase = .waitMark then
      let s := s.toMains r.cmd.atMark
      let ref := ring.val + 16 * index.toNat
      let late := s.tim.marks.any fun m => m.owner == .sequencer && m.ref == ref && m.late
      (s.dropMark .sequencer ref).onCmd ring index fun x => { x with phase := .ready, late := late }
    else s
  | none => s

/-- BACKLOG_DRAIN (R153): waiting events are written while their rings have room. -/
def execBacklogDrain (s : State) : Res := .next (drainAll s)

/-- MODERATION_TIMEOUT (R158): MOD_TIME has passed since the first entry not yet signalled. -/
def execModerationTimeout (r : Fin 57) (s : State) : Res :=
  let x := s.ring r
  .next (if x.en && x.unsignalled != 0 then
    signalRing (s.toTick (x.firstUnsigAt + max 1 x.modTime.toNat * usNs)) r true else s)

/-! ### Vehicle frames (R155 to R157, R163, R314) -/

/-- The fields of an FTX descriptor (R155). -/
def parseFtx (d : List Word) : FtxDesc :=
  { handle := BitVec.ofNat 16 (fld (wAt d 0) 0 16), length := fld (wAt d 0) 16 16, irq := bit (wAt d 1) 0, addr := BitVec.ofNat 64 (wNat d 2 2),
    tag := wAt d 4 }

/-- Word 7 of an FTX descriptor is written back: DONE with its TX_STATUS (R155). Ring 0 stands for a descriptor that is no longer there, and
a standby writes none (R519). -/
def ftxWord7 (s : State) (ring : Nat) (index : BitVec 32) (status : BitVec 8) : State :=
  let r := fin 57 ring
  if ring = 0 ∨ shadowed s r then s else s.writeEntry r index 7 [pack [(0, 1), (8, status.toNat)]]

/-- DONE of a descriptor with IRQ is signalled at once (R159). -/
def ftxSignal (s : State) (ring : Nat) (irq : Bool) : State :=
  if irq && ring != 0 then sendMsix s (s.ring (fin 57 ring)).vector else s

/-- The standby learns that a frame fetched from an FTX ring is queued for an outlet (1), or finished (0) (R165, log 145). -/
def mirrorFtx (s : State) (ring : Nat) (index : BitVec 32) (o queued : Nat) : State :=
  if mirroring s && ring != 0 then s.send (.tie 3 (.mirror 11 [ring, index.toNat, o, queued])) else s

/-- The device has finished with a queued frame: DONE is written, and signalled where its IRQ asks (R155, R159). -/
def ftxDone (s : State) (ring : Nat) (index : BitVec 32) (status : BitVec 8) (irq : Bool) : State :=
  ftxSignal (ftxWord7 (mirrorFtx s ring index 0 0) ring index status) ring irq

/-- The modem slice of outlet `o`'s station is up (R570, R574). -/
def State.sliceUp (s : State) (o : Fin 128) : Bool := (vget s.pwr.domains ⟨11 + o.val / 16, by omega⟩).up

/-- Station `o` works: its slice is up, the stations run, and the device is not a standby (R331, R335, R574). -/
def stationUp (s : State) (o : Fin 128) : Bool :=
  s.glb.phase == .running && s.plc.en && s.sliceUp o && (s.tie.role == .alone || s.tie.role == .active)

/-- The TX_STATUS with which an FTX frame is turned away at once (R155, R314, R574); a bad length is judged first (DESIGN
CHOICE, log 19). -/
def ftxRefusal (s : State) (d : FtxDesc) : Option (BitVec 8) :=
  if d.length < 60 ∨ 1514 < d.length then some 2
  else match s.ofHandle d.handle.toNat with
    | none => some 1
    | some o => if (s.sta o).assoc && stationUp s o then none else some 1

/-- The indices of a ring as a mirror record (R517, R525). -/
def mirrorRing (s : State) (r : Fin 57) : State :=
  if mirroring s then s.send (.tie 3 (.mirror 7 [r.val, (s.ring r).hostIdx.toNat, (s.ring r).devIdx.toNat])) else s

/-- Fetch one FTX descriptor: the frame is queued, or turned away; a paused queue lets it wait (R155, R173). The consumer index
advances with the fetch (DESIGN CHOICE, log 19). -/
def fetchFtx (s : State) (r : Fin 57) (d : FtxDesc) (bytes : List Byte) : State :=
  let i := (s.ring r).devIdx
  let next (s : State) : State := mirrorRing (writeBack (s.onRing r fun x => { x with devIdx := x.devIdx + 1 }) r) r
  match ftxRefusal s d, s.ofHandle d.handle.toNat with
  | some st, _ => ftxSignal (next (ftxWord7 s r.val i st)) r.val d.irq
  | none, some o =>
    if (s.poolQ (txQ o)).paused then s
    else
      let p : Packet := { Packet.plain (bytes.take d.length) 0 with tag := d.tag, ring := r.val, index := i, irq := d.irq }
      next (mirrorFtx (s.onQ (txQ o) (·.link p)) r.val i o.val 1)
  | none, none => s

/-- FTX_FETCH (R155). -/
def execFtxFetch (r : Fin 8) (d : List (BitVec 32)) (bytes : List (BitVec 8)) (s : State) : Res :=
  let k : Fin 57 := ⟨40 + r.val, by omega⟩
  let x := s.ring k
  .next (if writingOn s && x.en && x.hostIdx != x.devIdx then fetchFtx s k (parseFtx d) bytes else s)

/-- The switching interval of outlet `o` is running, and QUIET_EN is set (R328). -/
def stationQuiet (s : State) (o : Fin 128) : Bool :=
  s.plc.quietEn && (match (s.sta o).quietUntil with | some t => decide (s.now < t) | none => false)

/-- The station sends what it has accepted, in its order; a switching interval defers it (R314, R315, R328). -/
def stationSend (s : State) (o : Fin 128) : State :=
  let q := (s.sta o).inStation
  if q.isEmpty || !stationUp s o || !(s.sta o).assoc || stationQuiet s o then s
  else q.foldl (fun s p => (s.send (.plc o p.bytes)).onSta o fun x => { x with txFrames := x.txFrames + 1 })
    (s.onSta o fun x => { x with inStation := [] })

/-- FTX_DONE (R314): the station accepts the oldest queued frame, or, without an association, the frame is discarded; DONE is
written back. An accepted frame is sent at the next command of its station or the next idle edge, so that STATION_TX_DROP can
come between (DESIGN CHOICE, log 19). -/
def execFtxDone (o : Fin 128) (s : State) : Res :=
  match (s.poolQ (txQ o)).packets with
  | p :: _ =>
    if s.glb.phase == .running then
      let ok := (s.sta o).assoc && stationUp s o
      let s := (stationSend s o).onQ (txQ o) PoolQ.take
      let s := if ok then s.onSta o fun x => { x with inStation := x.inStation ++ [p] } else s
      .next (ftxDone s p.ring p.index (if ok then 0 else 1) p.irq)
    else .next s
  | [] => .next s

/-- The FRX ring an outlet's frames go to now (R157): the old one while frames queued before the change of the map are left. -/
def frxRing (s : State) (o : Fin 128) : Fin 57 :=
  fin 57 (48 + (((vget s.rng.frxOld o).head?.map (·.1)).getD (vget s.rng.frxMap o)).toNat)

/-- A frame has left the receive queue of an outlet: one fewer of those queued before the change of the map (R157). -/
def frxLeft (s : State) (o : Fin 128) : State :=
  { s with rng := { s.rng with frxOld := vmod s.rng.frxOld o fun l => match l with
    | (r, n) :: t => if n ≤ 1 then t else (r, n - 1) :: t
    | [] => [] } }

/-- The fields of an FRX buffer descriptor (R156). -/
def parseFrx (d : List Word) : FrxBuf := { addr := BitVec.ofNat 64 (wNat d 2 2), size := fld (wAt d 4) 0 16 }

/-- A received frame fills a buffer: its payload, then words 6 and 7, then words 0 and 1 with DONE (R126, R156; the order of the two writes
is a DESIGN CHOICE, log 145). -/
def fillFrx (s : State) (r : Fin 57) (buf : FrxBuf) (handle : Nat) (p : Packet) : State :=
  let x := s.ring r
  let cut := decide (buf.size < p.bytes.length)
  let s := if requestsOn s then s.send (.payload buf.addr (p.bytes.take buf.size)) else s
  let s := s.writeEntry r x.devIdx 6 [word p.mains 0, word p.mains 1]
  s.writeEntry r x.devIdx 0 [pack [(0, handle), (16, p.bytes.length)], pack [(0, 1), (1, x.phase x.devIdx), (8, b2n cut)]]

/-- FRX_FILL (R156): the oldest received frame of an outlet fills the next buffer; a longer frame is cut and its remainder
dropped (R179). -/
def execFrxFill (o : Fin 128) (d : List (BitVec 32)) (s : State) : Res :=
  let r := frxRing s o
  let x := s.ring r
  let buf := parseFrx d
  match (s.poolQ (rxQ o)).packets with
  | p :: _ =>
    if writingOn s && x.en && x.hostIdx != x.devIdx then
      let s := s.onQ (rxQ o) (if buf.size < p.bytes.length then PoolQ.dropOne else PoolQ.take)
      let s := frxLeft (fillFrx s r buf (s.handle o) p) o
      .next (mirrorRing (afterEntry s r false) r)
    else .next s
  | [] => .next s

/-- The Frames lost event (R168): direction 0 transmit, 1 receive. -/
def framesLost (s : State) (o : Fin 128) (dir n : Nat) : State :=
  postDev (rngInt s fun g => { g with framesLost := true }) 0x0005 (p16 (s.handle o) ++ p8 dir ++ p32 n)

/-- STATION_TX_DROP (R314): the station drops the oldest frame it has accepted, after 8 attempts. -/
def execStationTxDrop (o : Fin 128) (s : State) : Res :=
  .next (if s.glb.phase == .running && !(s.sta o).inStation.isEmpty then
    framesLost { s.onSta o fun x => { x with txDrop := x.txDrop + 1, inStation := x.inStation.drop 1 } with
      plc := { s.plc with frameDrop := true } } o 0 1 else s)

/-- Drop every queued FTX frame of an outlet, each completing with TX_STATUS 3 (R168, R179). -/
def flushTx (s : State) (o : Fin 128) : State :=
  (s.poolQ (txQ o)).packets.foldl (fun s p => ftxDone (s.onQ (txQ o) PoolQ.dropOne) p.ring p.index 3 p.irq) s

/-! ### Ring-control commands (R168) -/

/-- No operation: it completes once every event generated before it has been written or folded. -/
def effNoOperation (c : Cmd) (s : State) : State :=
  let n := s.rng.posted + 1
  if s.rng.backlog.any fun e => decide (e.ident < n) then s.onCmd c.ring c.index fun x => { x with phase := .done 0 0 (some n) }
  else complete s c 0

/-- NO_OPERATION. -/
def execNoOperation (c : Cmd) (s : State) : Res := .next (cmdStep [0x0000] effNoOperation c s)

/-- The EVT rings that are enabled, in ascending order. -/
def evtRingsOn (s : State) : List (Fin 57) := ((List.range 8).map evtRing).filter fun r => (s.ring r).en

/-- Marker: a copy on every enabled EVT ring, each with its own numbers. It takes effect once nothing waits ahead of the copies
and every enabled EVT ring has room (DEDUCED from its purpose, log 20). -/
def effMarker (c : Cmd) (s : State) : State :=
  if s.rng.backlog.isEmpty && s.rng.lostSums.isEmpty && (evtRingsOn s).all fun r => evtRoom s r then
    complete ((evtRingsOn s).foldl (fun s r =>
      let p := newEvent s 0x0004 none (p32 (c.p 0).toNat) (some c)
      writeEvt p.1 r p.2) s) c 0
  else s

/-- MARKER. -/
def execMarker (c : Cmd) (s : State) : Res := .next (cmdStep [0x0001] effMarker c s)

/-- Flush transmit. -/
def effFlushTransmit (c : Cmd) (s : State) : State :=
  match s.ofHandle (fld (c.p 0) 0 16) with
  | some o => complete (flushTx s o) c 0
  | none => complete s c 0x02

/-- FLUSH_TRANSMIT. -/
def execFlushTransmit (c : Cmd) (s : State) : Res := .next (cmdStep [0x0002] effFlushTransmit c s)

end Sys2Proof.Machine
end

