-- ==== Sys2Proof/Machine/Keys.lean ====
section
/-! DEFINITION. Keys and cryptographic engines (chapter 18): key slots and working key registers, key loading, credential
checks and the random generator. -/

namespace Sys2Proof.Machine

/-! ### Bytes and numbers -/

/-- A 256-bit number from 32 big-endian bytes (R542). -/
def num256 (l : List Byte) : BitVec 256 := BitVec.ofNat 256 (ofBytesBE (l.take 32))

/-! ### Slots and engines (R536 to R541) -/

/-- Engines whose uses include a slot's use (R539). -/
def enginesOf (slot : Fin 64) : List (Fin 8) :=
  let u := keyUses slot.val
  if u = 1 then [0, 1] else if u = 2 ∨ u = 4 then [2, 3] else if u = 8 then [4] else if u = 32 then [5]
  else if u = 0 then [] else [6, 7]

/-- An engine's register holds this slot at its present GEN (R540). -/
def KeyEng.holds (e : KeyEng) (slot : Fin 64) (gen : BitVec 16) : Bool := e.loaded && e.slot == slot && e.gen == gen

/-- A slot with both copies unsound becomes unusable, and the event is posted once; without the meter-signing key MOD_FAULT# is driven
low (R538). -/
def slotUnusable (s : State) (slot : Fin 64) : State :=
  let k := s.keySlot slot
  let s := s.onKey slot fun k => { k with state := .unusable, posted := true }
  let s := { s with key := { s.key with unusableAny := true }, glb := { s.glb with modFault := s.glb.modFault || slot == 5 } }
  if k.posted then s else postDev s 0x0B01 (p8 slot.val)

/-- Check the copies of a slot (R537, R538): a single unsound copy is rewritten from the other and counted in tally class 1,
under the slot's number as its instance (DESIGN CHOICE, log 36). -/
def checkSlot (s : State) (slot : Fin 64) : State :=
  let k := s.keySlot slot
  if k.state != .valid then s
  else if k.soundA && k.soundB then s
  else if k.soundA || k.soundB then tally (s.onKey slot fun k => { k with soundA := true, soundB := true }) 1 slot.val
  else slotUnusable s slot

/-- Load a slot into an engine's working key register where it does not hold it (R540), after the check of R537. Which of the
engines of a use serves is a DESIGN CHOICE (log 36): one that already holds the slot, else the first. -/
def loadEngine (s : State) (slot : Fin 64) : State :=
  let gen := (s.keySlot slot).gen
  let es := enginesOf slot
  if es.any fun e => (vget s.key.engines e).holds slot gen then s
  else
    let s := checkSlot s slot
    match es.head? with
    | some e =>
      if (s.keySlot slot).state = .valid then
        { s with key := { s.key with engines := vmod s.key.engines e fun _ => ⟨true, slot, gen⟩ } }
      else s
    | none => s

/-- A key for an operation: the slot's material, where the slot can be used. Under debug no slot that holds a key can (R548). -/
def useKey (s : State) (slot : Fin 64) : Option (List Byte) × State :=
  if s.key.dbgKeys then (none, s)
  else if (s.keySlot slot).state != .valid then (none, s)
  else
    let s := loadEngine s slot
    (if (s.keySlot slot).state = .valid then some (s.keySlot slot).mat.words else none, s)

/-- The meter-signing key (R545), or the test key of debug (R548). -/
def meterKey (s : State) : Option (BitVec 256) × State :=
  if s.key.dbgKeys then (s.key.testMeter, s)
  else let r := useKey s 5; (r.1.map num256, r.2)

/-- The public meter-signing key, X then Y (R545, R548). -/
def meterPublic (s : State) : List Byte :=
  let d := if s.key.dbgKeys then s.key.testMeter
    else if (s.keySlot 5).state = .valid then some (num256 (s.keySlot 5).mat.words) else none
  match d with
  | some d => let q := ecdsaPublic d; beBytes 32 q.1.toNat ++ beBytes 32 q.2.toNat
  | none => List.replicate 64 0

/-- A slot changes (R543): its GEN rises, and the event is posted. -/
def changeSlot (s : State) (slot : Fin 64) (st : KeyState) (mat : List Byte) (cause : Nat) (by_ : Option Cmd) : State :=
  let s := s.onKey slot fun k => { state := st, gen := k.gen + 1, mat := ⟨mat⟩, soundA := true, soundB := true, posted := false }
  let s := if st = .empty then
    { s with key := { s.key with engines := vall s.key.engines fun e => if e.slot = slot then {} else e } } else s
  postDev s 0x0B00 (p8 slot.val ++ p8 cause ++ p16 (s.keySlot slot).gen.toNat) by_

/-! ### Random generator (R547) -/

/-- Run an operation that needs random values: with the generator at fault it waits, and fails 10 ms after the failure. -/
def withRandom (c : Cmd) (s : State) (f : State → State) : State :=
  if s.key.rngOk then f s
  else match s.key.rngFailAt with
    | some t => if s.since t (10 * msNs) then complete s c 0x0A else s
    | none => s

/-- RANDOM_SOURCE_FAULT (R547). -/
def execRandomSourceFault (s : State) : Res :=
  .next (if s.clocksRun && s.key.rngOk then
    postDev { s with key := { s.key with rngOk := false, rngFault := true, rngFailAt := some s.now } } 0x0B03 (p8 0)
  else s)

/-- RANDOM_SOURCE_RESTORED (R547). -/
def execRandomSourceRestored (s : State) : Res :=
  .next (if s.clocksRun && !s.key.rngOk && s.key.rngFailAt.isSome then
    postDev { s with key := { s.key with rngOk := true, rngFailAt := none } } 0x0B03 (p8 1)
  else s)

/-! ### Loading (R543, R549) -/

/-- The role may load a slot (R536): slot 7 the Host while it is EMPTY, slot 8 the Custodian while it is EMPTY. -/
def mayLoad (s : State) (slot : Fin 64) (role : Nat) : Bool :=
  let empty := (s.keySlot slot).state == .empty
  if slot = 7 then (if empty then role == 1 else role == 3)
  else if slot = 8 then (if empty then role == 3 else role == 4)
  else role == 3

/-- The slot of a key command (R549). -/
def keyCmdSlot (c : Cmd) : Fin 64 := fin 64 (fld (c.p 0) 0 6)

/-- A command of another role than its slot's is refused and recorded (R3, R143). -/
def refuseRole (s : State) (c : Cmd) : State := complete (recordRefusal s c) c 0x03

/-- The material that STAGE holds for a slot, where it is acceptable (R543). -/
def stagedKey (s : State) (slot : Fin 64) : Option (List Byte) :=
  let st := s.key.stage.toList
  match keyType slot.val with
  | 1 => some (st.take 16)
  | 2 =>
    let d := ofBytesBE (st.take 32)
    if 1 ≤ d ∧ d < p256Order then some (st.take 32) else none
  | 3 => if onCurve (num256 st) (num256 (st.drop 32)) then some (st.take 64) else none
  | _ => none

/-- Load key. -/
def effLoadKey (c : Cmd) (s : State) : State :=
  let slot := keyCmdSlot c
  let clear (s : State) : State := { s with key := { s.key with stage := Vector.replicate 256 0 } }
  if keyType slot.val = 0 ∨ slot = 5 then clear (complete s c 0x02)
  else if !mayLoad s slot (s.roleOf c) then clear (refuseRole s c)
  else if s.key.dbgKeys && (s.keySlot slot).state != .empty then clear (complete s c 0x0A)
  else match stagedKey s slot with
    | some m => clear (complete (changeSlot s slot .valid m 0 (some c)) c 0)
    | none => clear (complete s c 0x02)

/-- LOAD_KEY. -/
def execLoadKey (c : Cmd) (s : State) : Res := .next (cmdStep [0x0B00] effLoadKey c s)

/-- Erase key. A reserved slot holds nothing to erase (R536). -/
def effEraseKey (c : Cmd) (s : State) : State :=
  let slot := keyCmdSlot c
  if slot = 5 ∨ keyType slot.val = 0 then complete s c 0x02
  else if s.key.dbgKeys && (s.keySlot slot).state != .empty then complete s c 0x0A
  else complete (changeSlot s slot .empty [] 1 (some c)) c 0

/-- ERASE_KEY. -/
def execEraseKey (c : Cmd) (s : State) : Res := .next (cmdStep [0x0B01] effEraseKey c s)

/-- Generate key. -/
def effGenerateKey (c : Cmd) (s : State) : State :=
  let slot := keyCmdSlot c
  if keyUses slot.val ≠ 16 then complete s c 0x02
  else if s.key.dbgKeys && (s.keySlot slot).state != .empty then complete s c 0x0A
  else withRandom c s fun s =>
    let d := s.draw
    complete (changeSlot d.2 slot .valid (beBytes 32 (privateKey d.1)) 2 (some c)) c 0

/-- GENERATE_KEY. -/
def execGenerateKey (c : Cmd) (s : State) : Res := .next (cmdStep [0x0B02] effGenerateKey c s)

/-- The public key a slot gives (R543, R549). -/
def publicOf (slot : Fin 64) (m : List Byte) : List Byte :=
  if keyType slot.val = 2 then let q := ecdsaPublic (num256 m); beBytes 32 q.1.toNat ++ beBytes 32 q.2.toNat else m

/-- Read public key. A slot of type AES-128 has none (DEDUCED, log 36: 0x02). -/
def effReadPublicKey (c : Cmd) (s : State) : State :=
  let slot := keyCmdSlot c
  if c.p2 1 % 64 ≠ 0 ∨ keyType slot.val = 1 then complete s c 0x02
  else
    let s := if s.key.dbgKeys then s else checkSlot s slot
    let k := s.keySlot slot
    if k.state != .valid || s.key.dbgKeys then complete s c 0x0A
    else complete (s.hostWrite (BitVec.ofNat 64 (c.p2 1)) (publicOf slot k.mat.words)) c 0

/-- READ_PUBLIC_KEY. -/
def execReadPublicKey (c : Cmd) (s : State) : Res := .next (cmdStep [0x0B03] effReadPublicKey c s)

/-! ### Credential checks (R546) -/

/-- Checks are throttled: 8 have failed within 10 s, less than 10 s ago. -/
def throttled (s : State) : Bool := match s.key.throttleUntil with | some t => decide (s.now < t) | none => false

/-- Begin credential. -/
def effBeginCredential (c : Cmd) (s : State) : State :=
  let role := fld (c.p 0) 4 3
  if role < 2 ∨ 5 < role then complete s c 0x02
  else if throttled s then complete s c 0x0A
  else withRandom c s fun s =>
    let d := s.draw
    let s := d.2
    let bytes := leBytes 32 d.1.toNat
    complete { s with key := { s.key with
      challenge := Vector.ofFn fun (i : Fin 32) => bytes.getD i.val 0
      pending := some { ring := fin 16 (fld (c.p 0) 0 4), role := BitVec.ofNat 3 role, value := d.1, at_ := s.now } } } c 0

/-- BEGIN_CREDENTIAL. -/
def execBeginCredential (c : Cmd) (s : State) : Res := .next (cmdStep [0x0B04] effBeginCredential c s)

/-- The public key of a role's credential (R546, R548): its slot, or the ROM key of the Service role or of debug. -/
def credentialKey (s : State) (role : Nat) : Option (BitVec 256 × BitVec 256) × State :=
  if s.key.dbgKeys then (some (Config.romKey (role - 1)), s)
  else if role = 5 then (some (Config.romKey 0), s)
  else
    let r := useKey s (fin 64 (role + 4))
    (r.1.map fun m => (num256 m, num256 (m.drop 32)), r.2)

/-- What a credential's holder signs (R546 step 2). -/
def credentialDigest (s : State) (x : Challenge) : BitVec 256 :=
  sha256 (leBytes 32 x.value.toNat ++ leBytes 8 s.serial ++ p8 x.ring.val ++ p8 x.role.toNat)

/-- The result of a check on ring `k` (R550): 0 passed, 1 bad signature, 2 no usable key, 3 no valid challenge, 4 throttled. -/
def credentialResult (s : State) (k : Fin 16) : Nat × State :=
  if throttled s then (4, s)
  else match s.key.pending with
    | some x =>
      if x.ring = k ∧ s.now < x.at_ + 60 * secNs then
        let r := credentialKey s x.role.toNat
        match r.1 with
        | none => (2, r.2)
        | some q =>
          let sig := s.key.response.toList
          if ecdsaVerify q.1 q.2 (credentialDigest s x) (num256 sig) (num256 (sig.drop 32)) then (0, r.2) else (1, r.2)
      else (3, s)
    | none => (3, s)

/-- A failed check counts toward the throttle, but a throttled one does not (DESIGN CHOICE, log 37). -/
def countFail (s : State) (result : Nat) : State :=
  if result = 0 ∨ result = 4 then s
  else
    let fails := s.now :: s.key.fails.filter fun t => decide (s.now < t + 10 * secNs)
    if 8 ≤ fails.length then { s with key := { s.key with fails := [], throttleUntil := some (s.now + 10 * secNs) } }
    else { s with key := { s.key with fails := fails } }

/-- Prove credential. The Credential event is posted with every check, since its result 0 says that it passed (DEDUCED, log 37). -/
def effProveCredential (c : Cmd) (s : State) : State :=
  let k := fin 16 (fld (c.p 0) 0 4)
  let role := match s.key.pending with | some x => x.role | none => 0
  let r := credentialResult s k
  let s := countFail { r.2 with key := { r.2.key with pending := none, credFail := r.2.key.credFail || r.1 != 0 } } r.1
  let s := postDev s 0x0B02 (p8 k.val ++ p8 role.toNat ++ p8 r.1) (some c)
  if r.1 = 0 then complete (s.onRing (cmdRing k) fun x => { x with cred := role }) c 0 0
  else complete (if role = 4 then tamper s 8 k.val none else s) c 0x0A (BitVec.ofNat 32 r.1)

/-- PROVE_CREDENTIAL. -/
def execProveCredential (c : Cmd) (s : State) : Res := .next (cmdStep [0x0B05] effProveCredential c s)

/-- CHALLENGE_EXPIRY (R546): the challenge is 60 s old. -/
def execChallengeExpiry (s : State) : Res :=
  .next (match s.key.pending with
  | some x => if s.clocksRun then
      let s := s.toTick (x.at_ + 60 * secNs)
      { s with key := { s.key with pending := none } } else s
  | none => s)

/-! ### The key-loading window (R542) -/

/-- Write a byte of the window: STAGE or RESPONSE. -/
def writeKeyWindow (s : State) (off : Nat) (b : Byte) : State :=
  if off < 0x100 then { s with key := { s.key with stage := vmod s.key.stage (fin 256 off) fun _ => b } }
  else if 0x120 ≤ off ∧ off < 0x160 then { s with key := { s.key with response := vmod s.key.response (fin 64 (off - 0x120)) fun _ => b } }
  else s

/-- Read a byte of the window: only CHALLENGE reads other than 0. -/
def readKeyWindow (s : State) (off : Nat) : Byte :=
  if 0x100 ≤ off ∧ off < 0x120 then vget s.key.challenge (fin 32 (off - 0x100)) else 0

end Sys2Proof.Machine
end

