-- ==== Sys2Proof/Machine/Memory.lean ====
section
/-! DEFINITION. Keeping memory that holds images (R588): a list of address and byte pairs in one canonical form, addresses strictly
rising and no entry equal to what an unlisted address reads as. -/

namespace Sys2Proof.Machine

/-- What an unlisted byte of an image slot reads as: an erased byte (DESIGN CHOICE, log 7). -/
def Memory.blank : Byte := 0xFF

/-- Addresses rise from `lo` on, and no entry is blank. -/
def Memory.wfFrom : Nat → List Host.Cell → Bool
  | _, [] => true
  | lo, c :: t => decide (lo ≤ c.1) && c.2 != Memory.blank && Memory.wfFrom (c.1 + 1) t

/-- The canonical form. -/
def Memory.wf (m : List Host.Cell) : Bool := Memory.wfFrom 0 m

/-- The byte at an address. -/
def Memory.get : List Host.Cell → Nat → Byte
  | [], _ => Memory.blank
  | c :: t, a => if c.1 = a then c.2 else Memory.get t a

/-- Write one byte: the canonical form is kept. -/
def Memory.put : List Host.Cell → Nat → Byte → List Host.Cell
  | [], a, b => if b = Memory.blank then [] else [(a, b)]
  | c :: t, a, b =>
    if a < c.1 then if b = Memory.blank then c :: t else (a, b) :: c :: t
    else if a = c.1 then if b = Memory.blank then t else (a, b) :: t
    else c :: Memory.put t a b

/-- Write bytes from an address on. -/
def Memory.putAll : List Host.Cell → Nat → List Byte → List Host.Cell
  | m, _, [] => m
  | m, a, b :: t => Memory.putAll (Memory.put m a b) (a + 1) t

/-- The `n` bytes from an address on. -/
def Memory.read (m : List Host.Cell) (a n : Nat) : List Byte := (List.range n).map fun i => Memory.get m (a + i)

/-- The 32-bit word at an address, little-endian (R11). -/
def Memory.word (m : List Host.Cell) (a : Nat) : Word := BitVec.ofNat 32 (ofBytes (Memory.read m a 4))

end Sys2Proof.Machine
end

