-- ==== Sys2Proof/Machine/Triggers.lean ====
section
/-! DEFINITION. Triggers of the sequencer contexts (R201, R208), the contexts' journal (R228) and the mirror records a pair
exchanges about them (R517). -/

namespace Sys2Proof.Machine

/-! ### Mirror records (R517) -/

/-- Send a mirror record, where the device is active in a pair. -/
def State.mirror (s : State) (kind : Nat) (words : List Nat) : State :=
  if mirroring s then s.send (.tie 3 (.mirror kind words)) else s

/-- A running timer as two words of a mirror record. -/
def Timer.words : Timer → List Nat
  | .off => [0, 0]
  | .ms t => [1, t]
  | .angle m => [2, m]

/-- A timer from the two words of a mirror record. -/
def Timer.ofWords (k v : Nat) : Timer := if k = 1 then .ms v else if k = 2 then .angle v else .off

/-- A pending switch as four words. -/
def zpWords : Option ZpMark → List Nat
  | none => [0, 0, 0, 0]
  | some z => [1, z.mark, b2n z.close, z.target]

/-- A pending switch from four words. -/
def zpOf (l : List Nat) : Option ZpMark :=
  if l.getD 0 0 = 1 then some ⟨l.getD 1 0, l.getD 2 0 == 1, l.getD 3 0⟩ else none

/-- The code of a SET_PILOT argument (R202). -/
def PilotSel.code : PilotSel → Nat | .x1 => 0 | .limit => 1 | .digital => 2 | .f => 3

/-- The SET_PILOT argument of a code (R202). -/
def PilotSel.ofCode (n : Nat) : PilotSel := if n % 4 = 1 then .limit else if n % 4 = 2 then .digital else if n % 4 = 3 then .f else .x1

/-- The journal record of a context with its learnt delays, as the words of a mirror record (R228, R517). -/
def CtxJournal.words (j : CtxJournal) : List Nat :=
  [j.profile.val, j.version, b2n j.bound, b2n j.enabled, j.state, j.flags.toNat, b2n j.authorised] ++
  j.timers.toList.flatMap Timer.words ++ zpWords j.zpMain ++ zpWords j.zpAux ++
  [b2n j.main, b2n j.aux, b2n j.lock, j.mode.toNat, j.duty.toNat, j.pilotSel.code, j.seq.toNat,
   j.delays.closeMain, j.delays.openMain, j.delays.closeAux, j.delays.openAux]

/-- The CRC-32 of a journal slot, over its words as 64-bit numbers (R228; the spec gives the slot no layout: DESIGN CHOICE, log 140). -/
def CtxJournal.sum (j : CtxJournal) : BitVec 32 := crc32 (j.words.flatMap (leBytes 8))

/-- A journal slot with its CRC. -/
def CtxJournal.seal (j : CtxJournal) : CtxJournal := { j with crc := j.sum }

/-- A journal slot that can be reloaded: it has been written and its CRC is good (R228, R229). -/
def CtxJournal.good (j : CtxJournal) : Bool := j.valid && j.crc == j.sum

/-- A journal record from the words of a mirror record. -/
def CtxJournal.ofWords (l : List Nat) : CtxJournal :=
  let g := fun i => l.getD i 0
  let b := fun i => g i == 1
  { valid := true, profile := fin 32 (g 0), version := g 1, bound := b 2, enabled := b 3, state := g 4,
    flags := BitVec.ofNat 8 (g 5), authorised := b 6,
    timers := Vector.ofFn fun (i : Fin 4) => Timer.ofWords (g (7 + 2 * i.val)) (g (8 + 2 * i.val)),
    zpMain := zpOf ((l.drop 15).take 4), zpAux := zpOf ((l.drop 19).take 4),
    main := b 23, aux := b 24, lock := b 25, mode := BitVec.ofNat 3 (g 26), duty := BitVec.ofNat 10 (g 27),
    pilotSel := PilotSel.ofCode (g 28), seq := BitVec.ofNat 32 (g 29),
    delays := { closeMain := g 30, openMain := g 31, closeAux := g 32, openAux := g 33 } }

/-- The newer valid slot of an outlet's journal (R228, R229); a record that says `valid = false` where there is none. -/
def State.jrnOf (s : State) (o : Fin 128) : CtxJournal :=
  let a := vget (vget s.jrn o) 0
  let b := vget (vget s.jrn o) 1
  if a.good && (!b.good || decide (0 < signed 32 (a.seq - b.seq).toNat)) then a else if b.good then b else {}

/-- A journal record goes into the slot its sequence number alternates to (R228). -/
def State.putJrn (s : State) (o : Fin 128) (j : CtxJournal) : State :=
  s.onJrn o fun v => vmod v (fin 2 j.seq.toNat) fun _ => j.seal

/-- What the journal holds of a context as it stands (R228). -/
def Ctx.journal (c : Ctx) (d : Delays) (seq : BitVec 32) : CtxJournal :=
  { valid := true, profile := c.profile, version := c.version, bound := c.bound, enabled := c.enabled, state := c.state,
    flags := c.flags, authorised := c.authorised, timers := c.timers, zpMain := c.main.zp, zpAux := c.aux.zp,
    main := c.main.cmd, aux := c.aux.cmd, lock := c.lockCmd, mode := c.mode, duty := c.duty, pilotSel := c.pilotSel, delays := d
    seq := seq }

/-- Write the journal record of a context into the older slot; its mirror goes with it (R228, R517). -/
def writeJournal (s : State) (o : Fin 128) : State :=
  let j := (s.ctx o).journal (vget s.delays o) ((s.jrnOf o).seq + 1)
  (s.putJrn o j).mirror 0 (o.val :: j.words)

/-! ### Triggers -/

/-- The priority of a trigger code (R201): 1 is the highest. -/
def trigPrio (code : BitVec 8) : Nat :=
  match code.toNat with
  | 0x05 => 1 | 0x08 => 2 | 0x06 => 3 | 0x07 => 4 | 0x01 => 5 | 0x02 => 6 | 0x0C => 7 | 0x03 => 8 | 0x0A => 9 | 0x09 => 10
  | 0x0B => 11 | _ => 12

/-- The context of an outlet runs steps (R204, R230 to R233): a profile is bound, it is enabled, it does not wait for its lane
after power-on, it is not stopped, and its lane is not in LISTEN. -/
def State.ctxRuns (s : State) (o : Fin 128) : Bool :=
  let c := s.ctx o
  c.bound && c.enabled && !c.waiting && !c.stopped && (s.ctxProfile o).isSome && (s.lane o).link != .listen

/-- The RESULT of a Signal (R233). -/
def signalResult (s : State) (o : Fin 128) (refused lost : Bool) : BitVec 32 :=
  pack [(0, (s.ctx o).state), (8, b2n refused), (9, b2n lost)]

/-- The command of a ring and index, while it is in flight. -/
def State.cmdAt (s : State) (k : Fin 16 × BitVec 32) : Option Cmd := (s.cmdRec k.1 k.2).map (·.cmd)

/-- A trigger is dropped from a full queue (R208, R233). -/
def loseTrig (s : State) (o : Fin 128) (t : Trigger) : State :=
  let s := s.onCtx o fun c => { c with trigLost := c.trigLost + 1 }
  let s := { s with seq := { s.seq with trigLostAny := true } }
  let cmd := t.cmd.bind s.cmdAt
  let s := postOut s 0x0108 o (p8 t.code.toNat ++ p8 t.arg.toNat) cmd
  match cmd with
  | some c => complete s c 0x0A (signalResult s o false true)
  | none => s

/-- Split a list at its first element that meets `f`: before, the element, after. -/
def splitFirst {α : Type} (f : α → Bool) : List α → Option (List α × α × List α)
  | [] => none
  | x :: t => if f x then some ([], x, t) else (splitFirst f t).map fun r => (x :: r.1, r.2.1, r.2.2)

/-- The lowest priority among some triggers. -/
def lowestPrio (l : List Trigger) : Nat := l.foldl (fun a t => max a (trigPrio t.code)) 0

/-- Queue a trigger to a context (R208). A context that runs no steps takes none; a Signal's trigger then completes with status
0x0A (R233). A SAFETY trigger that finds 16 SAFETY triggers makes the fault transition with cause 0 due. -/
def queueTrig (s : State) (o : Fin 128) (code arg : Nat) (cmd : Option (Fin 16 × BitVec 32) := none) : State :=
  let t : Trigger := ⟨BitVec.ofNat 8 code, BitVec.ofNat 8 arg, cmd⟩
  let q := (s.ctx o).queue
  if !s.ctxRuns o then
    match cmd with
    | some k => completeKey s k.1 k.2 0x0A (signalResult s o false false)
    | none => s
  else if (code = 1 ∨ code = 2 ∨ code = 0x0B) ∧ q.any (fun x => x.code == t.code) then
    s.onCtx o fun c => { c with queue := c.queue.map fun x => if x.code = t.code then { x with arg := t.arg } else x }
  else if q.length < 16 then (s.count 3 0x13 1).onCtx o fun c => { c with queue := c.queue ++ [t] }
  else if code = 5 ∧ q.all (fun x => x.code == 5#8) then
    loseTrig (s.onCtx o fun c => { c with faultDue := some (c.faultDue.getD t) }) o t
  else
    let all := q ++ [t]
    match splitFirst (fun x => trigPrio x.code == lowestPrio all) all with
    | some r => loseTrig (s.onCtx o fun c => { c with queue := r.1 ++ r.2.2 }) o r.2.1
    | none => s

/-- The trigger a context serves next (R208): the highest priority, and the oldest of them; with the queue that stays. -/
def nextTrig (q : List Trigger) : Option (Trigger × List Trigger) :=
  let best := q.foldl (fun a t => min a (trigPrio t.code)) 255
  (splitFirst (fun t => trigPrio t.code == best) q).map fun r => (r.2.1, r.1 ++ r.2.2)

end Sys2Proof.Machine
end

