-- ==== Sys2Proof/Machine/SafetyCore.lean ====
section
/-! DEFINITION. The safety island's shared operations (chapter 08): invariants and permits (R256 to R259), the RDC test
(R246), the insulation source (R251), the outlet guard test (R273) and welds (R254, R255). -/

namespace Sys2Proof.Machine

/-- The safety record a context runs under (R276). -/
def State.safRec (s : State) (o : Fin 128) : Option SafetyRec := (s.ctxProfile o).map (·.saf)

/-- The outlet runs a DC profile. -/
def State.isDc (s : State) (o : Fin 128) : Bool := ((s.ctxProfile o).map (·.prof.dc)).getD false

/-- Both contactor feedbacks read open. -/
def Ctx.bothOpen (c : Ctx) : Bool := !c.main.fb && !c.aux.fb

/-- A contactor is commanded closed. -/
def Ctx.commanded (c : Ctx) : Bool := c.main.cmd || c.aux.cmd

/-- Since when both feedbacks have read as they do. -/
def Ctx.openSince (c : Ctx) : Nat := max c.main.fbSince c.aux.fbSince

/-- A safety input pair of a mask is open or latched (R256 bit 6). -/
def stopDemand (s : State) (mask : BitVec 32) : Bool :=
  (List.finRange 32).any fun k => mask.getLsbD k.val && (!(vget s.saf.pairs k).closed || (vget s.saf.pairs k).latched)

/-- The last insulation result is of class 0 or 1, young enough, and not latched (R252). -/
def isoHolds (s : State) (o : Fin 128) (r : SafetyRec) : Bool :=
  let x := s.saf1 o
  (match x.lastClass with | some k => decide (k.toNat ≤ 1) | none => false)
    && decide (s.now < x.lastIsoAt + r.imdAge * secNs) && !(s.safJ1 o).iso

/-- The PILOT invariant (R256), with its grace of 100 ms after a change from C or D to B. -/
def pilotHolds (s : State) (o : Fin 128) (dAllowed : Bool) : Bool :=
  let x := s.saf1 o
  x.pilot == 2 || (x.pilot == 3 && dAllowed)
    || (x.pilot == 1 && match x.pilotGraceUntil with | some t => decide (s.now < t) | none => false)

/-- The invariants of R256. An outlet with no profile has no safety record: its bits 0 to 5 do not hold (DESIGN CHOICE, log 22). -/
def evalInv (s : State) (o : Fin 128) : BitVec 12 :=
  let x := s.saf1 o
  let j := s.safJ1 o
  let c := s.ctx o
  let b := vget s.saf.binds o
  let axis := vget s.saf.axes b.axis
  let own : List Bool := match s.ctxProfile o with
    | none => [false, false, false, false, false, false]
    | some p =>
      let r := p.saf
      [pilotHolds s o r.dAllowed,
       p.prof.proxMode == 0 || (decide (1 ≤ c.prox.toNat) && decide (c.prox.toNat ≤ 4)),
       !r.lockReq || c.lockFb,
       !j.rc && x.rdcOk,
       !r.imdEn || isoHolds s o r,
       !r.tagReq || (s.aut1 o).cableValid]
  BitVec.ofNat 12 (ofBits (own ++
    [!stopDemand s b.estopMask,
     !b.axisEn || axis.state == .sto || axis.standstill,
     !j.weld,
     (s.lane o).link == .up && !x.measLost,
     s.saf.guardOk && x.guardOk,
     !s.saf.islandFault]))

/-- The MAIN and AUX permits may be asserted (R256): every invariant holds, and neither the RDC test nor the guard test runs
(R246, R273). -/
def permitNow (s : State) (o : Fin 128) (inv : BitVec 12) : Bool :=
  inv == 0xFFF#12 && (s.saf1 o).rdc == .idle && (s.saf1 o).guardStep == 0

/-- RELEASE_OK (R257). -/
def releaseNow (s : State) (o : Fin 128) : Bool :=
  let x := s.saf1 o
  let c := s.ctx o
  c.bothOpen && s.since c.openSince (100 * msNs) && !x.permit && s.since x.permitOffAt (100 * msNs)
    && decide (x.iMaxLane < 2000)
    && (!s.isDc o || match s.safRec o with | some r => decide (x.vdc ≤ r.weldVDc * 1000) | none => false)
    && !(s.safJ1 o).weld

/-! ### Permit word and DROP (R97, R260) -/

/-- Bits [5:0] of the permit word (R260). In step 1 of the guard test MAIN is asserted alone (R273). -/
def permitBits (s : State) (o : Fin 128) : Nat :=
  let x := s.saf1 o
  b2n (x.permit || x.guardStep == 1) + 2 * b2n x.permit + 4 * b2n x.releaseOk
    + 8 * b2n (match x.rdc with | .wait1 _ => true | _ => false) + 16 * x.imdSrc.toNat

/-- Frames with LISTEN = 0 leave on the lane, and carry the permit word. -/
def framesOut (s : State) (o : Fin 128) : Bool := ((s.lane o).link == .up || (s.lane o).link == .slack) && !(s.lane o).stopped

/-- DROP (R97): a permit that the last word asserted must be withdrawn while no frame carries it; eight consecutive sets are sent. On a
lane in DOWN or TRAIN they stand in place of training sets, and the training restarts at step 1. -/
def dropCheck (s : State) (o : Fin 128) : State :=
  let l := s.lane o
  if l.en && !framesOut s o && (s.saf1 o).lastWord.toNat &&& 7 &&& (7 ^^^ (permitBits s o &&& 7)) != 0 then
    let s := (s.onSaf o fun x => { x with lastWord := 0 }).send (.drop o 8)
    if l.link = .down ∨ l.link = .train then
      (s.onLane o fun y => { y with link := .down, trainStep := 1 }).send (.setWord o 0)
    else s
  else s

/-- The Permit withdrawn event and its SAFETY trigger (R259). -/
def withdraw (s : State) (o : Fin 128) (arg : Nat) : State :=
  let s := queueTrig s o 5 arg
  let s := postOut s 0x0205 o (p16 (0xFFF ^^^ (s.saf1 o).inv.toNat) ++ p8 arg)
  s.onSaf o fun x => { x with owesRestore := true }

/-- The island evaluates an outlet (R256, R257, R259). `trip` is the SAFETY argument of a trip or latch in this evaluation. -/
def evalPermit (s : State) (o : Fin 128) (trip : Option Nat := none) : State :=
  let old := (s.saf1 o).permit
  let inv := evalInv s o
  let new := permitNow s o inv
  let s := s.onSaf o fun x => { x with inv := inv, permit := new, permitOffAt := if old || new then s.now else x.permitOffAt }
  let s := dropCheck (s.onSaf o fun x => { x with releaseOk := releaseNow s o }) o
  match trip with
  | some a => withdraw s o a
  | none =>
    if old && !new && (s.ctx o).commanded then withdraw s o 3
    else if !old && new && (s.saf1 o).owesRestore then
      postOut (queueTrig (s.onSaf o fun x => { x with owesRestore := false }) o 5 6) 0x0206 o []
    else s

/-- An outlet's latches and RDC_OK as the words of a mirror record (R517). -/
def safWords (s : State) (o : Fin 128) : List Nat :=
  let j := s.safJ1 o
  let x := s.saf1 o
  [o.val, b2n j.rc, b2n j.iso, b2n j.weld, b2n x.rdcOk, x.rdcAt, b2n x.guardOk, (x.lastClass.map (·.toNat + 1)).getD 0, x.lastIsoAt]

/-- The mirror record of an outlet's latches and RDC_OK (R517). -/
def mirrorSaf (s : State) (o : Fin 128) : State := s.mirror 2 (safWords s o)

/-- A latch of an outlet is set (R244, R251, R255): TRIPS counts it, and TRIP_ANY is set. -/
def setLatch (s : State) (o : Fin 128) (was : Bool) (f : SafeJournal → SafeJournal) : State :=
  let s := { s.onSafJ o f with saf := { s.saf with tripAny := true } }
  mirrorSaf (s.onSaf o fun x => { x with trips := if was then x.trips else x.trips + 1 }) o

/-! ### Insulation source (R248 to R252) -/

/-- The source runs (R251): a CHECK insulation, a contactor commanded closed, a Clear trip of kind 1, or the guard test. -/
def imdNeeded (s : State) (o : Fin 128) : Bool :=
  let c := s.ctx o
  let x := s.saf1 o
  c.checkIso != 0 || (c.commanded && ((s.safRec o).map (·.imdEn)).getD false) || x.imdClear.isSome || x.guardStep == 4

/-- Switch the source on with its first half, or off (R249, R251). -/
def imdUpdate (s : State) (o : Fin 128) : State :=
  let x := s.saf1 o
  if imdNeeded s o then
    if x.imdSrc = 0 then s.onSaf o fun x => { x with imdSrc := 1, imdHalfAt := s.now, vcPlus := none, badRun := 0 } else s
  else if x.imdSrc = 0 then s
  else s.onSaf o fun x => { x with imdSrc := 0, vcPlus := none, badRun := 0 }

/-! ### Outlet guard test (R273) -/

/-- The outlet guard test ends; `step` is the failing step, 0 = pass. -/
def endGuard (s : State) (o : Fin 128) (step : Nat) : State :=
  let s := s.onSaf o fun x => { x with guardStep := 0, guardOk := step == 0, guardSent := false }
  let s := imdUpdate (postOut s 0x020E o (p8 1 ++ p8 step)) o
  mirrorSaf (evalPermit s o) o

/-! ### RDC test (R246, R247) -/

/-- The test may start: both contactors read open, and no test runs. -/
def rdcFree (s : State) (o : Fin 128) : Bool := (s.ctx o).bothOpen && (s.saf1 o).rdc == .idle

/-- The RDC test starts: stage trips are inhibited, RDC_TEST is set, and the permits are not asserted (R246). -/
def startRdc (s : State) (o : Fin 128) (why : RdcWhy) : State :=
  evalPermit (s.onSaf o fun x => { x with rdc := .wait1 (s.now + 100 * msNs), rdcWhy := why }) o

/-- The guard test's third step (R273): the RDC test; where it cannot run, the step fails. -/
def guardRdc (s : State) (o : Fin 128) : State :=
  let s := s.onSaf o fun x => { x with guardStep := 3, guardSent := false }
  if rdcFree s o then startRdc s o .attachTest
  else if (s.saf1 o).rdc != .idle && (s.ctx o).bothOpen then s
  else endGuard s o 3

/-- What follows an RDC test that ran for the guard test (R273). -/
def guardAfterRdc (s : State) (o : Fin 128) (step : Nat) : State :=
  if (s.saf1 o).guardStep = 3 then
    if step != 0 then endGuard s o 3
    else if s.isDc o then imdUpdate (s.onSaf o fun x => { x with guardStep := 4 }) o
    else endGuard s o 0
  else s

/-- The RDC test ends (R246); `step` is the failing step, 0 = pass. -/
def endRdc (s : State) (o : Fin 128) (step : Nat) : State :=
  let why := (s.saf1 o).rdcWhy
  let pass := step == 0
  let cmd := match why with
    | .command r i => s.cmdAt (r, i)
    | .clear r i => s.cmdAt (r, i)
    | _ => none
  let s := s.onSaf o fun x => { x with
    rdc := .idle, rdcOk := pass, rdcAt := if pass then s.now else x.rdcAt, rdcWhy := .auto }
  let s := postOut s 0x0201 o (p8 step ++ p32 (twos 32 (s.saf1 o).idc)) cmd
  let s := match why with
    | .clear _ _ => if pass then s.onSafJ o fun j => { j with rc := false } else s
    | _ => s
  let s := mirrorSaf (guardAfterRdc s o step) o
  let s := evalPermit s o
  match why with
  | .command r i => completeKey s r i 0 (BitVec.ofNat 32 step)
  | .clear r i => if pass then completeKey s r i 0 1 else completeKey s r i 0x0A
  | _ => s

/-! ### Welds (R254, R255) -/

/-- A weld is found: `cause` is that of the Welded contactor event (R280). -/
def foundWeld (s : State) (o : Fin 128) (cause : Nat) : State :=
  let s := setLatch s o (s.safJ1 o).weld fun j => { j with weld := true }
  let s := postOut s 0x0204 o (p8 2 ++ p8 cause)
  evalPermit s o (some 5)

end Sys2Proof.Machine
end

