-- ==== Sys2Proof/Machine/Hooks.lean ====
section
/-! DEFINITION. What the sequencer's actions and state entries hand to other blocks (R202): sessions (R405, R412, R413, R420),
association runs (R316, R321 to R323), and the requests of power sharing (R286, R288). -/

namespace Sys2Proof.Machine

/-! ### Sessions -/

/-- A session as it is opened; its start commit and start values come with the next commit (R412). -/
def newSession (s : State) (o : Fin 128) : Session :=
  { id := s.bil.nextSession, plan := (s.bil1 o).selected, startCommit := none, startLegal := 0, startImp := 0, startExp := 0,
    startMark := [], startIdx := Vector.replicate 16 0, flags := 0, contract := (s.bil1 o).contract,
    origin := BitVec.ofNat 64 s.serial, link := 0, closing := none, waitOpen := false }

/-- A session as words of a mirror record (R421). -/
def Session.words (x : Session) : List Nat :=
  let opt (v : Option Nat) : List Nat := match v with | some n => [1, n] | none => [0, 0]
  [x.id, x.plan.val, x.origin.toNat, x.link, x.contract.toNat, x.flags.toNat, b2n x.waitOpen] ++ opt x.startCommit
    ++ opt (x.closing.map (·.toNat)) ++ [x.startLegal, x.startImp, x.startExp]
    ++ ((List.range 4).map fun i => x.startMark.getD i 0) ++ x.startIdx.toList

/-- A session from those words. -/
def Session.ofWords (l : List Nat) : Session :=
  let g := fun i => l.getD i 0
  { id := g 0, plan := fin 64 (g 1), origin := BitVec.ofNat 64 (g 2), link := g 3, contract := BitVec.ofNat 32 (g 4)
    flags := BitVec.ofNat 15 (g 5), waitOpen := g 6 == 1, startCommit := if g 7 = 1 then some (g 8) else none
    closing := if g 9 = 1 then some (BitVec.ofNat 8 (g 10)) else none, startLegal := g 11, startImp := g 12, startExp := g 13
    startMark := if g 7 = 1 then (List.range 4).map fun i => g (14 + i) else []
    startIdx := Vector.ofFn fun (i : Fin 16) => g (18 + i.val) }

/-- SESSION_OPEN (R412, R420). -/
def openSession (s : State) (o : Fin 128) (by_ : Option Cmd) : State :=
  if (s.bil1 o).session.isSome then postOut s 0x0608 o (p8 0) by_
  else if 768 ≤ s.bil.overflow.length then
    postOut { s with bil := { s.bil with openRefused := true } } 0x0608 o (p8 1) by_
  else
    let x := newSession s o
    let s := s.onBil o fun b => { b with session := some x }
    { s with bil := { s.bil with nextSession := s.bil.nextSession + 1 } }.mirror 3
      ([0, o.val] ++ x.words)

/-- A session closes (R413); its end commit is the next one, or the first after both feedbacks read open. The selected plan
returns to DEFAULT_PLAN (R405) with the step that closes the session (DEDUCED, log 23). -/
def closeSession (s : State) (o : Fin 128) (reason : Nat) (waitOpen : Bool := false) : State :=
  match (s.bil1 o).session with
  | some x =>
    (s.onBil o fun b => { b with
      session := none
      closing := b.closing ++ [{ x with closing := some (BitVec.ofNat 8 reason), waitOpen := waitOpen }]
      selected := s.bil.tariff.defaultPlan
      contract := 0 }).mirror 3 [2, o.val, x.id, reason, b2n waitOpen]
  | none => s

/-! ### Association -/

/-- Change every open run. -/
def State.onRuns (s : State) (f : List Run → List Run) : State := { s with plc := { s.plc with runs := f s.plc.runs } }

/-- The stations of a run pass their pilot classes on again, and the class in force is presented (R326). -/
def endToggle (s : State) (r : Run) : State :=
  r.held.foldl (fun s h => match s.ofHandle h with
    | some o => if (s.sta o).togHeld then
        queueTrig (s.onSta o fun x => { x with togHeld := false, togState := 0 }) o 1 (s.ctx o).pilot.toNat else s
    | none => s) s

/-- A run fails (R321): its outlets are released, the event is posted on each of this device's candidates, and SLAC 1 is queued
to each that is still armed and is not `skip`. A station that leaves its candidacy by this step still reports the run (log 24). -/
def failRun (s : State) (r : Run) (cause : Nat) (skip : Option Nat := none) : State :=
  let s := s.onRuns fun l => l.filter fun x => !(x.id == r.id && x.src == r.src)
  let s := endToggle { s with plc := { s.plc with failAny := true } } r
  (r.cands ++ (skip.filter fun h => !r.cands.contains h).toList).foldl (fun s h =>
    match s.ofHandle h with
    | some o =>
      let s := postOut s 0x0401 o (p8 cause ++ leBytes 6 r.src.toNat)
      if (s.sta o).armed && skip != some h then queueTrig s o 0x0A 1 else s
    | none => s) s

/-- A run's match may be accepted: it is answering or validating (R320). -/
def Run.holding (r : Run) : Bool := r.phase == .answering || r.phase == .validating

/-- An outlet leaves every open run (R322): an answering run that holds no other outlet is abandoned with cause 5. -/
def leaveRuns (s : State) (o : Fin 128) : State :=
  let h := s.handle o
  let lost := s.plc.runs.filter fun r => r.holding && r.held == [h]
  let s := s.onSta o fun x => { x with togHeld := false, togState := 0 }
  let s := s.onRuns fun l => l.map fun r => { r with cands := r.cands.filter (· != h), held := r.held.filter (· != h) }
  lost.foldl (fun s r => failRun s { r with cands := r.cands.filter (· != h) } 5 (some h)) s

/-- SLAC_ARM (R316): an associated outlet is not armed. -/
def slacArm (s : State) (o : Fin 128) : State := s.onSta o fun x => { x with armed := !x.assoc }

/-- SLAC_DISARM, or the entry of a CLASS 0 or CLASS 4 state (R316, R322). -/
def slacDisarm (s : State) (o : Fin 128) : State := leaveRuns (s.onSta o fun x => { x with armed := false }) o

/-- The station state as a mirror record (R331, R517). -/
def mirrorSta (s : State) (o : Fin 128) : State :=
  let x := s.sta o
  s.mirror 4 [0, o.val, b2n x.assoc, x.nmk.toNat, b2n x.cco, x.score.toNat, x.ev.toNat]

/-- An association ends (R323): HLC is cleared, and the station's NMK is replaced by a fresh random one. -/
def endAssoc (s : State) (o : Fin 128) (cause : Nat) (by_ : Option Cmd := none) : State :=
  if (s.sta o).assoc then
    let d := s.draw
    let s := d.2.onSta o fun x => { x with assoc := false, nmk := d.1.truncate 128 }
    mirrorSta (postOut s 0x0402 o (p8 cause) by_) o
  else s

/-! ### Power sharing -/

/-- A request in mA (R286). -/
def setRequest (s : State) (o : Fin 128) (ma : Nat) : State := s.onShr o fun x => { x with request := ma }

/-- Priority and weight of the share record (R288), while no command has replaced them. -/
def recordPrio (s : State) (o : Fin 128) : State :=
  match s.ctxProfile o with
  | some p => s.onShr o fun x => if x.prioCmd then x else { x with prio := p.share.prio, weight := p.share.weight }
  | none => s

/-- What a context's entry of a state of class `k` does to power sharing (R286, R288). -/
def shareClass (s : State) (o : Fin 128) (k : Nat) : State :=
  let s := if k = 0 ∨ k = 4 then setRequest s o 0 else s
  if k = 0 then recordPrio (s.onShr o fun x => { x with prioCmd := false }) o
  else if k = 1 then recordPrio s o
  else s

/-! ### Readers -/

/-- An outlet requests a reader engine (R454): requests of one outlet merge into one, which keeps its place. -/
def requestEngine (s : State) (o : Fin 128) : State :=
  s.onAut o fun a => if a.reqAt.isSome then a else { a with reqAt := some s.now, waitLong := false }

/-- The tag data of an outlet as the words of a mirror record (R474, R517). -/
def tagWords (s : State) (o : Fin 128) : List Nat :=
  let j := s.tagJ1 o
  let opt (v : Option Nat) : List Nat := match v with | some n => [1, n] | none => [0, 0]
  [1, o.val, b2n (s.aut1 o).cableValid, b2n j.degraded, b2n j.authedOnce, j.tagId.toNat, j.rLoop.toNat, j.temp.toNat, j.pend]
    ++ opt (j.bound.map (·.toNat)) ++ opt (j.mates.map (·.toNat))
    ++ (match j.target with | some t => [1, t.1.toNat, t.2.1, t.2.2] | none => [0, 0, 0, 0])

/-- The tag data of an outlet is mirrored. -/
def mirrorTag (s : State) (o : Fin 128) : State := s.mirror 4 (tagWords s o)

end Sys2Proof.Machine
end

