-- ==== Sys2Proof/Machine/FieldBus.lean ====
section
/-! DEFINITION. The field-bus ports (R183 to R191): 8 RS-485 ports, port numbers 0 to 7, and 4 CAN FD ports, port numbers 8 to
11. -/

namespace Sys2Proof.Machine

/-- The shared part of port `p`. -/
def State.port (s : State) (p : Fin 12) : Port :=
  if h : p.val < 8 then (vget s.uarts ⟨p.val, h⟩).port else (vget s.cans ⟨p.val - 8, by omega⟩).port

/-- Change RS-485 port `q`. -/
def State.onUart (s : State) (q : Fin 8) (f : Uart → Uart) : State := { s with uarts := vmod s.uarts q f }

/-- Change CAN FD port `c`. -/
def State.onCan (s : State) (c : Fin 4) (f : Can → Can) : State := { s with cans := vmod s.cans c f }

/-- Change the shared part of port `p`. -/
def State.onPort (s : State) (p : Fin 12) (f : Port → Port) : State :=
  if h : p.val < 8 then s.onUart ⟨p.val, h⟩ fun u => { u with port := f u.port }
  else s.onCan ⟨p.val - 8, by omega⟩ fun x => { x with port := f x.port }

/-- Receive queue of a port (R171). -/
def portRxQ (p : Fin 12) : Fin 1024 := ⟨264 + p.val, by omega⟩
/-- Transmit queue of a port (R171). -/
def portTxQ (p : Fin 12) : Fin 1024 := ⟨276 + p.val, by omega⟩

/-- An RS-485 port as a port. -/
def uartPort (q : Fin 8) : Fin 12 := ⟨q.val, by omega⟩
/-- A CAN FD port as a port. -/
def canPort (c : Fin 4) : Fin 12 := ⟨8 + c.val, by omega⟩

/-- The Line error event (R183): its count is 1 because every error posts one. -/
def lineError (s : State) (p : Fin 12) (cause : Nat) : State :=
  let tail : List Byte := if h : p.val < 8 then [] else
    let x := vget s.cans ⟨p.val - 8, by omega⟩
    [x.tec, x.recErr]
  postDev s 0x0C48 (p8 p.val ++ p8 cause ++ p16 1 ++ tail)

/-! ### Reads (R185, R186) -/

/-- The RESULT of a Read that took a packet (R185). -/
def readResult (n : Nat) (trunc gap : Bool) : BitVec 32 := pack [(0, n), (16, b2n trunc), (17, b2n gap)]

/-- Outstanding Reads take the packets that have arrived, both in order (R185, R186). The list is the Reads still to serve. -/
def serveReads (p : Fin 12) : List FbRead → State → State
  | [], s => s
  | r :: rest, s =>
    match (s.poolQ (portRxQ p)).packets with
    | [] => s
    | k :: _ =>
      let trunc := decide (r.size < k.bytes.length)
      let s := s.onPort p fun x => { x with reads := x.reads.drop 1 }
      let s := s.onQ (portRxQ p) (if trunc then PoolQ.dropOne else PoolQ.take)
      let s := s.hostWrite r.addr (k.bytes.take r.size)
      serveReads p rest (complete s r.cmd 0 (readResult (min r.size k.bytes.length) trunc k.gap))

/-- Serve the Reads of a port; in a service reset they wait (R166). -/
def serve (s : State) (p : Fin 12) : State := if s.glb.phase == .running then serveReads p (s.port p).reads s else s

/-- The port number of a field-bus command; none above 11. -/
def Cmd.portNo (c : Cmd) : Option (Fin 12) :=
  let n := fld (wAt c.params 0) 0 4
  if h : n < 12 then some ⟨n, h⟩ else none

/-- Read (R185): the ninth outstanding Read of a port completes with status 0x0A. -/
def effRead (c : Cmd) (s : State) : State :=
  let size := fld (c.p 3) 0 16
  match Cmd.portNo c with
  | none => complete s c 0x02
  | some p =>
    if size < 16 ∨ 4096 < size then complete s c 0x02
    else if 8 ≤ (s.port p).reads.length then complete s c 0x0A
    else serve ((started s c).onPort p fun x => { x with reads := x.reads ++ [⟨c, size, BitVec.ofNat 64 (c.p2 1)⟩] }) p

/-- READ. -/
def execRead (c : Cmd) (s : State) : Res := .next (cmdStep [0x0C41] effRead c s)

/-! ### Transmits (R184, R186) -/

/-- Bits of one character on an RS-485 line (R192): start, data, parity and stop bits. -/
def Uart.charBits (u : Uart) : Nat := 1 + (if u.data7 then 7 else 8) + (if u.parity = 0 then 0 else 1) + (if u.stop2 then 2 else 1)

/-- Nanoseconds of `n` characters, rounded up. -/
def Uart.charsNs (u : Uart) (n : Nat) : Nat := (n * u.charBits * secNs + u.baud.toNat - 1) / u.baud.toNat

/-- Characters begun in `ns`, the running one included. -/
def Uart.charsIn (u : Uart) (ns : Nat) : Nat := ns * u.baud.toNat / (u.charBits * secNs) + 1

/-- A port may put a Transmit on the line now: FB_CTS allows it (R190), and a CAN FD port is not bus-off. -/
def lineOpen (s : State) (p : Fin 12) : Bool :=
  if h : p.val < 8 then
    let u := vget s.uarts ⟨p.val, h⟩
    u.en && (!u.ctsEn || u.cts)
  else
    let x := vget s.cans ⟨p.val - 8, by omega⟩
    x.en && x.state != .busOff && !x.listen

/-- The oldest Transmit of a port goes on, or runs on, the line if it may. -/
def runLine (s : State) (p : Fin 12) : State :=
  s.onPort p fun x => match x.txs with
    | t :: rest => if t.runAt.isNone && lineOpen s p then { x with txs := { t with started := true, runAt := some s.now } :: rest } else x
    | [] => x

/-- Characters or bytes of a Transmit that will have been sent when it stops now: an RS-485 character, or the CAN FD frame, under
way is finished (R187, R190). -/
def sentBy (s : State) (p : Fin 12) (t : FbTx) : Nat :=
  match t.runAt with
  | none => t.sent
  | some at_ =>
    if h : p.val < 8 then min t.bytes.length (t.sent + (vget s.uarts ⟨p.val, h⟩).charsIn (s.now - at_))
    else t.bytes.length

/-- Data bytes of a DLC (ISO 11898-1, R188): a classic frame carries at most 8. -/
def dlcBytes (fd : Bool) (d : Nat) : Nat :=
  if !fd then min 8 d
  else match d with
  | 9 => 12 | 10 => 16 | 11 => 20 | 12 => 24 | 13 => 32 | 14 => 48 | 15 => 64 | n => n

/-- LENGTH of a Transmit is right for its port (R183, R188). -/
def txLengthOk (p : Fin 12) (len : Nat) (data : List Byte) : Bool :=
  if p.val < 8 then 1 ≤ len && len ≤ 1024
  else len == 16 + dlcBytes ((data.getD 3 0).getLsbD 7) ((data.getD 4 0).toNat % 16)

/-- A CAN FD frame may be sent with the port's settings (R192): an FD frame with FD_EN, a bit-rate switch with BRS_EN. One that may not is
refused by the object's state (DESIGN CHOICE, log 147). -/
def txKindOk (s : State) (p : Fin 12) (data : List Byte) : Bool :=
  if _h : p.val < 8 then true
  else
    let x := vget s.cans ⟨p.val - 8, by omega⟩
    let fd := (data.getD 3 0).getLsbD 7
    (!fd || x.fdEn) && (!(fd && (data.getD 4 0).getLsbD 4) || x.brsEn)

/-- A port takes Transmits (R184). -/
def portTakesTx (s : State) (p : Fin 12) : Bool :=
  if h : p.val < 8 then (vget s.uarts ⟨p.val, h⟩).en
  else let x := vget s.cans ⟨p.val - 8, by omega⟩; x.en && x.state != .busOff && !x.listen

/-- Transmit: its data passes through the port's transmit queue; while that is paused the command waits (R173). -/
def effTransmit (c : Cmd) (s : State) : State :=
  let len := fld (c.p 3) 0 16
  match Cmd.portNo c with
  | none => complete s c 0x02
  | some p =>
    if !txLengthOk p len c.data then complete s c 0x02
    else if !portTakesTx s p || !txKindOk s p c.data then complete s c 0x0A
    else if (s.poolQ (portTxQ p)).paused then s
    else
      let bytes := c.data.take len
      let s := (started s c).onQ (portTxQ p) (·.link (Packet.plain bytes 0))
      runLine (s.onPort p fun x => { x with txs := x.txs ++ [⟨c, bytes, 0, false, none⟩] }) p

/-- TRANSMIT. -/
def execTransmit (c : Cmd) (s : State) : Res := .next (cmdStep [0x0C40] effTransmit c s)

/-- The RESULT of a Transmit (R184): bytes sent and outcome. -/
def txResult (sent outcome : Nat) : BitVec 32 := pack [(0, sent), (16, outcome)]

/-- A Transmit of a port ends: its packet leaves the queue and its command completes. -/
def endTx (s : State) (p : Fin 12) (t : FbTx) (sent outcome : Nat) : State :=
  let s := s.send (.serialTx p (t.bytes.take sent))
  let s := s.onPort p fun x => { x with txs := x.txs.filter fun y => !(y.cmd.ring == t.cmd.ring && y.cmd.index == t.cmd.index) }
  complete (s.onQ (portTxQ p) PoolQ.take) t.cmd 0 (txResult sent outcome)

/-- The state of a CAN FD port's fault confinement by its counters (ISO 11898-1, R191): error passive above 127, error active at 127 and below;
bus-off is left only by a rejoin. -/
def Can.confine (x : Can) : Can :=
  if x.state = .busOff then x
  else if 127 < x.tec.toNat ∨ 127 < x.recErr.toNat then { x with state := .passive } else { x with state := .active }

/-- A frame sent without an error lowers TEC by 1 (ISO 11898-1). -/
def Can.sentGood (x : Can) : Can := { x with tec := x.tec - (if x.tec = 0 then 0 else 1) }.confine

/-- A frame received without an error lowers REC by 1, or, from above 127, to 127 (ISO 11898-1 leaves 119 to 127: DESIGN CHOICE, log 147). -/
def Can.gotGood (x : Can) : Can :=
  { x with recErr := if 127 < x.recErr.toNat then 127 else x.recErr - (if x.recErr = 0 then 0 else 1) }.confine

/-- TRANSMIT_COMPLETE (R184): the last bit of the Transmit on the line leaves it; on RS-485 time runs on to that instant. A Transmit on the
line when EN is written 0 runs on and completes as sent (DESIGN CHOICE, log 147). -/
def execTransmitComplete (p : Fin 12) (s : State) : Res :=
  match (s.port p).txs with
  | t :: _ =>
    match t.runAt with
    | some at_ =>
      let s := if h : p.val < 8 then
          let u := vget s.uarts ⟨p.val, h⟩
          s.toTick (at_ + u.charsNs (t.bytes.length - t.sent))
        else s.onCan ⟨p.val - 8, by omega⟩ Can.sentGood
      .next (runLine (endTx s p t t.bytes.length 0) p)
    | none => .next s
  | [] => .next s

/-- The Transmits of a port that wait at its paused transmit queue (R173). -/
def waitingTx (s : State) (p : Fin 12) : List Cmd :=
  if (s.poolQ (portTxQ p)).paused then
    (s.rng.cmds.filter fun x => x.phase == .ready && x.cmd.opcode == 0x0C40 && Cmd.portNo x.cmd == some p).map (·.cmd)
  else []

/-- Abort port (R187): outstanding Reads and Transmits not yet started end, then the one on the line, then the command. -/
def effAbortPort (c : Cmd) (s : State) : State :=
  match Cmd.portNo c with
  | none => complete s c 0x02
  | some p =>
    let x := s.port p
    let waiting := waitingTx s p
    let s := x.reads.foldl (fun s r => complete s r.cmd 0 (pack [(18, 1)])) (s.onPort p fun y => { y with reads := [] })
    let s := (x.txs.filter (!·.started)).foldl (fun s t => endTx s p t 0 1) s
    let s := waiting.foldl (fun s w => complete s w 0 (txResult 0 1)) s
    let s := (x.txs.filter (·.started)).foldl (fun s t => endTx s p t (sentBy s p t) 1) s
    complete s c 0

/-- ABORT_PORT. -/
def execAbortPort (c : Cmd) (s : State) : Res := .next (cmdStep [0x0C42] effAbortPort c s)

/-- FB_CTS is negated with CTS_EN = 1 (R190): the transmitter stops at the next character boundary; one in its last character has nothing
left to stop. -/
def stopLine (s : State) (q : Fin 8) : State :=
  let p := uartPort q
  s.onPort p fun x => { x with txs := x.txs.map fun t =>
    if t.runAt.isSome && decide (sentBy s p t < t.bytes.length) then { t with sent := sentBy s p t, runAt := none } else t }

/-- CTS_CHANGE (R190): with CTS_EN the transmitter stops, or resumes. -/
def execCtsChange (q : Fin 8) (level : Bool) (s : State) : Res :=
  let s' := s.onUart q fun u => { u with cts := level }
  .next (if level then runLine s' (uartPort q) else if (vget s.uarts q).ctsEn then stopLine s' q else s')

/-! ### Reception (R189, R191) -/

/-- Cut a run of characters into packets of MAX_PKT (R189); `fuel` bounds the pieces. -/
def chunks (n : Nat) : Nat → List Byte → List (List Byte)
  | 0, _ => []
  | fuel + 1, l => if l.length ≤ n then [l] else l.take n :: chunks n fuel (l.drop n)

/-- Characters lost since the last packet make the next one carry GAP (R185, R189). -/
def takeGap (s : State) (p : Fin 12) : Bool × State := ((s.port p).gapNext, s.onPort p fun x => { x with gapNext := false })

/-- One packet of characters arrives at a port's receive queue; characters beyond the 512-byte staging buffer of a paused queue
are lost (R174, R189), and a packet of which nothing is kept is a dropped one. ERR_COUNT counts the lost characters too (DESIGN CHOICE,
log 147). -/
def uartPacket (s : State) (q : Fin 8) (bytes : List Byte) : State :=
  let p := uartPort q
  let x := s.poolQ (portRxQ p)
  let room := if !x.paused && x.staging.isEmpty then bytes.length else 512 - x.staged
  let kept := bytes.take room
  let s := if kept.isEmpty then s.onQ (portRxQ p) fun y => { y with drops := y.drops + 1 } else
    let g := takeGap s p
    g.2.onQ (portRxQ p) fun y => (y.offer 512 { Packet.plain kept g.2.tim.mains with gap := g.1 }).1
  (List.range (bytes.length - kept.length)).foldl (fun s _ =>
    lineError ((s.onUart q fun u => { u with overrun := true, errCount := u.errCount + 1 }).onPort p fun y => { y with gapNext := true }) p 0) s

/-- RS485_PACKET_END (R189). -/
def execRs485PacketEnd (q : Fin 8) (bytes : List (BitVec 8)) (parity framing : Nat) (s : State) : Res :=
  let u := vget s.uarts q
  let p := uartPort q
  if u.en && (s.glb.phase == .running || s.glb.phase == .serviceReset) && !bytes.isEmpty then
    let err (f : Uart → Uart) (cause n : Nat) (s : State) : State :=
      (List.range n).foldl (fun s _ => lineError (s.onUart q fun u => { f u with errCount := u.errCount + 1 }) p cause) s
    let s := err (fun u => { u with framing := true }) 1 framing s
    let s := err (fun u => { u with parityErr := true }) 2 parity s
    let s := (chunks (max 1 u.maxPkt.toNat) bytes.length bytes).foldl (fun s b => uartPacket s q b) s
    .next (serve s p)
  else .next s

/-- A frame matches a filter (R191, R192). -/
def CanFilter.matches (f : CanFilter) (w0 : Word) : Bool :=
  f.en && (BitVec.ofNat 29 (fld w0 0 29) ^^^ f.id) &&& f.mask == 0 && (!f.ideMask || bit w0 29 == f.ide)

/-- A frame is accepted (R191). -/
def Can.accepts (x : Can) (w0 : Word) : Bool :=
  let on := x.filters.toList.filter (·.en)
  on.isEmpty || on.any fun f => f.matches w0

/-- CAN_FRAME_RECEIVED (R188, R191): a frame without an error; an FD frame is none to a port with FD_EN = 0 (log 147). -/
def execCanFrameReceived (c : Fin 4) (w0 w1 : BitVec 32) (bytes : List (BitVec 8)) (s : State) : Res :=
  let x := vget s.cans c
  let p := canPort c
  let on := x.en && x.state != .busOff && (s.glb.phase == .running || s.glb.phase == .serviceReset) && (!bit w0 31 || x.fdEn)
  let s := if on then s.onCan c Can.gotGood else s
  if on && x.accepts w0 then
    let body := leBytes 4 w0.toNat ++ leBytes 4 (w1 &&& 0x3F).toNat ++ p64 s.tim.mains ++ bytes.take (dlcBytes (bit w0 31) (w1.toNat % 16))
    let r := (s.poolQ (portRxQ p)).offer 512 { Packet.plain body s.tim.mains with gap := (s.port p).gapNext }
    let s := s.onQ (portRxQ p) fun _ => r.1
    if r.2 then .next (serve (s.onPort p fun y => { y with gapNext := false }) p)
    else .next (lineError ((s.onCan c fun y => { y with rxDrop := true }).onPort p fun y => { y with gapNext := true }) p 3)
  else .next s

/-- CAN_BUS_OFF (R191): the port enters bus-off, where its Transmits end with outcome 2 (R184) and 0 bytes sent, the running one too (DESIGN
CHOICE, log 147), or error passive. -/
def execCanBusOff (c : Fin 4) (busOff : Bool) (tec recErr : BitVec 8) (s : State) : Res :=
  let p := canPort c
  if (vget s.cans c).en then
    let s := s.onCan c fun x => { x with
      tec := tec, recErr := recErr
      state := if busOff then .busOff else .passive
      busOffF := x.busOffF || busOff
      passiveF := x.passiveF || !busOff }
    let s := lineError s p (if busOff then 5 else 4)
    .next (if busOff then (s.port p).txs.foldl (fun s t => endTx s p t 0 2) s else s)
  else .next s

/-- A bus-off port rejoins: its counters are 0 (ISO 11898-1). -/
def canRejoin (s : State) (c : Fin 4) : State :=
  lineError (s.onCan c fun x => { x with state := .active, tec := 0, recErr := 0 }) (canPort c) 6

/-- BUS_OFF_RECOVERY (R191): with AUTO_RECOVER, after 128 occurrences of 11 recessive bits. -/
def execBusOffRecovery (c : Fin 4) (s : State) : Res :=
  let x := vget s.cans c
  .next (if x.en && x.state == .busOff && x.autoRecover then runLine (canRejoin s c) (canPort c) else s)

/-! ### Register writes (R192) -/

/-- A write of FBP_UART_CFG; a field outside its range makes the whole write ignored. -/
def writeUartCfg (s : State) (q : Fin 8) (v : Word) : State :=
  if fld v 1 2 = 3 ∨ fld v 8 8 < 2 ∨ fld v 16 16 < 16 ∨ 1024 < fld v 16 16 then s
  else
    let s := s.onUart q fun u => { u with
      en := bit v 0, parity := BitVec.ofNat 2 (fld v 1 2), stop2 := bit v 3, data7 := bit v 4,
      rtsMode := BitVec.ofNat 2 (fld v 5 2), ctsEn := bit v 7, gap := BitVec.ofNat 8 (fld v 8 8), maxPkt := BitVec.ofNat 16 (fld v 16 16) }
    if (vget s.uarts q).ctsEn && !(vget s.uarts q).cts then stopLine s q else runLine s (uartPort q)

/-- A write of FBP_UART_BAUD. -/
def writeUartBaud (s : State) (q : Fin 8) (v : Word) : State :=
  let b := fld v 0 24
  if b < 300 ∨ 10000000 < b then s else s.onUart q fun u => { u with baud := BitVec.ofNat 24 b }

/-- A write of FBP_CAN_CFG: EN written 0 and then 1 lets a bus-off port rejoin (R191). -/
def writeCanCfg (s : State) (c : Fin 4) (v : Word) : State :=
  let was := vget s.cans c
  let s := s.onCan c fun x => { x with en := bit v 0, fdEn := bit v 1, brsEn := bit v 2, listen := bit v 3, autoRecover := bit v 4 }
  runLine (if !was.en && bit v 0 && was.state == .busOff then canRejoin s c else s) (canPort c)

/-- A write of FBP_CAN_NBT. -/
def writeCanNbt (s : State) (c : Fin 4) (v : Word) : State :=
  if fld v 0 8 < 1 ∨ fld v 8 8 < 2 ∨ fld v 16 7 < 1 ∨ fld v 23 7 < 1 ∨ fld v 16 7 < fld v 23 7 then s
  else s.onCan c fun x => { x with nbt := v &&& 0x3FFFFFFF }

/-- A write of FBP_CAN_DBT; a data phase above 5 Mbit/s is outside the range of R52. -/
def writeCanDbt (s : State) (c : Fin 4) (v : Word) : State :=
  let brp := fld v 0 5; let t1 := fld v 8 5; let t2 := fld v 16 4; let sjw := fld v 24 4
  if brp < 1 ∨ t1 < 1 ∨ t2 < 1 ∨ sjw < 1 ∨ t2 < sjw ∨ brp * (1 + t1 + t2) < 20 then s
  else s.onCan c fun x => { x with dbt := v &&& 0x0F0F1F1F }

end Sys2Proof.Machine
end

