-- ==== Sys2Proof/Machine/Power.lean ====
section
/-! DEFINITION. Power domains and wake (chapter 20). -/

namespace Sys2Proof.Machine

/-- Change domain `d`. -/
def State.onDomain (s : State) (d : Fin 19) (f : Domain → Domain) : State :=
  { s with pwr := { s.pwr with domains := vmod s.pwr.domains d f } }

/-- Domain `d`. -/
def State.domain (s : State) (d : Fin 19) : Domain := vget s.pwr.domains d

/-- A command in flight needs domain `d`: it is a vote for it (R573). -/
def waitsFor (s : State) (d : Fin 19) : Bool :=
  s.rng.cmds.any fun r => r.phase == .ready && opDomain r.cmd.opcode.toNat == some d

/-- The outlets of bay `b`. -/
def bayOutlets (b : Nat) : List (Fin 128) := outlets.filter fun o => o.val / 16 == b

/-- Outlet `o` needs its station's slice with AUTO_BAY = 1 (R571). -/
def baysNeed (s : State) (o : Fin 128) : Bool :=
  (s.ctx o).pilot != 0 || (1 ≤ s.ctxClass o && s.ctxClass o ≤ 3) || (s.sta o).armed || (s.sta o).assoc

/-- Hub-Quiet, or its entry: the votes that require the device not to be in it have lapsed (R571, R576). -/
def Pwr.quiet (p : Pwr) : Bool := p.state == .hubQuiet || p.state == .entering

/-- A client holds a vote for domain `d` (R570, R571). Domains 0 to 5 are never dropped while VIN is present. -/
def State.voted (s : State) (d : Fin 19) : Bool :=
  let awake := !s.pwr.quiet
  let hold := (s.domain d).hold && 6 ≤ d.val && d.val != 10
  hold || match d.val with
  | 6 => awake
  | 7 => s.shr.en && awake
  | 8 => (s.aut.en && awake) || waitsFor s 8 || outlets.any (fun o => (s.aut1 o).reqAt.isSome || !(s.aut1 o).readCmds.isEmpty)
      || s.aut.engines.toList.any (·.isSome)
  | 9 => waitsFor s 9
  | 10 => s.kiteActive
  | n => if n < 6 then true
    else awake && s.plc.en && (!s.pwr.autoBay || (bayOutlets (n - 11)).any fun o => baysNeed s o)

/-- The slices that are dropped, as a bitmap. -/
def State.sleeping (s : State) : Nat := ofBits ((List.range 8).map fun b => !(s.domain (fin 19 (11 + b))).up)

/-- The state code of R587. -/
def powerState (s : State) : PwrState :=
  if s.pwr.quiet then s.pwr.state else if s.sleeping = 0 then .run else .baySleep

/-- The State changed event (R586). -/
def stateChanged (s : State) (old new : PwrState) : State :=
  if old = new then s else postDev s 0x0D00 (p8 old.code ++ p8 new.code ++ p8 s.sleeping)

/-- STATE follows the slices in Run and Bay-Sleep (R575). -/
def settlePower (s : State) : State :=
  let new := powerState s
  let old := s.pwr.state
  stateChanged { s with pwr := { s.pwr with state := new } } old new

/-- Note for every domain whether a vote stands, so that DROP_HOLD counts from the end of the last one (R572). -/
def State.revote (s : State) : State :=
  { s with pwr := { s.pwr with domains := Vector.ofFn fun d =>
      let x := s.domain d
      { x with noVoteSince := if s.voted d then none else some (x.noVoteSince.getD s.now) } } }

/-- A state change, then the votes as they stand after it. -/
def revoting (f : State → State) (s : State) : State := (f s).revote

/-! ### Wake (R578 to R581) -/

/-- A wake is recorded in the always-on domain (R581). -/
def recordWake (s : State) (source detail : Nat) (replayed : Bool) (src : Nat) : State :=
  { s with pwr := { s.pwr with lastWake := ⟨source, detail, replayed, src, s.tim.legal⟩ } }

/-- The Wake event (R586). -/
def wakeEvent (s : State) (source detail : Nat) (replayed : Bool) (further : Nat) : State :=
  postDev s 0x0D01 (p8 source ++ p8 detail ++ p8 (b2n replayed) ++ p8 further)

/-- A domain that a vote raises: one that has failed stays clamped until a later raise succeeds. -/
def Domain.raise (x : Domain) (voted : Bool) : Domain :=
  if voted && !x.up && !x.fault then { x with up := true, noVoteSince := none } else x

/-- Every voted domain that is down is raised (R578). -/
def raiseVoted (s : State) : State :=
  { s with pwr := { s.pwr with domains := Vector.ofFn fun d => (s.domain d).raise (s.voted d) } }

/-- The domains that are up, as a bitmap (R587). -/
def domainsUp (s : State) : BitVec 19 := BitVec.ofNat 19 (ofBits (s.pwr.domains.toList.map (·.up)))

/-- The standby takes over which domains are up (R584). -/
def mirrorDomains (s : State) : State := if mirroring s then s.send (.tie 3 (.domains (domainsUp s))) else s

/-- The domains of the active side are taken (R584). -/
def takeDomains (s : State) (up : BitVec 19) : State :=
  settlePower { s with pwr := { s.pwr with domains := Vector.ofFn fun d =>
    { s.domain d with up := d.val < 6 || up.getLsbD d.val, noVoteSince := none } } }

/-- Hub-Quiet is left (R578). -/
def leaveQuiet (s : State) (source detail : Nat) (replayed : Bool) (further : Nat) : State :=
  let s := recordWake s source detail replayed 2
  let s := { s with pwr := { s.pwr with
    state := .run
    wakeF := true
    wakePinSince := if s.pwr.wakeEn && s.rng.d3hot then some s.now else s.pwr.wakePinSince
    latchedWake := none
    furtherWakes := 0 } }
  let s := wakeEvent s source detail replayed further
  let s := (raiseVoted s).revote
  let s := mirrorDomains (if mirroring s then s.send (.tie 3 (.quiet 0)) else s)
  let new := powerState s
  stateChanged { s with pwr := { s.pwr with state := new } } .hubQuiet new

/-- A wake source occurs (R578, R579, R580, R583): one that is enabled leaves Hub-Quiet, is latched during the entry or a service
reset, and changes nothing in the other states. -/
def wake (s : State) (source detail : Nat) : State :=
  if 2 ≤ source && source ≤ 8 && (source == 2 || s.cfg.wakeMask.getLsbD source) then
    if s.pwr.state == .entering || (s.pwr.state == .hubQuiet && s.glb.phase == .serviceReset) then
      match s.pwr.latchedWake with
      | none => { s with pwr := { s.pwr with latchedWake := some (source, detail) } }
      | some _ => { s with pwr := { s.pwr with furtherWakes := s.pwr.furtherWakes + 1 } }
    else if s.pwr.state == .hubQuiet then leaveQuiet s source detail false 0
    else s
  else s

/-- A latched wake is replayed (R579, R583). -/
def replayWake (s : State) : State :=
  match s.pwr.latchedWake with
  | some w => if s.pwr.state == .hubQuiet then leaveQuiet s w.1 w.2 true s.pwr.furtherWakes else s
  | none => s

/-- WAKE (R578). -/
def execWake (source : Fin 9) (detail : BitVec 8) (s : State) : Res :=
  .next (if s.glb.phase == .running || s.glb.phase == .serviceReset then wake s source.val detail.toNat else s)

/-- The alarm fires once (R580): in Hub-Quiet it is wake source 5; in the other states, and where its bit is clear, it only posts
the Wake event (DEDUCED for the clear bit, log 21). -/
def fireAlarm (s : State) : State :=
  let s := { s with pwr := { s.pwr with armed := false } }
  if s.pwr.quiet && s.cfg.wakeMask.getLsbD 5 then wake s 5 0 else wakeEvent s 5 0 false 0

/-- The alarm is due: legal seconds have reached it (R580). -/
def alarmDue (s : State) : Bool := s.pwr.armed && decide (s.pwr.alarm.toNat ≤ s.legalSec)

/-- RTC_ALARM (R580): time runs on until legal seconds reach the armed alarm. -/
def execRtcAlarm (s : State) : Res :=
  .next (if s.pwr.armed && s.clocksRun then fireAlarm (s.toLegal (s.pwr.alarm.toNat * 2 ^ 24)) else s)

/-- A write of PWR_ALARM_HI with the PWR_ALARM_LO written before it (R580, R587). An armed alarm whose time is already reached
fires at once (DEDUCED: the seconds are at or above ALARM when first compared, log 21). -/
def writeAlarm (s : State) (v : Word) : State :=
  let s := { s with pwr := { s.pwr with
    alarm := BitVec.ofNat 40 (s.pwr.alarmLo.toNat + fld v 0 8 * 2 ^ 32), armed := bit v 31 } }
  if alarmDue s then fireAlarm s else s

/-- ALARM_WRITE (R580). -/
def execAlarmWrite (v : BitVec 32) (s : State) : Res := .next (viaBar s 19 fun s => writeAlarm s v)

/-- WAKE_RELEASE (R582): the link is back in L0, or 1 s has passed. -/
def execWakeRelease (s : State) : Res :=
  match s.pwr.wakePinSince with
  | some t =>
    let s := if s.rng.linkUp && !s.rng.d3hot then s else s.toTick (t + secNs)
    .next { s with pwr := { s.pwr with wakePinSince := none } }
  | none => .next s

/-! ### Hub-Quiet (R576) -/

/-- The domains entry takes, in order (R576). -/
def quietOrder : List (Fin 19) := [8, 7, 6] ++ (List.range 8).map fun b => fin 19 (11 + b)

/-- The domains entry has still to drop. -/
def quietLeft (s : State) : List (Fin 19) := quietOrder.filter fun d => (s.domain d).up && !s.voted d

/-- An enabled outlet stands in the way of Hub-Quiet (R576). -/
def blocksQuiet (s : State) (o : Fin 128) : Bool :=
  (s.ctx o).enabled && ((s.ctx o).pilot != 0 || s.ctxClass o != 0 || (s.bil1 o).session.isSome || (s.sta o).assoc)

/-- Entry ends when nothing is left to drop: the command completes, and a latched wake is replayed (R576, R579). -/
def finishQuiet (s : State) : State :=
  if s.pwr.state == .entering && (quietLeft s).isEmpty then
    let old := s.pwr.quietFrom
    let cmd := s.pwr.quietCmd
    let s := { s with pwr := { s.pwr with state := .hubQuiet, quietCmd := none } }
    let s := stateChanged s old .hubQuiet
    let s := if mirroring s then s.send (.tie 3 (.quiet 2)) else s
    let s := match cmd with | some k => completeKey s k.1 k.2 0 | none => s
    replayWake s
  else s

/-- Enter quiet (R576); in Hub-Quiet, or during its entry, it is refused by the object's state. -/
def effEnterQuiet (c : Cmd) (s : State) : State :=
  if s.tie.role == .standby then complete s c 0x09
  else if s.pwr.quiet || outlets.any (fun o => blocksQuiet s o) then complete s c 0x0A
  else
    let s := started s c
    finishQuiet { s with pwr := { s.pwr with
      quietFrom := s.pwr.state, state := .entering, quietCmd := some (c.ring, c.index), latchedWake := none, furtherWakes := 0 } }

/-- ENTER_QUIET. -/
def execEnterQuiet (c : Cmd) (s : State) : Res := .next (cmdStep [0x0D00] effEnterQuiet c s)

/-- Leave quiet (R585). -/
def effLeaveQuiet (c : Cmd) (s : State) : State :=
  if s.tie.role == .standby then complete s c 0x09
  else if s.pwr.state == .hubQuiet then complete (leaveQuiet s 2 0 false 0) c 0
  else complete s c 0x0A

/-- LEAVE_QUIET. -/
def execLeaveQuiet (c : Cmd) (s : State) : Res := .next (cmdStep [0x0D01] effLeaveQuiet c s)

/-! ### Dropping and raising (R572 to R574) -/

/-- The supply of a domain is removed (R574). -/
def dropDomain (s : State) (d : Fin 19) : State :=
  mirrorDomains (settlePower (s.onDomain d fun x => { x with up := false, noVoteSince := none }))

/-- A slice one of whose stations holds an association is not dropped (R574). -/
def sliceHolds (s : State) (d : Fin 19) : Bool := 11 ≤ d.val && (bayOutlets (d.val - 11)).any fun o => (s.sta o).assoc

/-- DOMAIN_DROP (R572): DROP_HOLD seconds pass without a vote for the domain, or the entry to Hub-Quiet has come to it. A standby drops
what its partner drops (R584). -/
def execDomainDrop (d : Fin 19) (s : State) : Res :=
  if d.val < 6 || !(s.domain d).up || !(s.glb.phase == .running || s.glb.phase == .serviceReset) || s.tie.role == .standby || sliceHolds s d then
    .next s
  else if s.voted d then .next (s.onDomain d fun x => { x with noVoteSince := none })
  else if s.pwr.state == .entering then
    .next (if (quietLeft s).head? == some d then finishQuiet (dropDomain s d) else s)
  else
    let since := (s.domain d).noVoteSince.getD s.now
    .next (dropDomain (s.toTick (since + s.cfg.dropHold * secNs)) d)

/-- The requests that wait for a domain that has failed to rise complete with status 0x0A (R573). -/
def failWaiting (s : State) (d : Fin 19) : State :=
  (s.rng.cmds.filter fun r => r.phase == .ready && opDomain r.cmd.opcode.toNat == some d).foldl (fun s r => complete s r.cmd 0x0A) s

/-- DOMAIN_RAISE (R573): a vote raises a dropped domain, or the raise and its retry fail. -/
def execDomainRaise (d : Fin 19) (raised : Bool) (s : State) : Res :=
  if d.val < 6 || (s.domain d).up || !s.voted d || !(s.glb.phase == .running || s.glb.phase == .serviceReset) then .next s
  else if raised then
    .next (mirrorDomains (settlePower (s.onDomain d fun x => { x with up := true, fault := false, noVoteSince := none })))
  else
    let s := s.onDomain d fun x => { x with fault := true }
    let s := postDev { s with pwr := { s.pwr with faultF := true } } 0x0D02 (p8 d.val)
    .next (failWaiting s d)

end Sys2Proof.Machine
end

