-- ==== Sys2Proof/Machine/Time.lean ====
section
/-! DEFINITION. The time base (chapter 03): snapshots, the set-up lock, the reference, the angle clock, legal time, local time,
and the outlets' phase classes. -/

namespace Sys2Proof.Machine

/-- A read of TIM_SNAP_TICK_LO latches all six words at one edge (R88). -/
def latchSnap (s : State) : State :=
  { s with tim := { s.tim with snapTick := s.tim.tick, snapMains := s.tim.mains, snapLegal := s.tim.legal } }

/-- TIM_SNAP_READ (R88). -/
def execTimSnapRead (s : State) : Res :=
  .next (viaHost s fun s =>
    if !blockAnswers s 1 then s.send (.readData 0)
    else let s := latchSnap s; s.send (.readData (readReg s 0x10010)))

/-- The nominal frequency in 0.001 Hz (R88). -/
def Tim.nominal (t : Tim) : Nat := if t.nominal60 then 60000 else 50000

/-- TIM_FREQ reads the nominal frequency outside LOCKED (R65, R88). -/
def Tim.settleFreq (t : Tim) : Tim := if t.mainsState = .locked then t else { t with freq := t.nominal }

/-- A write of TIM_CFG, judged against the lock as it stood (R14, R88). -/
def writeTimCfg (s : State) (v : Word) : State :=
  let t := s.tim
  let t : Tim := if t.lock then t else { t with nominal60 := bit v 0, source := bit v 1 }
  { s with tim := { t.settleFreq with lock := t.lock || bit v 31 } }

/-- TIM_CFG_LOCK (R88): a write of TIM_CFG with LOCK = 1. -/
def execTimCfgLock (v : BitVec 32) (s : State) : Res := .next (viaBar s 1 fun s => writeTimCfg s (v ||| 0x80000000#32))

/-- LEGAL_STATE by the age of the last synchronisation (R80); UNSYNC stays until one is accepted. -/
def Tim.judgeAge (t : Tim) (limit : Nat) : Tim :=
  { t with legalState := if t.legalState = .unsync then .unsync else if t.syncAgeTicks < limit * secNs then .synced else .aged }

/-- A write of TIM_SYNC_LIMIT, after which LEGAL_STATE is judged by the age in force (R80): each field outside its range is ignored (R88). -/
def writeSyncLimit (s : State) (v : Word) : State :=
  let age := fld v 0 20
  let days := fld v 20 12
  let s := { s with cfg := { s.cfg with
    syncAge := if 600 ≤ age ∧ age ≤ 604800 then age else s.cfg.syncAge
    maxStep := if 1 ≤ days ∧ days ≤ 3650 then days else s.cfg.maxStep } }
  { s with tim := s.tim.judgeAge s.cfg.syncAge }

/-! ### Reference (R60, R61) -/

/-- REFERENCE_LOST (R60, R61): the clocks move to the holdover oscillator, and the PCI Express link is down. -/
def execReferenceLost (s : State) : Res :=
  .next (if s.clocksRun && !s.tim.refHoldover then
    let s := { s with tim := { s.tim with refHoldover := true, refLostF := true, refLostAt := s.now } }
    let s := linkLoss s 1
    tally (postDev s 0x0584 (p8 0)) 14 0
  else s)

/-- REFERENCE_RESTORED (R61): the reference has been good for 100 ms, and the clocks return at the next mains-cycle boundary. -/
def execReferenceRestored (s : State) : Res :=
  .next (if s.clocksRun && s.tim.refHoldover then
    let s := s.toTick (s.tim.refLostAt + 100 * msNs)
    let s := s.toMains ((s.cycle + 1) * 65536)
    let s := { s with tim := { s.tim with refHoldover := false }, rng := { s.rng with linkUp := !s.glb.perst } }
    postDev s 0x0584 (p8 1)
  else s)

/-! ### Angle clock (R65 to R70) -/

/-- A pending zero-point switch whose mark a jump passes over moves to a later cycle (R76). -/
def ZpMark.pass (z : ZpMark) (mains : Nat) : ZpMark :=
  let m := nextMark mains z.mark
  { z with mark := m, target := z.target + (m - z.mark) }

/-- The angle jumps forward by `c` (R70): marks of other owners passed over are late, zero-point switches move on (R76). A mark at the very
angle the jump lands on counts as passed over (DESIGN CHOICE, log 133). -/
def jumpAngle (s : State) (c : Nat) : State :=
  let m := s.tim.mains + c
  let s := { s with tim := { s.tim with
    mains := m, mainsRem := 0
    marks := s.tim.marks.map fun k => if s.tim.mains < k.value ∧ k.value ≤ m then { k with late := true } else k } }
  forAll outlets (fun s o =>
    let x := s.ctx o
    if x.main.zp.isSome || x.aux.zp.isSome then
      s.onCtx o fun x => { x with
        main := { x.main with zp := x.main.zp.map fun z => z.pass m }
        aux := { x.aux with zp := x.aux.zp.map fun z => z.pass m } }
    else s) s

/-- The correction of R70 for a true angle: signed, from -0x8000 to 0x7FFF. -/
def angleCorrection (s : State) (angle : BitVec 16) : Int := signed 16 (angle.toNat + 65536 - s.tim.mains % 65536)

/-- One angle correction is applied (R70). -/
def correctAngle (s : State) (c : Int) : State :=
  if 0 < c then jumpAngle s c.toNat
  else { s with tim := { s.tim with angleHold := c.natAbs * 10 ^ 14 } }

/-- The angle clock enters LOCKED at frequency `freq` with correction `c` (R69). -/
def lockMains (s : State) (freq : Nat) (c : Int) : State :=
  let s := correctAngle s c
  let s := { s with tim := { s.tim with
    mainsState := .locked, freq := freq, angleErr := 0, outOfRange := false, lastCross := s.now
    phaseStepF := s.tim.phaseStepF || c != 0 } }
  postDev s 0x0581 (p16 (twos 16 c) ++ p32 freq)

/-- The frequency of a source cycle in 0.001 Hz; its period is in nanoseconds. -/
def srcFreq (c : SrcCycle) : Nat := 10 ^ 12 / c.period

/-- A frequency in 0.001 Hz lies in the tracked range (R66, R68). -/
def freqInRange (f : Nat) : Bool := 45000 ≤ f && f ≤ 65000

/-- The first two conditions of R66: 70 mV, and a period from 1/65 s to 1/45 s. -/
def srcSound (c : SrcCycle) : Bool :=
  decide (70000 ≤ c.amp) && decide (10 ^ 9 ≤ 65 * c.period) && decide (45 * c.period ≤ 10 ^ 9)

/-- The third condition of R66: the period differs from the previous one by at most 0.5 %. -/
def srcFollows (c p : SrcCycle) : Bool := decide ((c.period - p.period + (p.period - c.period)) * 1000 ≤ 5 * p.period)

/-- The acquisition test of R66 over cycles in time order: the last nine are sound, and each of the last eight follows the one before. -/
def acquisitionTest (cycles : List SrcCycle) : Bool :=
  let l := cycles.reverse.take 9
  l.length == 9 && l.all srcSound && (l.zip (l.drop 1)).all fun x => srcFollows x.1 x.2

/-- The mains are found (R66, R69): the acquisition test is made over the cycles of incomer voltage channel 0 (R63); where it passes, the clock
locks at the frequency of the last cycle. -/
def mainsFound (cycles : List SrcCycle) (angle : BitVec 16) (s : State) : State :=
  match cycles.getLast? with
  | some c =>
    if s.clocksRun && s.tim.mainsState != .locked && !s.tim.source && acquisitionTest cycles then
      lockMains s (srcFreq c) (angleCorrection s angle) else s
  | none => s

/-- A cycle of the source ends with a valid crossing. In LOCKED the measured frequency follows it, and the angle between the running
angle and the true phase is the error that R67 closes; OUT_OF_RANGE falls when the frequency is back in range (R68). -/
def trackSource (s : State) (c : SrcCycle) : State :=
  if s.tim.source then s
  else
    let t := s.tim
    let t := { t with outOfRange := t.outOfRange && !freqInRange (srcFreq c) }
    { s with tim := if t.mainsState = .locked then
        { t with freq := srcFreq c, angleErr := signed 16 (65536 - c.cross.toNat) * 10 ^ 14, lastCross := s.now }
      else t }

/-- The angle clock enters COAST (R68). The runs of the outlets' phase classes end, because they count only in LOCKED (R72). -/
def loseMains (s : State) (cause freq : Nat) : State :=
  let t : Tim := { s.tim with
    mainsState := .coast, mainsLostF := true, outOfRange := s.tim.outOfRange || cause == 2, angleErr := 0, angleHold := 0 }
  let s := { s with metOut := vall s.metOut fun m => { m with phase := { m.phase with count := 0 } } }
  postDev { s with tim := t.settleFreq } 0x0580 (p8 cause ++ p32 freq)

/-- MAINS_LOST (R68), by its cause: 0, time runs on until no crossing has come within 1.5 times the last measured period; 1, at the end
of the second half-cycle, the amplitudes `a` and `b` (µV) of both lie below 35 mV; 2, the frequencies `a` and `b` (0.001 Hz) of both
cycles lie out of range. -/
def execMainsLost (cause : Fin 3) (a b : Nat) (s : State) : Res :=
  .next (if s.clocksRun && s.tim.mainsState == .locked && !s.tim.source then
    match cause.val with
    | 0 => let s := s.toTick (s.tim.lastCross + 3 * 10 ^ 12 / (2 * s.tim.freq)); loseMains s 0 s.tim.freq
    | 1 =>
      if a < 35000 ∧ b < 35000 then
        let s := s.toMains ((s.tim.mains + 0x7FFF) / 0x8000 * 0x8000)
        loseMains s 1 s.tim.freq
      else s
    | _ => if !freqInRange a && !freqInRange b then loseMains s 2 b else s
  else s)

/-! ### Legal time (R78 to R82) -/

/-- Note legal time and its slew right after an adjustment, so that it is known at any tick since (R81). -/
def Tim.noteLegal (t : Tim) : Tim := { t with legalHist := (t.tick, t.legal, t.legalRem, t.slewLeft, t.slewRem) :: t.legalHist }

/-- The device's own legal time at tick `t` (R81): from the last adjustment before it, with the slew that ran then. -/
def legalAt (s : State) (t : Nat) : Int :=
  match s.tim.legalHist.find? fun h => h.1 ≤ t with
  | some h =>
    (({ s.tim with legal := h.2.1, legalRem := h.2.2.1, slewLeft := h.2.2.2.1, slewRem := h.2.2.2.2 }).runLegal ((t - h.1) / 10)).legal
  | none => ((s.tim.legal * 10 ^ 11 + s.tim.legalRem : Nat) - ((s.tim.tick : Int) - t) * 1677721600) / (10 ^ 11 : Nat)

/-- What a legal-time step does to demand intervals (R386). -/
def stepDemand (s : State) (old : Nat) : State :=
  let len := [5, 10, 15, 30, 60].getD s.enr.demandLen.toNat 15 * 60
  let a := old / 2 ^ 24
  let b := s.legalSec
  let f : BitVec 4 := if b < a then 3 else if a / len < b / len then 1 else 0
  { s with enr := { s.enr with demandFlags := s.enr.demandFlags ||| f } }

/-- Legal time steps by `d` at once (R81, R82): billing and demand are marked, and an alarm stepped across fires (R580). -/
def stepLegal (s : State) (d : Int) (src : Nat) : State :=
  let old := s.tim.legal
  let t : Tim := { s.tim with legal := (old + d).toNat, slewLeft := 0, slewRem := 0, slewing := false, legalStepF := true }
  let s := { s with tim := t.noteLegal }
  let s := flagAll (stepDemand s old) 4
  let s := postDev s 0x0583 (p64 (twos 64 d) ++ p8 src)
  if alarmDue s && 0 < d then fireAlarm s else s

/-- Every accepted synchronisation sets SYNCED and restarts the age count (R81). -/
def acceptSync (s : State) : State :=
  { s with tim := { s.tim with legalState := .synced, syncAgeTicks := 0 }, glb := { s.glb with clockLoss := false } }

/-- A synchronisation: UTC `utc` (2^-24 s) sampled at tick `t`, from the host (0) or Kite (1) (R81). -/
def syncLegal (s : State) (utc t src : Nat) : State :=
  let d : Int := utc - legalAt s t
  let one := 2 ^ 24
  if d.natAbs ≤ one then
    let t : Tim := { s.tim with slewLeft := d, slewRem := 0, slewing := d != 0 }
    acceptSync { s with tim := t.noteLegal }
  else if d.natAbs ≤ s.cfg.maxStep * 86400 * one ∨ s.tim.legalState = .unsync then acceptSync (stepLegal s d src)
  else postDev s 0x0586 (p64 (twos 64 (Int.tdiv d one)) ++ p8 src)

/-- LEGAL_TIME_SYNC (R81): the host's synchronisation, under the Host role; under another it changes nothing (the spec gives the refusal
no form: DESIGN CHOICE, log 132). -/
def execLegalTimeSync (role : BitVec 3) (utc at_ : Nat) (s : State) : Res :=
  .next (if s.clocksRun && role == 1 then syncLegal s utc at_ 0 else s)

/-- SLEW_END (R81): time runs on until the slew has removed its offset, and SLEWING returns to 0. -/
def execSlewEnd (s : State) : Res :=
  .next (if s.clocksRun && s.tim.slewing then
    let s := s.advance ((s.tim.slewLeft.natAbs * 10 ^ 11 - s.tim.slewRem + 8388607) / 8388608)
    { s with tim := { s.tim with slewing := false } }
  else s)

/-- SYNC_AGE_EXPIRY (R80): time runs on until the last synchronisation is SYNC_AGE old. -/
def execSyncAgeExpiry (s : State) : Res :=
  .next (if s.clocksRun && s.tim.legalState == .synced then
    let s := s.advance ((s.cfg.syncAge * secNs - s.tim.syncAgeTicks + 9) / 10)
    { s with tim := { s.tim with legalState := .aged } }
  else s)

/-! ### Local time (R83, R84) -/

/-- The local-table-end event (R84). -/
def localEnd (s : State) (e : LocalEntry) : State :=
  postDev { s with tim := { s.tim with localEndPosted := true } } 0x0585 (p64 e.start)

/-- At an activation or a power-up the last entry may already be in force (R84). -/
def checkLocalEnd (s : State) : State :=
  match s.tim.localTab.getLast? with
  | some e => if !s.tim.localEndPosted && decide (e.start ≤ s.legalSec) then localEnd s e else s
  | none => s

/-- LOCAL_TABLE_END (R84): time runs on until the last entry comes into force. -/
def execLocalTableEnd (s : State) : Res :=
  match s.tim.localTab.getLast? with
  | some e => .next (if s.clocksRun && !s.tim.localEndPosted then localEnd (s.toLegal (e.start * 2 ^ 24)) e else s)
  | none => .next s

/-- OFFSET in force at legal seconds `t`, in units of 15 min (R83). -/
def offsetAt (tab : List LocalEntry) (t : Nat) : Int :=
  match (tab.filter fun e => e.start ≤ t).getLast? with
  | some e => e.offset
  | none => (tab.head?.map (·.offset)).getD 0

/-! ### Outlet phase (R71, R72) -/

/-- The class of an angle by the windows of R71. -/
def angleClass (a : Nat) : BitVec 2 :=
  if 0xEAAB ≤ a ∨ a ≤ 0x1555 then 1 else if 0x4000 ≤ a ∧ a ≤ 0x6AAA then 2 else if 0x9556 ≤ a ∧ a ≤ 0xC000 then 3 else 0

/-- A run of cycles in one window: 16 in a row change the class (R72). -/
def PhaseRun.next (r : PhaseRun) (k : BitVec 2) : PhaseRun :=
  let n := if r.cand = k then min 16 (r.count + 1) else 1
  { cls := if 16 ≤ n then k else r.cls, cand := k, count := n }

/-- A cycle of an outlet with a V1 lane: `angle` is the corrected crossing, none where there is no valid one (R71, R72). -/
def outletPhase (s : State) (o : Fin 128) (angle : Option Nat) : State :=
  match s.ctxProfile o with
  | none => s
  | some p =>
    let c := s.ctx o
    if s.tim.mainsState != .locked || p.prof.dc || !p.prof.roles.toList.contains 1 || (p.prof.vside && !c.main.fb && !c.aux.fb) then s
    else
      let old := (s.met1 o).phase
      let new := old.next ((angle.map angleClass).getD 0)
      let s := s.onMet o fun m => { m with phase := new }
      if new.cls = old.cls then s
      else postDev { s with tim := { s.tim with phaseChangeF := true } } 0x0582
        (p16 (s.handle o) ++ p8 old.cls.toNat ++ p8 new.cls.toNat)

end Sys2Proof.Machine
end

