-- ==== Sys2Proof/Machine/Measure.lean ====
section
/-! DEFINITION. What the strings and the measurement chains share (chapters 04 and 11): the link state of a lane, silence
(R339, R375) and the verification states of the lanes (R345, R357). -/

namespace Sys2Proof.Machine

/-! ### Silence (R339, R375) -/

/-- A lane in one of these states is measured (R339). A lane in SLACK is, because its front-end keeps sending so that metering
continues (R118: DEDUCED, log 41). -/
def LinkState.measured (l : LinkState) : Bool := l == .up || l == .listen || l == .slack

/-- Bit 3 of ENR_OUT_FLAGS. -/
def silentFlag (s : State) (o : Fin 128) (on : Bool) : State :=
  s.onEnr o fun x => { x with live := { x.live with
    flags := if on then x.live.flags ||| 8#5 else x.live.flags &&& 0x17#5 } }

/-- Whole seconds of the running silence are added to SILENT_S (R375). -/
def countSilence (s : State) (o : Fin 128) : State :=
  match (s.enr1 o).silentSince with
  | some t =>
    let n := (s.now - t) / secNs
    s.onEnr o fun x => { x with
      silentCounted := n
      live := { x.live with silentS := (x.live.silentS + (n - x.silentCounted)) % 2 ^ 32 } }
  | none => s

/-- A silent lane produces no samples, and its chain starts again with the frames that return (R339); the correlation window continues
over the samples it has (R359). -/
def restartChain (c : Chain) : Chain :=
  { c with
    bits := [], pend := 0, cyc := [], filled := 0, run := 0, xMax := 0, overs := 0, isl := []
    lanes := vall c.lanes fun x => { x with lastX := none, eqRun := 0 } }

/-- The lanes of an outlet become silent (R339, R375, R388). -/
def silenceStart (s : State) (o : Fin 128) : State :=
  if (s.met1 o).silent then s
  else
    let s := s.onMet o fun m => { m with silent := true, chain := restartChain m.chain }
    let s := silentFlag (s.onEnr o fun x => { x with silentSince := some s.now, silentCounted := 0 }) o true
    postOut { s with enr := { s.enr with silentAny := true, balInvalid := true } } 0x0517 o (p8 0 ++ p32 0)

/-- A silence ends; accrual resumes at the next boundary (R375). -/
def silenceEnd (s : State) (o : Fin 128) : State :=
  if !(s.met1 o).silent then s
  else
    let t := ((s.enr1 o).silentSince).getD s.now
    let s := countSilence s o
    let s := s.onMet o fun m => { m with silent := false }
    let s := silentFlag (s.onEnr o fun x => { x with silentSince := none, silentCounted := 0, skipCycle := true }) o false
    postOut s 0x0517 o (p8 1 ++ p32 (min 0xFFFFFFFF ((s.now - t) / secNs)))

/-! ### Link state (R89) -/

/-- A lane changes its link state: silence, ANY_DOWN, the STRING 0 trigger of a lane that leaves UP (R201), and invariant LINK follow. -/
def setLink (s : State) (o : Fin 128) (new : LinkState) : State :=
  let old := (s.lane o).link
  if old = new then s
  else
    let s := s.onLane o fun l => { l with link := new }
    let s := if old.measured && !new.measured then silenceStart s o else if new.measured then silenceEnd s o else s
    let s := if (old == .up || old == .listen) && new != .up && new != .listen then
      { s with str := { s.str with anyDown := true } } else s
    let s := if old = .up then
        let s := s.onCtx o fun c => if c.modeDue then { c with modeDue := false, modeAt := s.now } else c
        if s.glb.phase == .running then queueTrig s o 8 0 else s
      else s
    evalPermit s o

/-! ### Verification states (R345, R357) -/

/-- Lanes that the outlet's profile assigns (R345). -/
def assignedLanes (s : State) (o : Fin 128) : List (Fin 8) :=
  match s.ctxProfile o with
  | some p => (List.finRange 8).filter fun l => vget p.prof.roles l != 0
  | none => []

/-- The calibration record of a front-end's lane (R344). -/
def calOf (s : State) (serial : BitVec 64) (l : Nat) : Option CalRec :=
  s.met.legal.bind fun x => x.cals.find? fun r => r.serial == serial && r.lane.val == l

/-- A record is usable on a lane of a profile (R340, R345). -/
def usableCal (p : Profile) (l : Fin 8) (r : CalRec) : Bool :=
  !(p.dc && (r.sensor == 2 || r.sensor == 3)) && !(!p.dc && vget p.roles l == 8 && r.sensor == 3)

/-- The usable record of a lane of an outlet, among some records. -/
def usableOf (s : State) (o : Fin 128) (l : Fin 8) (r : Option CalRec) : Option CalRec :=
  match s.ctxProfile o with
  | some p => r.filter (usableCal p.prof l)
  | none => none

/-- The usable record of a lane in the legal section that is in force for the device. -/
def findCal (s : State) (o : Fin 128) (l : Fin 8) : Option CalRec := usableOf s o l (calOf s (s.lane o).serial l.val)

/-- The usable record that the chains of an outlet's lane apply: as looked up at the attach (R345), or at the outlet's first boundary after
an activation (R350). -/
def laneCal (s : State) (o : Fin 128) (l : Fin 8) : Option CalRec := usableOf s o l (vget (s.met1 o).cal l)

/-- The lane of a role in a profile (R195, R196). -/
def laneOf (p : Profile) (role : BitVec 4) : Option (Fin 8) := (List.finRange 8).find? fun l => vget p.roles l == role

/-- Flags DRIFT, UNVER and NOT_LEGAL of ENR_OUT_FLAGS follow the states of the assigned lanes (R375). -/
def verifFlags (s : State) (o : Fin 128) : State :=
  let st := (assignedLanes s o).map fun l => (vget (s.met1 o).lanes l).state
  let has (f : Verif → Bool) : Bool := st.any f
  let v := b2n (has (· == .drift)) + 2 * b2n (has fun x => x == .fail || x == .absent || x == .disabled) + 4 * b2n (has (· == .noRecord))
  s.onEnr o fun x => { x with live := { x.live with flags := (x.live.flags &&& 0x18#5) ||| BitVec.ofNat 5 v } }

/-- Change a lane's verification. -/
def State.onVLane (s : State) (o : Fin 128) (l : Fin 8) (f : VLane → VLane) : State :=
  s.onMet o fun m => { m with lanes := vmod m.lanes l f }

/-- Change the chain of one lane. -/
def State.onChain (s : State) (o : Fin 128) (l : Fin 8) (f : LaneChain → LaneChain) : State :=
  s.onMet o fun m => { m with chain := { m.chain with lanes := vmod m.chain.lanes l f } }

/-- The Verification state event (R368). -/
def verifEvent (s : State) (o : Option (Fin 128)) (lane old new : Nat) (dev : Int) (se : Nat) : State :=
  postEvent s 0x0500 o (p8 lane ++ p8 old ++ p8 new ++ p32 (twos 32 dev) ++ p16 (min 65535 se))

/-- A lane enters a verification state (R357): its runs start again, the event is posted, and an entry to ABSENT posts the Tone
absent event and is a tamper occurrence. `ratio` is c0 / TONE_REF and `lag` the lag of the largest ratio. -/
def enterVerif (s : State) (o : Fin 128) (l : Fin 8) (new : Verif) (dev : Int) (se : Nat) (ratio : Int) (lag : Int) : State :=
  let old := (vget (s.met1 o).lanes l).state
  let s := s.onVLane o l fun v => { v with
    state := new, runState := new, runCount := 0, absRun := 0, recover := 0, enteredAt := s.now
    c0 := if new = .pending then none else v.c0 }
  let s := if new = .pending then s.onChain o l fun c => { c with tap := [] } else s
  if old = new then s
  else
    let s := verifFlags (verifEvent s (some o) l.val old.code new.code dev se) o
    let s := if new = .drift ∨ new = .fail ∨ new = .noRecord then { s with met := { s.met with verifyAny := true } } else s
    if new = .absent then
      let s := postOut { s with met := { s.met with absentAny := true } } 0x0501 o
        (p8 (2 ^ l.val) ++ p32 (twos 32 ratio) ++ p16 (twos 16 lag))
      tamper s 4 o.val (some o)
    else s

/-- The records of an outlet's lanes are taken from the legal section in force (R345, R350). -/
def lookUpCals (s : State) (o : Fin 128) : State :=
  s.onMet o fun m => { m with cal := Vector.ofFn fun l => calOf s (s.lane o).serial l.val }

/-- The legal island looks up the records of an attached front-end (R345), and its lanes start again (R357, R359). -/
def attachMeas (s : State) (o : Fin 128) : State :=
  verifFlags ((List.finRange 8).foldl (fun s l =>
    if (assignedLanes s o).contains l && (laneCal s o l).isNone then
      if (vget (s.met1 o).lanes l).state = .noRecord then verifEvent s (some o) l.val 6 6 0 0
      else enterVerif s o l .noRecord 0 0 0 0
    else enterVerif s o l (if (s.met1 o).toneOff then .disabled else .pending) 0 0 0 0) (lookUpCals s o)) o

/-- Why a STATUS makes the temperature source faulty (R351): 0 out of range, 1 supply low, which is bit 3 of its character and so the
lowest of the field FAULT[7:3] (R101). -/
def tempBad (st : StatusWord) : Option Nat :=
  let t := signed 16 st.temp.toNat
  if t < -5500 ∨ 12500 < t then some 0 else if st.fault.getLsbD 0 then some 1 else none

/-- A TEMP arrives (R349, R351): a valid one waits for the next boundary, and the time since when it is valid again is kept. -/
def takeTemp (s : State) (o : Fin 128) (st : StatusWord) : State :=
  s.onMet o fun m => match tempBad st with
    | some _ => { m with tempOkSince := none }
    | none => { m with tempNext := some st.temp, tempOkSince := m.tempOkSince.orElse fun _ => some s.now }

end Sys2Proof.Machine
end

