-- ==== Sys2Proof/Machine/Chain.lean ====
section
/-! DEFINITION. The measurement chains of R336: from the modulators' bits to calibrated samples at 8 kS/s, the per-cycle quantities
(R361, R373) and the tone correlation (R355); and the safety island's own decimators (R238). Fixed-point steps round toward minus
infinity (DESIGN CHOICE, log 134). -/

namespace Sys2Proof.Machine

/-! ### What a chain needs to know of its lane -/

/-- The corrections in force for one lane or channel; none where it produces no samples (R345, R360). -/
structure LanePar where
  /-- Rogowski coil: stage 4 runs, and OFFSET is not applied (R340) -/
  coil : Bool
  /-- GAIN in 2^-30 -/
  gain : Nat
  /-- OFFSET -/
  offset : Int
  /-- PH_SHIFT -/
  phShift : Int
  /-- FS_RMS -/
  fs : Nat
  /-- gain term in 0.1 ppm -/
  gT : Int
  /-- delay term in ns -/
  sT : Int
  /-- c0 that stage 9 subtracts, in 2^-30 (R358) -/
  tone : Int
deriving DecidableEq, Repr

/-- The corrections of a lane of an outlet (R345, R346, R358): the c0 of the latest result, TONE_REF until the first valid one, and
nothing in ABSENT and DISABLED. -/
def lanePar (s : State) (o : Fin 128) (l : Fin 8) : Option LanePar :=
  let v := vget (s.met1 o).lanes l
  if !(assignedLanes s o).contains l then none
  else (laneCal s o l).map fun r =>
    { coil := decide (r.sensor = 3#2), gain := r.gain, offset := r.offset, phShift := r.phShift, fs := r.fsRms, gT := v.gT, sT := v.sT
      tone := if v.state = .absent ∨ v.state = .disabled then 0 else v.c0.getD r.toneRef }

/-- The corrections of an incomer channel (R344, R360): no tone. -/
def incomerPar (s : State) (c : Fin 8) : Option LanePar :=
  (calOf s 0 c.val).map fun r =>
    { coil := decide (r.sensor = 3#2), gain := r.gain, offset := r.offset, phShift := r.phShift, fs := r.fsRms
      gT := (vget s.met.incTerms c).1, sT := (vget s.met.incTerms c).2, tone := 0 }

/-! ### Stages 1 to 3 (R336 to R339, R364) -/

/-- A list of numbers, each replaced by the sum of the `n` that end with it: convolution with a box. -/
def boxSum (n : Nat) (l : List Nat) : List Nat :=
  (List.range (l.length + n - 1)).map fun i => (((l.take (i + 1)).drop (i + 1 - n))).sum

/-- The taps of a sinc decimator of an order and a ratio. -/
def sincTaps (order ratio : Nat) : List Nat := Nat.repeat (boxSum ratio) order [1]

/-- A decimated sample of lane `l` over a window of clocks, newest first: x = (2d - 1) / 0.8 in 2^-22, d being the ones density (R338). A
removed bit counts as 0. -/
def decimate (order ratio : Nat) (bits : List (Option Byte)) (l : Fin 8) : Int :=
  let ones := ((sincTaps order ratio).zip bits).foldl (fun a x =>
    if ((x.2.map fun b => b.getLsbD l.val).getD false) then a + x.1 else a) 0
  ((2 * ones : Nat) - (ratio ^ order : Nat) : Int) * (5 * 2 ^ 22) / (4 * ratio ^ order : Nat)

/-- The sinc5 window of a stage 2 sample is whole: 625 bits have come and none was removed (R339). -/
def windowWhole (c : Chain) : Bool := (c.bits.take 625).length == 625 && (c.bits.take 625).all (·.isSome)

/-- The runs of equal bits that make a lane over range (R364). -/
def countRuns (c : Chain) (b : Option Byte) : Chain :=
  match b with
  | none => c
  | some w =>
    let lane (l : Fin 8) : LaneChain :=
      let x := vget c.lanes l
      let v := w.getLsbD l.val
      { x with eqBit := v, eqRun := if v = x.eqBit then x.eqRun + 1 else 1 }
    let c := { c with lanes := Vector.ofFn lane }
    { c with overs := (List.finRange 8).foldl (fun m l =>
        if 64 ≤ (vget c.lanes l).eqRun then m ||| BitVec.ofNat 8 (2 ^ l.val) else m) c.overs }

/-! ### Stages 4 to 10 (R341, R346, R358) -/

/-- k of R341 in 2^-48: 2π · 50 · 12.5e-6 / 2. -/
def integratorK : Int := 552674824377

/-- The integrator of R341 on a stage 3 sample: its new value in 2^-46, and the lane's stage 5 sample. -/
def integrate (x : LaneChain) (v : Int) : Int × Int :=
  let y := x.yInt - x.yInt / 2 ^ 15 + integratorK * (v + x.xPrev) / 2 ^ 24
  (y, y / 2 ^ 24)

/-- A value as a 24-bit signed word holds it. -/
def clamp24 (v : Int) : Int := max (-(2 ^ 23)) (min (2 ^ 23 - 1) v)

/-- Stage 6 on stage 5 samples, newest first (R336, R337). -/
def fir (l : List Int) : Int :=
  clamp24 (((List.range 181).foldl (fun (a : Int) i => a + Config.firTap (min i (180 - i)) * l.getD i 0) 0) / 2 ^ 23)

/-- √2 in 10^-18. -/
def sqrt2 : Int := 1414213562373095048

/-- Stage 7 (R346): the physical value in 2^-16 mV or mA of a stage 6 sample less an offset. At the tracked frequency the integrator's
gain deviation is folded in (R341). -/
def physical (p : LanePar) (freq : Nat) (x : Int) : Int :=
  let k : Int := if p.coil then Config.integratorGain freq else 2 ^ 30
  p.gain * (10 ^ 7 + p.gT) * k * x * (3 * p.fs) * sqrt2 * 2 ^ 16 / (2 ^ 30 * 10 ^ 7 * 2 ^ 30 * 2 ^ 22 * 2 * 10 ^ 18)

/-- The delay of stage 8 in ns (R346). -/
def laneDelay (p : LanePar) (freq : Nat) : Int :=
  p.phShift * 125000 / 1024 + p.sT + (if p.coil then Config.integratorDelay freq else 0)

/-- Stage 5 of one lane takes a stage 3 sample; `ok` says that it is unmarked, and `p` is the injected pattern at its time. -/
def laneStage5 (par : Option LanePar) (x : LaneChain) (v p : Int) (ok : Bool) : LaneChain :=
  let coil := (par.map (·.coil)).getD false
  let r := if coil then integrate x v else (x.yInt, v)
  { x with
    xPrev := v, yInt := r.1, s5 := (r.2 :: x.s5).take 181, p5 := (p :: x.p5).take 181
    tap := (⟨ok, r.2, p⟩ :: x.tap).take 4800000 }

/-- Stages 6 to 8 of one lane: a sample at 8 kS/s. -/
def laneStage8 (freq : Nat) (par : Option LanePar) (x : LaneChain) : LaneChain :=
  match par with
  | none => x
  | some p =>
    let off := if p.coil then 0 else p.offset
    { x with
      v7 := (physical p freq (fir x.s5 - off) :: x.v7).take 64
      p7 := (physical p freq (fir x.p5) :: x.p7).take 64 }

/-- Stages 8 and 9: the lane's output sample; a lane without a record has none and gives 0. -/
def laneOut (freq : Nat) (par : Option LanePar) (x : LaneChain) : Int :=
  match par with
  | none => 0
  | some p =>
    let d := laneDelay p freq
    Config.fracDelay x.v7 d - p.tone * Config.fracDelay x.p7 d / 2 ^ 30

/-- A stage 3 sample with sampling time `at_` goes through the later stages of every lane; each tenth gives an output sample. -/
def emit (par : Fin 8 → Option LanePar) (freq : Nat) (c : Chain) (x : Fin 8 → Int) (ok : Bool) (at_ : Nat) : Chain :=
  let lanes := Vector.ofFn fun l => laneStage5 (par l) (vget c.lanes l) (x l) (Config.injected c.chips l at_) ok
  if c.ten + 1 < 10 then { c with lanes := lanes, ten := c.ten + 1 }
  else
    let lanes := Vector.ofFn fun l => laneStage8 freq (par l) (vget lanes l)
    { c with lanes := lanes, ten := 0, cyc := ⟨at_, Vector.ofFn fun l => laneOut freq (par l) (vget lanes l)⟩ :: c.cyc }

/-- An unmarked stage 2 sample: the marked ones that wait are filled by linear interpolation, then it is emitted itself. Without an
unmarked sample before them nothing is filled. -/
def stage3 (par : Fin 8 → Option LanePar) (freq : Nat) (c : Chain) (at_ : Nat) : Chain :=
  let x (l : Fin 8) : Int := decimate 5 125 c.bits l
  let had := (vget c.lanes 0).lastX.isSome
  let k := if had then c.pend else 0
  let old := c
  let fill (j : Nat) (l : Fin 8) : Int :=
    let a := (vget old.lanes l).lastX.getD 0
    a + (x l - a) * (j + 1 : Nat) / (k + 1 : Nat)
  let c := (List.range k).foldl (fun c j => emit par freq c (fill j) false (at_ - (k - j) * 12500)) c
  let c := emit par freq c x true at_
  let big (l : Fin 8) : Nat := (x l).natAbs
  { c with
    pend := 0, filled := c.filled + k, run := max c.run k
    lanes := Vector.ofFn fun l => { (vget c.lanes l) with lastX := some (x l) }
    xMax := (List.finRange 8).foldl (fun m l => if (par l).isSome then max m (big l) else m) c.xMax
    overs := (List.finRange 8).foldl (fun m l => if 5033165 ≤ big l then m ||| BitVec.ofNat 8 (2 ^ l.val) else m) c.overs }

/-! ### The safety island's decimators (R238) -/

/-- A sample of the island's own sinc3 decimator in µV or µA, with the gain and offset of the lane's record alone. -/
def islandSample (par : Option LanePar) (bits : List (Option Byte)) (l : Fin 8) : Int :=
  match par with
  | none => 0
  | some p => p.gain * (decimate 3 1250 bits l - p.offset) * (3 * p.fs) * sqrt2 * 1000 / (2 ^ 30 * 2 ^ 22 * 2 * 10 ^ 18)

/-- One modulator clock of a chain: `at_` is the sampling time of the samples that end with it, D_DEC of R337 already taken off. -/
def clockIn (par : Fin 8 → Option LanePar) (freq : Nat) (c : Chain) (b : Option Byte) (at_ : Nat) : Chain :=
  let c := countRuns { c with bits := (b :: c.bits).take 3750, clk := c.clk + 1 } b
  let c := if c.clk % 125 ≠ 0 then c
    else if windowWhole c then stage3 par freq c at_
    else { c with pend := c.pend + 1 }
  if c.clk % 1250 ≠ 0 then c
  else { c with isl := ((Vector.ofFn fun l => islandSample (par l) c.bits l) :: c.isl).take 200 }

/-! ### Frames and silence (R338, R339) -/

/-- D_DEC of R337 in ns. -/
def dDec : Nat := 1156000

/-- The ten clocks of a frame whose EOF arrives now: the SOF came 1 µs before, and left the front-end RTT / 2 earlier (R99, R338). A
missing frame removes its bits. -/
def clocksIn (s : State) (o : Fin 128) (clocks : List (Option Byte)) : State :=
  let sof := s.now - 1000 - (s.lane o).rtt / 2
  let par := lanePar s o
  let f := s.tim.freq
  s.onMet o fun m => { m with chain :=
    (clocks.zipIdx.foldl (fun c (x : Option Byte × Nat) => clockIn par f c x.1 (sof - (9 - x.2) * 100 - dDec)) m.chain) }

/-! ### The safety island's quantities (R238, R240, R249, R254) -/

/-- The island's newest `n` samples of a lane, newest first, in µV or µA. -/
def islandLast (s : State) (o : Fin 128) (l : Fin 8) (n : Nat) : List Int := (((s.met1 o).chain.isl).take n).map fun v => vget v l

/-- Samples in the window W of R240: one mains cycle at TIM_FREQ, or 20 ms for a DC profile. -/
def windowLen (s : State) (o : Fin 128) : Nat :=
  if s.isDc o then 160 else max 1 (min 200 ((8000000 + s.tim.freq / 2) / s.tim.freq))

/-- The mean of samples, 0 for none. -/
def meanOf (l : List Int) : Int := l.sum / max 1 l.length

/-- The rms of samples, 0 for none. -/
def rmsRaw (l : List Int) : Nat := Nat.sqrt ((l.map fun v => v.natAbs * v.natAbs).sum / max 1 l.length)

/-- The island's samples of the lane of a role over W. -/
def islandRole (s : State) (o : Fin 128) (role : BitVec 4) : List Int :=
  match s.ctxProfile o with
  | some p => match laneOf p.prof role with | some l => islandLast s o l (windowLen s o) | none => []
  | none => []

/-! ### Per-cycle quantities (R361 to R364, R373) -/

/-- The sine of an angle in 2^-30, by its series in 2^-40. -/
def sine (a : BitVec 16) : Int :=
  let x : Int := signed 16 a.toNat * 105414357067 / 1000
  let step (st : Int × Int) (k : Nat) : Int × Int :=
    let t := -(st.2 * x / 2 ^ 40 * x / 2 ^ 40) / (((2 * k + 2) * (2 * k + 3) : Nat) : Int)
    (st.1 + t, t)
  ((List.range 14).foldl step (x, x)).1 / 2 ^ 10

/-- The mains angle at an earlier tick, at the present rate. -/
def State.angleAt (s : State) (t : Nat) : BitVec 16 :=
  let back : Int := ((s.now : Int) - t) * s.tim.rate / 10
  BitVec.ofInt 16 (((s.tim.mains * 10 ^ 14 + s.tim.mainsRem : Nat) - back) / (10 ^ 14 : Nat))

/-- A lane's samples of the running cycle with their times, newest first. -/
def Chain.laneSamples (c : Chain) (l : Fin 8) : List (Nat × Int) := c.cyc.map fun x => (x.at_, vget x.v l)

/-- The rms of samples in 2^-16, in whole units. -/
def rmsOf (l : List Int) : Nat := rmsRaw l / 2 ^ 16

/-- The sum of the products of two lanes' samples over 125 µs each, as 2^-48 mWh: samples in 2^-16 mV and mA (R373). -/
def energyOf (c : Chain) (v i : Fin 8) : Int :=
  (c.cyc.map fun x => vget x.v v * vget x.v i).sum * 2 ^ 16 / 28800000000

/-- Which lanes a boundary looks at: voltage and current lanes of the three pairs, and the DC lanes. -/
structure CycleLanes where
  /-- V1 to V3 -/
  v : List (Option (Fin 8))
  /-- I1 to I3 -/
  i : List (Option (Fin 8))
  /-- VDC and IDC -/
  dc : Option (Fin 8 × Fin 8)
  /-- voltage lanes, with their FS_RMS -/
  volt : Fin 8 → Option Nat

/-- The magnitude of a sum of phasors, each given as magnitude and angle. -/
def phasorSum (l : List (Int × BitVec 16)) : Nat :=
  let re := (l.map fun x => x.1 * sine (x.2 + 0x4000#16)).sum / 2 ^ 30
  let im := (l.map fun x => x.1 * sine x.2).sum / 2 ^ 30
  Nat.sqrt (re * re + im * im).toNat

/-- The quantities of R361 and R373 from the samples of a chain's running cycle. A crossing is valid from 5 % of FS_RMS on a voltage
lane and from 1,000 mA on a current lane. -/
def cycleOf (s : State) (c : Chain) (x : CycleLanes) : CycleQ :=
  let fund (l : Fin 8) : Nat × BitVec 16 :=
    let f := Config.fundamental s.tim.freq (c.laneSamples l)
    (f.1 / 2 ^ 16, s.angleAt f.2)
  let valid (l : Fin 8) : Bool := match x.volt l with
    | some fs => decide (fs ≤ 20 * (fund l).1)
    | none => decide (1000 ≤ (fund l).1)
  let pair (k : Nat) : Option (Fin 8 × Fin 8) :=
    (x.v.getD k none).bind fun v => (x.i.getD k none).map fun i => (v, i)
  let len : Nat := c.cyc.length
  let react (k : Nat) : Int := match pair k with
    | some (v, i) =>
      ((fund v).1 * (fund i).1 : Nat) * sine ((fund i).2 - (fund v).2) * (len * 2 ^ 18 : Nat) / 28800000000
    | none => 0
  let ph (k : Nat) : Int × BitVec 16 := match x.v.getD k none with
    | some l => ((fund l).1, (fund l).2)
    | none => (0, 0)
  let neg (p : Int × BitVec 16) : Int × BitVec 16 := (-p.1, p.2)
  { rms := Vector.ofFn fun l => rmsOf (c.cyc.map fun y => vget y.v l)
    cross := Vector.ofFn fun l => if valid l then some (fund l).2 else none
    e := match x.dc with | some (v, i) => energyOf c v i | none => 0
    pairs := Vector.ofFn fun k => match pair k.val with | some (v, i) => energyOf c v i | none => 0
    q := react 0 + react 1 + react 2
    sumSq := match x.dc with
      | some (_, i) => (c.cyc.map fun y => (vget y.v i).natAbs * (vget y.v i).natAbs).sum / 2 ^ 32
      | none => 0
    u0 := phasorSum [ph 0, ph 1, ph 2] / 3
    ll := #v[phasorSum [ph 0, neg (ph 1)], phasorSum [ph 1, neg (ph 2)], phasorSum [ph 2, neg (ph 0)]]
    filled := c.filled, run := c.run, overLanes := c.overs, xMax := c.xMax }

/-- A new cycle begins: its samples and counts start empty. -/
def Chain.nextCycle (c : Chain) : Chain := { c with cyc := [], filled := 0, run := 0, xMax := 0, overs := 0 }

/-! ### Tone correlation (R355) -/

/-- The product sum of y with p shifted by `k` samples; both lists are newest first. -/
def corrSum (y p : List Int) (k : Int) : Int :=
  let l := if 0 ≤ k then y.zip (p.drop k.toNat) else (y.drop k.natAbs).zip p
  (l.map fun x => x.1 * x.2).sum

/-- A correlation over a window (R355): c0 in 2^-30, the lag of the largest ratio, SE in ppm of a TONE_REF in 2^-30, and whether 99 % of
the samples are unmarked. -/
structure ToneResult where
  /-- c0 -/
  c0 : Int
  /-- lag of the largest |c(k)| -/
  lag : Int
  /-- SE -/
  se : Nat
  /-- 99 % of the window's samples are unmarked -/
  full : Bool
deriving DecidableEq, Repr

/-- The correlation of R355 over the window of a lane. The standard error is that of the ratio of a fit through the origin. -/
def correlate (tap : List TapSample) (toneRef : Nat) : ToneResult :=
  let y := Config.bandPass (tap.map (·.y))
  let p := Config.bandPass (tap.map (·.p))
  let pp := (p.map fun v => v * v).sum
  let ratio (k : Int) : Int := if pp = 0 then 0 else corrSum y p k * 2 ^ 30 / pp
  let c0 := ratio 0
  let lags : List Int := (List.range 161).map fun i => (i : Int) - 80
  let lag := lags.foldl (fun b k => if (ratio b).natAbs < (ratio k).natAbs then k else b) 0
  let res := ((y.zip p).map fun x => let r := x.1 * 2 ^ 30 - c0 * x.2; r * r).sum
  let d := (y.length - 1) * pp.toNat * toneRef * toneRef
  { c0 := c0, lag := lag
    se := if d = 0 then 0xFFFF else Nat.sqrt (res.toNat * 10 ^ 12 / d)
    full := decide (99 * tap.length ≤ 100 * (tap.filter (·.ok)).length) && !tap.isEmpty }

end Sys2Proof.Machine
end

