-- ==== Sys2Proof/Machine/Sequencer.lean ====
section
/-! DEFINITION. The outlet sequencer (chapter 07): pilot and limit, contactor switching, actions, transitions and fault
transitions. A step of a context serves one queued trigger with its whole chain (R205, R207). -/

namespace Sys2Proof.Machine

/-! ### Pilot and limit (R217 to R219) -/

/-- The cable rating of a proximity class, in mA (R217); none = unlimited. -/
def cableRating (prox : BitVec 3) : Option Nat :=
  match prox.toNat with
  | 0 => some 0 | 1 => some 13000 | 2 => some 20000 | 3 => some 32000 | 4 => some 63000 | 5 => some 0 | _ => none

/-- The effective limit (R218). -/
def effLimit (limit iMax : Nat) (prox : BitVec 3) : Nat :=
  let l := min limit iMax
  match cableRating prox with | some r => min l r | none => l

/-- MODE and DUTY under SET_PILOT LIMIT (R219). -/
def limitPilot (i : Nat) : BitVec 3 × BitVec 10 :=
  if i < 6000 then (0, 0)
  else if i ≤ 51000 then (1, BitVec.ofNat 10 (i / 60))
  else if i ≤ 80000 then (1, BitVec.ofNat 10 (i / 250 + 640))
  else (1, 960)

/-- MODE and DUTY of a SET_PILOT argument (R202, R219). -/
def pilotCmd (sel : PilotSel) (i : Nat) : BitVec 3 × BitVec 10 :=
  match sel with
  | .x1 => (0, 0)
  | .limit => limitPilot i
  | .digital => (1, 50)
  | .f => (2, 0)

/-- Frames carry commands to the outlet's front-end. -/
def framesFlow (s : State) (o : Fin 128) : Bool := (s.lane o).link == .up && !(s.lane o).stopped

/-- Send MODE and DUTY. A MODE change is placed where it is applied at the front-end, or at this step where no frame carries it
(R216). -/
def sendPilot (s : State) (o : Fin 128) (v : BitVec 3 × BitVec 10) : State :=
  s.onCtx o fun c =>
    if c.mode = v.1 then { c with duty := v.2 }
    else
      let old := if c.modeDue || decide (s.now < c.modeAt) then c.modeOld else c.mode
      { c with mode := v.1, duty := v.2, modeOld := old, modeDue := framesFlow s o,
               modeAt := if framesFlow s o then c.modeAt else s.now }

/-- SET_PILOT (R202). -/
def setPilot (s : State) (o : Fin 128) (sel : PilotSel) : State :=
  sendPilot (s.onCtx o fun c => { c with pilotSel := sel }) o (pilotCmd sel (s.ctx o).iEff)

/-- The share engine writes its limit (R218): I_EFF is recomputed, and the pilot, LIMIT_NONZERO and SHARE triggers follow. -/
def writeLimit (s : State) (o : Fin 128) (ma : Nat) : State :=
  let s := s.onCtx o fun c => { c with limit := ma }
  match s.ctxProfile o with
  | none => s
  | some p =>
    let i := effLimit ma p.prof.iMax (s.ctx o).prox
    let was := (s.ctx o).limitNonzero
    let is_ := decide (p.prof.iMin ≤ i)
    let s := s.onCtx o fun c => { c with iEff := i, limitNonzero := is_ }
    let s := if (s.ctx o).pilotSel == .limit && (s.ctx o).enabled then writeJournal (sendPilot s o (limitPilot i)) o else s
    if was && !is_ then queueTrig s o 0x0B 0 else if !was && is_ then queueTrig s o 0x0B 1 else s

/-! ### Contactors (R220 to R222) -/

/-- A contactor of a context. -/
def Ctx.cont (c : Ctx) (aux : Bool) : Contactor := if aux then c.aux else c.main

/-- Change a contactor of outlet `o`. -/
def State.onCont (s : State) (o : Fin 128) (aux : Bool) (f : Contactor → Contactor) : State :=
  s.onCtx o fun c => if aux then { c with aux := f c.aux } else { c with main := f c.main }

/-- The learnt delay of a contactor and direction, µs (R224). -/
def Delays.get (d : Delays) (aux close : Bool) : Nat :=
  match aux, close with
  | false, true => d.closeMain | false, false => d.openMain | true, true => d.closeAux | true, false => d.openAux

/-- Set a learnt delay. -/
def Delays.put (d : Delays) (aux close : Bool) (v : Nat) : Delays :=
  match aux, close with
  | false, true => { d with closeMain := v } | false, false => { d with openMain := v }
  | true, true => { d with closeAux := v } | true, false => { d with openAux := v }

/-- The average of angles near one another (R221): the newest plus the mean signed difference from it, rounded down, modulo one turn
(DESIGN CHOICE, log 142). -/
def meanAngle (l : List (BitVec 16)) : Nat :=
  match l with
  | [] => 0
  | a :: _ =>
    let sum : Int := (l.map fun x => signed 16 (x - a).toNat).sum
    (((a.toNat : Int) + sum / l.length) % 65536).toNat

/-- The lead L of R221 in angle units: D + RTT / 2 + 3.0 µs at TIM_FREQ, rounded. -/
def leadUnits (d rtt freq : Nat) : Nat :=
  let num := (2 * 1000 * d + rtt + 6000) * freq * 65536
  let den := 2 * 10 ^ 12
  (2 * num + den) / (2 * den)

/-- The earliest zero point whose mark lies at least 100 µs ahead (R221): mark and zero point. -/
def zeroPoint (t : Tim) (theta lead : Nat) : Nat × Nat :=
  let first := (t.mains * 10 ^ 14 + t.mainsRem + t.freq * 65536 * 10 ^ 7 + 10 ^ 14 - 1) / 10 ^ 14 + lead
  let target := first + (theta + 32768 - first % 32768) % 32768
  (target - lead, target)

/-- The reference angle of a zero-point switch (R220, R221), where every condition of R220 is met. -/
def zpReference (s : State) (o : Fin 128) (p : Profile) (close : Bool) : Option Nat :=
  let lane := if close then p.zpCloseLane else p.zpOpenLane
  let v := vget (s.met1 o).lanes lane
  if p.zpEn && s.tim.mainsState == .locked && decide (16 ≤ v.angleHist.length) && (close || decide (1000 ≤ v.rms.toNat)) then
    if close then some (meanAngle (v.angleHist.take 16)) else v.angleHist.head?.map (·.toNat)
  else none

/-- A contactor command takes effect: OUT_CMD changes, and the switch is watched once it is applied (R222, R223). A command for
the position already commanded changes no output, and there is no switch to watch (DEDUCED, log 25). -/
def switchNow (s : State) (o : Fin 128) (aux close : Bool) (zp : Nat) (target : Nat) : State :=
  if ((s.ctx o).cont aux).cmd = close then s.onCont o aux fun k => { k with zp := none }
  else
    let s := s.onCont o aux fun k => { k with
      cmd := close, zp := none, cmdAt := s.now, unexpSince := none
      watch := some ⟨close, none, BitVec.ofNat 8 zp, BitVec.ofNat 16 target⟩ }
    imdUpdate s o

/-- CLOSE or OPEN, allowed (R220 to R222): at a zero point, or at once. A new one cancels the pending mark of its contactor. -/
def switchCont (s : State) (o : Fin 128) (aux close zp : Bool) : State :=
  match s.ctxProfile o with
  | none => s
  | some p =>
    if !zp then switchNow s o aux close 0 0
    else match zpReference s o p.prof close with
    | none => switchNow s o aux close 2 0
    | some theta =>
      let d := (vget s.delays o).get aux close
      let m := zeroPoint s.tim theta (leadUnits d (s.lane o).rtt s.tim.freq)
      s.onCont o aux fun k => { k with zp := some ⟨m.1, close, m.2⟩ }

/-! ### Actions (R202) -/

/-- The Action refused event with its counts, and SAFETY 4 (R227). -/
def actionRefused (s : State) (o : Fin 128) (w : Word) (cause : Nat) (by_ : Option Cmd) : State :=
  let s := (s.count 2 0x12 1).onCtx o fun c => { c with refusals := c.refusals + 1 }
  let s := { s with seq := { s.seq with refusedAny := true } }
  let s := postOut s 0x0106 o (p32 w.toNat ++ p16 cause ++ p8 (s.ctx o).state) by_
  queueTrig s o 5 4

/-- The failed invariants, as the refusal cause of R258. -/
def refusalCause (s : State) (o : Fin 128) (release : Bool) : Nat :=
  (0xFFF ^^^ (s.saf1 o).inv.toNat) + (if release then 4096 else 0)

/-- Stop a timer, with its queued trigger (R208). -/
def stopTimer (s : State) (o : Fin 128) (t : Fin 4) : State :=
  s.onCtx o fun c => { c with
    timers := vmod c.timers t (fun _ => Timer.off)
    queue := c.queue.filter fun x => !(x.code == 3#8 && x.arg.toNat == t.val) }

/-- START_TIMER (R210). -/
def startTimer (s : State) (o : Fin 128) (t : Fin 4) (angle : Bool) (v : Nat) : State :=
  let x : Timer := if angle then .angle (s.tim.mains + v * 256) else .ms (s.now + v * msNs)
  (stopTimer s o t).onCtx o fun c => { c with timers := vmod c.timers t fun _ => x }

/-- LOCK or UNLOCK, allowed (R226): the movement is awaited for LOCK_TIMEOUT. -/
def moveLock (s : State) (o : Fin 128) (engage : Bool) : State :=
  let due := (s.ctxProfile o).map fun p => s.now + p.prof.lockTimeout * msNs
  s.onCtx o fun c => { c with lockCmd := engage, lockUnexpSince := none, lockDue := due }

/-- One action; true where the safety island refuses it (R202, R227, R258). The island's check is an evaluation at the executing
step (DEDUCED, log 26). -/
def execAct (o : Fin 128) (by_ : Option Cmd) (w : Word) (s : State) : State × Bool :=
  let flag := BitVec.ofNat 8 (2 ^ fld w 8 3)
  match fld w 0 8 with
  | 0x01 => (setPilot s o (PilotSel.ofCode (fld w 8 2)), false)
  | 0x02 =>
    let s := evalPermit s o
    if (s.saf1 o).permit then (switchCont s o (bit w 8) true (bit w 9), false)
    else (actionRefused s o w (refusalCause s o false) by_, true)
  | 0x03 => (switchCont s o (bit w 8) false (bit w 9), false)
  | 0x04 => (moveLock s o true, false)
  | 0x05 =>
    let s := evalPermit s o
    if (s.saf1 o).releaseOk then
      (moveLock s o false, false)
    else (actionRefused s o w (refusalCause s o true) by_, true)
  | 0x06 => (startTimer s o (fin 4 (fld w 8 2)) (bit w 10) (fld w 11 21), false)
  | 0x07 => (stopTimer s o (fin 4 (fld w 8 2)), false)
  | 0x08 => (s.onCtx o fun c => { c with flags := c.flags ||| flag }, false)
  | 0x09 => (s.onCtx o fun c => { c with flags := c.flags &&& ~~~flag }, false)
  | 0x0A => (postOut s (0x0140 + fld w 8 6) o (p16 (fld w 16 16) ++ p8 (s.ctx o).state) by_, false)
  | 0x0B => (openSession s o by_, false)
  | 0x0C => (closeSession s o (fld w 8 8), false)
  | 0x0D => (setRequest s o (fld w 8 24), false)
  | 0x0E => (slacArm s o, false)
  | 0x0F => (slacDisarm s o, false)
  | 0x10 => (s.onAut o fun a => { a with armed := true }, false)
  | 0x11 => (s.onAut o fun a => { a with armed := false }, false)
  | 0x12 =>
    if bit w 8 then (s.onCtx o fun c => { c with checkWeld := true }, false)
    else (imdUpdate (s.onCtx o fun c => { c with checkIso := 2, checkIsoBad := false }) o, false)
  | 0x13 => (s.onCtx o fun c => { c with authorised := false }, false)
  | _ => (s, false)

/-- A list of actions; true where one was refused: the rest is skipped (R227). -/
def runActs (o : Fin 128) (by_ : Option Cmd) : List Word → State → State × Bool
  | [], s => (s, false)
  | w :: rest, s =>
    let r := execAct o by_ w (s.count 3 0x12 1)
    if r.2 then r else runActs o by_ rest r.1

/-! ### Transitions (R205 to R212) -/

/-- The profile version of the active configuration, on entry of a CLASS 0 state (R212, R602). The state keeps its number, or is
INITIAL where the new version has no such state (DESIGN CHOICE, log 27). -/
def switchProfile (s : State) (o : Fin 128) (by_ : Option Cmd) : State :=
  let c := s.ctx o
  match s.activeProfile c.profile, s.ctxProfile o with
  | some new, some old =>
    if new.version = old.version then s
    else
      let s := s.onCtx o fun c => { c with
        version := new.version, state := if c.state < new.prof.states.length then c.state else new.prof.initial
        prox := if new.prof.proxMode = 0 then 6 else c.prox }
      if new.crc = old.crc then s
      else postOut s 0x010A o (p8 c.profile.val ++ p32 old.version ++ p32 new.version) by_
  | _, _ => s

/-- What entering a state of a class does in other blocks (R212, R247, R286, R288, R316, R322, R323). -/
def enterHooks (s : State) (o : Fin 128) (by_ : Option Cmd) : State :=
  let s := if s.ctxClass o = 0 then switchProfile s o by_ else s
  let k := s.ctxClass o
  let s := shareClass s o k
  let s := if k = 0 ∨ k = 4 then endAssoc (slacDisarm s o) o 1 by_ else s
  let s := if (k = 0 ∨ k = 1) && !(s.saf1 o).rdcOk && rdcFree s o && (s.saf1 o).guardStep == 0 then startRdc s o .auto else s
  s.revote

/-- The State entered event (R234). -/
def stateEntered (s : State) (o : Fin 128) (old new trig arg idx : Nat) (by_ : Option Cmd) : State :=
  postOut s 0x0100 o (p8 old ++ p8 new ++ p8 trig ++ p8 arg ++ p16 idx) by_

/-- Entry of the context's current state: hooks, then the entry actions; true where one was refused. -/
def runEntry (o : Fin 128) (by_ : Option Cmd) (s : State) : State × Bool :=
  let s := enterHooks s o by_
  match s.ctxProfile o with
  | some p =>
    match p.prof.states[(s.ctx o).state]? with
    | some r => runActs o by_ ((p.prof.actions.drop r.entryAct).take r.entryLen) s
    | none => (s, false)
  | none => (s, false)

/-- The first record of the current state that a trigger takes (R205), with its index. -/
def matchTrans (s : State) (o : Fin 128) (trig arg : Nat) : Option (Nat × TransRec) :=
  match s.ctxProfile o with
  | none => none
  | some p =>
    match p.prof.states[(s.ctx o).state]? with
    | none => none
    | some r =>
      let g := BitVec.ofNat 16 (s.guard o)
      ((List.range r.ntrans).filterMap fun i =>
        match p.prof.trans[r.firstTrans + i]? with
        | some t =>
          if t.trigger.toNat = trig ∧ (t.arg = 0xFF#8 ∨ t.arg.toNat = arg) ∧ g &&& t.guardMask = t.guardValue then
            some (r.firstTrans + i, t)
          else none
        | none => none).head?

/-- Take a transition (R207 steps 1 and 2, R211): true where an action was refused, and whether another state was entered. -/
def takeTrans (o : Fin 128) (by_ : Option Cmd) (trig arg idx : Nat) (t : TransRec) (s : State) : State × Bool × Bool :=
  let old := (s.ctx o).state
  let acts := match s.ctxProfile o with
    | some p => (p.prof.actions.drop t.act).take t.actLen
    | none => []
  let s := stateEntered ((s.count 3 0x11 1).onCtx o fun c => { c with state := t.target }) o old t.target trig arg idx by_
  let r := runActs o by_ acts s
  if t.target = old then (r.1, r.2, false)
  else if r.2 then (enterHooks r.1 o by_, true, true)
  else
    let e := runEntry o by_ r.1
    (e.1, e.2, true)

/-- What a chain tests next (R207 steps 3 and 4). -/
inductive Stage where
  /-- ENTRY transitions -/
  | entry
  /-- the standing pilot class -/
  | pilot
  /-- the standing proximity class -/
  | prox
deriving DecidableEq, Repr

/-- The stage after one that matched nothing, or whose match was a self-transition. -/
def Stage.next : Stage → Option Stage
  | .entry => some .pilot
  | .pilot => some .prox
  | .prox => none

/-- The trigger a stage presents; none where a toggle window withholds the pilot class (R326). -/
def Stage.trig (g : Stage) (s : State) (o : Fin 128) : Option (Nat × Nat) :=
  match g with
  | .entry => some (0x0D, 0)
  | .pilot => if (s.sta o).togHeld && ((s.ctx o).pilot == 1 || (s.ctx o).pilot == 2) then none else some (1, (s.ctx o).pilot.toNat)
  | .prox => some (2, (s.ctx o).prox.toNat)

/-- The entry of the FAULT state with its events (R209); true where an entry action was refused. -/
def enterFault (o : Fin 128) (by_ : Option Cmd) (cause host trig arg : Nat) (s : State) : State × Bool :=
  match s.ctxProfile o with
  | none => (s, false)
  | some p =>
    let old := (s.ctx o).state
    let s := (s.count 3 0x11 1).onCtx o fun c => { c with state := p.prof.fault }
    let s := stateEntered s o old p.prof.fault trig arg 0xFFFF by_
    let e := runEntry o by_ s
    let s := { e.1 with seq := { e.1.seq with faultAny := true } }
    (postOut s 0x0107 o (p8 cause ++ p8 host) by_, e.2)

/-- Steps 3 and 4 of R207 after a state has been entered, with the chain limit of 16 transitions. `n` transitions have been taken
in the chain. The result tells whether an action was refused. -/
def settle (o : Fin 128) (by_ : Option Cmd) : Nat → Stage → Nat → State → State × Bool
  | 0, _, _, s => (s, false)
  | fuel + 1, g, n, s =>
    match (g.trig s o).bind fun t => (matchTrans s o t.1 t.2).map fun m => (t, m) with
    | some (t, m) =>
      let r := takeTrans o by_ t.1 t.2 m.1 m.2 s
      if r.2.1 then (r.1, true)
      else if 16 ≤ n + 1 then
        if r.1.ctxClass o = 4 then (r.1, false) else enterFault o by_ 4 0 0 0 r.1
      else if r.2.2 then settle o by_ fuel .entry (n + 1) r.1
      else match g.next with
        | some g' => settle o by_ fuel g' (n + 1) r.1
        | none => (r.1, false)
    | none =>
      match g.next with
      | some g' => settle o by_ fuel g' n s
      | none => (s, false)

/-- Enough for every chain: 16 transitions and three tests for each. -/
def chainFuel : Nat := 64

/-- The fault transition (R209): not taken again in a CLASS 4 state. -/
def faultTrans (o : Fin 128) (by_ : Option Cmd) (cause host trig arg : Nat) (s : State) : State × Bool :=
  if s.ctxClass o = 4 then (s, false)
  else
    let e := enterFault o by_ cause host trig arg s
    if e.2 then e else settle o by_ chainFuel .entry 1 e.1

/-- A trigger's transition with its chain; none where no record matches (R205, R207). -/
def chain (o : Fin 128) (by_ : Option Cmd) (trig arg : Nat) (s : State) : Option (State × Bool) :=
  (matchTrans s o trig arg).map fun m =>
    let r := takeTrans o by_ trig arg m.1 m.2 s
    if r.2.1 || !r.2.2 then (r.1, r.2.1) else settle o by_ chainFuel .entry 1 r.1

/-- Entry of INITIAL without a transition record (R233, R234), in the version of the active configuration (R212). -/
def enterInitial (o : Fin 128) (by_ : Option Cmd) (s : State) : State :=
  match s.activeProfile (s.ctx o).profile with
  | none => s
  | some p =>
    let c := s.ctx o
    let old := s.ctxProfile o
    let s := s.onCtx o fun c => { c with
      state := p.prof.initial, version := p.version, prox := if p.prof.proxMode = 0 then 6 else c.prox }
    let s := stateEntered s o c.state p.prof.initial 0 0 0xFFFF by_
    let s := match old with
      | some q => if q.crc = p.crc then s else postOut s 0x010A o (p8 c.profile.val ++ p32 q.version ++ p32 p.version) by_
      | none => s
    let e := runEntry o by_ s
    if e.2 then e.1 else (settle o by_ chainFuel .entry 1 e.1).1

/-- The fault cause of an unmatched trigger (R201); none where it is discarded. -/
def unmatchedFault (code arg : Nat) : Option Nat :=
  if code = 5 ∧ arg ≠ 6 then some 0
  else if code = 8 ∧ (arg = 1 ∨ arg = 3) then some 1
  else if code = 6 ∧ 4 ≤ arg ∧ arg ≤ 9 then some 2
  else if code = 7 ∧ 2 ≤ arg ∧ arg ≤ 4 then some 2
  else none

/-- The outputs a context commands, and its pilot. -/
def Ctx.outputs (c : Ctx) : BitVec 3 × BitVec 10 × Bool × Bool × Bool := (c.mode, c.duty, c.main.cmd, c.aux.cmd, c.lockCmd)

/-- A Signal whose transition has been taken completes: at once, or with the frame that applies its output changes (R213). -/
def signalDone (s : State) (o : Fin 128) (k : Fin 16 × BitVec 32) (refused changed : Bool) : State :=
  let res := signalResult s o refused false
  if changed && framesFlow s o then s.onCtx o fun c => { c with awaitApply := c.awaitApply ++ [⟨k.1, k.2, res, none⟩] }
  else completeKey s k.1 k.2 0 res

/-- A command's output changes are carried to the front-end: it completes once the frame with them has been applied (R146); else at once.
`before` are the outputs before its effect. -/
def completeApplied (s : State) (o : Fin 128) (c : Cmd) (before : BitVec 3 × BitVec 10 × Bool × Bool × Bool) : State :=
  if (s.ctx o).outputs != before && framesFlow s o then
    (started s c).onCtx o fun x => { x with awaitApply := x.awaitApply ++ [⟨c.ring, c.index, 0, none⟩] }
  else complete s c 0

/-- Serve a trigger (R201, R205). -/
def serveTrig (o : Fin 128) (t : Trigger) (s : State) : State :=
  let cmd := t.cmd.bind s.cmdAt
  let before := (s.ctx o).outputs
  match chain o cmd t.code.toNat t.arg.toNat s with
  | some r =>
    match t.cmd with
    | some k => signalDone r.1 o k r.2 ((r.1.ctx o).outputs != before)
    | none => r.1
  | none =>
    match t.cmd with
    | some k => completeKey s k.1 k.2 0x0A (signalResult s o false false)
    | none =>
      match unmatchedFault t.code.toNat t.arg.toNat with
      | some cause => (faultTrans o none cause 0 t.code.toNat t.arg.toNat s).1
      | none => s

/-- Signals, and the other commands whose output changes have been applied, complete (R146, R213). -/
def applySignals (s : State) (o : Fin 128) : State :=
  let ready := (s.ctx o).awaitApply.filter fun w => match w.due with | some t => decide (t ≤ s.now) | none => false
  if ready.isEmpty then s
  else
    let s := s.onCtx o fun c => { c with awaitApply := c.awaitApply.filter fun w =>
      match w.due with | some t => !decide (t ≤ s.now) | none => true }
    ready.foldl (fun s w => completeKey s w.ring w.index 0 w.result) s

/-- A context may step now: it is not held by a table reload (R232), and the island's checks are not held by a lockstep restart
(R264). In recovery none steps (R597). -/
def mayStep (s : State) (o : Fin 128) : Bool :=
  s.glb.phase == .running && !s.upd.recovery && s.ctxRuns o && !(s.ctx o).paused && s.saf.restarting.isNone

/-- CONTEXT_STEP (R205, R208): the context serves one trigger, or takes the fault transition a full queue has made due. -/
def contextStep (s : State) (o : Fin 128) : State :=
  let s := applySignals s o
  if !mayStep s o then s
  else match (s.ctx o).faultDue with
  | some t =>
    let s := (s.count 3 0x10 1).onCtx o fun c => { c with faultDue := none }
    writeJournal (faultTrans o none 0 0 t.code.toNat t.arg.toNat s).1 o
  | none =>
    match nextTrig (s.ctx o).queue with
    | some r => writeJournal (serveTrig o r.1 ((s.count 3 0x10 1).onCtx o fun c => { c with queue := r.2 })) o
    | none => s

/-- CONTEXT_STEP. -/
def execContextStep (o : Fin 128) (s : State) : Res := .next (contextStep s o)

end Sys2Proof.Machine
end

