-- ==== Sys2Proof/Machine/SeqRows.lean ====
section
/-! DEFINITION. Inputs, feedback, marks and commands of the outlet sequencer (chapter 07). -/

namespace Sys2Proof.Machine

/-- The sequencer runs: it stands in the service domain, and no context steps in recovery (R597). -/
def seqOn (s : State) : Bool := s.glb.phase == .running && !s.upd.recovery

/-! ### Pilot (R214 to R216) -/

/-- The class of an evaluation (R215) by MODE and the two plateaus. -/
def pilotClass (mode : BitVec 3) (high low : BitVec 12) : BitVec 3 :=
  let h := high.toNat
  let neg (v : Nat) : Bool := 205 ≤ v && v ≤ 614
  if mode = 2 then (if neg h then 5 else 7)
  else
    let k : BitVec 3 :=
      if 3892 ≤ h then 7 else if 3482 ≤ h then 0 else if 3072 ≤ h then 1 else if 2663 ≤ h then 2 else if 2253 ≤ h then 3
      else if 1844 ≤ h then 4 else 7
    if mode = 1 && (k == 1 || k == 2 || k == 3) && !neg low.toNat then 6 else k

/-- MODE at the front-end now (R104, R216). -/
def Ctx.feMode (c : Ctx) (now : Nat) : BitVec 3 := if c.modeDue || decide (now < c.modeAt) then c.modeOld else c.mode

/-- The evaluation's period of 1 ms contains a MODE change (R216). -/
def Ctx.modeChanged (c : Ctx) (now : Nat) : Bool :=
  !c.modeDue && c.modeAt != 0 && decide (c.modeAt ≤ now) && decide (now < c.modeAt + msNs)

/-- The island's own pilot class, with the grace of R256: the invariant keeps holding where it held. -/
def islandPilot (s : State) (o : Fin 128) (k : BitVec 3) : State :=
  let d := ((s.safRec o).map (·.dAllowed)).getD false
  s.onSaf o fun x => { x with
    pilot := k
    pilotGraceUntil :=
      if k = 1 then (if x.pilot = 2 ∨ (x.pilot = 3 ∧ d) then some (s.now + 100 * msNs) else if x.pilot = 1 then x.pilotGraceUntil else none)
      else none }

/-- A toggle is counted at an outlet of an open toggle window (R325). -/
def countToggle (s : State) (o : Fin 128) : State :=
  let h := s.handle o
  s.onRuns fun l => l.map fun r =>
    if r.phase = .validating ∧ r.togUntil.isSome ∧ r.held.contains h then
      { r with toggles := if r.toggles.any (fun t => t.1 == h) then r.toggles.map fun t => if t.1 = h then (h, t.2 + 1) else t
                          else r.toggles ++ [(h, 1)] }
    else r

/-- The toggle detector of R325, on single evaluations: B, C for TOG_MIN to TOG_MAX, then B. -/
def toggleStep (s : State) (o : Fin 128) (k : BitVec 3) : State :=
  let x := s.sta o
  if !x.togHeld then s
  else if k = 1 then
    let len := s.now - x.togAt
    let s' := s.onSta o fun x => { x with togState := 1 }
    if x.togState = 2 ∧ s.cfg.togMin * msNs ≤ len ∧ len ≤ s.cfg.togMax * msNs then countToggle s' o else s'
  else if k = 2 then
    if x.togState = 1 then s.onSta o fun x => { x with togState := 2, togAt := s.now } else s
  else s.onSta o fun x => { x with togState := 0 }

/-- The pilot class is A, E or F: candidacy and association end (R322, R323), and a pending tag write requests an engine (R454). -/
def pilotGone (s : State) (o : Fin 128) (k : BitVec 3) : State :=
  if k = 0 ∨ k = 4 ∨ k = 5 then
    let s := endAssoc (leaveRuns s o) o 0
    if k = 0 ∧ (s.aut1 o).tagEn ∧ 0 < (s.tagJ1 o).pend then requestEngine s o else s
  else s

/-- A qualifying change (R316): candidacy by its first evaluation, and a pending increment of the cable tag (R475). -/
def qualify (s : State) (o : Fin 128) (tick : Nat) : State :=
  let s := s.onSta o fun x => { x with qualTick := some tick }
  if (s.aut1 o).tagEn then mirrorTag (s.onTagJ o fun j => { j with pend := j.pend + 1 }) o else s

/-- A new class takes effect (R216). -/
def pilotEffect (s : State) (o : Fin 128) (k : BitVec 3) : State :=
  let c := s.ctx o
  let old := c.pilot
  let s := s.onCtx o fun c => { c with pilot := k, pilotCount := 0 }
  let s := postStamped s 0x0101 o (p8 old.toNat ++ p8 k.toNat ++ p16 c.high.toNat ++ p16 c.low.toNat) c.pilotStamp
  let bc (v : BitVec 3) : Bool := v == 1 || v == 2
  let s := if bc k && !bc old then qualify s o c.pilotTick else s
  let s := pilotGone s o k
  let s := if c.enabled && k != 0 then wake s 3 o.val else s
  let s := if (s.sta o).togHeld && bc k then s else queueTrig s o 1 k.toNat
  s.revote

/-- An evaluation with its debouncing (R214, R216). -/
def pilotEval (s : State) (o : Fin 128) (high low : BitVec 12) : State :=
  let s := s.onCtx o fun c => { c with high := high, low := low }
  let c := s.ctx o
  match s.ctxProfile o with
  | none => s
  | some p =>
    if c.modeChanged s.now then s.onCtx o fun c => { c with pilotCount := 0 }
    else
      let k := pilotClass (c.feMode s.now) high low
      let s := toggleStep (islandPilot s o k) o k
      if k = c.pilot then s.onCtx o fun c => { c with pilotCount := 0, pilotCand := k }
      else
        let first := c.pilotCount == 0 || k != c.pilotCand
        let n := if first then 1 else c.pilotCount + 1
        let s := s.onCtx o fun c => { c with
          pilotCand := k, pilotCount := n
          pilotStamp := if first then s.tim.mains else c.pilotStamp
          pilotTick := if first then s.now else c.pilotTick }
        if p.prof.debounce ≤ n then pilotEffect s o k else s

/-- The lower median of pilot samples (log 137). -/
def medianCode (l : List (BitVec 12)) : Option (BitVec 12) :=
  let x := (l.map (·.toNat)).mergeSort (· ≤ ·)
  (x[(x.length - 1) / 2]?).map (BitVec.ofNat 12)

/-- The two plateaus of an evaluation (R214, R215) from the samples of the last 1,000 frames, oldest first: in MODE 1 the period begins with
its high part of DUTY samples, and samples within 3 µs of an edge are left out; in MODE 0 there is only a high part, and in MODE 2 every
sample is taken as the plateau (log 137). -/
def plateaus (mode : BitVec 3) (duty : Nat) (l : List (Option (BitVec 12))) : Option (BitVec 12) × Option (BitVec 12) :=
  let some_ (x : List (Option (BitVec 12))) : List (BitVec 12) := x.filterMap id
  if mode = 1 then
    (medianCode (some_ ((l.take (duty - 3)).drop 3)), medianCode (some_ ((l.take 997).drop (duty + 3))))
  else
    let m := medianCode (some_ l)
    (m, if mode = 2 then m else none)

/-- PILOT_EVALUATION (R214): of a PWM period in MODE 1, else at the next millisecond of tick time. An evaluation that has no sample of its
high part counts for nothing, and a plateau without samples stays as it was (DESIGN CHOICE, log 137). -/
def execPilotEvaluation (o : Fin 128) (s : State) : Res :=
  .next (if !seqOn s then s
  else
    let mode := (s.ctx o).feMode s.now
    let s := if mode = 1 then s else s.toTick ((s.now / msNs + 1) * msNs)
    let c := s.ctx o
    let p := plateaus mode c.duty.toNat c.pilots.reverse
    match p.1 with
    | some h => pilotEval s o h (p.2.getD c.low)
    | none => s)

/-! ### Proximity (R217) -/

/-- The class of a PP_RAW code (R217). -/
def proxClass (raw : BitVec 8) : BitVec 3 :=
  let v := raw.toNat
  if v ≤ 30 then 5 else if v ≤ 80 then 4 else if v ≤ 136 then 3 else if v ≤ 190 then 2 else if v ≤ 232 then 1 else 0

/-- PROXIMITY_CLASS: PP_RAW has stayed in another band for PROX_DEBOUNCE. -/
def execProximityClass (o : Fin 128) (s : State) : Res :=
  .next (match s.ctxProfile o with
  | some p =>
    let c := s.ctx o
    if !seqOn s || p.prof.proxMode != 1 || c.proxCand == c.prox || !(s.lane o).statusSeen then s
    else
      let s := s.toTick (c.proxSince + p.prof.proxDebounce * msNs)
      let s := s.onCtx o fun c => { c with prox := c.proxCand }
      let s := postOut s 0x0102 o (p8 c.prox.toNat ++ p8 c.proxCand.toNat ++ p8 (s.lane o).status.ppRaw.toNat)
      queueTrig s o 2 c.proxCand.toNat
  | none => s)

/-! ### Timers (R210) -/

/-- A timer of a context expires (R210). -/
def timerFires (o : Fin 128) (t : Fin 4) (s : State) : State :=
  let fire (s : State) : State :=
    writeJournal (queueTrig (s.onCtx o fun c => { c with timers := vmod c.timers t fun _ => .off }) o 3 t.val) o
  if !seqOn s then s
  else match vget (s.ctx o).timers t with
    | .off => s
    | .ms e => fire (s.toTick e)
    | .angle m => fire (s.toMains m)

/-! ### Switching marks and feedback (R221 to R224) -/

/-- The angle units as nanoseconds at the present frequency. -/
def Tim.unitsNs (t : Tim) (u : Nat) : Nat := u * 10 ^ 12 / (t.freq * 65536)

/-- A switching mark fires (R222, R258): the island checks a CLOSE again, and a refusal cancels the switch. -/
def fireSwitch (s : State) (o : Fin 128) (aux : Bool) (z : ZpMark) : State :=
  let s := if z.close then evalPermit s o else s
  if z.close && !(s.saf1 o).permit then
    let s := s.onCont o aux fun k => { k with zp := none }
    actionRefused s o (pack [(0, 2), (8, b2n aux), (9, 1)]) (refusalCause s o false) none
  else
    let s := switchNow s o aux z.close 1 (z.target % 65536)
    s.onSta o fun x => { x with quietUntil := some (s.now + s.tim.unitsNs (z.target - z.mark) + 3 * msNs) }

/-- The switching mark of a contactor fires (R221, R222): the clock runs to the mark. -/
def switchFires (o : Fin 128) (aux : Bool) (s : State) : State :=
  match ((s.ctx o).cont aux).zp with
  | some z => if mayStep s o then writeJournal (fireSwitch (s.toMains z.mark) o aux z) o else s
  | none => s

/-- Nanoseconds to whole microseconds, halves away from zero (R224). -/
def roundUs (ns : Int) : Int := if 0 ≤ ns then (ns + 500) / 1000 else -((-ns + 500) / 1000)

/-- Consecutive outliers of a direction. -/
def Contactor.outliers (k : Contactor) (close : Bool) : Nat := if close then k.outClose else k.outOpen

/-- Set the consecutive outliers of a direction. -/
def Contactor.putOutliers (k : Contactor) (close : Bool) (n : Nat) : Contactor :=
  if close then { k with outClose := n } else { k with outOpen := n }

/-- The learnt delay after a measurement (R224): the new delay and the consecutive outliers. The third one in a row is taken. -/
def learn (d : Nat) (outliers : Nat) (m : Int) : Nat × Nat :=
  let diff := m - d
  if 1000 ≤ m ∧ m ≤ 100000 ∧ diff.natAbs ≤ 2000 then (((d : Int) + diff.tdiv 8).toNat, 0)
  else if outliers + 1 < 3 then (d, outliers + 1)
  else ((max 2000 (min m 60000)).toNat, 0)

/-- A switch is confirmed (R223, R224): the delay is learnt, the events are posted and CONT 0 to 3 is queued. Direction 0 is
close, 1 is open, in the order of the CONT arguments (DEDUCED, log 28). -/
def confirmSwitch (s : State) (o : Fin 128) (aux : Bool) (p : Profile) (w : ContWatch) (applied : Nat) : State :=
  let k := (s.ctx o).cont aux
  let off := if w.close then p.fbOffClose else p.fbOffOpen
  let m := roundUs ((k.fbSince : Int) - applied + off * 1000)
  let d := (vget s.delays o).get aux w.close
  let l := learn d (k.outliers w.close) m
  let dir := if w.close then 0 else 1
  let s := s.onDelays o fun x => x.put aux w.close l.1
  let s := s.onCont o aux fun k => ({ k with watch := none }).putOutliers w.close l.2
  let s := postOut s 0x0103 o (p8 (b2n aux) ++ p8 dir ++ p8 w.zp.toNat ++ p32 (twos 32 m) ++ p16 l.1 ++ p16 w.target.toNat)
  let s := if l.2 = 0 ∧ 1000 ≤ m ∧ m ≤ 100000 ∧ (m - d).natAbs ≤ 2000 then s
    else postOut { s with seq := { s.seq with outlierAny := true } } 0x0109 o
      (p8 (b2n aux) ++ p8 dir ++ p32 (twos 32 m) ++ p16 d ++ p8 (k.outliers w.close + 1))
  let s := if w.zp = 1 then s
    else s.onSta o fun x => { x with quietUntil := some (min (k.fbSince + 3 * msNs) (applied + p.contTimeout * msNs)) }
  queueTrig s o 6 (2 * b2n aux + dir)

/-- CONTACTOR_FEEDBACK (R223): a change to the commanded position within CONT_TIMEOUT of the application. -/
def execContactorFeedback (o : Fin 128) (aux : Bool) (s : State) : Res :=
  let k := (s.ctx o).cont aux
  .next (if !seqOn s || !k.fbNew then s
  else
    let s := s.onCont o aux fun k => { k with fbNew := false }
    match k.watch, s.ctxProfile o with
    | some w, some p =>
      match w.appliedAt with
      | some a =>
        if k.fb = w.close ∧ k.fbSince ≤ a + p.prof.contTimeout * msNs then writeJournal (confirmSwitch s o aux p.prof w a) o else s
      | none => s
    | _, _ => s)

/-- The Contactor fault event with its CONT trigger (R223, R234). -/
def contFault (s : State) (o : Fin 128) (aux : Bool) (arg : Nat) : State :=
  queueTrig (postOut s 0x0104 o (p8 (b2n aux) ++ p8 arg)) o 6 arg

/-- CONTACTOR_TIMEOUT (R223): CONT_TIMEOUT has passed, or an unexpected change has lasted 10 ms. -/
def execContactorTimeout (o : Fin 128) (aux : Bool) (s : State) : Res :=
  let k := (s.ctx o).cont aux
  .next (if !seqOn s then s
  else match k.watch, s.ctxProfile o with
    | some w, some p =>
      match w.appliedAt with
      | some a =>
        let due := a + p.prof.contTimeout * msNs
        if k.fbNew && k.fb == w.close && decide (k.fbSince ≤ due) then s
        else contFault ((s.toTick due).onCont o aux fun k => { k with watch := none }) o aux (4 + 2 * b2n aux + (if w.close then 0 else 1))
      | none => s
    | _, _ =>
      match k.unexpSince with
      | some t => contFault ((s.toTick (t + 10 * msNs)).onCont o aux fun k => { k with unexpSince := none }) o aux (8 + b2n aux)
      | none => s)

/-- The Lock event with its LOCK trigger (R226, R234). -/
def lockEvent (s : State) (o : Fin 128) (arg : Nat) : State := queueTrig (postOut s 0x0105 o (p8 arg)) o 7 arg

/-- LOCK_FEEDBACK (R226): the commanded position is reached, LOCK_TIMEOUT passes, or an uncommanded release lasts 10 ms. -/
def execLockFeedback (o : Fin 128) (s : State) : Res :=
  let c := s.ctx o
  .next (if !seqOn s then s
  else match c.lockDue with
    | some due =>
      let done (s : State) : State := s.onCtx o fun c => { c with lockDue := none }
      if c.lockFb = c.lockCmd then lockEvent (done s) o (if c.lockCmd then 0 else 1)
      else lockEvent (done (s.toTick due)) o (if c.lockCmd then 2 else 3)
    | none =>
      match c.lockUnexpSince with
      | some t => lockEvent ((s.toTick (t + 10 * msNs)).onCtx o fun c => { c with lockUnexpSince := none }) o 4
      | none => s)

/-! ### Profile copies (R232) -/

/-- Contexts that run a profile version. -/
def usersOf (s : State) (p : Fin 32) (version : Nat) : List (Fin 128) :=
  outlets.filter fun o => (s.ctx o).bound && (s.ctx o).profile == p && (s.ctx o).version == version

/-- Queued triggers of a context that stops: their Signals complete with status 0x0A (R233). -/
def dropQueue (s : State) (o : Fin 128) : State :=
  let q := (s.ctx o).queue
  (q.filterMap (·.cmd)).foldl (fun s k => completeKey s k.1 k.2 0x0A (signalResult s o false false))
    (s.onCtx o fun c => { c with queue := [], faultDue := none })

/-- Both copies of its profile have failed (R232): the context sends MODE 2, opens both contactors and stops. -/
def stopContext (s : State) (o : Fin 128) : State :=
  let s := sendPilot s o (2, 0)
  let s := switchNow (switchNow s o false false 0 0) o true false 0 0
  let s := postOut { s with seq := { s.seq with faultAny := true } } 0x0107 o (p8 4 ++ p8 0)
  writeJournal (dropQueue (s.onCtx o fun c => { c with stopped := true }) o) o

/-- A copy of a profile version fails (R232): it is restored from the other copy; where both have failed, its contexts stop. The
failure is counted (R528 class 5), and a lasting entry is treated as a failure of both. -/
def profileFails (s : State) (p : Fin 32) (version : Nat) (both crc : Bool) : State :=
  let s := tally s 5 p.val
  let users := usersOf s p version
  if both || s.lastingAt 5 p.val then
    let s := { s with seq := { s.seq with profiles := s.seq.profiles.map fun x =>
      if x.prof.id = p ∧ x.version = version then { x with badA := true, badB := true } else x } }
    users.foldl stopContext s
  else
    users.foldl (fun s o => postOut s 0x010B o (p8 p.val ++ p8 (b2n crc))) { s with seq := { s.seq with reloadAny := true } }

/-- PROFILE_CHECK. The reload itself takes at most 50 µs; the step holds it whole (log 29). -/
def execProfileCheck (p : Fin 32) (version : Nat) (copy : Fin 3) (crc : Bool) (s : State) : Res :=
  .next (if seqOn s && s.seq.profiles.any (fun x => x.prof.id == p && x.version == version && !(x.badA && x.badB)) then
    profileFails s p version (copy == 2) crc
  else s)

/-! ### Power-on (R230) -/

/-- CONTEXT_START (R230): the lane is UP for the first time after a power-on reset. Flags, AUTHORISED and timers start cleared
(DESIGN CHOICE, log 30). -/
def execContextStart (o : Fin 128) (s : State) : Res :=
  let c := s.ctx o
  .next (if !seqOn s || !c.waiting || (s.lane o).link != .up || !(s.lane o).statusSeen then s
  else
    let s := s.onCtx o fun c => { c with waiting := false }
    if !(c.bound && c.enabled) then s
    else
      let st := (s.lane o).status
      let s := if !st.contMain && !st.mainFb && !st.contAux && !st.auxFb && st.slack != 1 then enterInitial o none s
        else (faultTrans o none 7 0 0 0 s).1
      writeJournal s o)

/-! ### Commands (R233) -/

/-- A command that needs the lane UP and the context not held (R165, R233). -/
def seqCmd (c : Cmd) (s : State) (f : Fin 128 → State → State) : State :=
  onOutlet c s fun o =>
    if (s.lane o).link != .up || (s.ctx o).waiting then complete s c 0x08
    else if (s.ctx o).paused then s
    else f o s

/-- Signal. -/
def effSignal (c : Cmd) (s : State) : State :=
  if fld (c.p 0) 0 8 = 255 then complete s c 0x02
  else seqCmd c s fun o s =>
    queueTrig (started s c) o 4 (fld (c.p 0) 0 8) (some (c.ring, c.index))

/-- SIGNAL. -/
def execSignal (c : Cmd) (s : State) : Res := .next (cmdStep [0x0100] effSignal c s)

/-- The learnt delays at the profile's D0 (R224). -/
def Profile.d0 (p : Profile) : Delays := ⟨p.d0CloseMain, p.d0OpenMain, p.d0CloseAux, p.d0OpenAux⟩

/-- A profile is bound (R233): D starts at D0 with a profile that was not bound before (R224). -/
def bindProfile (s : State) (o : Fin 128) (p : LoadedProfile) (c : Cmd) : State :=
  let x := s.ctx o
  let s := if x.bound && x.profile == p.prof.id then s else s.onDelays o fun _ => p.prof.d0
  let s := dropQueue s o
  let s := s.onCtx o fun y => { y with
    profile := p.prof.id, version := p.version, bound := true, stopped := false, prox := if p.prof.proxMode = 0 then 6 else y.prox
    timers := Vector.replicate 4 .off }
  if x.enabled then enterInitial o (some c) s
  else
    let s := s.onCtx o fun y => { y with state := p.prof.initial }
    stateEntered s o x.state p.prof.initial 0 0 0xFFFF (some c)

/-- Bind profile. -/
def effBindProfile (c : Cmd) (s : State) : State :=
  seqCmd c s fun o s =>
    match s.activeProfile (fin 32 (fld (c.p 0) 0 5)) with
    | none => complete s c 0x02
    | some p =>
      if p.badA && p.badB then complete s c 0x02
      else if s.ctxClass o != 0 || !(s.ctx o).bothOpen then complete s c 0x0A
      else completeApplied (writeJournal (bindProfile s o p c).revote o) o c (s.ctx o).outputs

/-- BIND_PROFILE. -/
def execBindProfile (c : Cmd) (s : State) : Res := .next (cmdStep [0x0101] effBindProfile c s)

/-- Disable (R233, R323): the context sends MODE 2 and runs no steps; an association ends. -/
def disableCtx (s : State) (o : Fin 128) (c : Cmd) : State :=
  let s := dropQueue s o
  let s := sendPilot (s.onCtx o fun x => { x with enabled := false }) o (2, 0)
  endAssoc s o 3 (some c)

/-- Enable (R233): INITIAL is entered, and the pilot follows the table again. -/
def enableCtx (s : State) (o : Fin 128) (c : Cmd) : State :=
  let s := s.onCtx o fun x => { x with enabled := true }
  let s := sendPilot s o (pilotCmd (s.ctx o).pilotSel (s.ctx o).iEff)
  enterInitial o (some c) s

/-- Enable outlet. Enabling an enabled outlet changes nothing, and one with no profile bound is refused (DESIGN CHOICE, log 31). -/
def effEnableOutlet (c : Cmd) (s : State) : State :=
  seqCmd c s fun o s =>
    let x := s.ctx o
    if bit (c.p 0) 0 then
      if !x.bound || (s.ctxProfile o).isNone then complete s c 0x0A
      else if x.enabled then complete s c 0
      else completeApplied (writeJournal (enableCtx s o c).revote o) o c x.outputs
    else if s.ctxClass o != 0 then complete s c 0x0A
    else completeApplied (writeJournal (disableCtx s o c).revote o) o c x.outputs

/-- ENABLE_OUTLET. -/
def execEnableOutlet (c : Cmd) (s : State) : Res := .next (cmdStep [0x0102] effEnableOutlet c s)

/-- Authorise. -/
def effAuthorise (c : Cmd) (s : State) : State :=
  seqCmd c s fun o s =>
    if !s.ctxRuns o then complete s c 0x0A
    else
      let yes := bit (c.p 0) 0
      let s := (s.onCtx o fun x => { x with authorised := yes }).onBil o fun b => if yes then { b with contract := 0 } else b
      complete (writeJournal (queueTrig s o 9 (if yes then 0 else 1)) o) c 0

/-- AUTHORISE. -/
def execAuthorise (c : Cmd) (s : State) : Res := .next (cmdStep [0x0103] effAuthorise c s)

/-- Force fault. -/
def effForceFault (c : Cmd) (s : State) : State :=
  seqCmd c s fun o s =>
    if !s.ctxRuns o || s.ctxClass o == 4 then complete s c 0x0A
    else completeApplied (writeJournal (faultTrans o (some c) 5 (fld (c.p 0) 0 8) 0 0 s).1 o) o c (s.ctx o).outputs

/-- FORCE_FAULT. -/
def execForceFault (c : Cmd) (s : State) : Res := .next (cmdStep [0x0104] effForceFault c s)

/-- Reset context. -/
def effResetContext (c : Cmd) (s : State) : State :=
  seqCmd c s fun o s =>
    let j := s.safJ1 o
    if s.ctxClass o != 4 || !(s.ctx o).bothOpen then complete s c 0x0A
    else if j.rc || j.iso || j.weld then complete s c 0x04
    else completeApplied (writeJournal (enterInitial o (some c) s) o) o c (s.ctx o).outputs

/-- RESET_CONTEXT. -/
def execResetContext (c : Cmd) (s : State) : Res := .next (cmdStep [0x0105] effResetContext c s)

/-- Forget delays. -/
def effForgetDelays (c : Cmd) (s : State) : State :=
  seqCmd c s fun o s =>
    let d0 := ((s.ctxProfile o).map (·.prof.d0)).getD {}
    let s := s.onDelays o fun d =>
      let d := if bit (c.p 0) 0 then { d with closeMain := d0.closeMain, openMain := d0.openMain } else d
      if bit (c.p 0) 1 then { d with closeAux := d0.closeAux, openAux := d0.openAux } else d
    complete (writeJournal s o) c 0

/-- FORGET_DELAYS. -/
def execForgetDelays (c : Cmd) (s : State) : Res := .next (cmdStep [0x0106] effForgetDelays c s)

/-- Read context. -/
def effReadContext (c : Cmd) (s : State) : State :=
  onOutlet c s fun o =>
    let x := s.ctx o
    complete s c 0 (pack [(0, x.state), (8, s.ctxClass o), (11, x.pilot.toNat), (14, x.prox.toNat), (17, x.flags.toNat)])

/-- READ_CONTEXT. -/
def execReadContext (c : Cmd) (s : State) : Res := .next (cmdStep [0x0107] effReadContext c s)

end Sys2Proof.Machine
end

