-- ==== Sys2Proof/Machine/SafetyRows.lean ====
section
/-! DEFINITION. The safety island's evaluations, inputs, axes and commands (chapter 08). -/

namespace Sys2Proof.Machine

/-- The safety island runs: a service reset does not stop it (R274). -/
def islandOn (s : State) : Bool := s.glb.phase == .running || s.glb.phase == .serviceReset

/-! ### Residual current (R240 to R247) -/

/-- The profile of the outlet assigns IRES (R240). -/
def State.hasIres (s : State) (o : Fin 128) : Bool :=
  match s.ctxProfile o with | some p => p.prof.roles.toList.contains 8 | none => false

/-- The estimate a stage compares, in µA: the magnitude of the DC estimate, or the AC estimate where the AC stages are enabled
(R241, R243; the magnitude is DEDUCED, log 32). -/
def stageEstimate (dc : Bool) (r : SafetyRec) (idc : Int) (iac : Nat) (k : Nat) : Nat :=
  if k < 3 then (if idc.natAbs ≤ 3000 then 0 else idc.natAbs) else if r.acRcEn && !dc then iac else 0

/-- One 1 ms evaluation of a stage (R241): it trips once, when its delay has elapsed; while trips are inhibited it waits. -/
def StageRun.next (x : StageRun) (runs : Bool) (delay : Nat) (inhibit : Bool) : StageRun × Bool :=
  if !runs then (⟨false, 0⟩, false)
  else
    let n := if x.running then x.count + 1 else 0
    if x.running && delay < x.count then (⟨true, x.count⟩, false)
    else if delay ≤ n then (if inhibit then (⟨true, delay⟩, false) else (⟨true, delay + 1⟩, true))
    else (⟨true, n⟩, false)

/-- One evaluation of R241 to R245: `idc` and `iac` are the estimates in µA. -/
def evalResidual (s : State) (o : Fin 128) (idc : Int) (iac : Nat) : State :=
  match s.safRec o with
  | none => s
  | some r =>
    let x := s.saf1 o
    let step (k : Fin 6) : StageRun × Bool :=
      (vget x.stages k).next (decide (0 < vget r.thr k) && decide (vget r.thr k * 100 ≤ stageEstimate (s.isDc o) r idc iac k.val))
        (vget r.delay k) (x.rdc != .idle)
    let s := s.onSaf o fun x => { x with
      idc := idc, iac := iac, stages := Vector.ofFn fun k => (step k).1
      quietSince := if idc.natAbs < 3000 ∧ iac < 15000 then x.quietSince else s.now }
    let trips := (List.finRange 6).filter fun k => (step k).2
    if trips.isEmpty then s
    else
      let s := setLatch s o (s.safJ1 o).rc fun j => { j with rc := true }
      let s := trips.foldl (fun s k => postOut s 0x0200 o (p8 k.val ++ p32 (twos 32 idc) ++ p32 iac)) s
      evalPermit s o (some 0)

/-- RC_EVALUATION (R240): 1 ms after the last one, the estimates are the mean of the IRES samples over W and the rms of the samples less
that mean. -/
def execRcEvaluation (o : Fin 128) (s : State) : Res :=
  .next (if islandOn s && s.hasIres o then
    let s := s.toTick ((s.saf1 o).rcAt + msNs)
    let x := islandRole s o 8
    evalResidual (s.onSaf o fun y => { y with rcAt := s.now }) o (meanOf x) (rmsRaw (x.map fun v => v - meanOf x))
  else s)

/-- The awaited estimate of a running RDC test is met (R246). -/
def rdcMet (x : SafOut) : Bool :=
  match x.rdc with
  | .idle => false
  | .wait1 _ => decide (7000 ≤ x.idc.natAbs) && decide (x.idc.natAbs ≤ 13000) && (vget x.stages 0).running
  | .wait2 _ => decide (x.idc.natAbs < 3000)

/-- RDC_TEST_STEP (R246): the awaited estimate is met, or time runs on to the bound, which fails the test. -/
def execRdcTestStep (o : Fin 128) (s : State) : Res :=
  let x := s.saf1 o
  .next (if !islandOn s then s
  else match x.rdc with
    | .idle => s
    | .wait1 d =>
      if !(s.ctx o).bothOpen then endRdc s o 2
      else if rdcMet x && decide (s.now ≤ d) then s.onSaf o fun x => { x with rdc := .wait2 (s.now + 100 * msNs) }
      else endRdc (s.toTick d) o 2
    | .wait2 d =>
      if !(s.ctx o).bothOpen then endRdc s o 4
      else if rdcMet x && decide (s.now ≤ d) then endRdc s o 0
      else endRdc (s.toTick d) o 4)

/-- RDC_OK_EXPIRY (R247): the test is 24 h old. -/
def execRdcOkExpiry (o : Fin 128) (s : State) : Res :=
  .next (if islandOn s && (s.saf1 o).rdcOk then
    let s := s.toTick ((s.saf1 o).rdcAt + 86400 * secNs)
    evalPermit (mirrorSaf (s.onSaf o fun x => { x with rdcOk := false }) o) o
  else s)

/-! ### Insulation (R249 to R252) -/

/-- An insulation result (R249, R250): class, r_iso in kΩ where the formula gives one that is not negative, and the mean Vc. -/
structure IsoResult where
  /-- class of R250 -/
  cls : Nat
  /-- r_iso in whole kΩ -/
  riso : Option Nat
  /-- mean Vc in mV -/
  mean : Int
deriving DecidableEq, Repr

/-- r_meas and r_iso by exact fractions (R249), classed by R250. Voltages are in mV. -/
def isoResult (r : SafetyRec) (plus minus : Int) : IsoResult :=
  let dvc := plus - minus
  let d := 2000 * (r.vm : Int) - dvc
  let n := (r.rc : Int) * dvc
  let num := n * r.rm
  let den := (r.rm : Int) * d - 2 * n
  let riso : Option Nat := if 0 < d ∧ 0 < den ∧ 0 ≤ num then some (num / den).toNat else none
  let cls :=
    if 1990 * (r.vm : Int) ≤ dvc ∨ (0 < d ∧ 375 * (r.rm : Int) * d ≤ 1000 * n) then 3
    else if num < (r.imdFault : Int) * den then 2
    else if num < (r.imdWarn : Int) * den then 1
    else 0
  ⟨cls, riso, (plus + minus).tdiv 2⟩

/-- A CHECK insulation takes a result (R251). -/
def checkIsoTakes (s : State) (o : Fin 128) (bad : Bool) : State :=
  let c := s.ctx o
  if c.checkIso = 0 then s
  else
    let allBad := c.checkIsoBad || bad
    let s := s.onCtx o fun c => { c with checkIso := c.checkIso - 1, checkIsoBad := allBad }
    if c.checkIso = 1 then queueTrig s o 0x0C (b2n allBad) else s

/-- Continuous monitoring takes a result (R251): two bad ones in a row set ISO_LATCH. -/
def closedIsoTakes (s : State) (o : Fin 128) (cls riso : Nat) : State :=
  if !(s.ctx o).commanded then s
  else
    let n := if 2 ≤ cls then (s.saf1 o).badRun + 1 else 0
    let s := s.onSaf o fun x => { x with badRun := n }
    if n = 2 then
      let s := setLatch s o (s.safJ1 o).iso fun j => { j with iso := true }
      evalPermit (postOut s 0x0203 o (p32 riso ++ p8 cls)) o (some 1)
    else s

/-- A Clear trip of kind 1 takes a result (R252). -/
def clearIsoTakes (s : State) (o : Fin 128) (cls : Nat) : State :=
  match (s.saf1 o).imdClear with
  | none => s
  | some k =>
    let s := s.onSaf o fun x => { x with imdClear := none }
    if cls = 0 then completeKey (mirrorSaf (s.onSafJ o fun j => { j with iso := false }) o) k.1 k.2 0 1
    else completeKey s k.1 k.2 0x0A

/-- A pair of halves has given a result (R249 to R252, R273). An r_iso that the formula does not give as a number of kΩ is a free
value (log 33). -/
def isoDone (s : State) (o : Fin 128) (x : IsoResult) : State :=
  let d := s.free
  let s := if x.riso.isSome then s else d.2
  let riso := x.riso.getD (d.1.toNat % 2 ^ 32)
  let s := s.onSaf o fun y => { y with
    lastClass := some (BitVec.ofNat 2 x.cls), lastIsoAt := s.now, riso := BitVec.ofNat 32 riso }
  let s := postOut s 0x0202 o (p8 x.cls ++ p32 riso ++ p32 (twos 32 x.mean))
  let s := clearIsoTakes (closedIsoTakes (checkIsoTakes s o (decide (2 ≤ x.cls))) o x.cls riso) o x.cls
  let s := if (s.saf1 o).guardStep = 4 then endGuard s o (if x.cls = 3 then 4 else 0) else s
  mirrorSaf (evalPermit s o) o

/-- Vc in mV, averaged over the last 20 ms (R249): 160 samples of the island at 8 kS/s. -/
def vcNow (s : State) (o : Fin 128) : Int :=
  match s.ctxProfile o with
  | some p =>
    let mean (role : BitVec 4) : Int := match laneOf p.prof role with | some l => meanOf (islandLast s o l 160) | none => 0
    (mean 11 + mean 12) / 2000
  | none => 0

/-- IMD_HALF_END (R249): a half of IMD_HALF has passed. -/
def execImdHalfEnd (o : Fin 128) (s : State) : Res :=
  .next (match s.safRec o with
  | some r =>
    let x := s.saf1 o
    if !islandOn s || x.imdSrc == 0 then s
    else
      let s := s.toTick (x.imdHalfAt + r.imdHalf * msNs)
      let vc := vcNow s o
      if x.imdSrc = 1 then s.onSaf o fun x => { x with imdSrc := 2, imdHalfAt := s.now, vcPlus := some vc }
      else
        let s := s.onSaf o fun x => { x with imdSrc := 1, imdHalfAt := s.now, vcPlus := none }
        imdUpdate (isoDone s o (isoResult r (x.vcPlus.getD 0) vc)) o
  | none => s)

/-- ISO_RESULT_AGED (R252). -/
def execIsoResultAged (o : Fin 128) (s : State) : Res :=
  .next (match s.safRec o, (s.saf1 o).lastClass with
  | some r, some _ => if islandOn s && r.imdEn then evalPermit (s.toTick ((s.saf1 o).lastIsoAt + r.imdAge * secNs)) o else s
  | _, _ => s)

/-! ### Welds (R254, R255) -/

/-- A CHECK weld ends (R254, R255): its command completes, or CHECK 2 or 3 is queued. -/
def endCheckWeld (s : State) (o : Fin 128) (fail : Option Nat) : State :=
  let k := (s.ctx o).checkWeldCmd
  let s := s.onCtx o fun c => { c with checkWeld := false, checkWeldCmd := none }
  match fail, k with
  | none, some k => completeKey (evalPermit (mirrorSaf (s.onSafJ o fun j => { j with weld := false }) o) o) k.1 k.2 0 1
  | none, none => queueTrig s o 0x0C 2
  | some cause, some k => completeKey (foundWeld s o cause) k.1 k.2 0x0A
  | some cause, none => queueTrig (foundWeld s o cause) o 0x0C 3

/-- CHECK_WELD_END (R254): judged from the instant at which the main feedback reads open. -/
def execCheckWeldEnd (o : Fin 128) (s : State) : Res :=
  let c := s.ctx o
  .next (match s.safRec o with
  | some r =>
    if !islandOn s || !c.checkWeld || c.main.fb then s
    else if s.isDc o then
      if (s.saf1 o).vdc ≤ r.weldVDc * 1000 then endCheckWeld s o none
      else endCheckWeld (s.toTick (c.main.fbSince + r.weldTDc * msNs)) o (some 1)
    else
      let s := s.toTick (c.main.fbSince + 200 * msNs)
      let x := s.saf1 o
      endCheckWeld s o (if 3 ≤ x.weldRunV then some 0 else if 3 ≤ x.weldRunI then some 2 else none)
  | none => s)

/-- PILOT_GRACE_END (R256). -/
def execPilotGraceEnd (o : Fin 128) (s : State) : Res :=
  .next (match (s.saf1 o).pilotGraceUntil with
  | some t =>
    if islandOn s then evalPermit ((s.toTick t).onSaf o fun x => { x with pilotGraceUntil := none }) o else s
  | none => s)

/-! ### Safety inputs (R265 to R267) -/

/-- Change pair `k`. -/
def State.onPair (s : State) (k : Fin 32) (f : InPair → InPair) : State := { s with saf := { s.saf with pairs := vmod s.saf.pairs k f } }

/-- Change axis `k`. -/
def State.onAxis (s : State) (k : Fin 16) (f : Axis → Axis) : State := { s with saf := { s.saf with axes := vmod s.saf.axes k f } }

/-- Stop latches and axis states as the words of a mirror record (R517). -/
def stopWords (s : State) : List Nat :=
  [128, ofBits (s.saf.pairs.toList.map (·.latched))] ++ s.saf.axes.toList.map fun a => a.state.code

/-- Stop latches and axis states are mirrored. -/
def mirrorStops (s : State) : State := s.mirror 2 (stopWords s)

/-- An axis changes state (R269, R280). -/
def axisState (s : State) (k : Fin 16) (new : AxisState) (cause : Nat) : State :=
  let old := (vget s.saf.axes k).state
  let s := s.onAxis k fun a => { a with state := new }
  mirrorStops (postDev s 0x0209 (p8 k.val ++ p8 old.code ++ p8 new.code ++ p8 cause))

/-- An SS1 demand (R269, R270): it acts on a released axis, and does not restart a running envelope. -/
def ss1Demand (s : State) (k : Fin 16) (cause : Nat) : State :=
  if (vget s.saf.axes k).state = .released then
    axisState (s.onAxis k fun a => { a with v0 := a.speed.natAbs, t := 0 }) k .ss1 cause
  else s

/-- Outlets whose ESTOP_MASK names a pair. -/
def maskOutlets (s : State) (k : Fin 32) : List (Fin 128) := outlets.filter fun o => (vget s.saf.binds o).estopMask.getLsbD k.val

/-- A pair is latched, for a demand, a discrepancy or a cross-circuit (R265 to R267). -/
def latchPair (s : State) (k : Fin 32) (cause : Nat) : State :=
  let rec_ := vget s.saf.inputs k
  let was := (vget s.saf.pairs k).latched
  let s := s.onPair k fun p => { p with latched := true }
  let s := { s with saf := { s.saf with stopAny := true } }
  let s := mirrorStops (postDev s 0x0207 (p8 k.val ++ p8 rec_.func.toNat ++ p8 cause))
  if was then s
  else
    let s := if rec_.func = 1 then (maskOutlets s k).foldl (fun s o => evalPermit s o (some 2)) s else s
    if rec_.func = 1 ∨ rec_.func = 2 then
      (List.finRange 16).foldl (fun s a => if rec_.axisMask.getLsbD a.val then ss1Demand s a 1 else s) s
    else s

/-- Clear the latches of the pairs of a list that are closed and free of faults (R267). -/
def clearLatches (s : State) (ks : List (Fin 32)) (by_ : Option Cmd) : State :=
  let ok := ks.filter fun k => (vget s.saf.pairs k).latched && (vget s.saf.pairs k).closed
  if ok.isEmpty then s
  else
    let s := ok.foldl (fun s k => s.onPair k fun p => { p with latched := false }) s
    mirrorStops (postDev s 0x0208 (p32 (ok.map fun k => 2 ^ k.val).sum) by_)

/-- A pair after one of its channels has changed: differing channels are timed, and a fault ends once both channels have read low
together and then high together (R265). -/
def InPair.change (p : InPair) (chanB high : Bool) (now : Nat) : InPair :=
  let p := if chanB then { p with b := high } else { p with a := high }
  let p := { p with differSince := if p.a == p.b then none else some (p.differSince.getD now) }
  if p.fault then
    if !p.a && !p.b then { p with bothLow := true }
    else if p.a && p.b && p.bothLow then { p with fault := false, bothLow := false }
    else p
  else p

/-- An acknowledge pair opens after having been closed for 100 ms to 2 s (R267). -/
def acknowledges (s : State) (p : InPair) : Bool :=
  match p.closedSince with
  | some t => decide (t + 100 * msNs ≤ s.now) && decide (s.now ≤ t + 2 * secNs)
  | none => false

/-- SAFETY_INPUT_CHANGE (R265 to R267): a channel has been stable for 2 ms. -/
def inputChange (s : State) (k : Fin 32) (chanB high : Bool) : State :=
  let func := (vget s.saf.inputs k).func
  let old := vget s.saf.pairs k
  let s := s.onPair k fun p => p.change chanB high s.now
  let new := vget s.saf.pairs k
  if old.closed && !new.closed then
    let s := wake s 7 k.val
    if func = 1 ∨ func = 2 then latchPair s k 0
    else if func = 3 then
      let s := s.onPair k fun p => { p with closedSince := none }
      if acknowledges s old then clearLatches s (List.finRange 32) none else s
    else s
  else if !old.closed && new.closed then s.onPair k fun p => { p with closedSince := some s.now }
  else s

/-- SAFETY_INPUT_CHANGE. -/
def execSafetyInputChange (k : Fin 32) (chanB high : Bool) (s : State) : Res :=
  .next (if islandOn s then inputChange s k chanB high else s)

/-- A fault of a pair: it counts as open and latched (R265, R266). -/
def pairFault (s : State) (k : Fin 32) (cause : Nat) : State :=
  if (vget s.saf.inputs k).func = 0 then s
  else latchPair (s.onPair k fun p => { p with fault := true, bothLow := false }) k cause

/-- DISCREPANCY (R265): the channels have differed for longer than DISC. -/
def execDiscrepancy (k : Fin 32) (s : State) : Res :=
  .next (match (vget s.saf.pairs k).differSince with
  | some t =>
    if islandOn s && !(vget s.saf.pairs k).fault then pairFault (s.toTick (t + (vget s.saf.inputs k).disc * msNs)) k 1 else s
  | none => s)

/-- CROSS_CIRCUIT_CHECK (R266): a channel of a dry pair does not follow its source's dropout. -/
def execCrossCircuitCheck (k : Fin 32) (_chanB : Bool) (s : State) : Res :=
  .next (if islandOn s && (vget s.saf.inputs k).dry then pairFault s k 2 else s)

/-! ### Axes (R268 to R271) -/

/-- The outlets bound to an axis. -/
def axisOutlets (s : State) (k : Fin 16) : List (Fin 128) :=
  outlets.filter fun o => (vget s.saf.binds o).axisEn && (vget s.saf.binds o).axis == k

/-- The speed limit of the SS1 envelope in 1/1000 counts/ms (R270). -/
def envelope (r : AxisRec) (v0 t : Nat) : Int :=
  if t ≤ 20 then ((v0 + r.margin) * 1000 : Nat) else ((v0 + r.margin) * 1000 : Nat) - ((r.decel * (t - 20) : Nat) : Int)

/-- The monitoring of a released axis (R269). -/
def watchReleased (s : State) (k : Fin 16) (r : AxisRec) (v : Nat) : State :=
  if r.vMax < v then axisState s k .sto 6
  else if r.vSs < v then
    let hit := (axisOutlets s k).filter fun o => (s.saf1 o).permit
    if hit.isEmpty then s else ss1Demand (hit.foldl (fun s o => evalPermit s o (some 3)) s) k 2
  else s

/-- The monitoring of an axis in SS1 (R270). -/
def watchSs1 (s : State) (k : Fin 16) (r : AxisRec) (v : Int) : State :=
  let s := s.onAxis k fun a => { a with t := a.t + 1 }
  let a := vget s.saf.axes k
  let lim := envelope r a.v0 a.t
  if lim < (v.natAbs : Int) * 1000 then
    axisState (postDev s 0x020A (p8 k.val ++ p16 (twos 16 v) ++ p16 (twos 16 (lim / 1000)))) k .sto 5
  else if a.standstill then axisState s k .sto 3
  else if r.tSs1 ≤ a.t then axisState s k .sto 4
  else s

/-- AXIS_EVALUATION (R268 to R270): `counts` is the signed count change over the last 1 ms. -/
def axisEval (s : State) (k : Fin 16) (counts : Int) : State :=
  let r := vget s.saf.axisRecs k
  let s := s.onAxis k fun a =>
    let slow := if counts.natAbs ≤ r.vSs then a.slowMs + 1 else 0
    { a with speed := counts, pos := a.pos + BitVec.ofInt 32 counts, slowMs := slow, standstill := decide (r.standstillT ≤ slow) }
  match (vget s.saf.axes k).state with
  | .sto => s
  | .released => watchReleased s k r counts.natAbs
  | .ss1 => watchSs1 s k r counts

/-- AXIS_EVALUATION. -/
def execAxisEvaluation (k : Fin 16) (counts : Int) (s : State) : Res :=
  .next (if islandOn s then axisEval s k counts else s)

/-- OUTPUT_READBACK (R271): both channels go off, the fault is latched, and the axis is in STO. -/
def execOutputReadback (k : Fin 16) (chanB stuckOn : Bool) (s : State) : Res :=
  let a := vget s.saf.axes k
  .next (if !islandOn s || a.outFault || (!stuckOn && !a.on) then s
  else
    let s := s.onAxis k fun a => { a with outFault := true }
    let s := { s with saf := { s.saf with outFaultAny := true } }
    let s := postDev s 0x020B (p8 k.val ++ p8 (b2n chanB) ++ p8 (if stuckOn then 0 else 1))
    if a.state = .sto then s else axisState s k .sto 7)

/-! ### Lockstep restarts (R264, R527) -/

/-- LOCKSTEP_MISMATCH: a restart runs, and the mismatch is counted. -/
def execLockstepMismatch (legal : Bool) (s : State) : Res :=
  .next (if !islandOn s then s
  else if legal then
    if s.saf.legalRestarting.isSome then s
    else tally { s with saf := { s.saf with legalRestarting := some s.now } } 2 0
  else if s.saf.restarting.isSome then s
  else tally { s with saf := { s.saf with restarting := some s.now } } 3 0)

/-- The end of a restart: complete with its event, or at 50 µs a lasting fault of its class. -/
def restartEnd (s : State) (legal : Bool) (since : Nat) (completed : Bool) : State :=
  let clear (s : State) : State :=
    { s with saf := if legal then { s.saf with legalRestarting := none } else { s.saf with restarting := none } }
  let late := !completed || decide (since + 50 * usNs < s.now)
  if late then makeLasting (clear (s.toTick (since + 50 * usNs))) (if legal then 2 else 3) 0
  else
    let us := (s.now - since) / usNs
    if legal then postDev (clear s) 0x1002 (p8 (b2n s.glb.side) ++ p8 s.slotNo ++ p16 us)
    else
      let s := clear s
      postDev { s with saf := { s.saf with restartAny := true } } 0x020D (p16 us)

/-- LOCKSTEP_RESTART_END. -/
def execLockstepRestartEnd (legal completed : Bool) (s : State) : Res :=
  .next (match if legal then s.saf.legalRestarting else s.saf.restarting with
  | some t => restartEnd s legal t completed
  | none => s)

/-! ### Commands (R279) -/

/-- Clear trip (R245, R252, R255). -/
def effClearTrip (c : Cmd) (s : State) : State :=
  onOutlet c s fun o =>
    match fld (c.p 0) 0 2 with
    | 0 =>
      if s.since (s.saf1 o).quietSince secNs && rdcFree s o then startRdc (started s c) o (.clear c.ring c.index)
      else complete s c 0x0A
    | 1 =>
      if (s.safRec o).isNone || (s.saf1 o).imdClear.isSome then complete s c 0x0A
      else imdUpdate ((started s c).onSaf o fun x => { x with imdClear := some (c.ring, c.index) }) o
    | 2 =>
      if (s.safRec o).isNone || (s.ctx o).checkWeld then complete s c 0x0A
      else (started s c).onCtx o fun x => { x with checkWeld := true, checkWeldCmd := some (c.ring, c.index) }
    | _ => complete s c 0x02

/-- CLEAR_TRIP. -/
def execClearTrip (c : Cmd) (s : State) : Res := .next (cmdStep [0x0200] effClearTrip c s)

/-- Run RDC test. -/
def effRunRdcTest (c : Cmd) (s : State) : State :=
  onOutlet c s fun o =>
    if s.ctxClass o ≤ 1 ∧ rdcFree s o then startRdc (started s c) o (.command c.ring c.index) else complete s c 0x0A

/-- RUN_RDC_TEST. -/
def execRunRdcTest (c : Cmd) (s : State) : Res := .next (cmdStep [0x0201] effRunRdcTest c s)

/-- Acknowledge stop (R267). -/
def effAcknowledgeStop (c : Cmd) (s : State) : State :=
  let k := fin 32 (fld (c.p 0) 0 5)
  if (vget s.saf.pairs k).closed then complete (clearLatches s [k] (some c)) c 0 else complete s c 0x0A

/-- ACKNOWLEDGE_STOP. -/
def execAcknowledgeStop (c : Cmd) (s : State) : Res := .next (cmdStep [0x0202] effAcknowledgeStop c s)

/-- Stop axis (R269). -/
def effStopAxis (c : Cmd) (s : State) : State := complete (ss1Demand s (fin 16 (fld (c.p 0) 0 4)) 0) c 0

/-- STOP_AXIS. -/
def execStopAxis (c : Cmd) (s : State) : Res := .next (cmdStep [0x0203] effStopAxis c s)

/-- A stop pair of an axis is latched, or stands open (R269, R270: an open stop pair is a standing demand, DEDUCED, log 34). -/
def axisHeld (s : State) (k : Fin 16) : Bool :=
  (List.finRange 32).any fun i =>
    let r := vget s.saf.inputs i
    r.axisMask.getLsbD k.val && (r.func == 1 || r.func == 2) && ((vget s.saf.pairs i).latched || !(vget s.saf.pairs i).closed)

/-- Release axis (R269, R272). -/
def effReleaseAxis (c : Cmd) (s : State) : State :=
  let k := fin 16 (fld (c.p 0) 0 4)
  let a := vget s.saf.axes k
  if a.state == .sto && !a.outFault && !axisHeld s k && s.saf.guardOk then
    let s := axisState s k .released 0
    complete s c 0
  else complete s c 0x0A

/-- RELEASE_AXIS. -/
def execReleaseAxis (c : Cmd) (s : State) : Res := .next (cmdStep [0x0204] effReleaseAxis c s)

/-- Clear output fault (R271): what the on-pulse test of the two channels reads back is hardware outside the model, a free value
(log 35). -/
def effClearOutputFault (c : Cmd) (s : State) : State :=
  let k := fin 16 (fld (c.p 0) 0 4)
  if !(vget s.saf.axes k).outFault then complete s c 0
  else
    let d := s.free
    if d.1.getLsbD 0 then complete (d.2.onAxis k fun a => { a with outFault := false }) c 0
    else complete d.2 c 0x0A

/-- CLEAR_OUTPUT_FAULT. -/
def execClearOutputFault (c : Cmd) (s : State) : Res := .next (cmdStep [0x0205] effClearOutputFault c s)

/-- Read insulation. -/
def effReadInsulation (c : Cmd) (s : State) : State := onOutlet c s fun o => complete s c 0 (s.saf1 o).riso

/-- READ_INSULATION. -/
def execReadInsulation (c : Cmd) (s : State) : Res := .next (cmdStep [0x0206] effReadInsulation c s)

end Sys2Proof.Machine
end

