-- ==== Sys2Proof/Machine/Firmware.lean ====
section
/-! DEFINITION. Image slots (chapter 21): headers, verification, the swap of firmware slots, trials, and the switches that a commit
mark carries out. -/

namespace Sys2Proof.Machine

/-! ### Slots (R588) -/

/-- Change a firmware slot. -/
def State.onFw (s : State) (t : Fin 3) (b : Fin 2) (f : FwSlot → FwSlot) : State :=
  { s with upd := { s.upd with fw := vmod s.upd.fw t fun v => vmod v b f } }

/-- Firmware slot `b` of target `t`. -/
def State.fwSlot (s : State) (t : Fin 3) (b : Fin 2) : FwSlot := vget (vget s.upd.fw t) b

/-- Change a configuration slot. -/
def State.onCfg (s : State) (k : Fin 4) (f : CfgSlot → CfgSlot) : State :=
  { s with upd := { s.upd with cfg := vmod s.upd.cfg k f } }

/-- Configuration slot `k`. -/
def State.cfgSlot (s : State) (k : Fin 4) : CfgSlot := vget s.upd.cfg k

/-- The slot of target `t` in a state. -/
def State.fwIn (s : State) (t : Fin 3) (st : FwState) : Option (Fin 2) :=
  (List.finRange 2).find? fun b => (s.fwSlot t b).state == st

/-- A target has an image to run (R596). -/
def State.fwRuns (s : State) (t : Fin 3) : Bool := (s.fwIn t .active).isSome || (s.fwIn t .trial).isSome

/-- The configuration slot in a state. -/
def State.cfgIn (s : State) (st : CfgState) : Option (Fin 4) :=
  (List.finRange 4).find? fun k => (s.cfgSlot k).state == st

/-- An image may be written into a slot of this state (R588). -/
def FwState.writable (x : FwState) : Bool := x == .empty || x == .writing || x == .stored || x == .bad

/-- An image may be written into a slot of this state (R588). -/
def CfgState.writable (x : CfgState) : Bool := x == .empty || x == .writing || x == .stored || x == .bad

/-- The slot of a firmware target that takes an image: the one that is being written, else one that may be written (R588). -/
def State.fwFree (s : State) (t : Fin 3) : Option (Fin 2) :=
  (s.fwIn t .writing).or ((List.finRange 2).find? fun b => (s.fwSlot t b).state.writable)

/-- Largest image of a target with its header (R588). -/
def imageRoom (t : Nat) : Nat := match t with | 0 => 0x400000 | 1 => 0x100000 | _ => 0x80000

/-! ### Headers (R589) -/

/-- VERSION of an image. -/
def imgVersion (m : List Host.Cell) : BitVec 32 := Memory.word m 4
/-- LENGTH of an image's body. -/
def imgLength (m : List Host.Cell) : Nat := (Memory.word m 8).toNat
/-- BODY_HASH of an image: SHA-256 as a string of bytes. -/
def imgHash (m : List Host.Cell) : BitVec 256 := BitVec.ofNat 256 (ofBytesBE (Memory.read m 32 32))
/-- The body of an image. -/
def imgBody (m : List Host.Cell) : List Byte := Memory.read m 256 (imgLength m)
/-- The image as it travels: header and body. -/
def imgAll (m : List Host.Cell) : List Byte := Memory.read m 0 (imgLength m + 256)
/-- CFG_MAX of an application image; CFG_FORMAT of a configuration image. -/
def imgFormat (m : List Host.Cell) : Nat := fld (Memory.word m 12) 16 8

/-- The first check of R590 that is not the signature's and fails; 0 = none. The shipping stepping is C (chapter 00). -/
def headerCause (t : Nat) (m : List Host.Cell) : Nat :=
  let w0 := Memory.word m 0
  let w3 := Memory.word m 12
  let w4 := Memory.word m 16
  if fld w0 0 16 ≠ 0x4B51 ∨ fld w0 24 8 ≠ 1 ∨ fld w4 0 16 ≠ 0x0128 ∨ !bit w4 18 then 1
  else if fld w0 16 8 ≠ t ∨ imageRoom t < imgLength m + 256 then 2
  else if fld w3 0 2 ≠ (if t < 2 then 0 else if t = 2 then 1 else 2) then 3
  else 0

/-- The public key an image is verified with (R548, R590). -/
def imageKey (s : State) (t : Nat) : Option (BitVec 256 × BitVec 256) × State :=
  let dbg := s.key.dbgKeys
  if t < 2 then (some (Config.romKey (if dbg then 6 else 5)), s)
  else if t = 2 then (some (Config.romKey (if dbg then 8 else 7)), s)
  else if dbg then (some (Config.romKey 9), s)
  else
    let r := useKey s 9
    (r.1.map fun m => (num256 m, num256 (m.drop 32)), r.2)

/-- The hash and the signature of an image hold (R589, R590 cause 4). -/
def signatureOk (m : List Host.Cell) (key : Option (BitVec 256 × BitVec 256)) : Bool :=
  match key with
  | some q =>
    sha256 (imgBody m) == imgHash m &&
      ecdsaVerify q.1 q.2 (sha256 (Memory.read m 0 64)) (BitVec.ofNat 256 (ofBytesBE (Memory.read m 64 32)))
        (BitVec.ofNat 256 (ofBytesBE (Memory.read m 96 32)))
  | none => false

/-- The cause of R590 for an image of target `t`; `floor` decides its cause 5. -/
def verifyCause (s : State) (t : Nat) (m : List Host.Cell) (low : Bool) : Nat × State :=
  let c := headerCause t m
  if c ≠ 0 then (c, s)
  else
    let k := imageKey s t
    (if !signatureOk m k.1 then 4 else if low then 5 else 0, k.2)

/-- The versions of stored configuration images are told to the other devices (R601, R604). -/
def tellVersions (s : State) : State :=
  let imgs := s.upd.cfg.toList.filterMap fun c => if c.state == .stored then some (c.version, imgHash c.bytes) else none
  (List.finRange 4).foldl (fun s p => if (vget s.tie.ports p).up then s.send (.tie p (.versions s.upd.cfgHighest imgs)) else s) s

/-- The Image stored event. -/
def storedEvent (s : State) (t slot : Nat) (v : BitVec 32) (cause : Nat) (by_ : Option Cmd) : State :=
  postDev s 0x0E00 (p8 t ++ p8 slot ++ p32 v.toNat ++ p8 cause) by_

/-- A firmware slot is verified (R590): STORED, or BAD with the first check that failed. -/
def verifyFw (s : State) (t : Fin 3) (b : Fin 2) (by_ : Option Cmd) : State × Bool :=
  let m := (s.fwSlot t b).bytes
  let v := imgVersion m
  let r := verifyCause s t.val m (decide (v.toNat < (vget s.upd.floors t).toNat))
  let s := r.2.onFw t b fun x => { x with state := if r.1 = 0 then .stored else .bad, version := v, hash := imgHash m }
  let s := if r.1 = 0 then s else { s with upd := { s.upd with verifyFail := true } }
  (storedEvent s t.val b.val v r.1 by_, r.1 == 0)

/-- A configuration slot is verified (R590). -/
def verifyCfg (s : State) (k : Fin 4) (by_ : Option Cmd) : State × Bool :=
  let m := (s.cfgSlot k).bytes
  let v := imgVersion m
  let r := verifyCause s 3 m (decide (v.toNat ≤ s.upd.cfgHighest.toNat))
  let s := r.2.onCfg k fun x => { x with
    state := if r.1 = 0 then .stored else .bad, version := v, format := BitVec.ofNat 8 (imgFormat m) }
  let s := if r.1 = 0 then s else { s with upd := { s.upd with verifyFail := true } }
  (tellVersions (storedEvent s 3 k.val v r.1 by_), r.1 == 0)

/-- The first write to a slot sets it to WRITING (R590); its former image no longer counts. -/
def FwSlot.write (x : FwSlot) (a : Nat) (l : List Byte) : FwSlot :=
  { x with state := .writing, bytes := Memory.putAll (if x.state == .writing then x.bytes else []) a l }

/-- The first write to a configuration slot sets it to WRITING. -/
def CfgSlot.write (x : CfgSlot) (a : Nat) (l : List Byte) : CfgSlot :=
  { x with state := .writing, bytes := Memory.putAll (if x.state == .writing then x.bytes else []) a l }

/-- A whole firmware image arrives from another device (R599): stored where a slot takes it. -/
def takeImage (s : State) (t : Fin 3) (bytes : List Byte) : State :=
  match s.fwFree t with
  | some b => (verifyFw (s.onFw t b fun x => { x with state := .writing, bytes := Memory.putAll [] 0 bytes }) t b none).1
  | none => s

/-! ### Activation, confirmation and fall-back (R592 to R595) -/

/-- The trial of a target. -/
def State.trial (s : State) (t : Fin 3) : Option Trial := vget s.upd.trials t

/-- Change the trial of a target. -/
def State.onTrial (s : State) (t : Fin 3) (f : Option Trial → Option Trial) : State :=
  { s with upd := { s.upd with trials := vmod s.upd.trials t f } }

/-- ACTIVE becomes PREVIOUS, and the STORED slot becomes TRIAL (R592). -/
def startTrial (s : State) (t : Fin 3) (by_ : Option Cmd) : State :=
  match s.fwIn t .stored with
  | none => s
  | some b =>
    let old := (s.fwIn t .active).map fun a => (s.fwSlot t a).version
    let s := match s.fwIn t .active with | some a => s.onFw t a fun x => { x with state := .previous } | none => s
    let s := s.onFw t b fun x => { x with state := .trial }
    let s := s.onTrial t fun _ => some ⟨b, s.now, false, 0, false, 0⟩
    postDev s 0x0E01 (p8 t.val ++ p32 (old.getD 0).toNat ++ p32 (s.fwSlot t b).version.toNat) by_

/-- A result of an application trial is told to the partner that waits for it (R593). -/
def tellTrial (s : State) (t : Fin 3) (ok : Bool) (v : BitVec 32) : State :=
  if t = 0 && s.pairLinkUp then s.send (.tie 3 (.fwResult ok v)) else s

/-- The slots are swapped back (R595): PREVIOUS runs again as ACTIVE. The failed slot of a trial becomes BAD; by hand, ACTIVE becomes
PREVIOUS. A failed metrology or safety switch also counts one lockstep mismatch. -/
def fallBack (s : State) (t : Fin 3) (cause : Nat) (by_ : Option Cmd) : State :=
  let bad := (s.fwIn t .trial).or (s.fwIn t .active)
  let wasTrial := (s.fwIn t .trial).isSome
  let v := (bad.map fun b => (s.fwSlot t b).version).getD 0
  let prev := s.fwIn t .previous
  let s := match bad with
    | some b => s.onFw t b fun x => { x with state := if cause = 4 then .previous else .bad }
    | none => s
  let s := match prev with | some p => s.onFw t p fun x => { x with state := .active } | none => s
  let s := s.onTrial t fun _ => none
  let s := if cause = 4 then s else { s with upd := { s.upd with fellBack := true } }
  let s := postDev s 0x0E03 (p8 t.val ++ p32 v.toNat ++ p8 cause) by_
  let s := if wasTrial then tellTrial s t false v else s
  if cause = 4 || t = 0 then s else tally s (if t = 1 then 2 else 3) 0

/-- A trial is confirmed (R594): the floor rises where the image asks for it (R591). -/
def confirmTrial (s : State) (t : Fin 3) (x : Trial) : State :=
  let slot := s.fwSlot t x.slot
  let raise := bit (Memory.word slot.bytes 12) 2
  let s := s.onFw t x.slot fun y => { y with state := .active }
  let s := s.onTrial t fun _ => none
  let s := if raise then { s with upd := { s.upd with floors := vmod s.upd.floors t fun _ => slot.version } } else s
  tellTrial (postDev s 0x0E02 (p8 t.val ++ p32 slot.version.toNat ++ p8 (b2n raise))) t true slot.version

/-- A switch of an island's firmware (R592): its lockstep restart into the other image. -/
def islandRestart (s : State) (t : Fin 3) : State :=
  { s with saf := if t = 1 then { s.saf with legalRestarting := some s.now } else { s.saf with restarting := some s.now } }

/-- Change the switch that waits for a target. -/
def State.onSwitch (s : State) (t : Fin 3) (x : Option SwitchDue) : State :=
  { s with upd := { s.upd with switchDue := vmod s.upd.switchDue t fun _ => x } }

/-- The swap of a switch that is due, and the completion of its command. -/
def doSwitch (s : State) (t : Fin 3) (x : SwitchDue) : State :=
  let s := s.onSwitch t none
  let cmd := x.cmd.bind fun k => (s.cmdRec k.1 k.2).map (·.cmd)
  let s := match x.fallBack with
    | none => startTrial s t cmd
    | some c => fallBack s t c cmd
  match cmd with | some c => complete s c 0 | none => s

/-- What a commit mark does for the islands' firmware (R592, R594): a commit counts toward a metrology trial, and switches that wait
for the mark are made. -/
def switchAtMark (s : State) (good : Bool) : State :=
  let s := if good then s.onTrial 1 fun t => t.map fun x => { x with commits := x.commits + 1 } else s
  ([1, 2] : List (Fin 3)).foldl (fun s t => match vget s.upd.switchDue t with
    | some x => islandRestart (doSwitch s t x) t
    | none => s) s

/-! ### Configuration activations (R601, R604) -/

/-- An activation pends, and its mark is set; where no shared mark is free, it is refused and counted (R73). -/
def pendConfig (s : State) (p : CfgPend) : State :=
  if s.markFree then
    let s := if p.yoyo then s else s.onCfg p.slot fun x => { x with state := .pending }
    ({ s with upd := { s.upd with cfgPend := some p } }.setMark .config p.mark p.slot.val).1
  else refuseMark s .config

/-- A message that every device of the cluster and the partner cluster gets is passed on to the ports it did not come from. -/
def passFrom (s : State) (p : Fin 4) (m : TieMsg) : State :=
  (List.finRange 4).foldl (fun s q => if q != p && (vget s.tie.ports q).up then s.send (.tie q m) else s) s

/-- What a tie frame of chapter 21 does: stored images, versions, and accepted activations of the other devices. -/
def takeUpd (s : State) (p : Fin 4) (m : TieMsg) : State :=
  match m with
  | .image t bytes =>
    let s := if h : t < 3 then takeImage s ⟨t, h⟩ bytes else s
    if p = 3 then passFrom s p m else s
  | .versions high imgs => { s with tie := { s.tie with ports := vmod s.tie.ports p fun x => { x with highest := high, images := imgs } } }
  | .config mark version hash source yoyo auto =>
    let st : CfgState := if yoyo then .previous else .stored
    if s.upd.cfgPend.isSome then s
    else match (List.finRange 4).find? fun k => (s.cfgSlot k).state == st && (imgHash (s.cfgSlot k).bytes == hash) with
    | some k =>
      passFrom (pendConfig s ⟨mark, k, version, source, yoyo, auto⟩) p m
    | none => s
  | .configDrop =>
    match s.upd.cfgPend with
    | some x =>
      let s := if x.yoyo then s else s.onCfg x.slot fun c => { c with state := .stored }
      passFrom ({ s with upd := { s.upd with cfgPend := none } }.dropMark .config x.slot.val) p m
    | none => s
  | _ => s

end Sys2Proof.Machine
end

