-- ==== Sys2Proof/Machine/StringFrames.lean ====
section
/-! DEFINITION. The frames of a string (chapter 04): their layout in characters, the CRC and the mailbox slots. -/

namespace Sys2Proof.Machine

/-! ### Packing (R95) -/

/-- The bits of a list of characters, least significant first. -/
def charBits (l : List Byte) : List Bool := l.flatMap fun b => (List.range 8).map b.getLsbD

/-- Characters from bits, least significant first. -/
def bitChars : List Bool → List Byte
  | a :: b :: c :: d :: e :: f :: g :: h :: t => BitVec.ofNat 8 (ofBits [a, b, c, d, e, f, g, h]) :: bitChars t
  | [] => []
  | t => [BitVec.ofNat 8 (ofBits t)]

/-- The field of `n` characters from character `i` of a frame, given as its characters 1 to 198. -/
def charsAt (l : List Byte) (i n : Nat) : List Byte := (l.drop (i - 1)).take n

/-- The number in `n` characters from character `i`. -/
def numAt (l : List Byte) (i n : Nat) : Nat := ofBytes (charsAt l i n)

/-- `k` samples of `w` bits each, packed oldest first. -/
def samplesIn (w k : Nat) (l : List Byte) : List (BitVec w) :=
  (List.range k).map fun i => BitVec.ofNat w (ofBytes l / 2 ^ (w * i))

/-- Samples of `w` bits packed oldest first into `n` characters. -/
def packSamples {w : Nat} (n : Nat) (l : List (BitVec w)) : List Byte :=
  leBytes n (l.foldr (fun b a => b.toNat + 2 ^ w * a) 0)

/-- Green PHY samples of a frame: 63 where its number is even, 62 where it is odd (R98, R102). -/
def phySamples (no : BitVec 16) : Nat := if no.getLsbD 0 then 62 else 63

/-! ### The mailbox (R105) -/

/-- An empty slot. -/
def emptySlot : MbSlot := ⟨0, false, false, 0, []⟩

/-- The 16 characters of a slot. -/
def slotChars (x : MbSlot) : List Byte :=
  x.typ :: BitVec.ofNat 8 (x.seg.toNat + 64 * b2n x.last + 128 * b2n x.first) :: (x.payload ++ List.replicate 14 0#8).take 14

/-- A slot from its 16 characters. -/
def slotOf (l : List Byte) : MbSlot :=
  let c := l.getD 1 0
  ⟨l.getD 0 0, c.getLsbD 7, c.getLsbD 6, c.truncate 6, (l.drop 2).take 14⟩

/-- The slots a message fills: 1 to 64, SEG from 0 upwards. -/
def msgSlots (m : MbMsg) : List MbSlot :=
  let n := max 1 (min 64 ((m.payload.length + 13) / 14))
  (List.range n).map fun i => ⟨m.typ, i == 0, i + 1 == n, BitVec.ofNat 6 i, (m.payload.drop (14 * i)).take 14⟩

/-- A slot continues the message coming in, or starts one. A message with a missing or repeated SEG is discarded whole. The second value
is the message that is now complete. -/
def takeSlot (cur : Option (Byte × Nat × List Byte)) (x : MbSlot) : Option (Byte × Nat × List Byte) × Option MbMsg :=
  if x.typ = 0 then (cur, none)
  else
    let so : Option (List Byte) :=
      if x.first then (if x.seg = 0 then some [] else none)
      else match cur with
        | some (t, n, p) => if t = x.typ ∧ n = x.seg.toNat then some p else none
        | none => none
    match so with
    | none => (none, none)
    | some p => if x.last then (none, some ⟨x.typ, p ++ x.payload⟩) else (some (x.typ, x.seg.toNat + 1, p ++ x.payload), none)

/-! ### Uplink frames (R96, R98, R101) -/

/-- The STATUS word from its 16 characters (R101). -/
def statusOf (l : List Byte) : StatusWord :=
  let b (i k : Nat) : Bool := (l.getD i 0).getLsbD k
  { contMain := b 0 0, mainFb := b 0 1, contAux := b 0 2, auxFb := b 0 3, lock := b 0 4, lockFb := b 0 5, permitOk := b 0 6
    holding := b 0 7, slack := (l.getD 1 0).truncate 3, fault := (l.getD 1 0).extractLsb' 3 5, ppRaw := l.getD 2 0
    temp := BitVec.ofNat 16 (ofBytes ((l.drop 3).take 2)), iEst := BitVec.ofNat 32 (ofBytes ((l.drop 5).take 4))
    wdRemain := BitVec.ofNat 16 (ofBytes ((l.drop 9).take 2)), portAUp := b 11 0, portBUp := b 11 1, condPort := b 11 2, ping := b 11 3 }

/-- The bits of the 8 lanes at each of the 10 modulator clocks of MOD, oldest first: lane l stands in bits 10l to 10l + 9. -/
def modClocks (l : List Byte) : List Byte :=
  (List.range 10).map fun i => BitVec.ofNat 8 (ofBits ((List.range 8).map fun k => (ofBytes l).testBit (10 * k + i)))

/-- The CRC of characters 1 to 194 stands in characters 195 to 198, least significant first (R94). -/
def crcGood (l : List Byte) : Bool := l.length == 198 && (crc32 (l.take 194)).toNat == numAt l 195 4

/-- A frame passes the checks of R96: its CRC, its EOF, and no code violation. -/
def frameGood (l : List Byte) (eof violation : Bool) : Bool := crcGood l && eof && !violation

/-- The fields of an uplink frame from its characters 1 to 198 (R98). -/
def uplinkOf (l : List Byte) : Uplink :=
  let no := BitVec.ofNat 16 (numAt l 1 2)
  let flags : Byte := (charsAt l 7 1).headD 0
  let n := flags.toNat / 4 % 8
  { frameNo := no, epoch := BitVec.ofNat 32 (numAt l 3 4), port := flags.getLsbD 0, noCond := flags.getLsbD 1
    rdrCount := BitVec.ofNat 3 n, clocks := modClocks (charsAt l 8 10), gpr := samplesIn 10 (phySamples no) (charsAt l 18 79)
    pilot := BitVec.ofNat 12 (numAt l 97 2), rdr := samplesIn 24 (min 4 n) (charsAt l 99 12)
    status := statusOf (charsAt l 111 16), mbx := slotOf (charsAt l 127 16) }

/-! ### Downlink frames (R102) -/

/-- Characters 1 to 194 of a downlink frame. -/
def frameBody (f : Frame) : List Byte :=
  leBytes 2 f.frameNo.toNat ++ leBytes 4 f.epoch.toNat ++ p8 (b2n f.listen + 2 * b2n f.hold + 4 * b2n f.side)
    ++ packSamples 79 f.gpt ++ leBytes 2 (f.duty.toNat + 1024 * f.mode.toNat) ++ p8 f.out.toNat ++ leBytes 2 f.permit.toNat
    ++ leBytes 2 (f.tone.toNat + 256 * b2n f.toneEn) ++ leBytes 2 f.rdrCmd.toNat ++ slotChars f.mbx ++ List.replicate 83 0#8

/-- A frame with the CRC of its characters (R94). -/
def sealFrame (f : Frame) : Frame := { f with crc := crc32 (frameBody f) }

/-- Characters 1 to 198 of a frame as it leaves; SOF stands before them and EOF after them. -/
def frameChars (f : Frame) : List Byte := frameBody f ++ leBytes 4 f.crc.toNat

end Sys2Proof.Machine
end

