-- ==== Sys2Proof/Machine/Strings.lean ====
section
/-! DEFINITION. Strings and outlet front-ends (chapter 04): training, frames in both directions, attach, watchdog and slack
as the device sees them, with the tone chips of chapter 11 and the outlet guard test of chapter 08. -/

namespace Sys2Proof.Machine

/-- A lane of this device is in training or up: it is enabled and not in DOWN. -/
def laneEvent (s : State) (l : Fin 128) (code : Nat) (payload : List Byte) : State := postOut s code l payload

/-- The port of this device at a front-end: A for side 0, B for side 1 (R32). -/
def State.portNo (s : State) : Nat := b2n s.glb.side

/-! ### Training (R90, R91) -/

/-- Training starts at step 1 (R90): an enabled lane sends TS1, and stays in DOWN until it has character lock (R89). -/
def startTraining (s : State) (l : Fin 128) : State :=
  if (s.lane l).en then (s.onLane l fun x => { x with trainStep := 1 }).send (.setWord l 0)
  else s.onLane l fun x => { x with trainStep := 0 }

/-- A lane goes down (R91): the string-down event is posted, for a host retrain in every link state, a running attach ends, and training
starts again where the lane is enabled. -/
def laneDown (s : State) (l : Fin 128) (cause : Nat) : State :=
  let s := if (s.lane l).link = .down ∧ cause ≠ 4 then s else laneEvent s l 0x0181 (p8 cause)
  let s := s.onLane l fun x => { x with
    attach := .none, mbWait := none, mbOut := [], mbIn := none, mbRx := none, upNo := none, missed := [], crcFails := []
    foreignSince := none }
  startTraining (setLink s l .down) l

/-- The lane's fields of STR_LANE_CTL are in range (R123). -/
def laneCtlOk (v : Word) : Bool :=
  let wd := fld v 0 16
  let oc := fld v 18 10
  (wd == 0 || (decide (5 ≤ wd) && decide (wd ≤ 500))) && (oc == 0 || (decide (20 ≤ oc) && decide (oc ≤ 500)))

/-- The fields of STR_LANE_CTL take their values: EN starts the training or takes the lane down with cause 5, and RETRAIN of an enabled
lane takes it down with cause 4 (R90, R91). -/
def setLaneCtl (s : State) (l : Fin 128) (wd oc : Nat) (on retrain : Bool) : State :=
  let was := (s.lane l).en
  let s := s.onLane l fun x => { x with wdWindow := wd, en := on, openConfirm := oc }
  if !on then (if was then laneDown s l 5 else s)
  else if !was then startTraining s l
  else if retrain then laneDown s l 4
  else s

/-- A write of STR_LANE_CTL (R91, R123): one with a field outside its range is ignored whole. -/
def writeLaneCtl (s : State) (l : Fin 128) (v : Word) : State :=
  if laneCtlOk v then setLaneCtl s l (fld v 0 16) (fld v 18 10) (bit v 16) (bit v 17) else s

/-- RETRAIN: the other fields of STR_LANE_CTL as they stand. -/
def execRetrain (l : Fin 128) (s : State) : Res :=
  .next (viaBar s 4 fun s => setLaneCtl s l (s.lane l).wdWindow (s.lane l).openConfirm (s.lane l).en true)

/-- LANE_ENABLE: the other fields of STR_LANE_CTL as they stand. -/
def execLaneEnable (l : Fin 128) (s : State) : Res :=
  .next (viaBar s 4 fun s => setLaneCtl s l (s.lane l).wdWindow (s.lane l).openConfirm true false)

/-- LANE_DISABLE: the other fields of STR_LANE_CTL as they stand. -/
def execLaneDisable (l : Fin 128) (s : State) : Res :=
  .next (viaBar s 4 fun s => setLaneCtl s l (s.lane l).wdWindow (s.lane l).openConfirm false false)

/-- TRAINING_SET_RECEIVED (R90): 64 consecutive TS1 with character lock, after which TS2 is sent, or 8 consecutive TS2, after which one
ECHO set leaves. -/
def execTrainingSetReceived (l : Fin 128) (ts2 : Bool) (s : State) : Res :=
  let x := s.lane l
  .next (if !s.clocksRun then s
  else if !ts2 && x.trainStep == 1 then
    (setLink (s.onLane l fun y => { y with trainStep := 2 }) l .train).send (.setWord l 1)
  else if ts2 && x.trainStep == 2 && x.link == .train then (s.onLane l fun y => { y with trainStep := 3 }).send (.setWord l 2)
  else s)

/-- ECHO_RECEIVED (R90): RTT is the round trip less 64 characters; the register holds 12 bits, and a longer one reads 4,095 (DESIGN
CHOICE, log 139). The lane enters IDLE. -/
def execEchoReceived (l : Fin 128) (rtt : Nat) (s : State) : Res :=
  let x := s.lane l
  .next (if s.clocksRun && x.trainStep == 3 && x.link == .train then
    (setLink s l .idle).onLane l fun y => { y with
      trainStep := 4, rtt := min rtt 4095, lastFrameAt := s.now, missed := [], crcFails := [], upNo := none, attach := .none }
  else s)

/-- LINK_FAULT (R91): 0 lock lost, 1 code violations, 2 CRC burst, 3 no SOF. -/
def execLinkFault (l : Fin 128) (cause : Fin 4) (s : State) : Res :=
  .next (if s.clocksRun && (s.lane l).link != .down then
    laneDown (s.onLane l fun x => { x with crcBurst := x.crcBurst || cause == 2 }) l cause.val
  else s)

/-! ### Missing frames (R96, R239, R339) -/

/-- A missing frame removes its bits and its pilot sample (R96, R214, R339). -/
def gapFrame (s : State) (l : Fin 128) : State :=
  let s := if (s.lane l).link.measured then clocksIn s l (List.replicate 10 none) else s
  let s := s.onMet l fun m => { m with missInCycle := m.missInCycle + 1 }
  s.onCtx l fun c => { c with pilots := (none :: c.pilots).take 1000 }

/-- A discarded frame (R96): counted, marked as a gap for the legal island, and with 8 within 1 ms the outlet's measurement is
lost (R239), with 16 that fail their CRC the lane retrains (R91). -/
def missFrame (s : State) (l : Fin 128) (crc : Bool) : State :=
  let recent (t : List Nat) : List Nat := s.now :: t.filter fun t => decide (s.now < t + msNs)
  let s := s.onLane l fun x => { x with
    crcErr := x.crcErr + 1, missed := recent x.missed, lastMissAt := s.now, upNo := x.upNo.map (· + 1)
    crcFails := if crc then recent x.crcFails else x.crcFails }
  let s := gapFrame s l
  let n := (s.lane l).missed.length
  let s := if 8 ≤ n ∧ !(s.saf1 l).measLost then
      evalPermit (postOut (s.onSaf l fun x => { x with measLost := true }) 0x020F l (p16 n)) l
    else s
  if crc ∧ 16 ≤ (s.lane l).crcFails.length then laneDown (s.onLane l fun x => { x with crcBurst := true }) l 2 else s

/-- LINK_RESTORED (R239): 100 ms have passed with no missing frame. -/
def execLinkRestored (o : Fin 128) (s : State) : Res :=
  .next (if islandRuns s && (s.saf1 o).measLost then
    let s := s.toTick ((s.lane o).lastMissAt + 100 * msNs)
    evalPermit (s.onSaf o fun x => { x with measLost := false }) o
  else s)
where
  /-- The island's clock runs. -/
  islandRuns (s : State) : Bool := s.clocksRun

/-- LANE_SILENT (R339): 20 ms have passed with no uplink frame. -/
def execLaneSilent (l : Fin 128) (s : State) : Res :=
  .next (if s.clocksRun && (s.lane l).link.measured && !(s.met1 l).silent then
    silenceStart (s.toTick ((s.lane l).lastFrameAt + 20 * msNs)) l
  else s)

/-! ### Attach (R106 to R109, R113) -/

/-- The slots of a mailbox message wait for the next downlink frames (R105). -/
def mailbox (s : State) (l : Fin 128) (m : MbMsg) (answer : Bool) : State :=
  s.onLane l fun x =>
    let x := { x with mbOut := x.mbOut ++ msgSlots m }
    if answer then { x with mbWait := some m, mbRepeats := 0, mbSentAt := s.now } else x

/-- The attach is refused (R109). -/
def refuseAttach (s : State) (l : Fin 128) (cause : Nat) : State :=
  let times := s.now :: (s.lane l).refusals.filter fun t => decide (s.now < t + 10 * secNs)
  let full := decide (8 ≤ times.length)
  let s := s.onLane l fun x => { x with
    attach := .none, mbWait := none, mbOut := [], attachFail := true
    refusals := if full then [] else times
    holdoffUntil := if full then some (s.now + 10 * secNs) else x.holdoffUntil }
  let s := laneEvent { s with str := { s.str with anyRefused := true } } l 0x0182 (p8 cause)
  setLink s l .idle

/-- A new epoch of an outlet, recorded in keeping memory and mirrored to the partner, by either side, before it is used (R113, R517). -/
def newEpoch (s : State) (o : Fin 128) : BitVec 32 × State :=
  let e := vget s.keep.epochs o + 1
  let s := { s with keep := { s.keep with epochs := vmod s.keep.epochs o fun _ => e } }
  (e, if s.tie.role != .alone && s.pairLinkUp then s.send (.tie 3 (.mirror 1 [o.val, e.toNat])) else s)

/-- The payload of a message of a type that has come in on a lane, and the lane without it (R105, R106). -/
def takeMsg (s : State) (l : Fin 128) (typ : Byte) : Option (List Byte) × State :=
  match (s.lane l).mbRx with
  | some m => if m.typ = typ then (some m.payload, s.onLane l fun x => { x with mbRx := none }) else (none, s)
  | none => (none, s)

/-- A HELLO (R106, R108 step 1). Without the site key the lane stays in IDLE (R538), and while the random generator is at fault no
challenge can be drawn (R547). A repeated HELLO starts the attach again. -/
def hello (s : State) (l : Fin 128) (m : List Byte) : State :=
  let x := s.lane l
  let may := s.glb.phase == .running && !x.stopped && (x.link == .idle || x.link == .attach || x.link == .slack)
    && match x.holdoffUntil with | some t => decide (t ≤ s.now) | none => true
  let nf : BitVec 128 := BitVec.ofNat 128 (ofBytes ((m.drop 11).take 16))
  if !may || decide (m.length < 27) then s
  else if m.getD 9 0 ≠ 1 then refuseAttach (setLink s l .attach) l 0
  else if (s.keySlot 0).state != .valid || s.key.dbgKeys || !s.key.rngOk then s
  else
    let d := (setLink s l .attach).draw
    let e := newEpoch d.2 l
    let nd : BitVec 128 := d.1.truncate 128
    let s := e.2.onLane l fun x => { x with
      attach := .challenged, attachAt := s.now, nf := nf, nd := nd, serial := BitVec.ofNat 64 (ofBytes (m.take 8))
      lanesPresent := m.getD 10 0, offered := e.1, holdoffUntil := none }
    mailbox s l ⟨2, leBytes 16 nd.toNat ++ leBytes 4 e.1.toNat⟩ true

/-- HELLO_RECEIVED (R108 step 1): a HELLO stands complete in the lane's mailbox. -/
def execHelloReceived (l : Fin 128) (s : State) : Res :=
  let m := takeMsg s l 1
  .next (match m.1 with
  | some p => hello m.2 l p
  | none => s)

/-- The session key of a port (R107), from the site key. The numbers in the inputs of R107, R352 and R353 are little-endian, as R11 has
every structure, and a block is its bytes in order, the first the most significant (DEDUCED, log 4). -/
def sessionKey (kSite : BitVec 128) (x : Lane) (port : Nat) : BitVec 128 :=
  let kfe := aesEncrypt kSite (block128 (leBytes 8 x.serial.toNat ++ leBytes 8 1))
  aesCmac kfe (leBytes 16 x.nd.toNat ++ leBytes 16 x.nf.toNat ++ leBytes 4 x.offered.toNat ++ p8 port)

/-- The first 64 bits of a MAC of R107 over a code and some bytes; as a field of a message its bytes stand in their order. -/
def mac64 (ks : BitVec 128) (code : Nat) (l : List Byte) : BitVec 64 :=
  BitVec.ofNat 64 (ofBytes ((blockBytes (aesCmac ks (p8 code ++ l))).take 8))

/-- MAC_F or MAC_D of R107, over little-endian nonces (DEDUCED, log 4). -/
def attachMac (ks : BitVec 128) (code : Nat) (x : Lane) : BitVec 64 := mac64 ks code (leBytes 16 x.nd.toNat ++ leBytes 16 x.nf.toNat)

/-- PARAM of a lane (R106, R115): its own values, or the defaults. -/
def paramOf (s : State) (l : Fin 128) : Nat × Nat :=
  let x := s.lane l
  (if x.wdWindow = 0 then s.cfg.wdDefault else x.wdWindow, if x.openConfirm = 0 then s.cfg.openDefault else x.openConfirm)

/-- MAC_F is checked (R108 steps 2 and 3): CONFIRM and PARAM answer it. -/
def proof (s : State) (l : Fin 128) (mac : BitVec 64) : State :=
  let k := useKey s 0
  let s := k.2
  match k.1 with
  | none => setLink (s.onLane l fun x => { x with attach := .none, mbWait := none }) l .idle
  | some m =>
    let ks := sessionKey (block128 m) (s.lane l) s.portNo
    if attachMac ks 1 (s.lane l) = mac then
      let p := paramOf s l
      let d := attachMac ks 2 (s.lane l)
      let s := s.onLane l fun x => { x with attach := .confirmed, ks := ks, paramWd := p.1, paramOpen := p.2 }
      mailbox (mailbox s l ⟨4, leBytes 8 d.toNat⟩ false) l ⟨5, p16 p.1 ++ p16 p.2⟩ true
    else refuseAttach (tamper s 6 l.val (some l)) l 1

/-- PROOF_RECEIVED (R108): a PROOF stands complete in the lane's mailbox. -/
def execProofReceived (l : Fin 128) (s : State) : Res :=
  let m := takeMsg s l 3
  .next (match m.1 with
  | some p => if m.2.glb.phase == .running && (m.2.lane l).attach == .challenged then proof m.2 l (BitVec.ofNat 64 (ofBytes (p.take 8))) else m.2
  | none => s)

/-- EPOCH_CLAIM (R106, R107): it rides in the next frame, or after the slots that wait before it; EPOCH and FRAME_NO are little-endian in
its MAC (DEDUCED, log 4). The epoch is the lane's conductor epoch from here on. -/
def sendClaim (s : State) (l : Fin 128) : State :=
  let x := s.lane l
  let no : BitVec 16 := x.downNo + BitVec.ofNat 16 x.mbOut.length
  let m := mac64 x.ks 7 (leBytes 4 x.offered.toNat ++ leBytes 2 no.toNat)
  (mailbox s l ⟨7, leBytes 4 x.offered.toNat ++ leBytes 2 no.toNat ++ leBytes 8 m.toNat⟩ false).onLane l fun x => { x with
    downWraps := 0, condEpoch := x.offered }

/-- The tone key of an attach on the conductor port, mirrored with the epoch (R352); its nonces are little-endian (DEDUCED, log 4). -/
def newTone (s : State) (l : Fin 128) : State :=
  let x := s.lane l
  let k := aesCmac x.ks (p8 0x10 ++ leBytes 16 x.nd.toNat ++ leBytes 16 x.nf.toNat)
  (s.onMet l fun m => { m with toneKey := k, toneIndex := 0 }).mirror 1 [l.val, x.offered.toNat, k.toNat, 0]

/-- The outlet guard test starts at an attach (R273). -/
def startGuard (s : State) (o : Fin 128) : State :=
  let s := s.onSaf o fun x => { x with guardOk := false, guardStep := 1, guardSent := false, guardAt := s.now }
  evalPermit s o

/-- The lane is attached (R108 step 4): UP on an active device, LISTEN on a standby. -/
def laneUp (s : State) (l : Fin 128) : State :=
  let active := s.tie.role == .alone || s.tie.role == .active
  let s := s.onLane l fun x => { x with attach := .none, mbWait := none, foreignSince := none }
  let s := setLink s l (if active then .up else .listen)
  let s := if active then newTone (sendClaim s l) l else s
  let x := s.lane l
  let s := laneEvent s l 0x0180 (p32 x.offered.toNat ++ p64 x.serial.toNat ++ p8 s.portNo)
  let s := attachMeas s l
  if active then
    let again := x.wasUp
    let s := startGuard (s.onLane l fun x => { x with wasUp := true }) l
    if again then queueTrig s l 8 4 else s
  else s

/-- PARAM_ACK_RECEIVED (R108 step 4): a PARAM_ACK stands complete in the lane's mailbox. -/
def execParamAckReceived (l : Fin 128) (s : State) : Res :=
  let m := takeMsg s l 6
  .next (match m.1 with
  | some p =>
    let s := m.2
    let x := s.lane l
    if !(s.glb.phase == .running) || x.attach != .confirmed then s
    else if ofBytes (p.take 2) = x.paramWd ∧ ofBytes ((p.drop 2).take 2) = x.paramOpen then laneUp s l
    else refuseAttach s l 2
  | none => s)

/-- ATTACH_HOLDOFF_END (R109). -/
def execAttachHoldoffEnd (l : Fin 128) (s : State) : Res :=
  .next (match (s.lane l).holdoffUntil with
  | some t => if s.clocksRun then (s.toTick t).onLane l fun x => { x with holdoffUntil := none } else s
  | none => s)

/-- MAILBOX_REPEAT (R105): the message is sent again 100 µs later; after the eighth repeat the attach is abandoned (R113). -/
def execMailboxRepeat (l : Fin 128) (s : State) : Res :=
  let x := s.lane l
  .next (match x.mbWait with
  | some m =>
    if !(s.glb.phase == .running) then s
    else
      let s := s.toTick (x.mbSentAt + 100 * usNs)
      if x.mbRepeats < 8 then
        s.onLane l fun y => { y with mbOut := y.mbOut ++ msgSlots m, mbRepeats := y.mbRepeats + 1, mbSentAt := s.now }
      else setLink (s.onLane l fun y => { y with attach := .none, mbWait := none }) l .idle
  | none => s)

/-! ### Downlink frame (R102, R104, R256, R264, R352 to R354) -/

/-- Bit `l` of byte `n` of a block, the first byte the most significant (DEDUCED, log 4). -/
def blockBit (b : BitVec 128) (n l : Nat) : Bool := b.getLsbD (8 * (15 - n % 16) + l)

/-- The plain chips of the 8 lanes at a tone index (R352); the number in the block is little-endian (DEDUCED, log 4). -/
def plainChips (key : BitVec 128) (u : Nat) : BitVec 8 :=
  let b := aesEncrypt key (block128 (leBytes 16 (u / 16)))
  BitVec.ofNat 8 (ofBits ((List.range 8).map (blockBit b u)))

/-- TONE[7:0] of a frame: the plain chips under the keystream of the conductor port (R353); the number in the block is little-endian
(DEDUCED, log 4). -/
def toneChips (m : MetOut) (x : Lane) : BitVec 8 :=
  let ext := x.downNo.toNat + 65536 * x.downWraps
  let b := aesEncrypt x.ks (block128 (0x11#8 :: leBytes 15 (ext / 16)))
  plainChips m.toneKey m.toneIndex ^^^ BitVec.ofNat 8 (ofBits ((List.range 8).map (blockBit b ext)))

/-- The low bits of the word that leaves in this frame (R263, R264, R273): during a restart of the island the sentinel repeats
its last word for 50 µs; where the word asserts a permit that its allowance does not give, it sends 0. In the first two steps of
the guard test the sentinel lets the test's words pass (DEDUCED, log 38). The second value says that it intervened. -/
def frameBits (s : State) (o : Fin 128) (disagree : BitVec 13) : Nat × Bool :=
  let x := s.saf1 o
  let want := match s.saf.restarting with
    | some t => if s.since t (50 * usNs) then 0 else x.lastWord.toNat % 64
    | none => if x.guardStep = 2 then b2n !x.guardSent else permitBits s o
  if disagree ≠ 0 ∧ want % 8 ≠ 0 ∧ x.guardStep ≠ 1 ∧ x.guardStep ≠ 2 then (0, s.saf.restarting.isNone) else (want, false)

/-- The permit word of a frame (R260); the guard test's second step sends one with INV wrong. -/
def permitWord (bits : Nat) (wrong : Bool) (no : BitVec 16) : BitVec 16 :=
  BitVec.ofNat 16 (bits + 64 * (if wrong then bits else 63 - bits) + 4096 * (no.toNat % 16))

/-- A sentinel intervention (R263). -/
def intervene (s : State) (o : Fin 128) (disagree : BitVec 13) : State :=
  let s := s.onSaf o fun x => { x with interventions := x.interventions + 1 }
  let s := { s with saf := { s.saf with sentinelAny := true } }
  let was := s.lastingAt 4 0
  let s := postOut s 0x020C o (p16 disagree.toNat)
  let id := s.rng.posted
  let s := tally s 4 0
  let s := if s.lastingAt 4 0 && !was then markRecord s id fun r => { r with perm := true } else s
  if s.lastingAt 4 0 then forAll outlets (fun s o => evalPermit s o) s else s

/-- What a frame that will be obeyed applies at the front-end, and when (R104, R206, R213, R216, R223, R273, R328). -/
def applied (s : State) (o : Fin 128) : State :=
  let at_ := s.now + 3000 + (s.lane o).rtt / 2
  let fresh (k : Contactor) : Bool := match k.watch with | some w => w.appliedAt.isNone | none => false
  let atOnce (k : Contactor) : Bool := match k.watch with | some w => w.appliedAt.isNone && w.zp != 1 | none => false
  let mark (k : Contactor) : Contactor := if fresh k then { k with watch := k.watch.map fun w => { w with appliedAt := some at_ } } else k
  let c := s.ctx o
  let s := if atOnce c.main || atOnce c.aux then
      let t := ((s.ctxProfile o).map (·.prof.contTimeout)).getD 0
      s.onSta o fun x => { x with quietUntil := some (max (x.quietUntil.getD 0) (at_ + t * msNs)) }
    else s
  let s := s.onCtx o fun c => { c with
    main := mark c.main, aux := mark c.aux
    modeAt := if c.modeDue then at_ else c.modeAt, modeDue := false
    awaitApply := c.awaitApply.map fun w => if w.due.isNone then { w with due := some at_ } else w }
  s.onSaf o fun x => if x.guardStep ≠ 0 ∧ !x.guardSent then { x with guardSent := true, guardAt := at_ } else x

/-- PING_EN (R453). -/
def pingEn (s : State) (o : Fin 128) : Bool :=
  let a := s.aut1 o
  !(s.aut.engines.toList.any fun e => match e with | some t => t.outlet == o | none => false)
    && s.aut.en && ((a.armed && !(s.ctx o).authorised) || a.tagEn)

/-- RDR_CMD (R102): the carrier is on for the outlet's transaction, unmodulated in the harvest wait (R455); the tag protocol modulates with
a depth of 10 % (R467), and the chips are those of ISO/IEC 14443 (log 39). PING_EN follows R453. -/
def rdrCmd (s : State) (o : Fin 128) : BitVec 7 :=
  let ping := 64 * b2n (pingEn s o)
  match (s.aut.engines.toList.filterMap id).find? fun t => t.outlet == o with
  | none => BitVec.ofNat 7 ping
  | some t =>
    let c := Config.rdrChips o s.now
    let n := min 2 c.2.1.toNat
    BitVec.ofNat 7 (1 + ping + match t.step with
      | .harvest => 0
      | .poll | .exchange => 2 * b2n c.1 + 4 * n + 16 * c.2.2.toNat
      | _ => 4 * n + 16 * c.2.2.toNat)

/-- The frame that leaves next on a lane (R102): in IDLE, ATTACH and LISTEN it carries LISTEN = 1 and is not to be obeyed (R90, R110).
`bits` is the low part of the permit word, and `wrong` the guard test's second step. -/
def nextFrame (s : State) (l : Fin 128) (bits : Nat) (wrong : Bool) : Frame :=
  let x := s.lane l
  let obey := x.link == .up || x.link == .slack
  let c := s.ctx l
  let tone := obey && !(s.met1 l).toneOff
  sealFrame {
    frameNo := x.downNo, epoch := x.condEpoch, listen := !obey, hold := x.hold, side := s.glb.side, duty := c.duty, mode := c.mode
    out := BitVec.ofNat 3 (b2n (c.main.cmd && (s.saf1 l).guardStep != 1) + 2 * b2n c.aux.cmd + 4 * b2n c.lockCmd)
    permit := permitWord bits wrong x.downNo
    tone := if tone then toneChips (s.met1 l) x else 0, toneEn := tone
    rdrCmd := rdrCmd s l, mbx := x.mbOut.headD emptySlot
    gpt := (List.range (phySamples x.downNo)).map (Config.gptSample l s.now), crc := 0 }

/-- A frame has left: its numbers move on, and the plain chips that an obeyed frame applies are kept for the model of R355 (R352 to R354). -/
def frameSent (s : State) (l : Fin 128) (f : Frame) : State :=
  let at_ := s.now + 3000 + (s.lane l).rtt / 2
  let s := s.onLane l fun y => { y with
    downNo := y.downNo + 1, downWraps := if y.downNo = 0xFFFF#16 then y.downWraps + 1 else y.downWraps, mbOut := y.mbOut.drop 1 }
  s.onMet l fun m => { m with
    toneIndex := (m.toneIndex + 1) % 2 ^ 48
    chain := if f.toneEn then { m.chain with chips := ((at_, plainChips m.toneKey m.toneIndex) :: m.chain.chips).take 65536 } else m.chain }

/-! ### Uplink frame (R96, R98, R101) -/

/-- Slack has started (R116, R118, R320, R413). The interrupted session closes at the first commit after both contactors read
open. -/
def slackStarts (s : State) (o : Fin 128) (bothOpen : Bool) : State :=
  let s := postOut s 0x0183 o (p16 (s.lane o).paramWd)
  let s := s.onLane o fun x => { x with attach := .none, mbWait := none }
  let s := setLink s o .slack
  let s := endAssoc (closeSession s o 128 (!bothOpen)) o 2
  if s.glb.phase = .running then queueTrig s o 8 1 else s

/-- Slack has ended, with SLACK code 2 or 3 (R116 to R118). -/
def slackEnds (s : State) (o : Fin 128) (code : BitVec 3) : State :=
  let s := postOut s 0x0184 o (p8 code.toNat)
  let s := setLink (s.onLane o fun x => { x with attach := .none, mbWait := none }) o .slack
  if s.glb.phase = .running then queueTrig s o 8 code.toNat else s

/-- A change of SLACK in STATUS. A slack that ran unseen is known by the code it left: it is taken as started and ended at that
frame (DEDUCED, log 40). -/
def slackStep (s : State) (o : Fin 128) (old new : BitVec 3) (bothOpen : Bool) : State :=
  let s := if new ≠ 0 ∧ new ≠ old then
    { s.onLane o (fun x => { x with slackSeen := true }) with str := { s.str with anySlack := true } } else s
  let ended := new == 2 || new == 3
  let s := if (new = 1 ∧ old ≠ 1) ∨ (ended ∧ old = 0) then slackStarts s o bothOpen else s
  if ended ∧ old ≠ new then slackEnds s o new else s

/-- A contactor feedback as STATUS shows it; `edge` is the instant of the SOF at the front-end (R223, R224). -/
def Contactor.seen (k : Contactor) (fb : Bool) (edge : Nat) : Contactor :=
  if k.fb = fb then k
  else { k with
    fb := fb, fbSince := edge, fbNew := true
    unexpSince := if fb ≠ k.cmd ∧ k.watch.isNone then some edge else none }

/-- Steps 1 and 2 of the outlet guard test, as PERMIT_OK shows them (R273). A step that the bound of 250 ms passes over fails. -/
def guardSees (s : State) (o : Fin 128) (permitOk : Bool) : State :=
  let x := s.saf1 o
  let rtt := (s.lane o).rtt
  if !x.guardSent ∨ s.now < x.guardAt + rtt / 2 then s
  else if x.guardStep = 1 then
    if permitOk then s.onSaf o fun x => { x with guardStep := 2, guardSent := false }
    else if s.since x.guardAt (250 * msNs) then endGuard s o 1 else s
  else if x.guardStep = 2 then
    if !permitOk then guardRdc s o
    else if decide (x.guardAt + 10 * usNs + rtt / 2 < s.now) then endGuard s o 2 else s
  else s

/-- A foreign epoch in the uplink of a lane in UP, since when (R523). -/
def Lane.foreign (x : Lane) (e : BitVec 32) (now : Nat) : Option Nat :=
  if x.link = .up ∧ x.epoch ≠ 0 ∧ e ≠ 0 ∧ e ≠ x.offered then some (x.foreignSince.getD now) else none

/-- The FRAME_NO of a good frame (R93): where it is not the expected one, one frame is taken as missing, with the gap of R96 (DEDUCED,
log 136). -/
def takeFrameNo (s : State) (o : Fin 128) (no : BitVec 16) : State :=
  let s := match (s.lane o).upNo with
    | some n => if n = no then s else gapFrame s o
    | none => s
  s.onLane o fun x => { x with upNo := some (no + 1) }

/-- The samples of a good frame: the modulator bits for the chains of a measured lane, the pilot sample, and the mailbox slot (R98, R99,
R105). -/
def takeSamples (s : State) (o : Fin 128) (f : Uplink) : State :=
  let s := if (s.lane o).link.measured then clocksIn s o (f.clocks.map some) else s
  let s := s.onCtx o fun c => { c with pilots := (some f.pilot :: c.pilots).take 1000 }
  let m := takeSlot (s.lane o).mbIn f.mbx
  s.onLane o fun x => { x with mbIn := m.1, mbRx := m.2.orElse fun _ => x.mbRx }

/-- STATUS, FLAGS and EPOCH of a good uplink frame are taken (R98, R101). -/
def takeStatus (s : State) (o : Fin 128) (f : Uplink) : State :=
  let x := s.lane o
  let st := f.status
  let old := x.status
  let seen := x.statusSeen
  let edge := s.now - 1000 - x.rtt / 2
  let s := s.onLane o fun x => { x with
    status := st, statusSeen := true, lastFrameAt := s.now, epoch := f.epoch, noCond := f.noCond
    freeSince := if f.noCond || st.holding then some (x.freeSince.getD s.now) else none
    foreignSince := x.foreign f.epoch s.now }
  let s := if x.link.measured then silenceEnd s o else s
  let s := if f.epoch ≠ x.epoch ∧ f.epoch ≠ 0 then
    postOut s 0x0185 o (p32 x.epoch.toNat ++ p32 f.epoch.toNat ++ p8 (b2n st.condPort)) else s
  let s := if st.fault.getLsbD 4 && !(seen && old.fault.getLsbD 4) then
      let s := { s.onLane o (fun x => { x with conflictF := true }) with str := { s.str with anyConflict := true } }
      postOut s 0x0186 o (p32 f.epoch.toNat ++ p8 3)
    else s
  let s := s.onCtx o fun c =>
    let cand := proxClass st.ppRaw
    { c with
      main := c.main.seen st.mainFb edge, aux := c.aux.seen st.auxFb edge, lockFb := st.lockFb
      lockUnexpSince := if !c.lockFb || c.lockDue.isSome || st.lockFb then (if st.lockFb then none else c.lockUnexpSince)
        else if c.lockCmd then some edge else none
      proxCand := cand, proxSince := if cand = c.proxCand ∧ seen then c.proxSince else s.now }
  let s := takeTemp s o st
  let bothOpen := !st.mainFb && !st.auxFb
  let s := slackStep s o (if seen then old.slack else 0) st.slack bothOpen
  let s := if bothOpen then s.onBil o fun b => { b with closing := b.closing.map fun x => { x with waitOpen := false } } else s
  let s := if st.ping && !(s.aut1 o).pingSeen && pingEn s o then wake (requestEngine s o) 4 o.val else s
  let s := s.onAut o fun a => { a with pingSeen := st.ping }
  evalPermit (guardSees s o st.permitOk) o

/-- A good uplink frame. -/
def takeFrame (s : State) (o : Fin 128) (f : Uplink) : State := takeStatus (takeSamples (takeFrameNo s o f.frameNo) o f) o f

/-- UPLINK_FRAME_RECEIVED: characters 1 to 198 of a frame, whether its EOF stood at character 199, and whether a character was a code
violation (R96). Frames are seen from IDLE on (R90). -/
def execUplinkFrameReceived (l : Fin 128) (chars : List Byte) (eof violation : Bool) (s : State) : Res :=
  let link := (s.lane l).link
  .next (if !s.clocksRun || link == .down || link == .train then s
  else if !frameGood chars eof violation then missFrame (s.count 6 0x11 1) l (!crcGood chars)
  else
    let s := takeFrame ((s.count 6 0x10 1).laneBytes l false) l (uplinkOf chars)
    if s.glb.phase = .running then (applySignals s l).revote else s)

end Sys2Proof.Machine
end

