-- ==== Sys2Proof/Machine/Share.lean ====
section
/-! DEFINITION. Hub power sharing (chapter 09): limits, claimants, the allocation, its marks and the share commands. -/

namespace Sys2Proof.Machine

/-! ### Limits in force (R283 to R285) -/

/-- V_p in mV (R285): VNOM where MAINS_STATE is not LOCKED, the value is below 100,000 mV, or the channel has no samples. -/
def phaseVolts (s : State) (p : Fin 3) : Nat :=
  let v := (vget s.met.incRms ⟨p.val, by omega⟩).toNat
  if s.tim.mainsState == .locked && s.met.incPresent.getLsbD p.val && decide (100000 ≤ v) then v else s.cfg.vnom

/-- V_1 to V_3. -/
def allVolts (s : State) : List Nat := (List.finRange 3).map (phaseVolts s)

/-- V̄, the mean of the three V_p, times 3. -/
def volts3 (s : State) : Nat := (allVolts s).sum

/-- The set-up limits: SHR_SITE_P is a signed number of mW (R10). -/
def setupLimits (s : State) : Limits := ⟨s.shr.site.ph, amount 64 s.shr.site.power⟩

/-- The sources of R283 that are in force, each with its SOURCE code. -/
def limitSources (s : State) : List (Limits × ShareSource) :=
  let h := s.shr
  let pct (v : Nat) : Nat := v * s.cfg.fallbackPct / 100
  [(setupLimits s, .setup)] ++
  (match h.cmd with
    | some c => if match c.expiry with | some t => decide (s.now < t) | none => true then [(c.lim, .command)] else []
    | none => []) ++
  (if h.kiteEn then
    match h.kiteGrant with
    | some g => [(g.1, .kiteGrant)]
    | none => [(⟨h.site.ph.map pct, pct (setupLimits s).power⟩, .kiteFallback)]
  else [])

/-- The smallest limits, and the source that binds the power limit; the first named one where several are equal (DEDUCED, log 42). -/
def baseLimits (s : State) : Limits × ShareSource :=
  (limitSources s).foldl (fun a x =>
    (⟨Vector.ofFn fun p => min (vget a.1.ph p) (vget x.1.ph p), min a.1.power x.1.power⟩,
      if x.1.power < a.1.power then x.2 else a.2)) (setupLimits s, .setup)

/-! ### Claimants (R286 to R291) -/

/-- Phases an outlet loads (R287): bit p for L(p+1). -/
def loadedPhases (s : State) (o : Fin 128) (p : Profile) : BitVec 3 :=
  let three := p.roles.toList.contains 2
  if p.dc || three then 7
  else match (s.met1 o).phase.cls.toNat with | 1 => 1 | 2 => 2 | 3 => 4 | _ => 7

/-- Rms of the lane of a role, 0 where the profile has none. -/
def roleRms (s : State) (o : Fin 128) (p : Profile) (role : BitVec 4) : Nat :=
  match laneOf p role with | some l => (vget (s.met1 o).lanes l).rms.toNat | none => 0

/-- VDC_REF in mV (R287). -/
def vdcRef (s : State) (o : Fin 128) (p : LoadedProfile) : Nat := max (roleRms s o p.prof 9) (p.share.vdcMin * 1000)

/-- The phase equivalent of a native current is native × num / den (R287). -/
def equivalent (s : State) (o : Fin 128) (p : LoadedProfile) : Nat × Nat :=
  if p.prof.dc then (vdcRef s o p * 100, volts3 s * p.share.eff) else (1, 1)

/-- The derating curve at a temperature, in 0.1 % × 1,000 (R290): linear between points, constant outside. -/
def derating (pts : List (Int × Nat)) (t : Int) : Rat :=
  match pts with
  | [] => 1000
  | [p] => p.2
  | p :: q :: rest =>
    if t ≤ p.1 then p.2
    else if t < q.1 then (p.2 : Rat) + ((q.2 : Rat) - p.2) * ((t - p.1 : Int) : Rat) / ((q.1 - p.1 : Int) : Rat)
    else derating (q :: rest) t

/-- The derated current in use after this cycle's TEMP (R290). -/
def deratedNow (s : State) (o : Fin 128) (p : LoadedProfile) : Option Nat :=
  let l := s.lane o
  let old := (s.shr1 o).derated
  if !l.statusSeen then old
  else
    let v := ((p.prof.iMax : Rat) * derating p.share.points (signed 16 l.status.temp.toNat) / 1000).floor.toNat
    match old with
    | some u => if v < u ∨ p.prof.iMax ≤ 50 * (v - u) then some v else some u
    | none => some v

/-- An outlet is a claimant (R286). -/
def isClaimant (s : State) (o : Fin 128) : Bool :=
  let c := s.ctx o
  (s.ctxProfile o).isSome && c.bound && c.enabled && decide (0 < (s.shr1 o).request)
    && decide (1 ≤ s.ctxClass o) && decide (s.ctxClass o ≤ 3) && (s.lane o).link == .up

/-- The ceiling in native mA (R289). -/
def ceilingOf (s : State) (o : Fin 128) (p : LoadedProfile) : Nat :=
  let x := s.shr1 o
  let opt (v : Option Nat) (a : Nat) : Nat := match v with | some b => min a b | none => a
  let c := opt x.derated (min x.request p.prof.iMax)
  let c := if p.prof.dc then c else opt (cableRating (s.ctx o).prox) c
  let c := if s.shr.reclaimEn then opt x.reclaim c else c
  if p.share.rampUp = 0 then c else min c (x.grant + p.share.rampUp)

/-- A cycle of the reclaim rule (R291): a cap is set after 3,000 cycles at least 2,000 mA below the grant in CLASS 2, and removed
after 3 cycles at or above the cap less 1,000 mA. -/
def reclaimStep (s : State) (o : Fin 128) (x : ShareOut) (iMin : Nat) : ShareOut :=
  let meas := (s.met1 o).iRms
  if !s.shr.reclaimEn || !isClaimant s o then { x with reclaim := none, lowRun := 0, lowMax := 0, capRun := 0 }
  else match x.reclaim with
  | some cap =>
    let n := if cap ≤ meas + 1000 then x.capRun + 1 else 0
    if 3 ≤ n then { x with reclaim := none, capRun := 0, lowRun := 0, lowMax := 0 } else { x with capRun := n }
  | none =>
    if s.ctxClass o = 2 ∧ meas + 2000 ≤ x.grant then
      let m := if x.lowRun = 0 then meas else max x.lowMax meas
      if 3000 ≤ x.lowRun + 1 then { x with reclaim := some (max (m + 2000) iMin), lowRun := 0, lowMax := 0, capRun := 0 }
      else { x with lowRun := x.lowRun + 1, lowMax := m }
    else { x with lowRun := 0, lowMax := 0 }

/-- The frozen inputs of an outlet (R293): of a claimant, or, with weight 0, of an outlet that is none but still holds a load
(R295: counted, DEDUCED, log 43). -/
def freeze (s : State) (o : Fin 128) : Option ShareIn :=
  let x := s.shr1 o
  match s.ctxProfile o with
  | none => none
  | some p =>
    let claim := isClaimant s o
    if !claim && x.held.isNone then none
    else
      let e := equivalent s o p
      some {
        handle := s.handle o, prio := x.prio, weight := if claim then max 1 x.weight else 0
        ceil := if claim then ceilingOf s o p else 0, min := p.prof.iMin, phases := loadedPhases s o p.prof
        num := e.1, den := e.2, held := (x.held.map (·.1)).getD 0, prev := x.grant, waited := x.waited, meas := (s.met1 o).iRms }

/-! ### Allocation (R294, R295) -/

/-- A claimant during an allocation: its phase equivalents, its coefficient in each of the four constraints (three phases in mA,
and the power in µW), and what it has so far. -/
structure Claim where
  /-- its frozen inputs -/
  i : ShareIn
  /-- coefficients of the constraints -/
  k : List Rat
  /-- minimum as a phase equivalent -/
  lo : Rat
  /-- ceiling as a phase equivalent -/
  hi : Rat
  /-- grant so far -/
  x : Rat
  /-- it was denied its minimum -/
  denied : Bool

/-- The factor of the phase equivalent. -/
def shareFactor (i : ShareIn) : Rat := if i.den = 0 then 0 else (i.num : Rat) / i.den

/-- A claimant from its inputs, with V_1 to V_3 in mV. -/
def Claim.of (v : List Nat) (i : ShareIn) : Claim :=
  let on (p : Nat) : Rat := if i.phases.getLsbD p then 1 else 0
  let k := (List.range 3).map on
  { i := i, k := k ++ [((List.range 3).map fun p => on p * (v.getD p 0 : Rat)).sum]
    lo := i.min * shareFactor i, hi := i.ceil * shareFactor i, x := 0, denied := false }

/-- Insert into a list sorted by `le`. -/
def insertBy {α : Type} (le : α → α → Bool) (a : α) : List α → List α
  | [] => [a]
  | b :: t => if le a b then a :: b :: t else b :: insertBy le a t

/-- Sort by `le`; equal elements keep their order. -/
def sortBy {α : Type} (le : α → α → Bool) : List α → List α
  | [] => []
  | a :: t => insertBy le a (sortBy le t)

/-- Grant order (R294): priority, then a grant held in the previous cycle, then the longest wait, then the handle. -/
def grantBefore (a b : Claim) : Bool :=
  let x := a.i
  let y := b.i
  if x.prio ≠ y.prio then decide (y.prio < x.prio)
  else if (x.prev == 0) != (y.prev == 0) then y.prev == 0
  else if x.waited ≠ y.waited then decide (y.waited < x.waited)
  else decide (x.handle ≤ y.handle)

/-- The loads of the four constraints under `f`. -/
def loadsOf (f : Claim → Rat) (l : List Claim) : List Rat :=
  (List.range 4).map fun j => (l.map fun c => c.k.getD j 0 * f c).sum

/-- Step 3: the minimums, in grant order. A claimant whose ceiling lies below its minimum receives 0 and is not denied. -/
def giveMinimums (lim : List Rat) : List Claim → List Rat → List Claim
  | [], _ => []
  | c :: t, load =>
    if c.i.ceil < c.i.min ∨ c.i.weight = 0 then c :: giveMinimums lim t load
    else
      let load' := (List.range 4).map fun j => load.getD j 0 + c.k.getD j 0 * c.lo
      if (List.range 4).all fun j => decide (load'.getD j 0 ≤ lim.getD j 0) || c.k.getD j 0 == 0 then
        { c with x := c.lo } :: giveMinimums lim t load'
      else { c with denied := true } :: giveMinimums lim t load

/-- What a claimant has at a fill level. -/
def Claim.at_ (c : Claim) (lam : Rat) : Rat := max c.lo (min c.hi (c.i.weight * lam))

/-- The largest whole level, below 2^(n+1), at which a constraint still has room: its load is `base` and what the members of the
level take. The spec fixes no step of the level; whole mA is what the worked example's figures need (DESIGN CHOICE, log 44). -/
def fillStop (j : Nat) (limit base : Rat) (act : List Claim) : Nat → Nat → Nat
  | 0, lam => lam
  | n + 1, lam =>
    let up := lam + 2 ^ n
    let load : Rat := base + (act.map fun (c : Claim) => (c.k.getD j 0 * max c.lo (((c.i.weight * up : Nat)) : Rat) : Rat)).sum
    fillStop j limit base act n (if load ≤ limit then up else lam)

/-- Step 4 at one priority: `act` are the handles of the claimants still raised, and `full` the full constraints. Each round
takes at least one outlet out; the number of rounds bounds the recursion. -/
def fillPrio (lim : List Rat) : Nat → List Nat → List Nat → Rat → List Claim → List Claim × List Nat
  | 0, _, full, _, l => (l, full)
  | n + 1, act, full, lam, l =>
    if act.isEmpty then (l, full)
    else
      let mem := l.filter fun c => act.contains c.i.handle
      let load := loadsOf (·.x) l
      let stops : List (Nat × Nat) := (List.range 4).filterMap fun j =>
        let m := mem.filter fun c => c.k.getD j 0 != 0
        if m.isEmpty then none
        else
          let base := load.getD j 0 - (m.map fun c => c.k.getD j 0 * c.x).sum
          some (j, fillStop j (lim.getD j 0) base m 48 0)
      let ceils := mem.map fun c => c.hi / (c.i.weight : Rat)
      let first := (ceils ++ stops.map fun (t : Nat × Nat) => (t.2 : Rat)).foldl min ((2 : Rat) ^ 48)
      let lam := max lam first
      let l := l.map fun c => if act.contains c.i.handle then { c with x := c.at_ lam } else c
      let full := full ++ (stops.filter fun t => decide ((t.2 : Rat) ≤ lam)).map (·.1)
      let act := (l.filter fun c => act.contains c.i.handle && decide (c.x < c.hi) && full.all fun j => c.k.getD j 0 == 0).map (·.i.handle)
      fillPrio lim n act full lam l

/-- Step 4: priorities from 7 down (R294). -/
def fillAll (lim : List Rat) (l : List Claim) : List Claim :=
  let load := loadsOf (·.x) l
  let full := (List.range 4).filter fun j => decide (lim.getD j 0 ≤ load.getD j 0)
  ((List.range 8).reverse.foldl (fun (a : List Claim × List Nat) p =>
    let act := (a.1.filter fun c => c.i.prio == p && c.i.weight != 0 && !c.denied && decide (c.i.min ≤ c.i.ceil)
      && decide (c.x < c.hi) && a.2.all fun j => c.k.getD j 0 == 0).map (·.i.handle)
    fillPrio lim (act.length + 1) act a.2 0 a.1) (l, full)).1

/-- A claimant's previous grant and held load as phase equivalents. -/
def Claim.prev (c : Claim) : Rat := c.i.prev * shareFactor c.i
/-- See `Claim.prev`. -/
def Claim.heldX (c : Claim) : Rat := c.i.held * shareFactor c.i

/-- Step 5: the increases, in grant order, within the room left and within SITE_RAMP; `budget` is the ramp left, in µW (R295). -/
def trim (lim : List Rat) : List Nat → Option Rat → List Claim → List Claim
  | [], _, l => l
  | h :: t, budget, l =>
    match l.find? fun c => c.i.handle == h with
    | none => trim lim t budget l
    | some c =>
      if c.x ≤ c.prev then trim lim t budget l
      else
        let others := loadsOf (fun d => max d.x d.heldX) (l.filter fun d => d.i.handle != h)
        let rooms := (List.range 4).filterMap fun j =>
          if c.k.getD j 0 = 0 then none else some ((lim.getD j 0 - others.getD j 0) / c.k.getD j 0)
        let x := max c.prev (rooms.foldl min c.x)
        let pw := c.k.getD 3 0
        let x := match budget with | some b => if pw = 0 then x else min x (c.prev + b / pw) | none => x
        let x := if x < c.lo then 0 else x
        let budget := budget.map fun b => b - max 0 ((x - c.prev) * pw)
        trim lim t budget (l.map fun d => if d.i.handle = h then { d with x := x } else d)

/-- The allocation (R294): limits in mA and mW, V_p in mV, SITE_RAMP in W. The grants are rounded down to 1 mA (step 6). -/
def allocate (ins : List ShareIn) (lims : List Nat) (ramp : Nat) : List (ShareIn × Nat × Bool) :=
  let lim : List Rat := (lims.take 3).map (fun n => (n : Rat)) ++ [(lims.getD 3 0 : Rat) * 1000]
  let l := sortBy grantBefore (ins.map (Claim.of (lims.drop 4)))
  let l := fillAll lim (giveMinimums lim l (List.replicate 4 0))
  let l := trim lim (l.map (·.i.handle)) (if ramp = 0 then none else some ((ramp : Rat) * 1000000)) l
  l.map fun c => (c.i, if shareFactor c.i = 0 then 0 else (c.x / shareFactor c.i).floor.toNat, c.denied)

/-! ### Snapshot (R293) -/

/-- Devices of the cluster whose inputs the allocation needs (R300). -/
def sharePeers (s : State) : List (Fin 4) :=
  (List.finRange 4).filter fun k => decide (k.val < s.tie.clusterN) && k.val != s.slotNo

/-- The measured outlet load on a phase, in mA (R284): the measured current of every outlet that has a profile and loads it. -/
def measuredLoad (s : State) (p : Nat) : Nat :=
  (outlets.map fun o => match s.ctxProfile o with
    | some q =>
      if (loadedPhases s o q.prof).getLsbD p then
        if q.prof.dc then ((s.met1 o).power * 100000) / (volts3 s * q.share.eff) else (s.met1 o).iRms
      else 0
    | none => 0).sum

/-- other_p of this cycle (R284). -/
def otherLoad (s : State) (p : Fin 3) : Nat := (vget s.met.incRms ⟨4 + p.val, by omega⟩).toNat - measuredLoad s p.val

/-- The site's other loads are subtracted (R284); not in ACQUIRE and COAST (R297). -/
def incomerUsed (s : State) : Bool := s.shr.incomerEn && s.tim.mainsState == .locked

/-- The largest other_p of the last 50 cycles. -/
def otherMaxOf (s : State) (p : Fin 3) : Nat := if incomerUsed s then (vget s.shr.otherMax p).foldl max 0 else 0

/-- Limits in force after R284, with V_p: L1 to L3, power, V_1 to V_3. -/
def limitsNow (s : State) : List Nat :=
  let b := (baseLimits s).1
  let v := allVolts s
  let cut := ((List.finRange 3).map fun p => v.getD p.val 0 * otherMaxOf s p).sum / 1000
  ((List.finRange 3).map fun p => vget b.ph p - otherMaxOf s p) ++ [b.power - cut] ++ v

/-- Overload of a phase (R299), judged against the phase limit before R284 reduces it (DEDUCED, log 45). -/
def overloadStep (s : State) (p : Fin 3) : State :=
  let load := measuredLoad s p.val + otherMaxOf s p
  let limit := vget (baseLimits s).1.ph p
  let n := if limit * 105 < load * 100 then vget s.shr.overRun p + 1 else 0
  let s := { s with shr := { s.shr with overRun := vmod s.shr.overRun p fun _ => n } }
  let due := match vget s.shr.overAt p with | some t => s.since t (60 * secNs) | none => true
  if decide (250 ≤ n) && due then
    postDev { s with shr := { s.shr with overload := true, overAt := vmod s.shr.overAt p fun _ => some s.now } } 0x0304
      (p8 p.val ++ p32 (min 0x7FFFFFFF load) ++ p32 limit)
  else s

/-- A held load ends (R295): the current has followed for a whole cycle, or REACT_T has passed since the fall. -/
def endHeld (s : State) (o : Fin 128) : State :=
  match (s.shr1 o).held with
  | some h =>
    let react := ((s.ctxProfile o).map (·.share.reactT)).getD 0
    if (s.met1 o).iRms ≤ (s.shr1 o).grant + 500 ∨ s.since h.2 (react * msNs) then s.onShr o fun x => { x with held := none } else s
  | none => s

/-- The grants of an allocation are noted for this device's outlets (R294, R300). -/
def noteGrants (s : State) (l : List (ShareIn × Nat × Bool)) : State :=
  let s := forAll outlets (fun s o => s.onShr o fun x => { x with newGrant := 0, state := 0 }) s
  let load (p : Nat) : Nat := ((l.map fun (r : ShareIn × Nat × Bool) => if r.1.phases.getLsbD p then (r.2.1 : Rat) * shareFactor r.1 else 0).sum).floor.toNat
  let s := { s with shr := { s.shr with allocDone := true, load := Vector.ofFn fun p => load p.val } }
  l.foldl (fun s r => match s.ofHandle r.1.handle with
    | some o => if r.1.weight = 0 then s else s.onShr o fun x => { x with
        newGrant := r.2.1, ceiling := r.1.ceil, phases := r.1.phases
        state := if r.2.2 then 2 else if x.reclaim.isSome && s.shr.reclaimEn then 3 else 1 }
    | none => s) s

/-- The limits of the cluster (R300), those of the slot-0 device, with a percentage of them. -/
def clusterLimits (s : State) (pct : Nat) : List Nat :=
  let lims := if s.slotNo = 0 then s.shr.lims else ((vget s.shr.peerIn 0).map (·.2)).getD s.shr.lims
  (lims.take 4).map (fun n => n * pct / 100) ++ lims.drop 4

/-- The grants of this device and of the peers that allocate with it; the shares of those that allocate alone are reserved (R301). -/
def allocateShared (s : State) : State :=
  let alone := (sharePeers s).filter fun k => vget s.shr.peerAlone k
  let ins := s.shr.frozen ++ ((sharePeers s).filter fun k => !vget s.shr.peerAlone k).flatMap fun k =>
    ((vget s.shr.peerIn k).map (·.1)).getD []
  noteGrants s (allocate ins (clusterLimits s (100 - (alone.map fun k => vget s.cfg.peerShare k).sum)) s.shr.ramp)

/-- Run the allocation over the whole cluster (R300), once every peer's inputs are there. -/
def allocCluster (s : State) : State :=
  if s.shr.allocDone || !s.shr.snapPending then s
  else if (sharePeers s).all fun k => (vget s.shr.peerIn k).isSome then
    let s := allocateShared s
    if s.shr.peerMode then postDev { s with shr := { s.shr with peerMode := false } } 0x0305 (p8 0 ++ p8 1) else s
  else s

/-- A peer says that it allocates alone in this cycle (R301): its share is reserved, also where the allocation has been made already. That it
says so in a tie frame is DEDUCED (log 149). -/
def peerAlone (s : State) (slot cycle : Nat) : State :=
  if cycle = s.cycle ∧ slot < 4 ∧ s.shr.snapPending then
    let s := { s with shr := { s.shr with peerAlone := vmod s.shr.peerAlone (fin 4 slot) fun _ => true } }
    if s.shr.allocDone && !s.shr.peerMode then allocateShared s else s
  else s

/-- The mainstime of the next snapshot mark after `v`. -/
def nextSnap (s : State) (v : Nat) : Nat :=
  let m := v / 65536 * 65536 + s.shr.shareAngle.toNat
  if v < m then m else m + 65536

/-- The pending mark of the share engine, snapshot (0) or apply (1) (R293). -/
def shareMark (s : State) (ref : Nat) : Option Nat := (s.tim.marks.find? fun m => m.owner == .share && m.ref == ref).map (·.value)

/-- The engine runs: its service-domain unit is up and the device is not a standby, which applies nothing (R302). -/
def shareRuns (s : State) : Bool :=
  s.glb.phase == .running && s.shr.en && (s.domain 7).up && (s.tie.role == .alone || s.tie.role == .active)

/-- A Kite grant that has arrived binds from the next snapshot on (R304). -/
def takeGrant (s : State) : State :=
  match s.shr.kitePending with
  | some g => { s with shr := { s.shr with kiteGrant := some (g, s.cycle), kitePending := none } }
  | none => s

/-- A command limit whose EXPIRY has passed is removed (R283). -/
def dropExpired (s : State) : State :=
  match s.shr.cmd with
  | some c => match c.expiry with
    | some t => if t ≤ s.now then { s with shr := { s.shr with cmd := none } } else s
    | none => s
  | none => s

/-- What a snapshot settles and freezes of one outlet (R285, R290, R291, R295). -/
def snapOutlet (s : State) (o : Fin 128) : State :=
  match s.ctxProfile o with
  | some p => (endHeld s o).onShr o fun x => { reclaimStep s o x p.prof.iMin with
      held := ((endHeld s o).shr1 o).held, derated := deratedNow s o p
      volts := if p.prof.dc then vdcRef s o p
        else ((List.finRange 3).map fun q => if (loadedPhases s o p.prof).getLsbD q.val then phaseVolts s q else 0).sum }
  | none => s

/-- Freeze every input at the snapshot mark (R293, R298). -/
def snapshot (s : State) : State :=
  let s := forAll outlets snapOutlet (dropExpired (takeGrant s))
  let s := { s with shr := { s.shr with otherMax := Vector.ofFn fun p => (otherLoad s p :: vget s.shr.otherMax p).take 50 } }
  let s := (List.finRange 3).foldl overloadStep s
  let s := { s with shr := { s.shr with
    frozen := outlets.filterMap (freeze s), lims := limitsNow s, snapAt := s.now, snapPending := true, allocDone := false
    peerIn := Vector.replicate 4 none, peerAlone := Vector.replicate 4 false, waitApply := s.shr.waitApply ++ s.shr.waitSnap, waitSnap := [] } }
  let s := (List.finRange 3).foldl (fun s k =>
    let p : Fin 4 := ⟨k.val, by omega⟩
    if (vget s.tie.ports p).up then s.send (.tie p (.shareIn s.slotNo s.cycle s.shr.frozen s.shr.lims)) else s) s
  allocCluster s

/-- The snapshot mark fires (R293): the clock runs to the snapshot mark, and the marks of this and the next cycle are set. -/
def snapshotFires (s : State) : State :=
  if !s.clocksRun || !s.shr.en then s
  else
    let v := (shareMark s 0).getD (nextSnap s s.tim.mains)
    let s := (s.toMains v).dropMark .share 0
    let s := if shareRuns s then
        let r := s.setMark .share (v + 0x4000) 1
        if r.2 then snapshot r.1 else r.1
      else s
    (s.setMark .share (nextSnap s v) 0).1

/-- PEER_FALLBACK (R301): 200 µs after the snapshot a peer's inputs are missing. -/
def execPeerFallback (s : State) : Res :=
  .next (if !shareRuns s || !s.shr.snapPending || s.shr.allocDone then s
  else
    let s := s.toTick (s.shr.snapAt + 200 * usNs)
    let miss := (sharePeers s).filter fun k => (vget s.shr.peerIn k).isNone
    if miss.isEmpty then allocCluster s
    else
      let lims := clusterLimits s (vget s.cfg.peerShare (fin 4 s.slotNo))
      let entered := !s.shr.peerMode
      let s := (List.finRange 3).foldl (fun s k =>
        let p : Fin 4 := ⟨k.val, by omega⟩
        if (vget s.tie.ports p).up then s.send (.tie p (.shareAlone s.slotNo s.cycle)) else s) s
      let s := noteGrants { s with shr := { s.shr with peerMode := true, peerFallback := true } } (allocate s.shr.frozen lims s.shr.ramp)
      if entered then postDev s 0x0305 (p8 (miss.map fun k => 2 ^ k.val).sum ++ p8 0) else s)

/-! ### Apply (R293, R296, R297) -/

/-- Setpoint reason (R296): 0 fall, 2 crossed I_MIN, 1 rise; a fall takes reason 0 even where it crosses I_MIN (DEDUCED, log 46). -/
def setpointReason (s : State) (x : ShareOut) (new iMin : Nat) : Option Nat :=
  if new < x.grant then some 0
  else if x.grant < iMin ∧ iMin ≤ new then some 2
  else if decide (x.postedGrant + 1000 ≤ new) && (match x.postedRiseAt with | some t => s.since t secNs | none => true) then some 1
  else none

/-- A grant and the held load as the words of a mirror record (R302, R517). -/
def grantWords (s : State) (o : Fin 128) : List Nat :=
  let x := s.shr1 o
  [2, o.val, x.grant, (x.held.map (·.1)).getD 0, (x.held.map (·.2)).getD 0, x.waited]

/-- The new grant of an outlet takes effect (R293, R295, R296, R218). -/
def applyGrant (denied : Fin 128 → Bool) (s : State) (o : Fin 128) : State :=
  let x := s.shr1 o
  let new := x.newGrant
  let iMin := ((s.ctxProfile o).map (·.prof.iMin)).getD 0
  let held := if new < x.grant then some (max x.grant ((x.held.map (·.1)).getD 0), s.now) else x.held
  let reason := setpointReason s x new iMin
  let s := s.onShr o fun x => { x with
    grant := new, held := held, waited := if x.state ≠ 0 ∧ new = 0 then x.waited + 1 else 0
    postedGrant := if reason.isSome then new else x.postedGrant
    postedRiseAt := match reason with | some 0 => x.postedRiseAt | some _ => some s.now | none => x.postedRiseAt }
  let s := match reason with
    | some r => postOut s 0x0300 o (p32 new ++ p64 (new * x.volts / 1000) ++ p8 x.phases.toNat ++ p8 r)
    | none => s
  let s := if x.state = 2 ∧ !denied o then
      postOut { s with shr := { s.shr with minDenied := true } } 0x0301 o (p8 x.prio ++ p32 (s.shr1 o).waited)
    else s
  let s := s.mirror 4 (grantWords s o)
  if (s.ctxProfile o).isSome then writeLimit s o new else s

/-- Write all grants at once. -/
def applyAll (s : State) (cycle : Nat) (denied : Fin 128 → Bool) : State :=
  let b := baseLimits s
  let lim := s.shr.lims
  let eff : Limits := ⟨Vector.ofFn fun p => lim.getD p.val 0, lim.getD 3 0⟩
  let changed := eff.power != s.shr.eff.power || b.2 != s.shr.source
  let s := forAll outlets (applyGrant denied) s
  let s := { s with shr := { s.shr with eff := eff, source := b.2, cycle := BitVec.ofNat 32 cycle, snapPending := false, allocDone := false } }
  let s := if changed then postDev s 0x0302 (p64 eff.power ++ p8 (match b.2 with
    | .setup => 0 | .command => 1 | .kiteGrant => 2 | .kiteFallback => 3)) else s
  s.shr.waitApply.foldl (fun s k => completeKey s k.1 k.2 0) { s with shr := { s.shr with waitApply := [] } }

/-- The apply mark fires: the clock runs to the apply mark. Outlets that were denied in the last allocation too post no second Minimum
denied event (DEDUCED, log 46); they are those whose grant in force is 0 although they wait. -/
def applyFires (s : State) : State :=
  match shareMark s 1 with
  | none => s
  | some v =>
    if !s.clocksRun then s
    else
      let s := (s.toMains v).dropMark .share 1
      if !shareRuns s || !s.shr.snapPending then s
      else if !s.shr.allocDone then
        postDev { s with shr := { s.shr with late := true, snapPending := false } } 0x0306 (p32 (v / 65536 % 2 ^ 32))
      else applyAll s ((v - 0x4000) / 65536) fun o => decide (0 < (s.shr1 o).waited)

/-! ### Limits that expire -/

/-- SITE_LIMIT_EXPIRY (R283). -/
def execSiteLimitExpiry (s : State) : Res :=
  .next (match s.shr.cmd with
  | some c => match c.expiry with
    | some t => if s.clocksRun then let s := s.toTick t; { s with shr := { s.shr with cmd := none } } else s
    | none => s
  | none => s)

/-- KITE_GRANT_EXPIRY (R304): the grant is 3 × PERIOD cycles old. -/
def execKiteGrantExpiry (s : State) : Res :=
  .next (match s.shr.kiteGrant with
  | some g =>
    if s.clocksRun then
      let s := s.toMains ((g.2 + 3 * s.cfg.kitePeriod) * 65536)
      postDev { s with shr := { s.shr with kiteGrant := none, kiteExpired := true } } 0x0303 (p8 1 ++ p64 g.1.power)
    else s
  | none => s)

/-! ### Registers (R307) -/

/-- The allocation starts or stops with EN; a command that waits for an allocation completes where none runs (DEDUCED, log 47). -/
def shareEnable (s : State) (on : Bool) : State :=
  let was := s.shr.en
  let s := { s with shr := { s.shr with en := on } }
  if on && !was then (s.setMark .share (nextSnap s s.tim.mains) 0).1
  else if !on && was then
    let s := (s.dropMark .share 0).dropMark .share 1
    let w := s.shr.waitApply ++ s.shr.waitSnap
    w.foldl (fun s k => completeKey s k.1 k.2 0)
      { s with shr := { s.shr with waitApply := [], waitSnap := [], snapPending := false, allocDone := false } }
  else s

/-- The next apply angle after `v` (R293, R501). -/
def nextApply (s : State) (v : Nat) : Nat :=
  let m := v / 65536 * 65536 + (s.shr.shareAngle.toNat + 0x4000) % 65536
  if v < m then m else m + 65536

/-- The Kite mark of R501 is set with KITE_EN, at the next apply angle (DESIGN CHOICE, log 64), and dropped with it. -/
def kiteEnable (s : State) (was : Bool) : State :=
  if s.shr.kiteEn && !was then (s.setMark .kite (nextApply s s.tim.mains) 0).1
  else if !s.shr.kiteEn && was then s.dropMark .kite 0 else s

/-- A write of SHR_CFG. -/
def writeShrCfg (s : State) (v : Word) : State :=
  (shareEnable (kiteEnable { s with shr := { s.shr with
    incomerEn := bit v 1, kiteEn := bit v 2, kiteMaster := bit v 3, reclaimEn := bit v 4, shareAngle := BitVec.ofNat 16 (fld v 16 16) } }
    s.shr.kiteEn) (bit v 0)).revote

/-- A write of SHR_SITE_P_HI: it takes effect together with the last write of SHR_SITE_P_LO. -/
def writeSitePower (s : State) (v : Word) : State :=
  { s with shr := { s.shr with site := { s.shr.site with power := s.shr.siteLo.toNat + 2 ^ 32 * v.toNat } } }

/-- SITE_POWER_LIMIT_WRITE. -/
def execSitePowerLimitWrite (v : BitVec 32) (s : State) : Res := .next (viaBar s 7 fun s => writeSitePower s v)

/-! ### Commands (R305) -/

/-- A share command's effect is visible at the apply mark of the first allocation that uses it; with EN = 0 at once (log 47). -/
def shareWait (s : State) (c : Cmd) : State :=
  if s.shr.en then
    let s := started s c
    { s with shr := { s.shr with waitSnap := s.shr.waitSnap ++ [(c.ring, c.index)] } }
  else complete s c 0

/-- Set site limit. -/
def effSetSiteLimit (c : Cmd) (s : State) : State :=
  let lim : SiteCmd := {
    lim := ⟨#v[amount 32 (c.p 0).toNat, amount 32 (c.p 1).toNat, amount 32 (c.p 2).toNat], amount 64 (c.p2 3)⟩
    expiry := if c.p 5 = 0 then none else some (s.now + (c.p 5).toNat * secNs) }
  shareWait { s with shr := { s.shr with cmd := if bit (c.p 6) 0 then none else some lim } } c

/-- SET_SITE_LIMIT. -/
def execSetSiteLimit (c : Cmd) (s : State) : Res := .next (cmdStep [0x0300] effSetSiteLimit c s)

/-- Set request. -/
def effSetRequest (c : Cmd) (s : State) : State :=
  onOutlet c s fun o =>
    let k := s.ctxClass o
    if k = 0 ∨ k = 4 ∨ (s.ctxProfile o).isNone then complete s c 0x0A
    else shareWait (setRequest s o (amount 32 (c.p 0).toNat)) c

/-- SET_REQUEST. -/
def execSetRequest (c : Cmd) (s : State) : Res := .next (cmdStep [0x0301] effSetRequest c s)

/-- Set priority (R288). -/
def effSetPriority (c : Cmd) (s : State) : State :=
  onOutlet c s fun o =>
    let w := fld (c.p 0) 4 4
    if w = 0 then complete s c 0x02
    else shareWait (s.onShr o fun x => { x with prio := fld (c.p 0) 0 3, weight := w, prioCmd := true }) c

/-- SET_PRIORITY. -/
def execSetPriority (c : Cmd) (s : State) : Res := .next (cmdStep [0x0302] effSetPriority c s)

/-- Read allocation. -/
def effReadAllocation (c : Cmd) (s : State) : State :=
  onOutlet c s fun o => complete s c 0 (BitVec.ofNat 32 (s.shr1 o).grant)

/-- READ_ALLOCATION. -/
def execReadAllocation (c : Cmd) (s : State) : Res := .next (cmdStep [0x0303] effReadAllocation c s)

end Sys2Proof.Machine
end

