-- ==== Sys2Proof/Machine/Plc.lean ====
section
/-! DEFINITION. Vehicle power-line stations and joint association (chapter 10): frame routing, the runs of the SLAC coordinator,
their scores, decisions and validation, and the vehicle PLC commands. -/

namespace Sys2Proof.Machine

/-! ### Runs -/

/-- Open run of a vehicle: its source address and RunID (R316 to R317). -/
def State.run (s : State) (src : BitVec 48) (id : BitVec 64) : Option Run :=
  s.plc.runs.find? fun r => r.id == id && r.src == src

/-- Change one run. -/
def State.onRun (s : State) (src : BitVec 48) (id : BitVec 64) (f : Run → Run) : State :=
  s.onRuns fun l => l.map fun r => if r.id = id ∧ r.src = src then f r else r

/-- Take a run off the list. -/
def State.dropRun (s : State) (r : Run) : State := s.onRuns fun l => l.filter fun x => !(x.id == r.id && x.src == r.src)

/-- The station answers SLAC (R310, R331, R335): it works, and PLC_MAC_BASE is not 0. -/
def slacUp (s : State) (o : Fin 128) : Bool := stationUp s o && s.plc.mac != 0

/-- The station of outlet `o` sends a SLAC message of a run. -/
def slacSend (s : State) (o : Fin 128) (r : Run) (m : SlacTx) : State :=
  if slacUp s o then s.send (.slac o r.src r.id m) else s

/-- An outlet is a candidate at this moment (R316). -/
def isCandidate (s : State) (o : Fin 128) : Bool :=
  (s.sta o).armed && ((s.ctx o).pilot == 1 || (s.ctx o).pilot == 2) &&
    (match (s.sta o).qualTick with | some t => !s.since t (s.cfg.assocWin * secNs + 1) | none => false)

/-- A run as it is opened. -/
def newRun (s : State) (src : BitVec 48) (id : BitVec 64) (cands : List Nat) : Run :=
  { id := id, src := src, cands := cands, phase := .opened, winAt := 0, closedAt := 0, scores := [], peers := [], peerSlots := [],
    peerCands := [], openedAt := s.now, peersMissing := false, held := [], score := 0, margin := 0xFFFF, sentAt := 0,
    validated := false, winner := none, reqs := 0, togUntil := none, toggles := [] }

/-- CM_SLAC_PARAM.REQ at the stations `heard` (R316, R317): a repeat before the window opens is answered again by the same
candidates, a later one starts the run anew. Stations that hear it at the tick that opened the run hear the same request
(DESIGN CHOICE, log 48). -/
def slacParam (s : State) (src : BitVec 48) (id : BitVec 64) (heard : List (Fin 128)) : State :=
  let heard := heard.filter (slacUp s)
  let fresh (s : State) : State :=
    let c := heard.filter (isCandidate s)
    if c.isEmpty || 64 ≤ s.plc.runs.length then s
    else
      let r := newRun s src id (c.map s.handle)
      c.foldl (fun s o => slacSend s o r .paramCnf) (s.onRuns (· ++ [r]))
  match s.run src id with
  | none => fresh s
  | some r =>
    if r.phase = .opened then
      let more := if r.openedAt = s.now then heard.filter fun o => isCandidate s o && !r.cands.contains (s.handle o) else []
      let s := s.onRun src id fun r => { r with cands := r.cands ++ more.map s.handle }
      (heard.filter fun o => r.cands.contains (s.handle o) || more.contains o).foldl (fun s o => slacSend s o r .paramCnf) s
    else fresh (failRun s r 5)

/-- SLAC_PARAM_REQ. -/
def execSlacParamReq (src : BitVec 48) (run : BitVec 64) (heard : List (Fin 128)) (s : State) : Res :=
  .next (slacParam s src run heard)

/-! ### Soundings and scores (R317, R318, R327, R328) -/

/-- The first CM_START_ATTEN_CHAR.IND opens the sounding window. -/
def startSounding (s : State) (src : BitVec 48) (id : BitVec 64) : State :=
  s.onRun src id fun r => if r.phase = .opened then { r with phase := .sounding, winAt := s.now } else r

/-- A sounding of `length` ns that ends now does not overlap a mark. -/
def clearOf (s : State) (length : Nat) (mark : Option Nat) : Bool := match mark with | some t => decide (t + length < s.now) | none => true

/-- A sounding is valid at a station (R318, R327, R328): none of its symbols was marked there, and it overlaps no common impulse. -/
def soundValid (s : State) (o : Fin 128) (length : Nat) : Bool :=
  !stationQuiet s o && clearOf s length (s.sta o).markAt && clearOf s length s.plc.impulseAt

/-- The sums of the carrier groups with one more sounding. -/
def addGroups : List (Option Nat) → List (Option Nat) → List (Option Nat)
  | a :: t, b :: u => (match a, b with | some x, some y => some (x + y) | _, _ => none) :: addGroups t u
  | [], l => l
  | l, [] => l

/-- A sounding at station `o`. -/
def takeSound (s : State) (o : Fin 128) (src : BitVec 48) (id : BitVec 64) (length : Nat) (atten : Option (List (Option Nat))) : State :=
  match s.run src id with
  | some r =>
    if r.phase = .sounding then
      let h := s.handle o
      let x := (r.scores.find? fun x => x.outlet == h).getD ⟨h, 0, 0, []⟩
      let x : OutScore := match atten with
        | some g => if soundValid s o length then ⟨h, x.total + 1, x.valid + 1, addGroups x.sum g⟩ else { x with total := x.total + 1 }
        | none => { x with total := x.total + 1 }
      let s := s.onRun src id fun r => { r with scores := r.scores.filter (fun y => y.outlet != h) ++ [x] }
      s.onSta o fun y => { y with valid := BitVec.ofNat 8 x.valid, total := BitVec.ofNat 8 x.total }
    else s
  | none => s

/-- The score of a run at one of this device's outlets, in 0.1 dB (R318); a fraction is dropped (DESIGN CHOICE, log 49). -/
def OutScore.score (x : OutScore) (minSounds : Nat) : Option Nat :=
  let g := x.sum.filterMap id
  if x.valid < max 1 minSounds ∨ g.isEmpty then none else some (g.sum / (x.valid * g.length))

/-- Every score of a run, by outlet handle (R318, R324). -/
def runScores (s : State) (r : Run) : List (Nat × Nat) :=
  (r.scores.filterMap fun x => (x.score s.cfg.minSounds).map fun v => (x.outlet, v)) ++ r.peers

/-- Every candidate of a run. -/
def Run.allCands (r : Run) : List Nat := r.cands ++ r.peerCands

/-- The score of a run at an outlet. -/
def scoreAt (s : State) (r : Run) (h : Nat) : Option Nat := ((runScores s r).find? fun x => x.1 == h).map (·.2)

/-- Order of R319: by score, then by handle. -/
def scoreLe (a b : Nat × Nat) : Bool := decide (a.2 < b.2) || (a.2 == b.2 && decide (a.1 ≤ b.1))

/-- Peers whose scores a decision waits for (R324). -/
def scorePeers (s : State) : List Nat :=
  if s.plc.crossDev then (sharePeers s).map (·.val) else []

/-- A closed run has every score it can wait for. -/
def peersIn (s : State) (r : Run) : Bool := r.peersMissing || (scorePeers s).all r.peerSlots.contains

/-! ### Decision (R319) -/

/-- An outlet is held by another run, or matched (R319). -/
def heldByOther (s : State) (r : Run) (h : Nat) : Bool :=
  (s.plc.runs.any fun x => !(x.id == r.id && x.src == r.src) && x.holding && x.held.contains h) ||
    (match s.ofHandle h with | some o => (s.sta o).assoc | none => false)

/-- The averages a CM_ATTEN_CHAR.IND carries, in whole decibels (R318). -/
def OutScore.averages (x : OutScore) : List Nat :=
  x.sum.filterMap fun g => g.map fun v => if x.valid = 0 then 0 else (2 * v + 10 * x.valid) / (20 * x.valid)

/-- CM_ATTEN_CHAR.IND from every outlet of `set` that lies on this device (R320, R324). -/
def sendAtten (s : State) (r : Run) (set : List Nat) : State :=
  set.foldl (fun s h => match s.ofHandle h with
    | some o =>
      let x := (r.scores.find? fun x => x.outlet == h).getD ⟨h, 0, 0, []⟩
      slacSend s o r (.attenChar x.averages x.valid)
    | none => s) s

/-- Hold `set` for a run that answers or validates (R320). -/
def holdRun (s : State) (r : Run) (set : List Nat) (validating : Bool) : State :=
  let s := s.onRun r.src r.id fun r => { r with
    phase := if validating then .validating else .answering, held := set, sentAt := s.now, validated := validating }
  sendAtten s r set

/-- The outcome of R319 for a closed run; none where it waits for another run's decision (step 5). -/
def decideRun (s : State) (r : Run) : Option State :=
  let sc := runScores s r
  let isOpen := sortBy scoreLe (sc.filter fun x => r.allCands.contains x.1 && !heldByOther s r x.1)
  match isOpen with
  | [] => some (failRun s r 3)
  | (h, v) :: rest =>
    if s.cfg.attenMax < v then some (failRun s r 0)
    else match sortBy scoreLe (sc.filter fun x => !r.allCands.contains x.1 && decide (x.2 < v)) with
    | (h', v') :: _ =>
      let s := { s with plc := { s.plc with conflictAny := true } }
      let s := match s.ofHandle h with
        | some o => postOut s 0x0403 o (p16 h' ++ p16 v' ++ p16 v)
        | none => s
      some (failRun s r 2)
    | [] =>
      let lower := s.plc.runs.filter fun x => !(x.id == r.id && x.src == r.src) && !(x.holding && !x.held.contains h) &&
        (match scoreAt s x h with | some w => decide (w < v + s.cfg.scoreMargin) | none => false)
      if lower.any fun x => x.phase == .sounding then none
      else if !lower.isEmpty then some (failRun s r 1)
      else
        let amb := rest.filter fun x => decide (x.2 < v + s.cfg.scoreMargin)
        let next := (sortBy scoreLe (sc.filter fun x => x.1 != h && decide (v ≤ x.2))).head?
        let s := s.onRun r.src r.id fun r => { r with
          score := v, margin := match next with | some x => min 0xFFFE (x.2 - v) | none => 0xFFFF }
        if amb.isEmpty && s.cfg.validate != 2 then some (holdRun s r [h] false)
        else if s.cfg.validate = 0 then some (failRun s r 1)
        else some (holdRun s r (((h, v) :: amb).take 4 |>.map (·.1)) true)

/-- The lowest score of a run. -/
def lowestScore (s : State) (r : Run) : Nat := (((sortBy scoreLe (runScores s r)).head?).map (·.2)).getD 65536

/-- Decide every closed run that need not wait, in ascending order of the lowest scores (R322); a decision may free one that
waited for it (R319). -/
def decideRuns : Nat → State → State
  | 0, s => s
  | n + 1, s =>
    let due := sortBy (fun a b => decide (lowestScore s a ≤ lowestScore s b))
      (s.plc.runs.filter fun r => r.phase == .waiting && peersIn s r)
    match due.findSome? fun r => decideRun s r with
    | some s => decideRuns n s
    | none => s

/-- Every decision that can be made now. -/
def decideAll (s : State) : State := decideRuns 65 s

/-- SOUNDING_WINDOW_CLOSE (R319): the clock runs to the end of the window; windows that close at that instant close together
(R322), and the scores go to the peers (R324). -/
def execSoundingWindowClose (src : BitVec 48) (run : BitVec 64) (s : State) : Res :=
  match s.run src run with
  | some r =>
    .next (if s.glb.phase == .running && r.phase == .sounding then
      let win := s.cfg.soundWin * msNs
      let s := s.toTick (r.winAt + win)
      let closing (r : Run) : Bool := r.phase == .sounding && s.since r.winAt win
      let sent := s.plc.runs.filter closing
      let s := s.onRuns fun l => l.map fun r => if closing r then { r with phase := .waiting, closedAt := s.now } else r
      let s := sent.foldl (fun s r => (List.finRange 3).foldl (fun s k =>
        let p : Fin 4 := ⟨k.val, by omega⟩
        if s.plc.crossDev && (vget s.tie.ports p).up then
          s.send (.tie p (.scores s.slotNo r.src r.id (runScores s r) r.cands)) else s) s) s
      decideAll s
    else s)
  | none => .next s

/-- A peer's scores arrive (R324). -/
def takeScores (s : State) (slot : Nat) (src : BitVec 48) (id : BitVec 64) (list : List (Nat × Nat)) (cands : List Nat) : State :=
  decideAll (s.onRun src id fun r => { r with
    peers := r.peers ++ list, peerCands := r.peerCands ++ cands, peerSlots := slot :: r.peerSlots })

/-- PEER_SCORE_TIMEOUT (R324): 5 ms after the close. -/
def execPeerScoreTimeout (src : BitVec 48) (run : BitVec 64) (s : State) : Res :=
  match s.run src run with
  | some r =>
    .next (if s.glb.phase == .running && r.phase == .waiting && !peersIn s r then
      let s := s.toTick (r.closedAt + 5 * msNs)
      let s := s.onRun src run fun r => { r with peersMissing := true }
      decideAll { s with plc := { s.plc with peerMissing := true } }
    else s)
  | none => .next s

/-! ### Match (R320, R321) -/

/-- An accepted match at outlet `o` (R320): the steps in their order; the outlet is armed no longer (R316). -/
def acceptMatch (s : State) (o : Fin 128) (r : Run) : State :=
  let d := s.draw
  let nmk : BitVec 128 := d.1.truncate 128
  let s := slacSend d.2 o r (.matchCnf nmk)
  let sc := (scoreAt s r (s.handle o)).getD r.score
  let s := endToggle (s.dropRun r) r
  let s := s.onSta o fun x => { x with assoc := true, armed := false, cco := true, nmk := nmk, ev := r.src, score := BitVec.ofNat 16 sc }
  let s := postOut s 0x0400 o (leBytes 6 r.src.toNat ++ p16 sc ++ p16 r.margin
    ++ p8 (b2n r.validated + 2 * b2n r.peersMissing) ++ p8 (min 255 r.allCands.length))
  (mirrorSta (queueTrig s o 0x0A 0) o).revote

/-- CM_SLAC_MATCH.REQ at outlet `o`: accepted by R320, else not answered. While the random generator is at fault no key can be
drawn, and none is answered (R547: DEDUCED, log 50). -/
def slacMatch (s : State) (o : Fin 128) (src : BitVec 48) (id : BitVec 64) : State :=
  match s.run src id with
  | some r =>
    let h := s.handle o
    if slacUp s o && s.key.rngOk && r.holding && r.held.contains h && !s.since r.sentAt (s.cfg.matchT * 10 * msNs + 1)
        && (r.phase == .answering || r.winner == some h) then acceptMatch s o r else s
  | none => s

/-- SLAC_MATCH_REQ. -/
def execSlacMatchReq (o : Fin 128) (src : BitVec 48) (run : BitVec 64) (s : State) : Res := .next (slacMatch s o src run)

/-- MATCH_TIMEOUT (R321). A run that a peer's outlet answers ends here without a report: its device reports it (R324: DEDUCED,
log 51). -/
def execMatchTimeout (src : BitVec 48) (run : BitVec 64) (s : State) : Res :=
  match s.run src run with
  | some r =>
    .next (if s.glb.phase == .running && r.holding then
      let s := s.toTick (r.sentAt + s.cfg.matchT * 10 * msNs)
      let s := if r.held.all fun h => (s.ofHandle h).isNone then s.dropRun r
        else failRun s r (if r.phase == .validating then 4 else 0)
      decideAll s
    else s)
  | none => .next s

/-! ### Validation (R325, R326) -/

/-- Results of CM_VALIDATE.CNF (ISO 15118-3: PRESUMED, log 52). -/
def valReady : Nat := 1
/-- See `valReady`. -/
def valSuccess : Nat := 2
/-- See `valReady`. -/
def valFailure : Nat := 3
/-- See `valReady`. -/
def valNotRequired : Nat := 4

/-- CM_VALIDATE.REQ at the stations `heard` (R325). -/
def slacValidate (s : State) (src : BitVec 48) (id : BitVec 64) (timer : Nat) (heard : List (Fin 128)) : State :=
  match s.run src id with
  | some r =>
    let outside := heard.filter fun o => !r.held.contains (s.handle o)
    let inside := r.held.filterMap s.ofHandle
    if r.phase = .answering then inside.foldl (fun s o => slacSend s o r (.validateCnf 0 valNotRequired)) s
    else if r.phase ≠ .validating then s
    else
      let s := outside.foldl (fun s o => slacSend s o r (.validateCnf 0 valFailure)) s
      let s := s.onRun src id fun r => { r with reqs := r.reqs + 1 }
      if r.reqs = 0 then inside.foldl (fun s o => slacSend s o r (.validateCnf 0 valReady)) s
      else if r.reqs = 1 then
        let s := s.onRun src id fun r => { r with togUntil := some (s.now + min timer 3500 * msNs), toggles := [] }
        inside.foldl (fun s o => s.onSta o fun x => { x with
          togHeld := true, togState := if (s.saf1 o).pilot = 1 then 1 else 0 }) s
      else s
  | none => s

/-- VALIDATE_REQ. -/
def execValidateReq (src : BitVec 48) (run : BitVec 64) (timer : Nat) (heard : List (Fin 128)) (s : State) : Res :=
  .next (slacValidate s src run timer (heard.filter (slacUp s)))

/-- The toggle window ends (R325, R326). -/
def endValidation (s : State) (r : Run) : State :=
  let count (h : Nat) : Nat := ((r.toggles.find? fun t => t.1 == h).map (·.2)).getD 0
  let win := r.held.filter fun h => decide (1 ≤ count h)
  let winner := if win.length = 1 then win.head? else none
  let s := s.onRun r.src r.id fun r => { r with togUntil := none, winner := winner }
  let s := (r.held.filterMap s.ofHandle).foldl (fun s o =>
    let res := if winner = some (s.handle o) then valSuccess else valFailure
    let n := min 255 (count (s.handle o))
    postOut (slacSend s o r (.validateCnf n res)) 0x0404 o (p8 n ++ p8 res)) s
  endToggle s r

/-- TOGGLE_WINDOW_END. -/
def execToggleWindowEnd (src : BitVec 48) (run : BitVec 64) (s : State) : Res :=
  match s.run src run with
  | some r => match r.togUntil with
    | some t => .next (if s.glb.phase == .running then endValidation (s.toTick t) r else s)
    | none => .next s
  | none => .next s

/-! ### Noise (R327) -/

/-- COMMON_IMPULSE: symbols are marked on these stations within 10 µs; on 8 or more it is a common impulse. -/
def execCommonImpulse (stations : List (Fin 128)) (s : State) : Res :=
  let l := stations.dedup
  let s := l.foldl (fun s o => s.onSta o fun x => { x with impulses := x.impulses + 1, markAt := some s.now }) s
  .next (if 8 ≤ l.length then
    { s with plc := { s.plc with commonImpulse := true, impulseCount := s.plc.impulseCount + 1, impulseAt := some s.now } }
  else s)

/-! ### Frames (R313) -/

/-- A SLAC message at station `o` goes to the coordinator. -/
def slacMessage (s : State) (o : Fin 128) (m : SlacMsg) : State :=
  match m with
  | .paramReq src id => slacParam s src id [o]
  | .startAtten src id => startSounding s src id
  | .sound src id length atten => takeSound s o src id length atten
  | .matchReq src id => slacMatch s o src id
  | .validateReq src id timer => slacValidate s src id timer [o]
  | .other => s

/-- The station address of outlet `o` (R310), its six octets in order. -/
def stationMac (s : State) (o : Fin 128) : List Byte :=
  let b := leBytes 6 s.plc.mac.toNat
  let low := (b.getD 4 0).toNat * 256 + (b.getD 5 0).toNat + s.handle o
  b.take 4 ++ beBytes 2 low

/-- A frame is addressed to the station, to broadcast or to a multicast group: the group bit of its first octet. -/
def addressed (s : State) (o : Fin 128) (bytes : List Byte) : Bool :=
  bytes.take 6 == stationMac s o || (bytes.getD 0 0).getLsbD 0

/-- A frame for the host goes to queue n, or is dropped and counted (R174, R313). The staging buffer of a station holds 2,048
bytes. -/
def frameToHost (s : State) (o : Fin 128) (bytes : List Byte) : State :=
  let r := (s.poolQ (rxQ o)).offer 2048 (Packet.plain bytes s.tim.mains)
  let s := s.onQ (rxQ o) fun _ => r.1
  if r.2 then s.onSta o fun x => { x with rxFrames := x.rxFrames + 1 }
  else framesLost s o 1 1

/-- PLC_FRAME_RECEIVED (R309, R313): the first rule that applies routes the frame; a longer one than 1,514 bytes is not accepted. -/
def execPlcFrameReceived (o : Fin 128) (slac : Option SlacMsg) (bytes : List (BitVec 8)) (s : State) : Res :=
  .next (if !slacUp s o || 1514 < bytes.length then s
  else
    let s := stationSend s o
    let mme := ofBytesBE ((bytes.drop 12).take 2) == 0x88E1
    match slac with
    | some m => slacMessage s o m
    | none =>
      if mme then s
      else if !(s.sta o).assoc then
        { s.onSta o fun x => { x with rxDropped := x.rxDropped + 1 } with plc := { s.plc with frameDrop := true } }
      else if addressed s o bytes then
        frameToHost s o bytes
      else s)

/-! ### Commands (R332, R333) -/

/-- Leave association. -/
def effLeaveAssociation (c : Cmd) (s : State) : State :=
  onOutlet c s fun o =>
    if (s.sta o).assoc then complete (endAssoc s o 4 (some c)).revote c 0 else complete s c 0x0A

/-- LEAVE_ASSOCIATION. -/
def execLeaveAssociation (c : Cmd) (s : State) : Res := .next (cmdStep [0x0400] effLeaveAssociation c s)

/-- Read association: PLC_STA_STATE. -/
def effReadAssociation (c : Cmd) (s : State) : State :=
  onOutlet c s fun o => complete s c 0 (rdPlc s (0x1000 + 0x20 * o.val))

/-- READ_ASSOCIATION. -/
def execReadAssociation (c : Cmd) (s : State) : Res := .next (cmdStep [0x0402] effReadAssociation c s)

/-- TLS sign (R332): the data of the command are the host's block. -/
def effTlsSign (c : Cmd) (s : State) : State :=
  let addr := c.p2 1
  let slot := fin 64 (fld (c.p 0) 0 8)
  if addr % 64 ≠ 0 then complete s c 0x02
  else if 64 ≤ fld (c.p 0) 0 8 ∨ keyUses slot.val ≠ 16 then complete s c 0x0A
  else withRandom c s fun s =>
    match useKey s slot with
    | (some k, s) =>
      let n := s.fresh
      let g := ecdsaSign (num256 k) (num256 c.data) n
      let s := { s with fresh := n + 1 }
      let s := s.hostWrite (BitVec.ofNat 64 (addr + 32)) (beBytes 32 g.1.toNat ++ beBytes 32 g.2.toNat)
      complete s c 0
    | (none, s) => complete s c 0x0A

/-- TLS_SIGN. -/
def execTlsSign (c : Cmd) (s : State) : Res := .next (cmdStep [0x0401] effTlsSign c s)

end Sys2Proof.Machine
end

