-- ==== Sys2Proof/Machine/Meas.lean ====
section
/-! DEFINITION. Measurement chains (chapter 11): the per-cycle quantities and what follows from them, accrual (chapter 12), the
temperature source, tone verification and its commands. -/

namespace Sys2Proof.Machine

/-! ### Temperature terms (R346 to R351) -/

/-- Rounding half away from zero (R348). -/
def roundAway (r : Rat) : Int := if 0 ≤ r then (r + 1 / 2).floor else -((-r + 1 / 2).floor)

/-- Index i of R348. -/
def tempPoint (t : Int) : Nat := (max 0 (min 28 ((t + 4000) / 500))).toNat

/-- A table's value at a temperature (R348). -/
def interpolate (l : List Int) (t : Int) : Int :=
  let i := tempPoint t
  let f : Rat := max 0 (min 1 (((t + 4000 - 500 * i : Int) : Rat) / 500))
  roundAway ((l.getD i 0 : Rat) + f * ((l.getD (i + 1) 0 : Rat) - l.getD i 0))

/-- The gain and delay term that a record's table gives at a temperature (R348). -/
def termsOf (s : State) (r : Option CalRec) (t : Int) : Option (Int × Int) :=
  r.bind fun r => s.met.legal.bind fun x => (x.tables.find? fun y => y.id == r.table).map fun y =>
    (interpolate y.gainT t, interpolate y.shiftT t)

/-- The terms of one lane at a temperature. -/
def laneTerms (s : State) (o : Fin 128) (t : Int) (l : Fin 8) (v : VLane) : VLane :=
  match termsOf s (laneCal s o l) t with
  | some x => { v with gT := x.1, sT := x.2 }
  | none => v

/-- The legal section in force takes effect for an outlet (R350): its lanes look up their records, one that had none starts again in
PENDING, and one that has none any longer enters NO_RECORD (R345, R357). -/
def applyLegal (s : State) (o : Fin 128) : State :=
  let crc := (s.met.legal.map (·.crc)).getD 0
  if (s.met1 o).legalCrc = crc then s
  else
    let s := lookUpCals (s.onMet o fun m => { m with legalCrc := crc }) o
    (assignedLanes s o).foldl (fun s l =>
      let none_ := (vget (s.met1 o).lanes l).state == .noRecord
      if none_ && (laneCal s o l).isSome then enterVerif s o l (if (s.met1 o).toneOff then .disabled else .pending) 0 0 0 0
      else if !none_ && (laneCal s o l).isNone then enterVerif s o l .noRecord 0 0 0 0
      else s) s

/-- At a boundary the legal section in force takes effect (R350), and the last TEMP sampled before it (R349). -/
def applyTemp (s : State) (o : Fin 128) : State :=
  let s := applyLegal s o
  match (s.met1 o).tempNext with
  | some w =>
    if (s.met1 o).tempFault then s
    else
      let t := signed 16 w.toNat
      s.onMet o fun m => { m with
        tempIn := w, point := BitVec.ofNat 5 (tempPoint t), tempNext := none
        lanes := Vector.ofFn fun l => laneTerms s o t l (vget m.lanes l) }
  | none => s

/-- TEMPERATURE_SOURCE (R351): it becomes faulty by the last STATUS, or, 1 s after a valid TEMP has returned, it is restored. -/
def execTemperatureSource (o : Fin 128) (s : State) : Res :=
  let st := (s.lane o).status
  let m := s.met1 o
  .next (if !s.clocksRun || !(s.lane o).statusSeen then s
  else match tempBad st with
    | some cause =>
      if m.tempFault then s
      else
        let s := s.onMet o fun m => { m with tempFault := true, tempOkSince := none }
        postOut { s with met := { s.met with tempAny := true } } 0x0503 o (p8 cause ++ p16 st.temp.toNat)
    | none =>
      match m.tempFault, m.tempOkSince with
      | true, some t =>
        let s := (s.toTick (t + secNs)).onMet o fun m => { m with tempFault := false, tempNext := some st.temp }
        postOut s 0x0503 o (p8 2 ++ p16 st.temp.toNat)
      | _, _ => s)

/-! ### Phase sequence, missing neutral and over-range (R362 to R364) -/

/-- Difference of two angles. -/
def angleDiff (a b : BitVec 16) : Nat := (a - b).toNat

/-- Sequence class of one cycle (R362): rms values in mV and crossing angles of V1 to V3. -/
def sequenceOf (s : State) (rms : List Nat) (cross : List (Option (BitVec 16))) : BitVec 2 :=
  if rms.any fun v => decide (v * 100 < 35 * s.cfg.vnom) then 3
  else match cross with
  | [some c1, some c2, some c3] =>
    let a := angleClass (angleDiff c2 c1)
    let b := angleClass (angleDiff c3 c1)
    if a = 2 ∧ b = 3 then 1 else if a = 3 ∧ b = 2 then 2 else 3
  | _ => 3

/-- A cycle of the missing-neutral rule (R363): whether it is declared now, and the run. √3 × SHR_VNOM is compared in squares. -/
def neutralStep (vnom : Nat) (declared : Bool) (run : Nat) (u0 : Nat) (ll : Vector Nat 3) : Bool × Nat :=
  if declared then
    let n := if u0 * 100 < 10 * vnom then run + 1 else 0
    if 50 ≤ n then (false, 0) else (true, n)
  else
    let bal := ll.toList.all fun v => decide (3 * (90 * vnom) ^ 2 ≤ (100 * v) ^ 2) && decide ((100 * v) ^ 2 ≤ 3 * (110 * vnom) ^ 2)
    let n := if bal && decide (15 * vnom ≤ 100 * u0) then run + 1 else 0
    if 3 ≤ n then (true, 0) else (false, n)

/-- The rules of a three-phase outlet (R362, R363). -/
def threePhase (s : State) (o : Fin 128) (p : Profile) (m : CycleQ) : State :=
  let vl := [1, 2, 3].filterMap fun r => laneOf p (BitVec.ofNat 4 r)
  if p.dc || vl.length ≠ 3 then s
  else
    let x := s.met1 o
    let k := sequenceOf s (vl.map fun l => vget m.rms l) (vl.map fun l => vget m.cross l)
    let run := x.seqRun.next k
    let nn := neutralStep s.cfg.vnom x.neutral x.neutralRun m.u0 m.ll
    let s := s.onMet o fun x => { x with seqRun := run, seqCls := run.cls, neutral := nn.1, neutralRun := nn.2 }
    let s := if run.cls = x.seqCls then s
      else postOut { s with met := { s.met with seqAny := true } } 0x0504 o (p8 x.seqCls.toNat ++ p8 run.cls.toNat)
    if nn.1 = x.neutral then s
    else postOut { s with met := { s.met with neutralAny := s.met.neutralAny || nn.1 } } 0x0505 o (p8 (b2n !nn.1) ++ p32 m.u0)

/-- Over-range (R364). -/
def overRangeStep (s : State) (o : Fin 128) (m : CycleQ) : State :=
  let x := s.met1 o
  let s := s.onMet o fun x => { x with overRange := m.overLanes }
  if m.overLanes = 0 then s
  else
    let s := { s with met := { s.met with overAny := true } }
    let due := match x.overAt with | some t => s.since t secNs | none => true
    if due then postOut (s.onMet o fun x => { x with overAt := some s.now }) 0x0506 o (p8 m.overLanes.toNat ++ p32 m.xMax) else s

/-! ### Gaps (R339) -/

/-- Filled samples are counted, and a run of more than 32 marked samples makes the cycle gapped. -/
def gapStep (s : State) (o : Fin 128) (m : CycleQ) : State :=
  let miss := (s.met1 o).missInCycle
  let s := s.onMet o fun x => { x with gaps := x.gaps + BitVec.ofNat 32 m.filled, missInCycle := 0 }
  if 32 < m.run then
    postOut { s with met := { s.met with gapAny := true } } 0x0502 o
      (p16 (min 0xFFFF miss) ++ p16 (min 0xFFFF m.run) ++ p32 (s.cycle % 2 ^ 32))
  else s

/-! ### Accrual (R371 to R375, R380, R381) -/

/-- Add to register `j` of outlet `o`, in 2^-48 of its unit. -/
def addReg (s : State) (o : Fin 128) (j : Fin 13) (v : Nat) : State :=
  s.onEnr o fun x => { x with live := { x.live with regs := vmod x.live.regs j (· + v) } }

/-- Add to site register `j`. -/
def addSite (s : State) (j : Fin 12) (v : Nat) : State :=
  { s with enr := { s.enr with site := { s.enr.site with regs := vmod s.enr.site.regs j (· + v) } } }

/-- Add a signed quantity to a pair of registers by the sign rule of R373. -/
def addSigned (s : State) (o : Fin 128) (pos neg : Fin 13) (e : Int) : State := addReg s o (if 0 ≤ e then pos else neg) e.natAbs

/-- Cable loss of a window in 2^-48 mWh (R380): the loop resistance in µΩ, temperatures in 0.01 °C, the sum of the squares of the
IDC samples in mA². -/
def cableLoss (rLoop : Nat) (tTag tFe : Int) (sumSq : Nat) : Nat :=
  let k : Int := 10 ^ 7 + 393 * (max tTag tFe - 2000)
  k.toNat * rLoop * sumSq * 2 ^ 48 / (10 ^ 19 * 28800)

/-- Compensation of a DC window (R380, R381). -/
def compensate (s : State) (o : Fin 128) (e : Int) (sumSq : Nat) : State :=
  let j := s.tagJ1 o
  let ok := (s.aut1 o).cableValid
  let was := (s.enr1 o).comp
  let s := if ok then
      let loss := cableLoss j.rLoop.toNat (signed 16 j.temp.toNat) (signed 16 (s.lane o).status.temp.toNat) sumSq
      let s := if 0 ≤ e then addReg s o 7 (e - loss).toNat else addReg s o 8 (e.natAbs + loss)
      addReg s o 9 loss
    else
      let s := addSigned s o 7 8 e
      { addReg s o 12 e.toNat with enr := { s.enr with uncompAny := true } }
  let s := s.onEnr o fun x => { x with comp := ok, live := { x.live with
    flags := if ok then x.live.flags &&& 0xF#5 else x.live.flags ||| 0x10#5 } }
  if ok = was then s else postOut s 0x0518 o (p8 (b2n !ok) ++ p32 j.rLoop.toNat)

/-- A cycle or window of an outlet is accrued (R373, R375). -/
def accrue (s : State) (o : Fin 128) (p : Profile) (m : CycleQ) : State :=
  let st := (assignedLanes s o).map fun l => (vget (s.met1 o).lanes l).state
  if (s.enr1 o).skipCycle then s.onEnr o fun x => { x with skipCycle := false }
  else if st.contains .noRecord then s
  else
    let pairs := (List.finRange 3).filter fun k =>
      p.roles.toList.contains (BitVec.ofNat 4 (1 + k.val)) && p.roles.toList.contains (BitVec.ofNat 4 (4 + k.val))
    let e : Int := if p.dc then m.e else (pairs.map fun k => vget m.pairs k).sum
    let s := addSigned s o 0 1 e
    let s := if p.dc then compensate s o e m.sumSq
      else
        let s := pairs.foldl (fun s k => addReg s o ⟨4 + k.val, by omega⟩ (vget m.pairs k).toNat) s
        addSigned s o 2 3 m.q
    let s := addSite s 7 e.toNat
    let s := if st.any fun x => x == .fail || x == .absent || x == .disabled then addReg s o 10 e.natAbs else s
    if 32 < m.run then (addReg s o 11 e.natAbs).onEnr o fun x => { x with live := { x.live with gapped := true } } else s

/-! ### Welds (R254, R257) -/

/-- The weld cases of R254, and the readings of R257, from the safety island's own samples of the last cycle or 20 ms. -/
def weldStep (s : State) (o : Fin 128) (p : Profile) : State :=
  let rms (rs : List Nat) : List Nat :=
    rs.filterMap fun r => (laneOf p (BitVec.ofNat 4 r)).map fun l => rmsRaw (islandLast s o l (windowLen s o)) / 1000
  let cs := rms [4, 5, 6, 10]
  let c := s.ctx o
  let wv := ((s.safRec o).map (·.weldVAc)).getD 0
  let vHit := !p.dc && p.vside && !c.commanded && s.since (max c.main.cmdAt c.aux.cmdAt) (100 * msNs)
    && (rms [1, 2, 3]).any fun v => decide (wv * 1000 ≤ v)
  let iHit := !c.commanded && c.bothOpen && s.since c.openSince (100 * msNs) && cs.any fun v => decide (1000 ≤ v)
  let nv := if vHit then (s.saf1 o).weldRunV + 1 else 0
  let ni := if iHit then (s.saf1 o).weldRunI + 1 else 0
  let s := s.onSaf o fun x => { x with
    weldRunV := nv, weldRunI := ni, iMaxLane := cs.foldl max 0, vdc := (meanOf (islandRole s o 9)).natAbs / 1000 }
  if nv = 3 then foundWeld s o 0 else if ni = 3 then foundWeld s o 2 else evalPermit s o

/-! ### The boundary -/

/-- The lanes of an outlet's profile by what R361 and R373 take from them. -/
def outletLanes (s : State) (o : Fin 128) (p : Profile) : CycleLanes :=
  { v := [laneOf p 1, laneOf p 2, laneOf p 3], i := [laneOf p 4, laneOf p 5, laneOf p 6]
    dc := (laneOf p 9).bind fun v => (laneOf p 10).map fun i => (v, i)
    volt := fun l => if [1, 2, 3, 9, 11, 12].contains (vget p.roles l).toNat then some (((laneCal s o l).map (·.fsRms)).getD 0) else none }

/-- The quantities of an outlet's running cycle or window. -/
def outletCycle (s : State) (o : Fin 128) (p : Profile) : CycleQ := cycleOf s (s.met1 o).chain (outletLanes s o p)

/-- The quantities of the incomer's running cycle: channels 0 to 2 with 4 to 6 (R360, R373). -/
def incomerCycle (s : State) : CycleQ :=
  cycleOf s s.met.incChain
    { v := [some 0, some 1, some 2], i := [some 4, some 5, some 6], dc := none
      volt := fun c => if c.val < 4 then some (((calOf s 0 c.val).map (·.fsRms)).getD 0) else none }

/-- The quantities of R361 are delivered for an outlet. -/
def deliver (s : State) (o : Fin 128) (p : Profile) (m : CycleQ) : State :=
  let has (l : Fin 8) : Bool := vget p.roles l != 0 && (vget (s.met1 o).lanes l).state != .noRecord
  s.onMet o fun x => { x with
    lanes := Vector.ofFn fun l =>
      let v := vget x.lanes l
      if has l then { v with
        rms := BitVec.ofNat 32 (vget m.rms l), angle := vget m.cross l
        angleHist := match vget m.cross l with | some a => (a :: v.angleHist).take 16 | none => [] }
      else { v with rms := 0, angle := none, angleHist := [] }
    iRms := (([4, 5, 6, 10].filterMap fun r => (laneOf p (BitVec.ofNat 4 r)).map fun l => vget m.rms l)).foldl max 0
    power := if p.dc then m.e.natAbs * 180000 / 2 ^ 48 else 0 }

/-- The samples of an outlet's cycle have been used. -/
def cycleUsed (s : State) (o : Fin 128) : State := s.onMet o fun m => { m with chain := m.chain.nextCycle }

/-- An outlet's boundary in the legal island: while its lanes are silent no samples exist, and nothing is delivered (R339). -/
def outletBoundary (s : State) (o : Fin 128) (p : Profile) : State :=
  if !(s.lane o).link.measured || (s.met1 o).silent then
    cycleUsed (s.onMet o fun x => { x with lanes := vall x.lanes fun v => { v with angle := none, angleHist := [] } }) o
  else
    let m := outletCycle s o p
    let s := gapStep (cycleUsed s o) o m
    let s := accrue s o p m
    let s := applyTemp (deliver s o p m) o
    let s := if p.dc then s else outletPhase s o ((laneOf p 1).bind fun l => (vget m.cross l).map (·.toNat))
    overRangeStep (threePhase s o p m) o m

/-- The boundary of an outlet (R349): of a DC profile, time runs on to the next multiple of 20 ms. The safety island judges its own
samples there, and the legal island closes its cycle or window unless decimation is stopped (R377) or its lasting fault stands (R528). -/
def outletEnds (s : State) (o : Fin 128) (p : Profile) : State :=
  let w := 20 * msNs
  let s := if p.dc then
      let s := s.toTick (((s.met1 o).boundAt / w + 1) * w)
      s.onMet o fun m => { m with boundAt := s.now / w * w }
    else s
  let s := weldStep s o p
  if s.enr.stopped || s.tie.legalStopped then s else outletBoundary s o p

/-- Channels of the incomer that have a record and produce samples (R344, R360). -/
def incomerPresent (s : State) : BitVec 8 :=
  BitVec.ofNat 8 (ofBits ((List.range 8).map fun c => (calOf s 0 c).isSome))

/-- The bits of the incomer's modulators since its last boundary go through its chains (R360): one clock is 100 ns, the last one now. -/
def incomerBits (s : State) (bits : List Byte) : State :=
  let n := bits.length
  let par := incomerPar s
  let f := s.tim.freq
  { s with met := { s.met with incChain := bits.zipIdx.foldl (fun c (x : Byte × Nat) =>
      clockIn par f c (some x.1) (s.now - (n - 1 - x.2) * 100 - dDec)) s.met.incChain } }

/-- The incomer's energies of a cycle (R372, R373). -/
def incomerAccrue (s : State) (m : CycleQ) : State :=
  let pr := incomerPresent s
  let pairs := (List.finRange 3).filter fun k => pr.getLsbD k.val && pr.getLsbD (4 + k.val)
  let e : Int := (pairs.map fun k => vget m.pairs k).sum
  if pairs.isEmpty then s else
    let s := addSite s (if 0 ≤ e then 0 else 1) e.natAbs
    let s := addSite s (if 0 ≤ m.q then 2 else 3) m.q.natAbs
    pairs.foldl (fun s k => addSite s ⟨4 + k.val, by omega⟩ (vget m.pairs k).toNat) s

/-- The rules of the incomer's voltages (R362, R363). -/
def incomerPhases (s : State) (m : CycleQ) : State :=
  let v : List (Fin 8) := [0, 1, 2]
  let old := s.met.incSeq
  let run := s.met.incSeqRun.next (sequenceOf s (v.map fun l => vget m.rms l) (v.map fun l => vget m.cross l))
  let nn := neutralStep s.cfg.vnom s.met.incNeutral s.met.incNeutralRun m.u0 m.ll
  let was := s.met.incNeutral
  let s := { s with met := { s.met with
    incSeqRun := run, incSeq := run.cls, incNeutral := nn.1, incNeutralRun := nn.2
    seqAny := s.met.seqAny || run.cls != old, neutralAny := s.met.neutralAny || (nn.1 && !was) } }
  let s := if run.cls = old then s else postDev s 0x0504 (p8 old.toNat ++ p8 run.cls.toNat)
  if nn.1 = was then s else postDev s 0x0505 (p8 (b2n !nn.1) ++ p32 m.u0)

/-- The incomer's samples have been used; the terms of the interface die's temperature take effect (R348, R349: DESIGN CHOICE, log 135). -/
def incomerTaken (s : State) : State :=
  { s with met := { s.met with
    incChain := s.met.incChain.nextCycle
    incTerms := Vector.ofFn fun c => (termsOf s (calOf s 0 c.val) (Config.dieTemp s.now)).getD (vget s.met.incTerms c) } }

/-- The incomer's cycle at angle 0x0000 (R361 to R363, R373). -/
def incomerBoundary (s : State) : State :=
  let m := incomerCycle s
  let pr := incomerPresent s
  let s := { s with met := { s.met with
    incPresent := pr
    incRms := Vector.ofFn fun c => if pr.getLsbD c.val then BitVec.ofNat 32 (vget m.rms c) else 0 } }
  let s := incomerAccrue (incomerTaken s) m
  let s := if pr &&& 0x77#8 = 0x77#8 then s else { s with enr := { s.enr with balInvalid := true } }
  if pr &&& 7#8 ≠ 7#8 then s else incomerPhases s m

/-- The boundary of the incomer: the angle clock runs on to the next angle 0x0000, and the source voltage's last cycle is followed (R65,
R67, R361). -/
def incomerEnds (s : State) (bits : List Byte) (src : Option SrcCycle) : State :=
  let s := s.toMains (max ((s.met.incAt + 1) * 65536) (s.tim.mains / 65536 * 65536))
  let s := incomerBits { s with met := { s.met with incAt := s.tim.mains / 65536 } } bits
  let s := match src with | some c => trackSource s c | none => s
  if s.enr.stopped || s.tie.legalStopped then s else incomerBoundary s

/-- Step 2 of R377: every open cycle or window is closed at its last sample and accrued; `bits` are the incomer's since its last
boundary. The next cycle runs from there (R378). -/
def closeOpen (s : State) (bits : List Byte) : State :=
  if s.tie.legalStopped then s
  else
    let s := incomerBits s bits
    let s := { incomerAccrue s (incomerCycle s) with met := { s.met with incChain := s.met.incChain.nextCycle } }
    forAll outlets (fun s o => match s.ctxProfile o with
      | some p =>
        if !(s.lane o).link.measured || (s.met1 o).silent then s
        else cycleUsed (accrue s o p.prof (outletCycle s o p.prof)) o
      | none => s) s

/-- METERING_CYCLE_BOUNDARY (R361): of an outlet, or of the incomer. -/
def execMeteringCycleBoundary (o : Option (Fin 128)) (bits : List Byte) (src : Option SrcCycle) (s : State) : Res :=
  .next (if !s.clocksRun then s
  else match o with
    | some o => match s.ctxProfile o with
      | some p => outletEnds s o p.prof
      | none => s
    | none => incomerEnds s bits src)

/-! ### Tone verification (R355 to R357) -/

/-- The class of a valid result by its DEV (R357). -/
def devClass (x : LegalSec) (dev : Int) : Verif :=
  if dev.natAbs ≤ x.driftLim then .pass else if dev.natAbs ≤ x.failLim then .drift else .fail

/-- A correlation result of a lane (R355 to R357): c0 in 2^-30, the lag of the largest ratio, SE in ppm, and whether 99 % of the
window's samples are unmarked. An invalid result breaks a run (DEDUCED, log 54). -/
def toneResult (s : State) (o : Fin 128) (l : Fin 8) (x : LegalSec) (r : CalRec) (c0 lag : Int) (se : Nat) (full : Bool) : State :=
  let v := vget (s.met1 o).lanes l
  let dev : Int := if r.toneRef = 0 then 0 else c0 * 1000000 / r.toneRef - 1000000
  let valid := full && decide (se ≤ 50)
  let absent := decide (2 * c0 < r.toneRef) || decide (2 ≤ lag.natAbs)
  let k := devClass x dev
  let n := if valid then (if v.runState = k then v.runCount + 1 else 1) else 0
  let a := if absent then v.absRun + 1 else 0
  let rec_ := if valid && k != .fail then v.recover + 1 else 0
  let s := s.onVLane o l fun v => { v with
    dev := dev, c0 := if valid || v.c0.isSome then some c0 else none
    runState := if valid then k else v.runState, runCount := n, absRun := a, recover := rec_ }
  let go (new : Verif) : State := enterVerif s o l new dev se (dev + 1000000) lag
  match v.state with
  | .fail => if 60 ≤ rec_ then go k else s
  | .absent => s
  | _ => if 3 ≤ a then go .absent else if 3 ≤ n ∧ k ≠ v.state then go k else s

/-- TONE_CORRELATION (R355): 1 s after the last one, over the lane's window. A window is full 60 s after PENDING is entered; a silent,
disabled or recordless lane has no results (R357, R359). -/
def execToneCorrelation (o : Fin 128) (l : Fin 8) (s : State) : Res :=
  .next (match findCal s o l, s.met.legal with
  | some r, some x =>
    if !s.clocksRun || s.tie.legalStopped || !(assignedLanes s o).contains l then s
    else
      let s := s.toTick ((vget (s.met1 o).lanes l).toneAt + secNs)
      let s := s.onVLane o l fun v => { v with toneAt := s.now }
      let v := vget (s.met1 o).lanes l
      if (s.met1 o).silent || v.state == .disabled || v.state == .noRecord || (v.state == .pending && !s.since v.enteredAt (60 * secNs)) then s
      else
        let t := correlate (vget (s.met1 o).chain.lanes l).tap r.toneRef
        toneResult s o l x r t.c0 t.lag t.se t.full
  | _, _ => s)

/-- INCOMER_CHECK (R360): a deviation of more than 0.1 %. The old state reported is the same as the new one (DESIGN CHOICE, log
55). -/
def execIncomerCheck (ch : Fin 8) (ppm : Int) (s : State) : Res :=
  .next (if s.clocksRun && s.met.incPresent.getLsbD ch.val && decide (1000 < ppm.natAbs) then
    verifEvent { s with met := { s.met with incCheck := true } } none ch.val 3 3 ppm 0 else s)

/-! ### Commands (R367) -/

/-- Read verification. -/
def effReadVerification (c : Cmd) (s : State) : State :=
  onOutlet c s fun o =>
    let v := vget (s.met1 o).lanes (fin 8 (fld (c.p 0) 0 3))
    let d : Int := max (-0x800000) (min 0x7FFFFF v.dev)
    complete s c 0 (pack [(0, v.state.code), (8, twos 24 d)])

/-- READ_VERIFICATION. -/
def execReadVerification (c : Cmd) (s : State) : Res := .next (cmdStep [0x0500] effReadVerification c s)

/-- Every lane that has a record enters a state. -/
def allVerif (s : State) (o : Fin 128) (new : Verif) : State :=
  verifFlags ((List.finRange 8).foldl (fun s l =>
    if (vget (s.met1 o).lanes l).state = .noRecord then s else enterVerif s o l new 0 0 0 0) s) o

/-- Tone control. -/
def effToneControl (c : Cmd) (s : State) : State :=
  onOutlet c s fun o =>
    let on := bit (c.p 0) 0
    let lanes := ((assignedLanes s o).map fun l => 2 ^ l.val).sum
    let s := recordOnly (s.onMet o fun m => { m with toneOff := !on }) false 0x0786 (some o) (p8 lanes ++ p8 (b2n on))
    complete (allVerif s o (if on then .pending else .disabled)) c 0

/-- TONE_CONTROL. -/
def execToneControl (c : Cmd) (s : State) : Res := .next (cmdStep [0x0501] effToneControl c s)

/-- Restart verification; with the tone disabled its condition is not met (DEDUCED, log 54). -/
def effRestartVerification (c : Cmd) (s : State) : State :=
  onOutlet c s fun o =>
    if (s.met1 o).toneOff then complete s c 0x0A else complete (allVerif s o .pending) c 0

/-- RESTART_VERIFICATION. -/
def execRestartVerification (c : Cmd) (s : State) : Res := .next (cmdStep [0x0502] effRestartVerification c s)

end Sys2Proof.Machine
end

