-- ==== Sys2Proof/Machine/Energy.lean ====
section
/-! DEFINITION. Energy registers, pulses and energy balance (chapter 12), with what a commit does for billing (chapter 13):
tariff accrual, sessions, periods and tariff switches, in the order of R427. -/

namespace Sys2Proof.Machine

/-! ### Tariff (R403 to R408) -/

/-- Plan `i` of the tariff section in force; COUNT 0 is an undefined plan (R403). -/
def Tariff.plan (t : Tariff) (i : Fin 64) : Plan := t.plans.getD i.val ⟨0, 0, []⟩

/-- The tariff index of a plan at legal seconds `t` (R404). -/
def indexAt (tf : Tariff) (tab : List LocalEntry) (p : Plan) (t : Nat) : Fin 16 :=
  let lt : Int := t + offsetAt tab t * 900
  let d := lt / 86400
  let m := ((lt - d * 86400) / 60).toNat
  let found := (List.range 8).findSome? fun k =>
    let day : Int := d - k
    let ty := if tf.special.any fun x => (x : Int) == day then 7 else ((day + 5) % 7).toNat
    let lim := if k = 0 then m else 1439
    ((p.points.filter fun q => q.2.1.getLsbD ty && decide (q.1 ≤ lim)).getLast?).map (·.2.2)
  found.getD p.defIndex

/-- The index of a plan by the validity of legal time (R408). -/
def planIndex (s : State) (i : Fin 64) : Fin 16 :=
  let p := s.bil.tariff.plan i
  if s.tim.legalState = .unsync then p.defIndex else indexAt s.bil.tariff s.tim.localTab p s.legalSec

/-- The billing import and export registers of an outlet (R398). -/
def billRegs (s : State) (o : Fin 128) : Fin 13 × Fin 13 :=
  match s.ctxProfile o with | some p => if p.prof.dc then (7, 8) else (0, 1) | none => (0, 1)

/-- Billing import and export of an outlet in 2^-48 mWh. -/
def billNow (s : State) (o : Fin 128) : Nat × Nat :=
  let r := billRegs s o
  (vget (s.enr1 o).live.regs r.1, vget (s.enr1 o).live.regs r.2)

/-- The increments since the last commit accrue to the index in force (R406, R407). Where another profile has made other
registers the billing registers, what they hold is not accrued again. -/
def accrueTariff (s : State) (o : Fin 128) : State :=
  let b := billNow s o
  let i := (s.bil1 o).index
  s.onEnr o fun x => { x with
    billBase := b
    live := { x.live with
      impIdx := vmod x.live.impIdx i (· + (b.1 - x.billBase.1)), expIdx := vmod x.live.expIdx i (· + (b.2 - x.billBase.2)) } }

/-- The incomer's tariff registers (R407). -/
def accrueIncomer (s : State) : State :=
  let g := s.enr.site.regs
  let i := s.bil.incIndex
  let b := (vget g 0, vget g 1)
  { s with enr := { s.enr with
    incBase := b
    site := { s.enr.site with
      impIdx := vmod s.enr.site.impIdx i (· + (b.1 - s.enr.incBase.1))
      expIdx := vmod s.enr.site.expIdx i (· + (b.2 - s.enr.incBase.2)) } } }

/-- Step 4 of R427: plans whose index changed switch, with one event per plan (R406). -/
def switchTariff (s : State) (number : Nat) : State :=
  let dp := s.bil.tariff.defaultPlan
  let uses := ((outlets.map fun o => ((s.bil1 o).plan, (s.bil1 o).index)) ++ [(dp, s.bil.incIndex)]).dedup
  let changed := uses.filter fun u => planIndex s u.1 != u.2
  let s' := forAll outlets (fun t o => t.onBil o fun b => { b with index := planIndex s b.plan }) s
  let s' := { s' with bil := { s'.bil with incIndex := planIndex s dp, clockDefault := s.tim.legalState == .unsync } }
  changed.foldl (fun t u => postDev t 0x0603 (p8 u.1.val ++ p8 u.2.val ++ p8 (planIndex s u.1).val ++ p32 (number % 2 ^ 32))) s'

/-! ### Sessions (R412, R413, R415 to R417) -/

/-- Registers UNVERIFIED, GAPPED, UNCOMP and LOSS. -/
def markRegs (s : State) (o : Fin 128) : List Nat :=
  let r := (s.enr1 o).live.regs
  [vget r 10, vget r 11, vget r 12, vget r 9]

/-- A session's register values at a commit, as words of a mirror record (R421). -/
def commitWords (s : State) (o : Fin 128) (number : Nat) : List Nat :=
  [number, s.tim.legal, (billNow s o).1, (billNow s o).2] ++ markRegs s o ++ (s.enr1 o).live.impIdx.toList

/-- The flags of R417 that a commit brings to a session of outlet `o`. -/
def commitFlags (s : State) (o : Fin 128) : BitVec 15 :=
  let x := (s.enr1 o).live
  BitVec.ofNat 15 (ofBits [s.tim.legalState == .unsync, s.tim.legalState == .aged, false, x.flags.getLsbD 0, x.flags.getLsbD 1,
    x.gapped, x.flags.getLsbD 3, x.flags.getLsbD 4, x.flags.getLsbD 2])

/-- A session takes this commit as its start (R412). -/
def Session.start (x : Session) (s : State) (o : Fin 128) (number : Nat) : Session :=
  let b := billNow s o
  { x with startCommit := some number, startLegal := s.tim.legal, startImp := b.1, startExp := b.2, startMark := markRegs s o,
           startIdx := (s.enr1 o).live.impIdx, flags := x.flags ||| commitFlags s o }

/-- A 32-bit energy field (R416). -/
def sat32 (v : Nat) : Nat := min 0xFFFFFFFF v

/-- The record of a session that ends at this commit (R415, R416). -/
def sessionRecord (s : State) (o : Fin 128) (x : Session) (reason : BitVec 8) (number : Nat) : SignedRec :=
  let b := billNow s o
  let d (now start : Nat) : Nat := reg48 now - reg48 start
  let marks := (markRegs s o).zip x.startMark
  let deltas := d b.2 x.startExp :: (marks.map fun p => d p.1 p.2)
  let idx := (List.finRange 16).map fun i => d (vget (s.enr1 o).live.impIdx i) (vget x.startIdx i)
  let sat := (deltas ++ idx).any fun v => decide (0xFFFFFFFF < v)
  { kind := 1, reason := reason, device := false, flags := x.flags ||| (if sat then 0x4000 else 0), signer := s.keep.serial
    recSeq := 0, handle := BitVec.ofNat 16 (s.handle o), plan := x.plan.val, sessionId := x.id, origin := x.origin
    startCommit := x.startCommit.getD number, endCommit := number, startLegal := x.startLegal, endLegal := s.tim.legal
    startImp := reg48 x.startImp, endImp := reg48 b.1
    words22 := (deltas.map fun v => BitVec.ofNat 32 (sat32 v)) ++ [x.contract], idxImp := idx.map fun v => BitVec.ofNat 32 (sat32 v)
    legalCrc := (s.met1 o).legalCrc, configVersion := s.upd.cfgActive, link := x.link, r := 0, s := 0, cmd := none }

/-- A closing session ends at this commit: its record waits for its release, and the event is posted (R413, R432). -/
def endSession (s : State) (o : Fin 128) (number : Nat) (x : Session) : State :=
  let x := if x.startCommit.isNone then x.start s o number else { x with flags := x.flags ||| commitFlags s o }
  let reason := x.closing.getD 0
  let r := sessionRecord s o x reason number
  let s := { s with bil := { s.bil with waiting := s.bil.waiting ++ [r] } }.mirror 3 [3, o.val, x.id]
  postOut s 0x0601 o (p64 x.id ++ p8 reason.toNat ++ p32 (sat32 (r.endImp - r.startImp)))

/-- Step 1 of R427 for one outlet: its tariff registers, and the sessions that end here. A commit that is not written and read back ends
none (R162: DEDUCED, log 146). -/
def commitOutlet (number : Nat) (ok : Bool) (s : State) (o : Fin 128) : State :=
  let s := accrueTariff s o
  let f := commitFlags s o
  let s := s.onBil o fun b => { b with
    session := b.session.map fun x => if x.startCommit.isSome then { x with flags := x.flags ||| f } else x
    closing := b.closing.map fun x => { x with flags := x.flags ||| f } }
  let due := if ok then (s.bil1 o).closing.filter fun x => !x.waitOpen else []
  due.foldl (fun s x => endSession s o number x) (s.onBil o fun b => { b with closing := b.closing.filter fun x => x.waitOpen || !ok })

/-- Sessions that open at this commit start after step 4 (R412, R427); a session that waits for open feedbacks starts here too. -/
def startSessions (number : Nat) (s : State) (o : Fin 128) : State :=
  let s := s.onBil o fun b => { b with closing := b.closing.map fun x => if x.startCommit.isNone then x.start s o number else x }
  match (s.bil1 o).session with
  | some x =>
    if x.startCommit.isNone then
      let s := (s.onBil o fun b => { b with session := some (x.start s o number) }).mirror 3
        ([1, o.val] ++ (x.start s o number).words ++ commitWords s o number)
      postOut s 0x0600 o (p64 x.id ++ p8 x.plan.val ++ p32 (number % 2 ^ 32))
    else s.mirror 3 ([1, o.val] ++ x.words ++ commitWords s o number)
  | none => s

/-! ### Demand intervals (R385, R386) -/

/-- Length of a demand interval in s. -/
def demandSecs (code : BitVec 3) : Nat := [5, 10, 15, 30, 60].getD code.toNat 15 * 60

/-- Demand in mW of an increment in 2^-48 mWh over `secs`. -/
def demandOf (inc secs : Nat) : Nat := inc * 3600 / (2 ^ 48 * max 1 secs)

/-- Step 2 of R427: an interval whose boundary has been reached closes. -/
def closeDemand (s : State) : State :=
  let e := s.enr
  let len := demandSecs e.demandLen
  if s.legalSec < (e.demandStart / len + 1) * len then s
  else
    let secs := if e.demandFlags.getLsbD 1 then (s.now - e.demandTick) / secNs else len
    let passed := e.passedOver + (s.legalSec / len - e.demandStart / len - 1)
    let n := e.demandStart / len % 2 ^ 32
    let fl := e.demandFlags.toNat
    let evt (s : State) (o : Option (Fin 128)) (d : Nat) : State :=
      postEvent s 0x0512 o (p32 n ++ p64 d ++ p8 fl ++ p8 (min 255 passed))
    let s := forAll outlets (fun s o =>
      let a := vget (s.enr1 o).live.regs 0
      let d := demandOf (a - (s.enr1 o).live.demandBase) secs
      let s := s.onEnr o fun x => { x with live := { x.live with
        lastDemand := d, maxDemand := max x.live.maxDemand d, demandBase := a } }
      if e.demandEvt && (s.ctxProfile o).isSome then evt s (some o) d else s) s
    let a := vget s.enr.site.regs 0
    let d := demandOf (a - s.enr.site.demandBase) secs
    let s := evt { s with enr := { s.enr with site := { s.enr.site with
      lastDemand := d, maxDemand := max s.enr.site.maxDemand d, demandBase := a } } } none d
    let s := match e.demandLenNext with
      | some c => recordOnly { s with enr := { s.enr with demandLen := c, demandLenNext := none } } false 0x0782 none
          (p8 e.demandLen.toNat ++ p8 c.toNat)
      | none => s
    let len' := demandSecs s.enr.demandLen
    { s with enr := { s.enr with
      demandStart := s.legalSec / len' * len', demandTick := s.now, passedOver := 0
      demandFlags := if e.demandLenNext.isSome then 8 else 0 } }

/-! ### Billing periods (R409 to R411, R419) -/

/-- The largest nominal boundary at or before legal seconds `t`. -/
def lastBoundary (tf : Tariff) (t : Nat) : Nat :=
  let len : Int := tf.periodDays * 86400
  ((t : Int) - ((t : Int) - tf.anchor) % len).toNat

/-- The snapshot of R411. -/
def periodSnap (s : State) : PeriodSnap :=
  { period := s.bil.period
    imp := Vector.ofFn fun o => (s.enr1 o).live.impIdx, exp := Vector.ofFn fun o => (s.enr1 o).live.expIdx
    maxD := Vector.ofFn fun o => (s.enr1 o).live.maxDemand
    incImp := s.enr.site.impIdx, incExp := s.enr.site.expIdx, incMaxD := s.enr.site.maxDemand }

/-- A snapshot as bytes: for each outlet its import registers, its export registers and MAX_DEMAND, then the incomer's (the spec
gives no layout: DESIGN CHOICE, log 56). -/
def snapBytes (x : PeriodSnap) : List Byte :=
  let one (i e : Vector Nat 16) (m : Nat) : List Byte := (i.toList ++ e.toList).flatMap (fun v => p64 (reg48 v)) ++ p64 m
  (outlets.flatMap fun o => one (vget x.imp o) (vget x.exp o) (vget x.maxD o)) ++ one x.incImp x.incExp x.incMaxD

/-- The period-close record (R419). -/
def periodRecord (s : State) (x : PeriodSnap) (number passed : Nat) (long step : Bool) : SignedRec :=
  let b := s.bil
  let g := s.enr.site
  let dig := beBytes 32 (sha256 (snapBytes x)).toNat
  let expD := reg48 (vget g.regs 1) - reg48 b.periodInc.2
  let idx := (List.finRange 16).map fun i => reg48 (vget g.impIdx i) - reg48 (vget b.periodIdx i)
  let sat := (expD :: idx).any fun v => decide (0xFFFFFFFF < v)
  { kind := 2, reason := 0, device := true, flags := b.periodFlags ||| (if sat then 0x4000 else 0), signer := s.keep.serial
    recSeq := 0, handle := 0, plan := b.tariff.defaultPlan.val, sessionId := x.period.toNat, origin := s.keep.serial
    startCommit := b.periodStart, endCommit := number, startLegal := b.periodStartLegal, endLegal := s.tim.legal
    startImp := reg48 b.periodInc.1, endImp := reg48 (vget g.regs 0)
    words22 := [BitVec.ofNat 32 (sat32 expD)] ++ bytesWords (dig.take 16) ++ [pack [(0, min 65535 passed), (16, b2n long), (17, b2n step)]]
    idxImp := idx.map fun v => BitVec.ofNat 32 (sat32 v)
    legalCrc := (s.met.legal.map (·.crc)).getD 0, configVersion := s.upd.cfgActive, link := 0, r := 0, s := 0, cmd := none }

/-- A period begins at this commit. -/
def openPeriod (s : State) (number : Nat) : State :=
  { s with bil := { s.bil with
    periodTick := s.now, periodStart := number, periodStartLegal := s.tim.legal
    periodInc := (vget s.enr.site.regs 0, vget s.enr.site.regs 1), periodIdx := s.enr.site.impIdx, periodFlags := 0 } }

/-- Step 3 of R427: the open period closes (R410). The record and the event carry the number of the period that closes (DEDUCED,
log 57). -/
def closePeriod (s : State) (number : Nat) : State :=
  let len := s.bil.tariff.periodDays * 86400
  if s.tim.legalState = .unsync ∨ len = 0 then s
  else
    let b := lastBoundary s.bil.tariff s.legalSec
    match s.bil.lastClose with
    | none => openPeriod { s with bil := { s.bil with lastClose := some b } } number
    | some last =>
      if s.legalSec < last + len then s
      else
        let passed := (b - last) / len - 1
        let long := decide (len * secNs < s.now - s.bil.periodTick)
        let step := s.bil.periodFlags.getLsbD 2
        let x := periodSnap s
        let r := periodRecord s x number passed long step
        let s := forAll outlets (fun s o => s.onEnr o fun e => { e with live := { e.live with maxDemand := 0 } }) s
        let s := { s with
          enr := { s.enr with site := { s.enr.site with maxDemand := 0 } }
          bil := { s.bil with period := s.bil.period + 1, lastClose := some b, periodClosed := true
                              snaps := (x :: s.bil.snaps).take 12, waiting := s.bil.waiting ++ [r] } }
        openPeriod (postDev s 0x0604 (p32 x.period.toNat ++ p16 (min 65535 passed) ++ p8 (b2n long + 2 * b2n step))) number

/-! ### Pulses (R382 to R384) -/

/-- The source register of a pulse output, in 2^-48 of its unit. -/
def pulseSource (s : State) (src : BitVec 3) (o : Fin 128) : Nat :=
  match src.toNat with
  | 1 => vget (s.enr1 o).live.regs 0 | 2 => vget (s.enr1 o).live.regs 1
  | 3 => vget (s.enr1 o).live.regs 2 | 4 => vget (s.enr1 o).live.regs 3
  | 5 => vget s.enr.site.regs 0 | 6 => vget s.enr.site.regs 1 | 7 => vget s.enr.site.regs 7
  | _ => 0

/-- ENR_PLS_CFG as a word. -/
def PulseOut.cfg (p : PulseOut) : Word := pack [(0, b2n p.en), (1, p.src.toNat), (4, p.outlet.val), (16, p.width)]

/-- Change pulse output `k`. -/
def State.onPulse (s : State) (k : Fin 8) (f : PulseOut → PulseOut) : State :=
  { s with enr := { s.enr with pulses := vmod s.enr.pulses k f } }

/-- A commit's share of pulse output `k`. -/
def commitPulse (s : State) (k : Fin 8) : State :=
  let p := vget s.enr.pulses k
  let src := pulseSource s p.src p.outlet
  let all := p.acc + (src - p.lastSrc) * p.const
  let quantum := 1000000 * 2 ^ 48
  let owed := p.owed + all / quantum
  let excess := owed - 1000000
  let s := s.onPulse k fun p => { p with
    acc := all % quantum, owed := min owed 1000000, dropped := p.dropped + BitVec.ofNat 12 excess, lastSrc := src }
  let s := if owed < 1000000 then s
    else
      let s := { s with enr := { s.enr with overrun := true } }
      let due := match p.overAt with | some t => s.since t (60 * secNs) | none => true
      if due then postDev (s.onPulse k fun p => { p with overAt := some s.now }) 0x0515 (p8 k.val ++ p32 1000000) else s
  match p.next with
  | none => s
  | some (en, sr, o, w, c) =>
    let q := vget s.enr.pulses k
    let new : PulseOut := { q with
      en := en, src := sr, outlet := o, width := w, const := c, next := none, acc := 0, lastSrc := pulseSource s sr o }
    recordOnly (s.onPulse k fun _ => new) false 0x0781 none
      (p8 k.val ++ leBytes 4 q.cfg.toNat ++ leBytes 4 new.cfg.toNat ++ p32 q.const ++ p32 (q.acc / 2 ^ 48))

/-- PULSE_SEND (R383): the clock runs to the end of the running pulse and its pause; the outputs are off during removal (R384). -/
def execPulseSend (k : Fin 8) (s : State) : Res :=
  let p := vget s.enr.pulses k
  .next (if p.owed = 0 || !p.en || !(s.glb.phase == .running || s.glb.phase == .serviceReset) then s
  else
    let s := (s.toTick p.busyUntil).send (.pulse k)
    s.onPulse k fun p => { p with
      owed := p.owed - 1, count := p.count + 1, lowUntil := s.now + p.width * msNs, busyUntil := s.now + 2 * p.width * msNs })

/-! ### Energy balance (R387 to R390) -/

/-- Net energy of an outlet in 2^-48 mWh. -/
def netOut (s : State) (o : Fin 128) : Int := ((vget (s.enr1 o).live.regs 0 : Nat) : Int) - ((vget (s.enr1 o).live.regs 1 : Nat) : Int)

/-- Net energy of the incomer. -/
def netInc (s : State) : Int := ((vget s.enr.site.regs 0 : Nat) : Int) - ((vget s.enr.site.regs 1 : Nat) : Int)

/-- e_out of this device in mWh (R387). -/
def balanceOut (s : State) : Int :=
  ((outlets.map fun o =>
    let d : Rat := ((netOut s o - s.enr.balBase.2.getD o.val 0 : Int) : Rat)
    match s.ctxProfile o with
    | some p => if p.prof.dc then d * 100 / (max 1 p.share.eff : Nat) else d
    | none => d).sum / 2 ^ 48).floor

/-- BAL_WIN in cycles (R387). -/
def balCycles (s : State) : Nat := s.enr.balWin * 60 * (if s.tim.nominal60 then 60 else 50)

/-- A window closes at a commit whose number is a multiple of its length; a device that does not evaluate sends its sums to its
peers (R390). -/
def closeWindow (s : State) (number : Nat) : State :=
  let w := max 1 (balCycles s)
  if number % w ≠ 0 then s
  else
    let n := number / w
    let eout := balanceOut s
    let valid := !s.enr.balInvalid
    let win : BalWindow := {
      number := n, closedAt := s.now, einc := (netInc s - s.enr.balBase.1) / 2 ^ 48, eout := eout
      span := s.now - s.enr.balStartTick, valid := valid
      declared := (s.enr.balDecl.find? fun d => d.1 == n).map (·.2), peers := [] }
    let s := { s with enr := { s.enr with
      balWait := if s.enr.balEn then some win else none
      balDecl := s.enr.balDecl.filter fun d => d.1 != n
      balStart := number, balStartTick := s.now, balInvalid := false, balBase := (netInc s, outlets.map (netOut s)) } }
    if s.enr.balEn then s
    else (List.finRange 3).foldl (fun s k =>
      let p : Fin 4 := ⟨k.val, by omega⟩
      if (vget s.tie.ports p).up then s.send (.tie p (.balance s.slotNo n eout valid)) else s) s

/-- An outlet that is silent or has a lane without a record makes the open window invalid (R388). -/
def balanceMarks (s : State) : State :=
  if outlets.any fun o => let f := (s.enr1 o).live.flags; f.getLsbD 2 || f.getLsbD 3 then
    { s with enr := { s.enr with balInvalid := true } } else s

/-- The alarm of R389 after a valid window of class `k`: 0 within, 1 excess, 2 deficit. -/
def balanceAlarm (s : State) (k : BitVec 2) (d : Int) : State :=
  let e := s.enr
  let run := if e.balClass = k ∧ e.balRun ≠ 0 then e.balRun + 1 else 1
  let s := { s with enr := { s.enr with balClass := k, balRun := run } }
  let on : BitVec 2 := k + 1
  let due := decide (s.cfg.balN ≤ run.toNat)
  if k = 0 then
    if 2 ≤ e.balAlarm.toNat ∧ !due then s
    else
      let s' := { s with enr := { s.enr with balAlarm := 1 } }
      if 2 ≤ e.balAlarm.toNat then postDev s' 0x0514 (p8 1 ++ p8 0 ++ p64 (twos 64 d)) else s'
  else if due && e.balAlarm != on then
    let s := { s with enr := { s.enr with balAlarm := on, balAlarmF := true } }
    tamper (postDev s 0x0514 (p8 0 ++ p8 k.toNat ++ p64 (twos 64 d))) 5 0x8000 none
  else if e.balAlarm = 0 then { s with enr := { s.enr with balAlarm := 1 } } else s

/-- BALANCE_EVALUATION (R388): 60 s of tick time after the close. In a pair only the active side posts (R390). -/
def execBalanceEvaluation (s : State) : Res :=
  .next (match s.enr.balWait with
  | none => s
  | some w =>
    if !s.clocksRun then s
    else
      let s := s.toTick (w.closedAt + 60 * secNs)
      let aux : Int := (s.cfg.auxW * w.span * 10 / (36 * secNs) : Nat) + (w.declared.getD 0 : Nat)
      let eout := w.eout + (w.peers.map (·.2.1)).sum
      let missing := (sharePeers s).any fun k => !w.peers.any fun p => p.1 == k.val
      let valid := w.valid && !missing && w.peers.all fun p => p.2.2
      let d := w.einc - eout - aux
      let tol := w.einc * s.cfg.tolPct / 1000 + s.cfg.tolWh * 1000
      let k : BitVec 2 := if tol < d then 1 else if d < -tol then 2 else 0
      let s := { s with enr := { s.enr with balWait := none, balLastEval := some w.number, balD := d, balLastValid := valid } }
      if s.tie.role == .standby then s
      else
        let s := postDev s 0x0513 (p64 (twos 64 d) ++ p8 (if valid then k.toNat else 3) ++ p32 (w.number % 2 ^ 32))
        if valid then balanceAlarm s k d else s)

/-! ### Commit (R376, R377, R427) -/

/-- The commit set as it stands (R376). -/
def commitSet (s : State) (number : Nat) (partialC : Bool) : CommitSet :=
  { number := number, partialC := partialC, tick := s.now, legal := s.tim.legal
    out := Vector.ofFn fun o => (s.enr1 o).live, site := s.enr.site
    pulses := Vector.ofFn fun k => let p := vget s.enr.pulses k; ⟨p.acc, p.owed⟩
    demandStart := s.enr.demandStart, demandFlags := s.enr.demandFlags, balStart := s.enr.balStart, balBase := s.enr.balBase, balInvalid := s.enr.balInvalid
    good := true }

/-- Write a commit set to its journal slot (R377); a failed write or read-back leaves a slot that does not pass its CRC. -/
def writeSlot (s : State) (slot : Nat) (c : CommitSet) (fault : Fin 3) : State :=
  let k := fin 8 slot
  let s := { s with keep := { s.keep with
    slots := vmod s.keep.slots k fun _ => some { c with good := fault == 0 }, commitNo := c.number } }
  if fault = 0 then { s with enr := { s.enr with committed := some c } }
  else
    let s := { s with enr := { s.enr with commitFault := true } }
    tally (postDev s 0x0510 (p32 (c.number % 2 ^ 32) ++ p8 k.val ++ p8 (fault.val - 1))) 6 0

/-- The energy cut at a commit: the steps of R427 in their order, then what starts after them. -/
def energyCut (s : State) (number slot : Nat) (partialC : Bool) (fault : Fin 3) : State :=
  let s := forAll outlets countSilence s
  let s := balanceMarks s
  let ok := fault == 0
  let s := accrueIncomer (forAll outlets (commitOutlet number ok) s)
  let s := (List.finRange 8).foldl commitPulse s
  let s := writeSlot s slot (commitSet s number partialC) fault
  let s := switchTariff (if ok then closePeriod (closeDemand s) number else closeDemand s) number
  let s := if s.tim.legalState = .synced then s
    else { s with bil := { s.bil with periodFlags := s.bil.periodFlags ||| (if s.tim.legalState = .unsync then 1 else 2) } }
  let s := if ok then forAll outlets (startSessions number) s else s
  let s := forAll outlets (fun s o => s.onEnr o fun x => { x with live := { x.live with gapped := false } }) s
  let s := if fault = 0 then writeSlot s slot (commitSet s number partialC) 0 else s
  closeWindow (s.mirror 8 [number, s.enr.pending.toNat]) number

/-- Commits are made: decimation is not stopped, and the metrology firmware runs (R377, R596). -/
def commits (s : State) : Bool := s.clocksRun && !s.enr.stopped && s.fwRuns 1

/-- The commit mark fires (R376): the clock runs to the mains-cycle boundary that follows the last commit. -/
def commitFires (fault : Fin 3) (s : State) : State :=
  if !commits s then s
  else
    let n := s.keep.commitNo + 1
    let s := energyCut (s.toMains (n * 65536)) n n false fault
    switchAtMark (if fault = 0 then s.count 1 0x11 1 else s) (fault == 0)

/-! ### Keep (R391) -/

/-- The channel's record says that it is never measured in Keep (R391). -/
def keepSkipped (s : State) (k : Fin 4) : Bool :=
  match calOf s 0 (4 + k.val) with | some r => r.sensor == 3 | none => false

/-- A burst on one channel (R391). -/
def burst (s : State) (rms : List Nat) (k : Fin 4) : KeepChan :=
  let c := vget s.keep.chans k
  let i := rms.getD k.val 0
  if (keepSkipped s k || decide (i < s.cfg.keepThresh)) = true then c
  else { charge := c.charge + i, bursts := c.bursts + 1, maxRms := max c.maxRms i,
         first := (if c.bursts = 0 then s.keep.rtc else c.first), last := s.keep.rtc }

/-- KEEP_BURST (R391): one second of RTC time passes, and the rms currents of channels 4 to 7 are measured. -/
def execKeepBurst (rms : List Nat) (s : State) : Res :=
  .next (if !(s.glb.phase == .keep) || !s.enr.keepEn then s
  else
    let s := s.advance 100000000
    { s with keep := { s.keep with chans := Vector.ofFn (burst s rms) } })

/-! ### Registers and commands (R384, R386, R393) -/

/-- A write of ENR_PLS_CFG or ENR_PLS_CONST: it takes effect at the next commit (R384); out of range it is ignored whole. -/
def writePulse (s : State) (k : Fin 8) (isConst : Bool) (v : Word) : State :=
  let p := vget s.enr.pulses k
  let (en, src, o, w, c) := p.next.getD (p.en, p.src, p.outlet, p.width, p.const)
  if isConst then
    let n := fld v 0 17
    if 1 ≤ n ∧ n ≤ 100000 then s.onPulse k fun p => { p with next := some (en, src, o, w, n) } else s
  else
    let n := fld v 16 9
    if 1 ≤ n ∧ n ≤ 500 then
      s.onPulse k fun p => { p with next := some (bit v 0, BitVec.ofNat 3 (fld v 1 3), fin 128 (fld v 4 7), n, c) }
    else s

/-- PULSE_SETTINGS_WRITE. -/
def execPulseSettingsWrite (k : Fin 8) (isConst : Bool) (v : BitVec 32) (s : State) : Res :=
  .next (viaBar s 10 fun s => writePulse s k isConst v)

/-- A write of ENR_CFG: a field outside its range makes it ignored whole; DEMAND_LEN changes at the energy cut that closes the
open interval (R386), and a change of BAL_WIN makes the open window invalid (R388). -/
def writeEnrCfg (s : State) (v : Word) : State :=
  let len := fld v 0 3
  let win := fld v 6 6
  if 4 < len ∨ win < 5 ∨ 60 < win then s
  else { s with enr := { s.enr with
    demandLenNext := if len = s.enr.demandLen.toNat then none else some (BitVec.ofNat 3 len)
    demandEvt := bit v 3, balEn := bit v 4, keepEn := bit v 5
    balInvalid := s.enr.balInvalid || win != s.enr.balWin, balWin := win } }

/-- DEMAND_LENGTH_CHANGE: a write of ENR_CFG. -/
def execDemandLengthChange (v : BitVec 32) (s : State) : Res := .next (viaBar s 10 fun s => writeEnrCfg s v)

/-- Declare auxiliary. -/
def effDeclareAuxiliary (c : Cmd) (s : State) : State :=
  let n := (c.p 0).toNat
  let late := match s.enr.balLastEval with | some m => decide (n ≤ m) | none => false
  if late then complete { s with enr := { s.enr with auxLate := true } } c 0x0A
  else match s.enr.balWait with
    | some w =>
      if w.number % 2 ^ 32 = n then
        complete { s with enr := { s.enr with balWait := some { w with declared := some (c.p2 1) } } } c 0
      else decl s n
    | none => decl s n
where
  /-- For a window that is still open or to come. -/
  decl (s : State) (n : Nat) : State :=
    complete { s with enr := { s.enr with balDecl := (n, c.p2 1) :: s.enr.balDecl.filter fun d => d.1 != n } } c 0

/-- DECLARE_AUXILIARY. -/
def execDeclareAuxiliary (c : Cmd) (s : State) : Res := .next (cmdStep [0x0510] effDeclareAuxiliary c s)

/-- Read register of the energy engine: an index the scope does not have is a bad parameter. -/
def effReadEnergyRegister (c : Cmd) (s : State) : State :=
  let i := fld (c.p 0) 0 8
  if c.device then
    if 0x80 ≤ i ∧ i < 0x8C then complete s c 0 (BitVec.ofNat 32 (reg48 (vget s.committedSite.regs (fin 12 (i - 0x80)))))
    else complete s c 0x02
  else onOutlet c s fun o =>
    if i < 13 then complete s c 0 (BitVec.ofNat 32 (reg48 (vget (s.committedOut o).regs (fin 13 i)))) else complete s c 0x02

/-- READ_ENERGY_REGISTER. -/
def execReadEnergyRegister (c : Cmd) (s : State) : Res := .next (cmdStep [0x0511] effReadEnergyRegister c s)

end Sys2Proof.Machine
end

