-- ==== Sys2Proof/Machine/Billing.lean ====
section
/-! DEFINITION. Billing, tariffs and the legal part (chapter 13): the release and acknowledgement of signed records, tamper
inputs, billing objects and the billing commands. -/

namespace Sys2Proof.Machine

/-! ### Signed records (R415 to R420) -/

/-- Words 0 to 47 of a record (R416). -/
def recordWords (r : SignedRec) : List Word :=
  [pack [(0, 1), (8, r.kind.toNat), (16, r.reason.toNat), (24, b2n r.device)], BitVec.ofNat 32 r.flags.toNat,
    word r.signer.toNat 0, word r.signer.toNat 1, r.recSeq, pack [(0, r.handle.toNat), (16, r.plan)],
    word r.sessionId 0, word r.sessionId 1, word r.origin.toNat 0, word r.origin.toNat 1,
    word r.startCommit 0, word r.startCommit 1, word r.endCommit 0, word r.endCommit 1,
    word r.startLegal 0, word r.startLegal 1, word r.endLegal 0, word r.endLegal 1,
    word r.startImp 0, word r.startImp 1, word r.endImp 0, word r.endImp 1]
  ++ r.words22 ++ r.idxImp ++ [r.legalCrc, r.configVersion, word r.link 0, word r.link 1]

/-- The 256 bytes of a record (R416). -/
def recordBytes (r : SignedRec) : List Byte := wordBytes (recordWords r) ++ beBytes 32 r.r.toNat ++ beBytes 32 r.s.toNat

/-- The Buffer event, once until its cause has gone (R432). -/
def bufferEvent (s : State) (cause : Nat) : State := postDev s 0x0606 (p8 cause ++ p16 s.bil.unacked)

/-- 3,584 records or more are unacknowledged: BUF_HIGH, and the Buffer event once (R420, R432). -/
def bufferHigh (s : State) : State :=
  if s.bil.unacked < 3584 then s
  else if s.bil.highPosted then { s with bil := { s.bil with bufHigh := true } }
  else bufferEvent { s with bil := { s.bil with bufHigh := true, highPosted := true } } 0

/-- What follows a record's release (R415, R418, R432): its event, the Buffer event, and the completion of its command. -/
def releasedEvent (s : State) (r : SignedRec) : State :=
  let by_ := (r.cmd.bind fun k => s.cmdRec k.1 k.2).map (·.cmd)
  let s := postEvent s 0x0602 (if r.device then none else s.ofHandle r.handle.toNat)
    (leBytes 4 r.recSeq.toNat ++ p8 r.kind.toNat ++ p64 r.sessionId) by_
  match r.cmd with
  | some k => completeKey (bufferHigh s) k.1 k.2 0 r.recSeq
  | none => bufferHigh s

/-- Release one record: it receives its sequence number and its signature (R415, R418). None while no signature can be made. -/
def releaseRecord (s : State) (r : SignedRec) : Option State :=
  if !s.key.rngOk then none
  else match meterKey s with
  | (some d, s) =>
    let r := { r with recSeq := s.bil.recNext }
    let n := s.fresh
    let g := ecdsaSign d (sha256 (wordBytes (recordWords r))) n
    let r := { r with r := g.1, s := g.2 }
    let recs := s.bil.recs ++ [{ r with cmd := none }]
    let s := { (s.count 1 0x12 1) with fresh := n + 1, bil := { s.bil with
      recNext := s.bil.recNext + 1, recs := if 4096 < recs.length then recs.drop 1 else recs } }
    some (releasedEvent s r)
  | (none, _) => none

/-- A record finds every slot unacknowledged: it waits in the overflow (R420). -/
def overflowRecord (s : State) (r : SignedRec) : State :=
  let s := { s with bil := { s.bil with overflow := s.bil.overflow ++ [r], bufFull := true } }
  let s := if s.bil.fullPosted then s else bufferEvent { s with bil := { s.bil with fullPosted := true } } 1
  if 768 ≤ s.bil.overflow.length ∧ !s.bil.refPosted then bufferEvent { s with bil := { s.bil with refPosted := true } } 2 else s

/-- The overflow is released in order while slots are acknowledged (R420). -/
def drainOverflow : List SignedRec → State → State
  | [], s => { s with bil := { s.bil with overflow := [] } }
  | r :: t, s =>
    if s.bil.unacked < 4096 then
      match releaseRecord s r with
      | some s => drainOverflow t s
      | none => { s with bil := { s.bil with overflow := r :: t } }
    else { s with bil := { s.bil with overflow := r :: t } }

/-- Release the waiting records in order; the rest stays. -/
def releaseAll : List SignedRec → State → State
  | [], s => { s with bil := { s.bil with waiting := [] } }
  | r :: t, s =>
    if ((s.enr.committed.map (·.number)).getD 0) < r.endCommit then { s with bil := { s.bil with waiting := r :: t } }
    else if s.bil.unacked < 4096 ∧ s.bil.overflow.isEmpty then
      match releaseRecord s r with
      | some s => releaseAll t s
      | none => { s with bil := { s.bil with waiting := r :: t } }
    else releaseAll t (overflowRecord s r)

/-- RECORD_RELEASE (R415): records whose commit set has been written and read back are released. A standby releases none (R516):
what it closed for itself, the active side has released. -/
def execRecordRelease (s : State) : Res :=
  .next (if !s.clocksRun || s.tie.legalStopped || !s.fwRuns 1 then s
  else if s.tie.role == .standby then { s with bil := { s.bil with waiting := [] } }
  else releaseAll s.bil.waiting s)

/-- Acknowledge records. -/
def effAcknowledgeRecords (c : Cmd) (s : State) : State :=
  let q := c.p 0
  let last := s.bil.recNext - 1
  if later q last ∨ (q - last).toNat = 2 ^ 31 then complete s c 0x02
  else if !later q s.bil.recAcked then complete s c 0
  else
    let s := { s with bil := { s.bil with recAcked := q } }
    let s := drainOverflow s.bil.overflow s
    let s := { s with bil := { s.bil with
      fullPosted := s.bil.fullPosted && !s.bil.overflow.isEmpty, refPosted := s.bil.refPosted && decide (768 ≤ s.bil.overflow.length) } }
    let s := if s.bil.highPosted && decide (s.bil.unacked < 3584) then
        bufferEvent { s with bil := { s.bil with highPosted := false } } 3 else s
    complete s c 0

/-- ACKNOWLEDGE_RECORDS. -/
def execAcknowledgeRecords (c : Cmd) (s : State) : Res := .next (cmdStep [0x0604] effAcknowledgeRecords c s)

/-- A signed reading of outlet `o` at the last commit (R419). -/
def readingRecord (s : State) (o : Fin 128) (c : Cmd) : SignedRec :=
  let x := s.committedOut o
  let imp := reg48 (vget x.regs (billRegs s o).1)
  let n := (s.enr.committed.map (·.number)).getD 0
  let t := (s.enr.committed.map (·.legal)).getD 0
  let f := commitFlags s o
  { kind := 3, reason := 0, device := false, flags := f, signer := s.keep.serial, recSeq := 0
    handle := BitVec.ofNat 16 (s.handle o), plan := (s.bil1 o).plan.val, sessionId := ((s.bil1 o).session.map (·.id)).getD 0
    origin := ((s.bil1 o).session.map (·.origin)).getD s.keep.serial, startCommit := n, endCommit := n, startLegal := t, endLegal := t
    startImp := imp, endImp := imp, words22 := List.replicate 5 0 ++ [((s.bil1 o).session.map (·.contract)).getD 0]
    idxImp := List.replicate 16 0, legalCrc := (s.met1 o).legalCrc, configVersion := s.upd.cfgActive
    link := ((s.bil1 o).session.map (·.link)).getD 0, r := 0, s := 0, cmd := some (c.ring, c.index) }

/-- Sign reading: the record is released at once, or waits for a slot and the command with it (R420). Before the first commit, which it
would reference, the command waits (R162: DEDUCED, log 146). -/
def effSignReading (c : Cmd) (s : State) : State :=
  onOutlet c s fun o =>
    if 768 ≤ s.bil.overflow.length ∨ s.tie.legalStopped then complete s c 0x0A
    else if s.enr.committed.isNone then s
    else
      let r := readingRecord s o c
      if s.bil.unacked < 4096 ∧ s.bil.overflow.isEmpty then
        match releaseRecord s r with
        | some s => s
        | none => withRandom c s fun s => complete s c 0x0A
      else overflowRecord (started s c) r

/-- SIGN_READING. -/
def execSignReading (c : Cmd) (s : State) : Res := .next (cmdStep [0x0603] effSignReading c s)

/-- Select plan (R405). -/
def effSelectPlan (c : Cmd) (s : State) : State :=
  onOutlet c s fun o =>
    let p := fin 64 (fld (c.p 0) 0 6)
    if (s.bil.tariff.plan p).count = 0 then complete s c 0x02
    else if (s.bil1 o).session.isSome then complete s c 0x0A
    else complete (s.onBil o fun b => { b with selected := p }) c 0

/-- SELECT_PLAN. -/
def execSelectPlan (c : Cmd) (s : State) : Res := .next (cmdStep [0x0602] effSelectPlan c s)

/-! ### Tamper inputs (R424, R426) -/

/-- TAMPER_INPUT: TAMP[k] has been low for 10 ms and reads high; while the powered domains are down the always-on domain counts it
with its RTC time, in Keep at its next sample (R50). -/
def execTamperInput (k : Fin 4) (s : State) : Res :=
  .next (if s.clocksRun then tamper s ⟨k.val, by omega⟩ 0x8000 none
  else
    let s := s.keepSample
    { s with keep := { s.keep with tampers := vmod s.keep.tampers k fun t =>
    (t.1 + 1, if t.1 = 0 then s.keep.rtc else t.2.1, s.keep.rtc) } })

/-! ### Objects (R398 to R401) -/

/-- A value as an object shows it: its class, whether it reflects the last commit, and its bytes. -/
structure Obj where
  /-- CLASS of R399 -/
  cls : Nat
  /-- it is committed -/
  committed : Bool
  /-- the value -/
  bytes : List Byte

/-- A register object (R401). -/
def regObj (v : Nat) : Option Obj := some ⟨1, true, p64 v⟩

/-- A plan of the tariff section (R403). -/
def planBytes (t : Tariff) (i : Fin 64) : List Byte :=
  let p := t.plan i
  let body : List Word := pack [(0, i.val), (8, p.count), (16, p.defIndex.val)] ::
    (((p.points.map fun (q : Nat × BitVec 8 × Fin 16) => pack [(0, q.1), (11, q.2.1.toNat), (20, q.2.2.val)]) ++ List.replicate 30 0).take 30)
  wordBytes (body ++ [crc32 (wordBytes (body ++ [0]))])

/-- The special-day table (R403). -/
def specialBytes (t : Tariff) : List Byte :=
  wordBytes (((t.special.map fun d => BitVec.ofNat 32 d) ++ List.replicate 64 0).take 64)

/-- The tariff section header (R402). -/
def tariffHeader (t : Tariff) : List Byte :=
  let h : List Word := [word t.periodDays 0, word t.anchor 0, word t.anchor 1, word t.defaultPlan.val 0, word t.special.length 0, 0, 0]
  wordBytes (h ++ [crc32 (wordBytes (h ++ [0]) ++ ((List.finRange 64).flatMap (planBytes t)) ++ specialBytes t)])

/-- A tamper record (R425). -/
def tamperBytes (k : Fin 16) (t : Tamper) : List Byte :=
  let w : List Word := [word k.val 0, t.count, word t.first 0, word t.first 1, word t.last 0, word t.last 1,
    pack [(0, t.firstInst.toNat), (16, t.lastInst.toNat)]]
  wordBytes (w ++ [crc32 (wordBytes w)])

/-- The objects of an outlet (R399). -/
def outletObject (s : State) (o : Fin 128) (b c d e : Nat) : Option Obj :=
  let x := s.committedOut o
  let r (j : Fin 13) : Option Obj := regObj (reg48 (vget x.regs j))
  let dc : Bool := match s.ctxProfile o with | some p => p.prof.dc | none => false
  let own := if dc then 2 else 1
  if b = 1 ∧ d = 8 ∧ e = 0 ∧ c = 1 then r 0 else if b = 1 ∧ d = 8 ∧ e = 0 ∧ c = 2 then r 1
  else if b = 1 ∧ d = 8 ∧ e = 0 ∧ c = 3 then r 2 else if b = 1 ∧ d = 8 ∧ e = 0 ∧ c = 4 then r 3
  else if b = 1 ∧ d = 8 ∧ e = 0 ∧ c = 21 then r 4 else if b = 1 ∧ d = 8 ∧ e = 0 ∧ c = 41 then r 5
  else if b = 1 ∧ d = 8 ∧ e = 0 ∧ c = 61 then r 6
  else if b = 1 ∧ d = 8 ∧ e = 0 ∧ 128 ≤ c ∧ c ≤ 131 then r (fin 13 (9 + (c - 128)))
  else if dc ∧ b = 2 ∧ d = 8 ∧ e = 0 ∧ c = 1 then r 7 else if dc ∧ b = 2 ∧ d = 8 ∧ e = 0 ∧ c = 2 then r 8
  else if b = own ∧ d = 8 ∧ c = 1 ∧ 1 ≤ e ∧ e ≤ 16 then regObj (reg48 (vget x.impIdx (fin 16 (e - 1))))
  else if b = own ∧ d = 8 ∧ c = 2 ∧ 1 ≤ e ∧ e ≤ 16 then regObj (reg48 (vget x.expIdx (fin 16 (e - 1))))
  else if b = own ∧ c = 1 ∧ d = 5 ∧ e = 0 then regObj x.lastDemand
  else if b = own ∧ c = 1 ∧ d = 6 ∧ e = 0 then regObj x.maxDemand
  else none

/-- The register objects of the site (R399). -/
def siteObject (s : State) (c d e : Nat) : Option Obj :=
  let x := s.committedSite
  let r (j : Fin 12) : Option Obj := regObj (reg48 (vget x.regs j))
  if d = 8 ∧ e = 0 ∧ 1 ≤ c ∧ c ≤ 4 then r (fin 12 (c - 1))
  else if d = 8 ∧ e = 0 ∧ c = 21 then r 4 else if d = 8 ∧ e = 0 ∧ c = 41 then r 5 else if d = 8 ∧ e = 0 ∧ c = 61 then r 6
  else if d = 8 ∧ c = 1 ∧ 1 ≤ e ∧ e ≤ 16 then regObj (reg48 (vget x.impIdx (fin 16 (e - 1))))
  else if d = 8 ∧ c = 2 ∧ 1 ≤ e ∧ e ≤ 16 then regObj (reg48 (vget x.expIdx (fin 16 (e - 1))))
  else if c = 1 ∧ d = 5 ∧ e = 0 then regObj x.lastDemand else if c = 1 ∧ d = 6 ∧ e = 0 then regObj x.maxDemand
  else if d = 8 ∧ c = 132 ∧ e = 0 then r 7
  else if d = 8 ∧ c = 133 ∧ 1 ≤ e ∧ e ≤ 4 then r (fin 12 (7 + e))
  else none

/-- The other objects of the device: group 0-0 (R399). -/
def deviceObject (s : State) (c d e : Nat) : Option Obj :=
  if c = 1 ∧ d = 0 ∧ e = 0 then some ⟨2, false, p64 s.tim.legal ++ p8 s.tim.legalState.code⟩
  else if c ≠ 128 then none
  else if d = 51 ∧ e = 0 then some ⟨2, false, p32 ((s.met.legal.map (·.crc.toNat)).getD 0)⟩
  else if d = 40 ∧ e < 64 then some ⟨3, false, planBytes s.bil.tariff (fin 64 e)⟩
  else if d = 41 ∧ e = 0 then some ⟨3, false, tariffHeader s.bil.tariff ++ specialBytes s.bil.tariff⟩
  else if d = 20 ∧ e < 16 then some ⟨4, false, tamperBytes (fin 16 e) (vget s.bil.tampers (fin 16 e))⟩
  else if d = 30 ∧ 1 ≤ e ∧ e ≤ 12 then (s.bil.snaps[e - 1]?).map fun x => ⟨4, false, snapBytes x⟩
  else if d = 50 ∧ e = 0 then some ⟨4, false, meterPublic s⟩
  else if d = 60 then some ⟨5, false, vget s.bil.operObjs (fin 256 e)⟩
  else none

/-- The object a command addresses (R398, R431). -/
def objectOf (s : State) (c : Cmd) : Option Obj :=
  let inst := fld (c.p 0) 0 16
  let b (i : Nat) : Nat := fld (c.p 1) (8 * i) 8
  let e := fld (c.p 2) 0 8
  if fld (c.p 2) 8 8 ≠ 255 then none
  else if inst < 512 then
    match s.ofHandle inst with
    | some o => if b 0 = 1 then outletObject s o (b 1) (b 2) (b 3) e else none
    | none => none
  else if inst = 0x8000 then
    if b 0 = 1 ∧ b 1 = 0 then siteObject s (b 2) (b 3) e
    else if b 0 = 0 ∧ b 1 = 0 then deviceObject s (b 2) (b 3) e else none
  else none

/-- The object value block (R401). -/
def objBlock (s : State) (x : Obj) : List Byte :=
  p8 x.cls ++ p8 0 ++ p16 x.bytes.length ++ p64 (if x.committed then (s.enr.committed.map (·.number)).getD 0 else 0) ++ p32 0 ++ x.bytes

/-- The host buffer of an object command is acceptable (R431). -/
def objBuffer (c : Cmd) : Bool :=
  let n := fld (c.p 5) 0 16
  c.p2 3 % 64 == 0 && 64 ≤ n && n ≤ 4096

/-- Read object. -/
def effReadObject (c : Cmd) (s : State) : State :=
  if !objBuffer c then complete s c 0x02
  else match objectOf s c with
  | none => complete s c 0x02
  | some x =>
    let roles := if x.cls = 5 then [1, 2, 4] else [1, 2, 4, 5]
    if !roles.contains (s.roleOf c) then refuseRole s c
    else
      let b := objBlock s x
      if fld (c.p 5) 0 16 < b.length then complete s c 0x0A
      else complete (s.hostWrite (BitVec.ofNat 64 (c.p2 3)) b) c 0 (BitVec.ofNat 32 b.length)

/-- READ_OBJECT. -/
def execReadObject (c : Cmd) (s : State) : Res := .next (cmdStep [0x0600] effReadObject c s)

/-- Write object: LENGTH bytes of an operator object are replaced, from its first one. -/
def effWriteObject (c : Cmd) (s : State) : State :=
  let n := fld (c.p 5) 0 16
  if c.p2 3 % 64 ≠ 0 ∨ n = 0 ∨ 64 < n then complete s c 0x02
  else match objectOf s c with
  | none => complete s c 0x02
  | some x =>
    if x.cls ≠ 5 then refuseRole s c
    else
      let i := fin 256 (fld (c.p 2) 0 8)
      let d := (c.data ++ List.replicate n 0).take n
      complete { s with bil := { s.bil with operObjs := vmod s.bil.operObjs i fun b => d ++ b.drop n } } c 0

/-- WRITE_OBJECT. -/
def execWriteObject (c : Cmd) (s : State) : Res := .next (cmdStep [0x0601] effWriteObject c s)

end Sys2Proof.Machine
end

