-- ==== Sys2Proof/Machine/Recorder.lean ====
section
/-! DEFINITION. Event recorder (chapter 14): staging to keeping memory, the record layout, the cursor window and the recorder's
commands. -/

namespace Sys2Proof.Machine

/-! ### Record layout (R439) -/

/-- The 256 bytes of a log record. -/
def logBytes (s : State) (ops perm : Bool) (r : LogRec) : List Byte :=
  let pay := (r.payload ++ List.replicate 20 0).take 20
  let w : List Word :=
    [pack [(0, 1), (8, b2n ops), (9, b2n perm), (10, b2n r.folded), (11, b2n r.outlet.isSome), (16, r.code.toNat)], r.gen,
      pack [(0, (r.outlet.map s.handle).getD 0), (16, r.sel.toNat)], word r.tick 0, word r.tick 1, word r.mains 0, word r.mains 1,
      word r.legal 0, word r.legal 1, if r.folded then 0 else r.gseq, if r.folded then 0 else r.outletSeq]
    ++ bytesWords (pay.drop 16) ++ bytesWords (pay.take 16) ++ (r.snap ++ List.replicate 46 0).take 46
  wordBytes (w ++ [crc32 (wordBytes w), r.gen])

/-- Records of one log are written in ascending tick of their causes, then CODE, then HANDLE (R440). -/
def recordBefore (a b : LogRec) : Bool :=
  let h (r : LogRec) : Nat := (r.outlet.map (·.val)).getD 0
  if a.tick ≠ b.tick then decide (a.tick < b.tick)
  else if a.code ≠ b.code then decide (a.code.toNat < b.code.toNat) else decide (h a ≤ h b)

/-- Store one record: its generation, its circulating slot, and the permanent area for a permanent kind (R434 to R436). -/
def storeRecord (s : State) (ops : Bool) (r : LogRec) : State :=
  let l := s.recd.log ops
  let r := { r with gen := l.next }
  let perm := r.perm || permKind ops r.code.toNat r.payload
  let full := decide (permSlots ops ≤ l.permA.length)
  let s := s.onLog ops fun l => { l with
    next := l.next + 1, circ := ({ r with perm := false } :: l.circ).take (circSlots ops)
    permA := if perm && !full then l.permA ++ [{ r with perm := true }] else l.permA
    permFull := l.permFull || (perm && full) }
  if perm && full && !l.permFull then postDev s 0x0701 (p8 (b2n ops)) else s

/-- Once a record has been written there is space: lost records are reported (R444, R450). -/
def reportLost (s : State) (ops : Bool) : State :=
  let l := s.recd.log ops
  if l.lostCount = 0 then s
  else
    let s := s.onLog ops fun l => { l with lostCount := 0 }
    let s := recordOnly s ops 0x0787 none (p32 l.lostCount ++ p64 l.lostFirst ++ p64 l.lostLast)
    postDev s 0x0700 (p8 (b2n ops) ++ p32 l.lostCount)

/-- The Take snapshot command whose record has been written completes (R450). -/
def snapDone (s : State) (ident : Nat) : State :=
  match s.recd.snapCmds.find? fun x => x.1 == BitVec.ofNat 32 ident with
  | some (k, ring, index) =>
    completeKey { s with recd := { s.recd with snapCmds := s.recd.snapCmds.filter fun x => x.1 != k } } ring index 0
  | none => s

/-- Write the first staged record of a log. -/
def writeStaged (s : State) (ops : Bool) : State :=
  match sortBy recordBefore (s.recd.log ops).staging with
  | r :: rest =>
    let s := storeRecord (s.onLog ops fun l => { l with staging := rest }) ops r
    snapDone (reportLost s ops) r.ident
  | [] => s

/-- RECORD_WRITE (R444): a staged record is written to keeping memory; operations records wait out a service reset. -/
def execRecordWrite (legal : Bool) (s : State) : Res :=
  .next (if s.clocksRun && (legal || s.glb.phase == .running) then writeStaged s !legal else s)

/-! ### Window and registers (R447, R451) -/

/-- Slot `j` of the cursor window; a slot never written reads 0. -/
def windowSlot (s : State) (j : Nat) : List Byte :=
  let ops := s.recd.cursorLog
  let l := s.recd.log ops
  let r := if s.recd.cursorArea then l.permA[s.recd.cursorBase.toNat % 2048 + j]?
    else
      let n := circSlots ops
      l.circ.find? fun r => r.gen.toNat % n == (s.recd.cursorBase.toNat + j) % n
  match r with
  | some r => logBytes s ops s.recd.cursorArea r
  | none => List.replicate 256 0

/-- A write of REC_CURSOR_BASE. -/
def writeCursor (s : State) (v : Word) : State := { s with recd := { s.recd with cursorBase := v } }

/-- CURSOR_BASE_WRITE (R447). -/
def execCursorBaseWrite (v : BitVec 32) (s : State) : Res := .next (viaBar s 12 fun s => writeCursor s v)

/-! ### Commands (R449, R450) -/

/-- Read records. -/
def effReadRecords (c : Cmd) (s : State) : State :=
  let ops := bit (c.p 0) 0
  let n := fld (c.p 2) 0 5
  let l := s.recd.log ops
  let pick (i : Nat) : Option LogRec :=
    if bit (c.p 0) 1 then l.permA[(c.p 1).toNat + i]?
    else
      let g := c.p 1 + BitVec.ofNat 32 i
      let back := (l.next - 1 - g).toNat
      l.circ[back]?
  if n = 0 ∨ 16 < n ∨ c.p2 3 % 256 ≠ 0 then complete s c 0x02
  else
    let rs := (List.range n).map pick
    let data := rs.flatMap fun r => match r with
      | some r => logBytes s ops (bit (c.p 0) 1) r
      | none => List.replicate 256 0
    let held := (rs.filter (·.isSome)).length
    complete (s.hostWrite (BitVec.ofNat 64 (c.p2 3)) data) c 0 (pack [(0, held), (16, n - held)])

/-- READ_RECORDS. -/
def execReadRecords (c : Cmd) (s : State) : Res := .next (cmdStep [0x0700] effReadRecords c s)

/-- Take snapshot: the record is staged now, and the command completes when it has been written. A record that finds the staging
full is not kept, and its command is refused by the state (DEDUCED, log 58). -/
def effTakeSnapshot (c : Cmd) (s : State) : State :=
  let go (s : State) (o : Option (Fin 128)) : State :=
    let k := fld (c.p 0) 0 4
    let room := decide (s.recd.ops.staging.length < stagingSlots true)
    let id := s.rng.posted + 1
    let s := { s with rng := { s.rng with posted := id } }
    let s := pushRecord s true (mkRecord s true 0x0788 o (p8 k ++ leBytes 4 c.tag.toNat) id (some k))
    if room then
      { started s c with recd := { s.recd with snapCmds := (BitVec.ofNat 32 id, c.ring, c.index) :: s.recd.snapCmds } }
    else complete s c 0x0A
  if c.device then go s none else onOutlet c s fun o => go s (some o)

/-- TAKE_SNAPSHOT. -/
def execTakeSnapshot (c : Cmd) (s : State) : Res := .next (cmdStep [0x0701] effTakeSnapshot c s)

end Sys2Proof.Machine
end

