-- ==== Sys2Proof/Machine/Auth.lean ====
section
/-! DEFINITION. Authorisation, cards and cable tags (chapter 15): the authorisation store, the reader engines and their
transactions, card decisions, the cable-tag protocol and its mating count. -/

namespace Sys2Proof

/-- Bytes of a store slot before CHECK (R459). -/
def Machine.AuthSlot.content (a : Machine.AuthSlot) : List Byte :=
  Machine.leBytes 20 a.hash.toNat ++
    Machine.leBytes 4 (a.status.toNat + 8 * a.member.toNat + 256 * a.group.toNat + 16384 * Machine.b2n a.groupEn + 65536 * a.expiry.toNat) ++
    Machine.leBytes 4 a.contract.toNat

/-- CHECK passes (R459). -/
def Machine.AuthSlot.sound (a : Machine.AuthSlot) : Bool := Machine.crc32 a.content == a.check

namespace Machine

/-! ### The authorisation store (R459 to R464) -/

/-- A slot that nothing has written since manufacture: 32 bytes of zeros (DESIGN CHOICE, log 59). -/
def AuthSlot.blank : AuthSlot := ⟨0, 0, 0, 0, false, 0, 0, 0⟩

/-- A slot from its 8 words; none where a reserved bit is set (DEDUCED, log 59). -/
def AuthSlot.ofWords (w : List Word) : Option AuthSlot :=
  let x := wAt w 5
  if fld x 5 3 ≠ 0 ∨ bit x 15 then none
  else some {
    hash := BitVec.ofNat 160 (wNat w 0 5), status := BitVec.ofNat 3 (fld x 0 3), member := BitVec.ofNat 2 (fld x 3 2)
    group := BitVec.ofNat 6 (fld x 8 6), groupEn := bit x 14, expiry := BitVec.ofNat 16 (fld x 16 16), contract := wAt w 6
    check := wAt w 7 }

/-- The 32 bytes of a slot. -/
def AuthSlot.bytes (a : AuthSlot) : List Byte := a.content ++ leBytes 4 a.check.toNat

/-- Slot `k` of the store. -/
def Store.slot (t : Store) (k : Nat) : AuthSlot := ((t.slots.find? fun x => x.1 == k).map (·.2)).getD .blank

/-- Insert by ascending slot number. -/
def insSlot (k : Nat) (a : AuthSlot) : List (Nat × AuthSlot) → List (Nat × AuthSlot)
  | [] => [(k, a)]
  | x :: t => if k < x.1 then (k, a) :: x :: t else if k = x.1 then (k, a) :: t else x :: insSlot k a t

/-- Replace slot `k` whole (R462). -/
def Store.put (t : Store) (k : Nat) (a : AuthSlot) : Store :=
  { t with slots := if a = .blank then t.slots.filter fun x => x.1 != k else insSlot k a t.slots }

/-- The number of the shadow table. -/
def Store.shadow (t : Store) : Nat := if t.active then 0 else 1

/-- Clear the shadow MEMBER bit of every slot (R463); CHECK follows the content (DEDUCED, log 59). -/
def Store.clearShadow (t : Store) : Store :=
  let clr (a : AuthSlot) : AuthSlot :=
    if a.member.getLsbD t.shadow then
      let b := { a with member := a.member &&& ~~~(1#2 <<< t.shadow) }
      { b with check := if a.sound then crc32 b.content else b.check }
    else a
  { t with slots := t.slots.map fun x => (x.1, clr x.2), shadowOpen := true }

/-- A slot whose write would leave two non-empty slots with one HASH in one table (R460). -/
def Store.duplicate (t : Store) (k : Nat) (a : AuthSlot) : Bool :=
  a.status != 0 && t.slots.any fun x => x.1 != k && x.2.status != 0 && x.2.hash == a.hash && (x.2.member &&& a.member) != 0

/-- Forward a store change over the tie ports and the pair link (R464). The codes 0x40000 and 0x40001 in place of a slot number
stand for Begin shadow and Switch table (DESIGN CHOICE, log 60). -/
def forwardStore (s : State) (seq slot : Nat) (bytes : List Byte) : State :=
  (List.finRange 4).foldl (fun s p => if (vget s.tie.ports p).up then s.send (.tie p (.storeChange seq slot bytes)) else s) s

/-- The cluster slots that are not reached, and the partner cluster (R464). -/
def unreached (s : State) : Nat :=
  let there (k : Nat) : Bool := (List.finRange 3).any fun p =>
    (vget s.tie.ports ⟨p.val, by omega⟩).up && (vget s.tie.ports ⟨p.val, by omega⟩).peerSlot.toNat == k
  ofBits ((List.range 4).map fun k => decide (k < s.tie.clusterN) && k != s.slotNo && !there k) + 16 * b2n (s.tie.paired && !s.pairLinkUp)

/-- STORE_SEQ counts an applied change (R464). -/
def countStore (s : State) : State := { s with store := { s.store with seq := s.store.seq + 1 } }

/-- Store slot (R460, R463, R477). Completion does not wait for the peers' answers, which one device cannot show (log 60). -/
def effStoreSlot (c : Cmd) (s : State) : State :=
  let k := fld (c.p 0) 0 18
  match AuthSlot.ofWords ((List.range 8).map fun i => c.p (2 + i)) with
  | none => complete s c 0x02
  | some a =>
    if !a.sound || 2 < a.status.toNat then complete s c 0x02
    else if s.store.duplicate k a || (a.member.getLsbD s.store.shadow && !s.store.shadowOpen) then complete s c 0x0A
    else
      let s := countStore { s with store := s.store.put k a }
      complete (forwardStore s s.store.seq.toNat k a.bytes) c 0 (BitVec.ofNat 32 (unreached s))

/-- STORE_SLOT. -/
def execStoreSlot (c : Cmd) (s : State) : Res := .next (cmdStep [0x0800] effStoreSlot c s)

/-- Read slot. -/
def effReadSlot (c : Cmd) (s : State) : State :=
  if c.p2 1 % 32 ≠ 0 then complete s c 0x02
  else complete (s.hostWrite (BitVec.ofNat 64 (c.p2 1)) (s.store.slot (fld (c.p 0) 0 18)).bytes) c 0

/-- READ_SLOT. -/
def execReadSlot (c : Cmd) (s : State) : Res := .next (cmdStep [0x0801] effReadSlot c s)

/-- Begin shadow. -/
def effBeginShadow (c : Cmd) (s : State) : State :=
  if s.aut.switchAt.isSome then complete s c 0x0A
  else
    let s := countStore { s with store := s.store.clearShadow }
    complete (forwardStore s s.store.seq.toNat 0x40000 []) c 0 (BitVec.ofNat 32 (unreached s))

/-- BEGIN_SHADOW. -/
def execBeginShadow (c : Cmd) (s : State) : Res := .next (cmdStep [0x0802] effBeginShadow c s)

/-- The first mains-cycle boundary at least 2 ms ahead (R463). -/
def switchMark (s : State) : Nat :=
  let t := s.tim.runMains 200000
  if t.mains % 65536 = 0 ∧ t.mainsRem = 0 then t.mains else (t.mains / 65536 + 1) * 65536

/-- Switch table. While a switch is pending another one is refused (DEDUCED, log 60). -/
def effSwitchTable (c : Cmd) (s : State) : State :=
  if s.aut.switchAt.isSome then complete s c 0x0A
  else
    let m := switchMark s
    let r := s.setMark .cluster m 0x15
    if r.2 then
      let s := started { r.1 with aut := { s.aut with switchAt := some m, switchCmd := some (c.ring, c.index) } } c
      forwardStore s (s.store.seq.toNat + 1) 0x40001 (leBytes 8 m)
    else complete r.1 c 0x05

/-- SWITCH_TABLE. -/
def execSwitchTable (c : Cmd) (s : State) : Res := .next (cmdStep [0x0803] effSwitchTable c s)

/-- The mark of a table switch fires (R463): at its boundary the shadow table becomes active. RESULT [0] is the new ACTIVE, as R477 gives it. -/
def tableFires (s : State) : State :=
  match s.aut.switchAt with
  | some m => if s.glb.phase = .running then
      let s := (s.toMains m).dropMark .cluster 0x15
      let s := countStore { s with store := { s.store with active := !s.store.active, shadowOpen := false } }
      let k := s.aut.switchCmd
      let s := { s with aut := { s.aut with switchAt := none, switchCmd := none } }
      let cmd := k.bind fun k => (s.cmdRec k.1 k.2).map (·.cmd)
      let s := postDev s 0x0804 (p8 (b2n s.store.active) ++ p32 s.store.seq.toNat ++ p32 s.cycle) cmd
      match k with
      | some k => completeKey s k.1 k.2 0 (BitVec.ofNat 32 (b2n s.store.active))
      | none => s
    else s
  | none => s

/-- Apply a forwarded change, where it is later than what this device has applied (R464, R12). -/
def takeStore (s : State) (seq slot : Nat) (bytes : List Byte) : State :=
  if !laterN 32 seq s.store.seq.toNat then s
  else if slot = 0x40000 then countStore { s with store := s.store.clearShadow }
  else if slot = 0x40001 then
    if s.aut.switchAt.isSome then s
    else { (s.setMark .cluster (ofBytes bytes) 0x15).1 with aut := { s.aut with switchAt := some (ofBytes bytes) } }
  else match AuthSlot.ofWords (bytesWords bytes) with
    | some a => countStore { s with store := s.store.put slot a }
    | none => s

/-- A forwarded change arrives. -/
def storeChange (seq slot : Nat) (bytes : List Byte) (s : State) : State :=
  if s.glb.phase = .running then takeStore s seq slot bytes else s

/-- STORE_RESYNCHRONISED (R464): the slots that differ are copied from the peer with the higher STORE_SEQ, whose number is taken
with them (DEDUCED, log 60). -/
def execStoreResynchronised (src : Fin 4) (seq : BitVec 32) (slots : List (Nat × List (BitVec 8))) (s : State) : Res :=
  .next (if s.glb.phase = .running && later seq s.store.seq then
    let new := (slots.filterMap fun (x : Nat × List Byte) => (AuthSlot.ofWords (bytesWords x.2)).map fun a => (x.1, a)).filter
      fun (x : Nat × AuthSlot) => decide (x.1 < 0x40000) && s.store.slot x.1 != x.2
    let t := new.foldl (fun (t : Store) x => t.put x.1 x.2) s.store
    postDev { s with store := { t with seq := seq }, aut := { s.aut with resync := true } } 0x0805 (p32 new.length ++ p8 src.val)
  else s)

/-! ### Card decisions (R458, R461, R465, R466) -/

/-- The identity hash of R458: the first 160 bits of the digest, byte 0 lowest. -/
def identityHash (s : State) (typ : Nat) (ident : List Byte) : BitVec 160 :=
  let d := sha256 (wordBytes s.aut.salt.toList ++ p8 typ ++ p8 ident.length ++ ident)
  BitVec.ofNat 160 (ofBytes ((beBytes 32 d.toNat).take 20))

/-- Today's local day (R83). -/
def localDay (s : State) : Int := ((s.legalSec : Int) + offsetAt s.tim.localTab s.legalSec * 900) / 86400

/-- The outcome of a found slot (R461). -/
def slotOutcome (s : State) (a : AuthSlot) : Nat :=
  if !a.sound then 3
  else if a.status = 2 then 1
  else if a.expiry ≠ 0 && s.tim.legalState == .unsync then 3
  else if a.expiry ≠ 0 && decide ((a.expiry.toNat : Int) < localDay s) then 2
  else 0

/-- A lookup (R461): the outcome and the slot it found. -/
def lookup (s : State) (hash : BitVec 160) : Nat × Option (Nat × AuthSlot) :=
  let t := b2n s.store.active
  match s.store.slots.find? fun x => x.2.status != 0 && x.2.hash == hash && x.2.member.getLsbD t with
  | some x => (slotOutcome s x.2, some x)
  | none => (3, none)

/-- A failed CHECK sets CHECK_FAIL and is counted in class 10 of the fault tally, under the slot's number (R461, R528). -/
def checkFailed (s : State) (f : Option (Nat × AuthSlot)) : State :=
  match f with
  | some x => if x.2.sound then s else tally { s with aut := { s.aut with checkFail := true } } 10 x.1
  | none => s

/-- Accept (R466): as Authorise with 1 does, with the slot's contract and, where it has one, its plan. -/
def acceptCard (s : State) (o : Fin 128) (a : AuthSlot) : State :=
  if !s.ctxRuns o then s
  else
    let b := s.bil1 o
    let plan := fin 64 a.group.toNat
    let pick := a.groupEn && b.session.isNone && (s.bil.tariff.plan plan).count != 0
    let s := s.onBil o fun b => { b with contract := a.contract, selected := if pick then plan else b.selected }
    let s := s.onCtx o fun x => { x with authorised := true }
    writeJournal (queueTrig s o 9 0) o

/-- The Card read event and LAST_OUTCOME. What the event carries where there is no identity or no slot, the spec leaves open. -/
def reportCard (s : State) (o : Fin 128) (ident : Option (Nat × BitVec 160)) (outcome : Nat) (f : Option (Nat × AuthSlot)) : State :=
  let v := s.free
  let s := if ident.isSome && f.isSome then s else v.2
  let typ := (ident.map (·.1)).getD v.1.toNat
  let hash := (ident.map (·.2.toNat)).getD (v.1.toNat / 256)
  let contract := (f.map (·.2.contract.toNat)).getD (v.1.toNat / 2 ^ 32)
  let s := s.onAut o fun a => { a with lastOutcome := BitVec.ofNat 3 outcome }
  postOut s 0x0800 o (p8 typ ++ p8 outcome ++ p32 ((f.map (·.1)).getD 0xFFFFFFFF) ++ p32 contract ++ p32 hash)

/-- The decision on an identified card (R465). -/
def decideCard (s : State) (o : Fin 128) (typ : Nat) (ident : List Byte) : State :=
  let h := identityHash s typ ident
  let r := lookup s h
  let s := checkFailed s r.2
  let a := s.aut1 o
  let open_ := a.armed && !(s.ctx o).authorised
  let out := if r.1 = 3 ∧ a.mode = 1 then 6 else r.1
  let s := reportCard s o (some (typ, h)) out r.2
  if !open_ || a.mode == 0 then s
  else match r.1, r.2 with
    | 0, some x => acceptCard s o x.2
    | 3, _ => if a.mode = 2 then queueTrig s o 9 1 else s
    | _, _ => queueTrig s o 9 1

/-- A card is identified: its lookup runs, or waits for the index (R460). -/
def identified (s : State) (o : Fin 128) (typ : Nat) (ident : List Byte) : State :=
  if s.aut.ready then decideCard s o typ ident
  else { s with aut := { s.aut with lookups := s.aut.lookups ++ [(o, BitVec.ofNat 8 typ, ident)] } }

/-- INDEX_BUILT (R460): the waiting lookups are answered in their order. -/
def execIndexBuilt (s : State) : Res :=
  .next (if s.clocksRun && !s.aut.ready then
    let l := s.aut.lookups
    l.foldl (fun s x => decideCard s x.1 x.2.1.toNat x.2.2) { s with aut := { s.aut with ready := true, lookups := [] } }
  else s)

/-! ### Cable validity (R473) -/

/-- The Tag read event. -/
def tagReadEvent (s : State) (o : Fin 128) (matesLost : Bool) (by_ : Option Cmd := none) : State :=
  let j := s.tagJ1 o
  let other := match j.bound with | some b => b != j.tagId | none => false
  postOut s 0x0801 o (leBytes 8 j.tagId.toNat ++ leBytes 4 j.rLoop.toNat ++ p8 (b2n (s.aut1 o).cableValid)
    ++ p8 (b2n j.degraded + 2 * b2n matesLost + 4 * b2n other)) by_

/-- CABLE_VALID takes a value; a change queues AUTH 2 or AUTH 3 and posts the Tag read event. -/
def setCable (s : State) (o : Fin 128) (v : Bool) (by_ : Option Cmd := none) : State :=
  if (s.aut1 o).cableValid = v then s
  else
    let s := s.onAut o fun a => { a with cableValid := v }
    let s := queueTrig s o 9 (if v then 2 else 3)
    evalPermit (mirrorTag (tagReadEvent s o false by_) o) o

/-! ### CRC_B and MACs (R467, R469) -/

/-- One bit step of CRC_B (ISO/IEC 14443-3: PRESUMED, log 61). -/
def crcBBit (c : BitVec 16) : BitVec 16 := if c.getLsbD 0 then (c >>> 1) ^^^ 0x8408#16 else c >>> 1

/-- CRC_B of some bytes, the low byte first. -/
def crcB (l : List Byte) : List Byte :=
  let c := l.foldl (fun (c : BitVec 16) b => Nat.repeat crcBBit 8 (c ^^^ b.zeroExtend 16)) 0xFFFF#16
  leBytes 2 (~~~c).toNat

/-- The first 64 bits of a MAC, as the 8 bytes sent. -/
def tagMac (k : BitVec 128) (m : List Byte) : List Byte := (beBytes 16 (aesCmac k m).toNat).take 8

/-- k_tag (R469). -/
def tagKey (master : BitVec 128) (id : BitVec 64) : BitVec 128 := aesEncrypt master (id ++ 2#64)

/-! ### Transactions (R454, R455) -/

/-- Change the transaction of engine `e`. -/
def State.onTx (s : State) (e : Fin 16) (f : Transaction → Transaction) : State :=
  { s with aut := { s.aut with engines := vmod s.aut.engines e fun t => t.map f } }

/-- A tag command is sent (R467), and the engine awaits its answer in `step`. -/
def tagSend (s : State) (e : Fin 16) (o : Fin 128) (step : TxStep) (code : Nat) (payload : List Byte) : State :=
  let body := p8 0xA7 ++ p8 code ++ payload
  let f := body ++ crcB body
  (s.send (.reader o f)).onTx e fun t => { t with step := step, sent := f, sentAt := s.now, crcBad := 0 }

/-- An authenticated tag command: it and its reply each take the next value of ctr (R468; the value before the increment is the
one used: DEDUCED, log 61). -/
def tagSendAuth (s : State) (e : Fin 16) (t : Transaction) (step : TxStep) (code : Nat) (payload : List Byte) (withMac : Bool) : State :=
  let m := if withMac then tagMac t.kts (p16 t.ctr.toNat ++ p8 code ++ payload) else []
  (tagSend s e t.outlet step code (payload ++ m)).onTx e fun t => { t with ctr := t.ctr + 1 }

/-- The transaction ends: the carrier is off and the engine free (R454, R455); Read tag commands complete (R477). -/
def finishTx (s : State) (e : Fin 16) : State :=
  match vget s.aut.engines e with
  | some t =>
    let s := { s with aut := { s.aut with engines := vmod s.aut.engines e fun _ => none } }
    let s := s.onAut t.outlet fun a => { a with lastTxAt := s.now }
    let res := pack [(0, b2n (s.aut1 t.outlet).cableValid), (1, b2n t.authed), (2, b2n t.collapsed)]
    (t.cmds.foldl (fun s k => completeKey s k.1 k.2 0 res) s).revote
  | none => s

/-- Step 9 of R455, where the outlet is armed and not authorised; else the transaction ends. -/
def afterTag (s : State) (e : Fin 16) : State :=
  match vget s.aut.engines e with
  | some t =>
    if (s.aut1 t.outlet).armed && !(s.ctx t.outlet).authorised then
      ((s.send (.reader t.outlet [0x52])).send (.reader t.outlet ([0x05, 0x00, 0x08] ++ crcB [0x05, 0x00, 0x08]))).onTx e
        fun t => { t with step := .poll, sentAt := s.now }
    else finishTx s e
  | none => s

/-- The request an engine is granted to: the earliest, ties to the lower outlet (R454); an outlet in a transaction waits. -/
def nextRequest (s : State) : Option (Fin 128 × Nat) :=
  let busy (o : Fin 128) : Bool := s.aut.engines.toList.any fun e => match e with | some t => t.outlet == o | none => false
  outlets.foldl (fun (best : Option (Fin 128 × Nat)) o =>
    match (s.aut1 o).reqAt with
    | some t => if busy o then best else match best with
      | some b => if t < b.2 then some (o, t) else best
      | none => some (o, t)
    | none => best) none

/-- The engines serve: AUT runs, the device works its outlets, and the reader domain is up (R570). -/
def enginesRun (s : State) : Bool :=
  s.glb.phase == .running && s.aut.en && (s.tie.role == .alone || s.tie.role == .active) && (vget s.pwr.domains 8).up

/-- ENGINE_GRANT (R454, R455 steps 1 and 2). The carrier counts as on at once, and the harvest wait takes its 5 ms. -/
def execEngineGrant (e : Fin 16) (s : State) : Res :=
  .next (if enginesRun s && (vget s.aut.engines e).isNone then
    match nextRequest s with
    | some (o, _) =>
      let a := s.aut1 o
      let b : Bank := ⟨0, 0, 0, false⟩
      let t : Transaction := {
        outlet := o, step := .harvest, startAt := s.now, sentAt := s.now, sent := [], crcBad := 0, tagId := 0, nr := 0, kTag := 0
        kts := 0, ctr := 0, bank0 := b, bank1 := b, commit := 0, wBank := false, wBytes := [], authed := false, collapsed := false
        cardNr := 0, cmds := a.readCmds }
      let s := s.onAut o fun a => { a with reqAt := none, waitLong := false, readCmds := [] }
      let s := { s with aut := { s.aut with engines := vmod s.aut.engines e fun _ => some t } }
      let s := s.toTick (s.now + 5 * msNs)
      if a.tagEn && (s.keySlot 2).state == .valid && !s.key.dbgKeys then tagSend s e o .wakeAll 0x09 [] else afterTag s e
    | none => s
  else s)

/-! ### The mating count (R475, R476) -/

/-- A write is confirmed (R475). -/
def confirmWrite (s : State) (o : Fin 128) (t : BitVec 32) (n0 : Nat) : State :=
  let s := s.onTagJ o fun j => { j with mates := some t, pend := j.pend - n0, target := none }
  mirrorTag (postOut s 0x0803 o (p8 0 ++ leBytes 4 t.toNat)) o

/-- The step of R475 that a transaction step belongs to; none outside a write. -/
def writeStep : TxStep → Option Nat
  | .write2 => some 2
  | .write3 => some 3
  | .write4 => some 4
  | .write5 => some 5
  | _ => none

/-- The Tag write event of a collapse (R476). -/
def writeCollapsed (s : State) (o : Fin 128) (step : Nat) (target : BitVec 32) : State :=
  postOut { s with aut := { s.aut with collapseAny := true } } 0x0803 o (p8 step ++ leBytes 4 target.toNat)

/-- The target a write would carry now (R475, R472). -/
def TagJournal.nextTarget (j : TagJournal) : BitVec 32 := (j.mates.getD 0) + BitVec.ofNat 32 j.pend

/-- A field collapse at the step a transaction has reached (R467, R474, R476). -/
def collapseTx (s : State) (e : Fin 16) (t : Transaction) : State :=
  let s := s.onTx e fun t => { t with collapsed := true }
  let o := t.outlet
  match writeStep t.step, (s.tagJ1 o).target with
  | some k, some (tg, n0, _) =>
    let s := s.onTagJ o fun j => { j with target := some (tg, n0, k) }
    finishTx (mirrorTag (writeCollapsed s o k tg) o) e
  | _, _ =>
    if (t.step = .auth1 ∨ t.step = .auth2) ∧ 0 < (s.tagJ1 o).pend then finishTx (writeCollapsed s o 1 (s.tagJ1 o).nextTarget) e
    else finishTx s e

/-- An authentication failure (R469, R470): cause 0 mac_t, 1 reply MAC, 2 a second tag. -/
def authFail (s : State) (e : Fin 16) (o : Fin 128) (cause : Nat) (id : BitVec 64) : State :=
  let s := postOut { s with aut := { s.aut with tagFailAny := true } } 0x0802 o (p8 cause ++ leBytes 8 id.toNat)
  let s := tamper s 7 o.val (some o)
  afterTag (setCable s o false) e

/-- Steps 7 and 8 of R455: QUIET has no answer, and WAKE listens for a second tag. -/
def quietTag (s : State) (e : Fin 16) (t : Transaction) : State :=
  let s := tagSendAuth s e t .second 0x08 [] false
  tagSend s e t.outlet .second 0x01 []

/-- The bank with the higher GEN (R472); where neither is later than the other by RFC 1982, bank 0 (R12). -/
def higherBank (a b : Bank) : Bank := if laterN 16 b.gen.toNat a.gen.toNat then b else a

/-- The valid bank and DEGRADED (R472). -/
def validBank (t : Transaction) : Option Bank × Bool :=
  let named (b : Bank) : Bool := b.sound && b.gen.truncate 8 == t.commit
  match named t.bank0, named t.bank1 with
  | true, true => (some (higherBank t.bank0 t.bank1), false)
  | true, false => (some t.bank0, false)
  | false, true => (some t.bank1, false)
  | false, false =>
    match t.bank0.sound, t.bank1.sound with
    | true, true => (some (higherBank t.bank0 t.bank1), true)
    | true, false => (some t.bank0, true)
    | false, true => (some t.bank1, true)
    | false, false => (none, true)

/-- What a completed read does to the mating count (R475, R476). -/
def settleMates (s : State) (o : Fin 128) (v : Option Bank) : State :=
  let read (s : State) : State := s.onTagJ o fun j => { j with mates := (v.map (·.mates)).orElse fun _ => j.mates, target := none }
  match (s.tagJ1 o).target with
  | some (t, n0, k) =>
    if k = 5 then confirmWrite s o t n0
    else if k = 4 ∧ (v.map (·.mates)) = some t then confirmWrite s o t n0
    else read s
  | none => read s

/-- Plan a write and send its step 2 (R475). Without a sound bank the spec names neither the bank nor its GEN: both are free. -/
def startWrite (s : State) (e : Fin 16) (t : Transaction) (v : Option Bank) : State :=
  let o := t.outlet
  let j := s.tagJ1 o
  let f := s.free
  let s := if v.isNone then f.2 else s
  let bank : Bool := match v with | some b => b == t.bank0 | none => f.1.getLsbD 0
  let gen : BitVec 16 := match v with | some b => b.gen + 1 | none => (f.1 >>> 16).truncate 16
  let body := leBytes 2 gen.toNat ++ leBytes 4 j.nextTarget.toNat ++ p16 (s.handle o) ++ List.replicate 6 0
  let bytes := body ++ crcB body
  let s := mirrorTag (s.onTagJ o fun j => { j with target := some (j.nextTarget, j.pend, 2) }) o
  let s := s.onTx e fun t => { t with wBank := bank, wBytes := bytes }
  tagSendAuth s e t .write2 0x06 (p8 (1 + b2n bank) ++ bytes) true

/-- An authenticated read is complete: TEMP, the valid bank, the mating count, then a pending write (R472, R475, R476). -/
def completeRead (s : State) (e : Fin 16) (t : Transaction) (temp : BitVec 16) : State :=
  let o := t.outlet
  let s := s.onTagJ o fun j => { j with temp := temp }
  let r := validBank t
  let s := s.onTagJ o fun j => { j with degraded := r.2 }
  let s := settleMates s o r.1
  let s := if r.1.isNone && (s.tagJ1 o).mates.isNone then tagReadEvent s o true else s
  let s := mirrorTag s o
  if 0 < (s.tagJ1 o).pend then startWrite s e t r.1 else quietTag s e t

/-- The factory block is read (R471, R473). -/
def takeFactory (s : State) (t : Transaction) (body : List Byte) : State :=
  let o := t.outlet
  let s := s.onTagJ o fun j => { j with tagId := t.tagId, rLoop := BitVec.ofNat 32 (ofBytes ((body.drop 8).take 4)), authedOnce := true }
  let s := s.onAut o fun a => { a with lastAuthAt := s.now }
  let ok := match (s.tagJ1 o).bound with | some b => b == t.tagId | none => true
  mirrorTag (setCable s o ok) o

/-- A bank as read (R471). -/
def bankOf (l : List Byte) : Bank :=
  { gen := BitVec.ofNat 16 (ofBytes (l.take 2)), mates := BitVec.ofNat 32 (ofBytes ((l.drop 2).take 4))
    lastHandle := BitVec.ofNat 16 (ofBytes ((l.drop 6).take 2)), sound := l.length == 16 && crcB (l.take 14) == l.drop 14 }

/-- The body of an authenticated reply to command `code`, where its MAC is right; ctr has been taken. -/
def checkedBody (t : Transaction) (code : Nat) (p : List Byte) : Option (List Byte) :=
  let body := p.take (p.length - 8)
  if 8 ≤ p.length && p.drop (p.length - 8) == tagMac t.kts (p16 t.ctr.toNat ++ p8 code ++ body) then some body else none

/-- The command a reply answers (R468). -/
def TxStep.code : TxStep → Nat
  | .measure => 5
  | .write2 => 6
  | .write4 => 7
  | _ => 4

/-- Mutual authentication after AUTH1 (R469). -/
def tagAuth2 (s : State) (e : Fin 16) (t : Transaction) (p : List Byte) : State :=
  let nt := p.take 8
  let both := leBytes 8 t.nr.toNat ++ nt
  if p.length = 16 ∧ p.drop 8 = tagMac t.kTag (p8 0x21 ++ both) then
    let s := s.onTx e fun t => { t with kts := aesCmac t.kTag (p8 0x23 ++ both) }
    tagSend s e t.outlet .auth2 0x03 (tagMac t.kTag (p8 0x22 ++ both))
  else authFail s e t.outlet 0 t.tagId

/-- TAG_ID has been answered: AUTH1 is sent. Without a usable k_tag_master or a random nr the tag part ends (DEDUCED, log 61). -/
def tagAuth1 (s : State) (e : Fin 16) (t : Transaction) (p : List Byte) : State :=
  let id := BitVec.ofNat 64 (ofBytes p)
  let k := useKey s 2
  match k.1 with
  | some m =>
    if p.length = 8 && k.2.key.rngOk then
      let d := k.2.draw
      let nr : BitVec 64 := d.1.truncate 64
      let s := d.2.onTx e fun t => { t with tagId := id, nr := nr, kTag := tagKey (block128 m) id }
      tagSend s e t.outlet .auth1 0x02 (leBytes 8 nr.toNat)
    else afterTag k.2 e
  | none => afterTag k.2 e

/-- A write's step has been answered rightly: `t` is the transaction with ctr after the answer (R475). A read-back that differs
counts as a collapse of that step, and a commit byte that differs as one of step 4 (DESIGN CHOICE, log 62). -/
def writeReply (s : State) (e : Fin 16) (t : Transaction) (body : List Byte) : State :=
  let o := t.outlet
  let reach (s : State) (k : Nat) : State := mirrorTag (s.onTagJ o fun j => { j with target := j.target.map fun x => (x.1, x.2.1, k) }) o
  match t.step with
  | .write2 => tagSendAuth (reach s 3) e t .write3 0x04 (p8 (1 + b2n t.wBank)) false
  | .write3 => if body = t.wBytes then tagSendAuth (reach s 4) e t .write4 0x07 (t.wBytes.take 1) true else collapseTx s e t
  | .write4 => tagSendAuth (reach s 5) e t .write5 0x04 (p8 3) false
  | _ =>
    if body = t.wBytes.take 1 then
      match (s.tagJ1 o).target with
      | some (tg, n0, _) => quietTag (confirmWrite s o tg n0) e t
      | none => quietTag s e t
    else collapseTx s e { t with step := .write4 }

/-- A right answer of an authenticated tag (R455 steps 5 and 6). -/
def readReply (s : State) (e : Fin 16) (t : Transaction) (body : List Byte) : State :=
  match t.step with
  | .readFactory => tagSendAuth (takeFactory s t body) e t .readBank0 0x04 (p8 1) false
  | .readBank0 => tagSendAuth (s.onTx e fun t => { t with bank0 := bankOf body }) e t .readBank1 0x04 (p8 2) false
  | .readBank1 => tagSendAuth (s.onTx e fun t => { t with bank1 := bankOf body }) e t .readCommit 0x04 (p8 3) false
  | .readCommit => tagSendAuth (s.onTx e fun t => { t with commit := body.headD 0 }) e t .measure 0x05 [] false
  | .measure => completeRead s e t (BitVec.ofNat 16 (ofBytes body))
  | _ => writeReply s e t body

/-- The length of the body of a reply (R468, R471); an ACK's is not given. -/
def bodyOk (step : TxStep) (body : List Byte) : Bool :=
  match step with
  | .readFactory | .readBank0 | .readBank1 | .write3 => body.length == 16
  | .readCommit | .write5 => body.length == 1
  | .measure => body.length == 2
  | _ => true

/-- A reply whose CRC_B passed, by the step that awaits it. -/
def tagReply (s : State) (e : Fin 16) (t : Transaction) (p : List Byte) : State :=
  match t.step with
  | .wakeAll => tagAuth1 s e t p
  | .auth1 => tagAuth2 s e t p
  | .auth2 =>
    let s := s.onTx e fun t => { t with authed := true, ctr := 0 }
    tagSendAuth s e { t with ctr := 0 } .readFactory 0x04 (p8 0) false
  | .second => authFail s e t.outlet 2 (BitVec.ofNat 64 (ofBytes p))
  | .harvest | .poll | .exchange => s
  | st =>
    match (checkedBody t st.code p).filter (bodyOk st) with
    | some body =>
      let s := s.onTx e fun t => { t with ctr := t.ctr + 1 }
      readReply s e { t with ctr := t.ctr + 1 } body
    | none => authFail s e t.outlet 1 t.tagId

/-- The engine awaits a tag's answer. -/
def TxStep.tagWait : TxStep → Bool
  | .harvest | .poll | .exchange => false
  | _ => true

/-- TAG_REPLY: the reply's frame as received. An answer whose CRC_B fails lets the command be sent once more, and twice in a row
is a field collapse (R467; the repeat is DEDUCED, log 61). -/
def execTagReply (e : Fin 16) (bytes : List (BitVec 8)) (s : State) : Res :=
  .next (match vget s.aut.engines e with
  | some t =>
    if !(enginesRun s && t.step.tagWait) then s
    else
      let n := bytes.length
      let body := bytes.take (n - 2)
      if 4 ≤ n && bytes.head? == some 0xA7#8 && crcB body == bytes.drop (n - 2) then
        tagReply (s.onTx e fun t => { t with crcBad := 0 }) e t (body.drop 2)
      else if t.crcBad = 0 then (s.send (.reader t.outlet t.sent)).onTx e fun t => { t with crcBad := 1, sentAt := s.now }
      else if t.step = .wakeAll ∨ t.step = .second then afterTag s e
      else collapseTx s e t
  | none => s)

/-! ### Cards (R456, R457) -/

/-- A card that is not identified: outcome 4, 5 or 7 (R456, R457, R465). -/
def cardOutcome (s : State) (e : Fin 16) (o : Fin 128) (outcome : Nat) : State := finishTx (reportCard s o none outcome none) e

/-- The identity of a card is known. -/
def cardIs (s : State) (e : Fin 16) (o : Fin 128) (typ : Nat) (ident : List Byte) : State := finishTx (identified s o typ ident) e

/-- The AID of RDR_AID. -/
def Aut.aidBytes (a : Aut) : List Byte := (wordBytes a.aid.toList).take a.aidLen.toNat

/-- The keyed exchange begins (R457). With the exchange disabled no card can pass it: outcome 4 (DEDUCED, log 63); without a key that
can be used, or a random nr, the card's reading fails: outcome 7 (R538). -/
def beginExchange (s : State) (e : Fin 16) (t : Transaction) : State :=
  let o := t.outlet
  let k := useKey s 1
  if s.aut.aidLen = 0 then cardOutcome s e o 4
  else if k.1.isNone || !k.2.key.rngOk then cardOutcome k.2 e o 7
  else
    let d := k.2.draw
    let nr : BitVec 128 := d.1.truncate 128
    let aid := s.aut.aidBytes
    let s := d.2.send (.reader o ([0x00, 0xA4, 0x04, 0x00] ++ p8 aid.length ++ aid))
    let s := s.send (.reader o ([0x80, 0x88, 0x00, 0x00, 0x10] ++ leBytes 16 nr.toNat ++ [0x00]))
    s.onTx e fun t => { t with step := .exchange, sentAt := s.now, cardNr := nr }

/-- A card answers polling. -/
def cardPolled (s : State) (e : Fin 16) (t : Transaction) (typ : Nat) (ident : List Byte) (ok : Bool) : State :=
  if !ok then cardOutcome s e t.outlet 7
  else if s.aut.cardAuth then beginExchange s e t
  else cardIs s e t.outlet typ ident

/-- A card's answer to the keyed exchange (R457). -/
def cardKeyed (s : State) (e : Fin 16) (t : Transaction) (id mac : List Byte) : State :=
  let k := useKey s 1
  match k.1 with
  | some m =>
    let kc := aesEncrypt (block128 m) (block128 id)
    if id.length = 16 ∧ mac = tagMac kc (p8 0x40 ++ leBytes 16 t.cardNr.toNat ++ id) then cardIs k.2 e t.outlet 3 id
    else cardOutcome k.2 e t.outlet 4
  | none => cardOutcome k.2 e t.outlet 7

/-- CARD_RESPONSE. -/
def execCardResponse (e : Fin 16) (a : CardAnswer) (s : State) : Res :=
  .next (match vget s.aut.engines e with
  | some t =>
    if !enginesRun s then s
    else match t.step, a with
      | .poll, .typeA uid => cardPolled s e t 1 uid (uid.length == 4 || uid.length == 7 || uid.length == 10)
      | .poll, .typeB pupi => cardPolled s e t 2 pupi (pupi.length == 4)
      | .poll, .collision => cardOutcome s e t.outlet 5
      | .poll, .failed => cardOutcome s e t.outlet 7
      | .exchange, .keyed id mac => cardKeyed s e t id mac
      | .exchange, .refusedKey => cardOutcome s e t.outlet 4
      | .exchange, .failed => cardOutcome s e t.outlet 7
      | _, _ => s
  | none => s)

/-! ### Missing answers and times -/

/-- An answer is missing: no tag, no second tag and no card are no collapse (R455, R467). -/
def noAnswer (s : State) (e : Fin 16) (t : Transaction) : State :=
  match t.step with
  | .wakeAll | .second => afterTag s e
  | .poll | .harvest => finishTx s e
  | .exchange => cardOutcome s e t.outlet 7
  | _ => collapseTx s e t

/-- FIELD_COLLAPSE (R467): 2 ms after the EOF of the last command. -/
def execFieldCollapse (e : Fin 16) (s : State) : Res :=
  .next (match vget s.aut.engines e with
  | some t => if enginesRun s then let s := s.toTick (t.sentAt + 2 * msNs); noAnswer s e t else s
  | none => s)

/-- TRANSACTION_TIMEOUT (R454): 200 ms after the grant; a write under way stands where a collapse would leave it (DEDUCED,
log 62). -/
def execTransactionTimeout (e : Fin 16) (s : State) : Res :=
  .next (match vget s.aut.engines e with
  | some t => if s.glb.phase = .running then
      let s := s.toTick (t.startAt + 200 * msNs)
      if (writeStep t.step).isSome then collapseTx s e t else finishTx s e
    else s
  | none => s)

/-- PING (R453, R454): a ping of an outlet that is watched. -/
def execPing (o : Fin 128) (s : State) : Res :=
  .next (if s.glb.phase = .running && pingEn s o then (wake (requestEngine s o) 4 o.val).revote else s)

/-- TAG_POLL (R454): POLL_T after the last transaction, while TAG_EN = 1 and the pilot class is A; not in
Hub-Quiet (R576). -/
def execTagPoll (o : Fin 128) (s : State) : Res :=
  let a := s.aut1 o
  .next (if s.glb.phase = .running && s.aut.en && !s.pwr.quiet && a.tagEn && (s.ctx o).pilot == 0 && a.reqAt.isNone then
    (requestEngine (s.toTick (a.lastTxAt + s.cfg.pollT * secNs)) o).revote else s)

/-- REQUEST_WAIT_LONG (R454). -/
def execRequestWaitLong (o : Fin 128) (s : State) : Res :=
  let a := s.aut1 o
  .next (match a.reqAt with
  | some t => if s.glb.phase = .running && !a.waitLong then
      let s := s.toTick (t + secNs)
      { s.onAut o fun a => { a with waitLong := true } with aut := { s.aut with waitLongF := true } }
    else s
  | none => s)

/-- TAG_AGE_EXPIRY (R473). -/
def execTagAgeExpiry (o : Fin 128) (s : State) : Res :=
  let a := s.aut1 o
  .next (if s.glb.phase = .running && a.cableValid && (s.ctx o).pilot == 0 then
    setCable (s.toTick (a.lastAuthAt + s.cfg.tagAge * secNs)) o false else s)

/-! ### Commands of an outlet -/

/-- Bind cable (R473, R477). -/
def effBindCable (c : Cmd) (s : State) : State :=
  onOutlet c s fun o =>
    let j := s.tagJ1 o
    let yes := bit (c.p 0) 0
    if yes && !j.authedOnce then complete s c 0x0A
    else
      let s := s.onTagJ o fun j => { j with bound := if yes then some j.tagId else none }
      complete (mirrorTag (setCable s o false (some c)) o) c 0

/-- BIND_CABLE. -/
def execBindCable (c : Cmd) (s : State) : Res := .next (cmdStep [0x0804] effBindCable c s)

/-- Read tag (R454, R477). -/
def effReadTag (c : Cmd) (s : State) : State :=
  onOutlet c s fun o =>
    if !(s.aut1 o).tagEn then complete s c 0x08
    else (requestEngine ((started s c).onAut o fun a => { a with readCmds := a.readCmds ++ [(c.ring, c.index)] }) o).revote

/-- READ_TAG. -/
def execReadTag (c : Cmd) (s : State) : Res := .next (cmdStep [0x0805] effReadTag c s)

/-! ### Registers (R481) -/

/-- A write of AUT_CFG. -/
def writeAutCfg (s : State) (v : Word) : State :=
  let p := fld v 8 8
  let g := fld v 16 12
  if p < 2 ∨ g < 10 ∨ 3600 < g then s
  else State.revote { s with
    cfg := { s.cfg with pollT := p, tagAge := g }
    aut := { s.aut with en := bit v 0, cardAuth := bit v 1, lock := s.aut.lock || bit v 31 } }

/-- A write of a register of the AUT block. -/
def writeAut (s : State) (off : Nat) (v : Word) : State :=
  let a := s.aut
  if off = 0 then writeAutCfg s v
  else if off = 4 then { s with aut := { a with
    tagFailAny := a.tagFailAny && !bit v 0, collapseAny := a.collapseAny && !bit v 1, waitLongF := a.waitLongF && !bit v 2
    checkFail := a.checkFail && !bit v 3, resync := a.resync && !bit v 4 } }
  else if off = 0x20 then
    let n := fld v 0 5
    if n = 0 ∨ (5 ≤ n ∧ n ≤ 16) then { s with aut := { a with aidLen := BitVec.ofNat 5 n } } else s
  else match arr off 0x10 4 4, arr off 0x24 4 4, arr off 0x1000 0x40 128 with
    | some (k, 0), _, _ => if a.lock then s else { s with aut := { a with salt := vmod a.salt k fun _ => v } }
    | _, some (k, 0), _ => { s with aut := { a with aid := vmod a.aid k fun _ => v } }
    | _, _, some (o, 0) => if fld v 0 2 = 3 then s else s.onAut o fun x => { x with mode := BitVec.ofNat 2 (fld v 0 2), tagEn := bit v 2 }
    | _, _, _ => s

/-- AUT_CFG_LOCK (R481): a write of AUT_CFG with LOCK = 1. -/
def execAutCfgLock (v : BitVec 32) (s : State) : Res := .next (viaBar s 13 fun s => writeAutCfg s (v ||| 0x80000000#32))

end Machine
end Sys2Proof
end

