-- ==== Sys2Proof/Machine/Kite.lean ====
section
/-! DEFINITION. The Kite mains mesh (chapter 16): frames and their sending, neighbours, costs and routes, phase and rotation, the
site coordination of R303 and R304, and the Kite commands. What a received frame does is in KiteRows.lean. -/

namespace Sys2Proof

/-- Bytes 0 to 30 of a frame, authenticated and not encrypted (R489). -/
def KiteFrame.head (f : KiteFrame) : List Byte :=
  Machine.p8 (f.typ.toNat + 16 * f.pri.toNat + 64 * Machine.b2n f.ackReq + 128 * Machine.b2n f.bcast) ++ Machine.p8 f.tx.val ++
    Machine.p8 f.rx.val ++ Machine.p8 f.orig.val ++ Machine.p8 f.dest.val ++ Machine.p8 (f.hops.toNat + 16 * Machine.b2n f.locked) ++
    Machine.leBytes 2 f.seq.toNat ++ Machine.p16 f.payload.length ++ Machine.leBytes 8 f.serial.toNat ++
    Machine.leBytes 5 f.fcnt.toNat ++ Machine.p64 f.mains

/-- The bytes of a frame before its MIC, the payload in plain (R489). -/
def KiteFrame.bytes (f : KiteFrame) : List Byte := f.head ++ f.payload

/-- The nonce of a frame: TX_SERIAL followed by FCNT, as bytes 10 to 22 carry them (R489, R492). -/
def KiteFrame.nonce (f : KiteFrame) : List Byte := Machine.leBytes 8 f.serial.toNat ++ Machine.leBytes 5 f.fcnt.toNat

/-- A frame sealed under a key, with its CRC (R489, R492). -/
def KiteFrame.seal (f : KiteFrame) (k : BitVec 128) : List Byte :=
  let b := f.head ++ Machine.ccmCrypt k f.nonce f.payload ++ Machine.ccmMic k f.nonce f.head f.payload
  b ++ Machine.leBytes 4 (Machine.crc32 b).toNat

/-- The fields of a frame's bytes, its payload as it stands there (R489). -/
def KiteFrame.parse (b : List Byte) : KiteFrame :=
  let n (i k : Nat) : Nat := Machine.ofBytes ((b.drop i).take k)
  { typ := BitVec.ofNat 4 (n 0 1), pri := BitVec.ofNat 2 (n 0 1 / 16), ackReq := (n 0 1).testBit 6, bcast := (n 0 1).testBit 7
    tx := Machine.fin 64 (n 1 1), rx := Machine.fin 64 (n 2 1), orig := Machine.fin 64 (n 3 1), dest := Machine.fin 64 (n 4 1)
    hops := BitVec.ofNat 4 (n 5 1), locked := (n 5 1).testBit 4, seq := BitVec.ofNat 16 (n 6 2), serial := BitVec.ofNat 64 (n 10 8)
    fcnt := BitVec.ofNat 40 (n 18 5), mains := n 23 8, payload := (b.drop 31).take (n 8 2) }

/-- Whether a frame's payload is as long as its type requires (R491). -/
def KiteFrame.longEnough (f : KiteFrame) : Bool :=
  let n := f.payload.length
  let at_ (i : Nat) : Nat := (f.payload.getD i 0).toNat
  match f.typ.toNat with
  | 1 => decide (4 ≤ n) && decide (4 + 2 * at_ 1 + 2 * at_ 2 ≤ n)
  | 2 => decide (6 ≤ n)
  | 3 => decide (12 ≤ n)
  | 4 => decide (68 ≤ n)
  | 5 => decide (28 ≤ n)
  | 6 => decide (19 ≤ n)
  | 7 => decide (12 ≤ n)
  | _ => decide (13 ≤ n)

namespace Machine

/-! ### State access -/

/-- Change what is kept of node `n`. -/
def State.onNode (s : State) (n : Fin 64) (f : KiteNode → KiteNode) : State :=
  { s with kit := { s.kit with nodes := vmod s.kit.nodes n f } }

/-- What is kept of node `n`. -/
def State.node (s : State) (n : Fin 64) : KiteNode := vget s.kit.nodes n

/-- The nodes in order. -/
def kiteNodes : List (Fin 64) := List.finRange 64

/-- A field of a payload. -/
def payAt (p : List Byte) (i n : Nat) : Nat := ofBytes ((p.drop i).take n)

/-- The Kite datapath of this device receives: it carries the node, or it is the standby that listens (R482, R503, R570). -/
def kiteHears (s : State) : Bool :=
  (s.glb.phase == .running || s.glb.phase == .serviceReset) && s.kit.en && s.slotNo == 0

/-- A Kite key slot holds a key that can be used: without one Kite sends nothing (R538; an EMPTY slot likewise, DEDUCED, log 151). -/
def kiteKeyed (s : State) : Bool :=
  !s.key.dbgKeys && ((s.keySlot 3).state == .valid || (s.keySlot 4).state == .valid)

/-- The node sends (R482, R503, R504, R538). -/
def kiteSends (s : State) : Bool :=
  s.glb.phase == .running && s.kiteActive && !s.kit.conflict && (s.domain 10).up && kiteKeyed s

/-- The Kite key slots, the selected one first (R492, R536). -/
def kiteSlots (s : State) : List (Fin 64) := if s.kit.keySel then [4, 3] else [3, 4]

/-- The key for sending: the selected slot's, or the other's where that one cannot be used (R492, R538). -/
def sendKey (s : State) : Option (BitVec 128) × State :=
  (kiteSlots s).foldl (fun (a : Option (BitVec 128) × State) slot => match a.1 with
    | some _ => a
    | none => let r := useKey a.2 slot; (r.1.map block128, r.2)) (none, s)

/-! ### Sending (R486 to R489, R493, R498) -/

/-- The frames to send occupy queue 289 (R171, R498). -/
def syncOutbox (s : State) : State :=
  let ps := s.kit.outbox.map fun (x : KiteOut) => Packet.plain x.frame.bytes 0
  s.onQ 289 fun q =>
    let n := (ps.takeWhile fun p => q.packets.contains p).length
    PoolQ.settle { q with packets := ps.take n, staging := ps.drop n }

/-- Change the frames to send. -/
def State.onOutbox (s : State) (f : List KiteOut → List KiteOut) : State :=
  syncOutbox { s with kit := { s.kit with outbox := f s.kit.outbox } }

/-- A frame this node originates; the fields of its sending are filled when it is sent. HOPS starts at 8 for a frame that may be
forwarded (DESIGN CHOICE, log 64). -/
def kiteFrame (s : State) (typ pri : Nat) (dest : Fin 64) (bcast oneHop : Bool) (payload : List Byte) : KiteFrame :=
  { typ := BitVec.ofNat 4 typ, pri := BitVec.ofNat 2 pri, ackReq := !bcast && typ != 2, bcast := bcast, tx := s.kit.nodeId
    rx := dest, orig := s.kit.nodeId, dest := dest, hops := if oneHop then 0 else 8, locked := false, seq := s.kit.seq + 1
    serial := s.keep.serial, fcnt := 0, mains := 0, payload := payload }

/-- Queue a frame of this node's own. -/
def kiteQueue (s : State) (typ pri : Nat) (dest : Fin 64) (bcast oneHop : Bool) (payload : List Byte) : State :=
  let f := kiteFrame s typ pri dest bcast oneHop payload
  State.onOutbox { s with kit := { s.kit with seq := s.kit.seq + 1 } } fun l => l ++ [⟨f, 0, none⟩]

/-- Eight times the bits of a symbol in a mode: 3 DQPSK, 2 DBPSK, else ROBUST (R483, R484). -/
def modeBits8 (band : BitVec 2) (mode : Nat) : Nat :=
  let n := if band = 0 then 19 else if band = 1 then 9 else 35
  if mode = 3 then 8 * n else if mode = 2 then 4 * n else n

/-- How long a frame of `len` payload bytes lasts, in ns: 12 symbols of preamble and header, then the data (R484, R489). -/
def kiteDuration (s : State) (mode len : Nat) : Nat :=
  (12 + (64 * (len + 43) + modeBits8 s.kit.band mode - 1) / modeBits8 s.kit.band mode) * 700 * usNs

/-- The mode of a frame on its link (R490). -/
def kiteMode (s : State) (f : KiteFrame) : Nat :=
  if f.typ = 1 ∨ f.typ = 3 then 1 else min (s.node f.rx).snrIn (s.node f.rx).snrOut

/-- The fields that are filled at the first sample of the preamble (R489, R491, R493). -/
def stampFrame (s : State) (f : KiteFrame) : KiteFrame :=
  let pay := match f.typ.toNat with
    | 3 => p64 s.tim.legal ++ p32 (s.tim.syncAgeTicks / secNs)
    | 7 => if f.orig = s.kit.nodeId then f.payload.take 4 ++ p64 s.now else f.payload
    | _ => f.payload
  { f with tx := s.kit.nodeId, locked := s.tim.mainsState == .locked, serial := s.keep.serial, fcnt := s.kit.fcnt + 1
           mains := s.tim.mains, payload := pay }

/-- FCNT rises with every frame, and is kept at every 4,096th (R493). -/
def countFcnt (s : State) : State :=
  let n := s.kit.fcnt + 1
  { s with kit := { s.kit with fcnt := n, txCount := s.kit.txCount + 1 }
           keep := { s.keep with fcnt := if n.toNat % 4096 = 0 then n else s.keep.fcnt } }

/-- A frame goes out, sealed; the clock runs to its end. -/
def transmit (s : State) (f : KiteFrame) : State :=
  let f := stampFrame s f
  let k := sendKey s
  match k.1 with
  | none => k.2
  | some key =>
    let s := countFcnt (k.2.send (.kite (f.seal key)))
    let s := s.toTick (s.now + kiteDuration s (kiteMode s f) f.payload.length)
    { s with kit := { s.kit with lastTxEnd := s.now, idleAt := s.now } }

/-- An ACK leaves 2.1 ms after the end of the frame it answers (R488). -/
def sendAck (s : State) (f : KiteFrame) (snr : Nat) : State :=
  if !kiteSends s then s
  else
    let s := s.toTick (s.now + 2100 * usNs)
    let a := kiteFrame s 2 0 f.tx false true (leBytes 5 f.fcnt.toNat ++ p8 snr)
    transmit { s with kit := { s.kit with seq := s.kit.seq + 1 } } a

/-- A probe that fails (R505). -/
def failProbe (s : State) (f : KiteFrame) : State :=
  if f.typ = 7 && f.orig == s.kit.nodeId then
    let hit := s.kit.probes.filter fun p => p.1.toNat == payAt f.payload 0 4
    hit.foldl (fun s p => completeKey s p.2.2.1 p.2.2.2.1 0x0A)
      { s with kit := { s.kit with probes := s.kit.probes.filter fun p => p.1.toNat != payAt f.payload 0 4 } }
  else s

/-- The Domino event (R606). -/
def dominoEvent (s : State) (target : Nat) (version : BitVec 32) (node : Fin 64) (st : Nat) : State :=
  postDev s 0x0E06 (p8 target ++ p32 version.toNat ++ p8 node.val ++ p8 st)

/-- DOMINO_NEXT cannot be reached: the transfer is interrupted, to be tried again after 60 s (R599). -/
def pauseDomino (s : State) : State :=
  match s.upd.dominoTx with
  | some x =>
    let s := { s with upd := { s.upd with dominoTx := some { x with piece := 0, paused := some s.now }, dominoFail := true } }
    if x.paused.isSome then s else dominoEvent s x.target.val x.version s.upd.dominoNext 2
  | none => s

/-- A frame is abandoned (R488). -/
def abandon (s : State) (f : KiteFrame) : State :=
  let s := { s with kit := { s.kit with abandoned := true } }
  let s := if f.typ = 6 then pauseDomino s else s
  failProbe (postDev s 0x0903 (p8 f.dest.val ++ p8 f.typ.toNat ++ leBytes 2 f.seq.toNat)) f

/-- The frame whose window comes first: the lowest priority number, and of those the oldest. In the first 10 s only HELLO is sent
(R503). -/
def nextKite (s : State) : Option KiteOut :=
  let ready := (s.kit.outbox.take (s.poolQ 289).packets.length).filter fun x => x.sentAt.isNone && (s.since s.kit.startedAt (10 * secNs) || x.frame.typ == 1)
  ready.foldl (fun (a : Option KiteOut) x => match a with
    | some b => if x.frame.pri.toNat < b.frame.pri.toNat then some x else a
    | none => some x) none

/-- Mains angle of the end of the guard the present angle lies in (R487); none outside both guards. -/
def guardEnd (s : State) : Option Nat :=
  let a := s.tim.mains % 0x8000
  if a < 0x0400 then some (s.tim.mains - a + 0x0400) else if 0x7C00 < a then some (s.tim.mains - a + 0x8400) else none

/-- First slot and number of slots of a priority's window (R486). -/
def kiteWindow (pri : BitVec 2) : Nat × Nat := if pri = 0 then (0, 4) else if pri = 1 then (4, 8) else (12, 16)

/-- The start of the slot a frame of this priority picks, after the medium became idle (R486): the wait of the band, then a slot of
the window at random. The random numbers are free; a medium that has been idle for longer lets the frame start at once (DESIGN
CHOICE, log 151). -/
def slotStart (s : State) (pri : BitVec 2) : Nat × State :=
  let d := s.draw
  let w := kiteWindow pri
  let slot := w.1 + d.1.toNat % w.2
  if s.kit.band = 0 then (s.kit.idleAt + 1400 * usNs + slot * 1400 * usNs, d.2)
  else
    let r := d.2.draw
    (max (s.kit.idleAt + 85 * msNs + r.1.toNat % (30 * msNs + 1)) (s.kit.lastTxEnd + 125 * msNs) + slot * 1400 * usNs, r.2)

/-- The chosen frame starts (R486 to R488, R498). -/
def startKite (s : State) (x : KiteOut) : State :=
  let drop (s : State) : State := s.onOutbox fun l => l.filter fun y => y != x
  let f := x.frame
  if f.bcast then drop (transmit s f)
  else if !(s.node f.dest).reachable then abandon (drop s) f
  else
    let f := { f with rx := (s.node f.dest).nextHop }
    let s := transmit (drop s) f
    let g := { f with fcnt := s.kit.fcnt, tx := s.kit.nodeId }
    if f.ackReq then s.onOutbox fun l => l ++ [⟨g, x.retries, some s.now⟩] else s

/-- CONTENTION_SLOT (R486, R487): the medium is idle and the slot that was picked arrives, so the frame starts, outside the guards of
the mains angle. -/
def execContentionSlot (s : State) : Res :=
  .next (match nextKite s with
  | none => s
  | some x =>
    if !kiteSends s then s
    else
      let t := slotStart s x.frame.pri
      let s := t.2.toTick t.1
      startKite (match guardEnd s with | some m => s.toMains m | none => s) x)

/-! ### Routes (R495, R497) -/

/-- The candidates of a route to `d`: next hop and cost (R497). -/
def routeCands (s : State) (d : Fin 64) : List (Fin 64 × Nat) :=
  (kiteNodes.filterMap fun h =>
    let x := s.node h
    let c := x.linkCost
    if c = 0 then none
    else if h = d then some (h, c)
    else (x.routes.find? fun r => r.1 == d).bind fun r => if r.2 ≤ 120 then some (h, c + r.2) else none).filter fun r => decide (r.2 ≤ 120)

/-- The least candidate, the lower node where several are equal (DEDUCED, log 65). -/
def leastRoute (l : List (Fin 64 × Nat)) : Option (Fin 64 × Nat) :=
  l.foldl (fun a x => match a with | some b => if x.2 < b.2 then some x else a | none => some x) none

/-- The Route event; a next hop that does not exist is not given by the spec. -/
def routeEvent (s : State) (d : Fin 64) (old new : Option (Fin 64)) (cost : Nat) : State :=
  let v := s.free
  let s := if old.isSome && new.isSome then s else v.2
  let hop (h : Option (Fin 64)) (sh : Nat) : Nat := match h with | some n => n.val | none => (v.1.toNat / 2 ^ sh) % 256
  postDev { s with kit := { s.kit with routeChange := true } } 0x0901 (p8 d.val ++ p8 (hop old 0) ++ p8 (hop new 8) ++ p8 cost)

/-- Recompute the route to one node: a next hop changes only for a route at least 2 cheaper, or when the old route is lost. -/
def rerouteOne (s : State) (d : Fin 64) : State :=
  if d = s.kit.nodeId then s
  else
    let x := s.node d
    let l := routeCands s d
    let keep := if x.reachable then l.find? fun r => r.1 == x.nextHop else none
    match keep, leastRoute l with
    | some k, some b =>
      if b.2 + 2 ≤ k.2 then routeEvent (s.onNode d fun x => { x with nextHop := b.1, routeCost := b.2 }) d (some x.nextHop) (some b.1) b.2
      else s.onNode d fun x => { x with routeCost := k.2 }
    | none, some b =>
      routeEvent (s.onNode d fun x => { x with reachable := true, nextHop := b.1, routeCost := b.2 }) d
        (if x.reachable then some x.nextHop else none) (some b.1) b.2
    | _, none =>
      if x.reachable then
        routeEvent (s.onNode d fun x => { x with reachable := false, routeCost := 0, nextHop := 0 }) d (some x.nextHop) none 0
      else s

/-- ROTATION of this node (R500). -/
def rotationNow (s : State) : BitVec 2 :=
  if s.shr.kiteMaster then 0
  else match kiteNodes.find? fun n => (s.node n).master && (s.node n).reachable with
    | none => 3
    | some m =>
      let h := s.node (s.node m).nextHop
      if h.cls = 0 ∨ h.rotation = 3 ∨ s.met.incSeq ≠ 1 then 3
      else BitVec.ofNat 2 ((h.rotation.toNat + 4 - h.cls.toNat) % 3)

/-- ROTATION follows its sources (R500). -/
def settleRotation (s : State) : State :=
  let old := s.kit.rotation
  let new := rotationNow s
  if old = new then s else postDev { s with kit := { s.kit with rotation := new } } 0x0906 (p8 old.toNat ++ p8 new.toNat)

/-- Routes and ROTATION after a change of links or of what neighbours advertise. -/
def reroute (s : State) : State := settleRotation (kiteNodes.foldl rerouteOne s)

/-! ### HELLO, neighbours, TIME (R494, R502, R504) -/

/-- The payload of a HELLO (R491). Every route is listed: one broadcast cannot leave a route out for one neighbour (log 65). -/
def helloPayload (s : State) : List Byte :=
  let nb := (kiteNodes.filter fun n => (s.node n).neighbour).take 63
  let rt := (kiteNodes.filter fun n => (s.node n).reachable && n != s.kit.nodeId).take 63
  p8 (s.kit.rotation.toNat + 4 * s.tim.legalState.code + 16 * s.tim.mainsState.code + 64 * b2n s.shr.kiteMaster + 128 * b2n s.kit.timeSrc)
    ++ p8 nb.length ++ p8 rt.length ++ p8 0 ++ (nb.flatMap fun n => p8 n.val ++ p8 (s.node n).snrIn)
    ++ (rt.flatMap fun n => p8 n.val ++ p8 (s.node n).routeCost)

/-- Queue a HELLO. -/
def sendHello (s : State) : State :=
  kiteQueue { s with kit := { s.kit with lastHello := s.now } } 1 1 0 true true (helloPayload s)

/-- HELLO_TIMER (R494, R503): 10 s after the last one with a random shift of at most 1 s; the first 0 s to 2 s after EN = 1. -/
def execHelloTimer (s : State) : Res :=
  .next (if !kiteSends s then s
  else
    let d := s.draw
    let shift := d.1.toNat % (2 * secNs + 1)
    let due := if s.kit.lastHello < s.kit.startedAt ∨ s.kit.lastHello = 0 then s.kit.startedAt + shift
      else s.kit.lastHello + 9 * secNs + shift
    sendHello (d.2.toTick due))

/-- The Neighbour event: 0 gained, 1 lost. -/
def neighbourEvent (s : State) (n : Fin 64) (lost : Nat) : State :=
  postDev s 0x0900 (p8 n.val ++ p8 lost ++ leBytes 8 (s.node n).serial.toNat)

/-- NEIGHBOUR_LOST (R494): 35 s without any frame from it. -/
def execNeighbourLost (n : Fin 64) (s : State) : Res :=
  .next (if kiteHears s && (s.node n).neighbour then
    let s := s.toTick ((s.node n).lastAt + 35 * secNs)
    let s := s.onNode n fun x => { x with neighbour := false, master := false, routes := [], snrIn := 0, snrOut := 0 }
    reroute (neighbourEvent s n 1)
  else s)

/-- TIME_BROADCAST (R502). -/
def execTimeBroadcast (s : State) : Res :=
  .next (if kiteSends s && s.kit.timeSrc && s.tim.legalState == .synced then
    let s := s.toTick (s.kit.lastTime + 60 * secNs)
    kiteQueue { s with kit := { s.kit with lastTime := s.now } } 3 1 0 true true (List.replicate 12 0)
  else s)

/-- NODE_REPLACEMENT (R504): 1 s after a new serial was heard, with no frame from the old one. -/
def execNodeReplacement (n : Fin 64) (s : State) : Res :=
  .next (match (s.node n).newSerial with
  | some (new, t) => if kiteHears s then
      let s := s.toTick (t + secNs)
      s.onNode n fun x => { x with serial := new, newSerial := none, lastAt := s.now }
    else s
  | none => s)

/-! ### Link tally (R488, R495, R496) -/

/-- Missed ACKs of a link inside W. -/
def missesNow (s : State) (x : KiteNode) : List Nat := x.misses.filter fun t => decide (s.now ≤ t + s.kit.tallyW * 100 * msNs)

/-- The Link penalty event. -/
def penaltyEvent (s : State) (n : Fin 64) (removed : Nat) : State :=
  postDev s 0x0902 (p8 n.val ++ p8 removed ++ p16 (missesNow s (s.node n)).length)

/-- One missed ACK counts against the link to `n`. -/
def missAck (s : State) (n : Fin 64) : State :=
  let m := s.now :: missesNow s (s.node n)
  let due := decide (s.kit.tallyN ≤ m.length) && !(s.node n).penalty
  let s := s.onNode n fun x => { x with misses := m, ackRun := 0, missed := x.missed + 1, penalty := x.penalty || due }
  if due then reroute (penaltyEvent { s with kit := { s.kit with penaltyAny := true } } n 0) else s

/-- An acknowledged frame: after 20 in a row the penalty goes, with fewer than N events in W. -/
def gotAck (s : State) (n : Fin 64) (snr : Nat) : State :=
  let s := s.onNode n fun x => { x with ackRun := x.ackRun + 1, acked := x.acked + 1, snrOut := snr }
  let x := s.node n
  let s := if x.penalty && decide (20 ≤ x.ackRun) && decide ((missesNow s x).length < s.kit.tallyN) then
      penaltyEvent (s.onNode n fun x => { x with penalty := false }) n 1 else s
  reroute s

/-- ACK_TIMEOUT (R488): 10 ms after the end of the oldest frame that awaits an ACK. -/
def execAckTimeout (s : State) : Res :=
  .next (match s.kit.outbox.find? fun x => x.sentAt.isSome with
  | some x =>
    if s.glb.phase != .running then s
    else
      let s := s.toTick (x.sentAt.getD 0 + 10 * msNs)
      let s := missAck (s.onOutbox fun l => l.filter fun y => y != x) x.frame.rx
      if 7 ≤ x.retries then abandon s x.frame
      else s.onOutbox fun l => l ++ [⟨x.frame, x.retries + 1, none⟩]
  | none => s)

/-! ### Site coordination (R303, R304, R500, R501) -/

/-- Limits as three phases and a power. -/
def limsOf (l : List Nat) : Limits := ⟨Vector.ofFn fun p => l.getD p.val 0, l.getD 3 0⟩

/-- The four amounts of some limits. -/
def Limits.toList (l : Limits) : List Nat := l.ph.toList ++ [l.power]

/-- Amounts of a node of rotation `r`, given in its lines, in the master's lines (R500). -/
def toMaster (r : Nat) (l : Limits) : Limits := ⟨Vector.ofFn fun p => vget l.ph (fin 3 (p.val + 3 - r % 3)), l.power⟩

/-- Amounts in the master's lines, in the lines of a node of rotation `r` (R500). -/
def toSender (r : Nat) (l : Limits) : Limits := ⟨Vector.ofFn fun p => vget l.ph (fin 3 (p.val + r)), l.power⟩

/-- This cluster's sums of minimums, ceilings and held loads from the inputs of the last snapshot (R303), rounded down (log 66); zero
in Hub-Quiet (R576). -/
def clusterSums (s : State) : Limits × Limits × Limits :=
  let ins := s.shr.frozen ++ (sharePeers s).flatMap fun k => ((vget s.shr.peerIn k).map (·.1)).getD []
  let cl := ins.map (Claim.of (s.shr.lims.drop 4))
  let sum (f : Claim → Rat) : Limits :=
    let l := loadsOf f cl
    limsOf (((l.take 3).map fun q => q.floor.toNat) ++ [(l.getD 3 0 / 1000).floor.toNat])
  if s.pwr.quiet then (limsOf [], limsOf [], limsOf [])
  else (sum fun c => if c.i.weight = 0 then 0 else c.lo, sum fun c => if c.i.weight = 0 then 0 else c.hi, sum Claim.heldX)

/-- The phase and power bytes of limits. -/
def limBytes (l : Limits) : List Byte := l.ph.toList.flatMap p32

/-- The payload of a SHARE_REPORT (R491). -/
def reportPayload (s : State) (cycle : Nat) (x : Limits × Limits × Limits) : List Byte :=
  p8 s.kit.rotation.toNat ++ p8 0 ++ leBytes 6 cycle ++ limBytes x.1 ++ limBytes x.2.1 ++ limBytes x.2.2
    ++ p64 x.1.power ++ p64 x.2.1.power ++ p64 x.2.2.power

/-- Every amount of `a` is at most that of `b`. -/
def Limits.within (a b : Limits) : Bool := (a.toList.zip b.toList).all fun (x : Nat × Nat) => decide (x.1 ≤ x.2)

/-- The master takes a report (R303, R304): a node whose grant fell has followed once its held load lies within it. -/
def noteReport (s : State) (n : Fin 64) (rot : Nat) (x : Limits × Limits × Limits) : State :=
  if 3 ≤ rot then { s with shr := { s.shr with reports := vmod s.shr.reports n fun _ => none } }
  else
    let m := (fin 3 rot, toMaster rot x.1, toMaster rot x.2.1, toMaster rot x.2.2)
    let ok := match vget s.shr.granted n with | some g => m.2.2.2.within g | none => true
    { s with shr := { s.shr with
      reports := vmod s.shr.reports n fun _ => some m
      fallen := if ok then s.shr.fallen.filter (· != n) else s.shr.fallen } }

/-- A cluster's grant in one amount (R303): `a` the site limit, `l` the minimums and ceilings of all clusters. -/
def grantOf (a : Nat) (l : List (Nat × Nat)) (x : Nat × Nat) : Nat :=
  let mins := (l.map (·.1)).sum
  let span := (l.map fun (y : Nat × Nat) => y.2 - y.1).sum
  if a ≤ mins then (if mins = 0 then 0 else a * x.1 / mins)
  else if span = 0 then x.1 + (a - mins) / l.length
  else x.1 + (a - mins) * (x.2 - x.1) / span

/-- Send a grant, or take it where it is this node's own (R303, R304). -/
def sendGrant (s : State) (cycle : Nat) (n : Fin 64) (rot : Nat) (g : Limits) : State :=
  let s := { s with shr := { s.shr with granted := vmod s.shr.granted n fun _ => some g } }
  if n = s.kit.nodeId then postDev { s with shr := { s.shr with kitePending := some g } } 0x0303 (p8 0 ++ p64 g.power)
  else
    let r := toSender rot g
    kiteQueue s 5 0 n false false (p8 rot ++ p8 0 ++ leBytes 6 cycle ++ limBytes r ++ p64 r.power)

/-- The master's round (R303, R304): a larger grant waits until every cluster whose grant fell has followed; of a grant that rises
in one amount and falls in another, the fall is sent at once. -/
def masterRound (s : State) (cycle : Nat) : State :=
  let on := kiteNodes.filter fun n => n == s.kit.nodeId || (s.node n).reachable
  let reps := on.filterMap fun n => (vget s.shr.reports n).map fun r => (n, r)
  let site := s.shr.site.toList
  let grants := reps.map fun (r : Fin 64 × Fin 3 × Limits × Limits × Limits) =>
    (r.1, r.2.1.val, limsOf ((List.range 4).map fun j =>
      grantOf (site.getD j 0) (reps.map fun (q : Fin 64 × Fin 3 × Limits × Limits × Limits) => (q.2.2.1.toList.getD j 0, q.2.2.2.1.toList.getD j 0))
        (r.2.2.1.toList.getD j 0, r.2.2.2.1.toList.getD j 0)))
  let falls := grants.filter fun (g : Fin 64 × Nat × Limits) => match vget s.shr.granted g.1 with | some p => !p.within g.2.2 | none => false
  let s := { s with shr := { s.shr with
    fallen := (s.shr.fallen.filter fun n => !(falls.any fun (g : Fin 64 × Nat × Limits) => g.1 == n)) ++ falls.map (·.1) } }
  let hold := !s.shr.fallen.isEmpty
  grants.foldl (fun s (g : Fin 64 × Nat × Limits) =>
    let p := (vget s.shr.granted g.1).getD (limsOf [])
    let v := if hold then limsOf ((g.2.2.toList.zip p.toList).map fun (x : Nat × Nat) => min x.1 x.2) else g.2.2
    sendGrant s cycle g.1 g.2.1 v) s

/-- Send this cluster's report, or, as the master, take it and run the round. -/
def kiteReport (s : State) (cycle : Nat) : State :=
  let x := clusterSums s
  if s.shr.kiteMaster then masterRound (noteReport s s.kit.nodeId 0 x) cycle
  else match kiteNodes.find? fun n => (s.node n).master && (s.node n).reachable with
    | some m => kiteQueue s 4 0 m false false (reportPayload s cycle x)
    | none => s

/-- The Kite mark fires (R303, R501): the clock runs to the Kite mark, and the next one is set PERIOD cycles later. -/
def kiteFires (s : State) : State :=
  if !s.clocksRun || !s.shr.kiteEn then s
  else match s.tim.marks.find? fun m => m.owner == .kite with
    | some m =>
      let s := (s.toMains m.value).dropMark .kite 0
      let s := (s.setMark .kite (max (m.value + 65536 * s.cfg.kitePeriod) (nextApply s s.tim.mains)) 0).1
      if kiteSends s then kiteReport s ((m.value - 0x4000) / 65536) else s
    | none => (s.setMark .kite (nextApply s s.tim.mains) 0).1

/-! ### Commands (R505) and registers (R507) -/

/-- The node of a Kite command. -/
def kiteCmdNode (c : Cmd) : Fin 64 := fin 64 (fld (c.p 0) 0 6)

/-- Probe node. The token counts the node's own sequence numbers. -/
def effProbeNode (c : Cmd) (s : State) : State :=
  let n := kiteCmdNode c
  if !kiteSends s || !(s.node n).reachable || n == s.kit.nodeId then complete s c 0x0A
  else
    let tok : BitVec 32 := (s.kit.seq + 1).zeroExtend 32
    let s := started { s with kit := { s.kit with probes := s.kit.probes ++ [(tok, n, c.ring, c.index, s.now)] } } c
    kiteQueue s 7 1 n false false (leBytes 4 tok.toNat ++ List.replicate 8 0)

/-- PROBE_NODE. -/
def execProbeNode (c : Cmd) (s : State) : Res := .next (cmdStep [0x0900] effProbeNode c s)

/-- Clear penalty. -/
def effClearPenalty (c : Cmd) (s : State) : State :=
  let n := kiteCmdNode c
  if !(s.node n).neighbour then complete s c 0x0A
  else
    let was := (s.node n).penalty
    let s := s.onNode n fun x => { x with misses := [], penalty := false, ackRun := 0 }
    let s := if was then postDev s 0x0902 (p8 n.val ++ p8 1 ++ p16 0) (some c) else s
    complete (reroute s) c 0

/-- CLEAR_PENALTY. -/
def execClearPenalty (c : Cmd) (s : State) : Res := .next (cmdStep [0x0901] effClearPenalty c s)

/-- A write of KIT_CFG. -/
def writeKitCfg (s : State) (v : Word) : State :=
  if fld v 1 2 = 3 ∨ 60 < fld v 16 7 then s
  else
    let k := s.kit
    let k := if k.lock then k else
      { k with band := BitVec.ofNat 2 (fld v 1 2), coupling := bit v 3, nodeId := fin 64 (fld v 4 6) }
    let start := bit v 0 && !k.en
    let k := { k with
      en := bit v 0, timeSrc := bit v 10, keySel := bit v 11, txLevel := BitVec.ofNat 7 (fld v 16 7), lock := k.lock || bit v 31
      conflict := k.conflict && bit v 0, startedAt := if start then s.now else k.startedAt }
    { s with kit := k }.revote

/-- A write of a register of the KIT block. -/
def writeKit (s : State) (off : Nat) (v : Word) : State :=
  let k := s.kit
  if off = 0 then writeKitCfg s v
  else if off = 4 then { s with kit := { k with
    secFail := k.secFail && !bit v 16, abandoned := k.abandoned && !bit v 17, penaltyAny := k.penaltyAny && !bit v 18
    routeChange := k.routeChange && !bit v 19, conflictSeen := k.conflictSeen && !bit v 20 } }
  else if off = 8 then
    let n := fld v 0 8
    let w := fld v 8 10
    if 2 ≤ n ∧ n ≤ 32 ∧ 10 ≤ w ∧ w ≤ 600 then { s with kit := { k with tallyN := n, tallyW := w } } else s
  else s

/-- KIT_CFG_LOCK (R507): a write of KIT_CFG with LOCK = 1. -/
def execKitCfgLock (v : BitVec 32) (s : State) : Res := .next (viaBar s 14 fun s => writeKitCfg s (v ||| 0x80000000#32))

end Machine
end Sys2Proof
end

