-- ==== Sys2Proof/Machine/Adopt.lean ====
section
/-! DEFINITION. Re-adoption of the contexts after a service reset or a takeover (R119, R120, R229, R524). -/

namespace Sys2Proof.Machine

/-- OUT_CMD bits of three outputs. -/
def outBits (main aux lock : Bool) : Nat := b2n main + 2 * b2n aux + 4 * b2n lock

/-- A context as its journal record gives it; queued triggers are not journalled (R228, R229). -/
def Ctx.reload (c : Ctx) (j : CtxJournal) : Ctx :=
  { c with
    profile := j.profile, version := j.version, bound := j.bound, enabled := j.enabled, state := j.state, flags := j.flags
    authorised := j.authorised, timers := j.timers, mode := j.mode, duty := j.duty, pilotSel := j.pilotSel, lockCmd := j.lock
    main := { c.main with cmd := j.main, zp := none, watch := none }, aux := { c.aux with cmd := j.aux, zp := none, watch := none }
    queue := [], faultDue := none, awaitApply := [], paused := false, modeDue := false, lockDue := none }

/-- TIMER triggers for the millisecond timers whose expiry has passed, in timer order (R229 step 2). -/
def dueTimers (s : State) (o : Fin 128) : State :=
  (List.finRange 4).foldl (fun s t => match vget (s.ctx o).timers t with
    | .ms e => if e ≤ s.now then queueTrig (s.onCtx o fun c => { c with timers := vmod c.timers t fun _ => .off }) o 3 t.val else s
    | _ => s) s

/-- The context resumes (R229 steps 1 to 5): the contactor and lock feedbacks are compared with the commanded outputs. No chain is ever
journalled as running, since a step holds its whole chain. -/
def resumeCtx (s : State) (o : Fin 128) (j : CtxJournal) : State :=
  let s := dueTimers s o
  let s := match j.zpMain with | some z => switchCont s o false z.close true | none => s
  let s := match j.zpAux with | some z => switchCont s o true z.close true | none => s
  let s := queueTrig s o 1 (s.ctx o).pilot.toNat
  let s := queueTrig s o 2 (s.ctx o).prox.toNat
  let st := (s.lane o).status
  let s := if st.mainFb != j.main then queueTrig s o 6 (if st.mainFb then 0 else 1) else s
  let s := if st.auxFb != j.aux then queueTrig s o 6 (if st.auxFb then 2 else 3) else s
  let s := if st.lockFb != j.lock then queueTrig s o 7 (if st.lockFb then 0 else 1) else s
  writeJournal s o

/-- The journal and STATUS disagree: the outputs of STATUS govern, and the context takes the fault transition with cause 3 (R120, R229). -/
def mismatchCtx (s : State) (o : Fin 128) (j : CtxJournal) : State :=
  let st := (s.lane o).status
  let s := postOut { s with seq := { s.seq with mismatchAny := true } } 0x0187 o
    (p8 (outBits j.main j.aux j.lock) ++ p8 (outBits st.contMain st.contAux st.lock))
  let s := s.onCtx o fun c => { c with
    main := { c.main with cmd := st.contMain }, aux := { c.aux with cmd := st.contAux }, lockCmd := st.lock }
  writeJournal (faultTrans o none 3 0 0 0 s).1 o

/-- A context that its journal gives back: one that has waited for its lane since power-on has none (R230). -/
def reloadable (s : State) (o : Fin 128) : Bool := (s.jrnOf o).valid && (s.jrnOf o).bound && !(s.ctx o).waiting

/-- Step 2 of R119: a context reloads the newer valid slot of its journal (R229). -/
def reloadCtx (s : State) (o : Fin 128) : State :=
  if reloadable s o then s.onCtx o fun c => c.reload (s.jrnOf o) else s

/-- One reloaded context is compared with the outputs that STATUS reports, a contactor with a pending switch left out, and re-adopted
(R229). A lane that has not reported since power-on offers nothing to compare (DEDUCED, log 67). -/
def adoptCtx (s : State) (o : Fin 128) : State :=
  let j := s.jrnOf o
  if !reloadable s o || !j.enabled then s
  else
    let st := (s.lane o).status
    let agree := !(s.lane o).statusSeen ||
      ((j.zpMain.isSome || st.contMain == j.main) && (j.zpAux.isSome || st.contAux == j.aux) && st.lock == j.lock)
    if agree then resumeCtx s o j else mismatchCtx s o j

/-! ### The downlink frame (R102, R119) -/

/-- DOWNLINK_FRAME (R102): `disagree` holds the invariants in which the sentinel's sources disagree with the island's word, bit 12 being
RELEASE_OK. After a frame with HOLD = 1 the context is re-adopted (R119 step 4). -/
def execDownlinkFrame (l : Fin 128) (disagree : BitVec 13) (s : State) : Res :=
  let link := (s.lane l).link
  .next (if !s.clocksRun || (s.lane l).stopped || link == .down || link == .train then s
  else
    let s := applySignals (evalPermit (((s.count 6 0x12 1).count 2 0x10 1).laneBytes l true) l) l
    let x := s.lane l
    let b := frameBits s l disagree
    let wrong := (s.saf1 l).guardStep == 2 && !(s.saf1 l).guardSent && s.saf.restarting.isNone
    let f := nextFrame s l b.1 wrong
    let s := frameSent ((if b.2 then intervene s l disagree else s).send (.frame l f)) l f
    if f.listen then s
    else
      let s := s.onSaf l fun y => { y with lastWord := BitVec.ofNat 16 (if wrong then 0 else b.1) }
      if x.hold then (adoptCtx s l).onLane l fun y => { y with hold := false } else applied s l)

end Sys2Proof.Machine
end

