-- ==== Sys2Proof/Machine/Tie.lean ====
section
/-! DEFINITION. Clusters and pairs (chapter 17): tie ports, mains time inside a cluster, roles, mirroring, the loss of a partner,
takeover, join and handover, and the tally commands. -/

namespace Sys2Proof.Machine

/-- SIDE and SLOT of this device, the head of every payload of families 0x0A and 0x10 (R534). -/
def sideSlot (s : State) : List Byte := p8 (b2n s.glb.side) ++ p8 s.slotNo

/-- Send a message to the peers of the own side (R515). -/
def toPeers (s : State) (m : TieMsg) : State :=
  (List.finRange 3).foldl (fun s k =>
    if (vget s.tie.ports ⟨k.val, by omega⟩).up then s.send (.tie ⟨k.val, by omega⟩ m) else s) s

/-- Send a message to the partner. -/
def toPartner (s : State) (m : TieMsg) : State := if s.pairLinkUp then s.send (.tie 3 m) else s

/-- Change tie port `p`. -/
def State.onTiePort (s : State) (p : Fin 4) (f : TiePort → TiePort) : State := { s with tie := { s.tie with ports := vmod s.tie.ports p f } }

/-- The Tie port event. -/
def tiePortEvent (s : State) (p : Fin 4) (cause : Nat) (peer : BitVec 64) : State :=
  postDev s 0x0A05 (sideSlot s ++ p8 p.val ++ p8 cause ++ leBytes 8 peer.toNat)

/-- A slot is present or missing (R510, R513). -/
def setMember (s : State) (slot : BitVec 2) (on : Bool) : State :=
  if s.tie.members.getLsbD slot.toNat = on then s
  else
    let m := if on then s.tie.members ||| (1#4 <<< slot.toNat) else s.tie.members &&& ~~~(1#4 <<< slot.toNat)
    postDev { s with tie := { s.tie with members := m, memberLostF := s.tie.memberLostF || !on } } 0x0A06
      (sideSlot s ++ p8 slot.toNat ++ p8 (b2n on))

/-- The vehicle frames queued on a device that gives up its active role are lost (R165); its partner reports those it was to send. -/
def dropFrames (s : State) : State :=
  forAll outlets (fun s o =>
    let empty (q : PoolQ) : PoolQ := { q with packets := [], staging := [] }.settle
    ((s.onQ (txQ o) empty).onQ (rxQ o) empty)) { s with rng := { s.rng with frxOld := Vector.replicate 128 [] } }

/-- The role changes (R534): causes 0 start-up, 1 takeover, 2 handover, 3 claims lost. -/
def setRole (s : State) (new : PairRole) (cause : Nat) : State :=
  let old := s.tie.role
  if old = new then s
  else
    let s := if old = .active ∧ new = .standby then dropFrames s else s
    (postDev { s with tie := { s.tie with role := new } } 0x0A01 (sideSlot s ++ p8 old.code ++ p8 new.code ++ p8 cause)).revote

/-! ### Ports (R508, R510) -/

/-- A port goes down and retrains. -/
def portDown (s : State) (p : Fin 4) : State :=
  let x := vget s.tie.ports p
  if !x.up then s
  else
    let s := s.onTiePort p fun y => { y with up := false, fails := 0 }
    let s := tiePortEvent { s with tie := { s.tie with portDownF := true } } p 0 x.peer
    if p = 3 then s
    else
      let s := setMember s x.peerSlot false
      if x.peerSlot = 0 ∧ s.slotNo ≠ 0 ∧ s.tim.source ∧ s.tim.mainsState = .locked then loseMains s 0 s.tim.freq else s

/-- TIE_PORT_DOWN (R508, R512). A follower's lost time link is reported as a crossing timeout (DESIGN CHOICE, log 68). -/
def execTiePortDown (p : Fin 4) (s : State) : Res := .next (if s.clocksRun then portDown s p else s)

/-- The largest cycle count of the cluster is taken (R77, R512): the count only moves forward. -/
def takeCycle (s : State) (cycle : Nat) : State :=
  if s.cycle < cycle then jumpAngle s ((cycle - s.cycle) * 65536) else s

/-- A tie port comes up (R508, R510): both ends have exchanged their identities. -/
def tiePortUp (p : Fin 4) (x : TiePeer) (s : State) : State :=
  if !s.clocksRun || (vget s.tie.ports p).up then s
  else
    let bad := x.clusterN != s.tie.clusterN || x.paired != s.tie.paired || x.version != s.upd.cfgActive
    let s := s.onTiePort p fun y => { y with up := !bad, mismatch := bad, peer := x.serial, peerSlot := x.slot, peerSide := x.side }
    if bad then tiePortEvent { s with tie := { s.tie with cfgMismatch := true } } p 2 x.serial
    else
      let s := tellVersions (takeCycle (tiePortEvent s p 1 x.serial) x.cycle)
      if p = 3 then postDev { s with tie := { s.tie with partner := x.serial, lastBeat := s.now } } 0x0A03 (sideSlot s ++ p8 1)
      else setMember s x.slot true

/-! ### Mains time in a cluster (R512) -/

/-- A follower takes its master's mains time. In LOCKED it follows a difference within its cycle by running faster or slower (R67), and takes
a larger one as the larger count (R77); otherwise the angle is corrected as R70 has it. -/
def followTime (s : State) (mains freq : Nat) (locked : Bool) : State :=
  if locked then
    let c : Int := if s.tim.mains ≤ mains then ((mains - s.tim.mains : Nat) : Int) else signed 16 (mains + 65536 - s.tim.mains % 65536)
    if s.tim.mainsState = .locked then
      let s := { s with tim := { s.tim with freq := freq } }
      if c.natAbs ≤ 32768 then { s with tim := { s.tim with angleErr := c * 10 ^ 14 } } else jumpAngle s c.toNat
    else lockMains s freq c
  else if s.tim.mainsState = .locked then loseMains s 0 freq else s

/-- The device sends mains time: the time master of a cluster to its peers, the active side of a pair to its standby. -/
def sendsTime (s : State) : Bool := s.tie.role == .active || (s.slotNo == 0 && s.tie.role == .alone)

/-- MAINS_TIME_TRANSFER: every 10 µs of tick time (their phase is a DESIGN CHOICE, log 68). -/
def execMainsTimeTransfer (s : State) : Res :=
  .next (if s.clocksRun && sendsTime s then
    let s := s.toTick ((s.now / 10000 + 1) * 10000)
    let m : TieMsg := .mainsTime s.tim.mains s.tim.freq (s.tim.mainsState == .locked)
    let s := if s.slotNo = 0 then toPeers s m else s
    if s.tie.role = .active then toPartner s m else s
  else s)

/-! ### Mirror records on the standby (R517) -/

/-- Drop the first `n` elements that meet `f`. -/
def dropFirst {α : Type} (f : α → Bool) : Nat → List α → List α
  | 0, l => l
  | _, [] => []
  | n + 1, x :: t => if f x then dropFirst f n t else x :: dropFirst f (n + 1) t

/-- A doorbell or an index arrives: what it acknowledges is discarded (R518). -/
def mirrorIndex (s : State) (r : Fin 57) (host dev : BitVec 32) : State :=
  let old := vget s.tie.mirrorIdx r
  let n := (host - old.1).toNat
  let t := s.tie
  let evts := if ringKind r == .evt && decide (n < 2 ^ 31) then dropFirst (fun (x : Fin 57 × Event) => x.1 == r) n t.mirrorEvts else t.mirrorEvts
  let cpls := if ringKind r == .cpl && decide (n < 2 ^ 31) then
    dropFirst (fun (c : Fin 16 × Completion) => cplRing c.1 == r) n t.mirrorCpls else t.mirrorCpls
  { s with tie := { t with mirrorIdx := vmod t.mirrorIdx r fun _ => (host, dev), mirrorEvts := evts, mirrorCpls := cpls } }

/-- A command's mirror record: its fetch with the consumer index of its ring, or its completion with its resulting state. -/
def mirrorCommand (s : State) (ring : Fin 16) (index : BitVec 32) (w : List Nat) : State :=
  let t := s.tie
  let g := fun i => w.getD i 0
  if g 0 = 0 then { s with tie := { t with
    mirrorCmds := t.mirrorCmds ++ [(ring, index, BitVec.ofNat 32 (g 1))]
    mirrorIdx := vmod t.mirrorIdx (cmdRing ring) fun x => (x.1, BitVec.ofNat 32 (g 2)) } }
  else
    let c : Completion := { cmdIndex := index.truncate 16, status := BitVec.ofNat 8 (g 2), late := false, tag := BitVec.ofNat 32 (g 1),
                            result := BitVec.ofNat 32 (g 3), lastGseq := none, replay := true, irq := false }
    { s with tie := { t with
      mirrorCmds := t.mirrorCmds.filter fun x => !(x.1 == ring && x.2.1 == index), mirrorCpls := t.mirrorCpls ++ [(ring, c)] } }

/-- A session's mirror record (R421): 0 opened, 1 at a commit, 2 closing, 3 ended. -/
def mirrorSession (s : State) (k : Nat) (o : Fin 128) (w : List Nat) : State :=
  let l := s.tie.mirrorSess
  let id := w.getD 0 0
  let rest := l.filter fun x => !(x.outlet == o && x.sess.id == id)
  let v := w.drop 34
  let l := match k with
    | 0 => rest ++ [⟨o, Session.ofWords w, none⟩]
    | 1 => rest ++ [⟨o, Session.ofWords w,
        some ⟨v.getD 0 0, v.getD 1 0, v.getD 2 0, v.getD 3 0, (v.drop 4).take 4, (v.drop 8).take 16⟩⟩]
    | 2 => l.map fun x => if x.outlet = o ∧ x.sess.id = id then
        { x with sess := { x.sess with closing := some (BitVec.ofNat 8 (w.getD 1 0)), waitOpen := w.getD 2 0 == 1 } } else x
    | _ => rest
  { s with tie := { s.tie with mirrorSess := l } }

/-- Safety latches, RDC_OK, the insulation result, stop latches and axis states (R517). -/
def mirrorSafety (s : State) (w : List Nat) : State :=
  let g := fun i => w.getD i 0
  if g 0 = 128 then
    { s with saf := { s.saf with
      pairs := Vector.ofFn fun k => { vget s.saf.pairs k with latched := (g 1).testBit k.val }
      axes := Vector.ofFn fun k => { vget s.saf.axes k with
        state := if g (2 + k.val) = 1 then .released else if g (2 + k.val) = 2 then .ss1 else .sto } } }
  else
    let o := fin 128 (g 0)
    let s := s.onSafJ o fun j => { j with rc := g 1 == 1, iso := g 2 == 1, weld := g 3 == 1 }
    s.onSaf o fun x => { x with
      rdcOk := g 4 == 1, rdcAt := g 5, guardOk := g 6 == 1
      lastClass := if g 7 = 0 then none else some (BitVec.ofNat 2 (g 7 - 1)), lastIsoAt := g 8 }

/-- Station, tag and share state (R331, R474, R302). -/
def mirrorOutlet (s : State) (k : Nat) (o : Fin 128) (w : List Nat) : State :=
  let g := fun i => w.getD i 0
  match k with
  | 0 => s.onSta o fun x => { x with
      assoc := g 0 == 1, nmk := BitVec.ofNat 128 (g 1), cco := g 2 == 1, score := BitVec.ofNat 16 (g 3), ev := BitVec.ofNat 48 (g 4) }
  | 1 =>
    let s := s.onAut o fun a => { a with cableValid := g 0 == 1 }
    s.onTagJ o fun _ => {
      degraded := g 1 == 1, authedOnce := g 2 == 1, tagId := BitVec.ofNat 64 (g 3), rLoop := BitVec.ofNat 32 (g 4)
      temp := BitVec.ofNat 16 (g 5), pend := g 6
      bound := if g 7 = 1 then some (BitVec.ofNat 64 (g 8)) else none
      mates := if g 9 = 1 then some (BitVec.ofNat 32 (g 10)) else none
      target := if g 11 = 1 then some (BitVec.ofNat 32 (g 12), g 13, g 14) else none }
  | _ => s.onShr o fun x => { x with
      grant := g 0, held := if g 1 = 0 then none else some (g 1, g 2), waited := g 3 }

/-- Energy registers of the last commit set, loaded at a join (R516). -/
def loadRegs (s : State) (o : Fin 128) (w : List Nat) : State :=
  s.onEnr o fun x => { x with live := { x.live with
    regs := Vector.ofFn fun i => w.getD i.val 0
    impIdx := Vector.ofFn fun i => w.getD (13 + i.val) 0
    expIdx := Vector.ofFn fun i => w.getD (29 + i.val) 0 } }

/-- The site's registers of the last commit set, loaded at a join (R516). -/
def loadSite (s : State) (w : List Nat) : State :=
  { s with enr := { s.enr with site := { s.enr.site with
    regs := Vector.ofFn fun i => w.getD i.val 0
    impIdx := Vector.ofFn fun i => w.getD (12 + i.val) 0
    expIdx := Vector.ofFn fun i => w.getD (28 + i.val) 0 } } }

/-- The verification state of a code (R357). -/
def verifOf (n : Nat) : Verif :=
  ([Verif.pending, .pass, .drift, .fail, .absent, .disabled, .noRecord].find? fun v => v.code == n).getD .pending

/-- A mirror record is taken (R517); kinds 9 and 10 belong to the copy of a join (R529). -/
def takeMirror (s : State) (kind : Nat) (w : List Nat) : State :=
  let g := fun i => w.getD i 0
  let o := fin 128 (g 0)
  match kind with
  | 0 =>
    let j := CtxJournal.ofWords (w.drop 1)
    { s.putJrn o j with delays := vmod s.delays o fun _ => j.delays }
  | 1 =>
    let e := BitVec.ofNat 32 (g 1)
    let s := { s with keep := { s.keep with epochs := vmod s.keep.epochs o fun x => if x.toNat < e.toNat then e else x } }
    if 2 < w.length then
      (s.onLane o fun x => { x with condEpoch := e }).onMet o fun m => { m with toneKey := BitVec.ofNat 128 (g 2), toneIndex := g 3 }
    else s
  | 2 => mirrorSafety s w
  | 3 => mirrorSession s (g 0) (fin 128 (g 1)) (w.drop 2)
  | 4 => mirrorOutlet s (g 0) (fin 128 (g 1)) (w.drop 2)
  | 5 => mirrorCommand s (fin 16 (g 0)) (BitVec.ofNat 32 (g 1)) (w.drop 2)
  | 7 => mirrorIndex s (fin 57 (g 0)) (BitVec.ofNat 32 (g 1)) (BitVec.ofNat 32 (g 2))
  | 11 =>
    let k := fin 57 (g 0); let i := BitVec.ofNat 32 (g 1)
    let l := s.tie.mirrorTx.filter fun x => !(x.1 == k && x.2.1 == i)
    { s with tie := { s.tie with mirrorTx := if g 3 = 1 then l ++ [(k, i, fin 128 (g 2))] else l } }
  | 9 => if g 0 = 128 then loadSite s (w.drop 1) else loadRegs s o (w.drop 1)
  | 10 => s.onVLane o (fin 8 (g 1)) fun v => { v with state := verifOf (g 2), runState := verifOf (g 2) }
  | _ => s

/-- A mirrored event: it is held with its ring, and the numbers continue from it (R518, R525). -/
def takeMirrorEvt (s : State) (r : Fin 57) (e : Event) : State :=
  let keep := { s.keep with
    gseq := e.gseq
    outSeq := match e.outlet with | some o => vmod s.keep.outSeq (fin 512 (s.handle o)) (fun _ => e.outletSeq) | none => s.keep.outSeq }
  { s with keep := keep, tie := { s.tie with mirrorEvts := s.tie.mirrorEvts ++ [(r, e)] } }

/-! ### Losing the partner (R521, R522) -/

/-- The standby declares its partner lost (R521, R524 step 1); a device in another role does not take over. -/
def declareLost (s : State) (cause : Nat) : State :=
  if s.tie.role != .standby then s
  else
    let s := { s with tie := { s.tie with lost := some (BitVec.ofNat 4 cause, s.now), partnerReady := false } }
    setRole s .active (if cause = 3 then 2 else 1)

/-- An active device loses its standby (R522, R531). -/
def loseStandby (s : State) : State :=
  if s.tie.role == .active && s.tie.partnerRole != .alone then
    postDev { s with tie := { s.tie with partnerLostF := true, partnerReady := false, partnerRole := .alone } } 0x0A02
      (sideSlot s ++ leBytes 8 s.tie.partner.toNat)
  else s

/-- Lanes in LISTEN. -/
def listenLanes (s : State) : List (Fin 128) := outlets.filter fun l => (s.lane l).link == .listen

/-- A front-end reports that nobody conducts it. -/
def laneFree (s : State) (l : Fin 128) : Bool := (s.lane l).noCond || (s.lane l).status.holding

/-- HEARTBEAT_TIMEOUT (R521, R522): 8 µs without a heartbeat, or 16 µs where no lane is in LISTEN. While the pair link is up, a late
heartbeat without HOLDING is only counted (class 9 of R528: DEDUCED, log 69). -/
def execHeartbeatTimeout (s : State) : Res :=
  .next (if !s.clocksRun then s
  else match s.tie.role with
  | .standby =>
    let s := s.toTick (s.tie.lastBeat + 8 * usNs)
    let l := listenLanes s
    if l.isEmpty then declareLost (s.toTick (s.tie.lastBeat + 16 * usNs)) 1
    else if l.length < 2 * (l.filter (laneFree s)).length then declareLost s 0
    else if s.pairLinkUp then tally s 9 0
    else postDev { s with tie := { s.tie with mirrorStale := true } } 0x0A03 (sideSlot s ++ p8 0)
  | .active => loseStandby (s.toTick (s.tie.lastBeat + 8 * usNs))
  | _ => s)

/-- WITHDRAWAL_NOTICE (R521, R531): the partner announces its removal. -/
def withdrawalNotice (s : State) : State :=
  match s.tie.role with
  | .standby => declareLost s 2
  | .active => loseStandby s
  | _ => s

/-- WITHDRAWAL_NOTICE. -/
def execWithdrawalNotice (s : State) : Res := .next (if s.clocksRun then withdrawalNotice s else s)

/-! ### Roles at start-up (R514) -/

/-- A lane with a front-end: frames come from it. -/
def hasFrontEnd (s : State) (l : Fin 128) : Bool := (s.lane l).link != .down && (s.lane l).link != .train

/-- ROLE_DECISION: the device decides with what its pair link has told it, or 1 s after it entered JOINING. -/
def execRoleDecision (s : State) : Res :=
  .next (if !s.clocksRun || s.tie.role != .joining then s
  else if s.pairLinkUp then
    if s.tie.partnerRole = .active then s
    else if s.glb.side then s else setRole s .active 0
  else
    let s := s.toTick (s.tie.joinAt + secNs)
    if !s.glb.side then setRole s .active 0
    else if outlets.all fun l => !hasFrontEnd s l || (match (s.lane l).freeSince with | some t => s.since t (100 * msNs) | none => false) then
      setRole s .active 0
    else s)

/-! ### Takeover (R422, R524, R525) -/

/-- The commit set of a number, where a slot holds it. -/
def commitSetOf (s : State) (n : Nat) : Option CommitSet :=
  (s.keep.slots.toList.filterMap id).find? fun c => c.number == n

/-- The first part of a split session, signed by this side (R422). -/
def firstPart (s : State) (m : MirrorSess) (c : MirrorCommit) (link : Nat) : SignedRec :=
  let x := m.sess
  let d (now start : Nat) : Nat := reg48 now - reg48 start
  let deltas := d c.exp x.startExp :: ((c.marks.zip x.startMark).map fun (p : Nat × Nat) => d p.1 p.2)
  let idx := (List.finRange 16).map fun i => d (c.idx.getD i.val 0) (vget x.startIdx i)
  let sat := (deltas ++ idx).any fun v => decide (0xFFFFFFFF < v)
  { kind := 1, reason := 130, device := false, flags := x.flags ||| 0x400 ||| (if sat then 0x4000 else 0), signer := s.keep.serial
    recSeq := 0, handle := BitVec.ofNat 16 (s.handle m.outlet), plan := x.plan.val, sessionId := x.id, origin := x.origin
    startCommit := x.startCommit.getD c.number, endCommit := c.number, startLegal := x.startLegal, endLegal := c.legal
    startImp := reg48 x.startImp, endImp := reg48 c.imp
    words22 := (deltas.map fun v => BitVec.ofNat 32 (sat32 v)) ++ [x.contract], idxImp := idx.map fun v => BitVec.ofNat 32 (sat32 v)
    legalCrc := (s.met1 m.outlet).legalCrc, configVersion := s.upd.cfgActive, link := link, r := 0, s := 0, cmd := none }

/-- The second part: a session of this side whose start values are its own registers at that commit (R422). -/
def secondPart (s : State) (m : MirrorSess) (n legal : Nat) : Session :=
  let o := m.outlet
  let e := ((commitSetOf s n).map fun c => vget c.out o).getD (s.enr1 o).live
  let r := billRegs s o
  { m.sess with
    id := s.bil.nextSession, origin := s.keep.serial, link := m.sess.id, startCommit := some n, startLegal := legal
    startImp := vget e.regs r.1, startExp := vget e.regs r.2, startMark := [vget e.regs 10, vget e.regs 11, vget e.regs 12, vget e.regs 9]
    startIdx := e.impIdx, flags := (m.sess.flags &&& 0x2000) ||| 0x800 }

/-- One mirrored session is split, or, where its opening commit was not mirrored, opened by this side (R421, R422). -/
def splitSession (s : State) (m : MirrorSess) : State :=
  let o := m.outlet
  let put (s : State) (x : Session) : State :=
    let s := { s with bil := { s.bil with nextSession := s.bil.nextSession + 1 } }
    let s := s.onBil o fun b => if x.closing.isSome then { b with closing := b.closing ++ [x] } else { b with session := some x }
    s.mirror 3 ([0, o.val] ++ x.words)
  match m.last with
  | none => put s { m.sess with id := s.bil.nextSession, origin := s.keep.serial, startCommit := none }
  | some c =>
    let r := firstPart s m c s.bil.nextSession
    put { s with bil := { s.bil with waiting := s.bil.waiting ++ [r] } } (secondPart s m c.number c.legal)

/-- A ring is adopted with its mirrored indices; what it replays is put before everything else it holds (R525). A ring that is not enabled
holds it until it is (R131, R532). -/
def adoptRing (s : State) (r : Fin 57) : State :=
  let i := vget s.tie.mirrorIdx r
  let put (f : Ring → Ring) : State :=
    openRing (s.onRing r fun x => f (if x.en then { x with hostIdx := i.1, devIdx := i.1 } else x)) r
  match ringKind r with
  | .cmd | .ftx | .frx => s.onRing r fun x => if x.en then { x with hostIdx := i.1, devIdx := i.2, pass := x.pass + 1 } else x
  | .evt =>
    let l := if s.tie.mirrorStale then [] else
      (s.tie.mirrorEvts.filter fun x => x.1 == r).map fun x => { x.2 with replay := true }
    put fun x => { x with evtHeld := l ++ x.evtHeld, evtUnacked := [] }
  | .cpl =>
    let done := (s.tie.mirrorCpls.filter fun c => cplRing c.1 == r).map (·.2)
    let lost := (s.tie.mirrorCmds.filter fun c => cplRing c.1 == r).map fun (c : Fin 16 × BitVec 32 × BitVec 32) =>
      ({ cmdIndex := c.2.1.truncate 16, status := 0x07, late := false, tag := c.2.2, result := 0, lastGseq := none,
         replay := false, irq := false } : Completion)
    put fun x => { x with cplHeld := done ++ lost ++ x.cplHeld, cplUnacked := [] }
  | .dmp => s

/-- The vehicle frames the failed side had fetched and not finished are lost: their descriptors carry TX_STATUS 3, and each is reported
(R155, R165; log 145). -/
def loseFrames (s : State) : State :=
  s.tie.mirrorTx.foldl (fun s x =>
    framesLost (if (s.ring x.1).en then ftxWord7 s x.1.val x.2.1 3 else s) x.2.2 0 1) { s with tie := { s.tie with mirrorTx := [] } }

/-- Steps 2 to 5 of R524 on one lane: a new epoch, the claim, HOLD while the context is re-adopted, then its commanded state. -/
def claimLane (s : State) (l : Fin 128) : State :=
  let e := newEpoch s l
  let s := e.2.onLane l fun x => { x with offered := e.1, hold := true }
  reloadCtx (sendClaim (setLink s l .up) l) l

/-- With MIRROR_STALE set, one Events lost event stands for what cannot be written again (R525). -/
def staleEvent (s : State) : State :=
  if s.tie.mirrorStale then postDev s 0x0001 (p32 0xFFFFFFFF ++ p32 0 ++ p64 0) else s

/-- What a takeover adopts (R524 to R526): the lanes, whose runs are abandoned, the split sessions, and the rings. -/
def adoptAll (s : State) : State :=
  let s := (listenLanes s).foldl claimLane s
  let s := s.plc.runs.foldl (fun s r => failRun s r 5) s
  let s := s.tie.mirrorSess.foldl splitSession s
  loseFrames (staleEvent (forAll (List.finRange 57) adoptRing s))

/-- How long the takeover took in µs: from the last heartbeat, or from what else showed the loss (R524, R534). -/
def takeoverUs (s : State) (cause : BitVec 4) (t : Nat) : Nat :=
  min 65535 ((s.now - if cause.toNat < 2 then s.tie.lastBeat else t) / usNs)

/-- The registers of a takeover, and its event with the `n` events that were mirrored (R534, R535). -/
def takeoverDone (s : State) (cause : BitVec 4) (us n : Nat) : State :=
  postDev { s with tie := { s.tie with
      lost := none, mirrorEvts := [], mirrorCpls := [], mirrorCmds := [], mirrorSess := [], takeoverF := true
      takeoverDur := BitVec.ofNat 16 us, takeoverCause := cause, takeovers := s.tie.takeovers + 1 } } 0x0A00
    (sideSlot s ++ p8 cause.toNat ++ leBytes 8 s.tie.partner.toNat ++ p16 (if s.tie.mirrorStale then 0 else n) ++ p16 us)

/-- The Kite node comes to this device with a takeover, and says HELLO (R503). -/
def helloAfter (s : State) : State := if s.kiteActive then sendHello s else s

/-- TAKEOVER (R524): the steps after the declaration. Its bounds are upper bounds, and the clock is not run on. -/
def execTakeover (s : State) : Res :=
  .next (match s.tie.lost with
  | none => s
  | some (cause, t) =>
    if s.glb.phase != .running || s.tie.role != .active then s
    else
      let n := min 16384 s.tie.mirrorEvts.length
      let s := adoptAll s
      (drainAll (helloAfter (takeoverDone s cause (takeoverUs s cause t) n))).revote)

/-! ### Foreign epochs (R523) -/

/-- FOREIGN_EPOCH: another EPOCH has been read for 10 µs. -/
def execForeignEpoch (l : Fin 128) (s : State) : Res :=
  .next (match (s.lane l).foreignSince with
  | some t =>
    if s.tie.role != .active || (s.lane l).link != .up then s
    else
      let s := setLink (s.toTick (t + 10 * usNs)) l .listen
      if (outlets.any fun k => (s.lane k).link == .up) || (listenLanes s).isEmpty then s
      else setRole { s with tie := { s.tie with mirrorStale := true, claimLost := true, ready := false } } .standby 3
  | none => s)

/-! ### Join (R516, R529) -/

/-- Every command fetched, and every completion that is not acknowledged, as mirror records (R517, R518). -/
def commandItems (s : State) : List (Nat × List Nat) :=
  (s.rng.cmds.map fun r => (5, match r.phase with
    | .done st res _ => [r.cmd.ring.val, r.cmd.index.toNat, 1, r.cmd.tag.toNat, st.toNat, res.toNat]
    | _ => fetchWords s r.cmd))
  ++ ((List.finRange 16).flatMap fun r =>
    let y := s.ring (cplRing r)
    (y.cplUnacked ++ y.cplHeld).map fun c => (5, [r.val, c.cmdIndex.toNat, 1, c.tag.toNat, c.status.toNat, c.result.toNat]))

/-- The unacknowledged events of every ring, oldest first (R517, R518). -/
def unackedItems (s : State) : List (Fin 57 × Event) :=
  (List.finRange 57).flatMap fun r => ((s.ring r).evtUnacked ++ (s.ring r).evtHeld).map fun e => (r, e)

/-- The power state of the active side, for its standby (R584). -/
def sendPower (s : State) : State :=
  mirrorDomains (if mirroring s then s.send (.tie 3 (.quiet (if s.pwr.state = .hubQuiet then 2 else 0))) else s)

/-- The copy an active partner sends to a joining device (R529 step 3): every item of R517, the registers of its last commit set and
the verification states. -/
def copyItems (s : State) : List (Nat × List Nat) :=
  (outlets.flatMap fun o =>
    let x := s.sta o
    let e := s.committedOut o
    [(0, o.val :: (s.jrnOf o).words),
     (1, [o.val, (vget s.keep.epochs o).toNat]),
     (1, [o.val, (s.lane o).condEpoch.toNat, (s.met1 o).toneKey.toNat, (s.met1 o).toneIndex]),
     (4, [0, o.val, b2n x.assoc, x.nmk.toNat, b2n x.cco, x.score.toNat, x.ev.toNat]),
     (2, safWords s o), (4, tagWords s o), (4, grantWords s o),
     (9, o.val :: (e.regs.toList ++ e.impIdx.toList ++ e.expIdx.toList))]
    ++ ((List.finRange 8).map fun l => (10, [o.val, l.val, (vget (s.met1 o).lanes l).state.code]))
    ++ (((s.bil1 o).session.toList ++ (s.bil1 o).closing).map fun x =>
        (3, [if x.startCommit.isSome then 1 else 0, o.val] ++ x.words ++ (match s.enr.committed with
          | some c => commitWords s o c.number | none => []))))
  ++ (let x := (s.enr.committed.map (·.site)).getD s.enr.site
      [(9, 128 :: (x.regs.toList ++ x.impIdx.toList ++ x.expIdx.toList)), (2, stopWords s), (8, [s.keep.commitNo, s.enr.pending.toNat])])
  ++ ((List.finRange 57).map fun r => (7, [r.val, (s.ring r).hostIdx.toNat, (s.ring r).devIdx.toNat]))
  ++ commandItems s

/-- Sessions of a failed side that rejoins: a legal record for each, and none is released (R423). -/
def closeByPartner (s : State) : State :=
  forAll outlets (fun s o =>
    let l := (s.bil1 o).session.toList ++ (s.bil1 o).closing
    l.foldl (fun s x => recordOnly s false 0x0783 (some o) (p64 x.id))
      (s.onBil o fun b => { b with session := none, closing := [] })) s

/-- The Join event. -/
def joinEvent (s : State) (cause ms : Nat) : State := postDev s 0x0A04 (sideSlot s ++ p8 cause ++ p32 ms)

/-- Firmware major version of the service core's active slot (R13, R529). -/
def fwMajorOf (s : State) : Nat :=
  (((vget s.upd.fw 0).toList.find? fun x => x.state == .active).map fun x => x.version.toNat / 2 ^ 24).getD 0

/-- JOIN: `version` and `fwMajor` are the other device's. A joining device takes the copy and becomes READY; the active side sends it. -/
def execJoin (version : BitVec 32) (fwMajor : Nat) (copy : List (Nat × List Nat)) (s : State) : Res :=
  let bad := version != s.upd.cfgActive || fwMajor != fwMajorOf s
  .next (if s.glb.phase != .running || !s.pairLinkUp then s
  else match s.tie.role with
  | .joining =>
    let ms := min 0xFFFFFFFF ((s.now - s.tie.joinAt) / msNs)
    if !s.saf.guardOk then s
    else if bad then joinEvent { s with tie := { s.tie with joinRefused := true } } 1 ms
    else if s.tie.partnerRole != .active then joinEvent s 2 ms
    else
      let s := copy.foldl (fun s w => takeMirror s w.1 w.2) (closeByPartner s)
      let s := setRole { s with tie := { s.tie with ready := true, mirrorStale := false, lost := none } } .standby 0
      joinEvent s 0 ms
  | .active =>
    if bad then joinEvent s 1 0
    else
      let s := (copyItems s).foldl (fun s w => s.send (.tie 3 (.mirror w.1 w.2))) s
      sendPower ((unackedItems s).foldl (fun s x => s.send (.tie 3 (.mirrorEvt x.1 x.2))) s)
  | _ => s)

/-! ### Tie frames (R508, R515) -/

/-- A standby passes class-2 traffic on between its peers and its active partner, mains-time transfer from the time master's side
among it (R509, R512, R515). -/
def passOn (s : State) (p : Fin 4) (m : TieMsg) : State :=
  match m with
  | .mainsTime .. =>
    if p = 3 then (if s.slotNo = 0 then toPeers s m else s) else if (vget s.tie.ports p).peerSlot = 0 then toPartner s m else s
  | .shareIn .. | .shareAlone .. | .scores .. | .balance .. | .storeChange .. => if p = 3 then toPeers s m else toPartner s m
  | _ => s

/-- A peer's share inputs (R300). -/
def takeShare (s : State) (slot cycle : Nat) (ins : List ShareIn) (lims : List Nat) : State :=
  if cycle = s.cycle ∧ slot < 4 then
    allocCluster { s with shr := { s.shr with peerIn := vmod s.shr.peerIn (fin 4 slot) fun _ => some (ins, lims) } }
  else s

/-- A peer's sums of a balance window (R390). -/
def takeBalance (s : State) (slot window : Nat) (eout : Int) (valid : Bool) : State :=
  { s with enr := { s.enr with balWait := s.enr.balWait.map fun w =>
    if w.number = window then { w with peers := w.peers ++ [(slot, eout, valid)] } else w } }

/-- An event of a standby: the active partner numbers and posts it (R520). -/
def takeStandbyEvt (s : State) (e : Event) : State :=
  let id := s.rng.posted + 1
  placeEvt { s with rng := { s.rng with posted := id } } { e with ident := id, byCmd := false }

/-- A partner's heartbeat (R514, R521). -/
def takeBeat (s : State) (role : BitVec 2) (ready : Bool) : State :=
  let r := [PairRole.alone, .active, .standby, .joining].getD role.toNat .alone
  { s with tie := { s.tie with lastBeat := s.now, partnerRole := r, partnerReady := ready } }

/-- What a tie frame carries is taken, in the order of its arrival. -/
def takeTie (s : State) (p : Fin 4) (m : TieMsg) : State :=
  let s := if s.tie.role = .standby then passOn s p m else s
  let shadow := s.tie.role == .standby || s.tie.role == .joining
  match m with
  | .heartbeat role _ _ _ ready => if p = 3 then takeBeat s role ready else s
  | .withdrawal => if p = 3 then withdrawalNotice s else s
  | .handover => if p = 3 then declareLost s 3 else s
  | .mainsTime mains freq locked =>
    if (p = 3 && s.tie.role == .standby) ||
        (s.slotNo != 0 && s.tim.source && (if p = 3 then s.tie.role == .active else (vget s.tie.ports p).peerSlot == 0)) then
      followTime s mains freq locked else s
  | .mirror kind w => if p = 3 && shadow && s.tie.lost.isNone then takeMirror s kind w else s
  | .mirrorEvt r e => if p = 3 && shadow && s.tie.lost.isNone then takeMirrorEvt s r e else s
  | .standbyEvt e => if p = 3 && s.tie.role == .active then takeStandbyEvt s e else s
  | .shareIn slot cycle ins lims => takeShare s slot cycle ins lims
  | .shareAlone slot cycle => peerAlone s slot cycle
  | .scores slot src run list cands => takeScores s slot src run list cands
  | .balance slot window eout valid => takeBalance s slot window eout valid
  | .storeChange seq slot bytes => takeStore s seq slot bytes
  | .quiet k => if p = 3 && shadow then
      { s with pwr := { s.pwr with state := if k = 2 then .hubQuiet else powerState { s with pwr := { s.pwr with state := .run } } } } else s
  | .domains up => if p = 3 && shadow then takeDomains s up else s
  | _ => takeUpd s p m

/-! ### Commands (R533) -/

/-- Hand over. -/
def effHandOver (c : Cmd) (s : State) : State :=
  if s.tie.role = .standby then complete s c 0x09
  else if !s.tie.partnerReady || s.tie.role != .active || s.tie.handing then complete s c 0x0A
  else
    let s := started s c
    { s with tie := { s.tie with handing := true, handCmd := some (c.ring, c.index) } }

/-- HAND_OVER. -/
def execHandOver (c : Cmd) (s : State) : Res := .next (cmdStep [0x0A00] effHandOver c s)

/-- Read pair state. -/
def effReadPairState (c : Cmd) (s : State) : State :=
  complete s c 0 (pack [(0, s.tie.role.code), (2, b2n s.tie.ready), (3, b2n s.tie.mirrorStale), (4, b2n s.pairLinkUp)])

/-- READ_PAIR_STATE. -/
def execReadPairState (c : Cmd) (s : State) : Res := .next (cmdStep [0x0A01] effReadPairState c s)

/-- The tally entries of a class that hold. -/
def tallyEntries (s : State) (k : Nat) : List TallyEntry :=
  s.tie.tally.filter fun e => e.cls.val == k && (e.lasting || e.times.any fun t => decide (s.now ≤ t + vget s.tie.tallyW e.cls * msNs))

/-- Read tally. -/
def effReadTally (c : Cmd) (s : State) : State :=
  let l := tallyEntries s (fld (c.p 0) 0 4)
  complete s c 0 (pack [(0, min 255 (l.filter (·.lasting)).length), (8, min 255 l.length)])

/-- READ_TALLY. -/
def execReadTally (c : Cmd) (s : State) : Res := .next (cmdStep [0x1000] effReadTally c s)

/-- Clear tally (R263, R528). With the lasting state of class 2 ends what it stopped (DEDUCED, log 70). -/
def effClearTally (c : Cmd) (s : State) : State :=
  let k := fld (c.p 0) 0 4
  let l := s.tie.tally.filter fun e => e.cls.val == k
  if (k = 3 ∨ k = 4) && l.any (·.lasting) then complete s c 0x0A
  else
    let n := (tallyEntries s k).length
    let s := { s with tie := { s.tie with
      tally := s.tie.tally.filter fun e => e.cls.val != k, legalStopped := s.tie.legalStopped && k != 2 } }
    complete (postDev s 0x1001 (sideSlot s ++ p8 k ++ p8 (min 255 n)) (some c)) c 0

/-- CLEAR_TALLY. -/
def execClearTally (c : Cmd) (s : State) : Res := .next (cmdStep [0x1001] effClearTally c s)

/-! ### Registers (R535) -/

/-- A write of TIE_CFG. PAIRED as written decides the role: JOINING where it becomes 1, ALONE where it becomes 0 (DEDUCED, log 71). -/
def writeTieCfg (s : State) (v : Word) : State :=
  let n := fld v 0 3
  if n = 0 ∨ 4 < n then s
  else
    let was := s.tie.paired
    let s := if s.tie.lock then s else { s with tie := { s.tie with clusterN := n, paired := bit v 3 } }
    let s := { s with tie := { s.tie with lock := s.tie.lock || bit v 31 } }
    if s.tie.paired && !was then setRole { s with tie := { s.tie with joinAt := s.now } } .joining 0
    else if !s.tie.paired && was then setRole s .alone 0 else s

/-- Classes whose N is fixed at 1 (R528). -/
def tallyFixed (k : Fin 16) : Bool := [10, 11, 12, 14, 15].contains k.val

/-- A write of a register of the TIE block. -/
def writeTie (s : State) (off : Nat) (v : Word) : State :=
  let t := s.tie
  if off = 0 then writeTieCfg s v
  else if off = 4 then { s with tie := { t with
    portDownF := t.portDownF && !bit v 16, memberLostF := t.memberLostF && !bit v 17, cfgMismatch := t.cfgMismatch && !bit v 18 } }
  else if off = 0x100 then { s with tie := { t with stbyRings := BitVec.ofNat 16 (fld v 0 16) } }
  else if off = 0x104 then { s with tie := { t with
    takeoverF := t.takeoverF && !bit v 16, partnerLostF := t.partnerLostF && !bit v 17, joinRefused := t.joinRefused && !bit v 18
    claimLost := t.claimLost && !bit v 19 } }
  else match arr off 0x200 8 16 with
    | some (k, 0) =>
      let n := fld v 0 8
      let w := fld v 8 20
      if n = 0 ∨ w = 0 ∨ 1000000 < w ∨ (tallyFixed k && n != 1) then s
      else { s with tie := { t with tallyN := vmod t.tallyN k fun _ => n, tallyW := vmod t.tallyW k fun _ => w } }
    | _ => s

/-- TIE_CFG_LOCK (R535): a write of TIE_CFG with LOCK = 1. -/
def execTieCfgLock (v : BitVec 32) (s : State) : Res := .next (viaBar s 15 fun s => writeTieCfg s (v ||| 0x80000000#32))

end Sys2Proof.Machine
end

