-- ==== Sys2Proof/Machine/Cabinet.lean ====
section
/-! DEFINITION. Load channels, the serial watchdog and the segment display (chapter 19). -/

namespace Sys2Proof.Machine

/-! ### Load channels (R554 to R556) -/

/-- Load channel `k`. -/
def State.chan (s : State) (k : Fin 32) : Chan := vget s.lsw.chans k

/-- The bank of a channel (R26) is at or above 18 V (R48). -/
def bankOk (s : State) (k : Fin 32) : Bool := s.glb.vbankOk.getLsbD (k.val / 8)

/-- The part of the running SPACING that has elapsed; a suspended timer stands (R555). -/
def elapsed (s : State) (k : Fin 32) : Nat :=
  (s.chan k).timer + (if bankOk s k then s.now - (s.chan k).timerAt else 0)

/-- What a channel is asked to do: its command, or the fail-safe state in force (R558). -/
def Chan.demand (c : Chan) : Bool := if c.fsOn then c.fsDemand else c.cmd

/-- A channel enters a state; a SPACING timer starts from 0 (R554). -/
def State.enterChan (s : State) (k : Fin 32) (st : ChanState) : State :=
  s.onChan k fun c => { c with
    state := st, timer := 0, timerAt := s.now, onSince := if st = .on then s.now else c.onSince
    current := if st = .on ∨ st = .limiting then c.current else 0 }

/-- The supply of a channel's bank is absent (R48, R555). -/
def bankAbsent (s : State) (k : Fin 32) : Bool := s.glb.vbank[k.val / 8]? == some 0

/-- The current of a conducting channel is a free value; limiting keeps it at 8 A within 10 % (R552). With its bank absent it reads 0 A
(R555). -/
def measureChan (s : State) (k : Fin 32) : State :=
  let f := s.free
  if bankAbsent s k then s.onChan k fun c => { c with current := 0 }
  else match (s.chan k).state with
  | .on => f.2.onChan k fun c => { c with current := f.1.truncate 32 }
  | .limiting => f.2.onChan k fun c => { c with current := BitVec.ofNat 32 (7200 + f.1.toNat % 1601) }
  | _ => s

/-- The Load channel event (R568). -/
def chanEvent (s : State) (k : Fin 32) (cause : Nat) (by_ : Option Cmd := none) : State :=
  postDev s 0x0C00 (p8 k.val ++ p8 cause ++ p8 (s.chan k).count ++ p32 (s.chan k).current.toNat) by_

/-- A channel switches on. -/
def chanOn (s : State) (k : Fin 32) : State := measureChan (s.enterChan k .on) k

/-- A channel follows what is asked of it: off ends its retry count; a channel that waits, is latched or is hot stays off until its
own rule ends that (R554, R556). -/
def followDemand (s : State) (k : Fin 32) : State :=
  let c := s.chan k
  if c.demand then if c.state = .off then chanOn s k else s
  else
    let s := s.onChan k fun c => { c with count := 0 }
    match c.state with
    | .on | .limiting | .waiting => s.enterChan k .off
    | _ => s

/-- An event under R554: the retry count rises; past RETRIES the channel is latched. -/
def countEvent (s : State) (k : Fin 32) (cause : Nat) (after : ChanState) : State :=
  let s := s.onChan k fun c => { c with count := c.count + 1 }
  let s := chanEvent s k cause
  if (s.chan k).retries + 1 ≤ (s.chan k).count then
    let s := s.enterChan k .latched
    chanEvent { s with lsw := { s.lsw with latchAny := true } } k 1
  else s.enterChan k after

/-- An over-current event (R554). -/
def overCurrent (s : State) (k : Fin 32) : State :=
  countEvent (s.onChan k fun c => { c with events := c.events + 1 }) k 0 .waiting

/-- LIMITING_CHANGE (R554): limiting starts, or ends with the current below 7 A before SPACING has elapsed. -/
def execLimitingChange (k : Fin 32) (limiting : Bool) (s : State) : Res :=
  .next (if !s.clocksRun then s
  else match limiting, (s.chan k).state with
  | true, .on => measureChan (s.enterChan k .limiting) k
  | false, .limiting => if elapsed s k < (s.chan k).spacing * msNs then chanOn s k else overCurrent s k
  | _, _ => s)

/-- Time runs on to the end of the SPACING of channel `k` (R554). -/
def toSpacing (s : State) (k : Fin 32) : State :=
  s.toTick ((s.chan k).timerAt + ((s.chan k).spacing * msNs - (s.chan k).timer))

/-- LIMITING_EXPIRY (R554): limiting has lasted SPACING; a suspended timer does not come to its end (R555). -/
def execLimitingExpiry (k : Fin 32) (s : State) : Res :=
  .next (if s.clocksRun && (s.chan k).state == .limiting && bankOk s k then overCurrent (toSpacing s k) k else s)

/-- Spacing off has elapsed: the channel switches on again, or is latched where its count has passed RETRIES (R554). A hot channel
waits for its junction as well (R556). -/
def endSpacing (s : State) (k : Fin 32) : State :=
  if (s.chan k).retries < (s.chan k).count then
    let s := s.enterChan k .latched
    chanEvent { s with lsw := { s.lsw with latchAny := true } } k 1
  else if (s.chan k).demand then chanOn s k else s.enterChan k .off

/-- RETRY_SPACING_END (R554). -/
def execRetrySpacingEnd (k : Fin 32) (s : State) : Res :=
  .next (if !s.clocksRun || !bankOk s k then s
  else match (s.chan k).state with
  | .waiting => endSpacing (toSpacing s k) k
  | .thermalOff => let s := toSpacing s k; if (s.chan k).cooled then endSpacing s k else s
  | _ => s)

/-- RETRY_COUNT_RESET (R554): the channel has been on for 1 s without limiting. -/
def execRetryCountReset (k : Fin 32) (s : State) : Res :=
  .next (if s.clocksRun && (s.chan k).state == .on then
    (s.toTick ((s.chan k).onSince + secNs)).onChan k fun c => { c with count := 0 } else s)

/-- The channels of a bank (R26). -/
def bankChans (b : Fin 4) : List (Fin 32) := (List.finRange 32).filter fun k => k.val / 8 == b.val

/-- The supply of a bank reads `mv` mV, and VBANK_OK follows it: it reads 0 below 18 V (R48). -/
def setBank (s : State) (b : Fin 4) (mv : Nat) : State :=
  let m : BitVec 4 := BitVec.ofNat 4 (2 ^ b.val)
  { s with glb := { s.glb with
    vbank := vmod s.glb.vbank b fun _ => mv
    vbankOk := if 18000 ≤ mv then s.glb.vbankOk ||| m else s.glb.vbankOk &&& ~~~m } }

/-- BANK_UNDERVOLTAGE (R48, R555): the bank's supply changes. Where VBANK_OK changes with it, the bank's SPACING timers are suspended at
their values, or resume. Without power only the supply changes. -/
def execBankUndervoltage (b : Fin 4) (mv : Nat) (s : State) : Res :=
  .next (if s.clocksRun then
    let s := if s.glb.vbankOk.getLsbD b.val = decide (18000 ≤ mv) then s
      else forAll (bankChans b) (fun s k => let e := elapsed s k; s.onChan k fun c => { c with timer := e, timerAt := s.now }) s
    forAll (bankChans b) measureChan (setBank s b mv)
  else setBank s b mv)

/-- THERMAL_SHUTDOWN (R556): the junction has reached 150 degrees, or 170 degrees, `temp` in 0.01 degrees; the warning comes as it passes
150 degrees. -/
def execThermalShutdown (k : Fin 32) (temp : BitVec 16) (s : State) : Res :=
  .next (if !s.clocksRun || temp.toInt < 15000 then s
  else
    let was := (s.chan k).tj
    let s := s.onChan k fun c => { c with tj := temp, cooled := c.cooled && decide (temp.toInt < 17000) }
    let s := if was.toInt < 15000 then chanEvent { s with lsw := { s.lsw with thermalWarn := true } } k 2 else s
    if temp.toInt < 17000 then s
    else match (s.chan k).state with
    | .on | .limiting | .waiting => countEvent { s with lsw := { s.lsw with shutdownAny := true } } k 3 .thermalOff
    | _ => s)

/-- CHANNEL_COOLED (R556): the junction is below 150 degrees again; the reading is a free value below that. -/
def execChannelCooled (k : Fin 32) (s : State) : Res :=
  .next (if s.clocksRun && (!(s.chan k).cooled || decide (15000 ≤ (s.chan k).tj.toInt)) then
    let f := s.free
    let s := f.2.onChan k fun c => { c with cooled := true, tj := BitVec.ofNat 16 (f.1.toNat % 15000) }
    if (s.chan k).state == .thermalOff && decide ((s.chan k).spacing * msNs ≤ elapsed s k) then endSpacing s k else s
  else s)

/-- The channels of a mask. -/
def maskChans (w : Word) : List (Fin 32) := (List.finRange 32).filter fun k => bit w k.val

/-- Set load channels (R567): it ends a fail-safe state whose source refreshes again (R558). -/
def effSetLoadChannels (c : Cmd) (s : State) : State :=
  let exp := (vget s.lsw.sources 0).expired
  let s := forAll (maskChans (c.p 0)) (fun s k =>
    followDemand (s.onChan k fun x => { x with cmd := bit (c.p 1) k.val, fsOn := x.fsOn && exp }) k) s
  let stuck := ofBits ((List.finRange 32).map fun (k : Fin 32) =>
    bit (c.p 0) k.val && bit (c.p 1) k.val && (s.chan k).state == .latched)
  complete s c 0 (BitVec.ofNat 32 stuck)

/-- SET_LOAD_CHANNELS. -/
def execSetLoadChannels (c : Cmd) (s : State) : Res := .next (cmdStep [0x0C00] effSetLoadChannels c s)

/-- A latch is cleared (R554): back to the commanded state with a retry count of 0. -/
def clearLatch (by_ : Cmd) (s : State) (k : Fin 32) : State :=
  let s := (s.onChan k fun x => { x with count := 0 }).enterChan k .off
  let s := chanEvent s k 5 (some by_)
  if (s.chan k).cooled then followDemand s k else s.enterChan k .thermalOff

/-- Clear latch (R567). -/
def effClearLatch (c : Cmd) (s : State) : State :=
  let l := (maskChans (c.p 0)).filter fun k => (s.chan k).state == .latched
  complete (forAll l (clearLatch c) s) c 0 (BitVec.ofNat 32 (ofBits ((List.finRange 32).map fun (k : Fin 32) => l.contains k)))

/-- CLEAR_LATCH. -/
def execClearLatch (c : Cmd) (s : State) : Res := .next (cmdStep [0x0C01] effClearLatch c s)

/-! ### The segment panel (R559 to R566) -/

/-- The segments of the legal area in the layout in force (R562). -/
def legalMask (s : State) : BitVec 384 := Config.legalArea ((s.met.legal.map (·.crc)).getD 0)

/-- The display form of a register (R374). -/
def displayForm (v : Nat) : Nat := v / 2 ^ 48 / 10000 % 10 ^ 10

/-- The content of the legal area (R430): the outlet in view, its billing import and its open session's, the tariff index in force,
and the marks UNVER, NOT_LEGAL, UNSYNC and a non-zero tamper COUNT. -/
def legalContent (s : State) : List Nat :=
  match s.epd.view with
  | none => []
  | some o =>
    let r := billRegs s o
    let e := ((s.keep.slots.toList.filterMap id).find? fun c => some c.number == s.enr.committed.map (·.number)).map fun c => vget c.out o
    let e := e.getD (s.enr1 o).live
    let imp := vget e.regs r.1
    let sess := match (s.bil1 o).session with
      | some x => if x.startCommit.isSome then imp - x.startImp else 0
      | none => 0
    [o.val, displayForm imp, displayForm sess, (s.bil1 o).index.val, b2n (e.flags.getLsbD 1), b2n (e.flags.getLsbD 2),
      b2n (s.tim.legalState == .unsync), b2n (s.bil.tampers.toList.any fun t => t.count != 0)]

/-- The segments of common `k` (R559). -/
def commonMask (k : Fin 4) : BitVec 384 := BitVec.ofNat 384 ((2 ^ 96 - 1) * 2 ^ (96 * k.val))

/-- The commons fitted (R569). -/
def Epd.fitted (e : Epd) : List (Fin 4) := (List.finRange 4).filter fun k => decide (k.val ≤ e.commons.toNat)

/-- The segments of the commons fitted. -/
def Epd.fittedMask (e : Epd) : BitVec 384 := BitVec.ofNat 384 (2 ^ (96 * (e.commons.toNat + 1)) - 1)

/-- The operator image with the marked segments as they stand (R563). -/
def Epd.operNow (e : Epd) : BitVec 384 := if e.blinkPhase then e.operImage ^^^ e.blink else e.operImage

/-- The image wanted now: legal content in the legal area, the operator image elsewhere (R562). Where the legal source has expired,
the legal area stays as it is (R557). -/
def wanted (s : State) : BitVec 384 :=
  let m := legalMask s
  let legal := if (vget s.lsw.sources 2).expired then s.epd.image
    else Config.legalGlyphs ((s.met.legal.map (·.crc)).getD 0) (legalContent s)
  ((legal &&& m) ||| (s.epd.operNow &&& ~~~m)) &&& s.epd.fittedMask

/-- The display is enabled: EN, and waveforms in the configuration in force (R600). -/
def Epd.enabled (e : Epd) : Bool := e.en && !e.waves.isEmpty

/-- Updates run: the display is enabled, its lines are not discharged, and the service source refreshes (R557, R565). -/
def drives (s : State) : Bool :=
  s.glb.phase == .running && s.epd.enabled && !s.epd.stopped && !(vget s.lsw.sources 0).expired

/-- The waveform table for a panel temperature (R561): the last whose T_LOW is not above it, or the first. -/
def pickWave (l : List WaveTable) (t : Int) : Nat := ((l.filter fun w => decide (w.tLow ≤ t)).length - 1)

/-- The duration of a waveform table. -/
def WaveTable.total (w : WaveTable) : Nat := (w.steps.map (·.2)).sum * msNs

/-- Change the EPD block. -/
def State.onEpd (s : State) (f : Epd → Epd) : State := { s with epd := f s.epd }

/-- The part of a panel image under common `k`, by line (R559). -/
def linesOf (v : BitVec 384) (k : Fin 4) : BitVec 96 := (v >>> (96 * k.val)).truncate 96

/-- One step of a waveform (R560, R561): phase A drives the lines that turn dark, phase B those that turn light. -/
def panelStep (dark light : BitVec 96) (x : Nat × Nat) : PanelStep :=
  if x.1 = 1 then ⟨x.2, .vneg, dark, 0⟩ else if x.1 = 2 then ⟨x.2, .vpos, 0, light⟩ else ⟨x.2, .vcom, 0, 0⟩

/-- The drive of common `k` with a waveform: a full clear turns every segment light, an update the changed segments of its area. -/
def panelDrive (e : Epd) (k : Fin 4) (area : BitVec 384) (steps : List (Nat × Nat)) : List PanelStep :=
  let dark := linesOf (e.target &&& ~~~e.image &&& area) k
  let light := linesOf (e.image &&& ~~~e.target &&& area) k
  steps.map (if 0 < e.clearLeft then panelStep 0 (BitVec.allOnes 96) else panelStep dark light)

/-- The update of a common starts (R560, R561, R566): the panel temperature is read (the interface die's is a free value), its table
chosen, and the journal record written. -/
def startCommon (s : State) (k : Fin 4) (legalPart : Bool) : State :=
  let f := s.free
  let s := f.2
  let t : BitVec 16 := f.1.truncate 16 + s.epd.tempOffset
  let s := s.onEpd fun e => { e with
    common := some k, legalPart := legalPart, commonAt := s.now, temp := t, band := BitVec.ofNat 3 (pickWave e.waves t.toInt)
    journal := ⟨e.target, k.val, false, true⟩ }
  let area := if legalPart then legalMask s else ~~~legalMask s
  s.send (.display k (panelDrive s.epd k area ((s.epd.waves[s.epd.band.toNat]?.map (·.steps)).getD [])))

/-- The next common to drive (R560, R566): the rest of a full clear, then changes of the legal area, then of the operator area. -/
def nextCommon (s : State) : Option (Fin 4 × Bool) :=
  let e := s.epd
  if 0 < e.clearLeft then some (fin 4 (e.commons.toNat + 1 - e.clearLeft), false)
  else
    let d := (e.image ^^^ e.target) &&& e.fittedMask
    let m := legalMask s
    match e.fitted.find? fun k => d &&& m &&& commonMask k != 0 with
    | some k => some (k, true)
    | none => (e.fitted.find? fun k => d &&& ~~~m &&& commonMask k != 0).map fun k => (k, false)

/-- The Display update event (R568). -/
def displayEvent (s : State) (result : Nat) : State := postDev s 0x0C02 (p8 s.epd.updated.toNat ++ p8 result)

/-- The update ends: its record is complete, and the commands it carried out complete (R566, R567). The code of a full clear and
redraw is 2 (R566). -/
def endUpdate (s : State) : State :=
  let cmds := s.epd.waitCmds
  let r := if s.epd.fromJournal then 2 else 0
  let s := s.onEpd fun e => { e with
    busy := false, common := none, waitCmds := [], fromJournal := false
    journal := { e.journal with target := e.image, complete := true, valid := true } }
  let s := displayEvent s r
  cmds.foldl (fun s (k : Fin 16 × BitVec 32) => completeKey s k.1 k.2 0) s

/-- The update goes on with its next common, or ends. -/
def continueUpdate (s : State) : State :=
  match nextCommon s with
  | some k => startCommon s k.1 k.2
  | none => endUpdate s

/-- The update of a common has ended: the panel shows its part of the target (R560), or the common is light (R566). -/
def commonDone (s : State) (k : Fin 4) : State :=
  s.onEpd fun e =>
    let m := commonMask k
    let up := e.updated ||| BitVec.ofNat 4 (2 ^ k.val)
    if 0 < e.clearLeft then { e with image := e.image &&& ~~~m, clearLeft := e.clearLeft - 1, updated := up, common := none }
    else
      let a := if e.legalPart then legalMask s else ~~~legalMask s
      { e with image := (e.image &&& ~~~(m &&& a)) ||| (e.target &&& m &&& a), updated := up, common := none }

/-- An update starts, where something is to be drawn (R560, R566). -/
def startUpdate (s : State) : State :=
  let e := s.epd
  let t := if e.fromJournal then e.target else wanted s
  if e.redrawDue || (e.image ^^^ t) &&& e.fittedMask != 0 then
    continueUpdate (s.onEpd fun e => { e with
      busy := true, target := t, updated := 0, clearLeft := if e.redrawDue then e.commons.toNat + 1 else 0, redrawDue := false
      waitCmds := e.waitCmds ++ e.nextCmds, nextCmds := [] })
  else
    let cmds := e.nextCmds
    let s := s.onEpd fun e => { e with nextCmds := [], fromJournal := false }
    cmds.foldl (fun s (k : Fin 16 × BitVec 32) => completeKey s k.1 k.2 0) s

/-- DISPLAY_UPDATE (R560): an update starts, or time runs on through the waveform of the common it drives. -/
def execDisplayUpdate (s : State) : Res :=
  .next (if !drives s then s
  else match s.epd.common with
  | some k =>
    let w := (s.epd.waves[s.epd.band.toNat]?).getD ⟨0, []⟩
    continueUpdate (commonDone (s.toTick (s.epd.commonAt + w.total)) k)
  | none => startUpdate s)

/-- An update is stopped (R557, R565): its record stays incomplete. -/
def interruptDisplay (s : State) : State :=
  if s.epd.busy then
    let s := s.onEpd fun e => { e with busy := false, common := none, interrupted := true, clearLeft := 0 }
    displayEvent s 1
  else s

/-- What a power-up, a return of the service source or a service reset makes of the display journal (R566): nothing is drawn for a
complete record; otherwise a full clear comes first, and then the journal's target, where it holds one. -/
def resumeDisplay (s : State) : State :=
  let j := s.epd.journal
  if j.valid && j.complete then s
  else s.onEpd fun e => { e with redrawDue := true, fromJournal := true, target := if j.valid then j.target else 0 }

/-- The display at power-up (R566, R569): the image and the operator's part of it come from the journal. -/
def loadDisplay (s : State) : State :=
  let j := s.epd.journal
  resumeDisplay (s.onEpd fun e => { e with
    image := if j.valid then j.target else 0, operImage := if j.valid then j.target &&& ~~~legalMask s else 0 })

/-- BLINK (R563): BLINK_T has passed; every marked segment is reversed, in the update under way or in one of its own. -/
def execBlink (s : State) : Res :=
  .next (if drives s && s.epd.blink != 0 then
    let s := s.toTick (s.epd.blinkAt + s.epd.blinkT * secNs)
    let s := s.onEpd fun e => { e with blinkPhase := !e.blinkPhase, blinkAt := s.now }
    let m := s.epd.blink &&& ~~~legalMask s
    if s.epd.busy then s.onEpd fun e => { e with target := e.target ^^^ m } else startUpdate s
  else s)

/-- CRACK_PULSE (R564): once per second the loop is pulsed, not in a service reset (R41); two missed pulses in a row set CRACK, ten returned ones clear it. -/
def execCrackPulse (returned : Bool) (s : State) : Res :=
  .next (if s.glb.phase != .running then s
  else
    let s := s.toTick (s.epd.pulseAt + secNs)
    let s := s.onEpd fun e => { e with
      pulseAt := s.now, missedPulses := if returned then 0 else min 2 (e.missedPulses + 1)
      gotPulses := if returned then min 10 (e.gotPulses + 1) else 0 }
    if !s.epd.crack && s.epd.missedPulses == 2 then
      postDev (s.onEpd fun e => { e with crack := true, crackSeen := true }) 0x0C03 (p8 0)
    else if s.epd.crack && s.epd.gotPulses == 10 then postDev (s.onEpd fun e => { e with crack := false }) 0x0C03 (p8 1)
    else s)

/-- The operator block of Write operator area: image and blink mask of 48 bytes each (R567). -/
def operBlock (c : Cmd) : BitVec 384 × BitVec 384 :=
  (BitVec.ofNat 384 (ofBytes (c.data.take 48)), BitVec.ofNat 384 (ofBytes ((c.data.drop 48).take 48)))

/-- The number of ones of a segment image. -/
def ones (v : BitVec 384) : Nat := ((List.range 384).filter fun i => v.getLsbD i).length

/-- A command waits for the end of the update that carries its change out (R567). -/
def awaitUpdate (s : State) (c : Cmd) : State :=
  let s := (started s c).onEpd fun e => { e with nextCmds := e.nextCmds ++ [(c.ring, c.index)] }
  if drives s && !s.epd.busy then startUpdate s else s

/-- Write operator area (R562, R567): bits of legal segments are ignored. -/
def effWriteOperatorArea (c : Cmd) (s : State) : State :=
  if c.p2 0 % 32 != 0 then complete s c 0x02
  else if !s.epd.enabled then complete s c 0x0A
  else
    let m := ~~~legalMask s
    let b := operBlock c
    if 32 < ones (b.2 &&& m) then complete s c 0x02
    else
      awaitUpdate (s.onEpd fun e => { e with
        operImage := b.1 &&& m, blink := b.2 &&& m, blinkPhase := false, blinkAt := s.now }) c

/-- WRITE_OPERATOR_AREA. -/
def execWriteOperatorArea (c : Cmd) (s : State) : Res := .next (cmdStep [0x0C02] effWriteOperatorArea c s)

/-- Set legal view (R567). -/
def effSetLegalView (c : Cmd) (s : State) : State :=
  match s.ofHandle (fld (c.p 0) 0 16) with
  | some o => complete (s.onEpd fun e => { e with view := some o }) c 0
  | none => complete s c 0x02

/-- SET_LEGAL_VIEW. -/
def execSetLegalView (c : Cmd) (s : State) : Res := .next (cmdStep [0x0C03] effSetLegalView c s)

/-- Redraw (R567): a full clear and redraw of what is wanted; with the display disabled it is refused by the object's state. -/
def effRedraw (c : Cmd) (s : State) : State :=
  if !s.epd.enabled then complete s c 0x0A
  else
    let t := wanted s
    awaitUpdate (s.onEpd fun e => if e.busy then { e with redrawDue := true } else
      { e with redrawDue := true, fromJournal := true, target := t }) c

/-- REDRAW. -/
def execRedraw (c : Cmd) (s : State) : Res := .next (cmdStep [0x0C04] effRedraw c s)

/-! ### The serial watchdog (R557, R558) -/

/-- A channel enters its stored fail-safe state (R558). -/
def failSafe (s : State) (k : Fin 32) : State :=
  let c := s.chan k
  let d := if c.failsafe = 1 then true else if c.failsafe = 2 then c.demand else false
  chanEvent (followDemand (s.onChan k fun c => { c with fsOn := true, fsDemand := d }) k) k 4

/-- What the expiry of a source does (R557): the safety island's and the legal island's outputs are off while it lasts. -/
def expireSource (s : State) (src : Fin 3) : State :=
  let s := { s with lsw := { s.lsw with
    wdExpired := true, sources := vmod s.lsw.sources src fun x => { x with expired := true } } }
  let s := postDev s 0x0C01 (p8 src.val ++ p8 0)
  if src = 0 then forAll (List.finRange 32) failSafe (interruptDisplay s) else s

/-- WATCHDOG_EXPIRY (R557): no valid refresh has arrived within WD_WIN. Where the spec says since when none arrives (a service
reset), time runs on to the end of the window. -/
def execWatchdogExpiry (src : Fin 3) (s : State) : Res :=
  .next (if !s.clocksRun || (vget s.lsw.sources src).expired then s
  else
    let s := match (vget s.lsw.sources src).stoppedAt with
      | some t => s.toTick (t + s.cfg.wdWin * msNs)
      | none => s
    expireSource s src)

/-- WATCHDOG_RESTORED (R558): a valid refresh arrives again, with the next sequence number. The service source sends none during a
service reset. Each channel keeps its fail-safe state until a Set load channels command names it. -/
def execWatchdogRestored (src : Fin 3) (s : State) : Res :=
  .next (if !s.clocksRun || !(vget s.lsw.sources src).expired || (src == 0 && s.glb.phase == .serviceReset) then s
  else
    let s := { s with lsw := { s.lsw with
      sources := vmod s.lsw.sources src fun x => { x with expired := false, stoppedAt := none, seq := x.seq + 1 } } }
    let s := postDev s 0x0C01 (p8 src.val ++ p8 1)
    if src = 0 then resumeDisplay s else s)

/-! ### Register writes (R569) -/

/-- A write of LSW_CFG: a WD_WIN outside its range is ignored whole. -/
def writeLswCfg (s : State) (v : Word) : State :=
  let w := fld v 0 7
  if 2 ≤ w ∧ w ≤ 100 then
    { s with
      cfg := { s.cfg with wdWin := if s.lsw.lock then s.cfg.wdWin else w }
      lsw := { s.lsw with lock := s.lsw.lock || bit v 31 } }
  else s

/-- LSW_CFG_LOCK (R569): a write of LSW_CFG with LOCK = 1. -/
def execLswCfgLock (v : BitVec 32) (s : State) : Res := .next (viaBar s 17 fun s => writeLswCfg s (v ||| 0x80000000#32))

/-- A write of a register of the LSW block. -/
def writeLsw (s : State) (off : Nat) (v : Word) : State :=
  let w := s.lsw
  if off = 0 then writeLswCfg s v
  else if off = 4 then { s with lsw := { w with
    latchAny := w.latchAny && !bit v 0, thermalWarn := w.thermalWarn && !bit v 1
    shutdownAny := w.shutdownAny && !bit v 2, wdExpired := w.wdExpired && !bit v 3 } }
  else if off = 0x14 ∨ off = 0x18 then
    if w.lock then s
    else forAll (List.finRange 16) (fun s i =>
      s.onChan (fin 32 (4 * (off - 0x14) + i.val)) fun c => { c with failsafe := BitVec.ofNat 2 (fld v (2 * i.val) 2) }) s
  else match arr off 0x1000 0x10 32 with
  | some (k, 0) =>
    let sp := fld v 4 7
    if 1 ≤ sp ∧ sp ≤ 100 then s.onChan k fun c => { c with retries := fld v 0 4, spacing := sp } else s
  | _ => s

/-- A write of a register of the EPD block. -/
def writeEpd (s : State) (off : Nat) (v : Word) : State :=
  if off = 0 then
    let b := fld v 3 4
    if 1 ≤ b ∧ b ≤ 10 then
      s.onEpd fun e => { e with
        en := bit v 0, commons := BitVec.ofNat 2 (fld v 1 2), blinkT := b, tempOffset := BitVec.ofNat 16 (fld v 16 16) }
    else s
  else if off = 4 then s.onEpd fun e => { e with
    crackSeen := e.crackSeen && !bit v 16, interrupted := e.interrupted && !bit v 17 }
  else s

end Sys2Proof.Machine
end

