-- ==== Sys2Proof/Machine/ConfigImage.lean ====
section
/-! DEFINITION. What a configuration image holds (R600) and the checks of its sections: outlet profiles (R193 to R199, R203), the
safety section (R276 to R278, R620), share records (R292), the legal section (R342 to R347), the tariff section (R402, R403), the
local-time table (R83), the recorder section (R442) and the display waveforms (R561). -/

namespace Sys2Proof.Machine

/-- A value lies in a range. -/
def inR (lo hi v : Nat) : Bool := decide (lo ≤ v) && decide (v ≤ hi)

/-- A signed value lies in a range. -/
def inZ (lo hi v : Int) : Bool := decide (lo ≤ v) && decide (v ≤ hi)

/-- `n` words from word `i`. -/
def slice (l : List Word) (i n : Nat) : List Word := (l.drop i).take n

/-- A list in pieces of `n` words. -/
def pieces (n : Nat) (l : List Word) : List (List Word) := (List.range (l.length / n)).map fun i => slice l (i * n) n

/-- The CRC field in word `k` is the CRC-32 over the words with that word taken as 0. -/
def crcField (l : List Word) (k : Nat) : Bool := wAt l k == crc32 (wordBytes (l.set k 0))

/-- Words `i` to `j` are 0. -/
def zeroWords (l : List Word) (i j : Nat) : Bool := (slice l i (j + 1 - i)).all (· == 0)

/-- A strictly rising list. -/
def rising : List Nat → Bool
  | a :: b :: t => decide (a < b) && rising (b :: t)
  | _ => true

/-! ### Outlet profiles (R193 to R203) -/

/-- A state record (R198). -/
def parseState (l : List Word) : StateRec :=
  let a := wAt l 0
  let b := wAt l 1
  ⟨fld a 0 10, fld a 10 8, BitVec.ofNat 3 (fld a 18 3), fld b 0 12, fld b 12 8⟩

/-- A transition record (R199). -/
def parseTrans (l : List Word) : TransRec :=
  let a := wAt l 0
  let b := wAt l 1
  let c := wAt l 2
  ⟨fld a 0 8, BitVec.ofNat 8 (fld a 8 8), BitVec.ofNat 8 (fld a 16 8), BitVec.ofNat 16 (fld b 0 16), BitVec.ofNat 16 (fld b 16 16),
    fld c 0 12, fld c 12 8⟩

/-- Largest argument of a trigger code (R201, R216, R217); none for an undefined code. -/
def trigMax (code : Nat) : Option Nat :=
  match code with
  | 1 => some 7 | 2 => some 6 | 3 => some 3 | 4 => some 254 | 5 => some 6 | 6 => some 9 | 7 => some 4 | 8 => some 4 | 9 => some 3
  | 10 => some 1 | 11 => some 1 | 12 => some 3 | 13 => some 0 | _ => none

/-- The bits of an action's argument that carry a field (R202); none for an undefined code. -/
def actMask (code : Nat) : Option Nat :=
  match code with
  | 0x00 | 0x04 | 0x05 | 0x0B | 0x0E | 0x0F | 0x10 | 0x11 | 0x13 => some 0
  | 0x01 | 0x02 | 0x03 | 0x07 => some 0x00000300
  | 0x06 => some 0xFFFFFF00
  | 0x08 | 0x09 => some 0x00000700
  | 0x0A => some 0xFFFF3F00
  | 0x0C => some 0x0000FF00
  | 0x0D => some 0xFFFFFF00
  | 0x12 => some 0x00000100
  | _ => none

/-- One action word is defined and in range (R197, R202). -/
def actOk (w : Word) : Bool :=
  match actMask (fld w 0 8) with
  | none => false
  | some m =>
    (w &&& ~~~(BitVec.ofNat 32 (m + 0xFF)) == 0) &&
      (if fld w 0 8 = 6 then decide (1 ≤ fld w 11 21) && !(bit w 10 && bit w 9)
       else if fld w 0 8 = 0x0C then decide (fld w 8 8 ≤ 127) else true)

/-- An entry action that a CLASS 4 state may have (R203). -/
def faultAct (w : Word) : Bool :=
  let c := fld w 0 8
  (c == 3 && !bit w 9) || (c == 1 && (fld w 8 2 == 0 || fld w 8 2 == 3)) ||
    [0x00, 0x07, 0x09, 0x13, 0x0C, 0x0A, 0x0F, 0x11].contains c

/-- The role rules of R196. -/
def rolesOk (dc vside : Bool) (r : List Nat) : Bool :=
  let used := r.filter (· != 0)
  let has (k : Nat) : Bool := used.contains k
  let three := [2, 3, 5, 6]
  decide used.Nodup &&
    (if dc then (used.all fun k => inR 8 13 k) && has 9 && has 10 && has 11 && has 12 && !vside
     else (used.all fun k => decide (k ≤ 8)) && has 1 && has 4 && has 8 && (three.all has || three.all fun k => !has k))

/-- A profile from its words (R194). -/
def parseProfile (l : List Word) : Profile :=
  let w := wAt l
  let ns := fld (w 1) 0 16
  let nt := fld (w 1) 16 16
  { id := fin 32 (fld (w 0) 0 5), dc := bit (w 0) 5, proxMode := BitVec.ofNat 2 (fld (w 0) 6 2), zpEn := bit (w 0) 8
    initial := fld (w 2) 16 8, fault := fld (w 2) 24 8
    roles := Vector.ofFn fun (i : Fin 8) => BitVec.ofNat 4 (fld (w 3) (4 * i.val) 4)
    iMax := (w 4).toNat, iMin := (w 5).toNat
    d0CloseMain := fld (w 6) 0 16, d0OpenMain := fld (w 6) 16 16, d0CloseAux := fld (w 7) 0 16, d0OpenAux := fld (w 7) 16 16
    fbOffClose := signed 16 (fld (w 8) 0 16), fbOffOpen := signed 16 (fld (w 8) 16 16)
    contTimeout := fld (w 9) 0 16, lockTimeout := fld (w 9) 16 16
    debounce := fld (w 10) 0 4, zpCloseLane := fin 8 (fld (w 10) 4 3), zpOpenLane := fin 8 (fld (w 10) 7 3), vside := bit (w 10) 10
    proxDebounce := fld (w 10) 16 16
    states := (pieces 2 (slice l 16 (2 * ns))).map parseState
    trans := (pieces 4 (slice l (16 + 2 * ns) (4 * nt))).map parseTrans
    actions := l.drop (16 + 2 * ns + 4 * nt) }

/-- Words of the profile that starts a list (R193). -/
def profileLen (l : List Word) : Nat :=
  16 + 2 * fld (wAt l 1) 0 16 + 4 * fld (wAt l 1) 16 16 + fld (wAt l 2) 0 16

/-- Reserved fields of a profile are 0 (R194, R198, R199). -/
def profileReserved (l : List Word) : Bool :=
  let ns := fld (wAt l 1) 0 16
  let nt := fld (wAt l 1) 16 16
  fld (wAt l 0) 9 23 == 0 && fld (wAt l 10) 11 5 == 0 && zeroWords l 11 14 &&
    ((pieces 2 (slice l 16 (2 * ns))).all fun r => fld (wAt r 0) 21 11 == 0 && fld (wAt r 1) 20 12 == 0) &&
    ((pieces 4 (slice l (16 + 2 * ns) (4 * nt))).all fun r => fld (wAt r 0) 24 8 == 0 && fld (wAt r 2) 20 12 == 0 && wAt r 3 == 0)

/-- The lane `k` has one of the roles. -/
def Profile.laneIs (p : Profile) (k : Fin 8) (roles : List Nat) : Bool := roles.contains (vget p.roles k).toNat

/-- The header's ranges (R194, R196, R197). -/
def Profile.headerOk (p : Profile) : Bool :=
  let cls (i : Nat) : Option Nat := (p.states[i]?).map (·.cls.toNat)
  decide (p.proxMode.toNat ≤ 1) && !(p.zpEn && p.dc) && inR 1 256 p.states.length && decide (p.trans.length ≤ 1024) &&
    decide (p.actions.length ≤ 4096) && cls p.initial == some 0 && cls p.fault == some 4 &&
    rolesOk p.dc p.vside (p.roles.toList.map (·.toNat)) &&
    (if p.dc then inR 1000 1000000 p.iMax && decide (p.iMin ≤ p.iMax) else inR 6000 80000 p.iMax && inR 6000 p.iMax p.iMin) &&
    ([p.d0CloseMain, p.d0OpenMain, p.d0CloseAux, p.d0OpenAux].all fun d => inR 2000 60000 d) &&
    inZ (-5000) 5000 p.fbOffClose && inZ (-5000) 5000 p.fbOffOpen && inR 20 1000 p.contTimeout && inR 50 5000 p.lockTimeout &&
    inR 1 15 p.debounce && inR 1 1000 p.proxDebounce &&
    (if p.zpEn then p.laneIs p.zpCloseLane [1, 2, 3] && p.laneIs p.zpOpenLane [4, 5, 6] else p.zpCloseLane == 0 && p.zpOpenLane == 0)

/-- The records of a profile (R197 to R203). -/
def Profile.recordsOk (p : Profile) : Bool :=
  let acts (a n : Nat) : List Word := (p.actions.drop a).take n
  p.actions.all actOk &&
    (p.states.all fun r =>
      decide (r.firstTrans + r.ntrans ≤ p.trans.length) && decide (r.cls.toNat ≤ 4) &&
        decide (r.entryAct + r.entryLen ≤ p.actions.length) && (r.cls != 4 || (acts r.entryAct r.entryLen).all faultAct) &&
        (r.cls != 4 || ((p.trans.drop r.firstTrans).take r.ntrans).all fun t =>
          (acts t.act t.actLen).all fun w => fld w 0 8 != 2 && fld w 0 8 != 5)) &&
    (p.trans.all fun t =>
      decide (t.target < p.states.length) && (t.guardValue &&& ~~~t.guardMask == 0) &&
        decide (t.act + t.actLen ≤ p.actions.length) &&
        match trigMax t.trigger.toNat with
        | some m => t.arg == 0xFF#8 || decide (t.arg.toNat ≤ m)
        | none => false)

/-- The profiles of a section, each with its CRC; none where one fails a check. The fuel bounds their number (R193). -/
def parseProfiles : Nat → List Word → Option (List (Profile × BitVec 32))
  | _, [] => some []
  | 0, _ => none
  | n + 1, l =>
    let k := profileLen l
    let w := l.take k
    let p := parseProfile w
    if w.length = k ∧ crcField w 15 && profileReserved w && p.headerOk && p.recordsOk then
      (parseProfiles n (l.drop k)).map fun t => (p, wAt w 15) :: t
    else none

/-! ### Safety section (R276 to R278, R620) -/

/-- What the safety section holds. -/
structure SafetySec where
  /-- safety records -/
  recs : List SafetyRec
  /-- binding records -/
  binds : List BindRec
  /-- input records -/
  inputs : List InputRec
  /-- axis records -/
  axes : List AxisRec
  /-- its CRC -/
  crc : BitVec 32

/-- A safety record (R277). -/
def parseSafety (l : List Word) : SafetyRec :=
  let w := wAt l
  { profileId := fin 32 (fld (w 0) 0 5), acRcEn := bit (w 0) 5, tagReq := bit (w 0) 6, lockReq := bit (w 0) 7
    dAllowed := bit (w 0) 8, imdEn := bit (w 0) 9
    thr := Vector.ofFn fun (i : Fin 6) => fld (w (1 + i.val)) 0 16, delay := Vector.ofFn fun (i : Fin 6) => fld (w (1 + i.val)) 16 16
    imdFault := fld (w 7) 0 16, imdWarn := fld (w 7) 16 16, imdHalf := fld (w 8) 0 16, vm := fld (w 8) 16 8, imdAge := fld (w 8) 24 8
    rc := fld (w 9) 0 16, rm := fld (w 9) 16 16, weldVAc := fld (w 10) 0 16, weldVDc := fld (w 10) 16 16
    weldTDc := fld (w 11) 0 16 }

/-- The response of a DC stage at its test current is its IEC 62955 limit less 80 ms at most (R242), with W = 22.2 ms: currents in 0.1 mA,
times in ms. -/
def responseOk (r : SafetyRec) (k : Fin 6) (test limit : Nat) : Bool :=
  decide (22200 * vget r.thr k + 1000 * test * (1 + vget r.delay k) ≤ 1000 * test * (limit - 80))

/-- Ranges, reserved fields and the CRC of a safety record (R241 to R243, R252, R277); `dc` is its profile's KIND. -/
def safetyOk (dc : Bool) (l : List Word) : Bool :=
  let r := parseSafety l
  let st (i : Fin 6) (lo hi d : Nat) : Bool := inR lo hi (vget r.thr i) && decide (vget r.delay i ≤ d)
  crcField l 15 && fld (wAt l 0) 10 22 == 0 && fld (wAt l 11) 16 16 == 0 && zeroWords l 12 14 && (r.imdEn == dc) &&
    st 0 35 60 9500 && st 1 400 600 900 && st 2 1000 2000 50 && (dc || (st 3 60 3000 1000 && st 4 60 3000 1000 && st 5 60 3000 1000)) &&
    responseOk r 0 60 10000 && responseOk r 1 600 1000 && responseOk r 2 2000 100 && (!r.imdEn || decide (2 * r.imdHalf + 1000 ≤ 1000 * r.imdAge)) &&
    inR 10 10000 r.imdFault && inR r.imdFault 50000 r.imdWarn && inR 50 2000 r.imdHalf && inR 20 100 r.vm && inR 1 60 r.imdAge &&
    inR 10 1000 r.rc && inR 500 20000 r.rm && inR 20 100 r.weldVAc && inR 30 120 r.weldVDc && inR 500 10000 r.weldTDc

/-- A binding record (R278). -/
def parseBind (l : List Word) : BindRec := ⟨wAt l 0, fin 16 (fld (wAt l 1) 0 4), bit (wAt l 1) 4⟩

/-- An input record (R278). -/
def parseInput (w : Word) : InputRec :=
  ⟨BitVec.ofNat 3 (fld w 0 3), BitVec.ofNat 2 (fld w 3 2), BitVec.ofNat 2 (fld w 5 2), bit w 7, fld w 8 8, BitVec.ofNat 16 (fld w 16 16)⟩

/-- An input record's function and discrepancy time are in range, and a dry pair names two different sources (R265, R266; that the image is
refused otherwise is DEDUCED, log 148). -/
def inputOk (w : Word) : Bool :=
  decide (fld w 0 3 ≤ 3) && decide (1 ≤ fld w 8 8) && (!bit w 7 || fld w 3 2 != fld w 5 2)

/-- An axis record (R278). -/
def parseAxis (l : List Word) : AxisRec :=
  ⟨fld (wAt l 0) 0 16, fld (wAt l 0) 16 16, fld (wAt l 1) 0 16, fld (wAt l 1) 16 16, fld (wAt l 2) 0 16, fld (wAt l 2) 16 16⟩

/-- The safety section, checked against the profiles of the image (R620). -/
def parseSafetySec (l : List Word) (ps : List (Profile × BitVec 32)) : Option SafetySec :=
  let n := fld (wAt l 0) 0 6
  let recs := pieces 16 (slice l 8 (16 * n))
  let binds := pieces 2 (slice l (8 + 16 * n) 256)
  let inputs := slice l (264 + 16 * n) 32
  let axes := pieces 3 (slice l (296 + 16 * n) 48)
  let ids := recs.map fun r => fld (wAt r 0) 0 5
  let dcOf (i : Nat) : Option Bool := (ps.find? fun p => p.1.id.val == i).map (·.1.dc)
  if l.length = 344 + 16 * n ∧ inR 1 32 n && fld (wAt l 0) 6 26 == 0 && zeroWords l 1 6 && crcField l 7 && n == ps.length &&
      rising ids && (ps.all fun p => ids.contains p.1.id.val) &&
      (recs.all fun r => match dcOf (fld (wAt r 0) 0 5) with | some d => safetyOk d r | none => false) &&
      (binds.all fun r => fld (wAt r 1) 5 27 == 0) && (inputs.all inputOk) &&
      (axes.all fun r => inR 10 1000 (fld (wAt r 2) 16 16)) then
    some ⟨recs.map parseSafety, binds.map parseBind, inputs.map parseInput, axes.map parseAxis, wAt l 7⟩
  else none

/-! ### Share records (R292) -/

/-- A share record. -/
def parseShare (l : List Word) : ShareRec :=
  let w := wAt l
  { profileId := fin 32 (fld (w 0) 0 5), prio := fld (w 0) 5 3, weight := fld (w 0) 8 4, eff := fld (w 0) 12 7
    rampUp := fld (w 1) 0 16, reactT := fld (w 1) 16 16, vdcMin := fld (w 2) 0 16
    points := (List.range 8).map fun k => (signed 16 (fld (w (3 + k)) 0 16), fld (w (3 + k)) 16 10) }

/-- The points in use rise strictly, and every later point repeats the last of them. -/
def pointsOk : List (Int × Nat) → Bool
  | a :: b :: t => if b = a then (b :: t).all (· == a) else decide (a.1 < b.1) && pointsOk (b :: t)
  | _ => true

/-- Ranges, reserved fields, points and the CRC of a share record. -/
def shareOk (l : List Word) : Bool :=
  let r := parseShare l
  crcField l 11 && fld (wAt l 0) 19 13 == 0 && fld (wAt l 2) 16 16 == 0 && ((slice l 3 8).all fun w => fld w 26 6 == 0) &&
    inR 1 15 r.weight && inR 50 100 r.eff && decide (r.reactT ≤ 10000) && inR 50 1500 r.vdcMin &&
    (r.points.all fun p => decide (p.2 ≤ 1000)) && pointsOk r.points

/-- The share record a profile takes where the section is absent (R600). -/
def shareDefault (p : Profile) : ShareRec :=
  { profileId := p.id, prio := 4, weight := 1, eff := 95, rampUp := 0, reactT := if p.dc then 1000 else 5000, vdcMin := 400
    points := List.replicate 8 (0, 1000) }

/-- The share section, checked against the profiles of the image. -/
def parseShareSec (l : List Word) (ps : List (Profile × BitVec 32)) : Option (List ShareRec) :=
  let recs := pieces 12 l
  let ids := recs.map fun r => fld (wAt r 0) 0 5
  if l.length = 12 * ps.length ∧ rising ids && (ps.all fun p => ids.contains p.1.id.val) && recs.all shareOk then
    some (recs.map parseShare)
  else none

/-! ### Legal section (R342 to R347) -/

/-- A temperature table (R347). -/
def parseTemp (l : List Word) : TempTable :=
  { id := BitVec.ofNat 6 (fld (wAt l 0) 0 6), gainT := (slice l 1 30).map fun w => signed 16 (fld w 0 16)
    shiftT := (slice l 1 30).map fun w => signed 16 (fld w 16 16) }

/-- A calibration record (R344). -/
def parseCal (l : List Word) : CalRec :=
  let w := wAt l
  { serial := BitVec.ofNat 64 (wNat l 0 2), lane := fin 8 (fld (w 2) 0 3), sensor := BitVec.ofNat 2 (fld (w 2) 3 2)
    table := BitVec.ofNat 6 (fld (w 2) 5 6), fsRms := (w 3).toNat, gain := (w 4).toNat, offset := signed 32 (w 5).toNat
    phShift := signed 32 (w 6).toNat, toneRef := (w 8).toNat, calTemp := signed 16 (fld (w 9) 0 16), calTime := wNat l 10 2 }

/-- Ranges, reserved fields and the CRC of a calibration record. -/
def calOk (l : List Word) : Bool :=
  let r := parseCal l
  crcField l 15 && fld (wAt l 2) 11 21 == 0 && wAt l 7 == 0 && fld (wAt l 9) 16 16 == 0 && zeroWords l 12 14 &&
    decide (1 ≤ r.fsRms) && inR 0x20000000 0x80000000 r.gain && inZ (-8192) 8192 r.phShift

/-- The legal section; the display layout follows its parts (R562). -/
def parseLegalSec (l : List Word) : Option LegalSec :=
  let nt := fld (wAt l 0) 0 7
  let nc := fld (wAt l 1) 0 16
  let tabs := pieces 32 (slice l 8 (32 * nt))
  let cals := pieces 16 (slice l (8 + 32 * nt) (16 * nc))
  if decide (8 + 32 * nt + 16 * nc ≤ l.length) && inR 1 64 nt && inR 1 1032 nc && fld (wAt l 0) 7 25 == 0 &&
      fld (wAt l 1) 16 16 == 0 && zeroWords l 4 6 && crcField l 7 && inR 100 5000 (wAt l 2).toNat &&
      inR (wAt l 2).toNat 20000 (wAt l 3).toNat && (tabs.all fun t => crcField t 31 && fld (wAt t 0) 6 26 == 0) && cals.all calOk then
    some { driftLim := (wAt l 2).toNat, failLim := (wAt l 3).toNat, tables := tabs.map parseTemp, cals := cals.map parseCal, crc := wAt l 7 }
  else none

/-! ### Tariff section (R402, R403) -/

/-- A plan. -/
def parsePlan (l : List Word) : Plan :=
  { count := fld (wAt l 0) 8 5, defIndex := fin 16 (fld (wAt l 0) 16 4)
    points := (slice l 1 (fld (wAt l 0) 8 5)).map fun w => (fld w 0 11, BitVec.ofNat 8 (fld w 11 8), fin 16 (fld w 20 4)) }

/-- Ranges, reserved fields, the order of the switch points in use and the CRC of plan `i`. -/
def planOk (i : Nat) (l : List Word) : Bool :=
  let p := parsePlan l
  crcField l 31 && fld (wAt l 0) 0 6 == i && fld (wAt l 0) 6 2 == 0 && fld (wAt l 0) 13 3 == 0 && fld (wAt l 0) 20 12 == 0 &&
    decide (p.count ≤ 24) && ((slice l 1 24).all fun w => fld w 19 1 == 0 && fld w 24 8 == 0 && decide (fld w 0 11 ≤ 1439)) &&
    zeroWords l 25 30 && rising (p.points.map (·.1))

/-- The tariff section: header, 64 plans, 64 special days. -/
def parseTariff (l : List Word) : Option Tariff :=
  let plans := pieces 32 (slice l 8 2048)
  let days := slice l 2056 64
  let n := fld (wAt l 4) 0 7
  let d := fld (wAt l 3) 0 6
  if l.length = 2120 ∧ inR 1 92 (fld (wAt l 0) 0 7) && fld (wAt l 0) 7 25 == 0 && fld (wAt l 2) 8 24 == 0 && fld (wAt l 3) 6 26 == 0 &&
      decide (n ≤ 64) && fld (wAt l 4) 7 25 == 0 && zeroWords l 5 6 && crcField l 7 &&
      ((List.range 64).all fun i => planOk i (plans.getD i [])) && (days.all fun w => fld w 16 16 == 0) &&
      decide (0 < (parsePlan (plans.getD d [])).count) then
    some { periodDays := fld (wAt l 0) 0 7, anchor := wNat l 1 2 % 2 ^ 40, defaultPlan := fin 64 d, plans := plans.map parsePlan
           special := (days.take n).map fun w => fld w 0 16 }
  else none

/-- The tariff where the section is absent (R600). -/
def tariffDefault : Tariff :=
  { periodDays := 30, anchor := 0, defaultPlan := 0, plans := ⟨1, 0, [(0, 0xFF, 0)]⟩ :: List.replicate 63 ⟨0, 0, []⟩, special := [] }

/-! ### Local-time table, recorder section, waveforms -/

/-- The local-time table (R83); the spec gives its entries' fields and no layout (log 73). -/
def parseLocal (l : List Byte) : Option (List LocalEntry) :=
  let e := Config.localTable l
  if inR 1 128 e.length && rising (e.map (·.1)) && (e.all fun (x : Nat × Int × Bool) => decide (x.1 < 2 ^ 40) && inZ (-56) 56 x.2.1) then
    some (e.map fun (x : Nat × Int × Bool) => ⟨x.1, x.2.1, x.2.2⟩)
  else none

/-- The recorder section (R442); the spec gives its words and no layout of their lists (log 73). -/
def parseRecorder (l : List Byte) : Option (List Selection × List (BitVec 16 × Nat)) :=
  let r := Config.recorderSection l
  if decide (r.1.length ≤ 16) && decide (r.2.length ≤ 64) &&
      (r.1.all fun sel => sel.length == 46 && sel.all fun w => fld w 25 7 == 0 && fld w 0 2 == 0 && decide (fld w 0 24 < 0x170000)) &&
      (r.2.all fun w => fld w 20 12 == 0) && decide (r.2.map fun w => fld w 0 16).Nodup then
    some (r.1.map fun sel => ⟨sel.map fun w => (BitVec.ofNat 24 (fld w 0 24), bit w 24)⟩,
      r.2.map fun w => (BitVec.ofNat 16 (fld w 0 16), fld w 16 4))
  else none

/-- A waveform table (R561). -/
def parseWave (l : List Word) : WaveTable :=
  { tLow := signed 16 (fld (wAt l 0) 0 16), steps := (slice l 1 (fld (wAt l 0) 16 4)).map fun w => (fld w 0 2, fld w 2 11) }

/-- The time a table spends in a phase. -/
def WaveTable.phase (w : WaveTable) (k : Nat) : Nat := ((w.steps.filter fun x => x.1 == k).map (·.2)).sum

/-- The display waveforms (R561): 8 tables in ascending order of T_LOW, each with as much of phase A as of phase B. -/
def parseWaves (l : List Word) : Option (List WaveTable) :=
  let ts := pieces 16 l
  let ws := ts.map parseWave
  let asc := (ws.zip (ws.drop 1)).all fun (p : WaveTable × WaveTable) => decide (p.1.tLow ≤ p.2.tLow)
  if l.length = 128 ∧ asc && (ts.all fun t => fld (wAt t 0) 20 12 == 0 && (t.drop 1).all fun w => fld w 13 19 == 0) &&
      (ws.all fun w => inR 1 15 w.steps.length && (w.steps.all fun x => decide (x.1 ≤ 2) && inR 1 2000 x.2) && w.phase 1 == w.phase 2) then
    some ws
  else none

/-! ### The image (R600) -/

/-- What a configuration image puts in force. -/
structure ConfigImg where
  /-- profiles with their CRCs -/
  profiles : List (Profile × BitVec 32)
  /-- safety section -/
  safety : SafetySec
  /-- share records -/
  shares : List ShareRec
  /-- legal section -/
  legal : LegalSec
  /-- tariff section -/
  tariff : Tariff
  /-- local-time table -/
  locals : List LocalEntry
  /-- recorder section -/
  recorder : List Selection × List (BitVec 16 × Nat)
  /-- display waveforms -/
  waves : List WaveTable

/-- The directory: TYPE, OFFSET, LENGTH and CRC of each entry in use. -/
def directory (body : List Byte) : List (Nat × Nat × Nat × Word) :=
  ((pieces 4 (bytesWords (body.take 256))).map fun e => (fld (wAt e 0) 0 8, (wAt e 1).toNat, (wAt e 2).toNat, wAt e 3)).filter fun e => e.1 != 0

/-- The directory's own rules: no reserved bits, known types, each at most once, sections inside the body with their CRCs. OFFSET
counts from the start of the body (DEDUCED, log 73). -/
def directoryOk (body : List Byte) : Bool :=
  let d := directory body
  ((pieces 4 (bytesWords (body.take 256))).all fun e => fld (wAt e 0) 8 24 == 0) && decide (d.map (·.1)).Nodup &&
    d.all fun (e : Nat × Nat × Nat × Word) => decide (e.1 ≤ 8) && decide (e.2.1 + e.2.2.1 ≤ body.length) &&
      crc32 ((body.drop e.2.1).take e.2.2.1) == e.2.2.2

/-- The bytes of a section; none where it is absent. -/
def section_ (body : List Byte) (t : Nat) : Option (List Byte) :=
  ((directory body).find? fun e => e.1 == t).map fun (e : Nat × Nat × Nat × Word) => (body.drop e.2.1).take e.2.2.1

/-- A section that may be absent: its default, or its own checks. -/
def optSection {α : Type} (body : List Byte) (t : Nat) (dflt : α) (f : List Byte → Option α) : Option α :=
  match section_ body t with | none => some dflt | some l => f l

/-- A configuration image, where every section check holds (cause 1 of R601 otherwise). -/
def parseConfig (body : List Byte) : Option ConfigImg :=
  if !directoryOk body then none
  else match section_ body 1, section_ body 2, section_ body 4 with
  | some b1, some b2, some b4 =>
    match (if b1.length ≤ 262144 then parseProfiles 32 (bytesWords b1) else none), parseLegalSec (bytesWords b4) with
    | some ps, some legal =>
      match parseSafetySec (bytesWords b2) ps, optSection body 3 (ps.map fun p => shareDefault p.1) (fun l => parseShareSec (bytesWords l) ps),
        optSection body 5 tariffDefault (fun l => parseTariff (bytesWords l)), optSection body 6 [⟨0, 0, false⟩] parseLocal,
        optSection body 7 ([], []) parseRecorder, optSection body 8 [] (fun l => parseWaves (bytesWords l)) with
      | some saf, some sh, some tf, some lt, some rc, some wv => some ⟨ps, saf, sh, legal, tf, lt, rc, wv⟩
      | _, _, _, _, _, _ => none
    | _, _ => none
  | _, _, _ => none

end Sys2Proof.Machine
end

