-- ==== Sys2Proof/Machine/Update.lean ====
section
/-! DEFINITION. Firmware update and configuration versions (chapter 21): image blocks and verification, activation, trial, confirmation
and fall-back, configuration activations and the yo-yo, domino propagation, and the start of a service reset. -/

namespace Sys2Proof.Machine

/-! ### The start of a service reset -/

/-- The key engines of the service domain (R540). -/
def serviceEngines : List (Fin 8) := [2, 3, 4, 6, 7]

/-- Frames inside a station are lost in a service reset (R165). -/
def loseInStation (s : State) (o : Fin 128) : State :=
  let n := (s.sta o).inStation.length
  if n = 0 then s else framesLost (s.onSta o fun x => { x with inStation := [] }) o 0 n

/-- A service reset cuts the transaction of an engine as a field collapse (R474). -/
def collapseAt (s : State) (e : Fin 16) : State :=
  match vget s.aut.engines e with | some t => collapseTx s e t | none => s

/-- A service reset begins: runs are abandoned (R330), frames inside the stations are lost (R165), engine transactions collapse (R474),
the display's update is interrupted (R566), frames stop on every lane (R119), the service-domain engines lose their keys (R540), and
the service cores send the load channels no refresh (R557). -/
def beginReset (s : State) : State :=
  let s := s.plc.runs.foldl (fun s r => failRun s r 5) s
  let s := forAll (List.finRange 16) collapseAt (forAll outlets loseInStation s)
  let s := interruptDisplay s
  let s := { s with lanes := vall s.lanes fun x => { x with stopped := true } }
  let s := { s with key := { s.key with engines := serviceEngines.foldl (fun v e => vmod v e fun _ => {}) s.key.engines } }
  let s := { s with lsw := { s.lsw with sources := vmod s.lsw.sources 0 fun x => { x with stoppedAt := some s.now } } }
  { s with glb := { s.glb with phase := .serviceReset } }

/-- The swap of an application switch that is due, and the service reset into the other slot (R592, R595). -/
def appSwitch (s : State) (x : SwitchDue) : State := beginReset (doSwitch s 0 x)

/-- A handover comes first where the device is active and its partner READY. -/
def handsFirst (s : State) : Bool := s.tie.role == .active && s.tie.partnerReady && s.pairLinkUp

/-! ### Image blocks and verification (R588, R590, R605) -/

/-- The bytes a Write image block carries. -/
def writeBlock (c : Cmd) : List Byte := (List.range (c.p 4).toNat).map fun i => c.data.getD i 0

/-- Write image block. -/
def effWriteImageBlock (c : Cmd) (s : State) : State :=
  let t := fld (c.p 0) 0 2
  let k := fin 4 (fld (c.p 0) 2 2)
  let off := (c.p 1).toNat
  let len := (c.p 4).toNat
  if off % 256 ≠ 0 ∨ c.p2 2 % 256 ≠ 0 ∨ len % 256 ≠ 0 ∨ len < 256 ∨ 65536 < len ∨ imageRoom t < off + len then complete s c 0x02
  else if h : t < 3 then
    match s.fwFree ⟨t, h⟩ with
    | some b => complete (s.onFw ⟨t, h⟩ b fun x => x.write off (writeBlock c)) c 0
    | none => complete s c 0x0A
  else if !(s.cfgSlot k).state.writable then complete s c 0x0A
  else
    let was := (s.cfgSlot k).state == .stored
    let s := s.onCfg k fun x => x.write off (writeBlock c)
    complete (if was then tellVersions s else s) c 0

/-- WRITE_IMAGE_BLOCK. -/
def execWriteImageBlock (c : Cmd) (s : State) : Res := .next (cmdStep [0x0E00] effWriteImageBlock c s)

/-- A firmware slot that holds a written image: the one being written first. -/
def State.fwWritten (s : State) (t : Fin 3) : Option (Fin 2) := ((s.fwIn t .writing).or (s.fwIn t .stored)).or (s.fwIn t .bad)

/-- Verify image. -/
def effVerifyImage (c : Cmd) (s : State) : State :=
  let t := fld (c.p 0) 0 2
  let k := fin 4 (fld (c.p 0) 2 2)
  let answer (r : State × Bool) (v : BitVec 32) : State := complete r.1 c (if r.2 then 0 else 0x0A) v
  if h : t < 3 then
    match s.fwWritten ⟨t, h⟩ with
    | some b => answer (verifyFw s ⟨t, h⟩ b (some c)) (imgVersion (s.fwSlot ⟨t, h⟩ b).bytes)
    | none => complete s c 0x0A
  else if (s.cfgSlot k).state == .empty || !(s.cfgSlot k).state.writable then complete s c 0x0A
  else answer (verifyCfg s k (some c)) (imgVersion (s.cfgSlot k).bytes)

/-- VERIFY_IMAGE. -/
def execVerifyImage (c : Cmd) (s : State) : Res := .next (cmdStep [0x0E01] effVerifyImage c s)

/-! ### Firmware activation (R592 to R595, R605) -/

/-- The configuration in force is of a format the new application image reads (R600). -/
def formatOk (s : State) (m : List Host.Cell) : Bool :=
  match s.cfgIn .active with
  | some k =>
    let f := (s.cfgSlot k).format.toNat
    decide (fld (Memory.word m 12) 8 8 ≤ f) && decide (f ≤ imgFormat m)
  | none => true

/-- Every axis is in STO. -/
def allSto (s : State) : Bool := s.saf.axes.toList.all fun a => a.state == .sto

/-- The application's part of Activate firmware: SCOPE = device runs at once on a device that is ALONE or standby; SCOPE = pair
starts the sequence of R593. -/
def activateApp (s : State) (c : Cmd) (b : Fin 2) : State :=
  let slot := s.fwSlot 0 b
  if !formatOk s slot.bytes then complete s c 0x0A
  else if bit (c.p 0) 8 then
    if !handsFirst s || s.upd.pairFw.isSome || decide (slot.version.toNat / 2 ^ 24 ≠ fwMajorOf s) then complete s c 0x0A
    else
      let s := started s c
      toPartner { s with upd := { s.upd with pairFw := some ⟨1, c.ring, c.index, c.tag⟩ } } .fwActivate
  else if s.tie.role = .active then complete s c 0x09
  else if s.tie.role = .joining then complete s c 0x0A
  else beginReset (complete (startTrial s 0 (some c)) c 0)

/-- An island's switch waits for the next commit mark (R592). -/
def islandSwitch (s : State) (c : Cmd) (t : Fin 3) (fallBack : Option Nat) : State :=
  if (vget s.upd.switchDue t).isSome || (t == 2 && !allSto s) then complete s c 0x0A
  else (started s c).onSwitch t (some ⟨fallBack, some (c.ring, c.index)⟩)

/-- Activate firmware. -/
def effActivateFirmware (c : Cmd) (s : State) : State :=
  let t := fld (c.p 0) 0 2
  if h : t < 3 then
    let t : Fin 3 := ⟨t, h⟩
    match s.fwIn t .stored with
    | none => complete s c 0x0A
    | some b =>
      if s.upd.cfgPend.isSome || decide ((s.fwSlot t b).version.toNat < (vget s.upd.floors t).toNat) then complete s c 0x0A
      else if t = 0 then activateApp s c b
      else islandSwitch s c t none
  else complete s c 0x02

/-- ACTIVATE_FIRMWARE. -/
def execActivateFirmware (c : Cmd) (s : State) : Res := .next (cmdStep [0x0E02] effActivateFirmware c s)

/-- Confirm firmware. -/
def effConfirmFirmware (c : Cmd) (s : State) : State :=
  let t := fld (c.p 0) 0 2
  if h : t < 3 then
    if (s.trial ⟨t, h⟩).isNone then complete s c 0x0A
    else complete (s.onTrial ⟨t, h⟩ fun x => x.map fun y => { y with hostOk := true }) c 0
  else complete s c 0x02

/-- CONFIRM_FIRMWARE. -/
def execConfirmFirmware (c : Cmd) (s : State) : Res := .next (cmdStep [0x0E03] effConfirmFirmware c s)

/-- Revert firmware. -/
def effRevertFirmware (c : Cmd) (s : State) : State :=
  let t := fld (c.p 0) 0 2
  if h : t < 3 then
    let t : Fin 3 := ⟨t, h⟩
    match s.fwIn t .active, s.fwIn t .previous with
    | some _, some p =>
      if (s.fwSlot t p).version.toNat < (vget s.upd.floors t).toNat then complete s c 0x0A
      else if t ≠ 0 then islandSwitch s c t (some 4)
      else if (vget s.upd.switchDue 0).isSome then complete s c 0x0A
      else if handsFirst s then
        let s := (started s c).onSwitch 0 (some ⟨some 4, some (c.ring, c.index)⟩)
        { s with tie := { s.tie with handing := true } }
      else beginReset (complete (fallBack s 0 4 (some c)) c 0)
    | _, _ => complete s c 0x0A
  else complete s c 0x02

/-- REVERT_FIRMWARE. -/
def execRevertFirmware (c : Cmd) (s : State) : Res := .next (cmdStep [0x0E04] effRevertFirmware c s)

/-- Whether what the state shows of the conditions of R594 is met. The self-tests and the sentinel injection are what the command's
arrival reports. -/
def trialMet (s : State) (t : Fin 3) (x : Trial) : Bool :=
  !x.failed && (if t = 0 then
      s.glb.phase == .running && s.tie.role != .joining && (s.tie.role != .standby || s.tie.ready) && (x.hostOk || !s.upd.hostConfirm)
    else if t = 1 then decide (3 ≤ x.commits)
    else s.saf.restarting.isNone)

/-- End of CONFIRM_T of a trial. -/
def trialEnd (s : State) (x : Trial) : Nat := x.startAt + s.cfg.confirmT * secNs

/-- TRIAL_CONFIRMED (R594): the clock runs to the end of CONFIRM_T, before which no condition has failed. -/
def execTrialConfirmed (t : Fin 3) (s : State) : Res :=
  .next (match s.trial t with
  | some x => if s.clocksRun && trialMet s t x then confirmTrial (s.toTick (trialEnd s x)) t x else s
  | none => s)

/-- FALL_BACK (R595). -/
def execFallBack (t : Fin 3) (timeout : Bool) (s : State) : Res :=
  .next (match s.trial t with
  | some x =>
    if !s.clocksRun || (timeout && trialMet s t x) then s
    else
      let s := if timeout then s.toTick (trialEnd s x) else s
      let due : SwitchDue := ⟨some (b2n timeout), none⟩
      if t ≠ 0 then s.onSwitch t (some due)
      else if handsFirst s then { s.onSwitch 0 (some due) with tie := { s.tie with handing := true } }
      else appSwitch s due
  | none => s)

/-- Read slots. -/
def effReadSlots (c : Cmd) (s : State) : State :=
  let fw := s.upd.fw.toList.flatMap fun v => v.toList.map fun x => x.state.code
  let st := fw ++ s.upd.cfg.toList.map fun x => x.state.code
  complete s c 0 (pack ((List.range 10).map fun i => (3 * i, st.getD i 0)))

/-- READ_SLOTS. -/
def execReadSlots (c : Cmd) (s : State) : Res := .next (cmdStep [0x0E0A] effReadSlots c s)

/-! ### Recovery (R597) -/

/-- Recovery mode begins: of the rings only CMD 0, CPL 16 and EVT 32 stay, no frames are sent, and the Recovery event comes first. -/
def enterRecovery (s : State) (cause : Nat) (by_ : Option Cmd) : State :=
  let s := (List.finRange 57).foldl (fun s r =>
    if r.val = 0 ∨ r.val = 16 ∨ r.val = 32 ∨ !(s.ring r).en then s else (ringDown s r).onRing r fun x => { x with en := false }) s
  let s := { s with upd := { s.upd with recovery := true, recoverDue := false }
                    lanes := vall s.lanes fun x => { x with stopped := true } }
  postDev s 0x0E07 (p8 cause) by_

/-- Enter recovery. -/
def effEnterRecovery (c : Cmd) (s : State) : State :=
  let s := complete s c 0
  if handsFirst s then { s with tie := { s.tie with handing := true }, upd := { s.upd with recoverDue := true } }
  else enterRecovery s 1 (some c)

/-- ENTER_RECOVERY. -/
def execEnterRecovery (c : Cmd) (s : State) : Res := .next (cmdStep [0x0E09] effEnterRecovery c s)

/-! ### Domino (R598, R599) -/

/-- The image a transfer carries. -/
def dominoSource (s : State) (x : DominoTx) : Option (List Host.Cell) :=
  ((List.finRange 2).find? fun b =>
    let y := s.fwSlot x.target b
    y.version == x.version && y.state != .empty && y.state != .writing && y.state != .bad).map fun b => (s.fwSlot x.target b).bytes

/-- The bytes of the next piece: inside its block, at most 1,006, and so many that its frame lasts at most 1 s. -/
def pieceSize (s : State) (pos total : Nat) : Nat :=
  let n := s.node s.upd.dominoNext
  let mode := min n.snrIn n.snrOut
  let top := min (min 1006 (1024 - pos % 1024)) (total - pos)
  (((List.range top).reverse.map (· + 1)).find? fun k => decide (kiteDuration s mode (18 + k) ≤ secNs)).getD 1

/-- The next piece goes out, where the node can be reached. -/
def sendPiece (s : State) : State :=
  match s.upd.dominoTx with
  | none => s
  | some x =>
    match dominoSource s x with
    | none => dominoEvent { s with upd := { s.upd with dominoTx := none, dominoFail := true } } x.target.val x.version s.upd.dominoNext 2
    | some m =>
      if !(s.node s.upd.dominoNext).neighbour then pauseDomino s
      else
        let n := pieceSize s x.pos (imgLength m + 256)
        let s := { s with upd := { s.upd with dominoTx := some { x with piece := n, paused := none } } }
        kiteQueue s 6 2 s.upd.dominoNext false true (p8 x.target.val ++ p8 0 ++ p16 (x.pos / 1024) ++ p16 (x.pos % 1024) ++ p32 x.version.toNat
          ++ Memory.read m 32 8 ++ Memory.read m x.pos n)

/-- The chain goes on from this node, unless it ends here. -/
def startDomino (s : State) (t : Fin 3) (v : BitVec 32) : State :=
  if s.upd.dominoNext = s.kit.nodeId then s
  else sendPiece { s with upd := { s.upd with dominoTx := some ⟨t, v, 0, 0, none⟩ } }

/-- Domino send. -/
def effDominoSend (c : Cmd) (s : State) : State :=
  let t := fld (c.p 0) 0 2
  if h : t < 3 then
    match s.fwIn ⟨t, h⟩ .stored with
    | some b => complete (startDomino s ⟨t, h⟩ (s.fwSlot ⟨t, h⟩ b).version) c 0
    | none => complete s c 0x0A
  else complete s c 0x02

/-- DOMINO_SEND. -/
def execDominoSend (c : Cmd) (s : State) : Res := .next (cmdStep [0x0E08] effDominoSend c s)

/-- DOMINO_RETRY (R599): 60 s after the node was found unreachable. -/
def execDominoRetry (s : State) : Res :=
  .next (match s.upd.dominoTx.bind fun x => x.paused with
  | some t => if kiteSends s then sendPiece (s.toTick (t + 60 * secNs)) else s
  | none => s)

/-- The piece under way has been acknowledged. -/
def pieceSent (s : State) : State :=
  match s.upd.dominoTx with
  | none => s
  | some x =>
    let y := { x with pos := x.pos + x.piece, piece := 0 }
    match dominoSource s x with
    | some m =>
      if imgLength m + 256 ≤ y.pos then
        dominoEvent { s with upd := { s.upd with dominoTx := none } } x.target.val x.version s.upd.dominoNext 1
      else sendPiece { s with upd := { s.upd with dominoTx := some y } }
    | none => sendPiece s

/-- How far the pieces held cover an image from its start; the fuel bounds the pieces used. -/
def covered : Nat → List (Nat × Nat × Nat) → Nat → Nat
  | 0, _, n => n
  | fuel + 1, l, n =>
    match l.find? fun (p : Nat × Nat × Nat) => decide (1024 * p.1 + p.2.1 ≤ n) && decide (n < 1024 * p.1 + p.2.1 + p.2.2) with
    | some p => covered fuel l (1024 * p.1 + p.2.1 + p.2.2)
    | none => n

/-- A node accepts an image (R599). -/
def acceptsDomino (s : State) (t : Fin 3) (v : BitVec 32) : Bool :=
  let held := (List.finRange 2).filter fun b => (s.fwSlot t b).state == .stored || (s.fwSlot t b).state == .active
  s.upd.dominoEn && (held.all fun b => decide ((s.fwSlot t b).version.toNat < v.toNat)) &&
    decide ((vget s.upd.floors t).toNat ≤ v.toNat) && (s.trial t).isNone && (s.fwFree t).isSome

/-- The image is complete: it is verified, copied to every device of the cluster and the partner cluster, and then forwarded. -/
def dominoDone (s : State) (t : Fin 3) (b : Fin 2) (v : BitVec 32) (node : Fin 64) : State :=
  let r := verifyFw { s with upd := { s.upd with dominoRx := none } } t b none
  if r.2 then
    let s := dominoEvent r.1 t.val v node 0
    let all := imgAll (s.fwSlot t b).bytes
    let s := (List.finRange 4).foldl (fun s p => if (vget s.tie.ports p).up then s.send (.tie p (.image t.val all)) else s) s
    startDomino s t v
  else dominoEvent { r.1 with upd := { r.1.upd with dominoFail := true } } t.val v node 3

/-- The fields of a DOMINO payload (R491): target, position in the image, VERSION and HASH64. -/
structure DominoPiece where
  /-- TARGET -/
  target : Nat
  /-- BLOCK -/
  block : Nat
  /-- OFFSET -/
  off : Nat
  /-- VERSION -/
  version : BitVec 32
  /-- HASH64 -/
  hash : BitVec 64
  /-- DATA -/
  data : List Byte
deriving DecidableEq, Repr

/-- A DOMINO payload (R491). -/
def dominoPiece (pay : List Byte) : DominoPiece :=
  ⟨payAt pay 0 1, payAt pay 2 2, payAt pay 4 2, BitVec.ofNat 32 (payAt pay 6 4), BitVec.ofNat 64 (ofBytesBE ((pay.drop 10).take 8)), pay.drop 18⟩

/-- A piece is kept in the slot of its target, and the received pieces are noted (R599). -/
def keepPiece (s : State) (t : Fin 3) (b : Fin 2) (x : DominoPiece) : State :=
  let same := match s.upd.dominoRx with | some y => y.target == t && y.version == x.version && y.hash == x.hash | none => false
  let goes := same && (s.fwSlot t b).state == .writing
  let s := if goes then s else s.onFw t b fun y => { y with state := .writing, bytes := [] }
  let old := if goes then (s.upd.dominoRx.map (·.pieces)).getD [] else []
  let p := (x.block, x.off, x.data.length)
  let s := s.onFw t b fun y => y.write (1024 * x.block + x.off) x.data
  { s with upd := { s.upd with dominoRx := some ⟨t, x.version, x.hash, if old.contains p then old else old ++ [p]⟩ } }

/-- Every byte of the image in a slot has arrived (R598). -/
def dominoWhole (s : State) (t : Fin 3) (b : Fin 2) : Bool :=
  let l := (s.upd.dominoRx.map (·.pieces)).getD []
  let n := covered l.length l 0
  decide (256 ≤ n) && decide (imgLength (s.fwSlot t b).bytes + 256 ≤ n)

/-- A DOMINO frame is delivered (R598, R599): the partner keeps its piece as well, so that a takeover can go on. A refusal is reported
with an image's first piece. -/
def takeDomino (s : State) (node : Fin 64) (pay : List Byte) : State :=
  let x := dominoPiece pay
  if h : x.target < 3 then
    let t : Fin 3 := ⟨x.target, h⟩
    let pos := 1024 * x.block + x.off
    if !acceptsDomino s t x.version || decide (1024 < x.off + x.data.length) || decide (imageRoom x.target < pos + x.data.length) then
      let s := { s with upd := { s.upd with dominoFail := true } }
      if pos = 0 then dominoEvent s t.val x.version node 3 else s
    else match s.fwFree t with
    | none => s
    | some b =>
      let s := keepPiece s t b x
      let s := if mirroring s then s.send (.tie 3 (.dominoPiece pay)) else s
      if dominoWhole s t b then dominoDone s t b x.version node else s
  else s

/-- A piece that the active side has received is kept on the standby (R599). -/
def mirrorPiece (s : State) (pay : List Byte) : State :=
  let x := dominoPiece pay
  if h : x.target < 3 then
    match s.fwFree ⟨x.target, h⟩ with
    | some b => keepPiece s ⟨x.target, h⟩ b x
    | none => s
  else s

/-! ### Configuration (R600 to R604) -/

/-- The loaded versions of a profile that contexts run, by CRC (R602). -/
def runningCrcs (s : State) (id : Fin 32) : List (BitVec 32) :=
  (outlets.filterMap fun o => if (s.ctx o).bound && (s.ctx o).profile == id then (s.ctxProfile o).map (·.crc) else none).dedup

/-- An image would need a third version of a profile (R212, cause 4 of R601). -/
def thirdVersion (s : State) (img : ConfigImg) : Bool :=
  img.profiles.any fun (p : Profile × BitVec 32) => decide (2 < (p.2 :: runningCrcs s p.1.id).dedup.length)

/-- The cause for which an activation is refused (R601); 0 = none. `role` is the ROLE of the command's ring, 0 for an automatic yo-yo,
to which cause 3 does not apply. -/
def configCause (s : State) (m : List Host.Cell) (role : Nat) (yoyo : Bool) : Nat :=
  match parseConfig (imgBody m) with
  | none => 1
  | some img =>
    if img.legal.crc ≠ (s.met.legal.map (·.crc)).getD 0 ∧ role ≠ 4 then 2
    else if img.safety.crc ≠ s.saf.paramCrc && !([0, 2, 4, 5].contains role) then 3
    else if thirdVersion s img then 4
    else if !yoyo && (s.tie.ports.toList.any fun p => p.up && !p.images.contains (imgVersion m, imgHash m)) then 5
    else if (!yoyo && decide ((imgVersion m).toNat ≤ s.upd.cfgHighest.toNat)) || s.upd.cfgPend.isSome then 6
    else 0

/-- The Configuration refused event; a changed legal section counts as tampering (R424). -/
def configRefused (s : State) (v : BitVec 32) (cause : Nat) (by_ : Option Cmd) : State :=
  let s := if cause = 2 then tamper s 9 0 none else s
  postDev s 0x0E05 (p32 v.toNat ++ p8 cause) by_

/-- The first mains-cycle boundary at least 2 ms away (R601). -/
def boundaryAfter (s : State) : Nat := ((s.tim.runMains 200000).mains + 65535) / 65536 * 65536

/-- An accepted activation: the image is PENDING, the mark is set, and the other devices are told. Where no mark is free, nothing pends. -/
def acceptConfig (s : State) (p : CfgPend) (hash : BitVec 256) : State :=
  let s := pendConfig s p
  let m : TieMsg := .config p.mark p.version hash p.source p.yoyo p.auto
  if s.upd.cfgPend.isNone then s
  else (List.finRange 4).foldl (fun s q => if (vget s.tie.ports q).up then s.send (.tie q m) else s) s

/-- Activate configuration. -/
def effActivateConfiguration (c : Cmd) (s : State) : State :=
  let k := fin 4 (fld (c.p 0) 0 2)
  let x := s.cfgSlot k
  if x.state ≠ .stored then complete s c 0x0A
  else
    let cause := configCause s x.bytes (s.roleOf c) false
    if cause ≠ 0 then complete (configRefused s x.version cause (some c)) c 0x0A
    else if !s.markFree then complete (refuseMark s .config) c 0x05
    else
      let n := c.p2 1
      let mark := if n = 0 then boundaryAfter s else n * 65536
      complete (acceptConfig s ⟨mark, k, x.version, 0, false, false⟩ (imgHash x.bytes)) c 0 (BitVec.ofNat 32 (mark / 65536))

/-- The revert version: the largest CFG_HIGHEST among the reachable devices, + 1 (R604). -/
def revertVersion (s : State) : BitVec 32 :=
  BitVec.ofNat 32 ((s.tie.ports.toList.foldl (fun a p => if p.up then max a p.highest.toNat else a) s.upd.cfgHighest.toNat) + 1)

/-- A yo-yo is started, or refused with its cause. -/
def startYoyo (s : State) (k : Fin 4) (role : Nat) (auto : Bool) (by_ : Option Cmd) : State × Bool :=
  let x := s.cfgSlot k
  let cause := configCause s x.bytes role true
  if cause ≠ 0 then (configRefused s x.version cause by_, false)
  else (acceptConfig s ⟨boundaryAfter s, k, revertVersion s, x.version, true, auto⟩ (imgHash x.bytes), true)

/-- Revert configuration. -/
def effRevertConfiguration (c : Cmd) (s : State) : State :=
  match s.cfgIn .previous with
  | none => complete s c 0x0A
  | some k =>
    if !s.markFree then complete (refuseMark s .config) c 0x05
    else
      let r := startYoyo s k (s.roleOf c) false (some c)
      complete r.1 c (if r.2 then 0 else 0x0A)

/-- REVERT_CONFIGURATION. -/
def execRevertConfiguration (c : Cmd) (s : State) : Res := .next (cmdStep [0x0E07] effRevertConfiguration c s)

/-- Confirm configuration. -/
def effConfirmConfiguration (c : Cmd) (s : State) : State :=
  if s.upd.awaiting.isNone then complete s c 0x0A else complete { s with upd := { s.upd with awaiting := none } } c 0

/-- CONFIRM_CONFIGURATION. -/
def execConfirmConfiguration (c : Cmd) (s : State) : Res := .next (cmdStep [0x0E06] effConfirmConfiguration c s)

/-- AUTOMATIC_YO_YO (R604): CFG_CONFIRM_T has passed without a confirmation. With no PREVIOUS image there is nothing to return to. -/
def execAutomaticYoYo (s : State) : Res :=
  .next (match s.upd.awaiting with
  | none => s
  | some t =>
    if !seqOn s then s
    else
      let s := s.toTick (t + s.upd.cfgConfirmT * secNs)
      let s := { s with upd := { s.upd with awaiting := none } }
      match s.cfgIn .previous with
      | some k => (startYoyo s k 0 true none).1
      | none => s)

/-! ### What an image puts in force -/

/-- The profiles of an image become the active version; what contexts still run stays beside it (R212). -/
def putProfiles (s : State) (img : ConfigImg) (version : Nat) : State :=
  let new : List LoadedProfile := ((img.profiles.zip img.safety.recs).zip img.shares).map
    fun (x : ((Profile × BitVec 32) × SafetyRec) × ShareRec) => ⟨version, x.1.1.1, x.1.2, x.2, false, false, x.1.1.2, true⟩
  let used := s.seq.profiles.filter fun p => p.version != version && outlets.any fun o =>
    (s.ctx o).bound && (s.ctx o).profile == p.prof.id && (s.ctx o).version == p.version
  { s with seq := { s.seq with profiles := (used.map fun p => { p with active := false }) ++ new } }

/-- A context that holds no loaded version takes the new one at INITIAL, and one that R232 stopped enters INITIAL of it. -/
def restartCtx (s : State) (o : Fin 128) (version : Nat) : State :=
  let c := s.ctx o
  match s.activeProfile c.profile with
  | none => s
  | some p =>
    if !c.bound then s
    else if c.stopped then
      let s := s.onCtx o fun c => { c with stopped := false }
      writeJournal (if c.enabled && !c.waiting then enterInitial o none s else s) o
    else if (s.ctxProfile o).isNone then writeJournal (s.onCtx o fun c => { c with version := version, state := p.prof.initial }) o
    else s

/-- The safety section (R276): input, axis and binding records only where their pairs and axes are open or in STO. -/
def putSafety (s : State) (x : SafetySec) : State :=
  let open_ (k : Nat) : Bool := !(vget s.saf.pairs (fin 32 k)).closed
  let sto (k : Fin 16) : Bool := (vget s.saf.axes k).state == .sto
  let free (b : BindRec) : Bool := ((List.range 32).all fun k => !b.estopMask.getLsbD k || open_ k) && (!b.axisEn || sto b.axis)
  let inputs := Vector.ofFn fun (k : Fin 32) => if open_ k.val then x.inputs.getD k.val (vget s.saf.inputs k) else vget s.saf.inputs k
  let axes := Vector.ofFn fun (k : Fin 16) => if sto k then x.axes.getD k.val (vget s.saf.axisRecs k) else vget s.saf.axisRecs k
  let binds := Vector.ofFn fun (o : Fin 128) =>
    let old := vget s.saf.binds o
    let new := x.binds.getD o.val old
    if free old && free new then new else old
  { s with saf := { s.saf with paramCrc := x.crc, inputs := inputs, axisRecs := axes, binds := binds } }

/-- A changed legal section (R350, R388, R414): sessions and periods carry LEGAL_CHANGED, and the balance window is not valid. An outlet
takes its records at its next boundary. -/
def putLegal (s : State) (x : LegalSec) : State :=
  let old := (s.met.legal.map (·.crc)).getD 0
  let s := { s with met := { s.met with legal := some x } }
  if old = x.crc then s
  else
    let s := postDev s 0x0507 (p32 old.toNat ++ p32 x.crc.toNat ++ p32 s.upd.cfgActive.toNat)
    let s := flagAll { s with enr := { s.enr with balInvalid := true } } 0x1000
    s.onEpd fun e => { e with redrawDue := true }

/-- The sections that take effect at once at the mark (R83, R406, R442, R561). -/
def putRest (s : State) (img : ConfigImg) : State :=
  checkLocalEnd { s with
    bil := { s.bil with tariff := img.tariff }
    tim := { s.tim with localTab := img.locals, localEndPosted := false }
    recd := { s.recd with selections := img.recorder.1, triggers := img.recorder.2 }
    epd := { s.epd with waves := img.waves } }

/-- Everything an image holds is put in force under a version. -/
def putImage (s : State) (img : ConfigImg) (version : Nat) : State :=
  let s := putProfiles s img version
  let s := putRest (putLegal (putSafety s img.safety) img.legal) img
  forAll outlets (fun s o => restartCtx s o version) s

/-- The slots after an activation (R601, R604): a yo-yo swaps ACTIVE and PREVIOUS; otherwise PENDING becomes ACTIVE, ACTIVE becomes
PREVIOUS, and a former PREVIOUS is STORED again. -/
def turnSlots (s : State) (p : CfgPend) : State :=
  { s with upd := { s.upd with cfg := Vector.ofFn fun k =>
    let x := vget s.upd.cfg k
    if k = p.slot then { x with state := .active }
    else if x.state = .active then { x with state := .previous }
    else if x.state = .previous ∧ !p.yoyo then { x with state := .stored } else x } }

/-- The image of a pending activation becomes ACTIVE. -/
def activateConfig (s : State) (p : CfgPend) (late : Bool) : State :=
  let s := { s with upd := { s.upd with cfgPend := none } }
  match parseConfig (imgBody (s.cfgSlot p.slot).bytes) with
  | none => s.onCfg p.slot fun x => { x with state := .bad }
  | some img =>
    let old := s.upd.cfgActive
    let s := turnSlots s p
    let wait := if p.yoyo || s.upd.cfgConfirmT == 0 then none else some s.now
    let s := { s with upd := { s.upd with
      cfgActive := p.version, cfgHighest := p.version, cfgRevert := p.source, awaiting := wait } }
    let s := postDev s 0x0E04 (p32 old.toNat ++ p32 p.version.toNat ++ p32 p.source.toNat ++ p8 (b2n p.yoyo + 2 * b2n p.auto + 4 * b2n late))
    tellVersions (putImage s img p.version.toNat)

/-- The mark of a pending activation fires (R601, R603): the clock runs to the mark. In a service reset it waits for the reset's end. -/
def configFires (s : State) : State :=
  match s.upd.cfgPend with
  | some p =>
    if s.glb.phase != .running then s
    else match s.tim.marks.find? fun m => m.owner == .config with
      | some m => activateConfig ((s.toMains m.value).dropMark .config m.ref) p m.late
      | none => s
  | none => s

/-! ### Registers (R607) -/

/-- A write of a register of the UPD block. -/
def writeUpd (s : State) (off : Nat) (v : Word) : State :=
  let u := s.upd
  if off = 0 then
    let t := fld v 0 12
    if 10 ≤ t ∧ t ≤ 3600 then { s with
      cfg := { s.cfg with confirmT := t }
      upd := { u with hostConfirm := bit v 12, dominoEn := bit v 13, dominoNext := fin 64 (fld v 16 6) } }
    else s
  else if off = 4 then { s with upd := { u with
    fellBack := u.fellBack && !bit v 16, verifyFail := u.verifyFail && !bit v 17, dominoFail := u.dominoFail && !bit v 18 } }
  else if off = 0x1014 then { s with upd := { u with cfgConfirmT := fld v 0 16 } }
  else s

end Sys2Proof.Machine
end

