-- ==== Sys2Proof/Machine/TieRows.lean ====
section
/-! DEFINITION. What a tie frame does (R508, R515), the pair activation of R593, and the handover with what follows it (R530, R527,
R595, R597). -/

namespace Sys2Proof.Machine

/-! ### The pair activation (R593) -/

/-- Change the pair activation under way. -/
def State.onPairFw (s : State) (x : Option PairFw) : State := { s with upd := { s.upd with pairFw := x } }

/-- The partner's order to activate: the standby starts its trial with a service reset, or answers that it cannot. -/
def takeFwActivate (s : State) : State :=
  match s.fwIn 0 .stored with
  | some b =>
    if s.tie.role == .standby && formatOk s (s.fwSlot 0 b).bytes && decide ((vget s.upd.floors 0).toNat ≤ (s.fwSlot 0 b).version.toNat) then
      beginReset (startTrial s 0 none)
    else toPartner s (.fwResult false 0)
  | none => toPartner s (.fwResult false 0)

/-- A completion of a command this device holds for its partner: it is written on the command's CPL ring. -/
def completeFor (s : State) (x : PairFw) (status : BitVec 8) (result : BitVec 32) : State :=
  let c : Completion := { cmdIndex := x.index.truncate 16, status := status, late := false, tag := x.tag, result := result,
                          lastGseq := none, replay := true, irq := false }
  openRing (s.onRing (cplRing x.ring) fun y => { y with cplHeld := y.cplHeld ++ [c] }) (cplRing x.ring)

/-- The partner's application trial has ended (R593). -/
def takeFwResult (s : State) (ok : Bool) (v : BitVec 32) : State :=
  match s.upd.pairFw with
  | some x =>
    if x.step = 1 then
      if ok then { s.onPairFw (some { x with step := 2 }) with tie := { s.tie with handing := true } }
      else completeKey (s.onPairFw none) x.ring x.index 0x0A
    else if x.step = 4 then completeFor (s.onPairFw none) x (if ok then 0 else 0x0A) (if ok then v else 0x80000000)
    else s
  | none => s

/-- The partner hands over the command of its pair activation. -/
def takeFwPair (s : State) (ring : Nat) (index tag : BitVec 32) : State :=
  let r := fin 16 ring
  { s.onPairFw (some ⟨4, r, index, tag⟩) with
    tie := { s.tie with mirrorCmds := s.tie.mirrorCmds.filter fun x => !(x.1 == r && x.2.1 == index) } }

/-! ### Tie frames -/

/-- What a tie frame carries. -/
def takeAny (s : State) (p : Fin 4) (m : TieMsg) : State :=
  match m with
  | .fwActivate => if p = 3 then takeFwActivate s else s
  | .dominoPiece pay => if p = 3 && s.tie.role == .standby then mirrorPiece s pay else s
  | .fwResult ok v => if p = 3 then takeFwResult s ok v else s
  | .fwPair ring index tag => if p = 3 then takeFwPair s ring index tag else s
  | _ => takeTie s p m

/-- A tie frame arrives; `retries` is how often the port has retransmitted since the frame before (R508, class 8 of R528). -/
def tieFrame (p : Fin 4) (retries : Nat) (m : TieMsg) (s : State) : State :=
  if !s.clocksRun || !(vget s.tie.ports p).up then s
  else
    let s := (s.count 7 0x12 retries).onTiePort p fun x => { x with retry := x.retry + BitVec.ofNat 32 retries }
    let was := s.lastingAt 8 p.val
    let s := Nat.repeat (fun s => tally s 8 p.val) retries s
    if s.lastingAt 8 p.val && !was then portDown s p else takeAny s p m

/-! ### Handover (R530) -/

/-- The command of a switch that waits for the handover completes with it. -/
def completeSwitch (s : State) : State :=
  match vget s.upd.switchDue 0 with
  | some ⟨f, some k⟩ => completeKey (s.onSwitch 0 (some ⟨f, none⟩)) k.1 k.2 0
  | _ => s

/-- What the handover was made for follows: this device's own activation (R593), its fall-back (R595), recovery (R597), or the service
reset of a service-core fault (R527). -/
def afterHandover (s : State) : State :=
  let reset := s.tie.resetDue
  let s := { s with tie := { s.tie with resetDue := false } }
  match vget s.upd.switchDue 0, s.upd.pairFw with
  | some x, _ => appSwitch s x
  | none, some x => if x.step = 3 then beginReset (startTrial (s.onPairFw none) 0 none) else s
  | none, none => if s.upd.recoverDue then enterRecovery s 1 none else if reset then beginReset s else s

/-- The Hand over command completes. -/
def completeHand (s : State) (st : BitVec 8) : State :=
  match s.tie.handCmd with
  | some k => completeKey { s with tie := { s.tie with handCmd := none } } k.1 k.2 st
  | none => s

/-- A handover to a partner that is not READY is refused, and the role stays; what does not depend on it goes on. -/
def refuseHandover (s : State) : State :=
  let s := completeHand s 0x0A
  let s := match s.upd.pairFw with
    | some x => if x.step = 2 then completeKey (s.onPairFw none) x.ring x.index 0x0A else s
    | none => s
  afterHandover (completeSwitch s)

/-- The command of a pair activation goes to the partner with the handover. -/
def handPairFw (s : State) : State :=
  match s.upd.pairFw with
  | some x => if x.step = 2 then (toPartner s (.fwPair x.ring.val x.index x.tag)).onPairFw (some { x with step := 3 }) else s
  | none => s

/-- The commands in flight on the rings that go over are the partner's to complete (R165, R525); those of local rings stay (R520). -/
def handCommands (s : State) : State :=
  let stays (r : Fin 16) : Bool := s.tie.stbyRings.getLsbD r.val
  let s := { s with rng := { s.rng with cmds := s.rng.cmds.filter fun r => stays r.cmd.ring }
                    tim := { s.tim with marks := s.tim.marks.filter fun m => m.owner != .sequencer || stays (fin 16 m.ref) } }
  forAll (List.finRange 16) (fun s r => if stays r then s else s.onRing (cplRing r) fun x => { x with reserved := 0 }) s

/-- HANDOVER: a handover that has been started runs; without a READY standby it is refused. -/
def execHandover (s : State) : Res :=
  .next (if !s.tie.handing then s
  else
    let s := { s with tie := { s.tie with handing := false } }
    if s.tie.role != .active || !s.tie.partnerReady || !s.pairLinkUp then refuseHandover s
    else
      let s := toPartner (handPairFw (completeSwitch s)) .handover
      let s := completeHand (forAll outlets (fun s l => if (s.lane l).link == .up then setLink s l .listen else s) s) 0
      let s := handCommands { s with tie := { s.tie with ready := true, partnerReady := false, partnerRole := .active, lastBeat := s.now } }
      afterHandover (setRole s .standby 2))

end Sys2Proof.Machine
end

