-- ==== Sys2Proof/Machine/KiteRows.lean ====
section
/-! DEFINITION. What a received Kite frame does (R489 to R504). -/

namespace Sys2Proof.Machine

/-- The Security event, with its count (R490, R493): an unknown TYPE sets no SEC_FAIL. -/
def kiteSecurity (s : State) (f : KiteFrame) (cause : Nat) : State :=
  let s := { s with kit := { s.kit with secDrop := s.kit.secDrop + 1, secFail := s.kit.secFail || decide (cause < 2) } }
  postDev s 0x0904 (p8 cause ++ p8 f.tx.val ++ leBytes 8 f.serial.toNat)

/-- The FCNT of a frame is higher than every one accepted of its TX_SERIAL (R493). -/
def fcntNew (s : State) (f : KiteFrame) : Bool :=
  match s.kit.seen.find? fun x => x.1 == f.serial with
  | some x => decide (x.2.toNat < f.fcnt.toNat)
  | none => true

/-- The FCNT is kept, for up to 128 serials, the last heard first. -/
def noteFcnt (s : State) (f : KiteFrame) : State :=
  { s with kit := { s.kit with seen := ((f.serial, f.fcnt) :: s.kit.seen.filter fun x => x.1 != f.serial).take 128 } }

/-- A node conflict (R504). -/
def nodeConflict (s : State) (n : Fin 64) (other : BitVec 64) : State :=
  postDev { s with kit := { s.kit with conflictSeen := true } } 0x0907 (p8 n.val ++ leBytes 8 other.toNat)

/-- Which serial stands behind a node (R504). -/
def noteSerial (s : State) (f : KiteFrame) : State :=
  let x := s.node f.tx
  if !x.neighbour then
    neighbourEvent (s.onNode f.tx fun x => { x with neighbour := true, serial := f.serial, newSerial := none, lastAt := s.now }) f.tx 0
  else if x.serial = f.serial then
    let s := match x.newSerial with
      | some (other, t) => if s.now ≤ t + secNs then nodeConflict s f.tx other else s
      | none => s
    s.onNode f.tx fun x => { x with lastAt := s.now, newSerial := none }
  else if s.now ≤ x.lastAt + secNs then nodeConflict s f.tx f.serial
  else s.onNode f.tx fun x => { x with newSerial := match x.newSerial with
    | some (other, t) => if other = f.serial then some (other, t) else some (f.serial, s.now)
    | none => some (f.serial, s.now) }

/-- The phase class of a neighbour (R499): eight frames in a row in one window, or in none, while this node is LOCKED. -/
def notePhase (s : State) (f : KiteFrame) (angle : BitVec 16) : State :=
  if s.tim.mainsState != .locked then s
  else
    let k : BitVec 2 := if f.locked then angleClass (angle - BitVec.ofNat 16 f.mains).toNat else 0
    let x := s.node f.tx
    let n := if x.clsCand = k then min 8 (x.clsCount + 1) else 1
    let s := s.onNode f.tx fun x => { x with clsCand := k, clsCount := n }
    if n = 8 ∧ x.cls ≠ k then
      settleRotation (postDev (s.onNode f.tx fun x => { x with cls := k }) 0x0905 (p8 f.tx.val ++ p8 x.cls.toNat ++ p8 k.toNat))
    else s

/-- A HELLO (R491, R494). -/
def takeHello (s : State) (f : KiteFrame) : State :=
  let p := f.payload
  let b := payAt p 0 1
  let nb := payAt p 1 1
  let rt := payAt p 2 1
  let ns := (List.range nb).map fun i => (payAt p (4 + 2 * i) 1, payAt p (5 + 2 * i) 1)
  let rs := (List.range rt).map fun j => (payAt p (4 + 2 * nb + 2 * j) 1, payAt p (5 + 2 * nb + 2 * j) 1)
  let out := ((ns.find? fun x => x.1 == s.kit.nodeId.val).map (·.2)).getD 0
  reroute (s.onNode f.tx fun x => { x with
    rotation := BitVec.ofNat 2 b, master := b.testBit 6, snrOut := out % 4
    routes := (rs.filter fun x => decide (x.1 < 64) && decide (x.2 ≤ 120)).map fun x => (fin 64 x.1, x.2) })

/-- An ACK (R488): the frame it answers leaves the outbox; an acknowledged domino piece is followed by the next. -/
def takeAck (s : State) (f : KiteFrame) : State :=
  let n := payAt f.payload 0 5
  match s.kit.outbox.find? fun x => x.sentAt.isSome && x.frame.rx == f.tx && x.frame.fcnt.toNat == n with
  | some x =>
    let s := gotAck (s.onOutbox fun l => l.filter fun y => y != x) f.tx (payAt f.payload 5 1 % 4)
    if x.frame.typ = 6 then pieceSent s else s
  | none => s

/-- TIME (R502): accepted from a neighbour while legal time is not SYNCED. -/
def takeTime (s : State) (f : KiteFrame) (t : Nat) : State :=
  if (s.node f.tx).neighbour && s.tim.legalState != .synced then syncLegal s (payAt f.payload 0 8) t 1 else s

/-- Four amounts of a payload: three phases of 32 bits at one place, the power of 64 bits at another. -/
def payLimits (p : List Byte) (i j : Nat) : Limits := limsOf [payAt p i 4, payAt p (i + 4) 4, payAt p (i + 8) 4, payAt p j 8]

/-- The answer to a probe (R505). -/
def takeEcho (s : State) (p : List Byte) : State :=
  let tok := payAt p 0 4
  let ms := min 65535 ((s.now - payAt p 4 8) / msNs)
  let hit := s.kit.probes.filter fun x => x.1.toNat == tok
  hit.foldl (fun s x => completeKey s x.2.2.1 x.2.2.2.1 0 (pack [(0, ms), (16, payAt p 12 1 % 128)]))
    { s with kit := { s.kit with probes := s.kit.probes.filter fun x => x.1.toNat != tok } }

/-- What a unicast frame delivered to its DEST does, by its TYPE. -/
def deliverKite (s : State) (f : KiteFrame) : State :=
  let p := f.payload
  match f.typ.toNat with
  | 4 => if s.shr.kiteMaster then noteReport s f.orig (payAt p 0 1) (payLimits p 8 44, payLimits p 20 52, payLimits p 32 60) else s
  | 5 =>
    let g := payLimits p 8 20
    postDev { s with shr := { s.shr with kitePending := some g } } 0x0303 (p8 0 ++ p64 g.power)
  | 6 => takeDomino s f.tx p
  | 7 => kiteQueue s 8 1 f.orig false false (p.take 12 ++ p8 (s.node f.orig).routeCost)
  | 8 => takeEcho s p
  | _ => s

/-- A unicast frame for this node (R498): acknowledged, and delivered once, or forwarded. -/
def takeUnicast (s : State) (f : KiteFrame) (snr : Nat) (ack : Bool) : State :=
  let s := if ack && f.ackReq then sendAck s f snr else s
  if f.dest = s.kit.nodeId then
    if (s.node f.orig).seqs.contains f.seq then s
    else
      let s := s.onNode f.orig fun x => { x with seqs := (f.seq :: x.seqs).take 32 }
      wake (deliverKite s f) 8 f.orig.val
  else if f.hops = 0 then s
  else s.onOutbox fun l => l ++ [⟨{ f with hops := f.hops - 1 }, 0, none⟩]

/-- A frame that has passed every check is served. -/
def serveKite (s : State) (r : KiteIn) (ack : Bool) : State :=
  let f := r.f
  let s := { s with kit := { s.kit with rxCount := s.kit.rxCount + 1 } }
  if f.tx = s.kit.nodeId then
    if f.serial = s.keep.serial ∨ f.serial = s.tie.partner then s
    else
      let s := nodeConflict s f.tx f.serial
      if f.serial.toNat < s.keep.serial.toNat then { s with kit := { s.kit with conflict := true } } else s
  else
    let s := (noteSerial s f).onNode f.tx fun x => { x with snrIn := r.snr % 4 }
    let s := reroute (notePhase s f r.angle)
    match f.typ.toNat with
    | 1 => takeHello s f
    | 3 => takeTime s f r.at_
    | 2 => if f.rx = s.kit.nodeId then takeAck s f else s
    | _ => if f.rx = s.kit.nodeId && !f.bcast && s.kiteActive then takeUnicast s f r.snr ack else s

/-- A frame waits in the staging of queue 288 until the service reset ends (R174, R503). -/
def stageKite (s : State) (r : KiteIn) : State :=
  let x := (s.poolQ 288).offer 2048 (Packet.plain r.f.bytes s.tim.mains)
  let s := s.onQ 288 fun _ => x.1
  if x.2 then { s with kit := { s.kit with inbox := s.kit.inbox ++ [r] } } else s

/-- The CRC of a frame passes (R489); a frame shorter than its fields, or whose LEN is above 1,024 or runs past its end, counts as one
with a failed CRC (DESIGN CHOICE, log 151). -/
def kiteSound (b : List Byte) : Bool :=
  let n := ofBytes ((b.drop 8).take 2)
  decide (n ≤ 1024) && b.length == 43 + n && crc32 (b.take (39 + n)) == BitVec.ofNat 32 (ofBytes (b.drop (39 + n)))

/-- Open a sealed frame under a key (R492): the frame with its payload in plain, where the MIC passes. -/
def openKite (k : BitVec 128) (b : List Byte) : Option KiteFrame :=
  let f := KiteFrame.parse b
  let p := ccmCrypt k f.nonce f.payload
  if ccmMic k f.nonce (b.take 31) p = (b.drop (31 + f.payload.length)).take 8 then some { f with payload := p } else none

/-- Try the selected slot first and then the other (R492); the flag says that a key could be used at all. -/
def tryKeys (s : State) (b : List Byte) : Option KiteFrame × Bool × State :=
  (kiteSlots s).foldl (fun (a : Option KiteFrame × Bool × State) slot => match a.1 with
    | some _ => a
    | none =>
      let r := useKey a.2.2 slot
      match r.1 with
      | some m => (openKite (block128 m) b, true, r.2)
      | none => (none, a.2.1, r.2)) (none, false, s)

/-- A frame whose MIC passed: its FCNT, TYPE and length (R490, R491, R493). -/
def checkedKite (s : State) (r : KiteIn) : State :=
  let f := r.f
  if !fcntNew s f then kiteSecurity s f 1
  else
    let s := noteFcnt s f
    if f.typ = 0 ∨ 8 < f.typ.toNat then kiteSecurity s f 2
    else if !f.longEnough then { s with kit := { s.kit with secDrop := s.kit.secDrop + 1 } }
    else if s.glb.phase == .running then serveKite s r true
    else stageKite s r

/-- The checks of a frame, in their order: CRC, MIC, FCNT, TYPE, length (R489 to R493). With neither key usable every frame is
discarded (R538). -/
def takeKite (s : State) (r : KiteRx) : State :=
  let s := { s with kit := { s.kit with idleAt := s.now } }
  if !kiteSound r.bytes then { s with kit := { s.kit with noiseDrop := s.kit.noiseDrop + 1 } }
  else
    let k := tryKeys s r.bytes
    match k.1 with
    | some f => checkedKite k.2.2 ⟨f, r.snr, r.angle, r.at_⟩
    | none => if k.2.1 then kiteSecurity k.2.2 (KiteFrame.parse r.bytes) 0 else k.2.2

/-- KITE_FRAME_RECEIVED. -/
def execKiteFrameReceived (r : KiteRx) (s : State) : Res := .next (if kiteHears s then takeKite s r else s)

end Sys2Proof.Machine
end

