-- ==== Sys2Proof/Machine/Service.lean ====
section
/-! DEFINITION. The service reset (R119, R165, R527) with its end, and memory errors (R181, R528). -/

namespace Sys2Proof.Machine

/-! ### The end of a service reset -/

/-- Commands in flight at a service reset (R165, R229): a Signal whose transition was taken completes with 0x00, every other command
whose effect has not been made with 0x06. -/
def abortCommands (s : State) : State :=
  let taken := outlets.flatMap fun o => (s.ctx o).awaitApply
  s.rng.cmds.foldl (fun s r =>
    match r.phase with
    | .done _ _ _ => s
    | _ => match taken.find? fun w => w.ring == r.cmd.ring && w.index == r.cmd.index with
      | some w => complete s r.cmd 0 w.result
      | none => complete (s.dropMark .sequencer (r.cmd.ring.val + 16 * r.cmd.index.toNat)) r.cmd 0x06) s

/-- What the aborted commands had outstanding in the service domain goes with them. The packets in the transmit queues of the field-bus ports
stay, and go on the line (R180), although their commands have been completed. -/
def dropOutstanding (s : State) : State :=
  let s := forAll (List.finRange 12) (fun s p => s.onPort p fun x => { x with reads := [] }) s
  { s with kit := { s.kit with probes := [] } }

/-- Step 2 of R119 on one lane: frames may be sent again, and the context reloads its journal record. The next frame of a lane that is
UP or in SLACK carries HOLD = 1, and the context is re-adopted after it. -/
def resumeLane (s : State) (l : Fin 128) : State :=
  let k := (s.lane l).link
  let s := s.onLane l fun x => { x with stopped := false, hold := k == .up || k == .slack }
  if k = .listen then s else reloadCtx s l

/-- A configuration mark that fell in the reset applies at the first mains-cycle boundary after it (R603). -/
def lateConfig (s : State) : State :=
  { s with tim := { s.tim with marks := s.tim.marks.map fun m =>
    if m.owner = .config ∧ m.value ≤ s.tim.mains then { m with value := (s.tim.mains / 65536 + 1) * 65536, late := true } else m } }

/-- Recovery mode is left through a service reset into an application slot that can run (R597). -/
def leaveRecovery (s : State) : State :=
  if s.upd.recovery && ((s.fwIn 0 .trial).isSome || (s.fwIn 0 .active).isSome) then { s with upd := { s.upd with recovery := false } } else s

/-- Kite frames staged in the reset are served, without ACKs (R503). -/
def serveInbox (s : State) : State :=
  let l := s.kit.inbox
  let s := { s with kit := { s.kit with inbox := [] } }.onQ 288 fun q => { q with packets := [], staging := [] }.settle
  l.foldl (fun s r => serveKite s r false) s

/-- A standby whose service cores restart joins its partner again (R527, R529: DEDUCED for JOINING, log 74). -/
def rejoin (s : State) : State :=
  if s.tie.role = .standby then
    setRole { s with tie := { s.tie with ready := false, joinAt := s.now } } .joining 0
  else s

/-- A service reset ends. -/
def endReset (s : State) : State :=
  let s := { s with glb := { s.glb with phase := .running }
                    lsw := { s.lsw with sources := vmod s.lsw.sources 0 fun x => { x with stoppedAt := none } }
                    shr := { s.shr with snapPending := false, allocDone := false } }
  let s := leaveRecovery (dropOutstanding (abortCommands s))
  let s := if s.upd.recovery then s else forAll outlets resumeLane s
  let s := (lateConfig s).onTrial 0 fun t => t.map fun x => { x with startAt := s.now }
  let s := rejoin (resumeDisplay s)
  let s := serveInbox (forAll (List.finRange 12) serve s)
  drainAll (replayWake s)

/-- What starts at a service reset: the fault is counted, an active device with a READY partner hands over first (R527), and a switch
that waits for the reset is made with it. -/
def startReset (s : State) (fault : Bool) : State :=
  let s := if fault then tally s 13 0 else s
  if handsFirst s then { s with tie := { s.tie with handing := true, resetDue := true } }
  else match vget s.upd.switchDue 0 with
  | some x => appSwitch s x
  | none => beginReset s

/-- SERVICE_RESET. While class 13 is lasting, the device stays in service reset until power-on reset (R528). -/
def execServiceReset (fault : Bool) (s : State) : Res :=
  .next (match s.glb.phase with
  | .running => startReset s fault
  | .serviceReset => if s.tie.heldReset then s else endReset s
  | _ => s)

/-! ### Memory errors -/

/-- An event lost from the backlog to a memory error (R181): it is folded, and its summary stands where it stood, among the events of its
scope that go on waiting. -/
def loseWaiting (s : State) (e : Event) : State :=
  let ahead := (s.rng.backlog.filter fun b => b.outlet == e.outlet && decide (b.ident < e.ident)).length
  let s := { s with rng := { s.rng with
    backlog := s.rng.backlog.filter fun b => b.ident != e.ident
    lostSums := s.rng.lostSums.map fun x => if x.outlet = e.outlet ∧ ahead < x.after then { x with after := x.after - 1 } else x } }
  let fresh := !s.rng.lostSums.any fun x => x.outlet == e.outlet
  let s := foldEvt s e
  if fresh then
    { s with rng := { s.rng with lostSums := s.rng.lostSums.map fun x => if x.outlet = e.outlet then { x with after := ahead } else x } }
  else s

/-- Cells of a backlog queue are dropped, each a packet of four events (R172, R181). -/
def loseCells (s : State) (k : Bool) (cells : Nat) : State :=
  let s := ((s.backlogOf k).take (4 * cells)).foldl loseWaiting s
  judgeBacklog { s with rng := { s.rng with backQ := vmod s.rng.backQ (fin 2 (b2n k)) fun b => { b with drops := b.drops + BitVec.ofNat 32 cells } } }

/-- Data was lost on field-bus port `p` (R185): the next packet read carries GAP. -/
def markGap (s : State) (p : Fin 12) : State :=
  match (s.poolQ (portRxQ p)).packets with
  | _ :: _ => s.onQ (portRxQ p) fun q => { q with packets := match q.packets with | x :: t => { x with gap := true } :: t | [] => [] }
  | [] => s.onPort p fun x => { x with gapNext := true }

/-- What the loss of the oldest packet of a queue means to those it came from and was for: a received vehicle frame is reported as lost, a
queued one completes with TX_STATUS 3, a field-bus packet is not read or not sent, a Kite frame is not served or not sent. A Transmit
whose packet is lost completes with outcome 1 and what it has sent (DESIGN CHOICE, log 147). -/
def lostPacket (s : State) (q : Nat) (p : Packet) : State :=
  if q < 128 then framesLost (frxLeft s (fin 128 q)) (fin 128 q) 1 1
  else if q < 256 then ftxDone s p.ring p.index 3 p.irq
  else if h : 264 ≤ q ∧ q < 276 then markGap s ⟨q - 264, by omega⟩
  else if h : 276 ≤ q ∧ q < 288 then
    let k : Fin 12 := ⟨q - 276, by omega⟩
    match (s.port k).txs with
    | t :: _ =>
      let sent := sentBy s k t
      let s := s.onPort k fun x => { x with txs := x.txs.drop 1 }
      runLine (complete (s.send (.serialTx k (t.bytes.take sent))) t.cmd 0 (txResult sent 1)) k
    | [] => s
  else if q = 288 then { s with kit := { s.kit with inbox := s.kit.inbox.drop 1 } }
  else if q = 289 then { s with kit := { s.kit with outbox := s.kit.outbox.drop 1 } }
  else s

/-- The oldest packet of a queue is dropped whole. -/
def dropPacket (s : State) (q : Fin 1024) : State :=
  match backlogNo q.val with
  | some k => if (s.backlogOf k).isEmpty then s else loseCells s k 1
  | none => match (s.poolQ q).packets with
    | p :: _ => lostPacket (s.onQ q PoolQ.dropOne) q.val p
    | [] => s

/-- Every packet of a queue is dropped. -/
def dropQueueAll (s : State) (q : Fin 1024) : State :=
  match backlogNo q.val with
  | some k => loseCells s k (s.backlogCells k)
  | none => Nat.repeat (fun s => dropPacket s q) (s.poolQ q).packets.length s

/-- ECC_ERROR (R181, R528): kind 0 corrected in SRAM, 1 uncorrectable in the payload of a cell of queue `inst`, 2 uncorrectable in a link
entry of queue `inst`, 3 corrected in keeping memory. -/
def execEccError (kind : Fin 4) (inst : Nat) (s : State) : Res :=
  .next (if !s.clocksRun then s
  else match kind.val with
  | 0 => tally s 0 inst
  | 1 => tally (dropPacket { s with mpl := { s.mpl with eccDrop := true } } (fin 1024 inst)) 15 inst
  | 2 => tally (dropQueueAll { s with mpl := { s.mpl with eccDrop := true } } (fin 1024 inst)) 15 inst
  | _ => tally s 1 inst)

end Sys2Proof.Machine
end

