-- ==== Sys2Proof/Machine/Pmc.lean ====
section
/-! DEFINITION. Performance counters (chapter 22): latching, dumps, samples, bandwidth windows, the commands and the registers. -/

namespace Sys2Proof.Machine

/-- Clock edges of a group in 10 ns of tick time (R59, R608). -/
def pmcRate (g : Fin 8) : Nat := [12, 4, 4, 1, 6, 4, 1, 1].getD g.val 1

/-- The event codes of a group that the model counts as they happen; 0x00 counts nothing (R608). -/
def pmcCounted (g : Fin 8) : List Nat :=
  [[0], [0, 0x11, 0x12], [0, 0x10, 0x12], [0, 0x10, 0x11, 0x12, 0x13], [0], [0], [0, 0x10, 0x11, 0x12], [0, 0x12]].getD g.val [0]

/-- A group is brought up to date. What an engine's inner work has counted, which the spec gives no numbers for, is a free value
(log 75). In a service reset the service cores count nothing (R610). -/
def settleGroup (s : State) (g : Fin 8) : State :=
  let x := vget s.pmc.groups g
  let on (s : State) (f : PmcGroup → PmcGroup) : State := { s with pmc := { s.pmc with groups := vmod s.pmc.groups g f } }
  if !x.en then on s fun x => { x with cycAt := s.now }
  else
    let s := on s fun x => { x with cyc := x.cyc + BitVec.ofNat 64 ((s.now - x.cycAt) / 10 * pmcRate g), cycAt := s.now }
    if g = 0 ∧ s.glb.phase ≠ .running then s
    else (List.finRange 8).foldl (fun s k =>
      if (pmcCounted g).contains (vget x.sel k).toNat then s
      else
        let d := s.free
        let n := d.1.toNat % 2 ^ 48
        on d.2 fun x => { x with
          cnt := vmod x.cnt k (· + BitVec.ofNat 48 n)
          ovf := if 2 ^ 48 ≤ (vget x.cnt k).toNat + n then x.ovf ||| (1#8 <<< k.val) else x.ovf }) s

/-- A read of PMC_CYC_LO latches the group (R617). -/
def latchGroup (s : State) (g : Fin 8) : State :=
  let s := settleGroup s g
  { s with pmc := { s.pmc with groups := vmod s.pmc.groups g fun x => { x with latCyc := x.cyc, latCnt := x.cnt } } }

/-- PMC_CYC_READ. -/
def execPmcCycRead (g : Fin 8) (s : State) : Res :=
  .next (viaHost s fun s =>
    if !blockAnswers s 21 then s.send (.readData 0) else
    let s := latchGroup s g
    s.send (.readData (readReg s (0x150000 + 0x1000 + 0x100 * g.val + 8))))

/-! ### The DMP ring (R612 to R614) -/

/-- Free entries of the DMP ring; none while it is disabled, no request may leave (R130, R133), or the device is a standby (R519). -/
def dmpRoom (s : State) : Nat := let x := s.ring 56; if x.en && requestsOn s && !shadowed s 56 then x.size - x.used else 0

/-- Write one entry of the DMP ring. -/
def putDmp (s : State) (w0 seq cyc : Nat) (body : List Nat) : State :=
  let x := s.ring 56
  let half (v : Nat) : List Nat := [v % 2 ^ 32, v / 2 ^ 32 % 2 ^ 32]
  let words := [w0 + 32 * x.phase x.devIdx, seq] ++ half s.now ++ half s.tim.mains ++ half cyc ++ body
  afterEntry (s.writeEntry 56 x.devIdx 0 ((words ++ List.replicate (32 - words.length) 0).map (BitVec.ofNat 32))) 56 false

/-- The groups in a dump, in ascending order. -/
def dumpGroups (s : State) : List (Fin 8) := (List.finRange 8).filter fun g => (vget s.pmc.groups g).dump

/-- One dump: every group is latched at one edge, and one entry written per group (R612, R614). -/
def writeDump (s : State) : State :=
  let gs := dumpGroups s
  let s := gs.foldl settleGroup s
  let no := s.pmc.dumpNo
  let s := gs.foldl (fun s g =>
    let x := vget s.pmc.groups g
    putDmp s (1 + 4 * g.val) no.toNat x.cyc.toNat (x.cnt.toList.flatMap fun c => [c.toNat % 2 ^ 32, c.toNat / 2 ^ 32])) s
  { s with pmc := { s.pmc with dumpNo := no + 1 } }

/-- A dump is skipped and counted; the Dumps skipped event is posted at most once per second (R612, R616). -/
def skipDump (s : State) : State :=
  let p := s.pmc
  let p := { p with skipped := p.skipped + 1, skippedNew := p.skippedNew + 1 }
  match p.lastSkip with
  | some t => if s.now < t + secNs then { s with pmc := p } else
    postDev { s with pmc := { p with lastSkip := some s.now, skippedNew := 0, droppedNew := 0 } } 0x0F00 (p32 p.skippedNew ++ p32 p.droppedNew)
  | none => postDev { s with pmc := { p with lastSkip := some s.now, skippedNew := 0, droppedNew := 0 } } 0x0F00
      (p32 p.skippedNew ++ p32 p.droppedNew)

/-- DUMP (R612): DUMP_MS after the one before; through a service reset too. -/
def execDump (s : State) : Res :=
  .next (if s.clocksRun && s.pmc.dumpEn then
    let s := s.toTick (s.pmc.lastDump + s.pmc.dumpMs * msNs)
    let s := { s with pmc := { s.pmc with lastDump := s.now } }
    if (dumpGroups s).length ≤ dmpRoom s then writeDump s else skipDump s
  else s)

/-- SAMPLE (R613): the down-counter of a group reaches 0 by an event of counter `n`; PERIOD is reloaded and an entry written. The location
lies within the skid and is a free value (log 75). -/
def execSample (g : Fin 8) (n : Fin 8) (s : State) : Res :=
  .next (
    let x := vget s.pmc.groups g
    if !s.clocksRun || !x.en || !vget x.smp n || (g != 0 && g != 3) then s
    else
      let s := settleGroup s g
      let s := { s with pmc := { s.pmc with groups := vmod s.pmc.groups g fun x => { x with down := x.period } } }
      if dmpRoom s = 0 then { s with pmc := { s.pmc with dropped := s.pmc.dropped + 1, droppedNew := s.pmc.droppedNew + 1 } }
      else
        let d := s.free
        let no := d.2.pmc.sampleNo
        let s := putDmp d.2 (2 + 4 * g.val) no.toNat (vget d.2.pmc.groups g).cyc.toNat [d.1.toNat % 2 ^ 32, d.1.toNat / 2 ^ 32]
        { s with pmc := { s.pmc with sampleNo := no + 1 } })

/-! ### Bandwidth monitors (R611) -/

/-- Change monitor `m`. -/
def State.onMon (s : State) (m : Fin 8) (f : BwMon → BwMon) : State := { s with pmc := { s.pmc with mons := vmod s.pmc.mons m f } }

/-- BANDWIDTH_WINDOW_END: the window aligned to a multiple of WIN ends. Bytes of the PCI Express port and the tie ports are a free value
(log 75). -/
def execBandwidthWindowEnd (m : Fin 8) (s : State) : Res :=
  .next (if !s.clocksRun then s
  else
    let w := (vget s.pmc.mons m).win * usNs
    let t := max s.now (vget s.pmc.mons m).startAt
    let s := s.toTick ((t / w + 1) * w)
    let x := vget s.pmc.mons m
    let r : BitVec 32 × State := if x.port.toNat < 128 then (BitVec.ofNat 32 x.run, s) else (s.free.1.truncate 32, s.free.2)
    r.2.onMon m fun x => { x with last := r.1, peak := if x.peak.toNat < r.1.toNat then r.1 else x.peak, run := 0 })

/-- A write of PMC_BW_CFG (R611, R617): a change restarts the monitor at the next boundary of the new WIN. -/
def writeBwCfg (s : State) (m : Fin 8) (v : Word) : State :=
  let x := vget s.pmc.mons m
  let win := fld v 12 20
  if 132 < fld v 0 8 ∨ win < 1 ∨ 1000000 < win then s
  else if x.port.toNat = fld v 0 8 ∧ x.dir = bit v 8 ∧ x.win = win then s
  else
    let w := win * usNs
    s.onMon m fun _ => { port := BitVec.ofNat 8 (fld v 0 8), dir := bit v 8, win := win, startAt := (s.now + w - 1) / w * w }

/-- BANDWIDTH_MONITOR_WRITE. -/
def execBandwidthMonitorWrite (m : Fin 8) (v : BitVec 32) (s : State) : Res := .next (viaBar s 21 fun s => writeBwCfg s m v)

/-! ### Commands (R615) -/

/-- Dump now. -/
def effDumpNow (c : Cmd) (s : State) : State :=
  if !s.pmc.dumpEn || decide (dmpRoom s < (dumpGroups s).length) then complete s c 0x0A else complete (writeDump s) c 0

/-- DUMP_NOW. -/
def execDumpNow (c : Cmd) (s : State) : Res := .next (cmdStep [0x0F00] effDumpNow c s)

/-- Clear counters. -/
def effClearCounters (c : Cmd) (s : State) : State :=
  let w := c.p 0
  let groups := Vector.ofFn fun (g : Fin 8) =>
    let x := vget s.pmc.groups g
    if bit w g.val then { x with cyc := 0, cycAt := s.now, cnt := Vector.replicate 8 0, ovf := 0 } else x
  let mons := if bit w 8 then vall s.pmc.mons fun m => { m with last := 0, peak := 0 } else s.pmc.mons
  complete { s with pmc := { s.pmc with groups := groups, mons := mons } } c 0

/-- CLEAR_COUNTERS. -/
def execClearCounters (c : Cmd) (s : State) : Res := .next (cmdStep [0x0F01] effClearCounters c s)

/-! ### Registers (R617) -/

/-- The event codes of a group (R608). -/
def pmcCode (g code : Nat) : Bool :=
  code ≤ 2 || (0x10 ≤ code && code < 0x10 + [3, 3, 3, 4, 3, 4, 3, 3].getD g 0)

/-- A write of a register of a group. -/
def writeGroup (s : State) (g : Fin 8) (r : Nat) (v : Word) : State :=
  let on (s : State) (f : PmcGroup → PmcGroup) : State := { s with pmc := { s.pmc with groups := vmod s.pmc.groups g f } }
  if r = 0 then
    if fld v 8 24 = 0 then s
    else
      let s := settleGroup s g
      on s fun x => { x with en := bit v 0, dump := bit v 1, period := fld v 8 24,
                             down := if x.period = fld v 8 24 then x.down else fld v 8 24 }
  else if r = 4 then on s fun x => { x with ovf := x.ovf &&& ~~~BitVec.ofNat 8 (fld v 0 8) }
  else match arr r 0x10 4 8 with
    | some (k, 0) =>
      if !pmcCode g.val (fld v 0 8) then s
      else on (settleGroup s g) fun x => { x with
        sel := vmod x.sel k fun _ => BitVec.ofNat 8 (fld v 0 8), smp := vmod x.smp k fun _ => bit v 8 && (g == 0 || g == 3) }
    | _ => s

/-- A write of a register of the PMC block. -/
def writePmc (s : State) (off : Nat) (v : Word) : State :=
  if off = 0 then
    let t := fld v 16 16
    if t < 1 ∨ 60000 < t then s
    else { s with pmc := { s.pmc with dumpEn := bit v 0, dumpMs := t, lastDump := if bit v 0 && !s.pmc.dumpEn then s.now else s.pmc.lastDump } }
  else match arr off 0x800 0x10 8 with
    | some (m, 0) => writeBwCfg s m v
    | _ => match arr off 0x1000 0x100 8 with
      | some (g, r) => writeGroup s g r v
      | none => s

end Sys2Proof.Machine
end

