-- ==== Sys2Proof/Machine/Module.lean ====
section
/-! DEFINITION. The module as a whole (chapters 01, 02 and 20): insertion, power-on reset and its release, the power-fail
warning, removal, Keep, straps, the cell and the junction sensors. -/

namespace Sys2Proof.Machine

/-! ### Output pins (R41) -/

/-- The pin groups of R41. -/
inductive PinGroup where
  /-- STR_TX -/
  | strTx
  /-- PCIE_TX -/
  | pcieTx
  /-- TIE_TX -/
  | tieTx
  /-- KITE_TX -/
  | kiteTx
  /-- FB_A, FB_B -/
  | fb
  /-- FB_RTS -/
  | fbRts
  /-- CAN_H, CAN_L -/
  | can
  /-- SVC_TXD, JTAG_TDO -/
  | svcTxd
  /-- MOD_FAULT# -/
  | modFault
  /-- WAKE# -/
  | wakePin
  /-- LCH_OUT -/
  | lchOut
  /-- SO_A, SO_B -/
  | so
  /-- TP_OUT -/
  | tpOut
  /-- PLS_OUT -/
  | plsOut
  /-- EPD_COM, EPD_SEG -/
  | epd
  /-- EPD_CRACK_A -/
  | epdCrack
deriving DecidableEq, Repr

/-- What R41 says of a pin group. -/
inductive PinState where
  /-- High impedance -/
  | highZ
  /-- Electrical idle -/
  | elecIdle
  /-- Idle characters, no frames -/
  | idleChars
  /-- The link stays trained -/
  | trained
  /-- Not transmitting -/
  | quiet
  /-- Receive only -/
  | receiveOnly
  /-- Negated -/
  | negated
  /-- Recessive -/
  | recessive
  /-- High (idle) -/
  | high
  /-- Low -/
  | low
  /-- Off -/
  | off
  /-- The last state until the watchdog window ends, then the stored fail-safe state -/
  | lastThenFailSafe
  /-- The stored fail-safe state -/
  | failSafe
  /-- At VCOM -/
  | vcom
  /-- Discharge sequence, then high impedance -/
  | discharge
  /-- Withdrawal notice, then electrical idle -/
  | withdrawal
  /-- As the block that drives it says: normal operation -/
  | driven
deriving DecidableEq, Repr

/-- The output-state table of R41. While the module runs every pin is driven by its block; a completed removal leaves the pins of an
unpowered module as in the Inserting column. In a removal the strings send idle characters until stage 3 breaks; `stage` is the last
stage that makes. -/
def pinState (ph : Phase) (stage : Nat) (p : PinGroup) : PinState :=
  match ph, p with
  | .running, _ => .driven
  | .inserting, .fb | .unpowered, .fb | .keep, .fb | .powerOnReset, .fb | .serviceReset, .fb | .removal, .fb => .receiveOnly
  | .inserting, .can | .unpowered, .can | .keep, .can | .powerOnReset, .can | .serviceReset, .can | .removal, .can => .recessive
  | .inserting, .lchOut | .unpowered, .lchOut | .keep, .lchOut | .powerOnReset, .lchOut => .off
  | .inserting, .so | .unpowered, .so | .keep, .so | .powerOnReset, .so | .removal, .so => .off
  | .inserting, .tpOut | .unpowered, .tpOut | .keep, .tpOut | .powerOnReset, .tpOut | .removal, .tpOut => .off
  | .inserting, .plsOut | .unpowered, .plsOut | .keep, .plsOut | .powerOnReset, .plsOut | .removal, .plsOut => .off
  | .keep, .epdCrack | .powerOnReset, .epdCrack | .serviceReset, .epdCrack | .removal, .epdCrack => .off
  | .inserting, _ | .unpowered, _ | .keep, _ => .highZ
  | .powerOnReset, .strTx | .powerOnReset, .pcieTx | .powerOnReset, .tieTx | .removal, .pcieTx => .elecIdle
  | .serviceReset, .strTx => .idleChars
  | .removal, .strTx => if 3 ≤ stage then .idleChars else .highZ
  | .serviceReset, .pcieTx | .serviceReset, .tieTx => .trained
  | .removal, .tieTx => .withdrawal
  | .powerOnReset, .kiteTx | .removal, .kiteTx => .highZ
  | .serviceReset, .kiteTx => .quiet
  | .powerOnReset, .fbRts | .serviceReset, .fbRts | .removal, .fbRts => .negated
  | .powerOnReset, .svcTxd | .serviceReset, .svcTxd => .high
  | .removal, .svcTxd => .highZ
  | .powerOnReset, .modFault | .serviceReset, .modFault | .removal, .modFault => .low
  | .powerOnReset, .wakePin | .serviceReset, .wakePin | .removal, .wakePin => .highZ
  | .serviceReset, .lchOut => .lastThenFailSafe
  | .removal, .lchOut => .failSafe
  | .serviceReset, .so | .serviceReset, .tpOut | .serviceReset, .plsOut => .driven
  | .powerOnReset, .epd | .serviceReset, .epd => .vcom
  | .removal, .epd => .discharge

/-- What a pin group shows now: the table of R41, with the outputs of a refresh source that has expired off (R557); the load channels'
fail-safe states stand in the channels themselves (R558). -/
def State.pin (s : State) (p : PinGroup) : PinState :=
  let gone (k : Fin 3) : Bool := (vget s.lsw.sources k).expired
  match p, pinState s.glb.phase s.glb.stage p with
  | .so, .driven | .tpOut, .driven => if gone 1 then .off else .driven
  | .plsOut, .driven => if gone 2 then .off else .driven
  | .epd, .driven => if gone 0 then .vcom else .driven
  | _, x => x

/-! ### The power-fail warning (R45, R377, R378, R427, R445, R565) -/

/-- The discharge sequence of the display (R565). -/
def dischargeDisplay (s : State) : State := (interruptDisplay s).onEpd fun e => { e with stopped := true }

/-- Every staged legal record is written (R445). -/
def writeLegalStaging (s : State) : State := Nat.repeat (fun s => writeStaged s false) s.recd.legal.staging.length s

/-- What Device restart is to report, written last in the window of R45, outside a pair (R133). -/
def noteFailure (s : State) : State :=
  if s.tie.paired then s else { s with keep := { s.keep with failRec := some (s.keep.gseq, s.rng.backlog.length) } }

/-- The power-fail warning, with what follows it in the window of R45. The steps of R427 up to the fourth are made with the partial
commit; the power-cut record stays PENDING until power or VIN is back (log 77). -/
def powerWarning (s : State) (bits : List Byte) : State :=
  if s.glb.powerFail then s
  else
    let t := s.tim.legal
    let s := dischargeDisplay { s with
      glb := { s.glb with powerFail := true }
      bil := { s.bil with outageAt := some t }
      keep := { s.keep with openOutage := some t } }
    let s := closeOpen (s.toTick (s.now + msNs)) bits
    let s := flagAll { s with enr := { s.enr with
      stopped := true, balInvalid := true, demandFlags := s.enr.demandFlags ||| 4, pending := 0x20 } } 0x200
    let s := if s.fwRuns 1 then
        let s := energyCut s s.cycle (s.keep.commitNo + 1) true 0
        { s with keep := { s.keep with partialAt := some s.cycle } }
      else s
    noteFailure (writeLegalStaging s)

/-- VIN reads `vin` mV: VIN_OK falls below 17.5 V and returns at 18.0 V (R45). The always-on domain runs from VIN at 15.0 V and above
(R46); a domain that an insertion has started from VBAT stays on it until the module is seated (R36 step 3: DEDUCED, log 129). -/
def seeVin (s : State) (vin : Nat) : State :=
  { s with glb := { s.glb with
    vin := vin
    vinOk := if vin < 17500 then false else if 18000 ≤ vin then true else s.glb.vinOk
    aonOnBattery := decide (vin < 15000) || (s.glb.aonOnBattery && s.glb.phase == .inserting) } }

/-- POWER_FAIL_WARNING (R45): VIN falls; below 16.0 V the warning is raised. -/
def execPowerFailWarning (vin : Nat) (bits : List (BitVec 8)) (s : State) : Res :=
  .next (
    let s := seeVin s vin
    if s.clocksRun && vin < 16000 then powerWarning s bits else s)

/-- Step 5 of R427, done when power is back: the power-cut record with its end, and the Outage event (R428, R432). -/
def endOutage (s : State) (steps : Nat) : State :=
  match s.keep.openOutage with
  | some t =>
    let s := { s with
      keep := { s.keep with openOutage := none, partialAt := none }
      bil := { s.bil with outageAt := none }
      enr := { s.enr with pending := 0 } }
    let s := recordOnly s false 0x0789 none (p64 t ++ p64 s.tim.legal)
    postDev s 0x0607 (p64 t ++ p32 ((s.tim.legal - t) / 2 ^ 24) ++ p8 steps)
  | none => s

/-! ### Loss of power -/

/-- The powered clocks stop (R46, R78): the RTC carries legal time on. -/
def haltClocks (s : State) (ph : Phase) : State :=
  { s with
    keep := if s.clocksRun then { s.keep with rtc := s.tim.legal, rtcRem := 0 } else s.keep
    glb := { s.glb with phase := ph, removalHeld := false } }

/-- The powered clocks stop with the power: operations records still staged are lost and counted in the write journal (R445). -/
def stopClocks (s : State) (ph : Phase) : State :=
  if s.clocksRun then
    let s := if s.keep.failRec.isSome then noteFailure s else s
    let n := s.recd.ops.staging.length
    haltClocks (s.onLog true fun l => { l with staging := [], unwritten := l.unwritten + n + l.lostCount, lostCount := 0 }) ph
  else haltClocks s ph

/-- KEEP_ENTRY (R577): VIN is absent after the warning, and only the always-on domain runs, from VBAT (R25, R46). A removal governs: with
its supply gone it is complete. -/
def execKeepEntry (s : State) : Res :=
  .next (match s.glb.phase with
  | .running | .serviceReset | .powerOnReset =>
    let s := if s.clocksRun then powerWarning (seeVin s 0) [] else seeVin s 0
    let s := stopClocks s .keep
    { s with glb := { s.glb with keepAt := s.now } }
  | .removal => stopClocks (seeVin s 0) .unpowered
  | _ => seeVin s 0)

/-- CAB_RST (R40): held low for at least 1 µs, or high again. The removal sequence governs where both coincide. -/
def execCabRst (low : Bool) (bits : List (BitVec 8)) (s : State) : Res :=
  .next (
    let s := { s with glb := { s.glb with cabRst := low } }
    match s.glb.phase with
    | .running | .serviceReset => if low then stopClocks (powerWarning s bits) .powerOnReset else s
    | _ => s)

/-! ### Seating, insertion and removal (R34 to R39) -/

/-- The always-on domain loses its supply (R28): what it kept is lost, and its clock reads an open value when it runs again. -/
def loseAlwaysOn (s : State) : State :=
  let f := s.free
  let s := f.2
  { s with
    glb := { s.glb with clockLoss := true, aonOnBattery := false }
    keep := { s.keep with
      rtc := f.1.toNat, rtcRem := 0, chans := Vector.replicate 4 ⟨0, 0, 0, 0, 0⟩, chansBad := true, tampers := Vector.replicate 4 (0, 0, 0) }
    pwr := { s.pwr with armed := false } }

/-- Seating contacts make (R34): the module counts as seated 20 ms after the last of them. In Keep they are seen at the next sample
(R50). -/
def makeContacts (s : State) (contacts : BitVec 4) : State :=
  let seat := s.glb.seat ||| contacts
  if seat = s.glb.seat then s
  else
    let s := s.keepSample
    { s with glb := { s.glb with
      seat := seat
      seatLowSince := if seat = 0xF then s.now else s.glb.seatLowSince
      seatHighSince := none } }

/-- STAGE_INSERTION (R36): a contact stage makes, the second with the supplies `vin` brings and the fourth with the seating contacts
given. A module that was out of its slot enters the Inserting state. -/
def execStageInsertion (stage : Fin 5) (contacts : BitVec 4) (vin : Nat) (s : State) : Res :=
  .next (
    let old := s.glb.stage
    let s := { s with glb := { s.glb with
      stage := max old stage.val
      phase := if s.glb.phase = .unpowered ∧ old < 2 ∧ old < stage.val then .inserting else s.glb.phase } }
    let s := if old < 2 ∧ 2 ≤ stage.val then
        let s := seeVin s vin
        { s with glb := { s.glb with aonOnBattery := true } }
      else s
    if stage.val = 4 then makeContacts s contacts else s)

/-- The dies are powered and power-on reset is held, once the module is seated for 20 ms with VIN in range (R34 to R36 step 6). -/
def powerDies (s : State) : State :=
  if s.glb.phase = .inserting ∧ s.glb.stage = 4 ∧ s.glb.seat = 0xF ∧ s.glb.vinOk ∧ s.since s.glb.seatLowSince (20 * msNs) then
    { s with glb := { s.glb with
      phase := .powerOnReset, insertion := true, perst := true, aonOnBattery := decide (s.glb.vin < 15000) } }
  else s

/-- SEATED (R34 to R36 step 6): every seating contact has read low for 20 ms. -/
def execSeated (s : State) : Res :=
  .next (if s.glb.phase == .inserting && s.glb.stage == 4 && s.glb.seat == 0xF then
    powerDies (s.toTick (s.glb.seatLowSince + 20 * msNs))
  else s)

/-- What removal asks of a load channel (R41, R558): its stored fail-safe state. -/
def removeChan (s : State) (k : Fin 32) : State :=
  let c := s.chan k
  let d := if c.failsafe = 1 then true else if c.failsafe = 2 then c.demand else false
  followDemand (s.onChan k fun c => { c with fsOn := true, fsDemand := d }) k

/-- The removal sequence (R37): the withdrawal is announced and frames stop, the warning is raised, and every output takes its
Removal state. From its first step on the module issues no transactions (R133). -/
def startRemoval (s : State) (bits : List Byte) : State :=
  let s := (List.finRange 4).foldl (fun s p => if (vget s.tie.ports p).up then s.send (.tie p .withdrawal) else s) s
  let s := { s with glb := { s.glb with phase := .removal, removalAt := s.now }
                    lanes := vall s.lanes fun x => { x with stopped := true } }
  forAll (List.finRange 32) removeChan (powerWarning s bits)

/-- A seat loss in power-on reset outside an insertion (R37, R40): the removal sequence governs, with the clocks standing. -/
def removeHeld (s : State) : State :=
  { s with glb := { s.glb with phase := .removal, removalHeld := true, removalAt := s.now } }

/-- A seat loss in steps 6 to 8 of an insertion abandons it (R39): the Inserting state, with nothing written to keeping memory. -/
def abandonInsertion (s : State) : State :=
  let s := haltClocks s .inserting
  { s with glb := { s.glb with insertion := false } }

/-- What a lost contact does to a module in its phase (R37, R39, R40). -/
def seatLost (s : State) (bits : List Byte) : State :=
  match s.glb.phase with
  | .powerOnReset => if s.glb.insertion then abandonInsertion s else removeHeld s
  | .running | .serviceReset => if s.glb.porDue || s.glb.insertion then abandonInsertion s else startRemoval s bits
  | _ => s

/-- The removal sequence has run to its end, 15 ms after it began where no contact stage broke before (R37 step 5, R38: DESIGN CHOICE,
log 131). -/
def endRemoval (s : State) : State :=
  if s.glb.phase = .removal then stopClocks (s.toTick (s.glb.removalAt + 15 * msNs)) .unpowered else s

/-- The end of a removal that has lasted 15 ms (log 131). -/
def removalEnds (s : State) : State := if s.since s.glb.removalAt (15 * msNs) then endRemoval s else s

/-- SEAT_LOSS (R37, R39): the contacts given read high for 10 µs, in Keep at the next sample (R50). -/
def execSeatLoss (contacts : BitVec 4) (bits : List (BitVec 8)) (s : State) : Res :=
  .next (if contacts = 0 then s
  else
    let s := if s.glb.phase = .keep then s.keepSample else s.toTick (s.now + 10 * usNs)
    let seat := s.glb.seat &&& ~~~contacts
    let s := { s with glb := { s.glb with
      seat := seat, seatHighSince := if seat = 0 then some (s.glb.seatHighSince.getD s.now) else none } }
    seatLost s bits)

/-- SEAT_GLITCH (R42): shorter than 10 µs; it is counted and recorded with the reading of the contacts. -/
def execSeatGlitch (contact : Fin 4) (s : State) : Res :=
  .next (if s.clocksRun then
    let s := { s with glb := { s.glb with seatGlitch := true, seatGlitchCount := s.glb.seatGlitchCount + 1 } }
    recordOnly s true 0x0785 none (p8 (s.glb.seat &&& ~~~(1#4 <<< contact.val)).toNat)
  else s)

/-- STAGE_BREAK (R37 steps 4 and 5): the contacts of a stage, and of every later one, break. With the second stage the module and its
always-on domain lose their supply (R28); before it, the break is a loss of every seating contact. -/
def execStageBreak (stage : Fin 5) (s : State) : Res :=
  .next (if stage.val = 0 ∨ s.glb.stage < stage.val then s
  else
    let s := seatLost { s with glb := { s.glb with
      stage := stage.val - 1, seat := 0, seatHighSince := some (s.glb.seatHighSince.getD s.now) } } []
    if stage.val ≤ 2 then loseAlwaysOn (seeVin (stopClocks s .unpowered) 0) else s)

/-- RESEAT_WAIT_END (R38): after a completed removal all four contacts have read high together for 10 ms; insertion goes on from its
step 5. -/
def execReseatWaitEnd (s : State) : Res :=
  .next (match s.glb.phase, s.glb.seatHighSince with
  | .removal, some t | .unpowered, some t =>
    let s := (endRemoval s).toTick (t + 10 * msNs)
    { s with glb := { s.glb with phase := .inserting, stage := min 3 s.glb.stage, seatHighSince := none } }
  | _, _ => s)

/-- VIN_RETURN (R378): VIN rises. Back at 18.0 V before the module has lost power, metering resumes, the step still PENDING is done, and
the display is drawn again. A removal or a reset under way is not turned back; a seated module still without power is powered (R35). -/
def execVinReturn (vin : Nat) (s : State) : Res :=
  .next (
    let s := seeVin s vin
    match s.glb.phase with
    | .running | .serviceReset =>
      if s.glb.powerFail && s.glb.vinOk then
        let s := endOutage { s with
          glb := { s.glb with powerFail := false }
          keep := { s.keep with failRec := none }
          enr := { s.enr with stopped := false } } s.enr.pending.toNat
        resumeDisplay (s.onEpd fun e => { e with stopped := false })
      else s
    | _ => powerDies s)

/-! ### The release of power-on reset (R30, R36 step 7) -/

/-- The state a power-on reset leaves: every register at its reset value, and what the always-on domain and keeping memory keep. -/
def afterReset (s : State) : State :=
  { ({} : State) with
    glb := {
      porDue := false, stage := s.glb.stage, seat := s.glb.seat, seatLowSince := 0, slotLive := s.glb.slotLive
      sideLive := s.glb.sideLive, dbgLive := s.glb.dbgLive, vin := s.glb.vin, vinOk := s.glb.vinOk, vbank := s.glb.vbank, vbankOk := s.glb.vbankOk
      seatGlitchCount := s.glb.seatGlitchCount, perst := s.glb.perst, insertion := s.glb.insertion, cabRst := s.glb.cabRst
      lowBattery := s.glb.lowBattery, clockLoss := s.glb.clockLoss, aonOnBattery := s.glb.aonOnBattery }
    tim := { legal := s.tim.legal, legalState := s.tim.legalState, syncAgeTicks := s.tim.syncAgeTicks }
    rng := { posted := s.rng.posted, linkUp := !s.glb.perst }
    jrn := s.jrn, delays := s.delays, safJ := s.safJ, tagJ := s.tagJ, store := s.store, keys := s.keys, keep := s.keep
    recd := { legal := { s.recd.legal with staging := [], lostCount := 0 }
              ops := { s.recd.ops with staging := [], lostCount := 0 } }
    bil := { s.bil with
      clockDefault := false, bufHigh := false, bufFull := false, openRefused := false, tamperAny := false, periodClosed := false
      page := 0, periodTick := 0, tariff := Tariff.default
      waiting := s.bil.waiting.map fun r => { r with cmd := none }
      overflow := s.bil.overflow.map fun r => { r with cmd := none } }
    bilOut := s.bilOut
    kit := { fcnt := s.keep.fcnt + 4096 }
    epd := { journal := s.epd.journal }
    pwr := { alarm := s.pwr.alarm, alarmLo := s.pwr.alarmLo, armed := s.pwr.armed, lastWake := s.pwr.lastWake }
    upd := {
      floors := s.upd.floors, fw := s.upd.fw, trials := s.upd.trials, cfgActive := s.upd.cfgActive, cfgHighest := s.upd.cfgHighest
      cfgRevert := s.upd.cfgRevert, dominoRx := s.upd.dominoRx, dominoTx := s.upd.dominoTx.map fun x => { x with paused := some 0 }
      cfg := vall s.upd.cfg fun x => if x.state = .pending then { x with state := .stored } else x }
    fresh := s.fresh, out := s.out, pending := s.pending }

/-- The straps are latched (R30). -/
def latchStraps (s : State) (slot : BitVec 2) (side dbg : Bool) : State :=
  { s with glb := { s.glb with
    slot := slot, slotLive := slot, side := side, sideLive := side, dbg := dbg, dbgLive := dbg } }

/-- Legal time comes from the RTC, with its validity (R78, R80). -/
def loadClock (s : State) : State :=
  let st : LegalState :=
    if s.glb.clockLoss || s.tim.legalState == .unsync then .unsync
    else if s.tim.syncAgeTicks < s.cfg.syncAge * secNs then .synced else .aged
  let t : Tim := { s.tim with legal := s.keep.rtc, legalState := st, legalHist := [] }
  { s with tim := t.noteLegal }

/-- The keys at power-on (R545, R547, R548): the random generator runs; with debug enabled a test meter key is drawn and the Debug keys
event is due on every event ring; without it an empty slot 5 receives its key. -/
def loadKeys (s : State) : State :=
  let s := { s with key := { s.key with rngOk := true } }
  if s.glb.dbg then
    let d := s.draw
    let s := d.2
    let s := { s with key := { s.key with dbgKeys := true, testMeter := some (BitVec.ofNat 256 (privateKey d.1)) } }
    (List.range 8).foldl (fun s k => s.onRing (evtRing k) fun x => { x with debugDue := true }) s
  else if (s.keySlot 5).state = .empty then
    let d := s.draw
    changeSlot d.2 5 .valid (beBytes 32 (privateKey d.1)) 2 none
  else s

/-- The signature of an image holds (R590, R596). The image put in at manufacture, whose bytes the model does not hold, starts. -/
def imageStarts (s : State) (t : Nat) (m : List Host.Cell) : Bool × State :=
  if m.isEmpty then (true, s)
  else
    let k := imageKey s t
    (decide (imgLength m + 256 ≤ imageRoom t) && signatureOk m k.1, k.2)

/-- ROM starts a target from its ACTIVE or TRIAL slot, or from its PREVIOUS one (R595, R596). -/
def startFirmware (s : State) (t : Fin 3) : State :=
  let s := s.onTrial t fun x => x.map fun y => { y with powerOns := y.powerOns + 1, startAt := 0, commits := 0 }
  let again := match s.trial t with | some x => decide (2 ≤ x.powerOns) | none => false
  let s := if again then fallBack s t 2 none else s
  match (s.fwIn t .trial).or (s.fwIn t .active) with
  | none => s
  | some b =>
    let r := imageStarts s t.val (s.fwSlot t b).bytes
    if r.1 then r.2
    else
      let v := (s.fwSlot t b).version
      let s := (r.2.onFw t b fun x => { x with state := .bad }).onTrial t fun _ => none
      let s := match s.fwIn t .previous with
        | some p =>
          let q := imageStarts s t.val (s.fwSlot t p).bytes
          q.2.onFw t p fun x => { x with state := if q.1 then .active else .bad }
        | none => s
      postDev { s with upd := { s.upd with fellBack := true } } 0x0E03 (p8 t.val ++ p32 v.toNat ++ p8 3)

/-- What missing firmware does (R596). -/
def missingFirmware (s : State) : State :=
  let s := if s.fwRuns 1 then s else { s with glb := { s.glb with modFault := true } }
  if s.fwRuns 0 then s else enterRecovery s 0 none

/-- The image in force is read in at power-on, without the events of an activation. -/
def loadImage (s : State) (k : Fin 4) : State :=
  match parseConfig (imgBody (s.cfgSlot k).bytes) with
  | none => s
  | some img =>
    let v := s.upd.cfgActive.toNat
    let s := putSafety (putProfiles s img v) img.safety
    let s := putRest { s with met := { s.met with legal := some img.legal } } img
    forAll outlets (fun s o => restartCtx s o v) s

/-- The configuration at power-on (R596, R603): the signature of the ACTIVE slot is checked; where it fails, the yo-yo is made at once,
and with no usable PREVIOUS slot no configuration is in force. -/
def loadConfig (s : State) : State :=
  match s.cfgIn .active with
  | none => s
  | some k =>
    let r := imageStarts s 3 (s.cfgSlot k).bytes
    if r.1 then loadImage r.2 k
    else match r.2.cfgIn .previous with
      | none => r.2
      | some p =>
        let q := imageStarts r.2 3 (r.2.cfgSlot p).bytes
        if !q.1 then q.2
        else
          let s := q.2
          let old := s.upd.cfgActive
          let x : CfgPend := ⟨0, p, s.upd.cfgHighest + 1, (s.cfgSlot p).version, true, true⟩
          let s := turnSlots s x
          let s := { s with upd := { s.upd with cfgActive := x.version, cfgHighest := x.version, cfgRevert := x.source } }
          loadImage (postDev s 0x0E04 (p32 old.toNat ++ p32 x.version.toNat ++ p32 x.source.toNat ++ p8 3)) p

/-- The contexts at power-on (R228, R230): what the journal says of their profile, waiting for their lanes. -/
def loadContexts (s : State) : State :=
  { s with ctxs := Vector.ofFn fun o =>
    let j := s.jrnOf o
    if j.valid && j.bound then
      { ({} : Ctx) with profile := j.profile, version := j.version, bound := true, enabled := j.enabled }
    else {} }

/-- The commit a power-up loads (R377): the highest number whose blocks all pass, a partial one before the full one of its cycle. -/
def bestCommit (s : State) : Option CommitSet :=
  (s.keep.slots.toList.filterMap id).foldl (fun (b : Option CommitSet) c =>
    if !c.good then b
    else match b with
      | none => some c
      | some x => if x.number < c.number ∨ (x.number = c.number ∧ c.partialC) then some c else b) none

/-- Mains time resumes after the last committed cycle (R77), and the registers are those of the loaded commit. The boundary the count
starts at takes no commit of its own (log 78). -/
def loadCommit (s : State) : State :=
  match bestCommit s with
  | none => recordOnly s false 0x0780 none (p64 0)
  | some c =>
    let n := c.number + 1
    let s := { s with
      tim := { s.tim with mains := n * 65536 }
      keep := { s.keep with commitNo := n }
      enrOut := Vector.ofFn fun o => { (vget s.enrOut o) with live := vget c.out o }
      met := { s.met with incAt := n }
      enr := { s.enr with
        site := c.site, committed := some c, demandStart := c.demandStart, demandFlags := c.demandFlags ||| 4
        balStart := c.balStart, balInvalid := true, balBase := c.balBase
        incBase := (vget c.site.regs 0, vget c.site.regs 1)
        pulses := Vector.ofFn fun k => { (vget s.enr.pulses k) with acc := (vget c.pulses k).acc, owed := (vget c.pulses k).owed } } }
    let s := forAll outlets (fun s o => s.onEnr o fun x => { x with billBase := billNow s o }) s
    let s := recordOnly s false 0x0780 none (p64 n)
    postDev s 0x0511 (p64 c.number ++ p8 (b2n c.partialC) ++ p32 ((s.tim.legal - c.legal) / 2 ^ 24))

/-- Sessions open when power was lost outside a pair close at the loaded commit (R230, R413). -/
def closeLost (s : State) : State :=
  match s.enr.committed with
  | none => s
  | some c =>
    let now := s.tim.legal
    let s := { s with tim := { s.tim with legal := c.legal } }
    let s := forAll outlets (fun s o =>
      let s := (closeSession s o 129).onBil o fun b => { b with closing := b.closing.map fun x =>
        { x with waitOpen := false, flags := x.flags ||| 0x200 } }
      let due := (s.bil1 o).closing
      due.foldl (fun s x => endSession s o c.number x) (s.onBil o fun b => { b with closing := [] })) s
    { s with tim := { s.tim with legal := now } }

/-- The always-on current measurement is taken over (R392). The register takes 1 mAh per 3,600 mA s, and the remainder is kept. -/
def takeUnmetered (s : State) (k : Fin 4) (skipped low : Bool) : State :=
  let x := vget s.keep.chans k
  let all := x.charge + vget s.enr.site.unmetRem k
  let mah := all / 3600
  let s := addSite s ⟨8 + k.val, by omega⟩ (mah * 2 ^ 48)
  let s := { s with enr := { s.enr with
    unmetReported := true, site := { s.enr.site with unmetRem := vmod s.enr.site.unmetRem k fun _ => all % 3600 } } }
  let est := if k.val = 3 then 0 else mah * s.cfg.vnom / 1000
  postDev s 0x0516 (p8 k.val ++ p32 (min 0xFFFFFFFF mah) ++ leBytes 6 (min 0xFFFFFFFFFFFF est) ++ p8 (b2n skipped + 2 * b2n low))

/-- Steps 1 to 5 of R392. Results that fail their CRC, as they do once the always-on domain has lost its supply, are reported without
values. -/
def takeKeep (s : State) : State :=
  let low := s.glb.lowBattery
  let s := (List.finRange 4).foldl (fun s k =>
    if s.keep.chansBad then
      postDev { s with enr := { s.enr with unmetReported := true } } 0x0516
        (p8 k.val ++ p32 0 ++ leBytes 6 0 ++ p8 (b2n (keepSkipped s k) + 2 * b2n low + 4))
    else takeUnmetered s k (keepSkipped s k) low) s
  { s with keep := { s.keep with chans := Vector.replicate 4 ⟨0, 0, 0, 0, 0⟩, chansBad := false } }

/-- Tamper occurrences of Keep are merged (R426): COUNT, the times of the first and the last, one event for each kind. -/
def mergeTamper (s : State) (k : Fin 4) : State :=
  let x := vget s.keep.tampers k
  if x.1 = 0 then s
  else
    let kind : Fin 16 := ⟨k.val, by omega⟩
    let t := vget s.bil.tampers kind
    let n := BitVec.ofNat 32 (min 0xFFFFFFFF (t.count.toNat + x.1))
    let t' : Tamper := {
      count := n, first := if t.count = 0 then x.2.1 else t.first, last := x.2.2,
      firstInst := if t.count = 0 then 0x8000 else t.firstInst, lastInst := 0x8000 }
    let s := { s with
      bil := { s.bil with tampers := vmod s.bil.tampers kind (fun _ => t'), tamperAny := true }
      keep := { s.keep with tampers := vmod s.keep.tampers k fun _ => (0, 0, 0) } }
    postDev (flagAll s 0x2000) 0x0605 (p8 k.val ++ leBytes 4 n.toNat ++ p16 0x8000)

/-- Operations records that were lost with the power are the first to be recorded (R445). -/
def reportUnwritten (s : State) : State :=
  let n := s.recd.ops.unwritten
  if n = 0 then s
  else
    let l := s.recd.ops
    recordOnly (s.onLog true fun l => { l with unwritten := 0 }) true 0x0787 none (p32 n ++ p64 l.lostFirst ++ p64 l.lostLast)

/-- The guard test (R272): `fail` is the failing step, 0 where it passes; each step takes its bound. Without safety firmware the
invariant stays failed (R596). -/
def guardTest (s : State) (fail : Nat) : State :=
  if !s.fwRuns 2 then s
  else if fail = 0 then postDev { s with saf := { s.saf with guardOk := true } } 0x020E (p8 0 ++ p8 0)
  else postDev { s with glb := { s.glb with modFault := true } } 0x020E (p8 0 ++ p8 fail)

/-- The last-wake record of a power-up (R578, R581): source 1 with its flags after Keep, source 0 otherwise. An alarm whose time passed
in Keep is not fired. The low-battery flag stays until it has been reported (R47). -/
def wakeRecord (s : State) (fromKeep : Bool) : State :=
  let passed := s.pwr.armed && decide (s.pwr.alarm.toNat ≤ s.legalSec)
  let tampered := s.keep.tampers.toList.any fun t => t.1 != 0
  let flags := if fromKeep then b2n passed + 2 * b2n tampered + 4 * b2n s.glb.lowBattery else 0
  let s := recordWake s (b2n fromKeep) flags false (if fromKeep then 3 else 4)
  { s with pwr := { s.pwr with armed := s.pwr.armed && !passed }
           glb := { s.glb with lowBattery := s.glb.lowBattery && !fromKeep } }

/-- The release of power-on reset (R36 step 7), with what the power-up does before metering starts, in order: the straps, legal time, the
first records, the keys, the firmware, the configuration, the loaded commit, the steps still PENDING, the results of Keep, the sessions
that power ended, the display, and the guard test. -/
def release (s : State) (slot : BitVec 2) (side dbg fromKeep : Bool) (fail : Nat) : State :=
  let paired := s.tie.paired
  let keepEn := s.enr.keepEn
  let restart := s.keep.failRec
  let s := latchStraps (afterReset (stopClocks s .powerOnReset)) slot side dbg
  let s := loadKeys (reportUnwritten (loadClock s))
  let s := if restart.isSome then
      (List.range 8).foldl (fun s k => s.onRing (evtRing k) fun x => { x with restartDue := restart }) s else s
  let s := missingFirmware (([0, 1, 2] : List (Fin 3)).foldl startFirmware s)
  let s := loadCommit (loadConfig (loadContexts s))
  let s := endOutage s 0x20
  let s := wakeRecord (if keepEn && (fromKeep || s.keep.chansBad) then takeKeep s else s) fromKeep
  let s := (List.finRange 4).foldl mergeTamper s
  let s := if paired then s else closeLost s
  guardTest (checkLocalEnd (loadDisplay s)) fail

/-- POWER_ON_RESET_RELEASE (R36 step 7, R40): with VIN in range and CAB_RST# high, from power-on reset, or where the state is the one
right after the release. -/
def execPowerOnResetRelease (slot : BitVec 2) (side dbg : Bool) (guardFail : Fin 5) (s : State) : Res :=
  .next (if s.glb.vinOk && !s.glb.cabRst && (s.glb.phase == .powerOnReset || s.glb.porDue) then
    release s slot side dbg s.glb.leftKeep guardFail.val else s)

/-- VIN_RETURN_LEAVING_KEEP (R575, R581): insertion goes on from its step 6, once the module is seated for 20 ms; a module that is not
seated waits in the Inserting state. CAB_RST# low holds power-on reset (R40). -/
def execVinReturnLeavingKeep (vin : Nat) (slot : BitVec 2) (side dbg : Bool) (guardFail : Fin 5) (s : State) : Res :=
  .next (
    let s := seeVin s vin
    if s.glb.phase == .keep && s.glb.vinOk then
      let s := { s with glb := { s.glb with phase := .inserting, leftKeep := true } }
      if s.glb.seat == 0xF then
        let s := powerDies (s.toTick (s.glb.seatLowSince + 20 * msNs))
        if s.glb.phase == .powerOnReset && !s.glb.cabRst then release s slot side dbg true guardFail.val else s
      else s
    else s)

/-! ### Straps, cell and temperature -/

/-- STRAP_CHECK (R31): once per second the live levels are compared with the latched ones; a difference is counted in the fault tally
(R528 class 11). -/
def execStrapCheck (slot : BitVec 2) (side dbg : Bool) (s : State) : Res :=
  .next (if !s.clocksRun then s
  else
    let s := s.toTick (s.glb.strapAt + secNs)
    let s := { s with glb := { s.glb with slotLive := slot, sideLive := side, dbgLive := dbg, strapAt := s.now } }
    if slot = s.glb.slot ∧ side = s.glb.side ∧ dbg = s.glb.dbg then s
    else tally { s with glb := { s.glb with mismatch := true } } 11 0)

/-- The cell is below 2.5 V while it supplies the always-on domain (R47): a clock-loss mark is latched; the RTC and the current-only
measurement are not guaranteed, and take free values (log 119). -/
def starveAlwaysOn (s : State) : State :=
  let f := s.free
  let s := f.2
  let chans := (List.finRange 4).foldl (fun (x : Vector KeepChan 4 × State) k =>
    let a := x.2.free
    let b := a.2.free
    (vmod x.1 k fun c => { c with charge := a.1.toNat, maxRms := b.1.toNat % 2 ^ 32 }, b.2)) (s.keep.chans, s)
  let s := chans.2
  { s with glb := { s.glb with clockLoss := true }, keep := { s.keep with rtc := f.1.toNat, rtcRem := 0, chans := chans.1 } }

/-- VBAT_LOW (R47): below 2.7 V the low-battery flag is set; below 2.5 V more follows where the cell supplies the always-on domain. -/
def execVbatLow (below25 : Bool) (s : State) : Res :=
  .next (
    let s := { s with glb := { s.glb with lowBattery := true } }
    if below25 && s.glb.aonOnBattery then starveAlwaysOn s else s)

/-- JUNCTION_TEMPERATURE (R58), in 0.01 °C, the highest of the sensors: 110 °C reports, 105 °C clears the report, 125 °C raises a lasting
fault of class 12. The spec gives the report no form: it is a Device fault event of class 12 that is not lasting, posted once, and its
clearing posts nothing (DESIGN CHOICE, log 130). -/
def execJunctionTemperature (temp : Int) (s : State) : Res :=
  .next (if !s.clocksRun then s
  else if 12500 ≤ temp then
    let s := { s with glb := { s.glb with junctionHot := true, modFault := true } }
    if s.lastingAt 12 0 then s else makeLasting s 12 0
  else if 11000 ≤ temp ∧ !s.glb.junctionHot then postFault { s with glb := { s.glb with junctionHot := true } } 12 0 false 1
  else if temp < 10500 then { s with glb := { s.glb with junctionHot := false } }
  else s)

end Sys2Proof.Machine
end

