-- ==== Sys2Proof/Machine/Registers.lean ====
section
/-! DEFINITION. Register writes and reads as accesses (R14, R15, R127 to R129, R168): what a write to each block does, the
ring commands that read and write registers, and the rows for plain register fields. A write of a field that has no effect
besides its value is made here; the others call the write of their chapter. -/

namespace Sys2Proof.Machine

/-- A W1C field: written 1 it is cleared (R14, R15). -/
def w1c (f : Bool) (v : Word) (i : Nat) : Bool := f && !bit v i

/-! ### Blocks whose writes are plain -/

/-- GLB (R42). -/
def writeGlb (s : State) (off : Nat) (v : Word) : State :=
  if off = 0x10 then { s with glb := { s.glb with mismatch := w1c s.glb.mismatch v 16 } }
  else if off = 0x14 then { s with glb := { s.glb with seatGlitch := w1c s.glb.seatGlitch v 16 } }
  else s

/-- TIM (R88). -/
def writeTim (s : State) (off : Nat) (v : Word) : State :=
  let t := s.tim
  if off = 0 then writeTimCfg s v
  else if off = 4 then { s with tim := { t with
    mainsLostF := w1c t.mainsLostF v 16, phaseStepF := w1c t.phaseStepF v 17, legalStepF := w1c t.legalStepF v 18
    refLostF := w1c t.refLostF v 19, phaseChangeF := w1c t.phaseChangeF v 20 } }
  else if off = 0x2C then writeSyncLimit s v
  else s

/-- A write of RNG_FRX_MAP for one outlet: frames already queued are still filled into the old ring (R157). -/
def writeFrxMap (s : State) (o : Fin 128) (r : BitVec 3) : State :=
  let old := vget s.rng.frxMap o
  let q := s.poolQ (rxQ o)
  { s with rng := { s.rng with
    frxMap := vmod s.rng.frxMap o fun _ => r
    frxOld := vmod s.rng.frxOld o fun l =>
      let n := q.packets.length + q.staging.length - (l.map (·.2)).sum
      if old = r ∨ n = 0 then l else l ++ [(old, n)] } }

/-- The registers of one ring (R169). -/
def writeRing (s : State) (n : Fin 57) (r : Nat) (v : Word) : State :=
  let lo (x : BitVec 64) : BitVec 64 := BitVec.ofNat 64 (x.toNat / 2 ^ 32 * 2 ^ 32 + v.toNat)
  let hi (x : BitVec 64) : BitVec 64 := BitVec.ofNat 64 (v.toNat * 2 ^ 32 + x.toNat % 2 ^ 32)
  if r = 0 then s.onRing n fun x => { x with base := lo x.base }
  else if r = 4 then s.onRing n fun x => { x with base := hi x.base }
  else if r = 8 then writeRngCtl s n v
  else if r = 0xC then s.onRing n fun x => { x with wb := lo x.wb }
  else if r = 0x10 then s.onRing n fun x => { x with wb := hi x.wb }
  else if r = 0x1C then s.onRing n fun x => { x with err := w1c x.err v 31 }
  else s

/-- RNG (R169). -/
def writeRng (s : State) (off : Nat) (v : Word) : State :=
  let g := s.rng
  let cls (k n : Nat) : State :=
    let e := (List.range n).foldl (fun e i => vmod e (fin 17 (8 * k + i)) fun _ => BitVec.ofNat 3 (fld v (4 * i) 3)) g.evtClass
    { s with rng := { g with evtClass := e } }
  if off = 0 then { s with rng := { g with errVector := BitVec.ofNat 6 (fld v 0 6) } }
  else if off = 4 then { s with rng := { g with
    ringErr := w1c g.ringErr v 0, backlogHigh := w1c g.backlogHigh v 1, lost := w1c g.lost v 2, framesLost := w1c g.framesLost v 3 } }
  else if off = 0x10 then cls 0 8
  else if off = 0x14 then cls 1 8
  else if off = 0x18 then cls 2 1
  else match arr off 0x100 4 16 with
    | some (w, 0) => forAll (List.range 8) (fun s i => writeFrxMap s (fin 128 (8 * w.val + i)) (BitVec.ofNat 3 (fld v (4 * i) 3))) s
    | _ => match arr off 0x1000 0x40 57 with
      | some (n, r) => writeRing s n r v
      | none => s

/-- MPL (R182). -/
def writeMpl (s : State) (off : Nat) (v : Word) : State :=
  if off = 0 then { s with mpl := { s.mpl with eccDrop := w1c s.mpl.eccDrop v 30, wmRefused := w1c s.mpl.wmRefused v 31 } }
  else match arr off 0x1000 16 1024 with
    | some (q, 0) => writeWatermark s q v
    | _ => s

/-- STR (R123): a write with any field outside its range is ignored whole. -/
def writeStr (s : State) (off : Nat) (v : Word) : State :=
  let x := s.str
  if off = 0 then
    let wd := fld v 0 16
    let oc := fld v 16 16
    if 5 ≤ wd ∧ wd ≤ 500 ∧ 20 ≤ oc ∧ oc ≤ 500 then { s with cfg := { s.cfg with wdDefault := wd, openDefault := oc } } else s
  else if off = 4 then { s with str := { x with
    anyDown := w1c x.anyDown v 0, anySlack := w1c x.anySlack v 1, anyConflict := w1c x.anyConflict v 2, anyRefused := w1c x.anyRefused v 3 } }
  else match arr off 0x1000 16 128 with
    | some (l, 0) => writeLaneCtl s l v
    | some (l, 4) => s.onLane l fun y => { y with
        crcBurst := w1c y.crcBurst v 28, attachFail := w1c y.attachFail v 29, slackSeen := w1c y.slackSeen v 30
        conflictF := w1c y.conflictF v 31 }
    | _ => s

/-- SEQ (R235). -/
def writeSeq (s : State) (off : Nat) (v : Word) : State :=
  let q := s.seq
  if off = 0 then { s with seq := { q with
    trigLostAny := w1c q.trigLostAny v 0, refusedAny := w1c q.refusedAny v 1, faultAny := w1c q.faultAny v 2
    reloadAny := w1c q.reloadAny v 3, mismatchAny := w1c q.mismatchAny v 4, outlierAny := w1c q.outlierAny v 5 } }
  else s

/-- SAF (R281). -/
def writeSaf (s : State) (off : Nat) (v : Word) : State :=
  let f := s.saf
  if off = 0 then { s with saf := { f with
    tripAny := w1c f.tripAny v 16, sentinelAny := w1c f.sentinelAny v 17, stopAny := w1c f.stopAny v 18
    outFaultAny := w1c f.outFaultAny v 19, restartAny := w1c f.restartAny v 20 } }
  else s

/-- SHR (R307): a write with a field outside its range is ignored whole. -/
def writeShr (s : State) (off : Nat) (v : Word) : State :=
  let h := s.shr
  let n := v.toNat
  if off = 0 then writeShrCfg s v
  else if off = 4 then { s with shr := { h with
    minDenied := w1c h.minDenied v 16, overload := w1c h.overload v 17, late := w1c h.late v 18
    kiteExpired := w1c h.kiteExpired v 19, peerFallback := w1c h.peerFallback v 20 } }
  else if off = 0x1C then { s with shr := { h with siteLo := v } }
  else if off = 0x20 then writeSitePower s v
  else if off = 0x24 then { s with shr := { h with ramp := n } }
  else if off = 0x28 then
    if fld v 0 8 + fld v 8 8 + fld v 16 8 + fld v 24 8 ≤ 100 then
      { s with cfg := { s.cfg with peerShare := Vector.ofFn fun (k : Fin 4) => fld v (8 * k.val) 8 } }
    else s
  else if off = 0x2C then
    if fld v 0 8 ≤ 100 ∧ 10 ≤ fld v 8 8 then { s with cfg := { s.cfg with fallbackPct := fld v 0 8, kitePeriod := fld v 8 8 } } else s
  else if off = 0x54 then if 100000 ≤ n ∧ n ≤ 300000 then { s with cfg := { s.cfg with vnom := n } } else s
  else match arr off 0x10 4 3 with
    | some (p, 0) => if n ≤ 2000000000 then { s with shr := { h with site := { h.site with ph := vmod h.site.ph p fun _ => n } } } else s
    | _ => s

/-- A station address base that obeys R310: the low 9 bits of the last two octets, taken big-endian, are 0, and so is bit 0 of the
first octet. Octet 0 is the lowest byte of the number. -/
def macBaseOk (m : Nat) : Bool := (256 * (m / 2 ^ 32 % 256) + m / 2 ^ 40 % 256) % 512 == 0 && m % 2 == 0

/-- A write of PLC_CFG, judged against the lock as it stood (R14, R335). -/
def writePlcCfg (s : State) (v : Word) : State :=
  if 80 < fld v 16 7 then s
  else
    State.revote { s with plc := { s.plc with
      en := bit v 0, quietEn := bit v 1, crossDev := bit v 2, txAtten := BitVec.ofNat 7 (fld v 16 7)
      lock := s.plc.lock || bit v 31 } }

/-- A write of PLC_MAC_BASE_LO: read-only while LOCK is set. -/
def writeMacLo (s : State) (v : Word) : State := if s.plc.lock then s else { s with plc := { s.plc with macLo := v } }

/-- A write of PLC_MAC_BASE_HI: the base takes effect, or is ignored (R310). -/
def writeMacHi (s : State) (v : Word) : State :=
  let m := s.plc.macLo.toNat + 2 ^ 32 * fld v 0 16
  if s.plc.lock || !macBaseOk m then s else { s with plc := { s.plc with mac := BitVec.ofNat 48 m } }

/-- PLC and SLC (R335): a write with any field outside its range is ignored whole. -/
def writePlc (s : State) (off : Nat) (v : Word) : State :=
  let p := s.plc
  if off = 0 then writePlcCfg s v
  else if off = 4 then writeMacLo s v
  else if off = 8 then writeMacHi s v
  else if off = 0xC then { s with plc := { p with
    failAny := w1c p.failAny v 0, conflictAny := w1c p.conflictAny v 1, frameDrop := w1c p.frameDrop v 2
    commonImpulse := w1c p.commonImpulse v 3, stationFault := w1c p.stationFault v 4, peerMissing := w1c p.peerMissing v 5 } }
  else if off = 0x100 then
    let a := fld v 0 8; let b := fld v 8 12; let c := fld v 20 12
    if 2 ≤ a ∧ a ≤ 120 ∧ 200 ≤ b ∧ b ≤ 2000 ∧ 100 ≤ c ∧ c ≤ 2000 then
      { s with cfg := { s.cfg with assocWin := a, soundWin := b, matchT := c } }
    else s
  else if off = 0x104 then
    let a := fld v 0 10; let b := fld v 10 10; let c := fld v 20 4; let d := fld v 24 2
    if 10 ≤ a ∧ a ≤ 200 ∧ 100 ≤ b ∧ b ≤ 900 ∧ 1 ≤ c ∧ c ≤ 10 ∧ d ≠ 3 then
      { s with cfg := { s.cfg with scoreMargin := a, attenMax := b, minSounds := c, validate := BitVec.ofNat 2 d } }
    else s
  else if off = 0x108 then
    let a := fld v 0 12; let b := fld v 12 12
    if 20 ≤ a ∧ a ≤ b ∧ b ≤ 3500 then { s with cfg := { s.cfg with togMin := a, togMax := b } } else s
  else s

/-- MET (R370). -/
def writeMet (s : State) (off : Nat) (v : Word) : State :=
  let m := s.met
  if off = 0 then { s with met := { m with
    verifyAny := w1c m.verifyAny v 0, absentAny := w1c m.absentAny v 1, gapAny := w1c m.gapAny v 2, tempAny := w1c m.tempAny v 3
    seqAny := w1c m.seqAny v 4, neutralAny := w1c m.neutralAny v 5, overAny := w1c m.overAny v 6, incCheck := w1c m.incCheck v 7 } }
  else s

/-- ENR (R395): a write with any field outside its range is ignored whole; a change of the balance settings makes the open window
invalid (R388). -/
def writeEnr (s : State) (off : Nat) (v : Word) : State :=
  let e := s.enr
  if off = 0 then writeEnrCfg s v
  else if off = 4 then { s with enr := { e with
    commitFault := w1c e.commitFault v 0, balAlarmF := w1c e.balAlarmF v 1, unmetReported := w1c e.unmetReported v 2
    overrun := w1c e.overrun v 3, silentAny := w1c e.silentAny v 4, uncompAny := w1c e.uncompAny v 5, auxLate := w1c e.auxLate v 6 } }
  else if off = 0x10 then
    let a := fld v 0 10; let b := fld v 10 16; let c := fld v 26 4
    if 1 ≤ a ∧ a ≤ 200 ∧ 1 ≤ c then
      { s with
        cfg := { s.cfg with tolPct := a, tolWh := b, balN := c }
        enr := { e with balInvalid := e.balInvalid || a != s.cfg.tolPct || b != s.cfg.tolWh || c != s.cfg.balN } }
    else s
  else if off = 0x14 then
    if v.toNat ≤ 1000000 then { s with cfg := { s.cfg with auxW := v.toNat }, enr := { e with balInvalid := e.balInvalid || v.toNat != s.cfg.auxW } } else s
  else if off = 0x18 then
    let t := fld v 0 16
    if 100 ≤ t ∧ t ≤ 10000 then { s with cfg := { s.cfg with keepThresh := t } } else s
  else match arr off 0x100 0x10 8 with
    | some (k, 0) => writePulse s k false v
    | some (k, 4) => writePulse s k true v
    | _ => s

/-- BIL (R433). -/
def writeBil (s : State) (off : Nat) (v : Word) : State :=
  let b := s.bil
  if off = 0 then { s with bil := { b with
    bufHigh := w1c b.bufHigh v 16, bufFull := w1c b.bufFull v 17, openRefused := w1c b.openRefused v 18
    tamperAny := w1c b.tamperAny v 19, periodClosed := w1c b.periodClosed v 20 } }
  else if off = 0xC then { s with bil := { b with page := BitVec.ofNat 2 (fld v 0 2) } }
  else s

/-- REC (R451). -/
def writeRec (s : State) (off : Nat) (v : Word) : State :=
  let r := s.recd
  if off = 0 then { s with recd := { r with lostLegal := w1c r.lostLegal v 0, lostOps := w1c r.lostOps v 1 } }
  else if off = 0x30 then { s with recd := { r with cursorLog := bit v 0, cursorArea := bit v 1 } }
  else if off = 0x34 then writeCursor s v
  else if off = 0x38 then { s with recd := { r with opsMask := v } }
  else s

/-- KEY (R551). -/
def writeKey (s : State) (off : Nat) (v : Word) : State :=
  let k := s.key
  if off = 0 then { s with key := { k with
    unusableAny := w1c k.unusableAny v 16, credFail := w1c k.credFail v 17, rngFault := w1c k.rngFault v 18 } }
  else s

/-- PWR (R587): a write with a field outside its range is ignored whole; a host vote for domains 0 to 5 and 10, and the mask bits of
sources 0 and 1, are ignored, and mask bit 2 always reads 1. -/
def writePwr (s : State) (off : Nat) (v : Word) : State :=
  let p := s.pwr
  if off = 0 then
    if fld v 8 8 = 0 then s
    else State.revote { s with cfg := { s.cfg with dropHold := fld v 8 8 }, pwr := { p with autoBay := bit v 0, wakeEn := bit v 1 } }
  else if off = 4 then { s with pwr := { p with wakeF := w1c p.wakeF v 16, faultF := w1c p.faultF v 17 } }
  else if off = 0xC then
    let ds := (List.finRange 19).foldl (fun ds d =>
      if d.val ≤ 5 ∨ d.val = 10 then ds else vmod ds d fun x => { x with hold := bit v d.val }) p.domains
    State.revote { s with pwr := { p with domains := ds } }
  else if off = 0x10 then { s with cfg := { s.cfg with wakeMask := BitVec.ofNat 9 (fld v 0 9) &&& 0x1FC ||| 4 } }
  else if off = 0x20 then { s with pwr := { p with alarmLo := v } }
  else if off = 0x24 then writeAlarm s v
  else s

/-- FBP (R192). -/
def writeFbp (s : State) (off : Nat) (v : Word) : State :=
  match arr off 0x1000 16 8 with
  | some (q, 0) => writeUartCfg s q v
  | some (q, 4) => writeUartBaud s q v
  | some (q, 8) => s.onUart q fun u => { u with
      overrun := w1c u.overrun v 0, framing := w1c u.framing v 1, parityErr := w1c u.parityErr v 2 }
  | some _ => s
  | none => match arr off 0x2000 0x100 4 with
    | some (c, r) =>
      if r = 0 then writeCanCfg s c v
      else if r = 4 then writeCanNbt s c v
      else if r = 8 then writeCanDbt s c v
      else if r = 0xC then s.onCan c fun x => { x with
        passiveF := w1c x.passiveF v 24, busOffF := w1c x.busOffF v 25, rxDrop := w1c x.rxDrop v 26 }
      else
        let onF (f : Fin 16) (g : CanFilter → CanFilter) : State := s.onCan c fun x => { x with filters := vmod x.filters f g }
        match arr r 0x80 8 16 with
        | some (f, 0) => onF f fun y => { y with id := BitVec.ofNat 29 (fld v 0 29), ide := bit v 29, en := bit v 31 }
        | some (f, 4) => onF f fun y => { y with mask := BitVec.ofNat 29 (fld v 0 29), ideMask := bit v 29 }
        | _ => s
    | none => s

/-! ### BAR0 (R128, R129, R597) -/

/-- An aligned write of the BAR0 register at `off`; a reserved offset ignores it (R11, R128). -/
def writeReg (s : State) (off : Nat) (v : Word) : State :=
  let blk := off / 0x10000
  let r := off % 0x10000
  if off % 4 ≠ 0 || !blockAnswers s blk then s
  else match blk with
  | 0 => writeGlb s r v | 1 => writeTim s r v | 2 => writeRng s r v | 3 => writeMpl s r v | 4 => writeStr s r v
  | 5 => writeSeq s r v | 6 => writeSaf s r v | 7 => writeShr s r v | 8 => writePlc s r v | 9 => writeMet s r v
  | 10 => writeEnr s r v | 11 => writeBil s r v | 12 => writeRec s r v | 13 => writeAut s r v | 14 => writeKit s r v
  | 15 => writeTie s r v | 16 => writeKey s r v | 17 => writeLsw s r v | 18 => writeEpd s r v | 19 => writePwr s r v
  | 20 => writeUpd s r v | 21 => writePmc s r v | 22 => writeFbp s r v | _ => s

/-- What a read of BAR0 latches: the times at TIM_SNAP_TICK_LO (R88), a counter group at its PMC_CYC_LO (R617). -/
def latchRead (s : State) (off : Nat) : State :=
  if off = 0x10010 then latchSnap s
  else if 0x151000 ≤ off then
    match arr off 0x151000 0x100 8 with
    | some (g, 8) => latchGroup s g
    | _ => s
  else s

/-- A read of BAR0 with its effects: the value, and the state after. -/
def busRead (s : State) (off : Nat) : Word × State :=
  if blockAnswers s (off / 0x10000) then let s := latchRead s off; (readReg s off, s) else (0, s)

/-- The roles a register block grants reading to (R42, R88, R123, R169, R182, R192, R235, R281, R307, R335, R370, R395, R433, R451,
R481, R507, R535, R551, R569, R587, R607, R617). -/
def readRoles (blk : Nat) : List Nat := if [1, 9, 10, 11, 20].contains blk then [1, 2, 4, 5] else [1, 2, 5]

/-- The roles a register block grants writing to. -/
def writeRoles : List Nat := [1, 5]

/-- The BAR0 offset of a register command; none where it is misaligned or outside the blocks (R168). -/
def Cmd.regOff (c : Cmd) : Option Nat :=
  let off := fld (wAt c.params 0) 0 24
  if off % 4 = 0 ∧ off / 0x10000 ≤ 22 then some off else none

/-- Read register. -/
def effReadRegister (c : Cmd) (s : State) : State :=
  match Cmd.regOff c with
  | none => complete s c 0x02
  | some off =>
    if (readRoles (off / 0x10000)).contains (s.roleOf c) then let r := busRead s off; complete r.2 c 0 r.1
    else refuseRole s c

/-- READ_REGISTER. -/
def execReadRegister (c : Cmd) (s : State) : Res := .next (cmdStep [0x0003] effReadRegister c s)

/-- Write register. -/
def effWriteRegister (c : Cmd) (s : State) : State :=
  match Cmd.regOff c with
  | none => complete s c 0x02
  | some off =>
    if writeRoles.contains (s.roleOf c) then complete (writeReg s off (wAt c.params 1)) c 0 else refuseRole s c

/-- WRITE_REGISTER. -/
def execWriteRegister (c : Cmd) (s : State) : Res := .next (cmdStep [0x0004] effWriteRegister c s)

/-! ### BAR2 and BAR4 (R127, R129, R158, R542) -/

/-- The messages of vectors that have become free of their masks, and whose pending bits are set, are sent (PCI Express, log 79). -/
def sendPending (s : State) : State :=
  forAll (List.finRange 64) (fun s e =>
    let m : BitVec 64 := 1#64 <<< e.val
    if s.rng.msixPending.getLsbD e.val && s.rng.msixEn && !s.rng.msixFuncMask && !s.rng.msixMasked.getLsbD e.val then
      sendMsix { s with rng := { s.rng with msixPending := s.rng.msixPending &&& ~~~m } } (BitVec.ofNat 6 e.val)
    else s) s

/-- A write of word `r` of MSI-X table entry `e` (PCI Express Base Specification): unmasking a vector whose pending bit is set sends
its message. -/
def writeMsix (s : State) (e : Fin 64) (r : Nat) (v : Word) : State :=
  let on (f : BitVec 64 × BitVec 32 → BitVec 64 × BitVec 32) : State := { s with rng := { s.rng with msixTable := vmod s.rng.msixTable e f } }
  let m : BitVec 64 := 1#64 <<< e.val
  if r = 0 then on fun (x : BitVec 64 × BitVec 32) => (BitVec.ofNat 64 (x.1.toNat / 2 ^ 32 * 2 ^ 32 + v.toNat), x.2)
  else if r = 4 then on fun (x : BitVec 64 × BitVec 32) => (BitVec.ofNat 64 (v.toNat * 2 ^ 32 + x.1.toNat % 2 ^ 32), x.2)
  else if r = 8 then on fun (x : BitVec 64 × BitVec 32) => (x.1, v)
  else if bit v 0 then { s with rng := { s.rng with msixMasked := s.rng.msixMasked ||| m } }
  else sendPending { s with rng := { s.rng with msixMasked := s.rng.msixMasked &&& ~~~m } }

/-- A write of BAR2: doorbells in the low word of their 8 bytes, and the MSI-X table; the pending-bit array is read-only. -/
def writeBar2 (s : State) (off : Nat) (v : Word) : State :=
  match arr off 0 8 57 with
  | some (r, 0) => if blockAnswers s 2 then doorbell s r v else s
  | _ => match arr off 0x8000 16 64 with
    | some (e, r) => if r % 4 = 0 then writeMsix s e r v else s
    | none => s

/-- What a word of BAR2 reads as (R127, R137): a doorbell's latest value, the MSI-X table, the pending bits; 0 elsewhere. -/
def readBar2 (s : State) (off : Nat) : Word :=
  match arr off 0 8 57 with
  | some (r, 0) => (s.ring r).doorbell
  | some _ => 0
  | none => match arr off 0x8000 16 64 with
    | some (e, r) =>
      let x := vget s.rng.msixTable e
      if r = 0 then word x.1.toNat 0 else if r = 4 then word x.1.toNat 1 else if r = 8 then x.2
      else if r = 12 then pack [(0, b2n (s.rng.msixMasked.getLsbD e.val))] else 0
    | none => if off = 0xC000 then word s.rng.msixPending.toNat 0 else if off = 0xC004 then word s.rng.msixPending.toNat 1 else 0

/-! ### The configuration space (R125)

Its layout is PCI Express's own; where a capability stands is PRESUMED (log 79): power management at 0x40, PCI Express at 0x50, MSI-X at 0x90,
Advanced Error Reporting at 0x100. Enumeration, by which the host gives the BARs their addresses, is not part of the model (log 17). -/

/-- The 32-bit word of the configuration space at an offset: identity and class, three 64-bit non-prefetchable BARs of 4 MiB, 64 KiB and
1 MiB (as they read when all ones have been written to them), and the capabilities. -/
def readConfig (s : State) (off : Nat) : Word :=
  let g := s.rng
  match off with
  | 0x00 => pack [(0, Config.vendorId.toNat), (16, 0x0128)]
  | 0x08 => pack [(8, 0x118000)]
  | 0x10 => BitVec.ofNat 32 (2 ^ 32 - 4 * 2 ^ 20 + 4) | 0x18 => BitVec.ofNat 32 (2 ^ 32 - 64 * 2 ^ 10 + 4)
  | 0x20 => BitVec.ofNat 32 (2 ^ 32 - 2 ^ 20 + 4)
  | 0x14 | 0x1C | 0x24 => 0xFFFFFFFF#32
  | 0x34 => 0x40
  | 0x40 => pack [(0, 1), (8, 0x50), (16, 3)] | 0x44 => pack [(0, if g.d3hot then 3 else 0)]
  | 0x50 => pack [(0, 0x10), (8, 0x90), (16, 2)]
  | 0x54 => pack [(0, 2), (15, 1), (28, 1)]
  | 0x58 => pack [(5, g.mps.toNat), (12, g.mrrs.toNat)]
  | 0x5C => pack [(0, 4), (4, 4)]
  | 0x90 => pack [(0, 0x11), (16, 63), (30, b2n g.msixFuncMask), (31, b2n g.msixEn)]
  | 0x94 => pack [(0, 2 + 0x8000)] | 0x98 => pack [(0, 2 + 0xC000)]
  | 0x100 => pack [(0, 1), (16, 2)] | 0x104 => pack [(20, b2n g.aerUr)]
  | _ => 0

/-- A write of the configuration space: the device settings with the function level reset, the power state (D3hot is link loss), MSI-X Enable
and Function Mask, and the error status (W1C). -/
def writeConfig (s : State) (off : Nat) (v : Word) : State :=
  if off = 0x44 then if fld v 0 2 = 3 then linkLoss s 3 else s
  else if off = 0x58 then
    if bit v 15 then linkLoss s 2
    else { s with rng := { s.rng with
      mps := if fld v 5 3 ≤ 2 then BitVec.ofNat 3 (fld v 5 3) else s.rng.mps
      mrrs := if fld v 12 3 ≤ 5 then BitVec.ofNat 3 (fld v 12 3) else s.rng.mrrs } }
  else if off = 0x90 then sendPending { s with rng := { s.rng with msixFuncMask := bit v 30, msixEn := bit v 31 } }
  else if off = 0x104 then { s with rng := { s.rng with aerUr := w1c s.rng.aerUr v 20 } }
  else s

/-- A write of BAR4: only the key-loading window takes writes (R415, R447, R542). -/
def writeBar4 (s : State) (off : Nat) (v : Word) : State :=
  if 0x80000 ≤ off ∧ off + 4 ≤ 0x90000 then
    forAll (List.range 4) (fun s i => writeKeyWindow s (off - 0x80000 + i) (BitVec.ofNat 8 (fld v (8 * i) 8))) s
  else s

/-- What a byte of BAR4 reads as: the billing object window (R415), the recorder cursor window (R447) and the key-loading window
(R542). -/
def readBar4 (s : State) (off : Nat) : Byte :=
  if off < 0x40000 then
    let slot := 1024 * s.bil.page.toNat + off / 256
    match (s.bil.recs.filter fun r => r.recSeq.toNat % 4096 == slot).getLast? with
    | some r => ((recordBytes r)[off % 256]?).getD 0
    | none => 0
  else if off < 0x80000 then ((windowSlot s ((off - 0x40000) / 256))[off % 256]?).getD 0
  else if off < 0x90000 then readKeyWindow s (off - 0x80000)
  else 0

/-- REGISTER_WRITE (R14): an aligned host write in BAR0, BAR2 or BAR4 (`bar` 0, 1 and 2), or in the configuration space (`bar` 3). -/
def execRegisterWrite (bar : Fin 4) (off : Nat) (v : BitVec 32) (s : State) : Res :=
  .next (viaHost s fun s =>
    match bar.val with
    | 0 => writeReg s off v
    | 1 => writeBar2 s off v
    | 2 => writeBar4 s off v
    | _ => writeConfig s off v)

/-- BAR_ACCESS_UNALIGNED (R129): an access of BAR0 or BAR2 that is not an aligned 32-bit access completes with Unsupported Request
and has no effect. -/
def execBarAccessUnaligned (bar : Fin 3) (off : Nat) (size : Nat) (_write : Bool) (s : State) : Res :=
  .next (viaHost s fun s => if bar.val ≤ 1 ∧ (size ≠ 4 ∨ off % 4 ≠ 0) then { s with rng := { s.rng with aerUr := true } }.send .unsupported else s)

/-- PLC_CFG_LOCK (R335): a write of PLC_CFG with LOCK = 1. -/
def execPlcCfgLock (v : BitVec 32) (s : State) : Res := .next (viaBar s 8 fun s => writePlcCfg s (v ||| 0x80000000#32))

/-- MAC_BASE_WRITE (R310): a write of PLC_MAC_BASE_HI. -/
def execMacBaseWrite (v : BitVec 32) (s : State) : Res := .next (viaBar s 8 fun s => writeMacHi s v)

end Sys2Proof.Machine
end

