-- ==== Sys2Proof/Machine/Marks.lean ====
section
/-! DEFINITION. The effect of a ring command by its opcode (R167), the marks in the order in which they fire (R73 to R76), and the
commands that recovery serves on the service UART (R597). -/

namespace Sys2Proof.Machine

/-- The effect of a ring command (R167); an opcode the table does not hold has none. -/
def effOf (op : Nat) : Cmd → State → State :=
  match op / 256 with
  | 0x00 => ([effNoOperation, effMarker, effFlushTransmit, effReadRegister, effWriteRegister][op % 256]?).getD fun _ s => s
  | 0x01 => ([effSignal, effBindProfile, effEnableOutlet, effAuthorise, effForceFault, effResetContext, effForgetDelays,
      effReadContext][op % 256]?).getD fun _ s => s
  | 0x02 => ([effClearTrip, effRunRdcTest, effAcknowledgeStop, effStopAxis, effReleaseAxis, effClearOutputFault,
      effReadInsulation][op % 256]?).getD fun _ s => s
  | 0x03 => ([effSetSiteLimit, effSetRequest, effSetPriority, effReadAllocation][op % 256]?).getD fun _ s => s
  | 0x04 => ([effLeaveAssociation, effTlsSign, effReadAssociation][op % 256]?).getD fun _ s => s
  | 0x05 =>
    if op % 256 = 0x10 then effDeclareAuxiliary
    else if op % 256 = 0x11 then effReadEnergyRegister
    else ([effReadVerification, effToneControl, effRestartVerification][op % 256]?).getD fun _ s => s
  | 0x06 => ([effReadObject, effWriteObject, effSelectPlan, effSignReading, effAcknowledgeRecords][op % 256]?).getD fun _ s => s
  | 0x07 => ([effReadRecords, effTakeSnapshot][op % 256]?).getD fun _ s => s
  | 0x08 => ([effStoreSlot, effReadSlot, effBeginShadow, effSwitchTable, effBindCable, effReadTag][op % 256]?).getD fun _ s => s
  | 0x09 => ([effProbeNode, effClearPenalty][op % 256]?).getD fun _ s => s
  | 0x0A => ([effHandOver, effReadPairState][op % 256]?).getD fun _ s => s
  | 0x0B => ([effLoadKey, effEraseKey, effGenerateKey, effReadPublicKey, effBeginCredential,
      effProveCredential][op % 256]?).getD fun _ s => s
  | 0x0C =>
    if 0x40 ≤ op % 256 then ([effTransmit, effRead, effAbortPort][op % 256 - 0x40]?).getD fun _ s => s
    else ([effSetLoadChannels, effClearLatch, effWriteOperatorArea, effSetLegalView, effRedraw][op % 256]?).getD fun _ s => s
  | 0x0D => ([effEnterQuiet, effLeaveQuiet][op % 256]?).getD fun _ s => s
  | 0x0E => ([effWriteImageBlock, effVerifyImage, effActivateFirmware, effConfirmFirmware, effRevertFirmware,
      effActivateConfiguration, effConfirmConfiguration, effRevertConfiguration, effDominoSend, effEnterRecovery,
      effReadSlots][op % 256]?).getD fun _ s => s
  | 0x0F => ([effDumpNow, effClearCounters][op % 256]?).getD fun _ s => s
  | 0x10 => ([effReadTally, effClearTally][op % 256]?).getD fun _ s => s
  | _ => fun _ s => s

/-! ### Marks (R73 to R76) -/

/-- What a pending mark does when it fires. -/
inductive MarkAct where
  /-- legal island: the commit of a mains-cycle boundary (R376) -/
  | commit
  /-- sequencer: a zero-point switch (R222) -/
  | switch (o : Fin 128) (aux : Bool)
  /-- sequencer: an angle timer (R210) -/
  | timer (o : Fin 128) (t : Fin 4)
  /-- a command with AT (R145) -/
  | command (ring : Fin 16) (index : BitVec 32)
  /-- share engine: the snapshot (R293) -/
  | snapshot
  /-- share engine: the allocation takes effect (R293) -/
  | apply
  /-- Kite: the report (R501) -/
  | kite
  /-- configuration activation (R601) -/
  | config
  /-- cluster and pair logic: the switch of the authorisation table (R463) -/
  | table
deriving DecidableEq, Repr

/-- The place of a mark among marks of one value: its owner, for the sequencer its outlet, then its number (R73, R75). A command with AT
comes after the outlets' reserved marks (DESIGN CHOICE, log 143). -/
def MarkAct.rank : MarkAct → Nat
  | .commit => 0x10000
  | .switch o aux => 0x20000 + 4 * o.val + b2n aux
  | .timer o t => 0x20000 + 4 * o.val + 2 + t.val % 2
  | .command _ _ => 0x2FFFF
  | .snapshot => 0x30000
  | .apply => 0x30001
  | .kite => 0x40000
  | .config => 0x50000
  | .table => 0x60000

/-- The effect of the mark of a command with AT (R145): the command takes effect where the order of R142 lets it. -/
def commandFires (ring : Fin 16) (index : BitVec 32) (s : State) : State :=
  match s.cmdRec ring index with
  | some x =>
    if x.phase = .waitMark ∧ s.clocksRun then
      cmdStep [x.cmd.opcode.toNat] (effOf x.cmd.opcode.toNat) x.cmd (fireCmdMark s ring index)
    else s
  | none => s

/-- A mark fires. -/
def fireMark : MarkAct → State → State
  | .commit, s => commitFires 0 s
  | .switch o aux, s => switchFires o aux s
  | .timer o t, s => timerFires o t s
  | .command ring index, s => commandFires ring index s
  | .snapshot, s => snapshotFires s
  | .apply, s => applyFires s
  | .kite, s => kiteFires s
  | .config, s => configFires s
  | .table, s => tableFires s

/-- The reserved marks of a context that are pending, with their values (R73, R210, R222). -/
def reservedMarks (s : State) (o : Fin 128) : List (Nat × MarkAct) :=
  let c := s.ctx o
  let zp (k : Contactor) (aux : Bool) : List (Nat × MarkAct) := match k.zp with
    | some z => if mayStep s o then [(z.mark, .switch o aux)] else []
    | none => []
  zp c.main false ++ zp c.aux true ++ (List.finRange 4).filterMap fun t => match vget c.timers t with
    | .angle m => if seqOn s then some (m, .timer o t) else none
    | _ => none

/-- The pending shared marks that may fire, with their values. -/
def sharedMarks (s : State) : List (Nat × MarkAct) :=
  s.tim.marks.filterMap fun m => match m.owner with
    | .sequencer =>
      let k : Fin 16 × BitVec 32 := (fin 16 m.ref, BitVec.ofNat 32 (m.ref / 16))
      if (s.cmdRec k.1 k.2).any fun x => x.phase == .waitMark then some (m.value, .command k.1 k.2) else none
    | .share => some (m.value, if m.ref = 0 then .snapshot else .apply)
    | .kite => if s.shr.kiteEn then some (m.value, .kite) else none
    | .config => if s.upd.cfgPend.isSome && s.glb.phase == .running then some (m.value, .config) else none
    | .cluster => if s.aut.switchAt == some m.value && s.glb.phase == .running then some (m.value, .table) else none
    | _ => none

/-- Every pending mark that may fire, with its value: nothing fires while the clocks stand. -/
def pendingMarks (s : State) : List (Nat × MarkAct) :=
  if !s.clocksRun then []
  else (if commits s then [((s.keep.commitNo + 1) * 65536, .commit)] else []) ++ outlets.flatMap (reservedMarks s) ++ sharedMarks s

/-- One mark fires before another (R75): by value, then by owner. -/
def markBefore (a b : Nat × MarkAct) : Bool := decide (a.1 < b.1) || (a.1 == b.1 && decide (a.2.rank < b.2.rank))

/-- The mark that fires first. -/
def firstMark (s : State) : Option (Nat × MarkAct) :=
  (pendingMarks s).foldl (fun a b => match a with
    | some x => if markBefore b x then some b else a
    | none => some b) none

/-- Every pending mark that comes before a given one fires, in order (R75); at most `n` of them. -/
def fireBefore : Nat → Nat × MarkAct → State → State
  | 0, _, s => s
  | n + 1, k, s => match firstMark s with
    | some m => if markBefore m k then fireBefore n k (fireMark m.2 s) else s
    | none => s

/-- The bound on the marks that one command fires. -/
def markFuel : Nat := 65536

/-- The marks before a given pending one have fired. -/
def inOrder (a : MarkAct) (s : State) : State :=
  match (pendingMarks s).find? fun m => m.2 == a with
  | some m => fireBefore markFuel m s
  | none => s

/-- The angle has jumped from `s` to `t` (R76): every mark passed over fires at the jump, in the order of R75. Of the commits, only the one
that was pending is made; the next is that of the next boundary (R77). -/
def afterJump (s t : State) : State :=
  if s.tim.mains < t.tim.mains then
    let n := t.keep.commitNo + 1
    let t := if commits t && decide (n * 65536 ≤ t.tim.mains) then
        let u := commitFires 0 (inOrder .commit t)
        { u with keep := { u.keep with commitNo := max u.keep.commitNo u.cycle } }
      else t
    fireBefore markFuel (t.tim.mains + 1, .commit) t
  else t

/-- COMMIT (R376). -/
def execCommit (fault : Fin 3) (s : State) : Res := .next (commitFires fault (inOrder .commit s))

/-- ZERO_POINT_MARK (R221, R222). -/
def execZeroPointMark (o : Fin 128) (aux : Bool) (s : State) : Res := .next (switchFires o aux (inOrder (.switch o aux) s))

/-- TIMER_EXPIRY (R210). -/
def execTimerExpiry (o : Fin 128) (t : Fin 4) (s : State) : Res := .next (timerFires o t (inOrder (.timer o t) s))

/-- COMMAND_AT_MARK (R145). -/
def execCommandAtMark (r : Fin 16) (index : BitVec 32) (s : State) : Res := .next (commandFires r index (inOrder (.command r index) s))

/-- SHARE_SNAPSHOT (R293). -/
def execShareSnapshot (s : State) : Res := .next (snapshotFires (inOrder .snapshot s))

/-- SHARE_APPLY (R293). -/
def execShareApply (s : State) : Res := .next (applyFires (inOrder .apply s))

/-- KITE_REPORT (R501). -/
def execKiteReport (s : State) : Res := .next (kiteFires (inOrder .kite s))

/-- CONFIGURATION_ACTIVATION (R601, R603). -/
def execConfigurationActivation (s : State) : Res := .next (configFires (inOrder .config s))

/-- TABLE_SWITCH (R463). -/
def execTableSwitch (s : State) : Res := .next (tableFires (inOrder .table s))

/-- MAINS_LOCKED (R66, R69, R76). -/
def execMainsLocked (cycles : List SrcCycle) (angle : BitVec 16) (s : State) : Res := .next (afterJump s (mainsFound cycles angle s))

/-- TIE_PORT_UP (R508, R510, R76). -/
def execTiePortUp (p : Fin 4) (x : TiePeer) (s : State) : Res := .next (afterJump s (tiePortUp p x s))

/-- TIE_FRAME_RECEIVED (R508, R76). -/
def execTieFrameReceived (p : Fin 4) (retries : Nat) (m : TieMsg) (s : State) : Res := .next (afterJump s (tieFrame p retries m s))

/-- A mark set in the past fires at once, in the order of R75 (R76). -/
def fireLate (owner : MarkOwner) (s : State) : State :=
  if s.tim.marks.any fun m => m.owner == owner && m.late then fireBefore markFuel (s.tim.mains + 1, .commit) s else s

/-- ACTIVATE_CONFIGURATION (R601, R606): an activation whose mark is past takes effect at once. -/
def execActivateConfiguration (c : Cmd) (s : State) : Res := .next (fireLate .config (cmdStep [0x0E05] effActivateConfiguration c s))

/-- STORE_CHANGE_RECEIVED (R463, R464): a switch whose mark is past takes effect at once. -/
def execStoreChangeReceived (seq slot : Nat) (bytes : List (BitVec 8)) (s : State) : Res :=
  .next (fireLate .cluster (storeChange seq slot bytes s))

/-! ### The service UART (R597) -/

/-- The ring and index under which a command of the service UART is worked: ring 15 is disabled in recovery. -/
def uartCmd (d : List Word) (data : List Byte) : Cmd := { parseCmd 15 0xFFFFFFFF d data with atMark := 0 }

/-- Work a command of the service UART under the Service role: its completion is taken out of the CPL ring again. -/
def uartWork (s : State) (c : Cmd) : State × Option Completion :=
  let k := cplRing 15
  let role := (s.ring 15).role
  let held := (s.ring k).cplHeld
  let back (s : State) : State := (s.onRing 15 fun x => { x with role := role }).onRing k fun x => { x with cplHeld := held }
  let s := s.onRing 15 fun x => { x with role := 5 }
  match fetchStatus s c with
  | some st => (back s, some ⟨c.index.truncate 16, st, false, c.tag, 0, none, false, false⟩)
  | none =>
    let s := (s.onRing k fun x => { x with cplHeld := [], reserved := x.reserved + 1 })
    let s := { s with rng := { s.rng with cmds := s.rng.cmds ++ [⟨c, .ready, false, none, false, none⟩] } }
    let s := effOf c.opcode.toNat c s
    let done := (s.ring k).cplHeld.head?
    let wait := s.cmdRec 15 c.index
    let answer : Option Completion := match done, wait with
      | some x, _ => some x
      | none, some r => (match r.phase with | .done st res _ => some (mkCpl r st res) | _ => none)
      | none, none => none
    let s := { s with rng := { s.rng with cmds := s.rng.cmds.filter fun x => !(x.cmd.ring == 15 && x.cmd.index == c.index) } }
    let s := if wait.isSome then s.onRing k fun x => { x with reserved := x.reserved - 1 } else s
    (back s, answer)

/-- SERVICE_UART_COMMAND (R597): in recovery the monitor serves a descriptor that arrives on the service UART, and answers with the
completion's status and RESULT. -/
def execServiceUartCommand (d : List (BitVec 32)) (data : List (BitVec 8)) (s : State) : Res :=
  .next (if s.glb.phase = .running ∧ s.upd.recovery then
    let r := uartWork s (uartCmd d data)
    match r.2 with
    | some x => r.1.send (.serviceUart (p8 x.status.toNat ++ leBytes 4 x.result.toNat))
    | none => r.1
  else s)

end Sys2Proof.Machine
end

