-- ==== Sys2Proof/Machine/Dispatch.lean ====
section
/-! DEFINITION. One arm for each command: a direct call of its meaning. -/

namespace Sys2Proof.Machine

def exec (i : Instr) (s : State) : Host.Outcome State Fault Refusal :=
  match i with
  | .noOperation c => Sys2Proof.Machine.execNoOperation c s
  | .marker c => Sys2Proof.Machine.execMarker c s
  | .flushTransmit c => Sys2Proof.Machine.execFlushTransmit c s
  | .readRegister c => Sys2Proof.Machine.execReadRegister c s
  | .writeRegister c => Sys2Proof.Machine.execWriteRegister c s
  | .registerWrite bar off v => Sys2Proof.Machine.execRegisterWrite bar off v s
  | .barAccessUnaligned bar off size write => Sys2Proof.Machine.execBarAccessUnaligned bar off size write s
  | .doorbellWrite r v => Sys2Proof.Machine.execDoorbellWrite r v s
  | .ringEnable r v => Sys2Proof.Machine.execRingEnable r v s
  | .ringDisable r => Sys2Proof.Machine.execRingDisable r s
  | .linkLoss cause => Sys2Proof.Machine.execLinkLoss cause s
  | .commandFetch r d data => Sys2Proof.Machine.execCommandFetch r d data s
  | .commandAtMark r index => Sys2Proof.Machine.execCommandAtMark r index s
  | .backlogDrain => Sys2Proof.Machine.execBacklogDrain s
  | .moderationTimeout r => Sys2Proof.Machine.execModerationTimeout r s
  | .ftxFetch r d bytes => Sys2Proof.Machine.execFtxFetch r d bytes s
  | .frxFill o d => Sys2Proof.Machine.execFrxFill o d s
  | .ftxDone o => Sys2Proof.Machine.execFtxDone o s
  | .timSnapRead => Sys2Proof.Machine.execTimSnapRead s
  | .timCfgLock v => Sys2Proof.Machine.execTimCfgLock v s
  | .plcCfgLock v => Sys2Proof.Machine.execPlcCfgLock v s
  | .autCfgLock v => Sys2Proof.Machine.execAutCfgLock v s
  | .kitCfgLock v => Sys2Proof.Machine.execKitCfgLock v s
  | .tieCfgLock v => Sys2Proof.Machine.execTieCfgLock v s
  | .lswCfgLock v => Sys2Proof.Machine.execLswCfgLock v s
  | .retrain l => Sys2Proof.Machine.execRetrain l s
  | .laneEnable l => Sys2Proof.Machine.execLaneEnable l s
  | .laneDisable l => Sys2Proof.Machine.execLaneDisable l s
  | .watermarkWrite q v => Sys2Proof.Machine.execWatermarkWrite q v s
  | .sitePowerLimitWrite v => Sys2Proof.Machine.execSitePowerLimitWrite v s
  | .macBaseWrite v => Sys2Proof.Machine.execMacBaseWrite v s
  | .alarmWrite v => Sys2Proof.Machine.execAlarmWrite v s
  | .cursorBaseWrite v => Sys2Proof.Machine.execCursorBaseWrite v s
  | .pulseSettingsWrite k isConst v => Sys2Proof.Machine.execPulseSettingsWrite k isConst v s
  | .demandLengthChange v => Sys2Proof.Machine.execDemandLengthChange v s
  | .bandwidthMonitorWrite m v => Sys2Proof.Machine.execBandwidthMonitorWrite m v s
  | .pmcCycRead g => Sys2Proof.Machine.execPmcCycRead g s
  | .stageInsertion stage contacts vin => Sys2Proof.Machine.execStageInsertion stage contacts vin s
  | .seated => Sys2Proof.Machine.execSeated s
  | .powerOnResetRelease slot side dbg guardFail => Sys2Proof.Machine.execPowerOnResetRelease slot side dbg guardFail s
  | .perstRelease => Sys2Proof.Machine.execPerstRelease s
  | .seatLoss contacts bits => Sys2Proof.Machine.execSeatLoss contacts bits s
  | .seatGlitch contact => Sys2Proof.Machine.execSeatGlitch contact s
  | .reseatWaitEnd => Sys2Proof.Machine.execReseatWaitEnd s
  | .cabRst low bits => Sys2Proof.Machine.execCabRst low bits s
  | .powerFailWarning vin bits => Sys2Proof.Machine.execPowerFailWarning vin bits s
  | .vinReturn vin => Sys2Proof.Machine.execVinReturn vin s
  | .keepEntry => Sys2Proof.Machine.execKeepEntry s
  | .vbatLow below25 => Sys2Proof.Machine.execVbatLow below25 s
  | .strapCheck slot side dbg => Sys2Proof.Machine.execStrapCheck slot side dbg s
  | .referenceLost => Sys2Proof.Machine.execReferenceLost s
  | .referenceRestored => Sys2Proof.Machine.execReferenceRestored s
  | .junctionTemperature temp => Sys2Proof.Machine.execJunctionTemperature temp s
  | .mainsLocked cycles angle => Sys2Proof.Machine.execMainsLocked cycles angle s
  | .mainsLost cause a b => Sys2Proof.Machine.execMainsLost cause a b s
  | .meteringCycleBoundary o bits src => Sys2Proof.Machine.execMeteringCycleBoundary o bits src s
  | .legalTimeSync role utc at_ => Sys2Proof.Machine.execLegalTimeSync role utc at_ s
  | .slewEnd => Sys2Proof.Machine.execSlewEnd s
  | .syncAgeExpiry => Sys2Proof.Machine.execSyncAgeExpiry s
  | .localTableEnd => Sys2Proof.Machine.execLocalTableEnd s
  | .trainingSetReceived l ts2 => Sys2Proof.Machine.execTrainingSetReceived l ts2 s
  | .echoReceived l rtt => Sys2Proof.Machine.execEchoReceived l rtt s
  | .linkFault l cause => Sys2Proof.Machine.execLinkFault l cause s
  | .uplinkFrameReceived l chars eof violation => Sys2Proof.Machine.execUplinkFrameReceived l chars eof violation s
  | .linkRestored o => Sys2Proof.Machine.execLinkRestored o s
  | .laneSilent l => Sys2Proof.Machine.execLaneSilent l s
  | .downlinkFrame l disagree => Sys2Proof.Machine.execDownlinkFrame l disagree s
  | .helloReceived l => Sys2Proof.Machine.execHelloReceived l s
  | .proofReceived l => Sys2Proof.Machine.execProofReceived l s
  | .paramAckReceived l => Sys2Proof.Machine.execParamAckReceived l s
  | .attachHoldoffEnd l => Sys2Proof.Machine.execAttachHoldoffEnd l s
  | .mailboxRepeat l => Sys2Proof.Machine.execMailboxRepeat l s
  | .serviceReset fault => Sys2Proof.Machine.execServiceReset fault s
  | .eccError kind inst => Sys2Proof.Machine.execEccError kind inst s
  | .transmit c => Sys2Proof.Machine.execTransmit c s
  | .transmitComplete p => Sys2Proof.Machine.execTransmitComplete p s
  | .read c => Sys2Proof.Machine.execRead c s
  | .abortPort c => Sys2Proof.Machine.execAbortPort c s
  | .rs485PacketEnd q bytes parity framing => Sys2Proof.Machine.execRs485PacketEnd q bytes parity framing s
  | .canFrameReceived c w0 w1 bytes => Sys2Proof.Machine.execCanFrameReceived c w0 w1 bytes s
  | .canBusOff c busOff tec recErr => Sys2Proof.Machine.execCanBusOff c busOff tec recErr s
  | .busOffRecovery c => Sys2Proof.Machine.execBusOffRecovery c s
  | .ctsChange q level => Sys2Proof.Machine.execCtsChange q level s
  | .contextStep o => Sys2Proof.Machine.execContextStep o s
  | .pilotEvaluation o => Sys2Proof.Machine.execPilotEvaluation o s
  | .proximityClass o => Sys2Proof.Machine.execProximityClass o s
  | .timerExpiry o t => Sys2Proof.Machine.execTimerExpiry o t s
  | .zeroPointMark o aux => Sys2Proof.Machine.execZeroPointMark o aux s
  | .contactorFeedback o aux => Sys2Proof.Machine.execContactorFeedback o aux s
  | .contactorTimeout o aux => Sys2Proof.Machine.execContactorTimeout o aux s
  | .lockFeedback o => Sys2Proof.Machine.execLockFeedback o s
  | .profileCheck p version copy crc => Sys2Proof.Machine.execProfileCheck p version copy crc s
  | .contextStart o => Sys2Proof.Machine.execContextStart o s
  | .signal c => Sys2Proof.Machine.execSignal c s
  | .bindProfile c => Sys2Proof.Machine.execBindProfile c s
  | .enableOutlet c => Sys2Proof.Machine.execEnableOutlet c s
  | .authorise c => Sys2Proof.Machine.execAuthorise c s
  | .forceFault c => Sys2Proof.Machine.execForceFault c s
  | .resetContext c => Sys2Proof.Machine.execResetContext c s
  | .forgetDelays c => Sys2Proof.Machine.execForgetDelays c s
  | .readContext c => Sys2Proof.Machine.execReadContext c s
  | .rcEvaluation o => Sys2Proof.Machine.execRcEvaluation o s
  | .rdcTestStep o => Sys2Proof.Machine.execRdcTestStep o s
  | .rdcOkExpiry o => Sys2Proof.Machine.execRdcOkExpiry o s
  | .imdHalfEnd o => Sys2Proof.Machine.execImdHalfEnd o s
  | .isoResultAged o => Sys2Proof.Machine.execIsoResultAged o s
  | .checkWeldEnd o => Sys2Proof.Machine.execCheckWeldEnd o s
  | .pilotGraceEnd o => Sys2Proof.Machine.execPilotGraceEnd o s
  | .safetyInputChange k chanB high => Sys2Proof.Machine.execSafetyInputChange k chanB high s
  | .discrepancy k => Sys2Proof.Machine.execDiscrepancy k s
  | .crossCircuitCheck k chanB => Sys2Proof.Machine.execCrossCircuitCheck k chanB s
  | .axisEvaluation k counts => Sys2Proof.Machine.execAxisEvaluation k counts s
  | .outputReadback k chanB stuckOn => Sys2Proof.Machine.execOutputReadback k chanB stuckOn s
  | .lockstepMismatch legal => Sys2Proof.Machine.execLockstepMismatch legal s
  | .lockstepRestartEnd legal completed => Sys2Proof.Machine.execLockstepRestartEnd legal completed s
  | .clearTrip c => Sys2Proof.Machine.execClearTrip c s
  | .runRdcTest c => Sys2Proof.Machine.execRunRdcTest c s
  | .acknowledgeStop c => Sys2Proof.Machine.execAcknowledgeStop c s
  | .stopAxis c => Sys2Proof.Machine.execStopAxis c s
  | .releaseAxis c => Sys2Proof.Machine.execReleaseAxis c s
  | .clearOutputFault c => Sys2Proof.Machine.execClearOutputFault c s
  | .readInsulation c => Sys2Proof.Machine.execReadInsulation c s
  | .shareSnapshot => Sys2Proof.Machine.execShareSnapshot s
  | .shareApply => Sys2Proof.Machine.execShareApply s
  | .peerFallback => Sys2Proof.Machine.execPeerFallback s
  | .siteLimitExpiry => Sys2Proof.Machine.execSiteLimitExpiry s
  | .kiteGrantExpiry => Sys2Proof.Machine.execKiteGrantExpiry s
  | .kiteReport => Sys2Proof.Machine.execKiteReport s
  | .setSiteLimit c => Sys2Proof.Machine.execSetSiteLimit c s
  | .setRequest c => Sys2Proof.Machine.execSetRequest c s
  | .setPriority c => Sys2Proof.Machine.execSetPriority c s
  | .readAllocation c => Sys2Proof.Machine.execReadAllocation c s
  | .plcFrameReceived o slac bytes => Sys2Proof.Machine.execPlcFrameReceived o slac bytes s
  | .slacParamReq src run heard => Sys2Proof.Machine.execSlacParamReq src run heard s
  | .soundingWindowClose src run => Sys2Proof.Machine.execSoundingWindowClose src run s
  | .peerScoreTimeout src run => Sys2Proof.Machine.execPeerScoreTimeout src run s
  | .slacMatchReq o src run => Sys2Proof.Machine.execSlacMatchReq o src run s
  | .matchTimeout src run => Sys2Proof.Machine.execMatchTimeout src run s
  | .validateReq src run timer heard => Sys2Proof.Machine.execValidateReq src run timer heard s
  | .toggleWindowEnd src run => Sys2Proof.Machine.execToggleWindowEnd src run s
  | .commonImpulse stations => Sys2Proof.Machine.execCommonImpulse stations s
  | .leaveAssociation c => Sys2Proof.Machine.execLeaveAssociation c s
  | .tlsSign c => Sys2Proof.Machine.execTlsSign c s
  | .readAssociation c => Sys2Proof.Machine.execReadAssociation c s
  | .temperatureSource o => Sys2Proof.Machine.execTemperatureSource o s
  | .toneCorrelation o l => Sys2Proof.Machine.execToneCorrelation o l s
  | .incomerCheck ch ppm => Sys2Proof.Machine.execIncomerCheck ch ppm s
  | .readVerification c => Sys2Proof.Machine.execReadVerification c s
  | .toneControl c => Sys2Proof.Machine.execToneControl c s
  | .restartVerification c => Sys2Proof.Machine.execRestartVerification c s
  | .commit fault => Sys2Proof.Machine.execCommit fault s
  | .balanceEvaluation => Sys2Proof.Machine.execBalanceEvaluation s
  | .pulseSend k => Sys2Proof.Machine.execPulseSend k s
  | .keepBurst rms => Sys2Proof.Machine.execKeepBurst rms s
  | .declareAuxiliary c => Sys2Proof.Machine.execDeclareAuxiliary c s
  | .readEnergyRegister c => Sys2Proof.Machine.execReadEnergyRegister c s
  | .recordRelease => Sys2Proof.Machine.execRecordRelease s
  | .tamperInput k => Sys2Proof.Machine.execTamperInput k s
  | .readObject c => Sys2Proof.Machine.execReadObject c s
  | .writeObject c => Sys2Proof.Machine.execWriteObject c s
  | .selectPlan c => Sys2Proof.Machine.execSelectPlan c s
  | .signReading c => Sys2Proof.Machine.execSignReading c s
  | .acknowledgeRecords c => Sys2Proof.Machine.execAcknowledgeRecords c s
  | .recordWrite legal => Sys2Proof.Machine.execRecordWrite legal s
  | .readRecords c => Sys2Proof.Machine.execReadRecords c s
  | .takeSnapshot c => Sys2Proof.Machine.execTakeSnapshot c s
  | .ping o => Sys2Proof.Machine.execPing o s
  | .tagPoll o => Sys2Proof.Machine.execTagPoll o s
  | .engineGrant e => Sys2Proof.Machine.execEngineGrant e s
  | .tagReply e bytes => Sys2Proof.Machine.execTagReply e bytes s
  | .cardResponse e a => Sys2Proof.Machine.execCardResponse e a s
  | .fieldCollapse e => Sys2Proof.Machine.execFieldCollapse e s
  | .transactionTimeout e => Sys2Proof.Machine.execTransactionTimeout e s
  | .requestWaitLong o => Sys2Proof.Machine.execRequestWaitLong o s
  | .tagAgeExpiry o => Sys2Proof.Machine.execTagAgeExpiry o s
  | .tableSwitch => Sys2Proof.Machine.execTableSwitch s
  | .storeChangeReceived seq slot bytes => Sys2Proof.Machine.execStoreChangeReceived seq slot bytes s
  | .storeResynchronised src seq slots => Sys2Proof.Machine.execStoreResynchronised src seq slots s
  | .storeSlot c => Sys2Proof.Machine.execStoreSlot c s
  | .readSlot c => Sys2Proof.Machine.execReadSlot c s
  | .beginShadow c => Sys2Proof.Machine.execBeginShadow c s
  | .switchTable c => Sys2Proof.Machine.execSwitchTable c s
  | .bindCable c => Sys2Proof.Machine.execBindCable c s
  | .readTag c => Sys2Proof.Machine.execReadTag c s
  | .kiteFrameReceived r => Sys2Proof.Machine.execKiteFrameReceived r s
  | .contentionSlot => Sys2Proof.Machine.execContentionSlot s
  | .ackTimeout => Sys2Proof.Machine.execAckTimeout s
  | .helloTimer => Sys2Proof.Machine.execHelloTimer s
  | .neighbourLost n => Sys2Proof.Machine.execNeighbourLost n s
  | .timeBroadcast => Sys2Proof.Machine.execTimeBroadcast s
  | .nodeReplacement n => Sys2Proof.Machine.execNodeReplacement n s
  | .probeNode c => Sys2Proof.Machine.execProbeNode c s
  | .clearPenalty c => Sys2Proof.Machine.execClearPenalty c s
  | .dominoRetry => Sys2Proof.Machine.execDominoRetry s
  | .tieFrameReceived p retries m => Sys2Proof.Machine.execTieFrameReceived p retries m s
  | .tiePortDown p => Sys2Proof.Machine.execTiePortDown p s
  | .tiePortUp p x => Sys2Proof.Machine.execTiePortUp p x s
  | .mainsTimeTransfer => Sys2Proof.Machine.execMainsTimeTransfer s
  | .roleDecision => Sys2Proof.Machine.execRoleDecision s
  | .heartbeatTimeout => Sys2Proof.Machine.execHeartbeatTimeout s
  | .withdrawalNotice => Sys2Proof.Machine.execWithdrawalNotice s
  | .takeover => Sys2Proof.Machine.execTakeover s
  | .foreignEpoch l => Sys2Proof.Machine.execForeignEpoch l s
  | .join version fwMajor copy => Sys2Proof.Machine.execJoin version fwMajor copy s
  | .handover => Sys2Proof.Machine.execHandover s
  | .handOver c => Sys2Proof.Machine.execHandOver c s
  | .readPairState c => Sys2Proof.Machine.execReadPairState c s
  | .readTally c => Sys2Proof.Machine.execReadTally c s
  | .clearTally c => Sys2Proof.Machine.execClearTally c s
  | .loadKey c => Sys2Proof.Machine.execLoadKey c s
  | .eraseKey c => Sys2Proof.Machine.execEraseKey c s
  | .generateKey c => Sys2Proof.Machine.execGenerateKey c s
  | .readPublicKey c => Sys2Proof.Machine.execReadPublicKey c s
  | .beginCredential c => Sys2Proof.Machine.execBeginCredential c s
  | .proveCredential c => Sys2Proof.Machine.execProveCredential c s
  | .challengeExpiry => Sys2Proof.Machine.execChallengeExpiry s
  | .randomSourceFault => Sys2Proof.Machine.execRandomSourceFault s
  | .limitingExpiry k => Sys2Proof.Machine.execLimitingExpiry k s
  | .retrySpacingEnd k => Sys2Proof.Machine.execRetrySpacingEnd k s
  | .bankUndervoltage b mv => Sys2Proof.Machine.execBankUndervoltage b mv s
  | .thermalShutdown k temp => Sys2Proof.Machine.execThermalShutdown k temp s
  | .watchdogExpiry src => Sys2Proof.Machine.execWatchdogExpiry src s
  | .watchdogRestored src => Sys2Proof.Machine.execWatchdogRestored src s
  | .displayUpdate => Sys2Proof.Machine.execDisplayUpdate s
  | .blink => Sys2Proof.Machine.execBlink s
  | .crackPulse returned => Sys2Proof.Machine.execCrackPulse returned s
  | .setLoadChannels c => Sys2Proof.Machine.execSetLoadChannels c s
  | .clearLatch c => Sys2Proof.Machine.execClearLatch c s
  | .writeOperatorArea c => Sys2Proof.Machine.execWriteOperatorArea c s
  | .setLegalView c => Sys2Proof.Machine.execSetLegalView c s
  | .redraw c => Sys2Proof.Machine.execRedraw c s
  | .domainDrop d => Sys2Proof.Machine.execDomainDrop d s
  | .domainRaise d raised => Sys2Proof.Machine.execDomainRaise d raised s
  | .wake source detail => Sys2Proof.Machine.execWake source detail s
  | .rtcAlarm => Sys2Proof.Machine.execRtcAlarm s
  | .wakeRelease => Sys2Proof.Machine.execWakeRelease s
  | .enterQuiet c => Sys2Proof.Machine.execEnterQuiet c s
  | .leaveQuiet c => Sys2Proof.Machine.execLeaveQuiet c s
  | .writeImageBlock c => Sys2Proof.Machine.execWriteImageBlock c s
  | .verifyImage c => Sys2Proof.Machine.execVerifyImage c s
  | .activateFirmware c => Sys2Proof.Machine.execActivateFirmware c s
  | .confirmFirmware c => Sys2Proof.Machine.execConfirmFirmware c s
  | .revertFirmware c => Sys2Proof.Machine.execRevertFirmware c s
  | .trialConfirmed t => Sys2Proof.Machine.execTrialConfirmed t s
  | .fallBack t timeout => Sys2Proof.Machine.execFallBack t timeout s
  | .activateConfiguration c => Sys2Proof.Machine.execActivateConfiguration c s
  | .configurationActivation => Sys2Proof.Machine.execConfigurationActivation s
  | .confirmConfiguration c => Sys2Proof.Machine.execConfirmConfiguration c s
  | .revertConfiguration c => Sys2Proof.Machine.execRevertConfiguration c s
  | .automaticYoYo => Sys2Proof.Machine.execAutomaticYoYo s
  | .dominoSend c => Sys2Proof.Machine.execDominoSend c s
  | .enterRecovery c => Sys2Proof.Machine.execEnterRecovery c s
  | .readSlots c => Sys2Proof.Machine.execReadSlots c s
  | .dump => Sys2Proof.Machine.execDump s
  | .sample g n => Sys2Proof.Machine.execSample g n s
  | .bandwidthWindowEnd m => Sys2Proof.Machine.execBandwidthWindowEnd m s
  | .dumpNow c => Sys2Proof.Machine.execDumpNow c s
  | .clearCounters c => Sys2Proof.Machine.execClearCounters c s
  | .vinReturnLeavingKeep vin slot side dbg guardFail => Sys2Proof.Machine.execVinReturnLeavingKeep vin slot side dbg guardFail s
  | .stageBreak stage => Sys2Proof.Machine.execStageBreak stage s
  | .indexBuilt => Sys2Proof.Machine.execIndexBuilt s
  | .limitingChange k limiting => Sys2Proof.Machine.execLimitingChange k limiting s
  | .retryCountReset k => Sys2Proof.Machine.execRetryCountReset k s
  | .channelCooled k => Sys2Proof.Machine.execChannelCooled k s
  | .serviceUartCommand d data => Sys2Proof.Machine.execServiceUartCommand d data s
  | .stationTxDrop o => Sys2Proof.Machine.execStationTxDrop o s
  | .randomSourceRestored => Sys2Proof.Machine.execRandomSourceRestored s

end Sys2Proof.Machine
end

