-- ==== Sys2Proof/Machine/Step.lean ====
section
/-! DEFINITION. One step of the block: the command at the front of the queue, or, where none waits, one edge of the step
clock. -/

namespace Sys2Proof.Machine

/-- The block on an empty queue: one period of the 100 MHz step clock passes (R62; DESIGN CHOICE, log 2), and the stations that may
send take their next frames (R156). A removal ends 15 ms after its start (R37, R38, log 131). -/
def idle (s : State) : State := removalEnds (forAll outlets stationSend (s.advance 1))

/-- One step: the command at the front of the queue, or, where none waits, `idle`. -/
def step (s : State) : Host.Outcome State Fault Refusal :=
  match s.pending with
  | [] => .next (idle s)
  | c :: rest => exec c { s with pending := rest }

/-- The state with the command a word spells put at the front of its queue; unchanged where the word spells none. -/
def State.withFetchWord (s : State) (nbits w : Nat) : State :=
  match decodeTableWord nbits w with
  | some c => { s with pending := c :: s.pending }
  | none => s

end Sys2Proof.Machine
end

