-- ==== Sys2Proof/Safety.lean ====
section
/-! DEFINITION. The terms the statements are made in: the settings that stay in their ranges, a ring command that may take effect,
a completion that has been made, and what an operation may change besides. -/

namespace Sys2Proof.Machine

/-- Every register field whose writes are checked against a range holds a value its register's table allows: TIM_SYNC_LIMIT (R88),
STR_CFG (R123), SHR_PEER, SHR_KITE and SHR_VNOM (R307), SLC_WIN, SLC_SCORE and SLC_TOGGLE (R335), ENR_BAL_CFG, ENR_AUX_W and
ENR_KEEP_CFG (R395), AUT_CFG (R481), LSW_CFG (R569), PWR_CFG and PWR_WAKE_MASK (R587), UPD_CFG (R607). -/
structure Settings.InRange (x : Settings) : Prop where
  /-- R88. -/
  sync : 600 ≤ x.syncAge ∧ x.syncAge ≤ 604800 ∧ 1 ≤ x.maxStep ∧ x.maxStep ≤ 3650
  /-- R123. -/
  strings : 5 ≤ x.wdDefault ∧ x.wdDefault ≤ 500 ∧ 20 ≤ x.openDefault ∧ x.openDefault ≤ 500
  /-- R307. -/
  share : x.peerShare.toList.sum ≤ 100 ∧ x.fallbackPct ≤ 100 ∧ 10 ≤ x.kitePeriod ∧ x.kitePeriod ≤ 255 ∧ 100000 ≤ x.vnom ∧
    x.vnom ≤ 300000
  /-- R335 SLC_WIN. -/
  slacWin : 2 ≤ x.assocWin ∧ x.assocWin ≤ 120 ∧ 200 ≤ x.soundWin ∧ x.soundWin ≤ 2000 ∧ 100 ≤ x.matchT ∧ x.matchT ≤ 2000
  /-- R335 SLC_SCORE. -/
  slacScore : 10 ≤ x.scoreMargin ∧ x.scoreMargin ≤ 200 ∧ 100 ≤ x.attenMax ∧ x.attenMax ≤ 900 ∧ 1 ≤ x.minSounds ∧ x.minSounds ≤ 10 ∧
    x.validate ≠ 3
  /-- R335 SLC_TOGGLE. -/
  toggle : 20 ≤ x.togMin ∧ x.togMin ≤ x.togMax ∧ x.togMax ≤ 3500
  /-- R395. -/
  balance : 1 ≤ x.tolPct ∧ x.tolPct ≤ 200 ∧ x.tolWh ≤ 65535 ∧ 1 ≤ x.balN ∧ x.balN ≤ 15 ∧ x.auxW ≤ 1000000 ∧ 100 ≤ x.keepThresh ∧
    x.keepThresh ≤ 10000
  /-- R481. -/
  readers : 2 ≤ x.pollT ∧ x.pollT ≤ 255 ∧ 10 ≤ x.tagAge ∧ x.tagAge ≤ 3600
  /-- R569. -/
  watchdog : 2 ≤ x.wdWin ∧ x.wdWin ≤ 100
  /-- R587: bits 0 and 1 of the wake mask are ignored, and bit 2 always reads 1. -/
  power : 1 ≤ x.dropHold ∧ x.dropHold ≤ 255 ∧ x.wakeMask &&& 7 = 4
  /-- R607. -/
  update : 10 ≤ x.confirmT ∧ x.confirmT ≤ 3600

/-- A ring command with opcode `op` is in flight, stands in the order of R142, and its domain is up (R573): it may take effect. -/
def Ready (s : State) (c : Cmd) (op : Nat) : Prop :=
  c.opcode.toNat = op ∧ (startable s c).isSome ∧ ∀ d, opDomain op = some d → (vget s.pwr.domains d).up = true

/-- A command names outlet `o` of this device, whose lane is UP and whose context has started and is not held by a profile reload
(R165, R230, R232): a command of the sequencer takes effect. -/
structure ToContext (s : State) (c : Cmd) (o : Fin 128) : Prop where
  handle : s.ofHandle c.handle.toNat = some o
  link : (s.lane o).link = .up
  power : (s.ctx o).waiting = false
  held : (s.ctx o).paused = false

/-- A command is in flight: fetched, and not completed (R141). -/
def InFlight (s : State) (c : Cmd) : Prop := (s.cmdRec c.ring c.index).map (·.cmd) = some c

/-- The completion of a command has been made with a status and a RESULT (R147): written to its CPL ring, held while that ring is
disabled, or waiting for the events the command caused (R161). -/
def Done (t : State) (c : Cmd) (st : BitVec 8) (res : BitVec 32) : Prop :=
  (∃ x ∈ (t.ring (cplRing c.ring)).cplHeld ++ (t.ring (cplRing c.ring)).cplUnacked,
    x.tag = c.tag ∧ x.cmdIndex = c.index.truncate 16 ∧ x.status = st ∧ x.result = res) ∨
  (∃ r, t.cmdRec c.ring c.index = some r ∧ r.phase = .done st res none)

/-- Between `s` and `t` only the rings, their engine and the sent messages differ. -/
def RingsOnly (s t : State) : Prop := t = { s with rng := t.rng, rings := t.rings, out := t.out }

/-- Between `s` and `t` only the rings, their engine, the sent messages, the recorder and the kept counters differ: what posting
events changes. -/
def EventsOnly (s t : State) : Prop := t = { s with rng := t.rng, rings := t.rings, out := t.out, recd := t.recd, keep := t.keep }

/-- `t` is `s` with the completion of `c` made, and nothing else changed. -/
def Completes (s : State) (c : Cmd) (st : BitVec 8) (res : BitVec 32) (t : State) : Prop := Done t c st res ∧ RingsOnly s t

/-- A host access reaches the block and changes nothing of the link: the module runs with its reference, PERST# is released, and the
link is in L0 with the endpoint in D0. -/
structure HostReaches (s : State) : Prop where
  running : s.glb.phase = .running
  perst : s.glb.perst = false
  reference : s.tim.refHoldover = false
  link : s.rng.linkUp = true
  d0 : s.rng.d3hot = false

/-- A host access of a BAR0 register reaches the block, outside recovery (R597). -/
structure BarReaches (s : State) : Prop extends HostReaches s where
  served : s.upd.recovery = false

/-- An event posted since `s` stands in `t`: on a ring, not yet acknowledged, or in the backlog (R152, R153), or folded into the
summary of its scope, whose families include its own (R154). -/
def Posted (s t : State) (code : Nat) (outlet : Option (Fin 128)) (payload : List Byte) : Prop :=
  (∃ e : Event, s.rng.posted < e.ident ∧ e.code = BitVec.ofNat 16 code ∧ e.outlet = outlet ∧ e.payload = payload ∧
    (e ∈ t.rng.backlog ∨ ∃ r, e ∈ (t.ring r).evtUnacked)) ∨
  (∃ x ∈ t.rng.lostSums, x.outlet = outlet ∧ x.families.getLsbD (code / 256) = true)

end Sys2Proof.Machine
end

