-- ==== Sys2Proof/Certificates/Slice0/Obligations.lean ====
section
/-! DEFINITION. The statements for the provers, each a proposition named by what it states; they follow the chapters of spec/. -/

section

open Sys2Proof Sys2Proof.Machine

/-- For every command and state: a step with the command at the front of the queue is the command's effect on the state with the queue's
rest (the model's queue is first in, first out; log 1). -/
def Obligations.StepRunsTheFrontCommand : Prop :=
  ∀ (s : State) (c : Instr) (rest : List Instr), s.pending = c :: rest → step s = exec c { s with pending := rest }

/-- On an empty queue one edge of the 100 MHz step clock passes (R62; that the block idles so is the model's choice, log 2), and where no
station has a frame to send (R156) and no removal is under way (R37) nothing but the clocks and the kept state changes: the queue stays
empty. -/
def Obligations.IdleStepAdvancesTheClock : Prop :=
  ∀ s : State, s.pending = [] → (∀ o, (s.sta o).inStation = []) → s.glb.phase ≠ .removal →
    ∃ t, step s = .next t ∧ t = { s with tim := t.tim, keep := t.keep } ∧
    t.tim.tick = s.tim.tick + 10

/-- No command touches the queue of waiting commands, and each answers a next state: ordinary data never ends a run. -/
def Obligations.CommandsLeaveTheQueue : Prop :=
  ∀ (c : Instr) (s : State), ∃ t, exec c s = .next t ∧ t.pending = s.pending

/-- R88, R123, R307, R335, R395, R481, R569, R587, R607: every step keeps each range-checked register field within the range its
register's table allows, whatever is commanded. -/
def Obligations.StepKeepsSettingsInRange : Prop :=
  ∀ s t : State, s.cfg.InRange → step s = .next t → t.cfg.InRange

/-- The range-checked register fields are within their ranges after reset. -/
def Obligations.SettingsInRangeAtReset : Prop := State.reset.cfg.InRange

/-- R588: bytes of an image block written to a slot's memory read back as they were written, and every other byte reads as before. -/
def Obligations.ImageBytesReadBack : Prop :=
  ∀ (m : List Host.Cell) (a : Nat) (l : List Byte) (x : Nat), Memory.wf m = true →
    (∀ i (h : i < l.length), x = a + i → Memory.get (Memory.putAll m a l) x = l[i]) ∧
    (x < a ∨ a + l.length ≤ x → Memory.get (Memory.putAll m a l) x = Memory.get m x)

/-- R147 and R161, with R131: a command in flight that completes has its completion made, with its own tag, index, status and RESULT, and
nothing but the rings and what is sent changes. -/
def Obligations.CompletionIsMade : Prop :=
  ∀ (s : State) (c : Cmd) (st : BitVec 8) (res : BitVec 32), InFlight s c →
    Completes s c st res (complete s c st res)

/-- R152 to R154: an event posted outside a standby stands on a ring, in the backlog or in a summary, and posting it changes only the
rings, what is sent, the recorder and the kept numbers. -/
def Obligations.PostedEventIsKept : Prop :=
  ∀ (s : State) (code : Nat) (o : Option (Fin 128)) (payload : List Byte) (by_ : Option Cmd), code < 0x1100 →
    EventsOnly s (postEvent s code o payload by_) ∧
    (s.tie.role ≠ .standby → Posted s (postEvent s code o payload by_) code o payload)

/-- R168, completing noOperation, marker and flushTransmit: No operation completes at once where no event generated before it waits, and
otherwise when those have been written or folded. Marker writes a copy with PARAM word 0 to every enabled EVT ring. Flush transmit drops
every queued frame of the outlet, each with TX_STATUS 3, which is written into its descriptor where the ring still stands (log 145). -/
def Obligations.RingControlCommands : Prop :=
  (∀ (s : State) (c : Cmd), Ready s c 0x0000 → (∀ e ∈ s.rng.backlog, s.rng.posted < e.ident) →
    exec (.noOperation c) s = .next (complete s c 0x00)) ∧
  (∀ (s : State) (c : Cmd), Ready s c 0x0000 → (∃ e ∈ s.rng.backlog, e.ident ≤ s.rng.posted) →
    exec (.noOperation c) s =
      .next (s.onCmd c.ring c.index fun x => { x with phase := .done 0x00 0 (some (s.rng.posted + 1)) })) ∧
  (∀ (s : State) (c : Cmd), Ready s c 0x0001 → s.rng.backlog = [] → s.rng.lostSums = [] →
    (∀ k : Fin 8, (s.ring (evtRing k)).en = true → evtRoom s (evtRing k) = true) →
    ∃ t, exec (.marker c) s = .next t ∧ EventsOnly s t ∧ Done t c 0x00 0 ∧
      ∀ k : Fin 8, (s.ring (evtRing k)).en = true → ∃ e ∈ (t.ring (evtRing k)).evtUnacked,
        e.code = 0x0004 ∧ e.payload = p32 (c.p 0).toNat ∧ e.causeTag = c.tag) ∧
  (∀ (s : State) (c : Cmd) (o : Fin 128), Ready s c 0x0002 → s.ofHandle (fld (c.p 0) 0 16) = some o →
    (s.poolQ (txQ o)).staging = [] →
    ∃ t, exec (.flushTransmit c) s = .next t ∧ Done t c 0x00 0 ∧ (t.poolQ (txQ o)).packets = [] ∧
      (∀ q, q ≠ txQ o → t.poolQ q = s.poolQ q) ∧
      ∀ p ∈ (s.poolQ (txQ o)).packets, p.ring ≠ 0 → requestsOn s = true → shadowed s (fin 57 p.ring) = false →
        Out.host (entryAddr (s.ring (fin 57 p.ring)) (fin 57 p.ring) p.index 7) (wordBytes [pack [(0, 1), (8, 3)]]) ∈ t.out)

/-- R129, R168, R14, completing readRegister, writeRegister, registerWrite and barAccessUnaligned: the register commands read and write as
the bus does, within the roles of the block, and a refused access has no effect; a host write of BAR0, BAR2, BAR4 or the configuration
space has that write's effect, and an access of BAR0 or BAR2 that is not an aligned 32-bit access completes with Unsupported Request and
has none (that the error is noted in AER is presumed, log 79). -/
def Obligations.RegisterAccesses : Prop :=
  (∀ (s : State) (c : Cmd) (off : Nat), Ready s c 0x0003 → Cmd.regOff c = some off →
    (readRoles (off / 0x10000)).contains (s.roleOf c) = true →
    exec (.readRegister c) s = .next (complete (busRead s off).2 c 0x00 (busRead s off).1)) ∧
  (∀ (s : State) (off : Nat), off / 0x10000 ≤ 20 → off ≠ 0x10010 → s.upd.recovery = false → busRead s off = (readReg s off, s)) ∧
  (∀ (s : State) (c : Cmd) (off : Nat), Ready s c 0x0004 → Cmd.regOff c = some off → s.roleOf c = 1 ∨ s.roleOf c = 5 →
    exec (.writeRegister c) s = .next (complete (writeReg s off (c.p 1)) c 0x00)) ∧
  (∀ (s : State) (c : Cmd), Ready s c 0x0003 → Cmd.regOff c = none → exec (.readRegister c) s = .next (complete s c 0x02)) ∧
  (∀ (s : State) (c : Cmd), Ready s c 0x0004 → Cmd.regOff c = none → exec (.writeRegister c) s = .next (complete s c 0x02)) ∧
  (∀ (s : State) (c : Cmd) (off : Nat), Ready s c 0x0004 → Cmd.regOff c = some off → s.roleOf c = 2 →
    exec (.writeRegister c) s = .next (complete (recordRefusal s c) c 0x03)) ∧
  (∀ (s : State) (off : Nat) (v : BitVec 32), HostReaches s →
    exec (.registerWrite 0 off v) s = .next (writeReg s off v) ∧ exec (.registerWrite 1 off v) s = .next (writeBar2 s off v) ∧
    exec (.registerWrite 2 off v) s = .next (writeBar4 s off v) ∧ exec (.registerWrite 3 off v) s = .next (writeConfig s off v)) ∧
  (∀ (s : State) (off : Nat) (v : BitVec 32), 0x170000 ≤ off → writeReg s off v = s) ∧
  (∀ (s : State) (v : BitVec 32), s.upd.recovery = false →
    writeReg s 0x70024 v = { s with shr := { s.shr with ramp := v.toNat } }) ∧
  (∀ (s : State) (v : BitVec 32), writeReg s 0x20004 v = { s with rng := { s.rng with
    ringErr := s.rng.ringErr && !v.getLsbD 0, backlogHigh := s.rng.backlogHigh && !v.getLsbD 1,
    lost := s.rng.lost && !v.getLsbD 2, framesLost := s.rng.framesLost && !v.getLsbD 3 } }) ∧
  (∀ (s : State) (bar : Fin 3) (off size : Nat) (wr : Bool), HostReaches s → bar.val ≤ 1 → size ≠ 4 ∨ off % 4 ≠ 0 →
    exec (.barAccessUnaligned bar off size wr) s = .next ({ s with rng := { s.rng with aerUr := true } }.send .unsupported)) ∧
  (∀ (s : State) (off size : Nat) (wr : Bool), HostReaches s → exec (.barAccessUnaligned 2 off size wr) s = .next s)

/-- R137, R138, R131, completing doorbellWrite: a doorbell value that keeps the ring's order and its SIZE moves the host's index and
acknowledges the entries it has passed, after which the ring writes what it still owes; any other clears EN, records its cause, posts the
Ring error event and is not acted on. -/
def Obligations.DoorbellWrites : Prop :=
  (∀ (s : State) (r : Fin 57) (v : BitVec 32), HostReaches s → mirroring s = false → shadowed s r = false →
    (s.ring r).en = true → (v = (s.ring r).hostIdx ∨ later v (s.ring r).hostIdx = true) →
    (s.ring r).occupancy (ringKind r) v ≤ (s.ring r).size →
    exec (.doorbellWrite r v) s = .next (openRing (s.onRing r fun x => { x with
      doorbell := v, hostIdx := v
      cplUnacked := x.cplUnacked.drop (v - x.hostIdx).toNat, evtUnacked := x.evtUnacked.drop (v - x.hostIdx).toNat }) r)) ∧
  (∀ (s : State) (r : Fin 57), (s.ring r).restartDue = none → (s.ring r).debugDue = false → (s.ring r).cplHeld = [] →
    (s.ring r).evtHeld = [] → openRing s r = s) ∧
  (∀ (s : State) (r : Fin 57) (v : BitVec 32), HostReaches s → mirroring s = false → shadowed s r = false →
    (s.ring r).en = true → v ≠ (s.ring r).hostIdx → later v (s.ring r).hostIdx = false →
    ∃ t, exec (.doorbellWrite r v) s = .next t ∧ (t.ring r).en = false ∧ (t.ring r).err = true ∧ (t.ring r).errCause = 2 ∧
      (t.ring r).hostIdx = (s.ring r).hostIdx ∧ t.rng.ringErr = true ∧
      (s.tie.role ≠ .standby → Posted s t 0x0003 none (p8 r.val ++ p8 2))) ∧
  (∀ (s : State) (r : Fin 57) (v : BitVec 32), HostReaches s → mirroring s = false → shadowed s r = false →
    (s.ring r).en = true → (v = (s.ring r).hostIdx ∨ later v (s.ring r).hostIdx = true) →
    (s.ring r).size < (s.ring r).occupancy (ringKind r) v →
    ∃ t, exec (.doorbellWrite r v) s = .next t ∧ (t.ring r).en = false ∧ (t.ring r).err = true ∧ (t.ring r).errCause = 1 ∧
      (t.ring r).hostIdx = (s.ring r).hostIdx ∧ t.rng.ringErr = true ∧
      (s.tie.role ≠ .standby → Posted s t 0x0003 none (p8 r.val ++ p8 1)))

/-- R131, R618, R130, R597, completing ringEnable, ringDisable and linkLoss: enabling a ring that obeys the enable rules sets its indices
to 0 and then writes what it holds, in order; EN = 1 on an enabled ring that obeys them writes the other fields only (that its indices go
on is the model's choice, log 18); a SIZE_CODE above 10 is refused with cause 7; disabling holds what is not acknowledged for a replay and
lapses the credential; link loss clears EN of every ring and leaves the rest of the block as it was, but for the endpoint's own settings
after a fundamental or function level reset (presumed, log 79). -/
def Obligations.RingsUpAndDown : Prop :=
  (∀ (s : State) (r : Fin 57) (v : BitVec 32), HostReaches s → s.upd.recovery = false → (s.ring r).en = false →
    enableError (ctlFields s r (v ||| 1)) r = none →
    exec (.ringEnable r v) s = .next (openRing ((ctlFields s r (v ||| 1)).onRing r fun x => { x with
      en := true, hostIdx := 0, devIdx := 0, unsignalled := 0 }) r)) ∧
  (∀ (s : State) (r : Fin 57) (v : BitVec 32), HostReaches s → s.upd.recovery = false → s.tie.handing = false → shadowed s r = false →
    ringKind r = .cpl → (s.ring r).en = false → (s.ring r).restartDue = none → (s.ring r).debugDue = false →
    (s.ring r).cplUnacked = [] → (s.ring r).cplHeld.length ≤ 2 ^ (fld v 1 4 + 6) →
    enableError (ctlFields s r (v ||| 1)) r = none →
    ∃ t, exec (.ringEnable r v) s = .next t ∧ (t.ring r).en = true ∧ (t.ring r).hostIdx = 0 ∧
      (t.ring r).devIdx = BitVec.ofNat 32 (s.ring r).cplHeld.length ∧
      (t.ring r).cplUnacked = ((s.ring r).cplHeld.map fun x => { x with lastGseq := some (x.lastGseq.getD s.keep.gseq) }) ∧
      (t.ring r).cplHeld = []) ∧
  (∀ (s : State) (r : Fin 57) (v : BitVec 32), HostReaches s → (s.ring r).en = true → enableError (ctlFields s r (v ||| 1)) r = none →
    exec (.ringEnable r v) s = .next (ctlFields s r (v ||| 1))) ∧
  (∀ (s : State) (r : Fin 57) (v : BitVec 32), HostReaches s → s.upd.recovery = false → (s.ring r).en = false → 10 < fld v 1 4 →
    ∃ t, exec (.ringEnable r v) s = .next t ∧ (t.ring r).en = false ∧ (t.ring r).err = true ∧ (t.ring r).errCause = 7 ∧
      (t.ring r).role = BitVec.ofNat 3 (fld v 5 3) ∧ t.rng.ringErr = true) ∧
  (∀ (s : State) (r : Fin 57), HostReaches s → ∃ t, exec (.ringDisable r) s = .next t ∧
    t.ring r = { s.ring r with
      en := false, cred := 0, pass := (s.ring r).pass + 1
      cplHeld := ((s.ring r).cplUnacked.map fun e => { e with replay := true }) ++ (s.ring r).cplHeld, cplUnacked := []
      evtHeld := ((s.ring r).evtUnacked.map fun e => { e with replay := true }) ++ (s.ring r).evtHeld, evtUnacked := [] } ∧
    (∀ k, k ≠ r → t.ring k = s.ring k) ∧ t = { s with rings := t.rings, mpl := t.mpl } ∧ (ringKind r ≠ .ftx → t.mpl = s.mpl)) ∧
  (∀ (s : State) (k : Fin 4), ∃ t, exec (.linkLoss k) s = .next t ∧ (∀ r, (t.ring r).en = false) ∧
    t.rng.linkUp = false ∧ (k = 0 → t.glb.perst = true) ∧
    (∀ r, (s.ring r).en = false → t.ring r = s.ring r) ∧
    t = { s with
      rings := t.rings, mpl := t.mpl, glb := { s.glb with perst := t.glb.perst }
      rng := { s.rng with
        linkUp := t.rng.linkUp, d3hot := t.rng.d3hot, mps := t.rng.mps, mrrs := t.rng.mrrs, aerUr := t.rng.aerUr
        msixEn := t.rng.msixEn, msixFuncMask := t.rng.msixFuncMask, msixTable := t.rng.msixTable
        msixMasked := t.rng.msixMasked, msixPending := t.rng.msixPending } } ∧
    (k = 1 ∨ k = 3 → t.rng = { s.rng with linkUp := false, d3hot := t.rng.d3hot }))

/-- R141, R144, R145, R148, R131, completing commandFetch and commandAtMark: a fetched descriptor is parsed as R144 lays it out and put in
flight, its ring's consumer index advances by 1 and is written back, and a slot of the CPL ring is reserved; one whose AT still lies ahead
waits for a mark at that value, and one whose AT has passed is late and takes effect at once; one that a check refuses completes with the
check's status and no effect. At its mark, where no other pending mark comes before it (R75), a command takes effect as its own row does.
-/
def Obligations.CommandsAreFetched : Prop :=
  (∀ (s : State) (r : Fin 16) (d : List Word) (data : List Byte), fetchable s r = true → wNat d 4 2 = 0 →
    fetchStatus s (parseCmd r (s.ring (cmdRing r)).cmdNo d data) = none →
    ∃ t, exec (.commandFetch r d data) s = .next t ∧
      t.rng = { s.rng with cmds := s.rng.cmds ++ [⟨parseCmd r (s.ring (cmdRing r)).cmdNo d data, .ready, false, none, false,
                            s.cmdOutlet (parseCmd r (s.ring (cmdRing r)).cmdNo d data)⟩] } ∧
      (t.ring (cmdRing r)).devIdx = (s.ring (cmdRing r)).devIdx + 1 ∧
      (t.ring (cplRing r)).reserved = (s.ring (cplRing r)).reserved + 1 ∧
      Out.host (s.ring (cmdRing r)).wb (leBytes 4 ((s.ring (cmdRing r)).devIdx + 1).toNat) ∈ t.out) ∧
  (∀ (s : State) (r : Fin 16) (d : List Word) (data : List Byte), fetchable s r = true → wNat d 4 2 ≠ 0 → s.tim.mains < wNat d 4 2 →
    s.tim.marks.length < 1536 → fetchStatus s (parseCmd r (s.ring (cmdRing r)).cmdNo d data) = none →
    ∃ t, exec (.commandFetch r d data) s = .next t ∧
      t.rng = { s.rng with cmds := s.rng.cmds ++ [⟨parseCmd r (s.ring (cmdRing r)).cmdNo d data, .waitMark, false, none, false,
                            s.cmdOutlet (parseCmd r (s.ring (cmdRing r)).cmdNo d data)⟩] } ∧
      t.tim = { s.tim with marks := s.tim.marks ++
        [⟨.sequencer, wNat d 4 2, false, r.val + 16 * (s.ring (cmdRing r)).cmdNo.toNat, false⟩] } ∧
      (t.ring (cmdRing r)).devIdx = (s.ring (cmdRing r)).devIdx + 1) ∧
  (∀ (s : State) (r : Fin 16) (d : List Word) (data : List Byte), fetchable s r = true → wNat d 4 2 ≠ 0 → wNat d 4 2 < s.tim.mains →
    fetchStatus s (parseCmd r (s.ring (cmdRing r)).cmdNo d data) = none →
    ∃ t, exec (.commandFetch r d data) s = .next t ∧
      t.rng = { s.rng with cmds := s.rng.cmds ++ [⟨parseCmd r (s.ring (cmdRing r)).cmdNo d data, .ready, true, none, false,
                            s.cmdOutlet (parseCmd r (s.ring (cmdRing r)).cmdNo d data)⟩] } ∧
      t.tim = s.tim ∧ (t.ring (cmdRing r)).devIdx = (s.ring (cmdRing r)).devIdx + 1) ∧
  (∀ (s : State) (r : Fin 16) (d : List Word) (data : List Byte) (st : BitVec 8), fetchable s r = true →
    fetchStatus s (parseCmd r (s.ring (cmdRing r)).cmdNo d data) = some st →
    ∃ t, exec (.commandFetch r d data) s = .next t ∧ Done t (parseCmd r (s.ring (cmdRing r)).cmdNo d data) st 0) ∧
  (∀ (s : State) (r : Fin 16) (d : List Word) (data : List Byte), fetchable s r = true → s.upd.recovery = false →
    opTable (fld (wAt d 0) 0 16) ((List.range 10).map fun i => wAt d (6 + i)) = none →
    ∃ t, exec (.commandFetch r d data) s = .next t ∧ (t.ring (cmdRing r)).devIdx = (s.ring (cmdRing r)).devIdx + 1 ∧
      Done t (parseCmd r (s.ring (cmdRing r)).cmdNo d data) 0x01 0 ∧ RingsOnly s t) ∧
  (∀ (s : State) (r : Fin 16) (index : BitVec 32) (x : CmdRec), s.cmdRec r index = some x → x.phase = .waitMark → s.clocksRun = true →
    (∀ m ∈ pendingMarks s, ∀ k ∈ pendingMarks s, k.2 = .command r index → markBefore m k = false) →
    exec (.commandAtMark r index) s =
      .next (cmdStep [x.cmd.opcode.toNat] (effOf x.cmd.opcode.toNat) x.cmd (fireCmdMark s r index)) ∧
    (x.cmd.opcode = 0x0000 → exec (.commandAtMark r index) s = exec (.noOperation x.cmd) (fireCmdMark s r index)) ∧
    (x.cmd.opcode = 0x0100 → exec (.commandAtMark r index) s = exec (.signal x.cmd) (fireCmdMark s r index)) ∧
    (Ready (fireCmdMark s r index) x.cmd 0x0000 → (∀ e ∈ s.rng.backlog, s.rng.posted < e.ident) →
      exec (.commandAtMark r index) s = .next (complete (fireCmdMark s r index) x.cmd 0x00))) ∧
  (∀ (s : State) (r : Fin 16) (index : BitVec 32) (x : CmdRec), s.cmdRec r index = some x → x.phase = .waitMark →
    (∃ late, (fireCmdMark s r index).cmdRec r index = some { x with phase := .ready, late := late }) ∧
    (∀ m ∈ (fireCmdMark s r index).tim.marks, ¬ (m.owner = .sequencer ∧ m.ref = r.val + 16 * index.toNat)))

/-- R153, R158, completing backlogDrain and moderationTimeout: where no ring owes anything, a waiting event is written once its ring is
enabled and has room; and a ring whose MOD_TIME has passed is signalled: its message leaves, or, where the vector or the function is
masked, its pending bit is set (presumed from PCI Express, log 79). -/
def Obligations.WaitingEntriesAreSent : Prop :=
  (∀ (s : State) (e : Event) (r : Fin 57), writingOn s = true → s.rng.backlog = [e] → s.rng.lostSums = [] → s.rng.cmds = [] →
    (∀ k, (s.ring k).restartDue = none ∧ (s.ring k).debugDue = false ∧ (s.ring k).cplHeld = [] ∧ (s.ring k).evtHeld = []) →
    evtTarget s e.code = some r → evtRoom s r = true →
    ∃ t, exec .backlogDrain s = .next t ∧ t.rng.backlog = [] ∧ EventsOnly s t ∧ t.keep.gseq = s.keep.gseq + 1 ∧
      ∃ e' ∈ (t.ring r).evtUnacked, e'.ident = e.ident ∧ e'.code = e.code ∧ e'.outlet = e.outlet ∧ e'.payload = e.payload) ∧
  (∀ (s : State) (r : Fin 57), (s.ring r).en = true → (s.ring r).unsignalled ≠ 0 → requestsOn s = true → s.rng.msixEn = true →
    ∃ t, exec (.moderationTimeout r) s = .next t ∧ (t.ring r).unsignalled = 0 ∧
      (s.ring r).firstUnsigAt + max 1 (s.ring r).modTime.toNat * usNs ≤ t.tim.tick ∧
      (s.rng.msixFuncMask = false → s.rng.msixMasked.getLsbD (s.ring r).vector.toNat = false →
        Out.msix (s.ring r).vector (vget s.rng.msixTable (fin 64 (s.ring r).vector.toNat)).1
          (vget s.rng.msixTable (fin 64 (s.ring r).vector.toNat)).2 ∈ t.out) ∧
      (s.rng.msixFuncMask = true ∨ s.rng.msixMasked.getLsbD (s.ring r).vector.toNat = true →
        t.rng.msixPending.getLsbD (s.ring r).vector.toNat = true))

/-- R155, R156, R157, R314, R168, R179, completing ftxFetch, frxFill, ftxDone and stationTxDrop: a frame of a good length for an
associated outlet is queued to its station and the ring's consumer index advances; one of another length is turned away with TX_STATUS 2;
the station accepts the oldest queued frame, or it is discarded without an association, and DONE is written; a received frame fills the
next buffer, which takes no more of it than it holds; a frame the station drops is counted and reported. -/
def Obligations.VehicleFramesMove : Prop :=
  (∀ (s : State) (r : Fin 8) (d : List Word) (bytes : List Byte) (o : Fin 128) (k : Fin 57), k.val = 40 + r.val → writingOn s = true →
    (s.ring k).en = true → (s.ring k).hostIdx ≠ (s.ring k).devIdx → 60 ≤ fld (wAt d 0) 16 16 → fld (wAt d 0) 16 16 ≤ 1514 →
    s.ofHandle (fld (wAt d 0) 0 16) = some o → (s.sta o).assoc = true → stationUp s o = true → (s.poolQ (txQ o)).paused = false →
    ∃ t, exec (.ftxFetch r d bytes) s = .next t ∧ (t.ring k).devIdx = (s.ring k).devIdx + 1 ∧
      (∃ p, t.poolQ (txQ o) = (s.poolQ (txQ o)).link p ∧ p.bytes = bytes.take (fld (wAt d 0) 16 16) ∧ p.tag = wAt d 4 ∧ p.ring = k.val ∧
        p.index = (s.ring k).devIdx ∧ p.irq = bit (wAt d 1) 0) ∧
      ∀ q, q ≠ txQ o → t.poolQ q = s.poolQ q) ∧
  (∀ (s : State) (r : Fin 8) (d : List Word) (bytes : List Byte) (k : Fin 57), k.val = 40 + r.val → writingOn s = true →
    (s.ring k).en = true → (s.ring k).hostIdx ≠ (s.ring k).devIdx → (fld (wAt d 0) 16 16 < 60 ∨ 1514 < fld (wAt d 0) 16 16) →
    ∃ t, exec (.ftxFetch r d bytes) s = .next t ∧ (t.ring k).devIdx = (s.ring k).devIdx + 1 ∧
      Out.host (entryAddr (s.ring k) k (s.ring k).devIdx 7) (wordBytes [pack [(0, 1), (8, 2)]]) ∈ t.out ∧ t.mpl = s.mpl) ∧
  (∀ (s : State) (o : Fin 128) (d : List Word) (p : Packet) (rest : List Packet) (r : Fin 57), frxRing s o = r →
    (s.poolQ (rxQ o)).packets = p :: rest → writingOn s = true → (s.ring r).en = true → (s.ring r).hostIdx ≠ (s.ring r).devIdx →
    ∃ t, exec (.frxFill o d) s = .next t ∧ (t.ring r).devIdx = (s.ring r).devIdx + 1 ∧
      t.poolQ (rxQ o) = (if fld (wAt d 4) 0 16 < p.bytes.length then (s.poolQ (rxQ o)).dropOne else (s.poolQ (rxQ o)).take) ∧
      Out.payload (BitVec.ofNat 64 (wNat d 2 2)) (p.bytes.take (fld (wAt d 4) 0 16)) ∈ t.out ∧
      Out.host (entryAddr (s.ring r) r (s.ring r).devIdx 6) (wordBytes [word p.mains 0, word p.mains 1]) ∈ t.out ∧
      Out.host (entryAddr (s.ring r) r (s.ring r).devIdx 0) (wordBytes [pack [(0, s.handle o), (16, p.bytes.length)],
        pack [(0, 1), (1, (s.ring r).phase (s.ring r).devIdx), (8, b2n (decide (fld (wAt d 4) 0 16 < p.bytes.length)))]]) ∈ t.out) ∧
  (∀ (s : State) (o : Fin 128) (p : Packet) (rest : List Packet), (s.poolQ (txQ o)).packets = p :: rest → s.glb.phase = .running →
    (s.sta o).assoc = true → stationUp s o = true → (s.sta o).inStation = [] →
    ∃ t, exec (.ftxDone o) s = .next t ∧ (t.sta o).inStation = [p] ∧ t.poolQ (txQ o) = (s.poolQ (txQ o)).take ∧
      (p.ring ≠ 0 → requestsOn s = true → shadowed s (fin 57 p.ring) = false →
        Out.host (entryAddr (s.ring (fin 57 p.ring)) (fin 57 p.ring) p.index 7) (wordBytes [pack [(0, 1), (8, 0)]]) ∈ t.out)) ∧
  (∀ (s : State) (o : Fin 128) (p : Packet) (rest : List Packet), (s.poolQ (txQ o)).packets = p :: rest → s.glb.phase = .running →
    (s.sta o).assoc = false →
    ∃ t, exec (.ftxDone o) s = .next t ∧ t.sta o = s.sta o ∧ t.poolQ (txQ o) = (s.poolQ (txQ o)).take ∧
      (p.ring ≠ 0 → requestsOn s = true → shadowed s (fin 57 p.ring) = false →
        Out.host (entryAddr (s.ring (fin 57 p.ring)) (fin 57 p.ring) p.index 7) (wordBytes [pack [(0, 1), (8, 1)]]) ∈ t.out)) ∧
  (∀ (s : State) (o : Fin 128) (p : Packet) (rest : List Packet), (s.sta o).inStation = p :: rest → s.glb.phase = .running →
    ∃ t, exec (.stationTxDrop o) s = .next t ∧ (t.sta o).inStation = rest ∧ (t.sta o).txDrop = (s.sta o).txDrop + 1 ∧
      t.plc.frameDrop = true ∧ t.rng.framesLost = true)

/-- R233, R146, completing bindProfile, enableOutlet, authorise, forceFault, resetContext, forgetDelays, readContext and signal: the
commands of the sequencer on an outlet whose lane is UP; one that changes outputs while frames flow completes when they are applied. Bind
profile starts the learnt delays at D0 under a profile that was not bound before and is refused outside a CLASS 0 state or with a
contactor closed; Enable enters INITIAL and Disable sends MODE 2; Authorise sets AUTHORISED and queues AUTH; Force fault takes the fault
transition with cause 5; Reset context leaves FAULT only with nothing latched; Forget delays restores D0; Signal queues a HOST trigger;
Read context answers without changing anything. -/
def Obligations.SequencerCommands : Prop :=
  (∀ (s : State) (c : Cmd) (o : Fin 128) (p : LoadedProfile), Ready s c 0x0101 → ToContext s c o →
    s.activeProfile (fin 32 (fld (c.p 0) 0 5)) = some p → (p.badA && p.badB) = false → s.ctxClass o = 0 → (s.ctx o).bothOpen = true →
    exec (.bindProfile c) s = .next (completeApplied (writeJournal (bindProfile s o p c).revote o) o c (s.ctx o).outputs)) ∧
  (∀ (s : State) (c : Cmd) (o : Fin 128) (p : LoadedProfile), Ready s c 0x0101 → ToContext s c o →
    s.activeProfile (fin 32 (fld (c.p 0) 0 5)) = some p → (p.badA && p.badB) = false → s.ctxClass o ≠ 0 ∨ (s.ctx o).bothOpen = false →
    exec (.bindProfile c) s = .next (complete s c 0x0A)) ∧
  (∀ (s : State) (c : Cmd) (o : Fin 128), Ready s c 0x0101 → ToContext s c o → s.activeProfile (fin 32 (fld (c.p 0) 0 5)) = none →
    exec (.bindProfile c) s = .next (complete s c 0x02)) ∧
  (∀ (s : State) (c : Cmd) (o : Fin 128) (p : LoadedProfile), Ready s c 0x0102 → ToContext s c o → bit (c.p 0) 0 = true →
    (s.ctx o).bound = true → s.ctxProfile o = some p → (s.ctx o).enabled = false →
    exec (.enableOutlet c) s = .next (completeApplied (writeJournal (enterInitial o (some c) (sendPilot (s.onCtx o fun x => { x with enabled := true }) o
      (pilotCmd (s.ctx o).pilotSel (s.ctx o).iEff))).revote o) o c (s.ctx o).outputs)) ∧
  (∀ (s : State) (c : Cmd) (o : Fin 128), Ready s c 0x0102 → ToContext s c o → bit (c.p 0) 0 = false → s.ctxClass o = 0 →
    exec (.enableOutlet c) s = .next (completeApplied (writeJournal (endAssoc (sendPilot ((dropQueue s o).onCtx o fun x => { x with
      enabled := false }) o (2, 0)) o 3 (some c)).revote o) o c (s.ctx o).outputs)) ∧
  (∀ (s : State) (c : Cmd) (o : Fin 128), Ready s c 0x0102 → ToContext s c o → bit (c.p 0) 0 = false → s.ctxClass o ≠ 0 →
    exec (.enableOutlet c) s = .next (complete s c 0x0A)) ∧
  (∀ (s : State) (c : Cmd) (o : Fin 128), Ready s c 0x0103 → ToContext s c o → s.ctxRuns o = true → exec (.authorise c) s =
    .next (complete (writeJournal (queueTrig ((s.onCtx o fun x => { x with authorised := bit (c.p 0) 0 }).onBil o fun b =>
      if bit (c.p 0) 0 then { b with contract := 0 } else b) o 9 (if bit (c.p 0) 0 then 0 else 1)) o) c 0x00)) ∧
  (∀ (s : State) (c : Cmd) (o : Fin 128), Ready s c 0x0104 → ToContext s c o → s.ctxRuns o = true → s.ctxClass o ≠ 4 →
    exec (.forceFault c) s = .next (completeApplied (writeJournal (faultTrans o (some c) 5 (fld (c.p 0) 0 8) 0 0 s).1 o) o c (s.ctx o).outputs)) ∧
  (∀ (s : State) (c : Cmd) (o : Fin 128), Ready s c 0x0104 → ToContext s c o → s.ctxRuns o = false ∨ s.ctxClass o = 4 →
    exec (.forceFault c) s = .next (complete s c 0x0A)) ∧
  (∀ (s : State) (c : Cmd) (o : Fin 128), Ready s c 0x0105 → ToContext s c o → s.ctxClass o = 4 → (s.ctx o).bothOpen = true →
    (s.safJ1 o).rc = false → (s.safJ1 o).iso = false → (s.safJ1 o).weld = false →
    exec (.resetContext c) s = .next (completeApplied (writeJournal (enterInitial o (some c) s) o) o c (s.ctx o).outputs)) ∧
  (∀ (s : State) (c : Cmd) (o : Fin 128), Ready s c 0x0105 → ToContext s c o → s.ctxClass o = 4 → (s.ctx o).bothOpen = true →
    (s.safJ1 o).rc = true ∨ (s.safJ1 o).iso = true ∨ (s.safJ1 o).weld = true → exec (.resetContext c) s = .next (complete s c 0x04)) ∧
  (∀ (s : State) (c : Cmd) (o : Fin 128) (p : LoadedProfile), Ready s c 0x0106 → ToContext s c o → s.ctxProfile o = some p →
    bit (c.p 0) 0 = true → bit (c.p 0) 1 = true →
    exec (.forgetDelays c) s = .next (complete (writeJournal (s.onDelays o fun _ => p.prof.d0) o) c 0x00)) ∧
  (∀ (s : State) (c : Cmd) (o : Fin 128), Ready s c 0x0107 → s.ofHandle c.handle.toNat = some o →
    ∃ t, exec (.readContext c) s = .next t ∧ Completes s c 0x00 (pack [(0, (s.ctx o).state), (8, s.ctxClass o), (11, (s.ctx o).pilot.toNat),
      (14, (s.ctx o).prox.toNat), (17, (s.ctx o).flags.toNat)]) t) ∧
  (∀ (s : State) (c : Cmd) (o : Fin 128), Ready s c 0x0100 → ToContext s c o → fld (c.p 0) 0 8 ≠ 255 →
    exec (.signal c) s = .next (queueTrig (started s c) o 4 (fld (c.p 0) 0 8) (some (c.ring, c.index)))) ∧
  (∀ (s : State) (c : Cmd) (o : Fin 128) (b : BitVec 3 × BitVec 10 × Bool × Bool × Bool),
    ((s.ctx o).outputs = b ∨ framesFlow s o = false → completeApplied s o c b = complete s c 0x00) ∧
    ((s.ctx o).outputs ≠ b → framesFlow s o = true → completeApplied s o c b = (started s c).onCtx o fun x => { x with
      awaitApply := x.awaitApply ++ [⟨c.ring, c.index, 0, none⟩] }))

/-- R201, R205, R208, R213, completing contextStep: a step of a context serves the queued trigger of the highest priority, the oldest
first: where a record of its state matches, the transition with its chain is taken; where none does, the trigger is discarded or causes
the fault transition of its row, and a Signal completes with status 0x0A. With nothing queued nothing happens. -/
def Obligations.ContextSteps : Prop :=
  (∀ (s : State) (o : Fin 128) (x : Trigger) (l : List Trigger) (t : State), (s.ctx o).awaitApply = [] → mayStep s o = true →
    (s.ctx o).faultDue = none → nextTrig (s.ctx o).queue = some (x, l) → x.cmd = none →
    t = (s.count 3 0x10 1).onCtx o (fun c => { c with queue := l }) →
    (∀ r, chain o none x.code.toNat x.arg.toNat t = some r → exec (.contextStep o) s = .next (writeJournal r.1 o)) ∧
    (matchTrans t o x.code.toNat x.arg.toNat = none → unmatchedFault x.code.toNat x.arg.toNat = none →
      exec (.contextStep o) s = .next (writeJournal t o)) ∧
    (∀ k, matchTrans t o x.code.toNat x.arg.toNat = none → unmatchedFault x.code.toNat x.arg.toNat = some k →
      exec (.contextStep o) s = .next (writeJournal (faultTrans o none k 0 x.code.toNat x.arg.toNat t).1 o))) ∧
  (∀ (s : State) (o : Fin 128), (s.ctx o).awaitApply = [] → (s.ctx o).faultDue = none → (s.ctx o).queue = [] →
    exec (.contextStep o) s = .next s) ∧
  (∀ (q : List Trigger) (x : Trigger) (l : List Trigger), nextTrig q = some (x, l) →
    x ∈ q ∧ (∀ y ∈ q, trigPrio x.code ≤ trigPrio y.code) ∧ q.length = l.length + 1 ∧ ∃ a b, q = a ++ x :: b ∧ l = a ++ b ∧
      ∀ y ∈ a, trigPrio x.code < trigPrio y.code) ∧
  (∀ a : Nat, a < 256 → (unmatchedFault 1 a = none ∧ unmatchedFault 2 a = none ∧ unmatchedFault 3 a = none ∧ unmatchedFault 4 a = none ∧
    unmatchedFault 9 a = none ∧ unmatchedFault 0xA a = none ∧ unmatchedFault 0xB a = none ∧ unmatchedFault 0xC a = none ∧
    (unmatchedFault 5 a).isSome = (a != 6) ∧ (unmatchedFault 6 a).isSome = (decide (4 ≤ a) && decide (a ≤ 9)) ∧
    (unmatchedFault 7 a).isSome = (decide (2 ≤ a) && decide (a ≤ 4)) ∧ (unmatchedFault 8 a).isSome = (a == 1 || a == 3)))

/-- R214 to R216, completing pilotEvaluation: the plateaus of the samples give the class of the evaluation by MODE, and the class is
debounced: an evaluation of the standing class clears the count; the first evaluation of another class starts one, with its time; the
PILOT_DEBOUNCE-th in a row takes effect; a period with a MODE change counts for none. Outside MODE 1 an evaluation stands at the next
millisecond of tick time. One without a high plateau counts for nothing (the model's choice, log 137). -/
def Obligations.PilotEvaluations : Prop :=
  (∀ (s : State) (o : Fin 128) (high : BitVec 12) (low : Option (BitVec 12)) (p : LoadedProfile) (u w v : State) (k : BitVec 3),
    seqOn s = true → u = (if (s.ctx o).feMode s.now = 1 then s else s.toTick ((s.now / msNs + 1) * msNs)) →
    plateaus ((s.ctx o).feMode s.now) (u.ctx o).duty.toNat (u.ctx o).pilots.reverse = (some high, low) → u.ctxProfile o = some p →
    (u.ctx o).modeChanged u.now = false → w = u.onCtx o (fun c => { c with high := high, low := low.getD c.low }) →
    k = pilotClass ((u.ctx o).feMode u.now) high (w.ctx o).low → v = toggleStep (islandPilot w o k) o k →
    (k = (u.ctx o).pilot → exec (.pilotEvaluation o) s = .next (v.onCtx o fun c => { c with pilotCount := 0, pilotCand := k })) ∧
    (k ≠ (u.ctx o).pilot → (u.ctx o).pilotCount = 0 ∨ k ≠ (u.ctx o).pilotCand → 1 < p.prof.debounce →
      exec (.pilotEvaluation o) s = .next (v.onCtx o fun c => { c with
        pilotCand := k, pilotCount := 1, pilotStamp := v.tim.mains, pilotTick := v.now })) ∧
    (k ≠ (u.ctx o).pilot → (u.ctx o).pilotCount = 0 ∨ k ≠ (u.ctx o).pilotCand → p.prof.debounce ≤ 1 →
      exec (.pilotEvaluation o) s = .next (pilotEffect (v.onCtx o fun c => { c with
        pilotCand := k, pilotCount := 1, pilotStamp := v.tim.mains, pilotTick := v.now }) o k)) ∧
    (k ≠ (u.ctx o).pilot → (u.ctx o).pilotCount ≠ 0 → k = (u.ctx o).pilotCand → (u.ctx o).pilotCount + 1 < p.prof.debounce →
      exec (.pilotEvaluation o) s = .next (v.onCtx o fun c => { c with
        pilotCand := k, pilotCount := (u.ctx o).pilotCount + 1 })) ∧
    (k ≠ (u.ctx o).pilot → (u.ctx o).pilotCount ≠ 0 → k = (u.ctx o).pilotCand → p.prof.debounce ≤ (u.ctx o).pilotCount + 1 →
      exec (.pilotEvaluation o) s = .next (pilotEffect (v.onCtx o fun c => { c with
        pilotCand := k, pilotCount := (u.ctx o).pilotCount + 1 }) o k))) ∧
  (∀ (s : State) (o : Fin 128) (high : BitVec 12) (low : Option (BitVec 12)) (p : LoadedProfile) (u : State), seqOn s = true →
    u = (if (s.ctx o).feMode s.now = 1 then s else s.toTick ((s.now / msNs + 1) * msNs)) →
    plateaus ((s.ctx o).feMode s.now) (u.ctx o).duty.toNat (u.ctx o).pilots.reverse = (some high, low) → u.ctxProfile o = some p →
    (u.ctx o).modeChanged u.now = true →
    exec (.pilotEvaluation o) s = .next (u.onCtx o fun c => { c with high := high, low := low.getD c.low, pilotCount := 0 })) ∧
  (∀ (s : State) (o : Fin 128) (u : State), seqOn s = true →
    u = (if (s.ctx o).feMode s.now = 1 then s else s.toTick ((s.now / msNs + 1) * msNs)) →
    (plateaus ((s.ctx o).feMode s.now) (u.ctx o).duty.toNat (u.ctx o).pilots.reverse).1 = none →
    exec (.pilotEvaluation o) s = .next u) ∧
  (∀ high low : BitVec 12, (3892 ≤ high.toNat → pilotClass 0 high low = 7) ∧ (3482 ≤ high.toNat → high.toNat ≤ 3891 → pilotClass 0 high low = 0) ∧
    (3072 ≤ high.toNat → high.toNat ≤ 3481 → pilotClass 0 high low = 1) ∧ (2663 ≤ high.toNat → high.toNat ≤ 3071 → pilotClass 0 high low = 2) ∧
    (2253 ≤ high.toNat → high.toNat ≤ 2662 → pilotClass 0 high low = 3) ∧ (1844 ≤ high.toNat → high.toNat ≤ 2252 → pilotClass 0 high low = 4) ∧
    (high.toNat < 1844 → pilotClass 0 high low = 7) ∧
    (205 ≤ high.toNat → high.toNat ≤ 614 → pilotClass 2 high low = 5) ∧ (high.toNat < 205 ∨ 614 < high.toNat → pilotClass 2 high low = 7) ∧
    (205 ≤ low.toNat → low.toNat ≤ 614 → pilotClass 1 high low = pilotClass 0 high low) ∧
    (low.toNat < 205 ∨ 614 < low.toNat → 2253 ≤ high.toNat → high.toNat ≤ 3481 → pilotClass 1 high low = 6) ∧
    (high.toNat < 2253 ∨ 3481 < high.toNat → pilotClass 1 high low = pilotClass 0 high low))

/-- R75, R210, R217, R221 to R226, R230, R232, completing proximityClass, timerExpiry, zeroPointMark, contactorFeedback, contactorTimeout,
lockFeedback, profileCheck and contextStart: a proximity class that has stood for PROX_DEBOUNCE takes effect; a timer queues its TIMER
trigger; a zero-point mark, with every mark before it in the order of R75 fired, switches, checked again for a CLOSE and cancelled where
the permit is gone; a contactor's feedback within CONT_TIMEOUT confirms the switch and its absence is a fault; the lock's feedback or its
timeout queues LOCK; a failed profile copy is reloaded; a context starts with its lane. -/
def Obligations.SequencerInputs : Prop :=
  (∀ (s : State) (o : Fin 128) (p : LoadedProfile), seqOn s = true → s.ctxProfile o = some p → p.prof.proxMode = 1 →
    (s.ctx o).proxCand ≠ (s.ctx o).prox → (s.lane o).statusSeen = true → exec (.proximityClass o) s =
      .next (queueTrig (postOut ((s.toTick ((s.ctx o).proxSince + p.prof.proxDebounce * msNs)).onCtx o fun c => { c with prox := c.proxCand })
        0x0102 o (p8 (s.ctx o).prox.toNat ++ p8 (s.ctx o).proxCand.toNat ++ p8 (s.lane o).status.ppRaw.toNat)) o 2 (s.ctx o).proxCand.toNat)) ∧
  (∀ (s u : State) (o : Fin 128) (k : Fin 4) (e : Nat), u = inOrder (.timer o k) s → seqOn u = true → vget (u.ctx o).timers k = .ms e →
    exec (.timerExpiry o k) s =
      .next (writeJournal (queueTrig ((u.toTick e).onCtx o fun c => { c with timers := vmod c.timers k fun _ => .off }) o 3 k.val) o)) ∧
  (∀ (s u : State) (o : Fin 128) (k : Fin 4) (m : Nat), u = inOrder (.timer o k) s → seqOn u = true → vget (u.ctx o).timers k = .angle m →
    exec (.timerExpiry o k) s =
      .next (writeJournal (queueTrig ((u.toMains m).onCtx o fun c => { c with timers := vmod c.timers k fun _ => .off }) o 3 k.val) o)) ∧
  (∀ (s u v : State) (o : Fin 128) (aux : Bool) (z : ZpMark), u = inOrder (.switch o aux) s → ((u.ctx o).cont aux).zp = some z →
    mayStep u o = true → v = (if z.close then evalPermit (u.toMains z.mark) o else u.toMains z.mark) →
    (z.close = false ∨ (v.saf1 o).permit = true → exec (.zeroPointMark o aux) s =
      .next (writeJournal ((switchNow v o aux z.close 1 (z.target % 65536)).onSta o fun x => { x with
        quietUntil := some ((switchNow v o aux z.close 1 (z.target % 65536)).now +
          (switchNow v o aux z.close 1 (z.target % 65536)).tim.unitsNs (z.target - z.mark) + 3 * msNs) }) o)) ∧
    (z.close = true → (v.saf1 o).permit = false → exec (.zeroPointMark o aux) s =
      .next (writeJournal (actionRefused (v.onCont o aux fun k => { k with zp := none }) o (pack [(0, 2), (8, b2n aux), (9, 1)])
        (refusalCause (v.onCont o aux fun k => { k with zp := none }) o false) none) o))) ∧
  (∀ (s : State) (a : MarkAct), (∀ m ∈ pendingMarks s, ∀ k ∈ pendingMarks s, k.2 = a → markBefore m k = false) → inOrder a s = s) ∧
  (∀ (s : State) (o : Fin 128) (aux : Bool) (w : ContWatch) (a : Nat) (p : LoadedProfile), seqOn s = true →
    ((s.ctx o).cont aux).fbNew = true → ((s.ctx o).cont aux).watch = some w → w.appliedAt = some a → s.ctxProfile o = some p →
    ((s.ctx o).cont aux).fb = w.close → ((s.ctx o).cont aux).fbSince ≤ a + p.prof.contTimeout * msNs → exec (.contactorFeedback o aux) s =
      .next (writeJournal (confirmSwitch (s.onCont o aux fun k => { k with fbNew := false }) o aux p.prof w a) o)) ∧
  (∀ (s : State) (o : Fin 128) (aux : Bool) (w : ContWatch) (a : Nat) (p : LoadedProfile), seqOn s = true →
    ((s.ctx o).cont aux).watch = some w → w.appliedAt = some a → s.ctxProfile o = some p → ((s.ctx o).cont aux).fb ≠ w.close →
    exec (.contactorTimeout o aux) s = .next (contFault ((s.toTick (a + p.prof.contTimeout * msNs)).onCont o aux fun k => { k with watch := none })
      o aux (4 + 2 * b2n aux + (if w.close then 0 else 1)))) ∧
  (∀ (s : State) (o : Fin 128) (aux : Bool) (t : Nat), seqOn s = true → ((s.ctx o).cont aux).watch = none →
    ((s.ctx o).cont aux).unexpSince = some t → exec (.contactorTimeout o aux) s =
      .next (contFault ((s.toTick (t + 10 * msNs)).onCont o aux fun k => { k with unexpSince := none }) o aux (8 + b2n aux))) ∧
  (∀ (s : State) (o : Fin 128) (d : Nat), seqOn s = true → (s.ctx o).lockDue = some d →
    ((s.ctx o).lockFb = (s.ctx o).lockCmd → exec (.lockFeedback o) s =
      .next (lockEvent (s.onCtx o fun c => { c with lockDue := none }) o (if (s.ctx o).lockCmd then 0 else 1))) ∧
    ((s.ctx o).lockFb ≠ (s.ctx o).lockCmd → exec (.lockFeedback o) s =
      .next (lockEvent ((s.toTick d).onCtx o fun c => { c with lockDue := none }) o (if (s.ctx o).lockCmd then 2 else 3)))) ∧
  (∀ (s : State) (p : Fin 32) (v : Nat) (x : LoadedProfile) (copy : Fin 3) (crc : Bool), seqOn s = true → x ∈ s.seq.profiles → x.prof.id = p →
    x.version = v → (x.badA && x.badB) = false → exec (.profileCheck p v copy crc) s = .next (profileFails s p v (copy == 2) crc)) ∧
  (∀ (s : State) (o : Fin 128), seqOn s = true → (s.ctx o).waiting = true → (s.lane o).link = .up → (s.lane o).statusSeen = true →
    ((s.ctx o).bound && (s.ctx o).enabled) = false → exec (.contextStart o) s = .next (s.onCtx o fun c => { c with waiting := false })) ∧
  (∀ (s : State) (o : Fin 128), seqOn s = true → (s.ctx o).waiting = true → (s.lane o).link = .up → (s.lane o).statusSeen = true →
    (s.ctx o).bound = true → (s.ctx o).enabled = true → (s.lane o).status.contMain = false → (s.lane o).status.mainFb = false →
    (s.lane o).status.contAux = false → (s.lane o).status.auxFb = false → (s.lane o).status.slack ≠ 1 →
    exec (.contextStart o) s = .next (writeJournal (enterInitial o none (s.onCtx o fun c => { c with waiting := false })) o)) ∧
  (∀ (s : State) (o : Fin 128), seqOn s = true → (s.ctx o).waiting = true → (s.lane o).link = .up → (s.lane o).statusSeen = true →
    (s.ctx o).bound = true → (s.ctx o).enabled = true → (s.lane o).status.contMain = true ∨ (s.lane o).status.mainFb = true ∨
    (s.lane o).status.contAux = true ∨ (s.lane o).status.auxFb = true ∨ (s.lane o).status.slack = 1 →
    exec (.contextStart o) s = .next (writeJournal (faultTrans o none 7 0 0 0 (s.onCtx o fun c => { c with waiting := false })).1 o))

/-- R240, R241, R244 to R247, completing rcEvaluation, rdcTestStep, rdcOkExpiry, runRdcTest and clearTrip: the estimates of an evaluation
are taken, and a stage trips in the one evaluation in which its delay has elapsed and not before; a trip sets RC_LATCH and withdraws the
permits. The RDC test waits for its injected current and then for its end; a missed bound fails it. RDC_OK falls with the test's age. Run
RDC test and Clear trip start it. -/
def Obligations.ResidualCurrent : Prop :=
  (∀ d n : Nat, (((fun x : StageRun => (x.next true d false).1)^[n] ⟨false, 0⟩).next true d false).2 = decide (n = d)) ∧
  (∀ (x : StageRun) (d : Nat) (inh : Bool), x.next false d inh = (⟨false, 0⟩, false) ∧ (x.next true d true).2 = false) ∧
  (∀ (s v u : State) (o : Fin 128) (idc : Int) (iac : Nat) (r : SafetyRec) (stp : Fin 6 → StageRun × Bool), islandOn s = true →
    s.hasIres o = true → v = s.toTick ((s.saf1 o).rcAt + msNs) → idc = meanOf (islandRole v o 8) →
    iac = rmsRaw ((islandRole v o 8).map fun x => x - idc) → u = v.onSaf o (fun y => { y with rcAt := v.now }) → u.safRec o = some r →
    (stp = fun k => (vget (u.saf1 o).stages k).next
      (decide (0 < vget r.thr k) && decide (vget r.thr k * 100 ≤ stageEstimate (u.isDc o) r idc iac k.val)) (vget r.delay k)
      ((u.saf1 o).rdc != .idle)) →
    ((∀ k, (stp k).2 = false) → exec (.rcEvaluation o) s = .next (u.onSaf o fun x => { x with
      idc := idc, iac := iac, stages := Vector.ofFn fun k => (stp k).1
      quietSince := if idc.natAbs < 3000 ∧ iac < 15000 then x.quietSince else u.now })) ∧
    ((∃ k, (stp k).2 = true) → ∃ t, exec (.rcEvaluation o) s = .next (evalPermit t o (some 0)) ∧ (t.safJ1 o).rc = true)) ∧
  (∀ (s : State) (o : Fin 128) (d : Nat), islandOn s = true → (s.ctx o).bothOpen = true →
    ((s.saf1 o).rdc = .wait1 d → rdcMet (s.saf1 o) = true → s.now ≤ d →
      exec (.rdcTestStep o) s = .next (s.onSaf o fun x => { x with rdc := .wait2 (s.now + 100 * msNs) })) ∧
    ((s.saf1 o).rdc = .wait1 d → rdcMet (s.saf1 o) = false → exec (.rdcTestStep o) s = .next (endRdc (s.toTick d) o 2)) ∧
    ((s.saf1 o).rdc = .wait2 d → rdcMet (s.saf1 o) = true → s.now ≤ d → exec (.rdcTestStep o) s = .next (endRdc s o 0)) ∧
    ((s.saf1 o).rdc = .wait2 d → rdcMet (s.saf1 o) = false → exec (.rdcTestStep o) s = .next (endRdc (s.toTick d) o 4))) ∧
  (∀ (s : State) (o : Fin 128), islandOn s = true → (s.saf1 o).rdcOk = true → exec (.rdcOkExpiry o) s =
    .next (evalPermit (mirrorSaf ((s.toTick ((s.saf1 o).rdcAt + 86400 * secNs)).onSaf o fun x => { x with rdcOk := false }) o) o)) ∧
  (∀ (s : State) (c : Cmd) (o : Fin 128), Ready s c 0x0201 → s.ofHandle c.handle.toNat = some o →
    (s.ctxClass o ≤ 1 → rdcFree s o = true → exec (.runRdcTest c) s = .next (startRdc (started s c) o (.command c.ring c.index))) ∧
    (1 < s.ctxClass o ∨ rdcFree s o = false → exec (.runRdcTest c) s = .next (complete s c 0x0A))) ∧
  (∀ (s : State) (c : Cmd) (o : Fin 128), Ready s c 0x0200 → s.ofHandle c.handle.toNat = some o →
    (fld (c.p 0) 0 2 = 0 → s.since (s.saf1 o).quietSince secNs = true → rdcFree s o = true →
      exec (.clearTrip c) s = .next (startRdc (started s c) o (.clear c.ring c.index))) ∧
    (fld (c.p 0) 0 2 = 0 → s.since (s.saf1 o).quietSince secNs = false → exec (.clearTrip c) s = .next (complete s c 0x0A)) ∧
    (∀ r, fld (c.p 0) 0 2 = 1 → s.safRec o = some r → (s.saf1 o).imdClear = none → exec (.clearTrip c) s =
      .next (imdUpdate ((started s c).onSaf o fun x => { x with imdClear := some (c.ring, c.index) }) o)) ∧
    (∀ r, fld (c.p 0) 0 2 = 2 → s.safRec o = some r → (s.ctx o).checkWeld = false → exec (.clearTrip c) s =
      .next ((started s c).onCtx o fun x => { x with checkWeld := true, checkWeldCmd := some (c.ring, c.index) })) ∧
    (fld (c.p 0) 0 2 = 3 → exec (.clearTrip c) s = .next (complete s c 0x02)))

/-- R249 to R256, completing imdHalfEnd, isoResultAged, checkWeldEnd, pilotGraceEnd and readInsulation: a +VM half stores its Vc and a −VM
half gives a result, classed by R250; a result too old is evaluated; a weld check is judged from the voltages or currents left; the grace
of the pilot ends. Read insulation answers the last r_iso. -/
def Obligations.InsulationAndWelds : Prop :=
  (∀ (s : State) (o : Fin 128) (vc : Int) (r : SafetyRec), islandOn s = true → s.safRec o = some r →
    vc = vcNow (s.toTick ((s.saf1 o).imdHalfAt + r.imdHalf * msNs)) o →
    ((s.saf1 o).imdSrc = 1 → exec (.imdHalfEnd o) s = .next ((s.toTick ((s.saf1 o).imdHalfAt + r.imdHalf * msNs)).onSaf o fun x => { x with
      imdSrc := 2, imdHalfAt := (s.toTick ((s.saf1 o).imdHalfAt + r.imdHalf * msNs)).now, vcPlus := some vc })) ∧
    (∀ v, (s.saf1 o).imdSrc = 2 → (s.saf1 o).vcPlus = some v → exec (.imdHalfEnd o) s =
      .next (imdUpdate (isoDone ((s.toTick ((s.saf1 o).imdHalfAt + r.imdHalf * msNs)).onSaf o fun x => { x with
        imdSrc := 1, imdHalfAt := (s.toTick ((s.saf1 o).imdHalfAt + r.imdHalf * msNs)).now, vcPlus := none }) o (isoResult r v vc)) o))) ∧
  (∀ (r : SafetyRec) (a b : Int), 1990 * (r.vm : Int) ≤ a - b → (isoResult r a b).cls = 3) ∧
  (∀ (r : SafetyRec) (a b : Int), 0 < r.rm → 0 < r.rc → 0 < a - b → a - b < 1990 * (r.vm : Int) →
    1000 * (r.rc : Int) * (a - b) < 375 * (r.rm : Int) * (2000 * r.vm - (a - b)) → ∃ k : Nat,
      (isoResult r a b).riso = some k ∧ (k : Int) * (r.rm * (2000 * r.vm - (a - b)) - 2 * r.rc * (a - b)) ≤ r.rc * r.rm * (a - b) ∧
      (k < r.imdFault ↔ (isoResult r a b).cls = 2)) ∧
  (∀ (s : State) (o : Fin 128) (r : SafetyRec) (k : BitVec 2), islandOn s = true → s.safRec o = some r → (s.saf1 o).lastClass = some k →
    r.imdEn = true → exec (.isoResultAged o) s = .next (evalPermit (s.toTick ((s.saf1 o).lastIsoAt + r.imdAge * secNs)) o)) ∧
  (∀ (s : State) (o : Fin 128) (r : SafetyRec), islandOn s = true → s.safRec o = some r → (s.ctx o).checkWeld = true →
    (s.ctx o).main.fb = false → s.isDc o = true →
    ((s.saf1 o).vdc ≤ r.weldVDc * 1000 → exec (.checkWeldEnd o) s = .next (endCheckWeld s o none)) ∧
    (r.weldVDc * 1000 < (s.saf1 o).vdc → exec (.checkWeldEnd o) s =
      .next (endCheckWeld (s.toTick ((s.ctx o).main.fbSince + r.weldTDc * msNs)) o (some 1)))) ∧
  (∀ (s : State) (o : Fin 128) (r : SafetyRec), islandOn s = true → s.safRec o = some r → (s.ctx o).checkWeld = true →
    (s.ctx o).main.fb = false → s.isDc o = false → exec (.checkWeldEnd o) s = .next (endCheckWeld (s.toTick ((s.ctx o).main.fbSince + 200 * msNs)) o
      (if 3 ≤ (s.saf1 o).weldRunV then some 0 else if 3 ≤ (s.saf1 o).weldRunI then some 2 else none))) ∧
  (∀ (s : State) (o : Fin 128) (d : Nat), islandOn s = true → (s.saf1 o).pilotGraceUntil = some d →
    exec (.pilotGraceEnd o) s = .next (evalPermit ((s.toTick d).onSaf o fun x => { x with pilotGraceUntil := none }) o)) ∧
  (∀ (s : State) (c : Cmd) (o : Fin 128), Ready s c 0x0206 → s.ofHandle c.handle.toNat = some o →
    ∃ t, exec (.readInsulation c) s = .next t ∧ Completes s c 0x00 (s.saf1 o).riso t)

/-- R264 to R272, completing safetyInputChange, discrepancy, crossCircuitCheck, acknowledgeStop, axisEvaluation, outputReadback, stopAxis,
releaseAxis, clearOutputFault, lockstepMismatch and lockstepRestartEnd: a stop pair that opens latches, a discrepancy and a cross-circuit
are faults of the pair, and an acknowledge clears the closed pairs; an axis is monitored by its state, with the envelope of R270 in SS1;
Release axis needs STO without fault or demand; a failed readback latches the output fault; a lockstep mismatch starts a restart, counted
as its class. -/
def Obligations.SafetyStops : Prop :=
  (∀ (s : State) (k : Fin 32) (b : Bool), islandOn s = true → (vget s.saf.pairs k).closed = true → (vget s.saf.inputs k).func = 1 →
    ((vget s.saf.pairs k).change b false s.now).closed = false → exec (.safetyInputChange k b false) s =
      .next (latchPair (wake (s.onPair k fun p => p.change b false s.now) 7 k.val) k 0)) ∧
  (∀ (p : InPair) (b : Bool) (t : Nat), p.fault = false → ((p.change b false t).a && (p.change b false t).b) = false ∧
    ((p.change b true t).fault = false) ∧ ((p.change b (if b then p.a else p.b) t).differSince = none)) ∧
  (∀ (s : State) (k : Fin 32) (d : Nat), islandOn s = true → (vget s.saf.pairs k).differSince = some d → (vget s.saf.pairs k).fault = false →
    (vget s.saf.inputs k).func = 1 ∨ (vget s.saf.inputs k).func = 2 → exec (.discrepancy k) s =
      .next (latchPair ((s.toTick (d + (vget s.saf.inputs k).disc * msNs)).onPair k fun p => { p with fault := true, bothLow := false }) k 1)) ∧
  (∀ (s : State) (k : Fin 32) (b : Bool), islandOn s = true → (vget s.saf.inputs k).dry = true → (vget s.saf.inputs k).func ≠ 0 →
    exec (.crossCircuitCheck k b) s = .next (latchPair (s.onPair k fun p => { p with fault := true, bothLow := false }) k 2)) ∧
  (∀ (s : State) (c : Cmd), Ready s c 0x0202 →
    ((vget s.saf.pairs (fin 32 (fld (c.p 0) 0 5))).closed = true → exec (.acknowledgeStop c) s =
      .next (complete (clearLatches s [fin 32 (fld (c.p 0) 0 5)] (some c)) c 0x00)) ∧
    ((vget s.saf.pairs (fin 32 (fld (c.p 0) 0 5))).closed = false → exec (.acknowledgeStop c) s = .next (complete s c 0x0A))) ∧
  (∀ (s : State) (k : Fin 16) (n : Int), islandOn s = true → ∃ u, (∀ j, j ≠ k → vget u.saf.axes j = vget s.saf.axes j) ∧
    (vget u.saf.axes k).speed = n ∧ (vget u.saf.axes k).pos = (vget s.saf.axes k).pos + BitVec.ofInt 32 n ∧
    ((vget s.saf.axes k).state = .sto → exec (.axisEvaluation k n) s = .next u) ∧
    ((vget s.saf.axes k).state = .released → (vget s.saf.axisRecs k).vMax < n.natAbs →
      exec (.axisEvaluation k n) s = .next (axisState u k .sto 6)) ∧
    ((vget s.saf.axes k).state = .released → n.natAbs ≤ (vget s.saf.axisRecs k).vSs → n.natAbs ≤ (vget s.saf.axisRecs k).vMax →
      exec (.axisEvaluation k n) s = .next u) ∧
    ((vget s.saf.axes k).state = .ss1 → exec (.axisEvaluation k n) s = .next (watchSs1 u k (vget s.saf.axisRecs k) n))) ∧
  (∀ (r : AxisRec) (v0 t : Nat), (t ≤ 20 → envelope r v0 t = ((v0 + r.margin) * 1000 : Nat)) ∧
    (20 < t → envelope r v0 t = ((v0 + r.margin) * 1000 : Nat) - (r.decel : Int) * ((t : Int) - 20))) ∧
  (∀ (s : State) (k : Fin 16) (b stuck : Bool), islandOn s = true → (vget s.saf.axes k).outFault = false →
    stuck = true ∨ (vget s.saf.axes k).on = true → (vget s.saf.axes k).state = .sto → ∃ u, exec (.outputReadback k b stuck) s =
      .next (postDev u 0x020B (p8 k.val ++ p8 (b2n b) ++ p8 (if stuck then 0 else 1))) ∧
      u = { s.onAxis k (fun a => { a with outFault := true }) with saf := u.saf } ∧ (vget u.saf.axes k).outFault = true ∧ u.saf.outFaultAny = true) ∧
  (∀ (s : State) (c : Cmd), Ready s c 0x0203 → exec (.stopAxis c) s = .next (complete (ss1Demand s (fin 16 (fld (c.p 0) 0 4)) 0) c 0x00)) ∧
  (∀ (s : State) (k : Fin 16) (x : Nat), (vget s.saf.axes k).state ≠ .released → ss1Demand s k x = s) ∧
  (∀ (s : State) (c : Cmd) (k : Fin 16), Ready s c 0x0204 → k = fin 16 (fld (c.p 0) 0 4) →
    ((vget s.saf.axes k).state = .sto → (vget s.saf.axes k).outFault = false → axisHeld s k = false → s.saf.guardOk = true →
      exec (.releaseAxis c) s = .next (complete (axisState s k .released 0) c 0x00)) ∧
    ((vget s.saf.axes k).state ≠ .sto ∨ (vget s.saf.axes k).outFault = true ∨ axisHeld s k = true ∨ s.saf.guardOk = false →
      exec (.releaseAxis c) s = .next (complete s c 0x0A))) ∧
  (∀ (s : State) (c : Cmd) (k : Fin 16), Ready s c 0x0205 → k = fin 16 (fld (c.p 0) 0 4) →
    ((vget s.saf.axes k).outFault = false → exec (.clearOutputFault c) s = .next (complete s c 0x00)) ∧
    ((vget s.saf.axes k).outFault = true → exec (.clearOutputFault c) s = .next (complete (s.free.2.onAxis k fun a => { a with outFault := false }) c 0x00) ∨
      exec (.clearOutputFault c) s = .next (complete s.free.2 c 0x0A))) ∧
  (∀ (s : State) (legal : Bool), islandOn s = true → s.saf.restarting = none → s.saf.legalRestarting = none →
    exec (.lockstepMismatch legal) s = .next (if legal then tally { s with saf := { s.saf with legalRestarting := some s.now } } 2 0
      else tally { s with saf := { s.saf with restarting := some s.now } } 3 0)) ∧
  (∀ (s : State) (t : Nat), s.saf.restarting = some t → s.now ≤ t + 50 * usNs → exec (.lockstepRestartEnd false true) s =
    .next (postDev { s with saf := { s.saf with restarting := none, restartAny := true } } 0x020D (p16 ((s.now - t) / usNs)))) ∧
  (∀ (s : State) (t : Nat), s.saf.restarting = some t → exec (.lockstepRestartEnd false false) s =
    .next (makeLasting { s.toTick (t + 50 * usNs) with saf := { s.saf with restarting := none } } 3 0)) ∧
  (∀ (s : State) (t : Nat), s.saf.legalRestarting = some t → s.now ≤ t + 50 * usNs → exec (.lockstepRestartEnd true true) s =
    .next (postDev { s with saf := { s.saf with legalRestarting := none } } 0x1002 (p8 (b2n s.glb.side) ++ p8 s.slotNo ++ p16 ((s.now - t) / usNs))))

/-- R10, R283, R286, R288, R304, R305, completing setSiteLimit, setRequest, setPriority, readAllocation, siteLimitExpiry and
kiteGrantExpiry: the share commands set the site's limit, an outlet's request and its priority and weight, and complete with the first
allocation that uses them; a weight of 0 is a bad parameter; Set request is refused outside CLASS 1, 2 and 3. A command limit and a Kite
grant end when their time has passed. Read allocation answers the grant. -/
def Obligations.ShareCommands : Prop :=
  (∀ (s : State) (c : Cmd), Ready s c 0x0300 → s.shr.en = true → ∃ t, exec (.setSiteLimit c) s = .next t ∧
    t.shr = { s.shr with
      waitSnap := s.shr.waitSnap ++ [(c.ring, c.index)]
      cmd := if bit (c.p 6) 0 then none else some { lim := ⟨#v[amount 32 (c.p 0).toNat, amount 32 (c.p 1).toNat, amount 32 (c.p 2).toNat], amount 64 (c.p2 3)⟩
                                                    expiry := if c.p 5 = 0 then none else some (s.now + (c.p 5).toNat * secNs) } } ∧
    InFlight t c ∧ t = { s with rng := t.rng, shr := t.shr }) ∧
  (∀ (s : State) (c : Cmd) (o : Fin 128) (p : LoadedProfile), Ready s c 0x0301 → s.ofHandle c.handle.toNat = some o →
    s.ctxProfile o = some p →
    (s.ctxClass o ≠ 0 → s.ctxClass o ≠ 4 → exec (.setRequest c) s = .next (shareWait (setRequest s o (amount 32 (c.p 0).toNat)) c)) ∧
    (s.ctxClass o = 0 ∨ s.ctxClass o = 4 → exec (.setRequest c) s = .next (complete s c 0x0A))) ∧
  (∀ (s : State) (c : Cmd) (o : Fin 128), Ready s c 0x0302 → s.ofHandle c.handle.toNat = some o →
    (fld (c.p 0) 4 4 ≠ 0 → ∃ t, exec (.setPriority c) s = .next t ∧ (t.shr1 o).prio = fld (c.p 0) 0 3 ∧ (t.shr1 o).weight = fld (c.p 0) 4 4 ∧
      (∀ j, j ≠ o → t.shr1 j = s.shr1 j) ∧ (s.shr.en = true → InFlight t c) ∧ (s.shr.en = false → Done t c 0x00 0)) ∧
    (fld (c.p 0) 4 4 = 0 → exec (.setPriority c) s = .next (complete s c 0x02))) ∧
  (∀ (s : State) (c : Cmd) (o : Fin 128), Ready s c 0x0303 → s.ofHandle c.handle.toNat = some o →
    ∃ t, exec (.readAllocation c) s = .next t ∧ Completes s c 0x00 (BitVec.ofNat 32 (s.shr1 o).grant) t) ∧
  (∀ (s : State) (c : SiteCmd) (d : Nat), s.clocksRun = true → s.shr.cmd = some c → c.expiry = some d → ∃ t, exec .siteLimitExpiry s = .next t ∧
    t.shr = { s.shr with cmd := none } ∧ d ≤ t.now ∧ t = { s with tim := t.tim, keep := t.keep, shr := t.shr }) ∧
  (∀ (s : State) (g : Limits × Nat), s.clocksRun = true → s.shr.kiteGrant = some g → s.tie.role ≠ .standby → ∃ t u, exec .kiteGrantExpiry s = .next t ∧
    u = { s with tim := u.tim, keep := u.keep, shr := { s.shr with kiteGrant := none, kiteExpired := true } } ∧
    EventsOnly u t ∧ Posted u t 0x0303 none (p8 1 ++ p64 g.1.power))

/-- R75, R293, R294, R301, completing shareSnapshot, shareApply and peerFallback: a snapshot freezes the inputs at its mark and sets the
marks of this and the next cycle; at the apply mark the grants are written at once, or the late allocation is reported and the old grants
stay; a device that lacks its peers' inputs tells them so, allocates its own claimants within its part of the limits and reports that
once. The minimums given in grant order never exceed a constraint. -/
def Obligations.ShareCycle : Prop :=
  (∀ (s q u w : State) (v : Nat) (b : Bool), q = inOrder .snapshot s → q.clocksRun = true → q.shr.en = true → shareMark q 0 = some v →
    u = (q.toMains v).dropMark .share 0 → u.setMark .share (v + 0x4000) 1 = (w, b) →
    (shareRuns u = true → b = true → exec .shareSnapshot s = .next ((snapshot w).setMark .share (nextSnap (snapshot w) v) 0).1) ∧
    (shareRuns u = true → b = false → exec .shareSnapshot s = .next (w.setMark .share (nextSnap w v) 0).1) ∧
    (shareRuns u = false → exec .shareSnapshot s = .next (u.setMark .share (nextSnap u v) 0).1)) ∧
  (∀ (s q u : State) (v : Nat), q = inOrder .apply s → q.clocksRun = true → shareMark q 1 = some v → u = (q.toMains v).dropMark .share 1 →
    (shareRuns u = true → u.shr.snapPending = true → u.shr.allocDone = true →
      exec .shareApply s = .next (applyAll u ((v - 0x4000) / 65536) fun o => decide (0 < (u.shr1 o).waited))) ∧
    (shareRuns u = true → u.shr.snapPending = true → u.shr.allocDone = false →
      exec .shareApply s = .next (postDev { u with shr := { u.shr with late := true, snapPending := false } } 0x0306 (p32 (v / 65536 % 2 ^ 32)))) ∧
    (shareRuns u = false ∨ u.shr.snapPending = false → exec .shareApply s = .next u)) ∧
  (∀ (s : State), (inOrder .snapshot s).shr.en = false → exec .shareSnapshot s = .next (inOrder .snapshot s)) ∧
  (∀ (s u w r : State) (miss : List (Fin 4)), shareRuns s = true → s.shr.snapPending = true → s.shr.allocDone = false →
    u = s.toTick (s.shr.snapAt + 200 * usNs) → miss = (sharePeers u).filter (fun k => (vget u.shr.peerIn k).isNone) →
    w = (List.finRange 3).foldl (fun s k => if (vget s.tie.ports ⟨k.val, by omega⟩).up then
      s.send (.tie ⟨k.val, by omega⟩ (.shareAlone s.slotNo s.cycle)) else s) u →
    r = noteGrants { w with shr := { w.shr with peerMode := true, peerFallback := true } } (allocate w.shr.frozen
      (clusterLimits u (vget u.cfg.peerShare (fin 4 u.slotNo))) w.shr.ramp) →
    (miss = [] → exec .peerFallback s = .next (allocCluster u)) ∧
    (miss ≠ [] → u.shr.peerMode = true → exec .peerFallback s = .next r) ∧
    (miss ≠ [] → u.shr.peerMode = false →
      exec .peerFallback s = .next (postDev r 0x0305 (p8 (miss.map fun k => 2 ^ k.val).sum ++ p8 0)))) ∧
  (∀ (lim : List Rat) (l : List Claim) (j : Nat), j < 4 → 0 ≤ lim.getD j 0 → (∀ c ∈ l, c.x = 0) →
    ((giveMinimums lim l (List.replicate 4 0)).map fun c => c.k.getD j 0 * c.x).sum ≤ lim.getD j 0) ∧
  (∀ (lim : List Rat) (l : List Claim) (load : List Rat), ∀ c ∈ giveMinimums lim l load, (∀ d ∈ l, d.x = 0) → c.x = 0 ∨ c.x = c.lo)

/-- R316 to R321, R324 to R326, completing slacParamReq, soundingWindowClose, peerScoreTimeout, slacMatchReq, matchTimeout, validateReq
and toggleWindowEnd: a request opens a run where a candidate hears it, and a run no candidate hears is not opened; a window that closes is
decided with the others that close; a run whose peers' scores are missing is decided without them; a match request at a held outlet in
time is accepted, and any other is not answered; a run without a match fails with its cause; the second validation request opens the
toggle window, and its end answers each station of the set. A run with no open outlet fails with cause 3. -/
def Obligations.AssociationRuns : Prop :=
  (∀ (s : State) (src : BitVec 48) (id : BitVec 64) (heard : List (Fin 128)), s.run src id = none → s.plc.runs.length < 64 →
    ((heard.filter (slacUp s)).filter (isCandidate s) = [] → exec (.slacParamReq src id heard) s = .next s) ∧
    ((heard.filter (slacUp s)).filter (isCandidate s) ≠ [] → ∃ t, exec (.slacParamReq src id heard) s = .next t ∧
      t.plc.runs = s.plc.runs ++ [newRun s src id (((heard.filter (slacUp s)).filter (isCandidate s)).map s.handle)])) ∧
  (∀ (s : State) (src : BitVec 48) (id : BitVec 64) (heard : List (Fin 128)), s.run src id = none → 64 ≤ s.plc.runs.length →
    exec (.slacParamReq src id heard) s = .next s) ∧
  (∀ (s : State) (src : BitVec 48) (id : BitVec 64) (r : Run) (u : State), s.run src id = some r → s.glb.phase = .running →
    r.phase = .sounding → s.plc.crossDev = false → u = s.toTick (r.winAt + s.cfg.soundWin * msNs) →
    exec (.soundingWindowClose src id) s = .next (decideAll (u.onRuns fun l => l.map fun r =>
      if r.phase == .sounding && u.since r.winAt (s.cfg.soundWin * msNs) then { r with phase := .waiting, closedAt := u.now } else r))) ∧
  (∀ (s : State) (src : BitVec 48) (id : BitVec 64) (r : Run) (u : State), s.run src id = some r → s.glb.phase = .running →
    r.phase = .waiting → peersIn s r = false → u = (s.toTick (r.closedAt + 5 * msNs)).onRun src id (fun r => { r with peersMissing := true }) →
    exec (.peerScoreTimeout src id) s = .next (decideAll { u with plc := { u.plc with peerMissing := true } })) ∧
  (∀ (s : State) (r : Run), (∀ x ∈ runScores s r, r.allCands.contains x.1 = false ∨ heldByOther s r x.1 = true) →
    decideRun s r = some (failRun s r 3)) ∧
  (∀ (s : State) (o : Fin 128) (src : BitVec 48) (id : BitVec 64) (r : Run), s.run src id = some r → slacUp s o = true → s.key.rngOk = true →
    r.held.contains (s.handle o) = true → s.since r.sentAt (s.cfg.matchT * 10 * msNs + 1) = false →
    (r.phase = .answering → exec (.slacMatchReq o src id) s = .next (acceptMatch s o r)) ∧
    (r.phase = .validating → r.winner = some (s.handle o) → exec (.slacMatchReq o src id) s = .next (acceptMatch s o r)) ∧
    (r.phase = .validating → r.winner ≠ some (s.handle o) → exec (.slacMatchReq o src id) s = .next s)) ∧
  (∀ (s : State) (o : Fin 128) (src : BitVec 48) (id : BitVec 64) (r : Run), s.run src id = some r →
    r.held.contains (s.handle o) = false ∨ s.since r.sentAt (s.cfg.matchT * 10 * msNs + 1) = true →
    exec (.slacMatchReq o src id) s = .next s) ∧
  (∀ (s : State) (src : BitVec 48) (id : BitVec 64) (r : Run) (h : Nat) (o : Fin 128) (u : State), s.run src id = some r →
    s.glb.phase = .running → r.phase = .answering ∨ r.phase = .validating → h ∈ r.held → u = s.toTick (r.sentAt + s.cfg.matchT * 10 * msNs) →
    u.ofHandle h = some o →
    exec (.matchTimeout src id) s = .next (decideAll (failRun u r (if r.phase = .validating then 4 else 0)))) ∧
  (∀ (s : State) (src : BitVec 48) (id : BitVec 64) (n : Nat) (heard : List (Fin 128)) (r : Run), s.run src id = some r →
    r.phase = .validating → r.reqs = 1 → heard.filter (slacUp s) = [] → ∃ t, exec (.validateReq src id n heard) s = .next t ∧
      t.plc.runs = s.plc.runs.map fun x => if x.id = id ∧ x.src = src then
        { x with reqs := x.reqs + 1, togUntil := some (s.now + min n 3500 * msNs), toggles := [] } else x) ∧
  (∀ (s : State) (src : BitVec 48) (id : BitVec 64) (r : Run) (d : Nat), s.run src id = some r → r.togUntil = some d →
    s.glb.phase = .running → exec (.toggleWindowEnd src id) s = .next (endValidation (s.toTick d) r))

/-- R174, R313, R323, R327, R332, R333, completing plcFrameReceived, commonImpulse, leaveAssociation, readAssociation and tlsSign: a frame
goes to the coordinator, stays inside the station, is dropped and counted, or goes to the queue of the station, by the first rule that
applies, where a paused queue stages up to its buffer and counts the rest as lost; 8 marked stations make a common impulse; Leave
association ends one; TLS sign writes the signature where the slot's key allows it. -/
def Obligations.StationFrames : Prop :=
  (∀ (s : State) (o : Fin 128) (bytes : List (BitVec 8)) (u : State), slacUp s o = true → bytes.length ≤ 1514 →
    u = stationSend s o → (∀ m, exec (.plcFrameReceived o (some m) bytes) s = .next (slacMessage u o m)) ∧
    (ofBytesBE ((bytes.drop 12).take 2) = 0x88E1 → exec (.plcFrameReceived o none bytes) s = .next u) ∧
    (ofBytesBE ((bytes.drop 12).take 2) ≠ 0x88E1 → (u.sta o).assoc = false → exec (.plcFrameReceived o none bytes) s =
      .next { u.onSta o (fun x => { x with rxDropped := x.rxDropped + 1 }) with plc := { u.plc with frameDrop := true } }) ∧
    (ofBytesBE ((bytes.drop 12).take 2) ≠ 0x88E1 → (u.sta o).assoc = true → addressed u o bytes = false →
      exec (.plcFrameReceived o none bytes) s = .next u) ∧
    (ofBytesBE ((bytes.drop 12).take 2) ≠ 0x88E1 → (u.sta o).assoc = true → addressed u o bytes = true → ∀ q : PoolQ,
      ((u.poolQ (rxQ o)).offer 2048 (Packet.plain bytes u.tim.mains) = (q, true) → ∃ t, exec (.plcFrameReceived o none bytes) s = .next t ∧
        t.poolQ (rxQ o) = q ∧ (t.sta o).rxFrames = (u.sta o).rxFrames + 1) ∧
      ((u.poolQ (rxQ o)).offer 2048 (Packet.plain bytes u.tim.mains) = (q, false) → exec (.plcFrameReceived o none bytes) s =
        .next (framesLost (u.onQ (rxQ o) fun _ => q) o 1 1)))) ∧
  (∀ (q : PoolQ) (cap : Nat) (p : Packet),
    (q.paused = false → q.staging = [] → (q.offer cap p).2 = true ∧ (q.offer cap p).1.packets = q.packets ++ [p]) ∧
    (q.paused = true ∨ q.staging ≠ [] → q.staged + p.bytes.length ≤ cap → q.offer cap p = ({ q with staging := q.staging ++ [p] }, true)) ∧
    (q.paused = true ∨ q.staging ≠ [] → cap < q.staged + p.bytes.length → q.offer cap p = ({ q with drops := q.drops + 1 }, false))) ∧
  (∀ (s : State) (o : Fin 128) (m : Option SlacMsg) (bytes : List (BitVec 8)), slacUp s o = false ∨ 1514 < bytes.length →
    exec (.plcFrameReceived o m bytes) s = .next s) ∧
  (∀ (s : State) (l : List (Fin 128)), ∃ t, exec (.commonImpulse l) s = .next t ∧
    (8 ≤ l.dedup.length → t.plc = { s.plc with commonImpulse := true, impulseCount := s.plc.impulseCount + 1, impulseAt := some s.now }) ∧
    (l.dedup.length < 8 → t.plc = s.plc) ∧ t = { s with plc := t.plc, stas := t.stas }) ∧
  (∀ (s : State) (c : Cmd) (o : Fin 128), Ready s c 0x0400 → s.ofHandle c.handle.toNat = some o →
    ((s.sta o).assoc = true → exec (.leaveAssociation c) s = .next (complete (endAssoc s o 4 (some c)).revote c 0x00)) ∧
    ((s.sta o).assoc = false → exec (.leaveAssociation c) s = .next (complete s c 0x0A))) ∧
  (∀ (s : State) (c : Cmd) (o : Fin 128), Ready s c 0x0402 → s.ofHandle c.handle.toNat = some o →
    ∃ t, exec (.readAssociation c) s = .next t ∧ Completes s c 0x00
      (pack [(0, s.staCode o), (3, b2n (s.sta o).assoc), (16, (s.sta o).score.toNat)]) t) ∧
  (∀ (s : State) (c : Cmd), Ready s c 0x0401 →
    (c.p2 1 % 64 ≠ 0 → exec (.tlsSign c) s = .next (complete s c 0x02)) ∧
    (c.p2 1 % 64 = 0 → 64 ≤ fld (c.p 0) 0 8 ∨ keyUses (fld (c.p 0) 0 8) ≠ 16 → exec (.tlsSign c) s = .next (complete s c 0x0A)) ∧
    (∀ k u, c.p2 1 % 64 = 0 → fld (c.p 0) 0 8 < 64 → keyUses (fld (c.p 0) 0 8) = 16 → s.key.rngOk = true →
      useKey s (fin 64 (fld (c.p 0) 0 8)) = (some k, u) → InFlight u c → ∃ t sig, exec (.tlsSign c) s = .next t ∧ Done t c 0x00 0 ∧
        sig = ecdsaSign (num256 k) (num256 c.data) u.fresh ∧
        (requestsOn u = true → Out.host (BitVec.ofNat 64 (c.p2 1 + 32)) (beBytes 32 sig.1.toNat ++ beBytes 32 sig.2.toNat) ∈ t.out)) ∧
    (∀ u, c.p2 1 % 64 = 0 → fld (c.p 0) 0 8 < 64 → keyUses (fld (c.p 0) 0 8) = 16 → s.key.rngOk = true →
      useKey s (fin 64 (fld (c.p 0) 0 8)) = (none, u) → exec (.tlsSign c) s = .next (complete u c 0x0A)))

/-- R351, R355 to R361, R367, R377, completing temperatureSource, meteringCycleBoundary, toneCorrelation, incomerCheck, readVerification,
toneControl and restartVerification: a faulty temperature source is reported and kept out, and restored after 1 s; the boundary of an
outlet or the incomer delivers the quantities of its own samples while decimation runs, and none while it is stopped; a correlation result
judges its lane; an incomer check beyond 0.1 % is reported; the verification commands. A derived DEV within DRIFT_LIM passes, within
FAIL_LIM drifts, and beyond fails. -/
def Obligations.MeasurementChains : Prop :=
  (∀ (s : State) (o : Fin 128) (k : Nat), s.clocksRun = true → (s.lane o).statusSeen = true → tempBad (s.lane o).status = some k →
    ((s.met1 o).tempFault = false → ∃ u, exec (.temperatureSource o) s = .next (postOut u 0x0503 o (p8 k ++ p16 (s.lane o).status.temp.toNat)) ∧
      (u.met1 o).tempFault = true ∧ u.met.tempAny = true ∧ u = { s with met := u.met, metOut := u.metOut }) ∧
    ((s.met1 o).tempFault = true → exec (.temperatureSource o) s = .next s)) ∧
  (∀ (s : State) (o : Fin 128) (d : Nat), s.clocksRun = true → (s.lane o).statusSeen = true → tempBad (s.lane o).status = none →
    (s.met1 o).tempFault = true → (s.met1 o).tempOkSince = some d → exec (.temperatureSource o) s =
      .next (postOut ((s.toTick (d + secNs)).onMet o fun m => { m with tempFault := false, tempNext := some (s.lane o).status.temp }) 0x0503 o
        (p8 2 ++ p16 (s.lane o).status.temp.toNat))) ∧
  (∀ (s a u : State) (bits : List (BitVec 8)) (src : Option SrcCycle), s.clocksRun = true →
    a = s.toMains (max ((s.met.incAt + 1) * 65536) (s.tim.mains / 65536 * 65536)) →
    u = src.elim (incomerBits { a with met := { a.met with incAt := a.tim.mains / 65536 } } bits)
      (trackSource (incomerBits { a with met := { a.met with incAt := a.tim.mains / 65536 } } bits)) →
    (u.enr.stopped = false → u.tie.legalStopped = false → exec (.meteringCycleBoundary none bits src) s = .next (incomerBoundary u)) ∧
    (u.enr.stopped = true ∨ u.tie.legalStopped = true → exec (.meteringCycleBoundary none bits src) s = .next u)) ∧
  (∀ (s u v : State) (bits : List (BitVec 8)) (src : Option SrcCycle) (o : Fin 128) (p : LoadedProfile) (m : CycleQ), s.clocksRun = true →
    s.ctxProfile o = some p → u = weldStep (if p.prof.dc then
        (s.toTick (((s.met1 o).boundAt / (20 * msNs) + 1) * (20 * msNs))).onMet o fun x => { x with
          boundAt := (s.toTick (((s.met1 o).boundAt / (20 * msNs) + 1) * (20 * msNs))).now / (20 * msNs) * (20 * msNs) }
      else s) o p.prof → m = outletCycle u o p.prof → v = applyTemp (deliver (accrue (gapStep (cycleUsed u o) o m) o p.prof m) o p.prof m) o →
    (u.enr.stopped = true ∨ u.tie.legalStopped = true → exec (.meteringCycleBoundary (some o) bits src) s = .next u) ∧
    (u.enr.stopped = false → u.tie.legalStopped = false → (u.lane o).link.measured = true → (u.met1 o).silent = false →
      exec (.meteringCycleBoundary (some o) bits src) s = .next (overRangeStep (threePhase (if p.prof.dc then v
        else outletPhase v o ((laneOf p.prof 1).bind fun l => (vget m.cross l).map (·.toNat))) o p.prof m) o m)) ∧
    (u.enr.stopped = false → u.tie.legalStopped = false → (u.lane o).link.measured = false ∨ (u.met1 o).silent = true →
      exec (.meteringCycleBoundary (some o) bits src) s = .next (cycleUsed (u.onMet o fun x => { x with
        lanes := vall x.lanes fun v => { v with angle := none, angleHist := [] } }) o))) ∧
  (∀ (s : State) (x : Option (Fin 128)) (bits : List (BitVec 8)) (src : Option SrcCycle), s.clocksRun = false →
    exec (.meteringCycleBoundary x bits src) s = .next s) ∧
  (∀ (s u : State) (o : Fin 128) (l : Fin 8) (r : CalRec) (x : LegalSec) (t : ToneResult), s.clocksRun = true → s.tie.legalStopped = false →
    findCal s o l = some r → s.met.legal = some x → (assignedLanes s o).contains l = true →
    u = (s.toTick ((vget (s.met1 o).lanes l).toneAt + secNs)).onVLane o l (fun v => { v with
      toneAt := (s.toTick ((vget (s.met1 o).lanes l).toneAt + secNs)).now }) → t = correlate (vget (u.met1 o).chain.lanes l).tap r.toneRef →
    ((u.met1 o).silent = false → (vget (u.met1 o).lanes l).state ≠ .disabled → (vget (u.met1 o).lanes l).state ≠ .noRecord →
      (vget (u.met1 o).lanes l).state ≠ .pending ∨ u.since (vget (u.met1 o).lanes l).enteredAt (60 * secNs) = true →
      exec (.toneCorrelation o l) s = .next (toneResult u o l x r t.c0 t.lag t.se t.full)) ∧
    ((u.met1 o).silent = true ∨ (vget (u.met1 o).lanes l).state = .disabled ∨ (vget (u.met1 o).lanes l).state = .noRecord ∨
      ((vget (u.met1 o).lanes l).state = .pending ∧ u.since (vget (u.met1 o).lanes l).enteredAt (60 * secNs) = false) →
      exec (.toneCorrelation o l) s = .next u)) ∧
  (∀ (x : LegalSec) (d : Int), (d.natAbs ≤ x.driftLim → devClass x d = .pass) ∧
    (x.driftLim < d.natAbs → d.natAbs ≤ x.failLim → devClass x d = .drift) ∧ (x.driftLim < d.natAbs → x.failLim < d.natAbs → devClass x d = .fail)) ∧
  (∀ (s : State) (k : Fin 8) (ppm : Int), s.clocksRun = true → s.met.incPresent.getLsbD k.val = true →
    (1000 < ppm.natAbs → exec (.incomerCheck k ppm) s =
      .next (verifEvent { s with met := { s.met with incCheck := true } } none k.val 3 3 ppm 0)) ∧
    (ppm.natAbs ≤ 1000 → exec (.incomerCheck k ppm) s = .next s)) ∧
  (∀ (s : State) (c : Cmd) (o : Fin 128), Ready s c 0x0500 → s.ofHandle c.handle.toNat = some o → ∃ t, exec (.readVerification c) s = .next t ∧
    Completes s c 0x00 (pack [(0, (vget (s.met1 o).lanes (fin 8 (fld (c.p 0) 0 3))).state.code),
      (8, twos 24 (max (-0x800000) (min 0x7FFFFF (vget (s.met1 o).lanes (fin 8 (fld (c.p 0) 0 3))).dev)))]) t) ∧
  (∀ (s : State) (c : Cmd) (o : Fin 128), Ready s c 0x0501 → s.ofHandle c.handle.toNat = some o →
    exec (.toneControl c) s = .next (complete (allVerif (recordOnly (s.onMet o fun m => { m with toneOff := !bit (c.p 0) 0 }) false 0x0786 (some o)
      (p8 ((assignedLanes s o).map fun l => 2 ^ l.val).sum ++ p8 (b2n (bit (c.p 0) 0)))) o (if bit (c.p 0) 0 then .pending else .disabled)) c 0x00)) ∧
  (∀ (s : State) (c : Cmd) (o : Fin 128), Ready s c 0x0502 → s.ofHandle c.handle.toNat = some o →
    ((s.met1 o).toneOff = false → exec (.restartVerification c) s = .next (complete (allVerif s o .pending) c 0x00)) ∧
    ((s.met1 o).toneOff = true → exec (.restartVerification c) s = .next (complete s c 0x0A)))

/-- R75, R376, R382 to R384, R387 to R393, R427, completing commit, pulseSend, keepBurst, balanceEvaluation, declareAuxiliary and
readEnergyRegister: a commit is the energy cut at the boundary that follows the last one, and none is made while decimation stands still;
a pulse owed is sent after the running one; a burst of Keep takes one second and adds to the channels above the threshold; a balance
window is evaluated 60 s after its close; an auxiliary energy declared in time is kept for its window; a register is read at its last
commit. The shares of a commit for a pulse output lose nothing. -/
def Obligations.EnergyAccounting : Prop :=
  (∀ (s q u : State) (f : Fin 3), q = inOrder .commit s → q.clocksRun = true → q.enr.stopped = false → q.fwRuns 1 = true →
    u = energyCut (q.toMains ((q.keep.commitNo + 1) * 65536)) (q.keep.commitNo + 1) (q.keep.commitNo + 1) false f →
    exec (.commit f) s = .next (switchAtMark (if f = 0 then u.count 1 0x11 1 else u) (f == 0))) ∧
  (∀ (s q : State) (f : Fin 3), q = inOrder .commit s → q.clocksRun = false ∨ q.enr.stopped = true ∨ q.fwRuns 1 = false →
    exec (.commit f) s = .next q) ∧
  (∀ (s : State) (c : CommitSet) (n : Nat), (vget (writeSlot s n c 0).keep.slots (fin 8 n)) = some { c with good := true } ∧
    (writeSlot s n c 0).keep.commitNo = c.number ∧ (writeSlot s n c 0).enr.committed = some c) ∧
  (∀ (s : State) (k : Fin 8), s.glb.phase = .running → (vget s.enr.pulses k).en = true → 0 < (vget s.enr.pulses k).owed →
    ∃ t, exec (.pulseSend k) s = .next t ∧ Out.pulse k ∈ t.out ∧ (vget t.enr.pulses k).owed = (vget s.enr.pulses k).owed - 1 ∧
      (vget t.enr.pulses k).count = (vget s.enr.pulses k).count + 1 ∧ (vget s.enr.pulses k).busyUntil ≤ t.now ∧
      (vget t.enr.pulses k).lowUntil = t.now + (vget s.enr.pulses k).width * msNs ∧
      (vget t.enr.pulses k).busyUntil = t.now + 2 * (vget s.enr.pulses k).width * msNs ∧
      ∀ j, j ≠ k → vget t.enr.pulses j = vget s.enr.pulses j) ∧
  (∀ (s : State) (k : Fin 8) (d : Nat), (vget s.enr.pulses k).next = none → (vget s.enr.pulses k).lastSrc + d =
      pulseSource s (vget s.enr.pulses k).src (vget s.enr.pulses k).outlet →
    (vget s.enr.pulses k).owed + ((vget s.enr.pulses k).acc + d * (vget s.enr.pulses k).const) / (1000000 * 2 ^ 48) ≤ 1000000 →
    (vget (commitPulse s k).enr.pulses k).owed * (1000000 * 2 ^ 48) + (vget (commitPulse s k).enr.pulses k).acc =
      (vget s.enr.pulses k).owed * (1000000 * 2 ^ 48) + (vget s.enr.pulses k).acc + d * (vget s.enr.pulses k).const) ∧
  (∀ (s : State) (l : List Nat), s.glb.phase = .keep → s.enr.keepEn = true → ∃ t, exec (.keepBurst l) s = .next t ∧
    ∀ k : Fin 4, vget t.keep.chans k = if keepSkipped s k = true ∨ l.getD k.val 0 < s.cfg.keepThresh then vget s.keep.chans k else
      { charge := (vget s.keep.chans k).charge + l.getD k.val 0, bursts := (vget s.keep.chans k).bursts + 1
        maxRms := max (vget s.keep.chans k).maxRms (l.getD k.val 0)
        first := if (vget s.keep.chans k).bursts = 0 then t.keep.rtc else (vget s.keep.chans k).first, last := t.keep.rtc }) ∧
  (∀ (s u v : State) (w : BalWindow) (d tol : Int) (valid : Bool) (k : BitVec 2), s.clocksRun = true → s.enr.balWait = some w →
    u = s.toTick (w.closedAt + 60 * secNs) → d = w.einc - (w.eout + (w.peers.map (·.2.1)).sum) -
      ((s.cfg.auxW * w.span * 10 / (36 * secNs) : Nat) + (w.declared.getD 0 : Nat)) →
    valid = (w.valid && !((sharePeers u).any fun k => !w.peers.any fun p => p.1 == k.val) && w.peers.all fun p => p.2.2) →
    v = { u with enr := { u.enr with balWait := none, balLastEval := some w.number, balD := d, balLastValid := valid } } →
    tol = w.einc * s.cfg.tolPct / 1000 + s.cfg.tolWh * 1000 → k = (if tol < d then 1 else if d < -tol then 2 else 0) →
    (s.tie.role = .standby → exec .balanceEvaluation s = .next v) ∧
    (s.tie.role ≠ .standby → valid = false →
      exec .balanceEvaluation s = .next (postDev v 0x0513 (p64 (twos 64 d) ++ p8 3 ++ p32 (w.number % 2 ^ 32)))) ∧
    (s.tie.role ≠ .standby → valid = true → exec .balanceEvaluation s = .next (balanceAlarm (postDev v 0x0513
      (p64 (twos 64 d) ++ p8 k.toNat ++ p32 (w.number % 2 ^ 32))) k d))) ∧
  (∀ (s : State), s.enr.balWait = none → exec .balanceEvaluation s = .next s) ∧
  (∀ (s : State) (c : Cmd), Ready s c 0x0510 →
    (∀ m, s.enr.balLastEval = some m → (c.p 0).toNat ≤ m →
      exec (.declareAuxiliary c) s = .next (complete { s with enr := { s.enr with auxLate := true } } c 0x0A)) ∧
    (s.enr.balLastEval = none → s.enr.balWait = none → exec (.declareAuxiliary c) s = .next (complete { s with enr := { s.enr with
      balDecl := ((c.p 0).toNat, c.p2 1) :: s.enr.balDecl.filter fun d => d.1 != (c.p 0).toNat } } c 0x00))) ∧
  (∀ (s : State) (c : Cmd), Ready s c 0x0511 →
    (∀ o, c.device = false → s.ofHandle c.handle.toNat = some o → fld (c.p 0) 0 8 < 13 → ∃ t, exec (.readEnergyRegister c) s = .next t ∧
      Completes s c 0x00 (BitVec.ofNat 32 (reg48 (vget (s.committedOut o).regs (fin 13 (fld (c.p 0) 0 8))))) t) ∧
    (∀ o, c.device = false → s.ofHandle c.handle.toNat = some o → 13 ≤ fld (c.p 0) 0 8 →
      exec (.readEnergyRegister c) s = .next (complete s c 0x02)) ∧
    (c.device = true → 0x80 ≤ fld (c.p 0) 0 8 → fld (c.p 0) 0 8 < 0x8C → ∃ t, exec (.readEnergyRegister c) s = .next t ∧
      Completes s c 0x00 (BitVec.ofNat 32 (reg48 (vget s.committedSite.regs (fin 12 (fld (c.p 0) 0 8 - 0x80))))) t) ∧
    (c.device = true → fld (c.p 0) 0 8 < 0x80 ∨ 0x8C ≤ fld (c.p 0) 0 8 → exec (.readEnergyRegister c) s = .next (complete s c 0x02)))

/-- R50, R398 to R400, R405, R415 to R420, R424, R431, completing recordRelease, acknowledgeRecords, signReading, selectPlan, tamperInput,
readObject and writeObject: a record is released with its sequence number and signature once its commit is written; an acknowledgement
moves the last acknowledged number, and one of a record not released is a bad parameter; a signed reading is released at once or waits in
the overflow, and one before the first commit waits for it (the model's reading, log 146); Select plan refuses an undefined plan and an
open session; a tamper input counts its instance, in Keep at its next sample; objects are read and written within their classes. -/
def Obligations.SignedRecordsAndObjects : Prop :=
  (∀ (s : State) (r u : SignedRec) (d : BitVec 256) (v : State), s.clocksRun = true → s.tie.legalStopped = false → s.fwRuns 1 = true →
    s.tie.role ≠ .standby → s.bil.waiting = [r] → r.endCommit ≤ (s.enr.committed.map (·.number)).getD 0 → s.bil.unacked < 4096 →
    s.bil.overflow = [] → s.key.rngOk = true → meterKey s = (some d, v) → r.cmd = none →
    u = { r with recSeq := v.bil.recNext
                 r := (ecdsaSign d (sha256 (wordBytes (recordWords { r with recSeq := v.bil.recNext }))) v.fresh).1
                 s := (ecdsaSign d (sha256 (wordBytes (recordWords { r with recSeq := v.bil.recNext }))) v.fresh).2 } →
    v.bil.recs.length < 4096 → ∃ t, exec .recordRelease s = .next t ∧ t.bil.recs = v.bil.recs ++ [u] ∧ t.bil.recNext = v.bil.recNext + 1 ∧
      t.bil.waiting = []) ∧
  (∀ (s : State), s.clocksRun = false ∨ s.tie.legalStopped = true ∨ s.fwRuns 1 = false → exec .recordRelease s = .next s) ∧
  (∀ (s : State) (c : Cmd), Ready s c 0x0604 → s.bil.overflow = [] → s.bil.highPosted = false →
    (later (c.p 0) (s.bil.recNext - 1) = true → exec (.acknowledgeRecords c) s = .next (complete s c 0x02)) ∧
    (later (c.p 0) (s.bil.recNext - 1) = false → (c.p 0 - (s.bil.recNext - 1)).toNat ≠ 2 ^ 31 → later (c.p 0) s.bil.recAcked = false →
      exec (.acknowledgeRecords c) s = .next (complete s c 0x00)) ∧
    (later (c.p 0) (s.bil.recNext - 1) = false → (c.p 0 - (s.bil.recNext - 1)).toNat ≠ 2 ^ 31 → later (c.p 0) s.bil.recAcked = true →
      ∃ t, exec (.acknowledgeRecords c) s = .next t ∧ t.bil.recAcked = c.p 0 ∧ t.bil.recs = s.bil.recs ∧ Done t c 0x00 0)) ∧
  (∀ (s : State) (c : Cmd) (o : Fin 128), Ready s c 0x0603 → s.ofHandle c.handle.toNat = some o → s.tie.legalStopped = false →
    (∀ t, s.enr.committed ≠ none → s.bil.overflow = [] → s.bil.unacked < 4096 → releaseRecord s (readingRecord s o c) = some t →
      exec (.signReading c) s = .next t) ∧
    (s.enr.committed ≠ none → s.bil.overflow = [] → s.bil.unacked < 4096 → releaseRecord s (readingRecord s o c) = none → s.key.rngOk = true →
      exec (.signReading c) s = .next (complete s c 0x0A)) ∧
    (s.enr.committed ≠ none → s.bil.overflow.length < 768 → 4096 ≤ s.bil.unacked ∨ s.bil.overflow ≠ [] →
      exec (.signReading c) s = .next (overflowRecord (started s c) (readingRecord s o c))) ∧
    (s.enr.committed = none → s.bil.overflow.length < 768 → exec (.signReading c) s = .next s) ∧
    (768 ≤ s.bil.overflow.length → exec (.signReading c) s = .next (complete s c 0x0A))) ∧
  (∀ (s : State) (c : Cmd) (o : Fin 128), Ready s c 0x0602 → s.ofHandle c.handle.toNat = some o →
    ((s.bil.tariff.plan (fin 64 (fld (c.p 0) 0 6))).count ≠ 0 → (s.bil1 o).session = none → exec (.selectPlan c) s =
      .next (complete (s.onBil o fun b => { b with selected := fin 64 (fld (c.p 0) 0 6) }) c 0x00)) ∧
    ((s.bil.tariff.plan (fin 64 (fld (c.p 0) 0 6))).count ≠ 0 → (s.bil1 o).session ≠ none → exec (.selectPlan c) s = .next (complete s c 0x0A)) ∧
    ((s.bil.tariff.plan (fin 64 (fld (c.p 0) 0 6))).count = 0 → exec (.selectPlan c) s = .next (complete s c 0x02))) ∧
  (∀ (s : State) (k : Fin 4), (s.clocksRun = true → exec (.tamperInput k) s = .next (tamper s ⟨k.val, by omega⟩ 0x8000 none)) ∧
    (∀ u, s.clocksRun = false → u = s.keepSample → ∃ t, exec (.tamperInput k) s = .next t ∧ t = { u with keep := t.keep } ∧
      (vget t.keep.tampers k).1 = (vget u.keep.tampers k).1 + 1 ∧ (vget t.keep.tampers k).2.2 = u.keep.rtc ∧
      (vget t.keep.tampers k).2.1 = (if (vget u.keep.tampers k).1 = 0 then u.keep.rtc else (vget u.keep.tampers k).2.1) ∧
      ∀ j, j ≠ k → vget t.keep.tampers j = vget u.keep.tampers j)) ∧
  (∀ (s : State) (c : Cmd) (x : Obj), Ready s c 0x0600 → objBuffer c = true → objectOf s c = some x →
    ((if x.cls = 5 then [1, 2, 4] else [1, 2, 4, 5]).contains (s.roleOf c) = true →
      ((objBlock s x).length ≤ fld (c.p 5) 0 16 → ∃ t, exec (.readObject c) s = .next t ∧
        Done t c 0x00 (BitVec.ofNat 32 (objBlock s x).length) ∧
        (requestsOn s = true → Out.host (BitVec.ofNat 64 (c.p2 3)) (objBlock s x) ∈ t.out)) ∧
      (fld (c.p 5) 0 16 < (objBlock s x).length → exec (.readObject c) s = .next (complete s c 0x0A))) ∧
    ((if x.cls = 5 then [1, 2, 4] else [1, 2, 4, 5]).contains (s.roleOf c) = false → exec (.readObject c) s = .next (refuseRole s c))) ∧
  (∀ (s : State) (c : Cmd), Ready s c 0x0600 → objBuffer c = false ∨ objectOf s c = none → exec (.readObject c) s = .next (complete s c 0x02)) ∧
  (∀ (s : State) (c : Cmd) (x : Obj), Ready s c 0x0601 → c.p2 3 % 64 = 0 → 0 < fld (c.p 5) 0 16 → fld (c.p 5) 0 16 ≤ 64 → objectOf s c = some x →
    (x.cls = 5 → exec (.writeObject c) s = .next (complete
      { s with bil := { s.bil with operObjs := (vmod s.bil.operObjs (fin 256 (fld (c.p 2) 0 8)) fun b =>
        (c.data ++ List.replicate (fld (c.p 5) 0 16) 0).take (fld (c.p 5) 0 16) ++ b.drop (fld (c.p 5) 0 16)) } } c 0x00)) ∧
    (x.cls ≠ 5 → exec (.writeObject c) s = .next (refuseRole s c)))

/-- R14, with R88, R335, R481, R507, R535, R569, completing timCfgLock, plcCfgLock, autCfgLock, kitCfgLock, tieCfgLock and lswCfgLock: a
write that sets a block's lock is judged against the lock as it stood: the fields it carries take the written values where the lock stood
clear, and keep theirs where it stood set; the lock is set after it. -/
def Obligations.LockWrites : Prop :=
  (∀ (s : State) (v : BitVec 32), BarReaches s → ∃ t, exec (.timCfgLock v) s = .next t ∧ t.tim.lock = true ∧
    (s.tim.lock = false → t.tim.nominal60 = v.getLsbD 0 ∧ t.tim.source = v.getLsbD 1) ∧
    (s.tim.lock = true → t.tim.nominal60 = s.tim.nominal60 ∧ t.tim.source = s.tim.source) ∧ t = { s with tim := t.tim }) ∧
  (∀ (s : State) (v : BitVec 32), BarReaches s → fld v 16 7 ≤ 80 → ∃ t, exec (.plcCfgLock v) s = .next t ∧ t.plc.lock = true ∧
    t.plc.en = v.getLsbD 0 ∧ t.plc.mac = s.plc.mac ∧ (∀ w, writeMacLo t w = t ∧ writeMacHi t w = t) ∧
    t = { s with plc := t.plc, pwr := t.pwr }) ∧
  (∀ (s : State) (v : BitVec 32), BarReaches s → 2 ≤ fld v 8 8 → 10 ≤ fld v 16 12 → fld v 16 12 ≤ 3600 →
    ∃ t, exec (.autCfgLock v) s = .next t ∧ t.aut.lock = true ∧ t.aut.salt = s.aut.salt ∧ t.cfg.pollT = fld v 8 8 ∧
      (∀ k w, k < 4 → writeAut t (0x10 + 4 * k) w = t) ∧ t = { s with aut := t.aut, cfg := t.cfg, pwr := t.pwr }) ∧
  (∀ (s : State) (v : BitVec 32), BarReaches s → fld v 1 2 ≠ 3 → fld v 16 7 ≤ 60 →
    ∃ t, exec (.kitCfgLock v) s = .next t ∧ t.kit.lock = true ∧
      (s.kit.lock = false → t.kit.band = BitVec.ofNat 2 (fld v 1 2) ∧ t.kit.coupling = v.getLsbD 3 ∧ t.kit.nodeId.val = fld v 4 6) ∧
      (s.kit.lock = true → t.kit.band = s.kit.band ∧ t.kit.coupling = s.kit.coupling ∧ t.kit.nodeId = s.kit.nodeId) ∧
      t = { s with kit := t.kit, pwr := t.pwr }) ∧
  (∀ (s : State) (v : BitVec 32), BarReaches s → 1 ≤ fld v 0 3 → fld v 0 3 ≤ 4 → s.tie.lock = false → v.getLsbD 3 = s.tie.paired →
    exec (.tieCfgLock v) s = .next { s with tie := { s.tie with clusterN := fld v 0 3, lock := true } }) ∧
  (∀ (s : State) (v : BitVec 32), BarReaches s → 1 ≤ fld v 0 3 → fld v 0 3 ≤ 4 → s.tie.lock = true →
    exec (.tieCfgLock v) s = .next s) ∧
  (∀ (s : State) (v : BitVec 32), BarReaches s → 2 ≤ fld v 0 7 → fld v 0 7 ≤ 100 →
    exec (.lswCfgLock v) s = .next { s with
      cfg := { s.cfg with wdWin := if s.lsw.lock then s.cfg.wdWin else fld v 0 7 }
      lsw := { s.lsw with lock := true } })

/-- R90, R91, completing laneEnable, retrain and laneDisable: enabling a lane starts its training with TS1; RETRAIN and disabling take an
enabled lane down with its mailbox and attach, and training starts again only on an enabled lane. No other lane changes, and the other
fields of STR_LANE_CTL are written back as they stand. -/
def Obligations.LaneWrites : Prop :=
  (∀ (s : State) (l : Fin 128), BarReaches s → (s.lane l).en = false →
    exec (.laneEnable l) s = .next ((s.onLane l fun x => { x with en := true, trainStep := 1 }).send (.setWord l 0))) ∧
  (∀ (s : State) (l : Fin 128), BarReaches s → (s.lane l).en = true → ∃ t, exec (.retrain l) s = .next t ∧
      (t.lane l).en = true ∧ (t.lane l).link = .down ∧ (t.lane l).trainStep = 1 ∧ (t.lane l).mbOut = [] ∧ (t.lane l).attach = .none ∧
      ∀ k, k ≠ l → t.lane k = s.lane k) ∧
  (∀ (s : State) (l : Fin 128), BarReaches s → (s.lane l).en = true → ∃ t, exec (.laneDisable l) s = .next t ∧
      (t.lane l).en = false ∧ (t.lane l).link = .down ∧ (t.lane l).trainStep = 0 ∧ (t.lane l).mbOut = [] ∧ (t.lane l).attach = .none ∧
      ∀ k, k ≠ l → t.lane k = s.lane k)

/-- R88, R617, R175, R303, R310, R580, R447, completing timSnapRead, pmcCycRead, watermarkWrite, sitePowerLimitWrite, macBaseWrite,
alarmWrite and cursorBaseWrite: the register accesses with an effect of their own. A read of TIM_SNAP_TICK_LO latches the three counters
at one edge, and one of PMC_CYC_LO the counters of its group; a watermark write is refused where LOW_WM ≥ HIGH_WM or the sum would pass
40,960; the upper word of the site limit takes effect with the lower; an address base that disobeys R310 is ignored; an alarm write arms
the alarm, which fires only where its second is reached; the recorder's cursor base takes the word written. -/
def Obligations.RegisterWritesWithEffect : Prop :=
  (∀ s : State, BarReaches s → exec .timSnapRead s = .next { s with
    tim := { s.tim with snapTick := s.tim.tick, snapMains := s.tim.mains, snapLegal := s.tim.legal }
    out := .readData (BitVec.ofNat 32 s.tim.tick) :: s.out }) ∧
  (∀ (s : State) (g : Fin 8), BarReaches s → (vget s.pmc.groups g).en = false → ∃ t, exec (.pmcCycRead g) s = .next t ∧
    (vget t.pmc.groups g).latCyc = (vget s.pmc.groups g).cyc ∧ (vget t.pmc.groups g).latCnt = (vget s.pmc.groups g).cnt ∧
    t.out = .readData (BitVec.ofNat 32 (vget s.pmc.groups g).cyc.toNat) :: s.out ∧ (∀ k, k ≠ g → vget t.pmc.groups k = vget s.pmc.groups k) ∧
    t = { s with pmc := t.pmc, out := t.out }) ∧
  (∀ (s : State) (g : Fin 8), BarReaches s → (vget s.pmc.groups g).en = true → ∃ t, exec (.pmcCycRead g) s = .next t ∧
    (vget t.pmc.groups g).latCyc =
      (vget s.pmc.groups g).cyc + BitVec.ofNat 64 ((s.now - (vget s.pmc.groups g).cycAt) / 10 * pmcRate g) ∧
    (vget t.pmc.groups g).latCnt = (vget t.pmc.groups g).cnt ∧ (∀ k, k ≠ g → vget t.pmc.groups k = vget s.pmc.groups k)) ∧
  (∀ (s : State) (q : Fin 1024) (v : BitVec 32), BarReaches s → tunable q.val = true → fld v 16 16 ≥ fld v 0 16 →
    exec (.watermarkWrite q v) s = .next { s with mpl := { s.mpl with wmRefused := true } }) ∧
  (∀ (s : State) (q : Fin 1024) (v : BitVec 32), BarReaches s → tunable q.val = true → fld v 16 16 < fld v 0 16 →
    s.mpl.highSum + fld v 0 16 ≤ 40960 + (s.poolQ q).high →
    ∃ t, exec (.watermarkWrite q v) s = .next t ∧ (t.poolQ q).high = fld v 0 16 ∧ (t.poolQ q).low = fld v 16 16 ∧
      (∀ k, k ≠ q → t.poolQ k = s.poolQ k) ∧ t = { s with mpl := { s.mpl with q := t.mpl.q, links := t.mpl.links, freed := t.mpl.freed, unused := t.mpl.unused } }) ∧
  (∀ (s : State) (q : Fin 1024) (v : BitVec 32), BarReaches s → tunable q.val = false → exec (.watermarkWrite q v) s = .next s) ∧
  (∀ (s : State) (v : BitVec 32), BarReaches s → exec (.sitePowerLimitWrite v) s = .next { s with shr := { s.shr with
    site := { s.shr.site with power := s.shr.siteLo.toNat + 2 ^ 32 * v.toNat } } }) ∧
  (∀ (s : State) (v : BitVec 32), BarReaches s → s.plc.lock = false → macBaseOk (s.plc.macLo.toNat + 2 ^ 32 * fld v 0 16) = true →
    exec (.macBaseWrite v) s = .next { s with plc := { s.plc with mac := BitVec.ofNat 48 (s.plc.macLo.toNat + 2 ^ 32 * fld v 0 16) } }) ∧
  (∀ (s : State) (v : BitVec 32), BarReaches s → s.plc.lock = true ∨ macBaseOk (s.plc.macLo.toNat + 2 ^ 32 * fld v 0 16) = false →
    exec (.macBaseWrite v) s = .next s) ∧
  (∀ (s : State) (v : BitVec 32), BarReaches s → v.getLsbD 31 = false ∨ s.legalSec < s.pwr.alarmLo.toNat + fld v 0 8 * 2 ^ 32 →
    exec (.alarmWrite v) s = .next { s with pwr := { s.pwr with
      alarm := BitVec.ofNat 40 (s.pwr.alarmLo.toNat + fld v 0 8 * 2 ^ 32), armed := v.getLsbD 31 } }) ∧
  (∀ (s : State) (v : BitVec 32), BarReaches s → v.getLsbD 31 = true → s.pwr.alarmLo.toNat + fld v 0 8 * 2 ^ 32 ≤ s.legalSec →
    s.pwr.quiet = false → s.tie.role ≠ .standby → ∃ t, exec (.alarmWrite v) s = .next t ∧ t.pwr.armed = false ∧
      Posted s t 0x0D01 none (p8 5 ++ p8 0 ++ p8 0 ++ p8 0)) ∧
  (∀ (s : State) (v : BitVec 32), BarReaches s →
    exec (.cursorBaseWrite v) s = .next { s with recd := { s.recd with cursorBase := v } })

/-- R384, R386, R388, R611, R617, completing pulseSettingsWrite, demandLengthChange and bandwidthMonitorWrite: a pulse setting in range
takes effect at the next commit; ENR_CFG in range sets the next demand length and the balance window, whose change makes the open window
invalid; a monitor's change restarts it at the next boundary of its new window; a value outside its range changes nothing. -/
def Obligations.MeasurementWrites : Prop :=
  (∀ (s : State) (k : Fin 8) (v : BitVec 32), BarReaches s → (vget s.enr.pulses k).next = none → 1 ≤ fld v 0 17 → fld v 0 17 ≤ 100000 →
    exec (.pulseSettingsWrite k true v) s = .next (s.onPulse k fun p => { p with
      next := some (p.en, p.src, p.outlet, p.width, fld v 0 17) })) ∧
  (∀ (s : State) (k : Fin 8) (v : BitVec 32), BarReaches s → (vget s.enr.pulses k).next = none → 1 ≤ fld v 16 9 → fld v 16 9 ≤ 500 →
    exec (.pulseSettingsWrite k false v) s = .next (s.onPulse k fun p => { p with
      next := some (v.getLsbD 0, BitVec.ofNat 3 (fld v 1 3), fin 128 (fld v 4 7), fld v 16 9, p.const) })) ∧
  (∀ (s : State) (k : Fin 8) (v : BitVec 32), BarReaches s → fld v 0 17 = 0 ∨ 100000 < fld v 0 17 →
    exec (.pulseSettingsWrite k true v) s = .next s) ∧
  (∀ (s : State) (k : Fin 8) (v : BitVec 32), BarReaches s → fld v 16 9 = 0 ∨ 500 < fld v 16 9 →
    exec (.pulseSettingsWrite k false v) s = .next s) ∧
  (∀ (s : State) (v : BitVec 32), BarReaches s → fld v 0 3 ≤ 4 → 5 ≤ fld v 6 6 → fld v 6 6 ≤ 60 →
    exec (.demandLengthChange v) s = .next { s with enr := { s.enr with
      demandLenNext := if fld v 0 3 = s.enr.demandLen.toNat then none else some (BitVec.ofNat 3 (fld v 0 3))
      demandEvt := v.getLsbD 3, balEn := v.getLsbD 4, keepEn := v.getLsbD 5
      balInvalid := s.enr.balInvalid || fld v 6 6 != s.enr.balWin, balWin := fld v 6 6 } }) ∧
  (∀ (s : State) (v : BitVec 32), BarReaches s → 4 < fld v 0 3 ∨ fld v 6 6 < 5 ∨ 60 < fld v 6 6 →
    exec (.demandLengthChange v) s = .next s) ∧
  (∀ (s : State) (m : Fin 8) (v : BitVec 32), BarReaches s → fld v 0 8 ≤ 132 → 1 ≤ fld v 12 20 → fld v 12 20 ≤ 1000000 →
    (vget s.pmc.mons m).win ≠ fld v 12 20 →
    exec (.bandwidthMonitorWrite m v) s = .next (s.onMon m fun _ => {
      port := BitVec.ofNat 8 (fld v 0 8), dir := v.getLsbD 8, win := fld v 12 20
      startAt := (s.now + fld v 12 20 * usNs - 1) / (fld v 12 20 * usNs) * (fld v 12 20 * usNs) })) ∧
  (∀ (s : State) (m : Fin 8) (v : BitVec 32), BarReaches s → 132 < fld v 0 8 ∨ fld v 12 20 = 0 ∨ 1000000 < fld v 12 20 →
    exec (.bandwidthMonitorWrite m v) s = .next s)

/-- R75, R459 to R464, R477, completing storeSlot, readSlot, beginShadow, switchTable, tableSwitch, storeChangeReceived,
storeResynchronised and indexBuilt: a slot write is checked, refused where it would leave two slots with one HASH in a table or touch the
shadow table outside a shadow phase, and otherwise counted and forwarded; a later change from a peer is applied and an older one is not;
the tables switch at their boundary. A written slot reads as written and no other slot changes. The lookups that waited for the index are
answered. -/
def Obligations.StoreCommands : Prop :=
  (∀ (t : Store) (k j : Nat) (a : AuthSlot), (t.put k a).slot k = a ∧ (j ≠ k → (t.put k a).slot j = t.slot j)) ∧
  (∀ (s : State) (c : Cmd) (a : AuthSlot) (u : State), Ready s c 0x0800 → AuthSlot.ofWords ((List.range 8).map fun i => c.p (2 + i)) = some a →
    a.sound = true → a.status.toNat ≤ 2 → u = countStore { s with store := s.store.put (fld (c.p 0) 0 18) a } →
    (s.store.duplicate (fld (c.p 0) 0 18) a = false → (a.member.getLsbD s.store.shadow = false ∨ s.store.shadowOpen = true) →
      exec (.storeSlot c) s = .next (complete (forwardStore u u.store.seq.toNat (fld (c.p 0) 0 18) a.bytes) c 0x00 (BitVec.ofNat 32 (unreached u)))) ∧
    (s.store.duplicate (fld (c.p 0) 0 18) a = true ∨ (a.member.getLsbD s.store.shadow = true ∧ s.store.shadowOpen = false) →
      exec (.storeSlot c) s = .next (complete s c 0x0A))) ∧
  (∀ (s : State) (c : Cmd), Ready s c 0x0800 → (∀ a, AuthSlot.ofWords ((List.range 8).map fun i => c.p (2 + i)) = some a →
    a.sound = false ∨ 2 < a.status.toNat) → exec (.storeSlot c) s = .next (complete s c 0x02)) ∧
  (∀ (s : State) (c : Cmd), Ready s c 0x0801 →
    (c.p2 1 % 32 = 0 → ∃ t, exec (.readSlot c) s = .next t ∧ Done t c 0x00 0 ∧
      (requestsOn s = true → Out.host (BitVec.ofNat 64 (c.p2 1)) (s.store.slot (fld (c.p 0) 0 18)).bytes ∈ t.out)) ∧
    (c.p2 1 % 32 ≠ 0 → exec (.readSlot c) s = .next (complete s c 0x02))) ∧
  (∀ (s : State) (c : Cmd) (u : State), Ready s c 0x0802 → u = countStore { s with store := s.store.clearShadow } →
    (s.aut.switchAt = none → exec (.beginShadow c) s =
      .next (complete (forwardStore u u.store.seq.toNat 0x40000 []) c 0x00 (BitVec.ofNat 32 (unreached u)))) ∧
    (s.aut.switchAt ≠ none → exec (.beginShadow c) s = .next (complete s c 0x0A))) ∧
  (∀ (s : State) (c : Cmd), Ready s c 0x0803 →
    (∀ u, s.aut.switchAt = none → s.setMark .cluster (switchMark s) 0x15 = (u, true) → exec (.switchTable c) s =
      .next (forwardStore (started { u with aut := { s.aut with switchAt := some (switchMark s), switchCmd := some (c.ring, c.index) } } c)
        (u.store.seq.toNat + 1) 0x40001 (leBytes 8 (switchMark s)))) ∧
    (∀ u, s.aut.switchAt = none → s.setMark .cluster (switchMark s) 0x15 = (u, false) → exec (.switchTable c) s = .next (complete u c 0x05)) ∧
    (s.aut.switchAt ≠ none → exec (.switchTable c) s = .next (complete s c 0x0A))) ∧
  (∀ (s v : State) (m : Nat), v = inOrder .table s → v.aut.switchAt = some m → v.aut.switchCmd = none → v.glb.phase = .running →
    v.tie.role ≠ .standby → ∃ t u, exec .tableSwitch s = .next t ∧ EventsOnly u t ∧
      u.store = { v.store with active := !v.store.active, shadowOpen := false, seq := v.store.seq + 1 } ∧
      u.aut = { v.aut with switchAt := none, switchCmd := none } ∧
      Posted u t 0x0804 none (p8 (b2n (!v.store.active)) ++ p32 (v.store.seq + 1).toNat ++ p32 u.cycle)) ∧
  (∀ (s : State) (q n : Nat) (l : List (BitVec 8)), s.glb.phase = .running →
    (laterN 32 q s.store.seq.toNat = false → exec (.storeChangeReceived q n l) s = .next (fireLate .cluster s)) ∧
    (∀ a, laterN 32 q s.store.seq.toNat = true → n < 0x40000 → AuthSlot.ofWords (bytesWords l) = some a →
      exec (.storeChangeReceived q n l) s = .next (fireLate .cluster (countStore { s with store := s.store.put n a }))) ∧
    (laterN 32 q s.store.seq.toNat = true → n = 0x40000 →
      exec (.storeChangeReceived q n l) s = .next (fireLate .cluster (countStore { s with store := s.store.clearShadow }))) ∧
    (laterN 32 q s.store.seq.toNat = true → n = 0x40001 → s.aut.switchAt = none → exec (.storeChangeReceived q n l) s =
      .next (fireLate .cluster { (s.setMark .cluster (ofBytes l) 0x15).1 with aut := { s.aut with switchAt := some (ofBytes l) } }))) ∧
  (∀ (s : State) (w : MarkOwner), (∀ m ∈ s.tim.marks, m.owner ≠ w ∨ m.late = false) → fireLate w s = s) ∧
  (∀ (s : State) (p : Fin 4) (q : BitVec 32) (l : List (Nat × List (BitVec 8))), s.glb.phase = .running → later q s.store.seq = true →
    ∃ u n, exec (.storeResynchronised p q l) s = .next (postDev u 0x0805 (p32 n ++ p8 p.val)) ∧ u.store.seq = q ∧ u.aut.resync = true ∧
      u = { s with store := u.store, aut := u.aut }) ∧
  (∀ (s : State), s.clocksRun = true → s.aut.ready = false → exec .indexBuilt s =
    .next (s.aut.lookups.foldl (fun s x => decideCard s x.1 x.2.1.toNat x.2.2) { s with aut := { s.aut with ready := true, lookups := [] } }))

/-- R454, R455, R467 to R470, R551, completing engineGrant, tagReply, cardResponse, fieldCollapse and transactionTimeout: an engine is
granted to the earliest request and begins with the tag where TAG_EN = 1 and the tag key may be used; a reply whose CRC_B passes is worked
by the step that awaits it, a first bad one repeats the command, and a second ends the step; a card's answer is worked by the polling
step; an answer missing for 2 ms, and 200 ms in all, end the transaction or its step. -/
def Obligations.ReaderTransactions : Prop :=
  (∀ (s : State) (e : Fin 16) (o : Fin 128) (n : Nat), enginesRun s = true → vget s.aut.engines e = none → nextRequest s = some (o, n) →
    ∃ u x, vget u.aut.engines e = some x ∧ x.outlet = o ∧ x.cmds = (s.aut1 o).readCmds ∧ (u.aut1 o).reqAt = none ∧ s.now + 5 * msNs ≤ u.now ∧
      ((s.aut1 o).tagEn = true → (s.keySlot 2).state = .valid → s.key.dbgKeys = false →
        exec (.engineGrant e) s = .next (tagSend u e o .wakeAll 0x09 [])) ∧
      ((s.aut1 o).tagEn = false ∨ (s.keySlot 2).state ≠ .valid ∨ s.key.dbgKeys = true →
        exec (.engineGrant e) s = .next (afterTag u e))) ∧
  (∀ (s : State) (e : Fin 16), enginesRun s = false ∨ vget s.aut.engines e ≠ none ∨ nextRequest s = none → exec (.engineGrant e) s = .next s) ∧
  (∀ (s : State) (e : Fin 16) (x : Transaction) (l : List (BitVec 8)), vget s.aut.engines e = some x → enginesRun s = true → x.step.tagWait = true →
    (∀ p, l = 0xA7 :: p ++ crcB (0xA7 :: p) → 1 ≤ p.length →
      exec (.tagReply e l) s = .next (tagReply (s.onTx e fun t => { t with crcBad := 0 }) e x (p.drop 1))) ∧
    (crcB (l.take (l.length - 2)) ≠ l.drop (l.length - 2) →
      (x.crcBad = 0 → exec (.tagReply e l) s =
        .next ((s.send (.reader x.outlet x.sent)).onTx e fun t => { t with crcBad := 1, sentAt := s.now })) ∧
      (x.crcBad ≠ 0 → x.step ≠ .wakeAll → x.step ≠ .second → exec (.tagReply e l) s = .next (collapseTx s e x)))) ∧
  (∀ (s : State) (e : Fin 16) (x : Transaction), vget s.aut.engines e = some x → enginesRun s = true → x.step = .poll →
    (∀ u, exec (.cardResponse e (.typeA u)) s = .next (cardPolled s e x 1 u (u.length == 4 || u.length == 7 || u.length == 10))) ∧
    (∀ u, exec (.cardResponse e (.typeB u)) s = .next (cardPolled s e x 2 u (u.length == 4))) ∧
    exec (.cardResponse e .collision) s = .next (cardOutcome s e x.outlet 5) ∧
    exec (.cardResponse e .failed) s = .next (cardOutcome s e x.outlet 7)) ∧
  (∀ (s : State) (e : Fin 16) (x : Transaction) (id mac : List Byte) (m : List Byte) (v : State), vget s.aut.engines e = some x →
    enginesRun s = true → x.step = .exchange → useKey s 1 = (some m, v) → id.length = 16 →
    exec (.cardResponse e (.keyed id mac)) s =
      .next (if mac = tagMac (aesEncrypt (block128 m) (block128 id)) (p8 0x40 ++ leBytes 16 x.cardNr.toNat ++ id) then cardIs v e x.outlet 3 id
        else cardOutcome v e x.outlet 4)) ∧
  (∀ (s : State) (e : Fin 16) (x : Transaction), vget s.aut.engines e = some x → enginesRun s = true →
    exec (.fieldCollapse e) s = .next (noAnswer (s.toTick (x.sentAt + 2 * msNs)) e x)) ∧
  (∀ (s : State) (e : Fin 16) (x : Transaction), vget s.aut.engines e = some x → s.glb.phase = .running →
    (writeStep x.step = none → exec (.transactionTimeout e) s = .next (finishTx (s.toTick (x.startAt + 200 * msNs)) e)) ∧
    (writeStep x.step ≠ none → exec (.transactionTimeout e) s = .next (collapseTx (s.toTick (x.startAt + 200 * msNs)) e x)))

/-- R453, R454, R461, R473, R477, completing ping, tagPoll, requestWaitLong, tagAgeExpiry, bindCable and readTag: a ping of a watched
outlet and a due tag poll request an engine; a request that waits 1 s is reported; a cable whose authentication is too old is invalid;
Bind cable needs an authenticated tag; Read tag waits for its transaction. A found slot is accepted only with a sound CHECK, not blocked
and within its expiry. -/
def Obligations.ReaderRequests : Prop :=
  (∀ (s : State) (o : Fin 128), s.glb.phase = .running → pingEn s o = true → exec (.ping o) s = .next (wake (requestEngine s o) 4 o.val).revote) ∧
  (∀ (s : State) (o : Fin 128), pingEn s o = false → exec (.ping o) s = .next s) ∧
  (∀ (s : State) (o : Fin 128), s.glb.phase = .running → s.aut.en = true → s.pwr.quiet = false → (s.aut1 o).tagEn = true →
    (s.ctx o).pilot = 0 → (s.aut1 o).reqAt = none →
    exec (.tagPoll o) s = .next (requestEngine (s.toTick ((s.aut1 o).lastTxAt + s.cfg.pollT * secNs)) o).revote) ∧
  (∀ (s : State) (o : Fin 128) (d : Nat), s.glb.phase = .running → (s.aut1 o).reqAt = some d → (s.aut1 o).waitLong = false →
    ∃ t, exec (.requestWaitLong o) s = .next t ∧ (t.aut1 o).waitLong = true ∧ t.aut.waitLongF = true ∧ d + secNs ≤ t.now ∧
      ∀ j, j ≠ o → t.aut1 j = s.aut1 j) ∧
  (∀ (s : State) (o : Fin 128), s.glb.phase = .running → (s.aut1 o).cableValid = true → (s.ctx o).pilot = 0 →
    exec (.tagAgeExpiry o) s = .next (setCable (s.toTick ((s.aut1 o).lastAuthAt + s.cfg.tagAge * secNs)) o false)) ∧
  (∀ (s : State) (c : Cmd) (o : Fin 128), Ready s c 0x0804 → s.ofHandle c.handle.toNat = some o →
    ((bit (c.p 0) 0 = false ∨ (s.tagJ1 o).authedOnce = true) → exec (.bindCable c) s = .next (complete (mirrorTag (setCable (s.onTagJ o fun j => { j with
      bound := if bit (c.p 0) 0 then some (s.tagJ1 o).tagId else none }) o false (some c)) o) c 0x00)) ∧
    (bit (c.p 0) 0 = true → (s.tagJ1 o).authedOnce = false → exec (.bindCable c) s = .next (complete s c 0x0A))) ∧
  (∀ (s : State) (c : Cmd) (o : Fin 128), Ready s c 0x0805 → s.ofHandle c.handle.toNat = some o →
    ((s.aut1 o).tagEn = true → ∃ t, exec (.readTag c) s = .next t ∧ InFlight t c ∧ (t.aut1 o).readCmds = (s.aut1 o).readCmds ++ [(c.ring, c.index)] ∧
      (t.aut1 o).reqAt = some ((s.aut1 o).reqAt.getD s.now)) ∧
    ((s.aut1 o).tagEn = false → exec (.readTag c) s = .next (complete s c 0x08))) ∧
  (∀ (s : State) (a : AuthSlot), slotOutcome s a = 0 ↔ a.sound = true ∧ a.status ≠ 2 ∧ (a.expiry = 0 ∨
    (s.tim.legalState ≠ .unsync ∧ localDay s ≤ a.expiry.toNat)))

/-- R34 to R36, R38 to R40, R45, R575, completing stageInsertion, seated, powerOnResetRelease, vinReturnLeavingKeep, perstRelease,
reseatWaitEnd and seatLoss: insertion goes on stage by stage, the second with the supplies and the fourth with the seating contacts; 20 ms
after the last contact the dies are powered and power-on reset is held, where VIN is in range; the release, which CAB_RST# low holds,
latches the straps and starts the module; the host's release of PERST# trains the link; a module that has been out of its slot for 10 ms
goes on from step 5; a seat loss before the release abandons the insertion. -/
def Obligations.InsertionSteps : Prop :=
  (∀ (s : State) (k : Fin 5) (contacts : BitVec 4) (vin : Nat), k.val ≤ s.glb.stage → k ≠ 4 →
    exec (.stageInsertion k contacts vin) s = .next s) ∧
  (∀ (s : State) (k : Fin 5) (contacts : BitVec 4) (vin : Nat), ∃ t, exec (.stageInsertion k contacts vin) s = .next t ∧
    t = { s with glb := t.glb, tim := t.tim, keep := t.keep } ∧ t.glb.stage = max s.glb.stage k.val ∧
    t.glb.phase = (if s.glb.phase = .unpowered ∧ s.glb.stage < 2 ∧ s.glb.stage < k.val then .inserting else s.glb.phase) ∧
    (s.glb.stage < 2 → 2 ≤ k.val → t.glb.vin = vin ∧ t.glb.aonOnBattery = true ∧ (vin < 17500 → t.glb.vinOk = false) ∧
      (18000 ≤ vin → t.glb.vinOk = true)) ∧
    (2 ≤ s.glb.stage ∨ k.val < 2 → t.glb.vin = s.glb.vin ∧ t.glb.vinOk = s.glb.vinOk ∧ t.glb.aonOnBattery = s.glb.aonOnBattery) ∧
    t.glb.seat = (if k.val = 4 then s.glb.seat ||| contacts else s.glb.seat) ∧
    (k.val = 4 → s.glb.seat ≠ 0xF → s.glb.seat ||| contacts = 0xF → t.glb.seatLowSince = t.now)) ∧
  (∀ (s : State), s.glb.phase = .inserting → s.glb.stage = 4 → s.glb.seat = 0xF → s.glb.vinOk = true →
    ∃ t, exec .seated s = .next t ∧ t.glb.phase = .powerOnReset ∧ t.glb.perst = true ∧ t.glb.insertion = true ∧
      t.glb.aonOnBattery = decide (s.glb.vin < 15000) ∧
      s.glb.seatLowSince + 20000000 ≤ t.now ∧ t = { s with glb := t.glb, tim := t.tim, keep := t.keep }) ∧
  (∀ (s : State), s.glb.phase = .inserting → s.glb.stage = 4 → s.glb.seat = 0xF → s.glb.vinOk = false →
    ∃ t, exec .seated s = .next t ∧ s.glb.seatLowSince + 20000000 ≤ t.now ∧ t = { s with tim := t.tim, keep := t.keep }) ∧
  (∀ (s : State) (slot : BitVec 2) (side dbg : Bool) (f : Fin 5), s.glb.vinOk = true → s.glb.cabRst = false →
    s.glb.phase = .powerOnReset ∨ s.glb.porDue = true →
    ∃ t, exec (.powerOnResetRelease slot side dbg f) s = .next t ∧ t.glb.phase = .running ∧ t.glb.slot = slot ∧ t.glb.side = side ∧
      t.glb.dbg = dbg ∧ t.glb.porDue = false) ∧
  (∀ (s : State) (slot : BitVec 2) (side dbg : Bool) (f : Fin 5), s.glb.vinOk = false ∨ s.glb.cabRst = true →
    exec (.powerOnResetRelease slot side dbg f) s = .next s) ∧
  (∀ (s : State) (vin : Nat) (slot : BitVec 2) (side dbg : Bool) (f : Fin 5), s.glb.phase = .keep → s.glb.seat = 0xF → s.glb.stage = 4 →
    18000 ≤ vin → s.glb.cabRst = false → ∃ t, exec (.vinReturnLeavingKeep vin slot side dbg f) s = .next t ∧ t.glb.phase = .running ∧
      t.glb.slot = slot ∧ t.glb.side = side ∧ t.glb.dbg = dbg) ∧
  (∀ (s : State) (vin : Nat) (slot : BitVec 2) (side dbg : Bool) (f : Fin 5), s.glb.phase = .keep → s.glb.seat ≠ 0xF → 18000 ≤ vin →
    ∃ t, exec (.vinReturnLeavingKeep vin slot side dbg f) s = .next t ∧ t.glb.phase = .inserting ∧ t.glb.vin = vin ∧ t.glb.vinOk = true ∧
      t = { s with glb := t.glb }) ∧
  (∀ s : State, exec .perstRelease s = .next { s with
    glb := { s.glb with perst := false, insertion := false }
    rng := { s.rng with linkUp := s.glb.phase == .running && !s.tim.refHoldover, d3hot := false } }) ∧
  (∀ (s : State) (t0 : Nat), s.glb.phase = .unpowered → s.glb.seatHighSince = some t0 → ∃ t, exec .reseatWaitEnd s = .next t ∧
    t.glb.phase = .inserting ∧ t.glb.stage = min 3 s.glb.stage ∧ t.glb.seatHighSince = none ∧ t0 + 10000000 ≤ t.now ∧
    t = { s with glb := t.glb, tim := t.tim, keep := t.keep }) ∧
  (∀ (s : State), s.glb.seatHighSince = none → exec .reseatWaitEnd s = .next s) ∧
  (∀ (s : State) (k : BitVec 4) (bits : List (BitVec 8)), k ≠ 0 → s.glb.phase = .powerOnReset → s.glb.insertion = true →
    ∃ t, exec (.seatLoss k bits) s = .next t ∧ t.glb.phase = .inserting ∧ t.glb.insertion = false ∧ t.glb.seat = s.glb.seat &&& ~~~k ∧
      t.glb.slot = s.glb.slot ∧ t.glb.side = s.glb.side ∧
      t = { s with glb := t.glb, tim := t.tim, keep := { s.keep with rtc := t.keep.rtc, rtcRem := t.keep.rtcRem } })

/-- R37, R39, R40, R45, R377, R577, completing seatLoss, powerFailWarning, cabRst, keepEntry, vinReturn and stageBreak: a seat loss of a
running module starts the removal: the strings stop, and the power-fail warning is raised; of one still held at its insertion it abandons
that. The warning, below 16.0 V, stops the metering and the display; CAB_RST# enters power-on reset after it, loss of VIN enters Keep or
completes a removal, the break of the second stage leaves the module without power, and VIN's return within the hold-up ends the warning.
-/
def Obligations.LossOfPower : Prop :=
  (∀ (s : State) (k : BitVec 4) (bits : List (BitVec 8)), k ≠ 0 → s.glb.phase = .running ∨ s.glb.phase = .serviceReset →
    s.glb.porDue = false → s.glb.insertion = false → ∃ t, exec (.seatLoss k bits) s = .next t ∧ t.glb.phase = .removal ∧
      t.glb.powerFail = true ∧ t.glb.seat = s.glb.seat &&& ~~~k ∧ ∀ l, (t.lane l).stopped = true) ∧
  (∀ (s : State) (vin : Nat) (bits : List (BitVec 8)), s.clocksRun = true → s.glb.powerFail = false → vin < 16000 →
    ∃ t, exec (.powerFailWarning vin bits) s = .next t ∧ t.glb.powerFail = true ∧ t.glb.vinOk = false ∧ t.enr.stopped = true ∧
      t.epd.stopped = true ∧ t.glb.phase = s.glb.phase) ∧
  (∀ (s : State) (vin : Nat) (bits : List (BitVec 8)), s.clocksRun = false ∨ 16000 ≤ vin → ∃ t,
    exec (.powerFailWarning vin bits) s = .next t ∧ t = { s with glb := t.glb } ∧ t.glb.vin = vin ∧ (vin < 17500 → t.glb.vinOk = false) ∧
      (17500 ≤ vin → vin < 18000 → t.glb.vinOk = s.glb.vinOk) ∧ (18000 ≤ vin → t.glb.vinOk = true) ∧ t.glb.powerFail = s.glb.powerFail) ∧
  (∀ (s : State) (bits : List (BitVec 8)), s.glb.phase = .running ∨ s.glb.phase = .serviceReset →
    ∃ t, exec (.cabRst true bits) s = .next t ∧ t.glb.phase = .powerOnReset ∧ t.glb.powerFail = true ∧ t.glb.cabRst = true) ∧
  (∀ (s : State) (low : Bool) (bits : List (BitVec 8)), low = false ∨ s.glb.phase ≠ .running → low = false ∨ s.glb.phase ≠ .serviceReset →
    exec (.cabRst low bits) s = .next { s with glb := { s.glb with cabRst := low } }) ∧
  (∀ (s : State), s.glb.phase = .running ∨ s.glb.phase = .serviceReset → ∃ t, exec .keepEntry s = .next t ∧ t.glb.phase = .keep ∧
    t.glb.vinOk = false ∧ t.glb.vin = 0 ∧ t.glb.powerFail = true ∧ t.glb.aonOnBattery = true ∧ t.glb.keepAt = t.now) ∧
  (∀ (s : State), s.glb.phase = .removal → ∃ t, exec .keepEntry s = .next t ∧ t.glb.phase = .unpowered ∧ t.glb.vinOk = false ∧
    t.glb.aonOnBattery = true) ∧
  (∀ (s : State) (vin : Nat), s.glb.phase = .running ∨ s.glb.phase = .serviceReset → s.glb.powerFail = true → 18000 ≤ vin →
    s.keep.openOutage.isSome → ∃ t, exec (.vinReturn vin) s = .next t ∧ t.glb.powerFail = false ∧ t.glb.vin = vin ∧
    t.glb.vinOk = true ∧ t.enr.stopped = false ∧ t.epd.stopped = false ∧ t.keep.openOutage = none ∧ t.enr.pending = 0) ∧
  (∀ (s : State) (vin : Nat), s.glb.phase = .running ∨ s.glb.phase = .serviceReset → s.glb.powerFail = false ∨ vin < 17500 → ∃ t,
    exec (.vinReturn vin) s = .next t ∧ t.glb.vin = vin ∧ t = { s with glb := t.glb }) ∧
  (∀ (s : State) (k : Fin 5), k.val = 0 ∨ s.glb.stage < k.val → exec (.stageBreak k) s = .next s) ∧
  (∀ (s : State) (k : Fin 5), 1 ≤ k.val → k.val ≤ 2 → k.val ≤ s.glb.stage →
    ∃ t, exec (.stageBreak k) s = .next t ∧ t.glb.phase = .unpowered ∧ t.glb.stage = k.val - 1 ∧ t.glb.seat = 0 ∧
      t.glb.clockLoss = true ∧ t.pwr.armed = false) ∧
  (∀ (s : State) (k : Fin 5), s.glb.phase = .running ∨ s.glb.phase = .serviceReset → s.glb.porDue = false → s.glb.insertion = false →
    3 ≤ k.val → k.val ≤ s.glb.stage →
    ∃ t, exec (.stageBreak k) s = .next t ∧ t.glb.phase = .removal ∧ t.glb.powerFail = true ∧ t.glb.stage = k.val - 1 ∧ t.glb.seat = 0) ∧
  (∀ (s : State) (k : Fin 5), s.glb.phase = .running ∨ s.glb.phase = .serviceReset ∨ s.glb.phase = .powerOnReset → s.glb.insertion = true →
    3 ≤ k.val → k.val ≤ s.glb.stage → ∃ t, exec (.stageBreak k) s = .next t ∧ t.glb.phase = .inserting ∧ t.glb.insertion = false ∧
      t.glb.stage = k.val - 1 ∧ t = { s with glb := t.glb, keep := { s.keep with rtc := t.keep.rtc, rtcRem := t.keep.rtcRem } })

/-- R31, R42, R47, R58, completing seatGlitch, strapCheck, vbatLow and junctionTemperature: what the module's sensors do: a short loss of
a contact is counted and recorded, a strap that differs from the latched level sets MISMATCH and is counted in class 11, a low cell sets
its flag and, while it supplies the always-on domain, the clock-loss mark, and a hot junction reports from 110 °C, stops reporting below
105 °C, and at 125 °C drives MOD_FAULT# low. The form of the 110 °C report is the model's choice (log 130). -/
def Obligations.ModuleSensors : Prop :=
  (∀ (s : State) (k : Fin 4), s.clocksRun = true → ∃ t, exec (.seatGlitch k) s = .next t ∧ t.glb.seatGlitch = true ∧
    t.glb.seatGlitchCount = s.glb.seatGlitchCount + 1 ∧ t = { s with glb := t.glb, recd := t.recd }) ∧
  (∀ (s : State) (slot : BitVec 2) (side dbg : Bool), s.clocksRun = true → slot = s.glb.slot → side = s.glb.side → dbg = s.glb.dbg →
    ∃ t, exec (.strapCheck slot side dbg) s = .next t ∧ s.glb.strapAt + 1000000000 ≤ t.now ∧
      t.glb = { s.glb with slotLive := slot, sideLive := side, dbgLive := dbg, strapAt := t.now } ∧
      t = { s with glb := t.glb, tim := t.tim, keep := t.keep }) ∧
  (∀ (s : State) (slot : BitVec 2) (side dbg : Bool), s.clocksRun = true → slot ≠ s.glb.slot ∨ side ≠ s.glb.side ∨ dbg ≠ s.glb.dbg →
    ∃ t, exec (.strapCheck slot side dbg) s = .next t ∧ s.glb.strapAt + 1000000000 ≤ t.now ∧ t.glb.mismatch = true ∧ t.glb.slotLive = slot ∧
      t.glb.sideLive = side ∧ t.glb.dbgLive = dbg ∧ t.glb.slot = s.glb.slot ∧ t.glb.side = s.glb.side ∧ t.glb.dbg = s.glb.dbg) ∧
  (∀ (s : State) (low : Bool), low = false ∨ s.glb.aonOnBattery = false → exec (.vbatLow low) s = .next { s with glb := { s.glb with
    lowBattery := true } }) ∧
  (∀ (s : State), s.glb.aonOnBattery = true → ∃ t, exec (.vbatLow true) s = .next t ∧ t.glb = { s.glb with
    lowBattery := true, clockLoss := true } ∧ t = { s with glb := t.glb, keep := { s.keep with
      rtc := t.keep.rtc, rtcRem := 0, chans := t.keep.chans }, fresh := t.fresh }) ∧
  (∀ (s : State) (temp : Int), s.clocksRun = true → 11000 ≤ temp → temp < 12500 → s.glb.junctionHot = false → s.tie.role ≠ .standby →
    ∃ t, exec (.junctionTemperature temp) s = .next t ∧ t.glb.junctionHot = true ∧
      Posted s t 0x1000 none (p8 (b2n s.glb.side) ++ p8 s.slotNo ++ p8 12 ++ p32 0 ++ p8 0 ++ p8 1)) ∧
  (∀ (s : State) (temp : Int), s.clocksRun = true → temp < 10500 →
    exec (.junctionTemperature temp) s = .next { s with glb := { s.glb with junctionHot := false } }) ∧
  (∀ (s : State) (temp : Int), 10500 ≤ temp → temp < 11000 ∨ s.glb.junctionHot = true → temp < 12500 →
    exec (.junctionTemperature temp) s = .next s) ∧
  (∀ (s : State) (temp : Int), s.clocksRun = true → 12500 ≤ temp → ∃ t, exec (.junctionTemperature temp) s = .next t ∧
    t.glb.modFault = true ∧ t.glb.junctionHot = true ∧ t.lastingAt 12 0 = true)

/-- R486 to R488, R493, R494, R502, R505, completing contentionSlot, helloTimer, timeBroadcast, ackTimeout, probeNode and clearPenalty: in
the slot that was picked, outside the guards of the mains angle, the node's next frame starts, sealed under the selected key with the next
FCNT; a unicast frame waits for its ACK, a missed one is retried and after 7 retries the frame is abandoned, and so is one to a node
without a route; HELLO and TIME frames are queued when they are due; a probe is sent or refused, and Clear penalty empties the link's
tally. -/
def Obligations.KiteSending : Prop :=
  (∀ s : State, nextKite s = none ∨ kiteSends s = false → exec .contentionSlot s = .next s) ∧
  (∀ (s u : State) (x : KiteOut), nextKite s = some x → kiteSends s = true →
    u = (slotStart s x.frame.pri).2.toTick (slotStart s x.frame.pri).1 →
    (guardEnd u = none → exec .contentionSlot s = .next (startKite u x)) ∧
    (∀ m, guardEnd u = some m → exec .contentionSlot s = .next (startKite (u.toMains m) x))) ∧
  (∀ (s : State) (x : KiteOut), x.frame.bcast = true → startKite s x = (transmit s x.frame).onOutbox fun l => l.filter fun y => y != x) ∧
  (∀ (s : State) (x : KiteOut), x.frame.bcast = false → (s.node x.frame.dest).reachable = false →
    (startKite s x).kit.abandoned = true ∧ (startKite s x).kit.outbox = s.kit.outbox.filter fun y => y != x) ∧
  (∀ (s : State) (x : KiteOut), x.frame.bcast = false → (s.node x.frame.dest).reachable = true → x.frame.ackReq = true → ∃ y,
    (startKite s x).kit.outbox = (s.kit.outbox.filter fun z => z != x) ++ [y] ∧ y.retries = x.retries ∧ y.sentAt = some (startKite s x).now ∧
      y.frame.rx = (s.node x.frame.dest).nextHop ∧ y.frame.fcnt = (startKite s x).kit.fcnt ∧ y.frame.payload = x.frame.payload) ∧
  (∀ (s : State) (f : KiteFrame) (k : BitVec 128), (sendKey s).1 = some k → (transmit s f).kit.fcnt = s.kit.fcnt + 1 ∧
    (transmit s f).kit.txCount = s.kit.txCount + 1 ∧ .kite ((stampFrame s f).seal k) ∈ (transmit s f).out ∧
    (stampFrame s f).fcnt = s.kit.fcnt + 1 ∧ (stampFrame s f).mains = s.tim.mains ∧
    (transmit s f).kit.lastTxEnd = (transmit s f).now) ∧
  (∀ (s : State) (f : KiteFrame), (sendKey s).1 = none → transmit s f = (sendKey s).2) ∧
  (∀ s : State, kiteSends s = true → ∃ t y, exec .helloTimer s = .next t ∧ t.kit.lastHello = t.now ∧ t.kit.seq = s.kit.seq + 1 ∧
    t.kit.outbox = s.kit.outbox ++ [y] ∧ y.frame.typ = 1 ∧ y.frame.bcast = true ∧ y.retries = 0 ∧ y.sentAt = none) ∧
  (∀ s : State, kiteSends s = true → s.kit.timeSrc = true → s.tim.legalState = .synced → ∃ t y, exec .timeBroadcast s = .next t ∧
    t.kit.lastTime = t.now ∧ s.kit.lastTime + 60000000000 ≤ t.now ∧ t.kit.outbox = s.kit.outbox ++ [y] ∧ y.frame.typ = 3 ∧ y.frame.bcast = true) ∧
  (∀ s : State, kiteSends s = false ∨ s.kit.timeSrc = false ∨ s.tim.legalState ≠ .synced → exec .timeBroadcast s = .next s) ∧
  (∀ (s : State) (x : KiteOut) (a : Nat), (s.kit.outbox.find? fun y => y.sentAt.isSome) = some x → x.sentAt = some a → s.glb.phase = .running →
    (x.retries < 7 → ∃ t, exec .ackTimeout s = .next t ∧ t.kit.outbox = (s.kit.outbox.filter fun y => y != x) ++ [⟨x.frame, x.retries + 1, none⟩]) ∧
    (7 ≤ x.retries → ∃ t, exec .ackTimeout s = .next t ∧ t.kit.abandoned = true ∧ t.kit.outbox = s.kit.outbox.filter fun y => y != x)) ∧
  (∀ (s : State) (c : Cmd) (n : Fin 64), Ready s c 0x0900 → kiteCmdNode c = n → kiteSends s = true → (s.node n).reachable = true → n ≠ s.kit.nodeId →
    ∃ t y, exec (.probeNode c) s = .next t ∧ InFlight t c ∧ t.kit.outbox = s.kit.outbox ++ [y] ∧ y.frame.typ = 7 ∧ y.frame.dest = n ∧
      t.kit.probes = s.kit.probes ++ [((s.kit.seq + 1).zeroExtend 32, n, c.ring, c.index, s.now)]) ∧
  (∀ (s : State) (c : Cmd), Ready s c 0x0900 → kiteSends s = false ∨ (s.node (kiteCmdNode c)).reachable = false →
    exec (.probeNode c) s = .next (complete s c 0x0A)) ∧
  (∀ (s : State) (c : Cmd) (n : Fin 64), Ready s c 0x0901 → kiteCmdNode c = n → (s.node n).neighbour = true → ∃ t,
    exec (.clearPenalty c) s = .next (complete t c 0x00) ∧ (t.node n).penalty = false ∧ (t.node n).misses = [] ∧ (t.node n).neighbour = true) ∧
  (∀ (s : State) (c : Cmd), Ready s c 0x0901 → (s.node (kiteCmdNode c)).neighbour = false →
    exec (.clearPenalty c) s = .next (complete s c 0x0A))

/-- R489, R490, R492 to R494, R498, R501, R503, R504, R538, completing kiteFrameReceived, neighbourLost, nodeReplacement and kiteReport: a
received frame passes its checks in their order, the CRC, the MIC under either key, the FCNT and the TYPE, or is counted and reported;
during a service reset it is staged; a frame of this node's own number with another serial is a conflict, in which the higher serial
stops; a duplicate is not delivered again, and a frame for another node is forwarded while it has hops left; a silent neighbour is lost, a
silent serial replaced; the Kite mark, with the marks before it, fires and brings the next one with it. -/
def Obligations.KiteReceiving : Prop :=
  (∀ (s : State) (r : KiteRx), kiteHears s = false → exec (.kiteFrameReceived r) s = .next s) ∧
  (∀ (s : State) (r : KiteRx), kiteHears s = true → kiteSound r.bytes = false → exec (.kiteFrameReceived r) s =
    .next { s with kit := { s.kit with idleAt := s.now, noiseDrop := s.kit.noiseDrop + 1 } }) ∧
  (∀ (s u : State) (r : KiteRx), kiteHears s = true → kiteSound r.bytes = true → u = { s with kit := { s.kit with idleAt := s.now } } →
    (∀ f, (tryKeys u r.bytes).1 = some f → exec (.kiteFrameReceived r) s =
      .next (checkedKite (tryKeys u r.bytes).2.2 ⟨f, r.snr, r.angle, r.at_⟩)) ∧
    ((tryKeys u r.bytes).1 = none → (tryKeys u r.bytes).2.1 = false → exec (.kiteFrameReceived r) s = .next (tryKeys u r.bytes).2.2) ∧
    ((tryKeys u r.bytes).1 = none → (tryKeys u r.bytes).2.1 = true → exec (.kiteFrameReceived r) s =
      .next (kiteSecurity (tryKeys u r.bytes).2.2 (KiteFrame.parse r.bytes) 0))) ∧
  (∀ (s : State) (f : KiteFrame) (k : Nat), s.tie.role ≠ .standby → ∃ u, (kiteSecurity s f k).kit =
      { s.kit with secDrop := s.kit.secDrop + 1, secFail := s.kit.secFail || decide (k < 2) } ∧
    Posted u (kiteSecurity s f k) 0x0904 none (p8 k ++ p8 f.tx.val ++ leBytes 8 f.serial.toNat)) ∧
  (∀ (s : State) (r : KiteIn), fcntNew s r.f = false → checkedKite s r = kiteSecurity s r.f 1) ∧
  (∀ (s : State) (r : KiteIn), fcntNew s r.f = true → r.f.typ = 0 ∨ 8 < r.f.typ.toNat → checkedKite s r = kiteSecurity (noteFcnt s r.f) r.f 2 ∧
    (noteFcnt s r.f).kit.seen = ((r.f.serial, r.f.fcnt) :: s.kit.seen.filter fun x => x.1 != r.f.serial).take 128) ∧
  (∀ (s : State) (r : KiteIn), fcntNew s r.f = true → r.f.typ ≠ 0 → r.f.typ.toNat ≤ 8 → r.f.longEnough = true →
    checkedKite s r = if s.glb.phase = .running then serveKite (noteFcnt s r.f) r true else stageKite (noteFcnt s r.f) r) ∧
  (∀ (s : State) (r : KiteIn), r.f.tx = s.kit.nodeId → r.f.serial ≠ s.keep.serial → r.f.serial ≠ s.tie.partner →
    (serveKite s r true).kit.conflictSeen = true ∧ (serveKite s r true).kit.rxCount = s.kit.rxCount + 1 ∧
      (r.f.serial.toNat < s.keep.serial.toNat → (serveKite s r true).kit.conflict = true) ∧
      (s.keep.serial.toNat ≤ r.f.serial.toNat → (serveKite s r true).kit.conflict = s.kit.conflict)) ∧
  (∀ (s : State) (f : KiteFrame) (snr : Nat), f.dest = s.kit.nodeId → (s.node f.orig).seqs.contains f.seq = true → takeUnicast s f snr false = s) ∧
  (∀ (s : State) (f : KiteFrame) (snr : Nat), f.dest ≠ s.kit.nodeId →
    (f.hops = 0 → takeUnicast s f snr false = s) ∧
    (f.hops ≠ 0 → (takeUnicast s f snr false).kit.outbox = s.kit.outbox ++ [⟨{ f with hops := f.hops - 1 }, 0, none⟩])) ∧
  (∀ (s : State) (n : Fin 64), kiteHears s = true → (s.node n).neighbour = true → ∃ t, exec (.neighbourLost n) s = .next t ∧
    (t.node n).neighbour = false ∧ (t.node n).routes = [] ∧ ∀ k, k ≠ n → (t.node k).neighbour = (s.node k).neighbour) ∧
  (∀ (s : State) (n : Fin 64), kiteHears s = false ∨ (s.node n).neighbour = false → exec (.neighbourLost n) s = .next s) ∧
  (∀ (s : State) (n : Fin 64) (x : BitVec 64) (a : Nat), kiteHears s = true → (s.node n).newSerial = some (x, a) → ∃ t,
    exec (.nodeReplacement n) s = .next t ∧ (t.node n).serial = x ∧ (t.node n).newSerial = none ∧ a + 1000000000 ≤ t.now ∧
      ∀ k, k ≠ n → t.node k = s.node k) ∧
  (∀ (s : State) (n : Fin 64), (s.node n).newSerial = none → exec (.nodeReplacement n) s = .next s) ∧
  (∀ s u : State, u = inOrder .kite s → u.clocksRun = false ∨ u.shr.kiteEn = false → exec .kiteReport s = .next u) ∧
  (∀ s u : State, u = inOrder .kite s → u.clocksRun = true → u.shr.kiteEn = true → (u.tim.marks.find? fun m => m.owner == .kite) = none → u.markFree = true →
    ∃ t, exec .kiteReport s = .next t ∧ ∃ m ∈ t.tim.marks, m.owner = .kite ∧ m.value = nextApply u u.tim.mains) ∧
  (∀ (s u : State) (m : Mark), u = inOrder .kite s → u.clocksRun = true → u.shr.kiteEn = true → (u.tim.marks.find? fun m => m.owner == .kite) = some m →
    kiteSends u = false → ((u.toMains m.value).dropMark .kite 0).markFree = true →
    ∃ t, exec .kiteReport s = .next t ∧ ∃ x ∈ t.tim.marks, x.owner = .kite ∧ m.value + 65536 * u.cfg.kitePeriod ≤ x.value) ∧
  (∀ (s u v : State) (m : Mark), u = inOrder .kite s → u.clocksRun = true → u.shr.kiteEn = true → (u.tim.marks.find? fun m => m.owner == .kite) = some m →
    v = (((u.toMains m.value).dropMark .kite 0).setMark .kite (max (m.value + 65536 * u.cfg.kitePeriod)
      (nextApply u (u.toMains m.value).tim.mains)) 0).1 → kiteSends v = true →
    exec .kiteReport s = .next (kiteReport v ((m.value - 0x4000) / 65536)))

/-- R60, R61, R66 to R70, R76, completing referenceLost, referenceRestored, mainsLost and mainsLocked: losing the reference takes the link
down and keeps the clocks on the holdover oscillator, until it has been good for 100 ms and the next boundary comes; loss of mains, by
each of its three conditions, enters COAST at the nominal frequency with its event; cycles that pass the acquisition test lock the clock
with one angle correction, which jumps forward where it is positive, firing the marks passed over, and otherwise holds the angle, so that
mains time never decreases. -/
def Obligations.MainsAndReference : Prop :=
  (∀ s : State, s.clocksRun = true → s.tim.refHoldover = false → ∃ t, exec .referenceLost s = .next t ∧ t.tim.refHoldover = true ∧
    t.tim.refLostF = true ∧ t.tim.refLostAt = s.now ∧ t.rng.linkUp = false) ∧
  (∀ s : State, s.clocksRun = false ∨ s.tim.refHoldover = true → exec .referenceLost s = .next s) ∧
  (∀ s : State, s.clocksRun = true → s.tim.refHoldover = true → ∃ t, exec .referenceRestored s = .next t ∧ t.tim.refHoldover = false ∧
    t.rng.linkUp = !s.glb.perst ∧ s.tim.refLostAt + 100000000 ≤ t.now) ∧
  (∀ s : State, s.clocksRun = false ∨ s.tim.refHoldover = false → exec .referenceRestored s = .next s) ∧
  (∀ (s : State) (a b : Nat), s.clocksRun = true → s.tim.mainsState = .locked → s.tim.source = false →
    exec (.mainsLost 0 a b) s = .next (loseMains (s.toTick (s.tim.lastCross + 3 * 10 ^ 12 / (2 * s.tim.freq))) 0
      (s.toTick (s.tim.lastCross + 3 * 10 ^ 12 / (2 * s.tim.freq))).tim.freq)) ∧
  (∀ (s : State) (a b : Nat), s.clocksRun = true → s.tim.mainsState = .locked → s.tim.source = false →
    (a < 35000 → b < 35000 → exec (.mainsLost 1 a b) s = .next (loseMains (s.toMains ((s.tim.mains + 0x7FFF) / 0x8000 * 0x8000)) 1
      (s.toMains ((s.tim.mains + 0x7FFF) / 0x8000 * 0x8000)).tim.freq)) ∧
    (35000 ≤ a ∨ 35000 ≤ b → exec (.mainsLost 1 a b) s = .next s)) ∧
  (∀ (s : State) (a b : Nat), s.clocksRun = true → s.tim.mainsState = .locked → s.tim.source = false →
    (a < 45000 ∨ 65000 < a → b < 45000 ∨ 65000 < b → exec (.mainsLost 2 a b) s = .next (loseMains s 2 b)) ∧
    ((45000 ≤ a ∧ a ≤ 65000) ∨ (45000 ≤ b ∧ b ≤ 65000) → exec (.mainsLost 2 a b) s = .next s)) ∧
  (∀ (s : State) (cause : Fin 3) (a b : Nat), s.clocksRun = false ∨ s.tim.mainsState ≠ .locked ∨ s.tim.source = true →
    exec (.mainsLost cause a b) s = .next s) ∧
  (∀ (s : State) (c f : Nat), (loseMains s c f).tim = { s.tim with
      mainsState := .coast, mainsLostF := true, outOfRange := s.tim.outOfRange || c == 2, angleErr := 0, angleHold := 0
      freq := if s.tim.nominal60 then 60000 else 50000 } ∧
    (s.tie.role ≠ .standby → Posted s (loseMains s c f) 0x0580 none (p8 c ++ p32 f))) ∧
  (∀ (s : State) (l : List SrcCycle) (c : SrcCycle) (a : BitVec 16), s.clocksRun = true → s.tim.mainsState ≠ .locked → s.tim.source = false →
    l.getLast? = some c → acquisitionTest l = true →
    exec (.mainsLocked l a) s = .next (afterJump s (lockMains s (srcFreq c) (angleCorrection s a))) ∧
    (angleCorrection s a ≤ 0 → exec (.mainsLocked l a) s = .next (lockMains s (srcFreq c) (angleCorrection s a)))) ∧
  (∀ (s : State) (l : List SrcCycle) (a : BitVec 16), s.clocksRun = false ∨ s.tim.mainsState = .locked ∨ s.tim.source = true ∨
    acquisitionTest l = false → exec (.mainsLocked l a) s = .next s) ∧
  (∀ (s : State) (f : Nat) (c : Int), (lockMains s f c).tim.mainsState = .locked ∧ (lockMains s f c).tim.freq = f ∧
    (lockMains s f c).tim.mains = s.tim.mains + c.toNat ∧ (lockMains s f c).tim.outOfRange = false ∧
    (c < 0 → (lockMains s f c).tim.angleHold = c.natAbs * 10 ^ 14) ∧
    (s.tie.role ≠ .standby → Posted s (lockMains s f c) 0x0581 none (p16 (twos 16 c) ++ p32 f)))

/-- R80 to R82, R84, completing legalTimeSync, slewEnd, syncAgeExpiry and localTableEnd: a synchronisation of the Host role within one
second starts a slew, one beyond MAX_STEP days is refused and only reported, and one between steps legal time at once; every accepted one
leaves LEGAL_STATE at SYNCED and its age at 0. A slew ends, a synchronisation ages, and the last entry of the local-time table comes into
force with its event. That a synchronisation under another role changes nothing is the model's choice (log 132). -/
def Obligations.LegalTimeKeeping : Prop :=
  (∀ (s : State) (utc a : Nat), s.clocksRun = true → (utc - legalAt s a : Int).natAbs ≤ 2 ^ 24 →
    exec (.legalTimeSync 1 utc a) s = .next { s with
      tim := { s.tim with slewLeft := utc - legalAt s a, slewRem := 0, slewing := (utc - legalAt s a : Int) != 0,
                          legalState := .synced, syncAgeTicks := 0,
                          legalHist := (s.tim.tick, s.tim.legal, s.tim.legalRem, utc - legalAt s a, 0) :: s.tim.legalHist }
      glb := { s.glb with clockLoss := false } }) ∧
  (∀ (s : State) (utc a : Nat), s.clocksRun = true → 2 ^ 24 < (utc - legalAt s a : Int).natAbs →
    (utc - legalAt s a : Int).natAbs ≤ s.cfg.maxStep * 86400 * 2 ^ 24 ∨ s.tim.legalState = .unsync →
    ∃ t, exec (.legalTimeSync 1 utc a) s = .next t ∧ t.tim.legal = (s.tim.legal + (utc - legalAt s a : Int)).toNat ∧
      t.tim.legalState = .synced ∧ t.tim.syncAgeTicks = 0 ∧ t.tim.slewing = false ∧ t.tim.legalStepF = true ∧ t.tim.mains = s.tim.mains) ∧
  (∀ (s : State) (utc a : Nat), s.clocksRun = true → 2 ^ 24 < (utc - legalAt s a : Int).natAbs →
    s.cfg.maxStep * 86400 * 2 ^ 24 < (utc - legalAt s a : Int).natAbs → s.tim.legalState ≠ .unsync →
    exec (.legalTimeSync 1 utc a) s =
      .next (postDev s 0x0586 (p64 (twos 64 (Int.tdiv (utc - legalAt s a) (2 ^ 24))) ++ p8 0))) ∧
  (∀ (s : State) (role : BitVec 3) (utc a : Nat), s.clocksRun = false ∨ role ≠ 1 → exec (.legalTimeSync role utc a) s = .next s) ∧
  (∀ s : State, s.clocksRun = true → s.tim.slewing = true → ∃ t, exec .slewEnd s = .next t ∧ t.tim.slewing = false ∧
    t.tim.legalState = s.tim.legalState ∧ s.tim.tick ≤ t.tim.tick ∧ t = { s with tim := t.tim, keep := t.keep }) ∧
  (∀ s : State, s.tim.slewing = false → exec .slewEnd s = .next s) ∧
  (∀ s : State, s.clocksRun = true → s.tim.legalState = .synced → ∃ t, exec .syncAgeExpiry s = .next t ∧ t.tim.legalState = .aged ∧
    s.cfg.syncAge * 1000000000 ≤ t.tim.syncAgeTicks ∧ t = { s with tim := t.tim, keep := t.keep }) ∧
  (∀ s : State, s.tim.legalState ≠ .synced → exec .syncAgeExpiry s = .next s) ∧
  (∀ (s : State) (e : LocalEntry), s.clocksRun = true → s.tim.localEndPosted = false → s.tim.localTab.getLast? = some e →
    s.tie.role ≠ .standby → ∃ t, exec .localTableEnd s = .next t ∧ t.tim.localEndPosted = true ∧ t.tim.localTab = s.tim.localTab ∧
      Posted s t 0x0585 none (p64 e.start)) ∧
  (∀ (s : State), s.tim.localEndPosted = true ∨ s.tim.localTab = [] → exec .localTableEnd s = .next s)

/-- R508, R510, R512, R514, R515, R518, R521, completing tiePortDown, tiePortUp, mainsTimeTransfer and tieFrameReceived: a tie port that
goes down is marked and reported; one whose ends agree comes up, and one whose ends differ stays down with its event; mains time is sent
at the next multiple of 10 µs; a frame on a port that is up is taken by its kind, and on another port it is not; where mains time jumps
with a frame or a port, the marks passed over fire. -/
def Obligations.TiePorts : Prop :=
  (∀ (s : State) (p : Fin 4), s.clocksRun = true → (vget s.tie.ports p).up = true → ∃ t, exec (.tiePortDown p) s = .next t ∧
    (vget t.tie.ports p).up = false ∧ t.tie.portDownF = true ∧ ∀ q, q ≠ p → vget t.tie.ports q = vget s.tie.ports q) ∧
  (∀ (s : State) (p : Fin 4), (vget s.tie.ports p).up = false → exec (.tiePortDown p) s = .next s) ∧
  (∀ (s : State) (p : Fin 4) (x : TiePeer), exec (.tiePortUp p x) s = .next (afterJump s (tiePortUp p x s))) ∧
  (∀ (s : State) (p : Fin 4) (x : TiePeer), s.clocksRun = true → (vget s.tie.ports p).up = false → x.clusterN = s.tie.clusterN → x.paired = s.tie.paired →
    x.version = s.upd.cfgActive → x.cycle ≤ s.cycle → ∃ t, exec (.tiePortUp p x) s = .next t ∧ (vget t.tie.ports p).up = true ∧
      (vget t.tie.ports p).mismatch = false ∧ (vget t.tie.ports p).peer = x.serial ∧ (p = 3 → t.tie.partner = x.serial ∧ t.tie.lastBeat = s.now) ∧
      (p ≠ 3 → t.tie.members.getLsbD x.slot.toNat = true) ∧ ∀ q, q ≠ p → vget t.tie.ports q = vget s.tie.ports q) ∧
  (∀ (s : State) (p : Fin 4) (x : TiePeer), s.clocksRun = true → (vget s.tie.ports p).up = false → s.tie.role ≠ .standby →
    x.clusterN ≠ s.tie.clusterN ∨ x.paired ≠ s.tie.paired ∨ x.version ≠ s.upd.cfgActive → ∃ t u, exec (.tiePortUp p x) s = .next t ∧
      (vget t.tie.ports p).up = false ∧ (vget t.tie.ports p).mismatch = true ∧ t.tie.cfgMismatch = true ∧
      Posted u t 0x0A05 none (sideSlot s ++ p8 p.val ++ p8 2 ++ leBytes 8 x.serial.toNat)) ∧
  (∀ (s : State) (p : Fin 4) (x : TiePeer), (vget s.tie.ports p).up = true → exec (.tiePortUp p x) s = .next s) ∧
  (∀ s : State, s.clocksRun = true → s.tie.role = .active → s.pairLinkUp = true → ∃ t l, exec .mainsTimeTransfer s = .next t ∧
    t.out = .tie 3 (.mainsTime t.tim.mains t.tim.freq (t.tim.mainsState == .locked)) :: l ∧ (s.now / 10000 + 1) * 10000 ≤ t.now) ∧
  (∀ s : State, sendsTime s = false → exec .mainsTimeTransfer s = .next s) ∧
  (∀ (s : State) (p : Fin 4) (n : Nat) (m : TieMsg), s.clocksRun = false ∨ (vget s.tie.ports p).up = false → exec (.tieFrameReceived p n m) s = .next s) ∧
  (∀ (s : State) (p : Fin 4) (m : TieMsg), s.clocksRun = true → (vget s.tie.ports p).up = true → exec (.tieFrameReceived p 0 m) s =
    .next (afterJump s (takeAny ((s.count 7 0x12 0).onTiePort p fun x => { x with retry := x.retry + BitVec.ofNat 32 0 }) p m))) ∧
  (∀ (s : State) (p : Fin 4) (n : Nat) (m : TieMsg), exec (.tieFrameReceived p n m) s = .next (afterJump s (tieFrame p n m s))) ∧
  (∀ (s : State) (r : BitVec 2) (a b c : Nat) (k : Bool), takeAny s 3 (.heartbeat r a b c k) = { s with tie := { s.tie with
    lastBeat := s.now, partnerReady := k, partnerRole := if r = 1 then .active else if r = 2 then .standby else if r = 3 then .joining else .alone } }) ∧
  (∀ (s : State) (r : Fin 57) (e : Event), s.tie.role = .standby ∨ s.tie.role = .joining → s.tie.lost = none →
    (takeAny s 3 (.mirrorEvt r e)).tie.mirrorEvts = s.tie.mirrorEvts ++ [(r, e)] ∧ (takeAny s 3 (.mirrorEvt r e)).keep.gseq = e.gseq) ∧
  (∀ s : State, s.tie.role = .standby → (takeAny s 3 .handover).tie.role = .active ∧ (takeAny s 3 .withdrawal).tie.role = .active) ∧
  (∀ (s : State) (r : Fin 57) (e : Event), s.tie.role = .alone ∨ s.tie.role = .active → takeAny s 3 (.mirrorEvt r e) = s)

/-- R514, R521 to R524, R528 to R530, R533, completing heartbeatTimeout, withdrawalNotice, roleDecision, takeover, foreignEpoch, join,
handOver, handover, readPairState, readTally and clearTally: a standby takes over after a missing heartbeat where a majority of its lanes
is free, and when its partner announces its removal; an active device loses its standby; a joining device decides its role; a takeover
clears what it has adopted; another EPOCH takes a lane back into LISTEN; a join is refused where the versions differ; a handover needs a
READY standby; the pair and tally commands answer. -/
def Obligations.PairRoles : Prop :=
  (∀ s : State, s.clocksRun = true → s.tie.role = .standby → ∀ u, u = s.toTick (s.tie.lastBeat + 8000) → listenLanes u ≠ [] →
    (listenLanes u).length < 2 * ((listenLanes u).filter (laneFree u)).length → ∃ t, exec .heartbeatTimeout s = .next t ∧ t.tie.role = .active ∧
      t.tie.lost = some (0, u.now) ∧ t.tie.partnerReady = false) ∧
  (∀ s : State, s.clocksRun = true → s.tie.role = .standby → listenLanes (s.toTick (s.tie.lastBeat + 8000)) = [] → ∃ t a, exec .heartbeatTimeout s = .next t ∧
    t.tie.role = .active ∧ t.tie.lost = some (1, a) ∧ s.tie.lastBeat + 16000 ≤ a) ∧
  (∀ s : State, s.clocksRun = true → s.tie.role = .active → s.tie.partnerRole ≠ .alone → ∃ t, exec .heartbeatTimeout s = .next t ∧ t.tie.role = .active ∧
    t.tie.partnerLostF = true ∧ t.tie.partnerReady = false ∧ t.tie.partnerRole = .alone) ∧
  (∀ s : State, s.tie.role = .alone ∨ s.tie.role = .joining → exec .heartbeatTimeout s = .next s ∧ exec .withdrawalNotice s = .next s) ∧
  (∀ s : State, s.clocksRun = true → s.tie.role = .standby → ∃ t, exec .withdrawalNotice s = .next t ∧ t.tie.role = .active ∧ t.tie.lost = some (2, s.now)) ∧
  (∀ s : State, s.clocksRun = true → s.tie.role = .joining → s.pairLinkUp = true → s.tie.partnerRole ≠ .active →
    (s.glb.side = false → ∃ t, exec .roleDecision s = .next t ∧ t.tie.role = .active) ∧ (s.glb.side = true → exec .roleDecision s = .next s)) ∧
  (∀ s : State, s.clocksRun = true → s.tie.role = .joining → s.pairLinkUp = false → s.glb.side = false → ∃ t, exec .roleDecision s = .next t ∧
    t.tie.role = .active ∧ s.tie.joinAt + 1000000000 ≤ t.now) ∧
  (∀ s : State, s.tie.role ≠ .joining → exec .roleDecision s = .next s) ∧
  (∀ (s : State) (k : BitVec 4) (a : Nat), s.tie.lost = some (k, a) → s.glb.phase = .running → s.tie.role = .active → ∃ t, exec .takeover s = .next t ∧
    t.tie.lost = none ∧ t.tie.takeoverF = true ∧ t.tie.takeoverCause = k ∧ t.tie.mirrorEvts = [] ∧ t.tie.mirrorSess = []) ∧
  (∀ s : State, s.tie.lost = none → exec .takeover s = .next s) ∧
  (∀ (s : State) (l : Fin 128) (a : Nat), (s.lane l).foreignSince = some a → s.tie.role = .active → (s.lane l).link = .up → ∃ t,
    exec (.foreignEpoch l) s = .next t ∧ (t.lane l).link = .listen ∧ ∀ k, k ≠ l → (t.lane k).link = (s.lane k).link) ∧
  (∀ (s : State) (l : Fin 128), (s.lane l).foreignSince = none → exec (.foreignEpoch l) s = .next s) ∧
  (∀ (s : State) (v : BitVec 32) (f : Nat) (w : List (Nat × List Nat)), s.glb.phase = .running → s.pairLinkUp = true → s.tie.role = .joining → s.saf.guardOk = true →
    v = s.upd.cfgActive → f = fwMajorOf s → s.tie.partnerRole = .active → ∃ t, exec (.join v f w) s = .next t ∧ t.tie.role = .standby ∧ t.tie.ready = true ∧
      t.tie.mirrorStale = false ∧ t.tie.lost = none) ∧
  (∀ (s : State) (v : BitVec 32) (f : Nat) (w : List (Nat × List Nat)), s.glb.phase = .running → s.pairLinkUp = true → s.tie.role = .joining → s.saf.guardOk = true →
    v ≠ s.upd.cfgActive ∨ f ≠ fwMajorOf s → ∃ t, exec (.join v f w) s = .next t ∧ t.tie.role = .joining ∧ t.tie.joinRefused = true) ∧
  (∀ (s : State) (c : Cmd), Ready s c 0x0A00 → s.tie.role = .active → s.tie.partnerReady = true → s.tie.handing = false → ∃ t,
    exec (.handOver c) s = .next t ∧ InFlight t c ∧ t.tie.handing = true ∧ t.tie.handCmd = some (c.ring, c.index)) ∧
  (∀ (s : State) (c : Cmd), Ready s c 0x0A00 → s.tie.role = .alone ∨ s.tie.role = .joining ∨ (s.tie.role = .active ∧ s.tie.partnerReady = false) →
    exec (.handOver c) s = .next (complete s c 0x0A)) ∧
  (∀ (s : State) (c : Cmd), Ready s c 0x0A00 → s.tie.role = .standby → exec (.handOver c) s = .next (complete s c 0x09)) ∧
  (∀ s : State, s.tie.handing = false → exec .handover s = .next s) ∧
  (∀ (s : State) (k : Fin 16 × BitVec 32), s.tie.handing = true → s.tie.role = .active → s.tie.partnerReady = false → s.tie.handCmd = some k →
    vget s.upd.switchDue 0 = none → s.upd.pairFw = none → s.upd.recoverDue = false → s.tie.resetDue = false → ∃ u, exec .handover s = .next u ∧
      u.tie.role = .active ∧ u.tie.handing = false ∧ u.tie.handCmd = none) ∧
  (∀ s : State, s.tie.handing = true → s.tie.role = .active → s.tie.partnerReady = true → s.pairLinkUp = true →
    vget s.upd.switchDue 0 = none → s.upd.pairFw = none → s.upd.recoverDue = false → s.tie.resetDue = false → ∃ u, exec .handover s = .next u ∧
      u.tie.role = .standby ∧ u.tie.partnerRole = .active ∧ u.tie.handing = false ∧ u.tie.ready = true) ∧
  (∀ (s : State) (c : Cmd), Ready s c 0x0A01 → exec (.readPairState c) s =
    .next (complete s c 0x00 (pack [(0, s.tie.role.code), (2, b2n s.tie.ready), (3, b2n s.tie.mirrorStale), (4, b2n s.pairLinkUp)]))) ∧
  (∀ (s : State) (c : Cmd), Ready s c 0x1000 → exec (.readTally c) s = .next (complete s c 0x00
    (pack [(0, min 255 ((tallyEntries s (fld (c.p 0) 0 4)).filter (·.lasting)).length), (8, min 255 (tallyEntries s (fld (c.p 0) 0 4)).length)]))) ∧
  (∀ (s : State) (c : Cmd) (k : Nat), Ready s c 0x1001 → fld (c.p 0) 0 4 = k → k ≠ 3 → k ≠ 4 → ∃ t, exec (.clearTally c) s = .next (complete t c 0x00) ∧
    t.tie.tally = s.tie.tally.filter fun e => e.cls.val != k) ∧
  (∀ (s : State) (c : Cmd) (k : Nat) (e : TallyEntry), Ready s c 0x1001 → fld (c.p 0) 0 4 = k → k = 3 ∨ k = 4 → e ∈ s.tie.tally → e.cls.val = k → e.lasting = true →
    exec (.clearTally c) s = .next (complete s c 0x0A))

/-- R572 to R574, R576, R578 to R583, R585, completing domainDrop, domainRaise, wake, rtcAlarm, wakeRelease, enterQuiet and leaveQuiet: a
domain without a vote drops after DROP_HOLD, where no station of its slice holds an association, and a vote raises it, or marks it as
failed with its event; a wake source leaves Hub-Quiet with its record, is latched during the entry, and changes nothing in Run; the RTC
alarm fires once; Enter quiet and Leave quiet do what their tables say, and refuse what the state forbids. -/
def Obligations.PowerStates : Prop :=
  (∀ (s : State) (d : Fin 19), 6 ≤ d.val → (s.domain d).up = true → s.voted d = false → s.glb.phase = .running →
    s.pwr.state ≠ .entering → s.tie.role ≠ .standby → sliceHolds s d = false → ∃ t, exec (.domainDrop d) s = .next t ∧ (t.domain d).up = false ∧
      (∀ k, k ≠ d → t.domain k = s.domain k) ∧ (s.domain d).noVoteSince.getD s.now + s.cfg.dropHold * 1000000000 ≤ t.now) ∧
  (∀ (s : State) (d : Fin 19), d.val < 6 ∨ (s.domain d).up = false ∨ s.tie.role = .standby ∨ sliceHolds s d = true →
    exec (.domainDrop d) s = .next s) ∧
  (∀ (s : State) (d : Fin 19), 6 ≤ d.val → (s.domain d).up = false → s.voted d = true → s.glb.phase = .running →
    ∃ t, exec (.domainRaise d true) s = .next t ∧ (t.domain d).up = true ∧ (t.domain d).fault = false ∧
      ∀ k, k ≠ d → t.domain k = s.domain k) ∧
  (∀ (s : State) (d : Fin 19), 6 ≤ d.val → (s.domain d).up = false → s.voted d = true → s.glb.phase = .running →
    ∃ t, exec (.domainRaise d false) s = .next t ∧ (t.domain d).fault = true ∧ (t.domain d).up = false ∧ t.pwr.faultF = true) ∧
  (∀ (s : State) (k : Fin 9) (x : BitVec 8), s.glb.phase = .running → s.pwr.state = .hubQuiet → k.val = 2 ∨ (3 ≤ k.val ∧ s.cfg.wakeMask.getLsbD k.val = true) →
    ∃ t, exec (.wake k x) s = .next t ∧ t.pwr.wakeF = true ∧ t.pwr.lastWake = ⟨k.val, x.toNat, false, 2, s.tim.legal⟩ ∧
      t.pwr.quiet = false ∧ t.pwr.latchedWake = none) ∧
  (∀ (s : State) (k : Fin 9) (x : BitVec 8), s.glb.phase = .running → s.pwr.state = .entering → s.pwr.latchedWake = none →
    k.val = 2 ∨ (3 ≤ k.val ∧ s.cfg.wakeMask.getLsbD k.val = true) →
    exec (.wake k x) s = .next { s with pwr := { s.pwr with latchedWake := some (k.val, x.toNat) } }) ∧
  (∀ (s : State) (k : Fin 9) (x : BitVec 8), s.pwr.state = .run → exec (.wake k x) s = .next s) ∧
  (∀ s : State, s.pwr.armed = true → s.clocksRun = true → s.pwr.quiet = false → s.tie.role ≠ .standby →
    ∃ t, exec .rtcAlarm s = .next t ∧ t.pwr.armed = false ∧ Posted s t 0x0D01 none (p8 5 ++ p8 0 ++ p8 0 ++ p8 0)) ∧
  (∀ (s : State) (a : Nat), s.pwr.wakePinSince = some a → s.rng.linkUp = true → s.rng.d3hot = false →
    exec .wakeRelease s = .next { s with pwr := { s.pwr with wakePinSince := none } }) ∧
  (∀ (s : State) (a : Nat), s.pwr.wakePinSince = some a → s.rng.linkUp = false ∨ s.rng.d3hot = true → ∃ t,
    exec .wakeRelease s = .next t ∧ t.pwr.wakePinSince = none ∧ a + 1000000000 ≤ t.now) ∧
  (∀ s : State, s.pwr.wakePinSince = none → exec .wakeRelease s = .next s) ∧
  (∀ (s : State) (c : Cmd), Ready s c 0x0D00 → s.tie.role ≠ .standby → s.pwr.quiet = false → (∀ o, blocksQuiet s o = false) →
    ∀ t, t = { started s c with pwr := { s.pwr with
      quietFrom := s.pwr.state, state := .entering, quietCmd := some (c.ring, c.index), latchedWake := none, furtherWakes := 0 } } →
    quietLeft t ≠ [] → exec (.enterQuiet c) s = .next t) ∧
  (∀ (s : State) (c : Cmd), Ready s c 0x0D00 → s.tie.role ≠ .standby → s.pwr.quiet = true ∨ (∃ o, blocksQuiet s o = true) →
    exec (.enterQuiet c) s = .next (complete s c 0x0A)) ∧
  (∀ (s : State) (c : Cmd), Ready s c 0x0D01 → s.tie.role ≠ .standby → s.pwr.state = .hubQuiet →
    exec (.leaveQuiet c) s = .next (complete (leaveQuiet s 2 0 false 0) c 0x00)) ∧
  (∀ (s : State) (c : Cmd), Ready s c 0x0D01 → s.tie.role ≠ .standby → s.pwr.state ≠ .hubQuiet →
    exec (.leaveQuiet c) s = .next (complete s c 0x0A))

/-- R119, R181, R185, R527, R528, completing serviceReset and eccError: a service reset stops the string frames and holds the service
domain until it ends, unless its class is lasting; a corrected memory error is only counted in its class; an uncorrectable one drops the
packet, or the queue, and sets ECC_DROP or counts in class 15. -/
def Obligations.ResetsAndMemoryErrors : Prop :=
  (∀ s : State, s.glb.phase = .running → handsFirst s = false → vget s.upd.switchDue 0 = none →
    ∃ t, exec (.serviceReset false) s = .next t ∧ t.glb.phase = .serviceReset ∧ (∀ l, (t.lane l).stopped = true) ∧
      (vget t.lsw.sources 0).stoppedAt = some s.now) ∧
  (∀ s : State, s.glb.phase = .serviceReset → s.tie.heldReset = false →
    ∃ t, exec (.serviceReset false) s = .next t ∧ t.glb.phase = .running) ∧
  (∀ s : State, s.glb.phase = .serviceReset → s.tie.heldReset = true → exec (.serviceReset false) s = .next s) ∧
  (∀ (s : State) (i : Nat), s.clocksRun = true → exec (.eccError 0 i) s = .next (tally s 0 i)) ∧
  (∀ (s : State) (i : Nat), s.clocksRun = true → exec (.eccError 3 i) s = .next (tally s 1 i)) ∧
  (∀ (s : State) (i : Nat), s.clocksRun = true →
    exec (.eccError 1 i) s = .next (tally (dropPacket { s with mpl := { s.mpl with eccDrop := true } } (fin 1024 i)) 15 i) ∧
    exec (.eccError 2 i) s = .next (tally (dropQueueAll { s with mpl := { s.mpl with eccDrop := true } } (fin 1024 i)) 15 i)) ∧
  (∀ (s : State) (k : Fin 4) (i : Nat), s.clocksRun = false → exec (.eccError k i) s = .next s) ∧
  (∀ (s : State) (q : Fin 1024), s.clocksRun = true → (258 ≤ q.val ∧ q.val < 264) ∨ 288 ≤ q.val → (s.poolQ q).staging = [] →
    ∃ t, exec (.eccError 1 q.val) s = .next t ∧ t.mpl.eccDrop = true ∧ (t.poolQ q).packets = (s.poolQ q).packets.tail ∧
      ∀ k, k ≠ q → t.poolQ k = s.poolQ k) ∧
  (∀ (s : State) (q : Fin 1024), s.clocksRun = true → 264 ≤ q.val → q.val < 276 → (s.poolQ q).staging = [] → (s.poolQ q).packets ≠ [] →
    ∃ t, exec (.eccError 1 q.val) s = .next t ∧ t.mpl.eccDrop = true ∧ (t.poolQ q).packets = (match (s.poolQ q).packets.tail with
        | x :: l => { x with gap := true } :: l
        | [] => []) ∧
      ∀ k, k ≠ q → t.poolQ k = s.poolQ k) ∧
  (∀ (s : State) (q : Fin 1024), s.clocksRun = true → (258 ≤ q.val ∧ q.val < 264) ∨ 288 ≤ q.val → (s.poolQ q).staging = [] →
    ∃ t, exec (.eccError 2 q.val) s = .next t ∧ t.mpl.eccDrop = true ∧ (t.poolQ q).packets = [] ∧ ∀ k, k ≠ q → t.poolQ k = s.poolQ k)

/-- R543, R546, R547, R549, R550, completing loadKey, eraseKey, generateKey, readPublicKey, beginCredential, proveCredential,
challengeExpiry, randomSourceFault and randomSourceRestored: a key is loaded, erased and generated where its slot and role allow it: the
slot takes the material with its GEN counted on, and STAGE is cleared by every Load key; a public key is written; a credential's challenge
is drawn, expires after 60 s, and is proved by the signature of its role's key, a failed check of role 4 counting as a tamper; a fault of
the random source is reported and stops draws, and its return is reported. -/
def Obligations.KeyCommands : Prop :=
  (∀ (s : State) (c : Cmd) (k : Fin 64), Ready s c 0x0B00 → keyCmdSlot c = k → keyType k.val ≠ 0 → k ≠ 5 → mayLoad s k (s.roleOf c) = true →
    s.key.dbgKeys = false → ∀ m, stagedKey s k = some m → ∃ t, exec (.loadKey c) s = .next t ∧
      t.keySlot k = ⟨.valid, (s.keySlot k).gen + 1, ⟨m⟩, true, true, false⟩ ∧ (∀ j, j ≠ k → t.keySlot j = s.keySlot j) ∧
      t.key.stage = Vector.replicate 256 0) ∧
  (∀ (s : State) (c : Cmd) (k : Fin 64), Ready s c 0x0B00 → keyCmdSlot c = k → keyType k.val ≠ 0 → k ≠ 5 → mayLoad s k (s.roleOf c) = true →
    s.key.dbgKeys = false → stagedKey s k = none → exec (.loadKey c) s =
      .next { complete s c 0x02 with key := { (complete s c 0x02).key with stage := Vector.replicate 256 0 } }) ∧
  (∀ (s : State) (c : Cmd) (k : Fin 64), Ready s c 0x0B00 → keyCmdSlot c = k → keyType k.val = 0 ∨ k = 5 → exec (.loadKey c) s =
      .next { complete s c 0x02 with key := { (complete s c 0x02).key with stage := Vector.replicate 256 0 } }) ∧
  (∀ (s : State) (c : Cmd) (k : Fin 64), Ready s c 0x0B01 → keyCmdSlot c = k → keyType k.val ≠ 0 → k ≠ 5 → s.key.dbgKeys = false →
    ∃ t, exec (.eraseKey c) s = .next t ∧ t.keySlot k = ⟨.empty, (s.keySlot k).gen + 1, ⟨[]⟩, true, true, false⟩ ∧
      (∀ j, j ≠ k → t.keySlot j = s.keySlot j) ∧ ∀ e, (vget t.key.engines e).slot = k → (vget t.key.engines e).loaded = false) ∧
  (∀ (s : State) (c : Cmd), Ready s c 0x0B01 → keyCmdSlot c = 5 ∨ keyType (keyCmdSlot c).val = 0 →
    exec (.eraseKey c) s = .next (complete s c 0x02)) ∧
  (∀ (s : State) (c : Cmd) (k : Fin 64), Ready s c 0x0B02 → keyCmdSlot c = k → keyUses k.val = 16 → s.key.dbgKeys = false → s.key.rngOk = true →
    ∃ t, exec (.generateKey c) s = .next t ∧
      t.keySlot k = ⟨.valid, (s.keySlot k).gen + 1, ⟨beBytes 32 (privateKey s.draw.1)⟩, true, true, false⟩ ∧
      (∀ j, j ≠ k → t.keySlot j = s.keySlot j) ∧ t.fresh = s.fresh + 1) ∧
  (∀ (s : State) (c : Cmd), Ready s c 0x0B02 → keyUses (keyCmdSlot c).val ≠ 16 → exec (.generateKey c) s = .next (complete s c 0x02)) ∧
  (∀ (s : State) (c : Cmd) (k : Fin 64), Ready s c 0x0B03 → keyCmdSlot c = k → c.p2 1 % 64 = 0 → keyType k.val ≠ 1 → s.key.dbgKeys = false →
    (s.keySlot k).state = .valid → (s.keySlot k).soundA = true → (s.keySlot k).soundB = true → exec (.readPublicKey c) s =
      .next (complete (s.hostWrite (BitVec.ofNat 64 (c.p2 1)) (publicOf k (s.keySlot k).mat.words)) c 0x00)) ∧
  (∀ (s : State) (c : Cmd) (k : Fin 64), Ready s c 0x0B03 → keyCmdSlot c = k → c.p2 1 % 64 = 0 → keyType k.val ≠ 1 → s.key.dbgKeys = false →
    (s.keySlot k).state ≠ .valid → exec (.readPublicKey c) s = .next (complete s c 0x0A)) ∧
  (∀ (s : State) (c : Cmd), Ready s c 0x0B04 → 2 ≤ fld (c.p 0) 4 3 → fld (c.p 0) 4 3 ≤ 5 → throttled s = false → s.key.rngOk = true →
    ∃ t, exec (.beginCredential c) s = .next (complete t c 0x00) ∧ t.key.pending =
      some { ring := fin 16 (fld (c.p 0) 0 4), role := BitVec.ofNat 3 (fld (c.p 0) 4 3), value := s.draw.1, at_ := s.now } ∧
      t = { s with key := t.key, fresh := s.fresh + 1 }) ∧
  (∀ (s : State) (c : Cmd), Ready s c 0x0B04 → throttled s = true → 2 ≤ fld (c.p 0) 4 3 → fld (c.p 0) 4 3 ≤ 5 →
    exec (.beginCredential c) s = .next (complete s c 0x0A)) ∧
  (∀ (s : State) (c : Cmd) (x : Challenge), Ready s c 0x0B05 → throttled s = false → s.key.pending = some x → x.ring = fin 16 (fld (c.p 0) 0 4) →
    s.now < x.at_ + 60000000000 → x.role = 5 → s.key.dbgKeys = false → ∃ t, t.key.pending = none ∧
    if ecdsaVerify (Config.romKey 0).1 (Config.romKey 0).2 (credentialDigest s x) (num256 s.key.response.toList) (num256 (s.key.response.toList.drop 32)) = true
    then exec (.proveCredential c) s = .next (complete t c 0x00) ∧ (t.ring (cmdRing x.ring)).cred = 5
    else exec (.proveCredential c) s = .next (complete t c 0x0A 1) ∧ t.key.credFail = true ∧ ∀ k, (t.ring k).cred = (s.ring k).cred) ∧
  (∀ (s : State) (c : Cmd), Ready s c 0x0B05 → throttled s = false → s.key.pending = none → ∃ t, exec (.proveCredential c) s =
    .next (complete t c 0x0A 3) ∧ t.key.credFail = true ∧ ∀ k, (t.ring k).cred = (s.ring k).cred) ∧
  (∀ (s : State) (c : Cmd) (k : Fin 16) (role : BitVec 3) (n : Nat) (u v : State), Ready s c 0x0B05 → k = fin 16 (fld (c.p 0) 0 4) →
    role = (s.key.pending.map (·.role)).getD 0 → credentialResult s k = (n, u) → v = postDev (countFail
      { u with key := { u.key with pending := none, credFail := u.key.credFail || n != 0 } } n) 0x0B02 (p8 k.val ++ p8 role.toNat ++ p8 n) (some c) →
    (n = 0 → exec (.proveCredential c) s = .next (complete (v.onRing (cmdRing k) fun x => { x with cred := role }) c 0x00)) ∧
    (n ≠ 0 → role ≠ 4 → exec (.proveCredential c) s = .next (complete v c 0x0A (BitVec.ofNat 32 n))) ∧
    (n ≠ 0 → role = 4 → exec (.proveCredential c) s = .next (complete (tamper v 8 k.val none) c 0x0A (BitVec.ofNat 32 n)))) ∧
  (∀ (s : State) (x : Challenge), s.key.pending = some x → s.clocksRun = true → ∃ t, exec .challengeExpiry s = .next t ∧ t.key.pending = none ∧
    x.at_ + 60000000000 ≤ t.now) ∧
  (∀ s : State, s.key.pending = none → exec .challengeExpiry s = .next s) ∧
  (∀ s : State, s.clocksRun = true → s.key.rngOk = true → s.tie.role ≠ .standby → ∃ t u, exec .randomSourceFault s = .next t ∧ t.key.rngOk = false ∧
    t.key.rngFault = true ∧ t.key.rngFailAt = some s.now ∧ Posted u t 0x0B03 none (p8 0)) ∧
  (∀ (s : State) (a : Nat), s.clocksRun = true → s.key.rngOk = false → s.key.rngFailAt = some a → s.tie.role ≠ .standby →
    ∃ t u, exec .randomSourceRestored s = .next t ∧ t.key.rngOk = true ∧ t.key.rngFailAt = none ∧ Posted u t 0x0B03 none (p8 1)) ∧
  (∀ (s : State) (c : Cmd) (f : State → State) (a : Nat), s.key.rngOk = false → s.key.rngFailAt = some a → s.now < a + 10000000 →
    withRandom c s f = s)

/-- R90, R91, R94, R96, R98, R239, R339, completing trainingSetReceived, echoReceived, linkFault, uplinkFrameReceived, laneSilent and
linkRestored: a lane trains by the sets it receives and sends, a link fault takes it down, a frame that fails a check is counted and the
sixteenth that fails its CRC in a millisecond takes the lane down, a good one brings STATUS from its characters 111 to 126, a lane silent
for 20 ms is marked, and a link is restored 100 ms after the last missing frame. -/
def Obligations.LaneLink : Prop :=
  (∀ (s : State) (l : Fin 128), s.clocksRun = true → (s.lane l).trainStep = 1 → (s.lane l).link = .down → (s.saf1 l).lastWord.toNat &&& 7 = 0 →
    ∃ t m, exec (.trainingSetReceived l false) s = .next t ∧ t.out = .setWord l 1 :: m ∧
    (t.lane l).trainStep = 2 ∧ (t.lane l).link = .train ∧ ∀ k, k ≠ l → t.lane k = s.lane k) ∧
  (∀ (s : State) (l : Fin 128), s.clocksRun = true → (s.lane l).trainStep = 2 → (s.lane l).link = .train →
    exec (.trainingSetReceived l true) s = .next ((s.onLane l fun y => { y with trainStep := 3 }).send (.setWord l 2))) ∧
  (∀ (s : State) (l : Fin 128) (rtt : Nat), s.clocksRun = true → (s.lane l).trainStep = 3 → (s.lane l).link = .train →
    ∃ t, exec (.echoReceived l rtt) s = .next t ∧ (t.lane l).trainStep = 4 ∧ (t.lane l).link = .idle ∧
      (rtt < 4096 → (t.lane l).rtt = rtt) ∧ ∀ k, k ≠ l → t.lane k = s.lane k) ∧
  (∀ (s : State) (l : Fin 128) (cause : Fin 4), s.clocksRun = true → (s.lane l).link ≠ .down → ∃ t, exec (.linkFault l cause) s = .next t ∧
    (t.lane l).link = .down ∧ (t.lane l).trainStep = (if (s.lane l).en then 1 else 0) ∧ (t.lane l).attach = .none ∧
      ∀ k, k ≠ l → t.lane k = s.lane k) ∧
  (∀ (l : List (BitVec 8)) (eof violation : Bool), frameGood l eof violation = true ↔ l.length = 198 ∧
    (crc32 (l.take 194)).toNat = ofBytes ((l.drop 194).take 4) ∧ eof = true ∧ violation = false) ∧
  (∀ (s : State) (l : Fin 128) (f : List (BitVec 8)) (eof violation : Bool), s.clocksRun = true → (s.lane l).link ≠ .down →
    (s.lane l).link ≠ .train → frameGood f eof violation = false →
    crcGood f = true ∨ ((s.lane l).crcFails.filter fun t => decide (s.now < t + 1000000)).length < 15 →
    ∃ t, exec (.uplinkFrameReceived l f eof violation) s = .next t ∧ (t.lane l).crcErr = (s.lane l).crcErr + 1 ∧
      (t.lane l).status = (s.lane l).status ∧ ∀ k, k ≠ l → t.lane k = s.lane k) ∧
  (∀ (s : State) (l : Fin 128) (f : List (BitVec 8)) (eof violation : Bool), s.clocksRun = true → (s.lane l).link ≠ .down →
    (s.lane l).link ≠ .train → crcGood f = false → 15 ≤ ((s.lane l).crcFails.filter fun t => decide (s.now < t + 1000000)).length →
    ∃ t, exec (.uplinkFrameReceived l f eof violation) s = .next t ∧ (t.lane l).link = .down ∧ ∀ k, k ≠ l → t.lane k = s.lane k) ∧
  (∀ (s : State) (l : Fin 128) (f : List (BitVec 8)), s.clocksRun = true → (s.lane l).link ≠ .down → (s.lane l).link ≠ .train →
    frameGood f true false = true →
    ∃ t, exec (.uplinkFrameReceived l f true false) s = .next t ∧ (t.lane l).status = statusOf ((f.drop 110).take 16)) ∧
  (∀ (s : State) (l : Fin 128), s.clocksRun = true → (s.lane l).link.measured = true → (s.met1 l).silent = false → s.tie.role ≠ .standby →
    ∃ t, exec (.laneSilent l) s = .next t ∧ (t.met1 l).silent = true ∧ t.enr.silentAny = true ∧
      (s.lane l).lastFrameAt + 20000000 ≤ t.now ∧ Posted s t 0x0517 (some l) (p8 0 ++ p32 0)) ∧
  (∀ (s : State) (o : Fin 128), s.clocksRun = true → (s.saf1 o).measLost = true → exec (.linkRestored o) s =
    .next (evalPermit ((s.toTick ((s.lane o).lastMissAt + 100 * msNs)).onSaf o fun x => { x with measLost := false }) o))

/-- R105 to R109, R113, completing helloReceived, proofReceived, paramAckReceived, attachHoldoffEnd and mailboxRepeat: HELLO of a known
major version draws a challenge under the next epoch of the outlet, which is recorded; one of another version is refused; a right proof
confirms and sends PARAM; the echoed PARAM brings the lane of an active device to UP; a lane in whose mailbox no such message stands does
nothing; an unanswered message is repeated, and after eight repeats the attach is abandoned. -/
def Obligations.AttachSteps : Prop :=
  (∀ (s : State) (l : Fin 128) (m : List (BitVec 8)), s.glb.phase = .running →
    (s.lane l).stopped = false → (s.lane l).link = .idle → (s.lane l).holdoffUntil = none → (s.lane l).mbRx = some ⟨1, m⟩ → 27 ≤ m.length →
    m.getD 9 0 = 1 → (s.keySlot 0).state = .valid → s.key.dbgKeys = false → s.key.rngOk = true → ∃ t, exec (.helloReceived l) s = .next t ∧
      (t.lane l).link = .attach ∧ (t.lane l).attach = .challenged ∧ (t.lane l).nf = BitVec.ofNat 128 (ofBytes ((m.drop 11).take 16)) ∧
      (t.lane l).serial = BitVec.ofNat 64 (ofBytes (m.take 8)) ∧ (t.lane l).lanesPresent = m.getD 10 0 ∧
      (t.lane l).offered = vget s.keep.epochs l + 1 ∧ vget t.keep.epochs l = vget s.keep.epochs l + 1 ∧
      (t.lane l).mbOut = (s.lane l).mbOut ++ msgSlots ⟨2, leBytes 16 (t.lane l).nd.toNat ++ leBytes 4 (t.lane l).offered.toNat⟩ ∧
      ∀ k, k ≠ l → t.lane k = s.lane k) ∧
  (∀ (s : State) (l : Fin 128) (m : List (BitVec 8)), s.glb.phase = .running →
    (s.lane l).stopped = false → (s.lane l).link = .idle → (s.lane l).holdoffUntil = none → (s.lane l).mbRx = some ⟨1, m⟩ → 27 ≤ m.length →
    m.getD 9 0 ≠ 1 → ∃ t, exec (.helloReceived l) s = .next t ∧ (t.lane l).link = .idle ∧ (t.lane l).attach = .none ∧
      (t.lane l).attachFail = true ∧ t.keep.epochs = s.keep.epochs ∧ ∀ k, k ≠ l → t.lane k = s.lane k) ∧
  (∀ (s : State) (l : Fin 128) (m : List (BitVec 8)), s.glb.phase = .running → (s.lane l).attach = .challenged →
    (s.lane l).mbRx = some ⟨3, m⟩ → (s.keySlot 0).state = .valid → (s.keySlot 0).soundA = true → (s.keySlot 0).soundB = true →
    s.key.dbgKeys = false →
    BitVec.ofNat 64 (ofBytes (m.take 8)) = attachMac (sessionKey (block128 (s.keySlot 0).mat.words) (s.lane l) s.portNo) 1 (s.lane l) →
    ∃ t, exec (.proofReceived l) s = .next t ∧ (t.lane l).attach = .confirmed ∧
      (t.lane l).ks = sessionKey (block128 (s.keySlot 0).mat.words) (s.lane l) s.portNo ∧ (t.lane l).paramWd = (paramOf s l).1 ∧
      (t.lane l).paramOpen = (paramOf s l).2 ∧ ∀ k, k ≠ l → t.lane k = s.lane k) ∧
  (∀ (s : State) (l : Fin 128) (m : List (BitVec 8)), s.glb.phase = .running → (s.lane l).attach = .confirmed →
    (s.lane l).mbRx = some ⟨6, m⟩ → ofBytes (m.take 2) = (s.lane l).paramWd → ofBytes ((m.drop 2).take 2) = (s.lane l).paramOpen →
    s.tie.role = .alone → ∃ t, exec (.paramAckReceived l) s = .next t ∧ (t.lane l).link = .up) ∧
  (∀ (s : State) (l : Fin 128) (m : List (BitVec 8)), s.glb.phase = .running → (s.lane l).attach = .confirmed →
    (s.lane l).mbRx = some ⟨6, m⟩ → ofBytes (m.take 2) ≠ (s.lane l).paramWd ∨ ofBytes ((m.drop 2).take 2) ≠ (s.lane l).paramOpen →
    ∃ t, exec (.paramAckReceived l) s = .next t ∧ (t.lane l).link = .idle ∧ (t.lane l).attach = .none ∧ (t.lane l).attachFail = true) ∧
  (∀ (s : State) (l : Fin 128), (s.lane l).mbRx = none → exec (.helloReceived l) s = .next s ∧ exec (.proofReceived l) s = .next s ∧
    exec (.paramAckReceived l) s = .next s) ∧
  (∀ (s : State) (l : Fin 128) (a : Nat), s.clocksRun = true → (s.lane l).holdoffUntil = some a →
    exec (.attachHoldoffEnd l) s = .next ((s.toTick a).onLane l fun x => { x with holdoffUntil := none })) ∧
  (∀ (s : State) (l : Fin 128) (m : MbMsg), s.glb.phase = .running → (s.lane l).mbWait = some m → (s.lane l).mbRepeats < 8 →
    ∃ t, exec (.mailboxRepeat l) s = .next t ∧ (t.lane l).mbOut = (s.lane l).mbOut ++ msgSlots m ∧
      (t.lane l).mbRepeats = (s.lane l).mbRepeats + 1 ∧ (s.lane l).mbSentAt + 100000 ≤ t.now ∧ ∀ k, k ≠ l → t.lane k = s.lane k) ∧
  (∀ (s : State) (l : Fin 128) (m : MbMsg), s.glb.phase = .running → (s.lane l).mbWait = some m → 8 ≤ (s.lane l).mbRepeats →
    ∃ t, exec (.mailboxRepeat l) s = .next t ∧ (t.lane l).attach = .none ∧ (t.lane l).mbWait = none ∧ (t.lane l).link = .idle)

/-- R93, R94, R102, R105, completing downlinkFrame: in every state from IDLE on a frame leaves with the lane's frame number, which counts
on, with LISTEN outside UP and SLACK, with the oldest mailbox slot that waits and the CRC of its characters 1 to 194; a lane that is down,
in training or stopped sends none. -/
def Obligations.DownlinkFrames : Prop :=
  (∀ (s : State) (l : Fin 128) (d : BitVec 13), s.clocksRun = true → (s.lane l).stopped = false → (s.lane l).link ≠ .down →
    (s.lane l).link ≠ .train → ∃ t f, exec (.downlinkFrame l d) s = .next t ∧ Out.frame l f ∈ t.out ∧ f.frameNo = (s.lane l).downNo ∧
      (t.lane l).downNo = (s.lane l).downNo + 1 ∧ (f.listen = true ↔ (s.lane l).link ≠ .up ∧ (s.lane l).link ≠ .slack) ∧
      f.mbx = (s.lane l).mbOut.headD emptySlot ∧ f.crc = crc32 ((frameChars f).take 194)) ∧
  (∀ (s : State) (l : Fin 128) (d : BitVec 13), s.clocksRun = true → (s.lane l).stopped = true ∨ (s.lane l).link = .down ∨
    (s.lane l).link = .train → exec (.downlinkFrame l d) s = .next s)

/-- R48, R554, R555, R556, R558, R567, completing limitingChange, limitingExpiry, retrySpacingEnd, retryCountReset, bankUndervoltage,
thermalShutdown, channelCooled, setLoadChannels and clearLatch: when a load channel enters and leaves limiting, what an over-current
event, a thermal shutdown, the end of the spacing, a change of its bank's supply and one quiet second make of it, and what Set load
channels and Clear latch do to the channels of their mask and to no other. -/
def Obligations.LoadChannels : Prop :=
  (∀ (s : State) (k : Fin 32), s.clocksRun = true → (s.chan k).state = .on → ∃ t, exec (.limitingChange k true) s = .next t ∧
    (t.chan k).state = .limiting ∧ (t.chan k).timer = 0 ∧ (t.chan k).timerAt = s.now ∧ (t.chan k).count = (s.chan k).count ∧
    ∀ j, j ≠ k → t.chan j = s.chan j) ∧
  (∀ (s : State) (k : Fin 32), s.clocksRun = true → (s.chan k).state = .limiting → elapsed s k < (s.chan k).spacing * 1000000 →
    ∃ t, exec (.limitingChange k false) s = .next t ∧ (t.chan k).state = .on ∧ (t.chan k).count = (s.chan k).count ∧
      ∀ j, j ≠ k → t.chan j = s.chan j) ∧
  (∀ (s : State) (k : Fin 32), s.clocksRun = true → (s.chan k).state = .limiting → bankOk s k = true →
    (s.chan k).count < (s.chan k).retries → ∃ t, exec (.limitingExpiry k) s = .next t ∧ (t.chan k).state = .waiting ∧ (t.chan k).timer = 0 ∧
      (t.chan k).count = (s.chan k).count + 1 ∧ (t.chan k).events = (s.chan k).events + 1 ∧ (t.chan k).current = 0 ∧
      (s.chan k).timerAt + ((s.chan k).spacing * 1000000 - (s.chan k).timer) ≤ t.now ∧ ∀ j, j ≠ k → t.chan j = s.chan j) ∧
  (∀ (s : State) (k : Fin 32), s.clocksRun = true → (s.chan k).state = .limiting → bankOk s k = true →
    (s.chan k).retries ≤ (s.chan k).count → ∃ t, exec (.limitingExpiry k) s = .next t ∧ (t.chan k).state = .latched ∧ t.lsw.latchAny = true ∧
      (t.chan k).count = (s.chan k).count + 1 ∧ ∀ j, j ≠ k → t.chan j = s.chan j) ∧
  (∀ (s : State) (k : Fin 32), bankOk s k = false → exec (.limitingExpiry k) s = .next s ∧ exec (.retrySpacingEnd k) s = .next s) ∧
  (∀ (s : State) (k : Fin 32), s.clocksRun = true → (s.chan k).state = .waiting → bankOk s k = true →
    (s.chan k).count ≤ (s.chan k).retries → (s.chan k).demand = true → ∃ t, exec (.retrySpacingEnd k) s = .next t ∧
      (t.chan k).state = .on ∧ (t.chan k).count = (s.chan k).count ∧
      (s.chan k).timerAt + ((s.chan k).spacing * 1000000 - (s.chan k).timer) ≤ t.now ∧ ∀ j, j ≠ k → t.chan j = s.chan j) ∧
  (∀ (s : State) (k : Fin 32), s.clocksRun = true → (s.chan k).state = .thermalOff → bankOk s k = true → (s.chan k).cooled = false →
    ∃ t, exec (.retrySpacingEnd k) s = .next t ∧ t.lsw = s.lsw) ∧
  (∀ (s : State) (k : Fin 32), s.clocksRun = true → (s.chan k).state = .on → ∃ t, exec (.retryCountReset k) s = .next t ∧
    (t.chan k).count = 0 ∧ (t.chan k).state = .on ∧ (s.chan k).onSince + 1000000000 ≤ t.now ∧ ∀ j, j ≠ k → t.chan j = s.chan j) ∧
  (∀ (s : State) (b : Fin 4) (mv : Nat), s.clocksRun = true → ∃ t, exec (.bankUndervoltage b mv) s = .next t ∧
    t.glb.vbankOk.getLsbD b.val = decide (18000 ≤ mv) ∧ vget t.glb.vbank b = mv ∧
    ∀ k : Fin 32, (t.chan k).state = (s.chan k).state ∧ (t.chan k).count = (s.chan k).count ∧
      (k.val / 8 = b.val → s.glb.vbankOk.getLsbD b.val ≠ decide (18000 ≤ mv) → (t.chan k).timer = elapsed s k ∧ (t.chan k).timerAt = s.now) ∧
      (k.val / 8 = b.val → s.glb.vbankOk.getLsbD b.val = decide (18000 ≤ mv) → (t.chan k).timer = (s.chan k).timer) ∧
      (k.val / 8 = b.val → mv = 0 → (t.chan k).current = 0) ∧ (k.val / 8 ≠ b.val → t.chan k = s.chan k)) ∧
  (∀ (s : State) (b : Fin 4) (mv : Nat), s.clocksRun = false → exec (.bankUndervoltage b mv) s = .next (setBank s b mv)) ∧
  (∀ (s : State) (k : Fin 32) (x : BitVec 16), s.clocksRun = true → 15000 ≤ x.toInt → x.toInt < 17000 →
    ∃ t, exec (.thermalShutdown k x) s = .next t ∧ ((s.chan k).tj.toInt < 15000 → t.lsw.thermalWarn = true) ∧
      (t.chan k).state = (s.chan k).state ∧ (t.chan k).tj = x ∧ ∀ j, j ≠ k → t.chan j = s.chan j) ∧
  (∀ (s : State) (k : Fin 32) (x : BitVec 16), x.toInt < 15000 → exec (.thermalShutdown k x) s = .next s) ∧
  (∀ (s : State) (k : Fin 32) (x : BitVec 16), s.clocksRun = true → 17000 ≤ x.toInt →
    (s.chan k).state = .on ∨ (s.chan k).state = .limiting ∨ (s.chan k).state = .waiting →
    ∃ t, exec (.thermalShutdown k x) s = .next t ∧ t.lsw.shutdownAny = true ∧ (t.chan k).cooled = false ∧
      (t.chan k).count = (s.chan k).count + 1 ∧ ((s.chan k).count < (s.chan k).retries → (t.chan k).state = .thermalOff) ∧
      ((s.chan k).retries ≤ (s.chan k).count → (t.chan k).state = .latched) ∧ ∀ j, j ≠ k → t.chan j = s.chan j) ∧
  (∀ (s : State) (k : Fin 32), s.clocksRun = true → (s.chan k).cooled = false → (s.chan k).state ≠ .thermalOff →
    ∃ t, exec (.channelCooled k) s = .next t ∧ (t.chan k).cooled = true ∧ (t.chan k).tj.toNat < 15000 ∧ (t.chan k).state = (s.chan k).state ∧
      ∀ j, j ≠ k → t.chan j = s.chan j) ∧
  (∀ (s : State) (c : Cmd), Ready s c 0x0C00 → ∃ t res, exec (.setLoadChannels c) s = .next (complete t c 0x00 res) ∧
    ∀ k : Fin 32, (bit (c.p 0) k.val = false → t.chan k = s.chan k) ∧
      (bit (c.p 0) k.val = true → (t.chan k).cmd = bit (c.p 1) k.val ∧ (t.chan k).fsOn = ((s.chan k).fsOn && (vget s.lsw.sources 0).expired) ∧
        ((s.chan k).fsOn = false → bit (c.p 1) k.val = false → (t.chan k).count = 0 ∧ (t.chan k).state ≠ .on ∧ (t.chan k).state ≠ .limiting) ∧
        ((s.chan k).fsOn = false → bit (c.p 1) k.val = true → (s.chan k).state = .off → (t.chan k).state = .on))) ∧
  (∀ (s : State) (c : Cmd), Ready s c 0x0C01 → ∃ t res, exec (.clearLatch c) s = .next (complete t c 0x00 res) ∧
    ∀ k : Fin 32, (bit (c.p 0) k.val = false ∨ (s.chan k).state ≠ .latched → t.chan k = s.chan k ∧ res.getLsbD k.val = false) ∧
      (bit (c.p 0) k.val = true → (s.chan k).state = .latched → (t.chan k).count = 0 ∧ (t.chan k).state ≠ .latched ∧
        res.getLsbD k.val = true))

/-- R557, R558, R560, R563, R564, R567, completing displayUpdate, blink, crackPulse, setLegalView, writeOperatorArea, redraw,
watchdogExpiry and watchdogRestored: the update of a common runs to the end of its waveform and shows its part of the target, or is light
in a full clear; a blink reverses the marked operator segments; two missed pulses in a row break the crack loop and ten returned ones
restore it; the display commands wait for their update, and are refused as their table says; the expiry of a refresh source is reported
and, for the service source, puts every channel into its fail-safe state, and its return is reported. -/
def Obligations.DisplayAndWatchdog : Prop :=
  (∀ (s : State) (k : Fin 4), drives s = true → s.epd.common = some k → exec .displayUpdate s = .next (continueUpdate (commonDone
    (s.toTick (s.epd.commonAt + ((s.epd.waves[s.epd.band.toNat]?).getD ⟨0, []⟩).total)) k))) ∧
  (∀ s : State, drives s = true → s.epd.common = none → exec .displayUpdate s = .next (startUpdate s)) ∧
  (∀ s : State, drives s = false → exec .displayUpdate s = .next s ∧ exec .blink s = .next s) ∧
  (∀ (s : State) (k : Fin 4) (i : Nat), i < 384 → (commonMask k).getLsbD i = true →
    (s.epd.clearLeft ≠ 0 → (commonDone s k).epd.image.getLsbD i = false) ∧
    (s.epd.clearLeft = 0 → (legalMask s).getLsbD i = s.epd.legalPart →
      (commonDone s k).epd.image.getLsbD i = s.epd.target.getLsbD i) ∧
    (s.epd.clearLeft = 0 → (legalMask s).getLsbD i ≠ s.epd.legalPart →
      (commonDone s k).epd.image.getLsbD i = s.epd.image.getLsbD i)) ∧
  (∀ (s : State) (k : Fin 4) (i : Nat), i < 384 → (commonMask k).getLsbD i = false →
    (commonDone s k).epd.image.getLsbD i = s.epd.image.getLsbD i) ∧
  (∀ s : State, nextCommon s = none → ∃ t, continueUpdate s = t ∧ t.epd.busy = false ∧ t.epd.waitCmds = [] ∧ t.epd.journal.complete = true ∧
    t.epd.journal.valid = true ∧ t.epd.journal.target = s.epd.image ∧ t.epd.image = s.epd.image) ∧
  (∀ s : State, drives s = true → s.epd.blink ≠ 0 → s.epd.busy = true → ∃ t, exec .blink s = .next t ∧
    t.epd.target = s.epd.target ^^^ (s.epd.blink &&& ~~~legalMask s) ∧ t.epd.blinkPhase = !s.epd.blinkPhase ∧ t.epd.blinkAt = t.now ∧
    s.epd.blinkAt + s.epd.blinkT * 1000000000 ≤ t.now) ∧
  (∀ s : State, s.glb.phase = .running → s.epd.crack = false → s.epd.missedPulses = 1 → ∃ t, exec (.crackPulse false) s = .next t ∧
    t.epd.crack = true ∧ t.epd.crackSeen = true ∧ t.epd.gotPulses = 0 ∧ s.epd.pulseAt + 1000000000 ≤ t.now) ∧
  (∀ s : State, s.glb.phase = .running → s.epd.crack = true → s.epd.gotPulses = 9 → ∃ t, exec (.crackPulse true) s = .next t ∧
    t.epd.crack = false ∧ t.epd.crackSeen = s.epd.crackSeen ∧ t.epd.missedPulses = 0) ∧
  (∀ s : State, s.glb.phase = .running → s.epd.crack = false → ∃ t, exec (.crackPulse true) s = .next t ∧ t.epd.crack = false ∧
    t.epd.missedPulses = 0 ∧ t.epd.gotPulses = min 10 (s.epd.gotPulses + 1)) ∧
  (∀ (s : State) (c : Cmd) (o : Fin 128), Ready s c 0x0C03 → s.ofHandle (fld (c.p 0) 0 16) = some o →
    exec (.setLegalView c) s = .next (complete { s with epd := { s.epd with view := some o } } c 0x00)) ∧
  (∀ (s : State) (c : Cmd), Ready s c 0x0C03 → s.ofHandle (fld (c.p 0) 0 16) = none →
    exec (.setLegalView c) s = .next (complete s c 0x02)) ∧
  (∀ (s : State) (c : Cmd), Ready s c 0x0C02 → c.p2 0 % 32 = 0 → s.epd.enabled = true → s.epd.busy = true →
    ones ((operBlock c).2 &&& ~~~legalMask s) ≤ 32 → ∃ t, exec (.writeOperatorArea c) s = .next t ∧ InFlight t c ∧
      t.epd.operImage = (operBlock c).1 &&& ~~~legalMask s ∧ t.epd.blink = (operBlock c).2 &&& ~~~legalMask s ∧ t.epd.blinkPhase = false ∧
      t.epd.nextCmds = s.epd.nextCmds ++ [(c.ring, c.index)]) ∧
  (∀ (s : State) (c : Cmd), Ready s c 0x0C02 → c.p2 0 % 32 = 0 → s.epd.enabled = true → 32 < ones ((operBlock c).2 &&& ~~~legalMask s) →
    exec (.writeOperatorArea c) s = .next (complete s c 0x02)) ∧
  (∀ (s : State) (c : Cmd), Ready s c 0x0C02 → c.p2 0 % 32 = 0 → s.epd.enabled = false →
    exec (.writeOperatorArea c) s = .next (complete s c 0x0A)) ∧
  (∀ (s : State) (c : Cmd), Ready s c 0x0C04 → s.epd.enabled = false → exec (.redraw c) s = .next (complete s c 0x0A)) ∧
  (∀ (s : State) (c : Cmd), Ready s c 0x0C04 → s.epd.enabled = true → s.epd.busy = true → ∃ t, exec (.redraw c) s = .next t ∧ InFlight t c ∧
    t.epd.redrawDue = true ∧ t.epd.nextCmds = s.epd.nextCmds ++ [(c.ring, c.index)]) ∧
  (∀ (s : State) (src : Fin 3), src ≠ 0 → s.clocksRun = true → (vget s.lsw.sources src).expired = false → s.tie.role ≠ .standby →
    ∃ t u, exec (.watchdogExpiry src) s = .next t ∧ t.lsw.wdExpired = true ∧ (vget t.lsw.sources src).expired = true ∧ t.lsw.chans = s.lsw.chans ∧
      Posted u t 0x0C01 none (p8 src.val ++ p8 0)) ∧
  (∀ s : State, s.clocksRun = true → (vget s.lsw.sources 0).expired = false → ∃ t, exec (.watchdogExpiry 0) s = .next t ∧
    t.lsw.wdExpired = true ∧ (vget t.lsw.sources 0).expired = true ∧ ∀ k : Fin 32, (t.chan k).fsOn = true ∧
      (t.chan k).fsDemand = (if (s.chan k).failsafe = 1 then true else if (s.chan k).failsafe = 2 then (s.chan k).demand else false) ∧
      ((s.chan k).failsafe = 0 → (t.chan k).state ≠ .on ∧ (t.chan k).state ≠ .limiting)) ∧
  (∀ (s : State) (src : Fin 3), src ≠ 0 → s.clocksRun = true → (vget s.lsw.sources src).expired = true → s.tie.role ≠ .standby →
    ∃ t u, exec (.watchdogRestored src) s = .next t ∧ (vget t.lsw.sources src).expired = false ∧ t.lsw.chans = s.lsw.chans ∧
      (vget t.lsw.sources src).seq = (vget s.lsw.sources src).seq + 1 ∧ Posted u t 0x0C01 none (p8 src.val ++ p8 1))

/-- R173, R183 to R187, R192, completing read, transmit and abortPort: a Read waits for a packet, or takes the oldest one at once; a
Transmit is queued on its port; Abort port ends what is outstanding; a wrong length or port number is a bad parameter, and a port that
cannot serve, or the ninth Read of one, is refused by the port's state. That a CAN FD frame which the port's FD_EN and BRS_EN do not allow
is refused so is the model's choice (log 147). -/
def Obligations.PortCommands : Prop :=
  (∀ (s : State) (c : Cmd) (p : Fin 12), Ready s c 0x0C41 → Cmd.portNo c = some p → 16 ≤ fld (c.p 3) 0 16 → fld (c.p 3) 0 16 ≤ 4096 →
    (s.port p).reads.length < 8 → (s.poolQ (portRxQ p)).packets = [] → exec (.read c) s = .next ((started s c).onPort p fun x =>
      { x with reads := x.reads ++ [⟨c, fld (c.p 3) 0 16, BitVec.ofNat 64 (c.p2 1)⟩] })) ∧
  (∀ (s : State) (c : Cmd) (p : Fin 12) (k : Packet) (l : List Packet), Ready s c 0x0C41 → Cmd.portNo c = some p →
    16 ≤ fld (c.p 3) 0 16 → fld (c.p 3) 0 16 ≤ 4096 → (s.port p).reads = [] → (s.poolQ (portRxQ p)).packets = k :: l →
    s.glb.phase = .running → ∃ t, exec (.read c) s = .next t ∧
      Done t c 0x00 (readResult (min (fld (c.p 3) 0 16) k.bytes.length) (decide (fld (c.p 3) 0 16 < k.bytes.length)) k.gap) ∧
      (requestsOn s = true → Out.host (BitVec.ofNat 64 (c.p2 1)) (k.bytes.take (fld (c.p 3) 0 16)) ∈ t.out)) ∧
  (∀ (s : State) (c : Cmd) (p : Fin 12), Ready s c 0x0C41 → Cmd.portNo c = some p → 16 ≤ fld (c.p 3) 0 16 → fld (c.p 3) 0 16 ≤ 4096 →
    8 ≤ (s.port p).reads.length → exec (.read c) s = .next (complete s c 0x0A)) ∧
  (∀ (s : State) (c : Cmd), Ready s c 0x0C41 → Cmd.portNo c = none ∨ fld (c.p 3) 0 16 < 16 ∨ 4096 < fld (c.p 3) 0 16 →
    exec (.read c) s = .next (complete s c 0x02)) ∧
  (∀ (s : State) (c : Cmd) (p : Fin 12), Ready s c 0x0C40 → Cmd.portNo c = some p → txLengthOk p (fld (c.p 3) 0 16) c.data = true →
    portTakesTx s p = true → txKindOk s p c.data = true → (s.poolQ (portTxQ p)).paused = false → ∃ t, exec (.transmit c) s = .next t ∧
      ∃ x ∈ (t.port p).txs, x.cmd = c ∧ x.bytes = c.data.take (fld (c.p 3) 0 16)) ∧
  (∀ (s : State) (c : Cmd) (p : Fin 12), Ready s c 0x0C40 → Cmd.portNo c = some p → txLengthOk p (fld (c.p 3) 0 16) c.data = true →
    portTakesTx s p = true → txKindOk s p c.data = true → (s.poolQ (portTxQ p)).paused = true → exec (.transmit c) s = .next s) ∧
  (∀ (s : State) (c : Cmd) (p : Fin 12), Ready s c 0x0C40 → Cmd.portNo c = some p → txLengthOk p (fld (c.p 3) 0 16) c.data = true →
    portTakesTx s p = false ∨ txKindOk s p c.data = false → exec (.transmit c) s = .next (complete s c 0x0A)) ∧
  (∀ (s : State) (c : Cmd) (p : Fin 12), Ready s c 0x0C40 → Cmd.portNo c = some p → txLengthOk p (fld (c.p 3) 0 16) c.data = false →
    exec (.transmit c) s = .next (complete s c 0x02)) ∧
  (∀ (s : State) (c : Cmd), Ready s c 0x0C40 → Cmd.portNo c = none → exec (.transmit c) s = .next (complete s c 0x02)) ∧
  (∀ (s : State) (c : Cmd), Ready s c 0x0C42 → Cmd.portNo c = none → exec (.abortPort c) s = .next (complete s c 0x02)) ∧
  (∀ (s : State) (c : Cmd) (p : Fin 12), Ready s c 0x0C42 → Cmd.portNo c = some p → ∃ u, exec (.abortPort c) s = .next (complete u c 0x00) ∧
    (u.port p).reads = [] ∧ (u.port p).txs = []) ∧
  (∀ (s : State) (c : Cmd) (p : Fin 12), Ready s c 0x0C42 → Cmd.portNo c = some p → (s.port p).txs = [] →
    (s.poolQ (portTxQ p)).paused = false →
    exec (.abortPort c) s = .next (complete ((s.port p).reads.foldl (fun s r => complete s r.cmd 0x00 (pack [(18, 1)]))
      (s.onPort p fun y => { y with reads := [] })) c 0x00)) ∧
  (∀ (s : State) (c : Cmd) (p : Fin 12), Ready s c 0x0C42 → Cmd.portNo c = some p → (s.port p).reads = [] → (s.port p).txs = [] →
    (s.poolQ (portTxQ p)).paused = false → ∃ t, exec (.abortPort c) s = .next t ∧ Done t c 0x00 0)

/-- R184, R185, R188 to R191, completing transmitComplete, rs485PacketEnd, canFrameReceived, canBusOff, busOffRecovery and ctsChange: the
end of a Transmit completes its command; the characters of an enabled port arrive as packets, with an error flagged; a CAN FD port takes
the frames its filters pass, enters bus-off with its counters, and with AUTO_RECOVER rejoins; FB_CTS stops the transmitter and lets it go
on. -/
def Obligations.PortLines : Prop :=
  (∀ (s : State) (p : Fin 12) (x : FbTx) (l : List FbTx) (a : Nat), (s.port p).txs = x :: l → x.runAt = some a → InFlight s x.cmd →
    ∃ t, exec (.transmitComplete p) s = .next t ∧ Done t x.cmd 0x00 (txResult x.bytes.length 0) ∧ Out.serialTx p x.bytes ∈ t.out) ∧
  (∀ (s : State) (p : Fin 12), (∀ x ∈ (s.port p).txs, x.runAt = none) → exec (.transmitComplete p) s = .next s) ∧
  (∀ (s : State) (q : Fin 8) (bytes : List (BitVec 8)), (vget s.uarts q).en = true → s.glb.phase = .serviceReset → bytes ≠ [] →
    bytes.length ≤ (vget s.uarts q).maxPkt.toNat → (s.poolQ (portRxQ (uartPort q))).paused = false →
    (s.poolQ (portRxQ (uartPort q))).staging = [] → ∃ t, exec (.rs485PacketEnd q bytes 0 0) s = .next t ∧
      (t.poolQ (portRxQ (uartPort q))).packets = (s.poolQ (portRxQ (uartPort q))).packets ++
        [{ Packet.plain bytes s.tim.mains with gap := (s.port (uartPort q)).gapNext }] ∧ (t.port (uartPort q)).gapNext = false) ∧
  (∀ (s : State) (c : Fin 4) (w0 w1 : BitVec 32) (bytes : List (BitVec 8)), (vget s.cans c).en = false ∨ (vget s.cans c).state = .busOff →
    exec (.canFrameReceived c w0 w1 bytes) s = .next s) ∧
  (∀ (s : State) (c : Fin 4) (w0 w1 : BitVec 32) (bytes : List (BitVec 8)), (vget s.cans c).en = true → (vget s.cans c).state ≠ .busOff →
    (vget s.cans c).accepts w0 = false → s.glb.phase = .running ∨ s.glb.phase = .serviceReset → (bit w0 31 = true → (vget s.cans c).fdEn = true) →
    exec (.canFrameReceived c w0 w1 bytes) s = .next (s.onCan c Can.gotGood)) ∧
  (∀ (s : State) (c : Fin 4) (w0 w1 : BitVec 32) (bytes : List (BitVec 8)), (vget s.cans c).en = true → (vget s.cans c).state ≠ .busOff →
    (vget s.cans c).accepts w0 = true → s.glb.phase = .serviceReset → (bit w0 31 = true → (vget s.cans c).fdEn = true) →
    (s.poolQ (portRxQ (canPort c))).paused = false →
    (s.poolQ (portRxQ (canPort c))).staging = [] → ∃ t, exec (.canFrameReceived c w0 w1 bytes) s = .next t ∧
      (t.poolQ (portRxQ (canPort c))).packets = (s.poolQ (portRxQ (canPort c))).packets ++ [{ Packet.plain
        (leBytes 4 w0.toNat ++ leBytes 4 (w1 &&& 0x3F).toNat ++ p64 s.tim.mains ++ bytes.take (dlcBytes (bit w0 31) (w1.toNat % 16))) s.tim.mains with
        gap := (s.port (canPort c)).gapNext }]) ∧
  (∀ (s : State) (c : Fin 4) (tec rec : BitVec 8), (vget s.cans c).en = true →
    exec (.canBusOff c false tec rec) s = .next (lineError (s.onCan c fun x => { x with
      tec := tec, recErr := rec, state := .passive, passiveF := true }) (canPort c) 4)) ∧
  (∀ (s : State) (c : Fin 4) (tec rec : BitVec 8), (vget s.cans c).en = true →
    exec (.canBusOff c true tec rec) s = .next ((s.port (canPort c)).txs.foldl (fun s t => endTx s (canPort c) t 0 2)
      (lineError (s.onCan c fun x => { x with tec := tec, recErr := rec, state := .busOff, busOffF := true }) (canPort c) 5))) ∧
  (∀ (s : State) (c : Fin 4), (vget s.cans c).en = true → (vget s.cans c).state = .busOff → (vget s.cans c).autoRecover = true →
    exec (.busOffRecovery c) s = .next (runLine (lineError (s.onCan c fun x => { x with
      state := .active, tec := 0, recErr := 0 }) (canPort c) 6) (canPort c))) ∧
  (∀ (s : State) (q : Fin 8), exec (.ctsChange q true) s = .next (runLine (s.onUart q fun u => { u with cts := true }) (uartPort q))) ∧
  (∀ (s : State) (q : Fin 8) (x : FbTx) (l : List FbTx), (vget s.uarts q).ctsEn = true → (s.port (uartPort q)).txs = x :: l →
    x.runAt.isSome = true → ∃ t y m, exec (.ctsChange q false) s = .next t ∧ (t.port (uartPort q)).txs = y :: m ∧
      if sentBy s (uartPort q) x < x.bytes.length then y = { x with sent := sentBy s (uartPort q) x, runAt := none } else y = x) ∧
  (∀ (s : State) (q : Fin 8), (vget s.uarts q).ctsEn = false → exec (.ctsChange q false) s = .next (s.onUart q fun u => { u with cts := false }))

/-- R588, R590, R591, R605, completing writeImageBlock, verifyImage and readSlots: an image block is written only into a slot that takes
one, which then is WRITING and holds the block's bytes, every other byte as before; a verified slot is STORED or BAD by its checks, and an
image below its floor, or a configuration that is not above CFG_HIGHEST, is never STORED; Read slots gives the state of the ten slots in
target order. -/
def Obligations.ImageSlots : Prop :=
  (∀ (s : State) (c : Cmd), Ready s c 0x0E00 → (c.p 1).toNat % 256 ≠ 0 ∨ c.p2 2 % 256 ≠ 0 ∨ (c.p 4).toNat % 256 ≠ 0 ∨ (c.p 4).toNat < 256 ∨
    65536 < (c.p 4).toNat ∨ imageRoom (fld (c.p 0) 0 2) < (c.p 1).toNat + (c.p 4).toNat → exec (.writeImageBlock c) s = .next (complete s c 0x02)) ∧
  (∀ (s : State) (c : Cmd) (k : Fin 3) (b : Fin 2), Ready s c 0x0E00 → (c.p 1).toNat % 256 = 0 → c.p2 2 % 256 = 0 → (c.p 4).toNat % 256 = 0 →
    256 ≤ (c.p 4).toNat → (c.p 4).toNat ≤ 65536 → (c.p 1).toNat + (c.p 4).toNat ≤ imageRoom k.val → fld (c.p 0) 0 2 = k.val → s.fwFree k = some b →
    Memory.wf (s.fwSlot k b).bytes = true → ∃ t, exec (.writeImageBlock c) s = .next (complete t c 0x00) ∧ (t.fwSlot k b).state = .writing ∧
      (∀ i, i < (c.p 4).toNat → Memory.get (t.fwSlot k b).bytes ((c.p 1).toNat + i) = c.data.getD i 0) ∧
      (∀ x, x < (c.p 1).toNat ∨ (c.p 1).toNat + (c.p 4).toNat ≤ x → Memory.get (t.fwSlot k b).bytes x =
        if (s.fwSlot k b).state = .writing then Memory.get (s.fwSlot k b).bytes x else Memory.blank) ∧
      ∀ j a, ¬(j = k ∧ a = b) → t.fwSlot j a = s.fwSlot j a) ∧
  (∀ (s : State) (c : Cmd) (k : Fin 3), Ready s c 0x0E00 → (c.p 1).toNat % 256 = 0 → c.p2 2 % 256 = 0 → (c.p 4).toNat % 256 = 0 →
    256 ≤ (c.p 4).toNat → (c.p 4).toNat ≤ 65536 → (c.p 1).toNat + (c.p 4).toNat ≤ imageRoom k.val → fld (c.p 0) 0 2 = k.val → s.fwFree k = none →
    exec (.writeImageBlock c) s = .next (complete s c 0x0A)) ∧
  (∀ (s : State) (k : Fin 3) (b : Fin 2), s.fwFree k = some b → (s.fwSlot k b).state.writable = true) ∧
  (∀ (s : State) (c : Cmd) (k : Fin 4), Ready s c 0x0E00 → (c.p 1).toNat % 256 = 0 → c.p2 2 % 256 = 0 → (c.p 4).toNat % 256 = 0 →
    256 ≤ (c.p 4).toNat → (c.p 4).toNat ≤ 65536 → (c.p 1).toNat + (c.p 4).toNat ≤ imageRoom 3 → fld (c.p 0) 0 2 = 3 → fld (c.p 0) 2 2 = k.val →
    Memory.wf (s.cfgSlot k).bytes = true → ((s.cfgSlot k).state.writable = false → exec (.writeImageBlock c) s = .next (complete s c 0x0A)) ∧
    ((s.cfgSlot k).state.writable = true → ∃ t, exec (.writeImageBlock c) s = .next (complete t c 0x00) ∧ (t.cfgSlot k).state = .writing ∧
      (∀ i, i < (c.p 4).toNat → Memory.get (t.cfgSlot k).bytes ((c.p 1).toNat + i) = c.data.getD i 0) ∧
      (∀ x, x < (c.p 1).toNat ∨ (c.p 1).toNat + (c.p 4).toNat ≤ x → Memory.get (t.cfgSlot k).bytes x =
        if (s.cfgSlot k).state = .writing then Memory.get (s.cfgSlot k).bytes x else Memory.blank) ∧
      ∀ j, j ≠ k → t.cfgSlot j = s.cfgSlot j)) ∧
  (∀ (s : State) (c : Cmd) (k : Fin 3), Ready s c 0x0E01 → fld (c.p 0) 0 2 = k.val → s.fwWritten k = none →
    exec (.verifyImage c) s = .next (complete s c 0x0A)) ∧
  (∀ (s : State) (c : Cmd) (k : Fin 3) (b : Fin 2), Ready s c 0x0E01 → fld (c.p 0) 0 2 = k.val → s.fwWritten k = some b → ∃ t q,
    exec (.verifyImage c) s = .next (complete t c (if q = 0 then 0x00 else 0x0A) (imgVersion (s.fwSlot k b).bytes)) ∧
    (t.fwSlot k b).state = (if q = 0 then .stored else .bad) ∧ (t.fwSlot k b).version = imgVersion (s.fwSlot k b).bytes ∧
    (t.fwSlot k b).bytes = (s.fwSlot k b).bytes ∧ (q ≠ 0 → t.upd.verifyFail = true) ∧
    (headerCause k.val (s.fwSlot k b).bytes ≠ 0 → q = headerCause k.val (s.fwSlot k b).bytes) ∧
    ((imgVersion (s.fwSlot k b).bytes).toNat < (vget s.upd.floors k).toNat → q ≠ 0)) ∧
  (∀ (s : State) (c : Cmd) (k : Fin 4), Ready s c 0x0E01 → fld (c.p 0) 0 2 = 3 → fld (c.p 0) 2 2 = k.val →
    (s.cfgSlot k).state = .empty ∨ (s.cfgSlot k).state.writable = false → exec (.verifyImage c) s = .next (complete s c 0x0A)) ∧
  (∀ (s : State) (c : Cmd) (k : Fin 4), Ready s c 0x0E01 → fld (c.p 0) 0 2 = 3 → fld (c.p 0) 2 2 = k.val →
    (s.cfgSlot k).state = .writing ∨ (s.cfgSlot k).state = .stored ∨ (s.cfgSlot k).state = .bad → ∃ t q,
    exec (.verifyImage c) s = .next (complete t c (if q = 0 then 0x00 else 0x0A) (imgVersion (s.cfgSlot k).bytes)) ∧
    (t.cfgSlot k).state = (if q = 0 then .stored else .bad) ∧ (t.cfgSlot k).version = imgVersion (s.cfgSlot k).bytes ∧
    (headerCause 3 (s.cfgSlot k).bytes ≠ 0 → q = headerCause 3 (s.cfgSlot k).bytes) ∧
    ((imgVersion (s.cfgSlot k).bytes).toNat ≤ s.upd.cfgHighest.toNat → q ≠ 0)) ∧
  (∀ (s : State) (c : Cmd), Ready s c 0x0E0A → exec (.readSlots c) s = .next (complete s c 0x00 (pack
    [(0, (s.fwSlot 0 0).state.code), (3, (s.fwSlot 0 1).state.code), (6, (s.fwSlot 1 0).state.code), (9, (s.fwSlot 1 1).state.code),
     (12, (s.fwSlot 2 0).state.code), (15, (s.fwSlot 2 1).state.code), (18, (s.cfgSlot 0).state.code), (21, (s.cfgSlot 1).state.code),
     (24, (s.cfgSlot 2).state.code), (27, (s.cfgSlot 3).state.code)])))

/-- R591, R592, R593, R594, R595, R597, R598, R599, R603, R605, completing activateFirmware, confirmFirmware, revertFirmware,
trialConfirmed, fallBack, enterRecovery, dominoSend and dominoRetry: a firmware activation needs a STORED slot at or above its floor and
no pending configuration; the application's starts a trial and a service reset, an island's waits for the commit mark; a confirmed trial
becomes ACTIVE and raises the floor; a trial falls back to PREVIOUS, and Revert firmware does so by hand; recovery keeps three rings; a
domino transfer goes on after 60 s. That a device that is JOINING takes no activation of the application is the model's choice (log 85).
-/
def Obligations.FirmwareActivation : Prop :=
  (∀ (s : State) (c : Cmd), fld (c.p 0) 0 2 = 3 → (Ready s c 0x0E02 → exec (.activateFirmware c) s = .next (complete s c 0x02)) ∧
    (Ready s c 0x0E03 → exec (.confirmFirmware c) s = .next (complete s c 0x02)) ∧ (Ready s c 0x0E04 → exec (.revertFirmware c) s = .next (complete s c 0x02)) ∧
    (Ready s c 0x0E08 → exec (.dominoSend c) s = .next (complete s c 0x02))) ∧
  (∀ (s : State) (c : Cmd) (k : Fin 3), Ready s c 0x0E02 → fld (c.p 0) 0 2 = k.val → s.fwIn k .stored = none ∨ s.upd.cfgPend.isSome = true ∨
    (∃ b, s.fwIn k .stored = some b ∧ (s.fwSlot k b).version.toNat < (vget s.upd.floors k).toNat) →
    exec (.activateFirmware c) s = .next (complete s c 0x0A)) ∧
  (∀ (s : State) (c : Cmd) (k : Fin 3) (b : Fin 2), Ready s c 0x0E02 → fld (c.p 0) 0 2 = k.val → s.fwIn k .stored = some b → s.upd.cfgPend = none →
    (vget s.upd.floors k).toNat ≤ (s.fwSlot k b).version.toNat → k ≠ 0 → ((vget s.upd.switchDue k).isSome = true ∨ (k = 2 ∧ allSto s = false) →
      exec (.activateFirmware c) s = .next (complete s c 0x0A)) ∧ (vget s.upd.switchDue k = none → (k = 2 → allSto s = true) → ∃ t,
      exec (.activateFirmware c) s = .next t ∧ InFlight t c ∧ vget t.upd.switchDue k = some ⟨none, some (c.ring, c.index)⟩ ∧
      t.upd.fw = s.upd.fw)) ∧
  (∀ (s : State) (c : Cmd) (b : Fin 2), Ready s c 0x0E02 → fld (c.p 0) 0 2 = 0 → s.fwIn 0 .stored = some b → s.upd.cfgPend = none →
    (vget s.upd.floors 0).toNat ≤ (s.fwSlot 0 b).version.toNat → (formatOk s (s.fwSlot 0 b).bytes = false →
      exec (.activateFirmware c) s = .next (complete s c 0x0A)) ∧ (formatOk s (s.fwSlot 0 b).bytes = true → bit (c.p 0) 8 = false →
      (s.tie.role = .active → exec (.activateFirmware c) s = .next (complete s c 0x09)) ∧
      (s.tie.role = .joining → exec (.activateFirmware c) s = .next (complete s c 0x0A)) ∧
      (s.tie.role = .alone ∨ s.tie.role = .standby → ∃ t, exec (.activateFirmware c) s = .next t ∧ t.glb.phase = .serviceReset ∧ (t.fwSlot 0 b).state = .trial ∧
        t.trial 0 = some ⟨b, s.now, false, 0, false, 0⟩ ∧ ∀ a, s.fwIn 0 .active = some a → (t.fwSlot 0 a).state = .previous)) ∧
    (formatOk s (s.fwSlot 0 b).bytes = true → bit (c.p 0) 8 = true → (handsFirst s = false ∨ s.upd.pairFw.isSome = true →
      exec (.activateFirmware c) s = .next (complete s c 0x0A)) ∧ (handsFirst s = true → s.upd.pairFw = none →
      (s.fwSlot 0 b).version.toNat / 2 ^ 24 = fwMajorOf s → ∃ t l, exec (.activateFirmware c) s = .next t ∧ InFlight t c ∧
        t.upd.pairFw = some ⟨1, c.ring, c.index, c.tag⟩ ∧ t.out = .tie 3 .fwActivate :: l))) ∧
  (∀ (s : State) (c : Cmd) (k : Fin 3), Ready s c 0x0E03 → fld (c.p 0) 0 2 = k.val → (s.trial k = none → exec (.confirmFirmware c) s =
    .next (complete s c 0x0A)) ∧ ∀ x, s.trial k = some x → ∃ t, exec (.confirmFirmware c) s = .next (complete t c 0x00) ∧
      t.trial k = some { x with hostOk := true } ∧ ∀ j, j ≠ k → t.trial j = s.trial j) ∧
  (∀ (s : State) (c : Cmd) (k : Fin 3), Ready s c 0x0E04 → fld (c.p 0) 0 2 = k.val → s.fwIn k .active = none ∨ s.fwIn k .previous = none ∨
    (vget s.upd.switchDue k).isSome = true ∨ (k = 2 ∧ allSto s = false) ∨ (∃ p, s.fwIn k .previous = some p ∧ (s.fwSlot k p).version.toNat < (vget s.upd.floors k).toNat) →
    exec (.revertFirmware c) s = .next (complete s c 0x0A)) ∧
  (∀ (s : State) (c : Cmd) (k : Fin 3) (a p : Fin 2), Ready s c 0x0E04 → fld (c.p 0) 0 2 = k.val → s.fwIn k .active = some a → s.fwIn k .previous = some p →
    (vget s.upd.floors k).toNat ≤ (s.fwSlot k p).version.toNat → vget s.upd.switchDue k = none → (k = 2 → allSto s = true) →
    (k ≠ 0 ∨ handsFirst s = true → ∃ t, exec (.revertFirmware c) s = .next t ∧ InFlight t c ∧
      vget t.upd.switchDue k = some ⟨some 4, some (c.ring, c.index)⟩ ∧ t.upd.fw = s.upd.fw ∧ (k = 0 → t.tie.handing = true)) ∧
    (k = 0 → handsFirst s = false → ∃ t, exec (.revertFirmware c) s = .next t ∧ t.glb.phase = .serviceReset ∧
      (t.fwSlot 0 a).state = .previous ∧ (t.fwSlot 0 p).state = .active)) ∧
  (∀ (s : State) (k : Fin 3), s.trial k = none → exec (.trialConfirmed k) s = .next s ∧ ∀ f, exec (.fallBack k f) s = .next s) ∧
  (∀ (s : State) (k : Fin 3) (x : Trial), s.trial k = some x → trialMet s k x = false → exec (.trialConfirmed k) s = .next s) ∧
  (∀ (s : State) (k : Fin 3) (x : Trial), s.trial k = some x → s.clocksRun = true → trialMet s k x = true → exec (.fallBack k true) s = .next s ∧
    ∃ t, exec (.trialConfirmed k) s = .next t ∧ (t.fwSlot k x.slot).state = .active ∧ t.trial k = none ∧
      vget t.upd.floors k = (if bit (Memory.word (s.fwSlot k x.slot).bytes 12) 2 then (s.fwSlot k x.slot).version else vget s.upd.floors k) ∧
      x.startAt + s.cfg.confirmT * 1000000000 ≤ t.now) ∧
  (∀ (s : State) (k : Fin 3) (x : Trial) (f : Bool), s.trial k = some x → s.clocksRun = true → k ≠ 0 ∨ handsFirst s = true →
    f = false ∨ trialMet s k x = false → ∃ t, exec (.fallBack k f) s = .next t ∧ vget t.upd.switchDue k = some ⟨some (b2n f), none⟩ ∧
      t.upd.fw = s.upd.fw ∧ (k = 0 → t.tie.handing = true) ∧ (f = true → x.startAt + s.cfg.confirmT * 1000000000 ≤ t.now)) ∧
  (∀ (s : State) (x : Trial) (f : Bool) (b p : Fin 2), s.trial 0 = some x → s.clocksRun = true → handsFirst s = false → f = false ∨ trialMet s 0 x = false →
    s.fwIn 0 .trial = some b → s.fwIn 0 .previous = some p → ∃ t, exec (.fallBack 0 f) s = .next t ∧ t.glb.phase = .serviceReset ∧
      (t.fwSlot 0 b).state = .bad ∧ (t.fwSlot 0 p).state = .active ∧ t.trial 0 = none ∧ t.upd.fellBack = true) ∧
  (∀ (s : State) (c : Cmd), Ready s c 0x0E09 → (handsFirst s = true → ∃ t, exec (.enterRecovery c) s = .next t ∧ t.tie.handing = true ∧
      t.upd.recoverDue = true ∧ t.upd.recovery = s.upd.recovery) ∧
    (handsFirst s = false → ∃ t, exec (.enterRecovery c) s = .next t ∧ t.upd.recovery = true ∧ (∀ l, (t.lane l).stopped = true) ∧
      ∀ r : Fin 57, r.val ≠ 0 → r.val ≠ 16 → r.val ≠ 32 → (t.ring r).en = false)) ∧
  (∀ (s : State) (c : Cmd) (k : Fin 3), Ready s c 0x0E08 → fld (c.p 0) 0 2 = k.val → (s.fwIn k .stored = none → exec (.dominoSend c) s =
    .next (complete s c 0x0A)) ∧ ∀ b, s.fwIn k .stored = some b → (s.upd.dominoNext = s.kit.nodeId → exec (.dominoSend c) s = .next (complete s c 0x00)) ∧
      (s.upd.dominoNext ≠ s.kit.nodeId → (s.node s.upd.dominoNext).neighbour = true → ∃ t n, exec (.dominoSend c) s = .next (complete t c 0x00) ∧
        t.upd.dominoTx = some ⟨k, (s.fwSlot k b).version, 0, n, none⟩ ∧ 1 ≤ n ∧ n ≤ 1006)) ∧
  (∀ s : State, s.upd.dominoTx = none → exec .dominoRetry s = .next s) ∧
  (∀ (s : State) (x : DominoTx) (a : Nat) (m : List Host.Cell), s.upd.dominoTx = some x → x.paused = some a → kiteSends s = true → dominoSource s x = some m →
    ((s.node s.upd.dominoNext).neighbour = true → ∃ t n, exec .dominoRetry s = .next t ∧ t.upd.dominoTx = some { x with piece := n, paused := none } ∧
      1 ≤ n ∧ n ≤ 1006) ∧
    ((s.node s.upd.dominoNext).neighbour = false → ∃ t b, exec .dominoRetry s = .next t ∧ a + 60000000000 ≤ b ∧
      t.upd.dominoTx = some { x with piece := 0, paused := some b } ∧ t.upd.dominoFail = true))

/-- R73, R75, R76, R601, R603, R604, R605, completing activateConfiguration, configurationActivation, confirmConfiguration,
revertConfiguration and automaticYoYo: a configuration is activated from a STORED slot whose image is accepted, at the mark of its cycle
count; a refused one changes no slot, and one for which no mark is free completes 0x05; marks that come before it fire first, and a mark
that is past fires at once; at the mark it becomes ACTIVE and the former ACTIVE PREVIOUS; a yo-yo returns to PREVIOUS under the revert
version, by command or after CFG_CONFIRM_T without a confirmation. -/
def Obligations.ConfigurationVersions : Prop :=
  (∀ (s : State) (c : Cmd) (k : Fin 4), Ready s c 0x0E05 → fld (c.p 0) 0 2 = k.val → (s.cfgSlot k).state ≠ .stored →
    exec (.activateConfiguration c) s = .next (fireLate .config (complete s c 0x0A))) ∧
  (∀ s : State, (∀ m ∈ s.tim.marks, m.owner = .config → m.late = false) → fireLate .config s = s) ∧
  (∀ (s : State) (c : Cmd) (k : Fin 4), Ready s c 0x0E05 → fld (c.p 0) 0 2 = k.val → (s.cfgSlot k).state = .stored → ∃ q t,
    q = configCause s (s.cfgSlot k).bytes (s.roleOf c) false ∧
    ((imgVersion (s.cfgSlot k).bytes).toNat ≤ s.upd.cfgHighest.toNat ∨ s.upd.cfgPend.isSome = true → q ≠ 0) ∧
    (parseConfig (imgBody (s.cfgSlot k).bytes) = none → q = 1) ∧
    if q ≠ 0 then exec (.activateConfiguration c) s = .next (fireLate .config (complete t c 0x0A)) ∧ t.upd.cfg = s.upd.cfg ∧ t.upd.cfgPend = s.upd.cfgPend
    else if s.markFree = false then exec (.activateConfiguration c) s =
      .next (fireLate .config (complete (refuseMark s .config) c 0x05))
    else ∃ m, m = (if c.p2 1 = 0 then boundaryAfter s else c.p2 1 * 65536) ∧
      exec (.activateConfiguration c) s = .next (fireLate .config (complete t c 0x00 (BitVec.ofNat 32 (m / 65536)))) ∧
      t.upd.cfgPend = some ⟨m, k, (s.cfgSlot k).version, 0, false, false⟩ ∧ (t.cfgSlot k).state = .pending ∧ (∀ j, j ≠ k → t.cfgSlot j = s.cfgSlot j) ∧
      ∃ l, t.tim.marks = s.tim.marks ++ [⟨.config, m, false, k.val, l⟩]) ∧
  (∀ s : State, boundaryAfter s % 65536 = 0 ∧ (s.tim.runMains 200000).mains ≤ boundaryAfter s ∧ boundaryAfter s < (s.tim.runMains 200000).mains + 65536) ∧
  (∀ (s : State) (c : Cmd), Ready s c 0x0E07 → (s.cfgIn .previous = none → exec (.revertConfiguration c) s = .next (complete s c 0x0A)) ∧
    ∀ k, s.cfgIn .previous = some k → (s.markFree = false → exec (.revertConfiguration c) s = .next (complete (refuseMark s .config) c 0x05)) ∧
      (s.markFree = true → ∃ t, if configCause s (s.cfgSlot k).bytes (s.roleOf c) true ≠ 0
        then exec (.revertConfiguration c) s = .next (complete t c 0x0A) ∧ t.upd.cfg = s.upd.cfg ∧ t.upd.cfgPend = s.upd.cfgPend
        else exec (.revertConfiguration c) s = .next (complete t c 0x00) ∧ t.upd.cfg = s.upd.cfg ∧
          t.upd.cfgPend = some ⟨boundaryAfter s, k, revertVersion s, (s.cfgSlot k).version, true, false⟩)) ∧
  (∀ (s : State) (c : Cmd), Ready s c 0x0E06 → (s.upd.awaiting = none → exec (.confirmConfiguration c) s = .next (complete s c 0x0A)) ∧
    (s.upd.awaiting ≠ none → ∃ t, exec (.confirmConfiguration c) s = .next (complete t c 0x00) ∧ t = { s with upd := { s.upd with awaiting := none } })) ∧
  (∀ s : State, s.upd.awaiting = none ∨ seqOn s = false → exec .automaticYoYo s = .next s) ∧
  (∀ (s : State) (a : Nat), s.upd.awaiting = some a → seqOn s = true → ∃ t, exec .automaticYoYo s = .next t ∧ t.upd.awaiting = none ∧
    t.upd.cfg = s.upd.cfg ∧ (s.cfgIn .previous = none → t.upd.cfgPend = s.upd.cfgPend) ∧
    ∀ k, s.cfgIn .previous = some k → (s.upd.cfgPend.isSome = true → t.upd.cfgPend = s.upd.cfgPend) ∧ ∀ p, s.upd.cfgPend = none →
      t.upd.cfgPend = some p → p.slot = k ∧ p.version = revertVersion s ∧ p.source = (s.cfgSlot k).version ∧ p.yoyo = true ∧ p.auto = true) ∧
  (∀ s : State, s.upd.cfgPend = none ∨ s.glb.phase ≠ .running → exec .configurationActivation s = .next s) ∧
  (∀ (s u : State) (p : CfgPend) (m : Mark), u = inOrder .config s → u.upd.cfgPend = some p → u.glb.phase = .running →
    u.tim.marks.find? (fun x => x.owner == .config) = some m → ∃ t, exec .configurationActivation s = .next t ∧ t.upd.cfgPend = none ∧
    if (parseConfig (imgBody (u.cfgSlot p.slot).bytes)).isNone = true then (t.cfgSlot p.slot).state = .bad
    else (t.cfgSlot p.slot).state = .active ∧ t.upd.cfgActive = p.version ∧ t.upd.cfgHighest = p.version ∧ t.upd.cfgRevert = p.source ∧
      (∀ k, k ≠ p.slot → (u.cfgSlot k).state = .active → (t.cfgSlot k).state = .previous) ∧
      (p.yoyo = true ∨ u.upd.cfgConfirmT = 0 → t.upd.awaiting = none))

/-- R434 to R437, R444, R449, R450, completing recordWrite, readRecords and takeSnapshot: a staged record is written to the next
circulating slot with the next generation number, and to the permanent area where its kind is permanent and a slot is free; operations
records wait out a service reset. Read records writes the slots asked for; Take snapshot stages its record and is refused by a full
staging. -/
def Obligations.RecorderWrites : Prop :=
  (∀ (s : State) (legal : Bool) (r : LogRec) (l : Log), s.clocksRun = true → legal = true ∨ s.glb.phase = .running → l = s.recd.log (!legal) →
    l.staging = [r] → l.lostCount = 0 → s.recd.snapCmds = [] → l.permA.length < permSlots (!legal) → ∃ t, exec (.recordWrite legal) s = .next t ∧
      t = { s with recd := t.recd } ∧ t.recd.log (!legal) = { l with
        staging := [], next := l.next + 1, circ := ({ r with gen := l.next, perm := false } :: l.circ).take (circSlots (!legal))
        permA := if r.perm || permKind (!legal) r.code.toNat r.payload then l.permA ++ [{ r with gen := l.next, perm := true }] else l.permA } ∧
      t.recd.log legal = s.recd.log legal) ∧
  (∀ (s : State), s.glb.phase ≠ .running → exec (.recordWrite false) s = .next s) ∧
  (∀ (s : State) (legal : Bool), (s.recd.log (!legal)).staging = [] → exec (.recordWrite legal) s = .next s) ∧
  (∀ (s : State) (c : Cmd) (ops : Bool) (n : Nat) (rs : List (Option LogRec)), Ready s c 0x0700 → ops = bit (c.p 0) 0 → n = fld (c.p 2) 0 5 →
    0 < n → n ≤ 16 → c.p2 3 % 256 = 0 →
    rs = (List.range n).map (fun i => if bit (c.p 0) 1 then (s.recd.log ops).permA[(c.p 1).toNat + i]?
      else (s.recd.log ops).circ[((s.recd.log ops).next - 1 - (c.p 1 + BitVec.ofNat 32 i)).toNat]?) → ∃ t, exec (.readRecords c) s = .next t ∧
      Done t c 0x00 (pack [(0, (rs.filter (·.isSome)).length), (16, n - (rs.filter (·.isSome)).length)]) ∧
      (requestsOn s = true → Out.host (BitVec.ofNat 64 (c.p2 3)) (rs.flatMap fun r =>
        (r.map (logBytes s ops (bit (c.p 0) 1))).getD (List.replicate 256 0)) ∈ t.out)) ∧
  (∀ (s : State) (c : Cmd), Ready s c 0x0700 → fld (c.p 2) 0 5 = 0 ∨ 16 < fld (c.p 2) 0 5 ∨ c.p2 3 % 256 ≠ 0 →
    exec (.readRecords c) s = .next (complete s c 0x02)) ∧
  (∀ (s : State) (c : Cmd) (x : Option (Fin 128)), Ready s c 0x0701 →
    (c.device = true ∧ x = none) ∨ (c.device = false ∧ x ≠ none ∧ s.ofHandle c.handle.toNat = x) → s.recd.ops.staging.length < stagingSlots true →
    ∃ t r, exec (.takeSnapshot c) s = .next t ∧ InFlight t c ∧ t.recd.ops.staging = s.recd.ops.staging ++ [r] ∧ r.code = 0x0788 ∧
      r.outlet = x ∧ r.payload = p8 (fld (c.p 0) 0 4) ++ leBytes 4 c.tag.toNat ∧ t.recd.legal = s.recd.legal) ∧
  (∀ (s : State) (c : Cmd), Ready s c 0x0701 → c.device = true → stagingSlots true ≤ s.recd.ops.staging.length →
    ∃ t, exec (.takeSnapshot c) s = .next (complete t c 0x0A) ∧ t.recd.ops.staging = s.recd.ops.staging ∧ t.recd.lostOps = true)

/-- R597, R611 to R615, completing dump, sample, bandwidthWindowEnd, dumpNow, clearCounters and serviceUartCommand: a dump writes one
entry for each group of the dump set, all latched at one edge, where the DMP ring has room, and is skipped whole otherwise; a sample
reloads its period; a bandwidth window ends at a multiple of WIN; Clear counters clears the groups and monitors named. In recovery a
descriptor of the service UART is answered. -/
def Obligations.CounterDumps : Prop :=
  (∀ (s u : State), s.clocksRun = true → s.pmc.dumpEn = true → u = s.toTick (s.pmc.lastDump + s.pmc.dumpMs * msNs) →
    ((dumpGroups s).length ≤ dmpRoom s → exec .dump s = .next (writeDump { u with pmc := { u.pmc with lastDump := u.now } })) ∧
    (dmpRoom s < (dumpGroups s).length → exec .dump s = .next (skipDump { u with pmc := { u.pmc with lastDump := u.now } }))) ∧
  (∀ (s : State), (dumpGroups s) = [] → writeDump s = { s with pmc := { s.pmc with dumpNo := s.pmc.dumpNo + 1 } }) ∧
  (∀ (s : State) (g k : Fin 8), s.clocksRun = true → (vget s.pmc.groups g).en = true → vget (vget s.pmc.groups g).smp k = true →
    g = 0 ∨ g = 3 → dmpRoom s = 0 → ∃ t, exec (.sample g k) s = .next t ∧ t.pmc.dropped = s.pmc.dropped + 1 ∧
      (vget t.pmc.groups g).down = (vget s.pmc.groups g).period ∧ t.rings = s.rings) ∧
  (∀ (s : State) (m : Fin 8), s.clocksRun = true → (vget s.pmc.mons m).port.toNat < 128 → 0 < (vget s.pmc.mons m).win →
    ∃ t, exec (.bandwidthWindowEnd m) s = .next t ∧
      (vget t.pmc.mons m).last = BitVec.ofNat 32 (vget s.pmc.mons m).run ∧ (vget t.pmc.mons m).run = 0 ∧
      s.now < t.now ∧ (vget s.pmc.mons m).startAt < t.now ∧ (vget t.pmc.mons m).last.toNat ≤ (vget t.pmc.mons m).peak.toNat ∧
      (vget s.pmc.mons m).peak.toNat ≤ (vget t.pmc.mons m).peak.toNat) ∧
  (∀ (s : State) (c : Cmd), Ready s c 0x0F00 →
    (s.pmc.dumpEn = true → (dumpGroups s).length ≤ dmpRoom s → exec (.dumpNow c) s = .next (complete (writeDump s) c 0x00)) ∧
    (s.pmc.dumpEn = false ∨ dmpRoom s < (dumpGroups s).length → exec (.dumpNow c) s = .next (complete s c 0x0A))) ∧
  (∀ (s : State) (c : Cmd), Ready s c 0x0F01 → ∃ t, exec (.clearCounters c) s = .next t ∧ Done t c 0x00 0 ∧
    (∀ g : Fin 8, (bit (c.p 0) g.val = true → (vget t.pmc.groups g).cyc = 0 ∧ (∀ k, vget (vget t.pmc.groups g).cnt k = 0) ∧
      (vget t.pmc.groups g).ovf = 0) ∧ (bit (c.p 0) g.val = false → vget t.pmc.groups g = vget s.pmc.groups g)) ∧
    (bit (c.p 0) 8 = false → t.pmc.mons = s.pmc.mons)) ∧
  (∀ (s : State) (d : List (BitVec 32)) (data : List (BitVec 8)) (x : Completion), s.glb.phase = .running → s.upd.recovery = true →
    (uartWork s (uartCmd d data)).2 = some x → ∃ t, exec (.serviceUartCommand d data) s = .next t ∧
      Out.serviceUart (p8 x.status.toNat ++ leBytes 4 x.result.toNat) ∈ t.out) ∧
  (∀ (s : State) (d : List (BitVec 32)) (data : List (BitVec 8)) (st : BitVec 8), s.glb.phase = .running → s.upd.recovery = true →
    fetchStatus (s.onRing 15 fun x => { x with role := 5 }) (uartCmd d data) = some st → ∃ t, exec (.serviceUartCommand d data) s = .next t ∧
      Out.serviceUart (p8 st.toNat ++ leBytes 4 0) ∈ t.out) ∧
  (∀ (s : State) (d : List (BitVec 32)) (data : List (BitVec 8)), s.upd.recovery = false → exec (.serviceUartCommand d data) s = .next s)

end
end

