-- ==== Sys2Proof/Laws/State.lean ====
section
/-! SUPPORT. What the updates of the state leave alone, and what reading a vector after changing one of its entries gives. -/

namespace Sys2Proof.Machine

theorem vget_vmod {α : Type} {n : Nat} (v : Vector α n) (i j : Fin n) (f : α → α) :
    vget (vmod v i f) j = if i = j then f (vget v j) else vget v j := by
  unfold vget vmod
  rw [Vector.getElem_set]
  by_cases h : i = j
  · subst h; simp
  · simp [h, Fin.val_ne_of_ne h]

@[simp] theorem vget_vmod_same {α : Type} {n : Nat} (v : Vector α n) (i : Fin n) (f : α → α) :
    vget (vmod v i f) i = f (vget v i) := by
  simp [vget_vmod]

theorem vget_vmod_other {α : Type} {n : Nat} (v : Vector α n) (i j : Fin n) (f : α → α) (h : i ≠ j) :
    vget (vmod v i f) j = vget v j := by
  simp [vget_vmod, h]

@[simp] theorem ite_glb (c : Prop) [Decidable c] (a b : State) : (if c then a else b).glb = if c then a.glb else b.glb :=
  apply_ite _ _ _ _
@[simp] theorem ite_tim (c : Prop) [Decidable c] (a b : State) : (if c then a else b).tim = if c then a.tim else b.tim :=
  apply_ite _ _ _ _
@[simp] theorem ite_str (c : Prop) [Decidable c] (a b : State) : (if c then a else b).str = if c then a.str else b.str :=
  apply_ite _ _ _ _
@[simp] theorem ite_lanes (c : Prop) [Decidable c] (a b : State) : (if c then a else b).lanes = if c then a.lanes else b.lanes :=
  apply_ite _ _ _ _
@[simp] theorem ite_rng (c : Prop) [Decidable c] (a b : State) : (if c then a else b).rng = if c then a.rng else b.rng :=
  apply_ite _ _ _ _
@[simp] theorem ite_rings (c : Prop) [Decidable c] (a b : State) : (if c then a else b).rings = if c then a.rings else b.rings :=
  apply_ite _ _ _ _
@[simp] theorem ite_mpl (c : Prop) [Decidable c] (a b : State) : (if c then a else b).mpl = if c then a.mpl else b.mpl :=
  apply_ite _ _ _ _
@[simp] theorem ite_uarts (c : Prop) [Decidable c] (a b : State) : (if c then a else b).uarts = if c then a.uarts else b.uarts :=
  apply_ite _ _ _ _
@[simp] theorem ite_cans (c : Prop) [Decidable c] (a b : State) : (if c then a else b).cans = if c then a.cans else b.cans :=
  apply_ite _ _ _ _
@[simp] theorem ite_seq (c : Prop) [Decidable c] (a b : State) : (if c then a else b).seq = if c then a.seq else b.seq :=
  apply_ite _ _ _ _
@[simp] theorem ite_ctxs (c : Prop) [Decidable c] (a b : State) : (if c then a else b).ctxs = if c then a.ctxs else b.ctxs :=
  apply_ite _ _ _ _
@[simp] theorem ite_jrn (c : Prop) [Decidable c] (a b : State) : (if c then a else b).jrn = if c then a.jrn else b.jrn :=
  apply_ite _ _ _ _
@[simp] theorem ite_delays (c : Prop) [Decidable c] (a b : State) : (if c then a else b).delays = if c then a.delays else b.delays :=
  apply_ite _ _ _ _
@[simp] theorem ite_saf (c : Prop) [Decidable c] (a b : State) : (if c then a else b).saf = if c then a.saf else b.saf :=
  apply_ite _ _ _ _
@[simp] theorem ite_safOut (c : Prop) [Decidable c] (a b : State) : (if c then a else b).safOut = if c then a.safOut else b.safOut :=
  apply_ite _ _ _ _
@[simp] theorem ite_safJ (c : Prop) [Decidable c] (a b : State) : (if c then a else b).safJ = if c then a.safJ else b.safJ :=
  apply_ite _ _ _ _
@[simp] theorem ite_shr (c : Prop) [Decidable c] (a b : State) : (if c then a else b).shr = if c then a.shr else b.shr :=
  apply_ite _ _ _ _
@[simp] theorem ite_shrOut (c : Prop) [Decidable c] (a b : State) : (if c then a else b).shrOut = if c then a.shrOut else b.shrOut :=
  apply_ite _ _ _ _
@[simp] theorem ite_plc (c : Prop) [Decidable c] (a b : State) : (if c then a else b).plc = if c then a.plc else b.plc :=
  apply_ite _ _ _ _
@[simp] theorem ite_stas (c : Prop) [Decidable c] (a b : State) : (if c then a else b).stas = if c then a.stas else b.stas :=
  apply_ite _ _ _ _
@[simp] theorem ite_met (c : Prop) [Decidable c] (a b : State) : (if c then a else b).met = if c then a.met else b.met :=
  apply_ite _ _ _ _
@[simp] theorem ite_metOut (c : Prop) [Decidable c] (a b : State) : (if c then a else b).metOut = if c then a.metOut else b.metOut :=
  apply_ite _ _ _ _
@[simp] theorem ite_enr (c : Prop) [Decidable c] (a b : State) : (if c then a else b).enr = if c then a.enr else b.enr :=
  apply_ite _ _ _ _
@[simp] theorem ite_enrOut (c : Prop) [Decidable c] (a b : State) : (if c then a else b).enrOut = if c then a.enrOut else b.enrOut :=
  apply_ite _ _ _ _
@[simp] theorem ite_bil (c : Prop) [Decidable c] (a b : State) : (if c then a else b).bil = if c then a.bil else b.bil :=
  apply_ite _ _ _ _
@[simp] theorem ite_bilOut (c : Prop) [Decidable c] (a b : State) : (if c then a else b).bilOut = if c then a.bilOut else b.bilOut :=
  apply_ite _ _ _ _
@[simp] theorem ite_recd (c : Prop) [Decidable c] (a b : State) : (if c then a else b).recd = if c then a.recd else b.recd :=
  apply_ite _ _ _ _
@[simp] theorem ite_aut (c : Prop) [Decidable c] (a b : State) : (if c then a else b).aut = if c then a.aut else b.aut :=
  apply_ite _ _ _ _
@[simp] theorem ite_autOut (c : Prop) [Decidable c] (a b : State) : (if c then a else b).autOut = if c then a.autOut else b.autOut :=
  apply_ite _ _ _ _
@[simp] theorem ite_tagJ (c : Prop) [Decidable c] (a b : State) : (if c then a else b).tagJ = if c then a.tagJ else b.tagJ :=
  apply_ite _ _ _ _
@[simp] theorem ite_store (c : Prop) [Decidable c] (a b : State) : (if c then a else b).store = if c then a.store else b.store :=
  apply_ite _ _ _ _
@[simp] theorem ite_kit (c : Prop) [Decidable c] (a b : State) : (if c then a else b).kit = if c then a.kit else b.kit :=
  apply_ite _ _ _ _
@[simp] theorem ite_tie (c : Prop) [Decidable c] (a b : State) : (if c then a else b).tie = if c then a.tie else b.tie :=
  apply_ite _ _ _ _
@[simp] theorem ite_key (c : Prop) [Decidable c] (a b : State) : (if c then a else b).key = if c then a.key else b.key :=
  apply_ite _ _ _ _
@[simp] theorem ite_keys (c : Prop) [Decidable c] (a b : State) : (if c then a else b).keys = if c then a.keys else b.keys :=
  apply_ite _ _ _ _
@[simp] theorem ite_lsw (c : Prop) [Decidable c] (a b : State) : (if c then a else b).lsw = if c then a.lsw else b.lsw :=
  apply_ite _ _ _ _
@[simp] theorem ite_epd (c : Prop) [Decidable c] (a b : State) : (if c then a else b).epd = if c then a.epd else b.epd :=
  apply_ite _ _ _ _
@[simp] theorem ite_pwr (c : Prop) [Decidable c] (a b : State) : (if c then a else b).pwr = if c then a.pwr else b.pwr :=
  apply_ite _ _ _ _
@[simp] theorem ite_upd (c : Prop) [Decidable c] (a b : State) : (if c then a else b).upd = if c then a.upd else b.upd :=
  apply_ite _ _ _ _
@[simp] theorem ite_pmc (c : Prop) [Decidable c] (a b : State) : (if c then a else b).pmc = if c then a.pmc else b.pmc :=
  apply_ite _ _ _ _
@[simp] theorem ite_keep (c : Prop) [Decidable c] (a b : State) : (if c then a else b).keep = if c then a.keep else b.keep :=
  apply_ite _ _ _ _
@[simp] theorem ite_fresh (c : Prop) [Decidable c] (a b : State) : (if c then a else b).fresh = if c then a.fresh else b.fresh :=
  apply_ite _ _ _ _
@[simp] theorem ite_out (c : Prop) [Decidable c] (a b : State) : (if c then a else b).out = if c then a.out else b.out :=
  apply_ite _ _ _ _

@[simp] theorem State.onLane_frame (s : State) (a1 : Fin 128) (a2 : Lane → Lane) :
    (State.onLane s a1 a2).glb = s.glb ∧ (State.onLane s a1 a2).tim = s.tim ∧ (State.onLane s a1 a2).str = s.str ∧
    (State.onLane s a1 a2).rng = s.rng ∧ (State.onLane s a1 a2).rings = s.rings ∧ (State.onLane s a1 a2).mpl = s.mpl ∧
    (State.onLane s a1 a2).uarts = s.uarts ∧ (State.onLane s a1 a2).cans = s.cans ∧ (State.onLane s a1 a2).seq = s.seq ∧
    (State.onLane s a1 a2).ctxs = s.ctxs ∧ (State.onLane s a1 a2).jrn = s.jrn ∧ (State.onLane s a1 a2).delays = s.delays ∧
    (State.onLane s a1 a2).saf = s.saf ∧ (State.onLane s a1 a2).safOut = s.safOut ∧ (State.onLane s a1 a2).safJ = s.safJ ∧
    (State.onLane s a1 a2).shr = s.shr ∧ (State.onLane s a1 a2).shrOut = s.shrOut ∧ (State.onLane s a1 a2).plc = s.plc ∧
    (State.onLane s a1 a2).stas = s.stas ∧ (State.onLane s a1 a2).met = s.met ∧ (State.onLane s a1 a2).metOut = s.metOut ∧
    (State.onLane s a1 a2).enr = s.enr ∧ (State.onLane s a1 a2).enrOut = s.enrOut ∧ (State.onLane s a1 a2).bil = s.bil ∧
    (State.onLane s a1 a2).bilOut = s.bilOut ∧ (State.onLane s a1 a2).recd = s.recd ∧ (State.onLane s a1 a2).aut = s.aut ∧
    (State.onLane s a1 a2).autOut = s.autOut ∧ (State.onLane s a1 a2).tagJ = s.tagJ ∧ (State.onLane s a1 a2).store = s.store ∧
    (State.onLane s a1 a2).kit = s.kit ∧ (State.onLane s a1 a2).tie = s.tie ∧ (State.onLane s a1 a2).key = s.key ∧
    (State.onLane s a1 a2).keys = s.keys ∧ (State.onLane s a1 a2).lsw = s.lsw ∧ (State.onLane s a1 a2).epd = s.epd ∧
    (State.onLane s a1 a2).pwr = s.pwr ∧ (State.onLane s a1 a2).upd = s.upd ∧ (State.onLane s a1 a2).pmc = s.pmc ∧
    (State.onLane s a1 a2).keep = s.keep ∧ (State.onLane s a1 a2).fresh = s.fresh ∧ (State.onLane s a1 a2).out = s.out :=
  ⟨rfl, rfl, rfl, rfl, rfl, rfl, rfl, rfl, rfl, rfl, rfl, rfl, rfl, rfl, rfl, rfl, rfl, rfl, rfl, rfl, rfl, rfl, rfl, rfl, rfl, rfl, rfl, rfl, rfl, rfl, rfl, rfl, rfl, rfl, rfl, rfl, rfl, rfl, rfl, rfl, rfl, rfl⟩

@[simp] theorem State.onRing_frame (s : State) (a1 : Fin 57) (a2 : Ring → Ring) :
    (State.onRing s a1 a2).glb = s.glb ∧ (State.onRing s a1 a2).tim = s.tim ∧ (State.onRing s a1 a2).str = s.str ∧
    (State.onRing s a1 a2).lanes = s.lanes ∧ (State.onRing s a1 a2).rng = s.rng ∧ (State.onRing s a1 a2).mpl = s.mpl ∧
    (State.onRing s a1 a2).uarts = s.uarts ∧ (State.onRing s a1 a2).cans = s.cans ∧ (State.onRing s a1 a2).seq = s.seq ∧
    (State.onRing s a1 a2).ctxs = s.ctxs ∧ (State.onRing s a1 a2).jrn = s.jrn ∧ (State.onRing s a1 a2).delays = s.delays ∧
    (State.onRing s a1 a2).saf = s.saf ∧ (State.onRing s a1 a2).safOut = s.safOut ∧ (State.onRing s a1 a2).safJ = s.safJ ∧
    (State.onRing s a1 a2).shr = s.shr ∧ (State.onRing s a1 a2).shrOut = s.shrOut ∧ (State.onRing s a1 a2).plc = s.plc ∧
    (State.onRing s a1 a2).stas = s.stas ∧ (State.onRing s a1 a2).met = s.met ∧ (State.onRing s a1 a2).metOut = s.metOut ∧
    (State.onRing s a1 a2).enr = s.enr ∧ (State.onRing s a1 a2).enrOut = s.enrOut ∧ (State.onRing s a1 a2).bil = s.bil ∧
    (State.onRing s a1 a2).bilOut = s.bilOut ∧ (State.onRing s a1 a2).recd = s.recd ∧ (State.onRing s a1 a2).aut = s.aut ∧
    (State.onRing s a1 a2).autOut = s.autOut ∧ (State.onRing s a1 a2).tagJ = s.tagJ ∧ (State.onRing s a1 a2).store = s.store ∧
    (State.onRing s a1 a2).kit = s.kit ∧ (State.onRing s a1 a2).tie = s.tie ∧ (State.onRing s a1 a2).key = s.key ∧
    (State.onRing s a1 a2).keys = s.keys ∧ (State.onRing s a1 a2).lsw = s.lsw ∧ (State.onRing s a1 a2).epd = s.epd ∧
    (State.onRing s a1 a2).pwr = s.pwr ∧ (State.onRing s a1 a2).upd = s.upd ∧ (State.onRing s a1 a2).pmc = s.pmc ∧
    (State.onRing s a1 a2).keep = s.keep ∧ (State.onRing s a1 a2).fresh = s.fresh ∧ (State.onRing s a1 a2).out = s.out :=
  ⟨rfl, rfl, rfl, rfl, rfl, rfl, rfl, rfl, rfl, rfl, rfl, rfl, rfl, rfl, rfl, rfl, rfl, rfl, rfl, rfl, rfl, rfl, rfl, rfl, rfl, rfl, rfl, rfl, rfl, rfl, rfl, rfl, rfl, rfl, rfl, rfl, rfl, rfl, rfl, rfl, rfl, rfl⟩

@[simp] theorem State.onCtx_frame (s : State) (a1 : Fin 128) (a2 : Ctx → Ctx) :
    (State.onCtx s a1 a2).glb = s.glb ∧ (State.onCtx s a1 a2).tim = s.tim ∧ (State.onCtx s a1 a2).str = s.str ∧
    (State.onCtx s a1 a2).lanes = s.lanes ∧ (State.onCtx s a1 a2).rng = s.rng ∧ (State.onCtx s a1 a2).rings = s.rings ∧
    (State.onCtx s a1 a2).mpl = s.mpl ∧ (State.onCtx s a1 a2).uarts = s.uarts ∧ (State.onCtx s a1 a2).cans = s.cans ∧
    (State.onCtx s a1 a2).seq = s.seq ∧ (State.onCtx s a1 a2).jrn = s.jrn ∧ (State.onCtx s a1 a2).delays = s.delays ∧
    (State.onCtx s a1 a2).saf = s.saf ∧ (State.onCtx s a1 a2).safOut = s.safOut ∧ (State.onCtx s a1 a2).safJ = s.safJ ∧
    (State.onCtx s a1 a2).shr = s.shr ∧ (State.onCtx s a1 a2).shrOut = s.shrOut ∧ (State.onCtx s a1 a2).plc = s.plc ∧
    (State.onCtx s a1 a2).stas = s.stas ∧ (State.onCtx s a1 a2).met = s.met ∧ (State.onCtx s a1 a2).metOut = s.metOut ∧
    (State.onCtx s a1 a2).enr = s.enr ∧ (State.onCtx s a1 a2).enrOut = s.enrOut ∧ (State.onCtx s a1 a2).bil = s.bil ∧
    (State.onCtx s a1 a2).bilOut = s.bilOut ∧ (State.onCtx s a1 a2).recd = s.recd ∧ (State.onCtx s a1 a2).aut = s.aut ∧
    (State.onCtx s a1 a2).autOut = s.autOut ∧ (State.onCtx s a1 a2).tagJ = s.tagJ ∧ (State.onCtx s a1 a2).store = s.store ∧
    (State.onCtx s a1 a2).kit = s.kit ∧ (State.onCtx s a1 a2).tie = s.tie ∧ (State.onCtx s a1 a2).key = s.key ∧
    (State.onCtx s a1 a2).keys = s.keys ∧ (State.onCtx s a1 a2).lsw = s.lsw ∧ (State.onCtx s a1 a2).epd = s.epd ∧
    (State.onCtx s a1 a2).pwr = s.pwr ∧ (State.onCtx s a1 a2).upd = s.upd ∧ (State.onCtx s a1 a2).pmc = s.pmc ∧
    (State.onCtx s a1 a2).keep = s.keep ∧ (State.onCtx s a1 a2).fresh = s.fresh ∧ (State.onCtx s a1 a2).out = s.out :=
  ⟨rfl, rfl, rfl, rfl, rfl, rfl, rfl, rfl, rfl, rfl, rfl, rfl, rfl, rfl, rfl, rfl, rfl, rfl, rfl, rfl, rfl, rfl, rfl, rfl, rfl, rfl, rfl, rfl, rfl, rfl, rfl, rfl, rfl, rfl, rfl, rfl, rfl, rfl, rfl, rfl, rfl, rfl⟩

@[simp] theorem State.onJrn_frame (s : State) (a1 : Fin 128) (a2 : Vector CtxJournal 2 → Vector CtxJournal 2) :
    (State.onJrn s a1 a2).glb = s.glb ∧ (State.onJrn s a1 a2).tim = s.tim ∧ (State.onJrn s a1 a2).str = s.str ∧
    (State.onJrn s a1 a2).lanes = s.lanes ∧ (State.onJrn s a1 a2).rng = s.rng ∧ (State.onJrn s a1 a2).rings = s.rings ∧
    (State.onJrn s a1 a2).mpl = s.mpl ∧ (State.onJrn s a1 a2).uarts = s.uarts ∧ (State.onJrn s a1 a2).cans = s.cans ∧
    (State.onJrn s a1 a2).seq = s.seq ∧ (State.onJrn s a1 a2).ctxs = s.ctxs ∧ (State.onJrn s a1 a2).delays = s.delays ∧
    (State.onJrn s a1 a2).saf = s.saf ∧ (State.onJrn s a1 a2).safOut = s.safOut ∧ (State.onJrn s a1 a2).safJ = s.safJ ∧
    (State.onJrn s a1 a2).shr = s.shr ∧ (State.onJrn s a1 a2).shrOut = s.shrOut ∧ (State.onJrn s a1 a2).plc = s.plc ∧
    (State.onJrn s a1 a2).stas = s.stas ∧ (State.onJrn s a1 a2).met = s.met ∧ (State.onJrn s a1 a2).metOut = s.metOut ∧
    (State.onJrn s a1 a2).enr = s.enr ∧ (State.onJrn s a1 a2).enrOut = s.enrOut ∧ (State.onJrn s a1 a2).bil = s.bil ∧
    (State.onJrn s a1 a2).bilOut = s.bilOut ∧ (State.onJrn s a1 a2).recd = s.recd ∧ (State.onJrn s a1 a2).aut = s.aut ∧
    (State.onJrn s a1 a2).autOut = s.autOut ∧ (State.onJrn s a1 a2).tagJ = s.tagJ ∧ (State.onJrn s a1 a2).store = s.store ∧
    (State.onJrn s a1 a2).kit = s.kit ∧ (State.onJrn s a1 a2).tie = s.tie ∧ (State.onJrn s a1 a2).key = s.key ∧
    (State.onJrn s a1 a2).keys = s.keys ∧ (State.onJrn s a1 a2).lsw = s.lsw ∧ (State.onJrn s a1 a2).epd = s.epd ∧
    (State.onJrn s a1 a2).pwr = s.pwr ∧ (State.onJrn s a1 a2).upd = s.upd ∧ (State.onJrn s a1 a2).pmc = s.pmc ∧
    (State.onJrn s a1 a2).keep = s.keep ∧ (State.onJrn s a1 a2).fresh = s.fresh ∧ (State.onJrn s a1 a2).out = s.out :=
  ⟨rfl, rfl, rfl, rfl, rfl, rfl, rfl, rfl, rfl, rfl, rfl, rfl, rfl, rfl, rfl, rfl, rfl, rfl, rfl, rfl, rfl, rfl, rfl, rfl, rfl, rfl, rfl, rfl, rfl, rfl, rfl, rfl, rfl, rfl, rfl, rfl, rfl, rfl, rfl, rfl, rfl, rfl⟩

@[simp] theorem State.onDelays_frame (s : State) (a1 : Fin 128) (a2 : Delays → Delays) :
    (State.onDelays s a1 a2).glb = s.glb ∧ (State.onDelays s a1 a2).tim = s.tim ∧ (State.onDelays s a1 a2).str = s.str ∧
    (State.onDelays s a1 a2).lanes = s.lanes ∧ (State.onDelays s a1 a2).rng = s.rng ∧ (State.onDelays s a1 a2).rings = s.rings ∧
    (State.onDelays s a1 a2).mpl = s.mpl ∧ (State.onDelays s a1 a2).uarts = s.uarts ∧ (State.onDelays s a1 a2).cans = s.cans ∧
    (State.onDelays s a1 a2).seq = s.seq ∧ (State.onDelays s a1 a2).ctxs = s.ctxs ∧ (State.onDelays s a1 a2).jrn = s.jrn ∧
    (State.onDelays s a1 a2).saf = s.saf ∧ (State.onDelays s a1 a2).safOut = s.safOut ∧ (State.onDelays s a1 a2).safJ = s.safJ ∧
    (State.onDelays s a1 a2).shr = s.shr ∧ (State.onDelays s a1 a2).shrOut = s.shrOut ∧ (State.onDelays s a1 a2).plc = s.plc ∧
    (State.onDelays s a1 a2).stas = s.stas ∧ (State.onDelays s a1 a2).met = s.met ∧ (State.onDelays s a1 a2).metOut = s.metOut ∧
    (State.onDelays s a1 a2).enr = s.enr ∧ (State.onDelays s a1 a2).enrOut = s.enrOut ∧ (State.onDelays s a1 a2).bil = s.bil ∧
    (State.onDelays s a1 a2).bilOut = s.bilOut ∧ (State.onDelays s a1 a2).recd = s.recd ∧ (State.onDelays s a1 a2).aut = s.aut ∧
    (State.onDelays s a1 a2).autOut = s.autOut ∧ (State.onDelays s a1 a2).tagJ = s.tagJ ∧
    (State.onDelays s a1 a2).store = s.store ∧ (State.onDelays s a1 a2).kit = s.kit ∧ (State.onDelays s a1 a2).tie = s.tie ∧
    (State.onDelays s a1 a2).key = s.key ∧ (State.onDelays s a1 a2).keys = s.keys ∧ (State.onDelays s a1 a2).lsw = s.lsw ∧
    (State.onDelays s a1 a2).epd = s.epd ∧ (State.onDelays s a1 a2).pwr = s.pwr ∧ (State.onDelays s a1 a2).upd = s.upd ∧
    (State.onDelays s a1 a2).pmc = s.pmc ∧ (State.onDelays s a1 a2).keep = s.keep ∧ (State.onDelays s a1 a2).fresh = s.fresh ∧
    (State.onDelays s a1 a2).out = s.out :=
  ⟨rfl, rfl, rfl, rfl, rfl, rfl, rfl, rfl, rfl, rfl, rfl, rfl, rfl, rfl, rfl, rfl, rfl, rfl, rfl, rfl, rfl, rfl, rfl, rfl, rfl, rfl, rfl, rfl, rfl, rfl, rfl, rfl, rfl, rfl, rfl, rfl, rfl, rfl, rfl, rfl, rfl, rfl⟩

@[simp] theorem State.onSaf_frame (s : State) (a1 : Fin 128) (a2 : SafOut → SafOut) :
    (State.onSaf s a1 a2).glb = s.glb ∧ (State.onSaf s a1 a2).tim = s.tim ∧ (State.onSaf s a1 a2).str = s.str ∧
    (State.onSaf s a1 a2).lanes = s.lanes ∧ (State.onSaf s a1 a2).rng = s.rng ∧ (State.onSaf s a1 a2).rings = s.rings ∧
    (State.onSaf s a1 a2).mpl = s.mpl ∧ (State.onSaf s a1 a2).uarts = s.uarts ∧ (State.onSaf s a1 a2).cans = s.cans ∧
    (State.onSaf s a1 a2).seq = s.seq ∧ (State.onSaf s a1 a2).ctxs = s.ctxs ∧ (State.onSaf s a1 a2).jrn = s.jrn ∧
    (State.onSaf s a1 a2).delays = s.delays ∧ (State.onSaf s a1 a2).saf = s.saf ∧ (State.onSaf s a1 a2).safJ = s.safJ ∧
    (State.onSaf s a1 a2).shr = s.shr ∧ (State.onSaf s a1 a2).shrOut = s.shrOut ∧ (State.onSaf s a1 a2).plc = s.plc ∧
    (State.onSaf s a1 a2).stas = s.stas ∧ (State.onSaf s a1 a2).met = s.met ∧ (State.onSaf s a1 a2).metOut = s.metOut ∧
    (State.onSaf s a1 a2).enr = s.enr ∧ (State.onSaf s a1 a2).enrOut = s.enrOut ∧ (State.onSaf s a1 a2).bil = s.bil ∧
    (State.onSaf s a1 a2).bilOut = s.bilOut ∧ (State.onSaf s a1 a2).recd = s.recd ∧ (State.onSaf s a1 a2).aut = s.aut ∧
    (State.onSaf s a1 a2).autOut = s.autOut ∧ (State.onSaf s a1 a2).tagJ = s.tagJ ∧ (State.onSaf s a1 a2).store = s.store ∧
    (State.onSaf s a1 a2).kit = s.kit ∧ (State.onSaf s a1 a2).tie = s.tie ∧ (State.onSaf s a1 a2).key = s.key ∧
    (State.onSaf s a1 a2).keys = s.keys ∧ (State.onSaf s a1 a2).lsw = s.lsw ∧ (State.onSaf s a1 a2).epd = s.epd ∧
    (State.onSaf s a1 a2).pwr = s.pwr ∧ (State.onSaf s a1 a2).upd = s.upd ∧ (State.onSaf s a1 a2).pmc = s.pmc ∧
    (State.onSaf s a1 a2).keep = s.keep ∧ (State.onSaf s a1 a2).fresh = s.fresh ∧ (State.onSaf s a1 a2).out = s.out :=
  ⟨rfl, rfl, rfl, rfl, rfl, rfl, rfl, rfl, rfl, rfl, rfl, rfl, rfl, rfl, rfl, rfl, rfl, rfl, rfl, rfl, rfl, rfl, rfl, rfl, rfl, rfl, rfl, rfl, rfl, rfl, rfl, rfl, rfl, rfl, rfl, rfl, rfl, rfl, rfl, rfl, rfl, rfl⟩

@[simp] theorem State.onSafJ_frame (s : State) (a1 : Fin 128) (a2 : SafeJournal → SafeJournal) :
    (State.onSafJ s a1 a2).glb = s.glb ∧ (State.onSafJ s a1 a2).tim = s.tim ∧ (State.onSafJ s a1 a2).str = s.str ∧
    (State.onSafJ s a1 a2).lanes = s.lanes ∧ (State.onSafJ s a1 a2).rng = s.rng ∧ (State.onSafJ s a1 a2).rings = s.rings ∧
    (State.onSafJ s a1 a2).mpl = s.mpl ∧ (State.onSafJ s a1 a2).uarts = s.uarts ∧ (State.onSafJ s a1 a2).cans = s.cans ∧
    (State.onSafJ s a1 a2).seq = s.seq ∧ (State.onSafJ s a1 a2).ctxs = s.ctxs ∧ (State.onSafJ s a1 a2).jrn = s.jrn ∧
    (State.onSafJ s a1 a2).delays = s.delays ∧ (State.onSafJ s a1 a2).saf = s.saf ∧ (State.onSafJ s a1 a2).safOut = s.safOut ∧
    (State.onSafJ s a1 a2).shr = s.shr ∧ (State.onSafJ s a1 a2).shrOut = s.shrOut ∧ (State.onSafJ s a1 a2).plc = s.plc ∧
    (State.onSafJ s a1 a2).stas = s.stas ∧ (State.onSafJ s a1 a2).met = s.met ∧ (State.onSafJ s a1 a2).metOut = s.metOut ∧
    (State.onSafJ s a1 a2).enr = s.enr ∧ (State.onSafJ s a1 a2).enrOut = s.enrOut ∧ (State.onSafJ s a1 a2).bil = s.bil ∧
    (State.onSafJ s a1 a2).bilOut = s.bilOut ∧ (State.onSafJ s a1 a2).recd = s.recd ∧ (State.onSafJ s a1 a2).aut = s.aut ∧
    (State.onSafJ s a1 a2).autOut = s.autOut ∧ (State.onSafJ s a1 a2).tagJ = s.tagJ ∧ (State.onSafJ s a1 a2).store = s.store ∧
    (State.onSafJ s a1 a2).kit = s.kit ∧ (State.onSafJ s a1 a2).tie = s.tie ∧ (State.onSafJ s a1 a2).key = s.key ∧
    (State.onSafJ s a1 a2).keys = s.keys ∧ (State.onSafJ s a1 a2).lsw = s.lsw ∧ (State.onSafJ s a1 a2).epd = s.epd ∧
    (State.onSafJ s a1 a2).pwr = s.pwr ∧ (State.onSafJ s a1 a2).upd = s.upd ∧ (State.onSafJ s a1 a2).pmc = s.pmc ∧
    (State.onSafJ s a1 a2).keep = s.keep ∧ (State.onSafJ s a1 a2).fresh = s.fresh ∧ (State.onSafJ s a1 a2).out = s.out :=
  ⟨rfl, rfl, rfl, rfl, rfl, rfl, rfl, rfl, rfl, rfl, rfl, rfl, rfl, rfl, rfl, rfl, rfl, rfl, rfl, rfl, rfl, rfl, rfl, rfl, rfl, rfl, rfl, rfl, rfl, rfl, rfl, rfl, rfl, rfl, rfl, rfl, rfl, rfl, rfl, rfl, rfl, rfl⟩

@[simp] theorem State.onShr_frame (s : State) (a1 : Fin 128) (a2 : ShareOut → ShareOut) :
    (State.onShr s a1 a2).glb = s.glb ∧ (State.onShr s a1 a2).tim = s.tim ∧ (State.onShr s a1 a2).str = s.str ∧
    (State.onShr s a1 a2).lanes = s.lanes ∧ (State.onShr s a1 a2).rng = s.rng ∧ (State.onShr s a1 a2).rings = s.rings ∧
    (State.onShr s a1 a2).mpl = s.mpl ∧ (State.onShr s a1 a2).uarts = s.uarts ∧ (State.onShr s a1 a2).cans = s.cans ∧
    (State.onShr s a1 a2).seq = s.seq ∧ (State.onShr s a1 a2).ctxs = s.ctxs ∧ (State.onShr s a1 a2).jrn = s.jrn ∧
    (State.onShr s a1 a2).delays = s.delays ∧ (State.onShr s a1 a2).saf = s.saf ∧ (State.onShr s a1 a2).safOut = s.safOut ∧
    (State.onShr s a1 a2).safJ = s.safJ ∧ (State.onShr s a1 a2).shr = s.shr ∧ (State.onShr s a1 a2).plc = s.plc ∧
    (State.onShr s a1 a2).stas = s.stas ∧ (State.onShr s a1 a2).met = s.met ∧ (State.onShr s a1 a2).metOut = s.metOut ∧
    (State.onShr s a1 a2).enr = s.enr ∧ (State.onShr s a1 a2).enrOut = s.enrOut ∧ (State.onShr s a1 a2).bil = s.bil ∧
    (State.onShr s a1 a2).bilOut = s.bilOut ∧ (State.onShr s a1 a2).recd = s.recd ∧ (State.onShr s a1 a2).aut = s.aut ∧
    (State.onShr s a1 a2).autOut = s.autOut ∧ (State.onShr s a1 a2).tagJ = s.tagJ ∧ (State.onShr s a1 a2).store = s.store ∧
    (State.onShr s a1 a2).kit = s.kit ∧ (State.onShr s a1 a2).tie = s.tie ∧ (State.onShr s a1 a2).key = s.key ∧
    (State.onShr s a1 a2).keys = s.keys ∧ (State.onShr s a1 a2).lsw = s.lsw ∧ (State.onShr s a1 a2).epd = s.epd ∧
    (State.onShr s a1 a2).pwr = s.pwr ∧ (State.onShr s a1 a2).upd = s.upd ∧ (State.onShr s a1 a2).pmc = s.pmc ∧
    (State.onShr s a1 a2).keep = s.keep ∧ (State.onShr s a1 a2).fresh = s.fresh ∧ (State.onShr s a1 a2).out = s.out :=
  ⟨rfl, rfl, rfl, rfl, rfl, rfl, rfl, rfl, rfl, rfl, rfl, rfl, rfl, rfl, rfl, rfl, rfl, rfl, rfl, rfl, rfl, rfl, rfl, rfl, rfl, rfl, rfl, rfl, rfl, rfl, rfl, rfl, rfl, rfl, rfl, rfl, rfl, rfl, rfl, rfl, rfl, rfl⟩

@[simp] theorem State.onSta_frame (s : State) (a1 : Fin 128) (a2 : Station → Station) :
    (State.onSta s a1 a2).glb = s.glb ∧ (State.onSta s a1 a2).tim = s.tim ∧ (State.onSta s a1 a2).str = s.str ∧
    (State.onSta s a1 a2).lanes = s.lanes ∧ (State.onSta s a1 a2).rng = s.rng ∧ (State.onSta s a1 a2).rings = s.rings ∧
    (State.onSta s a1 a2).mpl = s.mpl ∧ (State.onSta s a1 a2).uarts = s.uarts ∧ (State.onSta s a1 a2).cans = s.cans ∧
    (State.onSta s a1 a2).seq = s.seq ∧ (State.onSta s a1 a2).ctxs = s.ctxs ∧ (State.onSta s a1 a2).jrn = s.jrn ∧
    (State.onSta s a1 a2).delays = s.delays ∧ (State.onSta s a1 a2).saf = s.saf ∧ (State.onSta s a1 a2).safOut = s.safOut ∧
    (State.onSta s a1 a2).safJ = s.safJ ∧ (State.onSta s a1 a2).shr = s.shr ∧ (State.onSta s a1 a2).shrOut = s.shrOut ∧
    (State.onSta s a1 a2).plc = s.plc ∧ (State.onSta s a1 a2).met = s.met ∧ (State.onSta s a1 a2).metOut = s.metOut ∧
    (State.onSta s a1 a2).enr = s.enr ∧ (State.onSta s a1 a2).enrOut = s.enrOut ∧ (State.onSta s a1 a2).bil = s.bil ∧
    (State.onSta s a1 a2).bilOut = s.bilOut ∧ (State.onSta s a1 a2).recd = s.recd ∧ (State.onSta s a1 a2).aut = s.aut ∧
    (State.onSta s a1 a2).autOut = s.autOut ∧ (State.onSta s a1 a2).tagJ = s.tagJ ∧ (State.onSta s a1 a2).store = s.store ∧
    (State.onSta s a1 a2).kit = s.kit ∧ (State.onSta s a1 a2).tie = s.tie ∧ (State.onSta s a1 a2).key = s.key ∧
    (State.onSta s a1 a2).keys = s.keys ∧ (State.onSta s a1 a2).lsw = s.lsw ∧ (State.onSta s a1 a2).epd = s.epd ∧
    (State.onSta s a1 a2).pwr = s.pwr ∧ (State.onSta s a1 a2).upd = s.upd ∧ (State.onSta s a1 a2).pmc = s.pmc ∧
    (State.onSta s a1 a2).keep = s.keep ∧ (State.onSta s a1 a2).fresh = s.fresh ∧ (State.onSta s a1 a2).out = s.out :=
  ⟨rfl, rfl, rfl, rfl, rfl, rfl, rfl, rfl, rfl, rfl, rfl, rfl, rfl, rfl, rfl, rfl, rfl, rfl, rfl, rfl, rfl, rfl, rfl, rfl, rfl, rfl, rfl, rfl, rfl, rfl, rfl, rfl, rfl, rfl, rfl, rfl, rfl, rfl, rfl, rfl, rfl, rfl⟩

@[simp] theorem State.onMet_frame (s : State) (a1 : Fin 128) (a2 : MetOut → MetOut) :
    (State.onMet s a1 a2).glb = s.glb ∧ (State.onMet s a1 a2).tim = s.tim ∧ (State.onMet s a1 a2).str = s.str ∧
    (State.onMet s a1 a2).lanes = s.lanes ∧ (State.onMet s a1 a2).rng = s.rng ∧ (State.onMet s a1 a2).rings = s.rings ∧
    (State.onMet s a1 a2).mpl = s.mpl ∧ (State.onMet s a1 a2).uarts = s.uarts ∧ (State.onMet s a1 a2).cans = s.cans ∧
    (State.onMet s a1 a2).seq = s.seq ∧ (State.onMet s a1 a2).ctxs = s.ctxs ∧ (State.onMet s a1 a2).jrn = s.jrn ∧
    (State.onMet s a1 a2).delays = s.delays ∧ (State.onMet s a1 a2).saf = s.saf ∧ (State.onMet s a1 a2).safOut = s.safOut ∧
    (State.onMet s a1 a2).safJ = s.safJ ∧ (State.onMet s a1 a2).shr = s.shr ∧ (State.onMet s a1 a2).shrOut = s.shrOut ∧
    (State.onMet s a1 a2).plc = s.plc ∧ (State.onMet s a1 a2).stas = s.stas ∧ (State.onMet s a1 a2).met = s.met ∧
    (State.onMet s a1 a2).enr = s.enr ∧ (State.onMet s a1 a2).enrOut = s.enrOut ∧ (State.onMet s a1 a2).bil = s.bil ∧
    (State.onMet s a1 a2).bilOut = s.bilOut ∧ (State.onMet s a1 a2).recd = s.recd ∧ (State.onMet s a1 a2).aut = s.aut ∧
    (State.onMet s a1 a2).autOut = s.autOut ∧ (State.onMet s a1 a2).tagJ = s.tagJ ∧ (State.onMet s a1 a2).store = s.store ∧
    (State.onMet s a1 a2).kit = s.kit ∧ (State.onMet s a1 a2).tie = s.tie ∧ (State.onMet s a1 a2).key = s.key ∧
    (State.onMet s a1 a2).keys = s.keys ∧ (State.onMet s a1 a2).lsw = s.lsw ∧ (State.onMet s a1 a2).epd = s.epd ∧
    (State.onMet s a1 a2).pwr = s.pwr ∧ (State.onMet s a1 a2).upd = s.upd ∧ (State.onMet s a1 a2).pmc = s.pmc ∧
    (State.onMet s a1 a2).keep = s.keep ∧ (State.onMet s a1 a2).fresh = s.fresh ∧ (State.onMet s a1 a2).out = s.out :=
  ⟨rfl, rfl, rfl, rfl, rfl, rfl, rfl, rfl, rfl, rfl, rfl, rfl, rfl, rfl, rfl, rfl, rfl, rfl, rfl, rfl, rfl, rfl, rfl, rfl, rfl, rfl, rfl, rfl, rfl, rfl, rfl, rfl, rfl, rfl, rfl, rfl, rfl, rfl, rfl, rfl, rfl, rfl⟩

@[simp] theorem State.onEnr_frame (s : State) (a1 : Fin 128) (a2 : OutEnr → OutEnr) :
    (State.onEnr s a1 a2).glb = s.glb ∧ (State.onEnr s a1 a2).tim = s.tim ∧ (State.onEnr s a1 a2).str = s.str ∧
    (State.onEnr s a1 a2).lanes = s.lanes ∧ (State.onEnr s a1 a2).rng = s.rng ∧ (State.onEnr s a1 a2).rings = s.rings ∧
    (State.onEnr s a1 a2).mpl = s.mpl ∧ (State.onEnr s a1 a2).uarts = s.uarts ∧ (State.onEnr s a1 a2).cans = s.cans ∧
    (State.onEnr s a1 a2).seq = s.seq ∧ (State.onEnr s a1 a2).ctxs = s.ctxs ∧ (State.onEnr s a1 a2).jrn = s.jrn ∧
    (State.onEnr s a1 a2).delays = s.delays ∧ (State.onEnr s a1 a2).saf = s.saf ∧ (State.onEnr s a1 a2).safOut = s.safOut ∧
    (State.onEnr s a1 a2).safJ = s.safJ ∧ (State.onEnr s a1 a2).shr = s.shr ∧ (State.onEnr s a1 a2).shrOut = s.shrOut ∧
    (State.onEnr s a1 a2).plc = s.plc ∧ (State.onEnr s a1 a2).stas = s.stas ∧ (State.onEnr s a1 a2).met = s.met ∧
    (State.onEnr s a1 a2).metOut = s.metOut ∧ (State.onEnr s a1 a2).enr = s.enr ∧ (State.onEnr s a1 a2).bil = s.bil ∧
    (State.onEnr s a1 a2).bilOut = s.bilOut ∧ (State.onEnr s a1 a2).recd = s.recd ∧ (State.onEnr s a1 a2).aut = s.aut ∧
    (State.onEnr s a1 a2).autOut = s.autOut ∧ (State.onEnr s a1 a2).tagJ = s.tagJ ∧ (State.onEnr s a1 a2).store = s.store ∧
    (State.onEnr s a1 a2).kit = s.kit ∧ (State.onEnr s a1 a2).tie = s.tie ∧ (State.onEnr s a1 a2).key = s.key ∧
    (State.onEnr s a1 a2).keys = s.keys ∧ (State.onEnr s a1 a2).lsw = s.lsw ∧ (State.onEnr s a1 a2).epd = s.epd ∧
    (State.onEnr s a1 a2).pwr = s.pwr ∧ (State.onEnr s a1 a2).upd = s.upd ∧ (State.onEnr s a1 a2).pmc = s.pmc ∧
    (State.onEnr s a1 a2).keep = s.keep ∧ (State.onEnr s a1 a2).fresh = s.fresh ∧ (State.onEnr s a1 a2).out = s.out :=
  ⟨rfl, rfl, rfl, rfl, rfl, rfl, rfl, rfl, rfl, rfl, rfl, rfl, rfl, rfl, rfl, rfl, rfl, rfl, rfl, rfl, rfl, rfl, rfl, rfl, rfl, rfl, rfl, rfl, rfl, rfl, rfl, rfl, rfl, rfl, rfl, rfl, rfl, rfl, rfl, rfl, rfl, rfl⟩

@[simp] theorem State.onBil_frame (s : State) (a1 : Fin 128) (a2 : OutBil → OutBil) :
    (State.onBil s a1 a2).glb = s.glb ∧ (State.onBil s a1 a2).tim = s.tim ∧ (State.onBil s a1 a2).str = s.str ∧
    (State.onBil s a1 a2).lanes = s.lanes ∧ (State.onBil s a1 a2).rng = s.rng ∧ (State.onBil s a1 a2).rings = s.rings ∧
    (State.onBil s a1 a2).mpl = s.mpl ∧ (State.onBil s a1 a2).uarts = s.uarts ∧ (State.onBil s a1 a2).cans = s.cans ∧
    (State.onBil s a1 a2).seq = s.seq ∧ (State.onBil s a1 a2).ctxs = s.ctxs ∧ (State.onBil s a1 a2).jrn = s.jrn ∧
    (State.onBil s a1 a2).delays = s.delays ∧ (State.onBil s a1 a2).saf = s.saf ∧ (State.onBil s a1 a2).safOut = s.safOut ∧
    (State.onBil s a1 a2).safJ = s.safJ ∧ (State.onBil s a1 a2).shr = s.shr ∧ (State.onBil s a1 a2).shrOut = s.shrOut ∧
    (State.onBil s a1 a2).plc = s.plc ∧ (State.onBil s a1 a2).stas = s.stas ∧ (State.onBil s a1 a2).met = s.met ∧
    (State.onBil s a1 a2).metOut = s.metOut ∧ (State.onBil s a1 a2).enr = s.enr ∧ (State.onBil s a1 a2).enrOut = s.enrOut ∧
    (State.onBil s a1 a2).bil = s.bil ∧ (State.onBil s a1 a2).recd = s.recd ∧ (State.onBil s a1 a2).aut = s.aut ∧
    (State.onBil s a1 a2).autOut = s.autOut ∧ (State.onBil s a1 a2).tagJ = s.tagJ ∧ (State.onBil s a1 a2).store = s.store ∧
    (State.onBil s a1 a2).kit = s.kit ∧ (State.onBil s a1 a2).tie = s.tie ∧ (State.onBil s a1 a2).key = s.key ∧
    (State.onBil s a1 a2).keys = s.keys ∧ (State.onBil s a1 a2).lsw = s.lsw ∧ (State.onBil s a1 a2).epd = s.epd ∧
    (State.onBil s a1 a2).pwr = s.pwr ∧ (State.onBil s a1 a2).upd = s.upd ∧ (State.onBil s a1 a2).pmc = s.pmc ∧
    (State.onBil s a1 a2).keep = s.keep ∧ (State.onBil s a1 a2).fresh = s.fresh ∧ (State.onBil s a1 a2).out = s.out :=
  ⟨rfl, rfl, rfl, rfl, rfl, rfl, rfl, rfl, rfl, rfl, rfl, rfl, rfl, rfl, rfl, rfl, rfl, rfl, rfl, rfl, rfl, rfl, rfl, rfl, rfl, rfl, rfl, rfl, rfl, rfl, rfl, rfl, rfl, rfl, rfl, rfl, rfl, rfl, rfl, rfl, rfl, rfl⟩

@[simp] theorem State.onAut_frame (s : State) (a1 : Fin 128) (a2 : OutAut → OutAut) :
    (State.onAut s a1 a2).glb = s.glb ∧ (State.onAut s a1 a2).tim = s.tim ∧ (State.onAut s a1 a2).str = s.str ∧
    (State.onAut s a1 a2).lanes = s.lanes ∧ (State.onAut s a1 a2).rng = s.rng ∧ (State.onAut s a1 a2).rings = s.rings ∧
    (State.onAut s a1 a2).mpl = s.mpl ∧ (State.onAut s a1 a2).uarts = s.uarts ∧ (State.onAut s a1 a2).cans = s.cans ∧
    (State.onAut s a1 a2).seq = s.seq ∧ (State.onAut s a1 a2).ctxs = s.ctxs ∧ (State.onAut s a1 a2).jrn = s.jrn ∧
    (State.onAut s a1 a2).delays = s.delays ∧ (State.onAut s a1 a2).saf = s.saf ∧ (State.onAut s a1 a2).safOut = s.safOut ∧
    (State.onAut s a1 a2).safJ = s.safJ ∧ (State.onAut s a1 a2).shr = s.shr ∧ (State.onAut s a1 a2).shrOut = s.shrOut ∧
    (State.onAut s a1 a2).plc = s.plc ∧ (State.onAut s a1 a2).stas = s.stas ∧ (State.onAut s a1 a2).met = s.met ∧
    (State.onAut s a1 a2).metOut = s.metOut ∧ (State.onAut s a1 a2).enr = s.enr ∧ (State.onAut s a1 a2).enrOut = s.enrOut ∧
    (State.onAut s a1 a2).bil = s.bil ∧ (State.onAut s a1 a2).bilOut = s.bilOut ∧ (State.onAut s a1 a2).recd = s.recd ∧
    (State.onAut s a1 a2).aut = s.aut ∧ (State.onAut s a1 a2).tagJ = s.tagJ ∧ (State.onAut s a1 a2).store = s.store ∧
    (State.onAut s a1 a2).kit = s.kit ∧ (State.onAut s a1 a2).tie = s.tie ∧ (State.onAut s a1 a2).key = s.key ∧
    (State.onAut s a1 a2).keys = s.keys ∧ (State.onAut s a1 a2).lsw = s.lsw ∧ (State.onAut s a1 a2).epd = s.epd ∧
    (State.onAut s a1 a2).pwr = s.pwr ∧ (State.onAut s a1 a2).upd = s.upd ∧ (State.onAut s a1 a2).pmc = s.pmc ∧
    (State.onAut s a1 a2).keep = s.keep ∧ (State.onAut s a1 a2).fresh = s.fresh ∧ (State.onAut s a1 a2).out = s.out :=
  ⟨rfl, rfl, rfl, rfl, rfl, rfl, rfl, rfl, rfl, rfl, rfl, rfl, rfl, rfl, rfl, rfl, rfl, rfl, rfl, rfl, rfl, rfl, rfl, rfl, rfl, rfl, rfl, rfl, rfl, rfl, rfl, rfl, rfl, rfl, rfl, rfl, rfl, rfl, rfl, rfl, rfl, rfl⟩

@[simp] theorem State.onTagJ_frame (s : State) (a1 : Fin 128) (a2 : TagJournal → TagJournal) :
    (State.onTagJ s a1 a2).glb = s.glb ∧ (State.onTagJ s a1 a2).tim = s.tim ∧ (State.onTagJ s a1 a2).str = s.str ∧
    (State.onTagJ s a1 a2).lanes = s.lanes ∧ (State.onTagJ s a1 a2).rng = s.rng ∧ (State.onTagJ s a1 a2).rings = s.rings ∧
    (State.onTagJ s a1 a2).mpl = s.mpl ∧ (State.onTagJ s a1 a2).uarts = s.uarts ∧ (State.onTagJ s a1 a2).cans = s.cans ∧
    (State.onTagJ s a1 a2).seq = s.seq ∧ (State.onTagJ s a1 a2).ctxs = s.ctxs ∧ (State.onTagJ s a1 a2).jrn = s.jrn ∧
    (State.onTagJ s a1 a2).delays = s.delays ∧ (State.onTagJ s a1 a2).saf = s.saf ∧ (State.onTagJ s a1 a2).safOut = s.safOut ∧
    (State.onTagJ s a1 a2).safJ = s.safJ ∧ (State.onTagJ s a1 a2).shr = s.shr ∧ (State.onTagJ s a1 a2).shrOut = s.shrOut ∧
    (State.onTagJ s a1 a2).plc = s.plc ∧ (State.onTagJ s a1 a2).stas = s.stas ∧ (State.onTagJ s a1 a2).met = s.met ∧
    (State.onTagJ s a1 a2).metOut = s.metOut ∧ (State.onTagJ s a1 a2).enr = s.enr ∧ (State.onTagJ s a1 a2).enrOut = s.enrOut ∧
    (State.onTagJ s a1 a2).bil = s.bil ∧ (State.onTagJ s a1 a2).bilOut = s.bilOut ∧ (State.onTagJ s a1 a2).recd = s.recd ∧
    (State.onTagJ s a1 a2).aut = s.aut ∧ (State.onTagJ s a1 a2).autOut = s.autOut ∧ (State.onTagJ s a1 a2).store = s.store ∧
    (State.onTagJ s a1 a2).kit = s.kit ∧ (State.onTagJ s a1 a2).tie = s.tie ∧ (State.onTagJ s a1 a2).key = s.key ∧
    (State.onTagJ s a1 a2).keys = s.keys ∧ (State.onTagJ s a1 a2).lsw = s.lsw ∧ (State.onTagJ s a1 a2).epd = s.epd ∧
    (State.onTagJ s a1 a2).pwr = s.pwr ∧ (State.onTagJ s a1 a2).upd = s.upd ∧ (State.onTagJ s a1 a2).pmc = s.pmc ∧
    (State.onTagJ s a1 a2).keep = s.keep ∧ (State.onTagJ s a1 a2).fresh = s.fresh ∧ (State.onTagJ s a1 a2).out = s.out :=
  ⟨rfl, rfl, rfl, rfl, rfl, rfl, rfl, rfl, rfl, rfl, rfl, rfl, rfl, rfl, rfl, rfl, rfl, rfl, rfl, rfl, rfl, rfl, rfl, rfl, rfl, rfl, rfl, rfl, rfl, rfl, rfl, rfl, rfl, rfl, rfl, rfl, rfl, rfl, rfl, rfl, rfl, rfl⟩

@[simp] theorem State.onQ_frame (s : State) (a1 : Fin 1024) (a2 : PoolQ → PoolQ) :
    (State.onQ s a1 a2).glb = s.glb ∧ (State.onQ s a1 a2).tim = s.tim ∧ (State.onQ s a1 a2).str = s.str ∧
    (State.onQ s a1 a2).lanes = s.lanes ∧ (State.onQ s a1 a2).rng = s.rng ∧ (State.onQ s a1 a2).rings = s.rings ∧
    (State.onQ s a1 a2).uarts = s.uarts ∧ (State.onQ s a1 a2).cans = s.cans ∧ (State.onQ s a1 a2).seq = s.seq ∧
    (State.onQ s a1 a2).ctxs = s.ctxs ∧ (State.onQ s a1 a2).jrn = s.jrn ∧ (State.onQ s a1 a2).delays = s.delays ∧
    (State.onQ s a1 a2).saf = s.saf ∧ (State.onQ s a1 a2).safOut = s.safOut ∧ (State.onQ s a1 a2).safJ = s.safJ ∧
    (State.onQ s a1 a2).shr = s.shr ∧ (State.onQ s a1 a2).shrOut = s.shrOut ∧ (State.onQ s a1 a2).plc = s.plc ∧
    (State.onQ s a1 a2).stas = s.stas ∧ (State.onQ s a1 a2).met = s.met ∧ (State.onQ s a1 a2).metOut = s.metOut ∧
    (State.onQ s a1 a2).enr = s.enr ∧ (State.onQ s a1 a2).enrOut = s.enrOut ∧ (State.onQ s a1 a2).bil = s.bil ∧
    (State.onQ s a1 a2).bilOut = s.bilOut ∧ (State.onQ s a1 a2).recd = s.recd ∧ (State.onQ s a1 a2).aut = s.aut ∧
    (State.onQ s a1 a2).autOut = s.autOut ∧ (State.onQ s a1 a2).tagJ = s.tagJ ∧ (State.onQ s a1 a2).store = s.store ∧
    (State.onQ s a1 a2).kit = s.kit ∧ (State.onQ s a1 a2).tie = s.tie ∧ (State.onQ s a1 a2).key = s.key ∧
    (State.onQ s a1 a2).keys = s.keys ∧ (State.onQ s a1 a2).lsw = s.lsw ∧ (State.onQ s a1 a2).epd = s.epd ∧
    (State.onQ s a1 a2).pwr = s.pwr ∧ (State.onQ s a1 a2).upd = s.upd ∧ (State.onQ s a1 a2).pmc = s.pmc ∧
    (State.onQ s a1 a2).keep = s.keep ∧ (State.onQ s a1 a2).fresh = s.fresh ∧ (State.onQ s a1 a2).out = s.out :=
  ⟨rfl, rfl, rfl, rfl, rfl, rfl, rfl, rfl, rfl, rfl, rfl, rfl, rfl, rfl, rfl, rfl, rfl, rfl, rfl, rfl, rfl, rfl, rfl, rfl, rfl, rfl, rfl, rfl, rfl, rfl, rfl, rfl, rfl, rfl, rfl, rfl, rfl, rfl, rfl, rfl, rfl, rfl⟩

@[simp] theorem State.onKey_frame (s : State) (a1 : Fin 64) (a2 : KeySlot → KeySlot) :
    (State.onKey s a1 a2).glb = s.glb ∧ (State.onKey s a1 a2).tim = s.tim ∧ (State.onKey s a1 a2).str = s.str ∧
    (State.onKey s a1 a2).lanes = s.lanes ∧ (State.onKey s a1 a2).rng = s.rng ∧ (State.onKey s a1 a2).rings = s.rings ∧
    (State.onKey s a1 a2).mpl = s.mpl ∧ (State.onKey s a1 a2).uarts = s.uarts ∧ (State.onKey s a1 a2).cans = s.cans ∧
    (State.onKey s a1 a2).seq = s.seq ∧ (State.onKey s a1 a2).ctxs = s.ctxs ∧ (State.onKey s a1 a2).jrn = s.jrn ∧
    (State.onKey s a1 a2).delays = s.delays ∧ (State.onKey s a1 a2).saf = s.saf ∧ (State.onKey s a1 a2).safOut = s.safOut ∧
    (State.onKey s a1 a2).safJ = s.safJ ∧ (State.onKey s a1 a2).shr = s.shr ∧ (State.onKey s a1 a2).shrOut = s.shrOut ∧
    (State.onKey s a1 a2).plc = s.plc ∧ (State.onKey s a1 a2).stas = s.stas ∧ (State.onKey s a1 a2).met = s.met ∧
    (State.onKey s a1 a2).metOut = s.metOut ∧ (State.onKey s a1 a2).enr = s.enr ∧ (State.onKey s a1 a2).enrOut = s.enrOut ∧
    (State.onKey s a1 a2).bil = s.bil ∧ (State.onKey s a1 a2).bilOut = s.bilOut ∧ (State.onKey s a1 a2).recd = s.recd ∧
    (State.onKey s a1 a2).aut = s.aut ∧ (State.onKey s a1 a2).autOut = s.autOut ∧ (State.onKey s a1 a2).tagJ = s.tagJ ∧
    (State.onKey s a1 a2).store = s.store ∧ (State.onKey s a1 a2).kit = s.kit ∧ (State.onKey s a1 a2).tie = s.tie ∧
    (State.onKey s a1 a2).key = s.key ∧ (State.onKey s a1 a2).lsw = s.lsw ∧ (State.onKey s a1 a2).epd = s.epd ∧
    (State.onKey s a1 a2).pwr = s.pwr ∧ (State.onKey s a1 a2).upd = s.upd ∧ (State.onKey s a1 a2).pmc = s.pmc ∧
    (State.onKey s a1 a2).keep = s.keep ∧ (State.onKey s a1 a2).fresh = s.fresh ∧ (State.onKey s a1 a2).out = s.out :=
  ⟨rfl, rfl, rfl, rfl, rfl, rfl, rfl, rfl, rfl, rfl, rfl, rfl, rfl, rfl, rfl, rfl, rfl, rfl, rfl, rfl, rfl, rfl, rfl, rfl, rfl, rfl, rfl, rfl, rfl, rfl, rfl, rfl, rfl, rfl, rfl, rfl, rfl, rfl, rfl, rfl, rfl, rfl⟩

@[simp] theorem State.onChan_frame (s : State) (a1 : Fin 32) (a2 : Chan → Chan) :
    (State.onChan s a1 a2).glb = s.glb ∧ (State.onChan s a1 a2).tim = s.tim ∧ (State.onChan s a1 a2).str = s.str ∧
    (State.onChan s a1 a2).lanes = s.lanes ∧ (State.onChan s a1 a2).rng = s.rng ∧ (State.onChan s a1 a2).rings = s.rings ∧
    (State.onChan s a1 a2).mpl = s.mpl ∧ (State.onChan s a1 a2).uarts = s.uarts ∧ (State.onChan s a1 a2).cans = s.cans ∧
    (State.onChan s a1 a2).seq = s.seq ∧ (State.onChan s a1 a2).ctxs = s.ctxs ∧ (State.onChan s a1 a2).jrn = s.jrn ∧
    (State.onChan s a1 a2).delays = s.delays ∧ (State.onChan s a1 a2).saf = s.saf ∧ (State.onChan s a1 a2).safOut = s.safOut ∧
    (State.onChan s a1 a2).safJ = s.safJ ∧ (State.onChan s a1 a2).shr = s.shr ∧ (State.onChan s a1 a2).shrOut = s.shrOut ∧
    (State.onChan s a1 a2).plc = s.plc ∧ (State.onChan s a1 a2).stas = s.stas ∧ (State.onChan s a1 a2).met = s.met ∧
    (State.onChan s a1 a2).metOut = s.metOut ∧ (State.onChan s a1 a2).enr = s.enr ∧ (State.onChan s a1 a2).enrOut = s.enrOut ∧
    (State.onChan s a1 a2).bil = s.bil ∧ (State.onChan s a1 a2).bilOut = s.bilOut ∧ (State.onChan s a1 a2).recd = s.recd ∧
    (State.onChan s a1 a2).aut = s.aut ∧ (State.onChan s a1 a2).autOut = s.autOut ∧ (State.onChan s a1 a2).tagJ = s.tagJ ∧
    (State.onChan s a1 a2).store = s.store ∧ (State.onChan s a1 a2).kit = s.kit ∧ (State.onChan s a1 a2).tie = s.tie ∧
    (State.onChan s a1 a2).key = s.key ∧ (State.onChan s a1 a2).keys = s.keys ∧ (State.onChan s a1 a2).epd = s.epd ∧
    (State.onChan s a1 a2).pwr = s.pwr ∧ (State.onChan s a1 a2).upd = s.upd ∧ (State.onChan s a1 a2).pmc = s.pmc ∧
    (State.onChan s a1 a2).keep = s.keep ∧ (State.onChan s a1 a2).fresh = s.fresh ∧ (State.onChan s a1 a2).out = s.out :=
  ⟨rfl, rfl, rfl, rfl, rfl, rfl, rfl, rfl, rfl, rfl, rfl, rfl, rfl, rfl, rfl, rfl, rfl, rfl, rfl, rfl, rfl, rfl, rfl, rfl, rfl, rfl, rfl, rfl, rfl, rfl, rfl, rfl, rfl, rfl, rfl, rfl, rfl, rfl, rfl, rfl, rfl, rfl⟩

@[simp] theorem State.free_frame (s : State) :
    (State.free s).2.glb = s.glb ∧ (State.free s).2.tim = s.tim ∧ (State.free s).2.str = s.str ∧
    (State.free s).2.lanes = s.lanes ∧ (State.free s).2.rng = s.rng ∧ (State.free s).2.rings = s.rings ∧
    (State.free s).2.mpl = s.mpl ∧ (State.free s).2.uarts = s.uarts ∧ (State.free s).2.cans = s.cans ∧
    (State.free s).2.seq = s.seq ∧ (State.free s).2.ctxs = s.ctxs ∧ (State.free s).2.jrn = s.jrn ∧
    (State.free s).2.delays = s.delays ∧ (State.free s).2.saf = s.saf ∧ (State.free s).2.safOut = s.safOut ∧
    (State.free s).2.safJ = s.safJ ∧ (State.free s).2.shr = s.shr ∧ (State.free s).2.shrOut = s.shrOut ∧
    (State.free s).2.plc = s.plc ∧ (State.free s).2.stas = s.stas ∧ (State.free s).2.met = s.met ∧
    (State.free s).2.metOut = s.metOut ∧ (State.free s).2.enr = s.enr ∧ (State.free s).2.enrOut = s.enrOut ∧
    (State.free s).2.bil = s.bil ∧ (State.free s).2.bilOut = s.bilOut ∧ (State.free s).2.recd = s.recd ∧
    (State.free s).2.aut = s.aut ∧ (State.free s).2.autOut = s.autOut ∧ (State.free s).2.tagJ = s.tagJ ∧
    (State.free s).2.store = s.store ∧ (State.free s).2.kit = s.kit ∧ (State.free s).2.tie = s.tie ∧
    (State.free s).2.key = s.key ∧ (State.free s).2.keys = s.keys ∧ (State.free s).2.lsw = s.lsw ∧ (State.free s).2.epd = s.epd ∧
    (State.free s).2.pwr = s.pwr ∧ (State.free s).2.upd = s.upd ∧ (State.free s).2.pmc = s.pmc ∧ (State.free s).2.keep = s.keep ∧
    (State.free s).2.out = s.out :=
  ⟨rfl, rfl, rfl, rfl, rfl, rfl, rfl, rfl, rfl, rfl, rfl, rfl, rfl, rfl, rfl, rfl, rfl, rfl, rfl, rfl, rfl, rfl, rfl, rfl, rfl, rfl, rfl, rfl, rfl, rfl, rfl, rfl, rfl, rfl, rfl, rfl, rfl, rfl, rfl, rfl, rfl, rfl⟩

@[simp] theorem State.draw_frame (s : State) :
    (State.draw s).2.glb = s.glb ∧ (State.draw s).2.tim = s.tim ∧ (State.draw s).2.str = s.str ∧
    (State.draw s).2.lanes = s.lanes ∧ (State.draw s).2.rng = s.rng ∧ (State.draw s).2.rings = s.rings ∧
    (State.draw s).2.mpl = s.mpl ∧ (State.draw s).2.uarts = s.uarts ∧ (State.draw s).2.cans = s.cans ∧
    (State.draw s).2.seq = s.seq ∧ (State.draw s).2.ctxs = s.ctxs ∧ (State.draw s).2.jrn = s.jrn ∧
    (State.draw s).2.delays = s.delays ∧ (State.draw s).2.saf = s.saf ∧ (State.draw s).2.safOut = s.safOut ∧
    (State.draw s).2.safJ = s.safJ ∧ (State.draw s).2.shr = s.shr ∧ (State.draw s).2.shrOut = s.shrOut ∧
    (State.draw s).2.plc = s.plc ∧ (State.draw s).2.stas = s.stas ∧ (State.draw s).2.met = s.met ∧
    (State.draw s).2.metOut = s.metOut ∧ (State.draw s).2.enr = s.enr ∧ (State.draw s).2.enrOut = s.enrOut ∧
    (State.draw s).2.bil = s.bil ∧ (State.draw s).2.bilOut = s.bilOut ∧ (State.draw s).2.recd = s.recd ∧
    (State.draw s).2.aut = s.aut ∧ (State.draw s).2.autOut = s.autOut ∧ (State.draw s).2.tagJ = s.tagJ ∧
    (State.draw s).2.store = s.store ∧ (State.draw s).2.kit = s.kit ∧ (State.draw s).2.tie = s.tie ∧
    (State.draw s).2.key = s.key ∧ (State.draw s).2.keys = s.keys ∧ (State.draw s).2.lsw = s.lsw ∧ (State.draw s).2.epd = s.epd ∧
    (State.draw s).2.pwr = s.pwr ∧ (State.draw s).2.upd = s.upd ∧ (State.draw s).2.pmc = s.pmc ∧ (State.draw s).2.keep = s.keep ∧
    (State.draw s).2.out = s.out :=
  ⟨rfl, rfl, rfl, rfl, rfl, rfl, rfl, rfl, rfl, rfl, rfl, rfl, rfl, rfl, rfl, rfl, rfl, rfl, rfl, rfl, rfl, rfl, rfl, rfl, rfl, rfl, rfl, rfl, rfl, rfl, rfl, rfl, rfl, rfl, rfl, rfl, rfl, rfl, rfl, rfl, rfl, rfl⟩

@[simp] theorem State.send_frame (s : State) (a1 : Sys2Proof.Out) :
    (State.send s a1).glb = s.glb ∧ (State.send s a1).tim = s.tim ∧ (State.send s a1).str = s.str ∧
    (State.send s a1).lanes = s.lanes ∧ (State.send s a1).rng = s.rng ∧ (State.send s a1).rings = s.rings ∧
    (State.send s a1).mpl = s.mpl ∧ (State.send s a1).uarts = s.uarts ∧ (State.send s a1).cans = s.cans ∧
    (State.send s a1).seq = s.seq ∧ (State.send s a1).ctxs = s.ctxs ∧ (State.send s a1).jrn = s.jrn ∧
    (State.send s a1).delays = s.delays ∧ (State.send s a1).saf = s.saf ∧ (State.send s a1).safOut = s.safOut ∧
    (State.send s a1).safJ = s.safJ ∧ (State.send s a1).shr = s.shr ∧ (State.send s a1).shrOut = s.shrOut ∧
    (State.send s a1).plc = s.plc ∧ (State.send s a1).stas = s.stas ∧ (State.send s a1).met = s.met ∧
    (State.send s a1).metOut = s.metOut ∧ (State.send s a1).enr = s.enr ∧ (State.send s a1).enrOut = s.enrOut ∧
    (State.send s a1).bil = s.bil ∧ (State.send s a1).bilOut = s.bilOut ∧ (State.send s a1).recd = s.recd ∧
    (State.send s a1).aut = s.aut ∧ (State.send s a1).autOut = s.autOut ∧ (State.send s a1).tagJ = s.tagJ ∧
    (State.send s a1).store = s.store ∧ (State.send s a1).kit = s.kit ∧ (State.send s a1).tie = s.tie ∧
    (State.send s a1).key = s.key ∧ (State.send s a1).keys = s.keys ∧ (State.send s a1).lsw = s.lsw ∧
    (State.send s a1).epd = s.epd ∧ (State.send s a1).pwr = s.pwr ∧ (State.send s a1).upd = s.upd ∧
    (State.send s a1).pmc = s.pmc ∧ (State.send s a1).keep = s.keep ∧ (State.send s a1).fresh = s.fresh :=
  ⟨rfl, rfl, rfl, rfl, rfl, rfl, rfl, rfl, rfl, rfl, rfl, rfl, rfl, rfl, rfl, rfl, rfl, rfl, rfl, rfl, rfl, rfl, rfl, rfl, rfl, rfl, rfl, rfl, rfl, rfl, rfl, rfl, rfl, rfl, rfl, rfl, rfl, rfl, rfl, rfl, rfl, rfl⟩

@[simp] theorem State.count_frame (s : State) (a1 : Fin 8) (a2 : ℕ) (a3 : ℕ) :
    (State.count s a1 a2 a3).glb = s.glb ∧ (State.count s a1 a2 a3).tim = s.tim ∧ (State.count s a1 a2 a3).str = s.str ∧
    (State.count s a1 a2 a3).lanes = s.lanes ∧ (State.count s a1 a2 a3).rng = s.rng ∧ (State.count s a1 a2 a3).rings = s.rings ∧
    (State.count s a1 a2 a3).mpl = s.mpl ∧ (State.count s a1 a2 a3).uarts = s.uarts ∧ (State.count s a1 a2 a3).cans = s.cans ∧
    (State.count s a1 a2 a3).seq = s.seq ∧ (State.count s a1 a2 a3).ctxs = s.ctxs ∧ (State.count s a1 a2 a3).jrn = s.jrn ∧
    (State.count s a1 a2 a3).delays = s.delays ∧ (State.count s a1 a2 a3).saf = s.saf ∧
    (State.count s a1 a2 a3).safOut = s.safOut ∧ (State.count s a1 a2 a3).safJ = s.safJ ∧ (State.count s a1 a2 a3).shr = s.shr ∧
    (State.count s a1 a2 a3).shrOut = s.shrOut ∧ (State.count s a1 a2 a3).plc = s.plc ∧ (State.count s a1 a2 a3).stas = s.stas ∧
    (State.count s a1 a2 a3).met = s.met ∧ (State.count s a1 a2 a3).metOut = s.metOut ∧ (State.count s a1 a2 a3).enr = s.enr ∧
    (State.count s a1 a2 a3).enrOut = s.enrOut ∧ (State.count s a1 a2 a3).bil = s.bil ∧
    (State.count s a1 a2 a3).bilOut = s.bilOut ∧ (State.count s a1 a2 a3).recd = s.recd ∧ (State.count s a1 a2 a3).aut = s.aut ∧
    (State.count s a1 a2 a3).autOut = s.autOut ∧ (State.count s a1 a2 a3).tagJ = s.tagJ ∧
    (State.count s a1 a2 a3).store = s.store ∧ (State.count s a1 a2 a3).kit = s.kit ∧ (State.count s a1 a2 a3).tie = s.tie ∧
    (State.count s a1 a2 a3).key = s.key ∧ (State.count s a1 a2 a3).keys = s.keys ∧ (State.count s a1 a2 a3).lsw = s.lsw ∧
    (State.count s a1 a2 a3).epd = s.epd ∧ (State.count s a1 a2 a3).pwr = s.pwr ∧ (State.count s a1 a2 a3).upd = s.upd ∧
    (State.count s a1 a2 a3).keep = s.keep ∧ (State.count s a1 a2 a3).fresh = s.fresh ∧ (State.count s a1 a2 a3).out = s.out :=
  ⟨rfl, rfl, rfl, rfl, rfl, rfl, rfl, rfl, rfl, rfl, rfl, rfl, rfl, rfl, rfl, rfl, rfl, rfl, rfl, rfl, rfl, rfl, rfl, rfl, rfl, rfl, rfl, rfl, rfl, rfl, rfl, rfl, rfl, rfl, rfl, rfl, rfl, rfl, rfl, rfl, rfl, rfl⟩

@[simp] theorem State.laneBytes_frame (s : State) (a1 : Fin 128) (a2 : Bool) :
    (State.laneBytes s a1 a2).glb = s.glb ∧ (State.laneBytes s a1 a2).tim = s.tim ∧ (State.laneBytes s a1 a2).str = s.str ∧
    (State.laneBytes s a1 a2).lanes = s.lanes ∧ (State.laneBytes s a1 a2).rng = s.rng ∧
    (State.laneBytes s a1 a2).rings = s.rings ∧ (State.laneBytes s a1 a2).mpl = s.mpl ∧
    (State.laneBytes s a1 a2).uarts = s.uarts ∧ (State.laneBytes s a1 a2).cans = s.cans ∧ (State.laneBytes s a1 a2).seq = s.seq ∧
    (State.laneBytes s a1 a2).ctxs = s.ctxs ∧ (State.laneBytes s a1 a2).jrn = s.jrn ∧
    (State.laneBytes s a1 a2).delays = s.delays ∧ (State.laneBytes s a1 a2).saf = s.saf ∧
    (State.laneBytes s a1 a2).safOut = s.safOut ∧ (State.laneBytes s a1 a2).safJ = s.safJ ∧
    (State.laneBytes s a1 a2).shr = s.shr ∧ (State.laneBytes s a1 a2).shrOut = s.shrOut ∧ (State.laneBytes s a1 a2).plc = s.plc ∧
    (State.laneBytes s a1 a2).stas = s.stas ∧ (State.laneBytes s a1 a2).met = s.met ∧
    (State.laneBytes s a1 a2).metOut = s.metOut ∧ (State.laneBytes s a1 a2).enr = s.enr ∧
    (State.laneBytes s a1 a2).enrOut = s.enrOut ∧ (State.laneBytes s a1 a2).bil = s.bil ∧
    (State.laneBytes s a1 a2).bilOut = s.bilOut ∧ (State.laneBytes s a1 a2).recd = s.recd ∧
    (State.laneBytes s a1 a2).aut = s.aut ∧ (State.laneBytes s a1 a2).autOut = s.autOut ∧
    (State.laneBytes s a1 a2).tagJ = s.tagJ ∧ (State.laneBytes s a1 a2).store = s.store ∧ (State.laneBytes s a1 a2).kit = s.kit ∧
    (State.laneBytes s a1 a2).tie = s.tie ∧ (State.laneBytes s a1 a2).key = s.key ∧ (State.laneBytes s a1 a2).keys = s.keys ∧
    (State.laneBytes s a1 a2).lsw = s.lsw ∧ (State.laneBytes s a1 a2).epd = s.epd ∧ (State.laneBytes s a1 a2).pwr = s.pwr ∧
    (State.laneBytes s a1 a2).upd = s.upd ∧ (State.laneBytes s a1 a2).keep = s.keep ∧ (State.laneBytes s a1 a2).fresh = s.fresh ∧
    (State.laneBytes s a1 a2).out = s.out :=
  ⟨rfl, rfl, rfl, rfl, rfl, rfl, rfl, rfl, rfl, rfl, rfl, rfl, rfl, rfl, rfl, rfl, rfl, rfl, rfl, rfl, rfl, rfl, rfl, rfl, rfl, rfl, rfl, rfl, rfl, rfl, rfl, rfl, rfl, rfl, rfl, rfl, rfl, rfl, rfl, rfl, rfl, rfl⟩

@[simp] theorem State.onLog_frame (s : State) (a1 : Bool) (a2 : Log → Log) :
    (State.onLog s a1 a2).glb = s.glb ∧ (State.onLog s a1 a2).tim = s.tim ∧ (State.onLog s a1 a2).str = s.str ∧
    (State.onLog s a1 a2).lanes = s.lanes ∧ (State.onLog s a1 a2).rng = s.rng ∧ (State.onLog s a1 a2).rings = s.rings ∧
    (State.onLog s a1 a2).mpl = s.mpl ∧ (State.onLog s a1 a2).uarts = s.uarts ∧ (State.onLog s a1 a2).cans = s.cans ∧
    (State.onLog s a1 a2).seq = s.seq ∧ (State.onLog s a1 a2).ctxs = s.ctxs ∧ (State.onLog s a1 a2).jrn = s.jrn ∧
    (State.onLog s a1 a2).delays = s.delays ∧ (State.onLog s a1 a2).saf = s.saf ∧ (State.onLog s a1 a2).safOut = s.safOut ∧
    (State.onLog s a1 a2).safJ = s.safJ ∧ (State.onLog s a1 a2).shr = s.shr ∧ (State.onLog s a1 a2).shrOut = s.shrOut ∧
    (State.onLog s a1 a2).plc = s.plc ∧ (State.onLog s a1 a2).stas = s.stas ∧ (State.onLog s a1 a2).met = s.met ∧
    (State.onLog s a1 a2).metOut = s.metOut ∧ (State.onLog s a1 a2).enr = s.enr ∧ (State.onLog s a1 a2).enrOut = s.enrOut ∧
    (State.onLog s a1 a2).bil = s.bil ∧ (State.onLog s a1 a2).bilOut = s.bilOut ∧ (State.onLog s a1 a2).aut = s.aut ∧
    (State.onLog s a1 a2).autOut = s.autOut ∧ (State.onLog s a1 a2).tagJ = s.tagJ ∧ (State.onLog s a1 a2).store = s.store ∧
    (State.onLog s a1 a2).kit = s.kit ∧ (State.onLog s a1 a2).tie = s.tie ∧ (State.onLog s a1 a2).key = s.key ∧
    (State.onLog s a1 a2).keys = s.keys ∧ (State.onLog s a1 a2).lsw = s.lsw ∧ (State.onLog s a1 a2).epd = s.epd ∧
    (State.onLog s a1 a2).pwr = s.pwr ∧ (State.onLog s a1 a2).upd = s.upd ∧ (State.onLog s a1 a2).pmc = s.pmc ∧
    (State.onLog s a1 a2).keep = s.keep ∧ (State.onLog s a1 a2).fresh = s.fresh ∧ (State.onLog s a1 a2).out = s.out :=
  ⟨rfl, rfl, rfl, rfl, rfl, rfl, rfl, rfl, rfl, rfl, rfl, rfl, rfl, rfl, rfl, rfl, rfl, rfl, rfl, rfl, rfl, rfl, rfl, rfl, rfl, rfl, rfl, rfl, rfl, rfl, rfl, rfl, rfl, rfl, rfl, rfl, rfl, rfl, rfl, rfl, rfl, rfl⟩

@[simp] theorem State.onCmd_frame (s : State) (a1 : Fin 16) (a2 : BitVec 32) (a3 : CmdRec → CmdRec) :
    (State.onCmd s a1 a2 a3).glb = s.glb ∧ (State.onCmd s a1 a2 a3).tim = s.tim ∧ (State.onCmd s a1 a2 a3).str = s.str ∧
    (State.onCmd s a1 a2 a3).lanes = s.lanes ∧ (State.onCmd s a1 a2 a3).rings = s.rings ∧ (State.onCmd s a1 a2 a3).mpl = s.mpl ∧
    (State.onCmd s a1 a2 a3).uarts = s.uarts ∧ (State.onCmd s a1 a2 a3).cans = s.cans ∧ (State.onCmd s a1 a2 a3).seq = s.seq ∧
    (State.onCmd s a1 a2 a3).ctxs = s.ctxs ∧ (State.onCmd s a1 a2 a3).jrn = s.jrn ∧ (State.onCmd s a1 a2 a3).delays = s.delays ∧
    (State.onCmd s a1 a2 a3).saf = s.saf ∧ (State.onCmd s a1 a2 a3).safOut = s.safOut ∧ (State.onCmd s a1 a2 a3).safJ = s.safJ ∧
    (State.onCmd s a1 a2 a3).shr = s.shr ∧ (State.onCmd s a1 a2 a3).shrOut = s.shrOut ∧ (State.onCmd s a1 a2 a3).plc = s.plc ∧
    (State.onCmd s a1 a2 a3).stas = s.stas ∧ (State.onCmd s a1 a2 a3).met = s.met ∧ (State.onCmd s a1 a2 a3).metOut = s.metOut ∧
    (State.onCmd s a1 a2 a3).enr = s.enr ∧ (State.onCmd s a1 a2 a3).enrOut = s.enrOut ∧ (State.onCmd s a1 a2 a3).bil = s.bil ∧
    (State.onCmd s a1 a2 a3).bilOut = s.bilOut ∧ (State.onCmd s a1 a2 a3).recd = s.recd ∧ (State.onCmd s a1 a2 a3).aut = s.aut ∧
    (State.onCmd s a1 a2 a3).autOut = s.autOut ∧ (State.onCmd s a1 a2 a3).tagJ = s.tagJ ∧
    (State.onCmd s a1 a2 a3).store = s.store ∧ (State.onCmd s a1 a2 a3).kit = s.kit ∧ (State.onCmd s a1 a2 a3).tie = s.tie ∧
    (State.onCmd s a1 a2 a3).key = s.key ∧ (State.onCmd s a1 a2 a3).keys = s.keys ∧ (State.onCmd s a1 a2 a3).lsw = s.lsw ∧
    (State.onCmd s a1 a2 a3).epd = s.epd ∧ (State.onCmd s a1 a2 a3).pwr = s.pwr ∧ (State.onCmd s a1 a2 a3).upd = s.upd ∧
    (State.onCmd s a1 a2 a3).pmc = s.pmc ∧ (State.onCmd s a1 a2 a3).keep = s.keep ∧ (State.onCmd s a1 a2 a3).fresh = s.fresh ∧
    (State.onCmd s a1 a2 a3).out = s.out :=
  ⟨rfl, rfl, rfl, rfl, rfl, rfl, rfl, rfl, rfl, rfl, rfl, rfl, rfl, rfl, rfl, rfl, rfl, rfl, rfl, rfl, rfl, rfl, rfl, rfl, rfl, rfl, rfl, rfl, rfl, rfl, rfl, rfl, rfl, rfl, rfl, rfl, rfl, rfl, rfl, rfl, rfl, rfl⟩

@[simp] theorem State.dropMark_frame (s : State) (a1 : MarkOwner) (a2 : ℕ) :
    (State.dropMark s a1 a2).glb = s.glb ∧ (State.dropMark s a1 a2).str = s.str ∧ (State.dropMark s a1 a2).lanes = s.lanes ∧
    (State.dropMark s a1 a2).rng = s.rng ∧ (State.dropMark s a1 a2).rings = s.rings ∧ (State.dropMark s a1 a2).mpl = s.mpl ∧
    (State.dropMark s a1 a2).uarts = s.uarts ∧ (State.dropMark s a1 a2).cans = s.cans ∧ (State.dropMark s a1 a2).seq = s.seq ∧
    (State.dropMark s a1 a2).ctxs = s.ctxs ∧ (State.dropMark s a1 a2).jrn = s.jrn ∧ (State.dropMark s a1 a2).delays = s.delays ∧
    (State.dropMark s a1 a2).saf = s.saf ∧ (State.dropMark s a1 a2).safOut = s.safOut ∧ (State.dropMark s a1 a2).safJ = s.safJ ∧
    (State.dropMark s a1 a2).shr = s.shr ∧ (State.dropMark s a1 a2).shrOut = s.shrOut ∧ (State.dropMark s a1 a2).plc = s.plc ∧
    (State.dropMark s a1 a2).stas = s.stas ∧ (State.dropMark s a1 a2).met = s.met ∧ (State.dropMark s a1 a2).metOut = s.metOut ∧
    (State.dropMark s a1 a2).enr = s.enr ∧ (State.dropMark s a1 a2).enrOut = s.enrOut ∧ (State.dropMark s a1 a2).bil = s.bil ∧
    (State.dropMark s a1 a2).bilOut = s.bilOut ∧ (State.dropMark s a1 a2).recd = s.recd ∧ (State.dropMark s a1 a2).aut = s.aut ∧
    (State.dropMark s a1 a2).autOut = s.autOut ∧ (State.dropMark s a1 a2).tagJ = s.tagJ ∧
    (State.dropMark s a1 a2).store = s.store ∧ (State.dropMark s a1 a2).kit = s.kit ∧ (State.dropMark s a1 a2).tie = s.tie ∧
    (State.dropMark s a1 a2).key = s.key ∧ (State.dropMark s a1 a2).keys = s.keys ∧ (State.dropMark s a1 a2).lsw = s.lsw ∧
    (State.dropMark s a1 a2).epd = s.epd ∧ (State.dropMark s a1 a2).pwr = s.pwr ∧ (State.dropMark s a1 a2).upd = s.upd ∧
    (State.dropMark s a1 a2).pmc = s.pmc ∧ (State.dropMark s a1 a2).keep = s.keep ∧ (State.dropMark s a1 a2).fresh = s.fresh ∧
    (State.dropMark s a1 a2).out = s.out :=
  ⟨rfl, rfl, rfl, rfl, rfl, rfl, rfl, rfl, rfl, rfl, rfl, rfl, rfl, rfl, rfl, rfl, rfl, rfl, rfl, rfl, rfl, rfl, rfl, rfl, rfl, rfl, rfl, rfl, rfl, rfl, rfl, rfl, rfl, rfl, rfl, rfl, rfl, rfl, rfl, rfl, rfl, rfl⟩

end Sys2Proof.Machine
end

