-- ==== Sys2Proof/Laws/Frames.lean ====
section
/-! SUPPORT. What each shared operation leaves alone, one lemma for each. -/

namespace Sys2Proof.Machine

@[simp] theorem pushRecord_frame (s : State) (a1 : Bool) (a2 : LogRec) :
    (pushRecord s a1 a2).glb = s.glb ∧ (pushRecord s a1 a2).tim = s.tim ∧ (pushRecord s a1 a2).str = s.str ∧
    (pushRecord s a1 a2).lanes = s.lanes ∧ (pushRecord s a1 a2).rng = s.rng ∧ (pushRecord s a1 a2).rings = s.rings ∧
    (pushRecord s a1 a2).mpl = s.mpl ∧ (pushRecord s a1 a2).uarts = s.uarts ∧ (pushRecord s a1 a2).cans = s.cans ∧
    (pushRecord s a1 a2).seq = s.seq ∧ (pushRecord s a1 a2).ctxs = s.ctxs ∧ (pushRecord s a1 a2).jrn = s.jrn ∧
    (pushRecord s a1 a2).delays = s.delays ∧ (pushRecord s a1 a2).saf = s.saf ∧ (pushRecord s a1 a2).safOut = s.safOut ∧
    (pushRecord s a1 a2).safJ = s.safJ ∧ (pushRecord s a1 a2).shr = s.shr ∧ (pushRecord s a1 a2).shrOut = s.shrOut ∧
    (pushRecord s a1 a2).plc = s.plc ∧ (pushRecord s a1 a2).stas = s.stas ∧ (pushRecord s a1 a2).met = s.met ∧
    (pushRecord s a1 a2).metOut = s.metOut ∧ (pushRecord s a1 a2).enr = s.enr ∧ (pushRecord s a1 a2).enrOut = s.enrOut ∧
    (pushRecord s a1 a2).bil = s.bil ∧ (pushRecord s a1 a2).bilOut = s.bilOut ∧ (pushRecord s a1 a2).aut = s.aut ∧
    (pushRecord s a1 a2).autOut = s.autOut ∧ (pushRecord s a1 a2).tagJ = s.tagJ ∧ (pushRecord s a1 a2).store = s.store ∧
    (pushRecord s a1 a2).kit = s.kit ∧ (pushRecord s a1 a2).tie = s.tie ∧ (pushRecord s a1 a2).key = s.key ∧
    (pushRecord s a1 a2).keys = s.keys ∧ (pushRecord s a1 a2).lsw = s.lsw ∧ (pushRecord s a1 a2).epd = s.epd ∧
    (pushRecord s a1 a2).pwr = s.pwr ∧ (pushRecord s a1 a2).upd = s.upd ∧ (pushRecord s a1 a2).pmc = s.pmc ∧
    (pushRecord s a1 a2).keep = s.keep ∧ (pushRecord s a1 a2).fresh = s.fresh ∧ (pushRecord s a1 a2).out = s.out := by
  simp [pushRecord]

@[simp] theorem recordOnly_frame (s : State) (a1 : Bool) (a2 : ℕ) (a3 : Option (Fin 128)) (a4 : List Sys2Proof.Byte) :
    (recordOnly s a1 a2 a3 a4).glb = s.glb ∧ (recordOnly s a1 a2 a3 a4).tim = s.tim ∧ (recordOnly s a1 a2 a3 a4).str = s.str ∧
    (recordOnly s a1 a2 a3 a4).lanes = s.lanes ∧ (recordOnly s a1 a2 a3 a4).rng = s.rng ∧
    (recordOnly s a1 a2 a3 a4).rings = s.rings ∧ (recordOnly s a1 a2 a3 a4).mpl = s.mpl ∧
    (recordOnly s a1 a2 a3 a4).uarts = s.uarts ∧ (recordOnly s a1 a2 a3 a4).cans = s.cans ∧
    (recordOnly s a1 a2 a3 a4).seq = s.seq ∧ (recordOnly s a1 a2 a3 a4).ctxs = s.ctxs ∧ (recordOnly s a1 a2 a3 a4).jrn = s.jrn ∧
    (recordOnly s a1 a2 a3 a4).delays = s.delays ∧ (recordOnly s a1 a2 a3 a4).saf = s.saf ∧
    (recordOnly s a1 a2 a3 a4).safOut = s.safOut ∧ (recordOnly s a1 a2 a3 a4).safJ = s.safJ ∧
    (recordOnly s a1 a2 a3 a4).shr = s.shr ∧ (recordOnly s a1 a2 a3 a4).shrOut = s.shrOut ∧
    (recordOnly s a1 a2 a3 a4).plc = s.plc ∧ (recordOnly s a1 a2 a3 a4).stas = s.stas ∧ (recordOnly s a1 a2 a3 a4).met = s.met ∧
    (recordOnly s a1 a2 a3 a4).metOut = s.metOut ∧ (recordOnly s a1 a2 a3 a4).enr = s.enr ∧
    (recordOnly s a1 a2 a3 a4).enrOut = s.enrOut ∧ (recordOnly s a1 a2 a3 a4).bil = s.bil ∧
    (recordOnly s a1 a2 a3 a4).bilOut = s.bilOut ∧ (recordOnly s a1 a2 a3 a4).aut = s.aut ∧
    (recordOnly s a1 a2 a3 a4).autOut = s.autOut ∧ (recordOnly s a1 a2 a3 a4).tagJ = s.tagJ ∧
    (recordOnly s a1 a2 a3 a4).store = s.store ∧ (recordOnly s a1 a2 a3 a4).kit = s.kit ∧
    (recordOnly s a1 a2 a3 a4).tie = s.tie ∧ (recordOnly s a1 a2 a3 a4).key = s.key ∧ (recordOnly s a1 a2 a3 a4).keys = s.keys ∧
    (recordOnly s a1 a2 a3 a4).lsw = s.lsw ∧ (recordOnly s a1 a2 a3 a4).epd = s.epd ∧ (recordOnly s a1 a2 a3 a4).pwr = s.pwr ∧
    (recordOnly s a1 a2 a3 a4).upd = s.upd ∧ (recordOnly s a1 a2 a3 a4).pmc = s.pmc ∧ (recordOnly s a1 a2 a3 a4).keep = s.keep ∧
    (recordOnly s a1 a2 a3 a4).fresh = s.fresh ∧ (recordOnly s a1 a2 a3 a4).out = s.out := by
  simp [recordOnly]

@[simp] theorem markRecord_frame (s : State) (a1 : ℕ) (a2 : LogRec → LogRec) :
    (markRecord s a1 a2).glb = s.glb ∧ (markRecord s a1 a2).tim = s.tim ∧ (markRecord s a1 a2).str = s.str ∧
    (markRecord s a1 a2).lanes = s.lanes ∧ (markRecord s a1 a2).rng = s.rng ∧ (markRecord s a1 a2).rings = s.rings ∧
    (markRecord s a1 a2).mpl = s.mpl ∧ (markRecord s a1 a2).uarts = s.uarts ∧ (markRecord s a1 a2).cans = s.cans ∧
    (markRecord s a1 a2).seq = s.seq ∧ (markRecord s a1 a2).ctxs = s.ctxs ∧ (markRecord s a1 a2).jrn = s.jrn ∧
    (markRecord s a1 a2).delays = s.delays ∧ (markRecord s a1 a2).saf = s.saf ∧ (markRecord s a1 a2).safOut = s.safOut ∧
    (markRecord s a1 a2).safJ = s.safJ ∧ (markRecord s a1 a2).shr = s.shr ∧ (markRecord s a1 a2).shrOut = s.shrOut ∧
    (markRecord s a1 a2).plc = s.plc ∧ (markRecord s a1 a2).stas = s.stas ∧ (markRecord s a1 a2).met = s.met ∧
    (markRecord s a1 a2).metOut = s.metOut ∧ (markRecord s a1 a2).enr = s.enr ∧ (markRecord s a1 a2).enrOut = s.enrOut ∧
    (markRecord s a1 a2).bil = s.bil ∧ (markRecord s a1 a2).bilOut = s.bilOut ∧ (markRecord s a1 a2).aut = s.aut ∧
    (markRecord s a1 a2).autOut = s.autOut ∧ (markRecord s a1 a2).tagJ = s.tagJ ∧ (markRecord s a1 a2).store = s.store ∧
    (markRecord s a1 a2).kit = s.kit ∧ (markRecord s a1 a2).tie = s.tie ∧ (markRecord s a1 a2).key = s.key ∧
    (markRecord s a1 a2).keys = s.keys ∧ (markRecord s a1 a2).lsw = s.lsw ∧ (markRecord s a1 a2).epd = s.epd ∧
    (markRecord s a1 a2).pwr = s.pwr ∧ (markRecord s a1 a2).upd = s.upd ∧ (markRecord s a1 a2).pmc = s.pmc ∧
    (markRecord s a1 a2).keep = s.keep ∧ (markRecord s a1 a2).fresh = s.fresh ∧ (markRecord s a1 a2).out = s.out := by
  simp [markRecord]

@[simp] theorem State.hostWrite_frame (s : State) (a1 : BitVec 64) (a2 : List Sys2Proof.Byte) :
    (State.hostWrite s a1 a2).glb = s.glb ∧ (State.hostWrite s a1 a2).tim = s.tim ∧ (State.hostWrite s a1 a2).str = s.str ∧
    (State.hostWrite s a1 a2).lanes = s.lanes ∧ (State.hostWrite s a1 a2).rng = s.rng ∧
    (State.hostWrite s a1 a2).rings = s.rings ∧ (State.hostWrite s a1 a2).mpl = s.mpl ∧
    (State.hostWrite s a1 a2).uarts = s.uarts ∧ (State.hostWrite s a1 a2).cans = s.cans ∧ (State.hostWrite s a1 a2).seq = s.seq ∧
    (State.hostWrite s a1 a2).ctxs = s.ctxs ∧ (State.hostWrite s a1 a2).jrn = s.jrn ∧
    (State.hostWrite s a1 a2).delays = s.delays ∧ (State.hostWrite s a1 a2).saf = s.saf ∧
    (State.hostWrite s a1 a2).safOut = s.safOut ∧ (State.hostWrite s a1 a2).safJ = s.safJ ∧
    (State.hostWrite s a1 a2).shr = s.shr ∧ (State.hostWrite s a1 a2).shrOut = s.shrOut ∧ (State.hostWrite s a1 a2).plc = s.plc ∧
    (State.hostWrite s a1 a2).stas = s.stas ∧ (State.hostWrite s a1 a2).met = s.met ∧
    (State.hostWrite s a1 a2).metOut = s.metOut ∧ (State.hostWrite s a1 a2).enr = s.enr ∧
    (State.hostWrite s a1 a2).enrOut = s.enrOut ∧ (State.hostWrite s a1 a2).bil = s.bil ∧
    (State.hostWrite s a1 a2).bilOut = s.bilOut ∧ (State.hostWrite s a1 a2).recd = s.recd ∧
    (State.hostWrite s a1 a2).aut = s.aut ∧ (State.hostWrite s a1 a2).autOut = s.autOut ∧
    (State.hostWrite s a1 a2).tagJ = s.tagJ ∧ (State.hostWrite s a1 a2).store = s.store ∧ (State.hostWrite s a1 a2).kit = s.kit ∧
    (State.hostWrite s a1 a2).tie = s.tie ∧ (State.hostWrite s a1 a2).key = s.key ∧ (State.hostWrite s a1 a2).keys = s.keys ∧
    (State.hostWrite s a1 a2).lsw = s.lsw ∧ (State.hostWrite s a1 a2).epd = s.epd ∧ (State.hostWrite s a1 a2).pwr = s.pwr ∧
    (State.hostWrite s a1 a2).upd = s.upd ∧ (State.hostWrite s a1 a2).pmc = s.pmc ∧ (State.hostWrite s a1 a2).keep = s.keep ∧
    (State.hostWrite s a1 a2).fresh = s.fresh := by
  simp [State.hostWrite]

@[simp] theorem sendMsix_frame (s : State) (a1 : BitVec 6) :
    (sendMsix s a1).glb = s.glb ∧ (sendMsix s a1).tim = s.tim ∧ (sendMsix s a1).str = s.str ∧ (sendMsix s a1).lanes = s.lanes ∧
    (sendMsix s a1).rings = s.rings ∧ (sendMsix s a1).mpl = s.mpl ∧ (sendMsix s a1).uarts = s.uarts ∧
    (sendMsix s a1).cans = s.cans ∧ (sendMsix s a1).seq = s.seq ∧ (sendMsix s a1).ctxs = s.ctxs ∧ (sendMsix s a1).jrn = s.jrn ∧
    (sendMsix s a1).delays = s.delays ∧ (sendMsix s a1).saf = s.saf ∧ (sendMsix s a1).safOut = s.safOut ∧
    (sendMsix s a1).safJ = s.safJ ∧ (sendMsix s a1).shr = s.shr ∧ (sendMsix s a1).shrOut = s.shrOut ∧
    (sendMsix s a1).plc = s.plc ∧ (sendMsix s a1).stas = s.stas ∧ (sendMsix s a1).met = s.met ∧
    (sendMsix s a1).metOut = s.metOut ∧ (sendMsix s a1).enr = s.enr ∧ (sendMsix s a1).enrOut = s.enrOut ∧
    (sendMsix s a1).bil = s.bil ∧ (sendMsix s a1).bilOut = s.bilOut ∧ (sendMsix s a1).recd = s.recd ∧
    (sendMsix s a1).aut = s.aut ∧ (sendMsix s a1).autOut = s.autOut ∧ (sendMsix s a1).tagJ = s.tagJ ∧
    (sendMsix s a1).store = s.store ∧ (sendMsix s a1).kit = s.kit ∧ (sendMsix s a1).tie = s.tie ∧ (sendMsix s a1).key = s.key ∧
    (sendMsix s a1).keys = s.keys ∧ (sendMsix s a1).lsw = s.lsw ∧ (sendMsix s a1).epd = s.epd ∧ (sendMsix s a1).pwr = s.pwr ∧
    (sendMsix s a1).upd = s.upd ∧ (sendMsix s a1).pmc = s.pmc ∧ (sendMsix s a1).keep = s.keep ∧ (sendMsix s a1).fresh = s.fresh := by
  simp [sendMsix]

@[simp] theorem rngInt_frame (s : State) (a1 : Rng → Rng) :
    (rngInt s a1).glb = s.glb ∧ (rngInt s a1).tim = s.tim ∧ (rngInt s a1).str = s.str ∧ (rngInt s a1).lanes = s.lanes ∧
    (rngInt s a1).rings = s.rings ∧ (rngInt s a1).mpl = s.mpl ∧ (rngInt s a1).uarts = s.uarts ∧ (rngInt s a1).cans = s.cans ∧
    (rngInt s a1).seq = s.seq ∧ (rngInt s a1).ctxs = s.ctxs ∧ (rngInt s a1).jrn = s.jrn ∧ (rngInt s a1).delays = s.delays ∧
    (rngInt s a1).saf = s.saf ∧ (rngInt s a1).safOut = s.safOut ∧ (rngInt s a1).safJ = s.safJ ∧ (rngInt s a1).shr = s.shr ∧
    (rngInt s a1).shrOut = s.shrOut ∧ (rngInt s a1).plc = s.plc ∧ (rngInt s a1).stas = s.stas ∧ (rngInt s a1).met = s.met ∧
    (rngInt s a1).metOut = s.metOut ∧ (rngInt s a1).enr = s.enr ∧ (rngInt s a1).enrOut = s.enrOut ∧ (rngInt s a1).bil = s.bil ∧
    (rngInt s a1).bilOut = s.bilOut ∧ (rngInt s a1).recd = s.recd ∧ (rngInt s a1).aut = s.aut ∧ (rngInt s a1).autOut = s.autOut ∧
    (rngInt s a1).tagJ = s.tagJ ∧ (rngInt s a1).store = s.store ∧ (rngInt s a1).kit = s.kit ∧ (rngInt s a1).tie = s.tie ∧
    (rngInt s a1).key = s.key ∧ (rngInt s a1).keys = s.keys ∧ (rngInt s a1).lsw = s.lsw ∧ (rngInt s a1).epd = s.epd ∧
    (rngInt s a1).pwr = s.pwr ∧ (rngInt s a1).upd = s.upd ∧ (rngInt s a1).pmc = s.pmc ∧ (rngInt s a1).keep = s.keep ∧
    (rngInt s a1).fresh = s.fresh := by
  simp [rngInt]

@[simp] theorem State.writeEntry_frame (s : State) (a1 : Fin 57) (a2 : BitVec 32) (a3 : ℕ) (a4 : List Sys2Proof.Word) :
    (State.writeEntry s a1 a2 a3 a4).glb = s.glb ∧ (State.writeEntry s a1 a2 a3 a4).tim = s.tim ∧
    (State.writeEntry s a1 a2 a3 a4).str = s.str ∧ (State.writeEntry s a1 a2 a3 a4).lanes = s.lanes ∧
    (State.writeEntry s a1 a2 a3 a4).rng = s.rng ∧ (State.writeEntry s a1 a2 a3 a4).rings = s.rings ∧
    (State.writeEntry s a1 a2 a3 a4).mpl = s.mpl ∧ (State.writeEntry s a1 a2 a3 a4).uarts = s.uarts ∧
    (State.writeEntry s a1 a2 a3 a4).cans = s.cans ∧ (State.writeEntry s a1 a2 a3 a4).seq = s.seq ∧
    (State.writeEntry s a1 a2 a3 a4).ctxs = s.ctxs ∧ (State.writeEntry s a1 a2 a3 a4).jrn = s.jrn ∧
    (State.writeEntry s a1 a2 a3 a4).delays = s.delays ∧ (State.writeEntry s a1 a2 a3 a4).saf = s.saf ∧
    (State.writeEntry s a1 a2 a3 a4).safOut = s.safOut ∧ (State.writeEntry s a1 a2 a3 a4).safJ = s.safJ ∧
    (State.writeEntry s a1 a2 a3 a4).shr = s.shr ∧ (State.writeEntry s a1 a2 a3 a4).shrOut = s.shrOut ∧
    (State.writeEntry s a1 a2 a3 a4).plc = s.plc ∧ (State.writeEntry s a1 a2 a3 a4).stas = s.stas ∧
    (State.writeEntry s a1 a2 a3 a4).met = s.met ∧ (State.writeEntry s a1 a2 a3 a4).metOut = s.metOut ∧
    (State.writeEntry s a1 a2 a3 a4).enr = s.enr ∧ (State.writeEntry s a1 a2 a3 a4).enrOut = s.enrOut ∧
    (State.writeEntry s a1 a2 a3 a4).bil = s.bil ∧ (State.writeEntry s a1 a2 a3 a4).bilOut = s.bilOut ∧
    (State.writeEntry s a1 a2 a3 a4).recd = s.recd ∧ (State.writeEntry s a1 a2 a3 a4).aut = s.aut ∧
    (State.writeEntry s a1 a2 a3 a4).autOut = s.autOut ∧ (State.writeEntry s a1 a2 a3 a4).tagJ = s.tagJ ∧
    (State.writeEntry s a1 a2 a3 a4).store = s.store ∧ (State.writeEntry s a1 a2 a3 a4).kit = s.kit ∧
    (State.writeEntry s a1 a2 a3 a4).tie = s.tie ∧ (State.writeEntry s a1 a2 a3 a4).key = s.key ∧
    (State.writeEntry s a1 a2 a3 a4).keys = s.keys ∧ (State.writeEntry s a1 a2 a3 a4).lsw = s.lsw ∧
    (State.writeEntry s a1 a2 a3 a4).epd = s.epd ∧ (State.writeEntry s a1 a2 a3 a4).pwr = s.pwr ∧
    (State.writeEntry s a1 a2 a3 a4).upd = s.upd ∧ (State.writeEntry s a1 a2 a3 a4).pmc = s.pmc ∧
    (State.writeEntry s a1 a2 a3 a4).keep = s.keep ∧ (State.writeEntry s a1 a2 a3 a4).fresh = s.fresh := by
  simp [State.writeEntry]

@[simp] theorem signalRing_frame (s : State) (a1 : Fin 57) (a2 : Bool) :
    (signalRing s a1 a2).glb = s.glb ∧ (signalRing s a1 a2).tim = s.tim ∧ (signalRing s a1 a2).str = s.str ∧
    (signalRing s a1 a2).lanes = s.lanes ∧ (signalRing s a1 a2).mpl = s.mpl ∧ (signalRing s a1 a2).uarts = s.uarts ∧
    (signalRing s a1 a2).cans = s.cans ∧ (signalRing s a1 a2).seq = s.seq ∧ (signalRing s a1 a2).ctxs = s.ctxs ∧
    (signalRing s a1 a2).jrn = s.jrn ∧ (signalRing s a1 a2).delays = s.delays ∧ (signalRing s a1 a2).saf = s.saf ∧
    (signalRing s a1 a2).safOut = s.safOut ∧ (signalRing s a1 a2).safJ = s.safJ ∧ (signalRing s a1 a2).shr = s.shr ∧
    (signalRing s a1 a2).shrOut = s.shrOut ∧ (signalRing s a1 a2).plc = s.plc ∧ (signalRing s a1 a2).stas = s.stas ∧
    (signalRing s a1 a2).met = s.met ∧ (signalRing s a1 a2).metOut = s.metOut ∧ (signalRing s a1 a2).enr = s.enr ∧
    (signalRing s a1 a2).enrOut = s.enrOut ∧ (signalRing s a1 a2).bil = s.bil ∧ (signalRing s a1 a2).bilOut = s.bilOut ∧
    (signalRing s a1 a2).recd = s.recd ∧ (signalRing s a1 a2).aut = s.aut ∧ (signalRing s a1 a2).autOut = s.autOut ∧
    (signalRing s a1 a2).tagJ = s.tagJ ∧ (signalRing s a1 a2).store = s.store ∧ (signalRing s a1 a2).kit = s.kit ∧
    (signalRing s a1 a2).tie = s.tie ∧ (signalRing s a1 a2).key = s.key ∧ (signalRing s a1 a2).keys = s.keys ∧
    (signalRing s a1 a2).lsw = s.lsw ∧ (signalRing s a1 a2).epd = s.epd ∧ (signalRing s a1 a2).pwr = s.pwr ∧
    (signalRing s a1 a2).upd = s.upd ∧ (signalRing s a1 a2).pmc = s.pmc ∧ (signalRing s a1 a2).keep = s.keep ∧
    (signalRing s a1 a2).fresh = s.fresh := by
  simp [signalRing]

@[simp] theorem writeBack_frame (s : State) (a1 : Fin 57) :
    (writeBack s a1).glb = s.glb ∧ (writeBack s a1).tim = s.tim ∧ (writeBack s a1).str = s.str ∧
    (writeBack s a1).lanes = s.lanes ∧ (writeBack s a1).rng = s.rng ∧ (writeBack s a1).rings = s.rings ∧
    (writeBack s a1).mpl = s.mpl ∧ (writeBack s a1).uarts = s.uarts ∧ (writeBack s a1).cans = s.cans ∧
    (writeBack s a1).seq = s.seq ∧ (writeBack s a1).ctxs = s.ctxs ∧ (writeBack s a1).jrn = s.jrn ∧
    (writeBack s a1).delays = s.delays ∧ (writeBack s a1).saf = s.saf ∧ (writeBack s a1).safOut = s.safOut ∧
    (writeBack s a1).safJ = s.safJ ∧ (writeBack s a1).shr = s.shr ∧ (writeBack s a1).shrOut = s.shrOut ∧
    (writeBack s a1).plc = s.plc ∧ (writeBack s a1).stas = s.stas ∧ (writeBack s a1).met = s.met ∧
    (writeBack s a1).metOut = s.metOut ∧ (writeBack s a1).enr = s.enr ∧ (writeBack s a1).enrOut = s.enrOut ∧
    (writeBack s a1).bil = s.bil ∧ (writeBack s a1).bilOut = s.bilOut ∧ (writeBack s a1).recd = s.recd ∧
    (writeBack s a1).aut = s.aut ∧ (writeBack s a1).autOut = s.autOut ∧ (writeBack s a1).tagJ = s.tagJ ∧
    (writeBack s a1).store = s.store ∧ (writeBack s a1).kit = s.kit ∧ (writeBack s a1).tie = s.tie ∧
    (writeBack s a1).key = s.key ∧ (writeBack s a1).keys = s.keys ∧ (writeBack s a1).lsw = s.lsw ∧ (writeBack s a1).epd = s.epd ∧
    (writeBack s a1).pwr = s.pwr ∧ (writeBack s a1).upd = s.upd ∧ (writeBack s a1).pmc = s.pmc ∧ (writeBack s a1).keep = s.keep ∧
    (writeBack s a1).fresh = s.fresh := by
  simp [writeBack]

@[simp] theorem afterEntry_frame (s : State) (a1 : Fin 57) (a2 : Bool) :
    (afterEntry s a1 a2).glb = s.glb ∧ (afterEntry s a1 a2).tim = s.tim ∧ (afterEntry s a1 a2).str = s.str ∧
    (afterEntry s a1 a2).lanes = s.lanes ∧ (afterEntry s a1 a2).mpl = s.mpl ∧ (afterEntry s a1 a2).uarts = s.uarts ∧
    (afterEntry s a1 a2).cans = s.cans ∧ (afterEntry s a1 a2).seq = s.seq ∧ (afterEntry s a1 a2).ctxs = s.ctxs ∧
    (afterEntry s a1 a2).jrn = s.jrn ∧ (afterEntry s a1 a2).delays = s.delays ∧ (afterEntry s a1 a2).saf = s.saf ∧
    (afterEntry s a1 a2).safOut = s.safOut ∧ (afterEntry s a1 a2).safJ = s.safJ ∧ (afterEntry s a1 a2).shr = s.shr ∧
    (afterEntry s a1 a2).shrOut = s.shrOut ∧ (afterEntry s a1 a2).plc = s.plc ∧ (afterEntry s a1 a2).stas = s.stas ∧
    (afterEntry s a1 a2).met = s.met ∧ (afterEntry s a1 a2).metOut = s.metOut ∧ (afterEntry s a1 a2).enr = s.enr ∧
    (afterEntry s a1 a2).enrOut = s.enrOut ∧ (afterEntry s a1 a2).bil = s.bil ∧ (afterEntry s a1 a2).bilOut = s.bilOut ∧
    (afterEntry s a1 a2).recd = s.recd ∧ (afterEntry s a1 a2).aut = s.aut ∧ (afterEntry s a1 a2).autOut = s.autOut ∧
    (afterEntry s a1 a2).tagJ = s.tagJ ∧ (afterEntry s a1 a2).store = s.store ∧ (afterEntry s a1 a2).kit = s.kit ∧
    (afterEntry s a1 a2).tie = s.tie ∧ (afterEntry s a1 a2).key = s.key ∧ (afterEntry s a1 a2).keys = s.keys ∧
    (afterEntry s a1 a2).lsw = s.lsw ∧ (afterEntry s a1 a2).epd = s.epd ∧ (afterEntry s a1 a2).pwr = s.pwr ∧
    (afterEntry s a1 a2).upd = s.upd ∧ (afterEntry s a1 a2).pmc = s.pmc ∧ (afterEntry s a1 a2).keep = s.keep ∧
    (afterEntry s a1 a2).fresh = s.fresh := by
  simp [afterEntry]

@[simp] theorem putEvt_frame (s : State) (a1 : Fin 57) (a2 : Sys2Proof.Event) :
    (putEvt s a1 a2).glb = s.glb ∧ (putEvt s a1 a2).tim = s.tim ∧ (putEvt s a1 a2).str = s.str ∧
    (putEvt s a1 a2).lanes = s.lanes ∧ (putEvt s a1 a2).mpl = s.mpl ∧ (putEvt s a1 a2).uarts = s.uarts ∧
    (putEvt s a1 a2).cans = s.cans ∧ (putEvt s a1 a2).seq = s.seq ∧ (putEvt s a1 a2).ctxs = s.ctxs ∧
    (putEvt s a1 a2).jrn = s.jrn ∧ (putEvt s a1 a2).delays = s.delays ∧ (putEvt s a1 a2).saf = s.saf ∧
    (putEvt s a1 a2).safOut = s.safOut ∧ (putEvt s a1 a2).safJ = s.safJ ∧ (putEvt s a1 a2).shr = s.shr ∧
    (putEvt s a1 a2).shrOut = s.shrOut ∧ (putEvt s a1 a2).plc = s.plc ∧ (putEvt s a1 a2).stas = s.stas ∧
    (putEvt s a1 a2).met = s.met ∧ (putEvt s a1 a2).metOut = s.metOut ∧ (putEvt s a1 a2).enr = s.enr ∧
    (putEvt s a1 a2).enrOut = s.enrOut ∧ (putEvt s a1 a2).bil = s.bil ∧ (putEvt s a1 a2).bilOut = s.bilOut ∧
    (putEvt s a1 a2).recd = s.recd ∧ (putEvt s a1 a2).aut = s.aut ∧ (putEvt s a1 a2).autOut = s.autOut ∧
    (putEvt s a1 a2).tagJ = s.tagJ ∧ (putEvt s a1 a2).store = s.store ∧ (putEvt s a1 a2).kit = s.kit ∧
    (putEvt s a1 a2).tie = s.tie ∧ (putEvt s a1 a2).key = s.key ∧ (putEvt s a1 a2).keys = s.keys ∧ (putEvt s a1 a2).lsw = s.lsw ∧
    (putEvt s a1 a2).epd = s.epd ∧ (putEvt s a1 a2).pwr = s.pwr ∧ (putEvt s a1 a2).upd = s.upd ∧ (putEvt s a1 a2).pmc = s.pmc ∧
    (putEvt s a1 a2).keep = s.keep ∧ (putEvt s a1 a2).fresh = s.fresh := by
  simp [putEvt]

@[simp] theorem numberEvt_frame (s : State) (a1 : Sys2Proof.Event) :
    (numberEvt s a1).1.glb = s.glb ∧ (numberEvt s a1).1.tim = s.tim ∧ (numberEvt s a1).1.str = s.str ∧
    (numberEvt s a1).1.lanes = s.lanes ∧ (numberEvt s a1).1.rings = s.rings ∧ (numberEvt s a1).1.mpl = s.mpl ∧
    (numberEvt s a1).1.uarts = s.uarts ∧ (numberEvt s a1).1.cans = s.cans ∧ (numberEvt s a1).1.seq = s.seq ∧
    (numberEvt s a1).1.ctxs = s.ctxs ∧ (numberEvt s a1).1.jrn = s.jrn ∧ (numberEvt s a1).1.delays = s.delays ∧
    (numberEvt s a1).1.saf = s.saf ∧ (numberEvt s a1).1.safOut = s.safOut ∧ (numberEvt s a1).1.safJ = s.safJ ∧
    (numberEvt s a1).1.shr = s.shr ∧ (numberEvt s a1).1.shrOut = s.shrOut ∧ (numberEvt s a1).1.plc = s.plc ∧
    (numberEvt s a1).1.stas = s.stas ∧ (numberEvt s a1).1.met = s.met ∧ (numberEvt s a1).1.metOut = s.metOut ∧
    (numberEvt s a1).1.enr = s.enr ∧ (numberEvt s a1).1.enrOut = s.enrOut ∧ (numberEvt s a1).1.bil = s.bil ∧
    (numberEvt s a1).1.bilOut = s.bilOut ∧ (numberEvt s a1).1.aut = s.aut ∧ (numberEvt s a1).1.autOut = s.autOut ∧
    (numberEvt s a1).1.tagJ = s.tagJ ∧ (numberEvt s a1).1.store = s.store ∧ (numberEvt s a1).1.kit = s.kit ∧
    (numberEvt s a1).1.tie = s.tie ∧ (numberEvt s a1).1.key = s.key ∧ (numberEvt s a1).1.keys = s.keys ∧
    (numberEvt s a1).1.lsw = s.lsw ∧ (numberEvt s a1).1.epd = s.epd ∧ (numberEvt s a1).1.pwr = s.pwr ∧
    (numberEvt s a1).1.upd = s.upd ∧ (numberEvt s a1).1.pmc = s.pmc ∧ (numberEvt s a1).1.fresh = s.fresh ∧
    (numberEvt s a1).1.out = s.out := by
  simp [numberEvt]

@[simp] theorem writeEvt_frame (s : State) (a1 : Fin 57) (a2 : Sys2Proof.Event) :
    (writeEvt s a1 a2).glb = s.glb ∧ (writeEvt s a1 a2).tim = s.tim ∧ (writeEvt s a1 a2).str = s.str ∧
    (writeEvt s a1 a2).lanes = s.lanes ∧ (writeEvt s a1 a2).mpl = s.mpl ∧ (writeEvt s a1 a2).uarts = s.uarts ∧
    (writeEvt s a1 a2).cans = s.cans ∧ (writeEvt s a1 a2).seq = s.seq ∧ (writeEvt s a1 a2).ctxs = s.ctxs ∧
    (writeEvt s a1 a2).jrn = s.jrn ∧ (writeEvt s a1 a2).delays = s.delays ∧ (writeEvt s a1 a2).saf = s.saf ∧
    (writeEvt s a1 a2).safOut = s.safOut ∧ (writeEvt s a1 a2).safJ = s.safJ ∧ (writeEvt s a1 a2).shr = s.shr ∧
    (writeEvt s a1 a2).shrOut = s.shrOut ∧ (writeEvt s a1 a2).plc = s.plc ∧ (writeEvt s a1 a2).stas = s.stas ∧
    (writeEvt s a1 a2).met = s.met ∧ (writeEvt s a1 a2).metOut = s.metOut ∧ (writeEvt s a1 a2).enr = s.enr ∧
    (writeEvt s a1 a2).enrOut = s.enrOut ∧ (writeEvt s a1 a2).bil = s.bil ∧ (writeEvt s a1 a2).bilOut = s.bilOut ∧
    (writeEvt s a1 a2).aut = s.aut ∧ (writeEvt s a1 a2).autOut = s.autOut ∧ (writeEvt s a1 a2).tagJ = s.tagJ ∧
    (writeEvt s a1 a2).store = s.store ∧ (writeEvt s a1 a2).kit = s.kit ∧ (writeEvt s a1 a2).tie = s.tie ∧
    (writeEvt s a1 a2).key = s.key ∧ (writeEvt s a1 a2).keys = s.keys ∧ (writeEvt s a1 a2).lsw = s.lsw ∧
    (writeEvt s a1 a2).epd = s.epd ∧ (writeEvt s a1 a2).pwr = s.pwr ∧ (writeEvt s a1 a2).upd = s.upd ∧
    (writeEvt s a1 a2).pmc = s.pmc ∧ (writeEvt s a1 a2).fresh = s.fresh := by
  simp [writeEvt]

@[simp] theorem judgeBacklog_frame (s : State) :
    (judgeBacklog s).glb = s.glb ∧ (judgeBacklog s).tim = s.tim ∧ (judgeBacklog s).str = s.str ∧
    (judgeBacklog s).lanes = s.lanes ∧ (judgeBacklog s).rings = s.rings ∧ (judgeBacklog s).mpl = s.mpl ∧
    (judgeBacklog s).uarts = s.uarts ∧ (judgeBacklog s).cans = s.cans ∧ (judgeBacklog s).seq = s.seq ∧
    (judgeBacklog s).ctxs = s.ctxs ∧ (judgeBacklog s).jrn = s.jrn ∧ (judgeBacklog s).delays = s.delays ∧
    (judgeBacklog s).saf = s.saf ∧ (judgeBacklog s).safOut = s.safOut ∧ (judgeBacklog s).safJ = s.safJ ∧
    (judgeBacklog s).shr = s.shr ∧ (judgeBacklog s).shrOut = s.shrOut ∧ (judgeBacklog s).plc = s.plc ∧
    (judgeBacklog s).stas = s.stas ∧ (judgeBacklog s).met = s.met ∧ (judgeBacklog s).metOut = s.metOut ∧
    (judgeBacklog s).enr = s.enr ∧ (judgeBacklog s).enrOut = s.enrOut ∧ (judgeBacklog s).bil = s.bil ∧
    (judgeBacklog s).bilOut = s.bilOut ∧ (judgeBacklog s).recd = s.recd ∧ (judgeBacklog s).aut = s.aut ∧
    (judgeBacklog s).autOut = s.autOut ∧ (judgeBacklog s).tagJ = s.tagJ ∧ (judgeBacklog s).store = s.store ∧
    (judgeBacklog s).kit = s.kit ∧ (judgeBacklog s).tie = s.tie ∧ (judgeBacklog s).key = s.key ∧ (judgeBacklog s).keys = s.keys ∧
    (judgeBacklog s).lsw = s.lsw ∧ (judgeBacklog s).epd = s.epd ∧ (judgeBacklog s).pwr = s.pwr ∧ (judgeBacklog s).upd = s.upd ∧
    (judgeBacklog s).pmc = s.pmc ∧ (judgeBacklog s).keep = s.keep ∧ (judgeBacklog s).fresh = s.fresh ∧
    (judgeBacklog s).out = s.out := by
  simp [judgeBacklog]

@[simp] theorem foldEvt_frame (s : State) (a1 : Sys2Proof.Event) :
    (foldEvt s a1).glb = s.glb ∧ (foldEvt s a1).tim = s.tim ∧ (foldEvt s a1).str = s.str ∧ (foldEvt s a1).lanes = s.lanes ∧
    (foldEvt s a1).rings = s.rings ∧ (foldEvt s a1).mpl = s.mpl ∧ (foldEvt s a1).uarts = s.uarts ∧ (foldEvt s a1).cans = s.cans ∧
    (foldEvt s a1).seq = s.seq ∧ (foldEvt s a1).ctxs = s.ctxs ∧ (foldEvt s a1).jrn = s.jrn ∧ (foldEvt s a1).delays = s.delays ∧
    (foldEvt s a1).saf = s.saf ∧ (foldEvt s a1).safOut = s.safOut ∧ (foldEvt s a1).safJ = s.safJ ∧ (foldEvt s a1).shr = s.shr ∧
    (foldEvt s a1).shrOut = s.shrOut ∧ (foldEvt s a1).plc = s.plc ∧ (foldEvt s a1).stas = s.stas ∧ (foldEvt s a1).met = s.met ∧
    (foldEvt s a1).metOut = s.metOut ∧ (foldEvt s a1).enr = s.enr ∧ (foldEvt s a1).enrOut = s.enrOut ∧
    (foldEvt s a1).bil = s.bil ∧ (foldEvt s a1).bilOut = s.bilOut ∧ (foldEvt s a1).aut = s.aut ∧
    (foldEvt s a1).autOut = s.autOut ∧ (foldEvt s a1).tagJ = s.tagJ ∧ (foldEvt s a1).store = s.store ∧
    (foldEvt s a1).kit = s.kit ∧ (foldEvt s a1).tie = s.tie ∧ (foldEvt s a1).key = s.key ∧ (foldEvt s a1).keys = s.keys ∧
    (foldEvt s a1).lsw = s.lsw ∧ (foldEvt s a1).epd = s.epd ∧ (foldEvt s a1).pwr = s.pwr ∧ (foldEvt s a1).upd = s.upd ∧
    (foldEvt s a1).pmc = s.pmc ∧ (foldEvt s a1).keep = s.keep ∧ (foldEvt s a1).fresh = s.fresh := by
  simp [foldEvt]

@[simp] theorem placeEvt.enqueue_frame (s : State) (a1 : Sys2Proof.Event) :
    (placeEvt.enqueue s a1).glb = s.glb ∧ (placeEvt.enqueue s a1).tim = s.tim ∧ (placeEvt.enqueue s a1).str = s.str ∧
    (placeEvt.enqueue s a1).lanes = s.lanes ∧ (placeEvt.enqueue s a1).rings = s.rings ∧ (placeEvt.enqueue s a1).mpl = s.mpl ∧
    (placeEvt.enqueue s a1).uarts = s.uarts ∧ (placeEvt.enqueue s a1).cans = s.cans ∧ (placeEvt.enqueue s a1).seq = s.seq ∧
    (placeEvt.enqueue s a1).ctxs = s.ctxs ∧ (placeEvt.enqueue s a1).jrn = s.jrn ∧ (placeEvt.enqueue s a1).delays = s.delays ∧
    (placeEvt.enqueue s a1).saf = s.saf ∧ (placeEvt.enqueue s a1).safOut = s.safOut ∧ (placeEvt.enqueue s a1).safJ = s.safJ ∧
    (placeEvt.enqueue s a1).shr = s.shr ∧ (placeEvt.enqueue s a1).shrOut = s.shrOut ∧ (placeEvt.enqueue s a1).plc = s.plc ∧
    (placeEvt.enqueue s a1).stas = s.stas ∧ (placeEvt.enqueue s a1).met = s.met ∧ (placeEvt.enqueue s a1).metOut = s.metOut ∧
    (placeEvt.enqueue s a1).enr = s.enr ∧ (placeEvt.enqueue s a1).enrOut = s.enrOut ∧ (placeEvt.enqueue s a1).bil = s.bil ∧
    (placeEvt.enqueue s a1).bilOut = s.bilOut ∧ (placeEvt.enqueue s a1).aut = s.aut ∧ (placeEvt.enqueue s a1).autOut = s.autOut ∧
    (placeEvt.enqueue s a1).tagJ = s.tagJ ∧ (placeEvt.enqueue s a1).store = s.store ∧ (placeEvt.enqueue s a1).kit = s.kit ∧
    (placeEvt.enqueue s a1).tie = s.tie ∧ (placeEvt.enqueue s a1).key = s.key ∧ (placeEvt.enqueue s a1).keys = s.keys ∧
    (placeEvt.enqueue s a1).lsw = s.lsw ∧ (placeEvt.enqueue s a1).epd = s.epd ∧ (placeEvt.enqueue s a1).pwr = s.pwr ∧
    (placeEvt.enqueue s a1).upd = s.upd ∧ (placeEvt.enqueue s a1).pmc = s.pmc ∧ (placeEvt.enqueue s a1).keep = s.keep ∧
    (placeEvt.enqueue s a1).fresh = s.fresh := by
  simp [placeEvt.enqueue]

@[simp] theorem placeEvt_frame (s : State) (a1 : Sys2Proof.Event) :
    (placeEvt s a1).glb = s.glb ∧ (placeEvt s a1).tim = s.tim ∧ (placeEvt s a1).str = s.str ∧ (placeEvt s a1).lanes = s.lanes ∧
    (placeEvt s a1).mpl = s.mpl ∧ (placeEvt s a1).uarts = s.uarts ∧ (placeEvt s a1).cans = s.cans ∧ (placeEvt s a1).seq = s.seq ∧
    (placeEvt s a1).ctxs = s.ctxs ∧ (placeEvt s a1).jrn = s.jrn ∧ (placeEvt s a1).delays = s.delays ∧
    (placeEvt s a1).saf = s.saf ∧ (placeEvt s a1).safOut = s.safOut ∧ (placeEvt s a1).safJ = s.safJ ∧
    (placeEvt s a1).shr = s.shr ∧ (placeEvt s a1).shrOut = s.shrOut ∧ (placeEvt s a1).plc = s.plc ∧
    (placeEvt s a1).stas = s.stas ∧ (placeEvt s a1).met = s.met ∧ (placeEvt s a1).metOut = s.metOut ∧
    (placeEvt s a1).enr = s.enr ∧ (placeEvt s a1).enrOut = s.enrOut ∧ (placeEvt s a1).bil = s.bil ∧
    (placeEvt s a1).bilOut = s.bilOut ∧ (placeEvt s a1).aut = s.aut ∧ (placeEvt s a1).autOut = s.autOut ∧
    (placeEvt s a1).tagJ = s.tagJ ∧ (placeEvt s a1).store = s.store ∧ (placeEvt s a1).kit = s.kit ∧ (placeEvt s a1).tie = s.tie ∧
    (placeEvt s a1).key = s.key ∧ (placeEvt s a1).keys = s.keys ∧ (placeEvt s a1).lsw = s.lsw ∧ (placeEvt s a1).epd = s.epd ∧
    (placeEvt s a1).pwr = s.pwr ∧ (placeEvt s a1).upd = s.upd ∧ (placeEvt s a1).pmc = s.pmc ∧ (placeEvt s a1).fresh = s.fresh := by
  unfold placeEvt; dsimp only; repeat' split
  all_goals simp

@[simp] theorem newEvent_frame (s : State) (a1 : ℕ) (a2 : Option (Fin 128)) (a3 : List Sys2Proof.Byte) (a4 : Option Sys2Proof.Cmd) :
    (newEvent s a1 a2 a3 a4).1.glb = s.glb ∧ (newEvent s a1 a2 a3 a4).1.tim = s.tim ∧ (newEvent s a1 a2 a3 a4).1.str = s.str ∧
    (newEvent s a1 a2 a3 a4).1.lanes = s.lanes ∧ (newEvent s a1 a2 a3 a4).1.rings = s.rings ∧
    (newEvent s a1 a2 a3 a4).1.mpl = s.mpl ∧ (newEvent s a1 a2 a3 a4).1.uarts = s.uarts ∧
    (newEvent s a1 a2 a3 a4).1.cans = s.cans ∧ (newEvent s a1 a2 a3 a4).1.seq = s.seq ∧
    (newEvent s a1 a2 a3 a4).1.ctxs = s.ctxs ∧ (newEvent s a1 a2 a3 a4).1.jrn = s.jrn ∧
    (newEvent s a1 a2 a3 a4).1.delays = s.delays ∧ (newEvent s a1 a2 a3 a4).1.saf = s.saf ∧
    (newEvent s a1 a2 a3 a4).1.safOut = s.safOut ∧ (newEvent s a1 a2 a3 a4).1.safJ = s.safJ ∧
    (newEvent s a1 a2 a3 a4).1.shr = s.shr ∧ (newEvent s a1 a2 a3 a4).1.shrOut = s.shrOut ∧
    (newEvent s a1 a2 a3 a4).1.plc = s.plc ∧ (newEvent s a1 a2 a3 a4).1.stas = s.stas ∧ (newEvent s a1 a2 a3 a4).1.met = s.met ∧
    (newEvent s a1 a2 a3 a4).1.metOut = s.metOut ∧ (newEvent s a1 a2 a3 a4).1.enr = s.enr ∧
    (newEvent s a1 a2 a3 a4).1.enrOut = s.enrOut ∧ (newEvent s a1 a2 a3 a4).1.bil = s.bil ∧
    (newEvent s a1 a2 a3 a4).1.bilOut = s.bilOut ∧ (newEvent s a1 a2 a3 a4).1.aut = s.aut ∧
    (newEvent s a1 a2 a3 a4).1.autOut = s.autOut ∧ (newEvent s a1 a2 a3 a4).1.tagJ = s.tagJ ∧
    (newEvent s a1 a2 a3 a4).1.store = s.store ∧ (newEvent s a1 a2 a3 a4).1.kit = s.kit ∧
    (newEvent s a1 a2 a3 a4).1.tie = s.tie ∧ (newEvent s a1 a2 a3 a4).1.key = s.key ∧ (newEvent s a1 a2 a3 a4).1.keys = s.keys ∧
    (newEvent s a1 a2 a3 a4).1.lsw = s.lsw ∧ (newEvent s a1 a2 a3 a4).1.epd = s.epd ∧ (newEvent s a1 a2 a3 a4).1.pwr = s.pwr ∧
    (newEvent s a1 a2 a3 a4).1.upd = s.upd ∧ (newEvent s a1 a2 a3 a4).1.pmc = s.pmc ∧ (newEvent s a1 a2 a3 a4).1.keep = s.keep ∧
    (newEvent s a1 a2 a3 a4).1.fresh = s.fresh ∧ (newEvent s a1 a2 a3 a4).1.out = s.out := by
  simp [newEvent]

@[simp] theorem postEvent_frame (s : State) (a1 : ℕ) (a2 : Option (Fin 128)) (a3 : List Sys2Proof.Byte) (a4 : optParam (Option Sys2Proof.Cmd) none) :
    (postEvent s a1 a2 a3 a4).glb = s.glb ∧ (postEvent s a1 a2 a3 a4).tim = s.tim ∧ (postEvent s a1 a2 a3 a4).str = s.str ∧
    (postEvent s a1 a2 a3 a4).lanes = s.lanes ∧ (postEvent s a1 a2 a3 a4).mpl = s.mpl ∧
    (postEvent s a1 a2 a3 a4).uarts = s.uarts ∧ (postEvent s a1 a2 a3 a4).cans = s.cans ∧ (postEvent s a1 a2 a3 a4).seq = s.seq ∧
    (postEvent s a1 a2 a3 a4).ctxs = s.ctxs ∧ (postEvent s a1 a2 a3 a4).jrn = s.jrn ∧
    (postEvent s a1 a2 a3 a4).delays = s.delays ∧ (postEvent s a1 a2 a3 a4).saf = s.saf ∧
    (postEvent s a1 a2 a3 a4).safOut = s.safOut ∧ (postEvent s a1 a2 a3 a4).safJ = s.safJ ∧
    (postEvent s a1 a2 a3 a4).shr = s.shr ∧ (postEvent s a1 a2 a3 a4).shrOut = s.shrOut ∧ (postEvent s a1 a2 a3 a4).plc = s.plc ∧
    (postEvent s a1 a2 a3 a4).stas = s.stas ∧ (postEvent s a1 a2 a3 a4).met = s.met ∧
    (postEvent s a1 a2 a3 a4).metOut = s.metOut ∧ (postEvent s a1 a2 a3 a4).enr = s.enr ∧
    (postEvent s a1 a2 a3 a4).enrOut = s.enrOut ∧ (postEvent s a1 a2 a3 a4).bil = s.bil ∧
    (postEvent s a1 a2 a3 a4).bilOut = s.bilOut ∧ (postEvent s a1 a2 a3 a4).aut = s.aut ∧
    (postEvent s a1 a2 a3 a4).autOut = s.autOut ∧ (postEvent s a1 a2 a3 a4).tagJ = s.tagJ ∧
    (postEvent s a1 a2 a3 a4).store = s.store ∧ (postEvent s a1 a2 a3 a4).kit = s.kit ∧ (postEvent s a1 a2 a3 a4).tie = s.tie ∧
    (postEvent s a1 a2 a3 a4).key = s.key ∧ (postEvent s a1 a2 a3 a4).keys = s.keys ∧ (postEvent s a1 a2 a3 a4).lsw = s.lsw ∧
    (postEvent s a1 a2 a3 a4).epd = s.epd ∧ (postEvent s a1 a2 a3 a4).pwr = s.pwr ∧ (postEvent s a1 a2 a3 a4).upd = s.upd ∧
    (postEvent s a1 a2 a3 a4).pmc = s.pmc ∧ (postEvent s a1 a2 a3 a4).fresh = s.fresh := by
  simp [postEvent]

@[simp] theorem postOut_frame (s : State) (a1 : ℕ) (a2 : Fin 128) (a3 : List Sys2Proof.Byte) (a4 : optParam (Option Sys2Proof.Cmd) none) :
    (postOut s a1 a2 a3 a4).glb = s.glb ∧ (postOut s a1 a2 a3 a4).tim = s.tim ∧ (postOut s a1 a2 a3 a4).str = s.str ∧
    (postOut s a1 a2 a3 a4).lanes = s.lanes ∧ (postOut s a1 a2 a3 a4).mpl = s.mpl ∧ (postOut s a1 a2 a3 a4).uarts = s.uarts ∧
    (postOut s a1 a2 a3 a4).cans = s.cans ∧ (postOut s a1 a2 a3 a4).seq = s.seq ∧ (postOut s a1 a2 a3 a4).ctxs = s.ctxs ∧
    (postOut s a1 a2 a3 a4).jrn = s.jrn ∧ (postOut s a1 a2 a3 a4).delays = s.delays ∧ (postOut s a1 a2 a3 a4).saf = s.saf ∧
    (postOut s a1 a2 a3 a4).safOut = s.safOut ∧ (postOut s a1 a2 a3 a4).safJ = s.safJ ∧ (postOut s a1 a2 a3 a4).shr = s.shr ∧
    (postOut s a1 a2 a3 a4).shrOut = s.shrOut ∧ (postOut s a1 a2 a3 a4).plc = s.plc ∧ (postOut s a1 a2 a3 a4).stas = s.stas ∧
    (postOut s a1 a2 a3 a4).met = s.met ∧ (postOut s a1 a2 a3 a4).metOut = s.metOut ∧ (postOut s a1 a2 a3 a4).enr = s.enr ∧
    (postOut s a1 a2 a3 a4).enrOut = s.enrOut ∧ (postOut s a1 a2 a3 a4).bil = s.bil ∧ (postOut s a1 a2 a3 a4).bilOut = s.bilOut ∧
    (postOut s a1 a2 a3 a4).aut = s.aut ∧ (postOut s a1 a2 a3 a4).autOut = s.autOut ∧ (postOut s a1 a2 a3 a4).tagJ = s.tagJ ∧
    (postOut s a1 a2 a3 a4).store = s.store ∧ (postOut s a1 a2 a3 a4).kit = s.kit ∧ (postOut s a1 a2 a3 a4).tie = s.tie ∧
    (postOut s a1 a2 a3 a4).key = s.key ∧ (postOut s a1 a2 a3 a4).keys = s.keys ∧ (postOut s a1 a2 a3 a4).lsw = s.lsw ∧
    (postOut s a1 a2 a3 a4).epd = s.epd ∧ (postOut s a1 a2 a3 a4).pwr = s.pwr ∧ (postOut s a1 a2 a3 a4).upd = s.upd ∧
    (postOut s a1 a2 a3 a4).pmc = s.pmc ∧ (postOut s a1 a2 a3 a4).fresh = s.fresh := by
  simp [postOut]

@[simp] theorem postStamped_frame (s : State) (a1 : ℕ) (a2 : Fin 128) (a3 : List Sys2Proof.Byte) (a4 : ℕ) :
    (postStamped s a1 a2 a3 a4).glb = s.glb ∧ (postStamped s a1 a2 a3 a4).tim = s.tim ∧ (postStamped s a1 a2 a3 a4).str = s.str ∧
    (postStamped s a1 a2 a3 a4).lanes = s.lanes ∧ (postStamped s a1 a2 a3 a4).mpl = s.mpl ∧
    (postStamped s a1 a2 a3 a4).uarts = s.uarts ∧ (postStamped s a1 a2 a3 a4).cans = s.cans ∧
    (postStamped s a1 a2 a3 a4).seq = s.seq ∧ (postStamped s a1 a2 a3 a4).ctxs = s.ctxs ∧
    (postStamped s a1 a2 a3 a4).jrn = s.jrn ∧ (postStamped s a1 a2 a3 a4).delays = s.delays ∧
    (postStamped s a1 a2 a3 a4).saf = s.saf ∧ (postStamped s a1 a2 a3 a4).safOut = s.safOut ∧
    (postStamped s a1 a2 a3 a4).safJ = s.safJ ∧ (postStamped s a1 a2 a3 a4).shr = s.shr ∧
    (postStamped s a1 a2 a3 a4).shrOut = s.shrOut ∧ (postStamped s a1 a2 a3 a4).plc = s.plc ∧
    (postStamped s a1 a2 a3 a4).stas = s.stas ∧ (postStamped s a1 a2 a3 a4).met = s.met ∧
    (postStamped s a1 a2 a3 a4).metOut = s.metOut ∧ (postStamped s a1 a2 a3 a4).enr = s.enr ∧
    (postStamped s a1 a2 a3 a4).enrOut = s.enrOut ∧ (postStamped s a1 a2 a3 a4).bil = s.bil ∧
    (postStamped s a1 a2 a3 a4).bilOut = s.bilOut ∧ (postStamped s a1 a2 a3 a4).aut = s.aut ∧
    (postStamped s a1 a2 a3 a4).autOut = s.autOut ∧ (postStamped s a1 a2 a3 a4).tagJ = s.tagJ ∧
    (postStamped s a1 a2 a3 a4).store = s.store ∧ (postStamped s a1 a2 a3 a4).kit = s.kit ∧
    (postStamped s a1 a2 a3 a4).tie = s.tie ∧ (postStamped s a1 a2 a3 a4).key = s.key ∧
    (postStamped s a1 a2 a3 a4).keys = s.keys ∧ (postStamped s a1 a2 a3 a4).lsw = s.lsw ∧
    (postStamped s a1 a2 a3 a4).epd = s.epd ∧ (postStamped s a1 a2 a3 a4).pwr = s.pwr ∧ (postStamped s a1 a2 a3 a4).upd = s.upd ∧
    (postStamped s a1 a2 a3 a4).pmc = s.pmc ∧ (postStamped s a1 a2 a3 a4).fresh = s.fresh := by
  simp [postStamped]

@[simp] theorem postDev_frame (s : State) (a1 : ℕ) (a2 : List Sys2Proof.Byte) (a3 : optParam (Option Sys2Proof.Cmd) none) :
    (postDev s a1 a2 a3).glb = s.glb ∧ (postDev s a1 a2 a3).tim = s.tim ∧ (postDev s a1 a2 a3).str = s.str ∧
    (postDev s a1 a2 a3).lanes = s.lanes ∧ (postDev s a1 a2 a3).mpl = s.mpl ∧ (postDev s a1 a2 a3).uarts = s.uarts ∧
    (postDev s a1 a2 a3).cans = s.cans ∧ (postDev s a1 a2 a3).seq = s.seq ∧ (postDev s a1 a2 a3).ctxs = s.ctxs ∧
    (postDev s a1 a2 a3).jrn = s.jrn ∧ (postDev s a1 a2 a3).delays = s.delays ∧ (postDev s a1 a2 a3).saf = s.saf ∧
    (postDev s a1 a2 a3).safOut = s.safOut ∧ (postDev s a1 a2 a3).safJ = s.safJ ∧ (postDev s a1 a2 a3).shr = s.shr ∧
    (postDev s a1 a2 a3).shrOut = s.shrOut ∧ (postDev s a1 a2 a3).plc = s.plc ∧ (postDev s a1 a2 a3).stas = s.stas ∧
    (postDev s a1 a2 a3).met = s.met ∧ (postDev s a1 a2 a3).metOut = s.metOut ∧ (postDev s a1 a2 a3).enr = s.enr ∧
    (postDev s a1 a2 a3).enrOut = s.enrOut ∧ (postDev s a1 a2 a3).bil = s.bil ∧ (postDev s a1 a2 a3).bilOut = s.bilOut ∧
    (postDev s a1 a2 a3).aut = s.aut ∧ (postDev s a1 a2 a3).autOut = s.autOut ∧ (postDev s a1 a2 a3).tagJ = s.tagJ ∧
    (postDev s a1 a2 a3).store = s.store ∧ (postDev s a1 a2 a3).kit = s.kit ∧ (postDev s a1 a2 a3).tie = s.tie ∧
    (postDev s a1 a2 a3).key = s.key ∧ (postDev s a1 a2 a3).keys = s.keys ∧ (postDev s a1 a2 a3).lsw = s.lsw ∧
    (postDev s a1 a2 a3).epd = s.epd ∧ (postDev s a1 a2 a3).pwr = s.pwr ∧ (postDev s a1 a2 a3).upd = s.upd ∧
    (postDev s a1 a2 a3).pmc = s.pmc ∧ (postDev s a1 a2 a3).fresh = s.fresh := by
  simp [postDev]

@[simp] theorem writeSummary_frame (s : State) (a1 : Option (Fin 128)) :
    (writeSummary s a1).glb = s.glb ∧ (writeSummary s a1).tim = s.tim ∧ (writeSummary s a1).str = s.str ∧
    (writeSummary s a1).lanes = s.lanes ∧ (writeSummary s a1).mpl = s.mpl ∧ (writeSummary s a1).uarts = s.uarts ∧
    (writeSummary s a1).cans = s.cans ∧ (writeSummary s a1).seq = s.seq ∧ (writeSummary s a1).ctxs = s.ctxs ∧
    (writeSummary s a1).jrn = s.jrn ∧ (writeSummary s a1).delays = s.delays ∧ (writeSummary s a1).saf = s.saf ∧
    (writeSummary s a1).safOut = s.safOut ∧ (writeSummary s a1).safJ = s.safJ ∧ (writeSummary s a1).shr = s.shr ∧
    (writeSummary s a1).shrOut = s.shrOut ∧ (writeSummary s a1).plc = s.plc ∧ (writeSummary s a1).stas = s.stas ∧
    (writeSummary s a1).met = s.met ∧ (writeSummary s a1).metOut = s.metOut ∧ (writeSummary s a1).enr = s.enr ∧
    (writeSummary s a1).enrOut = s.enrOut ∧ (writeSummary s a1).bil = s.bil ∧ (writeSummary s a1).bilOut = s.bilOut ∧
    (writeSummary s a1).aut = s.aut ∧ (writeSummary s a1).autOut = s.autOut ∧ (writeSummary s a1).tagJ = s.tagJ ∧
    (writeSummary s a1).store = s.store ∧ (writeSummary s a1).kit = s.kit ∧ (writeSummary s a1).tie = s.tie ∧
    (writeSummary s a1).key = s.key ∧ (writeSummary s a1).keys = s.keys ∧ (writeSummary s a1).lsw = s.lsw ∧
    (writeSummary s a1).epd = s.epd ∧ (writeSummary s a1).pwr = s.pwr ∧ (writeSummary s a1).upd = s.upd ∧
    (writeSummary s a1).pmc = s.pmc ∧ (writeSummary s a1).fresh = s.fresh := by
  unfold writeSummary; dsimp only; repeat' split
  all_goals simp

@[simp] theorem putCpl_frame (s : State) (a1 : Fin 57) (a2 : Sys2Proof.Completion) :
    (putCpl s a1 a2).glb = s.glb ∧ (putCpl s a1 a2).tim = s.tim ∧ (putCpl s a1 a2).str = s.str ∧
    (putCpl s a1 a2).lanes = s.lanes ∧ (putCpl s a1 a2).mpl = s.mpl ∧ (putCpl s a1 a2).uarts = s.uarts ∧
    (putCpl s a1 a2).cans = s.cans ∧ (putCpl s a1 a2).seq = s.seq ∧ (putCpl s a1 a2).ctxs = s.ctxs ∧
    (putCpl s a1 a2).jrn = s.jrn ∧ (putCpl s a1 a2).delays = s.delays ∧ (putCpl s a1 a2).saf = s.saf ∧
    (putCpl s a1 a2).safOut = s.safOut ∧ (putCpl s a1 a2).safJ = s.safJ ∧ (putCpl s a1 a2).shr = s.shr ∧
    (putCpl s a1 a2).shrOut = s.shrOut ∧ (putCpl s a1 a2).plc = s.plc ∧ (putCpl s a1 a2).stas = s.stas ∧
    (putCpl s a1 a2).met = s.met ∧ (putCpl s a1 a2).metOut = s.metOut ∧ (putCpl s a1 a2).enr = s.enr ∧
    (putCpl s a1 a2).enrOut = s.enrOut ∧ (putCpl s a1 a2).bil = s.bil ∧ (putCpl s a1 a2).bilOut = s.bilOut ∧
    (putCpl s a1 a2).recd = s.recd ∧ (putCpl s a1 a2).aut = s.aut ∧ (putCpl s a1 a2).autOut = s.autOut ∧
    (putCpl s a1 a2).tagJ = s.tagJ ∧ (putCpl s a1 a2).store = s.store ∧ (putCpl s a1 a2).kit = s.kit ∧
    (putCpl s a1 a2).tie = s.tie ∧ (putCpl s a1 a2).key = s.key ∧ (putCpl s a1 a2).keys = s.keys ∧ (putCpl s a1 a2).lsw = s.lsw ∧
    (putCpl s a1 a2).epd = s.epd ∧ (putCpl s a1 a2).pwr = s.pwr ∧ (putCpl s a1 a2).upd = s.upd ∧ (putCpl s a1 a2).pmc = s.pmc ∧
    (putCpl s a1 a2).keep = s.keep ∧ (putCpl s a1 a2).fresh = s.fresh := by
  simp [putCpl]

@[simp] theorem writeCpl_frame (s : State) (a1 : CmdRec) (a2 : BitVec 8) (a3 : BitVec 32) :
    (writeCpl s a1 a2 a3).glb = s.glb ∧ (writeCpl s a1 a2 a3).tim = s.tim ∧ (writeCpl s a1 a2 a3).str = s.str ∧
    (writeCpl s a1 a2 a3).lanes = s.lanes ∧ (writeCpl s a1 a2 a3).mpl = s.mpl ∧ (writeCpl s a1 a2 a3).uarts = s.uarts ∧
    (writeCpl s a1 a2 a3).cans = s.cans ∧ (writeCpl s a1 a2 a3).seq = s.seq ∧ (writeCpl s a1 a2 a3).ctxs = s.ctxs ∧
    (writeCpl s a1 a2 a3).jrn = s.jrn ∧ (writeCpl s a1 a2 a3).delays = s.delays ∧ (writeCpl s a1 a2 a3).saf = s.saf ∧
    (writeCpl s a1 a2 a3).safOut = s.safOut ∧ (writeCpl s a1 a2 a3).safJ = s.safJ ∧ (writeCpl s a1 a2 a3).shr = s.shr ∧
    (writeCpl s a1 a2 a3).shrOut = s.shrOut ∧ (writeCpl s a1 a2 a3).plc = s.plc ∧ (writeCpl s a1 a2 a3).stas = s.stas ∧
    (writeCpl s a1 a2 a3).met = s.met ∧ (writeCpl s a1 a2 a3).metOut = s.metOut ∧ (writeCpl s a1 a2 a3).enr = s.enr ∧
    (writeCpl s a1 a2 a3).enrOut = s.enrOut ∧ (writeCpl s a1 a2 a3).bil = s.bil ∧ (writeCpl s a1 a2 a3).bilOut = s.bilOut ∧
    (writeCpl s a1 a2 a3).recd = s.recd ∧ (writeCpl s a1 a2 a3).aut = s.aut ∧ (writeCpl s a1 a2 a3).autOut = s.autOut ∧
    (writeCpl s a1 a2 a3).tagJ = s.tagJ ∧ (writeCpl s a1 a2 a3).store = s.store ∧ (writeCpl s a1 a2 a3).kit = s.kit ∧
    (writeCpl s a1 a2 a3).tie = s.tie ∧ (writeCpl s a1 a2 a3).key = s.key ∧ (writeCpl s a1 a2 a3).keys = s.keys ∧
    (writeCpl s a1 a2 a3).lsw = s.lsw ∧ (writeCpl s a1 a2 a3).epd = s.epd ∧ (writeCpl s a1 a2 a3).pwr = s.pwr ∧
    (writeCpl s a1 a2 a3).upd = s.upd ∧ (writeCpl s a1 a2 a3).pmc = s.pmc ∧ (writeCpl s a1 a2 a3).keep = s.keep ∧
    (writeCpl s a1 a2 a3).fresh = s.fresh := by
  simp [writeCpl]

@[simp] theorem mirrorDone_frame (s : State) (a1 : Sys2Proof.Cmd) (a2 : BitVec 8) (a3 : BitVec 32) :
    (mirrorDone s a1 a2 a3).glb = s.glb ∧ (mirrorDone s a1 a2 a3).tim = s.tim ∧ (mirrorDone s a1 a2 a3).str = s.str ∧
    (mirrorDone s a1 a2 a3).lanes = s.lanes ∧ (mirrorDone s a1 a2 a3).rng = s.rng ∧ (mirrorDone s a1 a2 a3).rings = s.rings ∧
    (mirrorDone s a1 a2 a3).mpl = s.mpl ∧ (mirrorDone s a1 a2 a3).uarts = s.uarts ∧ (mirrorDone s a1 a2 a3).cans = s.cans ∧
    (mirrorDone s a1 a2 a3).seq = s.seq ∧ (mirrorDone s a1 a2 a3).ctxs = s.ctxs ∧ (mirrorDone s a1 a2 a3).jrn = s.jrn ∧
    (mirrorDone s a1 a2 a3).delays = s.delays ∧ (mirrorDone s a1 a2 a3).saf = s.saf ∧ (mirrorDone s a1 a2 a3).safOut = s.safOut ∧
    (mirrorDone s a1 a2 a3).safJ = s.safJ ∧ (mirrorDone s a1 a2 a3).shr = s.shr ∧ (mirrorDone s a1 a2 a3).shrOut = s.shrOut ∧
    (mirrorDone s a1 a2 a3).plc = s.plc ∧ (mirrorDone s a1 a2 a3).stas = s.stas ∧ (mirrorDone s a1 a2 a3).met = s.met ∧
    (mirrorDone s a1 a2 a3).metOut = s.metOut ∧ (mirrorDone s a1 a2 a3).enr = s.enr ∧ (mirrorDone s a1 a2 a3).enrOut = s.enrOut ∧
    (mirrorDone s a1 a2 a3).bil = s.bil ∧ (mirrorDone s a1 a2 a3).bilOut = s.bilOut ∧ (mirrorDone s a1 a2 a3).recd = s.recd ∧
    (mirrorDone s a1 a2 a3).aut = s.aut ∧ (mirrorDone s a1 a2 a3).autOut = s.autOut ∧ (mirrorDone s a1 a2 a3).tagJ = s.tagJ ∧
    (mirrorDone s a1 a2 a3).store = s.store ∧ (mirrorDone s a1 a2 a3).kit = s.kit ∧ (mirrorDone s a1 a2 a3).tie = s.tie ∧
    (mirrorDone s a1 a2 a3).key = s.key ∧ (mirrorDone s a1 a2 a3).keys = s.keys ∧ (mirrorDone s a1 a2 a3).lsw = s.lsw ∧
    (mirrorDone s a1 a2 a3).epd = s.epd ∧ (mirrorDone s a1 a2 a3).pwr = s.pwr ∧ (mirrorDone s a1 a2 a3).upd = s.upd ∧
    (mirrorDone s a1 a2 a3).pmc = s.pmc ∧ (mirrorDone s a1 a2 a3).keep = s.keep ∧ (mirrorDone s a1 a2 a3).fresh = s.fresh := by
  simp [mirrorDone]

@[simp] theorem complete_frame (s : State) (a1 : Sys2Proof.Cmd) (a2 : BitVec 8) (a3 : optParam (BitVec 32) 0) :
    (complete s a1 a2 a3).glb = s.glb ∧ (complete s a1 a2 a3).tim = s.tim ∧ (complete s a1 a2 a3).str = s.str ∧
    (complete s a1 a2 a3).lanes = s.lanes ∧ (complete s a1 a2 a3).mpl = s.mpl ∧ (complete s a1 a2 a3).uarts = s.uarts ∧
    (complete s a1 a2 a3).cans = s.cans ∧ (complete s a1 a2 a3).seq = s.seq ∧ (complete s a1 a2 a3).ctxs = s.ctxs ∧
    (complete s a1 a2 a3).jrn = s.jrn ∧ (complete s a1 a2 a3).delays = s.delays ∧ (complete s a1 a2 a3).saf = s.saf ∧
    (complete s a1 a2 a3).safOut = s.safOut ∧ (complete s a1 a2 a3).safJ = s.safJ ∧ (complete s a1 a2 a3).shr = s.shr ∧
    (complete s a1 a2 a3).shrOut = s.shrOut ∧ (complete s a1 a2 a3).plc = s.plc ∧ (complete s a1 a2 a3).stas = s.stas ∧
    (complete s a1 a2 a3).met = s.met ∧ (complete s a1 a2 a3).metOut = s.metOut ∧ (complete s a1 a2 a3).enr = s.enr ∧
    (complete s a1 a2 a3).enrOut = s.enrOut ∧ (complete s a1 a2 a3).bil = s.bil ∧ (complete s a1 a2 a3).bilOut = s.bilOut ∧
    (complete s a1 a2 a3).recd = s.recd ∧ (complete s a1 a2 a3).aut = s.aut ∧ (complete s a1 a2 a3).autOut = s.autOut ∧
    (complete s a1 a2 a3).tagJ = s.tagJ ∧ (complete s a1 a2 a3).store = s.store ∧ (complete s a1 a2 a3).kit = s.kit ∧
    (complete s a1 a2 a3).tie = s.tie ∧ (complete s a1 a2 a3).key = s.key ∧ (complete s a1 a2 a3).keys = s.keys ∧
    (complete s a1 a2 a3).lsw = s.lsw ∧ (complete s a1 a2 a3).epd = s.epd ∧ (complete s a1 a2 a3).pwr = s.pwr ∧
    (complete s a1 a2 a3).upd = s.upd ∧ (complete s a1 a2 a3).pmc = s.pmc ∧ (complete s a1 a2 a3).keep = s.keep ∧
    (complete s a1 a2 a3).fresh = s.fresh := by
  unfold complete; dsimp only; repeat' split
  all_goals simp

@[simp] theorem completeKey_frame (s : State) (a1 : Fin 16) (a2 : BitVec 32) (a3 : BitVec 8) (a4 : optParam (BitVec 32) 0) :
    (completeKey s a1 a2 a3 a4).glb = s.glb ∧ (completeKey s a1 a2 a3 a4).tim = s.tim ∧ (completeKey s a1 a2 a3 a4).str = s.str ∧
    (completeKey s a1 a2 a3 a4).lanes = s.lanes ∧ (completeKey s a1 a2 a3 a4).mpl = s.mpl ∧
    (completeKey s a1 a2 a3 a4).uarts = s.uarts ∧ (completeKey s a1 a2 a3 a4).cans = s.cans ∧
    (completeKey s a1 a2 a3 a4).seq = s.seq ∧ (completeKey s a1 a2 a3 a4).ctxs = s.ctxs ∧
    (completeKey s a1 a2 a3 a4).jrn = s.jrn ∧ (completeKey s a1 a2 a3 a4).delays = s.delays ∧
    (completeKey s a1 a2 a3 a4).saf = s.saf ∧ (completeKey s a1 a2 a3 a4).safOut = s.safOut ∧
    (completeKey s a1 a2 a3 a4).safJ = s.safJ ∧ (completeKey s a1 a2 a3 a4).shr = s.shr ∧
    (completeKey s a1 a2 a3 a4).shrOut = s.shrOut ∧ (completeKey s a1 a2 a3 a4).plc = s.plc ∧
    (completeKey s a1 a2 a3 a4).stas = s.stas ∧ (completeKey s a1 a2 a3 a4).met = s.met ∧
    (completeKey s a1 a2 a3 a4).metOut = s.metOut ∧ (completeKey s a1 a2 a3 a4).enr = s.enr ∧
    (completeKey s a1 a2 a3 a4).enrOut = s.enrOut ∧ (completeKey s a1 a2 a3 a4).bil = s.bil ∧
    (completeKey s a1 a2 a3 a4).bilOut = s.bilOut ∧ (completeKey s a1 a2 a3 a4).recd = s.recd ∧
    (completeKey s a1 a2 a3 a4).aut = s.aut ∧ (completeKey s a1 a2 a3 a4).autOut = s.autOut ∧
    (completeKey s a1 a2 a3 a4).tagJ = s.tagJ ∧ (completeKey s a1 a2 a3 a4).store = s.store ∧
    (completeKey s a1 a2 a3 a4).kit = s.kit ∧ (completeKey s a1 a2 a3 a4).tie = s.tie ∧ (completeKey s a1 a2 a3 a4).key = s.key ∧
    (completeKey s a1 a2 a3 a4).keys = s.keys ∧ (completeKey s a1 a2 a3 a4).lsw = s.lsw ∧
    (completeKey s a1 a2 a3 a4).epd = s.epd ∧ (completeKey s a1 a2 a3 a4).pwr = s.pwr ∧ (completeKey s a1 a2 a3 a4).upd = s.upd ∧
    (completeKey s a1 a2 a3 a4).pmc = s.pmc ∧ (completeKey s a1 a2 a3 a4).keep = s.keep ∧
    (completeKey s a1 a2 a3 a4).fresh = s.fresh := by
  unfold completeKey; repeat' split
  all_goals simp

@[simp] theorem started_frame (s : State) (a1 : Sys2Proof.Cmd) :
    (started s a1).glb = s.glb ∧ (started s a1).tim = s.tim ∧ (started s a1).str = s.str ∧ (started s a1).lanes = s.lanes ∧
    (started s a1).rings = s.rings ∧ (started s a1).mpl = s.mpl ∧ (started s a1).uarts = s.uarts ∧ (started s a1).cans = s.cans ∧
    (started s a1).seq = s.seq ∧ (started s a1).ctxs = s.ctxs ∧ (started s a1).jrn = s.jrn ∧ (started s a1).delays = s.delays ∧
    (started s a1).saf = s.saf ∧ (started s a1).safOut = s.safOut ∧ (started s a1).safJ = s.safJ ∧ (started s a1).shr = s.shr ∧
    (started s a1).shrOut = s.shrOut ∧ (started s a1).plc = s.plc ∧ (started s a1).stas = s.stas ∧ (started s a1).met = s.met ∧
    (started s a1).metOut = s.metOut ∧ (started s a1).enr = s.enr ∧ (started s a1).enrOut = s.enrOut ∧
    (started s a1).bil = s.bil ∧ (started s a1).bilOut = s.bilOut ∧ (started s a1).recd = s.recd ∧ (started s a1).aut = s.aut ∧
    (started s a1).autOut = s.autOut ∧ (started s a1).tagJ = s.tagJ ∧ (started s a1).store = s.store ∧
    (started s a1).kit = s.kit ∧ (started s a1).tie = s.tie ∧ (started s a1).key = s.key ∧ (started s a1).keys = s.keys ∧
    (started s a1).lsw = s.lsw ∧ (started s a1).epd = s.epd ∧ (started s a1).pwr = s.pwr ∧ (started s a1).upd = s.upd ∧
    (started s a1).pmc = s.pmc ∧ (started s a1).keep = s.keep ∧ (started s a1).fresh = s.fresh ∧ (started s a1).out = s.out := by
  simp [started]

@[simp] theorem restartEvent_frame (s : State) (a1 : Fin 57) :
    (restartEvent s a1).glb = s.glb ∧ (restartEvent s a1).tim = s.tim ∧ (restartEvent s a1).str = s.str ∧
    (restartEvent s a1).lanes = s.lanes ∧ (restartEvent s a1).mpl = s.mpl ∧ (restartEvent s a1).uarts = s.uarts ∧
    (restartEvent s a1).cans = s.cans ∧ (restartEvent s a1).seq = s.seq ∧ (restartEvent s a1).ctxs = s.ctxs ∧
    (restartEvent s a1).jrn = s.jrn ∧ (restartEvent s a1).delays = s.delays ∧ (restartEvent s a1).saf = s.saf ∧
    (restartEvent s a1).safOut = s.safOut ∧ (restartEvent s a1).safJ = s.safJ ∧ (restartEvent s a1).shr = s.shr ∧
    (restartEvent s a1).shrOut = s.shrOut ∧ (restartEvent s a1).plc = s.plc ∧ (restartEvent s a1).stas = s.stas ∧
    (restartEvent s a1).met = s.met ∧ (restartEvent s a1).metOut = s.metOut ∧ (restartEvent s a1).enr = s.enr ∧
    (restartEvent s a1).enrOut = s.enrOut ∧ (restartEvent s a1).bil = s.bil ∧ (restartEvent s a1).bilOut = s.bilOut ∧
    (restartEvent s a1).aut = s.aut ∧ (restartEvent s a1).autOut = s.autOut ∧ (restartEvent s a1).tagJ = s.tagJ ∧
    (restartEvent s a1).store = s.store ∧ (restartEvent s a1).kit = s.kit ∧ (restartEvent s a1).tie = s.tie ∧
    (restartEvent s a1).key = s.key ∧ (restartEvent s a1).keys = s.keys ∧ (restartEvent s a1).lsw = s.lsw ∧
    (restartEvent s a1).epd = s.epd ∧ (restartEvent s a1).pwr = s.pwr ∧ (restartEvent s a1).upd = s.upd ∧
    (restartEvent s a1).pmc = s.pmc ∧ (restartEvent s a1).fresh = s.fresh := by
  unfold restartEvent; dsimp only; repeat' split
  all_goals simp

@[simp] theorem debugEvent_frame (s : State) (a1 : Fin 57) :
    (debugEvent s a1).glb = s.glb ∧ (debugEvent s a1).tim = s.tim ∧ (debugEvent s a1).str = s.str ∧
    (debugEvent s a1).lanes = s.lanes ∧ (debugEvent s a1).mpl = s.mpl ∧ (debugEvent s a1).uarts = s.uarts ∧
    (debugEvent s a1).cans = s.cans ∧ (debugEvent s a1).seq = s.seq ∧ (debugEvent s a1).ctxs = s.ctxs ∧
    (debugEvent s a1).jrn = s.jrn ∧ (debugEvent s a1).delays = s.delays ∧ (debugEvent s a1).saf = s.saf ∧
    (debugEvent s a1).safOut = s.safOut ∧ (debugEvent s a1).safJ = s.safJ ∧ (debugEvent s a1).shr = s.shr ∧
    (debugEvent s a1).shrOut = s.shrOut ∧ (debugEvent s a1).plc = s.plc ∧ (debugEvent s a1).stas = s.stas ∧
    (debugEvent s a1).met = s.met ∧ (debugEvent s a1).metOut = s.metOut ∧ (debugEvent s a1).enr = s.enr ∧
    (debugEvent s a1).enrOut = s.enrOut ∧ (debugEvent s a1).bil = s.bil ∧ (debugEvent s a1).bilOut = s.bilOut ∧
    (debugEvent s a1).aut = s.aut ∧ (debugEvent s a1).autOut = s.autOut ∧ (debugEvent s a1).tagJ = s.tagJ ∧
    (debugEvent s a1).store = s.store ∧ (debugEvent s a1).kit = s.kit ∧ (debugEvent s a1).tie = s.tie ∧
    (debugEvent s a1).key = s.key ∧ (debugEvent s a1).keys = s.keys ∧ (debugEvent s a1).lsw = s.lsw ∧
    (debugEvent s a1).epd = s.epd ∧ (debugEvent s a1).pwr = s.pwr ∧ (debugEvent s a1).upd = s.upd ∧
    (debugEvent s a1).pmc = s.pmc ∧ (debugEvent s a1).fresh = s.fresh := by
  simp [debugEvent]

@[simp] theorem actionH_frame (s : State) :
    (actionH s).glb = s.glb ∧ (actionH s).tim = s.tim ∧ (actionH s).str = s.str ∧ (actionH s).lanes = s.lanes ∧
    (actionH s).rng = s.rng ∧ (actionH s).rings = s.rings ∧ (actionH s).mpl = s.mpl ∧ (actionH s).uarts = s.uarts ∧
    (actionH s).cans = s.cans ∧ (actionH s).seq = s.seq ∧ (actionH s).ctxs = s.ctxs ∧ (actionH s).jrn = s.jrn ∧
    (actionH s).delays = s.delays ∧ (actionH s).saf = s.saf ∧ (actionH s).safOut = s.safOut ∧ (actionH s).safJ = s.safJ ∧
    (actionH s).shr = s.shr ∧ (actionH s).shrOut = s.shrOut ∧ (actionH s).plc = s.plc ∧ (actionH s).stas = s.stas ∧
    (actionH s).met = s.met ∧ (actionH s).metOut = s.metOut ∧ (actionH s).enr = s.enr ∧ (actionH s).enrOut = s.enrOut ∧
    (actionH s).bil = s.bil ∧ (actionH s).bilOut = s.bilOut ∧ (actionH s).recd = s.recd ∧ (actionH s).aut = s.aut ∧
    (actionH s).autOut = s.autOut ∧ (actionH s).tagJ = s.tagJ ∧ (actionH s).store = s.store ∧ (actionH s).kit = s.kit ∧
    (actionH s).key = s.key ∧ (actionH s).keys = s.keys ∧ (actionH s).lsw = s.lsw ∧ (actionH s).epd = s.epd ∧
    (actionH s).pwr = s.pwr ∧ (actionH s).upd = s.upd ∧ (actionH s).pmc = s.pmc ∧ (actionH s).keep = s.keep ∧
    (actionH s).fresh = s.fresh ∧ (actionH s).out = s.out := by
  simp [actionH]

@[simp] theorem lastingAction_frame (s : State) (a1 : ℕ) :
    (lastingAction s a1).tim = s.tim ∧ (lastingAction s a1).str = s.str ∧ (lastingAction s a1).lanes = s.lanes ∧
    (lastingAction s a1).rng = s.rng ∧ (lastingAction s a1).rings = s.rings ∧ (lastingAction s a1).mpl = s.mpl ∧
    (lastingAction s a1).uarts = s.uarts ∧ (lastingAction s a1).cans = s.cans ∧ (lastingAction s a1).seq = s.seq ∧
    (lastingAction s a1).ctxs = s.ctxs ∧ (lastingAction s a1).jrn = s.jrn ∧ (lastingAction s a1).delays = s.delays ∧
    (lastingAction s a1).safOut = s.safOut ∧ (lastingAction s a1).safJ = s.safJ ∧ (lastingAction s a1).shr = s.shr ∧
    (lastingAction s a1).shrOut = s.shrOut ∧ (lastingAction s a1).plc = s.plc ∧ (lastingAction s a1).stas = s.stas ∧
    (lastingAction s a1).met = s.met ∧ (lastingAction s a1).metOut = s.metOut ∧ (lastingAction s a1).enr = s.enr ∧
    (lastingAction s a1).enrOut = s.enrOut ∧ (lastingAction s a1).bil = s.bil ∧ (lastingAction s a1).bilOut = s.bilOut ∧
    (lastingAction s a1).recd = s.recd ∧ (lastingAction s a1).aut = s.aut ∧ (lastingAction s a1).autOut = s.autOut ∧
    (lastingAction s a1).tagJ = s.tagJ ∧ (lastingAction s a1).store = s.store ∧ (lastingAction s a1).kit = s.kit ∧
    (lastingAction s a1).key = s.key ∧ (lastingAction s a1).keys = s.keys ∧ (lastingAction s a1).lsw = s.lsw ∧
    (lastingAction s a1).epd = s.epd ∧ (lastingAction s a1).pwr = s.pwr ∧ (lastingAction s a1).upd = s.upd ∧
    (lastingAction s a1).pmc = s.pmc ∧ (lastingAction s a1).keep = s.keep ∧ (lastingAction s a1).fresh = s.fresh ∧
    (lastingAction s a1).out = s.out := by
  unfold lastingAction; dsimp only; repeat' split
  all_goals simp

@[simp] theorem postFault_frame (s : State) (a1 : ℕ) (a2 : ℕ) (a3 : Bool) (a4 : ℕ) :
    (postFault s a1 a2 a3 a4).glb = s.glb ∧ (postFault s a1 a2 a3 a4).tim = s.tim ∧ (postFault s a1 a2 a3 a4).str = s.str ∧
    (postFault s a1 a2 a3 a4).lanes = s.lanes ∧ (postFault s a1 a2 a3 a4).mpl = s.mpl ∧
    (postFault s a1 a2 a3 a4).uarts = s.uarts ∧ (postFault s a1 a2 a3 a4).cans = s.cans ∧ (postFault s a1 a2 a3 a4).seq = s.seq ∧
    (postFault s a1 a2 a3 a4).ctxs = s.ctxs ∧ (postFault s a1 a2 a3 a4).jrn = s.jrn ∧
    (postFault s a1 a2 a3 a4).delays = s.delays ∧ (postFault s a1 a2 a3 a4).saf = s.saf ∧
    (postFault s a1 a2 a3 a4).safOut = s.safOut ∧ (postFault s a1 a2 a3 a4).safJ = s.safJ ∧
    (postFault s a1 a2 a3 a4).shr = s.shr ∧ (postFault s a1 a2 a3 a4).shrOut = s.shrOut ∧ (postFault s a1 a2 a3 a4).plc = s.plc ∧
    (postFault s a1 a2 a3 a4).stas = s.stas ∧ (postFault s a1 a2 a3 a4).met = s.met ∧
    (postFault s a1 a2 a3 a4).metOut = s.metOut ∧ (postFault s a1 a2 a3 a4).enr = s.enr ∧
    (postFault s a1 a2 a3 a4).enrOut = s.enrOut ∧ (postFault s a1 a2 a3 a4).bil = s.bil ∧
    (postFault s a1 a2 a3 a4).bilOut = s.bilOut ∧ (postFault s a1 a2 a3 a4).aut = s.aut ∧
    (postFault s a1 a2 a3 a4).autOut = s.autOut ∧ (postFault s a1 a2 a3 a4).tagJ = s.tagJ ∧
    (postFault s a1 a2 a3 a4).store = s.store ∧ (postFault s a1 a2 a3 a4).kit = s.kit ∧ (postFault s a1 a2 a3 a4).tie = s.tie ∧
    (postFault s a1 a2 a3 a4).key = s.key ∧ (postFault s a1 a2 a3 a4).keys = s.keys ∧ (postFault s a1 a2 a3 a4).lsw = s.lsw ∧
    (postFault s a1 a2 a3 a4).epd = s.epd ∧ (postFault s a1 a2 a3 a4).pwr = s.pwr ∧ (postFault s a1 a2 a3 a4).upd = s.upd ∧
    (postFault s a1 a2 a3 a4).pmc = s.pmc ∧ (postFault s a1 a2 a3 a4).fresh = s.fresh := by
  simp [postFault]

@[simp] theorem makeLasting_frame (s : State) (a1 : ℕ) (a2 : ℕ) :
    (makeLasting s a1 a2).tim = s.tim ∧ (makeLasting s a1 a2).str = s.str ∧ (makeLasting s a1 a2).lanes = s.lanes ∧
    (makeLasting s a1 a2).mpl = s.mpl ∧ (makeLasting s a1 a2).uarts = s.uarts ∧ (makeLasting s a1 a2).cans = s.cans ∧
    (makeLasting s a1 a2).seq = s.seq ∧ (makeLasting s a1 a2).ctxs = s.ctxs ∧ (makeLasting s a1 a2).jrn = s.jrn ∧
    (makeLasting s a1 a2).delays = s.delays ∧ (makeLasting s a1 a2).safOut = s.safOut ∧ (makeLasting s a1 a2).safJ = s.safJ ∧
    (makeLasting s a1 a2).shr = s.shr ∧ (makeLasting s a1 a2).shrOut = s.shrOut ∧ (makeLasting s a1 a2).plc = s.plc ∧
    (makeLasting s a1 a2).stas = s.stas ∧ (makeLasting s a1 a2).met = s.met ∧ (makeLasting s a1 a2).metOut = s.metOut ∧
    (makeLasting s a1 a2).enr = s.enr ∧ (makeLasting s a1 a2).enrOut = s.enrOut ∧ (makeLasting s a1 a2).bil = s.bil ∧
    (makeLasting s a1 a2).bilOut = s.bilOut ∧ (makeLasting s a1 a2).aut = s.aut ∧ (makeLasting s a1 a2).autOut = s.autOut ∧
    (makeLasting s a1 a2).tagJ = s.tagJ ∧ (makeLasting s a1 a2).store = s.store ∧ (makeLasting s a1 a2).kit = s.kit ∧
    (makeLasting s a1 a2).key = s.key ∧ (makeLasting s a1 a2).keys = s.keys ∧ (makeLasting s a1 a2).lsw = s.lsw ∧
    (makeLasting s a1 a2).epd = s.epd ∧ (makeLasting s a1 a2).pwr = s.pwr ∧ (makeLasting s a1 a2).upd = s.upd ∧
    (makeLasting s a1 a2).pmc = s.pmc ∧ (makeLasting s a1 a2).fresh = s.fresh := by
  simp [makeLasting]

@[simp] theorem failTrial_frame (s : State) (a1 : ℕ) :
    (failTrial s a1).glb = s.glb ∧ (failTrial s a1).tim = s.tim ∧ (failTrial s a1).str = s.str ∧
    (failTrial s a1).lanes = s.lanes ∧ (failTrial s a1).rng = s.rng ∧ (failTrial s a1).rings = s.rings ∧
    (failTrial s a1).mpl = s.mpl ∧ (failTrial s a1).uarts = s.uarts ∧ (failTrial s a1).cans = s.cans ∧
    (failTrial s a1).seq = s.seq ∧ (failTrial s a1).ctxs = s.ctxs ∧ (failTrial s a1).jrn = s.jrn ∧
    (failTrial s a1).delays = s.delays ∧ (failTrial s a1).saf = s.saf ∧ (failTrial s a1).safOut = s.safOut ∧
    (failTrial s a1).safJ = s.safJ ∧ (failTrial s a1).shr = s.shr ∧ (failTrial s a1).shrOut = s.shrOut ∧
    (failTrial s a1).plc = s.plc ∧ (failTrial s a1).stas = s.stas ∧ (failTrial s a1).met = s.met ∧
    (failTrial s a1).metOut = s.metOut ∧ (failTrial s a1).enr = s.enr ∧ (failTrial s a1).enrOut = s.enrOut ∧
    (failTrial s a1).bil = s.bil ∧ (failTrial s a1).bilOut = s.bilOut ∧ (failTrial s a1).recd = s.recd ∧
    (failTrial s a1).aut = s.aut ∧ (failTrial s a1).autOut = s.autOut ∧ (failTrial s a1).tagJ = s.tagJ ∧
    (failTrial s a1).store = s.store ∧ (failTrial s a1).kit = s.kit ∧ (failTrial s a1).tie = s.tie ∧
    (failTrial s a1).key = s.key ∧ (failTrial s a1).keys = s.keys ∧ (failTrial s a1).lsw = s.lsw ∧ (failTrial s a1).epd = s.epd ∧
    (failTrial s a1).pwr = s.pwr ∧ (failTrial s a1).pmc = s.pmc ∧ (failTrial s a1).keep = s.keep ∧
    (failTrial s a1).fresh = s.fresh ∧ (failTrial s a1).out = s.out := by
  unfold failTrial; dsimp only; repeat' split
  all_goals simp

@[simp] theorem tally_frame (s : State) (a1 : ℕ) (a2 : ℕ) :
    (tally s a1 a2).tim = s.tim ∧ (tally s a1 a2).str = s.str ∧ (tally s a1 a2).lanes = s.lanes ∧ (tally s a1 a2).mpl = s.mpl ∧
    (tally s a1 a2).uarts = s.uarts ∧ (tally s a1 a2).cans = s.cans ∧ (tally s a1 a2).seq = s.seq ∧
    (tally s a1 a2).ctxs = s.ctxs ∧ (tally s a1 a2).jrn = s.jrn ∧ (tally s a1 a2).delays = s.delays ∧
    (tally s a1 a2).safOut = s.safOut ∧ (tally s a1 a2).safJ = s.safJ ∧ (tally s a1 a2).shr = s.shr ∧
    (tally s a1 a2).shrOut = s.shrOut ∧ (tally s a1 a2).plc = s.plc ∧ (tally s a1 a2).stas = s.stas ∧
    (tally s a1 a2).met = s.met ∧ (tally s a1 a2).metOut = s.metOut ∧ (tally s a1 a2).enr = s.enr ∧
    (tally s a1 a2).enrOut = s.enrOut ∧ (tally s a1 a2).bil = s.bil ∧ (tally s a1 a2).bilOut = s.bilOut ∧
    (tally s a1 a2).aut = s.aut ∧ (tally s a1 a2).autOut = s.autOut ∧ (tally s a1 a2).tagJ = s.tagJ ∧
    (tally s a1 a2).store = s.store ∧ (tally s a1 a2).kit = s.kit ∧ (tally s a1 a2).key = s.key ∧ (tally s a1 a2).keys = s.keys ∧
    (tally s a1 a2).lsw = s.lsw ∧ (tally s a1 a2).epd = s.epd ∧ (tally s a1 a2).pwr = s.pwr ∧ (tally s a1 a2).pmc = s.pmc ∧
    (tally s a1 a2).fresh = s.fresh := by
  simp [tally]

@[simp] theorem refuseMark_frame (s : State) (a1 : MarkOwner) :
    (refuseMark s a1).tim = s.tim ∧ (refuseMark s a1).str = s.str ∧ (refuseMark s a1).lanes = s.lanes ∧
    (refuseMark s a1).mpl = s.mpl ∧ (refuseMark s a1).uarts = s.uarts ∧ (refuseMark s a1).cans = s.cans ∧
    (refuseMark s a1).seq = s.seq ∧ (refuseMark s a1).ctxs = s.ctxs ∧ (refuseMark s a1).jrn = s.jrn ∧
    (refuseMark s a1).delays = s.delays ∧ (refuseMark s a1).safOut = s.safOut ∧ (refuseMark s a1).safJ = s.safJ ∧
    (refuseMark s a1).shr = s.shr ∧ (refuseMark s a1).shrOut = s.shrOut ∧ (refuseMark s a1).plc = s.plc ∧
    (refuseMark s a1).stas = s.stas ∧ (refuseMark s a1).met = s.met ∧ (refuseMark s a1).metOut = s.metOut ∧
    (refuseMark s a1).enr = s.enr ∧ (refuseMark s a1).enrOut = s.enrOut ∧ (refuseMark s a1).bil = s.bil ∧
    (refuseMark s a1).bilOut = s.bilOut ∧ (refuseMark s a1).aut = s.aut ∧ (refuseMark s a1).autOut = s.autOut ∧
    (refuseMark s a1).tagJ = s.tagJ ∧ (refuseMark s a1).store = s.store ∧ (refuseMark s a1).kit = s.kit ∧
    (refuseMark s a1).key = s.key ∧ (refuseMark s a1).keys = s.keys ∧ (refuseMark s a1).lsw = s.lsw ∧
    (refuseMark s a1).epd = s.epd ∧ (refuseMark s a1).pwr = s.pwr ∧ (refuseMark s a1).pmc = s.pmc ∧
    (refuseMark s a1).fresh = s.fresh := by
  simp [refuseMark]

@[simp] theorem State.setMark_frame (s : State) (a1 : MarkOwner) (a2 : ℕ) (a3 : ℕ) :
    (State.setMark s a1 a2 a3).1.str = s.str ∧ (State.setMark s a1 a2 a3).1.lanes = s.lanes ∧
    (State.setMark s a1 a2 a3).1.mpl = s.mpl ∧ (State.setMark s a1 a2 a3).1.uarts = s.uarts ∧
    (State.setMark s a1 a2 a3).1.cans = s.cans ∧ (State.setMark s a1 a2 a3).1.seq = s.seq ∧
    (State.setMark s a1 a2 a3).1.ctxs = s.ctxs ∧ (State.setMark s a1 a2 a3).1.jrn = s.jrn ∧
    (State.setMark s a1 a2 a3).1.delays = s.delays ∧ (State.setMark s a1 a2 a3).1.safOut = s.safOut ∧
    (State.setMark s a1 a2 a3).1.safJ = s.safJ ∧ (State.setMark s a1 a2 a3).1.shr = s.shr ∧
    (State.setMark s a1 a2 a3).1.shrOut = s.shrOut ∧ (State.setMark s a1 a2 a3).1.plc = s.plc ∧
    (State.setMark s a1 a2 a3).1.stas = s.stas ∧ (State.setMark s a1 a2 a3).1.met = s.met ∧
    (State.setMark s a1 a2 a3).1.metOut = s.metOut ∧ (State.setMark s a1 a2 a3).1.enr = s.enr ∧
    (State.setMark s a1 a2 a3).1.enrOut = s.enrOut ∧ (State.setMark s a1 a2 a3).1.bil = s.bil ∧
    (State.setMark s a1 a2 a3).1.bilOut = s.bilOut ∧ (State.setMark s a1 a2 a3).1.aut = s.aut ∧
    (State.setMark s a1 a2 a3).1.autOut = s.autOut ∧ (State.setMark s a1 a2 a3).1.tagJ = s.tagJ ∧
    (State.setMark s a1 a2 a3).1.store = s.store ∧ (State.setMark s a1 a2 a3).1.kit = s.kit ∧
    (State.setMark s a1 a2 a3).1.key = s.key ∧ (State.setMark s a1 a2 a3).1.keys = s.keys ∧
    (State.setMark s a1 a2 a3).1.lsw = s.lsw ∧ (State.setMark s a1 a2 a3).1.epd = s.epd ∧
    (State.setMark s a1 a2 a3).1.pwr = s.pwr ∧ (State.setMark s a1 a2 a3).1.pmc = s.pmc ∧
    (State.setMark s a1 a2 a3).1.fresh = s.fresh := by
  unfold State.setMark; dsimp only; repeat' split
  all_goals simp

@[simp] theorem recordRefusal_frame (s : State) (a1 : Sys2Proof.Cmd) :
    (recordRefusal s a1).glb = s.glb ∧ (recordRefusal s a1).tim = s.tim ∧ (recordRefusal s a1).str = s.str ∧
    (recordRefusal s a1).lanes = s.lanes ∧ (recordRefusal s a1).rng = s.rng ∧ (recordRefusal s a1).rings = s.rings ∧
    (recordRefusal s a1).mpl = s.mpl ∧ (recordRefusal s a1).uarts = s.uarts ∧ (recordRefusal s a1).cans = s.cans ∧
    (recordRefusal s a1).seq = s.seq ∧ (recordRefusal s a1).ctxs = s.ctxs ∧ (recordRefusal s a1).jrn = s.jrn ∧
    (recordRefusal s a1).delays = s.delays ∧ (recordRefusal s a1).saf = s.saf ∧ (recordRefusal s a1).safOut = s.safOut ∧
    (recordRefusal s a1).safJ = s.safJ ∧ (recordRefusal s a1).shr = s.shr ∧ (recordRefusal s a1).shrOut = s.shrOut ∧
    (recordRefusal s a1).plc = s.plc ∧ (recordRefusal s a1).stas = s.stas ∧ (recordRefusal s a1).met = s.met ∧
    (recordRefusal s a1).metOut = s.metOut ∧ (recordRefusal s a1).enr = s.enr ∧ (recordRefusal s a1).enrOut = s.enrOut ∧
    (recordRefusal s a1).bil = s.bil ∧ (recordRefusal s a1).bilOut = s.bilOut ∧ (recordRefusal s a1).aut = s.aut ∧
    (recordRefusal s a1).autOut = s.autOut ∧ (recordRefusal s a1).tagJ = s.tagJ ∧ (recordRefusal s a1).store = s.store ∧
    (recordRefusal s a1).kit = s.kit ∧ (recordRefusal s a1).tie = s.tie ∧ (recordRefusal s a1).key = s.key ∧
    (recordRefusal s a1).keys = s.keys ∧ (recordRefusal s a1).lsw = s.lsw ∧ (recordRefusal s a1).epd = s.epd ∧
    (recordRefusal s a1).pwr = s.pwr ∧ (recordRefusal s a1).upd = s.upd ∧ (recordRefusal s a1).pmc = s.pmc ∧
    (recordRefusal s a1).keep = s.keep ∧ (recordRefusal s a1).fresh = s.fresh ∧ (recordRefusal s a1).out = s.out := by
  simp [recordRefusal]

@[simp] theorem askDomain_frame (s : State) (a1 : Fin 19) (a2 : Sys2Proof.Cmd) :
    (askDomain s a1 a2).glb = s.glb ∧ (askDomain s a1 a2).tim = s.tim ∧ (askDomain s a1 a2).str = s.str ∧
    (askDomain s a1 a2).lanes = s.lanes ∧ (askDomain s a1 a2).mpl = s.mpl ∧ (askDomain s a1 a2).uarts = s.uarts ∧
    (askDomain s a1 a2).cans = s.cans ∧ (askDomain s a1 a2).seq = s.seq ∧ (askDomain s a1 a2).ctxs = s.ctxs ∧
    (askDomain s a1 a2).jrn = s.jrn ∧ (askDomain s a1 a2).delays = s.delays ∧ (askDomain s a1 a2).saf = s.saf ∧
    (askDomain s a1 a2).safOut = s.safOut ∧ (askDomain s a1 a2).safJ = s.safJ ∧ (askDomain s a1 a2).shr = s.shr ∧
    (askDomain s a1 a2).shrOut = s.shrOut ∧ (askDomain s a1 a2).plc = s.plc ∧ (askDomain s a1 a2).stas = s.stas ∧
    (askDomain s a1 a2).met = s.met ∧ (askDomain s a1 a2).metOut = s.metOut ∧ (askDomain s a1 a2).enr = s.enr ∧
    (askDomain s a1 a2).enrOut = s.enrOut ∧ (askDomain s a1 a2).bil = s.bil ∧ (askDomain s a1 a2).bilOut = s.bilOut ∧
    (askDomain s a1 a2).recd = s.recd ∧ (askDomain s a1 a2).aut = s.aut ∧ (askDomain s a1 a2).autOut = s.autOut ∧
    (askDomain s a1 a2).tagJ = s.tagJ ∧ (askDomain s a1 a2).store = s.store ∧ (askDomain s a1 a2).kit = s.kit ∧
    (askDomain s a1 a2).tie = s.tie ∧ (askDomain s a1 a2).key = s.key ∧ (askDomain s a1 a2).keys = s.keys ∧
    (askDomain s a1 a2).lsw = s.lsw ∧ (askDomain s a1 a2).epd = s.epd ∧ (askDomain s a1 a2).upd = s.upd ∧
    (askDomain s a1 a2).pmc = s.pmc ∧ (askDomain s a1 a2).keep = s.keep ∧ (askDomain s a1 a2).fresh = s.fresh := by
  simp [askDomain]

@[simp] theorem mirrorCmd_frame (s : State) (a1 : Sys2Proof.Cmd) :
    (mirrorCmd s a1).glb = s.glb ∧ (mirrorCmd s a1).tim = s.tim ∧ (mirrorCmd s a1).str = s.str ∧
    (mirrorCmd s a1).lanes = s.lanes ∧ (mirrorCmd s a1).rng = s.rng ∧ (mirrorCmd s a1).rings = s.rings ∧
    (mirrorCmd s a1).mpl = s.mpl ∧ (mirrorCmd s a1).uarts = s.uarts ∧ (mirrorCmd s a1).cans = s.cans ∧
    (mirrorCmd s a1).seq = s.seq ∧ (mirrorCmd s a1).ctxs = s.ctxs ∧ (mirrorCmd s a1).jrn = s.jrn ∧
    (mirrorCmd s a1).delays = s.delays ∧ (mirrorCmd s a1).saf = s.saf ∧ (mirrorCmd s a1).safOut = s.safOut ∧
    (mirrorCmd s a1).safJ = s.safJ ∧ (mirrorCmd s a1).shr = s.shr ∧ (mirrorCmd s a1).shrOut = s.shrOut ∧
    (mirrorCmd s a1).plc = s.plc ∧ (mirrorCmd s a1).stas = s.stas ∧ (mirrorCmd s a1).met = s.met ∧
    (mirrorCmd s a1).metOut = s.metOut ∧ (mirrorCmd s a1).enr = s.enr ∧ (mirrorCmd s a1).enrOut = s.enrOut ∧
    (mirrorCmd s a1).bil = s.bil ∧ (mirrorCmd s a1).bilOut = s.bilOut ∧ (mirrorCmd s a1).recd = s.recd ∧
    (mirrorCmd s a1).aut = s.aut ∧ (mirrorCmd s a1).autOut = s.autOut ∧ (mirrorCmd s a1).tagJ = s.tagJ ∧
    (mirrorCmd s a1).store = s.store ∧ (mirrorCmd s a1).kit = s.kit ∧ (mirrorCmd s a1).tie = s.tie ∧
    (mirrorCmd s a1).key = s.key ∧ (mirrorCmd s a1).keys = s.keys ∧ (mirrorCmd s a1).lsw = s.lsw ∧ (mirrorCmd s a1).epd = s.epd ∧
    (mirrorCmd s a1).pwr = s.pwr ∧ (mirrorCmd s a1).upd = s.upd ∧ (mirrorCmd s a1).pmc = s.pmc ∧ (mirrorCmd s a1).keep = s.keep ∧
    (mirrorCmd s a1).fresh = s.fresh := by
  simp [mirrorCmd]

@[simp] theorem State.mirror_frame (s : State) (a1 : ℕ) (a2 : List ℕ) :
    (State.mirror s a1 a2).glb = s.glb ∧ (State.mirror s a1 a2).tim = s.tim ∧ (State.mirror s a1 a2).str = s.str ∧
    (State.mirror s a1 a2).lanes = s.lanes ∧ (State.mirror s a1 a2).rng = s.rng ∧ (State.mirror s a1 a2).rings = s.rings ∧
    (State.mirror s a1 a2).mpl = s.mpl ∧ (State.mirror s a1 a2).uarts = s.uarts ∧ (State.mirror s a1 a2).cans = s.cans ∧
    (State.mirror s a1 a2).seq = s.seq ∧ (State.mirror s a1 a2).ctxs = s.ctxs ∧ (State.mirror s a1 a2).jrn = s.jrn ∧
    (State.mirror s a1 a2).delays = s.delays ∧ (State.mirror s a1 a2).saf = s.saf ∧ (State.mirror s a1 a2).safOut = s.safOut ∧
    (State.mirror s a1 a2).safJ = s.safJ ∧ (State.mirror s a1 a2).shr = s.shr ∧ (State.mirror s a1 a2).shrOut = s.shrOut ∧
    (State.mirror s a1 a2).plc = s.plc ∧ (State.mirror s a1 a2).stas = s.stas ∧ (State.mirror s a1 a2).met = s.met ∧
    (State.mirror s a1 a2).metOut = s.metOut ∧ (State.mirror s a1 a2).enr = s.enr ∧ (State.mirror s a1 a2).enrOut = s.enrOut ∧
    (State.mirror s a1 a2).bil = s.bil ∧ (State.mirror s a1 a2).bilOut = s.bilOut ∧ (State.mirror s a1 a2).recd = s.recd ∧
    (State.mirror s a1 a2).aut = s.aut ∧ (State.mirror s a1 a2).autOut = s.autOut ∧ (State.mirror s a1 a2).tagJ = s.tagJ ∧
    (State.mirror s a1 a2).store = s.store ∧ (State.mirror s a1 a2).kit = s.kit ∧ (State.mirror s a1 a2).tie = s.tie ∧
    (State.mirror s a1 a2).key = s.key ∧ (State.mirror s a1 a2).keys = s.keys ∧ (State.mirror s a1 a2).lsw = s.lsw ∧
    (State.mirror s a1 a2).epd = s.epd ∧ (State.mirror s a1 a2).pwr = s.pwr ∧ (State.mirror s a1 a2).upd = s.upd ∧
    (State.mirror s a1 a2).pmc = s.pmc ∧ (State.mirror s a1 a2).keep = s.keep ∧ (State.mirror s a1 a2).fresh = s.fresh := by
  simp [State.mirror]

@[simp] theorem State.putJrn_frame (s : State) (a1 : Fin 128) (a2 : CtxJournal) :
    (State.putJrn s a1 a2).glb = s.glb ∧ (State.putJrn s a1 a2).tim = s.tim ∧ (State.putJrn s a1 a2).str = s.str ∧
    (State.putJrn s a1 a2).lanes = s.lanes ∧ (State.putJrn s a1 a2).rng = s.rng ∧ (State.putJrn s a1 a2).rings = s.rings ∧
    (State.putJrn s a1 a2).mpl = s.mpl ∧ (State.putJrn s a1 a2).uarts = s.uarts ∧ (State.putJrn s a1 a2).cans = s.cans ∧
    (State.putJrn s a1 a2).seq = s.seq ∧ (State.putJrn s a1 a2).ctxs = s.ctxs ∧ (State.putJrn s a1 a2).delays = s.delays ∧
    (State.putJrn s a1 a2).saf = s.saf ∧ (State.putJrn s a1 a2).safOut = s.safOut ∧ (State.putJrn s a1 a2).safJ = s.safJ ∧
    (State.putJrn s a1 a2).shr = s.shr ∧ (State.putJrn s a1 a2).shrOut = s.shrOut ∧ (State.putJrn s a1 a2).plc = s.plc ∧
    (State.putJrn s a1 a2).stas = s.stas ∧ (State.putJrn s a1 a2).met = s.met ∧ (State.putJrn s a1 a2).metOut = s.metOut ∧
    (State.putJrn s a1 a2).enr = s.enr ∧ (State.putJrn s a1 a2).enrOut = s.enrOut ∧ (State.putJrn s a1 a2).bil = s.bil ∧
    (State.putJrn s a1 a2).bilOut = s.bilOut ∧ (State.putJrn s a1 a2).recd = s.recd ∧ (State.putJrn s a1 a2).aut = s.aut ∧
    (State.putJrn s a1 a2).autOut = s.autOut ∧ (State.putJrn s a1 a2).tagJ = s.tagJ ∧ (State.putJrn s a1 a2).store = s.store ∧
    (State.putJrn s a1 a2).kit = s.kit ∧ (State.putJrn s a1 a2).tie = s.tie ∧ (State.putJrn s a1 a2).key = s.key ∧
    (State.putJrn s a1 a2).keys = s.keys ∧ (State.putJrn s a1 a2).lsw = s.lsw ∧ (State.putJrn s a1 a2).epd = s.epd ∧
    (State.putJrn s a1 a2).pwr = s.pwr ∧ (State.putJrn s a1 a2).upd = s.upd ∧ (State.putJrn s a1 a2).pmc = s.pmc ∧
    (State.putJrn s a1 a2).keep = s.keep ∧ (State.putJrn s a1 a2).fresh = s.fresh ∧ (State.putJrn s a1 a2).out = s.out := by
  simp [State.putJrn]

@[simp] theorem writeJournal_frame (s : State) (a1 : Fin 128) :
    (writeJournal s a1).glb = s.glb ∧ (writeJournal s a1).tim = s.tim ∧ (writeJournal s a1).str = s.str ∧
    (writeJournal s a1).lanes = s.lanes ∧ (writeJournal s a1).rng = s.rng ∧ (writeJournal s a1).rings = s.rings ∧
    (writeJournal s a1).mpl = s.mpl ∧ (writeJournal s a1).uarts = s.uarts ∧ (writeJournal s a1).cans = s.cans ∧
    (writeJournal s a1).seq = s.seq ∧ (writeJournal s a1).ctxs = s.ctxs ∧ (writeJournal s a1).delays = s.delays ∧
    (writeJournal s a1).saf = s.saf ∧ (writeJournal s a1).safOut = s.safOut ∧ (writeJournal s a1).safJ = s.safJ ∧
    (writeJournal s a1).shr = s.shr ∧ (writeJournal s a1).shrOut = s.shrOut ∧ (writeJournal s a1).plc = s.plc ∧
    (writeJournal s a1).stas = s.stas ∧ (writeJournal s a1).met = s.met ∧ (writeJournal s a1).metOut = s.metOut ∧
    (writeJournal s a1).enr = s.enr ∧ (writeJournal s a1).enrOut = s.enrOut ∧ (writeJournal s a1).bil = s.bil ∧
    (writeJournal s a1).bilOut = s.bilOut ∧ (writeJournal s a1).recd = s.recd ∧ (writeJournal s a1).aut = s.aut ∧
    (writeJournal s a1).autOut = s.autOut ∧ (writeJournal s a1).tagJ = s.tagJ ∧ (writeJournal s a1).store = s.store ∧
    (writeJournal s a1).kit = s.kit ∧ (writeJournal s a1).tie = s.tie ∧ (writeJournal s a1).key = s.key ∧
    (writeJournal s a1).keys = s.keys ∧ (writeJournal s a1).lsw = s.lsw ∧ (writeJournal s a1).epd = s.epd ∧
    (writeJournal s a1).pwr = s.pwr ∧ (writeJournal s a1).upd = s.upd ∧ (writeJournal s a1).pmc = s.pmc ∧
    (writeJournal s a1).keep = s.keep ∧ (writeJournal s a1).fresh = s.fresh := by
  simp [writeJournal]

@[simp] theorem loseTrig_frame (s : State) (a1 : Fin 128) (a2 : Trigger) :
    (loseTrig s a1 a2).glb = s.glb ∧ (loseTrig s a1 a2).tim = s.tim ∧ (loseTrig s a1 a2).str = s.str ∧
    (loseTrig s a1 a2).lanes = s.lanes ∧ (loseTrig s a1 a2).mpl = s.mpl ∧ (loseTrig s a1 a2).uarts = s.uarts ∧
    (loseTrig s a1 a2).cans = s.cans ∧ (loseTrig s a1 a2).jrn = s.jrn ∧ (loseTrig s a1 a2).delays = s.delays ∧
    (loseTrig s a1 a2).saf = s.saf ∧ (loseTrig s a1 a2).safOut = s.safOut ∧ (loseTrig s a1 a2).safJ = s.safJ ∧
    (loseTrig s a1 a2).shr = s.shr ∧ (loseTrig s a1 a2).shrOut = s.shrOut ∧ (loseTrig s a1 a2).plc = s.plc ∧
    (loseTrig s a1 a2).stas = s.stas ∧ (loseTrig s a1 a2).met = s.met ∧ (loseTrig s a1 a2).metOut = s.metOut ∧
    (loseTrig s a1 a2).enr = s.enr ∧ (loseTrig s a1 a2).enrOut = s.enrOut ∧ (loseTrig s a1 a2).bil = s.bil ∧
    (loseTrig s a1 a2).bilOut = s.bilOut ∧ (loseTrig s a1 a2).aut = s.aut ∧ (loseTrig s a1 a2).autOut = s.autOut ∧
    (loseTrig s a1 a2).tagJ = s.tagJ ∧ (loseTrig s a1 a2).store = s.store ∧ (loseTrig s a1 a2).kit = s.kit ∧
    (loseTrig s a1 a2).tie = s.tie ∧ (loseTrig s a1 a2).key = s.key ∧ (loseTrig s a1 a2).keys = s.keys ∧
    (loseTrig s a1 a2).lsw = s.lsw ∧ (loseTrig s a1 a2).epd = s.epd ∧ (loseTrig s a1 a2).pwr = s.pwr ∧
    (loseTrig s a1 a2).upd = s.upd ∧ (loseTrig s a1 a2).pmc = s.pmc ∧ (loseTrig s a1 a2).fresh = s.fresh := by
  unfold loseTrig; dsimp only; repeat' split
  all_goals simp

@[simp] theorem queueTrig_frame (s : State) (a1 : Fin 128) (a2 : ℕ) (a3 : ℕ) (a4 : optParam (Option (Fin 16 × BitVec 32)) none) :
    (queueTrig s a1 a2 a3 a4).glb = s.glb ∧ (queueTrig s a1 a2 a3 a4).tim = s.tim ∧ (queueTrig s a1 a2 a3 a4).str = s.str ∧
    (queueTrig s a1 a2 a3 a4).lanes = s.lanes ∧ (queueTrig s a1 a2 a3 a4).mpl = s.mpl ∧
    (queueTrig s a1 a2 a3 a4).uarts = s.uarts ∧ (queueTrig s a1 a2 a3 a4).cans = s.cans ∧ (queueTrig s a1 a2 a3 a4).jrn = s.jrn ∧
    (queueTrig s a1 a2 a3 a4).delays = s.delays ∧ (queueTrig s a1 a2 a3 a4).saf = s.saf ∧
    (queueTrig s a1 a2 a3 a4).safOut = s.safOut ∧ (queueTrig s a1 a2 a3 a4).safJ = s.safJ ∧
    (queueTrig s a1 a2 a3 a4).shr = s.shr ∧ (queueTrig s a1 a2 a3 a4).shrOut = s.shrOut ∧ (queueTrig s a1 a2 a3 a4).plc = s.plc ∧
    (queueTrig s a1 a2 a3 a4).stas = s.stas ∧ (queueTrig s a1 a2 a3 a4).met = s.met ∧
    (queueTrig s a1 a2 a3 a4).metOut = s.metOut ∧ (queueTrig s a1 a2 a3 a4).enr = s.enr ∧
    (queueTrig s a1 a2 a3 a4).enrOut = s.enrOut ∧ (queueTrig s a1 a2 a3 a4).bil = s.bil ∧
    (queueTrig s a1 a2 a3 a4).bilOut = s.bilOut ∧ (queueTrig s a1 a2 a3 a4).aut = s.aut ∧
    (queueTrig s a1 a2 a3 a4).autOut = s.autOut ∧ (queueTrig s a1 a2 a3 a4).tagJ = s.tagJ ∧
    (queueTrig s a1 a2 a3 a4).store = s.store ∧ (queueTrig s a1 a2 a3 a4).kit = s.kit ∧ (queueTrig s a1 a2 a3 a4).tie = s.tie ∧
    (queueTrig s a1 a2 a3 a4).key = s.key ∧ (queueTrig s a1 a2 a3 a4).keys = s.keys ∧ (queueTrig s a1 a2 a3 a4).lsw = s.lsw ∧
    (queueTrig s a1 a2 a3 a4).epd = s.epd ∧ (queueTrig s a1 a2 a3 a4).pwr = s.pwr ∧ (queueTrig s a1 a2 a3 a4).upd = s.upd ∧
    (queueTrig s a1 a2 a3 a4).fresh = s.fresh := by
  unfold queueTrig; dsimp only; repeat' split
  all_goals simp

@[simp] theorem mirrorSaf_frame (s : State) (a1 : Fin 128) :
    (mirrorSaf s a1).glb = s.glb ∧ (mirrorSaf s a1).tim = s.tim ∧ (mirrorSaf s a1).str = s.str ∧
    (mirrorSaf s a1).lanes = s.lanes ∧ (mirrorSaf s a1).rng = s.rng ∧ (mirrorSaf s a1).rings = s.rings ∧
    (mirrorSaf s a1).mpl = s.mpl ∧ (mirrorSaf s a1).uarts = s.uarts ∧ (mirrorSaf s a1).cans = s.cans ∧
    (mirrorSaf s a1).seq = s.seq ∧ (mirrorSaf s a1).ctxs = s.ctxs ∧ (mirrorSaf s a1).jrn = s.jrn ∧
    (mirrorSaf s a1).delays = s.delays ∧ (mirrorSaf s a1).saf = s.saf ∧ (mirrorSaf s a1).safOut = s.safOut ∧
    (mirrorSaf s a1).safJ = s.safJ ∧ (mirrorSaf s a1).shr = s.shr ∧ (mirrorSaf s a1).shrOut = s.shrOut ∧
    (mirrorSaf s a1).plc = s.plc ∧ (mirrorSaf s a1).stas = s.stas ∧ (mirrorSaf s a1).met = s.met ∧
    (mirrorSaf s a1).metOut = s.metOut ∧ (mirrorSaf s a1).enr = s.enr ∧ (mirrorSaf s a1).enrOut = s.enrOut ∧
    (mirrorSaf s a1).bil = s.bil ∧ (mirrorSaf s a1).bilOut = s.bilOut ∧ (mirrorSaf s a1).recd = s.recd ∧
    (mirrorSaf s a1).aut = s.aut ∧ (mirrorSaf s a1).autOut = s.autOut ∧ (mirrorSaf s a1).tagJ = s.tagJ ∧
    (mirrorSaf s a1).store = s.store ∧ (mirrorSaf s a1).kit = s.kit ∧ (mirrorSaf s a1).tie = s.tie ∧
    (mirrorSaf s a1).key = s.key ∧ (mirrorSaf s a1).keys = s.keys ∧ (mirrorSaf s a1).lsw = s.lsw ∧ (mirrorSaf s a1).epd = s.epd ∧
    (mirrorSaf s a1).pwr = s.pwr ∧ (mirrorSaf s a1).upd = s.upd ∧ (mirrorSaf s a1).pmc = s.pmc ∧ (mirrorSaf s a1).keep = s.keep ∧
    (mirrorSaf s a1).fresh = s.fresh := by
  simp [mirrorSaf]

@[simp] theorem reportRingError_frame (s : State) (a1 : Fin 57) (a2 : ℕ) :
    (reportRingError s a1 a2).glb = s.glb ∧ (reportRingError s a1 a2).tim = s.tim ∧ (reportRingError s a1 a2).str = s.str ∧
    (reportRingError s a1 a2).lanes = s.lanes ∧ (reportRingError s a1 a2).mpl = s.mpl ∧
    (reportRingError s a1 a2).uarts = s.uarts ∧ (reportRingError s a1 a2).cans = s.cans ∧ (reportRingError s a1 a2).seq = s.seq ∧
    (reportRingError s a1 a2).ctxs = s.ctxs ∧ (reportRingError s a1 a2).jrn = s.jrn ∧
    (reportRingError s a1 a2).delays = s.delays ∧ (reportRingError s a1 a2).saf = s.saf ∧
    (reportRingError s a1 a2).safOut = s.safOut ∧ (reportRingError s a1 a2).safJ = s.safJ ∧
    (reportRingError s a1 a2).shr = s.shr ∧ (reportRingError s a1 a2).shrOut = s.shrOut ∧ (reportRingError s a1 a2).plc = s.plc ∧
    (reportRingError s a1 a2).stas = s.stas ∧ (reportRingError s a1 a2).met = s.met ∧
    (reportRingError s a1 a2).metOut = s.metOut ∧ (reportRingError s a1 a2).enr = s.enr ∧
    (reportRingError s a1 a2).enrOut = s.enrOut ∧ (reportRingError s a1 a2).bil = s.bil ∧
    (reportRingError s a1 a2).bilOut = s.bilOut ∧ (reportRingError s a1 a2).aut = s.aut ∧
    (reportRingError s a1 a2).autOut = s.autOut ∧ (reportRingError s a1 a2).tagJ = s.tagJ ∧
    (reportRingError s a1 a2).store = s.store ∧ (reportRingError s a1 a2).kit = s.kit ∧ (reportRingError s a1 a2).tie = s.tie ∧
    (reportRingError s a1 a2).key = s.key ∧ (reportRingError s a1 a2).keys = s.keys ∧ (reportRingError s a1 a2).lsw = s.lsw ∧
    (reportRingError s a1 a2).epd = s.epd ∧ (reportRingError s a1 a2).pwr = s.pwr ∧ (reportRingError s a1 a2).upd = s.upd ∧
    (reportRingError s a1 a2).pmc = s.pmc ∧ (reportRingError s a1 a2).fresh = s.fresh := by
  simp [reportRingError]

@[simp] theorem ftxWord7_frame (s : State) (a1 : ℕ) (a2 : BitVec 32) (a3 : BitVec 8) :
    (ftxWord7 s a1 a2 a3).glb = s.glb ∧ (ftxWord7 s a1 a2 a3).tim = s.tim ∧ (ftxWord7 s a1 a2 a3).str = s.str ∧
    (ftxWord7 s a1 a2 a3).lanes = s.lanes ∧ (ftxWord7 s a1 a2 a3).rng = s.rng ∧ (ftxWord7 s a1 a2 a3).rings = s.rings ∧
    (ftxWord7 s a1 a2 a3).mpl = s.mpl ∧ (ftxWord7 s a1 a2 a3).uarts = s.uarts ∧ (ftxWord7 s a1 a2 a3).cans = s.cans ∧
    (ftxWord7 s a1 a2 a3).seq = s.seq ∧ (ftxWord7 s a1 a2 a3).ctxs = s.ctxs ∧ (ftxWord7 s a1 a2 a3).jrn = s.jrn ∧
    (ftxWord7 s a1 a2 a3).delays = s.delays ∧ (ftxWord7 s a1 a2 a3).saf = s.saf ∧ (ftxWord7 s a1 a2 a3).safOut = s.safOut ∧
    (ftxWord7 s a1 a2 a3).safJ = s.safJ ∧ (ftxWord7 s a1 a2 a3).shr = s.shr ∧ (ftxWord7 s a1 a2 a3).shrOut = s.shrOut ∧
    (ftxWord7 s a1 a2 a3).plc = s.plc ∧ (ftxWord7 s a1 a2 a3).stas = s.stas ∧ (ftxWord7 s a1 a2 a3).met = s.met ∧
    (ftxWord7 s a1 a2 a3).metOut = s.metOut ∧ (ftxWord7 s a1 a2 a3).enr = s.enr ∧ (ftxWord7 s a1 a2 a3).enrOut = s.enrOut ∧
    (ftxWord7 s a1 a2 a3).bil = s.bil ∧ (ftxWord7 s a1 a2 a3).bilOut = s.bilOut ∧ (ftxWord7 s a1 a2 a3).recd = s.recd ∧
    (ftxWord7 s a1 a2 a3).aut = s.aut ∧ (ftxWord7 s a1 a2 a3).autOut = s.autOut ∧ (ftxWord7 s a1 a2 a3).tagJ = s.tagJ ∧
    (ftxWord7 s a1 a2 a3).store = s.store ∧ (ftxWord7 s a1 a2 a3).kit = s.kit ∧ (ftxWord7 s a1 a2 a3).tie = s.tie ∧
    (ftxWord7 s a1 a2 a3).key = s.key ∧ (ftxWord7 s a1 a2 a3).keys = s.keys ∧ (ftxWord7 s a1 a2 a3).lsw = s.lsw ∧
    (ftxWord7 s a1 a2 a3).epd = s.epd ∧ (ftxWord7 s a1 a2 a3).pwr = s.pwr ∧ (ftxWord7 s a1 a2 a3).upd = s.upd ∧
    (ftxWord7 s a1 a2 a3).pmc = s.pmc ∧ (ftxWord7 s a1 a2 a3).keep = s.keep ∧ (ftxWord7 s a1 a2 a3).fresh = s.fresh := by
  simp [ftxWord7]

@[simp] theorem ftxSignal_frame (s : State) (a1 : ℕ) (a2 : Bool) :
    (ftxSignal s a1 a2).glb = s.glb ∧ (ftxSignal s a1 a2).tim = s.tim ∧ (ftxSignal s a1 a2).str = s.str ∧
    (ftxSignal s a1 a2).lanes = s.lanes ∧ (ftxSignal s a1 a2).rings = s.rings ∧ (ftxSignal s a1 a2).mpl = s.mpl ∧
    (ftxSignal s a1 a2).uarts = s.uarts ∧ (ftxSignal s a1 a2).cans = s.cans ∧ (ftxSignal s a1 a2).seq = s.seq ∧
    (ftxSignal s a1 a2).ctxs = s.ctxs ∧ (ftxSignal s a1 a2).jrn = s.jrn ∧ (ftxSignal s a1 a2).delays = s.delays ∧
    (ftxSignal s a1 a2).saf = s.saf ∧ (ftxSignal s a1 a2).safOut = s.safOut ∧ (ftxSignal s a1 a2).safJ = s.safJ ∧
    (ftxSignal s a1 a2).shr = s.shr ∧ (ftxSignal s a1 a2).shrOut = s.shrOut ∧ (ftxSignal s a1 a2).plc = s.plc ∧
    (ftxSignal s a1 a2).stas = s.stas ∧ (ftxSignal s a1 a2).met = s.met ∧ (ftxSignal s a1 a2).metOut = s.metOut ∧
    (ftxSignal s a1 a2).enr = s.enr ∧ (ftxSignal s a1 a2).enrOut = s.enrOut ∧ (ftxSignal s a1 a2).bil = s.bil ∧
    (ftxSignal s a1 a2).bilOut = s.bilOut ∧ (ftxSignal s a1 a2).recd = s.recd ∧ (ftxSignal s a1 a2).aut = s.aut ∧
    (ftxSignal s a1 a2).autOut = s.autOut ∧ (ftxSignal s a1 a2).tagJ = s.tagJ ∧ (ftxSignal s a1 a2).store = s.store ∧
    (ftxSignal s a1 a2).kit = s.kit ∧ (ftxSignal s a1 a2).tie = s.tie ∧ (ftxSignal s a1 a2).key = s.key ∧
    (ftxSignal s a1 a2).keys = s.keys ∧ (ftxSignal s a1 a2).lsw = s.lsw ∧ (ftxSignal s a1 a2).epd = s.epd ∧
    (ftxSignal s a1 a2).pwr = s.pwr ∧ (ftxSignal s a1 a2).upd = s.upd ∧ (ftxSignal s a1 a2).pmc = s.pmc ∧
    (ftxSignal s a1 a2).keep = s.keep ∧ (ftxSignal s a1 a2).fresh = s.fresh := by
  simp [ftxSignal]

@[simp] theorem mirrorFtx_frame (s : State) (a1 : ℕ) (a2 : BitVec 32) (a3 : ℕ) (a4 : ℕ) :
    (mirrorFtx s a1 a2 a3 a4).glb = s.glb ∧ (mirrorFtx s a1 a2 a3 a4).tim = s.tim ∧ (mirrorFtx s a1 a2 a3 a4).str = s.str ∧
    (mirrorFtx s a1 a2 a3 a4).lanes = s.lanes ∧ (mirrorFtx s a1 a2 a3 a4).rng = s.rng ∧
    (mirrorFtx s a1 a2 a3 a4).rings = s.rings ∧ (mirrorFtx s a1 a2 a3 a4).mpl = s.mpl ∧
    (mirrorFtx s a1 a2 a3 a4).uarts = s.uarts ∧ (mirrorFtx s a1 a2 a3 a4).cans = s.cans ∧ (mirrorFtx s a1 a2 a3 a4).seq = s.seq ∧
    (mirrorFtx s a1 a2 a3 a4).ctxs = s.ctxs ∧ (mirrorFtx s a1 a2 a3 a4).jrn = s.jrn ∧
    (mirrorFtx s a1 a2 a3 a4).delays = s.delays ∧ (mirrorFtx s a1 a2 a3 a4).saf = s.saf ∧
    (mirrorFtx s a1 a2 a3 a4).safOut = s.safOut ∧ (mirrorFtx s a1 a2 a3 a4).safJ = s.safJ ∧
    (mirrorFtx s a1 a2 a3 a4).shr = s.shr ∧ (mirrorFtx s a1 a2 a3 a4).shrOut = s.shrOut ∧ (mirrorFtx s a1 a2 a3 a4).plc = s.plc ∧
    (mirrorFtx s a1 a2 a3 a4).stas = s.stas ∧ (mirrorFtx s a1 a2 a3 a4).met = s.met ∧
    (mirrorFtx s a1 a2 a3 a4).metOut = s.metOut ∧ (mirrorFtx s a1 a2 a3 a4).enr = s.enr ∧
    (mirrorFtx s a1 a2 a3 a4).enrOut = s.enrOut ∧ (mirrorFtx s a1 a2 a3 a4).bil = s.bil ∧
    (mirrorFtx s a1 a2 a3 a4).bilOut = s.bilOut ∧ (mirrorFtx s a1 a2 a3 a4).recd = s.recd ∧
    (mirrorFtx s a1 a2 a3 a4).aut = s.aut ∧ (mirrorFtx s a1 a2 a3 a4).autOut = s.autOut ∧
    (mirrorFtx s a1 a2 a3 a4).tagJ = s.tagJ ∧ (mirrorFtx s a1 a2 a3 a4).store = s.store ∧ (mirrorFtx s a1 a2 a3 a4).kit = s.kit ∧
    (mirrorFtx s a1 a2 a3 a4).tie = s.tie ∧ (mirrorFtx s a1 a2 a3 a4).key = s.key ∧ (mirrorFtx s a1 a2 a3 a4).keys = s.keys ∧
    (mirrorFtx s a1 a2 a3 a4).lsw = s.lsw ∧ (mirrorFtx s a1 a2 a3 a4).epd = s.epd ∧ (mirrorFtx s a1 a2 a3 a4).pwr = s.pwr ∧
    (mirrorFtx s a1 a2 a3 a4).upd = s.upd ∧ (mirrorFtx s a1 a2 a3 a4).pmc = s.pmc ∧ (mirrorFtx s a1 a2 a3 a4).keep = s.keep ∧
    (mirrorFtx s a1 a2 a3 a4).fresh = s.fresh := by
  simp [mirrorFtx]

@[simp] theorem ftxDone_frame (s : State) (a1 : ℕ) (a2 : BitVec 32) (a3 : BitVec 8) (a4 : Bool) :
    (ftxDone s a1 a2 a3 a4).glb = s.glb ∧ (ftxDone s a1 a2 a3 a4).tim = s.tim ∧ (ftxDone s a1 a2 a3 a4).str = s.str ∧
    (ftxDone s a1 a2 a3 a4).lanes = s.lanes ∧ (ftxDone s a1 a2 a3 a4).rings = s.rings ∧ (ftxDone s a1 a2 a3 a4).mpl = s.mpl ∧
    (ftxDone s a1 a2 a3 a4).uarts = s.uarts ∧ (ftxDone s a1 a2 a3 a4).cans = s.cans ∧ (ftxDone s a1 a2 a3 a4).seq = s.seq ∧
    (ftxDone s a1 a2 a3 a4).ctxs = s.ctxs ∧ (ftxDone s a1 a2 a3 a4).jrn = s.jrn ∧ (ftxDone s a1 a2 a3 a4).delays = s.delays ∧
    (ftxDone s a1 a2 a3 a4).saf = s.saf ∧ (ftxDone s a1 a2 a3 a4).safOut = s.safOut ∧ (ftxDone s a1 a2 a3 a4).safJ = s.safJ ∧
    (ftxDone s a1 a2 a3 a4).shr = s.shr ∧ (ftxDone s a1 a2 a3 a4).shrOut = s.shrOut ∧ (ftxDone s a1 a2 a3 a4).plc = s.plc ∧
    (ftxDone s a1 a2 a3 a4).stas = s.stas ∧ (ftxDone s a1 a2 a3 a4).met = s.met ∧ (ftxDone s a1 a2 a3 a4).metOut = s.metOut ∧
    (ftxDone s a1 a2 a3 a4).enr = s.enr ∧ (ftxDone s a1 a2 a3 a4).enrOut = s.enrOut ∧ (ftxDone s a1 a2 a3 a4).bil = s.bil ∧
    (ftxDone s a1 a2 a3 a4).bilOut = s.bilOut ∧ (ftxDone s a1 a2 a3 a4).recd = s.recd ∧ (ftxDone s a1 a2 a3 a4).aut = s.aut ∧
    (ftxDone s a1 a2 a3 a4).autOut = s.autOut ∧ (ftxDone s a1 a2 a3 a4).tagJ = s.tagJ ∧ (ftxDone s a1 a2 a3 a4).store = s.store ∧
    (ftxDone s a1 a2 a3 a4).kit = s.kit ∧ (ftxDone s a1 a2 a3 a4).tie = s.tie ∧ (ftxDone s a1 a2 a3 a4).key = s.key ∧
    (ftxDone s a1 a2 a3 a4).keys = s.keys ∧ (ftxDone s a1 a2 a3 a4).lsw = s.lsw ∧ (ftxDone s a1 a2 a3 a4).epd = s.epd ∧
    (ftxDone s a1 a2 a3 a4).pwr = s.pwr ∧ (ftxDone s a1 a2 a3 a4).upd = s.upd ∧ (ftxDone s a1 a2 a3 a4).pmc = s.pmc ∧
    (ftxDone s a1 a2 a3 a4).keep = s.keep ∧ (ftxDone s a1 a2 a3 a4).fresh = s.fresh := by
  simp [ftxDone]

@[simp] theorem framesLost_frame (s : State) (a1 : Fin 128) (a2 : ℕ) (a3 : ℕ) :
    (framesLost s a1 a2 a3).glb = s.glb ∧ (framesLost s a1 a2 a3).tim = s.tim ∧ (framesLost s a1 a2 a3).str = s.str ∧
    (framesLost s a1 a2 a3).lanes = s.lanes ∧ (framesLost s a1 a2 a3).mpl = s.mpl ∧ (framesLost s a1 a2 a3).uarts = s.uarts ∧
    (framesLost s a1 a2 a3).cans = s.cans ∧ (framesLost s a1 a2 a3).seq = s.seq ∧ (framesLost s a1 a2 a3).ctxs = s.ctxs ∧
    (framesLost s a1 a2 a3).jrn = s.jrn ∧ (framesLost s a1 a2 a3).delays = s.delays ∧ (framesLost s a1 a2 a3).saf = s.saf ∧
    (framesLost s a1 a2 a3).safOut = s.safOut ∧ (framesLost s a1 a2 a3).safJ = s.safJ ∧ (framesLost s a1 a2 a3).shr = s.shr ∧
    (framesLost s a1 a2 a3).shrOut = s.shrOut ∧ (framesLost s a1 a2 a3).plc = s.plc ∧ (framesLost s a1 a2 a3).stas = s.stas ∧
    (framesLost s a1 a2 a3).met = s.met ∧ (framesLost s a1 a2 a3).metOut = s.metOut ∧ (framesLost s a1 a2 a3).enr = s.enr ∧
    (framesLost s a1 a2 a3).enrOut = s.enrOut ∧ (framesLost s a1 a2 a3).bil = s.bil ∧ (framesLost s a1 a2 a3).bilOut = s.bilOut ∧
    (framesLost s a1 a2 a3).aut = s.aut ∧ (framesLost s a1 a2 a3).autOut = s.autOut ∧ (framesLost s a1 a2 a3).tagJ = s.tagJ ∧
    (framesLost s a1 a2 a3).store = s.store ∧ (framesLost s a1 a2 a3).kit = s.kit ∧ (framesLost s a1 a2 a3).tie = s.tie ∧
    (framesLost s a1 a2 a3).key = s.key ∧ (framesLost s a1 a2 a3).keys = s.keys ∧ (framesLost s a1 a2 a3).lsw = s.lsw ∧
    (framesLost s a1 a2 a3).epd = s.epd ∧ (framesLost s a1 a2 a3).pwr = s.pwr ∧ (framesLost s a1 a2 a3).upd = s.upd ∧
    (framesLost s a1 a2 a3).pmc = s.pmc ∧ (framesLost s a1 a2 a3).fresh = s.fresh := by
  simp [framesLost]

@[simp] theorem refuseRole_frame (s : State) (a1 : Sys2Proof.Cmd) :
    (refuseRole s a1).glb = s.glb ∧ (refuseRole s a1).tim = s.tim ∧ (refuseRole s a1).str = s.str ∧
    (refuseRole s a1).lanes = s.lanes ∧ (refuseRole s a1).mpl = s.mpl ∧ (refuseRole s a1).uarts = s.uarts ∧
    (refuseRole s a1).cans = s.cans ∧ (refuseRole s a1).seq = s.seq ∧ (refuseRole s a1).ctxs = s.ctxs ∧
    (refuseRole s a1).jrn = s.jrn ∧ (refuseRole s a1).delays = s.delays ∧ (refuseRole s a1).saf = s.saf ∧
    (refuseRole s a1).safOut = s.safOut ∧ (refuseRole s a1).safJ = s.safJ ∧ (refuseRole s a1).shr = s.shr ∧
    (refuseRole s a1).shrOut = s.shrOut ∧ (refuseRole s a1).plc = s.plc ∧ (refuseRole s a1).stas = s.stas ∧
    (refuseRole s a1).met = s.met ∧ (refuseRole s a1).metOut = s.metOut ∧ (refuseRole s a1).enr = s.enr ∧
    (refuseRole s a1).enrOut = s.enrOut ∧ (refuseRole s a1).bil = s.bil ∧ (refuseRole s a1).bilOut = s.bilOut ∧
    (refuseRole s a1).aut = s.aut ∧ (refuseRole s a1).autOut = s.autOut ∧ (refuseRole s a1).tagJ = s.tagJ ∧
    (refuseRole s a1).store = s.store ∧ (refuseRole s a1).kit = s.kit ∧ (refuseRole s a1).tie = s.tie ∧
    (refuseRole s a1).key = s.key ∧ (refuseRole s a1).keys = s.keys ∧ (refuseRole s a1).lsw = s.lsw ∧
    (refuseRole s a1).epd = s.epd ∧ (refuseRole s a1).pwr = s.pwr ∧ (refuseRole s a1).upd = s.upd ∧
    (refuseRole s a1).pmc = s.pmc ∧ (refuseRole s a1).keep = s.keep ∧ (refuseRole s a1).fresh = s.fresh := by
  simp [refuseRole]

@[simp] theorem State.revote_frame (s : State) :
    (State.revote s).glb = s.glb ∧ (State.revote s).tim = s.tim ∧ (State.revote s).str = s.str ∧
    (State.revote s).lanes = s.lanes ∧ (State.revote s).rng = s.rng ∧ (State.revote s).rings = s.rings ∧
    (State.revote s).mpl = s.mpl ∧ (State.revote s).uarts = s.uarts ∧ (State.revote s).cans = s.cans ∧
    (State.revote s).seq = s.seq ∧ (State.revote s).ctxs = s.ctxs ∧ (State.revote s).jrn = s.jrn ∧
    (State.revote s).delays = s.delays ∧ (State.revote s).saf = s.saf ∧ (State.revote s).safOut = s.safOut ∧
    (State.revote s).safJ = s.safJ ∧ (State.revote s).shr = s.shr ∧ (State.revote s).shrOut = s.shrOut ∧
    (State.revote s).plc = s.plc ∧ (State.revote s).stas = s.stas ∧ (State.revote s).met = s.met ∧
    (State.revote s).metOut = s.metOut ∧ (State.revote s).enr = s.enr ∧ (State.revote s).enrOut = s.enrOut ∧
    (State.revote s).bil = s.bil ∧ (State.revote s).bilOut = s.bilOut ∧ (State.revote s).recd = s.recd ∧
    (State.revote s).aut = s.aut ∧ (State.revote s).autOut = s.autOut ∧ (State.revote s).tagJ = s.tagJ ∧
    (State.revote s).store = s.store ∧ (State.revote s).kit = s.kit ∧ (State.revote s).tie = s.tie ∧
    (State.revote s).key = s.key ∧ (State.revote s).keys = s.keys ∧ (State.revote s).lsw = s.lsw ∧ (State.revote s).epd = s.epd ∧
    (State.revote s).upd = s.upd ∧ (State.revote s).pmc = s.pmc ∧ (State.revote s).keep = s.keep ∧
    (State.revote s).fresh = s.fresh ∧ (State.revote s).out = s.out := by
  simp [State.revote]

@[simp] theorem laneEvent_frame (s : State) (a1 : Fin 128) (a2 : ℕ) (a3 : List Sys2Proof.Byte) :
    (laneEvent s a1 a2 a3).glb = s.glb ∧ (laneEvent s a1 a2 a3).tim = s.tim ∧ (laneEvent s a1 a2 a3).str = s.str ∧
    (laneEvent s a1 a2 a3).lanes = s.lanes ∧ (laneEvent s a1 a2 a3).mpl = s.mpl ∧ (laneEvent s a1 a2 a3).uarts = s.uarts ∧
    (laneEvent s a1 a2 a3).cans = s.cans ∧ (laneEvent s a1 a2 a3).seq = s.seq ∧ (laneEvent s a1 a2 a3).ctxs = s.ctxs ∧
    (laneEvent s a1 a2 a3).jrn = s.jrn ∧ (laneEvent s a1 a2 a3).delays = s.delays ∧ (laneEvent s a1 a2 a3).saf = s.saf ∧
    (laneEvent s a1 a2 a3).safOut = s.safOut ∧ (laneEvent s a1 a2 a3).safJ = s.safJ ∧ (laneEvent s a1 a2 a3).shr = s.shr ∧
    (laneEvent s a1 a2 a3).shrOut = s.shrOut ∧ (laneEvent s a1 a2 a3).plc = s.plc ∧ (laneEvent s a1 a2 a3).stas = s.stas ∧
    (laneEvent s a1 a2 a3).met = s.met ∧ (laneEvent s a1 a2 a3).metOut = s.metOut ∧ (laneEvent s a1 a2 a3).enr = s.enr ∧
    (laneEvent s a1 a2 a3).enrOut = s.enrOut ∧ (laneEvent s a1 a2 a3).bil = s.bil ∧ (laneEvent s a1 a2 a3).bilOut = s.bilOut ∧
    (laneEvent s a1 a2 a3).aut = s.aut ∧ (laneEvent s a1 a2 a3).autOut = s.autOut ∧ (laneEvent s a1 a2 a3).tagJ = s.tagJ ∧
    (laneEvent s a1 a2 a3).store = s.store ∧ (laneEvent s a1 a2 a3).kit = s.kit ∧ (laneEvent s a1 a2 a3).tie = s.tie ∧
    (laneEvent s a1 a2 a3).key = s.key ∧ (laneEvent s a1 a2 a3).keys = s.keys ∧ (laneEvent s a1 a2 a3).lsw = s.lsw ∧
    (laneEvent s a1 a2 a3).epd = s.epd ∧ (laneEvent s a1 a2 a3).pwr = s.pwr ∧ (laneEvent s a1 a2 a3).upd = s.upd ∧
    (laneEvent s a1 a2 a3).pmc = s.pmc ∧ (laneEvent s a1 a2 a3).fresh = s.fresh := by
  simp [laneEvent]

end Sys2Proof.Machine
end

