-- ==== Sys2Proof/Laws/Keeps.lean ====
section
/-! SUPPORT. What every operation of the model keeps: the queue of waiting commands and the range-checked settings; one lemma for each
operation, in the order of the model's files. The register writes that change a setting keep the queue (Laws/Settings.lean has the rest). -/

namespace Sys2Proof.Machine
set_option maxRecDepth 4000
set_option linter.all false
set_option linter.unreachableTactic false
set_option linter.unusedTactic false
@[simp] theorem ite_cfg (c : Prop) [Decidable c] (a b : State) : (if c then a else b).cfg = if c then a.cfg else b.cfg := apply_ite _ _ _ _
@[simp] theorem ite_pending (c : Prop) [Decidable c] (a b : State) : (if c then a else b).pending = if c then a.pending else b.pending := apply_ite _ _ _ _
@[simp] theorem foldl_keeps {α : Type} (l : List α) (f : State → α → State) (s : State)
    (h : ∀ s x, (f s x).cfg = s.cfg ∧ (f s x).pending = s.pending) :
    (l.foldl f s).cfg = s.cfg ∧ (l.foldl f s).pending = s.pending := by
  induction l generalizing s with
  | nil => simp
  | cons a l ih => simp [ih, h]

theorem foldl_inv {α β : Type} (P : β → Prop) (l : List α) (f : β → α → β) (b : β) (h0 : P b) (h : ∀ b x, P b → P (f b x)) :
    P (l.foldl f b) := by
  induction l generalizing b with
  | nil => exact h0
  | cons a l ih => exact ih _ (h _ _ h0)

@[simp] theorem State.onLane_keeps (s : State) (a1 : Fin 128) (a2 : Lane → Lane) : (State.onLane s a1 a2).cfg = s.cfg ∧ (State.onLane s a1 a2).pending = s.pending := by
  simp [State.onLane]

@[simp] theorem State.onRing_keeps (s : State) (a1 : Fin 57) (a2 : Ring → Ring) : (State.onRing s a1 a2).cfg = s.cfg ∧ (State.onRing s a1 a2).pending = s.pending := by
  simp [State.onRing]

@[simp] theorem State.onCtx_keeps (s : State) (a1 : Fin 128) (a2 : Ctx → Ctx) : (State.onCtx s a1 a2).cfg = s.cfg ∧ (State.onCtx s a1 a2).pending = s.pending := by
  simp [State.onCtx]

@[simp] theorem State.onJrn_keeps (s : State) (a1 : Fin 128) (a2 : Vector CtxJournal 2 → Vector CtxJournal 2) : (State.onJrn s a1 a2).cfg = s.cfg ∧ (State.onJrn s a1 a2).pending = s.pending := by
  simp [State.onJrn]

@[simp] theorem State.onDelays_keeps (s : State) (a1 : Fin 128) (a2 : Delays → Delays) : (State.onDelays s a1 a2).cfg = s.cfg ∧ (State.onDelays s a1 a2).pending = s.pending := by
  simp [State.onDelays]

@[simp] theorem State.onSaf_keeps (s : State) (a1 : Fin 128) (a2 : SafOut → SafOut) : (State.onSaf s a1 a2).cfg = s.cfg ∧ (State.onSaf s a1 a2).pending = s.pending := by
  simp [State.onSaf]

@[simp] theorem State.onSafJ_keeps (s : State) (a1 : Fin 128) (a2 : SafeJournal → SafeJournal) : (State.onSafJ s a1 a2).cfg = s.cfg ∧ (State.onSafJ s a1 a2).pending = s.pending := by
  simp [State.onSafJ]

@[simp] theorem State.onShr_keeps (s : State) (a1 : Fin 128) (a2 : ShareOut → ShareOut) : (State.onShr s a1 a2).cfg = s.cfg ∧ (State.onShr s a1 a2).pending = s.pending := by
  simp [State.onShr]

@[simp] theorem State.onSta_keeps (s : State) (a1 : Fin 128) (a2 : Station → Station) : (State.onSta s a1 a2).cfg = s.cfg ∧ (State.onSta s a1 a2).pending = s.pending := by
  simp [State.onSta]

@[simp] theorem State.onMet_keeps (s : State) (a1 : Fin 128) (a2 : MetOut → MetOut) : (State.onMet s a1 a2).cfg = s.cfg ∧ (State.onMet s a1 a2).pending = s.pending := by
  simp [State.onMet]

@[simp] theorem State.onEnr_keeps (s : State) (a1 : Fin 128) (a2 : OutEnr → OutEnr) : (State.onEnr s a1 a2).cfg = s.cfg ∧ (State.onEnr s a1 a2).pending = s.pending := by
  simp [State.onEnr]

@[simp] theorem State.onBil_keeps (s : State) (a1 : Fin 128) (a2 : OutBil → OutBil) : (State.onBil s a1 a2).cfg = s.cfg ∧ (State.onBil s a1 a2).pending = s.pending := by
  simp [State.onBil]

@[simp] theorem State.onAut_keeps (s : State) (a1 : Fin 128) (a2 : OutAut → OutAut) : (State.onAut s a1 a2).cfg = s.cfg ∧ (State.onAut s a1 a2).pending = s.pending := by
  simp [State.onAut]

@[simp] theorem State.onTagJ_keeps (s : State) (a1 : Fin 128) (a2 : TagJournal → TagJournal) : (State.onTagJ s a1 a2).cfg = s.cfg ∧ (State.onTagJ s a1 a2).pending = s.pending := by
  simp [State.onTagJ]

@[simp] theorem State.onQ_keeps (s : State) (a1 : Fin 1024) (a2 : PoolQ → PoolQ) : (State.onQ s a1 a2).cfg = s.cfg ∧ (State.onQ s a1 a2).pending = s.pending := by
  simp [State.onQ]

@[simp] theorem State.onKey_keeps (s : State) (a1 : Fin 64) (a2 : KeySlot → KeySlot) : (State.onKey s a1 a2).cfg = s.cfg ∧ (State.onKey s a1 a2).pending = s.pending := by
  simp [State.onKey]

@[simp] theorem State.onChan_keeps (s : State) (a1 : Fin 32) (a2 : Chan → Chan) : (State.onChan s a1 a2).cfg = s.cfg ∧ (State.onChan s a1 a2).pending = s.pending := by
  simp [State.onChan]

@[simp] theorem State.advance_keeps (s : State) (a1 : ℕ) : (State.advance s a1).cfg = s.cfg ∧ (State.advance s a1).pending = s.pending := by
  simp [State.advance]

@[simp] theorem State.toTick_keeps (s : State) (a1 : ℕ) : (State.toTick s a1).cfg = s.cfg ∧ (State.toTick s a1).pending = s.pending := by
  simp [State.toTick]

@[simp] theorem State.keepSample_keeps (s : State) : (State.keepSample s).cfg = s.cfg ∧ (State.keepSample s).pending = s.pending := by
  simp [State.keepSample]

@[simp] theorem State.toMains_keeps (s : State) (a1 : ℕ) : (State.toMains s a1).cfg = s.cfg ∧ (State.toMains s a1).pending = s.pending := by
  simp [State.toMains]

@[simp] theorem State.toLegal_keeps (s : State) (a1 : ℕ) : (State.toLegal s a1).cfg = s.cfg ∧ (State.toLegal s a1).pending = s.pending := by
  simp [State.toLegal]

@[simp] theorem State.free_keeps (s : State) : (State.free s).2.cfg = s.cfg ∧ (State.free s).2.pending = s.pending := by
  simp [State.free]

@[simp] theorem State.draw_keeps (s : State) : (State.draw s).2.cfg = s.cfg ∧ (State.draw s).2.pending = s.pending := by
  simp [State.draw]

@[simp] theorem State.send_keeps (s : State) (a1 : Sys2Proof.Out) : (State.send s a1).cfg = s.cfg ∧ (State.send s a1).pending = s.pending := by
  simp [State.send]

@[simp] theorem forAll_keeps {α : Type} (l : List α) (f : State → α → State) (s : State)
    (h : ∀ s x, (f s x).cfg = s.cfg ∧ (f s x).pending = s.pending) :
    (forAll l f s).cfg = s.cfg ∧ (forAll l f s).pending = s.pending := foldl_keeps l f s h

@[simp] theorem repeat_keeps (n : Nat) (f : State → State) (s : State)
    (h : ∀ s, (f s).cfg = s.cfg ∧ (f s).pending = s.pending) :
    (Nat.repeat f n s).cfg = s.cfg ∧ (Nat.repeat f n s).pending = s.pending := by
  induction n with
  | zero => exact ⟨rfl, rfl⟩
  | succ n ih => simp [Nat.repeat, h, ih]

@[simp] theorem State.count_keeps (s : State) (a1 : Fin 8) (a2 : ℕ) (a3 : ℕ) : (State.count s a1 a2 a3).cfg = s.cfg ∧ (State.count s a1 a2 a3).pending = s.pending := by
  simp [State.count]

@[simp] theorem State.laneBytes_keeps (s : State) (a1 : Fin 128) (a2 : Bool) : (State.laneBytes s a1 a2).cfg = s.cfg ∧ (State.laneBytes s a1 a2).pending = s.pending := by
  simp [State.laneBytes]

@[simp] theorem State.onLog_keeps (s : State) (a1 : Bool) (a2 : Log → Log) : (State.onLog s a1 a2).cfg = s.cfg ∧ (State.onLog s a1 a2).pending = s.pending := by
  simp [State.onLog]

@[simp] theorem pushRecord_keeps (s : State) (a1 : Bool) (a2 : LogRec) : (pushRecord s a1 a2).cfg = s.cfg ∧ (pushRecord s a1 a2).pending = s.pending := by
  simp [pushRecord]

@[simp] theorem recordOnly_keeps (s : State) (a1 : Bool) (a2 : ℕ) (a3 : Option (Fin 128)) (a4 : List Sys2Proof.Byte) : (recordOnly s a1 a2 a3 a4).cfg = s.cfg ∧ (recordOnly s a1 a2 a3 a4).pending = s.pending := by
  simp [recordOnly]

@[simp] theorem markRecord_keeps (s : State) (a1 : ℕ) (a2 : LogRec → LogRec) : (markRecord s a1 a2).cfg = s.cfg ∧ (markRecord s a1 a2).pending = s.pending := by
  simp [markRecord]

@[simp] theorem State.hostWrite_keeps (s : State) (a1 : BitVec 64) (a2 : List Sys2Proof.Byte) : (State.hostWrite s a1 a2).cfg = s.cfg ∧ (State.hostWrite s a1 a2).pending = s.pending := by
  simp [State.hostWrite]

@[simp] theorem sendMsix_keeps (s : State) (a1 : BitVec 6) : (sendMsix s a1).cfg = s.cfg ∧ (sendMsix s a1).pending = s.pending := by
  simp [sendMsix]

@[simp] theorem rngInt_keeps (s : State) (a1 : Rng → Rng) : (rngInt s a1).cfg = s.cfg ∧ (rngInt s a1).pending = s.pending := by
  simp [rngInt]

@[simp] theorem State.writeEntry_keeps (s : State) (a1 : Fin 57) (a2 : BitVec 32) (a3 : ℕ) (a4 : List Sys2Proof.Word) : (State.writeEntry s a1 a2 a3 a4).cfg = s.cfg ∧ (State.writeEntry s a1 a2 a3 a4).pending = s.pending := by
  simp [State.writeEntry]

@[simp] theorem signalRing_keeps (s : State) (a1 : Fin 57) (a2 : Bool) : (signalRing s a1 a2).cfg = s.cfg ∧ (signalRing s a1 a2).pending = s.pending := by
  simp [signalRing]

@[simp] theorem writeBack_keeps (s : State) (a1 : Fin 57) : (writeBack s a1).cfg = s.cfg ∧ (writeBack s a1).pending = s.pending := by
  simp [writeBack]

@[simp] theorem afterEntry_keeps (s : State) (a1 : Fin 57) (a2 : Bool) : (afterEntry s a1 a2).cfg = s.cfg ∧ (afterEntry s a1 a2).pending = s.pending := by
  simp [afterEntry]

@[simp] theorem putEvt_keeps (s : State) (a1 : Fin 57) (a2 : Sys2Proof.Event) : (putEvt s a1 a2).cfg = s.cfg ∧ (putEvt s a1 a2).pending = s.pending := by
  simp [putEvt]

@[simp] theorem numberEvt_keeps (s : State) (a1 : Sys2Proof.Event) : (numberEvt s a1).1.cfg = s.cfg ∧ (numberEvt s a1).1.pending = s.pending := by
  simp [numberEvt]

@[simp] theorem writeEvt_keeps (s : State) (a1 : Fin 57) (a2 : Sys2Proof.Event) : (writeEvt s a1 a2).cfg = s.cfg ∧ (writeEvt s a1 a2).pending = s.pending := by
  simp [writeEvt]

@[simp] theorem judgeBacklog_keeps (s : State) : (judgeBacklog s).cfg = s.cfg ∧ (judgeBacklog s).pending = s.pending := by
  simp [judgeBacklog]

@[simp] theorem foldEvt_keeps (s : State) (a1 : Sys2Proof.Event) : (foldEvt s a1).cfg = s.cfg ∧ (foldEvt s a1).pending = s.pending := by
  simp [foldEvt]

@[simp] theorem placeEvt.enqueue_keeps (s : State) (a1 : Sys2Proof.Event) : (placeEvt.enqueue s a1).cfg = s.cfg ∧ (placeEvt.enqueue s a1).pending = s.pending := by
  simp [placeEvt.enqueue]

@[simp] theorem placeEvt_keeps (s : State) (a1 : Sys2Proof.Event) : (placeEvt s a1).cfg = s.cfg ∧ (placeEvt s a1).pending = s.pending := by
  unfold placeEvt; dsimp only; repeat' split
  all_goals simp

@[simp] theorem newEvent_keeps (s : State) (a1 : ℕ) (a2 : Option (Fin 128)) (a3 : List Sys2Proof.Byte) (a4 : Option Sys2Proof.Cmd) : (newEvent s a1 a2 a3 a4).1.cfg = s.cfg ∧ (newEvent s a1 a2 a3 a4).1.pending = s.pending := by
  simp [newEvent]

@[simp] theorem postEvent_keeps (s : State) (a1 : ℕ) (a2 : Option (Fin 128)) (a3 : List Sys2Proof.Byte) (a4 : optParam (Option Sys2Proof.Cmd) none) : (postEvent s a1 a2 a3 a4).cfg = s.cfg ∧ (postEvent s a1 a2 a3 a4).pending = s.pending := by
  simp [postEvent]

@[simp] theorem postOut_keeps (s : State) (a1 : ℕ) (a2 : Fin 128) (a3 : List Sys2Proof.Byte) (a4 : optParam (Option Sys2Proof.Cmd) none) : (postOut s a1 a2 a3 a4).cfg = s.cfg ∧ (postOut s a1 a2 a3 a4).pending = s.pending := by
  simp [postOut]

@[simp] theorem postStamped_keeps (s : State) (a1 : ℕ) (a2 : Fin 128) (a3 : List Sys2Proof.Byte) (a4 : ℕ) : (postStamped s a1 a2 a3 a4).cfg = s.cfg ∧ (postStamped s a1 a2 a3 a4).pending = s.pending := by
  simp [postStamped]

@[simp] theorem postDev_keeps (s : State) (a1 : ℕ) (a2 : List Sys2Proof.Byte) (a3 : optParam (Option Sys2Proof.Cmd) none) : (postDev s a1 a2 a3).cfg = s.cfg ∧ (postDev s a1 a2 a3).pending = s.pending := by
  simp [postDev]

@[simp] theorem writeSummary_keeps (s : State) (a1 : Option (Fin 128)) : (writeSummary s a1).cfg = s.cfg ∧ (writeSummary s a1).pending = s.pending := by
  unfold writeSummary; dsimp only; repeat' split
  all_goals simp

@[simp] theorem drainGo_keeps (l : List Event) (s : State) : (drainGo l s).cfg = s.cfg ∧ (drainGo l s).pending = s.pending := by
  induction l generalizing s with
  | nil => exact ⟨rfl, rfl⟩
  | cons e l ih =>
    unfold drainGo; dsimp only
    repeat' split
    all_goals first | (simp [ih]; done) | trivial | exact ih _ | exact ih _ _ _ | (rw [(ih _).1, (ih _).2]; simp) | (rw [(ih _ _ _).1, (ih _ _ _).2]; simp)

@[simp] theorem putCpl_keeps (s : State) (a1 : Fin 57) (a2 : Sys2Proof.Completion) : (putCpl s a1 a2).cfg = s.cfg ∧ (putCpl s a1 a2).pending = s.pending := by
  simp [putCpl]

@[simp] theorem writeCpl_keeps (s : State) (a1 : CmdRec) (a2 : BitVec 8) (a3 : BitVec 32) : (writeCpl s a1 a2 a3).cfg = s.cfg ∧ (writeCpl s a1 a2 a3).pending = s.pending := by
  simp [writeCpl]

@[simp] theorem State.onCmd_keeps (s : State) (a1 : Fin 16) (a2 : BitVec 32) (a3 : CmdRec → CmdRec) : (State.onCmd s a1 a2 a3).cfg = s.cfg ∧ (State.onCmd s a1 a2 a3).pending = s.pending := by
  simp [State.onCmd]

@[simp] theorem mirrorDone_keeps (s : State) (a1 : Sys2Proof.Cmd) (a2 : BitVec 8) (a3 : BitVec 32) : (mirrorDone s a1 a2 a3).cfg = s.cfg ∧ (mirrorDone s a1 a2 a3).pending = s.pending := by
  simp [mirrorDone]

@[simp] theorem complete_keeps (s : State) (a1 : Sys2Proof.Cmd) (a2 : BitVec 8) (a3 : optParam (BitVec 32) 0) : (complete s a1 a2 a3).cfg = s.cfg ∧ (complete s a1 a2 a3).pending = s.pending := by
  unfold complete; dsimp only; repeat' split
  all_goals simp

@[simp] theorem completeKey_keeps (s : State) (a1 : Fin 16) (a2 : BitVec 32) (a3 : BitVec 8) (a4 : optParam (BitVec 32) 0) : (completeKey s a1 a2 a3 a4).cfg = s.cfg ∧ (completeKey s a1 a2 a3 a4).pending = s.pending := by
  unfold completeKey; repeat' split
  all_goals simp

@[simp] theorem started_keeps (s : State) (a1 : Sys2Proof.Cmd) : (started s a1).cfg = s.cfg ∧ (started s a1).pending = s.pending := by
  simp [started]

@[simp] theorem flushDone_keeps (s : State) : (flushDone s).cfg = s.cfg ∧ (flushDone s).pending = s.pending := by
  unfold flushDone
  refine ⟨(foldl_keeps _ _ _ fun s x => ?_).1.trans ?_, (foldl_keeps _ _ _ fun s x => ?_).2.trans ?_⟩
  all_goals (try dsimp only); repeat' split
  all_goals simp

@[simp] theorem replayRing_keeps (s : State) (a1 : Fin 57) : (replayRing s a1).cfg = s.cfg ∧ (replayRing s a1).pending = s.pending := by
  simp [replayRing]

@[simp] theorem restartEvent_keeps (s : State) (a1 : Fin 57) : (restartEvent s a1).cfg = s.cfg ∧ (restartEvent s a1).pending = s.pending := by
  unfold restartEvent; dsimp only; repeat' split
  all_goals simp

@[simp] theorem debugEvent_keeps (s : State) (a1 : Fin 57) : (debugEvent s a1).cfg = s.cfg ∧ (debugEvent s a1).pending = s.pending := by
  simp [debugEvent]

@[simp] theorem openRing_keeps (s : State) (a1 : Fin 57) : (openRing s a1).cfg = s.cfg ∧ (openRing s a1).pending = s.pending := by
  simp [openRing]

@[simp] theorem drainAll_keeps (s : State) : (drainAll s).cfg = s.cfg ∧ (drainAll s).pending = s.pending := by
  simp [drainAll]

@[simp] theorem State.dropMark_keeps (s : State) (a1 : MarkOwner) (a2 : ℕ) : (State.dropMark s a1 a2).cfg = s.cfg ∧ (State.dropMark s a1 a2).pending = s.pending := by
  simp [State.dropMark]

@[simp] theorem actionH_keeps (s : State) : (actionH s).cfg = s.cfg ∧ (actionH s).pending = s.pending := by
  simp [actionH]

@[simp] theorem lastingAction_keeps (s : State) (a1 : ℕ) : (lastingAction s a1).cfg = s.cfg ∧ (lastingAction s a1).pending = s.pending := by
  unfold lastingAction; dsimp only; repeat' split
  all_goals simp

@[simp] theorem postFault_keeps (s : State) (a1 : ℕ) (a2 : ℕ) (a3 : Bool) (a4 : ℕ) : (postFault s a1 a2 a3 a4).cfg = s.cfg ∧ (postFault s a1 a2 a3 a4).pending = s.pending := by
  simp [postFault]

@[simp] theorem makeLasting_keeps (s : State) (a1 : ℕ) (a2 : ℕ) : (makeLasting s a1 a2).cfg = s.cfg ∧ (makeLasting s a1 a2).pending = s.pending := by
  simp [makeLasting]

@[simp] theorem failTrial_keeps (s : State) (a1 : ℕ) : (failTrial s a1).cfg = s.cfg ∧ (failTrial s a1).pending = s.pending := by
  unfold failTrial; dsimp only; repeat' split
  all_goals simp

@[simp] theorem tally_keeps (s : State) (a1 : ℕ) (a2 : ℕ) : (tally s a1 a2).cfg = s.cfg ∧ (tally s a1 a2).pending = s.pending := by
  simp [tally]

@[simp] theorem refuseMark_keeps (s : State) (a1 : MarkOwner) : (refuseMark s a1).cfg = s.cfg ∧ (refuseMark s a1).pending = s.pending := by
  simp [refuseMark]

@[simp] theorem State.setMark_keeps (s : State) (a1 : MarkOwner) (a2 : ℕ) (a3 : ℕ) : (State.setMark s a1 a2 a3).1.cfg = s.cfg ∧ (State.setMark s a1 a2 a3).1.pending = s.pending := by
  unfold State.setMark; dsimp only; repeat' split
  all_goals simp

@[simp] theorem flagSession_keeps (s : State) (a1 : Fin 128) (a2 : BitVec 15) : (flagSession s a1 a2).cfg = s.cfg ∧ (flagSession s a1 a2).pending = s.pending := by
  simp [flagSession]

@[simp] theorem flagAll_keeps (s : State) (a1 : BitVec 15) : (flagAll s a1).cfg = s.cfg ∧ (flagAll s a1).pending = s.pending := by
  simp [flagAll]

@[simp] theorem tamper_keeps (s : State) (a1 : Fin 16) (a2 : ℕ) (a3 : Option (Fin 128)) : (tamper s a1 a2 a3).cfg = s.cfg ∧ (tamper s a1 a2 a3).pending = s.pending := by
  unfold tamper; dsimp only; repeat' split
  all_goals simp

@[simp] theorem recordRefusal_keeps (s : State) (a1 : Sys2Proof.Cmd) : (recordRefusal s a1).cfg = s.cfg ∧ (recordRefusal s a1).pending = s.pending := by
  simp [recordRefusal]

@[simp] theorem askDomain_keeps (s : State) (a1 : Fin 19) (a2 : Sys2Proof.Cmd) : (askDomain s a1 a2).cfg = s.cfg ∧ (askDomain s a1 a2).pending = s.pending := by
  simp [askDomain]

@[simp] theorem cmdStep_keeps (ops : List Nat) (eff : Cmd → State → State) (c : Cmd) (s : State)
    (h : (eff c s).cfg = s.cfg ∧ (eff c s).pending = s.pending) :
    (cmdStep ops eff c s).cfg = s.cfg ∧ (cmdStep ops eff c s).pending = s.pending := by
  unfold cmdStep
  repeat' split
  all_goals simp [h]

@[simp] theorem onOutlet_keeps (c : Cmd) (s : State) (f : Fin 128 → State)
    (h : ∀ o, (f o).cfg = s.cfg ∧ (f o).pending = s.pending) :
    (onOutlet c s f).cfg = s.cfg ∧ (onOutlet c s f).pending = s.pending := by
  unfold onOutlet
  split
  · exact h _
  · simp

@[simp] theorem mirrorCmd_keeps (s : State) (a1 : Sys2Proof.Cmd) : (mirrorCmd s a1).cfg = s.cfg ∧ (mirrorCmd s a1).pending = s.pending := by
  simp [mirrorCmd]

@[simp] theorem State.mirror_keeps (s : State) (a1 : ℕ) (a2 : List ℕ) : (State.mirror s a1 a2).cfg = s.cfg ∧ (State.mirror s a1 a2).pending = s.pending := by
  simp [State.mirror]

@[simp] theorem State.putJrn_keeps (s : State) (a1 : Fin 128) (a2 : CtxJournal) : (State.putJrn s a1 a2).cfg = s.cfg ∧ (State.putJrn s a1 a2).pending = s.pending := by
  simp [State.putJrn]

@[simp] theorem writeJournal_keeps (s : State) (a1 : Fin 128) : (writeJournal s a1).cfg = s.cfg ∧ (writeJournal s a1).pending = s.pending := by
  simp [writeJournal]

@[simp] theorem loseTrig_keeps (s : State) (a1 : Fin 128) (a2 : Trigger) : (loseTrig s a1 a2).cfg = s.cfg ∧ (loseTrig s a1 a2).pending = s.pending := by
  unfold loseTrig; dsimp only; repeat' split
  all_goals simp

@[simp] theorem queueTrig_keeps (s : State) (a1 : Fin 128) (a2 : ℕ) (a3 : ℕ) (a4 : optParam (Option (Fin 16 × BitVec 32)) none) : (queueTrig s a1 a2 a3 a4).cfg = s.cfg ∧ (queueTrig s a1 a2 a3 a4).pending = s.pending := by
  unfold queueTrig; dsimp only; repeat' split
  all_goals simp

@[simp] theorem dropCheck_keeps (s : State) (a1 : Fin 128) : (dropCheck s a1).cfg = s.cfg ∧ (dropCheck s a1).pending = s.pending := by
  simp [dropCheck]

@[simp] theorem withdraw_keeps (s : State) (a1 : Fin 128) (a2 : ℕ) : (withdraw s a1 a2).cfg = s.cfg ∧ (withdraw s a1 a2).pending = s.pending := by
  simp [withdraw]

@[simp] theorem evalPermit_keeps (s : State) (a1 : Fin 128) (a2 : optParam (Option ℕ) none) : (evalPermit s a1 a2).cfg = s.cfg ∧ (evalPermit s a1 a2).pending = s.pending := by
  unfold evalPermit; dsimp only; repeat' split
  all_goals simp

@[simp] theorem mirrorSaf_keeps (s : State) (a1 : Fin 128) : (mirrorSaf s a1).cfg = s.cfg ∧ (mirrorSaf s a1).pending = s.pending := by
  simp [mirrorSaf]

@[simp] theorem setLatch_keeps (s : State) (a1 : Fin 128) (a2 : Bool) (a3 : SafeJournal → SafeJournal) : (setLatch s a1 a2 a3).cfg = s.cfg ∧ (setLatch s a1 a2 a3).pending = s.pending := by
  simp [setLatch]

@[simp] theorem imdUpdate_keeps (s : State) (a1 : Fin 128) : (imdUpdate s a1).cfg = s.cfg ∧ (imdUpdate s a1).pending = s.pending := by
  simp [imdUpdate]

@[simp] theorem endGuard_keeps (s : State) (a1 : Fin 128) (a2 : ℕ) : (endGuard s a1 a2).cfg = s.cfg ∧ (endGuard s a1 a2).pending = s.pending := by
  simp [endGuard]

@[simp] theorem startRdc_keeps (s : State) (a1 : Fin 128) (a2 : RdcWhy) : (startRdc s a1 a2).cfg = s.cfg ∧ (startRdc s a1 a2).pending = s.pending := by
  simp [startRdc]

@[simp] theorem guardRdc_keeps (s : State) (a1 : Fin 128) : (guardRdc s a1).cfg = s.cfg ∧ (guardRdc s a1).pending = s.pending := by
  simp [guardRdc]

@[simp] theorem guardAfterRdc_keeps (s : State) (a1 : Fin 128) (a2 : ℕ) : (guardAfterRdc s a1 a2).cfg = s.cfg ∧ (guardAfterRdc s a1 a2).pending = s.pending := by
  simp [guardAfterRdc]

@[simp] theorem endRdc_keeps (s : State) (a1 : Fin 128) (a2 : ℕ) : (endRdc s a1 a2).cfg = s.cfg ∧ (endRdc s a1 a2).pending = s.pending := by
  unfold endRdc; dsimp only; repeat' split
  all_goals simp

@[simp] theorem foundWeld_keeps (s : State) (a1 : Fin 128) (a2 : ℕ) : (foundWeld s a1 a2).cfg = s.cfg ∧ (foundWeld s a1 a2).pending = s.pending := by
  simp [foundWeld]

@[simp] theorem openSession_keeps (s : State) (a1 : Fin 128) (a2 : Option Sys2Proof.Cmd) : (openSession s a1 a2).cfg = s.cfg ∧ (openSession s a1 a2).pending = s.pending := by
  simp [openSession]

@[simp] theorem closeSession_keeps (s : State) (a1 : Fin 128) (a2 : ℕ) (a3 : optParam Bool false) : (closeSession s a1 a2 a3).cfg = s.cfg ∧ (closeSession s a1 a2 a3).pending = s.pending := by
  unfold closeSession; repeat' split
  all_goals simp

@[simp] theorem State.onRuns_keeps (s : State) (a1 : List Run → List Run) : (State.onRuns s a1).cfg = s.cfg ∧ (State.onRuns s a1).pending = s.pending := by
  simp [State.onRuns]

@[simp] theorem endToggle_keeps (s : State) (a1 : Run) : (endToggle s a1).cfg = s.cfg ∧ (endToggle s a1).pending = s.pending := by
  unfold endToggle
  refine ⟨(foldl_keeps _ _ _ fun s x => ?_).1.trans ?_, (foldl_keeps _ _ _ fun s x => ?_).2.trans ?_⟩
  all_goals (try dsimp only); repeat' split
  all_goals simp

@[simp] theorem failRun_keeps (s : State) (a1 : Run) (a2 : Nat) (a3 : Option Nat) : (failRun s a1 a2 a3).cfg = s.cfg ∧ (failRun s a1 a2 a3).pending = s.pending := by
  unfold failRun
  refine ⟨(foldl_keeps _ _ _ fun s x => ?_).1.trans ?_, (foldl_keeps _ _ _ fun s x => ?_).2.trans ?_⟩
  all_goals (try dsimp only); repeat' split
  all_goals simp

@[simp] theorem leaveRuns_keeps (s : State) (a1 : Fin 128) : (leaveRuns s a1).cfg = s.cfg ∧ (leaveRuns s a1).pending = s.pending := by
  simp [leaveRuns]

@[simp] theorem slacArm_keeps (s : State) (a1 : Fin 128) : (slacArm s a1).cfg = s.cfg ∧ (slacArm s a1).pending = s.pending := by
  simp [slacArm]

@[simp] theorem slacDisarm_keeps (s : State) (a1 : Fin 128) : (slacDisarm s a1).cfg = s.cfg ∧ (slacDisarm s a1).pending = s.pending := by
  simp [slacDisarm]

@[simp] theorem mirrorSta_keeps (s : State) (a1 : Fin 128) : (mirrorSta s a1).cfg = s.cfg ∧ (mirrorSta s a1).pending = s.pending := by
  simp [mirrorSta]

@[simp] theorem endAssoc_keeps (s : State) (a1 : Fin 128) (a2 : ℕ) (a3 : optParam (Option Sys2Proof.Cmd) none) : (endAssoc s a1 a2 a3).cfg = s.cfg ∧ (endAssoc s a1 a2 a3).pending = s.pending := by
  simp [endAssoc]

@[simp] theorem setRequest_keeps (s : State) (a1 : Fin 128) (a2 : ℕ) : (setRequest s a1 a2).cfg = s.cfg ∧ (setRequest s a1 a2).pending = s.pending := by
  simp [setRequest]

@[simp] theorem recordPrio_keeps (s : State) (a1 : Fin 128) : (recordPrio s a1).cfg = s.cfg ∧ (recordPrio s a1).pending = s.pending := by
  unfold recordPrio; repeat' split
  all_goals simp

@[simp] theorem shareClass_keeps (s : State) (a1 : Fin 128) (a2 : ℕ) : (shareClass s a1 a2).cfg = s.cfg ∧ (shareClass s a1 a2).pending = s.pending := by
  simp [shareClass]

@[simp] theorem requestEngine_keeps (s : State) (a1 : Fin 128) : (requestEngine s a1).cfg = s.cfg ∧ (requestEngine s a1).pending = s.pending := by
  simp [requestEngine]

@[simp] theorem mirrorTag_keeps (s : State) (a1 : Fin 128) : (mirrorTag s a1).cfg = s.cfg ∧ (mirrorTag s a1).pending = s.pending := by
  simp [mirrorTag]

@[simp] theorem writeWatermark_keeps (s : State) (a1 : Fin 1024) (a2 : Sys2Proof.Word) : (writeWatermark s a1 a2).cfg = s.cfg ∧ (writeWatermark s a1 a2).pending = s.pending := by
  simp [writeWatermark]

@[simp] theorem viaHost_keeps (s : State) (f : State → State)
    (h : ∀ s, (f s).cfg = s.cfg ∧ (f s).pending = s.pending) :
    (viaHost s f).cfg = s.cfg ∧ (viaHost s f).pending = s.pending := by
  unfold viaHost
  split
  · simp [h]
  · exact ⟨rfl, rfl⟩

@[simp] theorem viaBar_keeps (s : State) (blk : Nat) (f : State → State)
    (h : ∀ s, (f s).cfg = s.cfg ∧ (f s).pending = s.pending) :
    (viaBar s blk f).cfg = s.cfg ∧ (viaBar s blk f).pending = s.pending := by
  unfold viaBar
  refine viaHost_keeps _ _ fun s => ?_
  split
  · simp [h]
  · exact ⟨rfl, rfl⟩

theorem execWatermarkWrite_keeps (a0 : Fin 1024) (a1 : BitVec 32) (s : State) : ∃ t, execWatermarkWrite a0 a1 s = .next t ∧ t.cfg = s.cfg ∧ t.pending = s.pending := by
  unfold execWatermarkWrite; refine ⟨_, rfl, ?_⟩; simp

@[simp] theorem orphanFtx_keeps (s : State) (a1 : Fin 57) : (orphanFtx s a1).cfg = s.cfg ∧ (orphanFtx s a1).pending = s.pending := by
  simp [orphanFtx]

@[simp] theorem ringDown_keeps (s : State) (a1 : Fin 57) : (ringDown s a1).cfg = s.cfg ∧ (ringDown s a1).pending = s.pending := by
  simp [ringDown]

@[simp] theorem reportRingError_keeps (s : State) (a1 : Fin 57) (a2 : ℕ) : (reportRingError s a1 a2).cfg = s.cfg ∧ (reportRingError s a1 a2).pending = s.pending := by
  simp [reportRingError]

@[simp] theorem ringError_keeps (s : State) (a1 : Fin 57) (a2 : ℕ) : (ringError s a1 a2).cfg = s.cfg ∧ (ringError s a1 a2).pending = s.pending := by
  simp [ringError]

@[simp] theorem acknowledge_keeps (s : State) (a1 : Fin 57) (a2 : BitVec 32) : (acknowledge s a1 a2).cfg = s.cfg ∧ (acknowledge s a1 a2).pending = s.pending := by
  simp [acknowledge]

@[simp] theorem doorbell_keeps (s : State) (a1 : Fin 57) (a2 : BitVec 32) : (doorbell s a1 a2).cfg = s.cfg ∧ (doorbell s a1 a2).pending = s.pending := by
  unfold doorbell; dsimp only; repeat' split
  all_goals simp

theorem execDoorbellWrite_keeps (a0 : Fin 57) (a1 : BitVec 32) (s : State) : ∃ t, execDoorbellWrite a0 a1 s = .next t ∧ t.cfg = s.cfg ∧ t.pending = s.pending := by
  unfold execDoorbellWrite; refine ⟨_, rfl, ?_⟩; simp

@[simp] theorem ctlFields_keeps (s : State) (a1 : Fin 57) (a2 : Sys2Proof.Word) : (ctlFields s a1 a2).cfg = s.cfg ∧ (ctlFields s a1 a2).pending = s.pending := by
  simp [ctlFields]

@[simp] theorem ringUp_keeps (s : State) (a1 : Fin 57) : (ringUp s a1).cfg = s.cfg ∧ (ringUp s a1).pending = s.pending := by
  simp [ringUp]

@[simp] theorem writeRngCtl_keeps (s : State) (a1 : Fin 57) (a2 : Sys2Proof.Word) : (writeRngCtl s a1 a2).cfg = s.cfg ∧ (writeRngCtl s a1 a2).pending = s.pending := by
  unfold writeRngCtl; dsimp only; repeat' split
  all_goals simp

theorem execRingEnable_keeps (a0 : Fin 57) (a1 : BitVec 32) (s : State) : ∃ t, execRingEnable a0 a1 s = .next t ∧ t.cfg = s.cfg ∧ t.pending = s.pending := by
  unfold execRingEnable; refine ⟨_, rfl, ?_⟩; simp

theorem execRingDisable_keeps (a0 : Fin 57) (s : State) : ∃ t, execRingDisable a0 s = .next t ∧ t.cfg = s.cfg ∧ t.pending = s.pending := by
  unfold execRingDisable; refine ⟨_, rfl, ?_⟩; simp

@[simp] theorem allRingsDown_keeps (s : State) : (allRingsDown s).cfg = s.cfg ∧ (allRingsDown s).pending = s.pending := by
  simp [allRingsDown]

@[simp] theorem endpointReset_keeps (s : State) : (endpointReset s).cfg = s.cfg ∧ (endpointReset s).pending = s.pending := by
  simp [endpointReset]

@[simp] theorem linkLoss_keeps (s : State) (a1 : ℕ) : (linkLoss s a1).cfg = s.cfg ∧ (linkLoss s a1).pending = s.pending := by
  simp [linkLoss]

theorem execLinkLoss_keeps (a0 : Fin 4) (s : State) : ∃ t, execLinkLoss a0 s = .next t ∧ t.cfg = s.cfg ∧ t.pending = s.pending := by
  unfold execLinkLoss; refine ⟨_, rfl, ?_⟩; simp

theorem execPerstRelease_keeps (s : State) : ∃ t, execPerstRelease s = .next t ∧ t.cfg = s.cfg ∧ t.pending = s.pending := by
  unfold execPerstRelease; refine ⟨_, rfl, ?_⟩; simp

@[simp] theorem putInFlight_keeps (s : State) (a1 : Sys2Proof.Cmd) : (putInFlight s a1).cfg = s.cfg ∧ (putInFlight s a1).pending = s.pending := by
  simp [putInFlight]

@[simp] theorem fetchCommand_keeps (s : State) (a1 : Fin 16) (a2 : List Sys2Proof.Word) (a3 : List Sys2Proof.Byte) : (fetchCommand s a1 a2 a3).cfg = s.cfg ∧ (fetchCommand s a1 a2 a3).pending = s.pending := by
  unfold fetchCommand; dsimp only; repeat' split
  all_goals simp

theorem execCommandFetch_keeps (a0 : Fin 16) (a1 : List (BitVec 32)) (a2 : List (BitVec 8)) (s : State) : ∃ t, execCommandFetch a0 a1 a2 s = .next t ∧ t.cfg = s.cfg ∧ t.pending = s.pending := by
  unfold execCommandFetch; refine ⟨_, rfl, ?_⟩; simp

@[simp] theorem fireCmdMark_keeps (s : State) (a1 : Fin 16) (a2 : BitVec 32) : (fireCmdMark s a1 a2).cfg = s.cfg ∧ (fireCmdMark s a1 a2).pending = s.pending := by
  unfold fireCmdMark; dsimp only; repeat' split
  all_goals simp

theorem execBacklogDrain_keeps (s : State) : ∃ t, execBacklogDrain s = .next t ∧ t.cfg = s.cfg ∧ t.pending = s.pending := by
  unfold execBacklogDrain; refine ⟨_, rfl, ?_⟩; simp

theorem execModerationTimeout_keeps (a0 : Fin 57) (s : State) : ∃ t, execModerationTimeout a0 s = .next t ∧ t.cfg = s.cfg ∧ t.pending = s.pending := by
  unfold execModerationTimeout; refine ⟨_, rfl, ?_⟩; simp

@[simp] theorem ftxWord7_keeps (s : State) (a1 : ℕ) (a2 : BitVec 32) (a3 : BitVec 8) : (ftxWord7 s a1 a2 a3).cfg = s.cfg ∧ (ftxWord7 s a1 a2 a3).pending = s.pending := by
  simp [ftxWord7]

@[simp] theorem ftxSignal_keeps (s : State) (a1 : ℕ) (a2 : Bool) : (ftxSignal s a1 a2).cfg = s.cfg ∧ (ftxSignal s a1 a2).pending = s.pending := by
  simp [ftxSignal]

@[simp] theorem mirrorFtx_keeps (s : State) (a1 : ℕ) (a2 : BitVec 32) (a3 : ℕ) (a4 : ℕ) : (mirrorFtx s a1 a2 a3 a4).cfg = s.cfg ∧ (mirrorFtx s a1 a2 a3 a4).pending = s.pending := by
  simp [mirrorFtx]

@[simp] theorem ftxDone_keeps (s : State) (a1 : ℕ) (a2 : BitVec 32) (a3 : BitVec 8) (a4 : Bool) : (ftxDone s a1 a2 a3 a4).cfg = s.cfg ∧ (ftxDone s a1 a2 a3 a4).pending = s.pending := by
  simp [ftxDone]

@[simp] theorem mirrorRing_keeps (s : State) (a1 : Fin 57) : (mirrorRing s a1).cfg = s.cfg ∧ (mirrorRing s a1).pending = s.pending := by
  simp [mirrorRing]

@[simp] theorem fetchFtx_keeps (s : State) (a1 : Fin 57) (a2 : Sys2Proof.FtxDesc) (a3 : List Sys2Proof.Byte) : (fetchFtx s a1 a2 a3).cfg = s.cfg ∧ (fetchFtx s a1 a2 a3).pending = s.pending := by
  unfold fetchFtx; dsimp only; repeat' split
  all_goals simp

theorem execFtxFetch_keeps (a0 : Fin 8) (a1 : List (BitVec 32)) (a2 : List (BitVec 8)) (s : State) : ∃ t, execFtxFetch a0 a1 a2 s = .next t ∧ t.cfg = s.cfg ∧ t.pending = s.pending := by
  unfold execFtxFetch; refine ⟨_, rfl, ?_⟩; simp

@[simp] theorem stationSend_keeps (s : State) (a1 : Fin 128) : (stationSend s a1).cfg = s.cfg ∧ (stationSend s a1).pending = s.pending := by
  simp [stationSend]

theorem execFtxDone_keeps (a0 : Fin 128) (s : State) : ∃ t, execFtxDone a0 s = .next t ∧ t.cfg = s.cfg ∧ t.pending = s.pending := by
  unfold execFtxDone; dsimp only; repeat' split
  all_goals (refine ⟨_, rfl, ?_⟩; simp)

@[simp] theorem frxLeft_keeps (s : State) (a1 : Fin 128) : (frxLeft s a1).cfg = s.cfg ∧ (frxLeft s a1).pending = s.pending := by
  simp [frxLeft]

@[simp] theorem fillFrx_keeps (s : State) (a1 : Fin 57) (a2 : Sys2Proof.FrxBuf) (a3 : ℕ) (a4 : Packet) : (fillFrx s a1 a2 a3 a4).cfg = s.cfg ∧ (fillFrx s a1 a2 a3 a4).pending = s.pending := by
  simp [fillFrx]

theorem execFrxFill_keeps (a0 : Fin 128) (a1 : List (BitVec 32)) (s : State) : ∃ t, execFrxFill a0 a1 s = .next t ∧ t.cfg = s.cfg ∧ t.pending = s.pending := by
  unfold execFrxFill; dsimp only; repeat' split
  all_goals (refine ⟨_, rfl, ?_⟩; simp)

@[simp] theorem framesLost_keeps (s : State) (a1 : Fin 128) (a2 : ℕ) (a3 : ℕ) : (framesLost s a1 a2 a3).cfg = s.cfg ∧ (framesLost s a1 a2 a3).pending = s.pending := by
  simp [framesLost]

theorem execStationTxDrop_keeps (a0 : Fin 128) (s : State) : ∃ t, execStationTxDrop a0 s = .next t ∧ t.cfg = s.cfg ∧ t.pending = s.pending := by
  unfold execStationTxDrop; refine ⟨_, rfl, ?_⟩; simp

@[simp] theorem flushTx_keeps (s : State) (a1 : Fin 128) : (flushTx s a1).cfg = s.cfg ∧ (flushTx s a1).pending = s.pending := by
  simp [flushTx]

@[simp] theorem effNoOperation_keeps (a0 : Sys2Proof.Cmd) (s : State) : (effNoOperation a0 s).cfg = s.cfg ∧ (effNoOperation a0 s).pending = s.pending := by
  simp [effNoOperation]

theorem execNoOperation_keeps (a0 : Sys2Proof.Cmd) (s : State) : ∃ t, execNoOperation a0 s = .next t ∧ t.cfg = s.cfg ∧ t.pending = s.pending := by
  unfold execNoOperation; refine ⟨_, rfl, ?_⟩; simp

@[simp] theorem effMarker_keeps (a0 : Sys2Proof.Cmd) (s : State) : (effMarker a0 s).cfg = s.cfg ∧ (effMarker a0 s).pending = s.pending := by
  simp [effMarker]

theorem execMarker_keeps (a0 : Sys2Proof.Cmd) (s : State) : ∃ t, execMarker a0 s = .next t ∧ t.cfg = s.cfg ∧ t.pending = s.pending := by
  unfold execMarker; refine ⟨_, rfl, ?_⟩; simp

@[simp] theorem effFlushTransmit_keeps (a0 : Sys2Proof.Cmd) (s : State) : (effFlushTransmit a0 s).cfg = s.cfg ∧ (effFlushTransmit a0 s).pending = s.pending := by
  unfold effFlushTransmit; repeat' split
  all_goals simp

theorem execFlushTransmit_keeps (a0 : Sys2Proof.Cmd) (s : State) : ∃ t, execFlushTransmit a0 s = .next t ∧ t.cfg = s.cfg ∧ t.pending = s.pending := by
  unfold execFlushTransmit; refine ⟨_, rfl, ?_⟩; simp

@[simp] theorem slotUnusable_keeps (s : State) (a1 : Fin 64) : (slotUnusable s a1).cfg = s.cfg ∧ (slotUnusable s a1).pending = s.pending := by
  simp [slotUnusable]

@[simp] theorem checkSlot_keeps (s : State) (a1 : Fin 64) : (checkSlot s a1).cfg = s.cfg ∧ (checkSlot s a1).pending = s.pending := by
  simp [checkSlot]

@[simp] theorem loadEngine_keeps (s : State) (a1 : Fin 64) : (loadEngine s a1).cfg = s.cfg ∧ (loadEngine s a1).pending = s.pending := by
  unfold loadEngine; dsimp only; repeat' split
  all_goals simp

@[simp] theorem useKey_keeps (s : State) (a1 : Fin 64) : (useKey s a1).2.cfg = s.cfg ∧ (useKey s a1).2.pending = s.pending := by
  unfold useKey; dsimp only; repeat' split
  all_goals simp

@[simp] theorem meterKey_keeps (s : State) : (meterKey s).2.cfg = s.cfg ∧ (meterKey s).2.pending = s.pending := by
  unfold meterKey; dsimp only; repeat' split
  all_goals simp

@[simp] theorem changeSlot_keeps (s : State) (a1 : Fin 64) (a2 : KeyState) (a3 : List Sys2Proof.Byte) (a4 : ℕ) (a5 : Option Sys2Proof.Cmd) : (changeSlot s a1 a2 a3 a4 a5).cfg = s.cfg ∧ (changeSlot s a1 a2 a3 a4 a5).pending = s.pending := by
  simp [changeSlot]

@[simp] theorem withRandom_keeps (c : Cmd) (s : State) (f : State → State)
    (h : (f s).cfg = s.cfg ∧ (f s).pending = s.pending) :
    (withRandom c s f).cfg = s.cfg ∧ (withRandom c s f).pending = s.pending := by
  unfold withRandom
  repeat' split
  all_goals simp [h]

theorem execRandomSourceFault_keeps (s : State) : ∃ t, execRandomSourceFault s = .next t ∧ t.cfg = s.cfg ∧ t.pending = s.pending := by
  unfold execRandomSourceFault; refine ⟨_, rfl, ?_⟩; simp

theorem execRandomSourceRestored_keeps (s : State) : ∃ t, execRandomSourceRestored s = .next t ∧ t.cfg = s.cfg ∧ t.pending = s.pending := by
  unfold execRandomSourceRestored; refine ⟨_, rfl, ?_⟩; simp

@[simp] theorem refuseRole_keeps (s : State) (a1 : Sys2Proof.Cmd) : (refuseRole s a1).cfg = s.cfg ∧ (refuseRole s a1).pending = s.pending := by
  simp [refuseRole]

@[simp] theorem effLoadKey_keeps (a0 : Sys2Proof.Cmd) (s : State) : (effLoadKey a0 s).cfg = s.cfg ∧ (effLoadKey a0 s).pending = s.pending := by
  unfold effLoadKey; dsimp only; repeat' split
  all_goals simp

theorem execLoadKey_keeps (a0 : Sys2Proof.Cmd) (s : State) : ∃ t, execLoadKey a0 s = .next t ∧ t.cfg = s.cfg ∧ t.pending = s.pending := by
  unfold execLoadKey; refine ⟨_, rfl, ?_⟩; simp

@[simp] theorem effEraseKey_keeps (a0 : Sys2Proof.Cmd) (s : State) : (effEraseKey a0 s).cfg = s.cfg ∧ (effEraseKey a0 s).pending = s.pending := by
  simp [effEraseKey]

theorem execEraseKey_keeps (a0 : Sys2Proof.Cmd) (s : State) : ∃ t, execEraseKey a0 s = .next t ∧ t.cfg = s.cfg ∧ t.pending = s.pending := by
  unfold execEraseKey; refine ⟨_, rfl, ?_⟩; simp

@[simp] theorem effGenerateKey_keeps (a0 : Sys2Proof.Cmd) (s : State) : (effGenerateKey a0 s).cfg = s.cfg ∧ (effGenerateKey a0 s).pending = s.pending := by
  simp [effGenerateKey]

theorem execGenerateKey_keeps (a0 : Sys2Proof.Cmd) (s : State) : ∃ t, execGenerateKey a0 s = .next t ∧ t.cfg = s.cfg ∧ t.pending = s.pending := by
  unfold execGenerateKey; refine ⟨_, rfl, ?_⟩; simp

@[simp] theorem effReadPublicKey_keeps (a0 : Sys2Proof.Cmd) (s : State) : (effReadPublicKey a0 s).cfg = s.cfg ∧ (effReadPublicKey a0 s).pending = s.pending := by
  simp [effReadPublicKey]

theorem execReadPublicKey_keeps (a0 : Sys2Proof.Cmd) (s : State) : ∃ t, execReadPublicKey a0 s = .next t ∧ t.cfg = s.cfg ∧ t.pending = s.pending := by
  unfold execReadPublicKey; refine ⟨_, rfl, ?_⟩; simp

@[simp] theorem effBeginCredential_keeps (a0 : Sys2Proof.Cmd) (s : State) : (effBeginCredential a0 s).cfg = s.cfg ∧ (effBeginCredential a0 s).pending = s.pending := by
  simp [effBeginCredential]

theorem execBeginCredential_keeps (a0 : Sys2Proof.Cmd) (s : State) : ∃ t, execBeginCredential a0 s = .next t ∧ t.cfg = s.cfg ∧ t.pending = s.pending := by
  unfold execBeginCredential; refine ⟨_, rfl, ?_⟩; simp

@[simp] theorem credentialKey_keeps (s : State) (a1 : ℕ) : (credentialKey s a1).2.cfg = s.cfg ∧ (credentialKey s a1).2.pending = s.pending := by
  unfold credentialKey; dsimp only; repeat' split
  all_goals simp

@[simp] theorem credentialResult_keeps (s : State) (a1 : Fin 16) : (credentialResult s a1).2.cfg = s.cfg ∧ (credentialResult s a1).2.pending = s.pending := by
  unfold credentialResult; dsimp only; repeat' split
  all_goals simp

@[simp] theorem countFail_keeps (s : State) (a1 : ℕ) : (countFail s a1).cfg = s.cfg ∧ (countFail s a1).pending = s.pending := by
  simp [countFail]

@[simp] theorem effProveCredential_keeps (a0 : Sys2Proof.Cmd) (s : State) : (effProveCredential a0 s).cfg = s.cfg ∧ (effProveCredential a0 s).pending = s.pending := by
  simp [effProveCredential]

theorem execProveCredential_keeps (a0 : Sys2Proof.Cmd) (s : State) : ∃ t, execProveCredential a0 s = .next t ∧ t.cfg = s.cfg ∧ t.pending = s.pending := by
  unfold execProveCredential; refine ⟨_, rfl, ?_⟩; simp

theorem execChallengeExpiry_keeps (s : State) : ∃ t, execChallengeExpiry s = .next t ∧ t.cfg = s.cfg ∧ t.pending = s.pending := by
  unfold execChallengeExpiry; refine ⟨_, rfl, ?_⟩; dsimp only; repeat' split
  all_goals simp

@[simp] theorem writeKeyWindow_keeps (s : State) (a1 : ℕ) (a2 : Sys2Proof.Byte) : (writeKeyWindow s a1 a2).cfg = s.cfg ∧ (writeKeyWindow s a1 a2).pending = s.pending := by
  simp [writeKeyWindow]

@[simp] theorem State.onUart_keeps (s : State) (a1 : Fin 8) (a2 : Uart → Uart) : (State.onUart s a1 a2).cfg = s.cfg ∧ (State.onUart s a1 a2).pending = s.pending := by
  simp [State.onUart]

@[simp] theorem State.onCan_keeps (s : State) (a1 : Fin 4) (a2 : Can → Can) : (State.onCan s a1 a2).cfg = s.cfg ∧ (State.onCan s a1 a2).pending = s.pending := by
  simp [State.onCan]

@[simp] theorem State.onPort_keeps (s : State) (a1 : Fin 12) (a2 : Port → Port) : (State.onPort s a1 a2).cfg = s.cfg ∧ (State.onPort s a1 a2).pending = s.pending := by
  unfold State.onPort; repeat' split
  all_goals simp

@[simp] theorem lineError_keeps (s : State) (a1 : Fin 12) (a2 : ℕ) : (lineError s a1 a2).cfg = s.cfg ∧ (lineError s a1 a2).pending = s.pending := by
  simp [lineError]

@[simp] theorem serveReads_keeps (p : Fin 12) (l : List FbRead) (s : State) :
    (serveReads p l s).cfg = s.cfg ∧ (serveReads p l s).pending = s.pending := by
  induction l generalizing s with
  | nil => exact ⟨rfl, rfl⟩
  | cons r l ih =>
    unfold serveReads; dsimp only
    split
    · exact ⟨rfl, rfl⟩
    · simp [ih]

@[simp] theorem serve_keeps (s : State) (a1 : Fin 12) : (serve s a1).cfg = s.cfg ∧ (serve s a1).pending = s.pending := by
  simp [serve]

@[simp] theorem effRead_keeps (a0 : Sys2Proof.Cmd) (s : State) : (effRead a0 s).cfg = s.cfg ∧ (effRead a0 s).pending = s.pending := by
  unfold effRead; dsimp only; repeat' split
  all_goals simp

theorem execRead_keeps (a0 : Sys2Proof.Cmd) (s : State) : ∃ t, execRead a0 s = .next t ∧ t.cfg = s.cfg ∧ t.pending = s.pending := by
  unfold execRead; refine ⟨_, rfl, ?_⟩; simp

@[simp] theorem runLine_keeps (s : State) (a1 : Fin 12) : (runLine s a1).cfg = s.cfg ∧ (runLine s a1).pending = s.pending := by
  simp [runLine]

@[simp] theorem effTransmit_keeps (a0 : Sys2Proof.Cmd) (s : State) : (effTransmit a0 s).cfg = s.cfg ∧ (effTransmit a0 s).pending = s.pending := by
  unfold effTransmit; dsimp only; repeat' split
  all_goals simp

theorem execTransmit_keeps (a0 : Sys2Proof.Cmd) (s : State) : ∃ t, execTransmit a0 s = .next t ∧ t.cfg = s.cfg ∧ t.pending = s.pending := by
  unfold execTransmit; refine ⟨_, rfl, ?_⟩; simp

@[simp] theorem endTx_keeps (s : State) (a1 : Fin 12) (a2 : FbTx) (a3 : ℕ) (a4 : ℕ) : (endTx s a1 a2 a3 a4).cfg = s.cfg ∧ (endTx s a1 a2 a3 a4).pending = s.pending := by
  simp [endTx]

theorem execTransmitComplete_keeps (a0 : Fin 12) (s : State) : ∃ t, execTransmitComplete a0 s = .next t ∧ t.cfg = s.cfg ∧ t.pending = s.pending := by
  unfold execTransmitComplete; dsimp only; repeat' split
  all_goals (refine ⟨_, rfl, ?_⟩; simp)

@[simp] theorem effAbortPort_keeps (a0 : Sys2Proof.Cmd) (s : State) : (effAbortPort a0 s).cfg = s.cfg ∧ (effAbortPort a0 s).pending = s.pending := by
  unfold effAbortPort; dsimp only; repeat' split
  all_goals simp

theorem execAbortPort_keeps (a0 : Sys2Proof.Cmd) (s : State) : ∃ t, execAbortPort a0 s = .next t ∧ t.cfg = s.cfg ∧ t.pending = s.pending := by
  unfold execAbortPort; refine ⟨_, rfl, ?_⟩; simp

@[simp] theorem stopLine_keeps (s : State) (a1 : Fin 8) : (stopLine s a1).cfg = s.cfg ∧ (stopLine s a1).pending = s.pending := by
  simp [stopLine]

theorem execCtsChange_keeps (a0 : Fin 8) (a1 : Bool) (s : State) : ∃ t, execCtsChange a0 a1 s = .next t ∧ t.cfg = s.cfg ∧ t.pending = s.pending := by
  unfold execCtsChange; refine ⟨_, rfl, ?_⟩; simp

@[simp] theorem takeGap_keeps (s : State) (a1 : Fin 12) : (takeGap s a1).2.cfg = s.cfg ∧ (takeGap s a1).2.pending = s.pending := by
  simp [takeGap]

@[simp] theorem uartPacket_keeps (s : State) (a1 : Fin 8) (a2 : List Sys2Proof.Byte) : (uartPacket s a1 a2).cfg = s.cfg ∧ (uartPacket s a1 a2).pending = s.pending := by
  simp [uartPacket]

theorem execRs485PacketEnd_keeps (a0 : Fin 8) (a1 : List (BitVec 8)) (a2 : ℕ) (a3 : ℕ) (s : State) : ∃ t, execRs485PacketEnd a0 a1 a2 a3 s = .next t ∧ t.cfg = s.cfg ∧ t.pending = s.pending := by
  unfold execRs485PacketEnd; dsimp only; repeat' split
  all_goals (refine ⟨_, rfl, ?_⟩; simp)

theorem execCanFrameReceived_keeps (a0 : Fin 4) (a1 : BitVec 32) (a2 : BitVec 32) (a3 : List (BitVec 8)) (s : State) : ∃ t, execCanFrameReceived a0 a1 a2 a3 s = .next t ∧ t.cfg = s.cfg ∧ t.pending = s.pending := by
  unfold execCanFrameReceived; dsimp only; repeat' split
  all_goals (refine ⟨_, rfl, ?_⟩; simp)

theorem execCanBusOff_keeps (a0 : Fin 4) (a1 : Bool) (a2 : BitVec 8) (a3 : BitVec 8) (s : State) : ∃ t, execCanBusOff a0 a1 a2 a3 s = .next t ∧ t.cfg = s.cfg ∧ t.pending = s.pending := by
  unfold execCanBusOff; dsimp only; repeat' split
  all_goals (refine ⟨_, rfl, ?_⟩; simp)

@[simp] theorem canRejoin_keeps (s : State) (a1 : Fin 4) : (canRejoin s a1).cfg = s.cfg ∧ (canRejoin s a1).pending = s.pending := by
  simp [canRejoin]

theorem execBusOffRecovery_keeps (a0 : Fin 4) (s : State) : ∃ t, execBusOffRecovery a0 s = .next t ∧ t.cfg = s.cfg ∧ t.pending = s.pending := by
  unfold execBusOffRecovery; refine ⟨_, rfl, ?_⟩; simp

@[simp] theorem writeUartCfg_keeps (s : State) (a1 : Fin 8) (a2 : Sys2Proof.Word) : (writeUartCfg s a1 a2).cfg = s.cfg ∧ (writeUartCfg s a1 a2).pending = s.pending := by
  simp [writeUartCfg]

@[simp] theorem writeUartBaud_keeps (s : State) (a1 : Fin 8) (a2 : Sys2Proof.Word) : (writeUartBaud s a1 a2).cfg = s.cfg ∧ (writeUartBaud s a1 a2).pending = s.pending := by
  simp [writeUartBaud]

@[simp] theorem writeCanCfg_keeps (s : State) (a1 : Fin 4) (a2 : Sys2Proof.Word) : (writeCanCfg s a1 a2).cfg = s.cfg ∧ (writeCanCfg s a1 a2).pending = s.pending := by
  simp [writeCanCfg]

@[simp] theorem writeCanNbt_keeps (s : State) (a1 : Fin 4) (a2 : Sys2Proof.Word) : (writeCanNbt s a1 a2).cfg = s.cfg ∧ (writeCanNbt s a1 a2).pending = s.pending := by
  simp [writeCanNbt]

@[simp] theorem writeCanDbt_keeps (s : State) (a1 : Fin 4) (a2 : Sys2Proof.Word) : (writeCanDbt s a1 a2).cfg = s.cfg ∧ (writeCanDbt s a1 a2).pending = s.pending := by
  simp [writeCanDbt]

@[simp] theorem State.onDomain_keeps (s : State) (a1 : Fin 19) (a2 : Domain → Domain) : (State.onDomain s a1 a2).cfg = s.cfg ∧ (State.onDomain s a1 a2).pending = s.pending := by
  simp [State.onDomain]

@[simp] theorem stateChanged_keeps (s : State) (a1 : PwrState) (a2 : PwrState) : (stateChanged s a1 a2).cfg = s.cfg ∧ (stateChanged s a1 a2).pending = s.pending := by
  simp [stateChanged]

@[simp] theorem settlePower_keeps (s : State) : (settlePower s).cfg = s.cfg ∧ (settlePower s).pending = s.pending := by
  simp [settlePower]

@[simp] theorem State.revote_keeps (s : State) : (State.revote s).cfg = s.cfg ∧ (State.revote s).pending = s.pending := by
  simp [State.revote]

@[simp] theorem revoting_keeps (f : State → State) (s : State)
    (h : (f s).cfg = s.cfg ∧ (f s).pending = s.pending) :
    (revoting f s).cfg = s.cfg ∧ (revoting f s).pending = s.pending := by
  simp [revoting, h]

@[simp] theorem recordWake_keeps (s : State) (a1 : ℕ) (a2 : ℕ) (a3 : Bool) (a4 : ℕ) : (recordWake s a1 a2 a3 a4).cfg = s.cfg ∧ (recordWake s a1 a2 a3 a4).pending = s.pending := by
  simp [recordWake]

@[simp] theorem wakeEvent_keeps (s : State) (a1 : ℕ) (a2 : ℕ) (a3 : Bool) (a4 : ℕ) : (wakeEvent s a1 a2 a3 a4).cfg = s.cfg ∧ (wakeEvent s a1 a2 a3 a4).pending = s.pending := by
  simp [wakeEvent]

@[simp] theorem raiseVoted_keeps (s : State) : (raiseVoted s).cfg = s.cfg ∧ (raiseVoted s).pending = s.pending := by
  simp [raiseVoted]

@[simp] theorem mirrorDomains_keeps (s : State) : (mirrorDomains s).cfg = s.cfg ∧ (mirrorDomains s).pending = s.pending := by
  simp [mirrorDomains]

@[simp] theorem takeDomains_keeps (s : State) (a1 : BitVec 19) : (takeDomains s a1).cfg = s.cfg ∧ (takeDomains s a1).pending = s.pending := by
  simp [takeDomains]

@[simp] theorem leaveQuiet_keeps (s : State) (a1 : ℕ) (a2 : ℕ) (a3 : Bool) (a4 : ℕ) : (leaveQuiet s a1 a2 a3 a4).cfg = s.cfg ∧ (leaveQuiet s a1 a2 a3 a4).pending = s.pending := by
  simp [leaveQuiet]

@[simp] theorem wake_keeps (s : State) (a1 : ℕ) (a2 : ℕ) : (wake s a1 a2).cfg = s.cfg ∧ (wake s a1 a2).pending = s.pending := by
  unfold wake; dsimp only; repeat' split
  all_goals simp

@[simp] theorem replayWake_keeps (s : State) : (replayWake s).cfg = s.cfg ∧ (replayWake s).pending = s.pending := by
  unfold replayWake; repeat' split
  all_goals simp

theorem execWake_keeps (a0 : Fin 9) (a1 : BitVec 8) (s : State) : ∃ t, execWake a0 a1 s = .next t ∧ t.cfg = s.cfg ∧ t.pending = s.pending := by
  unfold execWake; refine ⟨_, rfl, ?_⟩; simp

@[simp] theorem fireAlarm_keeps (s : State) : (fireAlarm s).cfg = s.cfg ∧ (fireAlarm s).pending = s.pending := by
  simp [fireAlarm]

theorem execRtcAlarm_keeps (s : State) : ∃ t, execRtcAlarm s = .next t ∧ t.cfg = s.cfg ∧ t.pending = s.pending := by
  unfold execRtcAlarm; refine ⟨_, rfl, ?_⟩; simp

@[simp] theorem writeAlarm_keeps (s : State) (a1 : Sys2Proof.Word) : (writeAlarm s a1).cfg = s.cfg ∧ (writeAlarm s a1).pending = s.pending := by
  simp [writeAlarm]

theorem execAlarmWrite_keeps (a0 : BitVec 32) (s : State) : ∃ t, execAlarmWrite a0 s = .next t ∧ t.cfg = s.cfg ∧ t.pending = s.pending := by
  unfold execAlarmWrite; refine ⟨_, rfl, ?_⟩; simp

theorem execWakeRelease_keeps (s : State) : ∃ t, execWakeRelease s = .next t ∧ t.cfg = s.cfg ∧ t.pending = s.pending := by
  unfold execWakeRelease; dsimp only; repeat' split
  all_goals (refine ⟨_, rfl, ?_⟩; simp)

@[simp] theorem finishQuiet_keeps (s : State) : (finishQuiet s).cfg = s.cfg ∧ (finishQuiet s).pending = s.pending := by
  unfold finishQuiet; dsimp only; repeat' split
  all_goals simp

@[simp] theorem effEnterQuiet_keeps (a0 : Sys2Proof.Cmd) (s : State) : (effEnterQuiet a0 s).cfg = s.cfg ∧ (effEnterQuiet a0 s).pending = s.pending := by
  simp [effEnterQuiet]

theorem execEnterQuiet_keeps (a0 : Sys2Proof.Cmd) (s : State) : ∃ t, execEnterQuiet a0 s = .next t ∧ t.cfg = s.cfg ∧ t.pending = s.pending := by
  unfold execEnterQuiet; refine ⟨_, rfl, ?_⟩; simp

@[simp] theorem effLeaveQuiet_keeps (a0 : Sys2Proof.Cmd) (s : State) : (effLeaveQuiet a0 s).cfg = s.cfg ∧ (effLeaveQuiet a0 s).pending = s.pending := by
  simp [effLeaveQuiet]

theorem execLeaveQuiet_keeps (a0 : Sys2Proof.Cmd) (s : State) : ∃ t, execLeaveQuiet a0 s = .next t ∧ t.cfg = s.cfg ∧ t.pending = s.pending := by
  unfold execLeaveQuiet; refine ⟨_, rfl, ?_⟩; simp

@[simp] theorem dropDomain_keeps (s : State) (a1 : Fin 19) : (dropDomain s a1).cfg = s.cfg ∧ (dropDomain s a1).pending = s.pending := by
  simp [dropDomain]

theorem execDomainDrop_keeps (a0 : Fin 19) (s : State) : ∃ t, execDomainDrop a0 s = .next t ∧ t.cfg = s.cfg ∧ t.pending = s.pending := by
  unfold execDomainDrop; dsimp only; repeat' split
  all_goals (refine ⟨_, rfl, ?_⟩; simp)

@[simp] theorem failWaiting_keeps (s : State) (a1 : Fin 19) : (failWaiting s a1).cfg = s.cfg ∧ (failWaiting s a1).pending = s.pending := by
  simp [failWaiting]

theorem execDomainRaise_keeps (a0 : Fin 19) (a1 : Bool) (s : State) : ∃ t, execDomainRaise a0 a1 s = .next t ∧ t.cfg = s.cfg ∧ t.pending = s.pending := by
  unfold execDomainRaise; dsimp only; repeat' split
  all_goals (refine ⟨_, rfl, ?_⟩; simp)

@[simp] theorem latchSnap_keeps (s : State) : (latchSnap s).cfg = s.cfg ∧ (latchSnap s).pending = s.pending := by
  simp [latchSnap]

theorem execTimSnapRead_keeps (s : State) : ∃ t, execTimSnapRead s = .next t ∧ t.cfg = s.cfg ∧ t.pending = s.pending := by
  unfold execTimSnapRead; refine ⟨_, rfl, ?_⟩; simp

@[simp] theorem writeTimCfg_keeps (s : State) (a1 : Sys2Proof.Word) : (writeTimCfg s a1).cfg = s.cfg ∧ (writeTimCfg s a1).pending = s.pending := by
  simp [writeTimCfg]

theorem execTimCfgLock_keeps (a0 : BitVec 32) (s : State) : ∃ t, execTimCfgLock a0 s = .next t ∧ t.cfg = s.cfg ∧ t.pending = s.pending := by
  unfold execTimCfgLock; refine ⟨_, rfl, ?_⟩; simp

@[simp] theorem writeSyncLimit_pending (s : State) (v : Word) : (writeSyncLimit s v).pending = s.pending := by
  unfold writeSyncLimit; (try dsimp only); repeat' split
  all_goals simp

theorem execReferenceLost_keeps (s : State) : ∃ t, execReferenceLost s = .next t ∧ t.cfg = s.cfg ∧ t.pending = s.pending := by
  unfold execReferenceLost; refine ⟨_, rfl, ?_⟩; simp

theorem execReferenceRestored_keeps (s : State) : ∃ t, execReferenceRestored s = .next t ∧ t.cfg = s.cfg ∧ t.pending = s.pending := by
  unfold execReferenceRestored; refine ⟨_, rfl, ?_⟩; simp

@[simp] theorem jumpAngle_keeps (s : State) (a1 : ℕ) : (jumpAngle s a1).cfg = s.cfg ∧ (jumpAngle s a1).pending = s.pending := by
  simp [jumpAngle]

@[simp] theorem correctAngle_keeps (s : State) (a1 : ℤ) : (correctAngle s a1).cfg = s.cfg ∧ (correctAngle s a1).pending = s.pending := by
  simp [correctAngle]

@[simp] theorem lockMains_keeps (s : State) (a1 : ℕ) (a2 : ℤ) : (lockMains s a1 a2).cfg = s.cfg ∧ (lockMains s a1 a2).pending = s.pending := by
  simp [lockMains]

@[simp] theorem mainsFound_keeps (a0 : List Sys2Proof.SrcCycle) (a1 : BitVec 16) (s : State) : (mainsFound a0 a1 s).cfg = s.cfg ∧ (mainsFound a0 a1 s).pending = s.pending := by
  unfold mainsFound; repeat' split
  all_goals simp

@[simp] theorem trackSource_keeps (s : State) (a1 : Sys2Proof.SrcCycle) : (trackSource s a1).cfg = s.cfg ∧ (trackSource s a1).pending = s.pending := by
  simp [trackSource]

@[simp] theorem loseMains_keeps (s : State) (a1 : ℕ) (a2 : ℕ) : (loseMains s a1 a2).cfg = s.cfg ∧ (loseMains s a1 a2).pending = s.pending := by
  simp [loseMains]

theorem execMainsLost_keeps (a0 : Fin 3) (a1 : ℕ) (a2 : ℕ) (s : State) : ∃ t, execMainsLost a0 a1 a2 s = .next t ∧ t.cfg = s.cfg ∧ t.pending = s.pending := by
  unfold execMainsLost; refine ⟨_, rfl, ?_⟩; dsimp only; repeat' split
  all_goals simp

@[simp] theorem stepDemand_keeps (s : State) (a1 : ℕ) : (stepDemand s a1).cfg = s.cfg ∧ (stepDemand s a1).pending = s.pending := by
  simp [stepDemand]

@[simp] theorem stepLegal_keeps (s : State) (a1 : ℤ) (a2 : ℕ) : (stepLegal s a1 a2).cfg = s.cfg ∧ (stepLegal s a1 a2).pending = s.pending := by
  simp [stepLegal]

@[simp] theorem acceptSync_keeps (s : State) : (acceptSync s).cfg = s.cfg ∧ (acceptSync s).pending = s.pending := by
  simp [acceptSync]

@[simp] theorem syncLegal_keeps (s : State) (a1 : ℕ) (a2 : ℕ) (a3 : ℕ) : (syncLegal s a1 a2 a3).cfg = s.cfg ∧ (syncLegal s a1 a2 a3).pending = s.pending := by
  simp [syncLegal]

theorem execLegalTimeSync_keeps (a0 : BitVec 3) (a1 : ℕ) (a2 : ℕ) (s : State) : ∃ t, execLegalTimeSync a0 a1 a2 s = .next t ∧ t.cfg = s.cfg ∧ t.pending = s.pending := by
  unfold execLegalTimeSync; refine ⟨_, rfl, ?_⟩; simp

theorem execSlewEnd_keeps (s : State) : ∃ t, execSlewEnd s = .next t ∧ t.cfg = s.cfg ∧ t.pending = s.pending := by
  unfold execSlewEnd; refine ⟨_, rfl, ?_⟩; simp

theorem execSyncAgeExpiry_keeps (s : State) : ∃ t, execSyncAgeExpiry s = .next t ∧ t.cfg = s.cfg ∧ t.pending = s.pending := by
  unfold execSyncAgeExpiry; refine ⟨_, rfl, ?_⟩; simp

@[simp] theorem localEnd_keeps (s : State) (a1 : LocalEntry) : (localEnd s a1).cfg = s.cfg ∧ (localEnd s a1).pending = s.pending := by
  simp [localEnd]

@[simp] theorem checkLocalEnd_keeps (s : State) : (checkLocalEnd s).cfg = s.cfg ∧ (checkLocalEnd s).pending = s.pending := by
  unfold checkLocalEnd; repeat' split
  all_goals simp

theorem execLocalTableEnd_keeps (s : State) : ∃ t, execLocalTableEnd s = .next t ∧ t.cfg = s.cfg ∧ t.pending = s.pending := by
  unfold execLocalTableEnd; repeat' split
  all_goals (refine ⟨_, rfl, ?_⟩; simp)

@[simp] theorem outletPhase_keeps (s : State) (a1 : Fin 128) (a2 : Option ℕ) : (outletPhase s a1 a2).cfg = s.cfg ∧ (outletPhase s a1 a2).pending = s.pending := by
  unfold outletPhase; dsimp only; repeat' split
  all_goals simp

@[simp] theorem silentFlag_keeps (s : State) (a1 : Fin 128) (a2 : Bool) : (silentFlag s a1 a2).cfg = s.cfg ∧ (silentFlag s a1 a2).pending = s.pending := by
  simp [silentFlag]

@[simp] theorem countSilence_keeps (s : State) (a1 : Fin 128) : (countSilence s a1).cfg = s.cfg ∧ (countSilence s a1).pending = s.pending := by
  unfold countSilence; dsimp only; repeat' split
  all_goals simp

@[simp] theorem silenceStart_keeps (s : State) (a1 : Fin 128) : (silenceStart s a1).cfg = s.cfg ∧ (silenceStart s a1).pending = s.pending := by
  simp [silenceStart]

@[simp] theorem silenceEnd_keeps (s : State) (a1 : Fin 128) : (silenceEnd s a1).cfg = s.cfg ∧ (silenceEnd s a1).pending = s.pending := by
  simp [silenceEnd]

@[simp] theorem setLink_keeps (s : State) (a1 : Fin 128) (a2 : LinkState) : (setLink s a1 a2).cfg = s.cfg ∧ (setLink s a1 a2).pending = s.pending := by
  simp [setLink]

@[simp] theorem verifFlags_keeps (s : State) (a1 : Fin 128) : (verifFlags s a1).cfg = s.cfg ∧ (verifFlags s a1).pending = s.pending := by
  simp [verifFlags]

@[simp] theorem State.onVLane_keeps (s : State) (a1 : Fin 128) (a2 : Fin 8) (a3 : VLane → VLane) : (State.onVLane s a1 a2 a3).cfg = s.cfg ∧ (State.onVLane s a1 a2 a3).pending = s.pending := by
  simp [State.onVLane]

@[simp] theorem State.onChain_keeps (s : State) (a1 : Fin 128) (a2 : Fin 8) (a3 : LaneChain → LaneChain) : (State.onChain s a1 a2 a3).cfg = s.cfg ∧ (State.onChain s a1 a2 a3).pending = s.pending := by
  simp [State.onChain]

@[simp] theorem verifEvent_keeps (s : State) (a1 : Option (Fin 128)) (a2 : ℕ) (a3 : ℕ) (a4 : ℕ) (a5 : ℤ) (a6 : ℕ) : (verifEvent s a1 a2 a3 a4 a5 a6).cfg = s.cfg ∧ (verifEvent s a1 a2 a3 a4 a5 a6).pending = s.pending := by
  simp [verifEvent]

@[simp] theorem enterVerif_keeps (s : State) (a1 : Fin 128) (a2 : Fin 8) (a3 : Verif) (a4 : ℤ) (a5 : ℕ) (a6 : ℤ) (a7 : ℤ) : (enterVerif s a1 a2 a3 a4 a5 a6 a7).cfg = s.cfg ∧ (enterVerif s a1 a2 a3 a4 a5 a6 a7).pending = s.pending := by
  simp [enterVerif]

@[simp] theorem lookUpCals_keeps (s : State) (a1 : Fin 128) : (lookUpCals s a1).cfg = s.cfg ∧ (lookUpCals s a1).pending = s.pending := by
  simp [lookUpCals]

@[simp] theorem attachMeas_keeps (s : State) (a1 : Fin 128) : (attachMeas s a1).cfg = s.cfg ∧ (attachMeas s a1).pending = s.pending := by
  simp [attachMeas]

@[simp] theorem takeTemp_keeps (s : State) (a1 : Fin 128) (a2 : Sys2Proof.StatusWord) : (takeTemp s a1 a2).cfg = s.cfg ∧ (takeTemp s a1 a2).pending = s.pending := by
  simp [takeTemp]

@[simp] theorem clocksIn_keeps (s : State) (a1 : Fin 128) (a2 : List (Option Sys2Proof.Byte)) : (clocksIn s a1 a2).cfg = s.cfg ∧ (clocksIn s a1 a2).pending = s.pending := by
  simp [clocksIn]

@[simp] theorem sendPilot_keeps (s : State) (a1 : Fin 128) (a2 : BitVec 3 × BitVec 10) : (sendPilot s a1 a2).cfg = s.cfg ∧ (sendPilot s a1 a2).pending = s.pending := by
  simp [sendPilot]

@[simp] theorem setPilot_keeps (s : State) (a1 : Fin 128) (a2 : PilotSel) : (setPilot s a1 a2).cfg = s.cfg ∧ (setPilot s a1 a2).pending = s.pending := by
  simp [setPilot]

@[simp] theorem writeLimit_keeps (s : State) (a1 : Fin 128) (a2 : ℕ) : (writeLimit s a1 a2).cfg = s.cfg ∧ (writeLimit s a1 a2).pending = s.pending := by
  unfold writeLimit; dsimp only; repeat' split
  all_goals simp

@[simp] theorem State.onCont_keeps (s : State) (a1 : Fin 128) (a2 : Bool) (a3 : Contactor → Contactor) : (State.onCont s a1 a2 a3).cfg = s.cfg ∧ (State.onCont s a1 a2 a3).pending = s.pending := by
  simp [State.onCont]

@[simp] theorem switchNow_keeps (s : State) (a1 : Fin 128) (a2 : Bool) (a3 : Bool) (a4 : ℕ) (a5 : ℕ) : (switchNow s a1 a2 a3 a4 a5).cfg = s.cfg ∧ (switchNow s a1 a2 a3 a4 a5).pending = s.pending := by
  simp [switchNow]

@[simp] theorem switchCont_keeps (s : State) (a1 : Fin 128) (a2 : Bool) (a3 : Bool) (a4 : Bool) : (switchCont s a1 a2 a3 a4).cfg = s.cfg ∧ (switchCont s a1 a2 a3 a4).pending = s.pending := by
  unfold switchCont; dsimp only; repeat' split
  all_goals simp

@[simp] theorem actionRefused_keeps (s : State) (a1 : Fin 128) (a2 : Sys2Proof.Word) (a3 : ℕ) (a4 : Option Sys2Proof.Cmd) : (actionRefused s a1 a2 a3 a4).cfg = s.cfg ∧ (actionRefused s a1 a2 a3 a4).pending = s.pending := by
  simp [actionRefused]

@[simp] theorem stopTimer_keeps (s : State) (a1 : Fin 128) (a2 : Fin 4) : (stopTimer s a1 a2).cfg = s.cfg ∧ (stopTimer s a1 a2).pending = s.pending := by
  simp [stopTimer]

@[simp] theorem startTimer_keeps (s : State) (a1 : Fin 128) (a2 : Fin 4) (a3 : Bool) (a4 : ℕ) : (startTimer s a1 a2 a3 a4).cfg = s.cfg ∧ (startTimer s a1 a2 a3 a4).pending = s.pending := by
  simp [startTimer]

@[simp] theorem moveLock_keeps (s : State) (a1 : Fin 128) (a2 : Bool) : (moveLock s a1 a2).cfg = s.cfg ∧ (moveLock s a1 a2).pending = s.pending := by
  simp [moveLock]

@[simp] theorem execAct_keeps (a0 : Fin 128) (a1 : Option Sys2Proof.Cmd) (a2 : Sys2Proof.Word) (s : State) : (execAct a0 a1 a2 s).1.cfg = s.cfg ∧ (execAct a0 a1 a2 s).1.pending = s.pending := by
  unfold execAct; dsimp only; repeat' split
  all_goals simp

@[simp] theorem runActs_keeps (o : Fin 128) (k : Option Cmd) (l : List Word) (s : State) :
    (runActs o k l s).1.cfg = s.cfg ∧ (runActs o k l s).1.pending = s.pending := by
  induction l generalizing s with
  | nil => exact ⟨rfl, rfl⟩
  | cons w l ih =>
    unfold runActs; dsimp only
    split
    all_goals first | (simp [ih]; done) | trivial | exact ih _ | exact ih _ _ _ | (rw [(ih _).1, (ih _).2]; simp) | (rw [(ih _ _ _).1, (ih _ _ _).2]; simp)

@[simp] theorem switchProfile_keeps (s : State) (a1 : Fin 128) (a2 : Option Sys2Proof.Cmd) : (switchProfile s a1 a2).cfg = s.cfg ∧ (switchProfile s a1 a2).pending = s.pending := by
  unfold switchProfile; dsimp only; repeat' split
  all_goals simp

@[simp] theorem enterHooks_keeps (s : State) (a1 : Fin 128) (a2 : Option Sys2Proof.Cmd) : (enterHooks s a1 a2).cfg = s.cfg ∧ (enterHooks s a1 a2).pending = s.pending := by
  simp [enterHooks]

@[simp] theorem stateEntered_keeps (s : State) (a1 : Fin 128) (a2 : ℕ) (a3 : ℕ) (a4 : ℕ) (a5 : ℕ) (a6 : ℕ) (a7 : Option Sys2Proof.Cmd) : (stateEntered s a1 a2 a3 a4 a5 a6 a7).cfg = s.cfg ∧ (stateEntered s a1 a2 a3 a4 a5 a6 a7).pending = s.pending := by
  simp [stateEntered]

@[simp] theorem runEntry_keeps (a0 : Fin 128) (a1 : Option Sys2Proof.Cmd) (s : State) : (runEntry a0 a1 s).1.cfg = s.cfg ∧ (runEntry a0 a1 s).1.pending = s.pending := by
  unfold runEntry; dsimp only; repeat' split
  all_goals simp

@[simp] theorem takeTrans_keeps (a0 : Fin 128) (a1 : Option Sys2Proof.Cmd) (a2 : ℕ) (a3 : ℕ) (a4 : ℕ) (a5 : TransRec) (s : State) : (takeTrans a0 a1 a2 a3 a4 a5 s).1.cfg = s.cfg ∧ (takeTrans a0 a1 a2 a3 a4 a5 s).1.pending = s.pending := by
  unfold takeTrans; dsimp only; repeat' split
  all_goals simp

@[simp] theorem enterFault_keeps (a0 : Fin 128) (a1 : Option Sys2Proof.Cmd) (a2 : ℕ) (a3 : ℕ) (a4 : ℕ) (a5 : ℕ) (s : State) : (enterFault a0 a1 a2 a3 a4 a5 s).1.cfg = s.cfg ∧ (enterFault a0 a1 a2 a3 a4 a5 s).1.pending = s.pending := by
  unfold enterFault; dsimp only; repeat' split
  all_goals simp

@[simp] theorem settle_keeps (o : Fin 128) (k : Option Cmd) (fuel : Nat) (g : Stage) (n : Nat) (s : State) :
    (settle o k fuel g n s).1.cfg = s.cfg ∧ (settle o k fuel g n s).1.pending = s.pending := by
  induction fuel generalizing g n s with
  | zero => exact ⟨rfl, rfl⟩
  | succ fuel ih =>
    unfold settle; dsimp only
    repeat' split
    all_goals first | (simp [ih]; done) | trivial | exact ih _ | exact ih _ _ _ | (rw [(ih _).1, (ih _).2]; simp) | (rw [(ih _ _ _).1, (ih _ _ _).2]; simp)

@[simp] theorem faultTrans_keeps (a0 : Fin 128) (a1 : Option Sys2Proof.Cmd) (a2 : ℕ) (a3 : ℕ) (a4 : ℕ) (a5 : ℕ) (s : State) : (faultTrans a0 a1 a2 a3 a4 a5 s).1.cfg = s.cfg ∧ (faultTrans a0 a1 a2 a3 a4 a5 s).1.pending = s.pending := by
  unfold faultTrans; dsimp only; repeat' split
  all_goals simp

theorem chain_keeps (o : Fin 128) (k : Option Cmd) (trig arg : Nat) (s : State) :
    ∀ t, chain o k trig arg s = some t → t.1.cfg = s.cfg ∧ t.1.pending = s.pending := by
  intro t h
  unfold chain at h
  obtain ⟨m, _, rfl⟩ := Option.map_eq_some_iff.mp h
  dsimp only
  split
  all_goals simp

@[simp] theorem enterInitial_keeps (a0 : Fin 128) (a1 : Option Sys2Proof.Cmd) (s : State) : (enterInitial a0 a1 s).cfg = s.cfg ∧ (enterInitial a0 a1 s).pending = s.pending := by
  unfold enterInitial; dsimp only; repeat' split
  all_goals simp

@[simp] theorem signalDone_keeps (s : State) (a1 : Fin 128) (a2 : Fin 16 × BitVec 32) (a3 : Bool) (a4 : Bool) : (signalDone s a1 a2 a3 a4).cfg = s.cfg ∧ (signalDone s a1 a2 a3 a4).pending = s.pending := by
  simp [signalDone]

@[simp] theorem completeApplied_keeps (s : State) (a1 : Fin 128) (a2 : Sys2Proof.Cmd) (a3 : BitVec 3 × BitVec 10 × Bool × Bool × Bool) : (completeApplied s a1 a2 a3).cfg = s.cfg ∧ (completeApplied s a1 a2 a3).pending = s.pending := by
  simp [completeApplied]

@[simp] theorem serveTrig_keeps (o : Fin 128) (t : Trigger) (s : State) :
    (serveTrig o t s).cfg = s.cfg ∧ (serveTrig o t s).pending = s.pending := by
  unfold serveTrig; dsimp only
  split
  · rename_i r h
    have := chain_keeps _ _ _ _ _ _ h
    split
    all_goals simp [this]
  · repeat' split
    all_goals simp

@[simp] theorem applySignals_keeps (s : State) (a1 : Fin 128) : (applySignals s a1).cfg = s.cfg ∧ (applySignals s a1).pending = s.pending := by
  simp [applySignals]

@[simp] theorem contextStep_keeps (s : State) (a1 : Fin 128) : (contextStep s a1).cfg = s.cfg ∧ (contextStep s a1).pending = s.pending := by
  unfold contextStep; dsimp only; repeat' split
  all_goals simp

theorem execContextStep_keeps (a0 : Fin 128) (s : State) : ∃ t, execContextStep a0 s = .next t ∧ t.cfg = s.cfg ∧ t.pending = s.pending := by
  unfold execContextStep; refine ⟨_, rfl, ?_⟩; simp

@[simp] theorem islandPilot_keeps (s : State) (a1 : Fin 128) (a2 : BitVec 3) : (islandPilot s a1 a2).cfg = s.cfg ∧ (islandPilot s a1 a2).pending = s.pending := by
  simp [islandPilot]

@[simp] theorem countToggle_keeps (s : State) (a1 : Fin 128) : (countToggle s a1).cfg = s.cfg ∧ (countToggle s a1).pending = s.pending := by
  simp [countToggle]

@[simp] theorem toggleStep_keeps (s : State) (a1 : Fin 128) (a2 : BitVec 3) : (toggleStep s a1 a2).cfg = s.cfg ∧ (toggleStep s a1 a2).pending = s.pending := by
  simp [toggleStep]

@[simp] theorem pilotGone_keeps (s : State) (a1 : Fin 128) (a2 : BitVec 3) : (pilotGone s a1 a2).cfg = s.cfg ∧ (pilotGone s a1 a2).pending = s.pending := by
  simp [pilotGone]

@[simp] theorem qualify_keeps (s : State) (a1 : Fin 128) (a2 : ℕ) : (qualify s a1 a2).cfg = s.cfg ∧ (qualify s a1 a2).pending = s.pending := by
  simp [qualify]

@[simp] theorem pilotEffect_keeps (s : State) (a1 : Fin 128) (a2 : BitVec 3) : (pilotEffect s a1 a2).cfg = s.cfg ∧ (pilotEffect s a1 a2).pending = s.pending := by
  simp [pilotEffect]

@[simp] theorem pilotEval_keeps (s : State) (a1 : Fin 128) (a2 : BitVec 12) (a3 : BitVec 12) : (pilotEval s a1 a2 a3).cfg = s.cfg ∧ (pilotEval s a1 a2 a3).pending = s.pending := by
  unfold pilotEval; dsimp only; repeat' split
  all_goals simp

theorem execPilotEvaluation_keeps (a0 : Fin 128) (s : State) : ∃ t, execPilotEvaluation a0 s = .next t ∧ t.cfg = s.cfg ∧ t.pending = s.pending := by
  unfold execPilotEvaluation; refine ⟨_, rfl, ?_⟩; dsimp only; repeat' split
  all_goals simp

theorem execProximityClass_keeps (a0 : Fin 128) (s : State) : ∃ t, execProximityClass a0 s = .next t ∧ t.cfg = s.cfg ∧ t.pending = s.pending := by
  unfold execProximityClass; refine ⟨_, rfl, ?_⟩; dsimp only; repeat' split
  all_goals simp

@[simp] theorem timerFires_keeps (a0 : Fin 128) (a1 : Fin 4) (s : State) : (timerFires a0 a1 s).cfg = s.cfg ∧ (timerFires a0 a1 s).pending = s.pending := by
  unfold timerFires; dsimp only; repeat' split
  all_goals simp

@[simp] theorem fireSwitch_keeps (s : State) (a1 : Fin 128) (a2 : Bool) (a3 : ZpMark) : (fireSwitch s a1 a2 a3).cfg = s.cfg ∧ (fireSwitch s a1 a2 a3).pending = s.pending := by
  simp [fireSwitch]

@[simp] theorem switchFires_keeps (a0 : Fin 128) (a1 : Bool) (s : State) : (switchFires a0 a1 s).cfg = s.cfg ∧ (switchFires a0 a1 s).pending = s.pending := by
  unfold switchFires; repeat' split
  all_goals simp

@[simp] theorem confirmSwitch_keeps (s : State) (a1 : Fin 128) (a2 : Bool) (a3 : Profile) (a4 : ContWatch) (a5 : ℕ) : (confirmSwitch s a1 a2 a3 a4 a5).cfg = s.cfg ∧ (confirmSwitch s a1 a2 a3 a4 a5).pending = s.pending := by
  simp [confirmSwitch]

theorem execContactorFeedback_keeps (a0 : Fin 128) (a1 : Bool) (s : State) : ∃ t, execContactorFeedback a0 a1 s = .next t ∧ t.cfg = s.cfg ∧ t.pending = s.pending := by
  unfold execContactorFeedback; refine ⟨_, rfl, ?_⟩; dsimp only; repeat' split
  all_goals simp

@[simp] theorem contFault_keeps (s : State) (a1 : Fin 128) (a2 : Bool) (a3 : ℕ) : (contFault s a1 a2 a3).cfg = s.cfg ∧ (contFault s a1 a2 a3).pending = s.pending := by
  simp [contFault]

theorem execContactorTimeout_keeps (a0 : Fin 128) (a1 : Bool) (s : State) : ∃ t, execContactorTimeout a0 a1 s = .next t ∧ t.cfg = s.cfg ∧ t.pending = s.pending := by
  unfold execContactorTimeout; refine ⟨_, rfl, ?_⟩; dsimp only; repeat' split
  all_goals simp

@[simp] theorem lockEvent_keeps (s : State) (a1 : Fin 128) (a2 : ℕ) : (lockEvent s a1 a2).cfg = s.cfg ∧ (lockEvent s a1 a2).pending = s.pending := by
  simp [lockEvent]

theorem execLockFeedback_keeps (a0 : Fin 128) (s : State) : ∃ t, execLockFeedback a0 s = .next t ∧ t.cfg = s.cfg ∧ t.pending = s.pending := by
  unfold execLockFeedback; refine ⟨_, rfl, ?_⟩; dsimp only; repeat' split
  all_goals simp

@[simp] theorem dropQueue_keeps (s : State) (a1 : Fin 128) : (dropQueue s a1).cfg = s.cfg ∧ (dropQueue s a1).pending = s.pending := by
  simp [dropQueue]

@[simp] theorem stopContext_keeps (s : State) (a1 : Fin 128) : (stopContext s a1).cfg = s.cfg ∧ (stopContext s a1).pending = s.pending := by
  simp [stopContext]

@[simp] theorem profileFails_keeps (s : State) (a1 : Fin 32) (a2 : ℕ) (a3 : Bool) (a4 : Bool) : (profileFails s a1 a2 a3 a4).cfg = s.cfg ∧ (profileFails s a1 a2 a3 a4).pending = s.pending := by
  simp [profileFails]

theorem execProfileCheck_keeps (a0 : Fin 32) (a1 : ℕ) (a2 : Fin 3) (a3 : Bool) (s : State) : ∃ t, execProfileCheck a0 a1 a2 a3 s = .next t ∧ t.cfg = s.cfg ∧ t.pending = s.pending := by
  unfold execProfileCheck; refine ⟨_, rfl, ?_⟩; simp

theorem execContextStart_keeps (a0 : Fin 128) (s : State) : ∃ t, execContextStart a0 s = .next t ∧ t.cfg = s.cfg ∧ t.pending = s.pending := by
  unfold execContextStart; refine ⟨_, rfl, ?_⟩; simp

@[simp] theorem seqCmd_keeps (c : Cmd) (s : State) (f : Fin 128 → State → State)
    (h : ∀ o, (f o s).cfg = s.cfg ∧ (f o s).pending = s.pending) :
    (seqCmd c s f).cfg = s.cfg ∧ (seqCmd c s f).pending = s.pending := by
  unfold seqCmd
  refine onOutlet_keeps _ _ _ fun o => ?_
  repeat' split
  all_goals simp [h]

@[simp] theorem effSignal_keeps (a0 : Sys2Proof.Cmd) (s : State) : (effSignal a0 s).cfg = s.cfg ∧ (effSignal a0 s).pending = s.pending := by
  simp [effSignal]

theorem execSignal_keeps (a0 : Sys2Proof.Cmd) (s : State) : ∃ t, execSignal a0 s = .next t ∧ t.cfg = s.cfg ∧ t.pending = s.pending := by
  unfold execSignal; refine ⟨_, rfl, ?_⟩; simp

@[simp] theorem bindProfile_keeps (s : State) (a1 : Fin 128) (a2 : LoadedProfile) (a3 : Sys2Proof.Cmd) : (bindProfile s a1 a2 a3).cfg = s.cfg ∧ (bindProfile s a1 a2 a3).pending = s.pending := by
  simp [bindProfile]

@[simp] theorem effBindProfile_keeps (c : Cmd) (s : State) :
    (effBindProfile c s).cfg = s.cfg ∧ (effBindProfile c s).pending = s.pending := by
  unfold effBindProfile
  refine seqCmd_keeps _ _ _ fun o => ?_
  repeat' split
  all_goals simp

theorem execBindProfile_keeps (a0 : Sys2Proof.Cmd) (s : State) : ∃ t, execBindProfile a0 s = .next t ∧ t.cfg = s.cfg ∧ t.pending = s.pending := by
  unfold execBindProfile; refine ⟨_, rfl, ?_⟩; simp

@[simp] theorem disableCtx_keeps (s : State) (a1 : Fin 128) (a2 : Sys2Proof.Cmd) : (disableCtx s a1 a2).cfg = s.cfg ∧ (disableCtx s a1 a2).pending = s.pending := by
  simp [disableCtx]

@[simp] theorem enableCtx_keeps (s : State) (a1 : Fin 128) (a2 : Sys2Proof.Cmd) : (enableCtx s a1 a2).cfg = s.cfg ∧ (enableCtx s a1 a2).pending = s.pending := by
  simp [enableCtx]

@[simp] theorem effEnableOutlet_keeps (a0 : Sys2Proof.Cmd) (s : State) : (effEnableOutlet a0 s).cfg = s.cfg ∧ (effEnableOutlet a0 s).pending = s.pending := by
  simp [effEnableOutlet]

theorem execEnableOutlet_keeps (a0 : Sys2Proof.Cmd) (s : State) : ∃ t, execEnableOutlet a0 s = .next t ∧ t.cfg = s.cfg ∧ t.pending = s.pending := by
  unfold execEnableOutlet; refine ⟨_, rfl, ?_⟩; simp

@[simp] theorem effAuthorise_keeps (a0 : Sys2Proof.Cmd) (s : State) : (effAuthorise a0 s).cfg = s.cfg ∧ (effAuthorise a0 s).pending = s.pending := by
  simp [effAuthorise]

theorem execAuthorise_keeps (a0 : Sys2Proof.Cmd) (s : State) : ∃ t, execAuthorise a0 s = .next t ∧ t.cfg = s.cfg ∧ t.pending = s.pending := by
  unfold execAuthorise; refine ⟨_, rfl, ?_⟩; simp

@[simp] theorem effForceFault_keeps (a0 : Sys2Proof.Cmd) (s : State) : (effForceFault a0 s).cfg = s.cfg ∧ (effForceFault a0 s).pending = s.pending := by
  simp [effForceFault]

theorem execForceFault_keeps (a0 : Sys2Proof.Cmd) (s : State) : ∃ t, execForceFault a0 s = .next t ∧ t.cfg = s.cfg ∧ t.pending = s.pending := by
  unfold execForceFault; refine ⟨_, rfl, ?_⟩; simp

@[simp] theorem effResetContext_keeps (a0 : Sys2Proof.Cmd) (s : State) : (effResetContext a0 s).cfg = s.cfg ∧ (effResetContext a0 s).pending = s.pending := by
  simp [effResetContext]

theorem execResetContext_keeps (a0 : Sys2Proof.Cmd) (s : State) : ∃ t, execResetContext a0 s = .next t ∧ t.cfg = s.cfg ∧ t.pending = s.pending := by
  unfold execResetContext; refine ⟨_, rfl, ?_⟩; simp

@[simp] theorem effForgetDelays_keeps (a0 : Sys2Proof.Cmd) (s : State) : (effForgetDelays a0 s).cfg = s.cfg ∧ (effForgetDelays a0 s).pending = s.pending := by
  simp [effForgetDelays]

theorem execForgetDelays_keeps (a0 : Sys2Proof.Cmd) (s : State) : ∃ t, execForgetDelays a0 s = .next t ∧ t.cfg = s.cfg ∧ t.pending = s.pending := by
  unfold execForgetDelays; refine ⟨_, rfl, ?_⟩; simp

@[simp] theorem effReadContext_keeps (a0 : Sys2Proof.Cmd) (s : State) : (effReadContext a0 s).cfg = s.cfg ∧ (effReadContext a0 s).pending = s.pending := by
  simp [effReadContext]

theorem execReadContext_keeps (a0 : Sys2Proof.Cmd) (s : State) : ∃ t, execReadContext a0 s = .next t ∧ t.cfg = s.cfg ∧ t.pending = s.pending := by
  unfold execReadContext; refine ⟨_, rfl, ?_⟩; simp

@[simp] theorem evalResidual_keeps (s : State) (a1 : Fin 128) (a2 : ℤ) (a3 : ℕ) : (evalResidual s a1 a2 a3).cfg = s.cfg ∧ (evalResidual s a1 a2 a3).pending = s.pending := by
  unfold evalResidual; dsimp only; repeat' split
  all_goals simp

theorem execRcEvaluation_keeps (a0 : Fin 128) (s : State) : ∃ t, execRcEvaluation a0 s = .next t ∧ t.cfg = s.cfg ∧ t.pending = s.pending := by
  unfold execRcEvaluation; refine ⟨_, rfl, ?_⟩; simp

theorem execRdcTestStep_keeps (a0 : Fin 128) (s : State) : ∃ t, execRdcTestStep a0 s = .next t ∧ t.cfg = s.cfg ∧ t.pending = s.pending := by
  unfold execRdcTestStep; dsimp only; repeat' split
  all_goals (refine ⟨_, rfl, ?_⟩; simp)

theorem execRdcOkExpiry_keeps (a0 : Fin 128) (s : State) : ∃ t, execRdcOkExpiry a0 s = .next t ∧ t.cfg = s.cfg ∧ t.pending = s.pending := by
  unfold execRdcOkExpiry; refine ⟨_, rfl, ?_⟩; simp

@[simp] theorem checkIsoTakes_keeps (s : State) (a1 : Fin 128) (a2 : Bool) : (checkIsoTakes s a1 a2).cfg = s.cfg ∧ (checkIsoTakes s a1 a2).pending = s.pending := by
  simp [checkIsoTakes]

@[simp] theorem closedIsoTakes_keeps (s : State) (a1 : Fin 128) (a2 : ℕ) (a3 : ℕ) : (closedIsoTakes s a1 a2 a3).cfg = s.cfg ∧ (closedIsoTakes s a1 a2 a3).pending = s.pending := by
  simp [closedIsoTakes]

@[simp] theorem clearIsoTakes_keeps (s : State) (a1 : Fin 128) (a2 : ℕ) : (clearIsoTakes s a1 a2).cfg = s.cfg ∧ (clearIsoTakes s a1 a2).pending = s.pending := by
  unfold clearIsoTakes; dsimp only; repeat' split
  all_goals simp

@[simp] theorem isoDone_keeps (s : State) (a1 : Fin 128) (a2 : IsoResult) : (isoDone s a1 a2).cfg = s.cfg ∧ (isoDone s a1 a2).pending = s.pending := by
  simp [isoDone]

theorem execImdHalfEnd_keeps (a0 : Fin 128) (s : State) : ∃ t, execImdHalfEnd a0 s = .next t ∧ t.cfg = s.cfg ∧ t.pending = s.pending := by
  unfold execImdHalfEnd; refine ⟨_, rfl, ?_⟩; dsimp only; repeat' split
  all_goals simp

theorem execIsoResultAged_keeps (a0 : Fin 128) (s : State) : ∃ t, execIsoResultAged a0 s = .next t ∧ t.cfg = s.cfg ∧ t.pending = s.pending := by
  unfold execIsoResultAged; repeat' split
  all_goals (refine ⟨_, rfl, ?_⟩; simp)

@[simp] theorem endCheckWeld_keeps (s : State) (o : Fin 128) (fail : Option Nat) : (endCheckWeld s o fail).cfg = s.cfg ∧ (endCheckWeld s o fail).pending = s.pending := by
  unfold endCheckWeld
  extract_lets k t
  have ht : t.cfg = s.cfg ∧ t.pending = s.pending := by simp [t]
  clear_value k t
  split
  all_goals simp [ht]

theorem execCheckWeldEnd_keeps (a0 : Fin 128) (s : State) : ∃ t, execCheckWeldEnd a0 s = .next t ∧ t.cfg = s.cfg ∧ t.pending = s.pending := by
  unfold execCheckWeldEnd; refine ⟨_, rfl, ?_⟩; dsimp only; repeat' split
  all_goals simp

theorem execPilotGraceEnd_keeps (a0 : Fin 128) (s : State) : ∃ t, execPilotGraceEnd a0 s = .next t ∧ t.cfg = s.cfg ∧ t.pending = s.pending := by
  unfold execPilotGraceEnd; repeat' split
  all_goals (refine ⟨_, rfl, ?_⟩; simp)

@[simp] theorem State.onPair_keeps (s : State) (a1 : Fin 32) (a2 : InPair → InPair) : (State.onPair s a1 a2).cfg = s.cfg ∧ (State.onPair s a1 a2).pending = s.pending := by
  simp [State.onPair]

@[simp] theorem State.onAxis_keeps (s : State) (a1 : Fin 16) (a2 : Axis → Axis) : (State.onAxis s a1 a2).cfg = s.cfg ∧ (State.onAxis s a1 a2).pending = s.pending := by
  simp [State.onAxis]

@[simp] theorem mirrorStops_keeps (s : State) : (mirrorStops s).cfg = s.cfg ∧ (mirrorStops s).pending = s.pending := by
  simp [mirrorStops]

@[simp] theorem axisState_keeps (s : State) (a1 : Fin 16) (a2 : AxisState) (a3 : ℕ) : (axisState s a1 a2 a3).cfg = s.cfg ∧ (axisState s a1 a2 a3).pending = s.pending := by
  simp [axisState]

@[simp] theorem ss1Demand_keeps (s : State) (a1 : Fin 16) (a2 : ℕ) : (ss1Demand s a1 a2).cfg = s.cfg ∧ (ss1Demand s a1 a2).pending = s.pending := by
  simp [ss1Demand]

@[simp] theorem latchPair_keeps (s : State) (a1 : Fin 32) (a2 : ℕ) : (latchPair s a1 a2).cfg = s.cfg ∧ (latchPair s a1 a2).pending = s.pending := by
  simp [latchPair]

@[simp] theorem clearLatches_keeps (s : State) (a1 : List (Fin 32)) (a2 : Option Sys2Proof.Cmd) : (clearLatches s a1 a2).cfg = s.cfg ∧ (clearLatches s a1 a2).pending = s.pending := by
  simp [clearLatches]

@[simp] theorem inputChange_keeps (s : State) (a1 : Fin 32) (a2 : Bool) (a3 : Bool) : (inputChange s a1 a2 a3).cfg = s.cfg ∧ (inputChange s a1 a2 a3).pending = s.pending := by
  simp [inputChange]

theorem execSafetyInputChange_keeps (a0 : Fin 32) (a1 : Bool) (a2 : Bool) (s : State) : ∃ t, execSafetyInputChange a0 a1 a2 s = .next t ∧ t.cfg = s.cfg ∧ t.pending = s.pending := by
  unfold execSafetyInputChange; refine ⟨_, rfl, ?_⟩; simp

@[simp] theorem pairFault_keeps (s : State) (a1 : Fin 32) (a2 : ℕ) : (pairFault s a1 a2).cfg = s.cfg ∧ (pairFault s a1 a2).pending = s.pending := by
  simp [pairFault]

theorem execDiscrepancy_keeps (a0 : Fin 32) (s : State) : ∃ t, execDiscrepancy a0 s = .next t ∧ t.cfg = s.cfg ∧ t.pending = s.pending := by
  unfold execDiscrepancy; repeat' split
  all_goals (refine ⟨_, rfl, ?_⟩; simp)

theorem execCrossCircuitCheck_keeps (a0 : Fin 32) (a1 : Bool) (s : State) : ∃ t, execCrossCircuitCheck a0 a1 s = .next t ∧ t.cfg = s.cfg ∧ t.pending = s.pending := by
  unfold execCrossCircuitCheck; refine ⟨_, rfl, ?_⟩; simp

@[simp] theorem watchReleased_keeps (s : State) (a1 : Fin 16) (a2 : AxisRec) (a3 : ℕ) : (watchReleased s a1 a2 a3).cfg = s.cfg ∧ (watchReleased s a1 a2 a3).pending = s.pending := by
  simp [watchReleased]

@[simp] theorem watchSs1_keeps (s : State) (a1 : Fin 16) (a2 : AxisRec) (a3 : ℤ) : (watchSs1 s a1 a2 a3).cfg = s.cfg ∧ (watchSs1 s a1 a2 a3).pending = s.pending := by
  simp [watchSs1]

@[simp] theorem axisEval_keeps (s : State) (a1 : Fin 16) (a2 : ℤ) : (axisEval s a1 a2).cfg = s.cfg ∧ (axisEval s a1 a2).pending = s.pending := by
  unfold axisEval; dsimp only; repeat' split
  all_goals simp

theorem execAxisEvaluation_keeps (a0 : Fin 16) (a1 : ℤ) (s : State) : ∃ t, execAxisEvaluation a0 a1 s = .next t ∧ t.cfg = s.cfg ∧ t.pending = s.pending := by
  unfold execAxisEvaluation; refine ⟨_, rfl, ?_⟩; simp

theorem execOutputReadback_keeps (a0 : Fin 16) (a1 : Bool) (a2 : Bool) (s : State) : ∃ t, execOutputReadback a0 a1 a2 s = .next t ∧ t.cfg = s.cfg ∧ t.pending = s.pending := by
  unfold execOutputReadback; refine ⟨_, rfl, ?_⟩; simp

theorem execLockstepMismatch_keeps (a0 : Bool) (s : State) : ∃ t, execLockstepMismatch a0 s = .next t ∧ t.cfg = s.cfg ∧ t.pending = s.pending := by
  unfold execLockstepMismatch; refine ⟨_, rfl, ?_⟩; simp

@[simp] theorem restartEnd_keeps (s : State) (a1 : Bool) (a2 : ℕ) (a3 : Bool) : (restartEnd s a1 a2 a3).cfg = s.cfg ∧ (restartEnd s a1 a2 a3).pending = s.pending := by
  simp [restartEnd]

theorem execLockstepRestartEnd_keeps (a0 : Bool) (a1 : Bool) (s : State) : ∃ t, execLockstepRestartEnd a0 a1 s = .next t ∧ t.cfg = s.cfg ∧ t.pending = s.pending := by
  unfold execLockstepRestartEnd; repeat' split
  all_goals (refine ⟨_, rfl, ?_⟩; simp)

@[simp] theorem effClearTrip_keeps (c : Cmd) (s : State) : (effClearTrip c s).cfg = s.cfg ∧ (effClearTrip c s).pending = s.pending := by
  unfold effClearTrip
  refine onOutlet_keeps _ _ _ fun o => ?_
  split
  all_goals (try split)
  all_goals simp

theorem execClearTrip_keeps (a0 : Sys2Proof.Cmd) (s : State) : ∃ t, execClearTrip a0 s = .next t ∧ t.cfg = s.cfg ∧ t.pending = s.pending := by
  unfold execClearTrip; refine ⟨_, rfl, ?_⟩; simp

@[simp] theorem effRunRdcTest_keeps (a0 : Sys2Proof.Cmd) (s : State) : (effRunRdcTest a0 s).cfg = s.cfg ∧ (effRunRdcTest a0 s).pending = s.pending := by
  simp [effRunRdcTest]

theorem execRunRdcTest_keeps (a0 : Sys2Proof.Cmd) (s : State) : ∃ t, execRunRdcTest a0 s = .next t ∧ t.cfg = s.cfg ∧ t.pending = s.pending := by
  unfold execRunRdcTest; refine ⟨_, rfl, ?_⟩; simp

@[simp] theorem effAcknowledgeStop_keeps (a0 : Sys2Proof.Cmd) (s : State) : (effAcknowledgeStop a0 s).cfg = s.cfg ∧ (effAcknowledgeStop a0 s).pending = s.pending := by
  simp [effAcknowledgeStop]

theorem execAcknowledgeStop_keeps (a0 : Sys2Proof.Cmd) (s : State) : ∃ t, execAcknowledgeStop a0 s = .next t ∧ t.cfg = s.cfg ∧ t.pending = s.pending := by
  unfold execAcknowledgeStop; refine ⟨_, rfl, ?_⟩; simp

@[simp] theorem effStopAxis_keeps (a0 : Sys2Proof.Cmd) (s : State) : (effStopAxis a0 s).cfg = s.cfg ∧ (effStopAxis a0 s).pending = s.pending := by
  simp [effStopAxis]

theorem execStopAxis_keeps (a0 : Sys2Proof.Cmd) (s : State) : ∃ t, execStopAxis a0 s = .next t ∧ t.cfg = s.cfg ∧ t.pending = s.pending := by
  unfold execStopAxis; refine ⟨_, rfl, ?_⟩; simp

@[simp] theorem effReleaseAxis_keeps (a0 : Sys2Proof.Cmd) (s : State) : (effReleaseAxis a0 s).cfg = s.cfg ∧ (effReleaseAxis a0 s).pending = s.pending := by
  simp [effReleaseAxis]

theorem execReleaseAxis_keeps (a0 : Sys2Proof.Cmd) (s : State) : ∃ t, execReleaseAxis a0 s = .next t ∧ t.cfg = s.cfg ∧ t.pending = s.pending := by
  unfold execReleaseAxis; refine ⟨_, rfl, ?_⟩; simp

@[simp] theorem effClearOutputFault_keeps (a0 : Sys2Proof.Cmd) (s : State) : (effClearOutputFault a0 s).cfg = s.cfg ∧ (effClearOutputFault a0 s).pending = s.pending := by
  simp [effClearOutputFault]

theorem execClearOutputFault_keeps (a0 : Sys2Proof.Cmd) (s : State) : ∃ t, execClearOutputFault a0 s = .next t ∧ t.cfg = s.cfg ∧ t.pending = s.pending := by
  unfold execClearOutputFault; refine ⟨_, rfl, ?_⟩; simp

@[simp] theorem effReadInsulation_keeps (a0 : Sys2Proof.Cmd) (s : State) : (effReadInsulation a0 s).cfg = s.cfg ∧ (effReadInsulation a0 s).pending = s.pending := by
  simp [effReadInsulation]

theorem execReadInsulation_keeps (a0 : Sys2Proof.Cmd) (s : State) : ∃ t, execReadInsulation a0 s = .next t ∧ t.cfg = s.cfg ∧ t.pending = s.pending := by
  unfold execReadInsulation; refine ⟨_, rfl, ?_⟩; simp

@[simp] theorem State.onFw_keeps (s : State) (a1 : Fin 3) (a2 : Fin 2) (a3 : FwSlot → FwSlot) : (State.onFw s a1 a2 a3).cfg = s.cfg ∧ (State.onFw s a1 a2 a3).pending = s.pending := by
  simp [State.onFw]

@[simp] theorem State.onCfg_keeps (s : State) (a1 : Fin 4) (a2 : CfgSlot → CfgSlot) : (State.onCfg s a1 a2).cfg = s.cfg ∧ (State.onCfg s a1 a2).pending = s.pending := by
  simp [State.onCfg]

@[simp] theorem imageKey_keeps (s : State) (a1 : ℕ) : (imageKey s a1).2.cfg = s.cfg ∧ (imageKey s a1).2.pending = s.pending := by
  unfold imageKey; dsimp only; repeat' split
  all_goals simp

@[simp] theorem verifyCause_keeps (s : State) (a1 : ℕ) (a2 : List Host.Cell) (a3 : Bool) : (verifyCause s a1 a2 a3).2.cfg = s.cfg ∧ (verifyCause s a1 a2 a3).2.pending = s.pending := by
  unfold verifyCause; dsimp only; repeat' split
  all_goals simp

@[simp] theorem tellVersions_keeps (s : State) : (tellVersions s).cfg = s.cfg ∧ (tellVersions s).pending = s.pending := by
  simp [tellVersions]

@[simp] theorem storedEvent_keeps (s : State) (a1 : ℕ) (a2 : ℕ) (a3 : BitVec 32) (a4 : ℕ) (a5 : Option Sys2Proof.Cmd) : (storedEvent s a1 a2 a3 a4 a5).cfg = s.cfg ∧ (storedEvent s a1 a2 a3 a4 a5).pending = s.pending := by
  simp [storedEvent]

@[simp] theorem verifyFw_keeps (s : State) (a1 : Fin 3) (a2 : Fin 2) (a3 : Option Sys2Proof.Cmd) : (verifyFw s a1 a2 a3).1.cfg = s.cfg ∧ (verifyFw s a1 a2 a3).1.pending = s.pending := by
  simp [verifyFw]

@[simp] theorem verifyCfg_keeps (s : State) (a1 : Fin 4) (a2 : Option Sys2Proof.Cmd) : (verifyCfg s a1 a2).1.cfg = s.cfg ∧ (verifyCfg s a1 a2).1.pending = s.pending := by
  simp [verifyCfg]

@[simp] theorem takeImage_keeps (s : State) (a1 : Fin 3) (a2 : List Sys2Proof.Byte) : (takeImage s a1 a2).cfg = s.cfg ∧ (takeImage s a1 a2).pending = s.pending := by
  unfold takeImage; repeat' split
  all_goals simp

@[simp] theorem State.onTrial_keeps (s : State) (a1 : Fin 3) (a2 : Option Trial → Option Trial) : (State.onTrial s a1 a2).cfg = s.cfg ∧ (State.onTrial s a1 a2).pending = s.pending := by
  simp [State.onTrial]

@[simp] theorem startTrial_keeps (s : State) (a1 : Fin 3) (a2 : Option Sys2Proof.Cmd) : (startTrial s a1 a2).cfg = s.cfg ∧ (startTrial s a1 a2).pending = s.pending := by
  unfold startTrial; dsimp only; repeat' split
  all_goals simp

@[simp] theorem tellTrial_keeps (s : State) (a1 : Fin 3) (a2 : Bool) (a3 : BitVec 32) : (tellTrial s a1 a2 a3).cfg = s.cfg ∧ (tellTrial s a1 a2 a3).pending = s.pending := by
  simp [tellTrial]

@[simp] theorem fallBack_keeps (s : State) (a1 : Fin 3) (a2 : ℕ) (a3 : Option Sys2Proof.Cmd) : (fallBack s a1 a2 a3).cfg = s.cfg ∧ (fallBack s a1 a2 a3).pending = s.pending := by
  unfold fallBack; dsimp only; repeat' split
  all_goals simp

@[simp] theorem confirmTrial_keeps (s : State) (a1 : Fin 3) (a2 : Trial) : (confirmTrial s a1 a2).cfg = s.cfg ∧ (confirmTrial s a1 a2).pending = s.pending := by
  simp [confirmTrial]

@[simp] theorem islandRestart_keeps (s : State) (a1 : Fin 3) : (islandRestart s a1).cfg = s.cfg ∧ (islandRestart s a1).pending = s.pending := by
  simp [islandRestart]

@[simp] theorem State.onSwitch_keeps (s : State) (a1 : Fin 3) (a2 : Option SwitchDue) : (State.onSwitch s a1 a2).cfg = s.cfg ∧ (State.onSwitch s a1 a2).pending = s.pending := by
  simp [State.onSwitch]

@[simp] theorem doSwitch_keeps (s : State) (a1 : Fin 3) (a2 : SwitchDue) : (doSwitch s a1 a2).cfg = s.cfg ∧ (doSwitch s a1 a2).pending = s.pending := by
  unfold doSwitch; dsimp only; repeat' split
  all_goals simp

@[simp] theorem switchAtMark_keeps (s : State) (a1 : Bool) : (switchAtMark s a1).cfg = s.cfg ∧ (switchAtMark s a1).pending = s.pending := by
  unfold switchAtMark
  refine ⟨(foldl_keeps _ _ _ fun s x => ?_).1.trans ?_, (foldl_keeps _ _ _ fun s x => ?_).2.trans ?_⟩
  all_goals (try dsimp only); repeat' split
  all_goals simp

@[simp] theorem pendConfig_keeps (s : State) (a1 : CfgPend) : (pendConfig s a1).cfg = s.cfg ∧ (pendConfig s a1).pending = s.pending := by
  simp [pendConfig]

@[simp] theorem passFrom_keeps (s : State) (a1 : Fin 4) (a2 : Sys2Proof.TieMsg) : (passFrom s a1 a2).cfg = s.cfg ∧ (passFrom s a1 a2).pending = s.pending := by
  simp [passFrom]

@[simp] theorem takeUpd_keeps (s : State) (a1 : Fin 4) (a2 : Sys2Proof.TieMsg) : (takeUpd s a1 a2).cfg = s.cfg ∧ (takeUpd s a1 a2).pending = s.pending := by
  unfold takeUpd; dsimp only; repeat' split
  all_goals simp

@[simp] theorem laneEvent_keeps (s : State) (a1 : Fin 128) (a2 : ℕ) (a3 : List Sys2Proof.Byte) : (laneEvent s a1 a2 a3).cfg = s.cfg ∧ (laneEvent s a1 a2 a3).pending = s.pending := by
  simp [laneEvent]

@[simp] theorem startTraining_keeps (s : State) (a1 : Fin 128) : (startTraining s a1).cfg = s.cfg ∧ (startTraining s a1).pending = s.pending := by
  simp [startTraining]

@[simp] theorem laneDown_keeps (s : State) (a1 : Fin 128) (a2 : ℕ) : (laneDown s a1 a2).cfg = s.cfg ∧ (laneDown s a1 a2).pending = s.pending := by
  simp [laneDown]

@[simp] theorem setLaneCtl_keeps (s : State) (a1 : Fin 128) (a2 : ℕ) (a3 : ℕ) (a4 : Bool) (a5 : Bool) : (setLaneCtl s a1 a2 a3 a4 a5).cfg = s.cfg ∧ (setLaneCtl s a1 a2 a3 a4 a5).pending = s.pending := by
  simp [setLaneCtl]

@[simp] theorem writeLaneCtl_keeps (s : State) (a1 : Fin 128) (a2 : Sys2Proof.Word) : (writeLaneCtl s a1 a2).cfg = s.cfg ∧ (writeLaneCtl s a1 a2).pending = s.pending := by
  simp [writeLaneCtl]

theorem execRetrain_keeps (a0 : Fin 128) (s : State) : ∃ t, execRetrain a0 s = .next t ∧ t.cfg = s.cfg ∧ t.pending = s.pending := by
  unfold execRetrain; refine ⟨_, rfl, ?_⟩; simp

theorem execLaneEnable_keeps (a0 : Fin 128) (s : State) : ∃ t, execLaneEnable a0 s = .next t ∧ t.cfg = s.cfg ∧ t.pending = s.pending := by
  unfold execLaneEnable; refine ⟨_, rfl, ?_⟩; simp

theorem execLaneDisable_keeps (a0 : Fin 128) (s : State) : ∃ t, execLaneDisable a0 s = .next t ∧ t.cfg = s.cfg ∧ t.pending = s.pending := by
  unfold execLaneDisable; refine ⟨_, rfl, ?_⟩; simp

theorem execTrainingSetReceived_keeps (a0 : Fin 128) (a1 : Bool) (s : State) : ∃ t, execTrainingSetReceived a0 a1 s = .next t ∧ t.cfg = s.cfg ∧ t.pending = s.pending := by
  unfold execTrainingSetReceived; refine ⟨_, rfl, ?_⟩; simp

theorem execEchoReceived_keeps (a0 : Fin 128) (a1 : ℕ) (s : State) : ∃ t, execEchoReceived a0 a1 s = .next t ∧ t.cfg = s.cfg ∧ t.pending = s.pending := by
  unfold execEchoReceived; refine ⟨_, rfl, ?_⟩; simp

theorem execLinkFault_keeps (a0 : Fin 128) (a1 : Fin 4) (s : State) : ∃ t, execLinkFault a0 a1 s = .next t ∧ t.cfg = s.cfg ∧ t.pending = s.pending := by
  unfold execLinkFault; refine ⟨_, rfl, ?_⟩; simp

@[simp] theorem gapFrame_keeps (s : State) (a1 : Fin 128) : (gapFrame s a1).cfg = s.cfg ∧ (gapFrame s a1).pending = s.pending := by
  simp [gapFrame]

@[simp] theorem missFrame_keeps (s : State) (a1 : Fin 128) (a2 : Bool) : (missFrame s a1 a2).cfg = s.cfg ∧ (missFrame s a1 a2).pending = s.pending := by
  simp [missFrame]

theorem execLinkRestored_keeps (a0 : Fin 128) (s : State) : ∃ t, execLinkRestored a0 s = .next t ∧ t.cfg = s.cfg ∧ t.pending = s.pending := by
  unfold execLinkRestored; refine ⟨_, rfl, ?_⟩; simp

theorem execLaneSilent_keeps (a0 : Fin 128) (s : State) : ∃ t, execLaneSilent a0 s = .next t ∧ t.cfg = s.cfg ∧ t.pending = s.pending := by
  unfold execLaneSilent; refine ⟨_, rfl, ?_⟩; simp

@[simp] theorem mailbox_keeps (s : State) (a1 : Fin 128) (a2 : Sys2Proof.MbMsg) (a3 : Bool) : (mailbox s a1 a2 a3).cfg = s.cfg ∧ (mailbox s a1 a2 a3).pending = s.pending := by
  simp [mailbox]

@[simp] theorem refuseAttach_keeps (s : State) (a1 : Fin 128) (a2 : ℕ) : (refuseAttach s a1 a2).cfg = s.cfg ∧ (refuseAttach s a1 a2).pending = s.pending := by
  simp [refuseAttach]

@[simp] theorem newEpoch_keeps (s : State) (a1 : Fin 128) : (newEpoch s a1).2.cfg = s.cfg ∧ (newEpoch s a1).2.pending = s.pending := by
  simp [newEpoch]

@[simp] theorem takeMsg_keeps (s : State) (a1 : Fin 128) (a2 : Sys2Proof.Byte) : (takeMsg s a1 a2).2.cfg = s.cfg ∧ (takeMsg s a1 a2).2.pending = s.pending := by
  unfold takeMsg; repeat' split
  all_goals simp

@[simp] theorem hello_keeps (s : State) (a1 : Fin 128) (a2 : List Sys2Proof.Byte) : (hello s a1 a2).cfg = s.cfg ∧ (hello s a1 a2).pending = s.pending := by
  simp [hello]

theorem execHelloReceived_keeps (a0 : Fin 128) (s : State) : ∃ t, execHelloReceived a0 s = .next t ∧ t.cfg = s.cfg ∧ t.pending = s.pending := by
  unfold execHelloReceived; dsimp only; repeat' split
  all_goals (refine ⟨_, rfl, ?_⟩; simp)

@[simp] theorem proof_keeps (s : State) (a1 : Fin 128) (a2 : BitVec 64) : (proof s a1 a2).cfg = s.cfg ∧ (proof s a1 a2).pending = s.pending := by
  unfold proof; dsimp only; repeat' split
  all_goals simp

theorem execProofReceived_keeps (a0 : Fin 128) (s : State) : ∃ t, execProofReceived a0 s = .next t ∧ t.cfg = s.cfg ∧ t.pending = s.pending := by
  unfold execProofReceived; dsimp only; repeat' split
  all_goals (refine ⟨_, rfl, ?_⟩; simp)

@[simp] theorem sendClaim_keeps (s : State) (a1 : Fin 128) : (sendClaim s a1).cfg = s.cfg ∧ (sendClaim s a1).pending = s.pending := by
  simp [sendClaim]

@[simp] theorem newTone_keeps (s : State) (a1 : Fin 128) : (newTone s a1).cfg = s.cfg ∧ (newTone s a1).pending = s.pending := by
  simp [newTone]

@[simp] theorem startGuard_keeps (s : State) (a1 : Fin 128) : (startGuard s a1).cfg = s.cfg ∧ (startGuard s a1).pending = s.pending := by
  simp [startGuard]

@[simp] theorem laneUp_keeps (s : State) (a1 : Fin 128) : (laneUp s a1).cfg = s.cfg ∧ (laneUp s a1).pending = s.pending := by
  simp [laneUp]

theorem execParamAckReceived_keeps (a0 : Fin 128) (s : State) : ∃ t, execParamAckReceived a0 s = .next t ∧ t.cfg = s.cfg ∧ t.pending = s.pending := by
  unfold execParamAckReceived; refine ⟨_, rfl, ?_⟩; dsimp only; repeat' split
  all_goals simp

theorem execAttachHoldoffEnd_keeps (a0 : Fin 128) (s : State) : ∃ t, execAttachHoldoffEnd a0 s = .next t ∧ t.cfg = s.cfg ∧ t.pending = s.pending := by
  unfold execAttachHoldoffEnd; repeat' split
  all_goals (refine ⟨_, rfl, ?_⟩; simp)

theorem execMailboxRepeat_keeps (a0 : Fin 128) (s : State) : ∃ t, execMailboxRepeat a0 s = .next t ∧ t.cfg = s.cfg ∧ t.pending = s.pending := by
  unfold execMailboxRepeat; refine ⟨_, rfl, ?_⟩; dsimp only; repeat' split
  all_goals simp

@[simp] theorem intervene_keeps (s : State) (a1 : Fin 128) (a2 : BitVec 13) : (intervene s a1 a2).cfg = s.cfg ∧ (intervene s a1 a2).pending = s.pending := by
  simp [intervene]

@[simp] theorem applied_keeps (s : State) (a1 : Fin 128) : (applied s a1).cfg = s.cfg ∧ (applied s a1).pending = s.pending := by
  simp [applied]

@[simp] theorem frameSent_keeps (s : State) (a1 : Fin 128) (a2 : Sys2Proof.Frame) : (frameSent s a1 a2).cfg = s.cfg ∧ (frameSent s a1 a2).pending = s.pending := by
  simp [frameSent]

@[simp] theorem slackStarts_keeps (s : State) (a1 : Fin 128) (a2 : Bool) : (slackStarts s a1 a2).cfg = s.cfg ∧ (slackStarts s a1 a2).pending = s.pending := by
  simp [slackStarts]

@[simp] theorem slackEnds_keeps (s : State) (a1 : Fin 128) (a2 : BitVec 3) : (slackEnds s a1 a2).cfg = s.cfg ∧ (slackEnds s a1 a2).pending = s.pending := by
  simp [slackEnds]

@[simp] theorem slackStep_keeps (s : State) (a1 : Fin 128) (a2 : BitVec 3) (a3 : BitVec 3) (a4 : Bool) : (slackStep s a1 a2 a3 a4).cfg = s.cfg ∧ (slackStep s a1 a2 a3 a4).pending = s.pending := by
  simp [slackStep]

@[simp] theorem guardSees_keeps (s : State) (a1 : Fin 128) (a2 : Bool) : (guardSees s a1 a2).cfg = s.cfg ∧ (guardSees s a1 a2).pending = s.pending := by
  simp [guardSees]

@[simp] theorem takeFrameNo_keeps (s : State) (a1 : Fin 128) (a2 : BitVec 16) : (takeFrameNo s a1 a2).cfg = s.cfg ∧ (takeFrameNo s a1 a2).pending = s.pending := by
  unfold takeFrameNo; dsimp only; repeat' split
  all_goals simp

@[simp] theorem takeSamples_keeps (s : State) (a1 : Fin 128) (a2 : Uplink) : (takeSamples s a1 a2).cfg = s.cfg ∧ (takeSamples s a1 a2).pending = s.pending := by
  simp [takeSamples]

@[simp] theorem takeStatus_keeps (s : State) (a1 : Fin 128) (a2 : Uplink) : (takeStatus s a1 a2).cfg = s.cfg ∧ (takeStatus s a1 a2).pending = s.pending := by
  simp [takeStatus]

@[simp] theorem takeFrame_keeps (s : State) (a1 : Fin 128) (a2 : Uplink) : (takeFrame s a1 a2).cfg = s.cfg ∧ (takeFrame s a1 a2).pending = s.pending := by
  simp [takeFrame]

theorem execUplinkFrameReceived_keeps (a0 : Fin 128) (a1 : List Sys2Proof.Byte) (a2 : Bool) (a3 : Bool) (s : State) : ∃ t, execUplinkFrameReceived a0 a1 a2 a3 s = .next t ∧ t.cfg = s.cfg ∧ t.pending = s.pending := by
  unfold execUplinkFrameReceived; refine ⟨_, rfl, ?_⟩; simp

@[simp] theorem overloadStep_keeps (s : State) (a1 : Fin 3) : (overloadStep s a1).cfg = s.cfg ∧ (overloadStep s a1).pending = s.pending := by
  simp [overloadStep]

@[simp] theorem endHeld_keeps (s : State) (a1 : Fin 128) : (endHeld s a1).cfg = s.cfg ∧ (endHeld s a1).pending = s.pending := by
  unfold endHeld; dsimp only; repeat' split
  all_goals simp

@[simp] theorem noteGrants_keeps (s : State) (a1 : List (ShareIn × Nat × Bool)) : (noteGrants s a1).cfg = s.cfg ∧ (noteGrants s a1).pending = s.pending := by
  unfold noteGrants
  refine ⟨(foldl_keeps _ _ _ fun s x => ?_).1.trans ?_, (foldl_keeps _ _ _ fun s x => ?_).2.trans ?_⟩
  all_goals (try dsimp only); repeat' split
  all_goals simp

@[simp] theorem allocateShared_keeps (s : State) : (allocateShared s).cfg = s.cfg ∧ (allocateShared s).pending = s.pending := by
  simp [allocateShared]

@[simp] theorem allocCluster_keeps (s : State) : (allocCluster s).cfg = s.cfg ∧ (allocCluster s).pending = s.pending := by
  simp [allocCluster]

@[simp] theorem peerAlone_keeps (s : State) (a1 : ℕ) (a2 : ℕ) : (peerAlone s a1 a2).cfg = s.cfg ∧ (peerAlone s a1 a2).pending = s.pending := by
  simp [peerAlone]

@[simp] theorem takeGrant_keeps (s : State) : (takeGrant s).cfg = s.cfg ∧ (takeGrant s).pending = s.pending := by
  unfold takeGrant; dsimp only; repeat' split
  all_goals simp

@[simp] theorem dropExpired_keeps (s : State) : (dropExpired s).cfg = s.cfg ∧ (dropExpired s).pending = s.pending := by
  unfold dropExpired; dsimp only; repeat' split
  all_goals simp

@[simp] theorem snapOutlet_keeps (s : State) (a1 : Fin 128) : (snapOutlet s a1).cfg = s.cfg ∧ (snapOutlet s a1).pending = s.pending := by
  unfold snapOutlet; dsimp only; repeat' split
  all_goals simp

@[simp] theorem snapshot_keeps (s : State) : (snapshot s).cfg = s.cfg ∧ (snapshot s).pending = s.pending := by
  simp [snapshot]

@[simp] theorem snapshotFires_keeps (s : State) : (snapshotFires s).cfg = s.cfg ∧ (snapshotFires s).pending = s.pending := by
  simp [snapshotFires]

theorem execPeerFallback_keeps (s : State) : ∃ t, execPeerFallback s = .next t ∧ t.cfg = s.cfg ∧ t.pending = s.pending := by
  unfold execPeerFallback; refine ⟨_, rfl, ?_⟩; simp

@[simp] theorem applyGrant_keeps (a0 : Fin 128 → Bool) (s : State) (a2 : Fin 128) : (applyGrant a0 s a2).cfg = s.cfg ∧ (applyGrant a0 s a2).pending = s.pending := by
  unfold applyGrant; dsimp only; repeat' split
  all_goals simp

@[simp] theorem applyAll_keeps (s : State) (a1 : ℕ) (a2 : Fin 128 → Bool) : (applyAll s a1 a2).cfg = s.cfg ∧ (applyAll s a1 a2).pending = s.pending := by
  simp [applyAll]

@[simp] theorem applyFires_keeps (s : State) : (applyFires s).cfg = s.cfg ∧ (applyFires s).pending = s.pending := by
  unfold applyFires; dsimp only; repeat' split
  all_goals simp

theorem execSiteLimitExpiry_keeps (s : State) : ∃ t, execSiteLimitExpiry s = .next t ∧ t.cfg = s.cfg ∧ t.pending = s.pending := by
  unfold execSiteLimitExpiry; refine ⟨_, rfl, ?_⟩; dsimp only; repeat' split
  all_goals simp

theorem execKiteGrantExpiry_keeps (s : State) : ∃ t, execKiteGrantExpiry s = .next t ∧ t.cfg = s.cfg ∧ t.pending = s.pending := by
  unfold execKiteGrantExpiry; refine ⟨_, rfl, ?_⟩; dsimp only; repeat' split
  all_goals simp

@[simp] theorem shareEnable_keeps (s : State) (a1 : Bool) : (shareEnable s a1).cfg = s.cfg ∧ (shareEnable s a1).pending = s.pending := by
  simp [shareEnable]

@[simp] theorem kiteEnable_keeps (s : State) (a1 : Bool) : (kiteEnable s a1).cfg = s.cfg ∧ (kiteEnable s a1).pending = s.pending := by
  simp [kiteEnable]

@[simp] theorem writeShrCfg_keeps (s : State) (a1 : Sys2Proof.Word) : (writeShrCfg s a1).cfg = s.cfg ∧ (writeShrCfg s a1).pending = s.pending := by
  simp [writeShrCfg]

@[simp] theorem writeSitePower_keeps (s : State) (a1 : Sys2Proof.Word) : (writeSitePower s a1).cfg = s.cfg ∧ (writeSitePower s a1).pending = s.pending := by
  simp [writeSitePower]

theorem execSitePowerLimitWrite_keeps (a0 : BitVec 32) (s : State) : ∃ t, execSitePowerLimitWrite a0 s = .next t ∧ t.cfg = s.cfg ∧ t.pending = s.pending := by
  unfold execSitePowerLimitWrite; refine ⟨_, rfl, ?_⟩; simp

@[simp] theorem shareWait_keeps (s : State) (a1 : Sys2Proof.Cmd) : (shareWait s a1).cfg = s.cfg ∧ (shareWait s a1).pending = s.pending := by
  simp [shareWait]

@[simp] theorem effSetSiteLimit_keeps (a0 : Sys2Proof.Cmd) (s : State) : (effSetSiteLimit a0 s).cfg = s.cfg ∧ (effSetSiteLimit a0 s).pending = s.pending := by
  simp [effSetSiteLimit]

theorem execSetSiteLimit_keeps (a0 : Sys2Proof.Cmd) (s : State) : ∃ t, execSetSiteLimit a0 s = .next t ∧ t.cfg = s.cfg ∧ t.pending = s.pending := by
  unfold execSetSiteLimit; refine ⟨_, rfl, ?_⟩; simp

@[simp] theorem effSetRequest_keeps (a0 : Sys2Proof.Cmd) (s : State) : (effSetRequest a0 s).cfg = s.cfg ∧ (effSetRequest a0 s).pending = s.pending := by
  simp [effSetRequest]

theorem execSetRequest_keeps (a0 : Sys2Proof.Cmd) (s : State) : ∃ t, execSetRequest a0 s = .next t ∧ t.cfg = s.cfg ∧ t.pending = s.pending := by
  unfold execSetRequest; refine ⟨_, rfl, ?_⟩; simp

@[simp] theorem effSetPriority_keeps (a0 : Sys2Proof.Cmd) (s : State) : (effSetPriority a0 s).cfg = s.cfg ∧ (effSetPriority a0 s).pending = s.pending := by
  simp [effSetPriority]

theorem execSetPriority_keeps (a0 : Sys2Proof.Cmd) (s : State) : ∃ t, execSetPriority a0 s = .next t ∧ t.cfg = s.cfg ∧ t.pending = s.pending := by
  unfold execSetPriority; refine ⟨_, rfl, ?_⟩; simp

@[simp] theorem effReadAllocation_keeps (a0 : Sys2Proof.Cmd) (s : State) : (effReadAllocation a0 s).cfg = s.cfg ∧ (effReadAllocation a0 s).pending = s.pending := by
  simp [effReadAllocation]

theorem execReadAllocation_keeps (a0 : Sys2Proof.Cmd) (s : State) : ∃ t, execReadAllocation a0 s = .next t ∧ t.cfg = s.cfg ∧ t.pending = s.pending := by
  unfold execReadAllocation; refine ⟨_, rfl, ?_⟩; simp

@[simp] theorem State.onRun_keeps (s : State) (a1 : BitVec 48) (a2 : BitVec 64) (a3 : Run → Run) : (State.onRun s a1 a2 a3).cfg = s.cfg ∧ (State.onRun s a1 a2 a3).pending = s.pending := by
  simp [State.onRun]

@[simp] theorem State.dropRun_keeps (s : State) (a1 : Run) : (State.dropRun s a1).cfg = s.cfg ∧ (State.dropRun s a1).pending = s.pending := by
  simp [State.dropRun]

@[simp] theorem slacSend_keeps (s : State) (a1 : Fin 128) (a2 : Run) (a3 : Sys2Proof.SlacTx) : (slacSend s a1 a2 a3).cfg = s.cfg ∧ (slacSend s a1 a2 a3).pending = s.pending := by
  simp [slacSend]

@[simp] theorem slacParam_keeps (s : State) (a1 : BitVec 48) (a2 : BitVec 64) (a3 : List (Fin 128)) : (slacParam s a1 a2 a3).cfg = s.cfg ∧ (slacParam s a1 a2 a3).pending = s.pending := by
  unfold slacParam; dsimp only; repeat' split
  all_goals simp

theorem execSlacParamReq_keeps (a0 : BitVec 48) (a1 : BitVec 64) (a2 : List (Fin 128)) (s : State) : ∃ t, execSlacParamReq a0 a1 a2 s = .next t ∧ t.cfg = s.cfg ∧ t.pending = s.pending := by
  unfold execSlacParamReq; refine ⟨_, rfl, ?_⟩; simp

@[simp] theorem startSounding_keeps (s : State) (a1 : BitVec 48) (a2 : BitVec 64) : (startSounding s a1 a2).cfg = s.cfg ∧ (startSounding s a1 a2).pending = s.pending := by
  simp [startSounding]

@[simp] theorem takeSound_keeps (s : State) (a1 : Fin 128) (a2 : BitVec 48) (a3 : BitVec 64) (a4 : ℕ) (a5 : Option (List (Option ℕ))) : (takeSound s a1 a2 a3 a4 a5).cfg = s.cfg ∧ (takeSound s a1 a2 a3 a4 a5).pending = s.pending := by
  unfold takeSound; dsimp only; repeat' split
  all_goals simp

@[simp] theorem sendAtten_keeps (s : State) (a1 : Run) (a2 : List Nat) : (sendAtten s a1 a2).cfg = s.cfg ∧ (sendAtten s a1 a2).pending = s.pending := by
  unfold sendAtten
  refine ⟨(foldl_keeps _ _ _ fun s x => ?_).1.trans ?_, (foldl_keeps _ _ _ fun s x => ?_).2.trans ?_⟩
  all_goals (try dsimp only); repeat' split
  all_goals simp

@[simp] theorem holdRun_keeps (s : State) (a1 : Run) (a2 : List ℕ) (a3 : Bool) : (holdRun s a1 a2 a3).cfg = s.cfg ∧ (holdRun s a1 a2 a3).pending = s.pending := by
  simp [holdRun]

theorem decideRun_keeps (s : State) (a1 : Run) : ∀ t, decideRun s a1 = some t → t.cfg = s.cfg ∧ t.pending = s.pending := by
  intro t h
  unfold decideRun at h; dsimp only at h; repeat' split at h
  all_goals first | (cases h; simp; done) | (simp at h; done)

@[simp] theorem decideRuns_keeps (n : Nat) (s : State) :
    (decideRuns n s).cfg = s.cfg ∧ (decideRuns n s).pending = s.pending := by
  induction n generalizing s with
  | zero => exact ⟨rfl, rfl⟩
  | succ n ih =>
    unfold decideRuns; dsimp only
    split
    · rename_i t h
      obtain ⟨r, _, hr⟩ := List.exists_of_findSome?_eq_some h
      simp [ih, decideRun_keeps _ _ _ hr]
    · exact ⟨rfl, rfl⟩

@[simp] theorem decideAll_keeps (s : State) : (decideAll s).cfg = s.cfg ∧ (decideAll s).pending = s.pending := by
  simp [decideAll]

theorem execSoundingWindowClose_keeps (a0 : BitVec 48) (a1 : BitVec 64) (s : State) : ∃ t, execSoundingWindowClose a0 a1 s = .next t ∧ t.cfg = s.cfg ∧ t.pending = s.pending := by
  unfold execSoundingWindowClose; dsimp only; repeat' split
  all_goals (refine ⟨_, rfl, ?_⟩; simp)

@[simp] theorem takeScores_keeps (s : State) (a1 : ℕ) (a2 : BitVec 48) (a3 : BitVec 64) (a4 : List (ℕ × ℕ)) (a5 : List ℕ) : (takeScores s a1 a2 a3 a4 a5).cfg = s.cfg ∧ (takeScores s a1 a2 a3 a4 a5).pending = s.pending := by
  simp [takeScores]

theorem execPeerScoreTimeout_keeps (a0 : BitVec 48) (a1 : BitVec 64) (s : State) : ∃ t, execPeerScoreTimeout a0 a1 s = .next t ∧ t.cfg = s.cfg ∧ t.pending = s.pending := by
  unfold execPeerScoreTimeout; dsimp only; repeat' split
  all_goals (refine ⟨_, rfl, ?_⟩; simp)

@[simp] theorem acceptMatch_keeps (s : State) (a1 : Fin 128) (a2 : Run) : (acceptMatch s a1 a2).cfg = s.cfg ∧ (acceptMatch s a1 a2).pending = s.pending := by
  simp [acceptMatch]

@[simp] theorem slacMatch_keeps (s : State) (a1 : Fin 128) (a2 : BitVec 48) (a3 : BitVec 64) : (slacMatch s a1 a2 a3).cfg = s.cfg ∧ (slacMatch s a1 a2 a3).pending = s.pending := by
  unfold slacMatch; dsimp only; repeat' split
  all_goals simp

theorem execSlacMatchReq_keeps (a0 : Fin 128) (a1 : BitVec 48) (a2 : BitVec 64) (s : State) : ∃ t, execSlacMatchReq a0 a1 a2 s = .next t ∧ t.cfg = s.cfg ∧ t.pending = s.pending := by
  unfold execSlacMatchReq; refine ⟨_, rfl, ?_⟩; simp

theorem execMatchTimeout_keeps (a0 : BitVec 48) (a1 : BitVec 64) (s : State) : ∃ t, execMatchTimeout a0 a1 s = .next t ∧ t.cfg = s.cfg ∧ t.pending = s.pending := by
  unfold execMatchTimeout; dsimp only; repeat' split
  all_goals (refine ⟨_, rfl, ?_⟩; simp)

@[simp] theorem slacValidate_keeps (s : State) (a1 : BitVec 48) (a2 : BitVec 64) (a3 : ℕ) (a4 : List (Fin 128)) : (slacValidate s a1 a2 a3 a4).cfg = s.cfg ∧ (slacValidate s a1 a2 a3 a4).pending = s.pending := by
  unfold slacValidate; dsimp only; repeat' split
  all_goals simp

theorem execValidateReq_keeps (a0 : BitVec 48) (a1 : BitVec 64) (a2 : ℕ) (a3 : List (Fin 128)) (s : State) : ∃ t, execValidateReq a0 a1 a2 a3 s = .next t ∧ t.cfg = s.cfg ∧ t.pending = s.pending := by
  unfold execValidateReq; refine ⟨_, rfl, ?_⟩; simp

@[simp] theorem endValidation_keeps (s : State) (a1 : Run) : (endValidation s a1).cfg = s.cfg ∧ (endValidation s a1).pending = s.pending := by
  simp [endValidation]

theorem execToggleWindowEnd_keeps (a0 : BitVec 48) (a1 : BitVec 64) (s : State) : ∃ t, execToggleWindowEnd a0 a1 s = .next t ∧ t.cfg = s.cfg ∧ t.pending = s.pending := by
  unfold execToggleWindowEnd; repeat' split
  all_goals (refine ⟨_, rfl, ?_⟩; simp)

theorem execCommonImpulse_keeps (a0 : List (Fin 128)) (s : State) : ∃ t, execCommonImpulse a0 s = .next t ∧ t.cfg = s.cfg ∧ t.pending = s.pending := by
  unfold execCommonImpulse; refine ⟨_, rfl, ?_⟩; simp

@[simp] theorem slacMessage_keeps (s : State) (a1 : Fin 128) (a2 : Sys2Proof.SlacMsg) : (slacMessage s a1 a2).cfg = s.cfg ∧ (slacMessage s a1 a2).pending = s.pending := by
  unfold slacMessage; repeat' split
  all_goals simp

@[simp] theorem frameToHost_keeps (s : State) (a1 : Fin 128) (a2 : List Sys2Proof.Byte) : (frameToHost s a1 a2).cfg = s.cfg ∧ (frameToHost s a1 a2).pending = s.pending := by
  simp [frameToHost]

theorem execPlcFrameReceived_keeps (a0 : Fin 128) (a1 : Option Sys2Proof.SlacMsg) (a2 : List (BitVec 8)) (s : State) : ∃ t, execPlcFrameReceived a0 a1 a2 s = .next t ∧ t.cfg = s.cfg ∧ t.pending = s.pending := by
  unfold execPlcFrameReceived; refine ⟨_, rfl, ?_⟩; dsimp only; repeat' split
  all_goals simp

@[simp] theorem effLeaveAssociation_keeps (a0 : Sys2Proof.Cmd) (s : State) : (effLeaveAssociation a0 s).cfg = s.cfg ∧ (effLeaveAssociation a0 s).pending = s.pending := by
  simp [effLeaveAssociation]

theorem execLeaveAssociation_keeps (a0 : Sys2Proof.Cmd) (s : State) : ∃ t, execLeaveAssociation a0 s = .next t ∧ t.cfg = s.cfg ∧ t.pending = s.pending := by
  unfold execLeaveAssociation; refine ⟨_, rfl, ?_⟩; simp

@[simp] theorem effReadAssociation_keeps (a0 : Sys2Proof.Cmd) (s : State) : (effReadAssociation a0 s).cfg = s.cfg ∧ (effReadAssociation a0 s).pending = s.pending := by
  simp [effReadAssociation]

theorem execReadAssociation_keeps (a0 : Sys2Proof.Cmd) (s : State) : ∃ t, execReadAssociation a0 s = .next t ∧ t.cfg = s.cfg ∧ t.pending = s.pending := by
  unfold execReadAssociation; refine ⟨_, rfl, ?_⟩; simp

@[simp] theorem effTlsSign_keeps (c : Cmd) (s : State) : (effTlsSign c s).cfg = s.cfg ∧ (effTlsSign c s).pending = s.pending := by
  unfold effTlsSign
  extract_lets addr slot
  clear_value addr slot
  split
  · simp
  · split
    · simp
    · refine withRandom_keeps _ _ _ ?_
      have h := useKey_keeps s slot
      split
      all_goals (rename_i e; rw [e] at h; simpa using h)

theorem execTlsSign_keeps (a0 : Sys2Proof.Cmd) (s : State) : ∃ t, execTlsSign a0 s = .next t ∧ t.cfg = s.cfg ∧ t.pending = s.pending := by
  unfold execTlsSign; refine ⟨_, rfl, ?_⟩; simp

@[simp] theorem applyLegal_keeps (s : State) (a1 : Fin 128) : (applyLegal s a1).cfg = s.cfg ∧ (applyLegal s a1).pending = s.pending := by
  simp [applyLegal]

@[simp] theorem applyTemp_keeps (s : State) (a1 : Fin 128) : (applyTemp s a1).cfg = s.cfg ∧ (applyTemp s a1).pending = s.pending := by
  unfold applyTemp; dsimp only; repeat' split
  all_goals simp

theorem execTemperatureSource_keeps (a0 : Fin 128) (s : State) : ∃ t, execTemperatureSource a0 s = .next t ∧ t.cfg = s.cfg ∧ t.pending = s.pending := by
  unfold execTemperatureSource; refine ⟨_, rfl, ?_⟩; dsimp only; repeat' split
  all_goals simp

@[simp] theorem threePhase_keeps (s : State) (a1 : Fin 128) (a2 : Profile) (a3 : CycleQ) : (threePhase s a1 a2 a3).cfg = s.cfg ∧ (threePhase s a1 a2 a3).pending = s.pending := by
  simp [threePhase]

@[simp] theorem overRangeStep_keeps (s : State) (a1 : Fin 128) (a2 : CycleQ) : (overRangeStep s a1 a2).cfg = s.cfg ∧ (overRangeStep s a1 a2).pending = s.pending := by
  simp [overRangeStep]

@[simp] theorem gapStep_keeps (s : State) (a1 : Fin 128) (a2 : CycleQ) : (gapStep s a1 a2).cfg = s.cfg ∧ (gapStep s a1 a2).pending = s.pending := by
  simp [gapStep]

@[simp] theorem addReg_keeps (s : State) (a1 : Fin 128) (a2 : Fin 13) (a3 : ℕ) : (addReg s a1 a2 a3).cfg = s.cfg ∧ (addReg s a1 a2 a3).pending = s.pending := by
  simp [addReg]

@[simp] theorem addSite_keeps (s : State) (a1 : Fin 12) (a2 : ℕ) : (addSite s a1 a2).cfg = s.cfg ∧ (addSite s a1 a2).pending = s.pending := by
  simp [addSite]

@[simp] theorem addSigned_keeps (s : State) (a1 : Fin 128) (a2 : Fin 13) (a3 : Fin 13) (a4 : ℤ) : (addSigned s a1 a2 a3 a4).cfg = s.cfg ∧ (addSigned s a1 a2 a3 a4).pending = s.pending := by
  simp [addSigned]

@[simp] theorem compensate_keeps (s : State) (a1 : Fin 128) (a2 : ℤ) (a3 : ℕ) : (compensate s a1 a2 a3).cfg = s.cfg ∧ (compensate s a1 a2 a3).pending = s.pending := by
  simp [compensate]

@[simp] theorem accrue_keeps (s : State) (a1 : Fin 128) (a2 : Profile) (a3 : CycleQ) : (accrue s a1 a2 a3).cfg = s.cfg ∧ (accrue s a1 a2 a3).pending = s.pending := by
  simp [accrue]

@[simp] theorem weldStep_keeps (s : State) (a1 : Fin 128) (a2 : Profile) : (weldStep s a1 a2).cfg = s.cfg ∧ (weldStep s a1 a2).pending = s.pending := by
  simp [weldStep]

@[simp] theorem deliver_keeps (s : State) (a1 : Fin 128) (a2 : Profile) (a3 : CycleQ) : (deliver s a1 a2 a3).cfg = s.cfg ∧ (deliver s a1 a2 a3).pending = s.pending := by
  simp [deliver]

@[simp] theorem cycleUsed_keeps (s : State) (a1 : Fin 128) : (cycleUsed s a1).cfg = s.cfg ∧ (cycleUsed s a1).pending = s.pending := by
  simp [cycleUsed]

@[simp] theorem outletBoundary_keeps (s : State) (a1 : Fin 128) (a2 : Profile) : (outletBoundary s a1 a2).cfg = s.cfg ∧ (outletBoundary s a1 a2).pending = s.pending := by
  simp [outletBoundary]

@[simp] theorem outletEnds_keeps (s : State) (a1 : Fin 128) (a2 : Profile) : (outletEnds s a1 a2).cfg = s.cfg ∧ (outletEnds s a1 a2).pending = s.pending := by
  simp [outletEnds]

@[simp] theorem incomerBits_keeps (s : State) (a1 : List Sys2Proof.Byte) : (incomerBits s a1).cfg = s.cfg ∧ (incomerBits s a1).pending = s.pending := by
  simp [incomerBits]

@[simp] theorem incomerAccrue_keeps (s : State) (a1 : CycleQ) : (incomerAccrue s a1).cfg = s.cfg ∧ (incomerAccrue s a1).pending = s.pending := by
  simp [incomerAccrue]

@[simp] theorem incomerPhases_keeps (s : State) (a1 : CycleQ) : (incomerPhases s a1).cfg = s.cfg ∧ (incomerPhases s a1).pending = s.pending := by
  simp [incomerPhases]

@[simp] theorem incomerTaken_keeps (s : State) : (incomerTaken s).cfg = s.cfg ∧ (incomerTaken s).pending = s.pending := by
  simp [incomerTaken]

@[simp] theorem incomerBoundary_keeps (s : State) : (incomerBoundary s).cfg = s.cfg ∧ (incomerBoundary s).pending = s.pending := by
  simp [incomerBoundary]

@[simp] theorem incomerEnds_keeps (s : State) (a1 : List Sys2Proof.Byte) (a2 : Option Sys2Proof.SrcCycle) : (incomerEnds s a1 a2).cfg = s.cfg ∧ (incomerEnds s a1 a2).pending = s.pending := by
  unfold incomerEnds; dsimp only; repeat' split
  all_goals simp

@[simp] theorem closeOpen_keeps (s : State) (bits : List Byte) :
    (closeOpen s bits).cfg = s.cfg ∧ (closeOpen s bits).pending = s.pending := by
  have h : ∀ s : State, (forAll outlets (fun s o => match s.ctxProfile o with
      | some p =>
        if !(s.lane o).link.measured || (s.met1 o).silent then s
        else cycleUsed (accrue s o p.prof (outletCycle s o p.prof)) o
      | none => s) s).cfg = s.cfg ∧ _ := fun s => forAll_keeps outlets _ s fun s o => by
    repeat' split
    all_goals simp
  unfold closeOpen
  split
  · exact ⟨rfl, rfl⟩
  · refine ⟨(h _).1.trans ?_, (h _).2.trans ?_⟩
    all_goals simp

theorem execMeteringCycleBoundary_keeps (a0 : Option (Fin 128)) (a1 : List Sys2Proof.Byte) (a2 : Option Sys2Proof.SrcCycle) (s : State) : ∃ t, execMeteringCycleBoundary a0 a1 a2 s = .next t ∧ t.cfg = s.cfg ∧ t.pending = s.pending := by
  unfold execMeteringCycleBoundary; repeat' split
  all_goals (refine ⟨_, rfl, ?_⟩; simp)

@[simp] theorem toneResult_keeps (s : State) (a1 : Fin 128) (a2 : Fin 8) (a3 : LegalSec) (a4 : CalRec) (a5 : ℤ) (a6 : ℤ) (a7 : ℕ) (a8 : Bool) : (toneResult s a1 a2 a3 a4 a5 a6 a7 a8).cfg = s.cfg ∧ (toneResult s a1 a2 a3 a4 a5 a6 a7 a8).pending = s.pending := by
  unfold toneResult; dsimp only; repeat' split
  all_goals simp

theorem execToneCorrelation_keeps (a0 : Fin 128) (a1 : Fin 8) (s : State) : ∃ t, execToneCorrelation a0 a1 s = .next t ∧ t.cfg = s.cfg ∧ t.pending = s.pending := by
  unfold execToneCorrelation; refine ⟨_, rfl, ?_⟩; dsimp only; repeat' split
  all_goals simp

theorem execIncomerCheck_keeps (a0 : Fin 8) (a1 : ℤ) (s : State) : ∃ t, execIncomerCheck a0 a1 s = .next t ∧ t.cfg = s.cfg ∧ t.pending = s.pending := by
  unfold execIncomerCheck; refine ⟨_, rfl, ?_⟩; simp

@[simp] theorem effReadVerification_keeps (a0 : Sys2Proof.Cmd) (s : State) : (effReadVerification a0 s).cfg = s.cfg ∧ (effReadVerification a0 s).pending = s.pending := by
  simp [effReadVerification]

theorem execReadVerification_keeps (a0 : Sys2Proof.Cmd) (s : State) : ∃ t, execReadVerification a0 s = .next t ∧ t.cfg = s.cfg ∧ t.pending = s.pending := by
  unfold execReadVerification; refine ⟨_, rfl, ?_⟩; simp

@[simp] theorem allVerif_keeps (s : State) (a1 : Fin 128) (a2 : Verif) : (allVerif s a1 a2).cfg = s.cfg ∧ (allVerif s a1 a2).pending = s.pending := by
  simp [allVerif]

@[simp] theorem effToneControl_keeps (a0 : Sys2Proof.Cmd) (s : State) : (effToneControl a0 s).cfg = s.cfg ∧ (effToneControl a0 s).pending = s.pending := by
  simp [effToneControl]

theorem execToneControl_keeps (a0 : Sys2Proof.Cmd) (s : State) : ∃ t, execToneControl a0 s = .next t ∧ t.cfg = s.cfg ∧ t.pending = s.pending := by
  unfold execToneControl; refine ⟨_, rfl, ?_⟩; simp

@[simp] theorem effRestartVerification_keeps (a0 : Sys2Proof.Cmd) (s : State) : (effRestartVerification a0 s).cfg = s.cfg ∧ (effRestartVerification a0 s).pending = s.pending := by
  simp [effRestartVerification]

theorem execRestartVerification_keeps (a0 : Sys2Proof.Cmd) (s : State) : ∃ t, execRestartVerification a0 s = .next t ∧ t.cfg = s.cfg ∧ t.pending = s.pending := by
  unfold execRestartVerification; refine ⟨_, rfl, ?_⟩; simp

@[simp] theorem accrueTariff_keeps (s : State) (a1 : Fin 128) : (accrueTariff s a1).cfg = s.cfg ∧ (accrueTariff s a1).pending = s.pending := by
  simp [accrueTariff]

@[simp] theorem accrueIncomer_keeps (s : State) : (accrueIncomer s).cfg = s.cfg ∧ (accrueIncomer s).pending = s.pending := by
  simp [accrueIncomer]

@[simp] theorem switchTariff_keeps (s : State) (a1 : ℕ) : (switchTariff s a1).cfg = s.cfg ∧ (switchTariff s a1).pending = s.pending := by
  simp [switchTariff]

@[simp] theorem endSession_keeps (s : State) (a1 : Fin 128) (a2 : ℕ) (a3 : Session) : (endSession s a1 a2 a3).cfg = s.cfg ∧ (endSession s a1 a2 a3).pending = s.pending := by
  simp [endSession]

@[simp] theorem commitOutlet_keeps (a0 : ℕ) (a1 : Bool) (s : State) (a3 : Fin 128) : (commitOutlet a0 a1 s a3).cfg = s.cfg ∧ (commitOutlet a0 a1 s a3).pending = s.pending := by
  simp [commitOutlet]

@[simp] theorem startSessions_keeps (a0 : ℕ) (s : State) (a2 : Fin 128) : (startSessions a0 s a2).cfg = s.cfg ∧ (startSessions a0 s a2).pending = s.pending := by
  unfold startSessions; dsimp only; repeat' split
  all_goals simp

@[simp] theorem closeDemand_keeps (s : State) : (closeDemand s).cfg = s.cfg ∧ (closeDemand s).pending = s.pending := by
  unfold closeDemand; dsimp only; repeat' split
  all_goals simp

@[simp] theorem openPeriod_keeps (s : State) (a1 : ℕ) : (openPeriod s a1).cfg = s.cfg ∧ (openPeriod s a1).pending = s.pending := by
  simp [openPeriod]

@[simp] theorem closePeriod_keeps (s : State) (a1 : ℕ) : (closePeriod s a1).cfg = s.cfg ∧ (closePeriod s a1).pending = s.pending := by
  unfold closePeriod; dsimp only; repeat' split
  all_goals simp

@[simp] theorem State.onPulse_keeps (s : State) (a1 : Fin 8) (a2 : PulseOut → PulseOut) : (State.onPulse s a1 a2).cfg = s.cfg ∧ (State.onPulse s a1 a2).pending = s.pending := by
  simp [State.onPulse]

@[simp] theorem commitPulse_keeps (s : State) (a1 : Fin 8) : (commitPulse s a1).cfg = s.cfg ∧ (commitPulse s a1).pending = s.pending := by
  unfold commitPulse; dsimp only; repeat' split
  all_goals simp

theorem execPulseSend_keeps (a0 : Fin 8) (s : State) : ∃ t, execPulseSend a0 s = .next t ∧ t.cfg = s.cfg ∧ t.pending = s.pending := by
  unfold execPulseSend; refine ⟨_, rfl, ?_⟩; simp

@[simp] theorem closeWindow_keeps (s : State) (a1 : ℕ) : (closeWindow s a1).cfg = s.cfg ∧ (closeWindow s a1).pending = s.pending := by
  simp [closeWindow]

@[simp] theorem balanceMarks_keeps (s : State) : (balanceMarks s).cfg = s.cfg ∧ (balanceMarks s).pending = s.pending := by
  simp [balanceMarks]

@[simp] theorem balanceAlarm_keeps (s : State) (a1 : BitVec 2) (a2 : ℤ) : (balanceAlarm s a1 a2).cfg = s.cfg ∧ (balanceAlarm s a1 a2).pending = s.pending := by
  simp [balanceAlarm]

theorem execBalanceEvaluation_keeps (s : State) : ∃ t, execBalanceEvaluation s = .next t ∧ t.cfg = s.cfg ∧ t.pending = s.pending := by
  unfold execBalanceEvaluation; refine ⟨_, rfl, ?_⟩; dsimp only; repeat' split
  all_goals simp

@[simp] theorem writeSlot_keeps (s : State) (a1 : ℕ) (a2 : CommitSet) (a3 : Fin 3) : (writeSlot s a1 a2 a3).cfg = s.cfg ∧ (writeSlot s a1 a2 a3).pending = s.pending := by
  simp [writeSlot]

@[simp] theorem energyCut_keeps (s : State) (a1 : ℕ) (a2 : ℕ) (a3 : Bool) (a4 : Fin 3) : (energyCut s a1 a2 a3 a4).cfg = s.cfg ∧ (energyCut s a1 a2 a3 a4).pending = s.pending := by
  simp [energyCut]

@[simp] theorem commitFires_keeps (a0 : Fin 3) (s : State) : (commitFires a0 s).cfg = s.cfg ∧ (commitFires a0 s).pending = s.pending := by
  simp [commitFires]

theorem execKeepBurst_keeps (a0 : List ℕ) (s : State) : ∃ t, execKeepBurst a0 s = .next t ∧ t.cfg = s.cfg ∧ t.pending = s.pending := by
  unfold execKeepBurst; refine ⟨_, rfl, ?_⟩; simp

@[simp] theorem writePulse_keeps (s : State) (a1 : Fin 8) (a2 : Bool) (a3 : Sys2Proof.Word) : (writePulse s a1 a2 a3).cfg = s.cfg ∧ (writePulse s a1 a2 a3).pending = s.pending := by
  simp [writePulse]

theorem execPulseSettingsWrite_keeps (a0 : Fin 8) (a1 : Bool) (a2 : BitVec 32) (s : State) : ∃ t, execPulseSettingsWrite a0 a1 a2 s = .next t ∧ t.cfg = s.cfg ∧ t.pending = s.pending := by
  unfold execPulseSettingsWrite; refine ⟨_, rfl, ?_⟩; simp

@[simp] theorem writeEnrCfg_keeps (s : State) (a1 : Sys2Proof.Word) : (writeEnrCfg s a1).cfg = s.cfg ∧ (writeEnrCfg s a1).pending = s.pending := by
  simp [writeEnrCfg]

theorem execDemandLengthChange_keeps (a0 : BitVec 32) (s : State) : ∃ t, execDemandLengthChange a0 s = .next t ∧ t.cfg = s.cfg ∧ t.pending = s.pending := by
  unfold execDemandLengthChange; refine ⟨_, rfl, ?_⟩; simp

@[simp] theorem effDeclareAuxiliary.decl_keeps (a0 : Sys2Proof.Cmd) (s : State) (a2 : ℕ) : (effDeclareAuxiliary.decl a0 s a2).cfg = s.cfg ∧ (effDeclareAuxiliary.decl a0 s a2).pending = s.pending := by
  simp [effDeclareAuxiliary.decl]

@[simp] theorem effDeclareAuxiliary_keeps (a0 : Sys2Proof.Cmd) (s : State) : (effDeclareAuxiliary a0 s).cfg = s.cfg ∧ (effDeclareAuxiliary a0 s).pending = s.pending := by
  unfold effDeclareAuxiliary; dsimp only; repeat' split
  all_goals simp

theorem execDeclareAuxiliary_keeps (a0 : Sys2Proof.Cmd) (s : State) : ∃ t, execDeclareAuxiliary a0 s = .next t ∧ t.cfg = s.cfg ∧ t.pending = s.pending := by
  unfold execDeclareAuxiliary; refine ⟨_, rfl, ?_⟩; simp

@[simp] theorem effReadEnergyRegister_keeps (a0 : Sys2Proof.Cmd) (s : State) : (effReadEnergyRegister a0 s).cfg = s.cfg ∧ (effReadEnergyRegister a0 s).pending = s.pending := by
  simp [effReadEnergyRegister]

theorem execReadEnergyRegister_keeps (a0 : Sys2Proof.Cmd) (s : State) : ∃ t, execReadEnergyRegister a0 s = .next t ∧ t.cfg = s.cfg ∧ t.pending = s.pending := by
  unfold execReadEnergyRegister; refine ⟨_, rfl, ?_⟩; simp

@[simp] theorem bufferEvent_keeps (s : State) (a1 : ℕ) : (bufferEvent s a1).cfg = s.cfg ∧ (bufferEvent s a1).pending = s.pending := by
  simp [bufferEvent]

@[simp] theorem bufferHigh_keeps (s : State) : (bufferHigh s).cfg = s.cfg ∧ (bufferHigh s).pending = s.pending := by
  simp [bufferHigh]

@[simp] theorem releasedEvent_keeps (s : State) (a1 : SignedRec) : (releasedEvent s a1).cfg = s.cfg ∧ (releasedEvent s a1).pending = s.pending := by
  unfold releasedEvent; dsimp only; repeat' split
  all_goals simp

theorem releaseRecord_keeps (s : State) (r : SignedRec) :
    ∀ t, releaseRecord s r = some t → t.cfg = s.cfg ∧ t.pending = s.pending := by
  intro t h
  unfold releaseRecord at h
  split at h
  · cases h
  have hk := meterKey_keeps s
  split at h
  · rename_i e
    rw [e] at hk
    cases h
    simpa using hk
  · cases h

@[simp] theorem overflowRecord_keeps (s : State) (a1 : SignedRec) : (overflowRecord s a1).cfg = s.cfg ∧ (overflowRecord s a1).pending = s.pending := by
  simp [overflowRecord]

@[simp] theorem drainOverflow_keeps (l : List SignedRec) (s : State) :
    (drainOverflow l s).cfg = s.cfg ∧ (drainOverflow l s).pending = s.pending := by
  induction l generalizing s with
  | nil => exact ⟨rfl, rfl⟩
  | cons r l ih =>
    unfold drainOverflow
    split
    · split
      · rename_i t h
        simp [ih, releaseRecord_keeps _ _ _ h]
      · exact ⟨rfl, rfl⟩
    · exact ⟨rfl, rfl⟩

@[simp] theorem releaseAll_keeps (l : List SignedRec) (s : State) :
    (releaseAll l s).cfg = s.cfg ∧ (releaseAll l s).pending = s.pending := by
  induction l generalizing s with
  | nil => exact ⟨rfl, rfl⟩
  | cons r l ih =>
    unfold releaseAll
    repeat' split
    · exact ⟨rfl, rfl⟩
    · rename_i t h
      simp [ih, releaseRecord_keeps _ _ _ h]
    · exact ⟨rfl, rfl⟩
    · simp [ih]

theorem execRecordRelease_keeps (s : State) : ∃ t, execRecordRelease s = .next t ∧ t.cfg = s.cfg ∧ t.pending = s.pending := by
  unfold execRecordRelease; refine ⟨_, rfl, ?_⟩; simp

@[simp] theorem effAcknowledgeRecords_keeps (a0 : Sys2Proof.Cmd) (s : State) : (effAcknowledgeRecords a0 s).cfg = s.cfg ∧ (effAcknowledgeRecords a0 s).pending = s.pending := by
  simp [effAcknowledgeRecords]

theorem execAcknowledgeRecords_keeps (a0 : Sys2Proof.Cmd) (s : State) : ∃ t, execAcknowledgeRecords a0 s = .next t ∧ t.cfg = s.cfg ∧ t.pending = s.pending := by
  unfold execAcknowledgeRecords; refine ⟨_, rfl, ?_⟩; simp

@[simp] theorem effSignReading_keeps (c : Cmd) (s : State) : (effSignReading c s).cfg = s.cfg ∧ (effSignReading c s).pending = s.pending := by
  unfold effSignReading
  refine onOutlet_keeps _ _ _ fun o => ?_
  dsimp only
  repeat' split
  · simp
  · exact ⟨rfl, rfl⟩
  · rename_i e
    exact releaseRecord_keeps _ _ _ e
  · simp
  · simp

theorem execSignReading_keeps (a0 : Sys2Proof.Cmd) (s : State) : ∃ t, execSignReading a0 s = .next t ∧ t.cfg = s.cfg ∧ t.pending = s.pending := by
  unfold execSignReading; refine ⟨_, rfl, ?_⟩; simp

@[simp] theorem effSelectPlan_keeps (a0 : Sys2Proof.Cmd) (s : State) : (effSelectPlan a0 s).cfg = s.cfg ∧ (effSelectPlan a0 s).pending = s.pending := by
  simp [effSelectPlan]

theorem execSelectPlan_keeps (a0 : Sys2Proof.Cmd) (s : State) : ∃ t, execSelectPlan a0 s = .next t ∧ t.cfg = s.cfg ∧ t.pending = s.pending := by
  unfold execSelectPlan; refine ⟨_, rfl, ?_⟩; simp

theorem execTamperInput_keeps (a0 : Fin 4) (s : State) : ∃ t, execTamperInput a0 s = .next t ∧ t.cfg = s.cfg ∧ t.pending = s.pending := by
  unfold execTamperInput; refine ⟨_, rfl, ?_⟩; simp

@[simp] theorem effReadObject_keeps (a0 : Sys2Proof.Cmd) (s : State) : (effReadObject a0 s).cfg = s.cfg ∧ (effReadObject a0 s).pending = s.pending := by
  unfold effReadObject; dsimp only; repeat' split
  all_goals simp

theorem execReadObject_keeps (a0 : Sys2Proof.Cmd) (s : State) : ∃ t, execReadObject a0 s = .next t ∧ t.cfg = s.cfg ∧ t.pending = s.pending := by
  unfold execReadObject; refine ⟨_, rfl, ?_⟩; simp

@[simp] theorem effWriteObject_keeps (c : Cmd) (s : State) : (effWriteObject c s).cfg = s.cfg ∧ (effWriteObject c s).pending = s.pending := by
  unfold effWriteObject
  extract_lets n
  clear_value n
  split
  · simp
  split
  · simp
  split
  · simp
  simp

theorem execWriteObject_keeps (a0 : Sys2Proof.Cmd) (s : State) : ∃ t, execWriteObject a0 s = .next t ∧ t.cfg = s.cfg ∧ t.pending = s.pending := by
  unfold execWriteObject; refine ⟨_, rfl, ?_⟩; simp

@[simp] theorem storeRecord_keeps (s : State) (a1 : Bool) (a2 : LogRec) : (storeRecord s a1 a2).cfg = s.cfg ∧ (storeRecord s a1 a2).pending = s.pending := by
  simp [storeRecord]

@[simp] theorem reportLost_keeps (s : State) (a1 : Bool) : (reportLost s a1).cfg = s.cfg ∧ (reportLost s a1).pending = s.pending := by
  simp [reportLost]

@[simp] theorem snapDone_keeps (s : State) (a1 : ℕ) : (snapDone s a1).cfg = s.cfg ∧ (snapDone s a1).pending = s.pending := by
  unfold snapDone; dsimp only; repeat' split
  all_goals simp

@[simp] theorem writeStaged_keeps (s : State) (a1 : Bool) : (writeStaged s a1).cfg = s.cfg ∧ (writeStaged s a1).pending = s.pending := by
  unfold writeStaged; dsimp only; repeat' split
  all_goals simp

theorem execRecordWrite_keeps (a0 : Bool) (s : State) : ∃ t, execRecordWrite a0 s = .next t ∧ t.cfg = s.cfg ∧ t.pending = s.pending := by
  unfold execRecordWrite; refine ⟨_, rfl, ?_⟩; simp

@[simp] theorem writeCursor_keeps (s : State) (a1 : Sys2Proof.Word) : (writeCursor s a1).cfg = s.cfg ∧ (writeCursor s a1).pending = s.pending := by
  simp [writeCursor]

theorem execCursorBaseWrite_keeps (a0 : BitVec 32) (s : State) : ∃ t, execCursorBaseWrite a0 s = .next t ∧ t.cfg = s.cfg ∧ t.pending = s.pending := by
  unfold execCursorBaseWrite; refine ⟨_, rfl, ?_⟩; simp

@[simp] theorem effReadRecords_keeps (a0 : Sys2Proof.Cmd) (s : State) : (effReadRecords a0 s).cfg = s.cfg ∧ (effReadRecords a0 s).pending = s.pending := by
  simp [effReadRecords]

theorem execReadRecords_keeps (a0 : Sys2Proof.Cmd) (s : State) : ∃ t, execReadRecords a0 s = .next t ∧ t.cfg = s.cfg ∧ t.pending = s.pending := by
  unfold execReadRecords; refine ⟨_, rfl, ?_⟩; simp

@[simp] theorem effTakeSnapshot_keeps (a0 : Sys2Proof.Cmd) (s : State) : (effTakeSnapshot a0 s).cfg = s.cfg ∧ (effTakeSnapshot a0 s).pending = s.pending := by
  simp [effTakeSnapshot]

theorem execTakeSnapshot_keeps (a0 : Sys2Proof.Cmd) (s : State) : ∃ t, execTakeSnapshot a0 s = .next t ∧ t.cfg = s.cfg ∧ t.pending = s.pending := by
  unfold execTakeSnapshot; refine ⟨_, rfl, ?_⟩; simp

@[simp] theorem forwardStore_keeps (s : State) (a1 : ℕ) (a2 : ℕ) (a3 : List Sys2Proof.Byte) : (forwardStore s a1 a2 a3).cfg = s.cfg ∧ (forwardStore s a1 a2 a3).pending = s.pending := by
  simp [forwardStore]

@[simp] theorem countStore_keeps (s : State) : (countStore s).cfg = s.cfg ∧ (countStore s).pending = s.pending := by
  simp [countStore]

@[simp] theorem effStoreSlot_keeps (a0 : Sys2Proof.Cmd) (s : State) : (effStoreSlot a0 s).cfg = s.cfg ∧ (effStoreSlot a0 s).pending = s.pending := by
  unfold effStoreSlot; dsimp only; repeat' split
  all_goals simp

theorem execStoreSlot_keeps (a0 : Sys2Proof.Cmd) (s : State) : ∃ t, execStoreSlot a0 s = .next t ∧ t.cfg = s.cfg ∧ t.pending = s.pending := by
  unfold execStoreSlot; refine ⟨_, rfl, ?_⟩; simp

@[simp] theorem effReadSlot_keeps (a0 : Sys2Proof.Cmd) (s : State) : (effReadSlot a0 s).cfg = s.cfg ∧ (effReadSlot a0 s).pending = s.pending := by
  simp [effReadSlot]

theorem execReadSlot_keeps (a0 : Sys2Proof.Cmd) (s : State) : ∃ t, execReadSlot a0 s = .next t ∧ t.cfg = s.cfg ∧ t.pending = s.pending := by
  unfold execReadSlot; refine ⟨_, rfl, ?_⟩; simp

@[simp] theorem effBeginShadow_keeps (a0 : Sys2Proof.Cmd) (s : State) : (effBeginShadow a0 s).cfg = s.cfg ∧ (effBeginShadow a0 s).pending = s.pending := by
  simp [effBeginShadow]

theorem execBeginShadow_keeps (a0 : Sys2Proof.Cmd) (s : State) : ∃ t, execBeginShadow a0 s = .next t ∧ t.cfg = s.cfg ∧ t.pending = s.pending := by
  unfold execBeginShadow; refine ⟨_, rfl, ?_⟩; simp

@[simp] theorem effSwitchTable_keeps (a0 : Sys2Proof.Cmd) (s : State) : (effSwitchTable a0 s).cfg = s.cfg ∧ (effSwitchTable a0 s).pending = s.pending := by
  simp [effSwitchTable]

theorem execSwitchTable_keeps (a0 : Sys2Proof.Cmd) (s : State) : ∃ t, execSwitchTable a0 s = .next t ∧ t.cfg = s.cfg ∧ t.pending = s.pending := by
  unfold execSwitchTable; refine ⟨_, rfl, ?_⟩; simp

@[simp] theorem tableFires_keeps (s : State) : (tableFires s).cfg = s.cfg ∧ (tableFires s).pending = s.pending := by
  unfold tableFires; dsimp only; repeat' split
  all_goals simp

@[simp] theorem takeStore_keeps (s : State) (a1 : ℕ) (a2 : ℕ) (a3 : List Sys2Proof.Byte) : (takeStore s a1 a2 a3).cfg = s.cfg ∧ (takeStore s a1 a2 a3).pending = s.pending := by
  unfold takeStore; dsimp only; repeat' split
  all_goals simp

@[simp] theorem storeChange_keeps (a0 : ℕ) (a1 : ℕ) (a2 : List Sys2Proof.Byte) (s : State) : (storeChange a0 a1 a2 s).cfg = s.cfg ∧ (storeChange a0 a1 a2 s).pending = s.pending := by
  simp [storeChange]

theorem execStoreResynchronised_keeps (a0 : Fin 4) (a1 : BitVec 32) (a2 : List (ℕ × List (BitVec 8))) (s : State) : ∃ t, execStoreResynchronised a0 a1 a2 s = .next t ∧ t.cfg = s.cfg ∧ t.pending = s.pending := by
  unfold execStoreResynchronised; refine ⟨_, rfl, ?_⟩; simp

@[simp] theorem checkFailed_keeps (s : State) (a1 : Option (ℕ × AuthSlot)) : (checkFailed s a1).cfg = s.cfg ∧ (checkFailed s a1).pending = s.pending := by
  unfold checkFailed; dsimp only; repeat' split
  all_goals simp

@[simp] theorem acceptCard_keeps (s : State) (a1 : Fin 128) (a2 : AuthSlot) : (acceptCard s a1 a2).cfg = s.cfg ∧ (acceptCard s a1 a2).pending = s.pending := by
  simp [acceptCard]

@[simp] theorem reportCard_keeps (s : State) (a1 : Fin 128) (a2 : Option (ℕ × BitVec 160)) (a3 : ℕ) (a4 : Option (ℕ × AuthSlot)) : (reportCard s a1 a2 a3 a4).cfg = s.cfg ∧ (reportCard s a1 a2 a3 a4).pending = s.pending := by
  simp [reportCard]

@[simp] theorem decideCard_keeps (s : State) (a1 : Fin 128) (a2 : ℕ) (a3 : List Sys2Proof.Byte) : (decideCard s a1 a2 a3).cfg = s.cfg ∧ (decideCard s a1 a2 a3).pending = s.pending := by
  unfold decideCard; dsimp only; repeat' split
  all_goals simp

@[simp] theorem identified_keeps (s : State) (a1 : Fin 128) (a2 : ℕ) (a3 : List Sys2Proof.Byte) : (identified s a1 a2 a3).cfg = s.cfg ∧ (identified s a1 a2 a3).pending = s.pending := by
  simp [identified]

theorem execIndexBuilt_keeps (s : State) : ∃ t, execIndexBuilt s = .next t ∧ t.cfg = s.cfg ∧ t.pending = s.pending := by
  unfold execIndexBuilt; refine ⟨_, rfl, ?_⟩; simp

@[simp] theorem tagReadEvent_keeps (s : State) (a1 : Fin 128) (a2 : Bool) (a3 : optParam (Option Sys2Proof.Cmd) none) : (tagReadEvent s a1 a2 a3).cfg = s.cfg ∧ (tagReadEvent s a1 a2 a3).pending = s.pending := by
  simp [tagReadEvent]

@[simp] theorem setCable_keeps (s : State) (a1 : Fin 128) (a2 : Bool) (a3 : optParam (Option Sys2Proof.Cmd) none) : (setCable s a1 a2 a3).cfg = s.cfg ∧ (setCable s a1 a2 a3).pending = s.pending := by
  simp [setCable]

@[simp] theorem State.onTx_keeps (s : State) (a1 : Fin 16) (a2 : Transaction → Transaction) : (State.onTx s a1 a2).cfg = s.cfg ∧ (State.onTx s a1 a2).pending = s.pending := by
  simp [State.onTx]

@[simp] theorem tagSend_keeps (s : State) (a1 : Fin 16) (a2 : Fin 128) (a3 : TxStep) (a4 : ℕ) (a5 : List Sys2Proof.Byte) : (tagSend s a1 a2 a3 a4 a5).cfg = s.cfg ∧ (tagSend s a1 a2 a3 a4 a5).pending = s.pending := by
  simp [tagSend]

@[simp] theorem tagSendAuth_keeps (s : State) (a1 : Fin 16) (a2 : Transaction) (a3 : TxStep) (a4 : ℕ) (a5 : List Sys2Proof.Byte) (a6 : Bool) : (tagSendAuth s a1 a2 a3 a4 a5 a6).cfg = s.cfg ∧ (tagSendAuth s a1 a2 a3 a4 a5 a6).pending = s.pending := by
  simp [tagSendAuth]

@[simp] theorem finishTx_keeps (s : State) (a1 : Fin 16) : (finishTx s a1).cfg = s.cfg ∧ (finishTx s a1).pending = s.pending := by
  unfold finishTx; dsimp only; repeat' split
  all_goals simp

@[simp] theorem afterTag_keeps (s : State) (a1 : Fin 16) : (afterTag s a1).cfg = s.cfg ∧ (afterTag s a1).pending = s.pending := by
  unfold afterTag; repeat' split
  all_goals simp

theorem execEngineGrant_keeps (a0 : Fin 16) (s : State) : ∃ t, execEngineGrant a0 s = .next t ∧ t.cfg = s.cfg ∧ t.pending = s.pending := by
  unfold execEngineGrant; refine ⟨_, rfl, ?_⟩; dsimp only; repeat' split
  all_goals simp

@[simp] theorem confirmWrite_keeps (s : State) (a1 : Fin 128) (a2 : BitVec 32) (a3 : ℕ) : (confirmWrite s a1 a2 a3).cfg = s.cfg ∧ (confirmWrite s a1 a2 a3).pending = s.pending := by
  simp [confirmWrite]

@[simp] theorem writeCollapsed_keeps (s : State) (a1 : Fin 128) (a2 : ℕ) (a3 : BitVec 32) : (writeCollapsed s a1 a2 a3).cfg = s.cfg ∧ (writeCollapsed s a1 a2 a3).pending = s.pending := by
  simp [writeCollapsed]

@[simp] theorem collapseTx_keeps (s : State) (a1 : Fin 16) (a2 : Transaction) : (collapseTx s a1 a2).cfg = s.cfg ∧ (collapseTx s a1 a2).pending = s.pending := by
  unfold collapseTx; dsimp only; repeat' split
  all_goals simp

@[simp] theorem authFail_keeps (s : State) (a1 : Fin 16) (a2 : Fin 128) (a3 : ℕ) (a4 : BitVec 64) : (authFail s a1 a2 a3 a4).cfg = s.cfg ∧ (authFail s a1 a2 a3 a4).pending = s.pending := by
  simp [authFail]

@[simp] theorem quietTag_keeps (s : State) (a1 : Fin 16) (a2 : Transaction) : (quietTag s a1 a2).cfg = s.cfg ∧ (quietTag s a1 a2).pending = s.pending := by
  simp [quietTag]

@[simp] theorem settleMates_keeps (s : State) (a1 : Fin 128) (a2 : Option Bank) : (settleMates s a1 a2).cfg = s.cfg ∧ (settleMates s a1 a2).pending = s.pending := by
  unfold settleMates; dsimp only; repeat' split
  all_goals simp

@[simp] theorem startWrite_keeps (s : State) (a1 : Fin 16) (a2 : Transaction) (a3 : Option Bank) : (startWrite s a1 a2 a3).cfg = s.cfg ∧ (startWrite s a1 a2 a3).pending = s.pending := by
  simp [startWrite]

@[simp] theorem completeRead_keeps (s : State) (a1 : Fin 16) (a2 : Transaction) (a3 : BitVec 16) : (completeRead s a1 a2 a3).cfg = s.cfg ∧ (completeRead s a1 a2 a3).pending = s.pending := by
  simp [completeRead]

@[simp] theorem takeFactory_keeps (s : State) (a1 : Transaction) (a2 : List Sys2Proof.Byte) : (takeFactory s a1 a2).cfg = s.cfg ∧ (takeFactory s a1 a2).pending = s.pending := by
  simp [takeFactory]

@[simp] theorem tagAuth2_keeps (s : State) (a1 : Fin 16) (a2 : Transaction) (a3 : List Sys2Proof.Byte) : (tagAuth2 s a1 a2 a3).cfg = s.cfg ∧ (tagAuth2 s a1 a2 a3).pending = s.pending := by
  simp [tagAuth2]

@[simp] theorem tagAuth1_keeps (s : State) (a1 : Fin 16) (a2 : Transaction) (a3 : List Sys2Proof.Byte) : (tagAuth1 s a1 a2 a3).cfg = s.cfg ∧ (tagAuth1 s a1 a2 a3).pending = s.pending := by
  unfold tagAuth1; dsimp only; repeat' split
  all_goals simp

@[simp] theorem writeReply_keeps (s : State) (a1 : Fin 16) (a2 : Transaction) (a3 : List Sys2Proof.Byte) : (writeReply s a1 a2 a3).cfg = s.cfg ∧ (writeReply s a1 a2 a3).pending = s.pending := by
  unfold writeReply; dsimp only; repeat' split
  all_goals simp

@[simp] theorem readReply_keeps (s : State) (a1 : Fin 16) (a2 : Transaction) (a3 : List Sys2Proof.Byte) : (readReply s a1 a2 a3).cfg = s.cfg ∧ (readReply s a1 a2 a3).pending = s.pending := by
  unfold readReply; repeat' split
  all_goals simp

@[simp] theorem tagReply_keeps (s : State) (a1 : Fin 16) (a2 : Transaction) (a3 : List Sys2Proof.Byte) : (tagReply s a1 a2 a3).cfg = s.cfg ∧ (tagReply s a1 a2 a3).pending = s.pending := by
  unfold tagReply; dsimp only; repeat' split
  all_goals simp

theorem execTagReply_keeps (a0 : Fin 16) (a1 : List (BitVec 8)) (s : State) : ∃ t, execTagReply a0 a1 s = .next t ∧ t.cfg = s.cfg ∧ t.pending = s.pending := by
  unfold execTagReply; refine ⟨_, rfl, ?_⟩; dsimp only; repeat' split
  all_goals simp

@[simp] theorem cardOutcome_keeps (s : State) (a1 : Fin 16) (a2 : Fin 128) (a3 : ℕ) : (cardOutcome s a1 a2 a3).cfg = s.cfg ∧ (cardOutcome s a1 a2 a3).pending = s.pending := by
  simp [cardOutcome]

@[simp] theorem cardIs_keeps (s : State) (a1 : Fin 16) (a2 : Fin 128) (a3 : ℕ) (a4 : List Sys2Proof.Byte) : (cardIs s a1 a2 a3 a4).cfg = s.cfg ∧ (cardIs s a1 a2 a3 a4).pending = s.pending := by
  simp [cardIs]

@[simp] theorem beginExchange_keeps (s : State) (a1 : Fin 16) (a2 : Transaction) : (beginExchange s a1 a2).cfg = s.cfg ∧ (beginExchange s a1 a2).pending = s.pending := by
  simp [beginExchange]

@[simp] theorem cardPolled_keeps (s : State) (a1 : Fin 16) (a2 : Transaction) (a3 : ℕ) (a4 : List Sys2Proof.Byte) (a5 : Bool) : (cardPolled s a1 a2 a3 a4 a5).cfg = s.cfg ∧ (cardPolled s a1 a2 a3 a4 a5).pending = s.pending := by
  simp [cardPolled]

@[simp] theorem cardKeyed_keeps (s : State) (a1 : Fin 16) (a2 : Transaction) (a3 : List Sys2Proof.Byte) (a4 : List Sys2Proof.Byte) : (cardKeyed s a1 a2 a3 a4).cfg = s.cfg ∧ (cardKeyed s a1 a2 a3 a4).pending = s.pending := by
  unfold cardKeyed; dsimp only; repeat' split
  all_goals simp

theorem execCardResponse_keeps (a0 : Fin 16) (a1 : Sys2Proof.CardAnswer) (s : State) : ∃ t, execCardResponse a0 a1 s = .next t ∧ t.cfg = s.cfg ∧ t.pending = s.pending := by
  unfold execCardResponse; repeat' split
  all_goals (refine ⟨_, rfl, ?_⟩; simp)

@[simp] theorem noAnswer_keeps (s : State) (a1 : Fin 16) (a2 : Transaction) : (noAnswer s a1 a2).cfg = s.cfg ∧ (noAnswer s a1 a2).pending = s.pending := by
  unfold noAnswer; repeat' split
  all_goals simp

theorem execFieldCollapse_keeps (a0 : Fin 16) (s : State) : ∃ t, execFieldCollapse a0 s = .next t ∧ t.cfg = s.cfg ∧ t.pending = s.pending := by
  unfold execFieldCollapse; refine ⟨_, rfl, ?_⟩; dsimp only; repeat' split
  all_goals simp

theorem execTransactionTimeout_keeps (a0 : Fin 16) (s : State) : ∃ t, execTransactionTimeout a0 s = .next t ∧ t.cfg = s.cfg ∧ t.pending = s.pending := by
  unfold execTransactionTimeout; refine ⟨_, rfl, ?_⟩; dsimp only; repeat' split
  all_goals simp

theorem execPing_keeps (a0 : Fin 128) (s : State) : ∃ t, execPing a0 s = .next t ∧ t.cfg = s.cfg ∧ t.pending = s.pending := by
  unfold execPing; refine ⟨_, rfl, ?_⟩; simp

theorem execTagPoll_keeps (a0 : Fin 128) (s : State) : ∃ t, execTagPoll a0 s = .next t ∧ t.cfg = s.cfg ∧ t.pending = s.pending := by
  unfold execTagPoll; refine ⟨_, rfl, ?_⟩; simp

theorem execRequestWaitLong_keeps (a0 : Fin 128) (s : State) : ∃ t, execRequestWaitLong a0 s = .next t ∧ t.cfg = s.cfg ∧ t.pending = s.pending := by
  unfold execRequestWaitLong; refine ⟨_, rfl, ?_⟩; dsimp only; repeat' split
  all_goals simp

theorem execTagAgeExpiry_keeps (a0 : Fin 128) (s : State) : ∃ t, execTagAgeExpiry a0 s = .next t ∧ t.cfg = s.cfg ∧ t.pending = s.pending := by
  unfold execTagAgeExpiry; refine ⟨_, rfl, ?_⟩; simp

@[simp] theorem effBindCable_keeps (a0 : Sys2Proof.Cmd) (s : State) : (effBindCable a0 s).cfg = s.cfg ∧ (effBindCable a0 s).pending = s.pending := by
  simp [effBindCable]

theorem execBindCable_keeps (a0 : Sys2Proof.Cmd) (s : State) : ∃ t, execBindCable a0 s = .next t ∧ t.cfg = s.cfg ∧ t.pending = s.pending := by
  unfold execBindCable; refine ⟨_, rfl, ?_⟩; simp

@[simp] theorem effReadTag_keeps (a0 : Sys2Proof.Cmd) (s : State) : (effReadTag a0 s).cfg = s.cfg ∧ (effReadTag a0 s).pending = s.pending := by
  simp [effReadTag]

theorem execReadTag_keeps (a0 : Sys2Proof.Cmd) (s : State) : ∃ t, execReadTag a0 s = .next t ∧ t.cfg = s.cfg ∧ t.pending = s.pending := by
  unfold execReadTag; refine ⟨_, rfl, ?_⟩; simp

@[simp] theorem writeAutCfg_pending (s : State) (v : Word) : (writeAutCfg s v).pending = s.pending := by
  unfold writeAutCfg; (try dsimp only); repeat' split
  all_goals simp

@[simp] theorem writeAut_pending (s : State) (off : Nat) (v : Word) : (writeAut s off v).pending = s.pending := by
  unfold writeAut; (try dsimp only); repeat' split
  all_goals simp

@[simp] theorem State.onNode_keeps (s : State) (a1 : Fin 64) (a2 : KiteNode → KiteNode) : (State.onNode s a1 a2).cfg = s.cfg ∧ (State.onNode s a1 a2).pending = s.pending := by
  simp [State.onNode]

@[simp] theorem sendKey_keeps (s : State) : (sendKey s).2.cfg = s.cfg ∧ (sendKey s).2.pending = s.pending := by
  unfold sendKey
  refine foldl_inv (fun (a : Option (BitVec 128) × State) => a.2.cfg = s.cfg ∧ a.2.pending = s.pending) _ _ _ ⟨rfl, rfl⟩ fun a x h => ?_
  · split
    · exact h
    · dsimp only
      have k := useKey_keeps a.2 x
      first
      | exact ⟨k.1.trans h.1, k.2.trans h.2⟩
      | (split <;> exact ⟨k.1.trans h.1, k.2.trans h.2⟩)

@[simp] theorem syncOutbox_keeps (s : State) : (syncOutbox s).cfg = s.cfg ∧ (syncOutbox s).pending = s.pending := by
  simp [syncOutbox]

@[simp] theorem State.onOutbox_keeps (s : State) (a1 : List KiteOut → List KiteOut) : (State.onOutbox s a1).cfg = s.cfg ∧ (State.onOutbox s a1).pending = s.pending := by
  simp [State.onOutbox]

@[simp] theorem kiteQueue_keeps (s : State) (a1 : ℕ) (a2 : ℕ) (a3 : Fin 64) (a4 : Bool) (a5 : Bool) (a6 : List Sys2Proof.Byte) : (kiteQueue s a1 a2 a3 a4 a5 a6).cfg = s.cfg ∧ (kiteQueue s a1 a2 a3 a4 a5 a6).pending = s.pending := by
  simp [kiteQueue]

@[simp] theorem countFcnt_keeps (s : State) : (countFcnt s).cfg = s.cfg ∧ (countFcnt s).pending = s.pending := by
  simp [countFcnt]

@[simp] theorem transmit_keeps (s : State) (a1 : Sys2Proof.KiteFrame) : (transmit s a1).cfg = s.cfg ∧ (transmit s a1).pending = s.pending := by
  unfold transmit; dsimp only; repeat' split
  all_goals simp

@[simp] theorem sendAck_keeps (s : State) (a1 : Sys2Proof.KiteFrame) (a2 : ℕ) : (sendAck s a1 a2).cfg = s.cfg ∧ (sendAck s a1 a2).pending = s.pending := by
  simp [sendAck]

@[simp] theorem failProbe_keeps (s : State) (a1 : Sys2Proof.KiteFrame) : (failProbe s a1).cfg = s.cfg ∧ (failProbe s a1).pending = s.pending := by
  simp [failProbe]

@[simp] theorem dominoEvent_keeps (s : State) (a1 : ℕ) (a2 : BitVec 32) (a3 : Fin 64) (a4 : ℕ) : (dominoEvent s a1 a2 a3 a4).cfg = s.cfg ∧ (dominoEvent s a1 a2 a3 a4).pending = s.pending := by
  simp [dominoEvent]

@[simp] theorem pauseDomino_keeps (s : State) : (pauseDomino s).cfg = s.cfg ∧ (pauseDomino s).pending = s.pending := by
  unfold pauseDomino; dsimp only; repeat' split
  all_goals simp

@[simp] theorem abandon_keeps (s : State) (a1 : Sys2Proof.KiteFrame) : (abandon s a1).cfg = s.cfg ∧ (abandon s a1).pending = s.pending := by
  simp [abandon]

@[simp] theorem slotStart_keeps (s : State) (a1 : BitVec 2) : (slotStart s a1).2.cfg = s.cfg ∧ (slotStart s a1).2.pending = s.pending := by
  unfold slotStart; dsimp only; repeat' split
  all_goals simp

@[simp] theorem startKite_keeps (s : State) (a1 : KiteOut) : (startKite s a1).cfg = s.cfg ∧ (startKite s a1).pending = s.pending := by
  simp [startKite]

theorem execContentionSlot_keeps (s : State) : ∃ t, execContentionSlot s = .next t ∧ t.cfg = s.cfg ∧ t.pending = s.pending := by
  unfold execContentionSlot; refine ⟨_, rfl, ?_⟩; dsimp only; repeat' split
  all_goals simp

@[simp] theorem routeEvent_keeps (s : State) (a1 : Fin 64) (a2 : Option (Fin 64)) (a3 : Option (Fin 64)) (a4 : ℕ) : (routeEvent s a1 a2 a3 a4).cfg = s.cfg ∧ (routeEvent s a1 a2 a3 a4).pending = s.pending := by
  simp [routeEvent]

@[simp] theorem rerouteOne_keeps (s : State) (a1 : Fin 64) : (rerouteOne s a1).cfg = s.cfg ∧ (rerouteOne s a1).pending = s.pending := by
  unfold rerouteOne; dsimp only; repeat' split
  all_goals simp

@[simp] theorem settleRotation_keeps (s : State) : (settleRotation s).cfg = s.cfg ∧ (settleRotation s).pending = s.pending := by
  simp [settleRotation]

@[simp] theorem reroute_keeps (s : State) : (reroute s).cfg = s.cfg ∧ (reroute s).pending = s.pending := by
  simp [reroute]

@[simp] theorem sendHello_keeps (s : State) : (sendHello s).cfg = s.cfg ∧ (sendHello s).pending = s.pending := by
  simp [sendHello]

theorem execHelloTimer_keeps (s : State) : ∃ t, execHelloTimer s = .next t ∧ t.cfg = s.cfg ∧ t.pending = s.pending := by
  unfold execHelloTimer; refine ⟨_, rfl, ?_⟩; simp

@[simp] theorem neighbourEvent_keeps (s : State) (a1 : Fin 64) (a2 : ℕ) : (neighbourEvent s a1 a2).cfg = s.cfg ∧ (neighbourEvent s a1 a2).pending = s.pending := by
  simp [neighbourEvent]

theorem execNeighbourLost_keeps (a0 : Fin 64) (s : State) : ∃ t, execNeighbourLost a0 s = .next t ∧ t.cfg = s.cfg ∧ t.pending = s.pending := by
  unfold execNeighbourLost; refine ⟨_, rfl, ?_⟩; simp

theorem execTimeBroadcast_keeps (s : State) : ∃ t, execTimeBroadcast s = .next t ∧ t.cfg = s.cfg ∧ t.pending = s.pending := by
  unfold execTimeBroadcast; refine ⟨_, rfl, ?_⟩; simp

theorem execNodeReplacement_keeps (a0 : Fin 64) (s : State) : ∃ t, execNodeReplacement a0 s = .next t ∧ t.cfg = s.cfg ∧ t.pending = s.pending := by
  unfold execNodeReplacement; refine ⟨_, rfl, ?_⟩; dsimp only; repeat' split
  all_goals simp

@[simp] theorem penaltyEvent_keeps (s : State) (a1 : Fin 64) (a2 : ℕ) : (penaltyEvent s a1 a2).cfg = s.cfg ∧ (penaltyEvent s a1 a2).pending = s.pending := by
  simp [penaltyEvent]

@[simp] theorem missAck_keeps (s : State) (a1 : Fin 64) : (missAck s a1).cfg = s.cfg ∧ (missAck s a1).pending = s.pending := by
  simp [missAck]

@[simp] theorem gotAck_keeps (s : State) (a1 : Fin 64) (a2 : ℕ) : (gotAck s a1 a2).cfg = s.cfg ∧ (gotAck s a1 a2).pending = s.pending := by
  simp [gotAck]

theorem execAckTimeout_keeps (s : State) : ∃ t, execAckTimeout s = .next t ∧ t.cfg = s.cfg ∧ t.pending = s.pending := by
  unfold execAckTimeout; refine ⟨_, rfl, ?_⟩; dsimp only; repeat' split
  all_goals simp

@[simp] theorem noteReport_keeps (s : State) (a1 : Fin 64) (a2 : ℕ) (a3 : Limits × Limits × Limits) : (noteReport s a1 a2 a3).cfg = s.cfg ∧ (noteReport s a1 a2 a3).pending = s.pending := by
  simp [noteReport]

@[simp] theorem sendGrant_keeps (s : State) (a1 : ℕ) (a2 : Fin 64) (a3 : ℕ) (a4 : Limits) : (sendGrant s a1 a2 a3 a4).cfg = s.cfg ∧ (sendGrant s a1 a2 a3 a4).pending = s.pending := by
  simp [sendGrant]

@[simp] theorem masterRound_keeps (s : State) (a1 : ℕ) : (masterRound s a1).cfg = s.cfg ∧ (masterRound s a1).pending = s.pending := by
  simp [masterRound]

@[simp] theorem kiteReport_keeps (s : State) (a1 : ℕ) : (kiteReport s a1).cfg = s.cfg ∧ (kiteReport s a1).pending = s.pending := by
  unfold kiteReport; dsimp only; repeat' split
  all_goals simp

@[simp] theorem kiteFires_keeps (s : State) : (kiteFires s).cfg = s.cfg ∧ (kiteFires s).pending = s.pending := by
  unfold kiteFires; dsimp only; repeat' split
  all_goals simp

@[simp] theorem effProbeNode_keeps (a0 : Sys2Proof.Cmd) (s : State) : (effProbeNode a0 s).cfg = s.cfg ∧ (effProbeNode a0 s).pending = s.pending := by
  simp [effProbeNode]

theorem execProbeNode_keeps (a0 : Sys2Proof.Cmd) (s : State) : ∃ t, execProbeNode a0 s = .next t ∧ t.cfg = s.cfg ∧ t.pending = s.pending := by
  unfold execProbeNode; refine ⟨_, rfl, ?_⟩; simp

@[simp] theorem effClearPenalty_keeps (a0 : Sys2Proof.Cmd) (s : State) : (effClearPenalty a0 s).cfg = s.cfg ∧ (effClearPenalty a0 s).pending = s.pending := by
  simp [effClearPenalty]

theorem execClearPenalty_keeps (a0 : Sys2Proof.Cmd) (s : State) : ∃ t, execClearPenalty a0 s = .next t ∧ t.cfg = s.cfg ∧ t.pending = s.pending := by
  unfold execClearPenalty; refine ⟨_, rfl, ?_⟩; simp

@[simp] theorem writeKitCfg_keeps (s : State) (a1 : Sys2Proof.Word) : (writeKitCfg s a1).cfg = s.cfg ∧ (writeKitCfg s a1).pending = s.pending := by
  simp [writeKitCfg]

@[simp] theorem writeKit_keeps (s : State) (a1 : ℕ) (a2 : Sys2Proof.Word) : (writeKit s a1 a2).cfg = s.cfg ∧ (writeKit s a1 a2).pending = s.pending := by
  simp [writeKit]

theorem execKitCfgLock_keeps (a0 : BitVec 32) (s : State) : ∃ t, execKitCfgLock a0 s = .next t ∧ t.cfg = s.cfg ∧ t.pending = s.pending := by
  unfold execKitCfgLock; refine ⟨_, rfl, ?_⟩; simp

@[simp] theorem dueTimers_keeps (s : State) (a1 : Fin 128) : (dueTimers s a1).cfg = s.cfg ∧ (dueTimers s a1).pending = s.pending := by
  unfold dueTimers
  refine ⟨(foldl_keeps _ _ _ fun s x => ?_).1.trans ?_, (foldl_keeps _ _ _ fun s x => ?_).2.trans ?_⟩
  all_goals (try dsimp only); repeat' split
  all_goals simp

@[simp] theorem resumeCtx_keeps (s : State) (a1 : Fin 128) (a2 : CtxJournal) : (resumeCtx s a1 a2).cfg = s.cfg ∧ (resumeCtx s a1 a2).pending = s.pending := by
  unfold resumeCtx; dsimp only; repeat' split
  all_goals simp

@[simp] theorem mismatchCtx_keeps (s : State) (a1 : Fin 128) (a2 : CtxJournal) : (mismatchCtx s a1 a2).cfg = s.cfg ∧ (mismatchCtx s a1 a2).pending = s.pending := by
  simp [mismatchCtx]

@[simp] theorem reloadCtx_keeps (s : State) (a1 : Fin 128) : (reloadCtx s a1).cfg = s.cfg ∧ (reloadCtx s a1).pending = s.pending := by
  simp [reloadCtx]

@[simp] theorem adoptCtx_keeps (s : State) (a1 : Fin 128) : (adoptCtx s a1).cfg = s.cfg ∧ (adoptCtx s a1).pending = s.pending := by
  simp [adoptCtx]

theorem execDownlinkFrame_keeps (a0 : Fin 128) (a1 : BitVec 13) (s : State) : ∃ t, execDownlinkFrame a0 a1 s = .next t ∧ t.cfg = s.cfg ∧ t.pending = s.pending := by
  unfold execDownlinkFrame; refine ⟨_, rfl, ?_⟩; simp

@[simp] theorem toPeers_keeps (s : State) (a1 : Sys2Proof.TieMsg) : (toPeers s a1).cfg = s.cfg ∧ (toPeers s a1).pending = s.pending := by
  simp [toPeers]

@[simp] theorem toPartner_keeps (s : State) (a1 : Sys2Proof.TieMsg) : (toPartner s a1).cfg = s.cfg ∧ (toPartner s a1).pending = s.pending := by
  simp [toPartner]

@[simp] theorem State.onTiePort_keeps (s : State) (a1 : Fin 4) (a2 : TiePort → TiePort) : (State.onTiePort s a1 a2).cfg = s.cfg ∧ (State.onTiePort s a1 a2).pending = s.pending := by
  simp [State.onTiePort]

@[simp] theorem tiePortEvent_keeps (s : State) (a1 : Fin 4) (a2 : ℕ) (a3 : BitVec 64) : (tiePortEvent s a1 a2 a3).cfg = s.cfg ∧ (tiePortEvent s a1 a2 a3).pending = s.pending := by
  simp [tiePortEvent]

@[simp] theorem setMember_keeps (s : State) (a1 : BitVec 2) (a2 : Bool) : (setMember s a1 a2).cfg = s.cfg ∧ (setMember s a1 a2).pending = s.pending := by
  simp [setMember]

@[simp] theorem dropFrames_keeps (s : State) : (dropFrames s).cfg = s.cfg ∧ (dropFrames s).pending = s.pending := by
  simp [dropFrames]

@[simp] theorem setRole_keeps (s : State) (a1 : PairRole) (a2 : ℕ) : (setRole s a1 a2).cfg = s.cfg ∧ (setRole s a1 a2).pending = s.pending := by
  simp [setRole]

@[simp] theorem portDown_keeps (s : State) (a1 : Fin 4) : (portDown s a1).cfg = s.cfg ∧ (portDown s a1).pending = s.pending := by
  simp [portDown]

theorem execTiePortDown_keeps (a0 : Fin 4) (s : State) : ∃ t, execTiePortDown a0 s = .next t ∧ t.cfg = s.cfg ∧ t.pending = s.pending := by
  unfold execTiePortDown; refine ⟨_, rfl, ?_⟩; simp

@[simp] theorem takeCycle_keeps (s : State) (a1 : ℕ) : (takeCycle s a1).cfg = s.cfg ∧ (takeCycle s a1).pending = s.pending := by
  simp [takeCycle]

@[simp] theorem tiePortUp_keeps (a0 : Fin 4) (a1 : Sys2Proof.TiePeer) (s : State) : (tiePortUp a0 a1 s).cfg = s.cfg ∧ (tiePortUp a0 a1 s).pending = s.pending := by
  simp [tiePortUp]

@[simp] theorem followTime_keeps (s : State) (a1 : ℕ) (a2 : ℕ) (a3 : Bool) : (followTime s a1 a2 a3).cfg = s.cfg ∧ (followTime s a1 a2 a3).pending = s.pending := by
  simp [followTime]

theorem execMainsTimeTransfer_keeps (s : State) : ∃ t, execMainsTimeTransfer s = .next t ∧ t.cfg = s.cfg ∧ t.pending = s.pending := by
  unfold execMainsTimeTransfer; refine ⟨_, rfl, ?_⟩; simp

@[simp] theorem mirrorIndex_keeps (s : State) (a1 : Fin 57) (a2 : BitVec 32) (a3 : BitVec 32) : (mirrorIndex s a1 a2 a3).cfg = s.cfg ∧ (mirrorIndex s a1 a2 a3).pending = s.pending := by
  simp [mirrorIndex]

@[simp] theorem mirrorCommand_keeps (s : State) (a1 : Fin 16) (a2 : BitVec 32) (a3 : List ℕ) : (mirrorCommand s a1 a2 a3).cfg = s.cfg ∧ (mirrorCommand s a1 a2 a3).pending = s.pending := by
  simp [mirrorCommand]

@[simp] theorem mirrorSession_keeps (s : State) (a1 : ℕ) (a2 : Fin 128) (a3 : List ℕ) : (mirrorSession s a1 a2 a3).cfg = s.cfg ∧ (mirrorSession s a1 a2 a3).pending = s.pending := by
  simp [mirrorSession]

@[simp] theorem mirrorSafety_keeps (s : State) (a1 : List ℕ) : (mirrorSafety s a1).cfg = s.cfg ∧ (mirrorSafety s a1).pending = s.pending := by
  simp [mirrorSafety]

@[simp] theorem mirrorOutlet_keeps (s : State) (a1 : ℕ) (a2 : Fin 128) (a3 : List ℕ) : (mirrorOutlet s a1 a2 a3).cfg = s.cfg ∧ (mirrorOutlet s a1 a2 a3).pending = s.pending := by
  unfold mirrorOutlet; dsimp only; repeat' split
  all_goals simp

@[simp] theorem loadRegs_keeps (s : State) (a1 : Fin 128) (a2 : List ℕ) : (loadRegs s a1 a2).cfg = s.cfg ∧ (loadRegs s a1 a2).pending = s.pending := by
  simp [loadRegs]

@[simp] theorem loadSite_keeps (s : State) (a1 : List ℕ) : (loadSite s a1).cfg = s.cfg ∧ (loadSite s a1).pending = s.pending := by
  simp [loadSite]

@[simp] theorem takeMirror_keeps (s : State) (a1 : ℕ) (a2 : List ℕ) : (takeMirror s a1 a2).cfg = s.cfg ∧ (takeMirror s a1 a2).pending = s.pending := by
  unfold takeMirror; dsimp only; repeat' split
  all_goals simp

@[simp] theorem takeMirrorEvt_keeps (s : State) (a1 : Fin 57) (a2 : Sys2Proof.Event) : (takeMirrorEvt s a1 a2).cfg = s.cfg ∧ (takeMirrorEvt s a1 a2).pending = s.pending := by
  simp [takeMirrorEvt]

@[simp] theorem declareLost_keeps (s : State) (a1 : ℕ) : (declareLost s a1).cfg = s.cfg ∧ (declareLost s a1).pending = s.pending := by
  simp [declareLost]

@[simp] theorem loseStandby_keeps (s : State) : (loseStandby s).cfg = s.cfg ∧ (loseStandby s).pending = s.pending := by
  simp [loseStandby]

theorem execHeartbeatTimeout_keeps (s : State) : ∃ t, execHeartbeatTimeout s = .next t ∧ t.cfg = s.cfg ∧ t.pending = s.pending := by
  unfold execHeartbeatTimeout; refine ⟨_, rfl, ?_⟩; dsimp only; repeat' split
  all_goals simp

@[simp] theorem withdrawalNotice_keeps (s : State) : (withdrawalNotice s).cfg = s.cfg ∧ (withdrawalNotice s).pending = s.pending := by
  unfold withdrawalNotice; repeat' split
  all_goals simp

theorem execWithdrawalNotice_keeps (s : State) : ∃ t, execWithdrawalNotice s = .next t ∧ t.cfg = s.cfg ∧ t.pending = s.pending := by
  unfold execWithdrawalNotice; refine ⟨_, rfl, ?_⟩; simp

theorem execRoleDecision_keeps (s : State) : ∃ t, execRoleDecision s = .next t ∧ t.cfg = s.cfg ∧ t.pending = s.pending := by
  unfold execRoleDecision; refine ⟨_, rfl, ?_⟩; simp

@[simp] theorem splitSession_keeps (s : State) (a1 : MirrorSess) : (splitSession s a1).cfg = s.cfg ∧ (splitSession s a1).pending = s.pending := by
  unfold splitSession; dsimp only; repeat' split
  all_goals simp

@[simp] theorem adoptRing_keeps (s : State) (a1 : Fin 57) : (adoptRing s a1).cfg = s.cfg ∧ (adoptRing s a1).pending = s.pending := by
  unfold adoptRing; dsimp only; repeat' split
  all_goals simp

@[simp] theorem loseFrames_keeps (s : State) : (loseFrames s).cfg = s.cfg ∧ (loseFrames s).pending = s.pending := by
  simp [loseFrames]

@[simp] theorem claimLane_keeps (s : State) (a1 : Fin 128) : (claimLane s a1).cfg = s.cfg ∧ (claimLane s a1).pending = s.pending := by
  simp [claimLane]

@[simp] theorem staleEvent_keeps (s : State) : (staleEvent s).cfg = s.cfg ∧ (staleEvent s).pending = s.pending := by
  simp [staleEvent]

@[simp] theorem adoptAll_keeps (s : State) : (adoptAll s).cfg = s.cfg ∧ (adoptAll s).pending = s.pending := by
  simp [adoptAll]

@[simp] theorem takeoverDone_keeps (s : State) (a1 : BitVec 4) (a2 : ℕ) (a3 : ℕ) : (takeoverDone s a1 a2 a3).cfg = s.cfg ∧ (takeoverDone s a1 a2 a3).pending = s.pending := by
  simp [takeoverDone]

@[simp] theorem helloAfter_keeps (s : State) : (helloAfter s).cfg = s.cfg ∧ (helloAfter s).pending = s.pending := by
  simp [helloAfter]

theorem execTakeover_keeps (s : State) : ∃ t, execTakeover s = .next t ∧ t.cfg = s.cfg ∧ t.pending = s.pending := by
  unfold execTakeover; refine ⟨_, rfl, ?_⟩; dsimp only; repeat' split
  all_goals simp

theorem execForeignEpoch_keeps (a0 : Fin 128) (s : State) : ∃ t, execForeignEpoch a0 s = .next t ∧ t.cfg = s.cfg ∧ t.pending = s.pending := by
  unfold execForeignEpoch; refine ⟨_, rfl, ?_⟩; dsimp only; repeat' split
  all_goals simp

@[simp] theorem sendPower_keeps (s : State) : (sendPower s).cfg = s.cfg ∧ (sendPower s).pending = s.pending := by
  simp [sendPower]

@[simp] theorem closeByPartner_keeps (s : State) :
    (closeByPartner s).cfg = s.cfg ∧ (closeByPartner s).pending = s.pending := by
  unfold closeByPartner
  refine forAll_keeps _ _ _ fun s o => ?_
  dsimp only
  have h := foldl_keeps ((s.bil1 o).session.toList ++ (s.bil1 o).closing)
    (fun s x => recordOnly s false 0x0783 (some o) (p64 x.id)) (s.onBil o fun b => { b with session := none, closing := [] })
    (fun s x => by simp)
  exact ⟨h.1.trans (by simp), h.2.trans (by simp)⟩

@[simp] theorem joinEvent_keeps (s : State) (a1 : ℕ) (a2 : ℕ) : (joinEvent s a1 a2).cfg = s.cfg ∧ (joinEvent s a1 a2).pending = s.pending := by
  simp [joinEvent]

theorem execJoin_keeps (a0 : BitVec 32) (a1 : ℕ) (a2 : List (ℕ × List ℕ)) (s : State) : ∃ t, execJoin a0 a1 a2 s = .next t ∧ t.cfg = s.cfg ∧ t.pending = s.pending := by
  unfold execJoin; refine ⟨_, rfl, ?_⟩; dsimp only; repeat' split
  all_goals simp

@[simp] theorem passOn_keeps (s : State) (a1 : Fin 4) (a2 : Sys2Proof.TieMsg) : (passOn s a1 a2).cfg = s.cfg ∧ (passOn s a1 a2).pending = s.pending := by
  unfold passOn; repeat' split
  all_goals simp

@[simp] theorem takeShare_keeps (s : State) (a1 : ℕ) (a2 : ℕ) (a3 : List Sys2Proof.ShareIn) (a4 : List ℕ) : (takeShare s a1 a2 a3 a4).cfg = s.cfg ∧ (takeShare s a1 a2 a3 a4).pending = s.pending := by
  simp [takeShare]

@[simp] theorem takeBalance_keeps (s : State) (a1 : ℕ) (a2 : ℕ) (a3 : ℤ) (a4 : Bool) : (takeBalance s a1 a2 a3 a4).cfg = s.cfg ∧ (takeBalance s a1 a2 a3 a4).pending = s.pending := by
  simp [takeBalance]

@[simp] theorem takeStandbyEvt_keeps (s : State) (a1 : Sys2Proof.Event) : (takeStandbyEvt s a1).cfg = s.cfg ∧ (takeStandbyEvt s a1).pending = s.pending := by
  simp [takeStandbyEvt]

@[simp] theorem takeBeat_keeps (s : State) (a1 : BitVec 2) (a2 : Bool) : (takeBeat s a1 a2).cfg = s.cfg ∧ (takeBeat s a1 a2).pending = s.pending := by
  simp [takeBeat]

@[simp] theorem takeTie_keeps (s : State) (a1 : Fin 4) (a2 : Sys2Proof.TieMsg) : (takeTie s a1 a2).cfg = s.cfg ∧ (takeTie s a1 a2).pending = s.pending := by
  unfold takeTie; dsimp only; repeat' split
  all_goals simp

@[simp] theorem effHandOver_keeps (a0 : Sys2Proof.Cmd) (s : State) : (effHandOver a0 s).cfg = s.cfg ∧ (effHandOver a0 s).pending = s.pending := by
  simp [effHandOver]

theorem execHandOver_keeps (a0 : Sys2Proof.Cmd) (s : State) : ∃ t, execHandOver a0 s = .next t ∧ t.cfg = s.cfg ∧ t.pending = s.pending := by
  unfold execHandOver; refine ⟨_, rfl, ?_⟩; simp

@[simp] theorem effReadPairState_keeps (a0 : Sys2Proof.Cmd) (s : State) : (effReadPairState a0 s).cfg = s.cfg ∧ (effReadPairState a0 s).pending = s.pending := by
  simp [effReadPairState]

theorem execReadPairState_keeps (a0 : Sys2Proof.Cmd) (s : State) : ∃ t, execReadPairState a0 s = .next t ∧ t.cfg = s.cfg ∧ t.pending = s.pending := by
  unfold execReadPairState; refine ⟨_, rfl, ?_⟩; simp

@[simp] theorem effReadTally_keeps (a0 : Sys2Proof.Cmd) (s : State) : (effReadTally a0 s).cfg = s.cfg ∧ (effReadTally a0 s).pending = s.pending := by
  simp [effReadTally]

theorem execReadTally_keeps (a0 : Sys2Proof.Cmd) (s : State) : ∃ t, execReadTally a0 s = .next t ∧ t.cfg = s.cfg ∧ t.pending = s.pending := by
  unfold execReadTally; refine ⟨_, rfl, ?_⟩; simp

@[simp] theorem effClearTally_keeps (a0 : Sys2Proof.Cmd) (s : State) : (effClearTally a0 s).cfg = s.cfg ∧ (effClearTally a0 s).pending = s.pending := by
  simp [effClearTally]

theorem execClearTally_keeps (a0 : Sys2Proof.Cmd) (s : State) : ∃ t, execClearTally a0 s = .next t ∧ t.cfg = s.cfg ∧ t.pending = s.pending := by
  unfold execClearTally; refine ⟨_, rfl, ?_⟩; simp

@[simp] theorem writeTieCfg_keeps (s : State) (a1 : Sys2Proof.Word) : (writeTieCfg s a1).cfg = s.cfg ∧ (writeTieCfg s a1).pending = s.pending := by
  simp [writeTieCfg]

@[simp] theorem writeTie_keeps (s : State) (a1 : ℕ) (a2 : Sys2Proof.Word) : (writeTie s a1 a2).cfg = s.cfg ∧ (writeTie s a1 a2).pending = s.pending := by
  unfold writeTie; dsimp only; repeat' split
  all_goals simp

theorem execTieCfgLock_keeps (a0 : BitVec 32) (s : State) : ∃ t, execTieCfgLock a0 s = .next t ∧ t.cfg = s.cfg ∧ t.pending = s.pending := by
  unfold execTieCfgLock; refine ⟨_, rfl, ?_⟩; simp

@[simp] theorem State.enterChan_keeps (s : State) (a1 : Fin 32) (a2 : ChanState) : (State.enterChan s a1 a2).cfg = s.cfg ∧ (State.enterChan s a1 a2).pending = s.pending := by
  simp [State.enterChan]

@[simp] theorem measureChan_keeps (s : State) (a1 : Fin 32) : (measureChan s a1).cfg = s.cfg ∧ (measureChan s a1).pending = s.pending := by
  unfold measureChan; dsimp only; repeat' split
  all_goals simp

@[simp] theorem chanEvent_keeps (s : State) (a1 : Fin 32) (a2 : ℕ) (a3 : optParam (Option Sys2Proof.Cmd) none) : (chanEvent s a1 a2 a3).cfg = s.cfg ∧ (chanEvent s a1 a2 a3).pending = s.pending := by
  simp [chanEvent]

@[simp] theorem chanOn_keeps (s : State) (a1 : Fin 32) : (chanOn s a1).cfg = s.cfg ∧ (chanOn s a1).pending = s.pending := by
  simp [chanOn]

@[simp] theorem followDemand_keeps (s : State) (a1 : Fin 32) : (followDemand s a1).cfg = s.cfg ∧ (followDemand s a1).pending = s.pending := by
  unfold followDemand; dsimp only; repeat' split
  all_goals simp

@[simp] theorem countEvent_keeps (s : State) (a1 : Fin 32) (a2 : ℕ) (a3 : ChanState) : (countEvent s a1 a2 a3).cfg = s.cfg ∧ (countEvent s a1 a2 a3).pending = s.pending := by
  simp [countEvent]

@[simp] theorem overCurrent_keeps (s : State) (a1 : Fin 32) : (overCurrent s a1).cfg = s.cfg ∧ (overCurrent s a1).pending = s.pending := by
  simp [overCurrent]

theorem execLimitingChange_keeps (a0 : Fin 32) (a1 : Bool) (s : State) : ∃ t, execLimitingChange a0 a1 s = .next t ∧ t.cfg = s.cfg ∧ t.pending = s.pending := by
  unfold execLimitingChange; repeat' split
  all_goals (refine ⟨_, rfl, ?_⟩; simp)

@[simp] theorem toSpacing_keeps (s : State) (a1 : Fin 32) : (toSpacing s a1).cfg = s.cfg ∧ (toSpacing s a1).pending = s.pending := by
  simp [toSpacing]

theorem execLimitingExpiry_keeps (a0 : Fin 32) (s : State) : ∃ t, execLimitingExpiry a0 s = .next t ∧ t.cfg = s.cfg ∧ t.pending = s.pending := by
  unfold execLimitingExpiry; refine ⟨_, rfl, ?_⟩; simp

@[simp] theorem endSpacing_keeps (s : State) (a1 : Fin 32) : (endSpacing s a1).cfg = s.cfg ∧ (endSpacing s a1).pending = s.pending := by
  simp [endSpacing]

theorem execRetrySpacingEnd_keeps (a0 : Fin 32) (s : State) : ∃ t, execRetrySpacingEnd a0 s = .next t ∧ t.cfg = s.cfg ∧ t.pending = s.pending := by
  unfold execRetrySpacingEnd; refine ⟨_, rfl, ?_⟩; dsimp only; repeat' split
  all_goals simp

theorem execRetryCountReset_keeps (a0 : Fin 32) (s : State) : ∃ t, execRetryCountReset a0 s = .next t ∧ t.cfg = s.cfg ∧ t.pending = s.pending := by
  unfold execRetryCountReset; refine ⟨_, rfl, ?_⟩; simp

@[simp] theorem setBank_keeps (s : State) (a1 : Fin 4) (a2 : ℕ) : (setBank s a1 a2).cfg = s.cfg ∧ (setBank s a1 a2).pending = s.pending := by
  simp [setBank]

theorem execBankUndervoltage_keeps (a0 : Fin 4) (a1 : ℕ) (s : State) : ∃ t, execBankUndervoltage a0 a1 s = .next t ∧ t.cfg = s.cfg ∧ t.pending = s.pending := by
  unfold execBankUndervoltage; refine ⟨_, rfl, ?_⟩; simp

theorem execThermalShutdown_keeps (a0 : Fin 32) (a1 : BitVec 16) (s : State) : ∃ t, execThermalShutdown a0 a1 s = .next t ∧ t.cfg = s.cfg ∧ t.pending = s.pending := by
  unfold execThermalShutdown; refine ⟨_, rfl, ?_⟩; dsimp only; repeat' split
  all_goals simp

theorem execChannelCooled_keeps (a0 : Fin 32) (s : State) : ∃ t, execChannelCooled a0 s = .next t ∧ t.cfg = s.cfg ∧ t.pending = s.pending := by
  unfold execChannelCooled; refine ⟨_, rfl, ?_⟩; simp

@[simp] theorem effSetLoadChannels_keeps (a0 : Sys2Proof.Cmd) (s : State) : (effSetLoadChannels a0 s).cfg = s.cfg ∧ (effSetLoadChannels a0 s).pending = s.pending := by
  simp [effSetLoadChannels]

theorem execSetLoadChannels_keeps (a0 : Sys2Proof.Cmd) (s : State) : ∃ t, execSetLoadChannels a0 s = .next t ∧ t.cfg = s.cfg ∧ t.pending = s.pending := by
  unfold execSetLoadChannels; refine ⟨_, rfl, ?_⟩; simp

@[simp] theorem clearLatch_keeps (a0 : Sys2Proof.Cmd) (s : State) (a2 : Fin 32) : (clearLatch a0 s a2).cfg = s.cfg ∧ (clearLatch a0 s a2).pending = s.pending := by
  simp [clearLatch]

@[simp] theorem effClearLatch_keeps (a0 : Sys2Proof.Cmd) (s : State) : (effClearLatch a0 s).cfg = s.cfg ∧ (effClearLatch a0 s).pending = s.pending := by
  simp [effClearLatch]

theorem execClearLatch_keeps (a0 : Sys2Proof.Cmd) (s : State) : ∃ t, execClearLatch a0 s = .next t ∧ t.cfg = s.cfg ∧ t.pending = s.pending := by
  unfold execClearLatch; refine ⟨_, rfl, ?_⟩; simp

@[simp] theorem State.onEpd_keeps (s : State) (a1 : Epd → Epd) : (State.onEpd s a1).cfg = s.cfg ∧ (State.onEpd s a1).pending = s.pending := by
  simp [State.onEpd]

@[simp] theorem startCommon_keeps (s : State) (a1 : Fin 4) (a2 : Bool) : (startCommon s a1 a2).cfg = s.cfg ∧ (startCommon s a1 a2).pending = s.pending := by
  simp [startCommon]

@[simp] theorem displayEvent_keeps (s : State) (a1 : ℕ) : (displayEvent s a1).cfg = s.cfg ∧ (displayEvent s a1).pending = s.pending := by
  simp [displayEvent]

@[simp] theorem endUpdate_keeps (s : State) : (endUpdate s).cfg = s.cfg ∧ (endUpdate s).pending = s.pending := by
  simp [endUpdate]

@[simp] theorem continueUpdate_keeps (s : State) : (continueUpdate s).cfg = s.cfg ∧ (continueUpdate s).pending = s.pending := by
  unfold continueUpdate; repeat' split
  all_goals simp

@[simp] theorem commonDone_keeps (s : State) (a1 : Fin 4) : (commonDone s a1).cfg = s.cfg ∧ (commonDone s a1).pending = s.pending := by
  simp [commonDone]

@[simp] theorem startUpdate_keeps (s : State) : (startUpdate s).cfg = s.cfg ∧ (startUpdate s).pending = s.pending := by
  simp [startUpdate]

theorem execDisplayUpdate_keeps (s : State) : ∃ t, execDisplayUpdate s = .next t ∧ t.cfg = s.cfg ∧ t.pending = s.pending := by
  unfold execDisplayUpdate; refine ⟨_, rfl, ?_⟩; dsimp only; repeat' split
  all_goals simp

@[simp] theorem interruptDisplay_keeps (s : State) : (interruptDisplay s).cfg = s.cfg ∧ (interruptDisplay s).pending = s.pending := by
  simp [interruptDisplay]

@[simp] theorem resumeDisplay_keeps (s : State) : (resumeDisplay s).cfg = s.cfg ∧ (resumeDisplay s).pending = s.pending := by
  simp [resumeDisplay]

@[simp] theorem loadDisplay_keeps (s : State) : (loadDisplay s).cfg = s.cfg ∧ (loadDisplay s).pending = s.pending := by
  simp [loadDisplay]

theorem execBlink_keeps (s : State) : ∃ t, execBlink s = .next t ∧ t.cfg = s.cfg ∧ t.pending = s.pending := by
  unfold execBlink; refine ⟨_, rfl, ?_⟩; simp

theorem execCrackPulse_keeps (a0 : Bool) (s : State) : ∃ t, execCrackPulse a0 s = .next t ∧ t.cfg = s.cfg ∧ t.pending = s.pending := by
  unfold execCrackPulse; refine ⟨_, rfl, ?_⟩; simp

@[simp] theorem awaitUpdate_keeps (s : State) (a1 : Sys2Proof.Cmd) : (awaitUpdate s a1).cfg = s.cfg ∧ (awaitUpdate s a1).pending = s.pending := by
  simp [awaitUpdate]

@[simp] theorem effWriteOperatorArea_keeps (a0 : Sys2Proof.Cmd) (s : State) : (effWriteOperatorArea a0 s).cfg = s.cfg ∧ (effWriteOperatorArea a0 s).pending = s.pending := by
  simp [effWriteOperatorArea]

theorem execWriteOperatorArea_keeps (a0 : Sys2Proof.Cmd) (s : State) : ∃ t, execWriteOperatorArea a0 s = .next t ∧ t.cfg = s.cfg ∧ t.pending = s.pending := by
  unfold execWriteOperatorArea; refine ⟨_, rfl, ?_⟩; simp

@[simp] theorem effSetLegalView_keeps (a0 : Sys2Proof.Cmd) (s : State) : (effSetLegalView a0 s).cfg = s.cfg ∧ (effSetLegalView a0 s).pending = s.pending := by
  unfold effSetLegalView; repeat' split
  all_goals simp

theorem execSetLegalView_keeps (a0 : Sys2Proof.Cmd) (s : State) : ∃ t, execSetLegalView a0 s = .next t ∧ t.cfg = s.cfg ∧ t.pending = s.pending := by
  unfold execSetLegalView; refine ⟨_, rfl, ?_⟩; simp

@[simp] theorem effRedraw_keeps (a0 : Sys2Proof.Cmd) (s : State) : (effRedraw a0 s).cfg = s.cfg ∧ (effRedraw a0 s).pending = s.pending := by
  simp [effRedraw]

theorem execRedraw_keeps (a0 : Sys2Proof.Cmd) (s : State) : ∃ t, execRedraw a0 s = .next t ∧ t.cfg = s.cfg ∧ t.pending = s.pending := by
  unfold execRedraw; refine ⟨_, rfl, ?_⟩; simp

@[simp] theorem failSafe_keeps (s : State) (a1 : Fin 32) : (failSafe s a1).cfg = s.cfg ∧ (failSafe s a1).pending = s.pending := by
  simp [failSafe]

@[simp] theorem expireSource_keeps (s : State) (a1 : Fin 3) : (expireSource s a1).cfg = s.cfg ∧ (expireSource s a1).pending = s.pending := by
  simp [expireSource]

theorem execWatchdogExpiry_keeps (a0 : Fin 3) (s : State) : ∃ t, execWatchdogExpiry a0 s = .next t ∧ t.cfg = s.cfg ∧ t.pending = s.pending := by
  unfold execWatchdogExpiry; refine ⟨_, rfl, ?_⟩; dsimp only; repeat' split
  all_goals simp

theorem execWatchdogRestored_keeps (a0 : Fin 3) (s : State) : ∃ t, execWatchdogRestored a0 s = .next t ∧ t.cfg = s.cfg ∧ t.pending = s.pending := by
  unfold execWatchdogRestored; refine ⟨_, rfl, ?_⟩; simp

@[simp] theorem writeLswCfg_pending (s : State) (v : Word) : (writeLswCfg s v).pending = s.pending := by
  unfold writeLswCfg; (try dsimp only); repeat' split
  all_goals simp

@[simp] theorem writeLsw_pending (s : State) (off : Nat) (v : Word) : (writeLsw s off v).pending = s.pending := by
  unfold writeLsw; (try dsimp only); repeat' split
  all_goals simp

@[simp] theorem writeEpd_keeps (s : State) (a1 : ℕ) (a2 : Sys2Proof.Word) : (writeEpd s a1 a2).cfg = s.cfg ∧ (writeEpd s a1 a2).pending = s.pending := by
  simp [writeEpd]

@[simp] theorem loseInStation_keeps (s : State) (a1 : Fin 128) : (loseInStation s a1).cfg = s.cfg ∧ (loseInStation s a1).pending = s.pending := by
  simp [loseInStation]

@[simp] theorem collapseAt_keeps (s : State) (a1 : Fin 16) : (collapseAt s a1).cfg = s.cfg ∧ (collapseAt s a1).pending = s.pending := by
  unfold collapseAt; repeat' split
  all_goals simp

@[simp] theorem beginReset_keeps (s : State) : (beginReset s).cfg = s.cfg ∧ (beginReset s).pending = s.pending := by
  simp [beginReset]

@[simp] theorem appSwitch_keeps (s : State) (a1 : SwitchDue) : (appSwitch s a1).cfg = s.cfg ∧ (appSwitch s a1).pending = s.pending := by
  simp [appSwitch]

@[simp] theorem effWriteImageBlock_keeps (a0 : Sys2Proof.Cmd) (s : State) : (effWriteImageBlock a0 s).cfg = s.cfg ∧ (effWriteImageBlock a0 s).pending = s.pending := by
  unfold effWriteImageBlock; dsimp only; repeat' split
  all_goals simp

theorem execWriteImageBlock_keeps (a0 : Sys2Proof.Cmd) (s : State) : ∃ t, execWriteImageBlock a0 s = .next t ∧ t.cfg = s.cfg ∧ t.pending = s.pending := by
  unfold execWriteImageBlock; refine ⟨_, rfl, ?_⟩; simp

@[simp] theorem effVerifyImage_keeps (a0 : Sys2Proof.Cmd) (s : State) : (effVerifyImage a0 s).cfg = s.cfg ∧ (effVerifyImage a0 s).pending = s.pending := by
  unfold effVerifyImage; dsimp only; repeat' split
  all_goals simp

theorem execVerifyImage_keeps (a0 : Sys2Proof.Cmd) (s : State) : ∃ t, execVerifyImage a0 s = .next t ∧ t.cfg = s.cfg ∧ t.pending = s.pending := by
  unfold execVerifyImage; refine ⟨_, rfl, ?_⟩; simp

@[simp] theorem activateApp_keeps (s : State) (a1 : Sys2Proof.Cmd) (a2 : Fin 2) : (activateApp s a1 a2).cfg = s.cfg ∧ (activateApp s a1 a2).pending = s.pending := by
  simp [activateApp]

@[simp] theorem islandSwitch_keeps (s : State) (a1 : Sys2Proof.Cmd) (a2 : Fin 3) (a3 : Option ℕ) : (islandSwitch s a1 a2 a3).cfg = s.cfg ∧ (islandSwitch s a1 a2 a3).pending = s.pending := by
  simp [islandSwitch]

@[simp] theorem effActivateFirmware_keeps (a0 : Sys2Proof.Cmd) (s : State) : (effActivateFirmware a0 s).cfg = s.cfg ∧ (effActivateFirmware a0 s).pending = s.pending := by
  unfold effActivateFirmware; dsimp only; repeat' split
  all_goals simp

theorem execActivateFirmware_keeps (a0 : Sys2Proof.Cmd) (s : State) : ∃ t, execActivateFirmware a0 s = .next t ∧ t.cfg = s.cfg ∧ t.pending = s.pending := by
  unfold execActivateFirmware; refine ⟨_, rfl, ?_⟩; simp

@[simp] theorem effConfirmFirmware_keeps (a0 : Sys2Proof.Cmd) (s : State) : (effConfirmFirmware a0 s).cfg = s.cfg ∧ (effConfirmFirmware a0 s).pending = s.pending := by
  unfold effConfirmFirmware; dsimp only; repeat' split
  all_goals simp

theorem execConfirmFirmware_keeps (a0 : Sys2Proof.Cmd) (s : State) : ∃ t, execConfirmFirmware a0 s = .next t ∧ t.cfg = s.cfg ∧ t.pending = s.pending := by
  unfold execConfirmFirmware; refine ⟨_, rfl, ?_⟩; simp

@[simp] theorem effRevertFirmware_keeps (a0 : Sys2Proof.Cmd) (s : State) : (effRevertFirmware a0 s).cfg = s.cfg ∧ (effRevertFirmware a0 s).pending = s.pending := by
  unfold effRevertFirmware; dsimp only; repeat' split
  all_goals simp

theorem execRevertFirmware_keeps (a0 : Sys2Proof.Cmd) (s : State) : ∃ t, execRevertFirmware a0 s = .next t ∧ t.cfg = s.cfg ∧ t.pending = s.pending := by
  unfold execRevertFirmware; refine ⟨_, rfl, ?_⟩; simp

theorem execTrialConfirmed_keeps (a0 : Fin 3) (s : State) : ∃ t, execTrialConfirmed a0 s = .next t ∧ t.cfg = s.cfg ∧ t.pending = s.pending := by
  unfold execTrialConfirmed; repeat' split
  all_goals (refine ⟨_, rfl, ?_⟩; simp)

theorem execFallBack_keeps (a0 : Fin 3) (a1 : Bool) (s : State) : ∃ t, execFallBack a0 a1 s = .next t ∧ t.cfg = s.cfg ∧ t.pending = s.pending := by
  unfold execFallBack; refine ⟨_, rfl, ?_⟩; dsimp only; repeat' split
  all_goals simp

@[simp] theorem effReadSlots_keeps (a0 : Sys2Proof.Cmd) (s : State) : (effReadSlots a0 s).cfg = s.cfg ∧ (effReadSlots a0 s).pending = s.pending := by
  simp [effReadSlots]

theorem execReadSlots_keeps (a0 : Sys2Proof.Cmd) (s : State) : ∃ t, execReadSlots a0 s = .next t ∧ t.cfg = s.cfg ∧ t.pending = s.pending := by
  unfold execReadSlots; refine ⟨_, rfl, ?_⟩; simp

@[simp] theorem enterRecovery_keeps (s : State) (a1 : ℕ) (a2 : Option Sys2Proof.Cmd) : (enterRecovery s a1 a2).cfg = s.cfg ∧ (enterRecovery s a1 a2).pending = s.pending := by
  simp [enterRecovery]

@[simp] theorem effEnterRecovery_keeps (a0 : Sys2Proof.Cmd) (s : State) : (effEnterRecovery a0 s).cfg = s.cfg ∧ (effEnterRecovery a0 s).pending = s.pending := by
  simp [effEnterRecovery]

theorem execEnterRecovery_keeps (a0 : Sys2Proof.Cmd) (s : State) : ∃ t, execEnterRecovery a0 s = .next t ∧ t.cfg = s.cfg ∧ t.pending = s.pending := by
  unfold execEnterRecovery; refine ⟨_, rfl, ?_⟩; simp

@[simp] theorem sendPiece_keeps (s : State) : (sendPiece s).cfg = s.cfg ∧ (sendPiece s).pending = s.pending := by
  unfold sendPiece; dsimp only; repeat' split
  all_goals simp

@[simp] theorem startDomino_keeps (s : State) (a1 : Fin 3) (a2 : BitVec 32) : (startDomino s a1 a2).cfg = s.cfg ∧ (startDomino s a1 a2).pending = s.pending := by
  simp [startDomino]

@[simp] theorem effDominoSend_keeps (a0 : Sys2Proof.Cmd) (s : State) : (effDominoSend a0 s).cfg = s.cfg ∧ (effDominoSend a0 s).pending = s.pending := by
  unfold effDominoSend; dsimp only; repeat' split
  all_goals simp

theorem execDominoSend_keeps (a0 : Sys2Proof.Cmd) (s : State) : ∃ t, execDominoSend a0 s = .next t ∧ t.cfg = s.cfg ∧ t.pending = s.pending := by
  unfold execDominoSend; refine ⟨_, rfl, ?_⟩; simp

theorem execDominoRetry_keeps (s : State) : ∃ t, execDominoRetry s = .next t ∧ t.cfg = s.cfg ∧ t.pending = s.pending := by
  unfold execDominoRetry; repeat' split
  all_goals (refine ⟨_, rfl, ?_⟩; simp)

@[simp] theorem pieceSent_keeps (s : State) : (pieceSent s).cfg = s.cfg ∧ (pieceSent s).pending = s.pending := by
  unfold pieceSent; dsimp only; repeat' split
  all_goals simp

@[simp] theorem dominoDone_keeps (s : State) (a1 : Fin 3) (a2 : Fin 2) (a3 : BitVec 32) (a4 : Fin 64) : (dominoDone s a1 a2 a3 a4).cfg = s.cfg ∧ (dominoDone s a1 a2 a3 a4).pending = s.pending := by
  simp [dominoDone]

@[simp] theorem keepPiece_keeps (s : State) (a1 : Fin 3) (a2 : Fin 2) (a3 : DominoPiece) : (keepPiece s a1 a2 a3).cfg = s.cfg ∧ (keepPiece s a1 a2 a3).pending = s.pending := by
  simp [keepPiece]

@[simp] theorem takeDomino_keeps (s : State) (a1 : Fin 64) (a2 : List Sys2Proof.Byte) : (takeDomino s a1 a2).cfg = s.cfg ∧ (takeDomino s a1 a2).pending = s.pending := by
  unfold takeDomino; dsimp only; repeat' split
  all_goals simp

@[simp] theorem mirrorPiece_keeps (s : State) (a1 : List Sys2Proof.Byte) : (mirrorPiece s a1).cfg = s.cfg ∧ (mirrorPiece s a1).pending = s.pending := by
  unfold mirrorPiece; dsimp only; repeat' split
  all_goals simp

@[simp] theorem configRefused_keeps (s : State) (a1 : BitVec 32) (a2 : ℕ) (a3 : Option Sys2Proof.Cmd) : (configRefused s a1 a2 a3).cfg = s.cfg ∧ (configRefused s a1 a2 a3).pending = s.pending := by
  simp [configRefused]

@[simp] theorem acceptConfig_keeps (s : State) (a1 : CfgPend) (a2 : BitVec 256) : (acceptConfig s a1 a2).cfg = s.cfg ∧ (acceptConfig s a1 a2).pending = s.pending := by
  simp [acceptConfig]

@[simp] theorem effActivateConfiguration_keeps (a0 : Sys2Proof.Cmd) (s : State) : (effActivateConfiguration a0 s).cfg = s.cfg ∧ (effActivateConfiguration a0 s).pending = s.pending := by
  simp [effActivateConfiguration]

@[simp] theorem startYoyo_keeps (s : State) (a1 : Fin 4) (a2 : ℕ) (a3 : Bool) (a4 : Option Sys2Proof.Cmd) : (startYoyo s a1 a2 a3 a4).1.cfg = s.cfg ∧ (startYoyo s a1 a2 a3 a4).1.pending = s.pending := by
  unfold startYoyo; dsimp only; repeat' split
  all_goals simp

@[simp] theorem effRevertConfiguration_keeps (a0 : Sys2Proof.Cmd) (s : State) : (effRevertConfiguration a0 s).cfg = s.cfg ∧ (effRevertConfiguration a0 s).pending = s.pending := by
  unfold effRevertConfiguration; dsimp only; repeat' split
  all_goals simp

theorem execRevertConfiguration_keeps (a0 : Sys2Proof.Cmd) (s : State) : ∃ t, execRevertConfiguration a0 s = .next t ∧ t.cfg = s.cfg ∧ t.pending = s.pending := by
  unfold execRevertConfiguration; refine ⟨_, rfl, ?_⟩; simp

@[simp] theorem effConfirmConfiguration_keeps (a0 : Sys2Proof.Cmd) (s : State) : (effConfirmConfiguration a0 s).cfg = s.cfg ∧ (effConfirmConfiguration a0 s).pending = s.pending := by
  simp [effConfirmConfiguration]

theorem execConfirmConfiguration_keeps (a0 : Sys2Proof.Cmd) (s : State) : ∃ t, execConfirmConfiguration a0 s = .next t ∧ t.cfg = s.cfg ∧ t.pending = s.pending := by
  unfold execConfirmConfiguration; refine ⟨_, rfl, ?_⟩; simp

theorem execAutomaticYoYo_keeps (s : State) : ∃ t, execAutomaticYoYo s = .next t ∧ t.cfg = s.cfg ∧ t.pending = s.pending := by
  unfold execAutomaticYoYo; refine ⟨_, rfl, ?_⟩; dsimp only; repeat' split
  all_goals simp

@[simp] theorem putProfiles_keeps (s : State) (a1 : ConfigImg) (a2 : ℕ) : (putProfiles s a1 a2).cfg = s.cfg ∧ (putProfiles s a1 a2).pending = s.pending := by
  simp [putProfiles]

@[simp] theorem restartCtx_keeps (s : State) (a1 : Fin 128) (a2 : ℕ) : (restartCtx s a1 a2).cfg = s.cfg ∧ (restartCtx s a1 a2).pending = s.pending := by
  unfold restartCtx; dsimp only; repeat' split
  all_goals simp

@[simp] theorem putSafety_keeps (s : State) (a1 : SafetySec) : (putSafety s a1).cfg = s.cfg ∧ (putSafety s a1).pending = s.pending := by
  simp [putSafety]

@[simp] theorem putLegal_keeps (s : State) (a1 : LegalSec) : (putLegal s a1).cfg = s.cfg ∧ (putLegal s a1).pending = s.pending := by
  simp [putLegal]

@[simp] theorem putRest_keeps (s : State) (a1 : ConfigImg) : (putRest s a1).cfg = s.cfg ∧ (putRest s a1).pending = s.pending := by
  simp [putRest]

@[simp] theorem putImage_keeps (s : State) (a1 : ConfigImg) (a2 : ℕ) : (putImage s a1 a2).cfg = s.cfg ∧ (putImage s a1 a2).pending = s.pending := by
  simp [putImage]

@[simp] theorem turnSlots_keeps (s : State) (a1 : CfgPend) : (turnSlots s a1).cfg = s.cfg ∧ (turnSlots s a1).pending = s.pending := by
  simp [turnSlots]

@[simp] theorem activateConfig_keeps (s : State) (a1 : CfgPend) (a2 : Bool) : (activateConfig s a1 a2).cfg = s.cfg ∧ (activateConfig s a1 a2).pending = s.pending := by
  unfold activateConfig; dsimp only; repeat' split
  all_goals simp

@[simp] theorem configFires_keeps (s : State) : (configFires s).cfg = s.cfg ∧ (configFires s).pending = s.pending := by
  unfold configFires; repeat' split
  all_goals simp

@[simp] theorem writeUpd_pending (s : State) (off : Nat) (v : Word) : (writeUpd s off v).pending = s.pending := by
  unfold writeUpd; (try dsimp only); repeat' split
  all_goals simp

@[simp] theorem State.onPairFw_keeps (s : State) (a1 : Option PairFw) : (State.onPairFw s a1).cfg = s.cfg ∧ (State.onPairFw s a1).pending = s.pending := by
  simp [State.onPairFw]

@[simp] theorem takeFwActivate_keeps (s : State) : (takeFwActivate s).cfg = s.cfg ∧ (takeFwActivate s).pending = s.pending := by
  unfold takeFwActivate; repeat' split
  all_goals simp

@[simp] theorem completeFor_keeps (s : State) (a1 : PairFw) (a2 : BitVec 8) (a3 : BitVec 32) : (completeFor s a1 a2 a3).cfg = s.cfg ∧ (completeFor s a1 a2 a3).pending = s.pending := by
  simp [completeFor]

@[simp] theorem takeFwResult_keeps (s : State) (a1 : Bool) (a2 : BitVec 32) : (takeFwResult s a1 a2).cfg = s.cfg ∧ (takeFwResult s a1 a2).pending = s.pending := by
  unfold takeFwResult; dsimp only; repeat' split
  all_goals simp

@[simp] theorem takeFwPair_keeps (s : State) (a1 : ℕ) (a2 : BitVec 32) (a3 : BitVec 32) : (takeFwPair s a1 a2 a3).cfg = s.cfg ∧ (takeFwPair s a1 a2 a3).pending = s.pending := by
  simp [takeFwPair]

@[simp] theorem takeAny_keeps (s : State) (a1 : Fin 4) (a2 : Sys2Proof.TieMsg) : (takeAny s a1 a2).cfg = s.cfg ∧ (takeAny s a1 a2).pending = s.pending := by
  unfold takeAny; repeat' split
  all_goals simp

@[simp] theorem tieFrame_keeps (a0 : Fin 4) (a1 : ℕ) (a2 : Sys2Proof.TieMsg) (s : State) : (tieFrame a0 a1 a2 s).cfg = s.cfg ∧ (tieFrame a0 a1 a2 s).pending = s.pending := by
  simp [tieFrame]

@[simp] theorem completeSwitch_keeps (s : State) : (completeSwitch s).cfg = s.cfg ∧ (completeSwitch s).pending = s.pending := by
  unfold completeSwitch; repeat' split
  all_goals simp

@[simp] theorem afterHandover_keeps (s : State) : (afterHandover s).cfg = s.cfg ∧ (afterHandover s).pending = s.pending := by
  unfold afterHandover; dsimp only; repeat' split
  all_goals simp

@[simp] theorem completeHand_keeps (s : State) (a1 : BitVec 8) : (completeHand s a1).cfg = s.cfg ∧ (completeHand s a1).pending = s.pending := by
  unfold completeHand; dsimp only; repeat' split
  all_goals simp

@[simp] theorem refuseHandover_keeps (s : State) : (refuseHandover s).cfg = s.cfg ∧ (refuseHandover s).pending = s.pending := by
  unfold refuseHandover; dsimp only; repeat' split
  all_goals simp

@[simp] theorem handPairFw_keeps (s : State) : (handPairFw s).cfg = s.cfg ∧ (handPairFw s).pending = s.pending := by
  unfold handPairFw; repeat' split
  all_goals simp

@[simp] theorem handCommands_keeps (s : State) : (handCommands s).cfg = s.cfg ∧ (handCommands s).pending = s.pending := by
  simp [handCommands]

theorem execHandover_keeps (s : State) : ∃ t, execHandover s = .next t ∧ t.cfg = s.cfg ∧ t.pending = s.pending := by
  unfold execHandover; refine ⟨_, rfl, ?_⟩; simp

@[simp] theorem kiteSecurity_keeps (s : State) (a1 : Sys2Proof.KiteFrame) (a2 : ℕ) : (kiteSecurity s a1 a2).cfg = s.cfg ∧ (kiteSecurity s a1 a2).pending = s.pending := by
  simp [kiteSecurity]

@[simp] theorem noteFcnt_keeps (s : State) (a1 : Sys2Proof.KiteFrame) : (noteFcnt s a1).cfg = s.cfg ∧ (noteFcnt s a1).pending = s.pending := by
  simp [noteFcnt]

@[simp] theorem nodeConflict_keeps (s : State) (a1 : Fin 64) (a2 : BitVec 64) : (nodeConflict s a1 a2).cfg = s.cfg ∧ (nodeConflict s a1 a2).pending = s.pending := by
  simp [nodeConflict]

@[simp] theorem noteSerial_keeps (s : State) (a1 : Sys2Proof.KiteFrame) : (noteSerial s a1).cfg = s.cfg ∧ (noteSerial s a1).pending = s.pending := by
  unfold noteSerial; dsimp only; repeat' split
  all_goals simp

@[simp] theorem notePhase_keeps (s : State) (a1 : Sys2Proof.KiteFrame) (a2 : BitVec 16) : (notePhase s a1 a2).cfg = s.cfg ∧ (notePhase s a1 a2).pending = s.pending := by
  simp [notePhase]

@[simp] theorem takeHello_keeps (s : State) (a1 : Sys2Proof.KiteFrame) : (takeHello s a1).cfg = s.cfg ∧ (takeHello s a1).pending = s.pending := by
  simp [takeHello]

@[simp] theorem takeAck_keeps (s : State) (a1 : Sys2Proof.KiteFrame) : (takeAck s a1).cfg = s.cfg ∧ (takeAck s a1).pending = s.pending := by
  unfold takeAck; dsimp only; repeat' split
  all_goals simp

@[simp] theorem takeTime_keeps (s : State) (a1 : Sys2Proof.KiteFrame) (a2 : ℕ) : (takeTime s a1 a2).cfg = s.cfg ∧ (takeTime s a1 a2).pending = s.pending := by
  simp [takeTime]

@[simp] theorem takeEcho_keeps (s : State) (a1 : List Sys2Proof.Byte) : (takeEcho s a1).cfg = s.cfg ∧ (takeEcho s a1).pending = s.pending := by
  simp [takeEcho]

@[simp] theorem deliverKite_keeps (s : State) (a1 : Sys2Proof.KiteFrame) : (deliverKite s a1).cfg = s.cfg ∧ (deliverKite s a1).pending = s.pending := by
  unfold deliverKite; dsimp only; repeat' split
  all_goals simp

@[simp] theorem takeUnicast_keeps (s : State) (a1 : Sys2Proof.KiteFrame) (a2 : ℕ) (a3 : Bool) : (takeUnicast s a1 a2 a3).cfg = s.cfg ∧ (takeUnicast s a1 a2 a3).pending = s.pending := by
  simp [takeUnicast]

@[simp] theorem serveKite_keeps (s : State) (a1 : KiteIn) (a2 : Bool) : (serveKite s a1 a2).cfg = s.cfg ∧ (serveKite s a1 a2).pending = s.pending := by
  unfold serveKite; dsimp only; repeat' split
  all_goals simp

@[simp] theorem stageKite_keeps (s : State) (a1 : KiteIn) : (stageKite s a1).cfg = s.cfg ∧ (stageKite s a1).pending = s.pending := by
  simp [stageKite]

@[simp] theorem tryKeys_keeps (s : State) (b : List Byte) : (tryKeys s b).2.2.cfg = s.cfg ∧ (tryKeys s b).2.2.pending = s.pending := by
  unfold tryKeys
  refine foldl_inv (fun (a : Option KiteFrame × Bool × State) => a.2.2.cfg = s.cfg ∧ a.2.2.pending = s.pending) _ _ _ ⟨rfl, rfl⟩ fun a x h => ?_
  · split
    · exact h
    · dsimp only
      have k := useKey_keeps a.2.2 x
      first
      | exact ⟨k.1.trans h.1, k.2.trans h.2⟩
      | (split <;> exact ⟨k.1.trans h.1, k.2.trans h.2⟩)

@[simp] theorem checkedKite_keeps (s : State) (a1 : KiteIn) : (checkedKite s a1).cfg = s.cfg ∧ (checkedKite s a1).pending = s.pending := by
  simp [checkedKite]

@[simp] theorem takeKite_keeps (s : State) (a1 : Sys2Proof.KiteRx) : (takeKite s a1).cfg = s.cfg ∧ (takeKite s a1).pending = s.pending := by
  unfold takeKite; dsimp only; repeat' split
  all_goals simp

theorem execKiteFrameReceived_keeps (a0 : Sys2Proof.KiteRx) (s : State) : ∃ t, execKiteFrameReceived a0 s = .next t ∧ t.cfg = s.cfg ∧ t.pending = s.pending := by
  unfold execKiteFrameReceived; refine ⟨_, rfl, ?_⟩; simp

@[simp] theorem abortCommands_keeps (s : State) : (abortCommands s).cfg = s.cfg ∧ (abortCommands s).pending = s.pending := by
  unfold abortCommands
  refine ⟨(foldl_keeps _ _ _ fun s x => ?_).1.trans ?_, (foldl_keeps _ _ _ fun s x => ?_).2.trans ?_⟩
  all_goals (try dsimp only); repeat' split
  all_goals simp

@[simp] theorem dropOutstanding_keeps (s : State) : (dropOutstanding s).cfg = s.cfg ∧ (dropOutstanding s).pending = s.pending := by
  simp [dropOutstanding]

@[simp] theorem resumeLane_keeps (s : State) (a1 : Fin 128) : (resumeLane s a1).cfg = s.cfg ∧ (resumeLane s a1).pending = s.pending := by
  simp [resumeLane]

@[simp] theorem lateConfig_keeps (s : State) : (lateConfig s).cfg = s.cfg ∧ (lateConfig s).pending = s.pending := by
  simp [lateConfig]

@[simp] theorem leaveRecovery_keeps (s : State) : (leaveRecovery s).cfg = s.cfg ∧ (leaveRecovery s).pending = s.pending := by
  simp [leaveRecovery]

@[simp] theorem serveInbox_keeps (s : State) : (serveInbox s).cfg = s.cfg ∧ (serveInbox s).pending = s.pending := by
  simp [serveInbox]

@[simp] theorem rejoin_keeps (s : State) : (rejoin s).cfg = s.cfg ∧ (rejoin s).pending = s.pending := by
  simp [rejoin]

@[simp] theorem endReset_keeps (s : State) : (endReset s).cfg = s.cfg ∧ (endReset s).pending = s.pending := by
  simp [endReset]

@[simp] theorem startReset_keeps (s : State) (a1 : Bool) : (startReset s a1).cfg = s.cfg ∧ (startReset s a1).pending = s.pending := by
  unfold startReset; dsimp only; repeat' split
  all_goals simp

theorem execServiceReset_keeps (a0 : Bool) (s : State) : ∃ t, execServiceReset a0 s = .next t ∧ t.cfg = s.cfg ∧ t.pending = s.pending := by
  unfold execServiceReset; repeat' split
  all_goals (refine ⟨_, rfl, ?_⟩; simp)

@[simp] theorem loseWaiting_keeps (s : State) (a1 : Sys2Proof.Event) : (loseWaiting s a1).cfg = s.cfg ∧ (loseWaiting s a1).pending = s.pending := by
  simp [loseWaiting]

@[simp] theorem loseCells_keeps (s : State) (a1 : Bool) (a2 : ℕ) : (loseCells s a1 a2).cfg = s.cfg ∧ (loseCells s a1 a2).pending = s.pending := by
  simp [loseCells]

@[simp] theorem markGap_keeps (s : State) (a1 : Fin 12) : (markGap s a1).cfg = s.cfg ∧ (markGap s a1).pending = s.pending := by
  unfold markGap; repeat' split
  all_goals simp

@[simp] theorem lostPacket_keeps (s : State) (a1 : ℕ) (a2 : Packet) : (lostPacket s a1 a2).cfg = s.cfg ∧ (lostPacket s a1 a2).pending = s.pending := by
  unfold lostPacket; dsimp only; repeat' split
  all_goals simp

@[simp] theorem dropPacket_keeps (s : State) (a1 : Fin 1024) : (dropPacket s a1).cfg = s.cfg ∧ (dropPacket s a1).pending = s.pending := by
  unfold dropPacket; repeat' split
  all_goals simp

@[simp] theorem dropQueueAll_keeps (s : State) (a1 : Fin 1024) : (dropQueueAll s a1).cfg = s.cfg ∧ (dropQueueAll s a1).pending = s.pending := by
  unfold dropQueueAll; repeat' split
  all_goals simp

theorem execEccError_keeps (a0 : Fin 4) (a1 : ℕ) (s : State) : ∃ t, execEccError a0 a1 s = .next t ∧ t.cfg = s.cfg ∧ t.pending = s.pending := by
  unfold execEccError; refine ⟨_, rfl, ?_⟩; dsimp only; repeat' split
  all_goals simp

@[simp] theorem settleGroup_keeps (s : State) (a1 : Fin 8) : (settleGroup s a1).cfg = s.cfg ∧ (settleGroup s a1).pending = s.pending := by
  simp [settleGroup]

@[simp] theorem latchGroup_keeps (s : State) (a1 : Fin 8) : (latchGroup s a1).cfg = s.cfg ∧ (latchGroup s a1).pending = s.pending := by
  simp [latchGroup]

theorem execPmcCycRead_keeps (a0 : Fin 8) (s : State) : ∃ t, execPmcCycRead a0 s = .next t ∧ t.cfg = s.cfg ∧ t.pending = s.pending := by
  unfold execPmcCycRead; refine ⟨_, rfl, ?_⟩; simp

@[simp] theorem putDmp_keeps (s : State) (a1 : ℕ) (a2 : ℕ) (a3 : ℕ) (a4 : List ℕ) : (putDmp s a1 a2 a3 a4).cfg = s.cfg ∧ (putDmp s a1 a2 a3 a4).pending = s.pending := by
  simp [putDmp]

@[simp] theorem writeDump_keeps (s : State) : (writeDump s).cfg = s.cfg ∧ (writeDump s).pending = s.pending := by
  simp [writeDump]

@[simp] theorem skipDump_keeps (s : State) : (skipDump s).cfg = s.cfg ∧ (skipDump s).pending = s.pending := by
  unfold skipDump; dsimp only; repeat' split
  all_goals simp

theorem execDump_keeps (s : State) : ∃ t, execDump s = .next t ∧ t.cfg = s.cfg ∧ t.pending = s.pending := by
  unfold execDump; refine ⟨_, rfl, ?_⟩; simp

theorem execSample_keeps (a0 : Fin 8) (a1 : Fin 8) (s : State) : ∃ t, execSample a0 a1 s = .next t ∧ t.cfg = s.cfg ∧ t.pending = s.pending := by
  unfold execSample; refine ⟨_, rfl, ?_⟩; simp

@[simp] theorem State.onMon_keeps (s : State) (a1 : Fin 8) (a2 : BwMon → BwMon) : (State.onMon s a1 a2).cfg = s.cfg ∧ (State.onMon s a1 a2).pending = s.pending := by
  simp [State.onMon]

theorem execBandwidthWindowEnd_keeps (a0 : Fin 8) (s : State) : ∃ t, execBandwidthWindowEnd a0 s = .next t ∧ t.cfg = s.cfg ∧ t.pending = s.pending := by
  unfold execBandwidthWindowEnd; refine ⟨_, rfl, ?_⟩; dsimp only; repeat' split
  all_goals simp

@[simp] theorem writeBwCfg_keeps (s : State) (a1 : Fin 8) (a2 : Sys2Proof.Word) : (writeBwCfg s a1 a2).cfg = s.cfg ∧ (writeBwCfg s a1 a2).pending = s.pending := by
  simp [writeBwCfg]

theorem execBandwidthMonitorWrite_keeps (a0 : Fin 8) (a1 : BitVec 32) (s : State) : ∃ t, execBandwidthMonitorWrite a0 a1 s = .next t ∧ t.cfg = s.cfg ∧ t.pending = s.pending := by
  unfold execBandwidthMonitorWrite; refine ⟨_, rfl, ?_⟩; simp

@[simp] theorem effDumpNow_keeps (a0 : Sys2Proof.Cmd) (s : State) : (effDumpNow a0 s).cfg = s.cfg ∧ (effDumpNow a0 s).pending = s.pending := by
  simp [effDumpNow]

theorem execDumpNow_keeps (a0 : Sys2Proof.Cmd) (s : State) : ∃ t, execDumpNow a0 s = .next t ∧ t.cfg = s.cfg ∧ t.pending = s.pending := by
  unfold execDumpNow; refine ⟨_, rfl, ?_⟩; simp

@[simp] theorem effClearCounters_keeps (a0 : Sys2Proof.Cmd) (s : State) : (effClearCounters a0 s).cfg = s.cfg ∧ (effClearCounters a0 s).pending = s.pending := by
  simp [effClearCounters]

theorem execClearCounters_keeps (a0 : Sys2Proof.Cmd) (s : State) : ∃ t, execClearCounters a0 s = .next t ∧ t.cfg = s.cfg ∧ t.pending = s.pending := by
  unfold execClearCounters; refine ⟨_, rfl, ?_⟩; simp

@[simp] theorem writeGroup_keeps (s : State) (a1 : Fin 8) (a2 : ℕ) (a3 : Sys2Proof.Word) : (writeGroup s a1 a2 a3).cfg = s.cfg ∧ (writeGroup s a1 a2 a3).pending = s.pending := by
  unfold writeGroup; dsimp only; repeat' split
  all_goals simp

@[simp] theorem writePmc_keeps (s : State) (a1 : ℕ) (a2 : Sys2Proof.Word) : (writePmc s a1 a2).cfg = s.cfg ∧ (writePmc s a1 a2).pending = s.pending := by
  unfold writePmc; dsimp only; repeat' split
  all_goals simp

@[simp] theorem dischargeDisplay_keeps (s : State) : (dischargeDisplay s).cfg = s.cfg ∧ (dischargeDisplay s).pending = s.pending := by
  simp [dischargeDisplay]

@[simp] theorem writeLegalStaging_keeps (s : State) : (writeLegalStaging s).cfg = s.cfg ∧ (writeLegalStaging s).pending = s.pending := by
  simp [writeLegalStaging]

@[simp] theorem noteFailure_keeps (s : State) : (noteFailure s).cfg = s.cfg ∧ (noteFailure s).pending = s.pending := by
  simp [noteFailure]

@[simp] theorem powerWarning_keeps (s : State) (bits : List Byte) :
    (powerWarning s bits).cfg = s.cfg ∧ (powerWarning s bits).pending = s.pending := by
  unfold powerWarning
  split
  · exact ⟨rfl, rfl⟩
  · refine ⟨Eq.trans (noteFailure_keeps _).1 (Eq.trans (writeLegalStaging_keeps _).1 ?_),
      Eq.trans (noteFailure_keeps _).2 (Eq.trans (writeLegalStaging_keeps _).2 ?_)⟩
    all_goals
      split
      · simp
      · simp

@[simp] theorem seeVin_keeps (s : State) (a1 : ℕ) : (seeVin s a1).cfg = s.cfg ∧ (seeVin s a1).pending = s.pending := by
  simp [seeVin]

theorem execPowerFailWarning_keeps (a0 : ℕ) (a1 : List (BitVec 8)) (s : State) : ∃ t, execPowerFailWarning a0 a1 s = .next t ∧ t.cfg = s.cfg ∧ t.pending = s.pending := by
  unfold execPowerFailWarning; refine ⟨_, rfl, ?_⟩; simp

@[simp] theorem endOutage_keeps (s : State) (a1 : ℕ) : (endOutage s a1).cfg = s.cfg ∧ (endOutage s a1).pending = s.pending := by
  unfold endOutage; dsimp only; repeat' split
  all_goals simp

@[simp] theorem haltClocks_keeps (s : State) (a1 : Phase) : (haltClocks s a1).cfg = s.cfg ∧ (haltClocks s a1).pending = s.pending := by
  simp [haltClocks]

@[simp] theorem stopClocks_keeps (s : State) (a1 : Phase) : (stopClocks s a1).cfg = s.cfg ∧ (stopClocks s a1).pending = s.pending := by
  simp [stopClocks]

theorem execKeepEntry_keeps (s : State) : ∃ t, execKeepEntry s = .next t ∧ t.cfg = s.cfg ∧ t.pending = s.pending := by
  unfold execKeepEntry; refine ⟨_, rfl, ?_⟩; dsimp only; repeat' split
  all_goals simp

theorem execCabRst_keeps (a0 : Bool) (a1 : List (BitVec 8)) (s : State) : ∃ t, execCabRst a0 a1 s = .next t ∧ t.cfg = s.cfg ∧ t.pending = s.pending := by
  unfold execCabRst; refine ⟨_, rfl, ?_⟩; dsimp only; repeat' split
  all_goals simp

@[simp] theorem loseAlwaysOn_keeps (s : State) : (loseAlwaysOn s).cfg = s.cfg ∧ (loseAlwaysOn s).pending = s.pending := by
  simp [loseAlwaysOn]

@[simp] theorem makeContacts_keeps (s : State) (a1 : BitVec 4) : (makeContacts s a1).cfg = s.cfg ∧ (makeContacts s a1).pending = s.pending := by
  simp [makeContacts]

theorem execStageInsertion_keeps (a0 : Fin 5) (a1 : BitVec 4) (a2 : ℕ) (s : State) : ∃ t, execStageInsertion a0 a1 a2 s = .next t ∧ t.cfg = s.cfg ∧ t.pending = s.pending := by
  unfold execStageInsertion; refine ⟨_, rfl, ?_⟩; simp

@[simp] theorem powerDies_keeps (s : State) : (powerDies s).cfg = s.cfg ∧ (powerDies s).pending = s.pending := by
  simp [powerDies]

theorem execSeated_keeps (s : State) : ∃ t, execSeated s = .next t ∧ t.cfg = s.cfg ∧ t.pending = s.pending := by
  unfold execSeated; refine ⟨_, rfl, ?_⟩; simp

@[simp] theorem removeChan_keeps (s : State) (a1 : Fin 32) : (removeChan s a1).cfg = s.cfg ∧ (removeChan s a1).pending = s.pending := by
  simp [removeChan]

@[simp] theorem startRemoval_keeps (s : State) (a1 : List Sys2Proof.Byte) : (startRemoval s a1).cfg = s.cfg ∧ (startRemoval s a1).pending = s.pending := by
  simp [startRemoval]

@[simp] theorem removeHeld_keeps (s : State) : (removeHeld s).cfg = s.cfg ∧ (removeHeld s).pending = s.pending := by
  simp [removeHeld]

@[simp] theorem abandonInsertion_keeps (s : State) : (abandonInsertion s).cfg = s.cfg ∧ (abandonInsertion s).pending = s.pending := by
  simp [abandonInsertion]

@[simp] theorem seatLost_keeps (s : State) (a1 : List Sys2Proof.Byte) : (seatLost s a1).cfg = s.cfg ∧ (seatLost s a1).pending = s.pending := by
  unfold seatLost; repeat' split
  all_goals simp

@[simp] theorem endRemoval_keeps (s : State) : (endRemoval s).cfg = s.cfg ∧ (endRemoval s).pending = s.pending := by
  simp [endRemoval]

@[simp] theorem removalEnds_keeps (s : State) : (removalEnds s).cfg = s.cfg ∧ (removalEnds s).pending = s.pending := by
  simp [removalEnds]

theorem execSeatLoss_keeps (a0 : BitVec 4) (a1 : List (BitVec 8)) (s : State) : ∃ t, execSeatLoss a0 a1 s = .next t ∧ t.cfg = s.cfg ∧ t.pending = s.pending := by
  unfold execSeatLoss; refine ⟨_, rfl, ?_⟩; simp

theorem execSeatGlitch_keeps (a0 : Fin 4) (s : State) : ∃ t, execSeatGlitch a0 s = .next t ∧ t.cfg = s.cfg ∧ t.pending = s.pending := by
  unfold execSeatGlitch; refine ⟨_, rfl, ?_⟩; simp

theorem execStageBreak_keeps (a0 : Fin 5) (s : State) : ∃ t, execStageBreak a0 s = .next t ∧ t.cfg = s.cfg ∧ t.pending = s.pending := by
  unfold execStageBreak; refine ⟨_, rfl, ?_⟩; simp

theorem execReseatWaitEnd_keeps (s : State) : ∃ t, execReseatWaitEnd s = .next t ∧ t.cfg = s.cfg ∧ t.pending = s.pending := by
  unfold execReseatWaitEnd; refine ⟨_, rfl, ?_⟩; dsimp only; repeat' split
  all_goals simp

theorem execVinReturn_keeps (a0 : ℕ) (s : State) : ∃ t, execVinReturn a0 s = .next t ∧ t.cfg = s.cfg ∧ t.pending = s.pending := by
  unfold execVinReturn; refine ⟨_, rfl, ?_⟩; dsimp only; repeat' split
  all_goals simp

@[simp] theorem afterReset_keeps (s : State) : (afterReset s).cfg = {} ∧ (afterReset s).pending = s.pending := ⟨rfl, rfl⟩

@[simp] theorem latchStraps_keeps (s : State) (a1 : BitVec 2) (a2 : Bool) (a3 : Bool) : (latchStraps s a1 a2 a3).cfg = s.cfg ∧ (latchStraps s a1 a2 a3).pending = s.pending := by
  simp [latchStraps]

@[simp] theorem loadClock_keeps (s : State) : (loadClock s).cfg = s.cfg ∧ (loadClock s).pending = s.pending := by
  simp [loadClock]

@[simp] theorem loadKeys_keeps (s : State) : (loadKeys s).cfg = s.cfg ∧ (loadKeys s).pending = s.pending := by
  simp [loadKeys]

@[simp] theorem imageStarts_keeps (s : State) (a1 : ℕ) (a2 : List Host.Cell) : (imageStarts s a1 a2).2.cfg = s.cfg ∧ (imageStarts s a1 a2).2.pending = s.pending := by
  unfold imageStarts; dsimp only; repeat' split
  all_goals simp

@[simp] theorem startFirmware_keeps (s : State) (a1 : Fin 3) : (startFirmware s a1).cfg = s.cfg ∧ (startFirmware s a1).pending = s.pending := by
  unfold startFirmware; dsimp only; repeat' split
  all_goals simp

@[simp] theorem missingFirmware_keeps (s : State) : (missingFirmware s).cfg = s.cfg ∧ (missingFirmware s).pending = s.pending := by
  simp [missingFirmware]

@[simp] theorem loadImage_keeps (s : State) (a1 : Fin 4) : (loadImage s a1).cfg = s.cfg ∧ (loadImage s a1).pending = s.pending := by
  unfold loadImage; dsimp only; repeat' split
  all_goals simp

@[simp] theorem loadConfig_keeps (s : State) : (loadConfig s).cfg = s.cfg ∧ (loadConfig s).pending = s.pending := by
  unfold loadConfig; dsimp only; repeat' split
  all_goals simp

@[simp] theorem loadContexts_keeps (s : State) : (loadContexts s).cfg = s.cfg ∧ (loadContexts s).pending = s.pending := by
  simp [loadContexts]

@[simp] theorem loadCommit_keeps (s : State) : (loadCommit s).cfg = s.cfg ∧ (loadCommit s).pending = s.pending := by
  unfold loadCommit; dsimp only; repeat' split
  all_goals simp

@[simp] theorem closeLost_keeps (s : State) : (closeLost s).cfg = s.cfg ∧ (closeLost s).pending = s.pending := by
  unfold closeLost; dsimp only; repeat' split
  all_goals simp

@[simp] theorem takeUnmetered_keeps (s : State) (a1 : Fin 4) (a2 : Bool) (a3 : Bool) : (takeUnmetered s a1 a2 a3).cfg = s.cfg ∧ (takeUnmetered s a1 a2 a3).pending = s.pending := by
  simp [takeUnmetered]

@[simp] theorem takeKeep_keeps (s : State) : (takeKeep s).cfg = s.cfg ∧ (takeKeep s).pending = s.pending := by
  simp [takeKeep]

@[simp] theorem mergeTamper_keeps (s : State) (a1 : Fin 4) : (mergeTamper s a1).cfg = s.cfg ∧ (mergeTamper s a1).pending = s.pending := by
  simp [mergeTamper]

@[simp] theorem reportUnwritten_keeps (s : State) : (reportUnwritten s).cfg = s.cfg ∧ (reportUnwritten s).pending = s.pending := by
  simp [reportUnwritten]

@[simp] theorem guardTest_keeps (s : State) (a1 : ℕ) : (guardTest s a1).cfg = s.cfg ∧ (guardTest s a1).pending = s.pending := by
  simp [guardTest]

@[simp] theorem wakeRecord_keeps (s : State) (a1 : Bool) : (wakeRecord s a1).cfg = s.cfg ∧ (wakeRecord s a1).pending = s.pending := by
  simp [wakeRecord]

@[simp] theorem release_keeps (s : State) (slot : BitVec 2) (side dbg k : Bool) (n : Nat) :
    (release s slot side dbg k n).cfg = {} ∧ (release s slot side dbg k n).pending = s.pending := by
  unfold release; dsimp only; repeat' split
  all_goals simp

theorem execStrapCheck_keeps (a0 : BitVec 2) (a1 : Bool) (a2 : Bool) (s : State) : ∃ t, execStrapCheck a0 a1 a2 s = .next t ∧ t.cfg = s.cfg ∧ t.pending = s.pending := by
  unfold execStrapCheck; refine ⟨_, rfl, ?_⟩; simp

@[simp] theorem starveAlwaysOn_keeps (s : State) :
    (starveAlwaysOn s).cfg = s.cfg ∧ (starveAlwaysOn s).pending = s.pending := by
  unfold starveAlwaysOn
  extract_lets f u chans v
  have h : chans.2.cfg = u.cfg ∧ chans.2.pending = u.pending :=
    foldl_inv (fun (a : Vector KeepChan 4 × State) => a.2.cfg = u.cfg ∧ a.2.pending = u.pending) _ _ _ ⟨rfl, rfl⟩ fun a x h => h
  exact h

theorem execVbatLow_keeps (a0 : Bool) (s : State) : ∃ t, execVbatLow a0 s = .next t ∧ t.cfg = s.cfg ∧ t.pending = s.pending := by
  unfold execVbatLow; refine ⟨_, rfl, ?_⟩; simp

theorem execJunctionTemperature_keeps (a0 : ℤ) (s : State) : ∃ t, execJunctionTemperature a0 s = .next t ∧ t.cfg = s.cfg ∧ t.pending = s.pending := by
  unfold execJunctionTemperature; refine ⟨_, rfl, ?_⟩; simp

@[simp] theorem writeGlb_keeps (s : State) (a1 : ℕ) (a2 : Sys2Proof.Word) : (writeGlb s a1 a2).cfg = s.cfg ∧ (writeGlb s a1 a2).pending = s.pending := by
  simp [writeGlb]

@[simp] theorem writeTim_pending (s : State) (off : Nat) (v : Word) : (writeTim s off v).pending = s.pending := by
  unfold writeTim; (try dsimp only); repeat' split
  all_goals simp

@[simp] theorem writeFrxMap_keeps (s : State) (a1 : Fin 128) (a2 : BitVec 3) : (writeFrxMap s a1 a2).cfg = s.cfg ∧ (writeFrxMap s a1 a2).pending = s.pending := by
  simp [writeFrxMap]

@[simp] theorem writeRing_keeps (s : State) (a1 : Fin 57) (a2 : ℕ) (a3 : Sys2Proof.Word) : (writeRing s a1 a2 a3).cfg = s.cfg ∧ (writeRing s a1 a2 a3).pending = s.pending := by
  simp [writeRing]

@[simp] theorem writeRng_keeps (s : State) (a1 : ℕ) (a2 : Sys2Proof.Word) : (writeRng s a1 a2).cfg = s.cfg ∧ (writeRng s a1 a2).pending = s.pending := by
  unfold writeRng; dsimp only; repeat' split
  all_goals simp

@[simp] theorem writeMpl_keeps (s : State) (a1 : ℕ) (a2 : Sys2Proof.Word) : (writeMpl s a1 a2).cfg = s.cfg ∧ (writeMpl s a1 a2).pending = s.pending := by
  unfold writeMpl; dsimp only; repeat' split
  all_goals simp

@[simp] theorem writeStr_pending (s : State) (off : Nat) (v : Word) : (writeStr s off v).pending = s.pending := by
  unfold writeStr; (try dsimp only); repeat' split
  all_goals simp

@[simp] theorem writeSeq_keeps (s : State) (a1 : ℕ) (a2 : Sys2Proof.Word) : (writeSeq s a1 a2).cfg = s.cfg ∧ (writeSeq s a1 a2).pending = s.pending := by
  simp [writeSeq]

@[simp] theorem writeSaf_keeps (s : State) (off : Nat) (v : Word) : (writeSaf s off v).cfg = s.cfg ∧ (writeSaf s off v).pending = s.pending := by
  unfold writeSaf
  split
  all_goals exact ⟨rfl, rfl⟩

@[simp] theorem writeShr_pending (s : State) (off : Nat) (v : Word) : (writeShr s off v).pending = s.pending := by
  unfold writeShr
  extract_lets h n
  by_cases h0 : off = 0
  · rw [if_pos h0]; simp
  rw [if_neg h0]
  by_cases h1 : off = 4
  · rw [if_pos h1]
  rw [if_neg h1]
  repeat' (first | rfl | exact (writeSitePower_keeps _ _).2 | split)

@[simp] theorem writePlcCfg_keeps (s : State) (a1 : Sys2Proof.Word) : (writePlcCfg s a1).cfg = s.cfg ∧ (writePlcCfg s a1).pending = s.pending := by
  simp [writePlcCfg]

@[simp] theorem writeMacLo_keeps (s : State) (a1 : Sys2Proof.Word) : (writeMacLo s a1).cfg = s.cfg ∧ (writeMacLo s a1).pending = s.pending := by
  simp [writeMacLo]

@[simp] theorem writeMacHi_keeps (s : State) (a1 : Sys2Proof.Word) : (writeMacHi s a1).cfg = s.cfg ∧ (writeMacHi s a1).pending = s.pending := by
  simp [writeMacHi]

@[simp] theorem writePlc_pending (s : State) (off : Nat) (v : Word) : (writePlc s off v).pending = s.pending := by
  unfold writePlc; (try dsimp only); repeat' split
  all_goals simp

@[simp] theorem writeMet_keeps (s : State) (a1 : ℕ) (a2 : Sys2Proof.Word) : (writeMet s a1 a2).cfg = s.cfg ∧ (writeMet s a1 a2).pending = s.pending := by
  simp [writeMet]

@[simp] theorem writeEnr_pending (s : State) (off : Nat) (v : Word) : (writeEnr s off v).pending = s.pending := by
  unfold writeEnr; (try dsimp only); repeat' split
  all_goals simp

@[simp] theorem writeBil_keeps (s : State) (a1 : ℕ) (a2 : Sys2Proof.Word) : (writeBil s a1 a2).cfg = s.cfg ∧ (writeBil s a1 a2).pending = s.pending := by
  simp [writeBil]

@[simp] theorem writeRec_keeps (s : State) (a1 : ℕ) (a2 : Sys2Proof.Word) : (writeRec s a1 a2).cfg = s.cfg ∧ (writeRec s a1 a2).pending = s.pending := by
  simp [writeRec]

@[simp] theorem writeKey_keeps (s : State) (a1 : ℕ) (a2 : Sys2Proof.Word) : (writeKey s a1 a2).cfg = s.cfg ∧ (writeKey s a1 a2).pending = s.pending := by
  simp [writeKey]

@[simp] theorem writePwr_pending (s : State) (off : Nat) (v : Word) : (writePwr s off v).pending = s.pending := by
  unfold writePwr; (try dsimp only); repeat' split
  all_goals simp

@[simp] theorem writeFbp_keeps (s : State) (a1 : ℕ) (a2 : Sys2Proof.Word) : (writeFbp s a1 a2).cfg = s.cfg ∧ (writeFbp s a1 a2).pending = s.pending := by
  unfold writeFbp; dsimp only; repeat' split
  all_goals simp

@[simp] theorem latchRead_keeps (s : State) (a1 : ℕ) : (latchRead s a1).cfg = s.cfg ∧ (latchRead s a1).pending = s.pending := by
  unfold latchRead; repeat' split
  all_goals simp

@[simp] theorem busRead_keeps (s : State) (a1 : ℕ) : (busRead s a1).2.cfg = s.cfg ∧ (busRead s a1).2.pending = s.pending := by
  unfold busRead; dsimp only; repeat' split
  all_goals simp

@[simp] theorem effReadRegister_keeps (a0 : Sys2Proof.Cmd) (s : State) : (effReadRegister a0 s).cfg = s.cfg ∧ (effReadRegister a0 s).pending = s.pending := by
  unfold effReadRegister; dsimp only; repeat' split
  all_goals simp

theorem execReadRegister_keeps (a0 : Sys2Proof.Cmd) (s : State) : ∃ t, execReadRegister a0 s = .next t ∧ t.cfg = s.cfg ∧ t.pending = s.pending := by
  unfold execReadRegister; refine ⟨_, rfl, ?_⟩; simp

@[simp] theorem sendPending_keeps (s : State) : (sendPending s).cfg = s.cfg ∧ (sendPending s).pending = s.pending := by
  simp [sendPending]

@[simp] theorem writeMsix_keeps (s : State) (a1 : Fin 64) (a2 : ℕ) (a3 : Sys2Proof.Word) : (writeMsix s a1 a2 a3).cfg = s.cfg ∧ (writeMsix s a1 a2 a3).pending = s.pending := by
  simp [writeMsix]

@[simp] theorem writeBar2_keeps (s : State) (a1 : ℕ) (a2 : Sys2Proof.Word) : (writeBar2 s a1 a2).cfg = s.cfg ∧ (writeBar2 s a1 a2).pending = s.pending := by
  unfold writeBar2; repeat' split
  all_goals simp

@[simp] theorem writeConfig_keeps (s : State) (a1 : ℕ) (a2 : Sys2Proof.Word) : (writeConfig s a1 a2).cfg = s.cfg ∧ (writeConfig s a1 a2).pending = s.pending := by
  simp [writeConfig]

@[simp] theorem writeBar4_keeps (s : State) (off : Nat) (v : Word) :
    (writeBar4 s off v).cfg = s.cfg ∧ (writeBar4 s off v).pending = s.pending := by
  have h : ∀ (g : Nat → Nat) (l : List Nat) (s : State),
      (forAll l (fun s i => writeKeyWindow s (g i) (BitVec.ofNat 8 (fld v (8 * i) 8))) s).cfg = s.cfg ∧
      (forAll l (fun s i => writeKeyWindow s (g i) (BitVec.ofNat 8 (fld v (8 * i) 8))) s).pending = s.pending :=
    fun g l s => forAll_keeps _ _ _ fun s i => writeKeyWindow_keeps _ _ _
  unfold writeBar4
  by_cases hc : 0x80000 ≤ off ∧ off + 4 ≤ 0x90000
  · rw [if_pos hc]; exact h (fun i => off - 0x80000 + i) _ _
  · rw [if_neg hc]; exact ⟨rfl, rfl⟩

theorem execBarAccessUnaligned_keeps (a0 : Fin 3) (a1 : ℕ) (a2 : ℕ) (a3 : Bool) (s : State) : ∃ t, execBarAccessUnaligned a0 a1 a2 a3 s = .next t ∧ t.cfg = s.cfg ∧ t.pending = s.pending := by
  unfold execBarAccessUnaligned; refine ⟨_, rfl, ?_⟩; simp

theorem execPlcCfgLock_keeps (a0 : BitVec 32) (s : State) : ∃ t, execPlcCfgLock a0 s = .next t ∧ t.cfg = s.cfg ∧ t.pending = s.pending := by
  unfold execPlcCfgLock; refine ⟨_, rfl, ?_⟩; simp

theorem execMacBaseWrite_keeps (a0 : BitVec 32) (s : State) : ∃ t, execMacBaseWrite a0 s = .next t ∧ t.cfg = s.cfg ∧ t.pending = s.pending := by
  unfold execMacBaseWrite; refine ⟨_, rfl, ?_⟩; simp

end Sys2Proof.Machine
end

