-- ==== Sys2Proof/Laws/Commands.lean ====
section
/-! SUPPORT. Ring commands: when a meaning's effect runs, that a completion is made, and what making it leaves alone. -/

namespace Sys2Proof.Machine

theorem RingsOnly_of {s t : State} (h :
    t.glb = s.glb ∧ t.tim = s.tim ∧ t.str = s.str ∧ t.lanes = s.lanes ∧ t.mpl = s.mpl ∧ t.uarts = s.uarts ∧ t.cans =
    s.cans ∧ t.seq = s.seq ∧ t.ctxs = s.ctxs ∧ t.jrn = s.jrn ∧ t.delays = s.delays ∧ t.saf = s.saf ∧ t.safOut = s.safOut
    ∧ t.safJ = s.safJ ∧ t.shr = s.shr ∧ t.shrOut = s.shrOut ∧ t.plc = s.plc ∧ t.stas = s.stas ∧ t.met = s.met ∧ t.metOut
    = s.metOut ∧ t.enr = s.enr ∧ t.enrOut = s.enrOut ∧ t.bil = s.bil ∧ t.bilOut = s.bilOut ∧ t.recd = s.recd ∧ t.aut =
    s.aut ∧ t.autOut = s.autOut ∧ t.tagJ = s.tagJ ∧ t.store = s.store ∧ t.kit = s.kit ∧ t.tie = s.tie ∧ t.key = s.key ∧
    t.keys = s.keys ∧ t.lsw = s.lsw ∧ t.epd = s.epd ∧ t.pwr = s.pwr ∧ t.upd = s.upd ∧ t.pmc = s.pmc ∧ t.cfg = s.cfg ∧
    t.keep = s.keep ∧ t.fresh = s.fresh ∧ t.pending = s.pending) : RingsOnly s t := by
  cases s; cases t
  simp only at h
  obtain ⟨rfl, rfl, rfl, rfl, rfl, rfl, rfl, rfl, rfl, rfl, rfl, rfl, rfl, rfl, rfl, rfl, rfl, rfl, rfl, rfl, rfl, rfl, rfl, rfl, rfl, rfl, rfl, rfl, rfl, rfl, rfl, rfl, rfl, rfl, rfl, rfl, rfl, rfl, rfl, rfl, rfl, rfl⟩ := h
  rfl

theorem EventsOnly_of {s t : State} (h :
    t.glb = s.glb ∧ t.tim = s.tim ∧ t.str = s.str ∧ t.lanes = s.lanes ∧ t.mpl = s.mpl ∧ t.uarts = s.uarts ∧ t.cans =
    s.cans ∧ t.seq = s.seq ∧ t.ctxs = s.ctxs ∧ t.jrn = s.jrn ∧ t.delays = s.delays ∧ t.saf = s.saf ∧ t.safOut = s.safOut
    ∧ t.safJ = s.safJ ∧ t.shr = s.shr ∧ t.shrOut = s.shrOut ∧ t.plc = s.plc ∧ t.stas = s.stas ∧ t.met = s.met ∧ t.metOut
    = s.metOut ∧ t.enr = s.enr ∧ t.enrOut = s.enrOut ∧ t.bil = s.bil ∧ t.bilOut = s.bilOut ∧ t.aut = s.aut ∧ t.autOut =
    s.autOut ∧ t.tagJ = s.tagJ ∧ t.store = s.store ∧ t.kit = s.kit ∧ t.tie = s.tie ∧ t.key = s.key ∧ t.keys = s.keys ∧
    t.lsw = s.lsw ∧ t.epd = s.epd ∧ t.pwr = s.pwr ∧ t.upd = s.upd ∧ t.pmc = s.pmc ∧ t.cfg = s.cfg ∧ t.fresh = s.fresh ∧
    t.pending = s.pending) : EventsOnly s t := by
  cases s; cases t
  simp only at h
  obtain ⟨rfl, rfl, rfl, rfl, rfl, rfl, rfl, rfl, rfl, rfl, rfl, rfl, rfl, rfl, rfl, rfl, rfl, rfl, rfl, rfl, rfl, rfl, rfl, rfl, rfl, rfl, rfl, rfl, rfl, rfl, rfl, rfl, rfl, rfl, rfl, rfl, rfl, rfl, rfl, rfl⟩ := h
  rfl

theorem cmdStep_ready (op : Nat) (eff : Cmd → State → State) (c : Cmd) (s : State) (h : Ready s c op) :
    cmdStep [op] eff c s = eff c s := by
  obtain ⟨rfl, h2, h3⟩ := h
  obtain ⟨r, hr⟩ := Option.isSome_iff_exists.mp h2
  unfold cmdStep
  rw [if_pos (by simp), hr]
  dsimp only
  split
  · rename_i d hd; rw [if_pos (h3 d hd)]
  · rfl

theorem startable_cmd {s : State} {c : Cmd} (h : (startable s c).isSome) : InFlight s c := by
  unfold startable at h
  split at h
  · rename_i r hr
    split at h
    · rename_i hc; simp [InFlight, hr, hc.1]
    · simp at h
  · simp at h

theorem Ready.cmd {s : State} {c : Cmd} {op : Nat} (h : Ready s c op) : InFlight s c :=
  startable_cmd h.2.1

theorem cmdRec_congr {s t : State} (h : t.rng.cmds = s.rng.cmds) (r : Fin 16) (i : BitVec 32) : t.cmdRec r i = s.cmdRec r i := by
  unfold State.cmdRec; rw [h]

theorem cmdRec_key {s : State} {r : Fin 16} {i : BitVec 32} {x : CmdRec} (h : s.cmdRec r i = some x) : x.cmd.ring = r ∧ x.cmd.index = i := by
  have := List.find?_some h
  simpa using this

theorem onCmd_cmdRec (s : State) (r : Fin 16) (i : BitVec 32) (f : CmdRec → CmdRec) (hf : ∀ x, (f x).cmd = x.cmd) :
    (s.onCmd r i f).cmdRec r i = (s.cmdRec r i).map f := by
  unfold State.onCmd State.cmdRec
  simp only
  induction s.rng.cmds with
  | nil => rfl
  | cons x l ih =>
    simp only [List.map_cons, List.find?_cons]
    by_cases h : x.cmd.ring = r ∧ x.cmd.index = i
    · simp [h, hf]
    · rw [if_neg h]
      have h' : (x.cmd.ring == r && x.cmd.index == i) = false := by simpa using h
      simp only [h']
      exact ih

theorem ring_congr {s t : State} (h : t.rings = s.rings) (r : Fin 57) : t.ring r = s.ring r := by
  unfold State.ring; rw [h]

@[simp] theorem onRing_ring (s : State) (r : Fin 57) (f : Ring → Ring) : (s.onRing r f).ring r = f (s.ring r) := by
  simp [State.ring, State.onRing]

theorem signalRing_ring (s : State) (r : Fin 57) (b : Bool) :
    ((signalRing s r b).ring r).cplUnacked = (s.ring r).cplUnacked := by
  unfold signalRing; dsimp only
  split
  · rw [ring_congr (sendMsix_frame _ _).2.2.2.2.1, onRing_ring]
  · rfl

@[simp] theorem hostWrite_ring (s : State) (a : BitVec 64) (b : List Byte) (r : Fin 57) : (s.hostWrite a b).ring r = s.ring r :=
  ring_congr (by simp) r

@[simp] theorem writeEntry_ring (s : State) (r : Fin 57) (i : BitVec 32) (w : Nat) (l : List Word) (k : Fin 57) :
    (s.writeEntry r i w l).ring k = s.ring k := ring_congr (by simp) k

theorem putCpl_unacked (s : State) (r : Fin 57) (x : Completion) :
    { x with lastGseq := some (x.lastGseq.getD s.keep.gseq) } ∈ ((putCpl s r x).ring r).cplUnacked := by
  unfold putCpl afterEntry
  dsimp only
  rw [signalRing_ring]
  simp [writeBack]

theorem writeCpl_done (s : State) (r : CmdRec) (st : BitVec 8) (v : BitVec 32) : Done (writeCpl s r st v) r.cmd st v := by
  left
  unfold writeCpl
  dsimp only
  split
  · refine ⟨_, List.mem_append_right _ (putCpl_unacked _ _ _), rfl, rfl, rfl, rfl⟩
  · refine ⟨mkCpl r st v, List.mem_append_left _ ?_, rfl, rfl, rfl, rfl⟩
    simp

theorem complete_done {s : State} {c : Cmd} (h : InFlight s c) (st : BitVec 8) (v : BitVec 32) :
    Done (complete s c st v) c st v := by
  obtain ⟨r, hr, hc⟩ := Option.map_eq_some_iff.mp h
  unfold complete
  rw [hr]
  dsimp only
  have e : (mirrorDone s c st v).cmdRec c.ring c.index = some r := by
    rw [← hr]
    unfold mirrorDone
    split_ifs
    · exact cmdRec_congr rfl _ _
    · rfl
  split_ifs
  · exact Or.inr ⟨{ r with phase := .done st v none }, by
      rw [onCmd_cmdRec _ c.ring c.index (fun x => { x with phase := .done st v none }) fun _ => rfl, e]; rfl, rfl⟩
  · exact hc ▸ writeCpl_done _ r st v

theorem complete_completes {s : State} {c : Cmd} (h : InFlight s c) (st : BitVec 8)
    (v : BitVec 32) : Completes s c st v (complete s c st v) :=
  ⟨complete_done h st v, RingsOnly_of (by simp)⟩

/-- What a ready command's meaning gives where its effect completes it on the spot. -/
theorem ready_completes {s : State} {c : Cmd} {op : Nat} (h : Ready s c op) (st : BitVec 8) (v : BitVec 32) :
    Completes s c st v (complete s c st v) := complete_completes h.cmd st v
end Sys2Proof.Machine
end

