-- ==== Sys2Proof/Laws/Settings.lean ====
section
/-! SUPPORT. The range-checked settings stay in their ranges: at reset, under every register write, and under the commands that
write registers. -/

namespace Sys2Proof.Machine

/-- The queue is kept, and so are the ranges of the settings. -/
def Kept (s t : State) : Prop := t.pending = s.pending ∧ (s.cfg.InRange → t.cfg.InRange)

theorem Kept.of {s t : State} (h : t.cfg = s.cfg ∧ t.pending = s.pending) : Kept s t := ⟨h.2, fun x => h.1 ▸ x⟩

theorem Kept.refl (s : State) : Kept s s := ⟨rfl, id⟩

theorem Kept.trans {s t u : State} (h : Kept s t) (k : Kept t u) : Kept s u := ⟨k.1.trans h.1, k.2 ∘ h.2⟩

theorem settings_reset : ({} : Settings).InRange := by
  constructor <;> decide

theorem fld_lt (v : Word) (lo n : Nat) : fld v lo n < 2 ^ n := Nat.mod_lt _ (by positivity)

theorem Kept.write {s : State} (f : Settings → Settings) (t : State) (hp : t.pending = s.pending) (hc : t.cfg = f s.cfg)
    (h : s.cfg.InRange → (f s.cfg).InRange) : Kept s t := ⟨hp, fun x => hc ▸ h x⟩

theorem writeSyncLimit_kept (s : State) (v : Word) : Kept s (writeSyncLimit s v) := by
  refine ⟨rfl, fun h => { h with sync := ?_ }⟩
  obtain ⟨h1, h2, h3, h4⟩ := h.sync
  dsimp only [writeSyncLimit]
  generalize fld v 0 20 = a
  generalize fld v 20 12 = b
  split_ifs <;> omega

theorem writeTim_kept (s : State) (off : Nat) (v : Word) : Kept s (writeTim s off v) := by
  unfold writeTim
  extract_lets t
  by_cases h0 : off = 0
  · rw [if_pos h0]; exact .of (writeTimCfg_keeps _ _)
  rw [if_neg h0]
  by_cases h0 : off = 4
  · rw [if_pos h0]; exact .of ⟨rfl, rfl⟩
  rw [if_neg h0]
  by_cases h0 : off = 0x2C
  · rw [if_pos h0]; exact writeSyncLimit_kept _ _
  rw [if_neg h0]; exact .refl _

theorem writeStr_kept (s : State) (off : Nat) (v : Word) : Kept s (writeStr s off v) := by
  unfold writeStr
  extract_lets x wd oc
  clear_value wd oc
  repeat' split
  · rename_i h
    exact ⟨rfl, fun k => { k with strings := h }⟩
  all_goals exact .of (by simp)

theorem slc_kept {s : State} {f : Settings → Settings} (h : s.cfg.InRange → (f s.cfg).InRange) : Kept s { s with cfg := f s.cfg } :=
  ⟨rfl, h⟩

theorem writePlc_kept (s : State) (off : Nat) (v : Word) : Kept s (writePlc s off v) := by
  unfold writePlc
  extract_lets +onlyGivenNames p
  by_cases h0 : off = 0
  · rw [if_pos h0]; exact .of (writePlcCfg_keeps _ _)
  rw [if_neg h0]
  by_cases h0 : off = 4
  · rw [if_pos h0]; exact .of (writeMacLo_keeps _ _)
  rw [if_neg h0]
  by_cases h0 : off = 8
  · rw [if_pos h0]; exact .of (writeMacHi_keeps _ _)
  rw [if_neg h0]
  by_cases h0 : off = 0xC
  · rw [if_pos h0]; exact .of ⟨rfl, rfl⟩
  rw [if_neg h0]
  by_cases h0 : off = 0x100
  · rw [if_pos h0]
    extract_lets a b c
    clear_value a b c
    split_ifs with h
    · exact ⟨rfl, fun k => { k with slacWin := h }⟩
    · exact .refl _
  rw [if_neg h0]
  by_cases h0 : off = 0x104
  · rw [if_pos h0]
    extract_lets a b c d
    have hd : d < 4 := fld_lt v 24 2
    clear_value a b c d
    split_ifs with h
    · obtain ⟨h1, h2, h3, h4, h5, h6, h7⟩ := h
      refine ⟨rfl, fun k => { k with slacScore := ⟨h1, h2, h3, h4, h5, h6, fun e => h7 ?_⟩ }⟩
      have : ∀ d : Nat, d < 4 → BitVec.ofNat 2 d = 3#2 → d = 3 := by decide
      exact this d hd e
    · exact .refl _
  rw [if_neg h0]
  by_cases h0 : off = 0x108
  · rw [if_pos h0]
    extract_lets a b
    clear_value a b
    split_ifs with h
    · exact ⟨rfl, fun k => { k with toggle := h }⟩
    · exact .refl _
  rw [if_neg h0]; exact .refl _

theorem writeShr_kept (s : State) (off : Nat) (v : Word) : Kept s (writeShr s off v) := by
  unfold writeShr
  extract_lets +onlyGivenNames h n
  by_cases h0 : off = 0
  · rw [if_pos h0]; exact .of (writeShrCfg_keeps _ _)
  rw [if_neg h0]
  by_cases h0 : off = 4
  · rw [if_pos h0]; exact .of ⟨rfl, rfl⟩
  rw [if_neg h0]
  by_cases h0 : off = 0x1C
  · rw [if_pos h0]; exact .of ⟨rfl, rfl⟩
  rw [if_neg h0]
  by_cases h0 : off = 0x20
  · rw [if_pos h0]; exact .of (writeSitePower_keeps _ _)
  rw [if_neg h0]
  by_cases h0 : off = 0x24
  · rw [if_pos h0]; exact .of ⟨rfl, rfl⟩
  rw [if_neg h0]
  by_cases h0 : off = 0x28
  · rw [if_pos h0]
    split_ifs with h
    · refine ⟨rfl, fun k => { k with share := ⟨?_, k.share.2⟩ }⟩
      have e : (Vector.ofFn fun (k : Fin 4) => fld v (8 * k.val) 8).toList.sum
          = fld v 0 8 + fld v 8 8 + fld v 16 8 + fld v 24 8 := by
        simp [Vector.toList_ofFn, List.ofFn_succ]; omega
      exact e ▸ h
    · exact .refl _
  rw [if_neg h0]
  by_cases h0 : off = 0x2C
  · rw [if_pos h0]
    have hd : fld v 8 8 < 256 := fld_lt v 8 8
    split_ifs with h
    · exact ⟨rfl, fun k => { k with share := ⟨k.share.1, h.1, h.2, by dsimp only; omega, k.share.2.2.2.2⟩ }⟩
    · exact .refl _
  rw [if_neg h0]
  by_cases h0 : off = 0x54
  · rw [if_pos h0]
    clear_value n
    split_ifs with h
    · exact ⟨rfl, fun k => { k with share := ⟨k.share.1, k.share.2.1, k.share.2.2.1, k.share.2.2.2.1, h⟩ }⟩
    · exact .refl _
  rw [if_neg h0]
  repeat' split
  all_goals exact .of ⟨rfl, rfl⟩

theorem writeEnr_kept (s : State) (off : Nat) (v : Word) : Kept s (writeEnr s off v) := by
  unfold writeEnr
  extract_lets +onlyGivenNames e
  by_cases h0 : off = 0
  · rw [if_pos h0]; exact .of (writeEnrCfg_keeps _ _)
  rw [if_neg h0]
  by_cases h0 : off = 4
  · rw [if_pos h0]; exact .of ⟨rfl, rfl⟩
  rw [if_neg h0]
  by_cases h0 : off = 0x10
  · rw [if_pos h0]
    extract_lets a b c
    have hb : b < 2 ^ 16 := fld_lt v 10 16
    have hc : c < 2 ^ 4 := fld_lt v 26 4
    clear_value a b c
    split_ifs with h
    · exact ⟨rfl, fun k => { k with balance := ⟨h.1, h.2.1, by dsimp only; omega, h.2.2, by dsimp only; omega, k.balance.2.2.2.2.2⟩ }⟩
    · exact .refl _
  rw [if_neg h0]
  by_cases h0 : off = 0x14
  · rw [if_pos h0]
    by_cases h : v.toNat ≤ 1000000
    · rw [if_pos h]
      exact ⟨rfl, fun k => { k with balance := ⟨k.balance.1, k.balance.2.1, k.balance.2.2.1, k.balance.2.2.2.1, k.balance.2.2.2.2.1, h,
        k.balance.2.2.2.2.2.2⟩ }⟩
    · rw [if_neg h]; exact .refl _
  rw [if_neg h0]
  by_cases h0 : off = 0x18
  · rw [if_pos h0]
    extract_lets t
    clear_value t
    split_ifs with h
    · exact ⟨rfl, fun k => { k with balance := ⟨k.balance.1, k.balance.2.1, k.balance.2.2.1, k.balance.2.2.2.1, k.balance.2.2.2.2.1,
        k.balance.2.2.2.2.2.1, h⟩ }⟩
    · exact .refl _
  rw [if_neg h0]
  repeat' split
  all_goals exact .of (by simp)

theorem revote_kept {s t : State} (h : Kept s t) : Kept s t.revote :=
  h.trans (.of (State.revote_keeps _))

theorem writeAutCfg_kept (s : State) (v : Word) : Kept s (writeAutCfg s v) := by
  unfold writeAutCfg
  extract_lets p g
  have hp : p < 2 ^ 8 := fld_lt v 8 8
  clear_value p g
  split_ifs with h
  · exact .refl _
  · exact revote_kept ⟨rfl, fun k => { k with readers := by dsimp only; omega }⟩

theorem writeAut_kept (s : State) (off : Nat) (v : Word) : Kept s (writeAut s off v) := by
  unfold writeAut
  extract_lets +onlyGivenNames a
  by_cases h0 : off = 0
  · rw [if_pos h0]; exact writeAutCfg_kept _ _
  rw [if_neg h0]
  by_cases h0 : off = 4
  · rw [if_pos h0]; exact .of ⟨rfl, rfl⟩
  rw [if_neg h0]
  by_cases h0 : off = 0x20
  · rw [if_pos h0]
    extract_lets n
    clear_value n
    split_ifs <;> exact .of ⟨rfl, rfl⟩
  rw [if_neg h0]
  repeat' split
  all_goals exact .of (by simp)

theorem writeLswCfg_kept (s : State) (v : Word) : Kept s (writeLswCfg s v) := by
  unfold writeLswCfg
  extract_lets +onlyGivenNames w
  clear_value w
  split_ifs with h
  · exact ⟨rfl, fun k => { k with watchdog := by simpa using k.watchdog }⟩
  · exact ⟨rfl, fun k => { k with watchdog := h }⟩
  · exact .refl _

theorem writeLsw_kept (s : State) (off : Nat) (v : Word) : Kept s (writeLsw s off v) := by
  unfold writeLsw
  extract_lets +onlyGivenNames w
  by_cases h0 : off = 0
  · rw [if_pos h0]; exact writeLswCfg_kept _ _
  rw [if_neg h0]
  by_cases h0 : off = 4
  · rw [if_pos h0]; exact .of ⟨rfl, rfl⟩
  rw [if_neg h0]
  repeat' split
  all_goals exact .of (by simp)

theorem writePwr_kept (s : State) (off : Nat) (v : Word) : Kept s (writePwr s off v) := by
  unfold writePwr
  extract_lets +onlyGivenNames p
  by_cases h0 : off = 0
  · rw [if_pos h0]
    have hp : fld v 8 8 < 2 ^ 8 := fld_lt v 8 8
    split_ifs with h
    · exact .refl _
    · exact revote_kept ⟨rfl, fun k => { k with power := ⟨by dsimp only; omega, by dsimp only; omega, k.power.2.2⟩ }⟩
  rw [if_neg h0]
  by_cases h0 : off = 4
  · rw [if_pos h0]; exact .of ⟨rfl, rfl⟩
  rw [if_neg h0]
  by_cases h0 : off = 0xC
  · rw [if_pos h0]; exact revote_kept (.of ⟨rfl, rfl⟩)
  rw [if_neg h0]
  by_cases h0 : off = 0x10
  · rw [if_pos h0]
    refine ⟨rfl, fun k => { k with power := ⟨k.power.1, k.power.2.1, ?_⟩ }⟩
    dsimp only
    generalize BitVec.ofNat 9 (fld v 0 9) = x
    revert x
    decide
  rw [if_neg h0]
  split_ifs
  all_goals exact .of (by simp)

theorem writeUpd_kept (s : State) (off : Nat) (v : Word) : Kept s (writeUpd s off v) := by
  unfold writeUpd
  extract_lets u t
  clear_value t
  split_ifs with h0 h
  · exact ⟨rfl, fun k => { k with update := h }⟩
  all_goals exact .of ⟨rfl, rfl⟩

theorem writeReg_kept (s : State) (off : Nat) (v : Word) : Kept s (writeReg s off v) := by
  unfold writeReg
  extract_lets blk r
  split
  · exact .refl _
  clear_value blk r
  split
  all_goals first
    | exact writeTim_kept _ _ _ | exact writeStr_kept _ _ _ | exact writeShr_kept _ _ _ | exact writePlc_kept _ _ _
    | exact writeEnr_kept _ _ _ | exact writeAut_kept _ _ _ | exact writeLsw_kept _ _ _ | exact writePwr_kept _ _ _
    | exact writeUpd_kept _ _ _ | exact .of (by simp)

theorem effWriteRegister_kept (c : Cmd) (s : State) : Kept s (effWriteRegister c s) := by
  unfold effWriteRegister
  split
  · exact .of (by simp)
  · rename_i off _
    split_ifs
    · exact (writeReg_kept s off (wAt c.params 1)).trans (.of (by simp))
    · exact .of (by simp)

theorem cmdStep_kept (ops : List Nat) (eff : Cmd → State → State) (c : Cmd) (s : State) (h : Kept s (eff c s)) :
    Kept s (cmdStep ops eff c s) := by
  unfold cmdStep
  repeat' split
  all_goals first | exact h | exact .of (by simp)

theorem viaHost_kept (s : State) (f : State → State) (h : ∀ s, Kept s (f s)) : Kept s (viaHost s f) := by
  unfold viaHost
  split
  · exact Kept.trans (.of ⟨rfl, rfl⟩) (h _)
  · exact .refl _

theorem viaBar_kept (s : State) (blk : Nat) (f : State → State) (h : ∀ s, Kept s (f s)) : Kept s (viaBar s blk f) := by
  refine viaHost_kept _ _ fun s => ?_
  split
  · exact h _
  · exact .refl _

theorem pick_kept (l : List (Cmd → State → State)) (hl : ∀ f ∈ l, ∀ c s, Kept s (f c s)) (i : Nat) (c : Cmd) (s : State) :
    Kept s (((l[i]?).getD fun _ s => s) c s) := by
  rcases Nat.lt_or_ge i l.length with h | h
  · rw [List.getElem?_eq_getElem h]; exact hl _ (List.getElem_mem h) _ _
  · rw [List.getElem?_eq_none h]; exact .refl _

theorem effOf_kept (op : Nat) (c : Cmd) (s : State) : Kept s (effOf op c s) := by
  unfold effOf
  generalize op / 256 = a
  generalize op % 256 = i
  by_cases h1 : i = 0x10
  · simp only [if_pos h1]
    split
    all_goals try split_ifs
    all_goals try exact Kept.of (by simp)
    all_goals
      (refine pick_kept _ ?_ _ _ _
       simp only [List.forall_mem_cons, List.not_mem_nil, false_imp_iff, implies_true, and_true]
       repeat' apply And.intro
       all_goals (intro c s; first | exact effWriteRegister_kept _ _ | exact .of (by simp)))
  by_cases h2 : i = 0x11
  · simp only [if_neg h1, if_pos h2]
    split
    all_goals try split_ifs
    all_goals try exact Kept.of (by simp)
    all_goals
      (refine pick_kept _ ?_ _ _ _
       simp only [List.forall_mem_cons, List.not_mem_nil, false_imp_iff, implies_true, and_true]
       repeat' apply And.intro
       all_goals (intro c s; first | exact effWriteRegister_kept _ _ | exact .of (by simp)))
  · simp only [if_neg h1, if_neg h2]
    split
    all_goals try split_ifs
    all_goals try exact Kept.of (by simp)
    all_goals
      (refine pick_kept _ ?_ _ _ _
       simp only [List.forall_mem_cons, List.not_mem_nil, false_imp_iff, implies_true, and_true]
       repeat' apply And.intro
       all_goals (intro c s; first | exact effWriteRegister_kept _ _ | exact .of (by simp)))

theorem commandFires_kept (r : Fin 16) (i : BitVec 32) (s : State) : Kept s (commandFires r i s) := by
  unfold commandFires
  split
  · split_ifs
    · exact Kept.trans (.of (fireCmdMark_keeps _ _ _)) (cmdStep_kept _ _ _ _ (effOf_kept _ _ _))
    · exact .refl _
  · exact .refl _

theorem fireMark_kept (a : MarkAct) (s : State) : Kept s (fireMark a s) := by
  cases a
  case command => exact commandFires_kept _ _ _
  all_goals exact .of (by simp [fireMark])

theorem fireBefore_kept (n : Nat) (k : Nat × MarkAct) (s : State) : Kept s (fireBefore n k s) := by
  induction n generalizing s with
  | zero => exact .refl _
  | succ n ih =>
    unfold fireBefore
    repeat' split
    · exact (fireMark_kept _ _).trans (ih _)
    · exact .refl _
    · exact .refl _

theorem inOrder_kept (a : MarkAct) (s : State) : Kept s (inOrder a s) := by
  unfold inOrder
  split
  · exact fireBefore_kept _ _ _
  · exact .refl _

theorem afterJump_kept (s t : State) : Kept t (afterJump s t) := by
  unfold afterJump
  split
  · refine Kept.trans ?_ (fireBefore_kept _ _ _)
    split
    · exact (inOrder_kept .commit _).trans (.of (by simp))
    · exact .refl _
  · exact .refl _

theorem fireLate_kept (o : MarkOwner) (s : State) : Kept s (fireLate o s) := by
  unfold fireLate
  split
  · exact fireBefore_kept _ _ _
  · exact .refl _

/-- The rows of one mark: the marks before it fire, then it does. -/
theorem execMark_kept (a : MarkAct) (f : State → State) (s : State) (h : ∀ s, (f s).cfg = s.cfg ∧ (f s).pending = s.pending) :
    ∃ t, (Host.Outcome.next (f (inOrder a s)) : Res) = .next t ∧ Kept s t :=
  ⟨_, rfl, (inOrder_kept a s).trans (.of (h _))⟩

theorem execCommit_kept (fault : Fin 3) (s : State) : ∃ t, execCommit fault s = .next t ∧ Kept s t :=
  execMark_kept .commit (commitFires fault) s fun s => by simp

theorem execZeroPointMark_kept (o : Fin 128) (aux : Bool) (s : State) : ∃ t, execZeroPointMark o aux s = .next t ∧ Kept s t :=
  execMark_kept (.switch o aux) (switchFires o aux) s fun s => by simp

theorem execTimerExpiry_kept (o : Fin 128) (t : Fin 4) (s : State) : ∃ u, execTimerExpiry o t s = .next u ∧ Kept s u :=
  execMark_kept (.timer o t) (timerFires o t) s fun s => by simp

theorem execCommandAtMark_kept (r : Fin 16) (i : BitVec 32) (s : State) : ∃ t, execCommandAtMark r i s = .next t ∧ Kept s t :=
  ⟨_, rfl, (inOrder_kept _ s).trans (commandFires_kept _ _ _)⟩

theorem execShareSnapshot_kept (s : State) : ∃ t, execShareSnapshot s = .next t ∧ Kept s t :=
  execMark_kept .snapshot snapshotFires s fun s => by simp

theorem execShareApply_kept (s : State) : ∃ t, execShareApply s = .next t ∧ Kept s t :=
  execMark_kept .apply applyFires s fun s => by simp

theorem execKiteReport_kept (s : State) : ∃ t, execKiteReport s = .next t ∧ Kept s t :=
  execMark_kept .kite kiteFires s fun s => by simp

theorem execConfigurationActivation_kept (s : State) : ∃ t, execConfigurationActivation s = .next t ∧ Kept s t :=
  execMark_kept .config configFires s fun s => by simp

theorem execTableSwitch_kept (s : State) : ∃ t, execTableSwitch s = .next t ∧ Kept s t :=
  execMark_kept .table tableFires s fun s => by simp

theorem execMainsLocked_kept (l : List SrcCycle) (a : BitVec 16) (s : State) : ∃ t, execMainsLocked l a s = .next t ∧ Kept s t :=
  ⟨_, rfl, Kept.trans (.of (by simp)) (afterJump_kept s _)⟩

theorem execTiePortUp_kept (p : Fin 4) (x : TiePeer) (s : State) : ∃ t, execTiePortUp p x s = .next t ∧ Kept s t :=
  ⟨_, rfl, Kept.trans (.of (by simp)) (afterJump_kept s _)⟩

theorem execTieFrameReceived_kept (p : Fin 4) (n : Nat) (m : TieMsg) (s : State) :
    ∃ t, execTieFrameReceived p n m s = .next t ∧ Kept s t :=
  ⟨_, rfl, Kept.trans (.of (by simp)) (afterJump_kept s _)⟩

theorem execActivateConfiguration_kept (c : Cmd) (s : State) : ∃ t, execActivateConfiguration c s = .next t ∧ Kept s t :=
  ⟨_, rfl, Kept.trans (cmdStep_kept _ _ _ _ (.of (by simp))) (fireLate_kept _ _)⟩

theorem execStoreChangeReceived_kept (seq slot : Nat) (b : List (BitVec 8)) (s : State) :
    ∃ t, execStoreChangeReceived seq slot b s = .next t ∧ Kept s t :=
  ⟨_, rfl, Kept.trans (.of (by simp)) (fireLate_kept _ _)⟩

theorem uartWork_kept (s : State) (c : Cmd) : Kept s (uartWork s c).1 := by
  unfold uartWork
  extract_lets k role held back s1 s2 g3 s3 s4 done wait answer g5 s5 s6
  have hb : ∀ s, Kept s (back s) := fun s => .of (by simp [back])
  have h1 : Kept s s1 := .of (by simp [s1])
  have h2 : Kept s s2 := h1.trans (.of (by simp [s2]))
  have h3 : Kept s s3 := h2.trans (.of ⟨rfl, rfl⟩)
  have h4 : Kept s s4 := h3.trans (effOf_kept _ _ _)
  have h5 : Kept s s5 := h4.trans (.of ⟨rfl, rfl⟩)
  have h6 : Kept s s6 := h5.trans (.of (by simp only [s6]; split <;> simp))
  clear_value s1 s2 s3 s4 s5 s6 back answer
  split
  · exact h1.trans (hb _)
  · exact h6.trans (hb _)

theorem execServiceUartCommand_kept (d : List (BitVec 32)) (data : List (BitVec 8)) (s : State) :
    ∃ t, execServiceUartCommand d data s = .next t ∧ Kept s t := by
  refine ⟨_, rfl, ?_⟩
  split_ifs
  · have h := uartWork_kept s (uartCmd d data)
    dsimp only
    split
    · exact h.trans (.of (by simp))
    · exact h
  · exact .refl _

theorem execRegisterWrite_kept (bar : Fin 4) (off : Nat) (v : BitVec 32) (s : State) :
    ∃ t, execRegisterWrite bar off v s = .next t ∧ Kept s t := by
  refine ⟨_, rfl, viaHost_kept _ _ fun s => ?_⟩
  split
  · exact writeReg_kept _ _ _
  · exact .of (writeBar2_keeps _ _ _)
  · exact .of (writeBar4_keeps _ _ _)
  · exact .of (writeConfig_keeps _ _ _)

theorem release_kept (s : State) (slot : BitVec 2) (side dbg k : Bool) (n : Nat) : Kept s (release s slot side dbg k n) :=
  have h := release_keeps s slot side dbg k n
  ⟨h.2, fun _ => h.1 ▸ settings_reset⟩

theorem execPowerOnResetRelease_kept (slot : BitVec 2) (side dbg : Bool) (g : Fin 5) (s : State) :
    ∃ t, execPowerOnResetRelease slot side dbg g s = .next t ∧ Kept s t := by
  refine ⟨_, rfl, ?_⟩
  split_ifs
  · exact release_kept _ _ _ _ _ _
  · exact .refl _

theorem execVinReturnLeavingKeep_kept (vin : Nat) (slot : BitVec 2) (side dbg : Bool) (g : Fin 5) (s : State) :
    ∃ t, execVinReturnLeavingKeep vin slot side dbg g s = .next t ∧ Kept s t := by
  refine ⟨_, rfl, Kept.trans (t := seeVin s vin) (.of (by simp)) ?_⟩
  dsimp only
  repeat' split
  · exact Kept.trans (.of (by simp)) (release_kept _ _ _ _ _ _)
  all_goals exact .of (by simp)

theorem execAutCfgLock_kept (v : BitVec 32) (s : State) : ∃ t, execAutCfgLock v s = .next t ∧ Kept s t :=
  ⟨_, rfl, viaBar_kept _ _ _ fun _ => writeAutCfg_kept _ _⟩

theorem execLswCfgLock_kept (v : BitVec 32) (s : State) : ∃ t, execLswCfgLock v s = .next t ∧ Kept s t :=
  ⟨_, rfl, viaBar_kept _ _ _ fun _ => writeLswCfg_kept _ _⟩

theorem execWriteRegister_kept (c : Cmd) (s : State) : ∃ t, execWriteRegister c s = .next t ∧ Kept s t :=
  ⟨_, rfl, cmdStep_kept _ _ _ _ (effWriteRegister_kept _ _)⟩

theorem idle_kept (s : State) : Kept s (idle s) := .of (by simp [idle])

theorem kept_of_keeps {o : Host.Outcome State Fault Refusal} {s : State}
    (h : ∃ t, o = .next t ∧ t.cfg = s.cfg ∧ t.pending = s.pending) : ∃ t, o = .next t ∧ Kept s t := by
  obtain ⟨t, rfl, h⟩ := h
  exact ⟨t, rfl, .of h⟩

end Sys2Proof.Machine
end

