-- ==== Sys2Proof/Laws/Rings.lean ====
section
/-! SUPPORT. Rings: what sending entries, completions and events does to the rings and to commands in flight. -/

namespace Sys2Proof.Machine

theorem next_if {c : Prop} [Decidable c] (h : c) (a b : State) :
    (Host.Outcome.next (if c then a else b) : Host.Outcome State Fault Refusal) = .next a := by rw [if_pos h]

theorem putEvt_unacked (s : State) (r : Fin 57) (e : Event) : e ∈ ((putEvt s r e).ring r).evtUnacked := by
  unfold putEvt afterEntry signalRing
  dsimp only
  split
  · rw [ring_congr (sendMsix_frame _ _).2.2.2.2.1, onRing_ring]
    simp [writeBack, State.ring, State.onRing, State.send]
  · simp [writeBack, State.ring, State.onRing, State.send]

theorem writeEvt_unacked (s : State) (r : Fin 57) (e : Event) : ∃ e' ∈ ((writeEvt s r e).ring r).evtUnacked,
    e'.ident = e.ident ∧ e'.code = e.code ∧ e'.outlet = e.outlet ∧ e'.payload = e.payload ∧ e'.causeTag = e.causeTag :=
  ⟨_, putEvt_unacked _ _ _, rfl, rfl, rfl, rfl, rfl⟩

theorem newEvent_event (s : State) (code : Nat) (o : Option (Fin 128)) (p : List Byte) (k : Option Cmd) :
    (newEvent s code o p k).2.code = BitVec.ofNat 16 code ∧ (newEvent s code o p k).2.outlet = o ∧
    (newEvent s code o p k).2.payload = p ∧ (newEvent s code o p k).2.ident = s.rng.posted + 1 ∧
    (newEvent s code o p k).2.causeTag = (k.map (·.tag)).getD 0 := ⟨rfl, rfl, rfl, rfl, rfl⟩

theorem famBit (n : Nat) (h : n < 17) : (BitVec.ofNat 32 (2 ^ n)).getLsbD n = true := by
  interval_cases n <;> decide

theorem foldEvt_sum (s : State) (e : Event) (h : e.code.toNat / 256 < 17) :
    ∃ x ∈ (foldEvt s e).rng.lostSums, x.outlet = e.outlet ∧ x.families.getLsbD (e.code.toNat / 256) = true := by
  have hb := famBit _ h
  have hs : ∀ (s : State) (v : BitVec 6), (sendMsix s v).rng.lostSums = s.rng.lostSums := by
    intro s v; unfold sendMsix; repeat' split
    all_goals rfl
  unfold foldEvt rngInt
  dsimp only
  rw [hs]
  dsimp only
  split
  · rename_i h1
    simp only [List.any_eq_true, beq_iff_eq] at h1
    obtain ⟨x, hx, ho⟩ := h1
    refine ⟨_, List.mem_map.mpr ⟨x, hx, rfl⟩, ?_⟩
    rw [if_pos ho]
    exact ⟨ho, by simp only [BitVec.getLsbD_or, hb, Bool.or_true]⟩
  · exact ⟨_, List.mem_append_right _ (List.mem_singleton_self _), rfl, hb⟩

@[simp] theorem judgeBacklog_backlog (s : State) : (judgeBacklog s).rng.backlog = s.rng.backlog := rfl

theorem enqueue_kept (s : State) (e : Event) (h : e.code.toNat / 256 < 17) :
    (∃ e', e'.ident = e.ident ∧ e'.code = e.code ∧ e'.outlet = e.outlet ∧ e'.payload = e.payload ∧
      e' ∈ (placeEvt.enqueue s e).rng.backlog) ∨
    ∃ x ∈ (placeEvt.enqueue s e).rng.lostSums, x.outlet = e.outlet ∧ x.families.getLsbD (e.code.toNat / 256) = true := by
  have hs : ∀ (s : State) (v : BitVec 6), (sendMsix s v).rng.backlog = s.rng.backlog := by
    intro s v; unfold sendMsix; repeat' split
    all_goals rfl
  unfold placeEvt.enqueue
  dsimp only
  split_ifs
  · left; refine ⟨{ e with resv := false }, rfl, rfl, rfl, rfl, ?_⟩
    unfold rngInt; rw [hs]; simp
  · left; exact ⟨{ e with resv := false }, rfl, rfl, rfl, rfl, by simp⟩
  · left; refine ⟨{ e with resv := true }, rfl, rfl, rfl, rfl, ?_⟩
    unfold rngInt; rw [hs]; simp
  · left; exact ⟨{ e with resv := true }, rfl, rfl, rfl, rfl, by simp⟩
  · right; exact foldEvt_sum s e h

theorem ready_eq {op : Nat} {eff : Cmd → State → State} {c : Cmd} {s t : State} (h : Ready s c op) (e : eff c s = t) :
    (Host.Outcome.next (cmdStep [op] eff c s) : Host.Outcome State Fault Refusal) = .next t := by
  rw [cmdStep_ready _ _ _ _ h, e]

theorem exec_ready {op : Nat} {eff : Cmd → State → State} {c : Cmd} {s : State} (h : Ready s c op) :
    (Host.Outcome.next (cmdStep [op] eff c s) : Host.Outcome State Fault Refusal) = .next (eff c s) := by
  rw [cmdStep_ready _ _ _ _ h]

theorem viaHost_reaches {s : State} (h : HostReaches s) (f : State → State) : viaHost s f = f s := by
  obtain ⟨h1, h2, h3, h4, h5⟩ := h
  have g : { s.rng with linkUp := true, d3hot := false } = s.rng := by
    cases hr : s.rng
    rw [hr] at h4 h5
    simp only at h4 h5
    simp only [h4, h5]
  have e : { s with rng := { s.rng with linkUp := true, d3hot := false } } = s := by rw [g]
  unfold viaHost
  rw [if_pos (by simp [h1, h2, h3]), e]

theorem inFlight_cmds {s t : State} {c : Cmd} (h : InFlight s c) (g : CmdRec → CmdRec) (hg : ∀ x, (g x).cmd = x.cmd)
    (e : t.rng.cmds = s.rng.cmds.map g) : InFlight t c := by
  unfold InFlight State.cmdRec at *
  rw [e]
  revert h
  induction s.rng.cmds with
  | nil => simp
  | cons x l ih =>
    simp only [List.map_cons, List.find?_cons, hg]
    split <;> rename_i hh
    · simp [hg]
    · exact ih

theorem inFlight_same {s t : State} {c : Cmd} (h : InFlight s c) (e : t.rng.cmds = s.rng.cmds) : InFlight t c :=
  inFlight_cmds h id (fun _ => rfl) (by simpa using e)

@[simp] theorem sendMsix_cmds (s : State) (v : BitVec 6) : (sendMsix s v).rng.cmds = s.rng.cmds := by
  unfold sendMsix; repeat' split
  all_goals rfl

theorem signalRing_cmds (s : State) (r : Fin 57) (b : Bool) : (signalRing s r b).rng.cmds = s.rng.cmds := by
  unfold signalRing; dsimp only; split
  · rw [sendMsix_cmds]; rfl
  · rfl

theorem putEvt_cmds (s : State) (r : Fin 57) (e : Event) : (putEvt s r e).rng.cmds = s.rng.cmds := by
  unfold putEvt afterEntry; dsimp only; rw [signalRing_cmds]; simp [writeBack]

theorem inFlight_writeEvt {s : State} {c : Cmd} (h : InFlight s c) (r : Fin 57) (e : Event) : InFlight (writeEvt s r e) c := by
  refine inFlight_cmds h (fun k => if e.byCmd ∧ k.cmd.ring = e.cmdRing ∧ k.cmd.index = e.cmdIndex then { k with lastGseq := some (s.keep.gseq + 1) } else k)
    (fun x => by split <;> rfl) ?_
  have hn : (numberEvt s e).1.rng.cmds = s.rng.cmds.map
      (fun k => if e.byCmd ∧ k.cmd.ring = e.cmdRing ∧ k.cmd.index = e.cmdIndex then { k with lastGseq := some (s.keep.gseq + 1) } else k) := by
    unfold numberEvt
    simp only [markRecord_frame]
  unfold writeEvt
  dsimp only
  rw [putEvt_cmds, ← hn]
  split <;> rfl

theorem inFlight_newEvent {s : State} {c : Cmd} (h : InFlight s c) (code : Nat) (o : Option (Fin 128)) (p : List Byte) (k : Option Cmd) :
    InFlight (newEvent s code o p k).1 c := by
  refine inFlight_same h ?_
  unfold newEvent
  dsimp only
  split <;> split <;> simp

theorem mem_evtRingsOn (s : State) (r : Fin 57) : r ∈ evtRingsOn s ↔ ∃ k : Fin 8, evtRing k = r ∧ (s.ring r).en = true := by
  unfold evtRingsOn
  simp only [List.mem_filter, List.mem_map, List.mem_range]
  constructor
  · rintro ⟨⟨k, hk, rfl⟩, h⟩; exact ⟨⟨k, hk⟩, rfl, h⟩
  · rintro ⟨k, rfl, h⟩; exact ⟨⟨k.val, k.isLt, rfl⟩, h⟩

theorem onRing_ring_of {s : State} {r k : Fin 57} (f : Ring → Ring) (h : r ≠ k) : (s.onRing r f).ring k = s.ring k := by
  simp [State.ring, State.onRing, vget_vmod, h]

theorem signalRing_evtUnacked (s : State) (r k : Fin 57) (b : Bool) :
    ((signalRing s r b).ring k).evtUnacked = (s.ring k).evtUnacked := by
  unfold signalRing; dsimp only
  split
  · rw [ring_congr (sendMsix_frame _ _).2.2.2.2.1]
    by_cases h : r = k
    · subst h; rw [onRing_ring]
    · rw [onRing_ring_of _ h]
  · rfl

theorem putEvt_mono (s : State) (r k : Fin 57) (e x : Event) (h : x ∈ (s.ring k).evtUnacked) : x ∈ ((putEvt s r e).ring k).evtUnacked := by
  unfold putEvt afterEntry
  dsimp only
  rw [signalRing_evtUnacked]
  simp only [writeBack, hostWrite_ring]
  by_cases hk : r = k
  · subst hk
    simp only [onRing_ring, writeEntry_ring]
    exact List.mem_append_left _ h
  · simp only [onRing_ring_of _ hk, writeEntry_ring]
    exact h

theorem writeEvt_mono (s : State) (r k : Fin 57) (e x : Event) (h : x ∈ (s.ring k).evtUnacked) :
    x ∈ ((writeEvt s r e).ring k).evtUnacked := by
  unfold writeEvt
  refine putEvt_mono _ _ _ _ _ ?_
  rw [ring_congr (s := s)]
  · exact h
  · split <;> simp

theorem newEvent_ring (s : State) (code : Nat) (o : Option (Fin 128)) (p : List Byte) (k : Option Cmd) (r : Fin 57) :
    (newEvent s code o p k).1.ring r = s.ring r := ring_congr (by simp) _

theorem eventsOnly_trans {s t u : State} (h : EventsOnly s t) (k : EventsOnly t u) : EventsOnly s u := by
  unfold EventsOnly at *
  rw [k, h]

theorem eventsOnly_step (s : State) (code : Nat) (o : Option (Fin 128)) (p : List Byte) (k : Option Cmd) (r : Fin 57) :
    EventsOnly s (writeEvt (newEvent s code o p k).1 r (newEvent s code o p k).2) := EventsOnly_of (by simp)

theorem marker_fold (c : Cmd) (l : List (Fin 57)) (s : State) (hf : InFlight s c) :
    let t := l.foldl (fun s r => writeEvt (newEvent s 0x0004 none (p32 (c.p 0).toNat) (some c)).1 r
      (newEvent s 0x0004 none (p32 (c.p 0).toNat) (some c)).2) s
    InFlight t c ∧ EventsOnly s t ∧ (∀ k x, x ∈ (s.ring k).evtUnacked → x ∈ (t.ring k).evtUnacked) ∧
      ∀ r ∈ l, ∃ e ∈ (t.ring r).evtUnacked, e.code = 0x0004 ∧ e.payload = p32 (c.p 0).toNat ∧ e.causeTag = c.tag := by
  induction l generalizing s with
  | nil => exact ⟨hf, rfl, fun _ _ h => h, fun _ h => absurd h List.not_mem_nil⟩
  | cons r l ih =>
    have hf' := inFlight_writeEvt (inFlight_newEvent hf 0x0004 none (p32 (c.p 0).toNat) (some c)) r
      (newEvent s 0x0004 none (p32 (c.p 0).toNat) (some c)).2
    obtain ⟨h1, h2, h3, h4⟩ := ih _ hf'
    refine ⟨h1, eventsOnly_trans (eventsOnly_step s _ _ _ _ r) h2, fun k x hx => h3 k x ?_, fun k hk => ?_⟩
    · exact writeEvt_mono _ _ _ _ _ (by rwa [newEvent_ring])
    · rcases List.mem_cons.mp hk with rfl | hk
      · obtain ⟨e, he, -, e1, -, e2, e3⟩ := writeEvt_unacked (newEvent s 0x0004 none (p32 (c.p 0).toNat) (some c)).1 k
          (newEvent s 0x0004 none (p32 (c.p 0).toNat) (some c)).2
        exact ⟨e, h3 k e he, e1, e2, e3⟩
      · exact h4 k hk

theorem complete_ring_evt (s : State) (c : Cmd) (st : BitVec 8) (v : BitVec 32) (k : Fin 57) :
    ((complete s c st v).ring k).evtUnacked = (s.ring k).evtUnacked := by
  have hp : ∀ (s : State) (r : Fin 57) (x : Completion), ((putCpl s r x).ring k).evtUnacked = (s.ring k).evtUnacked := by
    intro s r x
    unfold putCpl afterEntry; dsimp only
    rw [signalRing_evtUnacked]
    simp only [writeBack, hostWrite_ring]
    by_cases hk : r = k
    · subst hk; simp only [onRing_ring, writeEntry_ring]
    · simp only [onRing_ring_of _ hk, writeEntry_ring]
  have hw : ∀ (s : State) (r : CmdRec), ((writeCpl s r st v).ring k).evtUnacked = (s.ring k).evtUnacked := by
    intro s r
    unfold writeCpl; dsimp only
    split
    · rw [hp]
      by_cases hk : cplRing r.cmd.ring = k
      · subst hk; rw [onRing_ring]; rfl
      · rw [onRing_ring_of _ hk]; rfl
    · by_cases hk : cplRing r.cmd.ring = k
      · subst hk; rw [onRing_ring, onRing_ring]; rfl
      · rw [onRing_ring_of _ hk, onRing_ring_of _ hk]; rfl
  have hm : ((mirrorDone s c st v).ring k).evtUnacked = (s.ring k).evtUnacked := by
    unfold mirrorDone; split <;> rfl
  unfold complete
  split
  · dsimp only
    split
    · exact hm
    · rw [hw, hm]
  · rfl

theorem dropOne_packets (q : PoolQ) (h : q.staging = []) : q.dropOne.packets = q.packets.drop 1 ∧ q.dropOne.staging = [] := by
  have hj : ∀ q : PoolQ, q.judge.packets = q.packets ∧ q.judge.staging = q.staging := by
    intro q; unfold PoolQ.judge; repeat' split
    all_goals exact ⟨rfl, rfl⟩
  unfold PoolQ.dropOne PoolQ.settle
  simp only
  rw [(hj _).2]
  simp only [h, unstage]
  exact ⟨(hj _).1, trivial⟩

theorem sendMsix_out (s : State) (v : BitVec 6) (x : Out) (h : x ∈ s.out) : x ∈ (sendMsix s v).out := by
  unfold sendMsix; repeat' split
  · exact h
  · exact h
  · simp [State.send, h]

theorem send_out {s : State} {x y : Out} (h : x ∈ s.out) : x ∈ (s.send y).out := List.mem_cons_of_mem _ h

theorem hostWrite_out {s : State} {x : Out} (a : BitVec 64) (b : List Byte) (h : x ∈ s.out) : x ∈ (s.hostWrite a b).out := by
  unfold State.hostWrite; split
  · exact send_out h
  · exact h

theorem hostWrite_sent {s : State} (a : BitVec 64) (b : List Byte) (h : requestsOn s = true) : Out.host a b ∈ (s.hostWrite a b).out := by
  unfold State.hostWrite; rw [if_pos h]; exact List.mem_cons_self

theorem requestsOn_congr {s t : State} (hg : t.glb = s.glb) (hr : t.rng.linkUp = s.rng.linkUp) : requestsOn t = requestsOn s := by
  unfold requestsOn; rw [hg, hr]

theorem shadowed_congr {s t : State} (h : t.tie = s.tie) (r : Fin 57) : shadowed t r = shadowed s r := by
  unfold shadowed; rw [h]

theorem sendMsix_linkUp (s : State) (v : BitVec 6) : (sendMsix s v).rng.linkUp = s.rng.linkUp := by
  unfold sendMsix; repeat' split
  all_goals rfl

/-- The write-back of DONE and a TX_STATUS into the FTX descriptor of a ring at an index (R155). -/
def doneWrite (s : State) (r : Fin 57) (index : BitVec 32) (st : Nat) : Out :=
  .host (entryAddr (s.ring r) r index 7) (wordBytes [pack [(0, 1), (8, st)]])

theorem mirrorFtx_same (s : State) (r : Nat) (i : BitVec 32) (o q : Nat) :
    mirrorFtx s r i o q = { s with out := (mirrorFtx s r i o q).out } ∧ ∀ x ∈ s.out, x ∈ (mirrorFtx s r i o q).out := by
  unfold mirrorFtx; split
  · exact ⟨rfl, fun _ h => send_out h⟩
  · exact ⟨rfl, fun _ h => h⟩

theorem ftxWord7_same (s : State) (r : Nat) (i : BitVec 32) (st : BitVec 8) :
    ftxWord7 s r i st = { s with out := (ftxWord7 s r i st).out } ∧ ∀ x ∈ s.out, x ∈ (ftxWord7 s r i st).out := by
  unfold ftxWord7; dsimp only; split
  · exact ⟨rfl, fun _ h => h⟩
  · unfold State.writeEntry State.hostWrite; split
    · exact ⟨rfl, fun _ h => send_out h⟩
    · exact ⟨rfl, fun _ h => h⟩

theorem ftxWord7_sent {s : State} {r : Nat} {i : BitVec 32} {st : BitVec 8} (hr : r ≠ 0) (hq : requestsOn s = true)
    (hs : shadowed s (fin 57 r) = false) : doneWrite s (fin 57 r) i st.toNat ∈ (ftxWord7 s r i st).out := by
  unfold ftxWord7; dsimp only
  rw [if_neg (by simp [hr, hs])]
  exact hostWrite_sent _ _ hq

theorem ftxSignal_out (s : State) (r : Nat) (b : Bool) : ∀ x ∈ s.out, x ∈ (ftxSignal s r b).out := by
  unfold ftxSignal; split
  · exact fun x h => sendMsix_out _ _ _ h
  · exact fun _ h => h

theorem ftxDone_out (s : State) (r : Nat) (i : BitVec 32) (st : BitVec 8) (b : Bool) :
    (r ≠ 0 → requestsOn s = true → shadowed s (fin 57 r) = false → doneWrite s (fin 57 r) i st.toNat ∈ (ftxDone s r i st b).out) ∧
    ∀ x ∈ s.out, x ∈ (ftxDone s r i st b).out := by
  have hm := mirrorFtx_same s r i 0 0
  have e : ∀ k, (mirrorFtx s r i 0 0).ring k = s.ring k := fun k => by rw [hm.1]; rfl
  unfold ftxDone
  refine ⟨fun hr hq hs => ftxSignal_out _ _ _ _ ?_, fun x h => ftxSignal_out _ _ _ _ ((ftxWord7_same _ _ _ _).2 x (hm.2 x h))⟩
  have := ftxWord7_sent (s := mirrorFtx s r i 0 0) (i := i) (st := st) hr (by rw [hm.1]; exact hq) (by rw [hm.1]; exact hs)
  unfold doneWrite at this ⊢
  rwa [e] at this

theorem ftxDone_linkUp (s : State) (r : Nat) (i : BitVec 32) (st : BitVec 8) (b : Bool) :
    (ftxDone s r i st b).rng.linkUp = s.rng.linkUp ∧ (ftxDone s r i st b).rng.cmds = s.rng.cmds := by
  have h : ∀ s : State, (ftxSignal s r b).rng.linkUp = s.rng.linkUp ∧ (ftxSignal s r b).rng.cmds = s.rng.cmds := by
    intro s; unfold ftxSignal; split
    · exact ⟨sendMsix_linkUp _ _, sendMsix_cmds _ _⟩
    · exact ⟨rfl, rfl⟩
  unfold ftxDone
  rw [(h _).1, (h _).2, (ftxWord7_same _ _ _ _).1, (mirrorFtx_same _ _ _ _ _).1]
  exact ⟨rfl, rfl⟩

theorem ftxDone_cmds (s : State) (r : Nat) (i : BitVec 32) (st : BitVec 8) (b : Bool) : (ftxDone s r i st b).rng.cmds = s.rng.cmds :=
  (ftxDone_linkUp s r i st b).2

theorem poolQ_congr {s t : State} (h : t.mpl = s.mpl) (q : Fin 1024) : t.poolQ q = s.poolQ q := by unfold State.poolQ; rw [h]

theorem onQ_poolQ (s : State) (q k : Fin 1024) (f : PoolQ → PoolQ) : (s.onQ q f).poolQ k = if q = k then f (s.poolQ k) else s.poolQ k := by
  simp [State.poolQ, State.onQ, vget_vmod]

theorem ftxDone_requestsOn (s : State) (r : Nat) (i : BitVec 32) (st : BitVec 8) (b : Bool) :
    requestsOn (ftxDone s r i st b) = requestsOn s ∧ ∀ k, shadowed (ftxDone s r i st b) k = shadowed s k ∧
      (ftxDone s r i st b).ring k = s.ring k := by
  refine ⟨requestsOn_congr ?_ (ftxDone_linkUp _ _ _ _ _).1, fun k => ⟨shadowed_congr ?_ k, ring_congr ?_ k⟩⟩
  all_goals simp

theorem onQ_requestsOn (s : State) (q : Fin 1024) (f : PoolQ → PoolQ) : requestsOn (s.onQ q f) = requestsOn s ∧
    ∀ k, shadowed (s.onQ q f) k = shadowed s k ∧ (s.onQ q f).ring k = s.ring k := ⟨rfl, fun _ => ⟨rfl, rfl⟩⟩

theorem flush_fold (q : Fin 1024) (c : Cmd) (l : List Packet) (s : State) (hf : InFlight s c) (hs : (s.poolQ q).staging = [])
    (hl : (s.poolQ q).packets = l) :
    let t := l.foldl (fun s p => ftxDone (s.onQ q PoolQ.dropOne) p.ring p.index 3 p.irq) s
    InFlight t c ∧ (t.poolQ q).packets = [] ∧ (∀ k, k ≠ q → t.poolQ k = s.poolQ k) ∧ (∀ x ∈ s.out, x ∈ t.out) ∧
      ∀ p ∈ l, p.ring ≠ 0 → requestsOn s = true → shadowed s (fin 57 p.ring) = false → doneWrite s (fin 57 p.ring) p.index 3 ∈ t.out := by
  induction l generalizing s with
  | nil => exact ⟨hf, hl, fun _ _ => rfl, fun _ h => h, fun _ h => absurd h List.not_mem_nil⟩
  | cons p l ih =>
    have hd := dropOne_packets _ hs
    have hm : ∀ k, (ftxDone (s.onQ q PoolQ.dropOne) p.ring p.index 3 p.irq).poolQ k = (s.onQ q PoolQ.dropOne).poolQ k :=
      fun k => poolQ_congr (by simp) k
    obtain ⟨h1, h2, h3, h4, h5⟩ := ih (ftxDone (s.onQ q PoolQ.dropOne) p.ring p.index 3 p.irq)
      (inFlight_same hf (by rw [ftxDone_cmds]; rfl))
      (by rw [hm, onQ_poolQ, if_pos rfl]; exact hd.2) (by rw [hm, onQ_poolQ, if_pos rfl, hd.1, hl]; rfl)
    have ho := ftxDone_out (s.onQ q PoolQ.dropOne) p.ring p.index 3 p.irq
    have hk := ftxDone_requestsOn (s.onQ q PoolQ.dropOne) p.ring p.index 3 p.irq
    have hq := onQ_requestsOn s q PoolQ.dropOne
    have h3' : BitVec.toNat (3 : BitVec 8) = 3 := rfl
    dsimp only [List.foldl_cons]
    generalize ftxDone (s.onQ q PoolQ.dropOne) p.ring p.index 3 p.irq = u at *
    refine ⟨h1, h2, fun k hk => ?_, fun x hx => h4 x (ho.2 x hx), fun x hx h0 hr hsh => ?_⟩
    · rw [h3 k hk, hm, onQ_poolQ, if_neg (Ne.symm hk)]
    · rcases List.mem_cons.mp hx with rfl | hx
      · have := h4 _ (ho.1 h0 hr hsh)
        unfold doneWrite at this ⊢
        rwa [(hq.2 _).2, h3'] at this
      · have := h5 x hx h0 (hk.1.trans hr) (((hk.2 _).1.trans (hq.2 _).1).trans hsh)
        unfold doneWrite at this ⊢
        rwa [(hk.2 _).2, (hq.2 _).2] at this

theorem complete_out (s : State) (c : Cmd) (st : BitVec 8) (v : BitVec 32) (x : Out) (h : x ∈ s.out) : x ∈ (complete s c st v).out := by
  have hw : ∀ (s : State) (r : CmdRec), x ∈ s.out → x ∈ (writeCpl s r st v).out := by
    intro s r h
    unfold writeCpl; dsimp only
    split
    · unfold putCpl afterEntry signalRing writeBack; dsimp only
      split
      · exact sendMsix_out _ _ _ (hostWrite_out _ _ (hostWrite_out _ _ h))
      · exact hostWrite_out _ _ (hostWrite_out _ _ h)
    · exact h
  have hm : x ∈ (mirrorDone s c st v).out := by
    unfold mirrorDone; split
    · exact send_out h
    · exact h
  unfold complete
  split
  · dsimp only
    split
    · exact hm
    · exact hw _ _ hm
  · exact h

theorem complete_poolQ (s : State) (c : Cmd) (st : BitVec 8) (v : BitVec 32) (q : Fin 1024) :
    (complete s c st v).poolQ q = s.poolQ q := poolQ_congr (by simp) q

theorem onRing_onRing (s : State) (r : Fin 57) (f g : Ring → Ring) : (s.onRing r f).onRing r g = s.onRing r (fun x => g (f x)) := by
  have : vmod (vmod s.rings r f) r g = vmod s.rings r (fun x => g (f x)) := by
    unfold vmod
    ext i hi
    simp only [Vector.getElem_set, Vector.set_set]
    split <;> simp_all
  unfold State.onRing
  rw [this]

/-- Of a ring, posting an event changes only the device's index, the signalling and the entries not acknowledged. -/
def RingSame (x y : Ring) : Prop :=
  y = { x with devIdx := y.devIdx, unsignalled := y.unsignalled, firstUnsigAt := y.firstUnsigAt, evtUnacked := y.evtUnacked }

theorem RingSame.refl (x : Ring) : RingSame x x := rfl

theorem RingSame.trans {x y z : Ring} (h : RingSame x y) (k : RingSame y z) : RingSame x z := by
  unfold RingSame at *
  rw [k, h]

theorem onRing_same (s : State) (r k : Fin 57) (f : Ring → Ring) (h : ∀ x, RingSame x (f x)) : RingSame (s.ring k) ((s.onRing r f).ring k) := by
  by_cases e : r = k
  · subst e; rw [onRing_ring]; exact h _
  · rw [onRing_ring_of _ e]; exact .refl _

theorem same_congr {s t : State} (h : t.rings = s.rings) (k : Fin 57) : RingSame (s.ring k) (t.ring k) := by
  rw [ring_congr h]; exact .refl _

theorem signalRing_same (s : State) (r k : Fin 57) (b : Bool) : RingSame (s.ring k) ((signalRing s r b).ring k) := by
  unfold signalRing
  dsimp only
  split
  · refine RingSame.trans ?_ (same_congr (sendMsix_frame _ _).2.2.2.2.1 _)
    exact onRing_same _ _ _ _ fun x => rfl
  · exact .refl _

theorem afterEntry_same (s : State) (r k : Fin 57) (b : Bool) : RingSame (s.ring k) ((afterEntry s r b).ring k) := by
  unfold afterEntry
  refine RingSame.trans ?_ (signalRing_same _ _ _ _)
  simp only [writeBack]
  refine RingSame.trans ?_ (same_congr (State.hostWrite_frame _ _ _).2.2.2.2.2.1 _)
  exact onRing_same _ _ _ _ fun x => rfl

theorem putEvt_same (s : State) (r k : Fin 57) (e : Event) : RingSame (s.ring k) ((putEvt s r e).ring k) := by
  unfold putEvt
  refine RingSame.trans ?_ (afterEntry_same _ _ _ _)
  refine RingSame.trans (y := (s.writeEntry r (s.ring r).devIdx 0 (eventWords e (s.evtHandle e) ((s.ring r).phase (s.ring r).devIdx))).ring k)
    (same_congr (State.writeEntry_frame _ _ _ _ _).2.2.2.2.2.1 _) ?_
  exact onRing_same _ r k (fun y => { y with evtUnacked := y.evtUnacked ++ [e] }) fun x => rfl

theorem numberEvt_rings (s : State) (e : Event) : (numberEvt s e).1.rings = s.rings := by simp

theorem writeEvt_same (s : State) (r k : Fin 57) (e : Event) : RingSame (s.ring k) ((writeEvt s r e).ring k) := by
  unfold writeEvt
  refine RingSame.trans (same_congr ?_ _) (putEvt_same _ _ _ _)
  split <;> simp

theorem placeEvt_same (s : State) (e : Event) (k : Fin 57) : RingSame (s.ring k) ((placeEvt s e).ring k) := by
  have hq : RingSame (s.ring k) ((placeEvt.enqueue s e).ring k) := same_congr (placeEvt.enqueue_frame s e).2.2.2.2.1 k
  unfold placeEvt
  dsimp only
  repeat' split
  all_goals first | exact writeEvt_same _ _ _ _ | exact hq | exact .refl _

theorem postEvent_same (s : State) (code : Nat) (o : Option (Fin 128)) (p : List Byte) (c : Option Cmd) (k : Fin 57) :
    RingSame (s.ring k) ((postEvent s code o p c).ring k) :=
  RingSame.trans (same_congr (newEvent_frame s code o p c).2.2.2.2.1 _) (placeEvt_same _ _ _)

theorem sendMsix_flags (s : State) (v : BitVec 6) : ∃ m, (sendMsix s v).rng = { s.rng with msixPending := m } := by
  unfold sendMsix
  repeat' split
  · exact ⟨s.rng.msixPending, rfl⟩
  · exact ⟨_, rfl⟩
  · exact ⟨s.rng.msixPending, rfl⟩

/-- What posting an event changes in the RNG block. -/
def RngSame (x y : Rng) : Prop :=
  y.ringErr = x.ringErr ∧ y.framesLost = x.framesLost ∧ y.linkUp = x.linkUp ∧ y.d3hot = x.d3hot ∧ y.errVector = x.errVector ∧
  y.evtClass = x.evtClass ∧ y.frxMap = x.frxMap ∧ y.frxOld = x.frxOld ∧ y.msixTable = x.msixTable ∧ y.msixMasked = x.msixMasked

theorem RngSame.refl (x : Rng) : RngSame x x := ⟨rfl, rfl, rfl, rfl, rfl, rfl, rfl, rfl, rfl, rfl⟩

theorem RngSame.trans {x y z : Rng} (h : RngSame x y) (k : RngSame y z) : RngSame x z := by
  obtain ⟨h1, h2, h3, h4, h5, h6, h7, h8, h9, h10⟩ := h
  obtain ⟨k1, k2, k3, k4, k5, k6, k7, k8, k9, k10⟩ := k
  exact ⟨k1.trans h1, k2.trans h2, k3.trans h3, k4.trans h4, k5.trans h5, k6.trans h6, k7.trans h7, k8.trans h8, k9.trans h9, k10.trans h10⟩

theorem sendMsix_rngSame (s : State) (v : BitVec 6) : RngSame s.rng (sendMsix s v).rng := by
  obtain ⟨m, h⟩ := sendMsix_flags s v
  rw [h]; exact .refl _

theorem putEvt_rngSame (s : State) (r : Fin 57) (e : Event) : RngSame s.rng (putEvt s r e).rng := by
  have e : ∀ (t : State) (a : BitVec 64) (b : List Byte), (t.hostWrite a b).rng = t.rng := fun t a b => by simp
  have w : ∀ (t : State) (i : BitVec 32) (w : Nat) (l : List Word), (t.writeEntry r i w l).rng = t.rng := fun t i w l => by simp
  unfold putEvt afterEntry signalRing writeBack
  dsimp only
  split
  · refine RngSame.trans ?_ (sendMsix_rngSame _ _)
    simp only [e, w, State.onRing_frame]; exact .refl _
  · simp only [e, w, State.onRing_frame]; exact .refl _

theorem writeEvt_rngSame (s : State) (r : Fin 57) (e : Event) : RngSame s.rng (writeEvt s r e).rng := by
  unfold writeEvt
  refine RngSame.trans ?_ (putEvt_rngSame _ _ _)
  have h : RngSame s.rng (numberEvt s e).1.rng := by
    unfold numberEvt
    simp only [markRecord_frame]
    exact .refl _
  split <;> exact h

theorem enqueue_rngSame (s : State) (e : Event) : RngSame s.rng (placeEvt.enqueue s e).rng := by
  have hr : ∀ (s : State) (f : Rng → Rng), RngSame s.rng (f s.rng) → RngSame s.rng (rngInt s f).rng := fun s f h =>
    h.trans (sendMsix_rngSame _ _)
  unfold placeEvt.enqueue foldEvt
  dsimp only
  split_ifs
  · refine RngSame.trans (y := ({ s with rng := { s.rng with backlog := s.rng.backlog ++ [{ e with resv := false }] } } : State).rng) (.refl _) (hr _ _ ?_)
    exact .refl _
  · exact .refl _
  · refine RngSame.trans (y := ({ s with rng := { s.rng with backlog := s.rng.backlog ++ [{ e with resv := true }] } } : State).rng) (.refl _) (hr _ _ ?_)
    exact .refl _
  · exact .refl _
  all_goals
    refine RngSame.trans (y := (markRecord s e.ident fun r => { r with folded := true }).rng) ?_ (hr _ _ ?_)
    · simp only [markRecord_frame]; exact .refl _
    · exact .refl _

theorem postEvent_rngSame (s : State) (code : Nat) (o : Option (Fin 128)) (p : List Byte) (c : Option Cmd) :
    RngSame s.rng (postEvent s code o p c).rng := by
  unfold postEvent
  have h : RngSame s.rng (newEvent s code o p c).1.rng := by
    unfold newEvent
    dsimp only
    split <;> split <;> simp only [pushRecord_frame] <;> exact .refl _
  refine h.trans ?_
  dsimp only
  unfold placeEvt
  dsimp only
  repeat' split
  all_goals first | exact writeEvt_rngSame _ _ _ | exact enqueue_rngSame _ _ | exact .refl _

theorem orphanFtx_same (s : State) (r : Fin 57) : orphanFtx s r = { s with mpl := (orphanFtx s r).mpl } ∧
    (ringKind r ≠ .ftx → orphanFtx s r = s) := by
  have key : ∀ (l : List (Fin 128)) (f : PoolQ → PoolQ) (s : State),
      forAll l (fun s o => s.onQ (txQ o) f) s = { s with mpl := (forAll l (fun s o => s.onQ (txQ o) f) s).mpl } := by
    intro l f
    induction l with
    | nil => exact fun s => rfl
    | cons o l ih =>
      intro s
      have := ih (s.onQ (txQ o) f)
      unfold forAll at this ⊢
      rw [List.foldl_cons, this]
      rfl
  unfold orphanFtx
  split
  · exact ⟨key _ _ _, fun h => absurd ‹_› h⟩
  · exact ⟨rfl, fun _ => rfl⟩

theorem ringDown_ring (s : State) (r k : Fin 57) : (ringDown s r).ring k = if r = k then { s.ring r with
    en := false, cred := 0, pass := (s.ring r).pass + 1
    cplHeld := ((s.ring r).cplUnacked.map fun c => { c with replay := true }) ++ (s.ring r).cplHeld, cplUnacked := []
    evtHeld := ((s.ring r).evtUnacked.map fun e => { e with replay := true }) ++ (s.ring r).evtHeld, evtUnacked := [] } else s.ring k := by
  unfold ringDown
  rw [(orphanFtx_same _ _).1]
  show ((s.onRing r _).ring k) = _
  by_cases h : r = k
  · subst h; rw [if_pos rfl, onRing_ring]
  · rw [if_neg h, onRing_ring_of _ h]

theorem ringDown_same (s : State) (r : Fin 57) : ringDown s r = { s with rings := (ringDown s r).rings, mpl := (ringDown s r).mpl } := by
  unfold ringDown
  rw [(orphanFtx_same _ _).1]
  rfl

theorem reportRingError_ring (s : State) (r : Fin 57) (cause : Nat) :
    ((reportRingError s r cause).ring r).en = (s.ring r).en ∧ ((reportRingError s r cause).ring r).err = true ∧
    ((reportRingError s r cause).ring r).errCause = BitVec.ofNat 3 cause ∧ ((reportRingError s r cause).ring r).hostIdx = (s.ring r).hostIdx ∧
    ((reportRingError s r cause).ring r).role = (s.ring r).role ∧ (reportRingError s r cause).rng.ringErr = true := by
  unfold reportRingError postDev
  dsimp only
  have h := postEvent_same (rngInt (s.onRing r fun x => { x with errCause := BitVec.ofNat 3 cause, err := true })
    fun g => { g with ringErr := true }) 0x0003 none (p8 r.val ++ p8 cause) none r
  have hr := postEvent_rngSame (rngInt (s.onRing r fun x => { x with errCause := BitVec.ofNat 3 cause, err := true })
    fun g => { g with ringErr := true }) 0x0003 none (p8 r.val ++ p8 cause) none
  unfold RingSame at h
  have hb : (rngInt (s.onRing r fun x => { x with errCause := BitVec.ofNat 3 cause, err := true })
    fun g => { g with ringErr := true }).ring r = { s.ring r with errCause := BitVec.ofNat 3 cause, err := true } := by
    rw [ring_congr (rngInt_frame _ _).2.2.2.2.1, onRing_ring]
  rw [hb] at h
  refine ⟨?_, ?_, ?_, ?_, ?_, ?_⟩
  all_goals first | (rw [h]; done) | rw [hr.1]
  exact (sendMsix_rngSame _ _).1.trans rfl

theorem ringError_ring (s : State) (r : Fin 57) (cause : Nat) :
    ((ringError s r cause).ring r).en = false ∧ ((ringError s r cause).ring r).err = true ∧
    ((ringError s r cause).ring r).errCause = BitVec.ofNat 3 cause ∧ ((ringError s r cause).ring r).hostIdx = (s.ring r).hostIdx ∧
    ((ringError s r cause).ring r).role = (s.ring r).role ∧ (ringError s r cause).rng.ringErr = true := by
  obtain ⟨h1, h2, h3, h4, h5, h6⟩ := reportRingError_ring (ringDown s r) r cause
  rw [ringDown_ring, if_pos rfl] at h1 h4 h5
  exact ⟨h1, h2, h3, h4, h5, h6⟩

theorem afterEntry_ring (s : State) (r : Fin 57) (b : Bool) : ((afterEntry s r b).ring r).devIdx = (s.ring r).devIdx + 1 ∧
    ((afterEntry s r b).ring r).cplUnacked = (s.ring r).cplUnacked ∧ ((afterEntry s r b).ring r).cplHeld = (s.ring r).cplHeld ∧
    ((afterEntry s r b).ring r).en = (s.ring r).en ∧ ((afterEntry s r b).ring r).hostIdx = (s.ring r).hostIdx ∧
    ((afterEntry s r b).ring r).reserved = (s.ring r).reserved := by
  unfold afterEntry signalRing writeBack
  dsimp only
  split
  · rw [ring_congr (sendMsix_frame _ _).2.2.2.2.1, onRing_ring]; simp
  · simp

/-- A completion as it is sent: with LAST_GSEQ (R147). -/
def sentCpl (s : State) (x : Completion) : Completion := { x with lastGseq := some (x.lastGseq.getD s.keep.gseq) }

theorem putCpl_rings (s : State) (r : Fin 57) (x : Completion) :
    ((putCpl s r x).ring r).cplUnacked = (s.ring r).cplUnacked ++ [sentCpl s x] ∧ ((putCpl s r x).ring r).devIdx = (s.ring r).devIdx + 1 ∧
    ((putCpl s r x).ring r).en = (s.ring r).en ∧ ((putCpl s r x).ring r).hostIdx = (s.ring r).hostIdx ∧
    ((putCpl s r x).ring r).cplHeld = (s.ring r).cplHeld := by
  unfold putCpl
  dsimp only
  obtain ⟨h1, h2, h3, h4, h5, -⟩ := afterEntry_ring ((s.writeEntry r (s.ring r).devIdx 0
    (cplWords (sentCpl s x) ((s.ring r).phase (s.ring r).devIdx))).onRing r
    fun y => { y with cplUnacked := y.cplUnacked ++ [sentCpl s x] }) r x.irq
  rw [onRing_ring, writeEntry_ring] at h1 h2 h3 h4 h5
  exact ⟨h2, h1, h4, h5, h3⟩

theorem replay_fold (r : Fin 57) (l : List Completion) (s : State) :
    let t := l.foldl (fun s c => putCpl s r c) s
    (t.ring r).cplUnacked = (s.ring r).cplUnacked ++ l.map (sentCpl s) ∧
    (t.ring r).devIdx = (s.ring r).devIdx + BitVec.ofNat 32 l.length ∧
    (t.ring r).en = (s.ring r).en ∧ (t.ring r).hostIdx = (s.ring r).hostIdx ∧ (t.ring r).cplHeld = (s.ring r).cplHeld := by
  induction l generalizing s with
  | nil => simp
  | cons x l ih =>
    obtain ⟨h1, h2, h3, h4, h5⟩ := ih (putCpl s r x)
    obtain ⟨k1, k2, k3, k4, k5⟩ := putCpl_rings s r x
    have e : sentCpl (putCpl s r x) = sentCpl s := by unfold sentCpl; simp
    refine ⟨?_, ?_, h3.trans k3, h4.trans k4, h5.trans k5⟩
    · rw [List.foldl_cons, h1, k1, e]; simp
    · rw [List.foldl_cons, h2, k2, List.length_cons]
      apply BitVec.eq_of_toNat_eq
      simp only [BitVec.toNat_add, BitVec.toNat_ofNat, BitVec.ofNat_eq_ofNat]
      omega

theorem rings_trans {s u t : State} (h : u = { s with rings := u.rings }) (k : t = { u with rings := t.rings }) :
    t = { s with rings := t.rings } := by
  rw [k, h]

theorem ringDown_fold (l : List (Fin 57)) (s : State) :
    let t := l.foldl (fun s r => if (s.ring r).en then ringDown s r else s) s
    t = { s with rings := t.rings, mpl := t.mpl } ∧ (∀ r ∈ l, (t.ring r).en = false) ∧ (∀ r, (s.ring r).en = false → t.ring r = s.ring r) := by
  induction l generalizing s with
  | nil => exact ⟨rfl, fun _ h => absurd h List.not_mem_nil, fun _ _ => rfl⟩
  | cons k l ih =>
    have h1 : (if (s.ring k).en then ringDown s k else s) =
        { s with rings := (if (s.ring k).en then ringDown s k else s).rings, mpl := (if (s.ring k).en then ringDown s k else s).mpl } := by
      split
      · exact ringDown_same s k
      · rfl
    have h2 : (((if (s.ring k).en then ringDown s k else s) : State).ring k).en = false := by
      split
      · rw [ringDown_ring, if_pos rfl]
      · simpa using ‹¬ (s.ring k).en = true›
    have h3 : ∀ r, (s.ring r).en = false → ((if (s.ring k).en then ringDown s k else s) : State).ring r = s.ring r := by
      intro r hr
      split
      · rename_i hk
        rw [ringDown_ring, if_neg]
        rintro rfl
        simp [hr] at hk
      · rfl
    rw [List.foldl_cons]
    generalize (if (s.ring k).en then ringDown s k else s) = u at *
    obtain ⟨i1, i2, i3⟩ := ih u
    refine ⟨?_, fun r hr => ?_, fun r hr => ?_⟩
    · rw [i1, h1]
    · rcases List.mem_cons.mp hr with rfl | hr
      · rw [i3 _ h2]; exact h2
      · exact i2 r hr
    · rw [i3 r (by rw [h3 r hr]; exact hr), h3 r hr]

theorem hostWrite_same (s : State) (a : BitVec 64) (b : List Byte) : s.hostWrite a b = { s with out := (s.hostWrite a b).out } := by
  unfold State.hostWrite; split <;> rfl

theorem writeBack_same (s : State) (r : Fin 57) : writeBack s r = { s with out := (writeBack s r).out } := hostWrite_same _ _ _

@[simp] theorem writeBack_ring (s : State) (r k : Fin 57) : (writeBack s r).ring k = s.ring k := by
  rw [writeBack_same]; rfl

theorem writeBack_out (s : State) (r : Fin 57) (x : Out) (h : x ∈ s.out) : x ∈ (writeBack s r).out := hostWrite_out _ _ h

/-- The state of a device that has taken the next descriptor of a CMD ring (R139, R141). -/
def fetched (s : State) (r : Fin 16) : State :=
  writeBack ((s.onRing (cmdRing r) fun x => { x with
      devIdx := x.devIdx + 1, pass := if x.devIdx.toNat % 65536 = 65535 then x.pass + 1 else x.pass }).onRing (cplRing r)
    fun x => { x with reserved := x.reserved + 1 }) (cmdRing r)

theorem fetched_same (s : State) (r : Fin 16) : fetched s r = { s with rings := (fetched s r).rings, out := (fetched s r).out } := by
  unfold fetched; rw [writeBack_same]; rfl

theorem cpl_ne_cmd (r : Fin 16) : cplRing r ≠ cmdRing r := by simp [cplRing, cmdRing, Fin.ext_iff]

theorem fetch_fields (s : State) (r : Fin 16) :
    (∀ k, ((fetched s r).ring k).role = (s.ring k).role) ∧ ((fetched s r).ring (cmdRing r)).devIdx = (s.ring (cmdRing r)).devIdx + 1 ∧
    ((fetched s r).ring (cplRing r)).reserved = (s.ring (cplRing r)).reserved + 1 ∧
    (requestsOn s = true → Out.host (s.ring (cmdRing r)).wb (leBytes 4 ((s.ring (cmdRing r)).devIdx + 1).toNat) ∈ (fetched s r).out) := by
  have hne := cpl_ne_cmd r
  unfold fetched
  refine ⟨fun k => ?_, ?_, ?_, fun h => ?_⟩
  · rw [writeBack_ring]
    by_cases h : cplRing r = k
    · subst h
      rw [onRing_ring, onRing_ring_of _ hne.symm]
    · rw [onRing_ring_of _ h]
      by_cases h : cmdRing r = k
      · subst h; rw [onRing_ring]
      · rw [onRing_ring_of _ h]
  · rw [writeBack_ring, onRing_ring_of _ hne, onRing_ring]
  · rw [writeBack_ring, onRing_ring, onRing_ring_of _ hne.symm]
  · unfold writeBack
    have := hostWrite_sent (s := ((s.onRing (cmdRing r) fun x => { x with
      devIdx := x.devIdx + 1, pass := if x.devIdx.toNat % 65536 = 65535 then x.pass + 1 else x.pass }).onRing (cplRing r)
      fun x => { x with reserved := x.reserved + 1 })) (s.ring (cmdRing r)).wb (leBytes 4 ((s.ring (cmdRing r)).devIdx + 1).toNat) h
    rw [onRing_ring_of _ hne, onRing_ring]
    exact this

theorem fetchStatus_congr {s t : State} (c : Cmd) (hr : (t.ring (cmdRing c.ring)).role = (s.ring (cmdRing c.ring)).role)
    (h : t = { s with rings := t.rings, out := t.out }) : fetchStatus t c = fetchStatus s c := by
  rw [h] at hr ⊢
  unfold fetchStatus State.roleOf
  rw [hr]
  rfl

theorem writeCpl_ringsOnly (s : State) (r : CmdRec) (st : BitVec 8) (v : BitVec 32) : RingsOnly s (writeCpl s r st v) :=
  RingsOnly_of (by simp)

/-- Of a ring, sending a completion changes only the device's index, the signalling, the slots and the completions. -/
def RingCpl (x y : Ring) : Prop :=
  y = { x with devIdx := y.devIdx, unsignalled := y.unsignalled, firstUnsigAt := y.firstUnsigAt, cplUnacked := y.cplUnacked, cplHeld := y.cplHeld, reserved := y.reserved }

theorem writeCpl_other (s : State) (r : CmdRec) (st : BitVec 8) (v : BitVec 32) (k : Fin 57) (h : cplRing r.cmd.ring ≠ k) :
    (writeCpl s r st v).ring k = s.ring k := by
  have hs : ∀ (s : State) (b : Bool), (signalRing s (cplRing r.cmd.ring) b).ring k = s.ring k := by
    intro s b
    unfold signalRing; dsimp only; split
    · rw [ring_congr (sendMsix_frame _ _).2.2.2.2.1, onRing_ring_of _ h]
    · rfl
  unfold writeCpl putCpl afterEntry
  dsimp only
  split
  · rw [hs, writeBack_ring, onRing_ring_of _ h, onRing_ring_of _ h, writeEntry_ring, onRing_ring_of _ h]; rfl
  · rw [onRing_ring_of _ h, onRing_ring_of _ h]; rfl
theorem firstMark_mem {s : State} {x : Nat × MarkAct} (h : firstMark s = some x) : x ∈ pendingMarks s := by
  have key : ∀ (l : List (Nat × MarkAct)) (a : Option (Nat × MarkAct)) (x : Nat × MarkAct),
      l.foldl (fun a b => match a with | some x => if markBefore b x then some b else a | none => some b) a = some x → a = some x ∨ x ∈ l := by
    intro l
    induction l with
    | nil => exact fun a x h => .inl h
    | cons b l ih =>
      intro a x h
      rcases ih _ _ h with h | h
      · cases a with
        | none => cases h; exact .inr List.mem_cons_self
        | some y =>
          dsimp only at h
          split at h
          · cases h; exact .inr List.mem_cons_self
          · exact .inl h
      · exact .inr (List.mem_cons_of_mem _ h)
  rcases key _ _ _ h with h | h
  · cases h
  · exact h

theorem fireBefore_none {n : Nat} {k : Nat × MarkAct} {s : State} (h : ∀ m ∈ pendingMarks s, markBefore m k = false) : fireBefore n k s = s := by
  cases n with
  | zero => rfl
  | succ n =>
    unfold fireBefore
    split
    · rename_i m hm
      rw [if_neg (by simp [h m (firstMark_mem hm)])]
    · rfl

/-- Where no pending mark comes before it, a mark fires at once (R75). -/
theorem inOrder_first {a : MarkAct} {s : State} (h : ∀ m ∈ pendingMarks s, ∀ k ∈ pendingMarks s, k.2 = a → markBefore m k = false) :
    inOrder a s = s := by
  unfold inOrder
  split
  · rename_i k hk
    exact fireBefore_none fun m hm => h m hm k (List.mem_of_find?_eq_some hk) (by simpa using List.find?_some hk)
  · rfl

theorem commandAtMark_eq {s : State} {r : Fin 16} {i : BitVec 32} {x : CmdRec} (hx : s.cmdRec r i = some x) (hp : x.phase = .waitMark)
    (hc : s.clocksRun = true) (h : ∀ m ∈ pendingMarks s, ∀ k ∈ pendingMarks s, k.2 = .command r i → markBefore m k = false) :
    exec (.commandAtMark r i) s = .next (cmdStep [x.cmd.opcode.toNat] (effOf x.cmd.opcode.toNat) x.cmd (fireCmdMark s r i)) := by
  show execCommandAtMark r i s = _
  unfold execCommandAtMark commandFires
  rw [inOrder_first h, hx]
  simp only
  rw [if_pos ⟨hp, hc⟩]

theorem effOf_noOperation : effOf 0 = effNoOperation := rfl

theorem effOf_signal : effOf 256 = effSignal := rfl


theorem cmdOutlet_congr {s t : State} (c : Cmd) (h : t.glb = s.glb) : t.cmdOutlet c = s.cmdOutlet c := by
  have e : ∀ n, t.ofHandle n = s.ofHandle n := fun n => by unfold State.ofHandle State.slotNo; rw [h]
  unfold State.cmdOutlet
  simp only [e]

theorem runMains_tick (t : Tim) (n : Nat) : (t.runMains n).tick = t.tick := by
  unfold Tim.runMains; dsimp only

theorem runLegal_tick (t : Tim) (n : Nat) : (t.runLegal n).tick = t.tick := by
  unfold Tim.runLegal; dsimp only

theorem advance_tick (s : State) (n : Nat) : (s.advance n).tim.tick = s.tim.tick + 10 * n := by
  unfold State.advance
  split
  · simp only [runLegal_tick, runMains_tick]
  · rfl

theorem toTick_reaches (s : State) (d : Nat) : d ≤ (s.toTick d).tim.tick := by
  unfold State.toTick
  rw [advance_tick]
  omega

/-- Letting time pass changes the clocks only. -/
theorem advance_frame (s : State) (n : Nat) :
    s.advance n = { s with tim := (s.advance n).tim, keep := (s.advance n).keep } := by
  unfold State.advance
  split <;> rfl

theorem toTick_frame (s : State) (d : Nat) : s.toTick d = { s with tim := (s.toTick d).tim, keep := (s.toTick d).keep } :=
  advance_frame _ _

theorem toMains_frame (s : State) (d : Nat) : s.toMains d = { s with tim := (s.toMains d).tim, keep := (s.toMains d).keep } :=
  advance_frame _ _

theorem toLegal_frame (s : State) (d : Nat) : s.toLegal d = { s with tim := (s.toLegal d).tim, keep := (s.toLegal d).keep } :=
  advance_frame _ _

/-- The MSI-X message of a vector (R158). -/
def msixOf (s : State) (v : BitVec 6) : Out := .msix v (vget s.rng.msixTable (fin 64 v.toNat)).1 (vget s.rng.msixTable (fin 64 v.toNat)).2

theorem sendMsix_sent {s : State} {v : BitVec 6} (h : requestsOn s = true) (he : s.rng.msixEn = true) :
    (s.rng.msixFuncMask = false → s.rng.msixMasked.getLsbD v.toNat = false → msixOf s v ∈ (sendMsix s v).out) ∧
    (s.rng.msixFuncMask = true ∨ s.rng.msixMasked.getLsbD v.toNat = true → (sendMsix s v).rng.msixPending.getLsbD v.toNat = true) := by
  unfold sendMsix
  rw [if_neg (by simp [h, he])]
  refine ⟨fun h1 h2 => ?_, fun h1 => ?_⟩
  · rw [if_neg (by simp [h1, h2])]; exact List.mem_cons_self
  · rw [if_pos (by simpa using h1)]
    have := v.isLt
    simp only [BitVec.getLsbD_or, BitVec.getLsbD_shiftLeft]
    simp; omega

theorem signalRing_now (s : State) (r : Fin 57) (hl : requestsOn s = true) (he : s.rng.msixEn = true) :
    ((signalRing s r true).ring r).unsignalled = 0 ∧ (signalRing s r true).tim = s.tim ∧
    (s.rng.msixFuncMask = false → s.rng.msixMasked.getLsbD (s.ring r).vector.toNat = false →
      msixOf s (s.ring r).vector ∈ (signalRing s r true).out) ∧
    (s.rng.msixFuncMask = true ∨ s.rng.msixMasked.getLsbD (s.ring r).vector.toNat = true →
      (signalRing s r true).rng.msixPending.getLsbD (s.ring r).vector.toNat = true) := by
  unfold signalRing
  dsimp only
  rw [if_pos (by simp)]
  have k := sendMsix_sent (s := s.onRing r fun y => { y with unsignalled := 0 }) (v := (s.ring r).vector) hl he
  refine ⟨?_, by simp, k.1, k.2⟩
  rw [ring_congr (sendMsix_frame _ _).2.2.2.2.1, onRing_ring]

theorem putEvt_lost (s : State) (r : Fin 57) (e : Event) : (putEvt s r e).rng.lostSums = s.rng.lostSums ∧ (putEvt s r e).rng.backlog = s.rng.backlog := by
  have e : ∀ (t : State) (a : BitVec 64) (b : List Byte), (t.hostWrite a b).rng = t.rng := fun t a b => by simp
  have w : ∀ (t : State) (i : BitVec 32) (w : Nat) (l : List Word), (t.writeEntry r i w l).rng = t.rng := fun t i w l => by simp
  unfold putEvt afterEntry signalRing writeBack
  dsimp only
  split
  · rw [(sendMsix_flags _ _).choose_spec]
    simp only [e, w, State.onRing_frame, and_self]
  · simp only [e, w, State.onRing_frame, and_self]

theorem writeEvt_lost (s : State) (r : Fin 57) (e : Event) :
    (writeEvt s r e).rng.lostSums = s.rng.lostSums ∧ (writeEvt s r e).rng.backlog = s.rng.backlog ∧
    (writeEvt s r e).keep.gseq = s.keep.gseq + 1 := by
  have hn : (numberEvt s e).1.rng.lostSums = s.rng.lostSums ∧ (numberEvt s e).1.rng.backlog = s.rng.backlog ∧
      (numberEvt s e).1.keep.gseq = s.keep.gseq + 1 := by
    unfold numberEvt
    simp only [markRecord_frame, and_self]
  have hk : ∀ s r e, (putEvt s r e).keep = s.keep := fun s r e => by simp
  unfold writeEvt
  dsimp only
  rw [(putEvt_lost _ _ _).1, (putEvt_lost _ _ _).2, hk]
  split <;> exact hn

theorem writeEvt_cmds_nil (s : State) (r : Fin 57) (e : Event) (h : s.rng.cmds = []) : (writeEvt s r e).rng.cmds = [] := by
  have hn : (numberEvt s e).1.rng.cmds = [] := by
    unfold numberEvt
    simp only [markRecord_frame, h, List.map_nil]
  unfold writeEvt
  rw [putEvt_cmds]
  split <;> exact hn

theorem stationSend_frame (s : State) (o : Fin 128) :
    stationSend s o = { s with stas := (stationSend s o).stas, out := (stationSend s o).out } ∧
    (∀ x ∈ s.out, x ∈ (stationSend s o).out) := by
  have key : ∀ (l : List Packet) (s : State),
      let t := l.foldl (fun s p => (s.send (.plc o p.bytes)).onSta o fun x => { x with txFrames := x.txFrames + 1 }) s
      t = { s with stas := t.stas, out := t.out } ∧ (∀ x ∈ s.out, x ∈ t.out) ∧ (t.sta o).inStation = (s.sta o).inStation ∧
        (t.sta o).assoc = (s.sta o).assoc := by
    intro l
    induction l with
    | nil => intro s; exact ⟨rfl, fun _ h => h, rfl, rfl⟩
    | cons p l ih =>
      intro s
      obtain ⟨h1, h2, h3, h4⟩ := ih ((s.send (.plc o p.bytes)).onSta o fun x => { x with txFrames := x.txFrames + 1 })
      refine ⟨by rw [List.foldl_cons]; exact h1, fun x hx => h2 x (List.mem_cons_of_mem _ hx), ?_, ?_⟩
      · rw [List.foldl_cons, h3]; simp [State.sta, State.onSta, State.send]
      · rw [List.foldl_cons, h4]; simp [State.sta, State.onSta, State.send]
  unfold stationSend
  dsimp only
  split
  · exact ⟨rfl, fun _ h => h⟩
  · obtain ⟨h1, h2, -⟩ := key (s.sta o).inStation (s.onSta o fun x => { x with inStation := [] })
    exact ⟨h1, h2⟩

theorem stationSend_empty (s : State) (o : Fin 128) (h : (s.sta o).inStation = []) : stationSend s o = s := by
  unfold stationSend
  dsimp only
  rw [if_pos (by simp [h])]

theorem stationSend_idle (s : State) (o : Fin 128) (h : (s.sta o).assoc = false) : stationSend s o = s := by
  unfold stationSend
  dsimp only
  rw [if_pos (by simp [h])]

theorem afterEntry_devIdx (s : State) (r : Fin 57) (b : Bool) : ((afterEntry s r b).ring r).devIdx = (s.ring r).devIdx + 1 :=
  (afterEntry_ring s r b).1

theorem afterEntry_out (s : State) (r : Fin 57) (b : Bool) (x : Out) (h : x ∈ s.out) : x ∈ (afterEntry s r b).out := by
  unfold afterEntry signalRing
  dsimp only
  split
  · exact sendMsix_out _ _ _ (writeBack_out _ _ _ h)
  · exact writeBack_out _ _ _ h

theorem mirrorRing_frame (s : State) (r : Fin 57) : mirrorRing s r = { s with out := (mirrorRing s r).out } ∧ ∀ x ∈ s.out, x ∈ (mirrorRing s r).out := by
  unfold mirrorRing
  split
  · exact ⟨rfl, fun _ h => List.mem_cons_of_mem _ h⟩
  · exact ⟨rfl, fun _ h => h⟩

theorem ftxFetch_eq {r : Fin 8} {k : Fin 57} (hk : k.val = 40 + r.val) (d : List Word) (bytes : List Byte) (s : State)
    (h : (writingOn s && (s.ring k).en && (s.ring k).hostIdx != (s.ring k).devIdx) = true) :
    exec (.ftxFetch r d bytes) s = .next (fetchFtx s k (parseFtx d) bytes) := by
  have e : k = ⟨40 + r.val, by clear hk; omega⟩ := Fin.ext hk
  subst e
  exact next_if h _ _

theorem onRing_self (s : State) (r : Fin 57) (f : Ring → Ring) (h : f (s.ring r) = s.ring r) : s.onRing r f = s := by
  have : vmod s.rings r f = s.rings := by
    unfold State.ring vget at h
    unfold vmod
    rw [h]
    simp
  unfold State.onRing
  rw [this]

/-- A ring that owes nothing is left as it is when it is opened (R131, R133, R548). -/
theorem openRing_quiet {s : State} {r : Fin 57} (hr : (s.ring r).restartDue = none) (hd : (s.ring r).debugDue = false)
    (hc : (s.ring r).cplHeld = []) (he : (s.ring r).evtHeld = []) : openRing s r = s := by
  have h1 : debugEvent (restartEvent s r) r = s := by
    unfold debugEvent restartEvent
    rw [hr]
    simp only [hd, Bool.false_eq_true, if_false]
  unfold openRing
  split
  · rw [h1]
    unfold replayRing
    dsimp only
    split
    · rw [hc, List.take_nil, List.foldl_nil]
      exact onRing_self _ _ _ (by rw [hc, List.drop_nil, ← hc])
    · split
      · rw [he, List.take_nil, List.foldl_nil]
        exact onRing_self _ _ _ (by rw [he, List.drop_nil, ← he])
      · rfl
  · rfl

theorem sendMsix_mpl (s : State) (v : BitVec 6) : (sendMsix s v).mpl = s.mpl := by simp

theorem onSta_sta (s : State) (o : Fin 128) (f : Station → Station) : (s.onSta o f).sta o = f (s.sta o) := by
  simp [State.sta, State.onSta]

end Sys2Proof.Machine
end

