-- ==== Sys2Proof/Laws/Lanes.lean ====
section
/-! SUPPORT. A host access that reaches the block, and what a change of link does to the lanes. -/

namespace Sys2Proof.Machine

theorem viaBar_reaches {s : State} (h : BarReaches s) (blk : Nat) (f : State → State) : viaBar s blk f = f s := by
  unfold viaBar
  rw [viaHost_reaches h.toHostReaches, if_pos (by simp [blockAnswers, h.served])]

theorem bit31_set (v : BitVec 32) : bit (v ||| 0x80000000#32) 31 = true := by simp [bit]

theorem bit_set_low (v : BitVec 32) (i : Nat) (h : i < 31) : bit (v ||| 0x80000000#32) i = v.getLsbD i := by
  interval_cases i <;> simp [bit]

theorem fld_set_low (v : BitVec 32) (lo n : Nat) (h : lo + n ≤ 31) : fld (v ||| 0x80000000#32) lo n = fld v lo n := by
  unfold fld
  rw [BitVec.toNat_or, ← Nat.shiftRight_eq_div_pow, ← Nat.shiftRight_eq_div_pow]
  apply Nat.eq_of_testBit_eq
  intro i
  rw [Nat.testBit_mod_two_pow, Nat.testBit_mod_two_pow, Nat.testBit_shiftRight, Nat.testBit_shiftRight, Nat.testBit_or]
  by_cases hi : i < n
  · have : (0x80000000#32).toNat.testBit (lo + i) = false := by
      have e : (0x80000000#32).toNat = 2 ^ 31 := by decide
      rw [e, Nat.testBit_two_pow]
      simp; omega
    rw [this, Bool.or_false]
  · simp [hi]

theorem revote_frame (s : State) : s.revote = { s with pwr := s.revote.pwr } := rfl

/-- Two lanes that differ at most in their training step and link. -/
def LaneSame (x y : Lane) : Prop := y = { x with trainStep := y.trainStep, link := y.link }

theorem LaneSame.refl (x : Lane) : LaneSame x x := rfl

theorem LaneSame.trans {x y z : Lane} (h : LaneSame x y) (k : LaneSame y z) : LaneSame x z := by
  unfold LaneSame at *
  rw [k, h]

theorem onLane_lane (s : State) (o k : Fin 128) (f : Lane → Lane) : (s.onLane o f).lane k = if o = k then f (s.lane k) else s.lane k := by
  simp [State.lane, State.onLane, vget_vmod]

@[simp] theorem send_lane (s : State) (x : Out) (k : Fin 128) : (s.send x).lane k = s.lane k := rfl

theorem startTraining_lane (s : State) (l k : Fin 128) :
    (startTraining s l).lane k = if l = k then { s.lane k with trainStep := if (s.lane l).en then 1 else 0 } else s.lane k := by
  unfold startTraining
  split
  · rename_i h; rw [send_lane, onLane_lane]
  · rename_i h; rw [onLane_lane]

theorem lane_congr {s t : State} (h : t.lanes = s.lanes) (k : Fin 128) : t.lane k = s.lane k := by unfold State.lane; rw [h]

/-- What `dropCheck`, a permit's evaluation and a change of link do to the lanes: nothing but to the training step and link of their own. -/
def LanesBut (o : Fin 128) (s t : State) : Prop :=
  LaneSame (s.lane o) (t.lane o) ∧ ∀ k, k ≠ o → t.lane k = s.lane k

theorem LanesBut.same {o : Fin 128} {s t : State} (h : t.lanes = s.lanes) : LanesBut o s t :=
  ⟨by rw [lane_congr h]; exact .refl _, fun k _ => lane_congr h k⟩

theorem LanesBut.trans {o : Fin 128} {s t u : State} (h : LanesBut o s t) (k : LanesBut o t u) : LanesBut o s u :=
  ⟨h.1.trans k.1, fun j hj => (k.2 j hj).trans (h.2 j hj)⟩

/-- The link of a lane that does not train is what it was. -/
def LinkKept (o : Fin 128) (s t : State) : Prop := (s.lane o).link ≠ .train → (t.lane o).link = (s.lane o).link

theorem dropCheck_lanes (s : State) (o : Fin 128) : LanesBut o s (dropCheck s o) ∧ LinkKept o s (dropCheck s o) := by
  unfold dropCheck
  dsimp only
  split
  · split
    · refine ⟨⟨?_, fun k hk => ?_⟩, ?_⟩
      · rw [send_lane, onLane_lane, if_pos rfl]; rfl
      · rw [send_lane, onLane_lane, if_neg (Ne.symm hk)]; rfl
      · rename_i h; intro hn; rw [send_lane, onLane_lane, if_pos rfl]; exact (h.resolve_right hn).symm
    · exact ⟨.same rfl, fun _ => rfl⟩
  · exact ⟨.same rfl, fun _ => rfl⟩

theorem withdraw_lanes (s : State) (o : Fin 128) (a : Nat) : (withdraw s o a).lanes = s.lanes := by
  unfold withdraw; simp

theorem evalPermit_lanes (s : State) (o : Fin 128) (t : Option Nat) :
    LanesBut o s (evalPermit s o t) ∧ LinkKept o s (evalPermit s o t) := by
  unfold evalPermit
  extract_lets old inv new s1 s2
  have h1 : s1.lanes = s.lanes := rfl
  have h2 : LanesBut o s s2 ∧ LinkKept o s s2 := by
    have := dropCheck_lanes (s1.onSaf o fun x => { x with releaseOk := releaseNow s1 o }) o
    exact this
  clear_value s2
  have key : ∀ u : State, u.lanes = s2.lanes → LanesBut o s u ∧ LinkKept o s u := fun u hu =>
    ⟨h2.1.trans (.same hu), fun hn => by rw [lane_congr hu]; exact h2.2 hn⟩
  repeat' split
  · exact key _ (withdraw_lanes _ _ _)
  · exact key _ (withdraw_lanes _ _ _)
  · exact key _ (by simp)
  · exact h2

theorem postOut_lanes (s : State) (code : Nat) (o : Fin 128) (p : List Byte) (sc : Option Cmd) : (postOut s code o p sc).lanes = s.lanes := by
  simp

theorem countSilence_lanes (s : State) (o : Fin 128) : (countSilence s o).lanes = s.lanes := by
  unfold countSilence; split <;> rfl

theorem silentFlag_lanes (s : State) (o : Fin 128) (b : Bool) : (silentFlag s o b).lanes = s.lanes := rfl

theorem onEnr_lanes (s : State) (o : Fin 128) (f : OutEnr → OutEnr) : (s.onEnr o f).lanes = s.lanes := rfl

theorem onMet_lanes (s : State) (o : Fin 128) (f : MetOut → MetOut) : (s.onMet o f).lanes = s.lanes := rfl

theorem silent_lanes (s : State) (o : Fin 128) : (silenceStart s o).lanes = s.lanes ∧ (silenceEnd s o).lanes = s.lanes := by
  constructor
  · unfold silenceStart
    split
    · rfl
    · rw [postOut_lanes]; rfl
  · unfold silenceEnd
    split
    · rfl
    · rw [postOut_lanes, silentFlag_lanes, onEnr_lanes, onMet_lanes, countSilence_lanes]

theorem onLane_onLane (s : State) (o : Fin 128) (f g : Lane → Lane) : (s.onLane o f).onLane o g = s.onLane o (fun x => g (f x)) := by
  have : vmod (vmod s.lanes o f) o g = vmod s.lanes o (fun x => g (f x)) := by
    unfold vmod
    ext i hi
    simp only [Vector.getElem_set, Vector.set_set]
    split <;> simp_all
  unfold State.onLane
  rw [this]

theorem onLane_congr (s : State) (o : Fin 128) (f g : Lane → Lane) (h : f (s.lane o) = g (s.lane o)) : s.onLane o f = s.onLane o g := by
  have : vmod s.lanes o f = vmod s.lanes o g := by
    unfold vmod
    unfold State.lane vget at h
    rw [h]
  unfold State.onLane
  rw [this]

theorem setLink_lanes (s : State) (o : Fin 128) (new : LinkState) : LanesBut o s (setLink s o new) ∧
    (new ≠ .train → ((setLink s o new).lane o).link = new) := by
  unfold setLink
  extract_lets old s1 s2 st s3 s4 s5
  split
  · rename_i h; exact ⟨.same rfl, fun _ => h⟩
  · have h0 : LanesBut o s s1 := ⟨by unfold s1; rw [onLane_lane, if_pos rfl]; rfl, fun k hk => by
      unfold s1; rw [onLane_lane, if_neg (Ne.symm hk)]⟩
    have e1 : (s1.lane o).link = new := by unfold s1; rw [onLane_lane, if_pos rfl]
    have h2 : s2.lanes = s1.lanes := by
      unfold s2
      split
      · exact (silent_lanes s1 o).1
      · split
        · exact (silent_lanes s1 o).2
        · rfl
    have h3 : s3.lanes = s2.lanes := by unfold s3; split <;> rfl
    have h4 : s4.lanes = s3.lanes := by unfold s4; simp
    have h5 : s5.lanes = s3.lanes := by
      unfold s5
      split
      · split
        · exact (by simp : (queueTrig s4 o 8 0).lanes = s4.lanes).trans h4
        · exact h4
      · rfl
    have h6 := evalPermit_lanes s5 o none
    have h7 : s5.lanes = s1.lanes := h5.trans (h3.trans h2)
    clear_value s1 s5
    exact ⟨(h0.trans (.same h7)).trans h6.1, fun hn => by rw [h6.2 (by rw [lane_congr h7, e1]; exact hn), lane_congr h7, e1]⟩

theorem laneDown_lanes (s : State) (l : Fin 128) (cause : Nat) :
    ((laneDown s l cause).lane l).en = (s.lane l).en ∧ ((laneDown s l cause).lane l).link = .down ∧
    ((laneDown s l cause).lane l).trainStep = (if (s.lane l).en then 1 else 0) ∧ ((laneDown s l cause).lane l).mbOut = [] ∧
    ((laneDown s l cause).lane l).attach = .none ∧ ∀ k, k ≠ l → (laneDown s l cause).lane k = s.lane k := by
  unfold laneDown
  extract_lets u v
  have h0 : u.lanes = s.lanes := by unfold u; split <;> simp
  obtain ⟨h1, h2⟩ := setLink_lanes v l .down
  have h3 := h1.1
  have hv : v.lane l = { s.lane l with
      attach := .none, mbWait := none, mbOut := [], mbIn := none, mbRx := none, upNo := none, missed := [], crcFails := []
      foreignSince := none } := by unfold v; rw [onLane_lane, if_pos rfl, lane_congr h0]
  have hk : ∀ k, k ≠ l → (setLink v l .down).lane k = s.lane k := fun k hk => by
    rw [h1.2 k hk]; unfold v; rw [onLane_lane, if_neg (Ne.symm hk), lane_congr h0]
  generalize setLink v l .down = w at *
  rw [hv] at h3
  unfold LaneSame at h3
  refine ⟨?_, ?_, ?_, ?_, ?_, fun k hk' => ?_⟩
  all_goals rw [startTraining_lane]
  · rw [if_pos rfl]; simp only; rw [h3]
  · rw [if_pos rfl]; simp only; exact h2 (by decide)
  · rw [if_pos rfl]; simp only; rw [h3]
  · rw [if_pos rfl]; simp only; rw [h3]
  · rw [if_pos rfl]; simp only; rw [h3]
  · rw [if_neg (Ne.symm hk'), hk k hk']

end Sys2Proof.Machine
end

