-- ==== Sys2Proof/Laws/Memory.lean ====
section
/-! SUPPORT. Memory that holds images: every operation keeps its canonical form. -/

namespace Sys2Proof.Machine

theorem Memory.wfFrom_mono {lo hi : Nat} (h : lo ≤ hi) : ∀ m : List Host.Cell, Memory.wfFrom hi m = true → Memory.wfFrom lo m = true
  | [], _ => rfl
  | c :: t, k => by
    simp only [Memory.wfFrom, Bool.and_eq_true, decide_eq_true_eq] at k ⊢
    exact ⟨⟨by omega, k.1.2⟩, k.2⟩

/-- A write of one byte at or after `lo` keeps the form from `lo` on. -/
theorem Memory.put_wfFrom (a : Nat) (b : Byte) : ∀ (m : List Host.Cell) (lo : Nat), lo ≤ a → Memory.wfFrom lo m = true →
    Memory.wfFrom lo (Memory.put m a b) = true
  | [], lo, ha, _ => by
    unfold Memory.put
    split
    · rfl
    · rename_i h; simp [Memory.wfFrom, ha, h]
  | c :: t, lo, ha, k => by
    simp only [Memory.wfFrom, Bool.and_eq_true, decide_eq_true_eq, bne_iff_ne, ne_eq] at k
    unfold Memory.put
    split
    · split
      · simp only [Memory.wfFrom, Bool.and_eq_true, decide_eq_true_eq, bne_iff_ne, ne_eq]; exact k
      · rename_i h1 h2
        simp only [Memory.wfFrom, Bool.and_eq_true, decide_eq_true_eq, bne_iff_ne, ne_eq]
        exact ⟨⟨ha, h2⟩, ⟨by omega, k.1.2⟩, k.2⟩
    · split
      · rename_i h1 h2
        split
        · exact Memory.wfFrom_mono (by omega) t k.2
        · rename_i h3
          simp only [Memory.wfFrom, Bool.and_eq_true, decide_eq_true_eq, bne_iff_ne, ne_eq]
          exact ⟨⟨ha, h3⟩, by rw [h2]; exact k.2⟩
      · simp only [Memory.wfFrom, Bool.and_eq_true, decide_eq_true_eq, bne_iff_ne, ne_eq]
        exact ⟨⟨k.1.1, k.1.2⟩, Memory.put_wfFrom a b t (c.1 + 1) (by omega) k.2⟩

theorem Memory.put_wf {m : List Host.Cell} (h : Memory.wf m = true) (a : Nat) (b : Byte) : Memory.wf (Memory.put m a b) = true :=
  Memory.put_wfFrom a b m 0 (Nat.zero_le _) h

theorem Memory.putAll_wf : ∀ (l : List Byte) (m : List Host.Cell) (a : Nat), Memory.wf m = true → Memory.wf (Memory.putAll m a l) = true
  | [], _, _, h => h
  | b :: t, _, a, h => Memory.putAll_wf t _ (a + 1) (Memory.put_wf h a b)

end Sys2Proof.Machine
end

