-- ==== Sys2Proof/Laws/Ports.lean ====
section
/-! SUPPORT. Field bus ports: what changing a port keeps, and commands that stay in flight. -/

namespace Sys2Proof.Machine

theorem onPort_port (s : State) (p k : Fin 12) (f : Port → Port) : (s.onPort p f).port k = if p = k then f (s.port k) else s.port k := by
  unfold State.onPort State.port State.onUart State.onCan
  by_cases hp : p.val < 8
  · simp only [hp, dif_pos]
    by_cases hk : k.val < 8
    · simp only [hk, dif_pos, vget_vmod]
      by_cases e : p = k
      · subst e; simp
      · have : (⟨p.val, hp⟩ : Fin 8) ≠ ⟨k.val, hk⟩ := fun h => e (Fin.ext (by simpa using h))
        rw [if_neg this, if_neg e]
    · have e : p ≠ k := by rintro rfl; exact hk hp
      simp only [hk, dif_neg, not_false_eq_true, if_neg e]
  · simp only [hp, dif_neg, not_false_eq_true]
    by_cases hk : k.val < 8
    · have e : p ≠ k := by rintro rfl; exact hp hk
      simp only [hk, dif_pos, if_neg e]
    · simp only [hk, dif_neg, not_false_eq_true, vget_vmod]
      by_cases e : p = k
      · subst e; simp
      · have : (⟨p.val - 8, by omega⟩ : Fin 4) ≠ ⟨k.val - 8, by omega⟩ := fun h => by
          have := congrArg Fin.val h
          simp only at this
          exact e (Fin.ext (by omega))
        rw [if_neg this, if_neg e]

theorem onPort_same (s : State) (p : Fin 12) (f : Port → Port) : s.onPort p f = { s with uarts := (s.onPort p f).uarts, cans := (s.onPort p f).cans } := by
  unfold State.onPort
  split <;> rfl

theorem started_inFlight {s : State} {c : Cmd} (h : InFlight s c) : InFlight (started s c) c := by
  unfold started State.onCmd
  exact inFlight_cmds h _ (fun x => by split <;> rfl) rfl

theorem port_congr {s t : State} (h : t.uarts = s.uarts) (k : t.cans = s.cans) (p : Fin 12) : t.port p = s.port p := by
  unfold State.port; rw [h, k]

@[simp] theorem onPort_rng (s : State) (p : Fin 12) (f : Port → Port) : (s.onPort p f).rng = s.rng := by rw [onPort_same]
@[simp] theorem onPort_out (s : State) (p : Fin 12) (f : Port → Port) : (s.onPort p f).out = s.out := by rw [onPort_same]
@[simp] theorem onPort_glb (s : State) (p : Fin 12) (f : Port → Port) : (s.onPort p f).glb = s.glb := by rw [onPort_same]
@[simp] theorem onPort_tim (s : State) (p : Fin 12) (f : Port → Port) : (s.onPort p f).tim = s.tim := by rw [onPort_same]
@[simp] theorem onPort_mpl (s : State) (p : Fin 12) (f : Port → Port) : (s.onPort p f).mpl = s.mpl := by rw [onPort_same]
@[simp] theorem onPort_poolQ (s : State) (p : Fin 12) (f : Port → Port) (q : Fin 1024) : (s.onPort p f).poolQ q = s.poolQ q := by
  unfold State.poolQ; rw [onPort_mpl]
@[simp] theorem onQ_port (s : State) (q : Fin 1024) (f : PoolQ → PoolQ) (p : Fin 12) : (s.onQ q f).port p = s.port p := rfl

theorem runLine_same (s : State) (p : Fin 12) :
    (runLine s p).rng = s.rng ∧ (runLine s p).rings = s.rings ∧ (runLine s p).out = s.out ∧ (runLine s p).glb = s.glb ∧ (runLine s p).tim = s.tim := by
  unfold runLine; exact ⟨onPort_rng .., by rw [onPort_same], onPort_out .., onPort_glb .., onPort_tim ..⟩


theorem done_same {s t : State} {c : Cmd} {st : BitVec 8} {res : BitVec 32} (h : Done s c st res) (e : t.rings = s.rings) (e' : t.rng = s.rng) :
    Done t c st res := by
  unfold Done State.cmdRec State.ring at *
  rw [e, e']; exact h

theorem canPort_port (s : State) (c : Fin 4) : s.port (canPort c) = (vget s.cans c).port := by
  unfold State.port canPort
  rw [dif_neg (by simp)]
  congr 2
  exact Fin.ext (by simp)

theorem uartPort_port (s : State) (q : Fin 8) : s.port (uartPort q) = (vget s.uarts q).port := by
  unfold State.port uartPort
  rw [dif_pos (by simp)]

theorem link_packets (q : PoolQ) (p : Packet) : (q.link p).packets = q.packets ++ [p] := by
  unfold PoolQ.link PoolQ.judge; repeat' split
  all_goals rfl

end Sys2Proof.Machine
end

