-- ==== Sys2Proof/Laws/PowerOn.lean ====
section
/-! SUPPORT. The steps of a power-on reset keep what each of them keeps; time runs on. -/

namespace Sys2Proof.Machine

theorem release_parts (s : State) (slot : BitVec 2) (side dbg fk : Bool) (fail : Nat) (P : State → Prop)
    (h0 : P (latchStraps (afterReset (stopClocks s .powerOnReset)) slot side dbg))
    (hring : ∀ s k f, P s → P (State.onRing s k f))
    (h : ∀ s, P s → P (loadClock s) ∧ P (reportUnwritten s) ∧ P (loadKeys s) ∧ P (missingFirmware s) ∧ (∀ t, P (startFirmware s t)) ∧
      P (loadContexts s) ∧ P (loadConfig s) ∧ P (loadCommit s) ∧ P (endOutage s 0x20) ∧ P (takeKeep s) ∧ P (wakeRecord s fk) ∧
      (∀ k, P (mergeTamper s k)) ∧ P (closeLost s) ∧ P (loadDisplay s) ∧ P (checkLocalEnd s) ∧ P (guardTest s fail)) :
    P (release s slot side dbg fk fail) := by
  have hf : ∀ {α : Type} (l : List α) (f : State → α → State) (s : State), (∀ s x, P s → P (f s x)) → P s → P (l.foldl f s) := by
    intro α l f s hf
    induction l generalizing s with
    | nil => exact id
    | cons a l ih => exact fun hs => ih _ (hf _ _ hs)
  have hif : ∀ (c : Bool) (s t : State), P s → P t → P (if c then s else t) := by intro c s t; cases c <;> simp_all
  unfold release
  extract_lets paired keepEn restart s1 s2 s3 s4 s5 s6 s7 s8 s9
  have h2 : P s2 := (h _ (h _ (h _ h0).1).2.1).2.2.1
  have h3 : P s3 := hif _ _ _ (hf _ _ _ (fun s x hs => hring _ _ _ hs) h2) h2
  have h4 : P s4 := (h _ (hf _ _ _ (fun s x hs => (h _ hs).2.2.2.2.1 x) h3)).2.2.2.1
  have h5 : P s5 := (h _ (h _ (h _ h4).2.2.2.2.2.1).2.2.2.2.2.2.1).2.2.2.2.2.2.2.1
  have h6 : P s6 := (h _ h5).2.2.2.2.2.2.2.2.1
  have h7 : P s7 := (h _ (hif _ _ _ (h _ h6).2.2.2.2.2.2.2.2.2.1 h6)).2.2.2.2.2.2.2.2.2.2.1
  have h8 : P s8 := hf _ _ _ (fun s x hs => (h _ hs).2.2.2.2.2.2.2.2.2.2.2.1 x) h7
  have h9 : P s9 := hif _ _ _ h8 (h _ h8).2.2.2.2.2.2.2.2.2.2.2.2.1
  exact (h _ (h _ (h _ h9).2.2.2.2.2.2.2.2.2.2.2.2.2.1).2.2.2.2.2.2.2.2.2.2.2.2.2.2.1).2.2.2.2.2.2.2.2.2.2.2.2.2.2.2

theorem advance_legalState (s : State) (n : Nat) :
    (s.advance n).tim.legalState = s.tim.legalState ∧ (s.advance n).tim.localTab = s.tim.localTab := by
  unfold State.advance
  split <;> simp [Tim.runLegal, Tim.runMains]

end Sys2Proof.Machine
end

