-- ==== Sys2Proof/Laws/Sending.lean ====
section
/-! SUPPORT. A completion with what its command sends. -/

namespace Sys2Proof.Machine

theorem send_complete {s : State} {c : Cmd} (h : InFlight s c) (x : Out) (st : BitVec 8) (v : BitVec 32) :
    Done (complete (s.send x) c st v) c st v ∧ x ∈ (complete (s.send x) c st v).out :=
  ⟨complete_done (s := s.send x) (inFlight_same h rfl) st v, complete_out (s.send x) c st v x List.mem_cons_self⟩

end Sys2Proof.Machine
end

