-- ==== Sys2Proof/Laws/Settling.lean ====
section
/-! SUPPORT. Register writes with an effect: PMC groups, watermarks and the alarm. -/

namespace Sys2Proof.Machine

theorem settleGroup_cyc (s : State) (g : Fin 8) :
    (vget (settleGroup s g).pmc.groups g).cyc = (if (vget s.pmc.groups g).en
      then (vget s.pmc.groups g).cyc + BitVec.ofNat 64 ((s.now - (vget s.pmc.groups g).cycAt) / 10 * pmcRate g)
      else (vget s.pmc.groups g).cyc) ∧
    (∀ k, k ≠ g → vget (settleGroup s g).pmc.groups k = vget s.pmc.groups k) := by
  have hf : ∀ (l : List (Fin 8)) (f : State → Fin 8 → State)
      (_ : ∀ u k, (vget (f u k).pmc.groups g).cyc = (vget u.pmc.groups g).cyc ∧ ∀ j, j ≠ g → vget (f u k).pmc.groups j = vget u.pmc.groups j)
      (u : State), (vget (l.foldl f u).pmc.groups g).cyc = (vget u.pmc.groups g).cyc ∧
        ∀ j, j ≠ g → vget (l.foldl f u).pmc.groups j = vget u.pmc.groups j := by
    intro l f hf
    induction l with
    | nil => exact fun u => ⟨rfl, fun _ _ => rfl⟩
    | cons a l ih =>
      intro u
      rw [List.foldl_cons]
      exact ⟨(ih _).1.trans (hf u a).1, fun j hj => ((ih _).2 j hj).trans ((hf u a).2 j hj)⟩
  unfold settleGroup
  extract_lets x on1 s1
  have hon : ∀ (u : State) (f : PmcGroup → PmcGroup), (∀ y, (f y).cyc = y.cyc) →
      (vget (on1 u f).pmc.groups g).cyc = (vget u.pmc.groups g).cyc ∧ ∀ j, j ≠ g → vget (on1 u f).pmc.groups j = vget u.pmc.groups j := by
    intro u f h
    exact ⟨by unfold on1; simp only; rw [vget_vmod, if_pos rfl, h], fun j hj => by unfold on1; simp only; rw [vget_vmod, if_neg (Ne.symm hj)]⟩
  split
  · rename_i h
    rw [if_neg (by simpa using h)]
    exact hon s _ fun _ => rfl
  · rename_i h
    have h1 : (vget s1.pmc.groups g).cyc = x.cyc + BitVec.ofNat 64 ((s.now - x.cycAt) / 10 * pmcRate g) ∧
        ∀ j, j ≠ g → vget s1.pmc.groups j = vget s.pmc.groups j := by
      unfold s1 on1
      exact ⟨by simp only; rw [vget_vmod, if_pos rfl], fun j hj => by simp only; rw [vget_vmod, if_neg (Ne.symm hj)]⟩
    have hx : (vget s.pmc.groups g).en = true := by simpa [x] using h
    simp only [hx, if_true]
    split
    · exact h1
    · refine (fun this => ⟨this.1.trans h1.1, fun j hj => (this.2 j hj).trans (h1.2 j hj)⟩) (hf (List.finRange 8) _ ?_ s1)
      · intro u k
        split
        · exact ⟨rfl, fun _ _ => rfl⟩
        · exact hon _ _ fun _ => rfl

theorem vmod_vmod {α : Type} {n : Nat} (v : Vector α n) (i : Fin n) (f g : α → α) :
    vmod (vmod v i f) i g = vmod v i (fun x => g (f x)) := by
  unfold vmod
  ext j hj
  simp only [Vector.getElem_set, Vector.set_set]
  split <;> simp_all

theorem readReg_latCyc (u : State) (g : Fin 8) :
    readReg u (0x150000 + 0x1000 + 0x100 * g.val + 8) = BitVec.ofNat 32 (vget u.pmc.groups g).latCyc.toNat := by
  fin_cases g <;> simp [readReg, rdPmc, arr, word]

theorem highSum_write (m : Mpl) (q : Fin 1024) (h l : Nat) (ht : tunable q.val = true) :
    Mpl.highSum { m with q := vmod m.q q fun x => { x with high := h, low := l } } + (vget m.q q).high = m.highSum + h := by
  unfold Mpl.highSum
  rw [← Fin.sum_univ_def, ← Fin.sum_univ_def]
  rw [← Finset.add_sum_erase _ _ (Finset.mem_univ q), ← Finset.add_sum_erase _ (fun q : Fin 1024 => if tunable q.val then (vget m.q q).high + 8 else 0) (Finset.mem_univ q)]
  have e : ∀ k ∈ Finset.univ.erase q, (if tunable k.val then (vget (vmod m.q q fun x => { x with high := h, low := l }) k).high + 8 else 0) =
      (if tunable k.val then (vget m.q k).high + 8 else 0) := by
    intro k hk
    rw [vget_vmod, if_neg (Finset.ne_of_mem_erase hk).symm]
  rw [Finset.sum_congr rfl e]
  simp only [ht, if_true]
  rw [vget_vmod, if_pos rfl]
  simp only
  omega

theorem unstage_wm (l : List Packet) (q : PoolQ) : (unstage l q).high = q.high ∧ (unstage l q).low = q.low := by
  induction l generalizing q with
  | nil => exact ⟨rfl, rfl⟩
  | cons p l ih =>
    unfold unstage
    split
    · exact ⟨rfl, rfl⟩
    · have : ∀ q : PoolQ, q.judge.high = q.high ∧ q.judge.low = q.low := by
        intro q; unfold PoolQ.judge; repeat' split
        all_goals exact ⟨rfl, rfl⟩
      refine ⟨(ih _).1.trans ?_, (ih _).2.trans ?_⟩
      · unfold PoolQ.link; simp [this]
      · unfold PoolQ.link; simp [this]

theorem settle_wm (q : PoolQ) : q.settle.high = q.high ∧ q.settle.low = q.low := by
  have : ∀ q : PoolQ, q.judge.high = q.high ∧ q.judge.low = q.low := by
    intro q; unfold PoolQ.judge; repeat' split
    all_goals exact ⟨rfl, rfl⟩
  exact ⟨(unstage_wm _ _).1.trans (this q).1, (unstage_wm _ _).2.trans (this q).2⟩

theorem vmod_congr {α : Type} {n : Nat} (v : Vector α n) (i : Fin n) (f g : α → α) (h : f (vget v i) = g (vget v i)) :
    vmod v i f = vmod v i g := by
  unfold vget at h
  unfold vmod
  rw [h]

theorem fireAlarm_awake (s : State) (h : s.pwr.quiet = false) :
    fireAlarm s = wakeEvent { s with pwr := { s.pwr with armed := false } } 5 0 false 0 := by
  have e : ({ s.pwr with armed := false } : Pwr).quiet = s.pwr.quiet := rfl
  unfold fireAlarm
  extract_lets _ u
  have hu : u.pwr.quiet = false := e.trans h
  rw [hu, Bool.false_and, if_neg Bool.false_ne_true]

theorem alarmDue_of (s : State) (hv : s.pwr.armed = true) (hA : s.pwr.alarm.toNat ≤ s.legalSec) : alarmDue s = true := by
  unfold alarmDue
  simp only [hv, hA, decide_true, Bool.and_self]

theorem writeAlarm_eq (s u : State) (v : BitVec 32) (hu : u = { s with pwr := { s.pwr with
    alarm := BitVec.ofNat 40 (s.pwr.alarmLo.toNat + fld v 0 8 * 2 ^ 32), armed := bit v 31 } }) :
    writeAlarm s v = if alarmDue u then fireAlarm u else u := by
  subst hu
  rfl

theorem alarm_reached (A : Nat) (s u : State) (hl : A < 2 ^ 40) (hA : A ≤ s.legalSec) (h : u.tim = s.tim)
    (h2 : u.pwr.alarm = BitVec.ofNat 40 A) : u.pwr.alarm.toNat ≤ u.legalSec := by
  have h : u.legalSec = s.legalSec := by unfold State.legalSec; rw [h]
  rw [h, h2, BitVec.toNat_ofNat, Nat.mod_eq_of_lt hl]; exact hA

theorem writeAlarm_due' (s : State) (v : BitVec 32) (h : s.pwr.quiet = false) (hv : v.getLsbD 31 = true) (A : Nat)
    (key : ∀ u : State, u = { s with pwr := { s.pwr with alarm := BitVec.ofNat 40 A, armed := bit v 31 } } →
      writeAlarm s v = if alarmDue u then fireAlarm u else u)
    (hl : A < 2 ^ 40) (hA : A ≤ s.legalSec) : writeAlarm s v =
      wakeEvent { s with pwr := { s.pwr with alarm := BitVec.ofNat 40 A, armed := false } } 5 0 false 0 := by
  obtain ⟨u, hu⟩ : ∃ u, u = { s with pwr := { s.pwr with alarm := BitVec.ofNat 40 A, armed := bit v 31 } } := ⟨_, rfl⟩
  have h1 : u.pwr.alarm.toNat ≤ u.legalSec := alarm_reached A s u hl hA (by rw [hu]) (by rw [hu])
  have h2 : u.pwr.armed = true := by rw [hu]; exact hv
  have h3 : u.pwr.quiet = false := by rw [hu]; exact h
  have e : { s with pwr := { s.pwr with alarm := BitVec.ofNat 40 A, armed := false } } = { u with pwr := { u.pwr with armed := false } } := by rw [hu]
  rw [key u hu, alarmDue_of u h2 h1, if_pos rfl, fireAlarm_awake u h3, e]

theorem writeAlarm_due (s : State) (v : BitVec 32) (h : s.pwr.quiet = false) (hv : v.getLsbD 31 = true)
    (hA : s.pwr.alarmLo.toNat + fld v 0 8 * 2 ^ 32 ≤ s.legalSec) : writeAlarm s v =
      wakeEvent { s with pwr := { s.pwr with
        alarm := BitVec.ofNat 40 (s.pwr.alarmLo.toNat + fld v 0 8 * 2 ^ 32), armed := false } } 5 0 false 0 := by
  have hl : s.pwr.alarmLo.toNat + fld v 0 8 * 2 ^ 32 < 2 ^ 40 := by
    have := fld_lt v 0 8
    have := s.pwr.alarmLo.isLt
    omega
  exact writeAlarm_due' s v h hv _ (fun u hu => writeAlarm_eq s u v hu) hl hA

end Sys2Proof.Machine
end

