-- ==== Sys2Proof/WellFormed.lean ====
section
/-! DEFINITION. What the operands of a command must satisfy for it to be one the block can be given. The meanings are total: they answer
for any operands. -/

namespace Sys2Proof

/-- A ring command carries ten PARAM words (R144). -/
def Cmd.wf (c : Cmd) : Bool := c.params.length == 10

/-- The operands of a command have the shape its row gives them: ten PARAM words, sixteen descriptor words (R141, R144), a register
offset on a word boundary, an access that is not an aligned word (R129), at most 64 bytes in a CAN FD frame. -/
def Instr.wellFormed : Instr → Bool
  | .noOperation c => c.wf
  | .marker c => c.wf
  | .flushTransmit c => c.wf
  | .readRegister c => c.wf
  | .writeRegister c => c.wf
  | .registerWrite _ off _ => off % 4 == 0
  | .barAccessUnaligned _ off size _ => !(size == 4 && off % 4 == 0)
  | .doorbellWrite _ _ => true
  | .ringEnable _ _ => true
  | .ringDisable _ => true
  | .linkLoss _ => true
  | .commandFetch _ d _ => d.length == 16
  | .commandAtMark _ _ => true
  | .backlogDrain => true
  | .moderationTimeout _ => true
  | .ftxFetch _ d _ => d.length == 8
  | .frxFill _ d => d.length == 8
  | .ftxDone _ => true
  | .timSnapRead => true
  | .timCfgLock _ => true
  | .plcCfgLock _ => true
  | .autCfgLock _ => true
  | .kitCfgLock _ => true
  | .tieCfgLock _ => true
  | .lswCfgLock _ => true
  | .retrain _ => true
  | .laneEnable _ => true
  | .laneDisable _ => true
  | .watermarkWrite _ _ => true
  | .sitePowerLimitWrite _ => true
  | .macBaseWrite _ => true
  | .alarmWrite _ => true
  | .cursorBaseWrite _ => true
  | .pulseSettingsWrite _ _ _ => true
  | .demandLengthChange _ => true
  | .bandwidthMonitorWrite _ _ => true
  | .pmcCycRead _ => true
  | .stageInsertion _ _ _ => true
  | .seated => true
  | .powerOnResetRelease _ _ _ _ => true
  | .perstRelease => true
  | .seatLoss _ _ => true
  | .seatGlitch _ => true
  | .reseatWaitEnd => true
  | .cabRst _ _ => true
  | .powerFailWarning _ _ => true
  | .vinReturn _ => true
  | .keepEntry => true
  | .vbatLow _ => true
  | .strapCheck _ _ _ => true
  | .referenceLost => true
  | .referenceRestored => true
  | .junctionTemperature _ => true
  | .mainsLocked _ _ => true
  | .mainsLost _ _ _ => true
  | .meteringCycleBoundary _ _ _ => true
  | .legalTimeSync _ _ _ => true
  | .slewEnd => true
  | .syncAgeExpiry => true
  | .localTableEnd => true
  | .trainingSetReceived _ _ => true
  | .echoReceived _ _ => true
  | .linkFault _ _ => true
  | .uplinkFrameReceived _ _ _ _ => true
  | .linkRestored _ => true
  | .laneSilent _ => true
  | .downlinkFrame _ _ => true
  | .helloReceived _ => true
  | .proofReceived _ => true
  | .paramAckReceived _ => true
  | .attachHoldoffEnd _ => true
  | .mailboxRepeat _ => true
  | .serviceReset _ => true
  | .eccError _ _ => true
  | .transmit c => c.wf
  | .transmitComplete _ => true
  | .read c => c.wf
  | .abortPort c => c.wf
  | .rs485PacketEnd _ _ _ _ => true
  | .canFrameReceived _ _ _ bytes => decide (bytes.length ≤ 64)
  | .canBusOff _ _ _ _ => true
  | .busOffRecovery _ => true
  | .ctsChange _ _ => true
  | .contextStep _ => true
  | .pilotEvaluation _ => true
  | .proximityClass _ => true
  | .timerExpiry _ _ => true
  | .zeroPointMark _ _ => true
  | .contactorFeedback _ _ => true
  | .contactorTimeout _ _ => true
  | .lockFeedback _ => true
  | .profileCheck _ _ _ _ => true
  | .contextStart _ => true
  | .signal c => c.wf
  | .bindProfile c => c.wf
  | .enableOutlet c => c.wf
  | .authorise c => c.wf
  | .forceFault c => c.wf
  | .resetContext c => c.wf
  | .forgetDelays c => c.wf
  | .readContext c => c.wf
  | .rcEvaluation _ => true
  | .rdcTestStep _ => true
  | .rdcOkExpiry _ => true
  | .imdHalfEnd _ => true
  | .isoResultAged _ => true
  | .checkWeldEnd _ => true
  | .pilotGraceEnd _ => true
  | .safetyInputChange _ _ _ => true
  | .discrepancy _ => true
  | .crossCircuitCheck _ _ => true
  | .axisEvaluation _ _ => true
  | .outputReadback _ _ _ => true
  | .lockstepMismatch _ => true
  | .lockstepRestartEnd _ _ => true
  | .clearTrip c => c.wf
  | .runRdcTest c => c.wf
  | .acknowledgeStop c => c.wf
  | .stopAxis c => c.wf
  | .releaseAxis c => c.wf
  | .clearOutputFault c => c.wf
  | .readInsulation c => c.wf
  | .shareSnapshot => true
  | .shareApply => true
  | .peerFallback => true
  | .siteLimitExpiry => true
  | .kiteGrantExpiry => true
  | .kiteReport => true
  | .setSiteLimit c => c.wf
  | .setRequest c => c.wf
  | .setPriority c => c.wf
  | .readAllocation c => c.wf
  | .plcFrameReceived _ _ _ => true
  | .slacParamReq _ _ _ => true
  | .soundingWindowClose _ _ => true
  | .peerScoreTimeout _ _ => true
  | .slacMatchReq _ _ _ => true
  | .matchTimeout _ _ => true
  | .validateReq _ _ _ _ => true
  | .toggleWindowEnd _ _ => true
  | .commonImpulse _ => true
  | .leaveAssociation c => c.wf
  | .tlsSign c => c.wf
  | .readAssociation c => c.wf
  | .temperatureSource _ => true
  | .toneCorrelation _ _ => true
  | .incomerCheck _ _ => true
  | .readVerification c => c.wf
  | .toneControl c => c.wf
  | .restartVerification c => c.wf
  | .commit _ => true
  | .balanceEvaluation => true
  | .pulseSend _ => true
  | .keepBurst _ => true
  | .declareAuxiliary c => c.wf
  | .readEnergyRegister c => c.wf
  | .recordRelease => true
  | .tamperInput _ => true
  | .readObject c => c.wf
  | .writeObject c => c.wf
  | .selectPlan c => c.wf
  | .signReading c => c.wf
  | .acknowledgeRecords c => c.wf
  | .recordWrite _ => true
  | .readRecords c => c.wf
  | .takeSnapshot c => c.wf
  | .ping _ => true
  | .tagPoll _ => true
  | .engineGrant _ => true
  | .tagReply _ _ => true
  | .cardResponse _ _ => true
  | .fieldCollapse _ => true
  | .transactionTimeout _ => true
  | .requestWaitLong _ => true
  | .tagAgeExpiry _ => true
  | .tableSwitch => true
  | .storeChangeReceived _ _ _ => true
  | .storeResynchronised _ _ _ => true
  | .storeSlot c => c.wf
  | .readSlot c => c.wf
  | .beginShadow c => c.wf
  | .switchTable c => c.wf
  | .bindCable c => c.wf
  | .readTag c => c.wf
  | .kiteFrameReceived _ => true
  | .contentionSlot => true
  | .ackTimeout => true
  | .helloTimer => true
  | .neighbourLost _ => true
  | .timeBroadcast => true
  | .nodeReplacement _ => true
  | .probeNode c => c.wf
  | .clearPenalty c => c.wf
  | .dominoRetry => true
  | .tieFrameReceived _ _ _ => true
  | .tiePortDown _ => true
  | .tiePortUp _ _ => true
  | .mainsTimeTransfer => true
  | .roleDecision => true
  | .heartbeatTimeout => true
  | .withdrawalNotice => true
  | .takeover => true
  | .foreignEpoch _ => true
  | .join _ _ _ => true
  | .handover => true
  | .handOver c => c.wf
  | .readPairState c => c.wf
  | .readTally c => c.wf
  | .clearTally c => c.wf
  | .loadKey c => c.wf
  | .eraseKey c => c.wf
  | .generateKey c => c.wf
  | .readPublicKey c => c.wf
  | .beginCredential c => c.wf
  | .proveCredential c => c.wf
  | .challengeExpiry => true
  | .randomSourceFault => true
  | .limitingExpiry _ => true
  | .retrySpacingEnd _ => true
  | .bankUndervoltage _ _ => true
  | .thermalShutdown _ _ => true
  | .watchdogExpiry _ => true
  | .watchdogRestored _ => true
  | .displayUpdate => true
  | .blink => true
  | .crackPulse _ => true
  | .setLoadChannels c => c.wf
  | .clearLatch c => c.wf
  | .writeOperatorArea c => c.wf
  | .setLegalView c => c.wf
  | .redraw c => c.wf
  | .domainDrop _ => true
  | .domainRaise _ _ => true
  | .wake _ _ => true
  | .rtcAlarm => true
  | .wakeRelease => true
  | .enterQuiet c => c.wf
  | .leaveQuiet c => c.wf
  | .writeImageBlock c => c.wf
  | .verifyImage c => c.wf
  | .activateFirmware c => c.wf
  | .confirmFirmware c => c.wf
  | .revertFirmware c => c.wf
  | .trialConfirmed _ => true
  | .fallBack _ _ => true
  | .activateConfiguration c => c.wf
  | .configurationActivation => true
  | .confirmConfiguration c => c.wf
  | .revertConfiguration c => c.wf
  | .automaticYoYo => true
  | .dominoSend c => c.wf
  | .enterRecovery c => c.wf
  | .readSlots c => c.wf
  | .dump => true
  | .sample _ _ => true
  | .bandwidthWindowEnd _ => true
  | .dumpNow c => c.wf
  | .clearCounters c => c.wf
  | .vinReturnLeavingKeep _ _ _ _ _ => true
  | .stageBreak _ => true
  | .indexBuilt => true
  | .limitingChange _ _ => true
  | .retryCountReset _ => true
  | .channelCooled _ => true
  | .serviceUartCommand d _ => d.length == 16
  | .stationTxDrop _ => true
  | .randomSourceRestored => true

end Sys2Proof
end

