-- ==== Sys2Proof/Tests/Slice0.lean ====
section
/-! SUPPORT. The model's own tests. Ill-formed commands that WellFormed refuses; worked examples of spec/ and check values published with the
algorithms; and for each statement with hypotheses one theorem witness_<name> that gives, for each of its clauses, a state and operands
that meet the clause's hypotheses together. -/

section

/- The witnesses are elaborated one after the other: many at once need more memory than the check allows. -/
set_option Elab.async false

namespace Sys2Proof.Machine

/-- A change of the state. -/
def State.upd1 (s : State) (f : State → State) : State := f s

end Sys2Proof.Machine

namespace Sys2Proof.Tests

open Sys2Proof Sys2Proof.Machine

def kf0 : KiteFrame := ⟨1, 0, false, true, 0, 0, 0, 0, 0, false, 0, 0, 0, 0, []⟩
def evt0 : Event := ⟨0x0101, none, 0, 0, 0, 0, 0, 0, false, 0, 0, 0, false, [], false⟩
def pkt0 : Packet := ⟨[], 0, true, 0, 0, 0, false, false, 0⟩
def run0 : Run := ⟨0, 0, [], .sounding, 0, 0, [], [], [], [], 0, false, [], 0, 0, 0, false, none, 0, none, []⟩
def rec0 : SignedRec := ⟨1, 0, false, 0, 0, 0, 0, 0, 0, 0, 0, 0, 0, 0, 0, 0, [], [], 0, 0, 0, 0, 0, none⟩
def log0 : LogRec := ⟨true, false, 0, 0, none, 0, 0, 0, 0, 0, 0, [], [], 0⟩
def slot0 : AuthSlot := ⟨0, 0, 0, 0, false, 0, 0, 0⟩
def cal0 : CalRec := ⟨0, 0, 0, 0, 1, 0x40000000, 0, 0, 0, 0, 0⟩
def saf0 : SafetyRec := ⟨0, false, false, false, false, false, Vector.replicate 6 0, Vector.replicate 6 0, 0, 0, 0, 20, 1, 10, 500, 20, 30, 500⟩
/-- A profile of one state of each class 0 and 4. -/
def prof0 : LoadedProfile := ⟨0, { id := 0, dc := false, proxMode := 0, zpEn := false, initial := 0, fault := 1, roles := Vector.replicate 8 0, iMax := 6000, iMin := 6000, d0CloseMain := 2000, d0OpenMain := 2000, d0CloseAux := 2000, d0OpenAux := 2000, fbOffClose := 0, fbOffOpen := 0, contTimeout := 20, lockTimeout := 50, debounce := 1, zpCloseLane := 0, zpOpenLane := 0, vside := false, proxDebounce := 1, states := [⟨0, 0, 0, 0, 0⟩, ⟨0, 0, 4, 0, 0⟩], trans := [], actions := [] }, saf0, ⟨0, 4, 1, 95, 0, 5000, 400, []⟩, false, false, 0, true⟩

def bk0 : Bank := ⟨0, 0, 0, true⟩
def tx0 : Transaction := ⟨0, .auth1, 0, 0, [], 0, 0, 0, 0, 0, 0, bk0, bk0, 0, false, [], false, false, 0, []⟩
def rx0 : KiteRx := ⟨[], 0, 0, 0⟩
def in0 : ShareIn := ⟨0, 0, 1, 0, 0, 0, 0, 1, 0, 0, 0, 0⟩
def claim0 : Claim := ⟨in0, [], 0, 0, 0, false⟩

/-- The machine of the witnesses: as after reset, running. -/
def live : State := { State.reset with
  glb.phase := .running, glb.perst := false, rng.linkUp := true, plc.en := true, plc.mac := 0x02AB00000000
  pwr.domains := Vector.replicate 19 { up := true }
  lanes := Vector.replicate 128 { link := .up }
  ctxs := Vector.replicate 128 { bound := true, enabled := true, waiting := false }
  mpl.q := Vector.replicate 1024 { high := 64, low := 32 }
  seq.profiles := [prof0] }

/-- A command of ring 0 with an opcode and PARAM words. -/
def wc (op : Nat) (params : List Word) (handle : BitVec 16 := 0) (device : Bool := false) (data : List Byte := []) (at_ : Nat := 0) : Cmd :=
  ⟨0, 0, BitVec.ofNat 16 op, device, false, false, false, handle, 0x11, at_, params, data⟩

/-- The command is in flight and may take effect. -/
def fly (c : Cmd) (s : State) : State := { s with rng := { s.rng with cmds := [⟨c, .ready, false, none, false, none⟩] } }

theorem ready_of {s : State} {c : Cmd} {op : Nat} (h : (c.opcode.toNat == op && (startable s c).isSome &&
    (List.finRange 19).all fun d => opDomain op != some d || (vget s.pwr.domains d).up) = true) : Ready s c op := by
  simp only [Bool.and_eq_true, beq_iff_eq, List.all_eq_true, Bool.or_eq_true, bne_iff_ne, ne_eq] at h
  refine ⟨h.1.1, h.1.2, fun d hd => ?_⟩
  rcases h.2 d (List.mem_finRange d) with k | k
  · exact absurd hd k
  · exact k

theorem host_of {s : State} (h : (s.glb.phase == .running && !s.glb.perst && !s.tim.refHoldover && s.rng.linkUp && !s.rng.d3hot) = true) :
    HostReaches s := by
  simp at h
  exact ⟨h.1.1.1.1, h.1.1.1.2, h.1.1.2, h.1.2, h.2⟩

theorem bar_of {s : State} (h : (s.glb.phase == .running && !s.glb.perst && !s.tim.refHoldover && s.rng.linkUp && !s.rng.d3hot && !s.upd.recovery) = true) :
    BarReaches s := by
  simp at h
  exact ⟨⟨h.1.1.1.1.1, h.1.1.1.1.2, h.1.1.1.2, h.1.1.2, h.1.2⟩, h.2⟩

theorem context_of {s : State} {c : Cmd} {o : Fin 128} (h : (s.ofHandle c.handle.toNat == some o && (s.lane o).link == .up && !(s.ctx o).waiting &&
    !(s.ctx o).paused) = true) : ToContext s c o := by
  simp at h
  exact ⟨h.1.1.1, h.1.1.2, h.1.2, h.2⟩



/-- Rings 0 and 16 are enabled, and the host has placed a command. -/
def fetching : State := (live.onRing 0 (fun x => { x with en := true, role := 1, hostIdx := 1 })).onRing 16 (fun x => { x with en := true })

theorem some_getD {α : Type} {x : Option α} (d : α) (h : x.isSome = true) : x = some (x.getD d) := by
  cases x <;> simp_all

def mk0 : Mark := ⟨.config, 0, false, 0, false⟩
def prof1 : LoadedProfile := { prof0 with prof.states := [⟨0, 1, 0, 0, 0⟩, ⟨0, 0, 4, 0, 0⟩], prof.trans := [⟨0, 1, 0xFF, 0, 0, 0, 0⟩] }

theorem ne_not (b : Bool) : b ≠ !b := by cases b <;> decide

theorem few_ones {v w : BitVec 384} (h : v = 0) : ones (v &&& w) ≤ 32 := by
  subst h; simp [ones]

theorem many_ones {v w : BitVec 384} (h : v = BitVec.allOnes 384) : 32 < ones w → 32 < ones (v &&& w) := by
  subst h; rw [BitVec.allOnes_and]; exact id

theorem pair_of {α β : Type} {x : α × β} {a : α} (h : x.1 = a) : x = (a, x.2) := by subst h; rfl

/-- A signature of the challenge of the test: r = s = the x coordinate of the base point. -/
def sig0 : List Byte := beBytes 32 p256G.1
/-- The public key it belongs to, computed outside the model. -/
def pub0 : List Byte := beBytes 32 0xa64dee11ec2784ba187751586e3e3bade8401a5d0612c66a0eee60cfbab3f780 ++ beBytes 32 0x726cda33803b9047bffec1dfff4d08e096bd357dabbfdda496a11c2c3394f999

def ko0 : KiteOut := ⟨kf0, 0, none⟩
/-- An unicast frame. -/
def ko1 : KiteOut := ⟨{ kf0 with bcast := false, ackReq := true, dest := 1 }, 0, none⟩
/-- A HELLO frame without payload, sealed under the key 0. -/
def sealed0 : KiteRx := ⟨129 :: List.replicate 30 0 ++ [203, 67, 197, 208, 83, 77, 231, 117, 228, 27, 234, 130], 0, 0, 0⟩
/-- The same frame under another key. -/
def sealed1 : KiteRx := ⟨129 :: List.replicate 30 0 ++ [65, 255, 35, 26, 153, 203, 55, 84, 214, 19, 101, 245], 0, 0, 0⟩
/-- Kite runs and has a key. -/
def kiting : State := ({ live with kit.en := true } : State).onKey 3 (fun x => { x with state := .valid })

/-- The angle stands still where the slot lies in the past. -/
theorem slot_past {s : State} {pri : BitVec 2} {a : Option Nat} (hb : s.kit.band = 0) (h : s.kit.idleAt + 10 ^ 9 ≤ s.tim.tick)
    (h0 : s.tim.mainsRem = 0) (hg : guardEnd s = a) : guardEnd ((slotStart s pri).2.toTick (slotStart s pri).1) = a := by
  have ht : (slotStart s pri).2.tim = s.tim := by unfold slotStart; simp [hb, State.draw]
  have hs : (slotStart s pri).1 ≤ s.tim.tick := by
    unfold slotStart
    simp only [hb, if_true]
    have : kiteWindow pri = (0, 4) ∨ kiteWindow pri = (4, 8) ∨ kiteWindow pri = (12, 16) := by unfold kiteWindow; split <;> [simp; (split <;> simp)]
    have hm : ∀ x : Nat, x % 4 < 4 ∧ x % 8 < 8 ∧ x % 16 < 16 := fun x => ⟨Nat.mod_lt _ (by decide), Nat.mod_lt _ (by decide), Nat.mod_lt _ (by decide)⟩
    obtain ⟨m1, m2, m3⟩ := hm s.draw.1.toNat
    unfold usNs
    rcases this with k | k | k <;> rw [k] <;> simp only <;> omega
  rw [← hg]
  unfold State.toTick guardEnd
  generalize (slotStart s pri).2 = u at ht ⊢
  have e0 : ((slotStart s pri).1 - u.tim.tick + 9) / 10 = 0 := by rw [ht]; omega
  rw [e0]
  unfold State.advance
  have hmz : (u.tim.runMains 0).mains = s.tim.mains := by
    unfold Tim.runMains
    rw [ht, h0]
    simp
    rcases Int.le_total 0 s.tim.angleErr with k | k
    · simp [k]
    · rcases Int.lt_or_eq_of_le k with k' | k'
      · rw [if_neg (by omega)]; simp; omega
      · simp [k']
  split
  · have : ((u.tim.runMains 0).runLegal 0).mains = s.tim.mains := by rw [← hmz]; unfold Tim.runLegal; rfl
    simp only [this]
  · simp only [ht]
def sc1 : SrcCycle := ⟨20000000, 230000, 0⟩
def rd0 : FbRead := ⟨wc 0 [], 16, 0⟩
def ft0 : CanFilter := { en := true, id := 1, mask := 0x1FFFFFFF }
def pulse0 : PulseSet := ⟨0, 0⟩
def commit0 : CommitSet := ⟨0, false, 0, 0, Vector.replicate 128 EnrSet.zero, SiteSet.zero, Vector.replicate 8 pulse0, 0, 0, 0, (0, []), false, true⟩
def session0 : Session := ⟨0, 0, none, 0, 0, 0, [], Vector.replicate 16 0, 0, 0, 0, 0, none, false⟩
/-- A profile whose lanes carry residual current and whose stages trip at once. -/
def prof8 : LoadedProfile := { prof0 with prof.roles := Vector.replicate 8 8, saf.thr := Vector.replicate 6 1 }
def prof2 : LoadedProfile := { prof0 with prof.states := [⟨0, 0, 1, 0, 0⟩] }
def profP : LoadedProfile := { prof0 with prof.proxMode := 1 }

theorem pair_snd {α β : Type} {x : α × β} {b : β} (h : x.2 = b) : x = (x.1, b) := by subst h; rfl
def slot1 : AuthSlot := { slot0 with status := 1, check := 1289385847 }
def slot3 : AuthSlot := { slot0 with status := 1, member := 3, check := 3817102825 }

theorem crc_zeros : crc32 (List.replicate 194 0) = 1770557965 := by
  have a : (List.replicate 65 (0 : Byte)).foldl crcByte 0xFFFFFFFF#32 = 3794929800#32 := by decide +kernel
  have b : (List.replicate 65 (0 : Byte)).foldl crcByte 3794929800#32 = 664912125#32 := by decide +kernel
  have c : (List.replicate 64 (0 : Byte)).foldl crcByte 664912125#32 ^^^ 0xFFFFFFFF#32 = 1770557965#32 := by decide +kernel
  unfold crc32
  rw [show List.replicate 194 (0 : Byte) = List.replicate 65 0 ++ (List.replicate 65 0 ++ List.replicate 64 0) from rfl,
    List.foldl_append, List.foldl_append, a, b, c]
  rfl

/-- A frame of zeros with its CRC. -/
def frame0 : List Byte := List.replicate 194 0 ++ leBytes 4 1770557965

theorem frame0_good : frameGood frame0 true false = true := by
  have h : (frame0.take 194) = List.replicate 194 0 := by decide +kernel
  unfold frameGood crcGood
  rw [h, crc_zeros]
  decide +kernel

/-! ## Worked examples of spec/ and published check values -/

/-- spec/00: outlet index 37 on the device strapped to slot 2 has handle 293. -/
theorem test_handle : ({ live with glb.slot := 2 } : State).handle 37 = 293 := by decide +kernel

/-- spec/03: outlet 17 with its V1 crossing at 0x5580 is classed L2. -/
theorem test_angle_class : angleClass 0x5580 = 2 ∧ angleClass 0x3FFF = 0 ∧ angleClass 0x6AAB = 0 := by decide

/-- spec/08: RC 100 kΩ, VM 50 V, RM 4,000 kΩ and Vc of 48.14 V and −24.15 V give class 1, a warning. -/
theorem test_asymmetric_fault : (isoResult { prof0.saf with imdFault := 100, imdWarn := 500, vm := 50, rc := 100, rm := 4000 } 48140 (-24150)).cls = 1 := by
  decide

/-- spec/09: the fill of the worked example at 400 kW: 26,350 mA for the AC outlets, 172,724 mA for the DC outlets. -/
theorem test_allocation_example :
    (allocate (((List.range 6).map fun i => ⟨12 + i, 4, 1, 32000, 6000, 7, 1, 1, 0, 0, 0, 0⟩) ++
        [⟨40, 4, 8, 400000, 0, 7, 8000, 6555, 0, 0, 0, 0⟩, ⟨41, 4, 8, 400000, 0, 7, 8000, 6555, 0, 0, 0, 0⟩])
      [600000, 600000, 600000, 400000000, 230000, 230000, 230000] 0).map (·.2.1) =
      [26350, 26350, 26350, 26350, 26350, 26350, 172724, 172724] := by
  decide +kernel

/-- The check value of CRC-32 (IEEE 802.3). -/
theorem test_crc32 : crc32 [0x31, 0x32, 0x33, 0x34, 0x35, 0x36, 0x37, 0x38, 0x39] = 0xCBF43926 := by decide +kernel

/-- FIPS 197, the example of AES-128. -/
theorem test_aes : aesEncrypt 0x000102030405060708090a0b0c0d0e0f 0x00112233445566778899aabbccddeeff = 0x69c4e0d86a7b0430d8cdb78070b4c55a := by
  decide +kernel

/-- RFC 4493, example 3. -/
theorem test_cmac : aesCmac 0x2b7e151628aed2a6abf7158809cf4f3c (beBytes 40
    0x6bc1bee22e409f96e93d7e117393172aae2d8a571e03ac9c9eb76fac45af8e5130c81c46a35ce411) = 0xdfa66747de9ae63030ca32611497c827 := by
  decide +kernel

/-- RFC 3610, packet vector 1. -/
theorem test_ccm :
    let k := 0xC0C1C2C3C4C5C6C7C8C9CACBCCCDCECF
    let nonce := beBytes 13 0x00000003020100A0A1A2A3A4A5
    let p := beBytes 23 0x08090A0B0C0D0E0F101112131415161718191A1B1C1D1E
    ccmCrypt k nonce p ++ ccmMic k nonce (beBytes 8 0x0001020304050607) p =
      beBytes 31 0x588C979A61C663D2F066D0C2C0F989806D5F6B61DAC38417E8D12CFDF926E0 := by
  decide +kernel

/-- FIPS 180-4, the digest of "abc". -/
theorem test_sha256 : sha256 [0x61, 0x62, 0x63] = 0xba7816bf8f01cfea414140de5dae2223b00361a396177a9cb410ff61f20015ad := by decide +kernel

/-- P-256: twice the base point. -/
theorem test_p256_double : ecMul 2 (some p256G) =
    some (0x7CF27B188D034F7E8A52380304B51AC3C08969E277F21B35A60B48FC47669978,
      0x07775510DB8ED040293D9AC69F7430DBBA7DADE63CE982299E04B79D227873D1) := by
  decide +kernel

/-- spec/11: the terms of the table step at 31.37 °C, between points 14 and 15. -/
theorem test_table_step : interpolate (List.replicate 14 0 ++ [-1200, -1550]) 3137 = -1296 ∧ interpolate (List.replicate 14 0 ++ [1840, 1905]) 3137 = 1858 := by
  decide +kernel

/-! ## Ill-formed commands -/

/-- A ring command with nine PARAM words is refused, one with ten is not. -/
theorem test_wf_command : (Instr.noOperation (wc 0 (List.replicate 9 0))).wellFormed = false ∧
    (Instr.noOperation (wc 0 (List.replicate 10 0))).wellFormed = true := by decide

/-- A register offset off its word boundary is refused. -/
theorem test_wf_register_offset : (Instr.registerWrite 3 0x12 0).wellFormed = false ∧ (Instr.registerWrite 3 0x14 0).wellFormed = true := by decide

/-- An aligned word access is no unaligned access. -/
theorem test_wf_unaligned : (Instr.barAccessUnaligned 0 0x10 4 true).wellFormed = false ∧
    (Instr.barAccessUnaligned 0 0x12 4 true).wellFormed = true := by decide

/-- A command descriptor has sixteen words, and so has one of the service UART. -/
theorem test_wf_descriptor : (Instr.commandFetch 0 (List.replicate 15 0) []).wellFormed = false ∧
    (Instr.serviceUartCommand (List.replicate 15 0) []).wellFormed = false ∧
    (Instr.commandFetch 0 (List.replicate 16 0) []).wellFormed = true := by decide

/-- The descriptors of the vehicle-frame rings have eight words. -/
theorem test_wf_frame_descriptor : (Instr.ftxFetch 0 (List.replicate 7 0) []).wellFormed = false ∧
    (Instr.frxFill 0 (List.replicate 9 0)).wellFormed = false ∧ (Instr.ftxFetch 0 (List.replicate 8 0) []).wellFormed = true := by decide

/-- A CAN FD frame carries at most 64 bytes. -/
theorem test_wf_can_frame : (Instr.canFrameReceived 0 0 0 (List.replicate 65 0)).wellFormed = false ∧
    (Instr.canFrameReceived 0 0 0 (List.replicate 64 0)).wellFormed = true := by decide

/-! ## States and operands that meet the hypotheses of the statements -/

theorem witness_StepRunsTheFrontCommand :
    ∃ (s : State) (c : Instr) (rest : List Instr), (s.pending = c :: rest) :=
  ⟨{ live with pending := [.linkLoss 0] }, .linkLoss 0, [], by decide +kernel⟩

theorem witness_IdleStepAdvancesTheClock :
    ∃ (s : State), (s.pending = []) ∧ (∀ (o : Fin 128), (s.sta o).inStation = []) ∧ (s.glb.phase ≠ Phase.removal) :=
  ⟨live, by decide +kernel⟩

theorem witness_StepKeepsSettingsInRange :
    ∃ (s : State) (t : State), (s.cfg.InRange) ∧ (step s = Host.Outcome.next t) :=
  ⟨{ live with cfg.syncAge := 700 }, _, ⟨by decide, by decide, by decide, by decide, by decide, by decide, by decide, by decide,
    by decide, by decide, by decide⟩, rfl⟩

theorem witness_ImageBytesReadBack :
    (∃ (m : List Host.Cell) (a : ℕ) (l : List Byte) (x : ℕ) (i : ℕ), (Memory.wf m = true) ∧ (i < l.length) ∧ (x = a + i)) ∧
    (∃ (m : List Host.Cell) (a : ℕ) (l : List Byte) (x : ℕ), (Memory.wf m = true) ∧ (x < a ∨ a + l.length ≤ x)) :=
  ⟨⟨[], 0, [0], 0, 0, by decide +kernel⟩,
   ⟨[], 0, [], 0, by decide +kernel⟩⟩

theorem witness_CompletionIsMade :
    ∃ (s : State) (c : Cmd), (InFlight s c) :=
  ⟨fly (wc 0 []) (live), (wc 0 []), (by unfold InFlight; decide +kernel)⟩

theorem witness_PostedEventIsKept :
    ∃ (s : State) (code : ℕ), (code < 4352) ∧ (s.tie.role ≠ PairRole.standby) :=
  ⟨live, 0, by decide +kernel⟩

theorem witness_RingControlCommands :
    (∃ (s : State) (c : Cmd), (Ready s c 0) ∧ (∀ e ∈ s.rng.backlog, s.rng.posted < e.ident)) ∧
    (∃ (s : State) (c : Cmd), (Ready s c 0) ∧ (∃ e ∈ s.rng.backlog, e.ident ≤ s.rng.posted)) ∧
    (∃ (s : State) (c : Cmd), (Ready s c 1) ∧ (s.rng.backlog = []) ∧ (s.rng.lostSums = []) ∧ (∀ (k : Fin 8), (s.ring (evtRing ↑k)).en =
      true → evtRoom s (evtRing ↑k) = true)) ∧
    (∃ (s : State) (c : Cmd) (o : Fin 128), (Ready s c 2) ∧ (s.ofHandle (fld (c.p 0) 0 16) = some o) ∧ ((s.poolQ (txQ o)).staging = []))
      :=
  ⟨⟨fly (wc 0 []) (live), (wc 0 []), ready_of (by decide +kernel), by decide +kernel⟩,
   ⟨fly (wc 0 []) ({ live with rng.backlog := [evt0] }), (wc 0 []), ready_of (by decide +kernel), by decide +kernel⟩,
   ⟨fly (wc 1 []) ({ live with rng.backlog := [], rng.lostSums := [] }), (wc 1 []), ready_of (by decide +kernel), by decide +kernel⟩,
   ⟨fly (wc 2 []) (((live : State) |>.onQ (txQ (0)) (fun x => { x with staging := [] }))), (wc 2 []), 0, ready_of (by decide +kernel),
     by decide +kernel⟩⟩

theorem witness_RegisterAccesses :
    (∃ (s : State) (c : Cmd) (off : ℕ), (Ready s c 3) ∧ (Cmd.regOff c = some off) ∧ ((readRoles (off / 65536)).contains (s.roleOf c) =
      true)) ∧
    (∃ (s : State) (off : ℕ), (off / 65536 ≤ 20) ∧ (off ≠ 65552) ∧ (s.upd.recovery = false)) ∧
    (∃ (s : State) (c : Cmd) (off : ℕ), (Ready s c 4) ∧ (Cmd.regOff c = some off) ∧ (s.roleOf c = 1 ∨ s.roleOf c = 5)) ∧
    (∃ (s : State) (c : Cmd), (Ready s c 3) ∧ (Cmd.regOff c = none)) ∧
    (∃ (s : State) (c : Cmd), (Ready s c 4) ∧ (Cmd.regOff c = none)) ∧
    (∃ (s : State) (c : Cmd) (off : ℕ), (Ready s c 4) ∧ (Cmd.regOff c = some off) ∧ (s.roleOf c = 2)) ∧
    (∃ (s : State), (HostReaches s)) ∧
    (∃ (off : ℕ), (1507328 ≤ off)) ∧
    (∃ (s : State), (s.upd.recovery = false)) ∧
    (∃ (s : State) (bar : Fin 3) (off : ℕ) (size : ℕ), (HostReaches s) ∧ (↑bar ≤ 1) ∧ (size ≠ 4 ∨ off % 4 ≠ 0)) ∧
    (∃ (s : State), (HostReaches s)) :=
  ⟨⟨fly (wc 3 []) (live), (wc 3 []), 0, ready_of (by decide +kernel), by decide +kernel⟩,
   ⟨{ live with upd.recovery := false }, 0, by decide +kernel⟩,
   ⟨fly (wc 4 []) (live), (wc 4 []), 0, ready_of (by decide +kernel), by decide +kernel⟩,
   ⟨fly (wc 3 [1]) (live), (wc 3 [1]), ready_of (by decide +kernel), by decide +kernel⟩,
   ⟨fly (wc 4 [1]) (live), (wc 4 [1]), ready_of (by decide +kernel), by decide +kernel⟩,
   ⟨fly (wc 4 []) (((live : State)|>.onRing 0 (fun x => { x with role := 2 }))), (wc 4 []), 0, ready_of (by decide +kernel),
     by decide +kernel⟩,
   ⟨live, host_of (by decide +kernel)⟩,
   ⟨1507328, by decide +kernel⟩,
   ⟨{ live with upd.recovery := false }, by decide +kernel⟩,
   ⟨live, 0, 0, 0, host_of (by decide +kernel), by decide +kernel⟩,
   ⟨live, host_of (by decide +kernel)⟩⟩

theorem witness_DoorbellWrites :
    (∃ (s : State) (r : Fin 57) (v : BitVec 32), (HostReaches s) ∧ (mirroring s = false) ∧ (shadowed s r = false) ∧ ((s.ring r).en =
      true) ∧ (v = (s.ring r).hostIdx ∨ later v (s.ring r).hostIdx = true) ∧ ((s.ring r).occupancy (ringKind r) v ≤ (s.ring r).size)) ∧
    (∃ (s : State) (r : Fin 57), ((s.ring r).restartDue = none) ∧ ((s.ring r).debugDue = false) ∧ ((s.ring r).cplHeld = []) ∧ ((s.ring
      r).evtHeld = [])) ∧
    (∃ (s : State) (r : Fin 57) (v : BitVec 32), (HostReaches s) ∧ (mirroring s = false) ∧ (shadowed s r = false) ∧ ((s.ring r).en =
      true) ∧ (v ≠ (s.ring r).hostIdx) ∧ (later v (s.ring r).hostIdx = false)) ∧
    (∃ (s : State) (r : Fin 57) (v : BitVec 32), (HostReaches s) ∧ (mirroring s = false) ∧ (shadowed s r = false) ∧ ((s.ring r).en =
      true) ∧ (v = (s.ring r).hostIdx ∨ later v (s.ring r).hostIdx = true) ∧ ((s.ring r).size < (s.ring r).occupancy (ringKind r) v)) :=
  ⟨⟨((live : State) |>.onRing (0) (fun x => { x with en := true })), 0, 0, host_of (by decide +kernel), by decide +kernel⟩,
   ⟨((live : State) |>.onRing (0) (fun x => { x with restartDue := none }) |>.onRing (0) (fun x => { x with debugDue := false })
     |>.onRing (0) (fun x => { x with cplHeld := [] }) |>.onRing (0) (fun x => { x with evtHeld := [] })), 0, by decide +kernel⟩,
   ⟨((live : State) |>.onRing (0) (fun x => { x with en := true })), 0, 0xFFFFFFFF, host_of (by decide +kernel), by decide +kernel⟩,
   ⟨((live : State) |>.onRing (0) (fun x => { x with en := true })), 0, 1000, host_of (by decide +kernel), by decide +kernel⟩⟩

theorem witness_RingsUpAndDown :
    (∃ (s : State) (r : Fin 57) (v : BitVec 32), (HostReaches s) ∧ (s.upd.recovery = false) ∧ ((s.ring r).en = false) ∧ (enableError
      (ctlFields s r (v ||| 1)) r = none)) ∧
    (∃ (s : State) (r : Fin 57) (v : BitVec 32), (HostReaches s) ∧ (s.upd.recovery = false) ∧ (s.tie.handing = false) ∧ (shadowed s r =
      false) ∧ (ringKind r = RingKind.cpl) ∧ ((s.ring r).en = false) ∧ ((s.ring r).restartDue = none) ∧ ((s.ring r).debugDue = false) ∧
      ((s.ring r).cplUnacked = []) ∧ ((s.ring r).cplHeld.length ≤ 2 ^ (fld v 1 4 + 6)) ∧ (enableError (ctlFields s r (v ||| 1)) r =
      none)) ∧
    (∃ (s : State) (r : Fin 57) (v : BitVec 32), (HostReaches s) ∧ ((s.ring r).en = true) ∧ (enableError (ctlFields s r (v ||| 1)) r =
      none)) ∧
    (∃ (s : State) (r : Fin 57) (v : BitVec 32), (HostReaches s) ∧ (s.upd.recovery = false) ∧ ((s.ring r).en = false) ∧ (10 < fld v 1
      4)) ∧
    (∃ (s : State), (HostReaches s)) :=
  ⟨⟨(({ live with upd.recovery := false } : State) |>.onRing (32) (fun x => { x with en := false })), 32, 0, host_of
    (by decide +kernel), by decide +kernel⟩,
   ⟨(({ live with upd.recovery := false, tie.handing := false } : State) |>.onRing (16) (fun x => { x with en := false }) |>.onRing (16)
     (fun x => { x with restartDue := none }) |>.onRing (16) (fun x => { x with debugDue := false }) |>.onRing (16) (fun x =>
     { x with cplUnacked := [] })), 16, 0, host_of (by decide +kernel), by decide +kernel⟩,
   ⟨((live : State) |>.onRing (32) (fun x => { x with en := true })), 32, 0, host_of (by decide +kernel), by decide +kernel⟩,
   ⟨(({ live with upd.recovery := false } : State) |>.onRing (0) (fun x => { x with en := false })), 0, 22, host_of (by decide +kernel),
     by decide +kernel⟩,
   ⟨live, host_of (by decide +kernel)⟩⟩

theorem witness_CommandsAreFetched :
    (∃ (s : State) (r : Fin 16) (d : List Word) (data : List Byte), (fetchable s r = true) ∧ (wNat d 4 2 = 0) ∧ (fetchStatus s (parseCmd
      r (s.ring (cmdRing r)).cmdNo d data) = none)) ∧
    (∃ (s : State) (r : Fin 16) (d : List Word) (data : List Byte), (fetchable s r = true) ∧ (wNat d 4 2 ≠ 0) ∧ (s.tim.mains < wNat d 4
      2) ∧ (s.tim.marks.length < 1536) ∧ (fetchStatus s (parseCmd r (s.ring (cmdRing r)).cmdNo d data) = none)) ∧
    (∃ (s : State) (r : Fin 16) (d : List Word) (data : List Byte), (fetchable s r = true) ∧ (wNat d 4 2 ≠ 0) ∧ (wNat d 4 2 <
      s.tim.mains) ∧ (fetchStatus s (parseCmd r (s.ring (cmdRing r)).cmdNo d data) = none)) ∧
    (∃ (s : State) (r : Fin 16) (d : List Word) (data : List Byte) (st : BitVec 8), (fetchable s r = true) ∧ (fetchStatus s (parseCmd r
      (s.ring (cmdRing r)).cmdNo d data) = some st)) ∧
    (∃ (s : State) (r : Fin 16) (d : List Word), (fetchable s r = true) ∧ (s.upd.recovery = false) ∧ (opTable (fld (wAt d 0) 0 16)
      (List.map (fun i => wAt d (6 + i)) (List.range 10)) = none)) ∧
    (∃ (s : State) (r : Fin 16) (index : BitVec 32) (x : CmdRec), (s.cmdRec r index = some x) ∧ (x.phase = CmdPhase.waitMark) ∧
      (s.clocksRun = true) ∧ (∀ m ∈ pendingMarks s, ∀ k ∈ pendingMarks s, k.2 = MarkAct.command r index → markBefore m k = false) ∧
      (x.cmd.opcode = 0)) ∧
    (∃ (s : State) (r : Fin 16) (index : BitVec 32) (x : CmdRec), (s.cmdRec r index = some x) ∧ (x.phase = CmdPhase.waitMark) ∧
      (s.clocksRun = true) ∧ (∀ m ∈ pendingMarks s, ∀ k ∈ pendingMarks s, k.2 = MarkAct.command r index → markBefore m k = false) ∧
      (x.cmd.opcode = 256)) ∧
    (∃ (s : State) (r : Fin 16) (index : BitVec 32) (x : CmdRec), (s.cmdRec r index = some x) ∧ (x.phase = CmdPhase.waitMark) ∧
      (s.clocksRun = true) ∧ (∀ m ∈ pendingMarks s, ∀ k ∈ pendingMarks s, k.2 = MarkAct.command r index → markBefore m k = false) ∧
      (Ready (fireCmdMark s r index) x.cmd 0) ∧ (∀ e ∈ s.rng.backlog, s.rng.posted < e.ident)) ∧
    (∃ (s : State) (r : Fin 16) (index : BitVec 32) (x : CmdRec) (m : Mark), (s.cmdRec r index = some x) ∧ (x.phase = CmdPhase.waitMark)
      ∧ (m ∈ (fireCmdMark s r index).tim.marks)) :=
  ⟨⟨fetching, 0, [], [], by decide +kernel⟩,
   ⟨fetching, 0, [0, 0, 0, 0, 5], [], by decide +kernel⟩,
   ⟨{ fetching with tim.mains := 6 }, 0, [0, 0, 0, 0, 5], [], by decide +kernel⟩,
   ⟨fetching, 0, [0xFFFF], [], 1, by decide +kernel⟩,
   ⟨{ fetching with upd.recovery := false }, 0, [0xFFFF], by decide +kernel⟩,
   ⟨{ live with rng.cmds := [(⟨(wc 0 []), .waitMark, false, none, false, none⟩)] }, 0, 0, ⟨(wc 0 []), .waitMark, false, none, false,
     none⟩, by decide +kernel⟩,
   ⟨{ live with rng.cmds := [(⟨(wc 256 []), .waitMark, false, none, false, none⟩)] }, 0, 0, ⟨(wc 256 []), .waitMark, false, none, false,
     none⟩, by decide +kernel⟩,
   ⟨{ live with rng.cmds := [(⟨(wc 0 []), .waitMark, false, none, false, none⟩)] }, 0, 0, ⟨(wc 0 []), .waitMark, false, none, false,
     none⟩, by decide +kernel, by decide +kernel, by decide +kernel, by decide +kernel, ready_of (by decide +kernel),
     by decide +kernel⟩,
   ⟨{ live with rng.cmds := [(⟨(wc 0 []), .waitMark, false, none, false, none⟩)], tim.marks := [mk0] }, 0, 0, ⟨(wc 0 []), .waitMark,
     false, none, false, none⟩, mk0, by decide +kernel⟩⟩

theorem witness_WaitingEntriesAreSent :
    (∃ (s : State) (e : Event) (r : Fin 57), (writingOn s = true) ∧ (s.rng.backlog = [e]) ∧ (s.rng.lostSums = []) ∧ (s.rng.cmds = []) ∧
      (∀ (k : Fin 57), (s.ring k).restartDue = none ∧ (s.ring k).debugDue = false ∧ (s.ring k).cplHeld = [] ∧ (s.ring k).evtHeld = []) ∧
      (evtTarget s e.code = some r) ∧ (evtRoom s r = true)) ∧
    (∃ (s : State) (r : Fin 57), ((s.ring r).en = true) ∧ ((s.ring r).unsignalled ≠ 0) ∧ (requestsOn s = true) ∧ (s.rng.msixEn = true))
      :=
  ⟨⟨(({ live with rng.backlog := [(evt0)], rng.lostSums := [], rng.cmds := [] } : State)|>.onRing 32 (fun x => { x with en := true })),
    evt0, 32, by decide +kernel⟩,
   ⟨(({ live with rng.msixEn := true } : State) |>.onRing (0) (fun x => { x with en := true })|>.onRing 0 (fun x =>
     { x with unsignalled := 1 })), 0, by decide +kernel⟩⟩

theorem witness_VehicleFramesMove :
    (∃ (s : State) (r : Fin 8) (d : List Word) (o : Fin 128) (k : Fin 57), (k.val = 40 + r.val) ∧ (writingOn s = true) ∧ ((s.ring k).en
      = true) ∧ ((s.ring k).hostIdx ≠ (s.ring k).devIdx) ∧ (60 ≤ fld (wAt d 0) 16 16) ∧ (fld (wAt d 0) 16 16 ≤ 1514) ∧ (s.ofHandle (fld
      (wAt d 0) 0 16) = some o) ∧ ((s.sta o).assoc = true) ∧ (stationUp s o = true) ∧ ((s.poolQ (txQ o)).paused = false)) ∧
    (∃ (s : State) (r : Fin 8) (d : List Word) (k : Fin 57), (k.val = 40 + r.val) ∧ (writingOn s = true) ∧ ((s.ring k).en = true) ∧
      ((s.ring k).hostIdx ≠ (s.ring k).devIdx) ∧ (fld (wAt d 0) 16 16 < 60 ∨ 1514 < fld (wAt d 0) 16 16)) ∧
    (∃ (s : State) (o : Fin 128) (p : Packet) (rest : List Packet) (r : Fin 57), (frxRing s o = r) ∧ ((s.poolQ (rxQ o)).packets = p ::
      rest) ∧ (writingOn s = true) ∧ ((s.ring r).en = true) ∧ ((s.ring r).hostIdx ≠ (s.ring r).devIdx)) ∧
    (∃ (s : State) (o : Fin 128) (p : Packet) (rest : List Packet), ((s.poolQ (txQ o)).packets = p :: rest) ∧ (s.glb.phase =
      Phase.running) ∧ ((s.sta o).assoc = true) ∧ (stationUp s o = true) ∧ ((s.sta o).inStation = [])) ∧
    (∃ (s : State) (o : Fin 128) (p : Packet) (rest : List Packet), ((s.poolQ (txQ o)).packets = p :: rest) ∧ (s.glb.phase =
      Phase.running) ∧ ((s.sta o).assoc = false)) ∧
    (∃ (s : State) (o : Fin 128) (p : Packet) (rest : List Packet), ((s.sta o).inStation = p :: rest) ∧ (s.glb.phase = Phase.running))
      :=
  ⟨⟨((live : State) |>.onRing (40) (fun x => { x with en := true }) |>.onSta (0) (fun x => { x with assoc := true }) |>.onQ (txQ (0))
    (fun x => { x with paused := false })|>.onRing 40 (fun x => { x with hostIdx := 1 })), 0, [0x003C0000], 0, 40, by decide +kernel⟩,
   ⟨((live : State) |>.onRing (40) (fun x => { x with en := true })|>.onRing 40 (fun x => { x with hostIdx := 1 })), 0, [], 40,
     by decide +kernel⟩,
   ⟨((live : State) |>.onQ (rxQ (0)) (fun x => { x with packets := (pkt0) :: ([]) }) |>.onRing (48) (fun x =>
     { x with en := true })|>.onRing 48 (fun x => { x with hostIdx := 1 })), 0, pkt0, [], 48, by decide +kernel⟩,
   ⟨(({ live with glb.phase := Phase.running } : State) |>.onQ (txQ (0)) (fun x => { x with packets := (pkt0) :: ([]) }) |>.onSta (0)
     (fun x => { x with assoc := true }) |>.onSta (0) (fun x => { x with inStation := [] })), 0, pkt0, [], by decide +kernel⟩,
   ⟨(({ live with glb.phase := Phase.running } : State) |>.onQ (txQ (0)) (fun x => { x with packets := (pkt0) :: ([]) }) |>.onSta (0)
     (fun x => { x with assoc := false })), 0, pkt0, [], by decide +kernel⟩,
   ⟨(({ live with glb.phase := Phase.running } : State) |>.onSta (0) (fun x => { x with inStation := (pkt0) :: ([]) })), 0, pkt0, [],
     by decide +kernel⟩⟩

theorem witness_SequencerCommands :
    (∃ (s : State) (c : Cmd) (o : Fin 128) (p : LoadedProfile), (Ready s c 257) ∧ (ToContext s c o) ∧ (s.activeProfile (fin 32 (fld (c.p
      0) 0 5)) = some p) ∧ ((p.badA && p.badB) = false) ∧ (s.ctxClass o = 0) ∧ ((s.ctx o).bothOpen = true)) ∧
    (∃ (s : State) (c : Cmd) (o : Fin 128) (p : LoadedProfile), (Ready s c 257) ∧ (ToContext s c o) ∧ (s.activeProfile (fin 32 (fld (c.p
      0) 0 5)) = some p) ∧ ((p.badA && p.badB) = false) ∧ (s.ctxClass o ≠ 0 ∨ (s.ctx o).bothOpen = false)) ∧
    (∃ (s : State) (c : Cmd) (o : Fin 128), (Ready s c 257) ∧ (ToContext s c o) ∧ (s.activeProfile (fin 32 (fld (c.p 0) 0 5)) = none)) ∧
    (∃ (s : State) (c : Cmd) (o : Fin 128) (p : LoadedProfile), (Ready s c 258) ∧ (ToContext s c o) ∧ (bit (c.p 0) 0 = true) ∧ ((s.ctx
      o).bound = true) ∧ (s.ctxProfile o = some p) ∧ ((s.ctx o).enabled = false)) ∧
    (∃ (s : State) (c : Cmd) (o : Fin 128), (Ready s c 258) ∧ (ToContext s c o) ∧ (bit (c.p 0) 0 = false) ∧ (s.ctxClass o = 0)) ∧
    (∃ (s : State) (c : Cmd) (o : Fin 128), (Ready s c 258) ∧ (ToContext s c o) ∧ (bit (c.p 0) 0 = false) ∧ (s.ctxClass o ≠ 0)) ∧
    (∃ (s : State) (c : Cmd) (o : Fin 128), (Ready s c 259) ∧ (ToContext s c o) ∧ (s.ctxRuns o = true)) ∧
    (∃ (s : State) (c : Cmd) (o : Fin 128), (Ready s c 260) ∧ (ToContext s c o) ∧ (s.ctxRuns o = true) ∧ (s.ctxClass o ≠ 4)) ∧
    (∃ (s : State) (c : Cmd) (o : Fin 128), (Ready s c 260) ∧ (ToContext s c o) ∧ (s.ctxRuns o = false ∨ s.ctxClass o = 4)) ∧
    (∃ (s : State) (c : Cmd) (o : Fin 128), (Ready s c 261) ∧ (ToContext s c o) ∧ (s.ctxClass o = 4) ∧ ((s.ctx o).bothOpen = true) ∧
      ((s.safJ1 o).rc = false) ∧ ((s.safJ1 o).iso = false) ∧ ((s.safJ1 o).weld = false)) ∧
    (∃ (s : State) (c : Cmd) (o : Fin 128), (Ready s c 261) ∧ (ToContext s c o) ∧ (s.ctxClass o = 4) ∧ ((s.ctx o).bothOpen = true) ∧
      ((s.safJ1 o).rc = true ∨ (s.safJ1 o).iso = true ∨ (s.safJ1 o).weld = true)) ∧
    (∃ (s : State) (c : Cmd) (o : Fin 128) (p : LoadedProfile), (Ready s c 262) ∧ (ToContext s c o) ∧ (s.ctxProfile o = some p) ∧ (bit
      (c.p 0) 0 = true) ∧ (bit (c.p 0) 1 = true)) ∧
    (∃ (s : State) (c : Cmd) (o : Fin 128), (Ready s c 263) ∧ (s.ofHandle c.handle.toNat = some o)) ∧
    (∃ (s : State) (c : Cmd) (o : Fin 128), (Ready s c 256) ∧ (ToContext s c o) ∧ (fld (c.p 0) 0 8 ≠ 255)) ∧
    (∃ (s : State) (o : Fin 128) (b : BitVec 3 × BitVec 10 × Bool × Bool × Bool), ((s.ctx o).outputs = b ∨ framesFlow s o = false)) ∧
    (∃ (s : State) (o : Fin 128) (b : BitVec 3 × BitVec 10 × Bool × Bool × Bool), ((s.ctx o).outputs ≠ b) ∧ (framesFlow s o = true)) :=
  ⟨⟨fly (wc 257 []) (live), (wc 257 []), 0, prof0, ready_of (by decide +kernel), context_of (by decide +kernel), by decide +kernel⟩,
   ⟨fly (wc 257 []) (((live : State)|>.onCtx 0 (fun x => { x with main := { fb := true } }))), (wc 257 []), 0, prof0, ready_of
     (by decide +kernel), context_of (by decide +kernel), by decide +kernel⟩,
   ⟨fly (wc 257 [1]) (live), (wc 257 [1]), 0, ready_of (by decide +kernel), context_of (by decide +kernel), by decide +kernel⟩,
   ⟨fly (wc 258 [1]) (((live : State) |>.onCtx (0) (fun x => { x with bound := true }) |>.onCtx (0) (fun x =>
     { x with enabled := false }))), (wc 258 [1]), 0, prof0, ready_of (by decide +kernel), context_of (by decide +kernel),
     by decide +kernel⟩,
   ⟨fly (wc 258 []) (live), (wc 258 []), 0, ready_of (by decide +kernel), context_of (by decide +kernel), by decide +kernel⟩,
   ⟨fly (wc 258 []) (((live : State)|>.onCtx 0 (fun x => { x with state := 1 }))), (wc 258 []), 0, ready_of (by decide +kernel),
     context_of (by decide +kernel), by decide +kernel⟩,
   ⟨fly (wc 259 []) (live), (wc 259 []), 0, ready_of (by decide +kernel), context_of (by decide +kernel), by decide +kernel⟩,
   ⟨fly (wc 260 []) (live), (wc 260 []), 0, ready_of (by decide +kernel), context_of (by decide +kernel), by decide +kernel⟩,
   ⟨fly (wc 260 []) (((live : State)|>.onCtx 0 (fun x => { x with state := 1 }))), (wc 260 []), 0, ready_of (by decide +kernel),
     context_of (by decide +kernel), by decide +kernel⟩,
   ⟨fly (wc 261 []) (((live : State) |>.onSafJ (0) (fun x => { x with rc := false }) |>.onSafJ (0) (fun x => { x with iso := false })
     |>.onSafJ (0) (fun x => { x with weld := false })|>.onCtx 0 (fun x => { x with state := 1 }))), (wc 261 []), 0, ready_of
     (by decide +kernel), context_of (by decide +kernel), by decide +kernel⟩,
   ⟨fly (wc 261 []) (((live : State)|>.onCtx 0 (fun x => { x with state := 1 }) |>.onSafJ 0 (fun x => { x with rc := true }))), (wc 261
     []), 0, ready_of (by decide +kernel), context_of (by decide +kernel), by decide +kernel⟩,
   ⟨fly (wc 262 [3]) (live), (wc 262 [3]), 0, prof0, ready_of (by decide +kernel), context_of (by decide +kernel), by decide +kernel⟩,
   ⟨fly (wc 263 []) (live), (wc 263 []), 0, ready_of (by decide +kernel), by decide +kernel⟩,
   ⟨fly (wc 256 []) (live), (wc 256 []), 0, ready_of (by decide +kernel), context_of (by decide +kernel), by decide +kernel⟩,
   ⟨live, 0, 0, by decide +kernel⟩,
   ⟨live, 0, (7, 0, false, false, false), by decide +kernel⟩⟩

theorem witness_ContextSteps :
    (∃ (s : State) (o : Fin 128) (x : Trigger) (l : List Trigger) (t : State) (r : State × Bool), ((s.ctx o).awaitApply = []) ∧ (mayStep
      s o = true) ∧ ((s.ctx o).faultDue = none) ∧ (nextTrig (s.ctx o).queue = some (x, l)) ∧ (x.cmd = none) ∧ (t = (s.count 3 16
      1).onCtx o fun c => { c with queue := l }) ∧ (chain o none x.code.toNat x.arg.toNat t = some r)) ∧
    (∃ (s : State) (o : Fin 128) (x : Trigger) (l : List Trigger) (t : State), ((s.ctx o).awaitApply = []) ∧ (mayStep s o = true) ∧
      ((s.ctx o).faultDue = none) ∧ (nextTrig (s.ctx o).queue = some (x, l)) ∧ (x.cmd = none) ∧ (t = (s.count 3 16 1).onCtx o fun c =>
      { c with queue := l }) ∧ (matchTrans t o x.code.toNat x.arg.toNat = none) ∧ (unmatchedFault x.code.toNat x.arg.toNat = none)) ∧
    (∃ (s : State) (o : Fin 128) (x : Trigger) (l : List Trigger) (t : State) (k : ℕ), ((s.ctx o).awaitApply = []) ∧ (mayStep s o =
      true) ∧ ((s.ctx o).faultDue = none) ∧ (nextTrig (s.ctx o).queue = some (x, l)) ∧ (x.cmd = none) ∧ (t = (s.count 3 16 1).onCtx o
      fun c => { c with queue := l }) ∧ (matchTrans t o x.code.toNat x.arg.toNat = none) ∧ (unmatchedFault x.code.toNat x.arg.toNat =
      some k)) ∧
    (∃ (s : State) (o : Fin 128), ((s.ctx o).awaitApply = []) ∧ ((s.ctx o).faultDue = none) ∧ ((s.ctx o).queue = [])) ∧
    (∃ (q : List Trigger) (x : Trigger) (l : List Trigger) (y : Trigger), (nextTrig q = some (x, l)) ∧ (y ∈ q)) ∧
    (∃ (a : ℕ), (a < 256)) :=
  ⟨⟨(({ live with seq.profiles := [prof1] } : State) |>.onCtx (0) (fun x => { x with awaitApply := [] }) |>.onCtx (0) (fun x =>
    { x with faultDue := none })|>.onCtx 0 (fun x => { x with queue := [⟨1, 0, none⟩] })), 0, ⟨1, 0, none⟩, [], _, _, by decide +kernel,
    by decide +kernel, by decide +kernel, by decide +kernel, by decide +kernel, rfl, some_getD (live, false) (by decide +kernel)⟩,
   ⟨((live : State) |>.onCtx (0) (fun x => { x with awaitApply := [] }) |>.onCtx (0) (fun x => { x with faultDue := none })|>.onCtx 0
     (fun x => { x with queue := [(⟨1, 0, none⟩)] })), 0, ⟨1, 0, none⟩, [], _, by decide +kernel, by decide +kernel, by decide +kernel,
     by decide +kernel, by decide +kernel, rfl, by decide +kernel⟩,
   ⟨((live : State) |>.onCtx (0) (fun x => { x with awaitApply := [] }) |>.onCtx (0) (fun x => { x with faultDue := none })|>.onCtx 0
     (fun c => { c with queue := [(⟨5, 0, none⟩)] })), 0, ⟨5, 0, none⟩, [], _, 0, by decide +kernel, by decide +kernel,
     by decide +kernel, by decide +kernel, by decide +kernel, rfl, by decide +kernel⟩,
   ⟨((live : State) |>.onCtx (0) (fun x => { x with awaitApply := [] }) |>.onCtx (0) (fun x => { x with faultDue := none }) |>.onCtx (0)
     (fun x => { x with queue := [] })), 0, by decide +kernel⟩,
   ⟨[(⟨1, 0, none⟩)], ⟨1, 0, none⟩, [], (⟨1, 0, none⟩), by decide +kernel⟩,
   ⟨0, by decide +kernel⟩⟩

theorem witness_PilotEvaluations :
    (∃ (s : State) (o : Fin 128) (high : BitVec 12) (low : Option (BitVec 12)) (p : LoadedProfile) (u : State) (w : State) (v : State)
      (k : BitVec 3), (seqOn s = true) ∧ (u = if (s.ctx o).feMode s.now = 1 then s else s.toTick ((s.now / msNs + 1) * msNs)) ∧
      (plateaus ((s.ctx o).feMode s.now) (u.ctx o).duty.toNat (u.ctx o).pilots.reverse = (some high, low)) ∧ (u.ctxProfile o = some p) ∧
      ((u.ctx o).modeChanged u.now = false) ∧ (w = u.onCtx o fun c => { c with high := high, low := low.getD c.low }) ∧ (k = pilotClass
      ((u.ctx o).feMode u.now) high (w.ctx o).low) ∧ (v = toggleStep (islandPilot w o k) o k) ∧ (k = (u.ctx o).pilot)) ∧
    (∃ (s : State) (o : Fin 128) (high : BitVec 12) (low : Option (BitVec 12)) (p : LoadedProfile) (u : State) (w : State) (v : State)
      (k : BitVec 3), (seqOn s = true) ∧ (u = if (s.ctx o).feMode s.now = 1 then s else s.toTick ((s.now / msNs + 1) * msNs)) ∧
      (plateaus ((s.ctx o).feMode s.now) (u.ctx o).duty.toNat (u.ctx o).pilots.reverse = (some high, low)) ∧ (u.ctxProfile o = some p) ∧
      ((u.ctx o).modeChanged u.now = false) ∧ (w = u.onCtx o fun c => { c with high := high, low := low.getD c.low }) ∧ (k = pilotClass
      ((u.ctx o).feMode u.now) high (w.ctx o).low) ∧ (v = toggleStep (islandPilot w o k) o k) ∧ (k ≠ (u.ctx o).pilot) ∧ ((u.ctx
      o).pilotCount = 0 ∨ k ≠ (u.ctx o).pilotCand) ∧ (1 < p.prof.debounce)) ∧
    (∃ (s : State) (o : Fin 128) (high : BitVec 12) (low : Option (BitVec 12)) (p : LoadedProfile) (u : State) (w : State) (v : State)
      (k : BitVec 3), (seqOn s = true) ∧ (u = if (s.ctx o).feMode s.now = 1 then s else s.toTick ((s.now / msNs + 1) * msNs)) ∧
      (plateaus ((s.ctx o).feMode s.now) (u.ctx o).duty.toNat (u.ctx o).pilots.reverse = (some high, low)) ∧ (u.ctxProfile o = some p) ∧
      ((u.ctx o).modeChanged u.now = false) ∧ (w = u.onCtx o fun c => { c with high := high, low := low.getD c.low }) ∧ (k = pilotClass
      ((u.ctx o).feMode u.now) high (w.ctx o).low) ∧ (v = toggleStep (islandPilot w o k) o k) ∧ (k ≠ (u.ctx o).pilot) ∧ ((u.ctx
      o).pilotCount = 0 ∨ k ≠ (u.ctx o).pilotCand) ∧ (p.prof.debounce ≤ 1)) ∧
    (∃ (s : State) (o : Fin 128) (high : BitVec 12) (low : Option (BitVec 12)) (p : LoadedProfile) (u : State) (w : State) (v : State)
      (k : BitVec 3), (seqOn s = true) ∧ (u = if (s.ctx o).feMode s.now = 1 then s else s.toTick ((s.now / msNs + 1) * msNs)) ∧
      (plateaus ((s.ctx o).feMode s.now) (u.ctx o).duty.toNat (u.ctx o).pilots.reverse = (some high, low)) ∧ (u.ctxProfile o = some p) ∧
      ((u.ctx o).modeChanged u.now = false) ∧ (w = u.onCtx o fun c => { c with high := high, low := low.getD c.low }) ∧ (k = pilotClass
      ((u.ctx o).feMode u.now) high (w.ctx o).low) ∧ (v = toggleStep (islandPilot w o k) o k) ∧ (k ≠ (u.ctx o).pilot) ∧ ((u.ctx
      o).pilotCount ≠ 0) ∧ (k = (u.ctx o).pilotCand) ∧ ((u.ctx o).pilotCount + 1 < p.prof.debounce)) ∧
    (∃ (s : State) (o : Fin 128) (high : BitVec 12) (low : Option (BitVec 12)) (p : LoadedProfile) (u : State) (w : State) (v : State)
      (k : BitVec 3), (seqOn s = true) ∧ (u = if (s.ctx o).feMode s.now = 1 then s else s.toTick ((s.now / msNs + 1) * msNs)) ∧
      (plateaus ((s.ctx o).feMode s.now) (u.ctx o).duty.toNat (u.ctx o).pilots.reverse = (some high, low)) ∧ (u.ctxProfile o = some p) ∧
      ((u.ctx o).modeChanged u.now = false) ∧ (w = u.onCtx o fun c => { c with high := high, low := low.getD c.low }) ∧ (k = pilotClass
      ((u.ctx o).feMode u.now) high (w.ctx o).low) ∧ (v = toggleStep (islandPilot w o k) o k) ∧ (k ≠ (u.ctx o).pilot) ∧ ((u.ctx
      o).pilotCount ≠ 0) ∧ (k = (u.ctx o).pilotCand) ∧ (p.prof.debounce ≤ (u.ctx o).pilotCount + 1)) ∧
    (∃ (s : State) (o : Fin 128) (high : BitVec 12) (low : Option (BitVec 12)) (p : LoadedProfile) (u : State), (seqOn s = true) ∧ (u =
      if (s.ctx o).feMode s.now = 1 then s else s.toTick ((s.now / msNs + 1) * msNs)) ∧ (plateaus ((s.ctx o).feMode s.now) (u.ctx
      o).duty.toNat (u.ctx o).pilots.reverse = (some high, low)) ∧ (u.ctxProfile o = some p) ∧ ((u.ctx o).modeChanged u.now = true)) ∧
    (∃ (s : State) (o : Fin 128) (u : State), (seqOn s = true) ∧ (u = if (s.ctx o).feMode s.now = 1 then s else s.toTick ((s.now / msNs
      + 1) * msNs)) ∧ ((plateaus ((s.ctx o).feMode s.now) (u.ctx o).duty.toNat (u.ctx o).pilots.reverse).1 = none)) ∧
    (∃ (high : BitVec 12), (3892 ≤ high.toNat)) ∧
    (∃ (high : BitVec 12), (3482 ≤ high.toNat) ∧ (high.toNat ≤ 3891)) ∧
    (∃ (high : BitVec 12), (3072 ≤ high.toNat) ∧ (high.toNat ≤ 3481)) ∧
    (∃ (high : BitVec 12), (2663 ≤ high.toNat) ∧ (high.toNat ≤ 3071)) ∧
    (∃ (high : BitVec 12), (2253 ≤ high.toNat) ∧ (high.toNat ≤ 2662)) ∧
    (∃ (high : BitVec 12), (1844 ≤ high.toNat) ∧ (high.toNat ≤ 2252)) ∧
    (∃ (high : BitVec 12), (high.toNat < 1844)) ∧
    (∃ (high : BitVec 12), (205 ≤ high.toNat) ∧ (high.toNat ≤ 614)) ∧
    (∃ (high : BitVec 12), (high.toNat < 205 ∨ 614 < high.toNat)) ∧
    (∃ (low : BitVec 12), (205 ≤ low.toNat) ∧ (low.toNat ≤ 614)) ∧
    (∃ (high : BitVec 12) (low : BitVec 12), (low.toNat < 205 ∨ 614 < low.toNat) ∧ (2253 ≤ high.toNat) ∧ (high.toNat ≤ 3481)) ∧
    (∃ (high : BitVec 12), (high.toNat < 2253 ∨ 3481 < high.toNat)) :=
  ⟨⟨((live : State)|>.onCtx 0 (fun x => { x with pilots := [some 3600] })), 0, 3600, none, prof0, _, _, _, 0, by decide +kernel, rfl,
    by decide +kernel, by decide +kernel, by decide +kernel, rfl, by decide +kernel, rfl, by decide +kernel⟩,
   ⟨(({ live with seq.profiles := [({ prof0 with prof.debounce := 2 })] } : State)|>.onCtx 0 (fun x =>
     { x with pilots := [some 3200] })), 0, 3200, none, { prof0 with prof.debounce := 2 }, _, _, _, 1, by decide +kernel, rfl,
     by decide +kernel, by decide +kernel, by decide +kernel, rfl, by decide +kernel, rfl, by decide +kernel⟩,
   ⟨((live : State)|>.onCtx 0 (fun x => { x with pilots := [some 3200] })), 0, 3200, none, prof0, _, _, _, 1, by decide +kernel, rfl,
     by decide +kernel, by decide +kernel, by decide +kernel, rfl, by decide +kernel, rfl, by decide +kernel⟩,
   ⟨(({ live with seq.profiles := [({ prof0 with prof.debounce := 3 })] } : State)|>.onCtx 0 (fun x =>
     { x with pilots := [some 3200], pilotCount := 1, pilotCand := 1 })), 0, 3200, none, { prof0 with prof.debounce := 3 }, _, _, _, 1,
     by decide +kernel, rfl, by decide +kernel, by decide +kernel, by decide +kernel, rfl, by decide +kernel, rfl, by decide +kernel⟩,
   ⟨((live : State)|>.onCtx 0 (fun x => { x with pilots := [some 3200], pilotCount := 1, pilotCand := 1 })), 0, 3200, none, prof0, _, _,
     _, 1, by decide +kernel, rfl, by decide +kernel, by decide +kernel, by decide +kernel, rfl, by decide +kernel, rfl,
     by decide +kernel⟩,
   ⟨((live : State)|>.onCtx 0 (fun x => { x with pilots := [some 3200], modeAt := 1000000 })), 0, 3200, none, prof0, _,
     by decide +kernel, rfl, by decide +kernel⟩,
   ⟨live, 0, _, by decide +kernel, rfl, by decide +kernel⟩,
   ⟨3892, by decide +kernel⟩,
   ⟨3482, by decide +kernel⟩,
   ⟨3072, by decide +kernel⟩,
   ⟨2663, by decide +kernel⟩,
   ⟨2253, by decide +kernel⟩,
   ⟨1844, by decide +kernel⟩,
   ⟨0, by decide +kernel⟩,
   ⟨205, by decide +kernel⟩,
   ⟨0, by decide +kernel⟩,
   ⟨205, by decide +kernel⟩,
   ⟨2253, 0, by decide +kernel⟩,
   ⟨0, by decide +kernel⟩⟩

theorem witness_SequencerInputs :
    (∃ (s : State) (o : Fin 128) (p : LoadedProfile), (seqOn s = true) ∧ (s.ctxProfile o = some p) ∧ (p.prof.proxMode = 1) ∧ ((s.ctx
      o).proxCand ≠ (s.ctx o).prox) ∧ ((s.lane o).statusSeen = true)) ∧
    (∃ (s : State) (u : State) (o : Fin 128) (k : Fin 4) (e : ℕ), (u = inOrder (MarkAct.timer o k) s) ∧ (seqOn u = true) ∧ (vget (u.ctx
      o).timers k = Timer.ms e)) ∧
    (∃ (s : State) (u : State) (o : Fin 128) (k : Fin 4) (m : ℕ), (u = inOrder (MarkAct.timer o k) s) ∧ (seqOn u = true) ∧ (vget (u.ctx
      o).timers k = Timer.angle m)) ∧
    (∃ (s : State) (u : State) (v : State) (o : Fin 128) (aux : Bool) (z : ZpMark), (u = inOrder (MarkAct.switch o aux) s) ∧ (((u.ctx
      o).cont aux).zp = some z) ∧ (mayStep u o = true) ∧ (v = if z.close = true then evalPermit (u.toMains z.mark) o else u.toMains
      z.mark) ∧ (z.close = false ∨ (v.saf1 o).permit = true)) ∧
    (∃ (s : State) (u : State) (v : State) (o : Fin 128) (aux : Bool) (z : ZpMark), (u = inOrder (MarkAct.switch o aux) s) ∧ (((u.ctx
      o).cont aux).zp = some z) ∧ (mayStep u o = true) ∧ (v = if z.close = true then evalPermit (u.toMains z.mark) o else u.toMains
      z.mark) ∧ (z.close = true) ∧ ((v.saf1 o).permit = false)) ∧
    (∃ (s : State) (a : MarkAct), (∀ m ∈ pendingMarks s, ∀ k ∈ pendingMarks s, k.2 = a → markBefore m k = false)) ∧
    (∃ (s : State) (o : Fin 128) (aux : Bool) (w : ContWatch) (a : ℕ) (p : LoadedProfile), (seqOn s = true) ∧ (((s.ctx o).cont
      aux).fbNew = true) ∧ (((s.ctx o).cont aux).watch = some w) ∧ (w.appliedAt = some a) ∧ (s.ctxProfile o = some p) ∧ (((s.ctx o).cont
      aux).fb = w.close) ∧ (((s.ctx o).cont aux).fbSince ≤ a + p.prof.contTimeout * msNs)) ∧
    (∃ (s : State) (o : Fin 128) (aux : Bool) (w : ContWatch) (a : ℕ) (p : LoadedProfile), (seqOn s = true) ∧ (((s.ctx o).cont
      aux).watch = some w) ∧ (w.appliedAt = some a) ∧ (s.ctxProfile o = some p) ∧ (((s.ctx o).cont aux).fb ≠ w.close)) ∧
    (∃ (s : State) (o : Fin 128) (aux : Bool) (t : ℕ), (seqOn s = true) ∧ (((s.ctx o).cont aux).watch = none) ∧ (((s.ctx o).cont
      aux).unexpSince = some t)) ∧
    (∃ (s : State) (o : Fin 128) (d : ℕ), (seqOn s = true) ∧ ((s.ctx o).lockDue = some d) ∧ ((s.ctx o).lockFb = (s.ctx o).lockCmd)) ∧
    (∃ (s : State) (o : Fin 128) (d : ℕ), (seqOn s = true) ∧ ((s.ctx o).lockDue = some d) ∧ ((s.ctx o).lockFb ≠ (s.ctx o).lockCmd)) ∧
    (∃ (s : State) (p : Fin 32) (v : ℕ) (x : LoadedProfile), (seqOn s = true) ∧ (x ∈ s.seq.profiles) ∧ (x.prof.id = p) ∧ (x.version = v)
      ∧ ((x.badA && x.badB) = false)) ∧
    (∃ (s : State) (o : Fin 128), (seqOn s = true) ∧ ((s.ctx o).waiting = true) ∧ ((s.lane o).link = LinkState.up) ∧ ((s.lane
      o).statusSeen = true) ∧ (((s.ctx o).bound && (s.ctx o).enabled) = false)) ∧
    (∃ (s : State) (o : Fin 128), (seqOn s = true) ∧ ((s.ctx o).waiting = true) ∧ ((s.lane o).link = LinkState.up) ∧ ((s.lane
      o).statusSeen = true) ∧ ((s.ctx o).bound = true) ∧ ((s.ctx o).enabled = true) ∧ ((s.lane o).status.contMain = false) ∧ ((s.lane
      o).status.mainFb = false) ∧ ((s.lane o).status.contAux = false) ∧ ((s.lane o).status.auxFb = false) ∧ ((s.lane o).status.slack ≠
      1)) ∧
    (∃ (s : State) (o : Fin 128), (seqOn s = true) ∧ ((s.ctx o).waiting = true) ∧ ((s.lane o).link = LinkState.up) ∧ ((s.lane
      o).statusSeen = true) ∧ ((s.ctx o).bound = true) ∧ ((s.ctx o).enabled = true) ∧ ((s.lane o).status.contMain = true ∨ (s.lane
      o).status.mainFb = true ∨ (s.lane o).status.contAux = true ∨ (s.lane o).status.auxFb = true ∨ (s.lane o).status.slack = 1)) :=
  ⟨⟨(({ live with seq.profiles := [profP] } : State) |>.onLane (0) (fun x => { x with statusSeen := true })|>.onCtx 0 (fun x =>
    { x with proxCand := 1 })), 0, profP, by decide +kernel⟩,
   ⟨((live : State)|>.onCtx 0 (fun x => { x with timers := Vector.replicate 4 (.ms 0) })), _, 0, 0, 0, rfl, by decide +kernel⟩,
   ⟨((live : State)|>.onCtx 0 (fun x => { x with timers := Vector.replicate 4 (.angle 0) })), _, 0, 0, 0, rfl, by decide +kernel⟩,
   ⟨((live : State)|>.onCtx 0 (fun x => { x with main := { zp := some (⟨0, false, 0⟩) } })), _, _, 0, false, ⟨0, false, 0⟩, rfl,
     by decide +kernel, by decide +kernel, rfl, by decide +kernel⟩,
   ⟨((live : State)|>.onCtx 0 (fun x => { x with main := { zp := some (⟨0, true, 0⟩) } })), _, _, 0, false, ⟨0, true, 0⟩, rfl,
     by decide +kernel, by decide +kernel, rfl, by decide +kernel⟩,
   ⟨live, .config, by decide +kernel⟩,
   ⟨((live : State)|>.onCtx 0 (fun x => { x with main := { fbNew := true, watch := some (⟨true, some 0, 0, 0⟩), fb := true } })), 0,
     false, ⟨true, some 0, 0, 0⟩, 0, prof0, by decide +kernel⟩,
   ⟨((live : State)|>.onCtx 0 (fun x => { x with main := { watch := some (⟨true, some 0, 0, 0⟩) } })), 0, false, ⟨true, some 0, 0, 0⟩,
     0, prof0, by decide +kernel⟩,
   ⟨((live : State)|>.onCtx 0 (fun x => { x with main := { unexpSince := some 0 } })), 0, false, 0, by decide +kernel⟩,
   ⟨((live : State) |>.onCtx (0) (fun x => { x with lockDue := some (0) })), 0, 0, by decide +kernel⟩,
   ⟨((live : State) |>.onCtx (0) (fun x => { x with lockDue := some (0) })|>.onCtx 0 (fun x => { x with lockFb := true })), 0, 0,
     by decide +kernel⟩,
   ⟨live, 0, 0, prof0, by decide +kernel⟩,
   ⟨((live : State) |>.onCtx (0) (fun x => { x with waiting := true }) |>.onLane (0) (fun x => { x with link := LinkState.up })
     |>.onLane (0) (fun x => { x with statusSeen := true })|>.onCtx 0 (fun x => { x with bound := false })), 0, by decide +kernel⟩,
   ⟨((live : State) |>.onCtx (0) (fun x => { x with waiting := true }) |>.onLane (0) (fun x => { x with link := LinkState.up })
     |>.onLane (0) (fun x => { x with statusSeen := true }) |>.onCtx (0) (fun x => { x with bound := true }) |>.onCtx (0) (fun x =>
     { x with enabled := true }) |>.onLane (0) (fun x => { x with status.contMain := false }) |>.onLane (0) (fun x =>
     { x with status.mainFb := false }) |>.onLane (0) (fun x => { x with status.contAux := false }) |>.onLane (0) (fun x =>
     { x with status.auxFb := false })), 0, by decide +kernel⟩,
   ⟨((live : State) |>.onCtx (0) (fun x => { x with waiting := true }) |>.onLane (0) (fun x => { x with link := LinkState.up })
     |>.onLane (0) (fun x => { x with statusSeen := true }) |>.onCtx (0) (fun x => { x with bound := true }) |>.onCtx (0) (fun x =>
     { x with enabled := true })|>.onLane 0 (fun x => { x with status := { x.status with contMain := true } })), 0, by decide +kernel⟩⟩

theorem witness_ResidualCurrent :
    (∃ (s : State) (v : State) (u : State) (o : Fin 128) (idc : ℤ) (iac : ℕ) (r : SafetyRec) (stp : Fin 6 → StageRun × Bool), (islandOn
      s = true) ∧ (s.hasIres o = true) ∧ (v = s.toTick ((s.saf1 o).rcAt + msNs)) ∧ (idc = meanOf (islandRole v o 8)) ∧ (iac = rmsRaw
      (List.map (fun x => x - idc) (islandRole v o 8))) ∧ (u = v.onSaf o fun y => { y with rcAt := v.now }) ∧ (u.safRec o = some r) ∧
      (stp = fun k => (vget (u.saf1 o).stages k).next (decide (0 < vget r.thr k) && decide (vget r.thr k * 100 ≤ stageEstimate (u.isDc
      o) r idc iac ↑k)) (vget r.delay k) ((u.saf1 o).rdc != RdcStep.idle)) ∧ (∀ (k : Fin 6), (stp k).2 = false)) ∧
    (∃ (s : State) (v : State) (u : State) (o : Fin 128) (idc : ℤ) (iac : ℕ) (r : SafetyRec) (stp : Fin 6 → StageRun × Bool), (islandOn
      s = true) ∧ (s.hasIres o = true) ∧ (v = s.toTick ((s.saf1 o).rcAt + msNs)) ∧ (idc = meanOf (islandRole v o 8)) ∧ (iac = rmsRaw
      (List.map (fun x => x - idc) (islandRole v o 8))) ∧ (u = v.onSaf o fun y => { y with rcAt := v.now }) ∧ (u.safRec o = some r) ∧
      (stp = fun k => (vget (u.saf1 o).stages k).next (decide (0 < vget r.thr k) && decide (vget r.thr k * 100 ≤ stageEstimate (u.isDc
      o) r idc iac ↑k)) (vget r.delay k) ((u.saf1 o).rdc != RdcStep.idle)) ∧ (∃ k, (stp k).2 = true)) ∧
    (∃ (s : State) (o : Fin 128) (d : ℕ), (islandOn s = true) ∧ ((s.ctx o).bothOpen = true) ∧ ((s.saf1 o).rdc = RdcStep.wait1 d) ∧
      (rdcMet (s.saf1 o) = true) ∧ (s.now ≤ d)) ∧
    (∃ (s : State) (o : Fin 128) (d : ℕ), (islandOn s = true) ∧ ((s.ctx o).bothOpen = true) ∧ ((s.saf1 o).rdc = RdcStep.wait1 d) ∧
      (rdcMet (s.saf1 o) = false)) ∧
    (∃ (s : State) (o : Fin 128) (d : ℕ), (islandOn s = true) ∧ ((s.ctx o).bothOpen = true) ∧ ((s.saf1 o).rdc = RdcStep.wait2 d) ∧
      (rdcMet (s.saf1 o) = true) ∧ (s.now ≤ d)) ∧
    (∃ (s : State) (o : Fin 128) (d : ℕ), (islandOn s = true) ∧ ((s.ctx o).bothOpen = true) ∧ ((s.saf1 o).rdc = RdcStep.wait2 d) ∧
      (rdcMet (s.saf1 o) = false)) ∧
    (∃ (s : State) (o : Fin 128), (islandOn s = true) ∧ ((s.saf1 o).rdcOk = true)) ∧
    (∃ (s : State) (c : Cmd) (o : Fin 128), (Ready s c 513) ∧ (s.ofHandle c.handle.toNat = some o) ∧ (s.ctxClass o ≤ 1) ∧ (rdcFree s o =
      true)) ∧
    (∃ (s : State) (c : Cmd) (o : Fin 128), (Ready s c 513) ∧ (s.ofHandle c.handle.toNat = some o) ∧ (1 < s.ctxClass o ∨ rdcFree s o =
      false)) ∧
    (∃ (s : State) (c : Cmd) (o : Fin 128), (Ready s c 512) ∧ (s.ofHandle c.handle.toNat = some o) ∧ (fld (c.p 0) 0 2 = 0) ∧ (s.since
      (s.saf1 o).quietSince secNs = true) ∧ (rdcFree s o = true)) ∧
    (∃ (s : State) (c : Cmd) (o : Fin 128), (Ready s c 512) ∧ (s.ofHandle c.handle.toNat = some o) ∧ (fld (c.p 0) 0 2 = 0) ∧ (s.since
      (s.saf1 o).quietSince secNs = false)) ∧
    (∃ (s : State) (c : Cmd) (o : Fin 128) (r : SafetyRec), (Ready s c 512) ∧ (s.ofHandle c.handle.toNat = some o) ∧ (fld (c.p 0) 0 2 =
      1) ∧ (s.safRec o = some r) ∧ ((s.saf1 o).imdClear = none)) ∧
    (∃ (s : State) (c : Cmd) (o : Fin 128) (r : SafetyRec), (Ready s c 512) ∧ (s.ofHandle c.handle.toNat = some o) ∧ (fld (c.p 0) 0 2 =
      2) ∧ (s.safRec o = some r) ∧ ((s.ctx o).checkWeld = false)) ∧
    (∃ (s : State) (c : Cmd) (o : Fin 128), (Ready s c 512) ∧ (s.ofHandle c.handle.toNat = some o) ∧ (fld (c.p 0) 0 2 = 3)) :=
  ⟨⟨{ live with seq.profiles := [{ prof0 with prof.roles := Vector.replicate 8 8 }] }, _, _, 0, _, _, prof0.saf, _, by decide +kernel,
    by decide +kernel, rfl, rfl, rfl, rfl, by decide +kernel, rfl, by decide +kernel⟩,
   ⟨(({ live with seq.profiles := [prof8] } : State)|>.onMet 0 (fun x =>
     { x with chain := { x.chain with isl := [Vector.replicate 8 100000] } })), _, _, 0, _, _, prof8.saf, _, by decide +kernel,
     by decide +kernel, rfl, rfl, rfl, rfl, by decide +kernel, rfl, by decide +kernel⟩,
   ⟨((live : State) |>.onSaf (0) (fun x => { x with rdc := RdcStep.wait1 (0) })|>.onSaf 0 (fun x =>
     { x with idc := 7000, stages := Vector.replicate 6 ⟨true, 0⟩ })), 0, 0, by decide +kernel⟩,
   ⟨((live : State) |>.onSaf (0) (fun x => { x with rdc := RdcStep.wait1 (0) })), 0, 0, by decide +kernel⟩,
   ⟨((live : State) |>.onSaf (0) (fun x => { x with rdc := RdcStep.wait2 (0) })), 0, 0, by decide +kernel⟩,
   ⟨((live : State) |>.onSaf (0) (fun x => { x with rdc := RdcStep.wait2 (0) })|>.onSaf 0 (fun x => { x with idc := 3000 })), 0, 0,
     by decide +kernel⟩,
   ⟨((live : State) |>.onSaf (0) (fun x => { x with rdcOk := true })), 0, by decide +kernel⟩,
   ⟨fly (wc 513 []) (live), (wc 513 []), 0, ready_of (by decide +kernel), by decide +kernel⟩,
   ⟨fly (wc 513 []) (((live : State)|>.onSaf 0 (fun x => { x with rdc := .wait1 0 }))), (wc 513 []), 0, ready_of (by decide +kernel),
     by decide +kernel⟩,
   ⟨fly (wc 512 []) ({ live with tim.tick := 10 ^ 9 }), (wc 512 []), 0, ready_of (by decide +kernel), by decide +kernel⟩,
   ⟨fly (wc 512 []) (live), (wc 512 []), 0, ready_of (by decide +kernel), by decide +kernel⟩,
   ⟨fly (wc 512 [1]) (((live : State) |>.onSaf (0) (fun x => { x with imdClear := none }))), (wc 512 [1]), 0, prof0.saf, ready_of
     (by decide +kernel), by decide +kernel⟩,
   ⟨fly (wc 512 [2]) (((live : State) |>.onCtx (0) (fun x => { x with checkWeld := false }))), (wc 512 [2]), 0, prof0.saf, ready_of
     (by decide +kernel), by decide +kernel⟩,
   ⟨fly (wc 512 [3]) (live), (wc 512 [3]), 0, ready_of (by decide +kernel), by decide +kernel⟩⟩

theorem witness_InsulationAndWelds :
    (∃ (s : State) (o : Fin 128) (vc : ℤ) (r : SafetyRec), (islandOn s = true) ∧ (s.safRec o = some r) ∧ (vc = vcNow (s.toTick ((s.saf1
      o).imdHalfAt + r.imdHalf * msNs)) o) ∧ ((s.saf1 o).imdSrc = 1)) ∧
    (∃ (s : State) (o : Fin 128) (vc : ℤ) (r : SafetyRec) (v : ℤ), (islandOn s = true) ∧ (s.safRec o = some r) ∧ (vc = vcNow (s.toTick
      ((s.saf1 o).imdHalfAt + r.imdHalf * msNs)) o) ∧ ((s.saf1 o).imdSrc = 2) ∧ ((s.saf1 o).vcPlus = some v)) ∧
    (∃ (r : SafetyRec) (a : ℤ) (b : ℤ), (1990 * ↑r.vm ≤ a - b)) ∧
    (∃ (r : SafetyRec) (a : ℤ) (b : ℤ), (0 < r.rm) ∧ (0 < r.rc) ∧ (0 < a - b) ∧ (a - b < 1990 * ↑r.vm) ∧ (1000 * ↑r.rc * (a - b) < 375 *
      ↑r.rm * (2000 * ↑r.vm - (a - b)))) ∧
    (∃ (s : State) (o : Fin 128) (r : SafetyRec) (k : BitVec 2), (islandOn s = true) ∧ (s.safRec o = some r) ∧ ((s.saf1 o).lastClass =
      some k) ∧ (r.imdEn = true)) ∧
    (∃ (s : State) (o : Fin 128) (r : SafetyRec), (islandOn s = true) ∧ (s.safRec o = some r) ∧ ((s.ctx o).checkWeld = true) ∧ ((s.ctx
      o).main.fb = false) ∧ (s.isDc o = true) ∧ ((s.saf1 o).vdc ≤ r.weldVDc * 1000)) ∧
    (∃ (s : State) (o : Fin 128) (r : SafetyRec), (islandOn s = true) ∧ (s.safRec o = some r) ∧ ((s.ctx o).checkWeld = true) ∧ ((s.ctx
      o).main.fb = false) ∧ (s.isDc o = true) ∧ (r.weldVDc * 1000 < (s.saf1 o).vdc)) ∧
    (∃ (s : State) (o : Fin 128) (r : SafetyRec), (islandOn s = true) ∧ (s.safRec o = some r) ∧ ((s.ctx o).checkWeld = true) ∧ ((s.ctx
      o).main.fb = false) ∧ (s.isDc o = false)) ∧
    (∃ (s : State) (o : Fin 128) (d : ℕ), (islandOn s = true) ∧ ((s.saf1 o).pilotGraceUntil = some d)) ∧
    (∃ (s : State) (c : Cmd) (o : Fin 128), (Ready s c 518) ∧ (s.ofHandle c.handle.toNat = some o)) :=
  ⟨⟨((live : State) |>.onSaf (0) (fun x => { x with imdSrc := 1 })), 0, _, prof0.saf, by decide +kernel, by decide +kernel, rfl,
    by decide +kernel⟩,
   ⟨((live : State) |>.onSaf (0) (fun x => { x with imdSrc := 2 }) |>.onSaf (0) (fun x => { x with vcPlus := some (0) })), 0, _,
     prof0.saf, 0, by decide +kernel, by decide +kernel, rfl, by decide +kernel⟩,
   ⟨prof0.saf, 1990 * 20, 0, by decide +kernel⟩,
   ⟨prof0.saf, 1, 0, by decide +kernel⟩,
   ⟨(({ live with seq.profiles := [{ prof0 with saf.imdEn := true }] } : State) |>.onSaf (0) (fun x =>
     { x with lastClass := some (0) })), 0, { prof0.saf with imdEn := true }, 0, by decide +kernel⟩,
   ⟨(({ live with seq.profiles := [{ prof0 with prof.dc := true }] } : State) |>.onCtx (0) (fun x => { x with checkWeld := true })
     |>.onCtx (0) (fun x => { x with main.fb := false })), 0, prof0.saf, by decide +kernel⟩,
   ⟨(({ live with seq.profiles := [{ prof0 with prof.dc := true }] } : State) |>.onCtx (0) (fun x => { x with checkWeld := true })
     |>.onCtx (0) (fun x => { x with main.fb := false })|>.onSaf 0 (fun x => { x with vdc := 1000000 })), 0, prof0.saf,
     by decide +kernel⟩,
   ⟨((live : State) |>.onCtx (0) (fun x => { x with checkWeld := true }) |>.onCtx (0) (fun x => { x with main.fb := false })), 0,
     prof0.saf, by decide +kernel⟩,
   ⟨((live : State) |>.onSaf (0) (fun x => { x with pilotGraceUntil := some (0) })), 0, 0, by decide +kernel⟩,
   ⟨fly (wc 518 []) (live), (wc 518 []), 0, ready_of (by decide +kernel), by decide +kernel⟩⟩

theorem witness_SafetyStops :
    (∃ (s : State) (k : Fin 32) (b : Bool), (islandOn s = true) ∧ ((vget s.saf.pairs k).closed = true) ∧ ((vget s.saf.inputs k).func =
      1) ∧ (((vget s.saf.pairs k).change b false s.now).closed = false)) ∧
    (∃ (p : InPair), (p.fault = false)) ∧
    (∃ (s : State) (k : Fin 32) (d : ℕ), (islandOn s = true) ∧ ((vget s.saf.pairs k).differSince = some d) ∧ ((vget s.saf.pairs k).fault
      = false) ∧ ((vget s.saf.inputs k).func = 1 ∨ (vget s.saf.inputs k).func = 2)) ∧
    (∃ (s : State) (k : Fin 32), (islandOn s = true) ∧ ((vget s.saf.inputs k).dry = true) ∧ ((vget s.saf.inputs k).func ≠ 0)) ∧
    (∃ (s : State) (c : Cmd), (Ready s c 514) ∧ ((vget s.saf.pairs (fin 32 (fld (c.p 0) 0 5))).closed = true)) ∧
    (∃ (s : State) (c : Cmd), (Ready s c 514) ∧ ((vget s.saf.pairs (fin 32 (fld (c.p 0) 0 5))).closed = false)) ∧
    (∃ (s : State), (islandOn s = true)) ∧
    (∃ (t : ℕ), (t ≤ 20)) ∧
    (∃ (t : ℕ), (20 < t)) ∧
    (∃ (s : State) (k : Fin 16) (stuck : Bool), (islandOn s = true) ∧ ((vget s.saf.axes k).outFault = false) ∧ (stuck = true ∨ (vget
      s.saf.axes k).on = true) ∧ ((vget s.saf.axes k).state = AxisState.sto)) ∧
    (∃ (s : State) (c : Cmd), (Ready s c 515)) ∧
    (∃ (s : State) (k : Fin 16), ((vget s.saf.axes k).state ≠ AxisState.released)) ∧
    (∃ (s : State) (c : Cmd) (k : Fin 16), (Ready s c 516) ∧ (k = fin 16 (fld (c.p 0) 0 4)) ∧ ((vget s.saf.axes k).state =
      AxisState.sto) ∧ ((vget s.saf.axes k).outFault = false) ∧ (axisHeld s k = false) ∧ (s.saf.guardOk = true)) ∧
    (∃ (s : State) (c : Cmd) (k : Fin 16), (Ready s c 516) ∧ (k = fin 16 (fld (c.p 0) 0 4)) ∧ ((vget s.saf.axes k).state ≠ AxisState.sto
      ∨ (vget s.saf.axes k).outFault = true ∨ axisHeld s k = true ∨ s.saf.guardOk = false)) ∧
    (∃ (s : State) (c : Cmd) (k : Fin 16), (Ready s c 517) ∧ (k = fin 16 (fld (c.p 0) 0 4)) ∧ ((vget s.saf.axes k).outFault = false)) ∧
    (∃ (s : State) (c : Cmd) (k : Fin 16), (Ready s c 517) ∧ (k = fin 16 (fld (c.p 0) 0 4)) ∧ ((vget s.saf.axes k).outFault = true)) ∧
    (∃ (s : State), (islandOn s = true) ∧ (s.saf.restarting = none) ∧ (s.saf.legalRestarting = none)) ∧
    (∃ (s : State) (t : ℕ), (s.saf.restarting = some t) ∧ (s.now ≤ t + 50 * usNs)) ∧
    (∃ (s : State) (t : ℕ), (s.saf.legalRestarting = some t) ∧ (s.now ≤ t + 50 * usNs)) :=
  ⟨⟨((live : State) |>.upd1 (fun s => { s with saf.inputs := vmod s.saf.inputs (0) (fun x => { x with func := 1 }) })|>.onPair 0 (fun x
    => { x with a := true, b := true })), 0, false, by decide +kernel⟩,
   ⟨{}, by decide +kernel⟩,
   ⟨((live : State) |>.upd1 (fun s => { s with saf.pairs := vmod s.saf.pairs (0) (fun x => { x with differSince := some (0) }) })
     |>.upd1 (fun s => { s with saf.pairs := vmod s.saf.pairs (0) (fun x => { x with fault := false }) })|>.upd1 (fun s =>
     { s with saf.inputs := vmod s.saf.inputs 0 fun x => { x with func := 1 } })), 0, 0, by decide +kernel⟩,
   ⟨((live : State) |>.upd1 (fun s => { s with saf.inputs := vmod s.saf.inputs (0) (fun x => { x with dry := true }) })|>.upd1 (fun s =>
     { s with saf.inputs := vmod s.saf.inputs 0 fun x => { x with func := 1 } })), 0, by decide +kernel⟩,
   ⟨fly (wc 514 []) (((live : State)|>.onPair 0 (fun x => { x with a := true, b := true }))), (wc 514 []), ready_of (by decide +kernel),
     by decide +kernel⟩,
   ⟨fly (wc 514 []) (live), (wc 514 []), ready_of (by decide +kernel), by decide +kernel⟩,
   ⟨live, by decide +kernel⟩,
   ⟨0, by decide +kernel⟩,
   ⟨21, by decide +kernel⟩,
   ⟨((live : State) |>.upd1 (fun s => { s with saf.axes := vmod s.saf.axes (0) (fun x => { x with outFault := false }) }) |>.upd1 (fun s
     => { s with saf.axes := vmod s.saf.axes (0) (fun x => { x with state := AxisState.sto }) })), 0, true, by decide +kernel⟩,
   ⟨fly (wc 515 []) (live), (wc 515 []), ready_of (by decide +kernel)⟩,
   ⟨live, 0, by decide +kernel⟩,
   ⟨fly (wc 516 []) ((({ live with saf.guardOk := true } : State) |>.upd1 (fun s =>
     { s with saf.axes := vmod s.saf.axes (0) (fun x => { x with state := AxisState.sto }) }) |>.upd1 (fun s =>
     { s with saf.axes := vmod s.saf.axes (0) (fun x => { x with outFault := false }) }))), (wc 516 []), 0, ready_of
     (by decide +kernel), by decide +kernel⟩,
   ⟨fly (wc 516 []) (live), (wc 516 []), 0, ready_of (by decide +kernel), by decide +kernel⟩,
   ⟨fly (wc 517 []) (((live : State) |>.upd1 (fun s =>
     { s with saf.axes := vmod s.saf.axes (0) (fun x => { x with outFault := false }) }))), (wc 517 []), 0, ready_of
     (by decide +kernel), by decide +kernel⟩,
   ⟨fly (wc 517 []) (((live : State) |>.upd1 (fun s =>
     { s with saf.axes := vmod s.saf.axes (0) (fun x => { x with outFault := true }) }))), (wc 517 []), 0, ready_of (by decide +kernel),
     by decide +kernel⟩,
   ⟨{ live with saf.restarting := none, saf.legalRestarting := none }, by decide +kernel⟩,
   ⟨{ live with saf.restarting := some (0) }, 0, by decide +kernel⟩,
   ⟨{ live with saf.legalRestarting := some (0) }, 0, by decide +kernel⟩⟩

theorem witness_ShareCommands :
    (∃ (s : State) (c : Cmd), (Ready s c 768) ∧ (s.shr.en = true)) ∧
    (∃ (s : State) (c : Cmd) (o : Fin 128) (p : LoadedProfile), (Ready s c 769) ∧ (s.ofHandle c.handle.toNat = some o) ∧ (s.ctxProfile o
      = some p) ∧ (s.ctxClass o ≠ 0) ∧ (s.ctxClass o ≠ 4)) ∧
    (∃ (s : State) (c : Cmd) (o : Fin 128) (p : LoadedProfile), (Ready s c 769) ∧ (s.ofHandle c.handle.toNat = some o) ∧ (s.ctxProfile o
      = some p) ∧ (s.ctxClass o = 0 ∨ s.ctxClass o = 4)) ∧
    (∃ (s : State) (c : Cmd) (o : Fin 128), (Ready s c 770) ∧ (s.ofHandle c.handle.toNat = some o) ∧ (fld (c.p 0) 4 4 ≠ 0)) ∧
    (∃ (s : State) (c : Cmd) (o : Fin 128), (Ready s c 770) ∧ (s.ofHandle c.handle.toNat = some o) ∧ (fld (c.p 0) 4 4 = 0)) ∧
    (∃ (s : State) (c : Cmd) (o : Fin 128), (Ready s c 771) ∧ (s.ofHandle c.handle.toNat = some o)) ∧
    (∃ (s : State) (c : SiteCmd) (d : ℕ), (s.clocksRun = true) ∧ (s.shr.cmd = some c) ∧ (c.expiry = some d)) ∧
    (∃ (s : State) (g : Limits × ℕ), (s.clocksRun = true) ∧ (s.shr.kiteGrant = some g) ∧ (s.tie.role ≠ PairRole.standby)) :=
  ⟨⟨fly (wc 768 []) ({ live with shr.en := true }), (wc 768 []), ready_of (by decide +kernel), by decide +kernel⟩,
   ⟨fly (wc 769 []) ({ live with seq.profiles := [prof2] }), (wc 769 []), 0, prof2, ready_of (by decide +kernel), by decide +kernel⟩,
   ⟨fly (wc 769 []) (live), (wc 769 []), 0, prof0, ready_of (by decide +kernel), by decide +kernel⟩,
   ⟨fly (wc 770 [0x10]) (live), (wc 770 [0x10]), 0, ready_of (by decide +kernel), by decide +kernel⟩,
   ⟨fly (wc 770 []) (live), (wc 770 []), 0, ready_of (by decide +kernel), by decide +kernel⟩,
   ⟨fly (wc 771 []) (live), (wc 771 []), 0, ready_of (by decide +kernel), by decide +kernel⟩,
   ⟨{ live with shr.cmd := some (⟨⟨Vector.replicate 3 0, 0⟩, some 0⟩) }, ⟨⟨Vector.replicate 3 0, 0⟩, some 0⟩, 0, by decide +kernel⟩,
   ⟨{ live with shr.kiteGrant := some ((⟨Vector.replicate 3 0, 0⟩, 0)) }, (⟨Vector.replicate 3 0, 0⟩, 0), by decide +kernel⟩⟩

theorem witness_ShareCycle :
    (∃ (s : State) (q : State) (u : State) (w : State) (v : ℕ) (b : Bool), (q = inOrder MarkAct.snapshot s) ∧ (q.clocksRun = true) ∧
      (q.shr.en = true) ∧ (shareMark q 0 = some v) ∧ (u = (q.toMains v).dropMark MarkOwner.share 0) ∧ (u.setMark MarkOwner.share (v +
      16384) 1 = (w, b)) ∧ (shareRuns u = true) ∧ (b = true)) ∧
    (∃ (s : State) (q : State) (u : State) (w : State) (v : ℕ) (b : Bool), (q = inOrder MarkAct.snapshot s) ∧ (q.clocksRun = true) ∧
      (q.shr.en = true) ∧ (shareMark q 0 = some v) ∧ (u = (q.toMains v).dropMark MarkOwner.share 0) ∧ (u.setMark MarkOwner.share (v +
      16384) 1 = (w, b)) ∧ (shareRuns u = true) ∧ (b = false)) ∧
    (∃ (s : State) (q : State) (u : State) (w : State) (v : ℕ) (b : Bool), (q = inOrder MarkAct.snapshot s) ∧ (q.clocksRun = true) ∧
      (q.shr.en = true) ∧ (shareMark q 0 = some v) ∧ (u = (q.toMains v).dropMark MarkOwner.share 0) ∧ (u.setMark MarkOwner.share (v +
      16384) 1 = (w, b)) ∧ (shareRuns u = false)) ∧
    (∃ (s : State) (q : State) (u : State) (v : ℕ), (q = inOrder MarkAct.apply s) ∧ (q.clocksRun = true) ∧ (shareMark q 1 = some v) ∧ (u
      = (q.toMains v).dropMark MarkOwner.share 1) ∧ (shareRuns u = true) ∧ (u.shr.snapPending = true) ∧ (u.shr.allocDone = true)) ∧
    (∃ (s : State) (q : State) (u : State) (v : ℕ), (q = inOrder MarkAct.apply s) ∧ (q.clocksRun = true) ∧ (shareMark q 1 = some v) ∧ (u
      = (q.toMains v).dropMark MarkOwner.share 1) ∧ (shareRuns u = true) ∧ (u.shr.snapPending = true) ∧ (u.shr.allocDone = false)) ∧
    (∃ (s : State) (q : State) (u : State) (v : ℕ), (q = inOrder MarkAct.apply s) ∧ (q.clocksRun = true) ∧ (shareMark q 1 = some v) ∧ (u
      = (q.toMains v).dropMark MarkOwner.share 1) ∧ (shareRuns u = false ∨ u.shr.snapPending = false)) ∧
    (∃ (s : State), ((inOrder MarkAct.snapshot s).shr.en = false)) ∧
    (∃ (s : State) (u : State) (w : State) (r : State) (miss : List (Fin 4)), (shareRuns s = true) ∧ (s.shr.snapPending = true) ∧
      (s.shr.allocDone = false) ∧ (u = s.toTick (s.shr.snapAt + 200 * usNs)) ∧ (miss = List.filter (fun k => (vget u.shr.peerIn
      k).isNone) (sharePeers u)) ∧ (w = List.foldl (fun (s : State) (k : Fin 3) => if (vget s.tie.ports ⟨k.val, (by omega)⟩).up = true
      then s.send (Out.tie ⟨↑k, (by omega)⟩ (TieMsg.shareAlone s.slotNo s.cycle)) else s) u (List.finRange 3)) ∧ (r = noteGrants
      { w with shr := have __src := w.shr; { __src with peerMode := true, peerFallback := true } } (allocate w.shr.frozen (clusterLimits
      u (vget u.cfg.peerShare (fin 4 u.slotNo))) w.shr.ramp)) ∧ (miss = [])) ∧
    (∃ (s : State) (u : State) (w : State) (r : State) (miss : List (Fin 4)), (shareRuns s = true) ∧ (s.shr.snapPending = true) ∧
      (s.shr.allocDone = false) ∧ (u = s.toTick (s.shr.snapAt + 200 * usNs)) ∧ (miss = List.filter (fun k => (vget u.shr.peerIn
      k).isNone) (sharePeers u)) ∧ (w = List.foldl (fun (s : State) (k : Fin 3) => if (vget s.tie.ports ⟨k.val, (by omega)⟩).up = true
      then s.send (Out.tie ⟨↑k, (by omega)⟩ (TieMsg.shareAlone s.slotNo s.cycle)) else s) u (List.finRange 3)) ∧ (r = noteGrants
      { w with shr := have __src := w.shr; { __src with peerMode := true, peerFallback := true } } (allocate w.shr.frozen (clusterLimits
      u (vget u.cfg.peerShare (fin 4 u.slotNo))) w.shr.ramp)) ∧ (miss ≠ []) ∧ (u.shr.peerMode = true)) ∧
    (∃ (s : State) (u : State) (w : State) (r : State) (miss : List (Fin 4)), (shareRuns s = true) ∧ (s.shr.snapPending = true) ∧
      (s.shr.allocDone = false) ∧ (u = s.toTick (s.shr.snapAt + 200 * usNs)) ∧ (miss = List.filter (fun k => (vget u.shr.peerIn
      k).isNone) (sharePeers u)) ∧ (w = List.foldl (fun (s : State) (k : Fin 3) => if (vget s.tie.ports ⟨k.val, (by omega)⟩).up = true
      then s.send (Out.tie ⟨↑k, (by omega)⟩ (TieMsg.shareAlone s.slotNo s.cycle)) else s) u (List.finRange 3)) ∧ (r = noteGrants
      { w with shr := have __src := w.shr; { __src with peerMode := true, peerFallback := true } } (allocate w.shr.frozen (clusterLimits
      u (vget u.cfg.peerShare (fin 4 u.slotNo))) w.shr.ramp)) ∧ (miss ≠ []) ∧ (u.shr.peerMode = false)) ∧
    (∃ (lim : List ℚ) (l : List Claim) (j : ℕ), (j < 4) ∧ (0 ≤ lim.getD j 0) ∧ (∀ c ∈ l, c.x = 0)) ∧
    (∃ (lim : List ℚ) (l : List Claim) (load : List ℚ) (c : Claim), (c ∈ giveMinimums lim l load) ∧ (∀ d ∈ l, d.x = 0)) :=
  ⟨⟨{ live with shr.en := true, tim.marks := [⟨.share, 0, false, 0, false⟩] }, _, _, _, 0, true, rfl, by decide +kernel,
    by decide +kernel, by decide +kernel, rfl, pair_snd (by decide +kernel), by decide +kernel⟩,
   ⟨{ live with shr.en := true, tim.marks := ⟨.share, 0, false, 0, false⟩ :: List.replicate 1536 mk0 }, _, _, _, 0, false, rfl,
     by decide +kernel, by decide +kernel, by decide +kernel, rfl, pair_snd (by decide +kernel), by decide +kernel⟩,
   ⟨{ live with shr.en := true, tie.role := .standby, tim.marks := [⟨.share, 0, false, 0, false⟩] }, _, _, _, 0, true, rfl,
     by decide +kernel, by decide +kernel, by decide +kernel, rfl, pair_snd (by decide +kernel), by decide +kernel⟩,
   ⟨{ live with shr.en := true, shr.snapPending := true, shr.allocDone := true, tim.marks := [⟨.share, 0, false, 1, false⟩] }, _, _, 0,
     rfl, by decide +kernel, by decide +kernel, rfl, by decide +kernel⟩,
   ⟨{ live with shr.en := true, shr.snapPending := true, tim.marks := [⟨.share, 0, false, 1, false⟩] }, _, _, 0, rfl, by decide +kernel,
     by decide +kernel, rfl, by decide +kernel⟩,
   ⟨{ live with tim.marks := [⟨.share, 0, false, 1, false⟩] }, _, _, 0, rfl, by decide +kernel, by decide +kernel, rfl,
     by decide +kernel⟩,
   ⟨live, by decide +kernel⟩,
   ⟨{ live with shr.snapPending := true, shr.allocDone := false, shr.en := true }, _, _, _, _, by decide +kernel, by decide +kernel,
     by decide +kernel, rfl, rfl, rfl, rfl, by decide +kernel⟩,
   ⟨{ live with shr.snapPending := true, shr.allocDone := false, shr.en := true, shr.peerMode := true, tie.clusterN := 2 }, _, _, _, _,
     by decide +kernel, by decide +kernel, by decide +kernel, rfl, rfl, rfl, rfl, by decide +kernel⟩,
   ⟨{ live with shr.snapPending := true, shr.allocDone := false, shr.en := true, tie.clusterN := 2 }, _, _, _, _, by decide +kernel,
     by decide +kernel, by decide +kernel, rfl, rfl, rfl, rfl, by decide +kernel⟩,
   ⟨[], [], 0, by decide +kernel⟩,
   ⟨[0, 0, 0, 0], [claim0], [0, 0, 0, 0], claim0, by simp [giveMinimums, claim0, in0], by simp [claim0]⟩⟩

theorem witness_AssociationRuns :
    (∃ (s : State) (src : BitVec 48) (id : BitVec 64) (heard : List (Fin 128)), (s.run src id = none) ∧ (s.plc.runs.length < 64) ∧
      (List.filter (isCandidate s) (List.filter (slacUp s) heard) = [])) ∧
    (∃ (s : State) (src : BitVec 48) (id : BitVec 64) (heard : List (Fin 128)), (s.run src id = none) ∧ (s.plc.runs.length < 64) ∧
      (List.filter (isCandidate s) (List.filter (slacUp s) heard) ≠ [])) ∧
    (∃ (s : State) (src : BitVec 48) (id : BitVec 64), (s.run src id = none) ∧ (64 ≤ s.plc.runs.length)) ∧
    (∃ (s : State) (src : BitVec 48) (id : BitVec 64) (r : Run) (u : State), (s.run src id = some r) ∧ (s.glb.phase = Phase.running) ∧
      (r.phase = RunPhase.sounding) ∧ (s.plc.crossDev = false) ∧ (u = s.toTick (r.winAt + s.cfg.soundWin * msNs))) ∧
    (∃ (s : State) (src : BitVec 48) (id : BitVec 64) (r : Run) (u : State), (s.run src id = some r) ∧ (s.glb.phase = Phase.running) ∧
      (r.phase = RunPhase.waiting) ∧ (peersIn s r = false) ∧ (u = (s.toTick (r.closedAt + 5 * msNs)).onRun src id fun r =>
      { r with peersMissing := true })) ∧
    (∃ (s : State) (r : Run), (∀ x ∈ runScores s r, r.allCands.contains x.1 = false ∨ heldByOther s r x.1 = true)) ∧
    (∃ (s : State) (o : Fin 128) (src : BitVec 48) (id : BitVec 64) (r : Run), (s.run src id = some r) ∧ (slacUp s o = true) ∧
      (s.key.rngOk = true) ∧ (r.held.contains (s.handle o) = true) ∧ (s.since r.sentAt (s.cfg.matchT * 10 * msNs + 1) = false) ∧
      (r.phase = RunPhase.answering)) ∧
    (∃ (s : State) (o : Fin 128) (src : BitVec 48) (id : BitVec 64) (r : Run), (s.run src id = some r) ∧ (slacUp s o = true) ∧
      (s.key.rngOk = true) ∧ (r.held.contains (s.handle o) = true) ∧ (s.since r.sentAt (s.cfg.matchT * 10 * msNs + 1) = false) ∧
      (r.phase = RunPhase.validating) ∧ (r.winner = some (s.handle o))) ∧
    (∃ (s : State) (o : Fin 128) (src : BitVec 48) (id : BitVec 64) (r : Run), (s.run src id = some r) ∧ (slacUp s o = true) ∧
      (s.key.rngOk = true) ∧ (r.held.contains (s.handle o) = true) ∧ (s.since r.sentAt (s.cfg.matchT * 10 * msNs + 1) = false) ∧
      (r.phase = RunPhase.validating) ∧ (r.winner ≠ some (s.handle o))) ∧
    (∃ (s : State) (o : Fin 128) (src : BitVec 48) (id : BitVec 64) (r : Run), (s.run src id = some r) ∧ (r.held.contains (s.handle o) =
      false ∨ s.since r.sentAt (s.cfg.matchT * 10 * msNs + 1) = true)) ∧
    (∃ (s : State) (src : BitVec 48) (id : BitVec 64) (r : Run) (h : ℕ) (o : Fin 128) (u : State), (s.run src id = some r) ∧
      (s.glb.phase = Phase.running) ∧ (r.phase = RunPhase.answering ∨ r.phase = RunPhase.validating) ∧ (h ∈ r.held) ∧ (u = s.toTick
      (r.sentAt + s.cfg.matchT * 10 * msNs)) ∧ (u.ofHandle h = some o)) ∧
    (∃ (s : State) (src : BitVec 48) (id : BitVec 64) (heard : List (Fin 128)) (r : Run), (s.run src id = some r) ∧ (r.phase =
      RunPhase.validating) ∧ (r.reqs = 1) ∧ (List.filter (slacUp s) heard = [])) ∧
    (∃ (s : State) (src : BitVec 48) (id : BitVec 64) (r : Run) (d : ℕ), (s.run src id = some r) ∧ (r.togUntil = some d) ∧ (s.glb.phase
      = Phase.running)) :=
  ⟨⟨live, 0, 0, [], by decide +kernel⟩,
   ⟨((live : State)|>.onSta 0 (fun x => { x with armed := true, qualTick := some 0 }) |>.onCtx 0 (fun x => { x with pilot := 1 })), 0,
     0, [0], by decide +kernel⟩,
   ⟨{ live with plc.runs := List.replicate 64 { run0 with id := 1 } }, 0, 0, by decide +kernel⟩,
   ⟨{ live with glb.phase := Phase.running, plc.crossDev := false, plc.runs := [run0] }, 0, 0, run0, _, by decide +kernel,
     by decide +kernel, by decide +kernel, by decide +kernel, rfl⟩,
   ⟨{ live with glb.phase := Phase.running, plc.runs := [({ run0 with phase := .waiting })], plc.crossDev := true, tie.clusterN := 2 },
     0, 0, { run0 with phase := .waiting }, _, by decide +kernel, by decide +kernel, by decide +kernel, by decide +kernel, rfl⟩,
   ⟨live, run0, by decide +kernel⟩,
   ⟨{ live with key.rngOk := true, plc.runs := [({ run0 with phase := .answering, held := [0] })] }, 0, 0, 0,
     { run0 with phase := .answering, held := [0] }, by decide +kernel⟩,
   ⟨{ live with key.rngOk := true, plc.runs := [({ run0 with phase := .validating, held := [0], winner := some 0 })] }, 0, 0, 0,
     { run0 with phase := .validating, held := [0], winner := some 0 }, by decide +kernel⟩,
   ⟨{ live with key.rngOk := true, plc.runs := [({ run0 with phase := .validating, held := [0] })] }, 0, 0, 0,
     { run0 with phase := .validating, held := [0] }, by decide +kernel⟩,
   ⟨{ live with plc.runs := [run0] }, 0, 0, 0, run0, by decide +kernel⟩,
   ⟨{ live with glb.phase := Phase.running, plc.runs := [({ run0 with phase := .answering, held := [0] })] }, 0, 0,
     { run0 with phase := .answering, held := [0] }, 0, 0, _, by decide +kernel, by decide +kernel, by decide +kernel,
     by decide +kernel, rfl, by decide +kernel⟩,
   ⟨{ live with plc.runs := [({ run0 with phase := .validating, reqs := 1 })] }, 0, 0, [],
     { run0 with phase := .validating, reqs := 1 }, by decide +kernel⟩,
   ⟨{ live with glb.phase := Phase.running, plc.runs := [({ run0 with togUntil := some 0 })] }, 0, 0, { run0 with togUntil := some 0 },
     0, by decide +kernel⟩⟩

theorem witness_StationFrames :
    (∃ (s : State) (o : Fin 128) (bytes : List (BitVec 8)) (u : State), (slacUp s o = true) ∧ (bytes.length ≤ 1514) ∧ (u = stationSend s
      o)) ∧
    (∃ (s : State) (o : Fin 128) (bytes : List (BitVec 8)) (u : State), (slacUp s o = true) ∧ (bytes.length ≤ 1514) ∧ (u = stationSend s
      o) ∧ (ofBytesBE (List.take 2 (List.drop 12 bytes)) = 35041)) ∧
    (∃ (s : State) (o : Fin 128) (bytes : List (BitVec 8)) (u : State), (slacUp s o = true) ∧ (bytes.length ≤ 1514) ∧ (u = stationSend s
      o) ∧ (ofBytesBE (List.take 2 (List.drop 12 bytes)) ≠ 35041) ∧ ((u.sta o).assoc = false)) ∧
    (∃ (s : State) (o : Fin 128) (bytes : List (BitVec 8)) (u : State), (slacUp s o = true) ∧ (bytes.length ≤ 1514) ∧ (u = stationSend s
      o) ∧ (ofBytesBE (List.take 2 (List.drop 12 bytes)) ≠ 35041) ∧ ((u.sta o).assoc = true) ∧ (addressed u o bytes = false)) ∧
    (∃ (s : State) (o : Fin 128) (bytes : List (BitVec 8)) (u : State) (q : PoolQ), (slacUp s o = true) ∧ (bytes.length ≤ 1514) ∧ (u =
      stationSend s o) ∧ (ofBytesBE (List.take 2 (List.drop 12 bytes)) ≠ 35041) ∧ ((u.sta o).assoc = true) ∧ (addressed u o bytes =
      true) ∧ ((u.poolQ (rxQ o)).offer 2048 (Packet.plain bytes u.tim.mains) = (q, true))) ∧
    (∃ (s : State) (o : Fin 128) (bytes : List (BitVec 8)) (u : State) (q : PoolQ), (slacUp s o = true) ∧ (bytes.length ≤ 1514) ∧ (u =
      stationSend s o) ∧ (ofBytesBE (List.take 2 (List.drop 12 bytes)) ≠ 35041) ∧ ((u.sta o).assoc = true) ∧ (addressed u o bytes =
      true) ∧ ((u.poolQ (rxQ o)).offer 2048 (Packet.plain bytes u.tim.mains) = (q, false))) ∧
    (∃ (q : PoolQ), (q.paused = false) ∧ (q.staging = [])) ∧
    (∃ (q : PoolQ) (cap : ℕ) (p : Packet), (q.paused = true ∨ q.staging ≠ []) ∧ (q.staged + p.bytes.length ≤ cap)) ∧
    (∃ (q : PoolQ) (cap : ℕ) (p : Packet), (q.paused = true ∨ q.staging ≠ []) ∧ (cap < q.staged + p.bytes.length)) ∧
    (∃ (s : State) (o : Fin 128) (bytes : List (BitVec 8)), (slacUp s o = false ∨ 1514 < bytes.length)) ∧
    (∃ (s : State) (c : Cmd) (o : Fin 128), (Ready s c 1024) ∧ (s.ofHandle c.handle.toNat = some o) ∧ ((s.sta o).assoc = true)) ∧
    (∃ (s : State) (c : Cmd) (o : Fin 128), (Ready s c 1024) ∧ (s.ofHandle c.handle.toNat = some o) ∧ ((s.sta o).assoc = false)) ∧
    (∃ (s : State) (c : Cmd) (o : Fin 128), (Ready s c 1026) ∧ (s.ofHandle c.handle.toNat = some o)) ∧
    (∃ (s : State) (c : Cmd), (Ready s c 1025) ∧ (c.p2 1 % 64 ≠ 0)) ∧
    (∃ (s : State) (c : Cmd), (Ready s c 1025) ∧ (c.p2 1 % 64 = 0) ∧ (64 ≤ fld (c.p 0) 0 8 ∨ keyUses (fld (c.p 0) 0 8) ≠ 16)) ∧
    (∃ (s : State) (c : Cmd) (k : List Byte) (u : State), (Ready s c 1025) ∧ (c.p2 1 % 64 = 0) ∧ (fld (c.p 0) 0 8 < 64) ∧ (keyUses (fld
      (c.p 0) 0 8) = 16) ∧ (s.key.rngOk = true) ∧ (useKey s (fin 64 (fld (c.p 0) 0 8)) = (some k, u)) ∧ (InFlight u c)) ∧
    (∃ (s : State) (c : Cmd) (u : State), (Ready s c 1025) ∧ (c.p2 1 % 64 = 0) ∧ (fld (c.p 0) 0 8 < 64) ∧ (keyUses (fld (c.p 0) 0 8) =
      16) ∧ (s.key.rngOk = true) ∧ (useKey s (fin 64 (fld (c.p 0) 0 8)) = (none, u))) :=
  ⟨⟨live, 0, [], _, by decide +kernel, by decide +kernel, rfl⟩,
   ⟨live, 0, List.replicate 12 0 ++ [0x88, 0xE1], _, by decide +kernel, by decide +kernel, rfl, by decide +kernel⟩,
   ⟨live, 0, [], _, by decide +kernel, by decide +kernel, rfl, by decide +kernel⟩,
   ⟨((live : State)|>.onSta 0 (fun x => { x with assoc := true })), 0, [2], _, by decide +kernel, by decide +kernel, rfl,
     by decide +kernel⟩,
   ⟨((live : State)|>.onSta 0 (fun x => { x with assoc := true })), 0, [1], _, _, by decide +kernel, by decide +kernel, rfl,
     by decide +kernel, by decide +kernel, by decide +kernel, pair_snd (by decide +kernel)⟩,
   ⟨((live : State)|>.onSta 0 (fun x => { x with assoc := true }) |>.onQ 0 (fun x =>
     { x with paused := true, staging := [{ pkt0 with bytes := List.replicate 2048 0 }] })), 0, [1], _, _, by decide +kernel,
     by decide +kernel, rfl, by decide +kernel, by decide +kernel, by decide +kernel, pair_snd (by decide +kernel)⟩,
   ⟨{}, by decide +kernel⟩,
   ⟨{ paused := true }, 0, pkt0, by decide +kernel⟩,
   ⟨{ paused := true }, 0, { pkt0 with bytes := [0] }, by decide +kernel⟩,
   ⟨live, 0, List.replicate 1515 0, by decide +kernel⟩,
   ⟨fly (wc 1024 []) (((live : State) |>.onSta (0) (fun x => { x with assoc := true }))), (wc 1024 []), 0, ready_of (by decide +kernel),
     by decide +kernel⟩,
   ⟨fly (wc 1024 []) (((live : State) |>.onSta (0) (fun x => { x with assoc := false }))), (wc 1024 []), 0, ready_of
     (by decide +kernel), by decide +kernel⟩,
   ⟨fly (wc 1026 []) (live), (wc 1026 []), 0, ready_of (by decide +kernel), by decide +kernel⟩,
   ⟨fly (wc 1025 [0, 1]) (live), (wc 1025 [0, 1]), ready_of (by decide +kernel), by decide +kernel⟩,
   ⟨fly (wc 1025 []) (live), (wc 1025 []), ready_of (by decide +kernel), by decide +kernel⟩,
   ⟨fly (wc 1025 [16]) ((({ live with key.rngOk := true } : State)|>.onKey 16 (fun x => { x with state := .valid }))), (wc 1025 [16]),
     [], _, ready_of (by decide +kernel), by decide +kernel, by decide +kernel, by decide +kernel, by decide +kernel, pair_of
     (by decide +kernel), (by unfold InFlight; decide +kernel)⟩,
   ⟨fly (wc 1025 [16]) ({ live with key.rngOk := true }), (wc 1025 [16]), _, ready_of (by decide +kernel), by decide +kernel,
     by decide +kernel, by decide +kernel, by decide +kernel, pair_of (by decide +kernel)⟩⟩

theorem witness_MeasurementChains :
    (∃ (s : State) (o : Fin 128) (k : ℕ), (s.clocksRun = true) ∧ ((s.lane o).statusSeen = true) ∧ (tempBad (s.lane o).status = some k) ∧
      ((s.met1 o).tempFault = false)) ∧
    (∃ (s : State) (o : Fin 128) (k : ℕ), (s.clocksRun = true) ∧ ((s.lane o).statusSeen = true) ∧ (tempBad (s.lane o).status = some k) ∧
      ((s.met1 o).tempFault = true)) ∧
    (∃ (s : State) (o : Fin 128) (d : ℕ), (s.clocksRun = true) ∧ ((s.lane o).statusSeen = true) ∧ (tempBad (s.lane o).status = none) ∧
      ((s.met1 o).tempFault = true) ∧ ((s.met1 o).tempOkSince = some d)) ∧
    (∃ (s : State) (a : State) (u : State) (bits : List (BitVec 8)) (src : Option SrcCycle), (s.clocksRun = true) ∧ (a = s.toMains (max
      ((s.met.incAt + 1) * 65536) (s.tim.mains / 65536 * 65536))) ∧ (u = src.elim (incomerBits
      { a with met := have __src := a.met; { __src with incAt := a.tim.mains / 65536 } } bits) (trackSource (incomerBits
      { a with met := have __src := a.met; { __src with incAt := a.tim.mains / 65536 } } bits))) ∧ (u.enr.stopped = false) ∧
      (u.tie.legalStopped = false)) ∧
    (∃ (s : State) (a : State) (u : State) (bits : List (BitVec 8)) (src : Option SrcCycle), (s.clocksRun = true) ∧ (a = s.toMains (max
      ((s.met.incAt + 1) * 65536) (s.tim.mains / 65536 * 65536))) ∧ (u = src.elim (incomerBits
      { a with met := have __src := a.met; { __src with incAt := a.tim.mains / 65536 } } bits) (trackSource (incomerBits
      { a with met := have __src := a.met; { __src with incAt := a.tim.mains / 65536 } } bits))) ∧ (u.enr.stopped = true ∨
      u.tie.legalStopped = true)) ∧
    (∃ (s : State) (u : State) (v : State) (o : Fin 128) (p : LoadedProfile) (m : CycleQ), (s.clocksRun = true) ∧ (s.ctxProfile o = some
      p) ∧ (u = weldStep (if p.prof.dc = true then (s.toTick (((s.met1 o).boundAt / (20 * msNs) + 1) * (20 * msNs))).onMet o fun x =>
      { x with boundAt := (s.toTick (((s.met1 o).boundAt / (20 * msNs) + 1) * (20 * msNs))).now / (20 * msNs) * (20 * msNs) } else s) o
      p.prof) ∧ (m = outletCycle u o p.prof) ∧ (v = applyTemp (deliver (accrue (gapStep (cycleUsed u o) o m) o p.prof m) o p.prof m) o)
      ∧ (u.enr.stopped = true ∨ u.tie.legalStopped = true)) ∧
    (∃ (s : State) (u : State) (v : State) (o : Fin 128) (p : LoadedProfile) (m : CycleQ), (s.clocksRun = true) ∧ (s.ctxProfile o = some
      p) ∧ (u = weldStep (if p.prof.dc = true then (s.toTick (((s.met1 o).boundAt / (20 * msNs) + 1) * (20 * msNs))).onMet o fun x =>
      { x with boundAt := (s.toTick (((s.met1 o).boundAt / (20 * msNs) + 1) * (20 * msNs))).now / (20 * msNs) * (20 * msNs) } else s) o
      p.prof) ∧ (m = outletCycle u o p.prof) ∧ (v = applyTemp (deliver (accrue (gapStep (cycleUsed u o) o m) o p.prof m) o p.prof m) o)
      ∧ (u.enr.stopped = false) ∧ (u.tie.legalStopped = false) ∧ ((u.lane o).link.measured = true) ∧ ((u.met1 o).silent = false)) ∧
    (∃ (s : State) (u : State) (v : State) (o : Fin 128) (p : LoadedProfile) (m : CycleQ), (s.clocksRun = true) ∧ (s.ctxProfile o = some
      p) ∧ (u = weldStep (if p.prof.dc = true then (s.toTick (((s.met1 o).boundAt / (20 * msNs) + 1) * (20 * msNs))).onMet o fun x =>
      { x with boundAt := (s.toTick (((s.met1 o).boundAt / (20 * msNs) + 1) * (20 * msNs))).now / (20 * msNs) * (20 * msNs) } else s) o
      p.prof) ∧ (m = outletCycle u o p.prof) ∧ (v = applyTemp (deliver (accrue (gapStep (cycleUsed u o) o m) o p.prof m) o p.prof m) o)
      ∧ (u.enr.stopped = false) ∧ (u.tie.legalStopped = false) ∧ ((u.lane o).link.measured = false ∨ (u.met1 o).silent = true)) ∧
    (∃ (s : State), (s.clocksRun = false)) ∧
    (∃ (s : State) (u : State) (o : Fin 128) (l : Fin 8) (r : CalRec) (x : LegalSec) (t : ToneResult), (s.clocksRun = true) ∧
      (s.tie.legalStopped = false) ∧ (findCal s o l = some r) ∧ (s.met.legal = some x) ∧ ((assignedLanes s o).contains l = true) ∧ (u =
      (s.toTick ((vget (s.met1 o).lanes l).toneAt + secNs)).onVLane o l fun v =>
      { v with toneAt := (s.toTick ((vget (s.met1 o).lanes l).toneAt + secNs)).now }) ∧ (t = correlate (vget (u.met1 o).chain.lanes
      l).tap r.toneRef) ∧ ((u.met1 o).silent = false) ∧ ((vget (u.met1 o).lanes l).state ≠ Verif.disabled) ∧ ((vget (u.met1 o).lanes
      l).state ≠ Verif.noRecord) ∧ ((vget (u.met1 o).lanes l).state ≠ Verif.pending ∨ u.since (vget (u.met1 o).lanes l).enteredAt (60 *
      secNs) = true)) ∧
    (∃ (s : State) (u : State) (o : Fin 128) (l : Fin 8) (r : CalRec) (x : LegalSec) (t : ToneResult), (s.clocksRun = true) ∧
      (s.tie.legalStopped = false) ∧ (findCal s o l = some r) ∧ (s.met.legal = some x) ∧ ((assignedLanes s o).contains l = true) ∧ (u =
      (s.toTick ((vget (s.met1 o).lanes l).toneAt + secNs)).onVLane o l fun v =>
      { v with toneAt := (s.toTick ((vget (s.met1 o).lanes l).toneAt + secNs)).now }) ∧ (t = correlate (vget (u.met1 o).chain.lanes
      l).tap r.toneRef) ∧ ((u.met1 o).silent = true ∨ (vget (u.met1 o).lanes l).state = Verif.disabled ∨ (vget (u.met1 o).lanes l).state
      = Verif.noRecord ∨ (vget (u.met1 o).lanes l).state = Verif.pending ∧ u.since (vget (u.met1 o).lanes l).enteredAt (60 * secNs) =
      false)) ∧
    (∃ (x : LegalSec) (d : ℤ), (d.natAbs ≤ x.driftLim)) ∧
    (∃ (x : LegalSec) (d : ℤ), (x.driftLim < d.natAbs) ∧ (d.natAbs ≤ x.failLim)) ∧
    (∃ (x : LegalSec) (d : ℤ), (x.driftLim < d.natAbs) ∧ (x.failLim < d.natAbs)) ∧
    (∃ (s : State) (k : Fin 8) (ppm : ℤ), (s.clocksRun = true) ∧ (s.met.incPresent.getLsbD ↑k = true) ∧ (1000 < ppm.natAbs)) ∧
    (∃ (s : State) (k : Fin 8) (ppm : ℤ), (s.clocksRun = true) ∧ (s.met.incPresent.getLsbD ↑k = true) ∧ (ppm.natAbs ≤ 1000)) ∧
    (∃ (s : State) (c : Cmd) (o : Fin 128), (Ready s c 1280) ∧ (s.ofHandle c.handle.toNat = some o)) ∧
    (∃ (s : State) (c : Cmd) (o : Fin 128), (Ready s c 1281) ∧ (s.ofHandle c.handle.toNat = some o)) ∧
    (∃ (s : State) (c : Cmd) (o : Fin 128), (Ready s c 1282) ∧ (s.ofHandle c.handle.toNat = some o) ∧ ((s.met1 o).toneOff = false)) ∧
    (∃ (s : State) (c : Cmd) (o : Fin 128), (Ready s c 1282) ∧ (s.ofHandle c.handle.toNat = some o) ∧ ((s.met1 o).toneOff = true)) :=
  ⟨⟨((live : State) |>.onLane (0) (fun x => { x with statusSeen := true }) |>.onMet (0) (fun x =>
    { x with tempFault := false })|>.onLane 0 (fun x => { x with status := { x.status with temp := 0x7FFF } })), 0, 0,
    by decide +kernel⟩,
   ⟨((live : State) |>.onLane (0) (fun x => { x with statusSeen := true }) |>.onMet (0) (fun x => { x with tempFault := true })|>.onLane
     0 (fun x => { x with status := { x.status with temp := 0x7FFF } })), 0, 0, by decide +kernel⟩,
   ⟨((live : State) |>.onLane (0) (fun x => { x with statusSeen := true }) |>.onMet (0) (fun x => { x with tempFault := true }) |>.onMet
     (0) (fun x => { x with tempOkSince := some (0) })), 0, 0, by decide +kernel⟩,
   ⟨live, _, _, [], none, by decide +kernel, rfl, rfl, by decide +kernel⟩,
   ⟨{ live with enr.stopped := true }, _, _, [], none, by decide +kernel, rfl, rfl, by decide +kernel⟩,
   ⟨{ live with enr.stopped := true }, _, _, 0, prof0, _, by decide +kernel, by decide +kernel, rfl, rfl, rfl, by decide +kernel⟩,
   ⟨live, _, _, 0, prof0, _, by decide +kernel, by decide +kernel, rfl, rfl, rfl, by decide +kernel⟩,
   ⟨((live : State)|>.onLane 0 (fun x => { x with link := .idle })), _, _, 0, prof0, _, by decide +kernel, by decide +kernel, rfl, rfl,
     rfl, by decide +kernel⟩,
   ⟨{ live with glb.phase := .keep }, by decide +kernel⟩,
   ⟨(({ { live with seq.profiles := [{ prof0 with prof.roles := Vector.replicate 8 1 }] } with tie.legalStopped := false, met.legal := some (⟨1000, 2000, [], [cal0], 0⟩) }
     : State)|>.onVLane 0 0 (fun x => { x with state := .pass })), _, 0, 0, cal0, ⟨1000, 2000, [], [cal0], 0⟩, _, by decide +kernel,
     by decide +kernel, by decide +kernel, by decide +kernel, by decide +kernel, rfl, rfl, by decide +kernel⟩,
   ⟨{ { live with seq.profiles := [{ prof0 with prof.roles := Vector.replicate 8 1 }] } with tie.legalStopped := false, met.legal := some (⟨1000, 2000, [], [cal0], 0⟩) },
     _, 0, 0, cal0, ⟨1000, 2000, [], [cal0], 0⟩, _, by decide +kernel, by decide +kernel, by decide +kernel, by decide +kernel,
     by decide +kernel, rfl, rfl, by decide +kernel⟩,
   ⟨⟨1000, 2000, [], [], 0⟩, 0, by decide +kernel⟩,
   ⟨⟨1000, 2000, [], [], 0⟩, 1001, by decide +kernel⟩,
   ⟨⟨1000, 2000, [], [], 0⟩, 2001, by decide +kernel⟩,
   ⟨{ live with met.incPresent := 0xFF }, 0, 1001, by decide +kernel⟩,
   ⟨{ live with met.incPresent := 0xFF }, 0, 0, by decide +kernel⟩,
   ⟨fly (wc 1280 []) (live), (wc 1280 []), 0, ready_of (by decide +kernel), by decide +kernel⟩,
   ⟨fly (wc 1281 []) (live), (wc 1281 []), 0, ready_of (by decide +kernel), by decide +kernel⟩,
   ⟨fly (wc 1282 []) (((live : State) |>.onMet (0) (fun x => { x with toneOff := false }))), (wc 1282 []), 0, ready_of
     (by decide +kernel), by decide +kernel⟩,
   ⟨fly (wc 1282 []) (((live : State) |>.onMet (0) (fun x => { x with toneOff := true }))), (wc 1282 []), 0, ready_of
     (by decide +kernel), by decide +kernel⟩⟩

theorem witness_EnergyAccounting :
    (∃ (s : State) (q : State) (u : State) (f : Fin 3), (q = inOrder MarkAct.commit s) ∧ (q.clocksRun = true) ∧ (q.enr.stopped = false)
      ∧ (q.fwRuns 1 = true) ∧ (u = energyCut (q.toMains ((q.keep.commitNo + 1) * 65536)) (q.keep.commitNo + 1) (q.keep.commitNo + 1)
      false f)) ∧
    (∃ (s : State) (q : State), (q = inOrder MarkAct.commit s) ∧ (q.clocksRun = false ∨ q.enr.stopped = true ∨ q.fwRuns 1 = false)) ∧
    (∃ (s : State) (k : Fin 8), (s.glb.phase = Phase.running) ∧ ((vget s.enr.pulses k).en = true) ∧ (0 < (vget s.enr.pulses k).owed)) ∧
    (∃ (s : State) (k : Fin 8) (d : ℕ), ((vget s.enr.pulses k).next = none) ∧ ((vget s.enr.pulses k).lastSrc + d = pulseSource s (vget
      s.enr.pulses k).src (vget s.enr.pulses k).outlet) ∧ ((vget s.enr.pulses k).owed + ((vget s.enr.pulses k).acc + d * (vget
      s.enr.pulses k).const) / (1000000 * 2 ^ 48) ≤ 1000000)) ∧
    (∃ (s : State), (s.glb.phase = Phase.keep) ∧ (s.enr.keepEn = true)) ∧
    (∃ (s : State) (u : State) (v : State) (w : BalWindow) (d : ℤ) (tol : ℤ) (valid : Bool) (k : BitVec 2), (s.clocksRun = true) ∧
      (s.enr.balWait = some w) ∧ (u = s.toTick (w.closedAt + 60 * secNs)) ∧ (d = w.einc - (w.eout + (List.map (fun x => x.2.1)
      w.peers).sum) - (↑(s.cfg.auxW * w.span * 10 / (36 * secNs)) + ↑(w.declared.getD 0))) ∧ (valid = ((w.valid && !(sharePeers u).any
      fun k => !w.peers.any fun p => p.1 == ↑k) && w.peers.all fun p => p.2.2)) ∧ (v =
      { u with enr := have __src := u.enr; { __src with balLastEval := some w.number, balD := d, balLastValid := valid } }) ∧ (tol =
      w.einc * ↑s.cfg.tolPct / 1000 + ↑s.cfg.tolWh * 1000) ∧ (k = if tol < d then 1 else if d < -tol then 2 else 0) ∧ (s.tie.role =
      PairRole.standby)) ∧
    (∃ (s : State) (u : State) (v : State) (w : BalWindow) (d : ℤ) (tol : ℤ) (valid : Bool) (k : BitVec 2), (s.clocksRun = true) ∧
      (s.enr.balWait = some w) ∧ (u = s.toTick (w.closedAt + 60 * secNs)) ∧ (d = w.einc - (w.eout + (List.map (fun x => x.2.1)
      w.peers).sum) - (↑(s.cfg.auxW * w.span * 10 / (36 * secNs)) + ↑(w.declared.getD 0))) ∧ (valid = ((w.valid && !(sharePeers u).any
      fun k => !w.peers.any fun p => p.1 == ↑k) && w.peers.all fun p => p.2.2)) ∧ (v =
      { u with enr := have __src := u.enr; { __src with balLastEval := some w.number, balD := d, balLastValid := valid } }) ∧ (tol =
      w.einc * ↑s.cfg.tolPct / 1000 + ↑s.cfg.tolWh * 1000) ∧ (k = if tol < d then 1 else if d < -tol then 2 else 0) ∧ (s.tie.role ≠
      PairRole.standby) ∧ (valid = false)) ∧
    (∃ (s : State) (u : State) (v : State) (w : BalWindow) (d : ℤ) (tol : ℤ) (valid : Bool) (k : BitVec 2), (s.clocksRun = true) ∧
      (s.enr.balWait = some w) ∧ (u = s.toTick (w.closedAt + 60 * secNs)) ∧ (d = w.einc - (w.eout + (List.map (fun x => x.2.1)
      w.peers).sum) - (↑(s.cfg.auxW * w.span * 10 / (36 * secNs)) + ↑(w.declared.getD 0))) ∧ (valid = ((w.valid && !(sharePeers u).any
      fun k => !w.peers.any fun p => p.1 == ↑k) && w.peers.all fun p => p.2.2)) ∧ (v =
      { u with enr := have __src := u.enr; { __src with balLastEval := some w.number, balD := d, balLastValid := valid } }) ∧ (tol =
      w.einc * ↑s.cfg.tolPct / 1000 + ↑s.cfg.tolWh * 1000) ∧ (k = if tol < d then 1 else if d < -tol then 2 else 0) ∧ (s.tie.role ≠
      PairRole.standby) ∧ (valid = true)) ∧
    (∃ (s : State), (s.enr.balWait = none)) ∧
    (∃ (s : State) (c : Cmd) (m : ℕ), (Ready s c 1296) ∧ (s.enr.balLastEval = some m) ∧ (BitVec.toNat (c.p 0) ≤ m)) ∧
    (∃ (s : State) (c : Cmd), (Ready s c 1296) ∧ (s.enr.balLastEval = none) ∧ (s.enr.balWait = none)) ∧
    (∃ (s : State) (c : Cmd) (o : Fin 128), (Ready s c 1297) ∧ (c.device = false) ∧ (s.ofHandle c.handle.toNat = some o) ∧ (fld (c.p 0)
      0 8 < 13)) ∧
    (∃ (s : State) (c : Cmd) (o : Fin 128), (Ready s c 1297) ∧ (c.device = false) ∧ (s.ofHandle c.handle.toNat = some o) ∧ (13 ≤ fld
      (c.p 0) 0 8)) ∧
    (∃ (s : State) (c : Cmd), (Ready s c 1297) ∧ (c.device = true) ∧ (128 ≤ fld (c.p 0) 0 8) ∧ (fld (c.p 0) 0 8 < 140)) ∧
    (∃ (s : State) (c : Cmd), (Ready s c 1297) ∧ (c.device = true) ∧ (fld (c.p 0) 0 8 < 128 ∨ 140 ≤ fld (c.p 0) 0 8)) :=
  ⟨⟨live, _, _, 0, rfl, by decide +kernel, by decide +kernel, by decide +kernel, rfl⟩,
   ⟨{ live with enr.stopped := true }, _, rfl, by decide +kernel⟩,
   ⟨(({ live with glb.phase := Phase.running } : State) |>.upd1 (fun s =>
     { s with enr.pulses := vmod s.enr.pulses (0) (fun x => { x with en := true }) })|>.onPulse 0 (fun x => { x with owed := 1 })), 0,
     by decide +kernel⟩,
   ⟨((live : State) |>.upd1 (fun s => { s with enr.pulses := vmod s.enr.pulses (0) (fun x => { x with next := none }) })), 0, 0,
     by decide +kernel⟩,
   ⟨{ live with glb.phase := Phase.keep, enr.keepEn := true }, by decide +kernel⟩,
   ⟨{ live with enr.balWait := some (⟨0, 0, 0, 0, 0, false, none, []⟩), tie.role := PairRole.standby }, _, _, ⟨0, 0, 0, 0, 0, false,
     none, []⟩, _, _, _, 0, by decide +kernel, by decide +kernel, rfl, rfl, rfl, rfl, rfl, by decide +kernel⟩,
   ⟨{ live with enr.balWait := some (⟨0, 0, 0, 0, 0, false, none, []⟩) }, _, _, ⟨0, 0, 0, 0, 0, false, none, []⟩, _, _, _, 0,
     by decide +kernel, by decide +kernel, rfl, rfl, rfl, rfl, rfl, by decide +kernel⟩,
   ⟨{ live with enr.balWait := some (⟨0, 0, 0, 0, 0, true, none, []⟩) }, _, _, ⟨0, 0, 0, 0, 0, true, none, []⟩, _, _, _, 0,
     by decide +kernel, by decide +kernel, rfl, rfl, rfl, rfl, rfl, by decide +kernel⟩,
   ⟨{ live with enr.balWait := none }, by decide +kernel⟩,
   ⟨fly (wc 1296 []) ({ live with enr.balLastEval := some (0) }), (wc 1296 []), 0, ready_of (by decide +kernel), by decide +kernel⟩,
   ⟨fly (wc 1296 []) ({ live with enr.balLastEval := none, enr.balWait := none }), (wc 1296 []), ready_of (by decide +kernel),
     by decide +kernel⟩,
   ⟨fly (wc 1297 []) (live), (wc 1297 []), 0, ready_of (by decide +kernel), by decide +kernel⟩,
   ⟨fly (wc 1297 [13]) (live), (wc 1297 [13]), 0, ready_of (by decide +kernel), by decide +kernel⟩,
   ⟨fly (wc 1297 [128] (device := true)) (live), (wc 1297 [128] (device := true)), ready_of (by decide +kernel), by decide +kernel⟩,
   ⟨fly (wc 1297 [] (device := true)) (live), (wc 1297 [] (device := true)), ready_of (by decide +kernel), by decide +kernel⟩⟩

theorem witness_SignedRecordsAndObjects :
    (∃ (s : State) (r : SignedRec) (u : SignedRec) (d : BitVec 256) (v : State), (s.clocksRun = true) ∧ (s.tie.legalStopped = false) ∧
      (s.fwRuns 1 = true) ∧ (s.tie.role ≠ PairRole.standby) ∧ (s.bil.waiting = [r]) ∧ (r.endCommit ≤ (Option.map (fun x => x.number)
      s.enr.committed).getD 0) ∧ (s.bil.unacked < 4096) ∧ (s.bil.overflow = []) ∧ (s.key.rngOk = true) ∧ (meterKey s = (some d, v)) ∧
      (r.cmd = none) ∧ (u =
      { r with recSeq := v.bil.recNext, r := (ecdsaSign d (sha256 (wordBytes (recordWords { r with recSeq := v.bil.recNext }))) v.fresh).1, s := (ecdsaSign d (sha256 (wordBytes (recordWords { r with recSeq := v.bil.recNext }))) v.fresh).2 })
      ∧ (v.bil.recs.length < 4096)) ∧
    (∃ (s : State), (s.clocksRun = false ∨ s.tie.legalStopped = true ∨ s.fwRuns 1 = false)) ∧
    (∃ (s : State) (c : Cmd), (Ready s c 1540) ∧ (s.bil.overflow = []) ∧ (s.bil.highPosted = false) ∧ (later (c.p 0) (s.bil.recNext - 1)
      = true)) ∧
    (∃ (s : State) (c : Cmd), (Ready s c 1540) ∧ (s.bil.overflow = []) ∧ (s.bil.highPosted = false) ∧ (later (c.p 0) (s.bil.recNext - 1)
      = false) ∧ (BitVec.toNat (c.p 0 - (s.bil.recNext - 1)) ≠ 2 ^ 31) ∧ (later (c.p 0) s.bil.recAcked = false)) ∧
    (∃ (s : State) (c : Cmd), (Ready s c 1540) ∧ (s.bil.overflow = []) ∧ (s.bil.highPosted = false) ∧ (later (c.p 0) (s.bil.recNext - 1)
      = false) ∧ (BitVec.toNat (c.p 0 - (s.bil.recNext - 1)) ≠ 2 ^ 31) ∧ (later (c.p 0) s.bil.recAcked = true)) ∧
    (∃ (s : State) (c : Cmd) (o : Fin 128) (t : State), (Ready s c 1539) ∧ (s.ofHandle c.handle.toNat = some o) ∧ (s.tie.legalStopped =
      false) ∧ (s.enr.committed ≠ none) ∧ (s.bil.overflow = []) ∧ (s.bil.unacked < 4096) ∧ (releaseRecord s (readingRecord s o c) = some
      t)) ∧
    (∃ (s : State) (c : Cmd) (o : Fin 128), (Ready s c 1539) ∧ (s.ofHandle c.handle.toNat = some o) ∧ (s.tie.legalStopped = false) ∧
      (s.enr.committed ≠ none) ∧ (s.bil.overflow = []) ∧ (s.bil.unacked < 4096) ∧ (releaseRecord s (readingRecord s o c) = none) ∧
      (s.key.rngOk = true)) ∧
    (∃ (s : State) (c : Cmd) (o : Fin 128), (Ready s c 1539) ∧ (s.ofHandle c.handle.toNat = some o) ∧ (s.tie.legalStopped = false) ∧
      (s.enr.committed ≠ none) ∧ (s.bil.overflow.length < 768) ∧ (4096 ≤ s.bil.unacked ∨ s.bil.overflow ≠ [])) ∧
    (∃ (s : State) (c : Cmd) (o : Fin 128), (Ready s c 1539) ∧ (s.ofHandle c.handle.toNat = some o) ∧ (s.tie.legalStopped = false) ∧
      (s.enr.committed = none) ∧ (s.bil.overflow.length < 768)) ∧
    (∃ (s : State) (c : Cmd) (o : Fin 128), (Ready s c 1539) ∧ (s.ofHandle c.handle.toNat = some o) ∧ (s.tie.legalStopped = false) ∧
      (768 ≤ s.bil.overflow.length)) ∧
    (∃ (s : State) (c : Cmd) (o : Fin 128), (Ready s c 1538) ∧ (s.ofHandle c.handle.toNat = some o) ∧ ((s.bil.tariff.plan (fin 64 (fld
      (c.p 0) 0 6))).count ≠ 0) ∧ ((s.bil1 o).session = none)) ∧
    (∃ (s : State) (c : Cmd) (o : Fin 128), (Ready s c 1538) ∧ (s.ofHandle c.handle.toNat = some o) ∧ ((s.bil.tariff.plan (fin 64 (fld
      (c.p 0) 0 6))).count ≠ 0) ∧ ((s.bil1 o).session ≠ none)) ∧
    (∃ (s : State) (c : Cmd) (o : Fin 128), (Ready s c 1538) ∧ (s.ofHandle c.handle.toNat = some o) ∧ ((s.bil.tariff.plan (fin 64 (fld
      (c.p 0) 0 6))).count = 0)) ∧
    (∃ (s : State), (s.clocksRun = true)) ∧
    (∃ (s : State) (u : State), (s.clocksRun = false) ∧ (u = s.keepSample)) ∧
    (∃ (s : State) (c : Cmd) (x : Obj), (Ready s c 1536) ∧ (objBuffer c = true) ∧ (objectOf s c = some x) ∧ ((if x.cls = 5 then [1, 2,
      4] else [1, 2, 4, 5]).contains (s.roleOf c) = true) ∧ ((objBlock s x).length ≤ fld (c.p 5) 0 16)) ∧
    (∃ (s : State) (c : Cmd) (x : Obj), (Ready s c 1536) ∧ (objBuffer c = true) ∧ (objectOf s c = some x) ∧ ((if x.cls = 5 then [1, 2,
      4] else [1, 2, 4, 5]).contains (s.roleOf c) = true) ∧ (fld (c.p 5) 0 16 < (objBlock s x).length)) ∧
    (∃ (s : State) (c : Cmd) (x : Obj), (Ready s c 1536) ∧ (objBuffer c = true) ∧ (objectOf s c = some x) ∧ ((if x.cls = 5 then [1, 2,
      4] else [1, 2, 4, 5]).contains (s.roleOf c) = false)) ∧
    (∃ (s : State) (c : Cmd), (Ready s c 1536) ∧ (objBuffer c = false ∨ objectOf s c = none)) ∧
    (∃ (s : State) (c : Cmd) (x : Obj), (Ready s c 1537) ∧ (c.p2 3 % 64 = 0) ∧ (0 < fld (c.p 5) 0 16) ∧ (fld (c.p 5) 0 16 ≤ 64) ∧
      (objectOf s c = some x) ∧ (x.cls = 5)) ∧
    (∃ (s : State) (c : Cmd) (x : Obj), (Ready s c 1537) ∧ (c.p2 3 % 64 = 0) ∧ (0 < fld (c.p 5) 0 16) ∧ (fld (c.p 5) 0 16 ≤ 64) ∧
      (objectOf s c = some x) ∧ (x.cls ≠ 5)) :=
  ⟨⟨(({ live with tie.legalStopped := false, bil.waiting := [(rec0)], bil.overflow := [], key.rngOk := true } : State)|>.onKey 5 (fun x
    => { x with state := .valid })), rec0, _, 0, _, by decide +kernel, by decide +kernel, by decide +kernel, by decide +kernel,
    by decide +kernel, by decide +kernel, by decide +kernel, by decide +kernel, by decide +kernel, pair_of (by decide +kernel),
    by decide +kernel, rfl, by decide +kernel⟩,
   ⟨{ live with tie.legalStopped := true }, by decide +kernel⟩,
   ⟨fly (wc 1540 [1]) ({ live with bil.overflow := [], bil.highPosted := false }), (wc 1540 [1]), ready_of (by decide +kernel),
     by decide +kernel⟩,
   ⟨fly (wc 1540 []) ({ live with bil.overflow := [], bil.highPosted := false }), (wc 1540 []), ready_of (by decide +kernel),
     by decide +kernel⟩,
   ⟨fly (wc 1540 [1]) ({ live with bil.overflow := [], bil.highPosted := false, bil.recNext := 5 }), (wc 1540 [1]), ready_of
     (by decide +kernel), by decide +kernel⟩,
   ⟨fly (wc 1539 []) ((({ live with tie.legalStopped := false, bil.overflow := [], enr.committed := some commit0, key.rngOk := true } :
     State)|>.onKey 5 (fun x => { x with state := .valid }))), (wc 1539 []), 0, _, ready_of (by decide +kernel), by decide +kernel,
     by decide +kernel, by decide +kernel, by decide +kernel, by decide +kernel, some_getD live (by decide +kernel)⟩,
   ⟨fly (wc 1539 []) ({ live with tie.legalStopped := false, bil.overflow := [], key.rngOk := true, enr.committed := some commit0 }),
     (wc 1539 []), 0, ready_of (by decide +kernel), by decide +kernel⟩,
   ⟨fly (wc 1539 []) ({ live with tie.legalStopped := false, enr.committed := some commit0, bil.overflow := [rec0] }), (wc 1539 []), 0,
     ready_of (by decide +kernel), by decide +kernel⟩,
   ⟨fly (wc 1539 []) ({ live with tie.legalStopped := false, enr.committed := none }), (wc 1539 []), 0, ready_of (by decide +kernel),
     by decide +kernel⟩,
   ⟨fly (wc 1539 []) ({ live with tie.legalStopped := false, bil.overflow := List.replicate 768 rec0 }), (wc 1539 []), 0, ready_of
     (by decide +kernel), by decide +kernel⟩,
   ⟨fly (wc 1538 []) (((live : State) |>.onBil (0) (fun x => { x with session := none }))), (wc 1538 []), 0, ready_of
     (by decide +kernel), by decide +kernel⟩,
   ⟨fly (wc 1538 []) (((live : State)|>.onBil 0 (fun x => { x with session := some session0 }))), (wc 1538 []), 0, ready_of
     (by decide +kernel), by decide +kernel⟩,
   ⟨fly (wc 1538 [1]) (live), (wc 1538 [1]), 0, ready_of (by decide +kernel), by decide +kernel⟩,
   ⟨live, by decide +kernel⟩,
   ⟨{ live with glb.phase := .keep }, _, by decide +kernel, rfl⟩,
   ⟨fly (wc 1536 [0x8000, 0x00010000, 0xFF00, 0, 0, 4096]) (live), (wc 1536 [0x8000, 0x00010000, 0xFF00, 0, 0, 4096]), _, ready_of
     (by decide +kernel), by decide +kernel, some_getD ⟨0, false, []⟩ (by decide +kernel), by decide +kernel⟩,
   ⟨fly (wc 1536 [0x8000, 0x28800000, 0xFF00, 0, 0, 64]) (live), (wc 1536 [0x8000, 0x28800000, 0xFF00, 0, 0, 64]), _, ready_of
     (by decide +kernel), by decide +kernel, some_getD ⟨0, false, []⟩ (by decide +kernel), by decide +kernel⟩,
   ⟨fly (wc 1536 [0x8000, 0x3C800000, 0xFF00, 0, 0, 64]) (((live : State)|>.onRing 0 (fun x => { x with role := 5 }))), (wc 1536
     [0x8000, 0x3C800000, 0xFF00, 0, 0, 64]), _, ready_of (by decide +kernel), by decide +kernel, some_getD ⟨0, false, []⟩
     (by decide +kernel), by decide +kernel⟩,
   ⟨fly (wc 1536 []) (live), (wc 1536 []), ready_of (by decide +kernel), by decide +kernel⟩,
   ⟨fly (wc 1537 [0x8000, 0x3C800000, 0xFF00, 0, 0, 64]) (live), (wc 1537 [0x8000, 0x3C800000, 0xFF00, 0, 0, 64]), _, ready_of
     (by decide +kernel), by decide +kernel, by decide +kernel, by decide +kernel, some_getD ⟨0, false, []⟩ (by decide +kernel),
     by decide +kernel⟩,
   ⟨fly (wc 1537 [0x8000, 0x00010000, 0xFF00, 0, 0, 64]) (live), (wc 1537 [0x8000, 0x00010000, 0xFF00, 0, 0, 64]), _, ready_of
     (by decide +kernel), by decide +kernel, by decide +kernel, by decide +kernel, some_getD ⟨0, false, []⟩ (by decide +kernel),
     by decide +kernel⟩⟩

theorem witness_LockWrites :
    (∃ (s : State) (v : BitVec 32), (BarReaches s) ∧ (fld v 16 7 ≤ 80)) ∧
    (∃ (s : State) (v : BitVec 32), (BarReaches s) ∧ (2 ≤ fld v 8 8) ∧ (10 ≤ fld v 16 12) ∧ (fld v 16 12 ≤ 3600)) ∧
    (∃ (s : State) (v : BitVec 32), (BarReaches s) ∧ (fld v 1 2 ≠ 3) ∧ (fld v 16 7 ≤ 60)) ∧
    (∃ (s : State) (v : BitVec 32), (BarReaches s) ∧ (1 ≤ fld v 0 3) ∧ (fld v 0 3 ≤ 4) ∧ (s.tie.lock = false) ∧ (v.getLsbD 3 =
      s.tie.paired)) ∧
    (∃ (s : State) (v : BitVec 32), (BarReaches s) ∧ (1 ≤ fld v 0 3) ∧ (fld v 0 3 ≤ 4) ∧ (s.tie.lock = true)) ∧
    (∃ (s : State) (v : BitVec 32), (BarReaches s) ∧ (2 ≤ fld v 0 7) ∧ (fld v 0 7 ≤ 100)) :=
  ⟨⟨live, 0, bar_of (by decide +kernel), by decide +kernel⟩,
   ⟨live, 0x000A0200, bar_of (by decide +kernel), by decide +kernel⟩,
   ⟨live, 0, bar_of (by decide +kernel), by decide +kernel⟩,
   ⟨{ live with tie.lock := false }, 1, bar_of (by decide +kernel), by decide +kernel⟩,
   ⟨{ live with tie.lock := true }, 1, bar_of (by decide +kernel), by decide +kernel⟩,
   ⟨live, 2, bar_of (by decide +kernel), by decide +kernel⟩⟩

theorem witness_LaneWrites :
    (∃ (s : State) (l : Fin 128), (BarReaches s) ∧ ((s.lane l).en = false)) ∧
    (∃ (s : State) (l : Fin 128), (BarReaches s) ∧ ((s.lane l).en = true)) :=
  ⟨⟨((live : State) |>.onLane (0) (fun x => { x with en := false })), 0, bar_of (by decide +kernel), by decide +kernel⟩,
   ⟨((live : State) |>.onLane (0) (fun x => { x with en := true })), 0, bar_of (by decide +kernel), by decide +kernel⟩⟩

theorem witness_RegisterWritesWithEffect :
    (∃ (s : State), (BarReaches s)) ∧
    (∃ (s : State) (g : Fin 8), (BarReaches s) ∧ ((vget s.pmc.groups g).en = false)) ∧
    (∃ (s : State) (g : Fin 8), (BarReaches s) ∧ ((vget s.pmc.groups g).en = true)) ∧
    (∃ (s : State) (q : Fin 1024) (v : BitVec 32), (BarReaches s) ∧ (tunable ↑q = true) ∧ (fld v 16 16 ≥ fld v 0 16)) ∧
    (∃ (s : State) (q : Fin 1024) (v : BitVec 32), (BarReaches s) ∧ (tunable ↑q = true) ∧ (fld v 16 16 < fld v 0 16) ∧ (s.mpl.highSum +
      fld v 0 16 ≤ 40960 + (s.poolQ q).high)) ∧
    (∃ (s : State) (q : Fin 1024), (BarReaches s) ∧ (tunable ↑q = false)) ∧
    (∃ (s : State) (v : BitVec 32), (BarReaches s) ∧ (s.plc.lock = false) ∧ (macBaseOk (s.plc.macLo.toNat + 2 ^ 32 * fld v 0 16) =
      true)) ∧
    (∃ (s : State) (v : BitVec 32), (BarReaches s) ∧ (s.plc.lock = true ∨ macBaseOk (s.plc.macLo.toNat + 2 ^ 32 * fld v 0 16) = false))
      ∧
    (∃ (s : State) (v : BitVec 32), (BarReaches s) ∧ (v.getLsbD 31 = false ∨ s.legalSec < s.pwr.alarmLo.toNat + fld v 0 8 * 2 ^ 32)) ∧
    (∃ (s : State) (v : BitVec 32), (BarReaches s) ∧ (v.getLsbD 31 = true) ∧ (s.pwr.alarmLo.toNat + fld v 0 8 * 2 ^ 32 ≤ s.legalSec) ∧
      (s.pwr.quiet = false) ∧ (s.tie.role ≠ PairRole.standby)) :=
  ⟨⟨live, bar_of (by decide +kernel)⟩,
   ⟨((live : State) |>.upd1 (fun s => { s with pmc.groups := vmod s.pmc.groups (0) (fun x => { x with en := false }) })), 0, bar_of
     (by decide +kernel), by decide +kernel⟩,
   ⟨((live : State) |>.upd1 (fun s => { s with pmc.groups := vmod s.pmc.groups (0) (fun x => { x with en := true }) })), 0, bar_of
     (by decide +kernel), by decide +kernel⟩,
   ⟨live, 0, 0, bar_of (by decide +kernel), by decide +kernel⟩,
   ⟨live, 0, 1, bar_of (by decide +kernel), by decide +kernel⟩,
   ⟨live, 256, bar_of (by decide +kernel), by decide +kernel⟩,
   ⟨{ live with plc.lock := false }, 0, bar_of (by decide +kernel), by decide +kernel⟩,
   ⟨{ live with plc.lock := true }, 0, bar_of (by decide +kernel), by decide +kernel⟩,
   ⟨live, 0, bar_of (by decide +kernel), by decide +kernel⟩,
   ⟨live, 0x80000000, bar_of (by decide +kernel), by decide +kernel⟩⟩

theorem witness_MeasurementWrites :
    (∃ (s : State) (k : Fin 8) (v : BitVec 32), (BarReaches s) ∧ ((vget s.enr.pulses k).next = none) ∧ (1 ≤ fld v 0 17) ∧ (fld v 0 17 ≤
      100000)) ∧
    (∃ (s : State) (k : Fin 8) (v : BitVec 32), (BarReaches s) ∧ ((vget s.enr.pulses k).next = none) ∧ (1 ≤ fld v 16 9) ∧ (fld v 16 9 ≤
      500)) ∧
    (∃ (s : State) (v : BitVec 32), (BarReaches s) ∧ (fld v 0 17 = 0 ∨ 100000 < fld v 0 17)) ∧
    (∃ (s : State) (v : BitVec 32), (BarReaches s) ∧ (fld v 16 9 = 0 ∨ 500 < fld v 16 9)) ∧
    (∃ (s : State) (v : BitVec 32), (BarReaches s) ∧ (fld v 0 3 ≤ 4) ∧ (5 ≤ fld v 6 6) ∧ (fld v 6 6 ≤ 60)) ∧
    (∃ (s : State) (v : BitVec 32), (BarReaches s) ∧ (4 < fld v 0 3 ∨ fld v 6 6 < 5 ∨ 60 < fld v 6 6)) ∧
    (∃ (s : State) (m : Fin 8) (v : BitVec 32), (BarReaches s) ∧ (fld v 0 8 ≤ 132) ∧ (1 ≤ fld v 12 20) ∧ (fld v 12 20 ≤ 1000000) ∧
      ((vget s.pmc.mons m).win ≠ fld v 12 20)) ∧
    (∃ (s : State) (v : BitVec 32), (BarReaches s) ∧ (132 < fld v 0 8 ∨ fld v 12 20 = 0 ∨ 1000000 < fld v 12 20)) :=
  ⟨⟨((live : State) |>.upd1 (fun s => { s with enr.pulses := vmod s.enr.pulses (0) (fun x => { x with next := none }) })), 0, 1, bar_of
    (by decide +kernel), by decide +kernel⟩,
   ⟨((live : State) |>.upd1 (fun s => { s with enr.pulses := vmod s.enr.pulses (0) (fun x => { x with next := none }) })), 0, 0x10000,
     bar_of (by decide +kernel), by decide +kernel⟩,
   ⟨live, 0, bar_of (by decide +kernel), by decide +kernel⟩,
   ⟨live, 0, bar_of (by decide +kernel), by decide +kernel⟩,
   ⟨live, 320, bar_of (by decide +kernel), by decide +kernel⟩,
   ⟨live, 0, bar_of (by decide +kernel), by decide +kernel⟩,
   ⟨live, 0, 0x1000, bar_of (by decide +kernel), by decide +kernel⟩,
   ⟨live, 0, bar_of (by decide +kernel), by decide +kernel⟩⟩

theorem witness_StoreCommands :
    (∃ (k : ℕ) (j : ℕ), (j ≠ k)) ∧
    (∃ (s : State) (c : Cmd) (a : AuthSlot) (u : State), (Ready s c 2048) ∧ (AuthSlot.ofWords (List.map (fun i => c.p (2 + i))
      (List.range 8)) = some a) ∧ (a.sound = true) ∧ (a.status.toNat ≤ 2) ∧ (u = countStore
      { s with store := s.store.put (fld (c.p 0) 0 18) a }) ∧ (s.store.duplicate (fld (c.p 0) 0 18) a = false) ∧ (a.member.getLsbD
      s.store.shadow = false ∨ s.store.shadowOpen = true)) ∧
    (∃ (s : State) (c : Cmd) (a : AuthSlot) (u : State), (Ready s c 2048) ∧ (AuthSlot.ofWords (List.map (fun i => c.p (2 + i))
      (List.range 8)) = some a) ∧ (a.sound = true) ∧ (a.status.toNat ≤ 2) ∧ (u = countStore
      { s with store := s.store.put (fld (c.p 0) 0 18) a }) ∧ (s.store.duplicate (fld (c.p 0) 0 18) a = true ∨ a.member.getLsbD
      s.store.shadow = true ∧ s.store.shadowOpen = false)) ∧
    (∃ (s : State) (c : Cmd), (Ready s c 2048) ∧ (∀ (a : AuthSlot), AuthSlot.ofWords (List.map (fun i => c.p (2 + i)) (List.range 8)) =
      some a → a.sound = false ∨ 2 < a.status.toNat)) ∧
    (∃ (s : State) (c : Cmd), (Ready s c 2049) ∧ (c.p2 1 % 32 = 0)) ∧
    (∃ (s : State) (c : Cmd), (Ready s c 2049) ∧ (c.p2 1 % 32 ≠ 0)) ∧
    (∃ (s : State) (c : Cmd) (u : State), (Ready s c 2050) ∧ (u = countStore { s with store := s.store.clearShadow }) ∧ (s.aut.switchAt
      = none)) ∧
    (∃ (s : State) (c : Cmd) (u : State), (Ready s c 2050) ∧ (u = countStore { s with store := s.store.clearShadow }) ∧ (s.aut.switchAt
      ≠ none)) ∧
    (∃ (s : State) (c : Cmd) (u : State), (Ready s c 2051) ∧ (s.aut.switchAt = none) ∧ (s.setMark MarkOwner.cluster (switchMark s) 21 =
      (u, true))) ∧
    (∃ (s : State) (c : Cmd) (u : State), (Ready s c 2051) ∧ (s.aut.switchAt = none) ∧ (s.setMark MarkOwner.cluster (switchMark s) 21 =
      (u, false))) ∧
    (∃ (s : State) (c : Cmd), (Ready s c 2051) ∧ (s.aut.switchAt ≠ none)) ∧
    (∃ (s : State) (v : State) (m : ℕ), (v = inOrder MarkAct.table s) ∧ (v.aut.switchAt = some m) ∧ (v.aut.switchCmd = none) ∧
      (v.glb.phase = Phase.running) ∧ (v.tie.role ≠ PairRole.standby)) ∧
    (∃ (s : State) (q : ℕ), (s.glb.phase = Phase.running) ∧ (laterN 32 q s.store.seq.toNat = false)) ∧
    (∃ (s : State) (q : ℕ) (n : ℕ) (l : List (BitVec 8)) (a : AuthSlot), (s.glb.phase = Phase.running) ∧ (laterN 32 q s.store.seq.toNat
      = true) ∧ (n < 262144) ∧ (AuthSlot.ofWords (bytesWords l) = some a)) ∧
    (∃ (s : State) (q : ℕ) (n : ℕ), (s.glb.phase = Phase.running) ∧ (laterN 32 q s.store.seq.toNat = true) ∧ (n = 262144)) ∧
    (∃ (s : State) (q : ℕ) (n : ℕ), (s.glb.phase = Phase.running) ∧ (laterN 32 q s.store.seq.toNat = true) ∧ (n = 262145) ∧
      (s.aut.switchAt = none)) ∧
    (∃ (s : State) (w : MarkOwner), (∀ m ∈ s.tim.marks, m.owner ≠ w ∨ m.late = false)) ∧
    (∃ (s : State) (q : BitVec 32), (s.glb.phase = Phase.running) ∧ (later q s.store.seq = true)) ∧
    (∃ (s : State), (s.clocksRun = true) ∧ (s.aut.ready = false)) :=
  ⟨⟨0, 1, by decide +kernel⟩,
   ⟨fly (wc 2048 [0, 0, 0, 0, 0, 0, 0, 1, 0, 1289385847]) (live), (wc 2048 [0, 0, 0, 0, 0, 0, 0, 1, 0, 1289385847]), slot1, _, ready_of
     (by decide +kernel), by decide +kernel, by decide +kernel, by decide +kernel, rfl, by decide +kernel⟩,
   ⟨fly (wc 2048 [0, 0, 0, 0, 0, 0, 0, 25, 0, 3817102825]) (live), (wc 2048 [0, 0, 0, 0, 0, 0, 0, 25, 0, 3817102825]), slot3, _,
     ready_of (by decide +kernel), by decide +kernel, by decide +kernel, by decide +kernel, rfl, by decide +kernel⟩,
   ⟨fly (wc 2048 []) (live), (wc 2048 []), ready_of (by decide +kernel), by decide +kernel⟩,
   ⟨fly (wc 2049 []) (live), (wc 2049 []), ready_of (by decide +kernel), by decide +kernel⟩,
   ⟨fly (wc 2049 [0, 1]) (live), (wc 2049 [0, 1]), ready_of (by decide +kernel), by decide +kernel⟩,
   ⟨fly (wc 2050 []) ({ live with aut.switchAt := none }), (wc 2050 []), _, ready_of (by decide +kernel), rfl, by decide +kernel⟩,
   ⟨fly (wc 2050 []) ({ live with aut.switchAt := some 0 }), (wc 2050 []), _, ready_of (by decide +kernel), rfl, by decide +kernel⟩,
   ⟨fly (wc 2051 []) ({ live with aut.switchAt := none }), (wc 2051 []), _, ready_of (by decide +kernel), by decide +kernel, pair_snd
     (by decide +kernel)⟩,
   ⟨fly (wc 2051 []) ({ live with aut.switchAt := none, tim.marks := List.replicate 1536 mk0 }), (wc 2051 []), _, ready_of
     (by decide +kernel), by decide +kernel, pair_snd (by decide +kernel)⟩,
   ⟨fly (wc 2051 []) ({ live with aut.switchAt := some 0 }), (wc 2051 []), ready_of (by decide +kernel), by decide +kernel⟩,
   ⟨{ live with aut.switchAt := some 0 }, _, 0, rfl, by decide +kernel⟩,
   ⟨{ live with glb.phase := Phase.running }, 0, by decide +kernel⟩,
   ⟨{ live with glb.phase := Phase.running }, 1, 0, [], slot0, by decide +kernel⟩,
   ⟨{ live with glb.phase := Phase.running }, 1, 262144, by decide +kernel⟩,
   ⟨{ live with glb.phase := Phase.running, aut.switchAt := none }, 1, 262145, by decide +kernel⟩,
   ⟨live, .config, by decide +kernel⟩,
   ⟨{ live with glb.phase := Phase.running }, 1, by decide +kernel⟩,
   ⟨{ live with aut.ready := false }, by decide +kernel⟩⟩

theorem witness_ReaderTransactions :
    (∃ (s : State) (e : Fin 16) (o : Fin 128) (n : ℕ), (enginesRun s = true) ∧ (vget s.aut.engines e = none) ∧ (nextRequest s = some (o,
      n))) ∧
    (∃ (s : State) (e : Fin 16), (enginesRun s = false ∨ vget s.aut.engines e ≠ none ∨ nextRequest s = none)) ∧
    (∃ (s : State) (e : Fin 16) (x : Transaction) (l : List (BitVec 8)) (p : List Byte), (vget s.aut.engines e = some x) ∧ (enginesRun s
      = true) ∧ (x.step.tagWait = true) ∧ (l = 167 :: p ++ crcB (167 :: p)) ∧ (1 ≤ p.length)) ∧
    (∃ (s : State) (e : Fin 16) (x : Transaction) (l : List (BitVec 8)), (vget s.aut.engines e = some x) ∧ (enginesRun s = true) ∧
      (x.step.tagWait = true) ∧ (crcB (List.take (l.length - 2) l) ≠ List.drop (l.length - 2) l) ∧ (x.crcBad = 0)) ∧
    (∃ (s : State) (e : Fin 16) (x : Transaction) (l : List (BitVec 8)), (vget s.aut.engines e = some x) ∧ (enginesRun s = true) ∧
      (x.step.tagWait = true) ∧ (crcB (List.take (l.length - 2) l) ≠ List.drop (l.length - 2) l) ∧ (x.crcBad ≠ 0) ∧ (x.step ≠
      TxStep.wakeAll) ∧ (x.step ≠ TxStep.second)) ∧
    (∃ (s : State) (e : Fin 16) (x : Transaction), (vget s.aut.engines e = some x) ∧ (enginesRun s = true) ∧ (x.step = TxStep.poll)) ∧
    (∃ (s : State) (e : Fin 16) (x : Transaction) (id : List Byte) (m : List Byte) (v : State), (vget s.aut.engines e = some x) ∧
      (enginesRun s = true) ∧ (x.step = TxStep.exchange) ∧ (useKey s 1 = (some m, v)) ∧ (id.length = 16)) ∧
    (∃ (s : State) (e : Fin 16) (x : Transaction), (vget s.aut.engines e = some x) ∧ (s.glb.phase = Phase.running) ∧ (writeStep x.step =
      none)) ∧
    (∃ (s : State) (e : Fin 16) (x : Transaction), (vget s.aut.engines e = some x) ∧ (s.glb.phase = Phase.running) ∧ (writeStep x.step ≠
      none)) :=
  ⟨⟨(({ live with aut.en := true } : State) |>.upd1 (fun s => { s with aut.engines := vmod s.aut.engines (0) (fun _ => none) })|>.onAut
    0 (fun x => { x with reqAt := some 0 })), 0, 0, 0, by decide +kernel⟩,
   ⟨live, 0, by decide +kernel⟩,
   ⟨(({ live with aut.en := true } : State) |>.upd1 (fun s => { s with aut.engines := vmod s.aut.engines (0) (fun _ => some (tx0)) })),
     0, tx0, 167 :: [0] ++ crcB [167, 0], [0], by decide +kernel⟩,
   ⟨(({ live with aut.en := true } : State) |>.upd1 (fun s => { s with aut.engines := vmod s.aut.engines (0) (fun _ => some (tx0)) })),
     0, tx0, [], by decide +kernel⟩,
   ⟨(({ live with aut.en := true } : State) |>.upd1 (fun s =>
     { s with aut.engines := vmod s.aut.engines (0) (fun _ => some ({ tx0 with crcBad := 1 })) })), 0, { tx0 with crcBad := 1 }, [],
     by decide +kernel⟩,
   ⟨(({ live with aut.en := true } : State) |>.upd1 (fun s =>
     { s with aut.engines := vmod s.aut.engines (0) (fun _ => some ({ tx0 with step := .poll })) })), 0, { tx0 with step := .poll },
     by decide +kernel⟩,
   ⟨(({ live with aut.en := true } : State) |>.upd1 (fun s =>
     { s with aut.engines := vmod s.aut.engines (0) (fun _ => some ({ tx0 with step := .exchange })) })|>.onKey 1 (fun x =>
     { x with state := .valid })), 0, { tx0 with step := .exchange }, List.replicate 16 0, [], _, by decide +kernel, by decide +kernel,
     by decide +kernel, pair_of (by decide +kernel), by decide +kernel⟩,
   ⟨(({ live with glb.phase := Phase.running } : State) |>.upd1 (fun s =>
     { s with aut.engines := vmod s.aut.engines (0) (fun _ => some (tx0)) })), 0, tx0, by decide +kernel⟩,
   ⟨(({ live with glb.phase := Phase.running } : State) |>.upd1 (fun s =>
     { s with aut.engines := vmod s.aut.engines (0) (fun _ => some ({ tx0 with step := .write2 })) })), 0, { tx0 with step := .write2 },
     by decide +kernel⟩⟩

theorem witness_ReaderRequests :
    (∃ (s : State) (o : Fin 128), (s.glb.phase = Phase.running) ∧ (pingEn s o = true)) ∧
    (∃ (s : State) (o : Fin 128), (pingEn s o = false)) ∧
    (∃ (s : State) (o : Fin 128), (s.glb.phase = Phase.running) ∧ (s.aut.en = true) ∧ (s.pwr.quiet = false) ∧ ((s.aut1 o).tagEn = true)
      ∧ ((s.ctx o).pilot = 0) ∧ ((s.aut1 o).reqAt = none)) ∧
    (∃ (s : State) (o : Fin 128) (d : ℕ), (s.glb.phase = Phase.running) ∧ ((s.aut1 o).reqAt = some d) ∧ ((s.aut1 o).waitLong = false)) ∧
    (∃ (s : State) (o : Fin 128), (s.glb.phase = Phase.running) ∧ ((s.aut1 o).cableValid = true) ∧ ((s.ctx o).pilot = 0)) ∧
    (∃ (s : State) (c : Cmd) (o : Fin 128), (Ready s c 2052) ∧ (s.ofHandle c.handle.toNat = some o) ∧ (bit (c.p 0) 0 = false ∨ (s.tagJ1
      o).authedOnce = true)) ∧
    (∃ (s : State) (c : Cmd) (o : Fin 128), (Ready s c 2052) ∧ (s.ofHandle c.handle.toNat = some o) ∧ (bit (c.p 0) 0 = true) ∧ ((s.tagJ1
      o).authedOnce = false)) ∧
    (∃ (s : State) (c : Cmd) (o : Fin 128), (Ready s c 2053) ∧ (s.ofHandle c.handle.toNat = some o) ∧ ((s.aut1 o).tagEn = true)) ∧
    (∃ (s : State) (c : Cmd) (o : Fin 128), (Ready s c 2053) ∧ (s.ofHandle c.handle.toNat = some o) ∧ ((s.aut1 o).tagEn = false)) :=
  ⟨⟨(({ live with glb.phase := Phase.running, aut.en := true } : State)|>.onAut 0 (fun x => { x with tagEn := true })), 0,
    by decide +kernel⟩,
   ⟨live, 0, by decide +kernel⟩,
   ⟨(({ live with glb.phase := Phase.running, aut.en := true } : State) |>.onAut (0) (fun x => { x with tagEn := true }) |>.onCtx (0)
     (fun x => { x with pilot := 0 }) |>.onAut (0) (fun x => { x with reqAt := none })), 0, by decide +kernel⟩,
   ⟨(({ live with glb.phase := Phase.running } : State) |>.onAut (0) (fun x => { x with reqAt := some (0) }) |>.onAut (0) (fun x =>
     { x with waitLong := false })), 0, 0, by decide +kernel⟩,
   ⟨(({ live with glb.phase := Phase.running } : State) |>.onAut (0) (fun x => { x with cableValid := true }) |>.onCtx (0) (fun x =>
     { x with pilot := 0 })), 0, by decide +kernel⟩,
   ⟨fly (wc 2052 []) (live), (wc 2052 []), 0, ready_of (by decide +kernel), by decide +kernel⟩,
   ⟨fly (wc 2052 [1]) (((live : State) |>.onTagJ (0) (fun x => { x with authedOnce := false }))), (wc 2052 [1]), 0, ready_of
     (by decide +kernel), by decide +kernel⟩,
   ⟨fly (wc 2053 []) (((live : State) |>.onAut (0) (fun x => { x with tagEn := true }))), (wc 2053 []), 0, ready_of (by decide +kernel),
     by decide +kernel⟩,
   ⟨fly (wc 2053 []) (((live : State) |>.onAut (0) (fun x => { x with tagEn := false }))), (wc 2053 []), 0, ready_of
     (by decide +kernel), by decide +kernel⟩⟩

theorem witness_InsertionSteps :
    (∃ (s : State) (k : Fin 5), (↑k ≤ s.glb.stage) ∧ (k ≠ 4)) ∧
    (∃ (s : State), (s.glb.phase = Phase.inserting) ∧ (s.glb.stage = 4) ∧ (s.glb.seat = 15) ∧ (s.glb.vinOk = true)) ∧
    (∃ (s : State), (s.glb.phase = Phase.inserting) ∧ (s.glb.stage = 4) ∧ (s.glb.seat = 15) ∧ (s.glb.vinOk = false)) ∧
    (∃ (s : State), (s.glb.vinOk = true) ∧ (s.glb.cabRst = false) ∧ (s.glb.phase = Phase.powerOnReset ∨ s.glb.porDue = true)) ∧
    (∃ (s : State), (s.glb.vinOk = false ∨ s.glb.cabRst = true)) ∧
    (∃ (s : State) (vin : ℕ), (s.glb.phase = Phase.keep) ∧ (s.glb.seat = 15) ∧ (s.glb.stage = 4) ∧ (18000 ≤ vin) ∧ (s.glb.cabRst =
      false)) ∧
    (∃ (s : State) (vin : ℕ), (s.glb.phase = Phase.keep) ∧ (s.glb.seat ≠ 15) ∧ (18000 ≤ vin)) ∧
    (∃ (s : State) (t0 : ℕ), (s.glb.phase = Phase.unpowered) ∧ (s.glb.seatHighSince = some t0)) ∧
    (∃ (s : State), (s.glb.seatHighSince = none)) ∧
    (∃ (s : State) (k : BitVec 4), (k ≠ 0) ∧ (s.glb.phase = Phase.powerOnReset) ∧ (s.glb.insertion = true)) :=
  ⟨⟨live, 0, by decide +kernel⟩,
   ⟨{ live with glb.phase := Phase.inserting, glb.stage := 4, glb.seat := 15, glb.vinOk := true }, by decide +kernel⟩,
   ⟨{ live with glb.phase := Phase.inserting, glb.stage := 4, glb.seat := 15, glb.vinOk := false }, by decide +kernel⟩,
   ⟨{ live with glb.vinOk := true, glb.cabRst := false }, by decide +kernel⟩,
   ⟨{ live with glb.cabRst := true }, by decide +kernel⟩,
   ⟨{ live with glb.phase := Phase.keep, glb.seat := 15, glb.stage := 4, glb.cabRst := false }, 18000, by decide +kernel⟩,
   ⟨{ live with glb.phase := Phase.keep, glb.seat := 0 }, 18000, by decide +kernel⟩,
   ⟨{ live with glb.phase := Phase.unpowered, glb.seatHighSince := some (0) }, 0, by decide +kernel⟩,
   ⟨{ live with glb.seatHighSince := none }, by decide +kernel⟩,
   ⟨{ live with glb.phase := Phase.powerOnReset, glb.insertion := true }, 1, by decide +kernel⟩⟩

theorem witness_LossOfPower :
    (∃ (s : State) (k : BitVec 4), (k ≠ 0) ∧ (s.glb.phase = Phase.running ∨ s.glb.phase = Phase.serviceReset) ∧ (s.glb.porDue = false) ∧
      (s.glb.insertion = false)) ∧
    (∃ (s : State) (vin : ℕ), (s.clocksRun = true) ∧ (s.glb.powerFail = false) ∧ (vin < 16000)) ∧
    (∃ (s : State) (vin : ℕ), (s.clocksRun = false ∨ 16000 ≤ vin)) ∧
    (∃ (s : State), (s.glb.phase = Phase.running ∨ s.glb.phase = Phase.serviceReset)) ∧
    (∃ (s : State) (low : Bool), (low = false ∨ s.glb.phase ≠ Phase.running) ∧ (low = false ∨ s.glb.phase ≠ Phase.serviceReset)) ∧
    (∃ (s : State), (s.glb.phase = Phase.running ∨ s.glb.phase = Phase.serviceReset)) ∧
    (∃ (s : State), (s.glb.phase = Phase.removal)) ∧
    (∃ (s : State) (vin : ℕ), (s.glb.phase = Phase.running ∨ s.glb.phase = Phase.serviceReset) ∧ (s.glb.powerFail = true) ∧ (18000 ≤
      vin) ∧ (s.keep.openOutage.isSome = true)) ∧
    (∃ (s : State) (vin : ℕ), (s.glb.phase = Phase.running ∨ s.glb.phase = Phase.serviceReset) ∧ (s.glb.powerFail = false ∨ vin <
      17500)) ∧
    (∃ (s : State) (k : Fin 5), (↑k = 0 ∨ s.glb.stage < ↑k)) ∧
    (∃ (s : State) (k : Fin 5), (1 ≤ ↑k) ∧ (↑k ≤ 2) ∧ (↑k ≤ s.glb.stage)) ∧
    (∃ (s : State) (k : Fin 5), (s.glb.phase = Phase.running ∨ s.glb.phase = Phase.serviceReset) ∧ (s.glb.porDue = false) ∧
      (s.glb.insertion = false) ∧ (3 ≤ ↑k) ∧ (↑k ≤ s.glb.stage)) ∧
    (∃ (s : State) (k : Fin 5), (s.glb.phase = Phase.running ∨ s.glb.phase = Phase.serviceReset ∨ s.glb.phase = Phase.powerOnReset) ∧
      (s.glb.insertion = true) ∧ (3 ≤ ↑k) ∧ (↑k ≤ s.glb.stage)) :=
  ⟨⟨{ live with glb.porDue := false, glb.insertion := false }, 1, by decide +kernel⟩,
   ⟨{ live with glb.powerFail := false }, 0, by decide +kernel⟩,
   ⟨live, 16000, by decide +kernel⟩,
   ⟨live, by decide +kernel⟩,
   ⟨live, false, by decide +kernel⟩,
   ⟨live, by decide +kernel⟩,
   ⟨{ live with glb.phase := Phase.removal }, by decide +kernel⟩,
   ⟨{ live with glb.powerFail := true, keep.openOutage := some 0 }, 18000, by decide +kernel⟩,
   ⟨live, 0, by decide +kernel⟩,
   ⟨live, 0, by decide +kernel⟩,
   ⟨live, 1, by decide +kernel⟩,
   ⟨{ live with glb.porDue := false, glb.insertion := false }, 3, by decide +kernel⟩,
   ⟨{ live with glb.insertion := true }, 3, by decide +kernel⟩⟩

theorem witness_ModuleSensors :
    (∃ (s : State), (s.clocksRun = true)) ∧
    (∃ (s : State) (slot : BitVec 2) (side : Bool) (dbg : Bool), (s.clocksRun = true) ∧ (slot = s.glb.slot) ∧ (side = s.glb.side) ∧ (dbg
      = s.glb.dbg)) ∧
    (∃ (s : State) (slot : BitVec 2) (side : Bool) (dbg : Bool), (s.clocksRun = true) ∧ (slot ≠ s.glb.slot ∨ side ≠ s.glb.side ∨ dbg ≠
      s.glb.dbg)) ∧
    (∃ (s : State) (low : Bool), (low = false ∨ s.glb.aonOnBattery = false)) ∧
    (∃ (s : State), (s.glb.aonOnBattery = true)) ∧
    (∃ (s : State) (temp : ℤ), (s.clocksRun = true) ∧ (11000 ≤ temp) ∧ (temp < 12500) ∧ (s.glb.junctionHot = false) ∧ (s.tie.role ≠
      PairRole.standby)) ∧
    (∃ (s : State) (temp : ℤ), (s.clocksRun = true) ∧ (temp < 10500)) ∧
    (∃ (s : State) (temp : ℤ), (10500 ≤ temp) ∧ (temp < 11000 ∨ s.glb.junctionHot = true) ∧ (temp < 12500)) ∧
    (∃ (s : State) (temp : ℤ), (s.clocksRun = true) ∧ (12500 ≤ temp)) :=
  ⟨⟨live, by decide +kernel⟩,
   ⟨live, _, _, _, by decide +kernel, rfl, rfl, rfl⟩,
   ⟨live, 1, false, false, by decide +kernel⟩,
   ⟨live, false, by decide +kernel⟩,
   ⟨{ live with glb.aonOnBattery := true }, by decide +kernel⟩,
   ⟨{ live with glb.junctionHot := false }, 11000, by decide +kernel⟩,
   ⟨live, 0, by decide +kernel⟩,
   ⟨live, 10500, by decide +kernel⟩,
   ⟨live, 12500, by decide +kernel⟩⟩

theorem witness_KiteSending :
    (∃ (s : State), (nextKite s = none ∨ kiteSends s = false)) ∧
    (∃ (s : State) (u : State) (x : KiteOut), (nextKite s = some x) ∧ (kiteSends s = true) ∧ (u = (slotStart s x.frame.pri).2.toTick
      (slotStart s x.frame.pri).1) ∧ (guardEnd u = none)) ∧
    (∃ (s : State) (u : State) (x : KiteOut) (m : ℕ), (nextKite s = some x) ∧ (kiteSends s = true) ∧ (u = (slotStart s
      x.frame.pri).2.toTick (slotStart s x.frame.pri).1) ∧ (guardEnd u = some m)) ∧
    (∃ (x : KiteOut), (x.frame.bcast = true)) ∧
    (∃ (s : State) (x : KiteOut), (x.frame.bcast = false) ∧ ((s.node x.frame.dest).reachable = false)) ∧
    (∃ (s : State) (x : KiteOut), (x.frame.bcast = false) ∧ ((s.node x.frame.dest).reachable = true) ∧ (x.frame.ackReq = true)) ∧
    (∃ (s : State) (k : BitVec 128), ((sendKey s).1 = some k)) ∧
    (∃ (s : State), ((sendKey s).1 = none)) ∧
    (∃ (s : State), (kiteSends s = true) ∧ (s.kit.timeSrc = true) ∧ (s.tim.legalState = LegalState.synced)) ∧
    (∃ (s : State), (kiteSends s = false ∨ s.kit.timeSrc = false ∨ s.tim.legalState ≠ LegalState.synced)) ∧
    (∃ (s : State) (x : KiteOut) (a : ℕ), (List.find? (fun y => y.sentAt.isSome) s.kit.outbox = some x) ∧ (x.sentAt = some a) ∧
      (s.glb.phase = Phase.running) ∧ (x.retries < 7)) ∧
    (∃ (s : State) (x : KiteOut) (a : ℕ), (List.find? (fun y => y.sentAt.isSome) s.kit.outbox = some x) ∧ (x.sentAt = some a) ∧
      (s.glb.phase = Phase.running) ∧ (7 ≤ x.retries)) ∧
    (∃ (s : State) (c : Cmd) (n : Fin 64), (Ready s c 2304) ∧ (kiteCmdNode c = n) ∧ (kiteSends s = true) ∧ ((s.node n).reachable = true)
      ∧ (n ≠ s.kit.nodeId)) ∧
    (∃ (s : State) (c : Cmd), (Ready s c 2304) ∧ (kiteSends s = false ∨ (s.node (kiteCmdNode c)).reachable = false)) ∧
    (∃ (s : State) (c : Cmd) (n : Fin 64), (Ready s c 2305) ∧ (kiteCmdNode c = n) ∧ ((s.node n).neighbour = true)) ∧
    (∃ (s : State) (c : Cmd), (Ready s c 2305) ∧ ((s.node (kiteCmdNode c)).neighbour = false)) :=
  ⟨⟨live, by decide +kernel⟩,
   ⟨(({ kiting with kit.outbox := [ko0], tim.mains := 0x1000, tim.tick := 10 ^ 15 } : State)|>.onQ 289 (fun x =>
     { x with packets := [pkt0] })), _, ko0, by decide +kernel, by decide +kernel, rfl, slot_past (by decide +kernel)
     (by decide +kernel) (by decide +kernel) (by decide +kernel)⟩,
   ⟨(({ kiting with kit.outbox := [ko0], tim.tick := 10 ^ 15 } : State)|>.onQ 289 (fun x => { x with packets := [pkt0] })), _, ko0,
     0x0400, by decide +kernel, by decide +kernel, rfl, slot_past (by decide +kernel) (by decide +kernel) (by decide +kernel)
     (by decide +kernel)⟩,
   ⟨ko0, by decide +kernel⟩,
   ⟨((live : State) |>.onNode (ko1).frame.dest (fun x => { x with reachable := false })), ko1, by decide +kernel⟩,
   ⟨((live : State) |>.onNode (ko1).frame.dest (fun x => { x with reachable := true })|>.onNode 1 (fun x =>
     { x with reachable := true })), ko1, by decide +kernel⟩,
   ⟨kiting, 0, by decide +kernel⟩,
   ⟨live, by decide +kernel⟩,
   ⟨{ kiting with kit.timeSrc := true, tim.legalState := LegalState.synced }, by decide +kernel⟩,
   ⟨live, by decide +kernel⟩,
   ⟨{ live with glb.phase := Phase.running, kit.outbox := [(⟨kf0, 0, some 0⟩)] }, ⟨kf0, 0, some 0⟩, 0, by decide +kernel⟩,
   ⟨{ live with glb.phase := Phase.running, kit.outbox := [(⟨kf0, 7, some 0⟩)] }, ⟨kf0, 7, some 0⟩, 0, by decide +kernel⟩,
   ⟨fly (wc 2304 [1]) (((kiting : State) |>.onNode (1) (fun x => { x with reachable := true }))), (wc 2304 [1]), 1, ready_of
     (by decide +kernel), by decide +kernel⟩,
   ⟨fly (wc 2304 []) (live), (wc 2304 []), ready_of (by decide +kernel), by decide +kernel⟩,
   ⟨fly (wc 2305 []) (((live : State) |>.onNode (0) (fun x => { x with neighbour := true }))), (wc 2305 []), 0, ready_of
     (by decide +kernel), by decide +kernel⟩,
   ⟨fly (wc 2305 []) (((live : State) |>.onNode (kiteCmdNode ((wc 2305 []))) (fun x => { x with neighbour := false }))), (wc 2305 []),
     ready_of (by decide +kernel), by decide +kernel⟩⟩

theorem witness_KiteReceiving :
    (∃ (s : State), (kiteHears s = false)) ∧
    (∃ (s : State) (r : KiteRx), (kiteHears s = true) ∧ (kiteSound r.bytes = false)) ∧
    (∃ (s : State) (u : State) (r : KiteRx) (f : KiteFrame), (kiteHears s = true) ∧ (kiteSound r.bytes = true) ∧ (u =
      { s with kit := have __src := s.kit; { __src with idleAt := s.now } }) ∧ ((tryKeys u r.bytes).1 = some f)) ∧
    (∃ (s : State) (u : State) (r : KiteRx), (kiteHears s = true) ∧ (kiteSound r.bytes = true) ∧ (u =
      { s with kit := have __src := s.kit; { __src with idleAt := s.now } }) ∧ ((tryKeys u r.bytes).1 = none) ∧ ((tryKeys u r.bytes).2.1
      = false)) ∧
    (∃ (s : State) (u : State) (r : KiteRx), (kiteHears s = true) ∧ (kiteSound r.bytes = true) ∧ (u =
      { s with kit := have __src := s.kit; { __src with idleAt := s.now } }) ∧ ((tryKeys u r.bytes).1 = none) ∧ ((tryKeys u r.bytes).2.1
      = true)) ∧
    (∃ (s : State), (s.tie.role ≠ PairRole.standby)) ∧
    (∃ (s : State) (r : KiteIn), (fcntNew s r.f = false)) ∧
    (∃ (s : State) (r : KiteIn), (fcntNew s r.f = true) ∧ (r.f.typ = 0 ∨ 8 < r.f.typ.toNat)) ∧
    (∃ (s : State) (r : KiteIn), (fcntNew s r.f = true) ∧ (r.f.typ ≠ 0) ∧ (r.f.typ.toNat ≤ 8) ∧ (r.f.longEnough = true)) ∧
    (∃ (s : State) (r : KiteIn), (r.f.tx = s.kit.nodeId) ∧ (r.f.serial ≠ s.keep.serial) ∧ (r.f.serial ≠ s.tie.partner) ∧
      (r.f.serial.toNat < s.keep.serial.toNat)) ∧
    (∃ (s : State) (r : KiteIn), (r.f.tx = s.kit.nodeId) ∧ (r.f.serial ≠ s.keep.serial) ∧ (r.f.serial ≠ s.tie.partner) ∧
      (s.keep.serial.toNat ≤ r.f.serial.toNat)) ∧
    (∃ (s : State) (f : KiteFrame), (f.dest = s.kit.nodeId) ∧ ((s.node f.orig).seqs.contains f.seq = true)) ∧
    (∃ (s : State) (f : KiteFrame), (f.dest ≠ s.kit.nodeId) ∧ (f.hops = 0)) ∧
    (∃ (s : State) (f : KiteFrame), (f.dest ≠ s.kit.nodeId) ∧ (f.hops ≠ 0)) ∧
    (∃ (s : State) (n : Fin 64), (kiteHears s = true) ∧ ((s.node n).neighbour = true)) ∧
    (∃ (s : State) (n : Fin 64), (kiteHears s = false ∨ (s.node n).neighbour = false)) ∧
    (∃ (s : State) (n : Fin 64) (x : BitVec 64) (a : ℕ), (kiteHears s = true) ∧ ((s.node n).newSerial = some (x, a))) ∧
    (∃ (s : State) (n : Fin 64), ((s.node n).newSerial = none)) ∧
    (∃ (s : State) (u : State), (u = inOrder MarkAct.kite s) ∧ (u.clocksRun = false ∨ u.shr.kiteEn = false)) ∧
    (∃ (s : State) (u : State), (u = inOrder MarkAct.kite s) ∧ (u.clocksRun = true) ∧ (u.shr.kiteEn = true) ∧ (List.find? (fun m =>
      m.owner == MarkOwner.kite) u.tim.marks = none) ∧ (u.markFree = true)) ∧
    (∃ (s : State) (u : State) (m : Mark), (u = inOrder MarkAct.kite s) ∧ (u.clocksRun = true) ∧ (u.shr.kiteEn = true) ∧ (List.find?
      (fun m => m.owner == MarkOwner.kite) u.tim.marks = some m) ∧ (kiteSends u = false) ∧ (((u.toMains m.value).dropMark MarkOwner.kite
      0).markFree = true)) ∧
    (∃ (s : State) (u : State) (v : State) (m : Mark), (u = inOrder MarkAct.kite s) ∧ (u.clocksRun = true) ∧ (u.shr.kiteEn = true) ∧
      (List.find? (fun m => m.owner == MarkOwner.kite) u.tim.marks = some m) ∧ (v = (((u.toMains m.value).dropMark MarkOwner.kite
      0).setMark MarkOwner.kite (max (m.value + 65536 * u.cfg.kitePeriod) (nextApply u (u.toMains m.value).tim.mains)) 0).1) ∧
      (kiteSends v = true)) :=
  ⟨⟨live, by decide +kernel⟩,
   ⟨{ live with kit.en := true }, rx0, by decide +kernel⟩,
   ⟨kiting, _, sealed0, kf0, by decide +kernel, by decide +kernel, rfl, by decide +kernel⟩,
   ⟨{ live with kit.en := true }, _, sealed0, by decide +kernel, by decide +kernel, rfl, by decide +kernel⟩,
   ⟨kiting, _, sealed1, by decide +kernel, by decide +kernel, rfl, by decide +kernel⟩,
   ⟨live, by decide +kernel⟩,
   ⟨{ live with kit.seen := [(0, 5)] }, ⟨kf0, 0, 0, 0⟩, by decide +kernel⟩,
   ⟨live, ⟨{ kf0 with typ := 0 }, 0, 0, 0⟩, by decide +kernel⟩,
   ⟨live, ⟨{ kf0 with payload := [0, 0, 0, 0] }, 0, 0, 0⟩, by decide +kernel⟩,
   ⟨{ live with keep.serial := 5, tie.partner := 6 }, ⟨kf0, 0, 0, 0⟩, by decide +kernel⟩,
   ⟨live, ⟨{ kf0 with serial := 7 }, 0, 0, 0⟩, by decide +kernel⟩,
   ⟨((live : State)|>.onNode 0 (fun x => { x with seqs := [0] })), kf0, by decide +kernel⟩,
   ⟨live, { kf0 with dest := 1 }, by decide +kernel⟩,
   ⟨live, { kf0 with dest := 1, hops := 1 }, by decide +kernel⟩,
   ⟨(({ live with kit.en := true } : State) |>.onNode (0) (fun x => { x with neighbour := true })), 0, by decide +kernel⟩,
   ⟨live, 0, by decide +kernel⟩,
   ⟨(({ live with kit.en := true } : State) |>.onNode (0) (fun x => { x with newSerial := some ((0), (0)) })), 0, 0, 0,
     by decide +kernel⟩,
   ⟨((live : State) |>.onNode (0) (fun x => { x with newSerial := none })), 0, by decide +kernel⟩,
   ⟨live, _, rfl, by decide +kernel⟩,
   ⟨{ live with shr.kiteEn := true }, _, rfl, by decide +kernel⟩,
   ⟨{ live with shr.kiteEn := true, tim.marks := [(⟨.kite, 0, false, 0, false⟩)] }, _, ⟨.kite, 0, false, 0, false⟩, rfl,
     by decide +kernel⟩,
   ⟨{ kiting with shr.kiteEn := true, tim.marks := [(⟨.kite, 0, false, 0, false⟩)] }, _, _, ⟨.kite, 0, false, 0, false⟩, rfl,
     by decide +kernel, by decide +kernel, by decide +kernel, rfl, by decide +kernel⟩⟩

theorem witness_MainsAndReference :
    (∃ (s : State), (s.clocksRun = true) ∧ (s.tim.refHoldover = false)) ∧
    (∃ (s : State), (s.clocksRun = false ∨ s.tim.refHoldover = true)) ∧
    (∃ (s : State), (s.clocksRun = true) ∧ (s.tim.refHoldover = true)) ∧
    (∃ (s : State), (s.clocksRun = false ∨ s.tim.refHoldover = false)) ∧
    (∃ (s : State) (a : ℕ) (b : ℕ), (s.clocksRun = true) ∧ (s.tim.mainsState = MainsState.locked) ∧ (s.tim.source = false) ∧ (a < 35000)
      ∧ (b < 35000)) ∧
    (∃ (s : State) (a : ℕ) (b : ℕ), (s.clocksRun = true) ∧ (s.tim.mainsState = MainsState.locked) ∧ (s.tim.source = false) ∧ (35000 ≤ a
      ∨ 35000 ≤ b)) ∧
    (∃ (s : State) (a : ℕ) (b : ℕ), (s.clocksRun = true) ∧ (s.tim.mainsState = MainsState.locked) ∧ (s.tim.source = false) ∧ (a < 45000
      ∨ 65000 < a) ∧ (b < 45000 ∨ 65000 < b)) ∧
    (∃ (s : State) (a : ℕ) (b : ℕ), (s.clocksRun = true) ∧ (s.tim.mainsState = MainsState.locked) ∧ (s.tim.source = false) ∧ (45000 ≤ a
      ∧ a ≤ 65000 ∨ 45000 ≤ b ∧ b ≤ 65000)) ∧
    (∃ (s : State), (s.clocksRun = false ∨ s.tim.mainsState ≠ MainsState.locked ∨ s.tim.source = true)) ∧
    (∃ (s : State), (s.tie.role ≠ PairRole.standby)) ∧
    (∃ (s : State) (l : List SrcCycle) (c : SrcCycle) (a : BitVec 16), (s.clocksRun = true) ∧ (s.tim.mainsState ≠ MainsState.locked) ∧
      (s.tim.source = false) ∧ (l.getLast? = some c) ∧ (acquisitionTest l = true) ∧ (angleCorrection s a ≤ 0)) ∧
    (∃ (s : State) (l : List SrcCycle), (s.clocksRun = false ∨ s.tim.mainsState = MainsState.locked ∨ s.tim.source = true ∨
      acquisitionTest l = false)) ∧
    (∃ (c : ℤ), (c < 0)) ∧
    (∃ (s : State), (s.tie.role ≠ PairRole.standby)) :=
  ⟨⟨{ live with tim.refHoldover := false }, by decide +kernel⟩,
   ⟨{ live with tim.refHoldover := true }, by decide +kernel⟩,
   ⟨{ live with tim.refHoldover := true }, by decide +kernel⟩,
   ⟨live, by decide +kernel⟩,
   ⟨{ live with tim.mainsState := MainsState.locked, tim.source := false }, 0, 0, by decide +kernel⟩,
   ⟨{ live with tim.mainsState := MainsState.locked, tim.source := false }, 35000, 0, by decide +kernel⟩,
   ⟨{ live with tim.mainsState := MainsState.locked, tim.source := false }, 0, 0, by decide +kernel⟩,
   ⟨{ live with tim.mainsState := MainsState.locked, tim.source := false }, 45000, 0, by decide +kernel⟩,
   ⟨live, by decide +kernel⟩,
   ⟨live, by decide +kernel⟩,
   ⟨{ live with tim.source := false }, List.replicate 9 sc1, sc1, 0, by decide +kernel⟩,
   ⟨live, [], by decide +kernel⟩,
   ⟨-1, by decide +kernel⟩,
   ⟨live, by decide +kernel⟩⟩

theorem witness_LegalTimeKeeping :
    (∃ (s : State) (utc : ℕ) (a : ℕ), (s.clocksRun = true) ∧ ((↑utc - legalAt s a).natAbs ≤ 2 ^ 24)) ∧
    (∃ (s : State) (utc : ℕ) (a : ℕ), (s.clocksRun = true) ∧ (2 ^ 24 < (↑utc - legalAt s a).natAbs) ∧ ((↑utc - legalAt s a).natAbs ≤
      s.cfg.maxStep * 86400 * 2 ^ 24 ∨ s.tim.legalState = LegalState.unsync)) ∧
    (∃ (s : State) (utc : ℕ) (a : ℕ), (s.clocksRun = true) ∧ (2 ^ 24 < (↑utc - legalAt s a).natAbs) ∧ (s.cfg.maxStep * 86400 * 2 ^ 24 <
      (↑utc - legalAt s a).natAbs) ∧ (s.tim.legalState ≠ LegalState.unsync)) ∧
    (∃ (s : State) (role : BitVec 3), (s.clocksRun = false ∨ role ≠ 1)) ∧
    (∃ (s : State), (s.clocksRun = true) ∧ (s.tim.slewing = true)) ∧
    (∃ (s : State), (s.tim.slewing = false)) ∧
    (∃ (s : State), (s.clocksRun = true) ∧ (s.tim.legalState = LegalState.synced)) ∧
    (∃ (s : State), (s.tim.legalState ≠ LegalState.synced)) ∧
    (∃ (s : State) (e : LocalEntry), (s.clocksRun = true) ∧ (s.tim.localEndPosted = false) ∧ (s.tim.localTab.getLast? = some e) ∧
      (s.tie.role ≠ PairRole.standby)) ∧
    (∃ (s : State), (s.tim.localEndPosted = true ∨ s.tim.localTab = [])) :=
  ⟨⟨live, 0, 0, by decide +kernel⟩,
   ⟨live, 2 ^ 25, 0, by decide +kernel⟩,
   ⟨{ live with tim.legalState := .synced }, 2 ^ 60, 0, by decide +kernel⟩,
   ⟨live, 0, by decide +kernel⟩,
   ⟨{ live with tim.slewing := true }, by decide +kernel⟩,
   ⟨{ live with tim.slewing := false }, by decide +kernel⟩,
   ⟨{ live with tim.legalState := LegalState.synced }, by decide +kernel⟩,
   ⟨live, by decide +kernel⟩,
   ⟨{ live with tim.localEndPosted := false }, ⟨0, 0, false⟩, by decide +kernel⟩,
   ⟨{ live with tim.localEndPosted := true }, by decide +kernel⟩⟩

theorem witness_TiePorts :
    (∃ (s : State) (p : Fin 4), (s.clocksRun = true) ∧ ((vget s.tie.ports p).up = true)) ∧
    (∃ (s : State) (p : Fin 4), ((vget s.tie.ports p).up = false)) ∧
    (∃ (s : State) (p : Fin 4) (x : TiePeer), (s.clocksRun = true) ∧ ((vget s.tie.ports p).up = false) ∧ (x.clusterN = s.tie.clusterN) ∧
      (x.paired = s.tie.paired) ∧ (x.version = s.upd.cfgActive) ∧ (x.cycle ≤ s.cycle)) ∧
    (∃ (s : State) (p : Fin 4) (x : TiePeer), (s.clocksRun = true) ∧ ((vget s.tie.ports p).up = false) ∧ (s.tie.role ≠ PairRole.standby)
      ∧ (x.clusterN ≠ s.tie.clusterN ∨ x.paired ≠ s.tie.paired ∨ x.version ≠ s.upd.cfgActive)) ∧
    (∃ (s : State) (p : Fin 4), ((vget s.tie.ports p).up = true)) ∧
    (∃ (s : State), (s.clocksRun = true) ∧ (s.tie.role = PairRole.active) ∧ (s.pairLinkUp = true)) ∧
    (∃ (s : State), (sendsTime s = false)) ∧
    (∃ (s : State) (p : Fin 4), (s.clocksRun = false ∨ (vget s.tie.ports p).up = false)) ∧
    (∃ (s : State) (p : Fin 4), (s.clocksRun = true) ∧ ((vget s.tie.ports p).up = true)) ∧
    (∃ (s : State), (s.tie.role = PairRole.standby ∨ s.tie.role = PairRole.joining) ∧ (s.tie.lost = none)) ∧
    (∃ (s : State), (s.tie.role = PairRole.standby)) ∧
    (∃ (s : State), (s.tie.role = PairRole.alone ∨ s.tie.role = PairRole.active)) :=
  ⟨⟨((live : State) |>.upd1 (fun s => { s with tie.ports := vmod s.tie.ports (0) (fun x => { x with up := true }) })), 0,
    by decide +kernel⟩,
   ⟨((live : State) |>.upd1 (fun s => { s with tie.ports := vmod s.tie.ports (0) (fun x => { x with up := false }) })), 0,
     by decide +kernel⟩,
   ⟨((live : State) |>.upd1 (fun s => { s with tie.ports := vmod s.tie.ports (0) (fun x => { x with up := false }) })), 0, ⟨1, 1, false,
     1, false, 0, 0⟩, by decide +kernel⟩,
   ⟨((live : State) |>.upd1 (fun s => { s with tie.ports := vmod s.tie.ports (0) (fun x => { x with up := false }) })), 0, ⟨1, 1, false,
     3, false, 0, 0⟩, by decide +kernel⟩,
   ⟨((live : State) |>.upd1 (fun s => { s with tie.ports := vmod s.tie.ports (0) (fun x => { x with up := true }) })), 0,
     by decide +kernel⟩,
   ⟨(({ live with tie.role := PairRole.active } : State) |>.onTiePort 3 (fun x => { x with up := true })), by decide +kernel⟩,
   ⟨{ live with tie.role := .standby }, by decide +kernel⟩,
   ⟨live, 0, by decide +kernel⟩,
   ⟨((live : State) |>.upd1 (fun s => { s with tie.ports := vmod s.tie.ports (0) (fun x => { x with up := true }) })), 0,
     by decide +kernel⟩,
   ⟨{ live with tie.lost := none, tie.role := .standby }, by decide +kernel⟩,
   ⟨{ live with tie.role := PairRole.standby }, by decide +kernel⟩,
   ⟨live, by decide +kernel⟩⟩

theorem witness_PairRoles :
    (∃ (s : State) (u : State), (s.clocksRun = true) ∧ (s.tie.role = PairRole.standby) ∧ (u = s.toTick (s.tie.lastBeat + 8000)) ∧
      (listenLanes u ≠ []) ∧ ((listenLanes u).length < 2 * (List.filter (laneFree u) (listenLanes u)).length)) ∧
    (∃ (s : State), (s.clocksRun = true) ∧ (s.tie.role = PairRole.standby) ∧ (listenLanes (s.toTick (s.tie.lastBeat + 8000)) = [])) ∧
    (∃ (s : State), (s.clocksRun = true) ∧ (s.tie.role = PairRole.active) ∧ (s.tie.partnerRole ≠ PairRole.alone)) ∧
    (∃ (s : State), (s.tie.role = PairRole.alone ∨ s.tie.role = PairRole.joining)) ∧
    (∃ (s : State), (s.clocksRun = true) ∧ (s.tie.role = PairRole.joining) ∧ (s.pairLinkUp = true) ∧ (s.tie.partnerRole ≠
      PairRole.active) ∧ (s.glb.side = false)) ∧
    (∃ (s : State), (s.clocksRun = true) ∧ (s.tie.role = PairRole.joining) ∧ (s.pairLinkUp = true) ∧ (s.tie.partnerRole ≠
      PairRole.active) ∧ (s.glb.side = true)) ∧
    (∃ (s : State), (s.clocksRun = true) ∧ (s.tie.role = PairRole.joining) ∧ (s.pairLinkUp = false) ∧ (s.glb.side = false)) ∧
    (∃ (s : State), (s.tie.role ≠ PairRole.joining)) ∧
    (∃ (s : State) (k : BitVec 4) (a : ℕ), (s.tie.lost = some (k, a)) ∧ (s.glb.phase = Phase.running) ∧ (s.tie.role = PairRole.active))
      ∧
    (∃ (s : State), (s.tie.lost = none)) ∧
    (∃ (s : State) (l : Fin 128) (a : ℕ), ((s.lane l).foreignSince = some a) ∧ (s.tie.role = PairRole.active) ∧ ((s.lane l).link =
      LinkState.up)) ∧
    (∃ (s : State) (l : Fin 128), ((s.lane l).foreignSince = none)) ∧
    (∃ (s : State) (v : BitVec 32) (f : ℕ), (s.glb.phase = Phase.running) ∧ (s.pairLinkUp = true) ∧ (s.tie.role = PairRole.joining) ∧
      (s.saf.guardOk = true) ∧ (v = s.upd.cfgActive) ∧ (f = fwMajorOf s) ∧ (s.tie.partnerRole = PairRole.active)) ∧
    (∃ (s : State) (v : BitVec 32) (f : ℕ), (s.glb.phase = Phase.running) ∧ (s.pairLinkUp = true) ∧ (s.tie.role = PairRole.joining) ∧
      (s.saf.guardOk = true) ∧ (v ≠ s.upd.cfgActive ∨ f ≠ fwMajorOf s)) ∧
    (∃ (s : State) (c : Cmd), (Ready s c 2560) ∧ (s.tie.role = PairRole.active) ∧ (s.tie.partnerReady = true) ∧ (s.tie.handing = false))
      ∧
    (∃ (s : State) (c : Cmd), (Ready s c 2560) ∧ (s.tie.role = PairRole.alone ∨ s.tie.role = PairRole.joining ∨ s.tie.role =
      PairRole.active ∧ s.tie.partnerReady = false)) ∧
    (∃ (s : State) (c : Cmd), (Ready s c 2560) ∧ (s.tie.role = PairRole.standby)) ∧
    (∃ (s : State), (s.tie.handing = false)) ∧
    (∃ (s : State) (k : Fin 16 × BitVec 32), (s.tie.handing = true) ∧ (s.tie.role = PairRole.active) ∧ (s.tie.partnerReady = false) ∧
      (s.tie.handCmd = some k) ∧ (vget s.upd.switchDue 0 = none) ∧ (s.upd.pairFw = none) ∧ (s.upd.recoverDue = false) ∧ (s.tie.resetDue
      = false)) ∧
    (∃ (s : State), (s.tie.handing = true) ∧ (s.tie.role = PairRole.active) ∧ (s.tie.partnerReady = true) ∧ (s.pairLinkUp = true) ∧
      (vget s.upd.switchDue 0 = none) ∧ (s.upd.pairFw = none) ∧ (s.upd.recoverDue = false) ∧ (s.tie.resetDue = false)) ∧
    (∃ (s : State) (c : Cmd), (Ready s c 2561)) ∧
    (∃ (s : State) (c : Cmd), (Ready s c 4096)) ∧
    (∃ (s : State) (c : Cmd) (k : ℕ), (Ready s c 4097) ∧ (fld (c.p 0) 0 4 = k) ∧ (k ≠ 3) ∧ (k ≠ 4)) ∧
    (∃ (s : State) (c : Cmd) (k : ℕ) (e : TallyEntry), (Ready s c 4097) ∧ (fld (c.p 0) 0 4 = k) ∧ (k = 3 ∨ k = 4) ∧ (e ∈ s.tie.tally) ∧
      (↑e.cls = k) ∧ (e.lasting = true)) :=
  ⟨⟨(({ live with tie.role := PairRole.standby } : State)|>.onLane 0 (fun x => { x with link := .listen, noCond := true })), _,
    by decide +kernel, by decide +kernel, rfl, by decide +kernel⟩,
   ⟨{ live with tie.role := PairRole.standby }, by decide +kernel⟩,
   ⟨{ live with tie.role := PairRole.active, tie.partnerRole := .standby }, by decide +kernel⟩,
   ⟨live, by decide +kernel⟩,
   ⟨(({ live with tie.role := PairRole.joining, glb.side := false } : State) |>.onTiePort 3 (fun x => { x with up := true })),
     by decide +kernel⟩,
   ⟨(({ live with tie.role := PairRole.joining, glb.side := true } : State) |>.onTiePort 3 (fun x => { x with up := true })),
     by decide +kernel⟩,
   ⟨{ live with tie.role := PairRole.joining, glb.side := false }, by decide +kernel⟩,
   ⟨live, by decide +kernel⟩,
   ⟨{ live with tie.lost := some ((0), (0)), glb.phase := Phase.running, tie.role := PairRole.active }, 0, 0, by decide +kernel⟩,
   ⟨{ live with tie.lost := none }, by decide +kernel⟩,
   ⟨(({ live with tie.role := PairRole.active } : State) |>.onLane (0) (fun x => { x with foreignSince := some (0) }) |>.onLane (0) (fun
     x => { x with link := LinkState.up })), 0, 0, by decide +kernel⟩,
   ⟨((live : State) |>.onLane (0) (fun x => { x with foreignSince := none })), 0, by decide +kernel⟩,
   ⟨(({ live with glb.phase := Phase.running, tie.role := PairRole.joining, saf.guardOk := true, tie.partnerRole := PairRole.active } :
     State) |>.onTiePort 3 (fun x => { x with up := true })), _, _, by decide +kernel, by decide +kernel, by decide +kernel,
     by decide +kernel, rfl, rfl, by decide +kernel⟩,
   ⟨(({ live with glb.phase := Phase.running, tie.role := PairRole.joining, saf.guardOk := true } : State) |>.onTiePort 3 (fun x =>
     { x with up := true })), 0, 99, by decide +kernel⟩,
   ⟨fly (wc 2560 []) ({ live with tie.role := PairRole.active, tie.partnerReady := true, tie.handing := false }), (wc 2560 []), ready_of
     (by decide +kernel), by decide +kernel⟩,
   ⟨fly (wc 2560 []) (live), (wc 2560 []), ready_of (by decide +kernel), by decide +kernel⟩,
   ⟨fly (wc 2560 []) ({ live with tie.role := PairRole.standby }), (wc 2560 []), ready_of (by decide +kernel), by decide +kernel⟩,
   ⟨{ live with tie.handing := false }, by decide +kernel⟩,
   ⟨(({ live with tie.handing := true, tie.role := PairRole.active, tie.partnerReady := false, tie.handCmd := some ((0, 0)), upd.pairFw := none, upd.recoverDue := false, tie.resetDue := false }
     : State) |>.upd1 (fun s => { s with upd.switchDue := vmod s.upd.switchDue 0 (fun _ => none) })), (0, 0), by decide +kernel⟩,
   ⟨(({ live with tie.handing := true, tie.role := PairRole.active, tie.partnerReady := true, upd.pairFw := none, upd.recoverDue := false, tie.resetDue := false }
     : State) |>.onTiePort 3 (fun x => { x with up := true }) |>.upd1 (fun s =>
     { s with upd.switchDue := vmod s.upd.switchDue 0 (fun _ => none) })), by decide +kernel⟩,
   ⟨fly (wc 2561 []) (live), (wc 2561 []), ready_of (by decide +kernel)⟩,
   ⟨fly (wc 4096 []) (live), (wc 4096 []), ready_of (by decide +kernel)⟩,
   ⟨fly (wc 4097 []) (live), (wc 4097 []), 0, ready_of (by decide +kernel), by decide +kernel⟩,
   ⟨fly (wc 4097 [3]) ({ live with tie.tally := [(⟨3, 0, [], true⟩)] }), (wc 4097 [3]), 3, ⟨3, 0, [], true⟩, ready_of
     (by decide +kernel), by decide +kernel⟩⟩

theorem witness_PowerStates :
    (∃ (s : State) (d : Fin 19), (6 ≤ ↑d) ∧ ((s.domain d).up = true) ∧ (s.voted d = false) ∧ (s.glb.phase = Phase.running) ∧
      (s.pwr.state ≠ PwrState.entering) ∧ (s.tie.role ≠ PairRole.standby) ∧ (sliceHolds s d = false)) ∧
    (∃ (s : State) (d : Fin 19), (↑d < 6 ∨ (s.domain d).up = false ∨ s.tie.role = PairRole.standby ∨ sliceHolds s d = true)) ∧
    (∃ (s : State) (d : Fin 19), (6 ≤ ↑d) ∧ ((s.domain d).up = false) ∧ (s.voted d = true) ∧ (s.glb.phase = Phase.running)) ∧
    (∃ (s : State) (k : Fin 9), (s.glb.phase = Phase.running) ∧ (s.pwr.state = PwrState.hubQuiet) ∧ (↑k = 2 ∨ 3 ≤ ↑k ∧
      s.cfg.wakeMask.getLsbD ↑k = true)) ∧
    (∃ (s : State) (k : Fin 9), (s.glb.phase = Phase.running) ∧ (s.pwr.state = PwrState.entering) ∧ (s.pwr.latchedWake = none) ∧ (↑k = 2
      ∨ 3 ≤ ↑k ∧ s.cfg.wakeMask.getLsbD ↑k = true)) ∧
    (∃ (s : State), (s.pwr.state = PwrState.run)) ∧
    (∃ (s : State), (s.pwr.armed = true) ∧ (s.clocksRun = true) ∧ (s.pwr.quiet = false) ∧ (s.tie.role ≠ PairRole.standby)) ∧
    (∃ (s : State) (a : ℕ), (s.pwr.wakePinSince = some a) ∧ (s.rng.linkUp = true) ∧ (s.rng.d3hot = false)) ∧
    (∃ (s : State) (a : ℕ), (s.pwr.wakePinSince = some a) ∧ (s.rng.linkUp = false ∨ s.rng.d3hot = true)) ∧
    (∃ (s : State), (s.pwr.wakePinSince = none)) ∧
    (∃ (s : State) (c : Cmd) (t : State), (Ready s c 3328) ∧ (s.tie.role ≠ PairRole.standby) ∧ (s.pwr.quiet = false) ∧ (∀ (o : Fin 128),
      blocksQuiet s o = false) ∧ (t = have __src := started s c;
      { __src with pwr := have __src := s.pwr; { __src with state := PwrState.entering, quietFrom := s.pwr.state, quietCmd := some (c.ring, c.index) } })
      ∧ (quietLeft t ≠ [])) ∧
    (∃ (s : State) (c : Cmd), (Ready s c 3328) ∧ (s.tie.role ≠ PairRole.standby) ∧ (s.pwr.quiet = true ∨ ∃ o, blocksQuiet s o = true)) ∧
    (∃ (s : State) (c : Cmd), (Ready s c 3329) ∧ (s.tie.role ≠ PairRole.standby) ∧ (s.pwr.state = PwrState.hubQuiet)) ∧
    (∃ (s : State) (c : Cmd), (Ready s c 3329) ∧ (s.tie.role ≠ PairRole.standby) ∧ (s.pwr.state ≠ PwrState.hubQuiet)) :=
  ⟨⟨(({ live with glb.phase := Phase.running } : State) |>.onDomain (7) (fun x => { x with up := true })), 7, by decide +kernel⟩,
   ⟨live, 0, by decide +kernel⟩,
   ⟨(({ live with glb.phase := Phase.running } : State) |>.onDomain (6) (fun x => { x with up := false })), 6, by decide +kernel⟩,
   ⟨{ live with glb.phase := Phase.running, pwr.state := PwrState.hubQuiet }, 2, by decide +kernel⟩,
   ⟨{ live with glb.phase := Phase.running, pwr.state := PwrState.entering, pwr.latchedWake := none }, 2, by decide +kernel⟩,
   ⟨{ live with pwr.state := PwrState.run }, by decide +kernel⟩,
   ⟨{ live with pwr.armed := true }, by decide +kernel⟩,
   ⟨{ live with pwr.wakePinSince := some (0), rng.linkUp := true, rng.d3hot := false }, 0, by decide +kernel⟩,
   ⟨{ live with pwr.wakePinSince := some (0), rng.linkUp := false }, 0, by decide +kernel⟩,
   ⟨{ live with pwr.wakePinSince := none }, by decide +kernel⟩,
   ⟨fly (wc 3328 []) (live), (wc 3328 []), _, ready_of (by decide +kernel), by decide +kernel, by decide +kernel, by decide +kernel,
     rfl, by decide +kernel⟩,
   ⟨fly (wc 3328 []) (((live : State)|>.onCtx 0 (fun x => { x with pilot := 1 }))), (wc 3328 []), ready_of (by decide +kernel),
     by decide +kernel⟩,
   ⟨fly (wc 3329 []) ({ live with pwr.state := PwrState.hubQuiet }), (wc 3329 []), ready_of (by decide +kernel), by decide +kernel⟩,
   ⟨fly (wc 3329 []) (live), (wc 3329 []), ready_of (by decide +kernel), by decide +kernel⟩⟩

theorem witness_ResetsAndMemoryErrors :
    (∃ (s : State), (s.glb.phase = Phase.running) ∧ (handsFirst s = false) ∧ (vget s.upd.switchDue 0 = none)) ∧
    (∃ (s : State), (s.glb.phase = Phase.serviceReset) ∧ (s.tie.heldReset = false)) ∧
    (∃ (s : State), (s.glb.phase = Phase.serviceReset) ∧ (s.tie.heldReset = true)) ∧
    (∃ (s : State), (s.clocksRun = true)) ∧
    (∃ (s : State), (s.clocksRun = false)) ∧
    (∃ (s : State) (q : Fin 1024), (s.clocksRun = true) ∧ (258 ≤ ↑q ∧ ↑q < 264 ∨ 288 ≤ ↑q) ∧ ((s.poolQ q).staging = [])) ∧
    (∃ (s : State) (q : Fin 1024), (s.clocksRun = true) ∧ (264 ≤ ↑q) ∧ (↑q < 276) ∧ ((s.poolQ q).staging = []) ∧ ((s.poolQ q).packets ≠
      [])) :=
  ⟨⟨(({ live with glb.phase := Phase.running } : State) |>.upd1 (fun s =>
    { s with upd.switchDue := vmod s.upd.switchDue 0 (fun _ => none) })), by decide +kernel⟩,
   ⟨{ live with glb.phase := Phase.serviceReset, tie.heldReset := false }, by decide +kernel⟩,
   ⟨{ live with glb.phase := Phase.serviceReset, tie.heldReset := true }, by decide +kernel⟩,
   ⟨live, by decide +kernel⟩,
   ⟨{ live with glb.phase := .keep }, by decide +kernel⟩,
   ⟨((live : State) |>.onQ (258) (fun x => { x with staging := [] })), 258, by decide +kernel⟩,
   ⟨((live : State) |>.onQ (264) (fun x => { x with staging := [] })|>.onQ 264 (fun x => { x with packets := [pkt0] })), 264,
     by decide +kernel⟩⟩

theorem witness_KeyCommands :
    (∃ (s : State) (c : Cmd) (k : Fin 64) (m : List Byte), (Ready s c 2816) ∧ (keyCmdSlot c = k) ∧ (keyType ↑k ≠ 0) ∧ (k ≠ 5) ∧ (mayLoad
      s k (s.roleOf c) = true) ∧ (s.key.dbgKeys = false) ∧ (stagedKey s k = some m)) ∧
    (∃ (s : State) (c : Cmd) (k : Fin 64), (Ready s c 2816) ∧ (keyCmdSlot c = k) ∧ (keyType ↑k ≠ 0) ∧ (k ≠ 5) ∧ (mayLoad s k (s.roleOf
      c) = true) ∧ (s.key.dbgKeys = false) ∧ (stagedKey s k = none)) ∧
    (∃ (s : State) (c : Cmd) (k : Fin 64), (Ready s c 2816) ∧ (keyCmdSlot c = k) ∧ (keyType ↑k = 0 ∨ k = 5)) ∧
    (∃ (s : State) (c : Cmd) (k : Fin 64), (Ready s c 2817) ∧ (keyCmdSlot c = k) ∧ (keyType ↑k ≠ 0) ∧ (k ≠ 5) ∧ (s.key.dbgKeys = false))
      ∧
    (∃ (s : State) (c : Cmd), (Ready s c 2817) ∧ (keyCmdSlot c = 5 ∨ keyType ↑(keyCmdSlot c) = 0)) ∧
    (∃ (s : State) (c : Cmd) (k : Fin 64), (Ready s c 2818) ∧ (keyCmdSlot c = k) ∧ (keyUses ↑k = 16) ∧ (s.key.dbgKeys = false) ∧
      (s.key.rngOk = true)) ∧
    (∃ (s : State) (c : Cmd), (Ready s c 2818) ∧ (keyUses ↑(keyCmdSlot c) ≠ 16)) ∧
    (∃ (s : State) (c : Cmd) (k : Fin 64), (Ready s c 2819) ∧ (keyCmdSlot c = k) ∧ (c.p2 1 % 64 = 0) ∧ (keyType ↑k ≠ 1) ∧ (s.key.dbgKeys
      = false) ∧ ((s.keySlot k).state = KeyState.valid) ∧ ((s.keySlot k).soundA = true) ∧ ((s.keySlot k).soundB = true)) ∧
    (∃ (s : State) (c : Cmd) (k : Fin 64), (Ready s c 2819) ∧ (keyCmdSlot c = k) ∧ (c.p2 1 % 64 = 0) ∧ (keyType ↑k ≠ 1) ∧ (s.key.dbgKeys
      = false) ∧ ((s.keySlot k).state ≠ KeyState.valid)) ∧
    (∃ (s : State) (c : Cmd), (Ready s c 2820) ∧ (2 ≤ fld (c.p 0) 4 3) ∧ (fld (c.p 0) 4 3 ≤ 5) ∧ (throttled s = false) ∧ (s.key.rngOk =
      true)) ∧
    (∃ (s : State) (c : Cmd), (Ready s c 2820) ∧ (throttled s = true) ∧ (2 ≤ fld (c.p 0) 4 3) ∧ (fld (c.p 0) 4 3 ≤ 5)) ∧
    (∃ (s : State) (c : Cmd) (x : Challenge), (Ready s c 2821) ∧ (throttled s = false) ∧ (s.key.pending = some x) ∧ (x.ring = fin 16
      (fld (c.p 0) 0 4)) ∧ (s.now < x.at_ + 60000000000) ∧ (x.role = 5) ∧ (s.key.dbgKeys = false)) ∧
    (∃ (s : State) (c : Cmd), (Ready s c 2821) ∧ (throttled s = false) ∧ (s.key.pending = none)) ∧
    (∃ (s : State) (c : Cmd) (k : Fin 16) (role : BitVec 3) (n : ℕ) (u : State) (v : State), (Ready s c 2821) ∧ (k = fin 16 (fld (c.p 0)
      0 4)) ∧ (role = (Option.map (fun x => x.role) s.key.pending).getD 0) ∧ (credentialResult s k = (n, u)) ∧ (v = postDev (countFail
      { u with key := have __src := u.key; { __src with credFail := u.key.credFail || n != 0 } } n) 2818 (p8 ↑k ++ p8 role.toNat ++ p8
      n) (some c)) ∧ (n = 0)) ∧
    (∃ (s : State) (c : Cmd) (k : Fin 16) (role : BitVec 3) (n : ℕ) (u : State) (v : State), (Ready s c 2821) ∧ (k = fin 16 (fld (c.p 0)
      0 4)) ∧ (role = (Option.map (fun x => x.role) s.key.pending).getD 0) ∧ (credentialResult s k = (n, u)) ∧ (v = postDev (countFail
      { u with key := have __src := u.key; { __src with credFail := u.key.credFail || n != 0 } } n) 2818 (p8 ↑k ++ p8 role.toNat ++ p8
      n) (some c)) ∧ (n ≠ 0) ∧ (role ≠ 4)) ∧
    (∃ (s : State) (c : Cmd) (k : Fin 16) (role : BitVec 3) (n : ℕ) (u : State) (v : State), (Ready s c 2821) ∧ (k = fin 16 (fld (c.p 0)
      0 4)) ∧ (role = (Option.map (fun x => x.role) s.key.pending).getD 0) ∧ (credentialResult s k = (n, u)) ∧ (v = postDev (countFail
      { u with key := have __src := u.key; { __src with credFail := u.key.credFail || n != 0 } } n) 2818 (p8 ↑k ++ p8 role.toNat ++ p8
      n) (some c)) ∧ (n ≠ 0) ∧ (role = 4)) ∧
    (∃ (s : State) (x : Challenge), (s.key.pending = some x) ∧ (s.clocksRun = true)) ∧
    (∃ (s : State), (s.key.pending = none)) ∧
    (∃ (s : State), (s.clocksRun = true) ∧ (s.key.rngOk = true) ∧ (s.tie.role ≠ PairRole.standby)) ∧
    (∃ (s : State) (a : ℕ), (s.clocksRun = true) ∧ (s.key.rngOk = false) ∧ (s.key.rngFailAt = some a) ∧ (s.tie.role ≠ PairRole.standby))
      ∧
    (∃ (s : State) (a : ℕ), (s.key.rngOk = false) ∧ (s.key.rngFailAt = some a) ∧ (s.now < a + 10000000)) :=
  ⟨⟨fly (wc 2816 []) ((({ live with key.dbgKeys := false } : State)|>.onRing 0 (fun x => { x with role := 3 }))), (wc 2816 []), 0,
    List.replicate 16 0, ready_of (by decide +kernel), by decide +kernel⟩,
   ⟨fly (wc 2816 [6]) ((({ live with key.dbgKeys := false } : State)|>.onRing 0 (fun x => { x with role := 3 }))), (wc 2816 [6]), 6,
     ready_of (by decide +kernel), by decide +kernel⟩,
   ⟨fly (wc 2816 [10]) (live), (wc 2816 [10]), 10, ready_of (by decide +kernel), by decide +kernel⟩,
   ⟨fly (wc 2817 []) ({ live with key.dbgKeys := false }), (wc 2817 []), 0, ready_of (by decide +kernel), by decide +kernel⟩,
   ⟨fly (wc 2817 [5]) (live), (wc 2817 [5]), ready_of (by decide +kernel), by decide +kernel⟩,
   ⟨fly (wc 2818 [16]) ({ live with key.dbgKeys := false, key.rngOk := true }), (wc 2818 [16]), 16, ready_of (by decide +kernel),
     by decide +kernel⟩,
   ⟨fly (wc 2818 []) (live), (wc 2818 []), ready_of (by decide +kernel), by decide +kernel⟩,
   ⟨fly (wc 2819 [5]) ((({ live with key.dbgKeys := false } : State) |>.onKey (5) (fun x => { x with state := KeyState.valid }) |>.onKey
     (5) (fun x => { x with soundA := true }) |>.onKey (5) (fun x => { x with soundB := true }))), (wc 2819 [5]), 5, ready_of
     (by decide +kernel), by decide +kernel⟩,
   ⟨fly (wc 2819 [5]) ({ live with key.dbgKeys := false }), (wc 2819 [5]), 5, ready_of (by decide +kernel), by decide +kernel⟩,
   ⟨fly (wc 2820 [0x20]) ({ live with key.rngOk := true }), (wc 2820 [0x20]), ready_of (by decide +kernel), by decide +kernel⟩,
   ⟨fly (wc 2820 [0x20]) ({ live with key.throttleUntil := some (2 ^ 60) }), (wc 2820 [0x20]), ready_of (by decide +kernel),
     by decide +kernel⟩,
   ⟨fly (wc 2821 []) ({ live with key.pending := some (⟨0, 5, 0, 0⟩), key.dbgKeys := false }), (wc 2821 []), ⟨0, 5, 0, 0⟩, ready_of
     (by decide +kernel), by decide +kernel⟩,
   ⟨fly (wc 2821 []) ({ live with key.pending := none }), (wc 2821 []), ready_of (by decide +kernel), by decide +kernel⟩,
   ⟨fly (wc 2821 []) ((({ live with key.pending := some ⟨0, 2, 0, 0⟩, key.response := ⟨(sig0 ++ sig0).toArray, by decide +kernel⟩ } :
     State)|>.onKey 6 (fun x => { x with state := .valid, mat := ⟨pub0⟩ }))), (wc 2821 []), 0, _, 0, _, _, ready_of (by decide +kernel),
     by decide +kernel, rfl, pair_of (by decide +kernel), rfl, by decide +kernel⟩,
   ⟨fly (wc 2821 []) (live), (wc 2821 []), 0, _, 3, _, _, ready_of (by decide +kernel), by decide +kernel, rfl, pair_of
     (by decide +kernel), rfl, by decide +kernel⟩,
   ⟨fly (wc 2821 []) ({ live with key.pending := some ⟨0, 4, 0, 0⟩ }), (wc 2821 []), 0, _, 2, _, _, ready_of (by decide +kernel),
     by decide +kernel, rfl, pair_of (by decide +kernel), rfl, by decide +kernel⟩,
   ⟨{ live with key.pending := some (⟨0, 5, 0, 0⟩) }, ⟨0, 5, 0, 0⟩, by decide +kernel⟩,
   ⟨{ live with key.pending := none }, by decide +kernel⟩,
   ⟨{ live with key.rngOk := true }, by decide +kernel⟩,
   ⟨{ live with key.rngOk := false, key.rngFailAt := some (0) }, 0, by decide +kernel⟩,
   ⟨{ live with key.rngOk := false, key.rngFailAt := some (0) }, 0, by decide +kernel⟩⟩

theorem witness_LaneLink :
    (∃ (s : State) (l : Fin 128), (s.clocksRun = true) ∧ ((s.lane l).trainStep = 1) ∧ ((s.lane l).link = LinkState.down) ∧ ((s.saf1
      l).lastWord.toNat &&& 7 = 0)) ∧
    (∃ (s : State) (l : Fin 128), (s.clocksRun = true) ∧ ((s.lane l).trainStep = 2) ∧ ((s.lane l).link = LinkState.train)) ∧
    (∃ (s : State) (l : Fin 128), (s.clocksRun = true) ∧ ((s.lane l).trainStep = 3) ∧ ((s.lane l).link = LinkState.train)) ∧
    (∃ (s : State) (l : Fin 128), (s.clocksRun = true) ∧ ((s.lane l).link ≠ LinkState.down)) ∧
    (∃ (s : State) (l : Fin 128) (f : List (BitVec 8)) (eof : Bool) (violation : Bool), (s.clocksRun = true) ∧ ((s.lane l).link ≠
      LinkState.down) ∧ ((s.lane l).link ≠ LinkState.train) ∧ (frameGood f eof violation = false) ∧ (crcGood f = true ∨ (List.filter
      (fun t => decide (s.now < t + 1000000)) (s.lane l).crcFails).length < 15)) ∧
    (∃ (s : State) (l : Fin 128) (f : List (BitVec 8)), (s.clocksRun = true) ∧ ((s.lane l).link ≠ LinkState.down) ∧ ((s.lane l).link ≠
      LinkState.train) ∧ (crcGood f = false) ∧ (15 ≤ (List.filter (fun t => decide (s.now < t + 1000000)) (s.lane l).crcFails).length))
      ∧
    (∃ (s : State) (l : Fin 128) (f : List (BitVec 8)), (s.clocksRun = true) ∧ ((s.lane l).link ≠ LinkState.down) ∧ ((s.lane l).link ≠
      LinkState.train) ∧ (frameGood f true false = true)) ∧
    (∃ (s : State) (l : Fin 128), (s.clocksRun = true) ∧ ((s.lane l).link.measured = true) ∧ ((s.met1 l).silent = false) ∧ (s.tie.role ≠
      PairRole.standby)) ∧
    (∃ (s : State) (o : Fin 128), (s.clocksRun = true) ∧ ((s.saf1 o).measLost = true)) :=
  ⟨⟨((live : State) |>.onLane (0) (fun x => { x with trainStep := 1 }) |>.onLane (0) (fun x => { x with link := LinkState.down })), 0,
    by decide +kernel⟩,
   ⟨((live : State) |>.onLane (0) (fun x => { x with trainStep := 2 }) |>.onLane (0) (fun x => { x with link := LinkState.train })), 0,
     by decide +kernel⟩,
   ⟨((live : State) |>.onLane (0) (fun x => { x with trainStep := 3 }) |>.onLane (0) (fun x => { x with link := LinkState.train })), 0,
     by decide +kernel⟩,
   ⟨live, 0, by decide +kernel⟩,
   ⟨live, 0, [], false, false, by decide +kernel⟩,
   ⟨((live : State)|>.onLane 0 (fun x => { x with crcFails := List.replicate 15 0 })), 0, [], by decide +kernel⟩,
   ⟨live, 0, frame0, by decide +kernel, by decide +kernel, by decide +kernel, frame0_good⟩,
   ⟨((live : State) |>.onMet (0) (fun x => { x with silent := false })), 0, by decide +kernel⟩,
   ⟨((live : State) |>.onSaf (0) (fun x => { x with measLost := true })), 0, by decide +kernel⟩⟩

theorem witness_AttachSteps :
    (∃ (s : State) (l : Fin 128) (m : List (BitVec 8)), (s.glb.phase = Phase.running) ∧ ((s.lane l).stopped = false) ∧ ((s.lane l).link
      = LinkState.idle) ∧ ((s.lane l).holdoffUntil = none) ∧ ((s.lane l).mbRx = some { typ := 1, payload := m }) ∧ (27 ≤ m.length) ∧
      (m.getD 9 0 = 1) ∧ ((s.keySlot 0).state = KeyState.valid) ∧ (s.key.dbgKeys = false) ∧ (s.key.rngOk = true)) ∧
    (∃ (s : State) (l : Fin 128) (m : List (BitVec 8)), (s.glb.phase = Phase.running) ∧ ((s.lane l).stopped = false) ∧ ((s.lane l).link
      = LinkState.idle) ∧ ((s.lane l).holdoffUntil = none) ∧ ((s.lane l).mbRx = some { typ := 1, payload := m }) ∧ (27 ≤ m.length) ∧
      (m.getD 9 0 ≠ 1)) ∧
    (∃ (s : State) (l : Fin 128) (m : List (BitVec 8)), (s.glb.phase = Phase.running) ∧ ((s.lane l).attach = AttachStep.challenged) ∧
      ((s.lane l).mbRx = some { typ := 3, payload := m }) ∧ ((s.keySlot 0).state = KeyState.valid) ∧ ((s.keySlot 0).soundA = true) ∧
      ((s.keySlot 0).soundB = true) ∧ (s.key.dbgKeys = false) ∧ (BitVec.ofNat 64 (ofBytes (List.take 8 m)) = attachMac (sessionKey
      (block128 (s.keySlot 0).mat.words) (s.lane l) s.portNo) 1 (s.lane l))) ∧
    (∃ (s : State) (l : Fin 128) (m : List (BitVec 8)), (s.glb.phase = Phase.running) ∧ ((s.lane l).attach = AttachStep.confirmed) ∧
      ((s.lane l).mbRx = some { typ := 6, payload := m }) ∧ (ofBytes (List.take 2 m) = (s.lane l).paramWd) ∧ (ofBytes (List.take 2
      (List.drop 2 m)) = (s.lane l).paramOpen) ∧ (s.tie.role = PairRole.alone)) ∧
    (∃ (s : State) (l : Fin 128) (m : List (BitVec 8)), (s.glb.phase = Phase.running) ∧ ((s.lane l).attach = AttachStep.confirmed) ∧
      ((s.lane l).mbRx = some { typ := 6, payload := m }) ∧ (ofBytes (List.take 2 m) ≠ (s.lane l).paramWd ∨ ofBytes (List.take 2
      (List.drop 2 m)) ≠ (s.lane l).paramOpen)) ∧
    (∃ (s : State) (l : Fin 128), ((s.lane l).mbRx = none)) ∧
    (∃ (s : State) (l : Fin 128) (a : ℕ), (s.clocksRun = true) ∧ ((s.lane l).holdoffUntil = some a)) ∧
    (∃ (s : State) (l : Fin 128) (m : MbMsg), (s.glb.phase = Phase.running) ∧ ((s.lane l).mbWait = some m) ∧ ((s.lane l).mbRepeats < 8))
      ∧
    (∃ (s : State) (l : Fin 128) (m : MbMsg), (s.glb.phase = Phase.running) ∧ ((s.lane l).mbWait = some m) ∧ (8 ≤ (s.lane l).mbRepeats))
      :=
  ⟨⟨(({ live with glb.phase := Phase.running, key.dbgKeys := false, key.rngOk := true } : State) |>.onLane (0) (fun x =>
    { x with stopped := false }) |>.onLane (0) (fun x => { x with link := LinkState.idle }) |>.onLane (0) (fun x =>
    { x with holdoffUntil := none }) |>.onLane (0) (fun x =>
    { x with mbRx := some { typ := 1, payload := ([0, 0, 0, 0, 0, 0, 0, 0, 0, 1] ++ List.replicate 17 0) } }) |>.onKey 0 (fun x =>
    { x with state := KeyState.valid })), 0, [0, 0, 0, 0, 0, 0, 0, 0, 0, 1] ++ List.replicate 17 0, by decide +kernel⟩,
   ⟨(({ live with glb.phase := Phase.running } : State) |>.onLane (0) (fun x => { x with stopped := false }) |>.onLane (0) (fun x =>
     { x with link := LinkState.idle }) |>.onLane (0) (fun x => { x with holdoffUntil := none }) |>.onLane (0) (fun x =>
     { x with mbRx := some { typ := 1, payload := (List.replicate 27 0) } })), 0, List.replicate 27 0, by decide +kernel⟩,
   ⟨(({ live with glb.phase := Phase.running, key.dbgKeys := false } : State) |>.onLane (0) (fun x =>
     { x with attach := AttachStep.challenged }) |>.onLane (0) (fun x =>
     { x with mbRx := some { typ := 3, payload := (leBytes 8 16236450196060716138) } }) |>.onKey 0 (fun x =>
     { x with state := KeyState.valid }) |>.onKey 0 (fun x => { x with soundA := true }) |>.onKey 0 (fun x =>
     { x with soundB := true })), 0, leBytes 8 16236450196060716138, by decide +kernel⟩,
   ⟨(({ live with glb.phase := Phase.running, tie.role := PairRole.alone } : State) |>.onLane (0) (fun x =>
     { x with attach := AttachStep.confirmed }) |>.onLane (0) (fun x => { x with mbRx := some { typ := 6, payload := ([]) } })|>.onLane
     0 (fun x => { x with paramWd := 0, paramOpen := 0 })), 0, [], by decide +kernel⟩,
   ⟨(({ live with glb.phase := Phase.running } : State) |>.onLane (0) (fun x => { x with attach := AttachStep.confirmed }) |>.onLane (0)
     (fun x => { x with mbRx := some { typ := 6, payload := ([]) } })), 0, [], by decide +kernel⟩,
   ⟨((live : State) |>.onLane (0) (fun x => { x with mbRx := none })), 0, by decide +kernel⟩,
   ⟨((live : State) |>.onLane (0) (fun x => { x with holdoffUntil := some (0) })), 0, 0, by decide +kernel⟩,
   ⟨(({ live with glb.phase := Phase.running } : State) |>.onLane (0) (fun x => { x with mbWait := some (⟨0, []⟩) })), 0, ⟨0, []⟩,
     by decide +kernel⟩,
   ⟨(({ live with glb.phase := Phase.running } : State) |>.onLane (0) (fun x => { x with mbWait := some (⟨0, []⟩) })|>.onLane 0 (fun x
     => { x with mbRepeats := 8 })), 0, ⟨0, []⟩, by decide +kernel⟩⟩

theorem witness_DownlinkFrames :
    (∃ (s : State) (l : Fin 128), (s.clocksRun = true) ∧ ((s.lane l).stopped = false) ∧ ((s.lane l).link ≠ LinkState.down) ∧ ((s.lane
      l).link ≠ LinkState.train)) ∧
    (∃ (s : State) (l : Fin 128), (s.clocksRun = true) ∧ ((s.lane l).stopped = true ∨ (s.lane l).link = LinkState.down ∨ (s.lane l).link
      = LinkState.train)) :=
  ⟨⟨((live : State) |>.onLane (0) (fun x => { x with stopped := false })), 0, by decide +kernel⟩,
   ⟨((live : State)|>.onLane 0 (fun x => { x with link := .down })), 0, by decide +kernel⟩⟩

theorem witness_LoadChannels :
    (∃ (s : State) (k : Fin 32), (s.clocksRun = true) ∧ ((s.chan k).state = ChanState.on)) ∧
    (∃ (s : State) (k : Fin 32), (s.clocksRun = true) ∧ ((s.chan k).state = ChanState.limiting) ∧ (elapsed s k < (s.chan k).spacing *
      1000000)) ∧
    (∃ (s : State) (k : Fin 32), (s.clocksRun = true) ∧ ((s.chan k).state = ChanState.limiting) ∧ (bankOk s k = true) ∧ ((s.chan
      k).count < (s.chan k).retries)) ∧
    (∃ (s : State) (k : Fin 32), (s.clocksRun = true) ∧ ((s.chan k).state = ChanState.limiting) ∧ (bankOk s k = true) ∧ ((s.chan
      k).retries ≤ (s.chan k).count)) ∧
    (∃ (s : State) (k : Fin 32), (bankOk s k = false)) ∧
    (∃ (s : State) (k : Fin 32), (s.clocksRun = true) ∧ ((s.chan k).state = ChanState.waiting) ∧ (bankOk s k = true) ∧ ((s.chan k).count
      ≤ (s.chan k).retries) ∧ ((s.chan k).demand = true)) ∧
    (∃ (s : State) (k : Fin 32), (s.clocksRun = true) ∧ ((s.chan k).state = ChanState.thermalOff) ∧ (bankOk s k = true) ∧ ((s.chan
      k).cooled = false)) ∧
    (∃ (s : State), (s.clocksRun = true)) ∧
    (∃ (s : State), (s.clocksRun = false)) ∧
    (∃ (s : State) (x : BitVec 16), (s.clocksRun = true) ∧ (15000 ≤ x.toInt) ∧ (x.toInt < 17000)) ∧
    (∃ (x : BitVec 16), (x.toInt < 15000)) ∧
    (∃ (s : State) (k : Fin 32) (x : BitVec 16), (s.clocksRun = true) ∧ (17000 ≤ x.toInt) ∧ ((s.chan k).state = ChanState.on ∨ (s.chan
      k).state = ChanState.limiting ∨ (s.chan k).state = ChanState.waiting)) ∧
    (∃ (s : State) (k : Fin 32), (s.clocksRun = true) ∧ ((s.chan k).cooled = false) ∧ ((s.chan k).state ≠ ChanState.thermalOff)) ∧
    (∃ (s : State) (c : Cmd), (Ready s c 3072)) ∧
    (∃ (s : State) (c : Cmd), (Ready s c 3073)) :=
  ⟨⟨((live : State) |>.onChan (0) (fun x => { x with state := ChanState.on })), 0, by decide +kernel⟩,
   ⟨((live : State) |>.onChan (0) (fun x => { x with state := ChanState.limiting })), 0, by decide +kernel⟩,
   ⟨(({ live with glb.vbankOk := 15 } : State) |>.onChan (0) (fun x => { x with state := ChanState.limiting })), 0, by decide +kernel⟩,
   ⟨(({ live with glb.vbankOk := 15 } : State) |>.onChan (0) (fun x => { x with state := ChanState.limiting })|>.onChan 0 (fun x =>
     { x with count := 3 })), 0, by decide +kernel⟩,
   ⟨live, 0, by decide +kernel⟩,
   ⟨(({ live with glb.vbankOk := 15 } : State) |>.onChan (0) (fun x => { x with state := ChanState.waiting })|>.onChan 0 (fun x =>
     { x with cmd := true })), 0, by decide +kernel⟩,
   ⟨(({ live with glb.vbankOk := 15 } : State) |>.onChan (0) (fun x => { x with state := ChanState.thermalOff }) |>.onChan (0) (fun x =>
     { x with cooled := false })), 0, by decide +kernel⟩,
   ⟨live, by decide +kernel⟩,
   ⟨{ live with glb.phase := .keep }, by decide +kernel⟩,
   ⟨live, 15000, by decide +kernel⟩,
   ⟨0, by decide +kernel⟩,
   ⟨((live : State)|>.onChan 0 (fun x => { x with state := .on })), 0, 17000, by decide +kernel⟩,
   ⟨((live : State) |>.onChan (0) (fun x => { x with cooled := false })), 0, by decide +kernel⟩,
   ⟨fly (wc 3072 []) (live), (wc 3072 []), ready_of (by decide +kernel)⟩,
   ⟨fly (wc 3073 []) (live), (wc 3073 []), ready_of (by decide +kernel)⟩⟩

theorem witness_DisplayAndWatchdog :
    (∃ (s : State) (k : Fin 4), (drives s = true) ∧ (s.epd.common = some k)) ∧
    (∃ (s : State), (drives s = true) ∧ (s.epd.common = none)) ∧
    (∃ (s : State), (drives s = false)) ∧
    (∃ (s : State) (k : Fin 4) (i : ℕ), (i < 384) ∧ ((commonMask k).getLsbD i = true) ∧ (s.epd.clearLeft ≠ 0)) ∧
    (∃ (s : State) (k : Fin 4) (i : ℕ), (i < 384) ∧ ((commonMask k).getLsbD i = true) ∧ (s.epd.clearLeft = 0) ∧ ((legalMask s).getLsbD i
      = s.epd.legalPart)) ∧
    (∃ (s : State) (k : Fin 4) (i : ℕ), (i < 384) ∧ ((commonMask k).getLsbD i = true) ∧ (s.epd.clearLeft = 0) ∧ ((legalMask s).getLsbD i
      ≠ s.epd.legalPart)) ∧
    (∃ (k : Fin 4) (i : ℕ), (i < 384) ∧ ((commonMask k).getLsbD i = false)) ∧
    (∃ (s : State), (nextCommon s = none)) ∧
    (∃ (s : State), (drives s = true) ∧ (s.epd.blink ≠ 0) ∧ (s.epd.busy = true)) ∧
    (∃ (s : State), (s.glb.phase = Phase.running) ∧ (s.epd.crack = false) ∧ (s.epd.missedPulses = 1)) ∧
    (∃ (s : State), (s.glb.phase = Phase.running) ∧ (s.epd.crack = true) ∧ (s.epd.gotPulses = 9)) ∧
    (∃ (s : State) (c : Cmd) (o : Fin 128), (Ready s c 3075) ∧ (s.ofHandle (fld (c.p 0) 0 16) = some o)) ∧
    (∃ (s : State) (c : Cmd), (Ready s c 3075) ∧ (s.ofHandle (fld (c.p 0) 0 16) = none)) ∧
    (∃ (s : State) (c : Cmd), (Ready s c 3074) ∧ (c.p2 0 % 32 = 0) ∧ (s.epd.enabled = true) ∧ (s.epd.busy = true) ∧ (ones ((operBlock
      c).2 &&& ~~~legalMask s) ≤ 32)) ∧
    (∃ (s : State) (c : Cmd), (Ready s c 3074) ∧ (c.p2 0 % 32 = 0) ∧ (s.epd.enabled = true) ∧ (32 < ones (~~~legalMask s) → 32 < ones
      ((operBlock c).2 &&& ~~~legalMask s))) ∧
    (∃ (s : State) (c : Cmd), (Ready s c 3074) ∧ (c.p2 0 % 32 = 0) ∧ (s.epd.enabled = false)) ∧
    (∃ (s : State) (c : Cmd), (Ready s c 3076) ∧ (s.epd.enabled = false)) ∧
    (∃ (s : State) (c : Cmd), (Ready s c 3076) ∧ (s.epd.enabled = true) ∧ (s.epd.busy = true)) ∧
    (∃ (s : State) (src : Fin 3), (src ≠ 0) ∧ (s.clocksRun = true) ∧ ((vget s.lsw.sources src).expired = false) ∧ (s.tie.role ≠
      PairRole.standby)) ∧
    (∃ (s : State), (s.clocksRun = true) ∧ ((vget s.lsw.sources 0).expired = false)) ∧
    (∃ (s : State) (src : Fin 3), (src ≠ 0) ∧ (s.clocksRun = true) ∧ ((vget s.lsw.sources src).expired = true) ∧ (s.tie.role ≠
      PairRole.standby)) :=
  ⟨⟨{ live with epd.common := some (0), epd.en := true, epd.waves := [⟨0, []⟩] }, 0, by decide +kernel⟩,
   ⟨{ live with epd.common := none, epd.en := true, epd.waves := [⟨0, []⟩] }, by decide +kernel⟩,
   ⟨live, by decide +kernel⟩,
   ⟨{ live with epd.clearLeft := 1 }, 0, 0, by decide +kernel⟩,
   ⟨{ live with epd.clearLeft := 0, epd.legalPart := (legalMask live).getLsbD 0 }, 0, 0, by decide +kernel, by decide +kernel,
     by decide +kernel, rfl⟩,
   ⟨{ live with epd.clearLeft := 0, epd.legalPart := !(legalMask live).getLsbD 0 }, 0, 0, by decide +kernel, by decide +kernel,
     by decide +kernel, ne_not _⟩,
   ⟨0, 100, by decide +kernel⟩,
   ⟨live, by decide +kernel⟩,
   ⟨{ live with epd.busy := true, epd.en := true, epd.waves := [⟨0, []⟩], epd.blink := 1 }, by decide +kernel⟩,
   ⟨{ live with glb.phase := Phase.running, epd.crack := false, epd.missedPulses := 1 }, by decide +kernel⟩,
   ⟨{ live with glb.phase := Phase.running, epd.crack := true, epd.gotPulses := 9 }, by decide +kernel⟩,
   ⟨fly (wc 3075 []) (live), (wc 3075 []), 0, ready_of (by decide +kernel), by decide +kernel⟩,
   ⟨fly (wc 3075 [0xFFFF]) (live), (wc 3075 [0xFFFF]), ready_of (by decide +kernel), by decide +kernel⟩,
   ⟨fly (wc 3074 [] (data := List.replicate 96 0)) ({ live with epd.busy := true, epd.en := true, epd.waves := [⟨0, []⟩] }), (wc 3074 []
     (data := List.replicate 96 0)), ready_of (by decide +kernel), by decide +kernel, by decide +kernel, by decide +kernel, few_ones
     (by decide +kernel)⟩,
   ⟨fly (wc 3074 [] (data := List.replicate 96 0xFF)) ({ live with epd.en := true, epd.waves := [⟨0, []⟩] }), (wc 3074 [] (data :=
     List.replicate 96 0xFF)), ready_of (by decide +kernel), by decide +kernel, by decide +kernel, many_ones (by decide +kernel)⟩,
   ⟨fly (wc 3074 []) (live), (wc 3074 []), ready_of (by decide +kernel), by decide +kernel⟩,
   ⟨fly (wc 3076 []) (live), (wc 3076 []), ready_of (by decide +kernel), by decide +kernel⟩,
   ⟨fly (wc 3076 []) ({ live with epd.busy := true, epd.en := true, epd.waves := [⟨0, []⟩] }), (wc 3076 []), ready_of
     (by decide +kernel), by decide +kernel⟩,
   ⟨((live : State) |>.upd1 (fun s => { s with lsw.sources := vmod s.lsw.sources (1) (fun x => { x with expired := false }) })), 1,
     by decide +kernel⟩,
   ⟨((live : State) |>.upd1 (fun s => { s with lsw.sources := vmod s.lsw.sources 0 (fun x => { x with expired := false }) })),
     by decide +kernel⟩,
   ⟨((live : State) |>.upd1 (fun s => { s with lsw.sources := vmod s.lsw.sources (1) (fun x => { x with expired := true }) })), 1,
     by decide +kernel⟩⟩

theorem witness_PortCommands :
    (∃ (s : State) (c : Cmd) (p : Fin 12), (Ready s c 3137) ∧ (Cmd.portNo c = some p) ∧ (16 ≤ fld (c.p 3) 0 16) ∧ (fld (c.p 3) 0 16 ≤
      4096) ∧ ((s.port p).reads.length < 8) ∧ ((s.poolQ (portRxQ p)).packets = [])) ∧
    (∃ (s : State) (c : Cmd) (p : Fin 12) (k : Packet) (l : List Packet), (Ready s c 3137) ∧ (Cmd.portNo c = some p) ∧ (16 ≤ fld (c.p 3)
      0 16) ∧ (fld (c.p 3) 0 16 ≤ 4096) ∧ ((s.port p).reads = []) ∧ ((s.poolQ (portRxQ p)).packets = k :: l) ∧ (s.glb.phase =
      Phase.running)) ∧
    (∃ (s : State) (c : Cmd) (p : Fin 12), (Ready s c 3137) ∧ (Cmd.portNo c = some p) ∧ (16 ≤ fld (c.p 3) 0 16) ∧ (fld (c.p 3) 0 16 ≤
      4096) ∧ (8 ≤ (s.port p).reads.length)) ∧
    (∃ (s : State) (c : Cmd), (Ready s c 3137) ∧ (Cmd.portNo c = none ∨ fld (c.p 3) 0 16 < 16 ∨ 4096 < fld (c.p 3) 0 16)) ∧
    (∃ (s : State) (c : Cmd) (p : Fin 12), (Ready s c 3136) ∧ (Cmd.portNo c = some p) ∧ (txLengthOk p (fld (c.p 3) 0 16) c.data = true)
      ∧ (portTakesTx s p = true) ∧ (txKindOk s p c.data = true) ∧ ((s.poolQ (portTxQ p)).paused = false)) ∧
    (∃ (s : State) (c : Cmd) (p : Fin 12), (Ready s c 3136) ∧ (Cmd.portNo c = some p) ∧ (txLengthOk p (fld (c.p 3) 0 16) c.data = true)
      ∧ (portTakesTx s p = true) ∧ (txKindOk s p c.data = true) ∧ ((s.poolQ (portTxQ p)).paused = true)) ∧
    (∃ (s : State) (c : Cmd) (p : Fin 12), (Ready s c 3136) ∧ (Cmd.portNo c = some p) ∧ (txLengthOk p (fld (c.p 3) 0 16) c.data = true)
      ∧ (portTakesTx s p = false ∨ txKindOk s p c.data = false)) ∧
    (∃ (s : State) (c : Cmd) (p : Fin 12), (Ready s c 3136) ∧ (Cmd.portNo c = some p) ∧ (txLengthOk p (fld (c.p 3) 0 16) c.data =
      false)) ∧
    (∃ (s : State) (c : Cmd), (Ready s c 3136) ∧ (Cmd.portNo c = none)) ∧
    (∃ (s : State) (c : Cmd), (Ready s c 3138) ∧ (Cmd.portNo c = none)) ∧
    (∃ (s : State) (c : Cmd) (p : Fin 12), (Ready s c 3138) ∧ (Cmd.portNo c = some p) ∧ ((s.port p).txs = []) ∧ ((s.poolQ (portTxQ
      p)).paused = false)) ∧
    (∃ (s : State) (c : Cmd) (p : Fin 12), (Ready s c 3138) ∧ (Cmd.portNo c = some p) ∧ ((s.port p).reads = []) ∧ ((s.port p).txs = [])
      ∧ ((s.poolQ (portTxQ p)).paused = false)) :=
  ⟨⟨fly (wc 3137 [0, 0, 0, 16]) (((live : State) |>.onQ (portRxQ (0)) (fun x => { x with packets := [] }))), (wc 3137 [0, 0, 0, 16]), 0,
    ready_of (by decide +kernel), by decide +kernel⟩,
   ⟨fly (wc 3137 [0, 0, 0, 16]) ((({ live with glb.phase := Phase.running } : State) |>.onPort (0) (fun x => { x with reads := [] })
     |>.onQ (portRxQ (0)) (fun x => { x with packets := (pkt0) :: ([]) }))), (wc 3137 [0, 0, 0, 16]), 0, pkt0, [], ready_of
     (by decide +kernel), by decide +kernel⟩,
   ⟨fly (wc 3137 [0, 0, 0, 16]) (((live : State)|>.onPort 0 (fun x => { x with reads := List.replicate 8 rd0 }))), (wc 3137 [0, 0, 0,
     16]), 0, ready_of (by decide +kernel), by decide +kernel⟩,
   ⟨fly (wc 3137 []) (live), (wc 3137 []), ready_of (by decide +kernel), by decide +kernel⟩,
   ⟨fly (wc 3136 [0, 0, 0, 1]) (((live : State) |>.onQ (portTxQ (0)) (fun x => { x with paused := false })|>.onUart 0 (fun x =>
     { x with en := true }))), (wc 3136 [0, 0, 0, 1]), 0, ready_of (by decide +kernel), by decide +kernel⟩,
   ⟨fly (wc 3136 [0, 0, 0, 1]) (((live : State) |>.onQ (portTxQ (0)) (fun x => { x with paused := true })|>.onUart 0 (fun x =>
     { x with en := true }))), (wc 3136 [0, 0, 0, 1]), 0, ready_of (by decide +kernel), by decide +kernel⟩,
   ⟨fly (wc 3136 [0, 0, 0, 1]) (live), (wc 3136 [0, 0, 0, 1]), 0, ready_of (by decide +kernel), by decide +kernel⟩,
   ⟨fly (wc 3136 []) (live), (wc 3136 []), 0, ready_of (by decide +kernel), by decide +kernel⟩,
   ⟨fly (wc 3136 [12]) (live), (wc 3136 [12]), ready_of (by decide +kernel), by decide +kernel⟩,
   ⟨fly (wc 3138 [12]) (live), (wc 3138 [12]), ready_of (by decide +kernel), by decide +kernel⟩,
   ⟨fly (wc 3138 []) (((live : State) |>.onPort (0) (fun x => { x with txs := [] }) |>.onQ (portTxQ (0)) (fun x =>
     { x with paused := false }))), (wc 3138 []), 0, ready_of (by decide +kernel), by decide +kernel⟩,
   ⟨fly (wc 3138 []) (((live : State) |>.onPort (0) (fun x => { x with reads := [] }) |>.onPort (0) (fun x => { x with txs := [] })
     |>.onQ (portTxQ (0)) (fun x => { x with paused := false }))), (wc 3138 []), 0, ready_of (by decide +kernel), by decide +kernel⟩⟩

theorem witness_PortLines :
    (∃ (s : State) (p : Fin 12) (x : FbTx) (l : List FbTx) (a : ℕ), ((s.port p).txs = x :: l) ∧ (x.runAt = some a) ∧ (InFlight s x.cmd))
      ∧
    (∃ (s : State) (p : Fin 12), (∀ x ∈ (s.port p).txs, x.runAt = none)) ∧
    (∃ (s : State) (q : Fin 8) (bytes : List (BitVec 8)), ((vget s.uarts q).en = true) ∧ (s.glb.phase = Phase.serviceReset) ∧ (bytes ≠
      []) ∧ (bytes.length ≤ (vget s.uarts q).maxPkt.toNat) ∧ ((s.poolQ (portRxQ (uartPort q))).paused = false) ∧ ((s.poolQ (portRxQ
      (uartPort q))).staging = [])) ∧
    (∃ (s : State) (c : Fin 4), ((vget s.cans c).en = false ∨ (vget s.cans c).state = CanState.busOff)) ∧
    (∃ (s : State) (c : Fin 4) (w0 : BitVec 32), ((vget s.cans c).en = true) ∧ ((vget s.cans c).state ≠ CanState.busOff) ∧ ((vget s.cans
      c).accepts w0 = false) ∧ (s.glb.phase = Phase.running ∨ s.glb.phase = Phase.serviceReset) ∧ (bit w0 31 = true → (vget s.cans
      c).fdEn = true)) ∧
    (∃ (s : State) (c : Fin 4) (w0 : BitVec 32), ((vget s.cans c).en = true) ∧ ((vget s.cans c).state ≠ CanState.busOff) ∧ ((vget s.cans
      c).accepts w0 = true) ∧ (s.glb.phase = Phase.serviceReset) ∧ (bit w0 31 = true → (vget s.cans c).fdEn = true) ∧ ((s.poolQ (portRxQ
      (canPort c))).paused = false) ∧ ((s.poolQ (portRxQ (canPort c))).staging = [])) ∧
    (∃ (s : State) (c : Fin 4), ((vget s.cans c).en = true)) ∧
    (∃ (s : State) (c : Fin 4), ((vget s.cans c).en = true) ∧ ((vget s.cans c).state = CanState.busOff) ∧ ((vget s.cans c).autoRecover =
      true)) ∧
    (∃ (s : State) (q : Fin 8) (x : FbTx) (l : List FbTx), ((vget s.uarts q).ctsEn = true) ∧ ((s.port (uartPort q)).txs = x :: l) ∧
      (x.runAt.isSome = true)) ∧
    (∃ (s : State) (q : Fin 8), ((vget s.uarts q).ctsEn = false)) :=
  ⟨⟨fly (wc 0 []) (((live : State) |>.onPort (0) (fun x => { x with txs := (⟨(wc 0 []), [], 0, false, some 0⟩) :: ([]) }))), 0, ⟨(wc 0
    []), [], 0, false, some 0⟩, [], 0, by decide +kernel, by decide +kernel, (by unfold InFlight; decide +kernel)⟩,
   ⟨live, 0, by decide +kernel⟩,
   ⟨(({ live with glb.phase := Phase.serviceReset } : State) |>.upd1 (fun s =>
     { s with uarts := vmod s.uarts (0) (fun x => { x with en := true }) })), 0, [0], by decide +kernel⟩,
   ⟨live, 0, by decide +kernel⟩,
   ⟨((live : State) |>.upd1 (fun s => { s with cans := vmod s.cans (0) (fun x => { x with en := true }) })|>.onCan 0 (fun x =>
     { x with filters := Vector.replicate 16 ft0 })), 0, 0, by decide +kernel⟩,
   ⟨(({ live with glb.phase := Phase.serviceReset } : State) |>.upd1 (fun s =>
     { s with cans := vmod s.cans (0) (fun x => { x with en := true }) })), 0, 0, by decide +kernel⟩,
   ⟨((live : State) |>.upd1 (fun s => { s with cans := vmod s.cans (0) (fun x => { x with en := true }) })), 0, by decide +kernel⟩,
   ⟨((live : State) |>.upd1 (fun s => { s with cans := vmod s.cans (0) (fun x => { x with en := true }) }) |>.upd1 (fun s =>
     { s with cans := vmod s.cans (0) (fun x => { x with state := CanState.busOff }) }) |>.upd1 (fun s =>
     { s with cans := vmod s.cans (0) (fun x => { x with autoRecover := true }) })), 0, by decide +kernel⟩,
   ⟨((live : State) |>.upd1 (fun s => { s with uarts := vmod s.uarts (0) (fun x => { x with ctsEn := true }) }) |>.onPort (uartPort (0))
     (fun x => { x with txs := (⟨(wc 0 []), [], 0, false, some 0⟩) :: ([]) })), 0, ⟨(wc 0 []), [], 0, false, some 0⟩, [],
     by decide +kernel⟩,
   ⟨((live : State) |>.upd1 (fun s => { s with uarts := vmod s.uarts (0) (fun x => { x with ctsEn := false }) })), 0,
     by decide +kernel⟩⟩

theorem witness_ImageSlots :
    (∃ (s : State) (c : Cmd), (Ready s c 3584) ∧ (BitVec.toNat (c.p 1) % 256 ≠ 0 ∨ c.p2 2 % 256 ≠ 0 ∨ BitVec.toNat (c.p 4) % 256 ≠ 0 ∨
      BitVec.toNat (c.p 4) < 256 ∨ 65536 < BitVec.toNat (c.p 4) ∨ imageRoom (fld (c.p 0) 0 2) < BitVec.toNat (c.p 1) + BitVec.toNat (c.p
      4))) ∧
    (∃ (s : State) (c : Cmd) (k : Fin 3) (b : Fin 2), (Ready s c 3584) ∧ (BitVec.toNat (c.p 1) % 256 = 0) ∧ (c.p2 2 % 256 = 0) ∧
      (BitVec.toNat (c.p 4) % 256 = 0) ∧ (256 ≤ BitVec.toNat (c.p 4)) ∧ (BitVec.toNat (c.p 4) ≤ 65536) ∧ (BitVec.toNat (c.p 1) +
      BitVec.toNat (c.p 4) ≤ imageRoom ↑k) ∧ (fld (c.p 0) 0 2 = ↑k) ∧ (s.fwFree k = some b) ∧ (Memory.wf (s.fwSlot k b).bytes = true)) ∧
    (∃ (s : State) (c : Cmd) (k : Fin 3), (Ready s c 3584) ∧ (BitVec.toNat (c.p 1) % 256 = 0) ∧ (c.p2 2 % 256 = 0) ∧ (BitVec.toNat (c.p
      4) % 256 = 0) ∧ (256 ≤ BitVec.toNat (c.p 4)) ∧ (BitVec.toNat (c.p 4) ≤ 65536) ∧ (BitVec.toNat (c.p 1) + BitVec.toNat (c.p 4) ≤
      imageRoom ↑k) ∧ (fld (c.p 0) 0 2 = ↑k) ∧ (s.fwFree k = none)) ∧
    (∃ (s : State) (k : Fin 3) (b : Fin 2), (s.fwFree k = some b)) ∧
    (∃ (s : State) (c : Cmd) (k : Fin 4), (Ready s c 3584) ∧ (BitVec.toNat (c.p 1) % 256 = 0) ∧ (c.p2 2 % 256 = 0) ∧ (BitVec.toNat (c.p
      4) % 256 = 0) ∧ (256 ≤ BitVec.toNat (c.p 4)) ∧ (BitVec.toNat (c.p 4) ≤ 65536) ∧ (BitVec.toNat (c.p 1) + BitVec.toNat (c.p 4) ≤
      imageRoom 3) ∧ (fld (c.p 0) 0 2 = 3) ∧ (fld (c.p 0) 2 2 = ↑k) ∧ (Memory.wf (s.cfgSlot k).bytes = true) ∧ ((s.cfgSlot
      k).state.writable = false)) ∧
    (∃ (s : State) (c : Cmd) (k : Fin 4), (Ready s c 3584) ∧ (BitVec.toNat (c.p 1) % 256 = 0) ∧ (c.p2 2 % 256 = 0) ∧ (BitVec.toNat (c.p
      4) % 256 = 0) ∧ (256 ≤ BitVec.toNat (c.p 4)) ∧ (BitVec.toNat (c.p 4) ≤ 65536) ∧ (BitVec.toNat (c.p 1) + BitVec.toNat (c.p 4) ≤
      imageRoom 3) ∧ (fld (c.p 0) 0 2 = 3) ∧ (fld (c.p 0) 2 2 = ↑k) ∧ (Memory.wf (s.cfgSlot k).bytes = true) ∧ ((s.cfgSlot
      k).state.writable = true)) ∧
    (∃ (s : State) (c : Cmd) (k : Fin 3), (Ready s c 3585) ∧ (fld (c.p 0) 0 2 = ↑k) ∧ (s.fwWritten k = none)) ∧
    (∃ (s : State) (c : Cmd) (k : Fin 3) (b : Fin 2), (Ready s c 3585) ∧ (fld (c.p 0) 0 2 = ↑k) ∧ (s.fwWritten k = some b)) ∧
    (∃ (s : State) (c : Cmd) (k : Fin 4), (Ready s c 3585) ∧ (fld (c.p 0) 0 2 = 3) ∧ (fld (c.p 0) 2 2 = ↑k) ∧ ((s.cfgSlot k).state =
      CfgState.empty ∨ (s.cfgSlot k).state.writable = false)) ∧
    (∃ (s : State) (c : Cmd) (k : Fin 4), (Ready s c 3585) ∧ (fld (c.p 0) 0 2 = 3) ∧ (fld (c.p 0) 2 2 = ↑k) ∧ ((s.cfgSlot k).state =
      CfgState.writing ∨ (s.cfgSlot k).state = CfgState.stored ∨ (s.cfgSlot k).state = CfgState.bad)) ∧
    (∃ (s : State) (c : Cmd), (Ready s c 3594)) :=
  ⟨⟨fly (wc 3584 []) (live), (wc 3584 []), ready_of (by decide +kernel), by decide +kernel⟩,
   ⟨fly (wc 3584 [0, 0, 0, 0, 256]) (live), (wc 3584 [0, 0, 0, 0, 256]), 0, 1, ready_of (by decide +kernel), by decide +kernel⟩,
   ⟨fly (wc 3584 [0, 0, 0, 0, 256]) (((live : State)|>.onFw 0 1 (fun x => { x with state := .previous }))), (wc 3584 [0, 0, 0, 0, 256]),
     0, ready_of (by decide +kernel), by decide +kernel⟩,
   ⟨live, 0, 1, by decide +kernel⟩,
   ⟨fly (wc 3584 [3, 0, 0, 0, 256]) (((live : State)|>.onCfg 0 (fun x => { x with state := .active }))), (wc 3584 [3, 0, 0, 0, 256]), 0,
     ready_of (by decide +kernel), by decide +kernel⟩,
   ⟨fly (wc 3584 [3, 0, 0, 0, 256]) (live), (wc 3584 [3, 0, 0, 0, 256]), 0, ready_of (by decide +kernel), by decide +kernel⟩,
   ⟨fly (wc 3585 []) (live), (wc 3585 []), 0, ready_of (by decide +kernel), by decide +kernel⟩,
   ⟨fly (wc 3585 []) (((live : State)|>.onFw 0 1 (fun x => { x with state := .writing }))), (wc 3585 []), 0, 1, ready_of
     (by decide +kernel), by decide +kernel⟩,
   ⟨fly (wc 3585 [3]) (live), (wc 3585 [3]), 0, ready_of (by decide +kernel), by decide +kernel⟩,
   ⟨fly (wc 3585 [3]) (((live : State)|>.onCfg 0 (fun x => { x with state := .writing }))), (wc 3585 [3]), 0, ready_of
     (by decide +kernel), by decide +kernel⟩,
   ⟨fly (wc 3594 []) (live), (wc 3594 []), ready_of (by decide +kernel)⟩⟩

theorem witness_FirmwareActivation :
    (∃ (s : State) (c : Cmd), (fld (c.p 0) 0 2 = 3) ∧ (Ready s c 3586)) ∧
    (∃ (s : State) (c : Cmd), (fld (c.p 0) 0 2 = 3) ∧ (Ready s c 3587)) ∧
    (∃ (s : State) (c : Cmd), (fld (c.p 0) 0 2 = 3) ∧ (Ready s c 3588)) ∧
    (∃ (s : State) (c : Cmd), (fld (c.p 0) 0 2 = 3) ∧ (Ready s c 3592)) ∧
    (∃ (s : State) (c : Cmd) (k : Fin 3), (Ready s c 3586) ∧ (fld (c.p 0) 0 2 = ↑k) ∧ (s.fwIn k FwState.stored = none ∨
      s.upd.cfgPend.isSome = true ∨ ∃ b, s.fwIn k FwState.stored = some b ∧ (s.fwSlot k b).version.toNat < (vget s.upd.floors k).toNat))
      ∧
    (∃ (s : State) (c : Cmd) (k : Fin 3) (b : Fin 2), (Ready s c 3586) ∧ (fld (c.p 0) 0 2 = ↑k) ∧ (s.fwIn k FwState.stored = some b) ∧
      (s.upd.cfgPend = none) ∧ ((vget s.upd.floors k).toNat ≤ (s.fwSlot k b).version.toNat) ∧ (k ≠ 0) ∧ ((vget s.upd.switchDue k).isSome
      = true ∨ k = 2 ∧ allSto s = false)) ∧
    (∃ (s : State) (c : Cmd) (k : Fin 3) (b : Fin 2), (Ready s c 3586) ∧ (fld (c.p 0) 0 2 = ↑k) ∧ (s.fwIn k FwState.stored = some b) ∧
      (s.upd.cfgPend = none) ∧ ((vget s.upd.floors k).toNat ≤ (s.fwSlot k b).version.toNat) ∧ (k ≠ 0) ∧ (vget s.upd.switchDue k = none)
      ∧ (k = 2 → allSto s = true)) ∧
    (∃ (s : State) (c : Cmd) (b : Fin 2), (Ready s c 3586) ∧ (fld (c.p 0) 0 2 = 0) ∧ (s.fwIn 0 FwState.stored = some b) ∧ (s.upd.cfgPend
      = none) ∧ ((vget s.upd.floors 0).toNat ≤ (s.fwSlot 0 b).version.toNat) ∧ (formatOk s (s.fwSlot 0 b).bytes = false)) ∧
    (∃ (s : State) (c : Cmd) (b : Fin 2), (Ready s c 3586) ∧ (fld (c.p 0) 0 2 = 0) ∧ (s.fwIn 0 FwState.stored = some b) ∧ (s.upd.cfgPend
      = none) ∧ ((vget s.upd.floors 0).toNat ≤ (s.fwSlot 0 b).version.toNat) ∧ (formatOk s (s.fwSlot 0 b).bytes = true) ∧ (bit (c.p 0) 8
      = false) ∧ (s.tie.role = PairRole.active)) ∧
    (∃ (s : State) (c : Cmd) (b : Fin 2), (Ready s c 3586) ∧ (fld (c.p 0) 0 2 = 0) ∧ (s.fwIn 0 FwState.stored = some b) ∧ (s.upd.cfgPend
      = none) ∧ ((vget s.upd.floors 0).toNat ≤ (s.fwSlot 0 b).version.toNat) ∧ (formatOk s (s.fwSlot 0 b).bytes = true) ∧ (bit (c.p 0) 8
      = false) ∧ (s.tie.role = PairRole.joining)) ∧
    (∃ (s : State) (c : Cmd) (b : Fin 2), (Ready s c 3586) ∧ (fld (c.p 0) 0 2 = 0) ∧ (s.fwIn 0 FwState.stored = some b) ∧ (s.upd.cfgPend
      = none) ∧ ((vget s.upd.floors 0).toNat ≤ (s.fwSlot 0 b).version.toNat) ∧ (formatOk s (s.fwSlot 0 b).bytes = true) ∧ (bit (c.p 0) 8
      = false) ∧ (s.tie.role = PairRole.alone ∨ s.tie.role = PairRole.standby)) ∧
    (∃ (s : State) (c : Cmd) (b : Fin 2), (Ready s c 3586) ∧ (fld (c.p 0) 0 2 = 0) ∧ (s.fwIn 0 FwState.stored = some b) ∧ (s.upd.cfgPend
      = none) ∧ ((vget s.upd.floors 0).toNat ≤ (s.fwSlot 0 b).version.toNat) ∧ (formatOk s (s.fwSlot 0 b).bytes = true) ∧ (bit (c.p 0) 8
      = true) ∧ (handsFirst s = false ∨ s.upd.pairFw.isSome = true)) ∧
    (∃ (s : State) (c : Cmd) (b : Fin 2), (Ready s c 3586) ∧ (fld (c.p 0) 0 2 = 0) ∧ (s.fwIn 0 FwState.stored = some b) ∧ (s.upd.cfgPend
      = none) ∧ ((vget s.upd.floors 0).toNat ≤ (s.fwSlot 0 b).version.toNat) ∧ (formatOk s (s.fwSlot 0 b).bytes = true) ∧ (bit (c.p 0) 8
      = true) ∧ (handsFirst s = true) ∧ (s.upd.pairFw = none) ∧ ((s.fwSlot 0 b).version.toNat / 2 ^ 24 = fwMajorOf s)) ∧
    (∃ (s : State) (c : Cmd) (k : Fin 3), (Ready s c 3587) ∧ (fld (c.p 0) 0 2 = ↑k) ∧ (s.trial k = none)) ∧
    (∃ (s : State) (c : Cmd) (k : Fin 3) (x : Trial), (Ready s c 3587) ∧ (fld (c.p 0) 0 2 = ↑k) ∧ (s.trial k = some x)) ∧
    (∃ (s : State) (c : Cmd) (k : Fin 3), (Ready s c 3588) ∧ (fld (c.p 0) 0 2 = ↑k) ∧ (s.fwIn k FwState.active = none ∨ s.fwIn k
      FwState.previous = none ∨ (vget s.upd.switchDue k).isSome = true ∨ k = 2 ∧ allSto s = false ∨ ∃ p, s.fwIn k FwState.previous =
      some p ∧ (s.fwSlot k p).version.toNat < (vget s.upd.floors k).toNat)) ∧
    (∃ (s : State) (c : Cmd) (k : Fin 3) (a : Fin 2) (p : Fin 2), (Ready s c 3588) ∧ (fld (c.p 0) 0 2 = ↑k) ∧ (s.fwIn k FwState.active =
      some a) ∧ (s.fwIn k FwState.previous = some p) ∧ ((vget s.upd.floors k).toNat ≤ (s.fwSlot k p).version.toNat) ∧ (vget
      s.upd.switchDue k = none) ∧ (k = 2 → allSto s = true) ∧ (k ≠ 0 ∨ handsFirst s = true)) ∧
    (∃ (s : State) (c : Cmd) (k : Fin 3) (a : Fin 2) (p : Fin 2), (Ready s c 3588) ∧ (fld (c.p 0) 0 2 = ↑k) ∧ (s.fwIn k FwState.active =
      some a) ∧ (s.fwIn k FwState.previous = some p) ∧ ((vget s.upd.floors k).toNat ≤ (s.fwSlot k p).version.toNat) ∧ (vget
      s.upd.switchDue k = none) ∧ (k = 2 → allSto s = true) ∧ (k = 0) ∧ (handsFirst s = false)) ∧
    (∃ (s : State) (k : Fin 3), (s.trial k = none)) ∧
    (∃ (s : State) (k : Fin 3) (x : Trial), (s.trial k = some x) ∧ (trialMet s k x = false)) ∧
    (∃ (s : State) (k : Fin 3) (x : Trial), (s.trial k = some x) ∧ (s.clocksRun = true) ∧ (trialMet s k x = true)) ∧
    (∃ (s : State) (k : Fin 3) (x : Trial) (f : Bool), (s.trial k = some x) ∧ (s.clocksRun = true) ∧ (k ≠ 0 ∨ handsFirst s = true) ∧ (f
      = false ∨ trialMet s k x = false)) ∧
    (∃ (s : State) (x : Trial) (f : Bool) (b : Fin 2) (p : Fin 2), (s.trial 0 = some x) ∧ (s.clocksRun = true) ∧ (handsFirst s = false)
      ∧ (f = false ∨ trialMet s 0 x = false) ∧ (s.fwIn 0 FwState.trial = some b) ∧ (s.fwIn 0 FwState.previous = some p)) ∧
    (∃ (s : State) (c : Cmd), (Ready s c 3593) ∧ (handsFirst s = true)) ∧
    (∃ (s : State) (c : Cmd), (Ready s c 3593) ∧ (handsFirst s = false)) ∧
    (∃ (s : State) (c : Cmd) (k : Fin 3), (Ready s c 3592) ∧ (fld (c.p 0) 0 2 = ↑k) ∧ (s.fwIn k FwState.stored = none)) ∧
    (∃ (s : State) (c : Cmd) (k : Fin 3) (b : Fin 2), (Ready s c 3592) ∧ (fld (c.p 0) 0 2 = ↑k) ∧ (s.fwIn k FwState.stored = some b) ∧
      (s.upd.dominoNext = s.kit.nodeId)) ∧
    (∃ (s : State) (c : Cmd) (k : Fin 3) (b : Fin 2), (Ready s c 3592) ∧ (fld (c.p 0) 0 2 = ↑k) ∧ (s.fwIn k FwState.stored = some b) ∧
      (s.upd.dominoNext ≠ s.kit.nodeId) ∧ ((s.node s.upd.dominoNext).neighbour = true)) ∧
    (∃ (s : State), (s.upd.dominoTx = none)) ∧
    (∃ (s : State) (x : DominoTx) (a : ℕ) (m : List Host.Cell), (s.upd.dominoTx = some x) ∧ (x.paused = some a) ∧ (kiteSends s = true) ∧
      (dominoSource s x = some m) ∧ ((s.node s.upd.dominoNext).neighbour = true)) ∧
    (∃ (s : State) (x : DominoTx) (a : ℕ) (m : List Host.Cell), (s.upd.dominoTx = some x) ∧ (x.paused = some a) ∧ (kiteSends s = true) ∧
      (dominoSource s x = some m) ∧ ((s.node s.upd.dominoNext).neighbour = false)) :=
  ⟨⟨fly (wc 3586 [3]) (live), (wc 3586 [3]), by decide +kernel, ready_of (by decide +kernel)⟩,
   ⟨fly (wc 3587 [3]) (live), (wc 3587 [3]), by decide +kernel, ready_of (by decide +kernel)⟩,
   ⟨fly (wc 3588 [3]) (live), (wc 3588 [3]), by decide +kernel, ready_of (by decide +kernel)⟩,
   ⟨fly (wc 3592 [3]) (live), (wc 3592 [3]), by decide +kernel, ready_of (by decide +kernel)⟩,
   ⟨fly (wc 3586 []) (live), (wc 3586 []), 0, ready_of (by decide +kernel), by decide +kernel⟩,
   ⟨fly (wc 3586 [1]) ((({ live with upd.cfgPend := none } : State)|>.onFw 1 1 (fun x => { x with state := .stored }) |>.onSwitch 1
     (some ⟨none, none⟩))), (wc 3586 [1]), 1, 1, ready_of (by decide +kernel), by decide +kernel⟩,
   ⟨fly (wc 3586 [1]) ((({ live with upd.cfgPend := none } : State) |>.upd1 (fun s =>
     { s with upd.switchDue := vmod s.upd.switchDue (1) (fun _ => none) })|>.onFw 1 1 (fun x => { x with state := .stored }))), (wc 3586
     [1]), 1, 1, ready_of (by decide +kernel), by decide +kernel⟩,
   ⟨fly (wc 3586 []) ((({ live with upd.cfgPend := none } : State)|>.onFw 0 1 (fun x => { x with state := .stored }) |>.onCfg 0 (fun x
     => { x with state := .active, format := 1 }))), (wc 3586 []), 1, ready_of (by decide +kernel), by decide +kernel⟩,
   ⟨fly (wc 3586 []) ((({ live with upd.cfgPend := none, tie.role := PairRole.active } : State)|>.onFw 0 1 (fun x =>
     { x with state := .stored }))), (wc 3586 []), 1, ready_of (by decide +kernel), by decide +kernel⟩,
   ⟨fly (wc 3586 []) ((({ live with upd.cfgPend := none, tie.role := PairRole.joining } : State)|>.onFw 0 1 (fun x =>
     { x with state := .stored }))), (wc 3586 []), 1, ready_of (by decide +kernel), by decide +kernel⟩,
   ⟨fly (wc 3586 []) ((({ live with upd.cfgPend := none } : State)|>.onFw 0 1 (fun x => { x with state := .stored }))), (wc 3586 []), 1,
     ready_of (by decide +kernel), by decide +kernel⟩,
   ⟨fly (wc 3586 [0x100]) ((({ live with upd.cfgPend := none } : State)|>.onFw 0 1 (fun x => { x with state := .stored }))), (wc 3586
     [0x100]), 1, ready_of (by decide +kernel), by decide +kernel⟩,
   ⟨fly (wc 3586 [0x100]) ((({ live with upd.cfgPend := none, upd.pairFw := none, tie.role := .active, tie.partnerReady := true } :
     State)|>.onFw 0 1 (fun x => { x with state := .stored }) |>.onTiePort 3 (fun x => { x with up := true }))), (wc 3586 [0x100]), 1,
     ready_of (by decide +kernel), by decide +kernel⟩,
   ⟨fly (wc 3587 []) (live), (wc 3587 []), 0, ready_of (by decide +kernel), by decide +kernel⟩,
   ⟨fly (wc 3587 []) ({ live with upd.trials := Vector.replicate 3 (some (⟨0, 0, false, 0, false, 0⟩)) }), (wc 3587 []), 0, ⟨0, 0,
     false, 0, false, 0⟩, ready_of (by decide +kernel), by decide +kernel⟩,
   ⟨fly (wc 3588 []) (live), (wc 3588 []), 0, ready_of (by decide +kernel), by decide +kernel⟩,
   ⟨fly (wc 3588 [1]) (((live : State) |>.upd1 (fun s => { s with upd.switchDue := vmod s.upd.switchDue (1) (fun _ => none) })|>.onFw 1
     1 (fun x => { x with state := .previous }))), (wc 3588 [1]), 1, 0, 1, ready_of (by decide +kernel), by decide +kernel⟩,
   ⟨fly (wc 3588 []) (((live : State) |>.upd1 (fun s => { s with upd.switchDue := vmod s.upd.switchDue (0) (fun _ => none) })|>.onFw 0 1
     (fun x => { x with state := .previous }))), (wc 3588 []), 0, 0, 1, ready_of (by decide +kernel), by decide +kernel⟩,
   ⟨live, 0, by decide +kernel⟩,
   ⟨{ live with upd.trials := Vector.replicate 3 (some (⟨0, 0, false, 0, true, 0⟩)) }, 0, ⟨0, 0, false, 0, true, 0⟩, by decide +kernel⟩,
   ⟨{ live with upd.trials := Vector.replicate 3 (some (⟨0, 0, false, 0, false, 0⟩)) }, 0, ⟨0, 0, false, 0, false, 0⟩,
     by decide +kernel⟩,
   ⟨{ live with upd.trials := Vector.replicate 3 (some (⟨0, 0, false, 0, false, 0⟩)) }, 1, ⟨0, 0, false, 0, false, 0⟩, false,
     by decide +kernel⟩,
   ⟨(({ live with upd.trials := Vector.replicate 3 (some (⟨0, 0, false, 0, false, 0⟩)) } : State)|>.onFw 0 0 (fun x =>
     { x with state := .trial }) |>.onFw 0 1 (fun x => { x with state := .previous })), ⟨0, 0, false, 0, false, 0⟩, false, 0, 1,
     by decide +kernel⟩,
   ⟨fly (wc 3593 []) ((({ live with tie.role := .active, tie.partnerReady := true } : State)|>.onTiePort 3 (fun x =>
     { x with up := true }))), (wc 3593 []), ready_of (by decide +kernel), by decide +kernel⟩,
   ⟨fly (wc 3593 []) (live), (wc 3593 []), ready_of (by decide +kernel), by decide +kernel⟩,
   ⟨fly (wc 3592 []) (live), (wc 3592 []), 0, ready_of (by decide +kernel), by decide +kernel⟩,
   ⟨fly (wc 3592 []) (((live : State)|>.onFw 0 1 (fun x => { x with state := .stored }))), (wc 3592 []), 0, 1, ready_of
     (by decide +kernel), by decide +kernel⟩,
   ⟨fly (wc 3592 []) ((({ live with upd.dominoNext := 1 } : State)|>.onFw 0 1 (fun x => { x with state := .stored }) |>.onNode 1 (fun x
     => { x with neighbour := true }))), (wc 3592 []), 0, 1, ready_of (by decide +kernel), by decide +kernel⟩,
   ⟨{ live with upd.dominoTx := none }, by decide +kernel⟩,
   ⟨(({ live with upd.dominoTx := some (⟨0, 0, 0, 0, some 0⟩), kit.en := true, upd.dominoNext := 1 } : State)|>.onKey 3 (fun x =>
     { x with state := .valid }) |>.onNode 1 (fun x => { x with neighbour := true })), ⟨0, 0, 0, 0, some 0⟩, 0, [], by decide +kernel⟩,
   ⟨(({ live with upd.dominoTx := some (⟨0, 0, 0, 0, some 0⟩), kit.en := true } : State)|>.onKey 3 (fun x =>
     { x with state := .valid })), ⟨0, 0, 0, 0, some 0⟩, 0, [], by decide +kernel⟩⟩

theorem witness_ConfigurationVersions :
    (∃ (s : State) (c : Cmd) (k : Fin 4), (Ready s c 3589) ∧ (fld (c.p 0) 0 2 = ↑k) ∧ ((s.cfgSlot k).state ≠ CfgState.stored)) ∧
    (∃ (s : State), (∀ m ∈ s.tim.marks, m.owner = MarkOwner.config → m.late = false)) ∧
    (∃ (s : State) (c : Cmd) (k : Fin 4), (Ready s c 3589) ∧ (fld (c.p 0) 0 2 = ↑k) ∧ ((s.cfgSlot k).state = CfgState.stored)) ∧
    (∃ (s : State) (c : Cmd), (Ready s c 3591) ∧ (s.cfgIn CfgState.previous = none)) ∧
    (∃ (s : State) (c : Cmd) (k : Fin 4), (Ready s c 3591) ∧ (s.cfgIn CfgState.previous = some k) ∧ (s.markFree = false)) ∧
    (∃ (s : State) (c : Cmd) (k : Fin 4), (Ready s c 3591) ∧ (s.cfgIn CfgState.previous = some k) ∧ (s.markFree = true)) ∧
    (∃ (s : State) (c : Cmd), (Ready s c 3590) ∧ (s.upd.awaiting = none)) ∧
    (∃ (s : State) (c : Cmd), (Ready s c 3590) ∧ (s.upd.awaiting ≠ none)) ∧
    (∃ (s : State), (s.upd.awaiting = none ∨ seqOn s = false)) ∧
    (∃ (s : State) (a : ℕ), (s.upd.awaiting = some a) ∧ (seqOn s = true)) ∧
    (∃ (s : State), (s.upd.cfgPend = none ∨ s.glb.phase ≠ Phase.running)) ∧
    (∃ (s : State) (u : State) (p : CfgPend) (m : Mark), (u = inOrder MarkAct.config s) ∧ (u.upd.cfgPend = some p) ∧ (u.glb.phase =
      Phase.running) ∧ (List.find? (fun x => x.owner == MarkOwner.config) u.tim.marks = some m)) :=
  ⟨⟨fly (wc 3589 []) (live), (wc 3589 []), 0, ready_of (by decide +kernel), by decide +kernel⟩,
   ⟨live, by decide +kernel⟩,
   ⟨fly (wc 3589 []) (((live : State) |>.onCfg (0) (fun x => { x with state := CfgState.stored }))), (wc 3589 []), 0, ready_of
     (by decide +kernel), by decide +kernel⟩,
   ⟨fly (wc 3591 []) (live), (wc 3591 []), ready_of (by decide +kernel), by decide +kernel⟩,
   ⟨fly (wc 3591 []) ((({ live with tim.marks := List.replicate 1536 mk0 } : State)|>.onCfg 0 (fun x =>
     { x with state := .previous }))), (wc 3591 []), 0, ready_of (by decide +kernel), by decide +kernel⟩,
   ⟨fly (wc 3591 []) (((live : State)|>.onCfg 0 (fun x => { x with state := .previous }))), (wc 3591 []), 0, ready_of
     (by decide +kernel), by decide +kernel⟩,
   ⟨fly (wc 3590 []) ({ live with upd.awaiting := none }), (wc 3590 []), ready_of (by decide +kernel), by decide +kernel⟩,
   ⟨fly (wc 3590 []) ({ live with upd.awaiting := some 0 }), (wc 3590 []), ready_of (by decide +kernel), by decide +kernel⟩,
   ⟨live, by decide +kernel⟩,
   ⟨{ live with upd.awaiting := some (0) }, 0, by decide +kernel⟩,
   ⟨live, by decide +kernel⟩,
   ⟨{ live with upd.cfgPend := some (⟨0, 0, 1, 0, false, false⟩), tim.marks := [mk0] }, _, ⟨0, 0, 1, 0, false, false⟩, mk0, rfl,
     by decide +kernel⟩⟩

theorem witness_RecorderWrites :
    (∃ (s : State) (legal : Bool) (r : LogRec) (l : Log), (s.clocksRun = true) ∧ (legal = true ∨ s.glb.phase = Phase.running) ∧ (l =
      s.recd.log !legal) ∧ (l.staging = [r]) ∧ (l.lostCount = 0) ∧ (s.recd.snapCmds = []) ∧ (l.permA.length < permSlots !legal)) ∧
    (∃ (s : State), (s.glb.phase ≠ Phase.running)) ∧
    (∃ (s : State) (legal : Bool), ((s.recd.log !legal).staging = [])) ∧
    (∃ (s : State) (c : Cmd) (ops : Bool) (n : ℕ) (rs : List (Option LogRec)), (Ready s c 1792) ∧ (ops = bit (c.p 0) 0) ∧ (n = fld (c.p
      2) 0 5) ∧ (0 < n) ∧ (n ≤ 16) ∧ (c.p2 3 % 256 = 0) ∧ (rs = List.map (fun i => if bit (c.p 0) 1 = true then (s.recd.log
      ops).permA[BitVec.toNat (c.p 1) + i]? else (s.recd.log ops).circ[((s.recd.log ops).next - 1 - (c.p 1 + BitVec.ofNat 32
      i)).toNat]?) (List.range n))) ∧
    (∃ (s : State) (c : Cmd), (Ready s c 1792) ∧ (fld (c.p 2) 0 5 = 0 ∨ 16 < fld (c.p 2) 0 5 ∨ c.p2 3 % 256 ≠ 0)) ∧
    (∃ (s : State) (c : Cmd) (x : Option (Fin 128)), (Ready s c 1793) ∧ (c.device = true ∧ x = none ∨ c.device = false ∧ x ≠ none ∧
      s.ofHandle c.handle.toNat = x) ∧ (s.recd.ops.staging.length < stagingSlots true)) ∧
    (∃ (s : State) (c : Cmd), (Ready s c 1793) ∧ (c.device = true) ∧ (stagingSlots true ≤ s.recd.ops.staging.length)) :=
  ⟨⟨{ live with recd.snapCmds := [], recd.ops.staging := [log0] }, false, log0, _, by decide +kernel, by decide +kernel, rfl,
    by decide +kernel⟩,
   ⟨{ live with glb.phase := .keep }, by decide +kernel⟩,
   ⟨live, false, by decide +kernel⟩,
   ⟨fly (wc 1792 [0, 0, 1]) (live), (wc 1792 [0, 0, 1]), false, 1, _, ready_of (by decide +kernel), by decide +kernel,
     by decide +kernel, by decide +kernel, by decide +kernel, by decide +kernel, rfl⟩,
   ⟨fly (wc 1792 []) (live), (wc 1792 []), ready_of (by decide +kernel), by decide +kernel⟩,
   ⟨fly (wc 1793 [] (device := true)) (live), (wc 1793 [] (device := true)), none, ready_of (by decide +kernel), by decide +kernel⟩,
   ⟨fly (wc 1793 [] (device := true)) ({ live with recd.ops.staging := List.replicate (stagingSlots true) log0 }), (wc 1793 [] (device
     := true)), ready_of (by decide +kernel), by decide +kernel⟩⟩

theorem witness_CounterDumps :
    (∃ (s : State) (u : State), (s.clocksRun = true) ∧ (s.pmc.dumpEn = true) ∧ (u = s.toTick (s.pmc.lastDump + s.pmc.dumpMs * msNs)) ∧
      ((dumpGroups s).length ≤ dmpRoom s)) ∧
    (∃ (s : State) (u : State), (s.clocksRun = true) ∧ (s.pmc.dumpEn = true) ∧ (u = s.toTick (s.pmc.lastDump + s.pmc.dumpMs * msNs)) ∧
      (dmpRoom s < (dumpGroups s).length)) ∧
    (∃ (s : State), (dumpGroups s = [])) ∧
    (∃ (s : State) (g : Fin 8) (k : Fin 8), (s.clocksRun = true) ∧ ((vget s.pmc.groups g).en = true) ∧ (vget (vget s.pmc.groups g).smp k
      = true) ∧ (g = 0 ∨ g = 3) ∧ (dmpRoom s = 0)) ∧
    (∃ (s : State) (m : Fin 8), (s.clocksRun = true) ∧ ((vget s.pmc.mons m).port.toNat < 128) ∧ (0 < (vget s.pmc.mons m).win)) ∧
    (∃ (s : State) (c : Cmd), (Ready s c 3840) ∧ (s.pmc.dumpEn = true) ∧ ((dumpGroups s).length ≤ dmpRoom s)) ∧
    (∃ (s : State) (c : Cmd), (Ready s c 3840) ∧ (s.pmc.dumpEn = false ∨ dmpRoom s < (dumpGroups s).length)) ∧
    (∃ (s : State) (c : Cmd), (Ready s c 3841)) ∧
    (∃ (s : State) (d : List (BitVec 32)) (data : List (BitVec 8)) (x : Completion), (s.glb.phase = Phase.running) ∧ (s.upd.recovery =
      true) ∧ ((uartWork s (uartCmd d data)).2 = some x)) ∧
    (∃ (s : State) (d : List (BitVec 32)) (data : List (BitVec 8)) (st : BitVec 8), (s.glb.phase = Phase.running) ∧ (s.upd.recovery =
      true) ∧ (fetchStatus (s.onRing 15 fun x => { x with role := 5 }) (uartCmd d data) = some st)) ∧
    (∃ (s : State), (s.upd.recovery = false)) :=
  ⟨⟨{ live with pmc.dumpEn := true }, _, by decide +kernel, by decide +kernel, rfl, by decide +kernel⟩,
   ⟨{ live with pmc.dumpEn := true, pmc.groups := live.pmc.groups.map fun g => { g with dump := true } }, _, by decide +kernel,
     by decide +kernel, rfl, by decide +kernel⟩,
   ⟨live, by decide +kernel⟩,
   ⟨((live : State) |>.upd1 (fun s => { s with pmc.groups := vmod s.pmc.groups (0) (fun x => { x with en := true }) })|>.upd1 (fun s =>
     { s with pmc.groups := vmod s.pmc.groups 0 fun g => { g with smp := Vector.replicate 8 true } })), 0, 0, by decide +kernel⟩,
   ⟨live, 0, by decide +kernel⟩,
   ⟨fly (wc 3840 []) ({ live with pmc.dumpEn := true }), (wc 3840 []), ready_of (by decide +kernel), by decide +kernel⟩,
   ⟨fly (wc 3840 []) (live), (wc 3840 []), ready_of (by decide +kernel), by decide +kernel⟩,
   ⟨fly (wc 3841 []) (live), (wc 3841 []), ready_of (by decide +kernel)⟩,
   ⟨{ live with glb.phase := Phase.running, upd.recovery := true }, [], [], _, by decide +kernel, by decide +kernel, some_getD
     ⟨0,0,false,0,0,none,false,false⟩ (by decide +kernel)⟩,
   ⟨{ live with glb.phase := Phase.running, upd.recovery := true }, [0xFFFF], [], 1, by decide +kernel⟩,
   ⟨{ live with upd.recovery := false }, by decide +kernel⟩⟩

end Sys2Proof.Tests

end
end

section
/-! The writes that set a block's lock (R14): what the configuration write of each block does to the fields under it. -/

namespace Sys2Proof.Machine

theorem exec_timCfgLock {s : State} (h : BarReaches s) (v : BitVec 32) :
    exec (.timCfgLock v) s = .next (writeTimCfg s (v ||| 0x80000000#32)) :=
  congrArg Host.Outcome.next (viaBar_reaches h 1 _)

theorem exec_plcCfgLock {s : State} (h : BarReaches s) (v : BitVec 32) :
    exec (.plcCfgLock v) s = .next (writePlcCfg s (v ||| 0x80000000#32)) :=
  congrArg Host.Outcome.next (viaBar_reaches h 8 _)

theorem exec_autCfgLock {s : State} (h : BarReaches s) (v : BitVec 32) :
    exec (.autCfgLock v) s = .next (writeAutCfg s (v ||| 0x80000000#32)) :=
  congrArg Host.Outcome.next (viaBar_reaches h 13 _)

theorem exec_kitCfgLock {s : State} (h : BarReaches s) (v : BitVec 32) :
    exec (.kitCfgLock v) s = .next (writeKitCfg s (v ||| 0x80000000#32)) :=
  congrArg Host.Outcome.next (viaBar_reaches h 14 _)

theorem exec_tieCfgLock {s : State} (h : BarReaches s) (v : BitVec 32) :
    exec (.tieCfgLock v) s = .next (writeTieCfg s (v ||| 0x80000000#32)) :=
  congrArg Host.Outcome.next (viaBar_reaches h 15 _)

theorem exec_lswCfgLock {s : State} (h : BarReaches s) (v : BitVec 32) :
    exec (.lswCfgLock v) s = .next (writeLswCfg s (v ||| 0x80000000#32)) :=
  congrArg Host.Outcome.next (viaBar_reaches h 17 _)

theorem settleFreq_setup (t : Tim) : t.settleFreq.nominal60 = t.nominal60 ∧ t.settleFreq.source = t.source := by
  unfold Tim.settleFreq; split <;> exact ⟨rfl, rfl⟩

theorem writeTimCfg_frame (s : State) (v : Word) : writeTimCfg s v = { s with tim := (writeTimCfg s v).tim } := rfl

/-- What a write of TIM_CFG that sets the lock leaves in the block (R14, R88). -/
theorem writeTimCfg_locking (s : State) {v : Word} (hv : bit v 31 = true) :
    (writeTimCfg s v).tim.lock = true ∧
    (s.tim.lock = false → (writeTimCfg s v).tim.nominal60 = bit v 0 ∧ (writeTimCfg s v).tim.source = bit v 1) ∧
    (s.tim.lock = true → (writeTimCfg s v).tim.nominal60 = s.tim.nominal60 ∧ (writeTimCfg s v).tim.source = s.tim.source) := by
  refine ⟨by simp [writeTimCfg, hv], fun hl => ?_, fun hl => ?_⟩
  · simp only [writeTimCfg, hl, Bool.false_eq_true, if_false]
    exact settleFreq_setup _
  · simp only [writeTimCfg, hl, if_true]
    exact settleFreq_setup _

/-- A write of PLC_CFG within its range (R335). -/
theorem writePlcCfg_inRange (s : State) {v : Word} (h : fld v 16 7 ≤ 80) :
    writePlcCfg s v = State.revote { s with plc := { s.plc with
      en := bit v 0, quietEn := bit v 1, crossDev := bit v 2, txAtten := BitVec.ofNat 7 (fld v 16 7)
      lock := s.plc.lock || bit v 31 } } := if_neg (Nat.not_lt.mpr h)

theorem writeMac_locked {s : State} (h : s.plc.lock = true) (w : Word) : writeMacLo s w = s ∧ writeMacHi s w = s := by
  simp [writeMacLo, writeMacHi, h]

/-- A write of AUT_CFG within its ranges (R481). -/
theorem writeAutCfg_inRange (s : State) {v : Word} (hp : 2 ≤ fld v 8 8) (hg : 10 ≤ fld v 16 12) (hg' : fld v 16 12 ≤ 3600) :
    writeAutCfg s v = State.revote { s with
      cfg := { s.cfg with pollT := fld v 8 8, tagAge := fld v 16 12 }
      aut := { s.aut with en := bit v 0, cardAuth := bit v 1, lock := s.aut.lock || bit v 31 } } :=
  if_neg (by omega)

/-- The salt registers are read-only while LOCK is set (R481). -/
theorem writeAut_salt_locked {s : State} (h : s.aut.lock = true) {k : Nat} (hk : k < 4) (w : Word) :
    writeAut s (0x10 + 4 * k) w = s := by
  have h0 : 0x10 + 4 * k ≠ 0 := by omega
  have h4 : 0x10 + 4 * k ≠ 4 := by omega
  have h20 : 0x10 + 4 * k ≠ 0x20 := by omega
  have ha : arr (0x10 + 4 * k) 0x10 4 4 = some (⟨k, hk⟩, 0) := by simp [arr, hk]
  simp only [writeAut, if_neg h0, if_neg h4, if_neg h20, ha, h, if_true]

/-- A write of KIT_CFG within its ranges: what it leaves of the fields under the lock (R14, R507). -/
theorem writeKitCfg_locking (s : State) {v : Word} (hb : fld v 1 2 ≠ 3) (hx : fld v 16 7 ≤ 60) (hv : bit v 31 = true) :
    (writeKitCfg s v).kit.lock = true ∧
    (s.kit.lock = false → (writeKitCfg s v).kit.band = BitVec.ofNat 2 (fld v 1 2) ∧ (writeKitCfg s v).kit.coupling = bit v 3 ∧
      (writeKitCfg s v).kit.nodeId.val = fld v 4 6) ∧
    (s.kit.lock = true → (writeKitCfg s v).kit.band = s.kit.band ∧ (writeKitCfg s v).kit.coupling = s.kit.coupling ∧
      (writeKitCfg s v).kit.nodeId = s.kit.nodeId) ∧
    writeKitCfg s v = { s with kit := (writeKitCfg s v).kit, pwr := (writeKitCfg s v).pwr } := by
  have hr : ¬ (fld v 1 2 = 3 ∨ 60 < fld v 16 7) := by omega
  have hn : (fin 64 (fld v 4 6)).val = fld v 4 6 := Nat.mod_eq_of_lt (fld_lt v 4 6)
  unfold writeKitCfg
  simp only [if_neg hr, hv, Bool.or_true]
  refine ⟨rfl, fun hl => ?_, fun hl => ?_, rfl⟩
  · simp only [State.revote, hl, Bool.false_eq_true, if_false]
    exact ⟨trivial, trivial, hn⟩
  · simp only [State.revote, hl, if_true, and_self]

/-- A write of TIE_CFG that leaves PAIRED as it stands, where the lock stood clear (R535). -/
theorem writeTieCfg_unlocked (s : State) {v : Word} (hn : 1 ≤ fld v 0 3) (hn' : fld v 0 3 ≤ 4) (hl : s.tie.lock = false)
    (hp : bit v 3 = s.tie.paired) :
    writeTieCfg s v = { s with tie := { s.tie with clusterN := fld v 0 3, lock := bit v 31 } } := by
  have hr : ¬ (fld v 0 3 = 0 ∨ 4 < fld v 0 3) := by omega
  simp [writeTieCfg, if_neg hr, hl, hp]

/-- Where the lock stood set, a write of TIE_CFG changes nothing (R535). -/
theorem writeTieCfg_locked {s : State} (hl : s.tie.lock = true) (v : Word) : writeTieCfg s v = s := by
  have ht : { s.tie with lock := true } = s.tie := by rw [← hl]
  simp [writeTieCfg, hl, ht]

/-- A write of LSW_CFG within its range (R569). -/
theorem writeLswCfg_inRange (s : State) {v : Word} (h : 2 ≤ fld v 0 7) (h' : fld v 0 7 ≤ 100) :
    writeLswCfg s v = { s with
      cfg := { s.cfg with wdWin := if s.lsw.lock then s.cfg.wdWin else fld v 0 7 }
      lsw := { s.lsw with lock := s.lsw.lock || bit v 31 } } := if_pos ⟨h, h'⟩

/-- Settles O30: each write is judged against the lock as it stood, by the rule of its register. -/
theorem lockWrites : Obligations.LockWrites := by
  refine ⟨fun s v h => ?tim, fun s v h hx => ?plc, fun s v h hp hg hg' => ?aut, fun s v h hb hx => ?kit,
    fun s v h hn hn' hl hp => ?tieClear, fun s v h _ _ hl => ?tieSet, fun s v h hw hw' => ?lsw⟩
  case tim =>
    obtain ⟨hl, hc, hk⟩ := writeTimCfg_locking s (bit31_set v)
    rw [bit_set_low v 0 (by omega), bit_set_low v 1 (by omega)] at hc
    exact ⟨_, exec_timCfgLock h v, hl, hc, hk, writeTimCfg_frame s _⟩
  case plc =>
    refine ⟨_, exec_plcCfgLock h v, ?_⟩
    rw [writePlcCfg_inRange s (by rwa [fld_set_low v 16 7 (by omega)]), bit31_set, bit_set_low v 0 (by omega), Bool.or_true]
    exact ⟨rfl, rfl, rfl, writeMac_locked rfl, rfl⟩
  case aut =>
    refine ⟨_, exec_autCfgLock h v, ?_⟩
    rw [← fld_set_low v 8 8 (by omega)] at hp ⊢
    rw [← fld_set_low v 16 12 (by omega)] at hg hg'
    rw [writeAutCfg_inRange s hp hg hg', bit31_set, Bool.or_true]
    exact ⟨rfl, rfl, rfl, fun k w hk => writeAut_salt_locked rfl hk w, rfl⟩
  case kit =>
    rw [← fld_set_low v 1 2 (by omega)] at hb
    rw [← fld_set_low v 16 7 (by omega)] at hx
    obtain ⟨hl, hc, hk, hf⟩ := writeKitCfg_locking s hb hx (bit31_set v)
    rw [fld_set_low v 1 2 (by omega), fld_set_low v 4 6 (by omega), bit_set_low v 3 (by omega)] at hc
    exact ⟨_, exec_kitCfgLock h v, hl, hc, hk, hf⟩
  case tieClear =>
    have hf : fld (v ||| 0x80000000#32) 0 3 = fld v 0 3 := fld_set_low v 0 3 (by omega)
    rw [exec_tieCfgLock h, writeTieCfg_unlocked s (by rwa [hf]) (by rwa [hf]) hl (by rwa [bit_set_low v 3 (by omega)]), hf,
      bit31_set]
  case tieSet => rw [exec_tieCfgLock h, writeTieCfg_locked hl]
  case lsw =>
    have hf : fld (v ||| 0x80000000#32) 0 7 = fld v 0 7 := fld_set_low v 0 7 (by omega)
    rw [exec_lswCfgLock h, writeLswCfg_inRange s (by rwa [hf]) (by rwa [hf]), hf, bit31_set, Bool.or_true]

end Sys2Proof.Machine
end


section
/-! A posted event is kept (R152 to R154). -/

namespace Sys2Proof.Machine

/-- Outside a standby an event is written to a ring, or it waits (R152, R153). -/
theorem placeEvt_cases (s : State) (e : Event) (hs : s.tie.role ≠ .standby) :
    (∃ r, placeEvt s e = writeEvt s r e) ∨ placeEvt s e = placeEvt.enqueue s e := by
  unfold placeEvt
  rw [if_neg (by simpa using hs)]
  dsimp only
  split
  · split
    · exact .inl ⟨_, rfl⟩
    · exact .inr rfl
  · exact .inr rfl

/-- An event posted outside a standby is kept (R152 to R154): its identity is the next one after those posted before. -/
theorem postEvent_posted {s : State} (hs : s.tie.role ≠ .standby) {code : Nat} (hc : code < 0x1100) (o : Option (Fin 128))
    (p : List Byte) (k : Option Cmd) : Posted s (postEvent s code o p k) code o p := by
  obtain ⟨ecode, eoutlet, epayload, eident, -⟩ := newEvent_event s code o p k
  have role : (newEvent s code o p k).1.tie.role ≠ .standby := by simpa using hs
  have family : (newEvent s code o p k).2.code.toNat / 256 = code / 256 := by
    rw [ecode, BitVec.toNat_ofNat, Nat.mod_eq_of_lt (by omega)]
  unfold postEvent
  dsimp only
  obtain ⟨r, hw⟩ | hq := placeEvt_cases _ (newEvent s code o p k).2 role
  · obtain ⟨e, he, hi, hcode, ho, hp, -⟩ := writeEvt_unacked (newEvent s code o p k).1 r (newEvent s code o p k).2
    rw [hw]
    exact .inl ⟨e, by omega, hcode.trans ecode, ho.trans eoutlet, hp.trans epayload, .inr ⟨r, he⟩⟩
  · rw [hq]
    obtain ⟨e, hi, hcode, ho, hp, he⟩ | ⟨x, hx, ho, hf⟩ :=
      enqueue_kept (newEvent s code o p k).1 (newEvent s code o p k).2 (by omega)
    · exact .inl ⟨e, by omega, hcode.trans ecode, ho.trans eoutlet, hp.trans epayload, .inl he⟩
    · exact .inr ⟨x, hx, ho.trans eoutlet, family ▸ hf⟩

theorem postEvent_eventsOnly (s : State) (code : Nat) (o : Option (Fin 128)) (p : List Byte) (k : Option Cmd) :
    EventsOnly s (postEvent s code o p k) := EventsOnly_of (by simp)

end Sys2Proof.Machine
end


section
/-! The share commands (R305) and the ends of a command limit and of a Kite grant (R283, R304). -/

namespace Sys2Proof.Machine

/-- What a command on an outlet of this device does (R10). -/
theorem onOutlet_ofHandle {s : State} {c : Cmd} {o : Fin 128} (h : s.ofHandle c.handle.toNat = some o) (f : Fin 128 → State) :
    onOutlet c s f = f o := by
  unfold onOutlet; rw [h]

/-- A share command waits in flight for the next snapshot while the allocation runs (R305). -/
theorem shareWait_enabled {s : State} (h : s.shr.en = true) (c : Cmd) :
    shareWait s c = { started s c with shr := { s.shr with waitSnap := s.shr.waitSnap ++ [(c.ring, c.index)] } } := if_pos h

/-- Without an allocation it completes at once (log 47). -/
theorem shareWait_disabled {s : State} (h : s.shr.en = false) (c : Cmd) : shareWait s c = complete s c 0 :=
  if_neg (by simp [h])

theorem shareWait_inFlight {s : State} {c : Cmd} (hc : InFlight s c) (h : s.shr.en = true) : InFlight (shareWait s c) c := by
  rw [shareWait_enabled h]
  exact inFlight_same (started_inFlight hc) rfl

theorem shareWait_done {s : State} {c : Cmd} (hc : InFlight s c) (h : s.shr.en = false) : Done (shareWait s c) c 0x00 0 := by
  rw [shareWait_disabled h]
  exact complete_done hc 0 0

/-- Waiting for an allocation, or completing without one, changes no outlet's share. -/
theorem shareWait_shr1 (s : State) (c : Cmd) (j : Fin 128) : (shareWait s c).shr1 j = s.shr1 j := by
  have e : (shareWait s c).shrOut = s.shrOut := by
    unfold shareWait started
    split <;> simp
  unfold State.shr1; rw [e]

theorem onShr_shr1 (s : State) (o j : Fin 128) (f : ShareOut → ShareOut) :
    (s.onShr o f).shr1 j = if o = j then f (s.shr1 j) else s.shr1 j := vget_vmod _ _ _ _

/-- The state with the command limit of a Set site limit command (R283). -/
def siteLimited (s : State) (c : Cmd) : State := { s with shr := { s.shr with
    cmd := if bit (c.p 6) 0 then none else some {
      lim := ⟨#v[amount 32 (c.p 0).toNat, amount 32 (c.p 1).toNat, amount 32 (c.p 2).toNat], amount 64 (c.p2 3)⟩
      expiry := if c.p 5 = 0 then none else some (s.now + (c.p 5).toNat * secNs) } } }

theorem effSetSiteLimit_eq (c : Cmd) (s : State) : effSetSiteLimit c s = shareWait (siteLimited s c) c := rfl

/-- Set request of an outlet that has a profile (R286): CLASS 1, 2 or 3 takes it, and no other does. -/
theorem effSetRequest_profile {s : State} {c : Cmd} {o : Fin 128} {p : LoadedProfile} (ho : s.ofHandle c.handle.toNat = some o)
    (hp : s.ctxProfile o = some p) : effSetRequest c s = if s.ctxClass o = 0 ∨ s.ctxClass o = 4 then complete s c 0x0A
      else shareWait (setRequest s o (amount 32 (c.p 0).toNat)) c := by
  unfold effSetRequest
  rw [onOutlet_ofHandle ho]
  simp only [hp, Option.isNone_some, Bool.false_eq_true, or_false]

/-- Set priority (R288). -/
theorem effSetPriority_outlet {s : State} {c : Cmd} {o : Fin 128} (ho : s.ofHandle c.handle.toNat = some o) :
    effSetPriority c s = if fld (c.p 0) 4 4 = 0 then complete s c 0x02 else
      shareWait (s.onShr o fun x => { x with prio := fld (c.p 0) 0 3, weight := fld (c.p 0) 4 4, prioCmd := true }) c :=
  onOutlet_ofHandle ho _

/-- The end of a command limit (R283). -/
theorem exec_siteLimitExpiry {s : State} {c : SiteCmd} {d : Nat} (hk : s.clocksRun = true) (hc : s.shr.cmd = some c)
    (hd : c.expiry = some d) : exec .siteLimitExpiry s = .next { s.toTick d with shr := { (s.toTick d).shr with cmd := none } } := by
  change execSiteLimitExpiry s = _
  simp only [execSiteLimitExpiry, hc, hd, hk, if_true]

/-- The end of a Kite grant (R304), and its event. -/
theorem exec_kiteGrantExpiry {s : State} {g : Limits × Nat} (hk : s.clocksRun = true) (hg : s.shr.kiteGrant = some g) :
    exec .kiteGrantExpiry s = .next (postDev { s.toMains ((g.2 + 3 * s.cfg.kitePeriod) * 65536) with
      shr := { (s.toMains ((g.2 + 3 * s.cfg.kitePeriod) * 65536)).shr with kiteGrant := none, kiteExpired := true } }
      0x0303 (p8 1 ++ p64 g.1.power)) := by
  change execKiteGrantExpiry s = _
  simp only [execKiteGrantExpiry, hg, hk, if_true]

/-- Settles O23: a share command waits for an allocation or completes without one, and an expiry lets the clock run to its time. -/
theorem shareCommands : Obligations.ShareCommands := by
  refine ⟨fun s c h en => ?limit, fun s c o p h ho hp => ⟨fun h0 h4 => ?request, fun hk => ?noRequest⟩,
    fun s c o h ho => ⟨fun hw => ?priority, fun hw => ?noWeight⟩, fun s c o h ho => ?read,
    fun s c d hk hc hd => ?limitEnd, fun s g hk hg hs => ?grantEnd⟩
  case limit =>
    have hen : (siteLimited s c).shr.en = true := en
    refine ⟨shareWait (siteLimited s c) c, exec_ready h, ?_, shareWait_inFlight (inFlight_same h.cmd rfl) hen, ?_⟩
    · rw [shareWait_enabled hen]; rfl
    · rw [shareWait_enabled hen]; rfl
  case request => exact ready_eq h (by rw [effSetRequest_profile ho hp, if_neg (not_or.mpr ⟨h0, h4⟩)])
  case noRequest => exact ready_eq h (by rw [effSetRequest_profile ho hp, if_pos hk])
  case priority =>
    refine ⟨_, exec_ready h, ?_⟩
    rw [effSetPriority_outlet ho, if_neg hw]
    have hf := inFlight_same (t := s.onShr o fun x => { x with prio := fld (c.p 0) 0 3, weight := fld (c.p 0) 4 4, prioCmd := true })
      h.cmd rfl
    simp only [shareWait_shr1, onShr_shr1, if_true]
    exact ⟨trivial, trivial, fun j hj => if_neg hj.symm, shareWait_inFlight hf, shareWait_done hf⟩
  case noWeight => exact ready_eq h (by rw [effSetPriority_outlet ho, if_pos hw])
  case read => exact ⟨_, ready_eq h (onOutlet_ofHandle ho _), ready_completes h _ _⟩
  case limitEnd =>
    exact ⟨_, exec_siteLimitExpiry hk hc hd, by rw [toTick_frame], toTick_reaches s d, by rw [toTick_frame]⟩
  case grantEnd =>
    refine ⟨_, _, exec_kiteGrantExpiry hk hg, ?_, postEvent_eventsOnly _ _ _ _ _, postEvent_posted ?_ (by decide) _ _ _⟩
    · rw [toMains_frame]
    · rwa [toMains_frame]

end Sys2Proof.Machine
end


section
/-! What the window of the power-fail warning leaves alone (R45, R377), and what the warning does. -/

namespace Sys2Proof.Machine

/-- What the operations in the window of the power-fail warning leave alone: the module, the lanes, and whether metering and the display
are stopped. -/
@[simp] abbrev WindowKept (s t : State) : Prop :=
  t.glb = s.glb ∧ t.lanes = s.lanes ∧ t.enr.stopped = s.enr.stopped ∧ t.epd.stopped = s.epd.stopped

theorem WindowKept.trans {s t u : State} (h : WindowKept s t) (k : WindowKept t u) : WindowKept s u :=
  ⟨k.1.trans h.1, k.2.1.trans h.2.1, k.2.2.1.trans h.2.2.1, k.2.2.2.trans h.2.2.2⟩

@[simp] theorem ite_enrStopped (c : Prop) [Decidable c] (a b : Enr) : (if c then a else b).stopped = if c then a.stopped else b.stopped :=
  apply_ite _ _ _ _

@[simp] theorem ite_epdStopped (c : Prop) [Decidable c] (a b : Epd) : (if c then a else b).stopped = if c then a.stopped else b.stopped :=
  apply_ite _ _ _ _

@[simp] theorem foldl_windowKept {α : Type} (l : List α) (f : State → α → State) (s : State) (h : ∀ s x, WindowKept s (f s x)) :
    WindowKept s (l.foldl f s) :=
  foldl_inv (WindowKept s) l f s ⟨rfl, rfl, rfl, rfl⟩ fun t x ht => ht.trans (h t x)

@[simp] theorem forAll_windowKept {α : Type} (l : List α) (f : State → α → State) (s : State) (h : ∀ s x, WindowKept s (f s x)) :
    WindowKept s (forAll l f s) := foldl_windowKept l f s h

theorem toTick_windowKept (s : State) (d : Nat) : WindowKept s (s.toTick d) := by
  rw [toTick_frame]; exact ⟨rfl, rfl, rfl, rfl⟩

@[simp] theorem addReg_windowKept (s : State) (o : Fin 128) (j : Fin 13) (v : Nat) : WindowKept s (addReg s o j v) := by
  simp [addReg]

@[simp] theorem addSite_windowKept (s : State) (j : Fin 12) (v : Nat) : WindowKept s (addSite s j v) := by
  simp [addSite]

@[simp] theorem compensate_windowKept (s : State) (o : Fin 128) (e : Int) (q : Nat) : WindowKept s (compensate s o e q) := by
  simp [compensate, addSigned]

@[simp] theorem accrue_windowKept (s : State) (o : Fin 128) (p : Profile) (m : CycleQ) : WindowKept s (accrue s o p m) := by
  simp [accrue, addSigned]

@[simp] theorem incomerAccrue_windowKept (s : State) (m : CycleQ) : WindowKept s (incomerAccrue s m) := by
  simp [incomerAccrue]

/-- Closing the open cycles (R377 step 2) accrues energy, and no more. -/
theorem closeOpen_windowKept (s : State) (bits : List Byte) : WindowKept s (closeOpen s bits) := by
  unfold closeOpen
  split
  · exact ⟨rfl, rfl, rfl, rfl⟩
  · extract_lets taken accrued met closed
    have kept : WindowKept s closed := by simp [closed, accrued, taken, incomerBits]
    refine kept.trans (forAll_windowKept outlets _ closed fun t o => ?_)
    split
    · split
      · exact ⟨rfl, rfl, rfl, rfl⟩
      · simp [cycleUsed]
    · exact ⟨rfl, rfl, rfl, rfl⟩

@[simp] theorem flagAll_windowKept (s : State) (f : BitVec 15) : WindowKept s (flagAll s f) := by
  simp [flagAll, flagSession]

@[simp] theorem countSilence_windowKept (s : State) (o : Fin 128) : WindowKept s (countSilence s o) := by
  unfold countSilence; split <;> simp

@[simp] theorem endSession_windowKept (s : State) (o : Fin 128) (n : Nat) (x : Session) : WindowKept s (endSession s o n x) := by
  simp [endSession]

@[simp] theorem commitOutlet_windowKept (n : Nat) (ok : Bool) (s : State) (o : Fin 128) : WindowKept s (commitOutlet n ok s o) := by
  simp [commitOutlet, accrueTariff]

@[simp] theorem startSessions_windowKept (n : Nat) (s : State) (o : Fin 128) : WindowKept s (startSessions n s o) := by
  unfold startSessions; dsimp only; repeat' split
  all_goals simp

@[simp] theorem commitPulse_windowKept (s : State) (k : Fin 8) : WindowKept s (commitPulse s k) := by
  unfold commitPulse; dsimp only; repeat' split
  all_goals simp [State.onPulse]

@[simp] theorem closeDemand_windowKept (s : State) : WindowKept s (closeDemand s) := by
  unfold closeDemand; dsimp only; repeat' split
  all_goals simp

@[simp] theorem closePeriod_windowKept (s : State) (n : Nat) : WindowKept s (closePeriod s n) := by
  unfold closePeriod; dsimp only; repeat' split
  all_goals simp [openPeriod]

@[simp] theorem switchTariff_windowKept (s : State) (n : Nat) : WindowKept s (switchTariff s n) := by
  simp [switchTariff]

@[simp] theorem closeWindow_windowKept (s : State) (n : Nat) : WindowKept s (closeWindow s n) := by
  simp [closeWindow]

/-- A commit that is written (R377) changes registers, sessions and the recorder, and no more. -/
theorem energyCut_windowKept (s : State) (n slot : Nat) (p : Bool) : WindowKept s (energyCut s n slot p 0) := by
  simp [energyCut, balanceMarks, accrueIncomer, writeSlot]

@[simp] theorem repeat_windowKept (n : Nat) (f : State → State) (s : State) (h : ∀ s, WindowKept s (f s)) :
    WindowKept s (Nat.repeat f n s) := by
  induction n with
  | zero => exact ⟨rfl, rfl, rfl, rfl⟩
  | succ n ih => exact ih.trans (h _)

@[simp] theorem storeRecord_windowKept (s : State) (ops : Bool) (r : LogRec) : WindowKept s (storeRecord s ops r) := by
  simp [storeRecord]

@[simp] theorem reportLost_windowKept (s : State) (ops : Bool) : WindowKept s (reportLost s ops) := by
  simp [reportLost]

@[simp] theorem snapDone_windowKept (s : State) (ident : Nat) : WindowKept s (snapDone s ident) := by
  unfold snapDone; split <;> simp

@[simp] theorem writeStaged_windowKept (s : State) (ops : Bool) : WindowKept s (writeStaged s ops) := by
  unfold writeStaged; split <;> simp

/-- The legal records are written, and a failure noted (R445, R133), beside what the window keeps. -/
theorem noteFailure_windowKept (s : State) : WindowKept s (noteFailure (writeLegalStaging s)) := by
  simp [noteFailure, writeLegalStaging]

/-- The warning is raised: the display discharges and an outage begins (R45, R565). -/
def warningRaised (s : State) : State :=
  dischargeDisplay { s with
    glb := { s.glb with powerFail := true }
    bil := { s.bil with outageAt := some s.tim.legal }
    keep := { s.keep with openOutage := some s.tim.legal } }

/-- Metering stops at the end of the open cycles (R377). -/
def meteringStopped (s : State) (bits : List Byte) : State :=
  let s := closeOpen (s.toTick (s.now + msNs)) bits
  flagAll { s with enr := { s.enr with
    stopped := true, balInvalid := true, demandFlags := s.enr.demandFlags ||| 4, pending := 0x20 } } 0x200

/-- The partial commit of the window, where the metrology firmware runs (R377, R427, R596). -/
def partialCommit (s : State) : State :=
  if s.fwRuns 1 then
    let s := energyCut s s.cycle (s.keep.commitNo + 1) true 0
    { s with keep := { s.keep with partialAt := some s.cycle } }
  else s

theorem powerWarning_first {s : State} (h : s.glb.powerFail = false) (bits : List Byte) : powerWarning s bits =
    noteFailure (writeLegalStaging (partialCommit (meteringStopped (warningRaised s) bits))) := by
  rw [powerWarning, if_neg (by simp [h])]
  extract_lets _ _ _ _ raised _ _ stopped _ _ cut
  have hraised : raised = warningRaised s := rfl
  have hstopped : stopped = meteringStopped raised bits := rfl
  have hcut : cut = partialCommit stopped := rfl
  rw [hcut, hstopped, hraised]

theorem warningRaised_keeps (s : State) : (warningRaised s).glb = { s.glb with powerFail := true } ∧
    (warningRaised s).lanes = s.lanes ∧ (warningRaised s).epd.stopped = true := by
  simp [warningRaised, dischargeDisplay, interruptDisplay, displayEvent, State.onEpd]

theorem meteringStopped_keeps (s : State) (bits : List Byte) : (meteringStopped s bits).glb = s.glb ∧
    (meteringStopped s bits).lanes = s.lanes ∧ (meteringStopped s bits).enr.stopped = true ∧
    (meteringStopped s bits).epd.stopped = s.epd.stopped := by
  obtain ⟨hglb, hlanes, -, hepd⟩ := (toTick_windowKept s (s.now + msNs)).trans (closeOpen_windowKept _ bits)
  simp [meteringStopped, hglb, hlanes, hepd]

theorem partialCommit_windowKept (s : State) : WindowKept s (partialCommit s) := by
  unfold partialCommit
  split
  · have cut := energyCut_windowKept s s.cycle (s.keep.commitNo + 1) true
    simpa using cut
  · exact ⟨rfl, rfl, rfl, rfl⟩

/-- The warning is raised, and metering and the display stop (R45, R377, R565). -/
theorem powerWarning_raised {s : State} (h : s.glb.powerFail = false) (bits : List Byte) :
    (powerWarning s bits).glb = { s.glb with powerFail := true } ∧ (powerWarning s bits).lanes = s.lanes ∧
      (powerWarning s bits).enr.stopped = true ∧ (powerWarning s bits).epd.stopped = true := by
  obtain ⟨glb1, lanes1, epd1⟩ := warningRaised_keeps s
  obtain ⟨glb2, lanes2, enr2, epd2⟩ := meteringStopped_keeps (warningRaised s) bits
  obtain ⟨glb3, lanes3, enr3, epd3⟩ := (partialCommit_windowKept (meteringStopped (warningRaised s) bits)).trans
    (noteFailure_windowKept _)
  rw [powerWarning_first h]
  exact ⟨glb3.trans (glb2.trans glb1), lanes3.trans (lanes2.trans lanes1), enr3.trans enr2, epd3.trans (epd2.trans epd1)⟩

/-- Whether it was raised before or not, of the module and the lanes the warning changes its own flag only. -/
theorem powerWarning_module (s : State) (bits : List Byte) :
    (powerWarning s bits).glb = { s.glb with powerFail := true } ∧ (powerWarning s bits).lanes = s.lanes := by
  by_cases h : s.glb.powerFail = true
  · have same : powerWarning s bits = s := if_pos h
    rw [same]
    exact ⟨by rw [← h], rfl⟩
  · obtain ⟨hglb, hlanes, -⟩ := powerWarning_raised (by simpa using h) bits
    exact ⟨hglb, hlanes⟩

end Sys2Proof.Machine
end


section
/-! Loss of power (R37, R39, R40, R45, R577): seat loss, the power-fail warning, CAB_RST#, Keep, and the break of a stage. -/

namespace Sys2Proof.Machine

@[simp] theorem noteFailure_glb (s : State) : (noteFailure s).glb = s.glb := by simp [noteFailure]

/-- The powered clocks stop (R46): of the module its phase changes, and a removal held in reset is over. -/
theorem stopClocks_glb (s : State) (ph : Phase) : (stopClocks s ph).glb = { s.glb with phase := ph, removalHeld := false } := by
  unfold stopClocks; dsimp only; repeat' split
  all_goals simp [haltClocks]

/-- A load channel that takes its fail-safe state (R558) is no matter of the module or of the lanes. -/
theorem removeChan_module (s : State) (k : Fin 32) : (removeChan s k).glb = s.glb ∧ (removeChan s k).lanes = s.lanes := by
  have enter (s : State) (st : ChanState) : (s.enterChan k st).glb = s.glb ∧ (s.enterChan k st).lanes = s.lanes := by
    simp [State.enterChan]
  have measure (s : State) : (measureChan s k).glb = s.glb ∧ (measureChan s k).lanes = s.lanes := by
    unfold measureChan; dsimp only; repeat' split
    all_goals simp
  unfold removeChan followDemand; dsimp only; repeat' split
  all_goals simp [chanOn, enter, measure]

theorem removeChans_module (s : State) : (forAll (List.finRange 32) removeChan s).glb = s.glb ∧
    (forAll (List.finRange 32) removeChan s).lanes = s.lanes :=
  foldl_inv (fun t : State => t.glb = s.glb ∧ t.lanes = s.lanes) _ removeChan s ⟨rfl, rfl⟩ fun t k ht =>
    ⟨(removeChan_module t k).1.trans ht.1, (removeChan_module t k).2.trans ht.2⟩

/-- The start of a removal (R37): the strings stop, the warning is raised, and of the module nothing else changes. -/
theorem startRemoval_module (s : State) (bits : List Byte) : (startRemoval s bits).glb =
    { s.glb with phase := .removal, removalAt := s.now, powerFail := true } ∧ ∀ l, ((startRemoval s bits).lane l).stopped = true := by
  unfold startRemoval
  extract_lets told _ started
  have hold : told.glb = s.glb ∧ told.tim = s.tim :=
    foldl_inv (fun t : State => t.glb = s.glb ∧ t.tim = s.tim) _ _ s ⟨rfl, rfl⟩ fun t p ht => by split <;> exact ht
  have hnow : told.now = s.now := congrArg Tim.tick hold.2
  have hstart : started.glb = { told.glb with phase := .removal, removalAt := told.now } := rfl
  have hstop : ∀ l, (started.lane l).stopped = true := by
    intro l; simp [started, State.lane, vget, vall]
  clear_value started
  obtain ⟨hglb, hlanes⟩ := powerWarning_module started bits
  obtain ⟨hglb', hlanes'⟩ := removeChans_module (powerWarning started bits)
  constructor
  · rw [hglb', hglb, hstart, hold.1, hnow]
  · intro l
    rw [State.lane, hlanes', hlanes]
    exact hstop l

@[simp] theorem toTick_glb (s : State) (d : Nat) : (s.toTick d).glb = s.glb := (toTick_windowKept s d).1

/-- The clocks run while the module runs, in a service reset too (R62). -/
theorem clocksRun_running {s : State} (h : s.glb.phase = .running ∨ s.glb.phase = .serviceReset) : s.clocksRun = true := by
  rcases h with h | h <;> simp [State.clocksRun, h]

/-- Contacts `k` have read high (R34). -/
def contactsLost (s : State) (k : BitVec 4) : State :=
  { s with glb := { s.glb with
    seat := s.glb.seat &&& ~~~k
    seatHighSince := if s.glb.seat &&& ~~~k = 0 then some (s.glb.seatHighSince.getD s.now) else none } }

/-- A loss of contacts outside Keep counts after 10 µs (R37, R39). -/
theorem exec_seatLoss {s : State} {k : BitVec 4} (hk : k ≠ 0) (hp : s.glb.phase ≠ .keep) (bits : List Byte) :
    exec (.seatLoss k bits) s = .next (seatLost (contactsLost (s.toTick (s.now + 10 * usNs)) k) bits) := by
  change execSeatLoss k bits s = _
  simp only [execSeatLoss, if_neg hk, if_neg hp, contactsLost]

/-- A seat loss of a running module starts its removal (R37). -/
theorem seatLost_running {s : State} (h : s.glb.phase = .running ∨ s.glb.phase = .serviceReset) (hd : s.glb.porDue = false)
    (hi : s.glb.insertion = false) (bits : List Byte) : seatLost s bits = startRemoval s bits := by
  rcases h with h | h <;> simp [seatLost, h, hd, hi]

/-- A seat loss in steps 6 to 8 of an insertion abandons it (R39). -/
theorem seatLost_insertion {s : State} (h : s.glb.phase = .running ∨ s.glb.phase = .serviceReset ∨ s.glb.phase = .powerOnReset)
    (hi : s.glb.insertion = true) (bits : List Byte) : seatLost s bits = abandonInsertion s := by
  rcases h with h | h | h <;> simp [seatLost, h, hi]

/-- An abandoned insertion leaves the Inserting state, with nothing but the clock written to keeping memory (R39). -/
theorem abandonInsertion_eq (s : State) : abandonInsertion s = { s with
    glb := { s.glb with phase := .inserting, removalHeld := false, insertion := false }
    keep := { s.keep with rtc := (abandonInsertion s).keep.rtc, rtcRem := (abandonInsertion s).keep.rtcRem } } := by
  unfold abandonInsertion haltClocks
  split <;> rfl

/-- Whatever a seat loss starts, it reads no contact and no stage anew. -/
theorem seatLost_contacts (s : State) (bits : List Byte) :
    (seatLost s bits).glb.stage = s.glb.stage ∧ (seatLost s bits).glb.seat = s.glb.seat := by
  have removal : (startRemoval s bits).glb.stage = s.glb.stage ∧ (startRemoval s bits).glb.seat = s.glb.seat := by
    rw [(startRemoval_module s bits).1]; exact ⟨rfl, rfl⟩
  have abandoned : (abandonInsertion s).glb.stage = s.glb.stage ∧ (abandonInsertion s).glb.seat = s.glb.seat := by
    rw [abandonInsertion_eq]; exact ⟨rfl, rfl⟩
  unfold seatLost
  split
  · split
    · exact abandoned
    · exact ⟨rfl, rfl⟩
  · split
    · exact abandoned
    · exact removal
  · split
    · exact abandoned
    · exact removal
  · exact ⟨rfl, rfl⟩

/-- Stage `k` and the later ones have broken, and with them every seating contact (R37). -/
def stageBroken (s : State) (k : Fin 5) : State :=
  { s with glb := { s.glb with stage := k.val - 1, seat := 0, seatHighSince := some (s.glb.seatHighSince.getD s.now) } }

/-- The break of a stage that makes (R37): a loss of every contact; with the second stage the supplies go (R28). -/
theorem exec_stageBreak {s : State} {k : Fin 5} (h1 : 1 ≤ k.val) (hk : k.val ≤ s.glb.stage) : exec (.stageBreak k) s =
    .next (if k.val ≤ 2 then loseAlwaysOn (seeVin (stopClocks (seatLost (stageBroken s k) []) .unpowered) 0)
      else seatLost (stageBroken s k) []) := by
  change execStageBreak k s = _
  simp only [execStageBreak, if_neg (show ¬ (k.val = 0 ∨ s.glb.stage < k.val) by omega), stageBroken]

/-- The module has warned, its clocks have stopped, and Keep counts its samples from now (R50, R577). -/
def keepEntered (s : State) : State :=
  let t := stopClocks (powerWarning (seeVin s 0) []) .keep
  { t with glb := { t.glb with keepAt := t.now } }

theorem keepEntered_glb (s : State) : (keepEntered s).glb = { (seeVin s 0).glb with
    phase := .keep, removalHeld := false, powerFail := true, keepAt := (keepEntered s).now } := by
  have hglb : (keepEntered s).glb = { (stopClocks (powerWarning (seeVin s 0) []) .keep).glb with keepAt := (keepEntered s).now } := rfl
  rw [hglb, stopClocks_glb, (powerWarning_module (seeVin s 0) []).1]

theorem exec_keepEntry_running {s : State} (h : s.glb.phase = .running ∨ s.glb.phase = .serviceReset) :
    exec .keepEntry s = .next (keepEntered s) := by
  have hrun : s.clocksRun = true := clocksRun_running h
  change execKeepEntry s = _
  rcases h with h | h <;> simp only [execKeepEntry, keepEntered, h, hrun, if_true]

/-- The supply of a module in removal is gone: the removal is complete (R37). -/
theorem exec_keepEntry_removal {s : State} (h : s.glb.phase = .removal) :
    exec .keepEntry s = .next (stopClocks (seeVin s 0) .unpowered) := by
  change execKeepEntry s = _
  simp only [execKeepEntry, h]

/-- Of the kept counters an event takes its numbers only (R151): an open outage stays open. -/
theorem writeEvt_openOutage (s : State) (r : Fin 57) (e : Event) : (writeEvt s r e).keep.openOutage = s.keep.openOutage := by
  simp [writeEvt, numberEvt]

theorem placeEvt_openOutage (s : State) (e : Event) : (placeEvt s e).keep.openOutage = s.keep.openOutage := by
  unfold placeEvt; dsimp only; repeat' split
  all_goals simp [writeEvt_openOutage]

theorem postDev_openOutage (s : State) (code : Nat) (p : List Byte) (k : Option Cmd) :
    (postDev s code p k).keep.openOutage = s.keep.openOutage := by
  simp [postDev, postEvent, placeEvt_openOutage]

/-- An outage ends (R427 step 5, R428): nothing of the commit stays PENDING. -/
theorem endOutage_ended {s : State} (h : s.keep.openOutage.isSome) (steps : Nat) :
    (endOutage s steps).glb = s.glb ∧ (endOutage s steps).enr.stopped = s.enr.stopped ∧ (endOutage s steps).epd = s.epd ∧
      (endOutage s steps).keep.openOutage = none ∧ (endOutage s steps).enr.pending = 0 := by
  obtain ⟨t, ht⟩ := Option.isSome_iff_exists.mp h
  simp [endOutage, ht, postDev_openOutage]

/-- Below 17.5 V VIN is not in range (R45). -/
theorem seeVin_low (s : State) {vin : Nat} (h : vin < 17500) : (seeVin s vin).glb.vinOk = false := if_pos h

/-- At 18.0 V VIN is in range again (R45). -/
theorem seeVin_high (s : State) {vin : Nat} (h : 18000 ≤ vin) : (seeVin s vin).glb.vinOk = true := by
  simp [seeVin, h, show ¬ vin < 17500 by omega]

/-- The warning is taken back, and metering goes on (R378). -/
def warningCleared (s : State) : State :=
  { s with
    glb := { s.glb with powerFail := false }
    keep := { s.keep with failRec := none }
    enr := { s.enr with stopped := false } }

/-- The warning ends within the hold-up (R378): the outage is over, and metering and the display go on. -/
def warningEnded (s : State) : State :=
  resumeDisplay ((endOutage (warningCleared s) s.enr.pending.toNat).onEpd fun e => { e with stopped := false })

theorem resumeDisplay_displayOnly (s : State) : (resumeDisplay s).glb = s.glb ∧ (resumeDisplay s).enr = s.enr ∧
    (resumeDisplay s).epd.stopped = s.epd.stopped ∧ (resumeDisplay s).keep = s.keep := by
  unfold resumeDisplay; dsimp only; split <;> exact ⟨rfl, rfl, rfl, rfl⟩

theorem warningEnded_state {s : State} (h : s.keep.openOutage.isSome) : (warningEnded s).glb = { s.glb with powerFail := false } ∧
    (warningEnded s).enr.stopped = false ∧ (warningEnded s).epd.stopped = false ∧ (warningEnded s).keep.openOutage = none ∧
    (warningEnded s).enr.pending = 0 := by
  obtain ⟨hglb, hstop, -, hout, hpend⟩ := endOutage_ended (s := warningCleared s) h s.enr.pending.toNat
  obtain ⟨hglb', henr', hshow, hkeep'⟩ := resumeDisplay_displayOnly
    ((endOutage (warningCleared s) s.enr.pending.toNat).onEpd fun e => { e with stopped := false })
  rw [warningEnded, hglb', henr', hshow, hkeep']
  exact ⟨hglb, hstop, rfl, hout, hpend⟩

/-- What a rise of VIN does to a module that runs (R378). -/
theorem exec_vinReturn {s : State} (h : s.glb.phase = .running ∨ s.glb.phase = .serviceReset) (vin : Nat) :
    exec (.vinReturn vin) s = .next (if (seeVin s vin).glb.powerFail && (seeVin s vin).glb.vinOk then warningEnded (seeVin s vin)
      else seeVin s vin) := by
  change execVinReturn vin s = _
  unfold execVinReturn
  dsimp only
  split
  · rfl
  · rfl
  · rename_i hr hs
    exact absurd h (not_or.mpr ⟨hr, hs⟩)

/-- CAB_RST# is low (R40). -/
def resetDriven (s : State) : State := { s with glb := { s.glb with cabRst := true } }

/-- CAB_RST# low takes a module that runs into power-on reset, after the warning (R40). -/
theorem exec_cabRst_low {s : State} (h : s.glb.phase = .running ∨ s.glb.phase = .serviceReset) (bits : List Byte) :
    exec (.cabRst true bits) s = .next (stopClocks (powerWarning (resetDriven s) bits) .powerOnReset) := by
  change execCabRst true bits s = _
  unfold execCabRst
  dsimp only
  split
  · rfl
  · rfl
  · rename_i hr hs
    exact absurd h (not_or.mpr ⟨hr, hs⟩)

/-- CAB_RST# high, or of a module that does not run, is only read (R40). -/
theorem exec_cabRst_line {s : State} {low : Bool} (h : low = true → s.glb.phase ≠ .running ∧ s.glb.phase ≠ .serviceReset)
    (bits : List Byte) : exec (.cabRst low bits) s = .next { s with glb := { s.glb with cabRst := low } } := by
  change execCabRst low bits s = _
  unfold execCabRst
  dsimp only
  split
  · rename_i hr; rw [if_neg fun hl => (h hl).1 hr]
  · rename_i hr; rw [if_neg fun hl => (h hl).2 hr]
  · rfl

/-- Without its supplies the module has no power, and its always-on domain none either (R28). -/
theorem suppliesLost_module (s : State) : let t := loseAlwaysOn (seeVin (stopClocks s .unpowered) 0)
    t.glb.phase = .unpowered ∧ t.glb.stage = s.glb.stage ∧ t.glb.seat = s.glb.seat ∧ t.glb.clockLoss = true ∧ t.pwr.armed = false := by
  simp [loseAlwaysOn, seeVin, stopClocks_glb]

/-- Settles O38: each loss of power goes through the phases, and the warning's own effects stand in `powerWarning_raised`. -/
theorem lossOfPower : Obligations.LossOfPower := by
  refine ⟨fun s k bits hk hp hd hi => ?seatLoss, fun s vin bits hc hf hv => ?warning, fun s vin bits h => ?noWarning,
    fun s bits hp => ?reset, fun s low bits h h' => ?resetLine, fun s hp => ?keep, fun s hp => ?removed,
    fun s vin hp hf hv ho => ?returned, fun s vin hp h => ?read, fun s k h => ?noBreak, fun s k h1 h2 hk => ?supplyBreak,
    fun s k hp hd hi h3 hk => ?removalBreak, fun s k hp hi h3 hk => ?insertionBreak⟩
  case seatLoss =>
    refine ⟨_, exec_seatLoss hk (by rcases hp with h | h <;> simp [h]) bits, ?_⟩
    rw [seatLost_running (by simpa [contactsLost] using hp) (by simpa [contactsLost] using hd) (by simpa [contactsLost] using hi)]
    obtain ⟨hglb, hstop⟩ := startRemoval_module (contactsLost (s.toTick (s.now + 10 * usNs)) k) bits
    rw [hglb]
    exact ⟨rfl, rfl, by simp [contactsLost], hstop⟩
  case warning =>
    have hwarn : (s.clocksRun && decide (vin < 16000)) = true := by simp [hc, hv]
    refine ⟨powerWarning (seeVin s vin) bits, ?_, ?_⟩
    · change execPowerFailWarning vin bits s = _
      exact congrArg Host.Outcome.next (if_pos hwarn)
    · obtain ⟨hglb, -, henr, hepd⟩ := powerWarning_raised (s := seeVin s vin) hf bits
      rw [hglb]
      exact ⟨rfl, seeVin_low s (by omega), henr, hepd, rfl⟩
  case noWarning =>
    have hwarn : (s.clocksRun && decide (vin < 16000)) = false := by
      rcases h with h | h
      · rw [h, Bool.false_and]
      · simp [h]
    refine ⟨seeVin s vin, ?_, rfl, rfl, seeVin_low s, fun h1 h2 => ?_, seeVin_high s, rfl⟩
    · change execPowerFailWarning vin bits s = _
      exact congrArg Host.Outcome.next (if_neg (by rw [Bool.not_eq_true]; exact hwarn))
    · simp [seeVin, Nat.not_lt.mpr h1, Nat.not_le.mpr h2]
  case reset =>
    refine ⟨_, exec_cabRst_low hp bits, ?_⟩
    rw [stopClocks_glb, (powerWarning_module (resetDriven s) bits).1]
    exact ⟨rfl, rfl, rfl⟩
  case resetLine => exact exec_cabRst_line (fun hl => ⟨h.resolve_left (by simp [hl]), h'.resolve_left (by simp [hl])⟩) bits
  case keep =>
    refine ⟨_, exec_keepEntry_running hp, ?_⟩
    rw [keepEntered_glb]
    exact ⟨rfl, rfl, rfl, rfl, rfl, rfl⟩
  case removed =>
    refine ⟨_, exec_keepEntry_removal hp, ?_⟩
    simp [stopClocks_glb, seeVin]
  case returned =>
    have hwarn : ((seeVin s vin).glb.powerFail && (seeVin s vin).glb.vinOk) = true := by
      rw [seeVin_high s hv, Bool.and_true]; exact hf
    obtain ⟨hglb, hstop, hshow, hout, hpend⟩ := warningEnded_state (s := seeVin s vin) ho
    refine ⟨warningEnded (seeVin s vin), by rw [exec_vinReturn hp, if_pos hwarn], ?_⟩
    rw [hglb]
    exact ⟨rfl, rfl, seeVin_high s hv, hstop, hshow, hout, hpend⟩
  case read =>
    have hwarn : ¬ ((seeVin s vin).glb.powerFail && (seeVin s vin).glb.vinOk) = true := by
      rcases h with hf | hv
      · exact fun hw => absurd ((Bool.and_eq_true_iff.mp hw).1.symm.trans hf) (by decide)
      · simp [seeVin_low s hv]
    exact ⟨seeVin s vin, by rw [exec_vinReturn hp, if_neg hwarn], rfl, rfl⟩
  case noBreak =>
    change execStageBreak k s = _
    exact congrArg Host.Outcome.next (if_pos h)
  case supplyBreak =>
    obtain ⟨hstage, hseat⟩ := seatLost_contacts (stageBroken s k) []
    obtain ⟨hphase, hstage', hseat', hlost, harm⟩ := suppliesLost_module (seatLost (stageBroken s k) [])
    refine ⟨_, exec_stageBreak h1 hk, ?_⟩
    rw [if_pos h2]
    exact ⟨hphase, hstage'.trans hstage, hseat'.trans hseat, hlost, harm⟩
  case removalBreak =>
    refine ⟨_, exec_stageBreak (by omega) hk, ?_⟩
    rw [if_neg (by omega), seatLost_running (s := stageBroken s k) hp hd hi, (startRemoval_module (stageBroken s k) []).1]
    exact ⟨rfl, rfl, rfl, rfl⟩
  case insertionBreak =>
    refine ⟨_, exec_stageBreak (by omega) hk, ?_⟩
    rw [if_neg (by omega), seatLost_insertion (s := stageBroken s k) hp hi, abandonInsertion_eq]
    exact ⟨rfl, rfl, rfl, rfl⟩

end Sys2Proof.Machine
end


section
/-! The sensors of the module (R31, R42, R47, R58). -/

namespace Sys2Proof.Machine

/-- The module's state without MOD_FAULT# and the low-battery flag, which operations of other blocks drive and report. -/
def Glb.fixed (g : Glb) : Glb := { g with modFault := false, lowBattery := false }

@[simp] theorem Glb.fixed_modFault (g : Glb) (x : Bool) : ({ g with modFault := x } : Glb).fixed = g.fixed := rfl

@[simp] theorem ite_fixed (c : Prop) [Decidable c] (a b : Glb) : (if c then a else b).fixed = if c then a.fixed else b.fixed :=
  apply_ite _ _ _ _

theorem Glb.fixed_fields {g h : Glb} (e : g.fixed = h.fixed) : g.phase = h.phase ∧ g.porDue = h.porDue ∧
    (g.slot = h.slot ∧ g.side = h.side ∧ g.dbg = h.dbg) ∧
    g.mismatch = h.mismatch ∧ g.slotLive = h.slotLive ∧ g.sideLive = h.sideLive ∧ g.dbgLive = h.dbgLive :=
  ⟨(congrArg Glb.phase e :), (congrArg Glb.porDue e :), ⟨(congrArg Glb.slot e :), (congrArg Glb.side e :), (congrArg Glb.dbg e :)⟩,
    (congrArg Glb.mismatch e :), (congrArg Glb.slotLive e :), (congrArg Glb.sideLive e :), (congrArg Glb.dbgLive e :)⟩

/-- What becoming lasting does to the module (R528): MOD_FAULT# is all it may drive. -/
@[simp] theorem lastingAction_fixed (s : State) (cls : Nat) : (lastingAction s cls).glb.fixed = s.glb.fixed := by
  unfold lastingAction
  split <;> simp

@[simp] theorem makeLasting_fixed (s : State) (cls inst : Nat) : (makeLasting s cls inst).glb.fixed = s.glb.fixed := by
  simp [makeLasting]

@[simp] theorem tally_fixed (s : State) (cls inst : Nat) : (tally s cls inst).glb.fixed = s.glb.fixed := by
  simp [tally]

theorem lastingAction_tally (s : State) (cls : Nat) : (lastingAction s cls).tie.tally = s.tie.tally := by
  have handing (s : State) : (actionH s).tie.tally = s.tie.tally := by unfold actionH; split <;> rfl
  unfold lastingAction
  split <;> simp [handing]

/-- What is made lasting is lasting (R528). -/
theorem makeLasting_lastingAt (s : State) (cls inst : Nat) : (makeLasting s cls inst).lastingAt cls inst = true := by
  simp [makeLasting, State.lastingAt, lastingAction_tally]

/-- A record without an event changes the recorder only (R438). -/
theorem recordOnly_recd (s : State) (ops : Bool) (code : Nat) (o : Option (Fin 128)) (p : List Byte) :
    recordOnly s ops code o p = { s with recd := (recordOnly s ops code o p).recd } := by
  unfold recordOnly pushRecord
  split <;> rfl

/-- The straps as they are read a second after the last reading (R31). -/
def strapsRead (s : State) (slot : BitVec 2) (side dbg : Bool) : State :=
  let t := s.toTick (s.glb.strapAt + secNs)
  { t with glb := { t.glb with slotLive := slot, sideLive := side, dbgLive := dbg, strapAt := t.now } }

theorem strapsRead_glb (s : State) (slot : BitVec 2) (side dbg : Bool) : (strapsRead s slot side dbg).glb = { s.glb with
    slotLive := slot, sideLive := side, dbgLive := dbg, strapAt := (strapsRead s slot side dbg).now } := by
  simp [strapsRead, State.now]

/-- A strap differs from its latched level (R31). -/
def strapDiffers (s : State) (slot : BitVec 2) (side dbg : Bool) : State :=
  { strapsRead s slot side dbg with glb := { (strapsRead s slot side dbg).glb with mismatch := true } }

theorem strapDiffers_glb (s : State) (slot : BitVec 2) (side dbg : Bool) : (strapDiffers s slot side dbg).glb = { s.glb with
    slotLive := slot, sideLive := side, dbgLive := dbg, strapAt := (strapsRead s slot side dbg).now, mismatch := true } := by
  simp [strapDiffers, strapsRead_glb]

theorem exec_strapCheck {s : State} (h : s.clocksRun = true) (slot : BitVec 2) (side dbg : Bool) :
    exec (.strapCheck slot side dbg) s = .next (if slot = s.glb.slot ∧ side = s.glb.side ∧ dbg = s.glb.dbg then strapsRead s slot side dbg
      else tally (strapDiffers s slot side dbg) 11 0) := by
  change execStrapCheck slot side dbg s = _
  simp only [execStrapCheck, h, strapDiffers, strapsRead, toTick_glb, Bool.not_true, Bool.false_eq_true, if_false]

/-- Free values take nothing but their numbers. -/
theorem starveAlwaysOn_eq (s : State) : (starveAlwaysOn s).glb = { s.glb with clockLoss := true } ∧
    starveAlwaysOn s = { s with
      glb := (starveAlwaysOn s).glb
      keep := { s.keep with rtc := (starveAlwaysOn s).keep.rtc, rtcRem := 0, chans := (starveAlwaysOn s).keep.chans }
      fresh := (starveAlwaysOn s).fresh } := by
  unfold starveAlwaysOn
  extract_lets f t chans
  have hfree : chans.2 = { s with fresh := chans.2.fresh } :=
    foldl_inv (fun x : Vector KeepChan 4 × State => x.2 = { s with fresh := x.2.fresh }) _ _ _ rfl fun x k hx => by
      simp only [State.free]; rw [hx]
  clear_value chans
  obtain ⟨v, u⟩ := chans
  dsimp only at hfree
  generalize u.fresh = n at hfree
  subst hfree
  exact ⟨rfl, rfl⟩

/-- What a junction temperature does (R58): a lasting fault, a report, the end of a report, or nothing. -/
theorem exec_junctionTemperature {s : State} (hc : s.clocksRun = true) (temp : Int) : exec (.junctionTemperature temp) s = .next (
    if 12500 ≤ temp then
      let t := { s with glb := { s.glb with junctionHot := true, modFault := true } }
      if t.lastingAt 12 0 then t else makeLasting t 12 0
    else if 11000 ≤ temp ∧ !s.glb.junctionHot then postFault { s with glb := { s.glb with junctionHot := true } } 12 0 false 1
    else if temp < 10500 then { s with glb := { s.glb with junctionHot := false } }
    else s) := by
  change execJunctionTemperature temp s = _
  simp only [execJunctionTemperature, hc, Bool.not_true, Bool.false_eq_true, if_false]

/-- Without its clocks the module reads no junction. -/
theorem exec_junctionTemperature_off {s : State} (hc : s.clocksRun = false) (temp : Int) :
    exec (.junctionTemperature temp) s = .next s := by
  change execJunctionTemperature temp s = _
  simp [execJunctionTemperature, hc]

/-- Class 12 drives MOD_FAULT# low when it becomes lasting (R528); the report of the junction stands. -/
theorem makeLasting_overheat (s : State) : (makeLasting s 12 0).glb = { s.glb with modFault := true } := by
  simp [makeLasting, lastingAction]

/-- Settles O39: each sensor is read where the clocks run, and changes its own flag, count or report. -/
theorem moduleSensors : Obligations.ModuleSensors := by
  refine ⟨fun s k hc => ?glitch, fun s slot side dbg hc h1 h2 h3 => ?same, fun s slot side dbg hc hd => ?differs,
    fun s low h => ?lowCell, fun s h => ?starved, fun s temp hc hlo hhi hj hr => ?reported, fun s temp hc hlo => ?cool,
    fun s temp hlo h hhi => ?between, fun s temp hc hlo => ?fault⟩
  case glitch =>
    refine ⟨_, congrArg Host.Outcome.next (if_pos hc), ?_⟩
    dsimp only
    rw [recordOnly_recd]
    exact ⟨rfl, rfl, rfl⟩
  case same =>
    refine ⟨strapsRead s slot side dbg, by rw [exec_strapCheck hc, if_pos ⟨h1, h2, h3⟩], toTick_reaches s _, strapsRead_glb _ _ _ _, ?_⟩
    unfold strapsRead
    rw [toTick_frame]
  case differs =>
    refine ⟨_, by rw [exec_strapCheck hc, if_neg (by tauto)], ?_⟩
    have hnow : (tally (strapDiffers s slot side dbg) 11 0).now = (s.toTick (s.glb.strapAt + secNs)).now := by
      simp [State.now, strapDiffers, strapsRead]
    have hglb := tally_fixed (strapDiffers s slot side dbg) 11 0
    rw [strapDiffers_glb] at hglb
    obtain ⟨-, -, ⟨hslot, hside, hdbg⟩, hmis, hslot', hside', hdbg'⟩ := Glb.fixed_fields hglb
    exact ⟨(toTick_reaches s _).trans_eq hnow.symm, hmis, hslot', hside', hdbg', hslot, hside, hdbg⟩
  case lowCell =>
    have hne : (low && s.glb.aonOnBattery) = false := by rcases h with h | h <;> simp [h]
    change execVbatLow low s = _
    exact congrArg Host.Outcome.next (if_neg (by rw [Bool.not_eq_true]; exact hne))
  case starved =>
    obtain ⟨hglb, heq⟩ := starveAlwaysOn_eq { s with glb := { s.glb with lowBattery := true } }
    exact ⟨_, congrArg Host.Outcome.next (if_pos h), hglb, heq⟩
  case reported =>
    refine ⟨_, by rw [exec_junctionTemperature hc, if_neg (by omega), if_pos ⟨hlo, by rw [hj]; rfl⟩], by simp, ?_⟩
    exact postEvent_posted (s := { s with glb := { s.glb with junctionHot := true } }) hr (by decide) none _ none
  case cool =>
    rw [exec_junctionTemperature hc, if_neg (by omega), if_neg (by omega), if_pos hlo]
  case between =>
    have hrep : ¬ (11000 ≤ temp ∧ (!s.glb.junctionHot) = true) := by
      rintro ⟨h1, h2⟩
      rcases h with h | h
      · omega
      · simp [h] at h2
    by_cases hc : s.clocksRun = true
    · rw [exec_junctionTemperature hc, if_neg (by omega), if_neg hrep, if_neg (by omega)]
    · exact exec_junctionTemperature_off (by simpa using hc) temp
  case fault =>
    refine ⟨_, by rw [exec_junctionTemperature hc, if_pos hlo], ?_⟩
    dsimp only
    split
    · rename_i hl; exact ⟨rfl, rfl, hl⟩
    · rw [makeLasting_overheat]
      exact ⟨rfl, rfl, makeLasting_lastingAt _ 12 0⟩

end Sys2Proof.Machine
end


section
/-! The release of power-on reset (R36 step 7): what each step of a power-up leaves of the module. -/

namespace Sys2Proof.Machine

@[simp] theorem Glb.fixed_lowBattery (g : Glb) (x : Bool) : ({ g with lowBattery := x } : Glb).fixed = g.fixed := rfl

/-- Between two states of a power-up the module keeps what is fixed, and the contexts stand. -/
@[simp] abbrev PowerUpKept (s t : State) : Prop := t.glb.fixed = s.glb.fixed ∧ t.ctxs = s.ctxs

@[simp] theorem foldl_powerUpKept {α : Type} (l : List α) (f : State → α → State) (s : State) (h : ∀ s x, PowerUpKept s (f s x)) :
    PowerUpKept s (l.foldl f s) :=
  foldl_inv (PowerUpKept s) l f s ⟨rfl, rfl⟩ fun t x ht => ⟨(h t x).1.trans ht.1, (h t x).2.trans ht.2⟩

@[simp] theorem forAll_powerUpKept {α : Type} (l : List α) (f : State → α → State) (s : State) (h : ∀ s x, PowerUpKept s (f s x)) :
    PowerUpKept s (forAll l f s) := foldl_powerUpKept l f s h

@[simp] theorem slotUnusable_powerUpKept (s : State) (k : Fin 64) : PowerUpKept s (slotUnusable s k) := by
  simp [slotUnusable]

@[simp] theorem checkSlot_powerUpKept (s : State) (k : Fin 64) : PowerUpKept s (checkSlot s k) := by
  unfold checkSlot; dsimp only; repeat' split
  all_goals simp

@[simp] theorem loadEngine_powerUpKept (s : State) (k : Fin 64) : PowerUpKept s (loadEngine s k) := by
  unfold loadEngine; dsimp only; repeat' split
  all_goals simp

@[simp] theorem useKey_powerUpKept (s : State) (k : Fin 64) : PowerUpKept s (useKey s k).2 := by
  unfold useKey; dsimp only; repeat' split
  all_goals simp

@[simp] theorem imageStarts_powerUpKept (s : State) (t : Nat) (m : List Host.Cell) : PowerUpKept s (imageStarts s t m).2 := by
  unfold imageStarts imageKey; dsimp only; repeat' split
  all_goals simp

@[simp] theorem fallBack_powerUpKept (s : State) (t : Fin 3) (cause : Nat) (k : Option Cmd) : PowerUpKept s (fallBack s t cause k) := by
  unfold fallBack tellTrial; dsimp only; repeat' split
  all_goals simp [State.onFw, State.onTrial]

@[simp] theorem startFirmware_powerUpKept (s : State) (t : Fin 3) : PowerUpKept s (startFirmware s t) := by
  unfold startFirmware; dsimp only; repeat' split
  all_goals simp [State.onFw, State.onTrial]

@[simp] theorem ringDown_powerUpKept (s : State) (r : Fin 57) : PowerUpKept s (ringDown s r) := by
  simp [ringDown, orphanFtx]

@[simp] theorem enterRecovery_powerUpKept (s : State) (cause : Nat) (k : Option Cmd) : PowerUpKept s (enterRecovery s cause k) := by
  simp [enterRecovery]

@[simp] theorem missingFirmware_powerUpKept (s : State) : PowerUpKept s (missingFirmware s) := by
  simp [missingFirmware]

@[simp] theorem loadClock_powerUpKept (s : State) : PowerUpKept s (loadClock s) := by
  simp [loadClock]

@[simp] theorem reportUnwritten_powerUpKept (s : State) : PowerUpKept s (reportUnwritten s) := by
  simp [reportUnwritten]

@[simp] theorem loadKeys_powerUpKept (s : State) : PowerUpKept s (loadKeys s) := by
  simp [loadKeys, changeSlot]

@[simp] theorem loadCommit_powerUpKept (s : State) : PowerUpKept s (loadCommit s) := by
  unfold loadCommit; dsimp only; split
  all_goals simp

@[simp] theorem endOutage_powerUpKept (s : State) (steps : Nat) : PowerUpKept s (endOutage s steps) := by
  unfold endOutage; dsimp only; split
  all_goals simp

@[simp] theorem takeKeep_powerUpKept (s : State) : PowerUpKept s (takeKeep s) := by
  simp [takeKeep, takeUnmetered, addSite]

@[simp] theorem wakeRecord_powerUpKept (s : State) (fk : Bool) : PowerUpKept s (wakeRecord s fk) := by
  simp [wakeRecord, recordWake]

@[simp] theorem flagAll_powerUpKept (s : State) (f : BitVec 15) : PowerUpKept s (flagAll s f) := by
  simp [flagAll, flagSession]

@[simp] theorem mergeTamper_powerUpKept (s : State) (k : Fin 4) : PowerUpKept s (mergeTamper s k) := by
  simp [mergeTamper]

@[simp] theorem endSession_powerUpKept (s : State) (o : Fin 128) (n : Nat) (x : Session) : PowerUpKept s (endSession s o n x) := by
  simp [endSession]

@[simp] theorem closeSession_powerUpKept (s : State) (o : Fin 128) (n : Nat) (w : Bool) : PowerUpKept s (closeSession s o n w) := by
  unfold closeSession; split <;> simp

@[simp] theorem closeLost_powerUpKept (s : State) : PowerUpKept s (closeLost s) := by
  unfold closeLost; dsimp only; split
  all_goals simp

@[simp] theorem checkLocalEnd_powerUpKept (s : State) : PowerUpKept s (checkLocalEnd s) := by
  unfold checkLocalEnd localEnd; repeat' split
  all_goals simp

@[simp] theorem guardTest_powerUpKept (s : State) (fail : Nat) : PowerUpKept s (guardTest s fail) := by
  simp [guardTest]

theorem resumeDisplay_powerUpKept (s : State) : PowerUpKept s (resumeDisplay s) := by
  unfold resumeDisplay; dsimp only; split <;> exact ⟨rfl, rfl⟩

@[simp] theorem loadDisplay_powerUpKept (s : State) : PowerUpKept s (loadDisplay s) := by
  unfold loadDisplay
  exact resumeDisplay_powerUpKept _

/-- In a power-up: the module as the release left it, and no context stopped. -/
def PoweredUp (g : Glb) (s : State) : Prop := s.glb.fixed = g ∧ ∀ o, (s.ctx o).stopped = false

theorem PoweredUp.kept {g : Glb} {s t : State} (h : PoweredUp g s) (k : PowerUpKept s t) : PoweredUp g t :=
  ⟨k.1.trans h.1, fun o => by rw [State.ctx, k.2]; exact h.2 o⟩

theorem loadContexts_poweredUp {g : Glb} {s : State} (h : PoweredUp g s) : PoweredUp g (loadContexts s) := by
  have hglb : (loadContexts s).glb = s.glb := by unfold loadContexts; rfl
  refine ⟨(congrArg Glb.fixed hglb).trans h.1, fun o => ?_⟩
  simp only [loadContexts, State.ctx, vget, Vector.getElem_ofFn]
  split <;> rfl

/-- A context that is not stopped takes the new version, and enters no state (R232, R602). -/
theorem restartCtx_poweredUp {g : Glb} {s : State} (h : PoweredUp g s) (o : Fin 128) (version : Nat) :
    PoweredUp g (restartCtx s o version) := by
  unfold restartCtx
  dsimp only
  split
  · exact h
  · split
    · exact h
    · rw [if_neg (by simp [h.2 o])]
      split
      · refine ⟨by simpa using h.1, fun k => ?_⟩
        have hk := h.2 k
        simp only [State.ctx, State.onCtx, writeJournal_frame, vget_vmod] at hk ⊢
        split
        · exact hk
        · exact hk
      · exact h

theorem loadImage_poweredUp {g : Glb} {s : State} (h : PoweredUp g s) (k : Fin 4) : PoweredUp g (loadImage s k) := by
  unfold loadImage
  split
  · exact h
  · exact foldl_inv (PoweredUp g) _ _ _ (h.kept (by simp [putRest, putSafety, putProfiles])) fun t o ht => restartCtx_poweredUp ht o _

theorem loadConfig_poweredUp {g : Glb} {s : State} (h : PoweredUp g s) : PoweredUp g (loadConfig s) := by
  unfold loadConfig
  dsimp only
  repeat' split
  · exact h
  · exact loadImage_poweredUp (h.kept (imageStarts_powerUpKept _ _ _)) _
  · exact h.kept (imageStarts_powerUpKept _ _ _)
  · exact h.kept (by simp)
  · exact loadImage_poweredUp (h.kept (by simp [turnSlots])) _

theorem release_poweredUp (s : State) (slot : BitVec 2) (side dbg fk : Bool) (fail : Nat) :
    PoweredUp (latchStraps (afterReset (stopClocks s .powerOnReset)) slot side dbg).glb.fixed (release s slot side dbg fk fail) := by
  refine release_parts s slot side dbg fk fail _ ⟨rfl, fun o => ?_⟩ (fun s k f h => h.kept ⟨rfl, rfl⟩) fun s h => ?_
  · simp [State.ctx, latchStraps, afterReset, vget]
  · exact ⟨h.kept (loadClock_powerUpKept s), h.kept (reportUnwritten_powerUpKept s), h.kept (loadKeys_powerUpKept s),
      h.kept (missingFirmware_powerUpKept s), fun t => h.kept (startFirmware_powerUpKept s t), loadContexts_poweredUp h,
      loadConfig_poweredUp h, h.kept (loadCommit_powerUpKept s), h.kept (endOutage_powerUpKept s _), h.kept (takeKeep_powerUpKept s),
      h.kept (wakeRecord_powerUpKept s fk), fun k => h.kept (mergeTamper_powerUpKept s k), h.kept (closeLost_powerUpKept s),
      h.kept (loadDisplay_powerUpKept s), h.kept (checkLocalEnd_powerUpKept s), h.kept (guardTest_powerUpKept s fail)⟩

/-- The release starts the module with the straps it latches (R30, R36 step 7). -/
theorem release_module (s : State) (slot : BitVec 2) (side dbg fk : Bool) (fail : Nat) :
    let t := release s slot side dbg fk fail
    t.glb.phase = .running ∧ t.glb.porDue = false ∧ t.glb.slot = slot ∧ t.glb.side = side ∧ t.glb.dbg = dbg := by
  obtain ⟨hphase, hdue, ⟨hslot, hside, hdbg⟩, -⟩ := Glb.fixed_fields (release_poweredUp s slot side dbg fk fail).1
  exact ⟨hphase, hdue, hslot, hside, hdbg⟩

end Sys2Proof.Machine
end


section
/-! The insertion of the module stage by stage (R34 to R36, R38 to R40, R575). -/

namespace Sys2Proof.Machine

theorem keepSample_frame (s : State) : s.keepSample = { s with tim := s.keepSample.tim, keep := s.keepSample.keep } := by
  unfold State.keepSample
  split
  · exact toTick_frame _ _
  · rfl

/-- Of keeping memory the passing of time changes the real-time clock only (R46, R78). -/
theorem toTick_keep (s : State) (d : Nat) :
    (s.toTick d).keep = { s.keep with rtc := (s.toTick d).keep.rtc, rtcRem := (s.toTick d).keep.rtcRem } := by
  unfold State.toTick State.advance
  split <;> rfl

/-- Contact stage `k` makes (R36): a module that was out of its slot enters the Inserting state. -/
def stageMade (s : State) (k : Fin 5) : State :=
  { s with glb := { s.glb with
    stage := max s.glb.stage k.val
    phase := if s.glb.phase = .unpowered ∧ s.glb.stage < 2 ∧ s.glb.stage < k.val then .inserting else s.glb.phase } }

/-- With the second stage come the supplies, and the always-on domain starts from VBAT (R36 steps 2 and 3). -/
def suppliesMade (s : State) (k : Fin 5) (vin : Nat) : State :=
  if s.glb.stage < 2 ∧ 2 ≤ k.val then
    let t := seeVin (stageMade s k) vin
    { t with glb := { t.glb with aonOnBattery := true } }
  else stageMade s k

theorem exec_stageInsertion (s : State) (k : Fin 5) (contacts : BitVec 4) (vin : Nat) : exec (.stageInsertion k contacts vin) s =
    .next (if k.val = 4 then makeContacts (suppliesMade s k vin) contacts else suppliesMade s k vin) := by
  rfl

/-- A stage that makes already changes nothing. -/
theorem stageMade_old {s : State} {k : Fin 5} (h : k.val ≤ s.glb.stage) : stageMade s k = s := by
  have hp : ¬ (s.glb.phase = .unpowered ∧ s.glb.stage < 2 ∧ s.glb.stage < k.val) := by omega
  simp only [stageMade, if_neg hp, Nat.max_eq_left h]

theorem suppliesMade_old {s : State} {k : Fin 5} (h : k.val ≤ s.glb.stage) (vin : Nat) : suppliesMade s k vin = s := by
  rw [suppliesMade, if_neg (by omega), stageMade_old h]

theorem suppliesMade_frame (s : State) (k : Fin 5) (vin : Nat) : suppliesMade s k vin = { s with glb := (suppliesMade s k vin).glb } := by
  unfold suppliesMade
  split <;> rfl

/-- The seating contacts that make add to those that read low; the last of them starts the 20 ms (R34). -/
theorem makeContacts_eq (s : State) (c : BitVec 4) :
    makeContacts s c = { s with glb := (makeContacts s c).glb, tim := (makeContacts s c).tim, keep := (makeContacts s c).keep } ∧
    (makeContacts s c).glb = { s.glb with
      seat := s.glb.seat ||| c
      seatLowSince := (makeContacts s c).glb.seatLowSince, seatHighSince := (makeContacts s c).glb.seatHighSince } ∧
    (s.glb.seat ≠ 0xF → s.glb.seat ||| c = 0xF → (makeContacts s c).glb.seatLowSince = (makeContacts s c).now) := by
  unfold makeContacts
  dsimp only
  by_cases h : s.glb.seat ||| c = s.glb.seat
  · rw [if_pos h, h]
    exact ⟨rfl, rfl, fun h1 h2 => absurd h2 h1⟩
  · rw [if_neg h, keepSample_frame]
    exact ⟨rfl, rfl, fun _ h2 => if_pos h2⟩

/-- A module seated in full whose 20 ms have passed (R34). -/
def seatedAt (s : State) : State := s.toTick (s.glb.seatLowSince + 20 * msNs)

/-- The dies are powered, and power-on reset is held with PERST# (R36 step 6). -/
def diesPowered (s : State) : State :=
  { s with glb := { s.glb with
    phase := .powerOnReset, insertion := true, perst := true, aonOnBattery := decide (s.glb.vin < 15000) } }

/-- The dies are powered 20 ms after the last contact, where VIN is in range (R34 to R36 step 6). -/
theorem powerDies_seatedAt {s : State} (hp : s.glb.phase = .inserting) (hs : s.glb.stage = 4) (hc : s.glb.seat = 0xF) :
    powerDies (seatedAt s) = if s.glb.vinOk then diesPowered (seatedAt s) else seatedAt s := by
  have hglb : (seatedAt s).glb = s.glb := toTick_glb _ _
  have hsince : (seatedAt s).since s.glb.seatLowSince (20 * msNs) = true := decide_eq_true (toTick_reaches s _)
  unfold powerDies
  simp only [hglb, hp, hs, hc, hsince, true_and, and_true, diesPowered]

theorem exec_seated {s : State} (hp : s.glb.phase = .inserting) (hs : s.glb.stage = 4) (hc : s.glb.seat = 0xF) :
    exec .seated s = .next (powerDies (seatedAt s)) := by
  change execSeated s = _
  exact congrArg Host.Outcome.next (if_pos (by simp [hp, hs, hc]))

/-- The 20 ms of the seating pass and change nothing but the clocks. -/
theorem seatedAt_eq (s : State) : seatedAt s = { s with tim := (seatedAt s).tim, keep := (seatedAt s).keep } :=
  toTick_frame s _

/-- What the module shows once the contacts of stage `k` make (R36). -/
theorem suppliesMade_stage (s : State) (k : Fin 5) (vin : Nat) :
    (suppliesMade s k vin).glb.stage = max s.glb.stage k.val ∧ (suppliesMade s k vin).glb.seat = s.glb.seat ∧
    (suppliesMade s k vin).glb.phase =
      if s.glb.phase = .unpowered ∧ s.glb.stage < 2 ∧ s.glb.stage < k.val then .inserting else s.glb.phase := by
  unfold suppliesMade
  split <;> exact ⟨rfl, rfl, rfl⟩

/-- The supplies come with the second stage, and VIN is read (R36 steps 2 and 3, R45). -/
theorem suppliesMade_supplies {s : State} {k : Fin 5} (h : s.glb.stage < 2 ∧ 2 ≤ k.val) (vin : Nat) :
    (suppliesMade s k vin).glb.vin = vin ∧ (suppliesMade s k vin).glb.aonOnBattery = true ∧
    (vin < 17500 → (suppliesMade s k vin).glb.vinOk = false) ∧ (18000 ≤ vin → (suppliesMade s k vin).glb.vinOk = true) := by
  rw [suppliesMade, if_pos h]
  exact ⟨rfl, rfl, seeVin_low (stageMade s k), seeVin_high (stageMade s k)⟩

/-- Before the second stage, and after it, no stage brings supplies. -/
theorem suppliesMade_noSupplies {s : State} {k : Fin 5} (h : 2 ≤ s.glb.stage ∨ k.val < 2) (vin : Nat) :
    (suppliesMade s k vin).glb.vin = s.glb.vin ∧ (suppliesMade s k vin).glb.vinOk = s.glb.vinOk ∧
    (suppliesMade s k vin).glb.aonOnBattery = s.glb.aonOnBattery := by
  rw [suppliesMade, if_neg (by omega)]
  exact ⟨rfl, rfl, rfl⟩

/-- A change of the module first adds nothing to what a change of the module, the clocks and keeping memory may touch. -/
theorem frame_afterGlb {s t u : State} (ht : ∃ g, t = { s with glb := g })
    (hu : u = { t with glb := u.glb, tim := u.tim, keep := u.keep }) : u = { s with glb := u.glb, tim := u.tim, keep := u.keep } := by
  obtain ⟨g, rfl⟩ := ht
  exact hu

/-- The module after a contact stage, its seating contacts in the fourth (R34, R36). -/
def inserted (s : State) (k : Fin 5) (contacts : BitVec 4) (vin : Nat) : State :=
  if k.val = 4 then makeContacts (suppliesMade s k vin) contacts else suppliesMade s k vin

/-- Of the module the seating contacts change themselves and the times they are judged by; the rest is what the stage made. -/
theorem inserted_eq (s : State) (k : Fin 5) (c : BitVec 4) (vin : Nat) :
    let t := inserted s k c vin
    t = { s with glb := t.glb, tim := t.tim, keep := t.keep } ∧
    t.glb = { (suppliesMade s k vin).glb with
      seat := if k.val = 4 then s.glb.seat ||| c else s.glb.seat
      seatLowSince := t.glb.seatLowSince, seatHighSince := t.glb.seatHighSince } ∧
    (k.val = 4 → s.glb.seat ≠ 0xF → s.glb.seat ||| c = 0xF → t.glb.seatLowSince = t.now) := by
  have hframe := suppliesMade_frame s k vin
  have hseat := (suppliesMade_stage s k vin).2.1
  unfold inserted
  by_cases hk : k.val = 4
  · obtain ⟨hrest, hglb, hlast⟩ := makeContacts_eq (suppliesMade s k vin) c
    rw [hseat] at hglb hlast
    simp only [if_pos hk]
    exact ⟨frame_afterGlb ⟨_, hframe⟩ hrest, hglb, fun _ => hlast⟩
  · simp only [if_neg hk]
    refine ⟨frame_afterGlb ⟨_, hframe⟩ rfl, ?_, fun h => absurd h hk⟩
    rw [← hseat]

/-- A module that leaves Keep (R575): VIN is back, and it goes on as one that is inserted. -/
def keepLeft (s : State) (vin : Nat) : State :=
  { seeVin s vin with glb := { (seeVin s vin).glb with phase := .inserting, leftKeep := true } }

theorem exec_vinReturnLeavingKeep {s : State} {vin : Nat} (hp : s.glb.phase = .keep) (hv : 18000 ≤ vin) (slot : BitVec 2)
    (side dbg : Bool) (f : Fin 5) : exec (.vinReturnLeavingKeep vin slot side dbg f) s = .next (
      if s.glb.seat == 0xF then
        let t := powerDies (seatedAt (keepLeft s vin))
        if t.glb.phase == .powerOnReset && !t.glb.cabRst then release t slot side dbg true f.val else t
      else keepLeft s vin) := by
  have hback : ((seeVin s vin).glb.phase == .keep && (seeVin s vin).glb.vinOk) = true := by
    rw [seeVin_high s hv, Bool.and_true]; exact beq_iff_eq.mpr hp
  change execVinReturnLeavingKeep vin slot side dbg f s = _
  exact congrArg Host.Outcome.next (if_pos hback)

/-- The wait of R38 is over: insertion goes on from its step 5. -/
def reseatAllowed (s : State) (t0 : Nat) : State :=
  let t := s.toTick (t0 + 10 * msNs)
  { t with glb := { t.glb with phase := .inserting, stage := min 3 t.glb.stage, seatHighSince := none } }

theorem exec_reseatWaitEnd {s : State} {t0 : Nat} (hp : s.glb.phase = .unpowered) (h : s.glb.seatHighSince = some t0) :
    exec .reseatWaitEnd s = .next (reseatAllowed s t0) := by
  change execReseatWaitEnd s = _
  simp [execReseatWaitEnd, hp, h, endRemoval, reseatAllowed]

theorem exec_reseatWaitEnd_contact {s : State} (h : s.glb.seatHighSince = none) : exec .reseatWaitEnd s = .next s := by
  change execReseatWaitEnd s = _
  unfold execReseatWaitEnd
  rw [h]
  cases s.glb.phase <;> rfl

/-- A seat loss while power-on reset is held in an insertion abandons it (R39). -/
theorem exec_seatLoss_insertion {s : State} {k : BitVec 4} (hk : k ≠ 0) (hp : s.glb.phase = .powerOnReset)
    (hi : s.glb.insertion = true) (bits : List Byte) :
    exec (.seatLoss k bits) s = .next (abandonInsertion (contactsLost (s.toTick (s.now + 10 * usNs)) k)) := by
  rw [exec_seatLoss hk (by simp [hp]), seatLost_insertion (.inr (.inr ?_)) ?_]
  · simpa [contactsLost] using hp
  · simpa [contactsLost] using hi

/-- Settles O37: the steps of an insertion in turn; `release_module` says what the release leaves of the module. -/
theorem insertionSteps : Obligations.InsertionSteps := by
  refine ⟨fun s k c vin hk h4 => ?madeAlready, fun s k c vin => ?stage, fun s hp hs hc hv => ?powered, fun s hp hs hc hv => ?waits,
    fun s slot side dbg f hv hr hp => ?released, fun s slot side dbg f h => ?held, fun s vin slot side dbg f hp hc hs hv hr => ?leftKeep,
    fun s vin slot side dbg f hp hc hv => ?unseated, fun s => rfl, fun s t0 hp h => ?reseat, fun s h => exec_reseatWaitEnd_contact h,
    fun s k bits hk hp hi => ?abandoned⟩
  case madeAlready =>
    have h4' : k.val ≠ 4 := fun h => h4 (Fin.ext h)
    rw [exec_stageInsertion, if_neg h4', suppliesMade_old hk]
  case stage =>
    obtain ⟨hrest, hglb, hlast⟩ := inserted_eq s k c vin
    obtain ⟨hstage, -, hphase⟩ := suppliesMade_stage s k vin
    refine ⟨inserted s k c vin, exec_stageInsertion s k c vin, hrest, ?_, ?_, fun h1 h2 => ?_, fun h => ?_, ?_, hlast⟩ <;> rw [hglb]
    · exact hstage
    · exact hphase
    · exact suppliesMade_supplies ⟨h1, h2⟩ vin
    · exact suppliesMade_noSupplies h vin
  case powered =>
    refine ⟨diesPowered (seatedAt s), by rw [exec_seated hp hs hc, powerDies_seatedAt hp hs hc, if_pos hv], rfl, rfl, rfl, ?_,
      toTick_reaches s _, ?_⟩
    · simp [diesPowered, seatedAt]
    · rw [diesPowered, seatedAt_eq]
  case waits =>
    refine ⟨seatedAt s, by rw [exec_seated hp hs hc, powerDies_seatedAt hp hs hc, if_neg (by simp [hv])], toTick_reaches s _,
      seatedAt_eq s⟩
  case released =>
    have hgo : (s.glb.vinOk && !s.glb.cabRst && (s.glb.phase == .powerOnReset || s.glb.porDue)) = true := by simpa [hv, hr] using hp
    obtain ⟨hphase, hdue, hslot, hside, hdbg⟩ := release_module s slot side dbg s.glb.leftKeep f.val
    exact ⟨_, congrArg Host.Outcome.next (if_pos hgo), hphase, hslot, hside, hdbg, hdue⟩
  case held =>
    have hstay : ¬ (s.glb.vinOk && !s.glb.cabRst && (s.glb.phase == .powerOnReset || s.glb.porDue)) = true := by
      rcases h with h | h <;> simp [h]
    exact congrArg Host.Outcome.next (if_neg hstay)
  case leftKeep =>
    have hok : (keepLeft s vin).glb.vinOk = true := seeVin_high s hv
    have hdies : powerDies (seatedAt (keepLeft s vin)) = diesPowered (seatedAt (keepLeft s vin)) := by
      rw [powerDies_seatedAt (s := keepLeft s vin) rfl hs hc, if_pos hok]
    have hreset : (seatedAt (keepLeft s vin)).glb.cabRst = false := by rw [seatedAt, toTick_glb]; exact hr
    obtain ⟨hphase, -, hlatched⟩ := release_module (diesPowered (seatedAt (keepLeft s vin))) slot side dbg true f.val
    refine ⟨_, exec_vinReturnLeavingKeep hp hv slot side dbg f, ?_⟩
    rw [if_pos (beq_iff_eq.mpr hc), hdies, if_pos (by simp [diesPowered, hreset])]
    exact ⟨hphase, hlatched⟩
  case unseated =>
    refine ⟨keepLeft s vin, ?_, rfl, rfl, seeVin_high s hv, rfl⟩
    rw [exec_vinReturnLeavingKeep hp hv, if_neg (by simpa using hc)]
  case reseat =>
    refine ⟨reseatAllowed s t0, exec_reseatWaitEnd hp h, rfl, ?_, rfl, toTick_reaches s _, ?_⟩
    · simp [reseatAllowed]
    · rw [reseatAllowed, toTick_frame]
  case abandoned =>
    refine ⟨_, exec_seatLoss_insertion hk hp hi bits, ?_⟩
    rw [abandonInsertion_eq, contactsLost, toTick_frame, toTick_keep]
    exact ⟨rfl, rfl, rfl, rfl, rfl, rfl⟩

end Sys2Proof.Machine
end


section
/-! Signed records, readings, tampers and objects (R50, R398 to R405, R415 to R424, R431). -/

namespace Sys2Proof.Machine

/-! ### The release of a record (R415, R418) -/

/-- What a release signals leaves the records as they are. -/
theorem bufferHigh_records (s : State) : (bufferHigh s).bil.recs = s.bil.recs ∧ (bufferHigh s).bil.recNext = s.bil.recNext := by
  unfold bufferHigh
  split
  · exact ⟨rfl, rfl⟩
  · split
    · exact ⟨rfl, rfl⟩
    · simp [bufferEvent]

theorem releasedEvent_records (s : State) (r : SignedRec) :
    (releasedEvent s r).bil.recs = s.bil.recs ∧ (releasedEvent s r).bil.recNext = s.bil.recNext := by
  unfold releasedEvent
  dsimp only
  split <;> simp [bufferHigh_records]

/-- The record as it is kept: with the next sequence number and its signature under the meter-signing key `d` (R415, R418). -/
def signedAs (v : State) (d : BitVec 256) (r : SignedRec) : SignedRec :=
  let x := { r with recSeq := v.bil.recNext }
  let g := ecdsaSign d (sha256 (wordBytes (recordWords x))) v.fresh
  { x with r := g.1, s := g.2, cmd := none }

/-- With random values and the key a record is released: it stands at the end of the records, and the next number is one higher. -/
theorem releaseRecord_released {s v : State} {d : BitVec 256} (hr : s.key.rngOk = true) (hk : meterKey s = (some d, v))
    (hl : v.bil.recs.length < 4096) (r : SignedRec) : ∃ t, releaseRecord s r = some t ∧
      t.bil.recs = v.bil.recs ++ [signedAs v d r] ∧ t.bil.recNext = v.bil.recNext + 1 := by
  have fits : ¬ 4096 < (v.bil.recs ++ [signedAs v d r]).length := by
    rw [List.length_append, List.length_singleton]; omega
  unfold releaseRecord
  rw [if_neg (by simp [hr]), hk]
  exact ⟨_, rfl, (releasedEvent_records _ _).1.trans (if_neg fits), (releasedEvent_records _ _).2⟩

/-- A single waiting record whose commit is written is released, and none waits any longer (R415). -/
theorem releaseAll_single {s t : State} {r : SignedRec} (hc : r.endCommit ≤ (s.enr.committed.map (·.number)).getD 0)
    (hu : s.bil.unacked < 4096) (ho : s.bil.overflow = []) (ht : releaseRecord s r = some t) :
    releaseAll [r] s = { t with bil := { t.bil with waiting := [] } } := by
  unfold releaseAll
  rw [if_neg (by omega), if_pos ⟨hu, by simp [ho]⟩, ht]
  rfl

theorem exec_recordRelease {s : State} (hc : s.clocksRun = true) (hl : s.tie.legalStopped = false) (hf : s.fwRuns 1 = true)
    (hr : s.tie.role ≠ .standby) : exec .recordRelease s = .next (releaseAll s.bil.waiting s) := by
  change execRecordRelease s = _
  simp [execRecordRelease, hc, hl, hf, hr]

theorem exec_recordRelease_stopped {s : State} (h : s.clocksRun = false ∨ s.tie.legalStopped = true ∨ s.fwRuns 1 = false) :
    exec .recordRelease s = .next s := by
  refine congrArg Host.Outcome.next (if_pos ?_)
  rcases h with h | h | h <;> simp [h]

/-! ### Acknowledge records (R418, R420) -/

/-- A record that has not been released cannot be acknowledged. -/
theorem effAcknowledgeRecords_ahead {s : State} {c : Cmd} (h : later (c.p 0) (s.bil.recNext - 1) = true) :
    effAcknowledgeRecords c s = complete s c 0x02 := if_pos (.inl h)

/-- An acknowledgement of released records that brings nothing new. -/
theorem effAcknowledgeRecords_old {s : State} {c : Cmd} (hl : later (c.p 0) (s.bil.recNext - 1) = false)
    (hd : (c.p 0 - (s.bil.recNext - 1)).toNat ≠ 2 ^ 31) (ha : later (c.p 0) s.bil.recAcked = false) :
    effAcknowledgeRecords c s = complete s c 0x00 := by
  unfold effAcknowledgeRecords
  dsimp only
  rw [if_neg (not_or.mpr ⟨ne_true_of_eq_false hl, hd⟩), if_pos (by simp [ha])]

/-- The records up to the command's are acknowledged, and no Buffer event of causes 1 and 2 stands. -/
def acknowledged (s : State) (c : Cmd) : State := { s with bil := { s.bil with
  recAcked := c.p 0, overflow := [], fullPosted := false, refPosted := false } }

/-- An acknowledgement of released records with an empty overflow moves the last acknowledged number. -/
theorem effAcknowledgeRecords_new {s : State} {c : Cmd} (ho : s.bil.overflow = []) (hp : s.bil.highPosted = false)
    (hl : later (c.p 0) (s.bil.recNext - 1) = false) (hd : (c.p 0 - (s.bil.recNext - 1)).toNat ≠ 2 ^ 31)
    (ha : later (c.p 0) s.bil.recAcked = true) : effAcknowledgeRecords c s = complete (acknowledged s c) c 0x00 := by
  unfold effAcknowledgeRecords
  dsimp only
  rw [if_neg (not_or.mpr ⟨ne_true_of_eq_false hl, hd⟩), if_neg (by simp [ha])]
  simp [ho, hp, drainOverflow, acknowledged]

/-! ### Sign reading (R419, R420) and Select plan (R405) -/

/-- A reading for which a slot is free: it is released at once, or its command fails where no signature can be made. -/
def readingAtOnce (s : State) (c : Cmd) (r : SignedRec) : State :=
  match releaseRecord s r with
  | some t => t
  | none => withRandom c s fun s => complete s c 0x0A

theorem readingAtOnce_released {s t : State} {r : SignedRec} (h : releaseRecord s r = some t) (c : Cmd) : readingAtOnce s c r = t := by
  unfold readingAtOnce; rw [h]

theorem readingAtOnce_unsigned {s : State} {r : SignedRec} (h : releaseRecord s r = none) (hk : s.key.rngOk = true) (c : Cmd) :
    readingAtOnce s c r = complete s c 0x0A := by
  unfold readingAtOnce; rw [h]; exact if_pos hk

/-- Sign reading of an outlet whose legal part serves and whose overflow has room (R419, R420). -/
theorem effSignReading_outlet {s : State} {c : Cmd} {o : Fin 128} (ho : s.ofHandle c.handle.toNat = some o)
    (hl : s.tie.legalStopped = false) (hr : s.bil.overflow.length < 768) : effSignReading c s =
      if s.enr.committed.isNone then s
      else if s.bil.unacked < 4096 ∧ s.bil.overflow.isEmpty then readingAtOnce s c (readingRecord s o c)
      else overflowRecord (started s c) (readingRecord s o c) :=
  (onOutlet_ofHandle ho _).trans (if_neg (by simp [hl]; omega))

theorem effSignReading_full {s : State} {c : Cmd} {o : Fin 128} (ho : s.ofHandle c.handle.toNat = some o)
    (hr : 768 ≤ s.bil.overflow.length) : effSignReading c s = complete s c 0x0A :=
  (onOutlet_ofHandle ho _).trans (if_pos (.inl hr))

theorem effSignReading_atOnce {s : State} {c : Cmd} {o : Fin 128} (ho : s.ofHandle c.handle.toNat = some o)
    (hl : s.tie.legalStopped = false) (hc : s.enr.committed ≠ none) (hov : s.bil.overflow = []) (hu : s.bil.unacked < 4096) :
    effSignReading c s = readingAtOnce s c (readingRecord s o c) := by
  rw [effSignReading_outlet ho hl (by simp [hov]), if_neg (by simpa using hc), if_pos ⟨hu, by simp [hov]⟩]

/-- Without a free slot the reading waits in the overflow, and its command with it. -/
theorem effSignReading_overflow {s : State} {c : Cmd} {o : Fin 128} (ho : s.ofHandle c.handle.toNat = some o)
    (hl : s.tie.legalStopped = false) (hc : s.enr.committed ≠ none) (hr : s.bil.overflow.length < 768)
    (hf : 4096 ≤ s.bil.unacked ∨ s.bil.overflow ≠ []) :
    effSignReading c s = overflowRecord (started s c) (readingRecord s o c) := by
  have noneFree : ¬ (s.bil.unacked < 4096 ∧ s.bil.overflow.isEmpty = true) := fun ⟨hu, he⟩ =>
    hf.elim (fun h => by omega) fun h => h (List.isEmpty_iff.mp he)
  rw [effSignReading_outlet ho hl hr, if_neg (by simpa using hc), if_neg noneFree]

/-- Select plan of an outlet (R405). -/
theorem effSelectPlan_outlet {s : State} {c : Cmd} {o : Fin 128} (ho : s.ofHandle c.handle.toNat = some o) : effSelectPlan c s =
    if (s.bil.tariff.plan (fin 64 (fld (c.p 0) 0 6))).count = 0 then complete s c 0x02
    else if (s.bil1 o).session.isSome then complete s c 0x0A
    else complete (s.onBil o fun b => { b with selected := fin 64 (fld (c.p 0) 0 6) }) c 0 := onOutlet_ofHandle ho _

/-! ### Tamper inputs (R50, R424) -/

/-- A tamper input that the always-on domain counts with its RTC time (R50). -/
def tamperKept (s : State) (k : Fin 4) : State := { s with keep := { s.keep with
  tampers := vmod s.keep.tampers k fun t => (t.1 + 1, if t.1 = 0 then s.keep.rtc else t.2.1, s.keep.rtc) } }

theorem exec_tamperInput {s : State} (h : s.clocksRun = true) (k : Fin 4) :
    exec (.tamperInput k) s = .next (tamper s ⟨k.val, by omega⟩ 0x8000 none) := congrArg Host.Outcome.next (if_pos h)

theorem exec_tamperInput_off {s : State} (h : s.clocksRun = false) (k : Fin 4) :
    exec (.tamperInput k) s = .next (tamperKept s.keepSample k) := congrArg Host.Outcome.next (if_neg (by simp [h]))

/-! ### Objects (R398 to R401, R431) -/

/-- The roles that may read an object of a class (R399). -/
def objReaders (cls : Nat) : List Nat := if cls = 5 then [1, 2, 4] else [1, 2, 4, 5]

theorem effReadObject_refused {s : State} {c : Cmd} (h : objBuffer c = false ∨ objectOf s c = none) :
    effReadObject c s = complete s c 0x02 := by
  unfold effReadObject
  split
  · rfl
  next hb =>
    rcases h with h | h
    · simp [h] at hb
    · rw [h]

theorem effReadObject_found {s : State} {c : Cmd} {x : Obj} (hb : objBuffer c = true) (hx : objectOf s c = some x) :
    effReadObject c s = if (objReaders x.cls).contains (s.roleOf c) = false then refuseRole s c
      else if fld (c.p 5) 0 16 < (objBlock s x).length then complete s c 0x0A
      else complete (s.hostWrite (BitVec.ofNat 64 (c.p2 3)) (objBlock s x)) c 0 (BitVec.ofNat 32 (objBlock s x).length) := by
  unfold effReadObject
  rw [if_neg (by simp [hb]), hx]
  exact if_congr (by simp [objReaders]) rfl rfl

theorem hostWrite_inFlight {s : State} {c : Cmd} (h : InFlight s c) (a : BitVec 64) (b : List Byte) : InFlight (s.hostWrite a b) c :=
  inFlight_same h (by rw [hostWrite_same])

/-- The operator object that a command addresses, with LENGTH bytes replaced from its first one (R398, log 97). -/
def operObjWritten (s : State) (c : Cmd) : State :=
  { s with bil := { s.bil with operObjs := vmod s.bil.operObjs (fin 256 (fld (c.p 2) 0 8)) fun b =>
    (c.data ++ List.replicate (fld (c.p 5) 0 16) 0).take (fld (c.p 5) 0 16) ++ b.drop (fld (c.p 5) 0 16) } }

theorem effWriteObject_found {s : State} {c : Cmd} {x : Obj} (ha : c.p2 3 % 64 = 0) (h0 : 0 < fld (c.p 5) 0 16)
    (h64 : fld (c.p 5) 0 16 ≤ 64) (hx : objectOf s c = some x) :
    effWriteObject c s = if x.cls ≠ 5 then refuseRole s c else complete (operObjWritten s c) c 0x00 := by
  unfold effWriteObject
  dsimp only
  rw [if_neg (by omega), hx]
  rfl

/-- Settles O29: each command by the equation of its effect; the release of a record by `releaseRecord_released`. -/
theorem signedRecordsAndObjects : Obligations.SignedRecordsAndObjects := by
  refine ⟨fun s r u d v hc hl hf hs hw he hu ho hk hm hcmd eu hroom => ?release, fun s h => exec_recordRelease_stopped h,
    fun s c h ho hp => ⟨fun hl => ready_eq h (effAcknowledgeRecords_ahead hl),
      fun hl hd ha => ready_eq h (effAcknowledgeRecords_old hl hd ha), fun hl hd ha => ?acknowledge⟩,
    fun s c o h ho hl => ⟨fun t hc hov hu ht => ?signed, fun hc hov hu hn hk => ?unsigned,
      fun hc hr hfull => ready_eq h (effSignReading_overflow ho hl hc hr hfull), fun hc hr => ?beforeCommit,
      fun hr => ready_eq h (effSignReading_full ho hr)⟩,
    fun s c o h ho => ⟨fun hp hn => ?selected, fun hp hn => ?sessionOpen, fun hp => ?noPlan⟩,
    fun s k => ⟨fun hc => exec_tamperInput hc k, fun u hc hu => ?kept⟩,
    fun s c x h hb hx => ⟨fun hrole => ⟨fun hlen => ?read, fun hlen => ?tooLong⟩, fun hrole => ?notReader⟩,
    fun s c h hn => ready_eq h (effReadObject_refused hn), fun s c x h ha h0 h64 hx => ⟨fun h5 => ?written, fun h5 => ?notWriter⟩⟩
  case release =>
    obtain ⟨t, ht, recs, next⟩ := releaseRecord_released hk hm hroom r
    have own : signedAs v d r = u := by rw [eu, signedAs, ← hcmd]
    refine ⟨{ t with bil := { t.bil with waiting := [] } }, ?_, own ▸ recs, next, rfl⟩
    rw [exec_recordRelease hc hl hf hs, hw, releaseAll_single he hu ho ht]
  case acknowledge =>
    have flight : InFlight (acknowledged s c) c := inFlight_same h.cmd rfl
    refine ⟨_, ready_eq h (effAcknowledgeRecords_new ho hp hl hd ha), ?_, ?_, complete_done flight 0 0⟩ <;> simp [acknowledged]
  case signed => exact ready_eq h ((effSignReading_atOnce ho hl hc hov hu).trans (readingAtOnce_released ht c))
  case unsigned => exact ready_eq h ((effSignReading_atOnce ho hl hc hov hu).trans (readingAtOnce_unsigned hn hk c))
  case beforeCommit => exact ready_eq h (by rw [effSignReading_outlet ho hl hr, if_pos (by simp [hc])])
  case selected => exact ready_eq h (by rw [effSelectPlan_outlet ho, if_neg hp, if_neg (by simp [hn])])
  case sessionOpen => exact ready_eq h (by rw [effSelectPlan_outlet ho, if_neg hp, if_pos (Option.isSome_iff_ne_none.mpr hn)])
  case noPlan => exact ready_eq h (by rw [effSelectPlan_outlet ho, if_pos hp])
  case kept =>
    subst hu
    have own : vget (tamperKept s.keepSample k).keep.tampers k = _ := vget_vmod_same _ _ _
    refine ⟨_, exec_tamperInput_off hc k, rfl, ?_, ?_, ?_, fun j hj => vget_vmod_other _ _ _ _ hj.symm⟩ <;> rw [own]
  case read =>
    refine ⟨_, ready_eq h (by rw [effReadObject_found hb hx, if_neg (by rw [objReaders, hrole]; simp), if_neg (by omega)]),
      complete_done (hostWrite_inFlight h.cmd _ _) 0 _, fun hon => complete_out _ c 0 _ _ (hostWrite_sent _ _ hon)⟩
  case tooLong =>
    exact ready_eq h (by rw [effReadObject_found hb hx, if_neg (by rw [objReaders, hrole]; simp), if_pos hlen])
  case notReader => exact ready_eq h ((effReadObject_found hb hx).trans (if_pos hrole))
  case written => exact ready_eq h (by rw [effWriteObject_found ha h0 h64 hx, if_neg (by simp [h5])]; rfl)
  case notWriter => exact ready_eq h (by rw [effWriteObject_found ha h0 h64 hx, if_pos h5])

end Sys2Proof.Machine
end


section
/-! The load channels (R552 to R556, R567): each operation changes its own channel and no other, and what it makes of it. -/

namespace Sys2Proof.Machine

theorem chan_congr {s t : State} (h : t.lsw.chans = s.lsw.chans) (k : Fin 32) : t.chan k = s.chan k := by
  unfold State.chan; rw [h]

theorem onChan_chan (s : State) (k j : Fin 32) (f : Chan → Chan) : (s.onChan k f).chan j = if k = j then f (s.chan j) else s.chan j :=
  vget_vmod _ _ _ _

@[simp] theorem onChan_chan_same (s : State) (k : Fin 32) (f : Chan → Chan) : (s.onChan k f).chan k = f (s.chan k) :=
  vget_vmod_same _ _ _

/-- Of what the load channels go by, `t` differs from `s` at most in channel `k` and in the mark that a channel is latched. -/
structure ChanOnly (k : Fin 32) (s t : State) : Prop where
  glb : t.glb = s.glb
  tim : t.tim = s.tim
  others : ∀ j, j ≠ k → t.chan j = s.chan j
  shutdown : t.lsw.shutdownAny = s.lsw.shutdownAny

theorem ChanOnly.refl (k : Fin 32) (s : State) : ChanOnly k s s := ⟨rfl, rfl, fun _ _ => rfl, rfl⟩

theorem ChanOnly.trans {k : Fin 32} {s t u : State} (h : ChanOnly k s t) (g : ChanOnly k t u) : ChanOnly k s u :=
  ⟨g.glb.trans h.glb, g.tim.trans h.tim, fun j hj => (g.others j hj).trans (h.others j hj), g.shutdown.trans h.shutdown⟩

theorem ChanOnly.now {k : Fin 32} {s t : State} (h : ChanOnly k s t) : t.now = s.now := congrArg Tim.tick h.tim

theorem onChan_only (s : State) (k : Fin 32) (f : Chan → Chan) : ChanOnly k s (s.onChan k f) :=
  ⟨rfl, rfl, fun j hj => by rw [onChan_chan, if_neg hj.symm], rfl⟩

theorem free_only (s : State) (k : Fin 32) : ChanOnly k s s.free.2 := ⟨rfl, rfl, fun _ _ => rfl, rfl⟩

@[simp] theorem chanEvent_chan (s : State) (k j : Fin 32) (cause : Nat) (by_ : Option Cmd) :
    (chanEvent s k cause by_).chan j = s.chan j := chan_congr (by simp [chanEvent]) j

theorem chanEvent_only (s : State) (k : Fin 32) (cause : Nat) (by_ : Option Cmd) : ChanOnly k s (chanEvent s k cause by_) :=
  ⟨by simp [chanEvent], by simp [chanEvent], fun j _ => chanEvent_chan s k j cause by_, by simp [chanEvent]⟩

theorem enterChan_only (s : State) (k : Fin 32) (st : ChanState) : ChanOnly k s (s.enterChan k st) := onChan_only s k _

/-- A channel enters a state with its timer at 0 (R554). -/
theorem enterChan_chan (s : State) (k : Fin 32) (st : ChanState) : (s.enterChan k st).chan k = { s.chan k with
    state := st, timer := 0, timerAt := s.now, onSince := if st = .on then s.now else (s.chan k).onSince
    current := if st = .on ∨ st = .limiting then (s.chan k).current else 0 } := onChan_chan_same s k _

theorem measureChan_only (s : State) (k : Fin 32) : ChanOnly k s (measureChan s k) := by
  have drawn (f : Chan → Chan) : ChanOnly k s (s.free.2.onChan k f) := (free_only s k).trans (onChan_only s.free.2 k f)
  unfold measureChan
  dsimp only
  split
  · exact onChan_only s k _
  · split
    · exact drawn _
    · exact drawn _
    · exact .refl k s

/-- Measuring a channel (R552) reads its current, and changes nothing else of it. -/
theorem measureChan_chan (s : State) (k : Fin 32) :
    (measureChan s k).chan k = { s.chan k with current := ((measureChan s k).chan k).current } := by
  have drawn (f : Chan → Chan) : (s.free.2.onChan k f).chan k = f (s.chan k) := onChan_chan_same s.free.2 k f
  unfold measureChan
  dsimp only
  split
  · rw [onChan_chan_same]
  · split
    · rw [drawn]
    · rw [drawn]
    · rfl

/-- With its bank absent a channel reads 0 A (R555). -/
theorem measureChan_absent {s : State} {k : Fin 32} (h : bankAbsent s k = true) : ((measureChan s k).chan k).current = 0 := by
  unfold measureChan
  rw [if_pos h, onChan_chan_same]

theorem chanOn_only (s : State) (k : Fin 32) : ChanOnly k s (chanOn s k) :=
  (enterChan_only s k .on).trans (measureChan_only _ k)

/-- A channel switches on with its timer at 0, and its current is read (R552, R554). -/
theorem chanOn_chan (s : State) (k : Fin 32) : (chanOn s k).chan k = { s.chan k with
    state := .on, timer := 0, timerAt := s.now, onSince := s.now, current := ((chanOn s k).chan k).current } := by
  unfold chanOn
  rw [measureChan_chan, enterChan_chan]
  rfl

theorem followDemand_only (s : State) (k : Fin 32) : ChanOnly k s (followDemand s k) := by
  unfold followDemand
  dsimp only
  split
  · split
    · exact chanOn_only s k
    · exact .refl k s
  · have ended := onChan_only s k fun c => { c with count := 0 }
    split
    · exact ended.trans (enterChan_only _ k .off)
    · exact ended.trans (enterChan_only _ k .off)
    · exact ended.trans (enterChan_only _ k .off)
    · exact ended

/-- A channel that is asked for switches on where it is off; otherwise it stays as it is (R554, R556). -/
theorem followDemand_asked {s : State} {k : Fin 32} (h : (s.chan k).demand = true) :
    followDemand s k = if (s.chan k).state = .off then chanOn s k else s := if_pos h

/-- A channel that is not asked for has no retry count, and does not conduct; a latch and a wait for cooling stand (R554, R556). -/
theorem followDemand_released {s : State} {k : Fin 32} (h : (s.chan k).demand = false) :
    ((followDemand s k).chan k).count = 0 ∧ ((followDemand s k).chan k).cmd = (s.chan k).cmd ∧
    ((followDemand s k).chan k).fsOn = (s.chan k).fsOn ∧
    ((followDemand s k).chan k).state =
      if (s.chan k).state = .latched ∨ (s.chan k).state = .thermalOff then (s.chan k).state else .off := by
  unfold followDemand
  dsimp only
  rw [if_neg (by simp [h])]
  cases hs : (s.chan k).state <;> simp [enterChan_chan, hs]

/-- What is asked of a channel does not change as it follows. -/
theorem followDemand_request (s : State) (k : Fin 32) :
    ((followDemand s k).chan k).cmd = (s.chan k).cmd ∧ ((followDemand s k).chan k).fsOn = (s.chan k).fsOn := by
  cases h : (s.chan k).demand
  · obtain ⟨-, hcmd, hfs, -⟩ := followDemand_released h
    exact ⟨hcmd, hfs⟩
  · rw [followDemand_asked h]
    split
    · rw [chanOn_chan]; exact ⟨rfl, rfl⟩
    · exact ⟨rfl, rfl⟩

/-! ### Events under R554 -/

/-- The channel with its retry count one higher. -/
def counted (s : State) (k : Fin 32) : State := s.onChan k fun c => { c with count := c.count + 1 }

/-- A channel is latched (R554). -/
def latchMarked (s : State) : State := { s with lsw := { s.lsw with latchAny := true } }

theorem latchMarked_only (s : State) (k : Fin 32) : ChanOnly k s (latchMarked s) := ⟨rfl, rfl, fun _ _ => rfl, rfl⟩

theorem countEvent_eq (s : State) (k : Fin 32) (cause : Nat) (after : ChanState) : countEvent s k cause after =
    let t := chanEvent (counted s k) k cause
    if (s.chan k).retries ≤ (s.chan k).count then
      chanEvent (latchMarked (t.enterChan k .latched)) k 1
    else t.enterChan k after := by
  have past : ((chanEvent (counted s k) k cause).chan k).retries + 1 ≤ ((chanEvent (counted s k) k cause).chan k).count ↔
      (s.chan k).retries ≤ (s.chan k).count := by simp [counted]
  unfold countEvent
  dsimp only
  exact if_congr past rfl rfl

theorem countEvent_only (s : State) (k : Fin 32) (cause : Nat) (after : ChanState) : ChanOnly k s (countEvent s k cause after) := by
  have counts : ChanOnly k s (chanEvent (counted s k) k cause) := (onChan_only s k _).trans (chanEvent_only _ k cause none)
  rw [countEvent_eq]
  dsimp only
  split
  · exact ((counts.trans (enterChan_only _ k .latched)).trans (latchMarked_only _ k)).trans (chanEvent_only _ k 1 none)
  · exact counts.trans (enterChan_only _ k after)

/-- An event raises the retry count; the channel is latched where the count stood at RETRIES already (R554). -/
theorem countEvent_chan (s : State) (k : Fin 32) (cause : Nat) (after : ChanState) : (countEvent s k cause after).chan k =
    ((counted s k).enterChan k (if (s.chan k).retries ≤ (s.chan k).count then .latched else after)).chan k := by
  have now : (chanEvent (counted s k) k cause).now = (counted s k).now := (chanEvent_only _ k cause none).now
  rw [countEvent_eq]
  dsimp only
  split
  · rw [chanEvent_chan]
    change ((chanEvent (counted s k) k cause).enterChan k .latched).chan k = _
    rw [enterChan_chan, enterChan_chan, chanEvent_chan, now]
  · rw [enterChan_chan, enterChan_chan, chanEvent_chan, now]

theorem countEvent_latchAny {s : State} {k : Fin 32} (h : (s.chan k).retries ≤ (s.chan k).count) (cause : Nat) (after : ChanState) :
    (countEvent s k cause after).lsw.latchAny = true := by
  rw [countEvent_eq]
  dsimp only
  rw [if_pos h]
  simp [chanEvent, latchMarked]

/-- The channel with one over-current event more. -/
def overCurrentSeen (s : State) (k : Fin 32) : State := s.onChan k fun c => { c with events := c.events + 1 }

theorem overCurrent_eq (s : State) (k : Fin 32) : overCurrent s k = countEvent (overCurrentSeen s k) k 0 .waiting := rfl

theorem overCurrent_only (s : State) (k : Fin 32) : ChanOnly k s (overCurrent s k) :=
  (onChan_only s k _).trans (countEvent_only _ k 0 .waiting)

/-- An over-current event puts the channel into its spacing, or latches it (R554). -/
theorem overCurrent_chan (s : State) (k : Fin 32) : ((overCurrent s k).chan k).count = (s.chan k).count + 1 ∧
    ((overCurrent s k).chan k).events = (s.chan k).events + 1 ∧ ((overCurrent s k).chan k).timer = 0 ∧
    ((overCurrent s k).chan k).state = (if (s.chan k).retries ≤ (s.chan k).count then .latched else .waiting) ∧
    ((overCurrent s k).chan k).current = 0 := by
  rw [overCurrent_eq, countEvent_chan, enterChan_chan]
  simp only [counted, overCurrentSeen, onChan_chan_same]
  refine ⟨trivial, trivial, trivial, trivial, if_neg ?_⟩
  split <;> simp

theorem overCurrent_latchAny {s : State} {k : Fin 32} (h : (s.chan k).retries ≤ (s.chan k).count) :
    (overCurrent s k).lsw.latchAny = true :=
  countEvent_latchAny (by rw [onChan_chan_same]; exact h) 0 .waiting

/-! ### Time that runs to the end of a spacing -/

theorem toTick_chan (s : State) (d : Nat) (k : Fin 32) : (s.toTick d).chan k = s.chan k := by rw [toTick_frame]; rfl

theorem toSpacing_chan (s : State) (k j : Fin 32) : (toSpacing s k).chan j = s.chan j := toTick_chan s _ j

theorem toSpacing_reaches (s : State) (k : Fin 32) :
    (s.chan k).timerAt + ((s.chan k).spacing * 1000000 - (s.chan k).timer) ≤ (toSpacing s k).now := toTick_reaches s _

theorem exec_limitingExpiry {s : State} {k : Fin 32} (hc : s.clocksRun = true) (hs : (s.chan k).state = .limiting)
    (hb : bankOk s k = true) : exec (.limitingExpiry k) s = .next (overCurrent (toSpacing s k) k) := by
  change execLimitingExpiry k s = _
  simp [execLimitingExpiry, hc, hs, hb]

theorem exec_retrySpacingEnd_waiting {s : State} {k : Fin 32} (hc : s.clocksRun = true) (hs : (s.chan k).state = .waiting)
    (hb : bankOk s k = true) : exec (.retrySpacingEnd k) s = .next (endSpacing (toSpacing s k) k) := by
  change execRetrySpacingEnd k s = _
  simp [execRetrySpacingEnd, hc, hs, hb]

theorem exec_retrySpacingEnd_hot {s : State} {k : Fin 32} (hc : s.clocksRun = true) (hs : (s.chan k).state = .thermalOff)
    (hb : bankOk s k = true) (h : (s.chan k).cooled = false) : exec (.retrySpacingEnd k) s = .next (toSpacing s k) := by
  change execRetrySpacingEnd k s = _
  simp [execRetrySpacingEnd, hc, hs, hb, toSpacing_chan, h]

/-- With the bank's supply below 18 V a spacing is suspended (R555). -/
theorem exec_spacing_suspended {s : State} {k : Fin 32} (h : bankOk s k = false) :
    exec (.limitingExpiry k) s = .next s ∧ exec (.retrySpacingEnd k) s = .next s := by
  change execLimitingExpiry k s = _ ∧ execRetrySpacingEnd k s = _
  simp [execLimitingExpiry, execRetrySpacingEnd, h]

/-- A channel within its RETRIES that is asked for switches on at the end of its spacing (R554). -/
theorem endSpacing_on {s : State} {k : Fin 32} (hr : (s.chan k).count ≤ (s.chan k).retries) (hd : (s.chan k).demand = true) :
    endSpacing s k = chanOn s k := by
  unfold endSpacing
  rw [if_neg (by omega), if_pos hd]

theorem exec_limitingChange_start {s : State} {k : Fin 32} (hc : s.clocksRun = true) (hs : (s.chan k).state = .on) :
    exec (.limitingChange k true) s = .next (measureChan (s.enterChan k .limiting) k) := by
  change execLimitingChange k true s = _
  simp [execLimitingChange, hc, hs]

theorem exec_limitingChange_end {s : State} {k : Fin 32} (hc : s.clocksRun = true) (hs : (s.chan k).state = .limiting)
    (he : elapsed s k < (s.chan k).spacing * 1000000) : exec (.limitingChange k false) s = .next (chanOn s k) := by
  change execLimitingChange k false s = _
  have within : elapsed s k < (s.chan k).spacing * msNs := he
  simp [execLimitingChange, hc, hs, within]

theorem exec_retryCountReset {s : State} {k : Fin 32} (hc : s.clocksRun = true) (hs : (s.chan k).state = .on) :
    exec (.retryCountReset k) s =
      .next ((s.toTick ((s.chan k).onSince + 1000000000)).onChan k fun c => { c with count := 0 }) := by
  change execRetryCountReset k s = _
  simp [execRetryCountReset, hc, hs, secNs]

/-! ### An operation on each channel of a list -/

/-- Channel `k`, the module and the clocks are the same in both states. -/
structure Alike (k : Fin 32) (s t : State) : Prop where
  glb : t.glb = s.glb
  tim : t.tim = s.tim
  chan : t.chan k = s.chan k

theorem elapsed_alike {k : Fin 32} {s t : State} (h : Alike k s t) : elapsed t k = elapsed s k := by
  unfold elapsed bankOk State.now
  rw [h.glb, h.tim, h.chan]

/-- An operation that changes one channel, run on each channel of a list without repeats: it meets each of them as it stood before, and
a channel outside the list stays. -/
theorem forAll_chans {f : State → Fin 32 → State} (only : ∀ s k, ChanOnly k s (f s k)) (l : List (Fin 32)) (s : State) (hl : l.Nodup) :
    (forAll l f s).glb = s.glb ∧ (forAll l f s).tim = s.tim ∧ (∀ k, k ∉ l → (forAll l f s).chan k = s.chan k) ∧
    ∀ k ∈ l, ∃ t, Alike k s t ∧ (forAll l f s).chan k = (f t k).chan k := by
  induction l generalizing s with
  | nil => exact ⟨rfl, rfl, fun _ _ => rfl, fun _ h => absurd h List.not_mem_nil⟩
  | cons a l ih =>
    obtain ⟨hglb, htim, hout, hin⟩ := ih (f s a) hl.of_cons
    have step := only s a
    refine ⟨hglb.trans step.glb, htim.trans step.tim, fun k hk => ?_, fun k hk => ?_⟩
    · exact (hout k (List.not_mem_of_not_mem_cons hk)).trans (step.others k (List.ne_of_not_mem_cons hk))
    · rcases List.mem_cons.mp hk with rfl | hmem
      · exact ⟨s, ⟨rfl, rfl, rfl⟩, hout k (List.nodup_cons.mp hl).1⟩
      · have hne : k ≠ a := fun e => (List.nodup_cons.mp hl).1 (e ▸ hmem)
        obtain ⟨t, ht, e⟩ := hin k hmem
        exact ⟨t, ⟨ht.glb.trans step.glb, ht.tim.trans step.tim, ht.chan.trans (step.others k hne)⟩, e⟩

/-! ### The supply of a bank (R48, R555) -/

theorem mem_bankChans {b : Fin 4} {k : Fin 32} : k ∈ bankChans b ↔ k.val / 8 = b.val := by simp [bankChans]

theorem bankChans_nodup (b : Fin 4) : (bankChans b).Nodup := (List.nodup_finRange 32).filter _

/-- The SPACING timer of a channel stands at what has elapsed of it (R555). -/
def standTimer (s : State) (k : Fin 32) : State := s.onChan k fun c => { c with timer := elapsed s k, timerAt := s.now }

/-- The timers of a bank whose VBANK_OK changes stand or resume. -/
def bankStood (s : State) (b : Fin 4) (mv : Nat) : State :=
  if s.glb.vbankOk.getLsbD b.val = decide (18000 ≤ mv) then s else forAll (bankChans b) standTimer s

theorem exec_bankUndervoltage {s : State} (hc : s.clocksRun = true) (b : Fin 4) (mv : Nat) :
    exec (.bankUndervoltage b mv) s = .next (forAll (bankChans b) measureChan (setBank (bankStood s b mv) b mv)) :=
  congrArg Host.Outcome.next (if_pos hc)

theorem exec_bankUndervoltage_off {s : State} (hc : s.clocksRun = false) (b : Fin 4) (mv : Nat) :
    exec (.bankUndervoltage b mv) s = .next (setBank s b mv) :=
  congrArg Host.Outcome.next (if_neg (by simp [hc]))

theorem bankStood_glb (s : State) (b : Fin 4) (mv : Nat) : (bankStood s b mv).glb = s.glb := by
  unfold bankStood
  split
  · rfl
  · exact (forAll_chans (fun s k => onChan_only s k _) (bankChans b) s (bankChans_nodup b)).1

/-- A timer stands where its channel is of the bank and VBANK_OK changes, and nowhere else. -/
theorem bankStood_chan (s : State) (b : Fin 4) (mv : Nat) (k : Fin 32) : (bankStood s b mv).chan k =
    if k.val / 8 = b.val ∧ s.glb.vbankOk.getLsbD b.val ≠ decide (18000 ≤ mv) then
      { s.chan k with timer := elapsed s k, timerAt := s.now } else s.chan k := by
  unfold bankStood
  by_cases same : s.glb.vbankOk.getLsbD b.val = decide (18000 ≤ mv)
  · rw [if_pos same, if_neg fun h => h.2 same]
  · obtain ⟨-, -, hout, hin⟩ := forAll_chans (f := standTimer) (fun s k => onChan_only s k _) (bankChans b) s (bankChans_nodup b)
    rw [if_neg same]
    by_cases hk : k.val / 8 = b.val
    · obtain ⟨t, ht, e⟩ := hin k (mem_bankChans.mpr hk)
      rw [if_pos ⟨hk, same⟩, e, standTimer, onChan_chan_same, elapsed_alike ht, ht.chan, State.now, ht.tim]
      rfl
    · rw [if_neg fun h => hk h.1, hout k (mt mem_bankChans.mp hk)]

/-- The supply reads as given, and VBANK_OK says whether it is at or above 18 V (R48). -/
theorem setBank_supply (s : State) (b : Fin 4) (mv : Nat) :
    (setBank s b mv).glb.vbankOk.getLsbD b.val = decide (18000 ≤ mv) ∧ vget (setBank s b mv).glb.vbank b = mv := by
  have own : (BitVec.ofNat 4 (2 ^ b.val)).getLsbD b.val = true := by fin_cases b <;> rfl
  refine ⟨?_, vget_vmod_same _ _ _⟩
  unfold setBank
  dsimp only
  split
  next h => rw [BitVec.getLsbD_or, own, Bool.or_true, decide_eq_true h]
  next h => rw [BitVec.getLsbD_and, BitVec.getLsbD_not, own, Bool.not_true, Bool.and_false, Bool.and_false, decide_eq_false h]

theorem setBank_absent {s t : State} {b : Fin 4} {k : Fin 32} (hk : k.val / 8 = b.val) (h : t.glb = (setBank s b 0).glb) :
    bankAbsent t k = true := by
  unfold bankAbsent
  rw [h, hk, Vector.getElem?_eq_getElem b.isLt]
  exact beq_iff_eq.mpr (congrArg some (setBank_supply s b 0).2)

/-- What a change of its bank's supply makes of a channel: the timer stands or resumes, and the current is read again. -/
theorem bankUndervoltage_chan (s : State) (b : Fin 4) (mv : Nat) (k : Fin 32) (hk : k.val / 8 = b.val) :
    let t := forAll (bankChans b) measureChan (setBank (bankStood s b mv) b mv)
    t.chan k = { (bankStood s b mv).chan k with current := (t.chan k).current } ∧ (mv = 0 → (t.chan k).current = 0) := by
  obtain ⟨-, -, -, hin⟩ := forAll_chans measureChan_only (bankChans b) (setBank (bankStood s b mv) b mv) (bankChans_nodup b)
  obtain ⟨u, hu, e⟩ := hin k (mem_bankChans.mpr hk)
  refine ⟨?_, fun h0 => ?_⟩
  · rw [e, measureChan_chan, hu.chan]; rfl
  · subst h0
    rw [e, measureChan_absent (setBank_absent hk hu.glb)]

/-! ### The junction of a channel (R556) -/

/-- The channel's junction reads `x`; at 170 degrees it is hot until it has cooled. -/
def junctionRead (s : State) (k : Fin 32) (x : BitVec 16) : State :=
  s.onChan k fun c => { c with tj := x, cooled := c.cooled && decide (x.toInt < 17000) }

/-- The warning, with its event, as the junction passes 150 degrees. -/
def junctionWarned (s : State) (k : Fin 32) (x : BitVec 16) : State :=
  if (s.chan k).tj.toInt < 15000 then
    chanEvent { junctionRead s k x with lsw := { (junctionRead s k x).lsw with thermalWarn := true } } k 2
  else junctionRead s k x

theorem junctionWarned_chan (s : State) (k j : Fin 32) (x : BitVec 16) :
    (junctionWarned s k x).chan j = (junctionRead s k x).chan j := by
  unfold junctionWarned
  split
  · exact chanEvent_chan _ k j 2 none
  · rfl

theorem junctionWarned_others (s : State) (k : Fin 32) (x : BitVec 16) (j : Fin 32) (hj : j ≠ k) :
    (junctionWarned s k x).chan j = s.chan j := (junctionWarned_chan s k j x).trans ((onChan_only s k _).others j hj)

theorem junctionWarned_own (s : State) (k : Fin 32) (x : BitVec 16) : (junctionWarned s k x).chan k =
    { s.chan k with tj := x, cooled := (s.chan k).cooled && decide (x.toInt < 17000) } :=
  (junctionWarned_chan s k k x).trans (onChan_chan_same s k _)

theorem junctionWarned_warns {s : State} {k : Fin 32} (h : (s.chan k).tj.toInt < 15000) (x : BitVec 16) :
    (junctionWarned s k x).lsw.thermalWarn = true := by
  unfold junctionWarned
  rw [if_pos h]
  simp [chanEvent]

theorem exec_thermalShutdown_warm {s : State} {x : BitVec 16} (hc : s.clocksRun = true) (h : 15000 ≤ x.toInt) (h' : x.toInt < 17000)
    (k : Fin 32) : exec (.thermalShutdown k x) s = .next (junctionWarned s k x) := by
  change execThermalShutdown k x s = _
  unfold execThermalShutdown
  rw [if_neg (by simp [hc]; omega)]
  dsimp only
  rw [if_pos h']
  rfl

theorem exec_thermalShutdown_cold {s : State} {x : BitVec 16} (h : x.toInt < 15000) (k : Fin 32) :
    exec (.thermalShutdown k x) s = .next s :=
  congrArg Host.Outcome.next (if_pos (by simp [h]))

/-- A channel that is switched off by its junction. -/
def shutDown (s : State) (k : Fin 32) (x : BitVec 16) : State :=
  countEvent { junctionWarned s k x with lsw := { (junctionWarned s k x).lsw with shutdownAny := true } } k 3 .thermalOff

theorem exec_thermalShutdown_hot {s : State} {k : Fin 32} {x : BitVec 16} (hc : s.clocksRun = true) (h : 17000 ≤ x.toInt)
    (hs : (s.chan k).state = .on ∨ (s.chan k).state = .limiting ∨ (s.chan k).state = .waiting) :
    exec (.thermalShutdown k x) s = .next (shutDown s k x) := by
  have state : ((junctionWarned s k x).chan k).state = (s.chan k).state := by rw [junctionWarned_own]
  change execThermalShutdown k x s = _
  unfold execThermalShutdown
  rw [if_neg (by simp [hc]; omega)]
  dsimp only
  rw [if_neg (by omega)]
  change Host.Outcome.next (match ((junctionWarned s k x).chan k).state with
    | .on | .limiting | .waiting => shutDown s k x
    | _ => junctionWarned s k x) = _
  rcases hs with e | e | e <;> rw [state, e]

/-- A thermal shutdown counts as an event under R554, and marks itself. -/
theorem shutDown_chan {x : BitVec 16} (h : 17000 ≤ x.toInt) (s : State) (k : Fin 32) :
    (shutDown s k x).lsw.shutdownAny = true ∧ ((shutDown s k x).chan k).cooled = false ∧
    ((shutDown s k x).chan k).count = (s.chan k).count + 1 ∧
    ((shutDown s k x).chan k).state = (if (s.chan k).retries ≤ (s.chan k).count then .latched else .thermalOff) ∧
    ∀ j, j ≠ k → (shutDown s k x).chan j = s.chan j := by
  let u : State := { junctionWarned s k x with lsw := { (junctionWarned s k x).lsw with shutdownAny := true } }
  have own : u.chan k = { s.chan k with tj := x, cooled := false } := by
    refine (junctionWarned_own s k x).trans ?_
    rw [decide_eq_false (by omega), Bool.and_false]
  have step : ChanOnly k u (shutDown s k x) := countEvent_only u k 3 .thermalOff
  have result := (countEvent_chan u k 3 .thermalOff).trans (enterChan_chan _ k _)
  rw [counted, onChan_chan_same, own] at result
  refine ⟨step.shutdown, ?_, ?_, ?_, fun j hj => (step.others j hj).trans (junctionWarned_others s k x j hj)⟩
  · exact congrArg Chan.cooled result
  · exact congrArg Chan.count result
  · exact congrArg Chan.state result

/-- The channel's junction is below 150 degrees again, at a free value. -/
def junctionCooled (s : State) (k : Fin 32) : State :=
  s.free.2.onChan k fun c => { c with cooled := true, tj := BitVec.ofNat 16 (s.free.1.toNat % 15000) }

theorem junctionCooled_only (s : State) (k : Fin 32) : ChanOnly k s (junctionCooled s k) :=
  (free_only s k).trans (onChan_only s.free.2 k _)

theorem junctionCooled_chan (s : State) (k : Fin 32) : (junctionCooled s k).chan k =
    { s.chan k with cooled := true, tj := BitVec.ofNat 16 (s.free.1.toNat % 15000) } := onChan_chan_same s.free.2 k _

theorem exec_channelCooled {s : State} {k : Fin 32} (hc : s.clocksRun = true) (h : (s.chan k).cooled = false)
    (hs : (s.chan k).state ≠ .thermalOff) : exec (.channelCooled k) s = .next (junctionCooled s k) := by
  have state : ((junctionCooled s k).chan k).state ≠ .thermalOff := by rw [junctionCooled_chan]; exact hs
  change execChannelCooled k s = _
  unfold execChannelCooled
  rw [if_pos (by simp [hc, h])]
  dsimp only
  exact congrArg Host.Outcome.next (if_neg fun e => state (beq_iff_eq.mp (Bool.and_eq_true_iff.mp e).1))

/-! ### Set load channels and Clear latch (R567) -/

theorem mem_maskChans {w : Word} {k : Fin 32} : k ∈ maskChans w ↔ bit w k.val = true := by simp [maskChans]

theorem maskChans_nodup (w : Word) : (maskChans w).Nodup := (List.nodup_finRange 32).filter _

/-- The channel's command is `on`; its fail-safe state ends unless its source has expired (R558). -/
def commanded (s : State) (k : Fin 32) (on expired : Bool) : State := s.onChan k fun x => { x with cmd := on, fsOn := x.fsOn && expired }

theorem commanded_chan (s : State) (k : Fin 32) (on expired : Bool) :
    (commanded s k on expired).chan k = { s.chan k with cmd := on, fsOn := (s.chan k).fsOn && expired } := onChan_chan_same s k _

/-- The state after the channels of a command's mask have followed it. -/
def loadChannelsSet (s : State) (c : Cmd) : State :=
  forAll (maskChans (c.p 0)) (fun t k => followDemand (commanded t k (bit (c.p 1) k.val) (vget s.lsw.sources 0).expired) k) s

theorem effSetLoadChannels_completes (s : State) (c : Cmd) : ∃ res, effSetLoadChannels c s = complete (loadChannelsSet s c) c 0x00 res :=
  ⟨_, rfl⟩

/-- A channel outside the mask stays; one of the mask follows its new command. -/
theorem loadChannelsSet_chan (s : State) (c : Cmd) (k : Fin 32) :
    (bit (c.p 0) k.val = false → (loadChannelsSet s c).chan k = s.chan k) ∧
    (bit (c.p 0) k.val = true → ∃ t, t.chan k = { s.chan k with
        cmd := bit (c.p 1) k.val, fsOn := (s.chan k).fsOn && (vget s.lsw.sources 0).expired } ∧
      (loadChannelsSet s c).chan k = (followDemand t k).chan k) := by
  obtain ⟨-, -, hout, hin⟩ := forAll_chans
    (fun t k => (onChan_only t k _).trans (followDemand_only (commanded t k (bit (c.p 1) k.val) (vget s.lsw.sources 0).expired) k))
    (maskChans (c.p 0)) s (maskChans_nodup _)
  refine ⟨fun h => hout k fun hk => by simp [mem_maskChans.mp hk] at h, fun h => ?_⟩
  obtain ⟨t, ht, e⟩ := hin k (mem_maskChans.mpr h)
  exact ⟨_, by rw [commanded_chan, ht.chan], e⟩

/-- The channel off with a retry count of 0, and the event of its cleared latch. -/
def latchEnded (c : Cmd) (s : State) (k : Fin 32) : State :=
  chanEvent ((s.onChan k fun x => { x with count := 0 }).enterChan k .off) k 5 (some c)

theorem clearLatch_eq (c : Cmd) (s : State) (k : Fin 32) : clearLatch c s k =
    if ((latchEnded c s k).chan k).cooled then followDemand (latchEnded c s k) k else (latchEnded c s k).enterChan k .thermalOff := rfl

theorem clearLatch_only (c : Cmd) (s : State) (k : Fin 32) : ChanOnly k s (clearLatch c s k) := by
  have ended : ChanOnly k s (latchEnded c s k) :=
    ((onChan_only s k _).trans (enterChan_only _ k .off)).trans (chanEvent_only _ k 5 (some c))
  rw [clearLatch_eq]
  split
  · exact ended.trans (followDemand_only _ k)
  · exact ended.trans (enterChan_only _ k .thermalOff)

/-- A cleared latch leaves a retry count of 0, and a channel that is on, off or hot (R554). -/
theorem clearLatch_chan (c : Cmd) (s : State) (k : Fin 32) :
    ((clearLatch c s k).chan k).count = 0 ∧ ((clearLatch c s k).chan k).state ≠ .latched := by
  have count : ((latchEnded c s k).chan k).count = 0 := by simp [latchEnded, enterChan_chan]
  have state : ((latchEnded c s k).chan k).state = .off := by simp [latchEnded, enterChan_chan]
  rw [clearLatch_eq]
  split
  · cases hd : ((latchEnded c s k).chan k).demand
    · obtain ⟨released, -, -, stays⟩ := followDemand_released hd
      exact ⟨released, by rw [stays, state]; simp⟩
    · rw [followDemand_asked hd, if_pos state, chanOn_chan]
      exact ⟨count, by simp⟩
  · rw [enterChan_chan]
    exact ⟨count, by simp⟩

theorem ofBits_testBit (l : List Bool) (i : Nat) : (ofBits l).testBit i = l.getD i false := by
  induction l generalizing i with
  | nil => simp [ofBits]
  | cons b l ih =>
    change (b2n b + 2 * ofBits l).testBit i = _
    cases i with
    | zero => cases b <;> simp [b2n, Nat.testBit_zero, Nat.add_mod]
    | succ i =>
      have half : (b2n b + 2 * ofBits l) / 2 = ofBits l := by unfold b2n; split <;> omega
      rw [Nat.testBit_succ, half, ih]
      rfl

/-- A RESULT word of one bit for each channel. -/
theorem chanBits_getLsbD (p : Fin 32 → Bool) (k : Fin 32) :
    (BitVec.ofNat 32 (ofBits ((List.finRange 32).map p))).getLsbD k.val = p k := by
  rw [BitVec.getLsbD_ofNat, ofBits_testBit]
  simp

/-- The channels whose latch a Clear latch command clears. -/
def latchedIn (s : State) (c : Cmd) : List (Fin 32) := (maskChans (c.p 0)).filter fun k => (s.chan k).state == .latched

theorem mem_latchedIn {s : State} {c : Cmd} {k : Fin 32} : k ∈ latchedIn s c ↔ bit (c.p 0) k.val = true ∧ (s.chan k).state = .latched := by
  simp [latchedIn, mem_maskChans]

theorem effClearLatch_eq (s : State) (c : Cmd) : effClearLatch c s = complete (forAll (latchedIn s c) (clearLatch c) s) c 0x00
    (BitVec.ofNat 32 (ofBits ((List.finRange 32).map fun k => (latchedIn s c).contains k))) := rfl

/-- Settles O52: each step by what it makes of its own channel; the commands and the supply of a bank by `forAll_chans`, which runs an
operation on each channel of a list. -/
theorem loadChannels : Obligations.LoadChannels := by
  refine ⟨fun s k hc hs => ?limits, fun s k hc hs he => ?recovers, fun s k hc hs hb hr => ?waits, fun s k hc hs hb hr => ?latches,
    fun s k hb => exec_spacing_suspended hb, fun s k hc hs hb hr hd => ?retries, fun s k hc hs hb hh => ?hot, fun s k hc hs => ?quiet,
    fun s b mv hc => ?bank, fun s b mv hc => exec_bankUndervoltage_off hc b mv, fun s k x hc h h' => ?warm,
    fun s k x h => exec_thermalShutdown_cold h k, fun s k x hc h hs => ?shutdown, fun s k hc hh hs => ?cooled, fun s c h => ?set,
    fun s c h => ?clear⟩
  case limits =>
    have own := (measureChan_chan (s.enterChan k .limiting) k).trans (by rw [enterChan_chan])
    refine ⟨_, exec_limitingChange_start hc hs, ?_, ?_, ?_, ?_, ((enterChan_only s k .limiting).trans (measureChan_only _ k)).others⟩
    all_goals rw [own]
  case recovers =>
    refine ⟨_, exec_limitingChange_end hc hs he, ?_, ?_, (chanOn_only s k).others⟩ <;> rw [chanOn_chan]
  case waits =>
    obtain ⟨count, events, timer, state, current⟩ := overCurrent_chan (toSpacing s k) k
    have step := overCurrent_only (toSpacing s k) k
    rw [toSpacing_chan] at count events state
    rw [if_neg (by omega)] at state
    exact ⟨_, exec_limitingExpiry hc hs hb, state, timer, count, events, current, step.now ▸ toSpacing_reaches s k,
      fun j hj => (step.others j hj).trans (toSpacing_chan s k j)⟩
  case latches =>
    obtain ⟨count, -, -, state, -⟩ := overCurrent_chan (toSpacing s k) k
    rw [toSpacing_chan] at count state
    rw [if_pos hr] at state
    refine ⟨_, exec_limitingExpiry hc hs hb, state, overCurrent_latchAny ?_, count,
      fun j hj => ((overCurrent_only _ k).others j hj).trans (toSpacing_chan s k j)⟩
    rw [toSpacing_chan]
    exact hr
  case retries =>
    have ends : endSpacing (toSpacing s k) k = chanOn (toSpacing s k) k :=
      endSpacing_on (by rwa [toSpacing_chan]) (by rwa [toSpacing_chan])
    have step := chanOn_only (toSpacing s k) k
    refine ⟨chanOn (toSpacing s k) k, by rw [exec_retrySpacingEnd_waiting hc hs hb, ends], ?_, ?_, step.now ▸ toSpacing_reaches s k,
      fun j hj => (step.others j hj).trans (toSpacing_chan s k j)⟩
    · rw [chanOn_chan]
    · rw [chanOn_chan, toSpacing_chan]
  case hot => exact ⟨_, exec_retrySpacingEnd_hot hc hs hb hh, by rw [toSpacing, toTick_frame]⟩
  case quiet =>
    refine ⟨_, exec_retryCountReset hc hs, ?_, ?_, toTick_reaches s _, fun j hj => ?_⟩
    · rw [onChan_chan_same]
    · rw [onChan_chan_same, toTick_chan]; exact hs
    · rw [(onChan_only _ k _).others j hj, toTick_chan]
  case bank =>
    obtain ⟨hglb, -, hout, -⟩ := forAll_chans measureChan_only (bankChans b) (setBank (bankStood s b mv) b mv) (bankChans_nodup b)
    refine ⟨_, exec_bankUndervoltage hc b mv, ?_, ?_, fun k => ?_⟩
    · rw [hglb]; exact (setBank_supply _ b mv).1
    · rw [hglb]; exact (setBank_supply _ b mv).2
    by_cases hk : k.val / 8 = b.val
    · obtain ⟨own, absent⟩ := bankUndervoltage_chan s b mv k hk
      rw [bankStood_chan] at own
      refine ⟨?_, ?_, fun _ changed => ?_, fun _ same => ?_, fun _ => absent, fun h => absurd hk h⟩
      · rw [own]; split <;> rfl
      · rw [own]; split <;> rfl
      · rw [own, if_pos ⟨hk, changed⟩]; exact ⟨rfl, rfl⟩
      · rw [own, if_neg fun h => h.2 same]
    · have stays : (forAll (bankChans b) measureChan (setBank (bankStood s b mv) b mv)).chan k = s.chan k :=
        (hout k (mt mem_bankChans.mp hk)).trans ((bankStood_chan s b mv k).trans (if_neg fun h => hk h.1))
      rw [stays]
      exact ⟨rfl, rfl, fun h => absurd h hk, fun h => absurd h hk, fun h => absurd h hk, fun _ => rfl⟩
  case warm =>
    refine ⟨_, exec_thermalShutdown_warm hc h h' k, fun cold => junctionWarned_warns cold x, ?_, ?_, junctionWarned_others s k x⟩ <;>
      rw [junctionWarned_own]
  case shutdown =>
    obtain ⟨shut, cooled, count, state, others⟩ := shutDown_chan h s k
    exact ⟨_, exec_thermalShutdown_hot hc h hs, shut, cooled, count, fun hr => state.trans (if_neg (by omega)),
      fun hr => state.trans (if_pos hr), others⟩
  case cooled =>
    refine ⟨_, exec_channelCooled hc hh hs, ?_, ?_, ?_, (junctionCooled_only s k).others⟩ <;> rw [junctionCooled_chan]
    have := Nat.mod_lt s.free.1.toNat (show 0 < 15000 by decide)
    rw [BitVec.toNat_ofNat]
    omega
  case set =>
    obtain ⟨res, e⟩ := effSetLoadChannels_completes s c
    refine ⟨loadChannelsSet s c, res, ready_eq h e, fun k => ?_⟩
    obtain ⟨outside, inside⟩ := loadChannelsSet_chan s c k
    refine ⟨outside, fun hk => ?_⟩
    obtain ⟨t, ht, hres⟩ := inside hk
    obtain ⟨cmd, fsOn⟩ := followDemand_request t k
    have demand (hfs : (s.chan k).fsOn = false) : (t.chan k).demand = bit (c.p 1) k.val := by simp [Chan.demand, ht, hfs]
    rw [hres, cmd, fsOn, ht]
    refine ⟨rfl, rfl, fun hfs off => ?_, fun hfs on hs => ?_⟩
    · obtain ⟨count, -, -, state⟩ := followDemand_released ((demand hfs).trans off)
      rw [state, count]
      cases (t.chan k).state <;> simp
    · rw [followDemand_asked ((demand hfs).trans on), if_pos (by rw [ht]; exact hs), chanOn_chan]
  case clear =>
    obtain ⟨-, -, hout, hin⟩ := forAll_chans (clearLatch_only c) (latchedIn s c) s ((maskChans_nodup _).filter _)
    refine ⟨_, _, ready_eq h (effClearLatch_eq s c), fun k => ?_⟩
    rw [chanBits_getLsbD, List.contains_eq_mem]
    refine ⟨fun hn => ?_, fun hk hs => ?_⟩
    · have out : k ∉ latchedIn s c := fun hk => by
        obtain ⟨hm, hl⟩ := mem_latchedIn.mp hk
        exact hn.elim (fun h0 => by simp [hm] at h0) fun h0 => h0 hl
      exact ⟨hout k out, decide_eq_false out⟩
    · have member := mem_latchedIn.mpr ⟨hk, hs⟩
      obtain ⟨t, -, e⟩ := hin k member
      rw [e]
      obtain ⟨count, state⟩ := clearLatch_chan c t k
      exact ⟨count, state, decide_eq_true member⟩

end Sys2Proof.Machine
end


section
/-! A step (log 1, log 2): the front command's meaning, or one edge of the step clock; and what every step keeps (R88, R123, R307, R335,
R395, R481, R569, R587, R607). -/

namespace Sys2Proof.Machine

theorem step_empty {s : State} (h : s.pending = []) : step s = .next (idle s) := by
  unfold step; rw [h]

theorem step_front {s : State} {c : Instr} {rest : List Instr} (h : s.pending = c :: rest) :
    step s = exec c { s with pending := rest } := by
  unfold step; rw [h]

/-- Every command answers a next state, with the queue as it was and the settings in their ranges. -/
theorem exec_kept (c : Instr) (s : State) : ∃ t, exec c s = .next t ∧ Kept s t :=
  match c with
  | .noOperation c => kept_of_keeps (execNoOperation_keeps c s)
  | .marker c => kept_of_keeps (execMarker_keeps c s)
  | .flushTransmit c => kept_of_keeps (execFlushTransmit_keeps c s)
  | .readRegister c => kept_of_keeps (execReadRegister_keeps c s)
  | .writeRegister c => execWriteRegister_kept c s
  | .registerWrite bar off v => execRegisterWrite_kept bar off v s
  | .barAccessUnaligned bar off size write => kept_of_keeps (execBarAccessUnaligned_keeps bar off size write s)
  | .doorbellWrite r v => kept_of_keeps (execDoorbellWrite_keeps r v s)
  | .ringEnable r v => kept_of_keeps (execRingEnable_keeps r v s)
  | .ringDisable r => kept_of_keeps (execRingDisable_keeps r s)
  | .linkLoss cause => kept_of_keeps (execLinkLoss_keeps cause s)
  | .commandFetch r d data => kept_of_keeps (execCommandFetch_keeps r d data s)
  | .commandAtMark r index => execCommandAtMark_kept r index s
  | .backlogDrain => kept_of_keeps (execBacklogDrain_keeps s)
  | .moderationTimeout r => kept_of_keeps (execModerationTimeout_keeps r s)
  | .ftxFetch r d bytes => kept_of_keeps (execFtxFetch_keeps r d bytes s)
  | .frxFill o d => kept_of_keeps (execFrxFill_keeps o d s)
  | .ftxDone o => kept_of_keeps (execFtxDone_keeps o s)
  | .timSnapRead => kept_of_keeps (execTimSnapRead_keeps s)
  | .timCfgLock v => kept_of_keeps (execTimCfgLock_keeps v s)
  | .plcCfgLock v => kept_of_keeps (execPlcCfgLock_keeps v s)
  | .autCfgLock v => execAutCfgLock_kept v s
  | .kitCfgLock v => kept_of_keeps (execKitCfgLock_keeps v s)
  | .tieCfgLock v => kept_of_keeps (execTieCfgLock_keeps v s)
  | .lswCfgLock v => execLswCfgLock_kept v s
  | .retrain l => kept_of_keeps (execRetrain_keeps l s)
  | .laneEnable l => kept_of_keeps (execLaneEnable_keeps l s)
  | .laneDisable l => kept_of_keeps (execLaneDisable_keeps l s)
  | .watermarkWrite q v => kept_of_keeps (execWatermarkWrite_keeps q v s)
  | .sitePowerLimitWrite v => kept_of_keeps (execSitePowerLimitWrite_keeps v s)
  | .macBaseWrite v => kept_of_keeps (execMacBaseWrite_keeps v s)
  | .alarmWrite v => kept_of_keeps (execAlarmWrite_keeps v s)
  | .cursorBaseWrite v => kept_of_keeps (execCursorBaseWrite_keeps v s)
  | .pulseSettingsWrite k isConst v => kept_of_keeps (execPulseSettingsWrite_keeps k isConst v s)
  | .demandLengthChange v => kept_of_keeps (execDemandLengthChange_keeps v s)
  | .bandwidthMonitorWrite m v => kept_of_keeps (execBandwidthMonitorWrite_keeps m v s)
  | .pmcCycRead g => kept_of_keeps (execPmcCycRead_keeps g s)
  | .stageInsertion stage contacts vin => kept_of_keeps (execStageInsertion_keeps stage contacts vin s)
  | .seated => kept_of_keeps (execSeated_keeps s)
  | .powerOnResetRelease slot side dbg guardFail => execPowerOnResetRelease_kept slot side dbg guardFail s
  | .perstRelease => kept_of_keeps (execPerstRelease_keeps s)
  | .seatLoss contacts bits => kept_of_keeps (execSeatLoss_keeps contacts bits s)
  | .seatGlitch contact => kept_of_keeps (execSeatGlitch_keeps contact s)
  | .reseatWaitEnd => kept_of_keeps (execReseatWaitEnd_keeps s)
  | .cabRst low bits => kept_of_keeps (execCabRst_keeps low bits s)
  | .powerFailWarning vin bits => kept_of_keeps (execPowerFailWarning_keeps vin bits s)
  | .vinReturn vin => kept_of_keeps (execVinReturn_keeps vin s)
  | .keepEntry => kept_of_keeps (execKeepEntry_keeps s)
  | .vbatLow below25 => kept_of_keeps (execVbatLow_keeps below25 s)
  | .strapCheck slot side dbg => kept_of_keeps (execStrapCheck_keeps slot side dbg s)
  | .referenceLost => kept_of_keeps (execReferenceLost_keeps s)
  | .referenceRestored => kept_of_keeps (execReferenceRestored_keeps s)
  | .junctionTemperature temp => kept_of_keeps (execJunctionTemperature_keeps temp s)
  | .mainsLocked cycles angle => execMainsLocked_kept cycles angle s
  | .mainsLost cause a b => kept_of_keeps (execMainsLost_keeps cause a b s)
  | .meteringCycleBoundary o bits src => kept_of_keeps (execMeteringCycleBoundary_keeps o bits src s)
  | .legalTimeSync role utc at_ => kept_of_keeps (execLegalTimeSync_keeps role utc at_ s)
  | .slewEnd => kept_of_keeps (execSlewEnd_keeps s)
  | .syncAgeExpiry => kept_of_keeps (execSyncAgeExpiry_keeps s)
  | .localTableEnd => kept_of_keeps (execLocalTableEnd_keeps s)
  | .trainingSetReceived l ts2 => kept_of_keeps (execTrainingSetReceived_keeps l ts2 s)
  | .echoReceived l rtt => kept_of_keeps (execEchoReceived_keeps l rtt s)
  | .linkFault l cause => kept_of_keeps (execLinkFault_keeps l cause s)
  | .uplinkFrameReceived l chars eof violation => kept_of_keeps (execUplinkFrameReceived_keeps l chars eof violation s)
  | .linkRestored o => kept_of_keeps (execLinkRestored_keeps o s)
  | .laneSilent l => kept_of_keeps (execLaneSilent_keeps l s)
  | .downlinkFrame l disagree => kept_of_keeps (execDownlinkFrame_keeps l disagree s)
  | .helloReceived l => kept_of_keeps (execHelloReceived_keeps l s)
  | .proofReceived l => kept_of_keeps (execProofReceived_keeps l s)
  | .paramAckReceived l => kept_of_keeps (execParamAckReceived_keeps l s)
  | .attachHoldoffEnd l => kept_of_keeps (execAttachHoldoffEnd_keeps l s)
  | .mailboxRepeat l => kept_of_keeps (execMailboxRepeat_keeps l s)
  | .serviceReset fault => kept_of_keeps (execServiceReset_keeps fault s)
  | .eccError kind inst => kept_of_keeps (execEccError_keeps kind inst s)
  | .transmit c => kept_of_keeps (execTransmit_keeps c s)
  | .transmitComplete p => kept_of_keeps (execTransmitComplete_keeps p s)
  | .read c => kept_of_keeps (execRead_keeps c s)
  | .abortPort c => kept_of_keeps (execAbortPort_keeps c s)
  | .rs485PacketEnd q bytes parity framing => kept_of_keeps (execRs485PacketEnd_keeps q bytes parity framing s)
  | .canFrameReceived c w0 w1 bytes => kept_of_keeps (execCanFrameReceived_keeps c w0 w1 bytes s)
  | .canBusOff c busOff tec recErr => kept_of_keeps (execCanBusOff_keeps c busOff tec recErr s)
  | .busOffRecovery c => kept_of_keeps (execBusOffRecovery_keeps c s)
  | .ctsChange q level => kept_of_keeps (execCtsChange_keeps q level s)
  | .contextStep o => kept_of_keeps (execContextStep_keeps o s)
  | .pilotEvaluation o => kept_of_keeps (execPilotEvaluation_keeps o s)
  | .proximityClass o => kept_of_keeps (execProximityClass_keeps o s)
  | .timerExpiry o t => execTimerExpiry_kept o t s
  | .zeroPointMark o aux => execZeroPointMark_kept o aux s
  | .contactorFeedback o aux => kept_of_keeps (execContactorFeedback_keeps o aux s)
  | .contactorTimeout o aux => kept_of_keeps (execContactorTimeout_keeps o aux s)
  | .lockFeedback o => kept_of_keeps (execLockFeedback_keeps o s)
  | .profileCheck p version copy crc => kept_of_keeps (execProfileCheck_keeps p version copy crc s)
  | .contextStart o => kept_of_keeps (execContextStart_keeps o s)
  | .signal c => kept_of_keeps (execSignal_keeps c s)
  | .bindProfile c => kept_of_keeps (execBindProfile_keeps c s)
  | .enableOutlet c => kept_of_keeps (execEnableOutlet_keeps c s)
  | .authorise c => kept_of_keeps (execAuthorise_keeps c s)
  | .forceFault c => kept_of_keeps (execForceFault_keeps c s)
  | .resetContext c => kept_of_keeps (execResetContext_keeps c s)
  | .forgetDelays c => kept_of_keeps (execForgetDelays_keeps c s)
  | .readContext c => kept_of_keeps (execReadContext_keeps c s)
  | .rcEvaluation o => kept_of_keeps (execRcEvaluation_keeps o s)
  | .rdcTestStep o => kept_of_keeps (execRdcTestStep_keeps o s)
  | .rdcOkExpiry o => kept_of_keeps (execRdcOkExpiry_keeps o s)
  | .imdHalfEnd o => kept_of_keeps (execImdHalfEnd_keeps o s)
  | .isoResultAged o => kept_of_keeps (execIsoResultAged_keeps o s)
  | .checkWeldEnd o => kept_of_keeps (execCheckWeldEnd_keeps o s)
  | .pilotGraceEnd o => kept_of_keeps (execPilotGraceEnd_keeps o s)
  | .safetyInputChange k chanB high => kept_of_keeps (execSafetyInputChange_keeps k chanB high s)
  | .discrepancy k => kept_of_keeps (execDiscrepancy_keeps k s)
  | .crossCircuitCheck k chanB => kept_of_keeps (execCrossCircuitCheck_keeps k chanB s)
  | .axisEvaluation k counts => kept_of_keeps (execAxisEvaluation_keeps k counts s)
  | .outputReadback k chanB stuckOn => kept_of_keeps (execOutputReadback_keeps k chanB stuckOn s)
  | .lockstepMismatch legal => kept_of_keeps (execLockstepMismatch_keeps legal s)
  | .lockstepRestartEnd legal completed => kept_of_keeps (execLockstepRestartEnd_keeps legal completed s)
  | .clearTrip c => kept_of_keeps (execClearTrip_keeps c s)
  | .runRdcTest c => kept_of_keeps (execRunRdcTest_keeps c s)
  | .acknowledgeStop c => kept_of_keeps (execAcknowledgeStop_keeps c s)
  | .stopAxis c => kept_of_keeps (execStopAxis_keeps c s)
  | .releaseAxis c => kept_of_keeps (execReleaseAxis_keeps c s)
  | .clearOutputFault c => kept_of_keeps (execClearOutputFault_keeps c s)
  | .readInsulation c => kept_of_keeps (execReadInsulation_keeps c s)
  | .shareSnapshot => execShareSnapshot_kept s
  | .shareApply => execShareApply_kept s
  | .peerFallback => kept_of_keeps (execPeerFallback_keeps s)
  | .siteLimitExpiry => kept_of_keeps (execSiteLimitExpiry_keeps s)
  | .kiteGrantExpiry => kept_of_keeps (execKiteGrantExpiry_keeps s)
  | .kiteReport => execKiteReport_kept s
  | .setSiteLimit c => kept_of_keeps (execSetSiteLimit_keeps c s)
  | .setRequest c => kept_of_keeps (execSetRequest_keeps c s)
  | .setPriority c => kept_of_keeps (execSetPriority_keeps c s)
  | .readAllocation c => kept_of_keeps (execReadAllocation_keeps c s)
  | .plcFrameReceived o slac bytes => kept_of_keeps (execPlcFrameReceived_keeps o slac bytes s)
  | .slacParamReq src run heard => kept_of_keeps (execSlacParamReq_keeps src run heard s)
  | .soundingWindowClose src run => kept_of_keeps (execSoundingWindowClose_keeps src run s)
  | .peerScoreTimeout src run => kept_of_keeps (execPeerScoreTimeout_keeps src run s)
  | .slacMatchReq o src run => kept_of_keeps (execSlacMatchReq_keeps o src run s)
  | .matchTimeout src run => kept_of_keeps (execMatchTimeout_keeps src run s)
  | .validateReq src run timer heard => kept_of_keeps (execValidateReq_keeps src run timer heard s)
  | .toggleWindowEnd src run => kept_of_keeps (execToggleWindowEnd_keeps src run s)
  | .commonImpulse stations => kept_of_keeps (execCommonImpulse_keeps stations s)
  | .leaveAssociation c => kept_of_keeps (execLeaveAssociation_keeps c s)
  | .tlsSign c => kept_of_keeps (execTlsSign_keeps c s)
  | .readAssociation c => kept_of_keeps (execReadAssociation_keeps c s)
  | .temperatureSource o => kept_of_keeps (execTemperatureSource_keeps o s)
  | .toneCorrelation o l => kept_of_keeps (execToneCorrelation_keeps o l s)
  | .incomerCheck ch ppm => kept_of_keeps (execIncomerCheck_keeps ch ppm s)
  | .readVerification c => kept_of_keeps (execReadVerification_keeps c s)
  | .toneControl c => kept_of_keeps (execToneControl_keeps c s)
  | .restartVerification c => kept_of_keeps (execRestartVerification_keeps c s)
  | .commit fault => execCommit_kept fault s
  | .balanceEvaluation => kept_of_keeps (execBalanceEvaluation_keeps s)
  | .pulseSend k => kept_of_keeps (execPulseSend_keeps k s)
  | .keepBurst rms => kept_of_keeps (execKeepBurst_keeps rms s)
  | .declareAuxiliary c => kept_of_keeps (execDeclareAuxiliary_keeps c s)
  | .readEnergyRegister c => kept_of_keeps (execReadEnergyRegister_keeps c s)
  | .recordRelease => kept_of_keeps (execRecordRelease_keeps s)
  | .tamperInput k => kept_of_keeps (execTamperInput_keeps k s)
  | .readObject c => kept_of_keeps (execReadObject_keeps c s)
  | .writeObject c => kept_of_keeps (execWriteObject_keeps c s)
  | .selectPlan c => kept_of_keeps (execSelectPlan_keeps c s)
  | .signReading c => kept_of_keeps (execSignReading_keeps c s)
  | .acknowledgeRecords c => kept_of_keeps (execAcknowledgeRecords_keeps c s)
  | .recordWrite legal => kept_of_keeps (execRecordWrite_keeps legal s)
  | .readRecords c => kept_of_keeps (execReadRecords_keeps c s)
  | .takeSnapshot c => kept_of_keeps (execTakeSnapshot_keeps c s)
  | .ping o => kept_of_keeps (execPing_keeps o s)
  | .tagPoll o => kept_of_keeps (execTagPoll_keeps o s)
  | .engineGrant e => kept_of_keeps (execEngineGrant_keeps e s)
  | .tagReply e bytes => kept_of_keeps (execTagReply_keeps e bytes s)
  | .cardResponse e a => kept_of_keeps (execCardResponse_keeps e a s)
  | .fieldCollapse e => kept_of_keeps (execFieldCollapse_keeps e s)
  | .transactionTimeout e => kept_of_keeps (execTransactionTimeout_keeps e s)
  | .requestWaitLong o => kept_of_keeps (execRequestWaitLong_keeps o s)
  | .tagAgeExpiry o => kept_of_keeps (execTagAgeExpiry_keeps o s)
  | .tableSwitch => execTableSwitch_kept s
  | .storeChangeReceived seq slot bytes => execStoreChangeReceived_kept seq slot bytes s
  | .storeResynchronised src seq slots => kept_of_keeps (execStoreResynchronised_keeps src seq slots s)
  | .storeSlot c => kept_of_keeps (execStoreSlot_keeps c s)
  | .readSlot c => kept_of_keeps (execReadSlot_keeps c s)
  | .beginShadow c => kept_of_keeps (execBeginShadow_keeps c s)
  | .switchTable c => kept_of_keeps (execSwitchTable_keeps c s)
  | .bindCable c => kept_of_keeps (execBindCable_keeps c s)
  | .readTag c => kept_of_keeps (execReadTag_keeps c s)
  | .kiteFrameReceived r => kept_of_keeps (execKiteFrameReceived_keeps r s)
  | .contentionSlot => kept_of_keeps (execContentionSlot_keeps s)
  | .ackTimeout => kept_of_keeps (execAckTimeout_keeps s)
  | .helloTimer => kept_of_keeps (execHelloTimer_keeps s)
  | .neighbourLost n => kept_of_keeps (execNeighbourLost_keeps n s)
  | .timeBroadcast => kept_of_keeps (execTimeBroadcast_keeps s)
  | .nodeReplacement n => kept_of_keeps (execNodeReplacement_keeps n s)
  | .probeNode c => kept_of_keeps (execProbeNode_keeps c s)
  | .clearPenalty c => kept_of_keeps (execClearPenalty_keeps c s)
  | .dominoRetry => kept_of_keeps (execDominoRetry_keeps s)
  | .tieFrameReceived p retries m => execTieFrameReceived_kept p retries m s
  | .tiePortDown p => kept_of_keeps (execTiePortDown_keeps p s)
  | .tiePortUp p x => execTiePortUp_kept p x s
  | .mainsTimeTransfer => kept_of_keeps (execMainsTimeTransfer_keeps s)
  | .roleDecision => kept_of_keeps (execRoleDecision_keeps s)
  | .heartbeatTimeout => kept_of_keeps (execHeartbeatTimeout_keeps s)
  | .withdrawalNotice => kept_of_keeps (execWithdrawalNotice_keeps s)
  | .takeover => kept_of_keeps (execTakeover_keeps s)
  | .foreignEpoch l => kept_of_keeps (execForeignEpoch_keeps l s)
  | .join version fwMajor copy => kept_of_keeps (execJoin_keeps version fwMajor copy s)
  | .handover => kept_of_keeps (execHandover_keeps s)
  | .handOver c => kept_of_keeps (execHandOver_keeps c s)
  | .readPairState c => kept_of_keeps (execReadPairState_keeps c s)
  | .readTally c => kept_of_keeps (execReadTally_keeps c s)
  | .clearTally c => kept_of_keeps (execClearTally_keeps c s)
  | .loadKey c => kept_of_keeps (execLoadKey_keeps c s)
  | .eraseKey c => kept_of_keeps (execEraseKey_keeps c s)
  | .generateKey c => kept_of_keeps (execGenerateKey_keeps c s)
  | .readPublicKey c => kept_of_keeps (execReadPublicKey_keeps c s)
  | .beginCredential c => kept_of_keeps (execBeginCredential_keeps c s)
  | .proveCredential c => kept_of_keeps (execProveCredential_keeps c s)
  | .challengeExpiry => kept_of_keeps (execChallengeExpiry_keeps s)
  | .randomSourceFault => kept_of_keeps (execRandomSourceFault_keeps s)
  | .limitingExpiry k => kept_of_keeps (execLimitingExpiry_keeps k s)
  | .retrySpacingEnd k => kept_of_keeps (execRetrySpacingEnd_keeps k s)
  | .bankUndervoltage b mv => kept_of_keeps (execBankUndervoltage_keeps b mv s)
  | .thermalShutdown k temp => kept_of_keeps (execThermalShutdown_keeps k temp s)
  | .watchdogExpiry src => kept_of_keeps (execWatchdogExpiry_keeps src s)
  | .watchdogRestored src => kept_of_keeps (execWatchdogRestored_keeps src s)
  | .displayUpdate => kept_of_keeps (execDisplayUpdate_keeps s)
  | .blink => kept_of_keeps (execBlink_keeps s)
  | .crackPulse returned => kept_of_keeps (execCrackPulse_keeps returned s)
  | .setLoadChannels c => kept_of_keeps (execSetLoadChannels_keeps c s)
  | .clearLatch c => kept_of_keeps (execClearLatch_keeps c s)
  | .writeOperatorArea c => kept_of_keeps (execWriteOperatorArea_keeps c s)
  | .setLegalView c => kept_of_keeps (execSetLegalView_keeps c s)
  | .redraw c => kept_of_keeps (execRedraw_keeps c s)
  | .domainDrop d => kept_of_keeps (execDomainDrop_keeps d s)
  | .domainRaise d raised => kept_of_keeps (execDomainRaise_keeps d raised s)
  | .wake source detail => kept_of_keeps (execWake_keeps source detail s)
  | .rtcAlarm => kept_of_keeps (execRtcAlarm_keeps s)
  | .wakeRelease => kept_of_keeps (execWakeRelease_keeps s)
  | .enterQuiet c => kept_of_keeps (execEnterQuiet_keeps c s)
  | .leaveQuiet c => kept_of_keeps (execLeaveQuiet_keeps c s)
  | .writeImageBlock c => kept_of_keeps (execWriteImageBlock_keeps c s)
  | .verifyImage c => kept_of_keeps (execVerifyImage_keeps c s)
  | .activateFirmware c => kept_of_keeps (execActivateFirmware_keeps c s)
  | .confirmFirmware c => kept_of_keeps (execConfirmFirmware_keeps c s)
  | .revertFirmware c => kept_of_keeps (execRevertFirmware_keeps c s)
  | .trialConfirmed t => kept_of_keeps (execTrialConfirmed_keeps t s)
  | .fallBack t timeout => kept_of_keeps (execFallBack_keeps t timeout s)
  | .activateConfiguration c => execActivateConfiguration_kept c s
  | .configurationActivation => execConfigurationActivation_kept s
  | .confirmConfiguration c => kept_of_keeps (execConfirmConfiguration_keeps c s)
  | .revertConfiguration c => kept_of_keeps (execRevertConfiguration_keeps c s)
  | .automaticYoYo => kept_of_keeps (execAutomaticYoYo_keeps s)
  | .dominoSend c => kept_of_keeps (execDominoSend_keeps c s)
  | .enterRecovery c => kept_of_keeps (execEnterRecovery_keeps c s)
  | .readSlots c => kept_of_keeps (execReadSlots_keeps c s)
  | .dump => kept_of_keeps (execDump_keeps s)
  | .sample g n => kept_of_keeps (execSample_keeps g n s)
  | .bandwidthWindowEnd m => kept_of_keeps (execBandwidthWindowEnd_keeps m s)
  | .dumpNow c => kept_of_keeps (execDumpNow_keeps c s)
  | .clearCounters c => kept_of_keeps (execClearCounters_keeps c s)
  | .vinReturnLeavingKeep vin slot side dbg guardFail => execVinReturnLeavingKeep_kept vin slot side dbg guardFail s
  | .stageBreak stage => kept_of_keeps (execStageBreak_keeps stage s)
  | .indexBuilt => kept_of_keeps (execIndexBuilt_keeps s)
  | .limitingChange k limiting => kept_of_keeps (execLimitingChange_keeps k limiting s)
  | .retryCountReset k => kept_of_keeps (execRetryCountReset_keeps k s)
  | .channelCooled k => kept_of_keeps (execChannelCooled_keeps k s)
  | .serviceUartCommand d data => execServiceUartCommand_kept d data s
  | .stationTxDrop o => kept_of_keeps (execStationTxDrop_keeps o s)
  | .randomSourceRestored => kept_of_keeps (execRandomSourceRestored_keeps s)

/-- Settles O4: the front command by `exec_kept`, the edge of an empty queue by `idle_kept`. -/
theorem stepKeepsSettingsInRange : Obligations.StepKeepsSettingsInRange := by
  intro s t ranges h
  cases hp : s.pending with
  | nil =>
    obtain rfl : idle s = t := Host.Outcome.next.inj ((step_empty hp).symm.trans h)
    exact (idle_kept s).2 ranges
  | cons c rest =>
    obtain ⟨u, hu, -, settings⟩ := exec_kept c { s with pending := rest }
    obtain rfl : u = t := Host.Outcome.next.inj (hu.symm.trans ((step_front hp).symm.trans h))
    exact settings ranges

end Sys2Proof.Machine
end


section
/-! An edge of the step clock on an empty queue (R37, R62, R156). -/

namespace Sys2Proof.Machine

theorem removalEnds_notRemoval {s : State} (h : s.glb.phase ≠ .removal) : removalEnds s = s := by
  unfold removalEnds endRemoval
  rw [if_neg h, ite_self]

theorem advance_sta (s : State) (n : Nat) (o : Fin 128) : (s.advance n).sta o = s.sta o := by rw [advance_frame]; rfl

theorem idle_advances {s : State} (hf : ∀ o, (s.sta o).inStation = []) (hp : s.glb.phase ≠ .removal) : idle s = s.advance 1 := by
  have nothingSent : forAll outlets stationSend (s.advance 1) = s.advance 1 :=
    List.foldl_fixed' (fun o => stationSend_empty _ o (by rw [advance_sta, hf])) _
  have phase : (s.advance 1).glb.phase ≠ .removal := by rw [advance_frame]; exact hp
  unfold idle
  rw [nothingSent, removalEnds_notRemoval phase]

/-- Settles O2: an idle edge only lets the clock run on, where nothing is sent and no removal ends. -/
theorem idleStepAdvancesTheClock : Obligations.IdleStepAdvancesTheClock := fun s hq hf hp =>
  ⟨s.advance 1, (step_empty hq).trans (congrArg _ (idle_advances hf hp)), advance_frame s 1, advance_tick s 1⟩

end Sys2Proof.Machine
end


section
/-! The reference and the mains lock (R60, R61, R66 to R70, R76). -/

namespace Sys2Proof.Machine

/-- An event posted since a state is posted since one in which as many had been posted. -/
theorem Posted.since {s t u : State} {code : Nat} {o : Option (Fin 128)} {p : List Byte} (h : Posted u t code o p)
    (e : u.rng = s.rng) : Posted s t code o p := by
  unfold Posted; rw [← e]; exact h

@[simp] theorem foldl_tim {α : Type} {l : List α} {f : State → α → State} {s : State} (h : ∀ s x, (f s x).tim = s.tim) :
    (l.foldl f s).tim = s.tim :=
  foldl_inv (fun t => t.tim = s.tim) l f s rfl fun t x ht => (h t x).trans ht

@[simp] theorem forAll_tim {α : Type} {l : List α} {f : State → α → State} {s : State} (h : ∀ s x, (f s x).tim = s.tim) :
    (forAll l f s).tim = s.tim := foldl_tim h

@[simp] theorem forAll_rng {α : Type} {l : List α} {f : State → α → State} {s : State} (h : ∀ s x, (f s x).rng = s.rng) :
    (forAll l f s).rng = s.rng := foldl_inv (fun t => t.rng = s.rng) l f s rfl fun t x ht => (h t x).trans ht

@[simp] theorem forAll_tie {α : Type} {l : List α} {f : State → α → State} {s : State} (h : ∀ s x, (f s x).tie = s.tie) :
    (forAll l f s).tie = s.tie := foldl_inv (fun t => t.tie = s.tie) l f s rfl fun t x ht => (h t x).trans ht

theorem linkLoss_tim (s : State) (cause : Nat) : (linkLoss s cause).tim = s.tim := by
  simp [linkLoss, endpointReset, allRingsDown, ringDown, orphanFtx]

/-! ### The reference (R60, R61) -/

@[simp] theorem postDev_linkUp (s : State) (code : Nat) (p : List Byte) (k : Option Cmd) :
    (postDev s code p k).rng.linkUp = s.rng.linkUp := (postEvent_rngSame s code none p k).2.2.1

@[simp] theorem postFault_linkUp (s : State) (cls inst : Nat) (lasting : Bool) (n : Nat) :
    (postFault s cls inst lasting n).rng.linkUp = s.rng.linkUp := postDev_linkUp ..

@[simp] theorem lastingAction_rng (s : State) (cls : Nat) : (lastingAction s cls).rng = s.rng := by
  unfold lastingAction
  split <;> simp

/-- Counting a fault only posts events (R528): the link stays as it is. -/
theorem tally_linkUp (s : State) (cls inst : Nat) : (tally s cls inst).rng.linkUp = s.rng.linkUp := by
  have ite_linkUp (c : Prop) [Decidable c] (x y : Rng) : (if c then x else y).linkUp = if c then x.linkUp else y.linkUp :=
    apply_ite _ _ _ _
  simp [tally, makeLasting, ite_linkUp]

/-- The state in which the clocks have moved to the holdover oscillator (R60). -/
def onHoldover (s : State) : State := { s with tim := { s.tim with refHoldover := true, refLostF := true, refLostAt := s.now } }

theorem exec_referenceLost {s : State} (hc : s.clocksRun = true) (h : s.tim.refHoldover = false) :
    exec .referenceLost s = .next (tally (postDev (linkLoss (onHoldover s) 1) 0x0584 (p8 0)) 14 0) := by
  change execReferenceLost s = _
  simp [execReferenceLost, hc, h, onHoldover]

theorem exec_referenceLost_off {s : State} (h : s.clocksRun = false ∨ s.tim.refHoldover = true) :
    exec .referenceLost s = .next s := by
  change execReferenceLost s = _
  obtain h | h := h <;> simp [execReferenceLost, h]

@[simp] theorem toMains_glb (s : State) (v : Nat) : (s.toMains v).glb = s.glb := by rw [toMains_frame]

theorem toMains_now (s : State) (v : Nat) : s.now ≤ (s.toMains v).now :=
  (Nat.le_add_right _ _).trans_eq (advance_tick s _).symm

/-- The boundary at which the clocks return, 100 ms after the loss at the earliest (R61). -/
def atReturn (s : State) : State :=
  (s.toTick (s.tim.refLostAt + 100 * msNs)).toMains (((s.toTick (s.tim.refLostAt + 100 * msNs)).cycle + 1) * 65536)

theorem exec_referenceRestored {s : State} (hc : s.clocksRun = true) (h : s.tim.refHoldover = true) : exec .referenceRestored s =
    .next (postDev { atReturn s with
      tim := { (atReturn s).tim with refHoldover := false }
      rng := { (atReturn s).rng with linkUp := !(atReturn s).glb.perst } } 0x0584 (p8 1)) := by
  change execReferenceRestored s = _
  simp only [execReferenceRestored, hc, h, Bool.and_self, if_true]
  rfl

theorem exec_referenceRestored_off {s : State} (h : s.clocksRun = false ∨ s.tim.refHoldover = false) :
    exec .referenceRestored s = .next s := by
  change execReferenceRestored s = _
  obtain h | h := h <;> simp [execReferenceRestored, h]

/-! ### The mains lock (R66 to R70, R76) -/

section
variable {s : State} (hc : s.clocksRun = true) (hl : s.tim.mainsState = .locked) (hs : s.tim.source = false) (a b : Nat)
include hc hl hs

theorem exec_mainsLost_crossing : exec (.mainsLost 0 a b) s =
    .next (loseMains (s.toTick (s.tim.lastCross + 3 * 10 ^ 12 / (2 * s.tim.freq))) 0
      (s.toTick (s.tim.lastCross + 3 * 10 ^ 12 / (2 * s.tim.freq))).tim.freq) := by
  change execMainsLost 0 a b s = _
  simp only [execMainsLost, hc, hl, hs, beq_self_eq_true, Bool.not_false, Bool.and_self, if_true]
  rfl

theorem exec_mainsLost_amplitude : exec (.mainsLost 1 a b) s = .next (if a < 35000 ∧ b < 35000 then
    loseMains (s.toMains ((s.tim.mains + 0x7FFF) / 0x8000 * 0x8000)) 1 (s.toMains ((s.tim.mains + 0x7FFF) / 0x8000 * 0x8000)).tim.freq
    else s) := by
  change execMainsLost 1 a b s = _
  simp only [execMainsLost, hc, hl, hs, beq_self_eq_true, Bool.not_false, Bool.and_self, if_true]
  rfl

theorem exec_mainsLost_frequency : exec (.mainsLost 2 a b) s =
    .next (if freqInRange a = false ∧ freqInRange b = false then loseMains s 2 b else s) := by
  change execMainsLost 2 a b s = _
  simp [execMainsLost, hc, hl, hs]

end

theorem exec_mainsLost_off {s : State} (h : s.clocksRun = false ∨ s.tim.mainsState ≠ .locked ∨ s.tim.source = true)
    (cause : Fin 3) (a b : Nat) : exec (.mainsLost cause a b) s = .next s := by
  change execMainsLost cause a b s = _
  obtain h | h | h := h <;> simp [execMainsLost, h]

theorem freqInRange_eq_false {f : Nat} : freqInRange f = false ↔ f < 45000 ∨ 65000 < f := by
  simp [freqInRange]; omega

/-- In COAST the angle clock runs at the nominal frequency (R65, R68). -/
theorem loseMains_tim (s : State) (c f : Nat) : (loseMains s c f).tim = { s.tim with
    mainsState := .coast, mainsLostF := true, outOfRange := s.tim.outOfRange || c == 2, angleErr := 0, angleHold := 0
    freq := if s.tim.nominal60 then 60000 else 50000 } := by
  unfold loseMains
  simp [Tim.settleFreq, Tim.nominal]

/-- The jump of an angle correction (R70) changes the time base and the contexts only. -/
theorem jumpAngle_frame (s : State) (c : Nat) : (jumpAngle s c).tim.mains = s.tim.mains + c ∧ (jumpAngle s c).rng = s.rng ∧
    (jumpAngle s c).tie = s.tie := by
  unfold jumpAngle
  dsimp only
  refine ⟨?_, ?_, ?_⟩
  · rw [forAll_tim]; intro s o; split <;> simp
  · rw [forAll_rng]; intro s o; split <;> simp
  · rw [forAll_tie]; intro s o; split <;> simp

theorem correctAngle_frame (s : State) (c : Int) : (correctAngle s c).tim.mains = s.tim.mains + c.toNat ∧
    (correctAngle s c).rng = s.rng ∧ (correctAngle s c).tie = s.tie := by
  unfold correctAngle
  split
  · exact jumpAngle_frame s c.toNat
  · exact ⟨by rw [Int.toNat_of_nonpos (by omega)]; rfl, rfl, rfl⟩

theorem correctAngle_hold {c : Int} (h : c ≤ 0) (s : State) : (correctAngle s c).tim.angleHold = c.natAbs * 10 ^ 14 := by
  rw [correctAngle, if_neg (by omega)]

/-- The clock with its one angle correction made, in LOCKED at frequency `f` (R69). -/
def mainsCorrected (s : State) (f : Nat) (c : Int) : State :=
  { correctAngle s c with tim := { (correctAngle s c).tim with
    mainsState := .locked, freq := f, angleErr := 0, outOfRange := false, lastCross := (correctAngle s c).now
    phaseStepF := (correctAngle s c).tim.phaseStepF || c != 0 } }

theorem lockMains_eq (s : State) (f : Nat) (c : Int) :
    lockMains s f c = postDev (mainsCorrected s f c) 0x0581 (p16 (twos 16 c) ++ p32 f) := rfl

theorem lockMains_tim (s : State) (f : Nat) (c : Int) : (lockMains s f c).tim = (mainsCorrected s f c).tim := by
  simp [lockMains_eq]

theorem lockMains_mains (s : State) (f : Nat) (c : Int) : (lockMains s f c).tim.mains = s.tim.mains + c.toNat := by
  rw [lockMains_tim]
  exact (correctAngle_frame s c).1

theorem exec_mainsLocked {s : State} {l : List SrcCycle} {c : SrcCycle} (hc : s.clocksRun = true) (hm : s.tim.mainsState ≠ .locked)
    (hs : s.tim.source = false) (hl : l.getLast? = some c) (ht : acquisitionTest l = true) (a : BitVec 16) :
    exec (.mainsLocked l a) s = .next (afterJump s (lockMains s (srcFreq c) (angleCorrection s a))) := by
  change execMainsLocked l a s = _
  simp [execMainsLocked, mainsFound, hl, hc, hm, hs, ht]

/-- Where mains time has not moved on, no mark is passed over (R76). -/
theorem afterJump_still {s t : State} (h : t.tim.mains ≤ s.tim.mains) : afterJump s t = t := if_neg (by omega)

theorem mainsFound_off {s : State} {l : List SrcCycle} (h : s.clocksRun = false ∨ s.tim.mainsState = .locked ∨ s.tim.source = true ∨
    acquisitionTest l = false) (a : BitVec 16) : mainsFound l a s = s := by
  unfold mainsFound
  split
  · exact if_neg (by obtain h | h | h | h := h <;> simp [h])
  · rfl

/-- Settles O42: the equations of the commands above, and for the reference `linkLoss` with the events after it. -/
theorem mainsAndReference : Obligations.MainsAndReference := by
  refine ⟨fun s hc h => ?lost, fun s => exec_referenceLost_off, fun s hc h => ?restored, fun s => exec_referenceRestored_off,
    fun s a b hc hl hs => exec_mainsLost_crossing hc hl hs a b, fun s a b hc hl hs => ⟨fun ha hb => ?low, fun hab => ?notLow⟩,
    fun s a b hc hl hs => ⟨fun ha hb => ?out, fun hab => ?within⟩, fun s cause a b h => exec_mainsLost_off h cause a b,
    fun s c f => ⟨loseMains_tim s c f, fun hr => ?coastEvent⟩,
    fun s l c a hc hm hs hl ht => ⟨exec_mainsLocked hc hm hs hl ht a, fun h0 => ?held⟩, fun s l a h => ?notFound, fun s f c => ?locked⟩
  case lost =>
    have tim : (tally (postDev (linkLoss (onHoldover s) 1) 0x0584 (p8 0)) 14 0).tim = (onHoldover s).tim := by simp [linkLoss_tim]
    refine ⟨_, exec_referenceLost hc h, congrArg Tim.refHoldover tim, congrArg Tim.refLostF tim, congrArg Tim.refLostAt tim, ?_⟩
    simp [tally_linkUp, linkLoss]
  case restored =>
    refine ⟨_, exec_referenceRestored hc h, by simp, ?_, ?_⟩
    · simp [atReturn]
    · have later : s.tim.refLostAt + 100 * msNs ≤ (atReturn s).now := (toTick_reaches s _).trans (toMains_now _ _)
      simpa [State.now, msNs] using later
  case low => rw [exec_mainsLost_amplitude hc hl hs, if_pos ⟨ha, hb⟩]
  case notLow => rw [exec_mainsLost_amplitude hc hl hs, if_neg (by omega)]
  case out => rw [exec_mainsLost_frequency hc hl hs, if_pos ⟨freqInRange_eq_false.mpr ha, freqInRange_eq_false.mpr hb⟩]
  case within => rw [exec_mainsLost_frequency hc hl hs, if_neg (by simp only [freqInRange_eq_false]; omega)]
  case coastEvent =>
    unfold loseMains
    refine (postEvent_posted (code := 0x0580) ?_ (by decide) none _ none).since ?_
    · exact hr
    · rfl
  case held =>
    rw [exec_mainsLocked hc hm hs hl ht, afterJump_still]
    rw [lockMains_mains, Int.toNat_of_nonpos h0, Nat.add_zero]
  case notFound =>
    change execMainsLocked l a s = _
    rw [execMainsLocked, mainsFound_off h, afterJump_still le_rfl]
  case locked =>
    obtain ⟨-, rng, tie⟩ := correctAngle_frame s c
    have tim := lockMains_tim s f c
    refine ⟨by rw [tim]; rfl, by rw [tim]; rfl, lockMains_mains s f c, by rw [tim]; rfl, fun h0 => ?_, fun hr => ?_⟩
    · rw [tim]; exact correctAngle_hold h0.le s
    · rw [lockMains_eq]
      exact (postEvent_posted (s := mainsCorrected s f c) (by rwa [mainsCorrected, tie]) (by decide) none _ none).since rng

end Sys2Proof.Machine
end


section
/-! Legal time (R80 to R82, R84). -/

namespace Sys2Proof.Machine

/-! ### A step of legal time leaves the time base as the step made it -/

@[simp] theorem stepDemand_tim (s : State) (old : Nat) : (stepDemand s old).tim = s.tim := rfl

@[simp] theorem flagAll_tim (s : State) (f : BitVec 15) : (flagAll s f).tim = s.tim := by
  simp [flagAll, flagSession]

@[simp] theorem stateChanged_tim (s : State) (old new : PwrState) : (stateChanged s old new).tim = s.tim := by
  unfold stateChanged; split <;> simp

@[simp] theorem mirrorDomains_tim (s : State) : (mirrorDomains s).tim = s.tim := by
  unfold mirrorDomains; split <;> simp

@[simp] theorem leaveQuiet_tim (s : State) (source detail : Nat) (replayed : Bool) (further : Nat) :
    (leaveQuiet s source detail replayed further).tim = s.tim := by
  simp [leaveQuiet, raiseVoted, wakeEvent, recordWake]

@[simp] theorem wake_tim (s : State) (source detail : Nat) : (wake s source detail).tim = s.tim := by
  unfold wake
  split
  · split
    · split <;> rfl
    · split <;> simp
  · rfl

@[simp] theorem fireAlarm_tim (s : State) : (fireAlarm s).tim = s.tim := by
  simp [fireAlarm, wakeEvent]

/-- The time base as a step of legal time by `d` leaves it (R81). -/
theorem stepLegal_tim (s : State) (d : Int) (src : Nat) : (stepLegal s d src).tim = ({ s.tim with
    legal := (s.tim.legal + d).toNat, slewLeft := 0, slewRem := 0, slewing := false, legalStepF := true } : Tim).noteLegal := by
  simp [stepLegal]

/-! ### Synchronisation (R81) -/

theorem exec_legalTimeSync {s : State} (h : s.clocksRun = true) (utc a : Nat) :
    exec (.legalTimeSync 1 utc a) s = .next (syncLegal s utc a 0) := by
  change execLegalTimeSync 1 utc a s = _
  simp [execLegalTimeSync, h]

theorem exec_legalTimeSync_off {s : State} {role : BitVec 3} (h : s.clocksRun = false ∨ role ≠ 1) (utc a : Nat) :
    exec (.legalTimeSync role utc a) s = .next s := by
  change execLegalTimeSync role utc a s = _
  have refused : ¬ (s.clocksRun && role == 1) = true := by simpa [imp_iff_not_or] using h
  exact congrArg _ (if_neg refused)

theorem syncLegal_steps {s : State} {utc a : Nat} (h1 : 2 ^ 24 < (utc - legalAt s a : Int).natAbs)
    (h2 : (utc - legalAt s a : Int).natAbs ≤ s.cfg.maxStep * 86400 * 2 ^ 24 ∨ s.tim.legalState = .unsync) (src : Nat) :
    syncLegal s utc a src = acceptSync (stepLegal s (utc - legalAt s a) src) := by
  unfold syncLegal
  dsimp only
  rw [if_neg (by omega), if_pos h2]

theorem syncLegal_refuses {s : State} {utc a : Nat} (h1 : 2 ^ 24 < (utc - legalAt s a : Int).natAbs)
    (h2 : s.cfg.maxStep * 86400 * 2 ^ 24 < (utc - legalAt s a : Int).natAbs) (h3 : s.tim.legalState ≠ .unsync) (src : Nat) :
    syncLegal s utc a src = postDev s 0x0586 (p64 (twos 64 (Int.tdiv (utc - legalAt s a) (2 ^ 24))) ++ p8 src) := by
  unfold syncLegal
  dsimp only
  rw [if_neg (by omega), if_neg (not_or.mpr ⟨by omega, h3⟩), Nat.cast_pow]
  rfl

/-! ### The end of a slew, and ageing (R80, R81) -/

theorem advance_syncAge (s : State) (n : Nat) : (s.advance n).tim.syncAgeTicks = s.tim.syncAgeTicks + 10 * n := by
  unfold State.advance
  split <;> simp [Tim.runLegal, Tim.runMains]

/-- The step-clock periods that the rest of a slew takes at 500 ppm (R81). -/
def slewSteps (s : State) : Nat := (s.tim.slewLeft.natAbs * 10 ^ 11 - s.tim.slewRem + 8388607) / 8388608

theorem exec_slewEnd {s : State} (hc : s.clocksRun = true) (h : s.tim.slewing = true) : exec .slewEnd s =
    .next { s.advance (slewSteps s) with tim := { (s.advance (slewSteps s)).tim with slewing := false } } := by
  change execSlewEnd s = _
  simp only [execSlewEnd, hc, h, Bool.and_self, if_true]
  rfl

theorem exec_slewEnd_off {s : State} (h : s.tim.slewing = false) : exec .slewEnd s = .next s := by
  change execSlewEnd s = _
  simp [execSlewEnd, h]

/-- The step-clock periods until the last synchronisation is SYNC_AGE old (R80). -/
def ageSteps (s : State) : Nat := (s.cfg.syncAge * secNs - s.tim.syncAgeTicks + 9) / 10

theorem exec_syncAgeExpiry {s : State} (hc : s.clocksRun = true) (h : s.tim.legalState = .synced) : exec .syncAgeExpiry s =
    .next { s.advance (ageSteps s) with tim := { (s.advance (ageSteps s)).tim with legalState := .aged } } := by
  change execSyncAgeExpiry s = _
  simp only [execSyncAgeExpiry, hc, h, beq_self_eq_true, Bool.and_self, if_true]
  rfl

theorem exec_syncAgeExpiry_off {s : State} (h : s.tim.legalState ≠ .synced) : exec .syncAgeExpiry s = .next s := by
  change execSyncAgeExpiry s = _
  simp [execSyncAgeExpiry, h]

/-! ### The end of the local-time table (R84) -/

theorem exec_localTableEnd {s : State} {e : LocalEntry} (hc : s.clocksRun = true) (h : s.tim.localEndPosted = false)
    (he : s.tim.localTab.getLast? = some e) : exec .localTableEnd s = .next (localEnd (s.toLegal (e.start * 2 ^ 24)) e) := by
  change execLocalTableEnd s = _
  simp [execLocalTableEnd, he, hc, h]

theorem exec_localTableEnd_off {s : State} (h : s.tim.localEndPosted = true ∨ s.tim.localTab = []) : exec .localTableEnd s = .next s := by
  change execLocalTableEnd s = _
  unfold execLocalTableEnd
  split
  · obtain h | h := h <;> simp_all
  · rfl

theorem toLegal_localTab (s : State) (v : Nat) : (s.toLegal v).tim.localTab = s.tim.localTab := (advance_legalState s _).2

/-- Settles O43: a synchronisation by the size of its correction, and the ends by the time that runs on until them. -/
theorem legalTimeKeeping : Obligations.LegalTimeKeeping := by
  refine ⟨fun s utc a hc h => ?slews, fun s utc a hc h1 h2 => ?steps, fun s utc a hc h1 h2 h3 => ?refuses,
    fun s role utc a h => exec_legalTimeSync_off h utc a, fun s hc h => ⟨_, exec_slewEnd hc h, rfl, (advance_legalState s _).1, ?_, ?_⟩,
    fun s => exec_slewEnd_off, fun s hc h => ⟨_, exec_syncAgeExpiry hc h, rfl, ?_, ?_⟩, fun s => exec_syncAgeExpiry_off,
    fun s e hc h he hr => ⟨_, exec_localTableEnd hc h he, ?_, ?_, ?event⟩, fun s => exec_localTableEnd_off⟩
  case slews =>
    rw [exec_legalTimeSync hc]
    exact congrArg _ (if_pos h)
  case steps =>
    have tim := stepLegal_tim s (utc - legalAt s a) 0
    rw [exec_legalTimeSync hc, syncLegal_steps h1 h2]
    refine ⟨_, rfl, ?_⟩
    simp only [acceptSync, tim, Tim.noteLegal, and_self]
  case refuses => rw [exec_legalTimeSync hc, syncLegal_refuses h1 h2 h3]
  case event =>
    refine (postEvent_posted (code := 0x0585) ?_ (by decide) none _ none).since ?_
    · rw [toLegal_frame]; exact hr
    · rw [toLegal_frame]
  · exact (Nat.le_add_right _ _).trans_eq (advance_tick s _).symm
  · rw [advance_frame]
  · have age : s.cfg.syncAge * 1000000000 ≤ s.tim.syncAgeTicks + 10 * ageSteps s := by unfold ageSteps secNs; omega
    exact age.trans_eq (advance_syncAge s _).symm
  · rw [advance_frame]
  · simp [localEnd]
  · simp [localEnd, toLegal_localTab]

end Sys2Proof.Machine
end


section
/-! The local authorisation store (R459 to R464, R477). -/

namespace Sys2Proof.Machine

/-! ### Slots (R459, R462) -/

theorem find_insSlot (k j : Nat) (a : AuthSlot) (l : List (Nat × AuthSlot)) :
    (insSlot k a l).find? (fun x => x.1 == j) = if k = j then some (k, a) else l.find? fun x => x.1 == j := by
  induction l with
  | nil => by_cases h : k = j <;> simp [insSlot, h]
  | cons x l ih =>
    unfold insSlot
    by_cases before : k < x.1
    · rw [if_pos before]
      by_cases hj : k = j <;> simp [hj]
    · rw [if_neg before]
      by_cases same : k = x.1
      · rw [if_pos same]
        by_cases hj : k = j
        · simp [hj]
        · simp [hj, ← same]
      · rw [if_neg same]
        by_cases hx : x.1 = j
        · rw [List.find?_cons_of_pos (by simpa using hx), List.find?_cons_of_pos (by simpa using hx), if_neg (hx ▸ same)]
        · rw [List.find?_cons_of_neg (by simpa using hx), List.find?_cons_of_neg (by simpa using hx), ih]

theorem find_removed (k j : Nat) (l : List (Nat × AuthSlot)) :
    (l.filter fun x => x.1 != k).find? (fun x => x.1 == j) = if k = j then none else l.find? fun x => x.1 == j := by
  rw [List.find?_filter]
  by_cases h : k = j
  · rw [if_pos h, List.find?_eq_none]
    simp [h]
  · rw [if_neg h]
    congr 1
    funext x
    by_cases hx : x.1 = j
    · simp [hx, Ne.symm h]
    · simp [hx]

theorem put_slot (t : Store) (k j : Nat) (a : AuthSlot) : (t.put k a).slot j = if k = j then a else t.slot j := by
  unfold Store.put Store.slot
  by_cases blank : a = .blank
  · rw [if_pos blank, find_removed]
    split
    · exact blank.symm
    · rfl
  · rw [if_neg blank, find_insSlot]
    split <;> rfl

/-! ### Commands (R460, R463, R464) -/

/-- The slot that a Store slot command carries (R459). -/
def carriedSlot (c : Cmd) : Option AuthSlot := AuthSlot.ofWords ((List.range 8).map fun i => c.p (2 + i))

theorem effStoreSlot_unsound {s : State} {c : Cmd} (h : ∀ a, carriedSlot c = some a → a.sound = false ∨ 2 < a.status.toNat) :
    effStoreSlot c s = complete s c 0x02 := by
  unfold effStoreSlot
  dsimp only
  split
  · rfl
  · next a ha => exact if_pos (by simpa using h a ha)

theorem effStoreSlot_sound {s : State} {c : Cmd} {a : AuthSlot} (ha : carriedSlot c = some a) (hs : a.sound = true)
    (hst : a.status.toNat ≤ 2) : effStoreSlot c s =
      if s.store.duplicate (fld (c.p 0) 0 18) a || (a.member.getLsbD s.store.shadow && !s.store.shadowOpen) then complete s c 0x0A
      else complete (forwardStore (countStore { s with store := s.store.put (fld (c.p 0) 0 18) a })
        (countStore { s with store := s.store.put (fld (c.p 0) 0 18) a }).store.seq.toNat (fld (c.p 0) 0 18) a.bytes) c 0
        (BitVec.ofNat 32 (unreached (countStore { s with store := s.store.put (fld (c.p 0) 0 18) a }))) := by
  unfold effStoreSlot
  rw [show AuthSlot.ofWords _ = some a from ha]
  exact if_neg (by simp [hs, hst])

theorem effReadSlot_aligned {s : State} {c : Cmd} (h : c.p2 1 % 32 = 0) : effReadSlot c s =
    complete (s.hostWrite (BitVec.ofNat 64 (c.p2 1)) (s.store.slot (fld (c.p 0) 0 18)).bytes) c 0 := if_neg (by omega)

theorem effBeginShadow_pending {s : State} (h : s.aut.switchAt ≠ none) (c : Cmd) : effBeginShadow c s = complete s c 0x0A :=
  if_pos (Option.isSome_iff_ne_none.mpr h)

theorem effBeginShadow_free {s : State} (h : s.aut.switchAt = none) (c : Cmd) : effBeginShadow c s =
    complete (forwardStore (countStore { s with store := s.store.clearShadow })
      (countStore { s with store := s.store.clearShadow }).store.seq.toNat 0x40000 []) c 0
      (BitVec.ofNat 32 (unreached (countStore { s with store := s.store.clearShadow }))) := if_neg (by simp [h])

theorem effSwitchTable_pending {s : State} (h : s.aut.switchAt ≠ none) (c : Cmd) : effSwitchTable c s = complete s c 0x0A :=
  if_pos (Option.isSome_iff_ne_none.mpr h)

theorem effSwitchTable_marked {s u : State} (h : s.aut.switchAt = none) (hu : s.setMark .cluster (switchMark s) 0x15 = (u, true))
    (c : Cmd) : effSwitchTable c s =
      forwardStore (started { u with aut := { s.aut with switchAt := some (switchMark s), switchCmd := some (c.ring, c.index) } } c)
        (u.store.seq.toNat + 1) 0x40001 (leBytes 8 (switchMark s)) := by
  unfold effSwitchTable
  dsimp only
  rw [if_neg (by simp [h]), hu, if_pos rfl]
  simp

theorem effSwitchTable_noMark {s u : State} (h : s.aut.switchAt = none) (hu : s.setMark .cluster (switchMark s) 0x15 = (u, false))
    (c : Cmd) : effSwitchTable c s = complete u c 0x05 := by
  unfold effSwitchTable
  dsimp only
  rw [if_neg (by simp [h]), hu]
  rfl

/-! ### The switch of the tables (R463) -/

/-- The state in which the tables have switched at mark `m`. -/
def tablesSwitched (s : State) (m : Nat) : State :=
  { (s.toMains m).dropMark .cluster 0x15 with
    store := { s.store with active := !s.store.active, shadowOpen := false, seq := s.store.seq + 1 }
    aut := { s.aut with switchAt := none, switchCmd := none } }

theorem tableFires_uncommanded {s : State} {m : Nat} (h : s.aut.switchAt = some m) (hk : s.aut.switchCmd = none)
    (hp : s.glb.phase = .running) : tableFires s = postDev (tablesSwitched s m) 0x0804
      (p8 (b2n (!s.store.active)) ++ p32 (s.store.seq + 1).toNat ++ p32 (tablesSwitched s m).cycle) := by
  have aut : (s.toMains m).aut = s.aut := by rw [toMains_frame]
  have store : (s.toMains m).store = s.store := by rw [toMains_frame]
  unfold tableFires
  rw [h]
  simp only [hp, if_true, countStore, State.dropMark, aut, store, hk, Option.bind_none]
  rfl

/-! ### Changes from a peer (R464) -/

theorem exec_storeChangeReceived {s : State} (h : s.glb.phase = .running) (q n : Nat) (l : List (BitVec 8)) :
    exec (.storeChangeReceived q n l) s = .next (fireLate .cluster (takeStore s q n l)) := by
  change execStoreChangeReceived q n l s = _
  rw [execStoreChangeReceived, storeChange, if_pos h]

theorem takeStore_old {s : State} {q : Nat} (h : laterN 32 q s.store.seq.toNat = false) (n : Nat) (l : List Byte) :
    takeStore s q n l = s := if_pos (by simp [h])

section
variable {s : State} {q : Nat} (h : laterN 32 q s.store.seq.toNat = true)
include h

theorem takeStore_slot {n : Nat} (hn : n < 0x40000) {l : List Byte} {a : AuthSlot} (ha : AuthSlot.ofWords (bytesWords l) = some a) :
    takeStore s q n l = countStore { s with store := s.store.put n a } := by
  unfold takeStore
  rw [if_neg (by simp [h]), if_neg (by omega), if_neg (by omega), ha]

theorem takeStore_shadow (l : List Byte) : takeStore s q 0x40000 l = countStore { s with store := s.store.clearShadow } := by
  unfold takeStore
  rw [if_neg (by simp [h]), if_pos rfl]

theorem takeStore_switch (hf : s.aut.switchAt = none) (l : List Byte) : takeStore s q 0x40001 l =
    { (s.setMark .cluster (ofBytes l) 0x15).1 with aut := { s.aut with switchAt := some (ofBytes l) } } := by
  unfold takeStore
  rw [if_neg (by simp [h]), if_neg (by omega), if_pos rfl, if_neg (by simp [hf])]

end

theorem fireLate_timely {s : State} {w : MarkOwner} (h : ∀ m ∈ s.tim.marks, m.owner = w → m.late = false) : fireLate w s = s := by
  refine if_neg ?_
  simp only [List.any_eq_true, Bool.and_eq_true, beq_iff_eq, not_exists, not_and, Bool.not_eq_true]
  exact h

/-- Settles O34: each command by the equation of its effect, a slot by `put_slot`, the switch by `tableFires_uncommanded`. -/
theorem storeCommands : Obligations.StoreCommands := by
  refine ⟨fun t k j a => ⟨by rw [put_slot, if_pos rfl], fun hj => by rw [put_slot, if_neg hj.symm]⟩,
    fun s c a u h ha hs hst hu => ⟨fun hd hm => ?stored, fun hd => ?refused⟩, fun s c h ha => ready_eq h (effStoreSlot_unsound ha),
    fun s c h => ⟨fun ha => ?read, fun ha => ready_eq h (if_pos ha)⟩,
    fun s c u h hu => ⟨fun hf => hu ▸ ready_eq h (effBeginShadow_free hf c), fun hp => ready_eq h (effBeginShadow_pending hp c)⟩,
    fun s c h => ⟨fun u hf hu => ready_eq h (effSwitchTable_marked hf hu c), fun u hf hu => ready_eq h (effSwitchTable_noMark hf hu c),
      fun hp => ready_eq h (effSwitchTable_pending hp c)⟩,
    fun s v m hv ha hk hp hr => ⟨_, tablesSwitched v m, ?fires, postEvent_eventsOnly _ _ _ _ none, rfl, rfl, postEvent_posted ?_ (by decide) _ _ none⟩,
    fun s q n l hp => ⟨fun ho => ?old, fun a hl hn ha => ?slot, fun hl hn => ?shadow, fun hl hn hf => ?switch⟩,
    fun s w h => fireLate_timely fun m hm ho => (h m hm).resolve_left (not_not_intro ho), fun s p q l hp hl => ?resync,
    fun s hc hr => ?index⟩
  case stored =>
    subst hu
    exact ready_eq h (by rw [effStoreSlot_sound ha hs hst, if_neg (by simpa [hd, imp_iff_not_or] using hm)])
  case refused => exact ready_eq h (by rw [effStoreSlot_sound ha hs hst, if_pos (by simpa using hd)])
  case read =>
    exact ⟨_, ready_eq h (effReadSlot_aligned ha), complete_done (hostWrite_inFlight h.cmd _ _) 0 0,
      fun hon => complete_out _ c 0 _ _ (hostWrite_sent _ _ hon)⟩
  case fires =>
    change execTableSwitch s = _
    rw [execTableSwitch, ← hv, tableFires_uncommanded ha hk hp]
    rfl
  case old => rw [exec_storeChangeReceived hp, takeStore_old ho]
  case slot => rw [exec_storeChangeReceived hp, takeStore_slot hl hn ha]
  case shadow => rw [exec_storeChangeReceived hp, hn, takeStore_shadow hl]
  case switch => rw [exec_storeChangeReceived hp, hn, takeStore_switch hl hf]
  case resync =>
    change ∃ u n, execStoreResynchronised p q l s = _ ∧ _
    rw [execStoreResynchronised, if_pos (by simp [hp, hl])]
    exact ⟨_, _, rfl, rfl, rfl, rfl⟩
  case index =>
    change execIndexBuilt s = _
    rw [execIndexBuilt, if_pos (by simp [hc, hr])]
  · rw [tablesSwitched, toMains_frame]; exact hr

end Sys2Proof.Machine
end


section
/-! The cycle of the power allocation (R293, R294, R301). -/

namespace Sys2Proof.Machine

/-! ### The minimums (R294 step 3) -/

/-- The loads of the four constraints with the minimum of a claimant added. -/
def minimumAdded (c : Claim) (load : List Rat) : List Rat := (List.range 4).map fun j => load.getD j 0 + c.k.getD j 0 * c.lo

/-- A claimant receives its minimum where every constraint that it loads has room for it, and nothing otherwise. -/
theorem giveMinimums_cons (lim : List Rat) (c : Claim) (t : List Claim) (load : List Rat) :
    (∃ d, giveMinimums lim (c :: t) load = { c with denied := d } :: giveMinimums lim t load) ∨
    ((∀ j < 4, (minimumAdded c load).getD j 0 ≤ lim.getD j 0 ∨ c.k.getD j 0 = 0) ∧
      giveMinimums lim (c :: t) load = { c with x := c.lo } :: giveMinimums lim t (minimumAdded c load)) := by
  rw [giveMinimums]
  dsimp only
  split_ifs with none room
  · exact .inl ⟨c.denied, rfl⟩
  · exact .inr ⟨by simpa [minimumAdded] using room, rfl⟩
  · exact .inl ⟨true, rfl⟩

theorem minimumAdded_getD (c : Claim) (load : List Rat) {j : Nat} (hj : j < 4) :
    (minimumAdded c load).getD j 0 = load.getD j 0 + c.k.getD j 0 * c.lo := by
  simp [minimumAdded, hj]

/-- What the minimums load a constraint with, on top of what it carries, stays within its limit. -/
theorem giveMinimums_within {lim : List Rat} {j : Nat} (hj : j < 4) (l : List Claim) (load : List Rat) (hl : ∀ c ∈ l, c.x = 0)
    (h : load.getD j 0 ≤ lim.getD j 0) :
    load.getD j 0 + ((giveMinimums lim l load).map fun c => c.k.getD j 0 * c.x).sum ≤ lim.getD j 0 := by
  induction l generalizing load with
  | nil => simpa [giveMinimums] using h
  | cons c t ih =>
    have rest : ∀ d ∈ t, d.x = 0 := fun d hd => hl d (List.mem_cons_of_mem _ hd)
    obtain ⟨d, e⟩ | ⟨room, e⟩ := giveMinimums_cons lim c t load
    · rw [e, List.map_cons, List.sum_cons, hl c List.mem_cons_self, mul_zero, zero_add]
      exact ih load rest h
    · have added := minimumAdded_getD c load hj
      have fits : (minimumAdded c load).getD j 0 ≤ lim.getD j 0 := (room j hj).elim id fun free => by
        rwa [added, free, zero_mul, add_zero]
      rw [e, List.map_cons, List.sum_cons, ← add_assoc, ← added]
      exact ih _ rest fits

theorem giveMinimums_zeroOrMinimum (lim : List Rat) (l : List Claim) (load : List Rat) (hl : ∀ d ∈ l, d.x = 0) :
    ∀ c ∈ giveMinimums lim l load, c.x = 0 ∨ c.x = c.lo := by
  induction l generalizing load with
  | nil => simp [giveMinimums]
  | cons d t ih =>
    have rest := fun load' => ih load' fun c hc => hl c (List.mem_cons_of_mem _ hc)
    obtain ⟨b, e⟩ | ⟨-, e⟩ := giveMinimums_cons lim d t load
    · rw [e, List.forall_mem_cons]
      exact ⟨.inl (hl d List.mem_cons_self), rest load⟩
    · rw [e, List.forall_mem_cons]
      exact ⟨.inr rfl, rest _⟩

/-! ### The marks of a cycle (R75, R293) -/

theorem exec_shareSnapshot (s : State) : exec .shareSnapshot s = .next (snapshotFires (inOrder .snapshot s)) := rfl

theorem exec_shareApply (s : State) : exec .shareApply s = .next (applyFires (inOrder .apply s)) := rfl

theorem snapshotFires_disabled {s : State} (h : s.shr.en = false) : snapshotFires s = s := if_pos (by simp [h])

/-- The snapshot mark at `v` (R293): `snapped` is what it makes of the state in which the mark has come. -/
theorem snapshotFires_marked {s u snapped : State} {v : Nat} (hc : s.clocksRun = true) (he : s.shr.en = true)
    (hv : shareMark s 0 = some v) (hu : u = (s.toMains v).dropMark .share 0) (h : snapped = if shareRuns u then
      if (u.setMark .share (v + 0x4000) 1).2 then snapshot (u.setMark .share (v + 0x4000) 1).1 else (u.setMark .share (v + 0x4000) 1).1
      else u) : snapshotFires s = (snapped.setMark .share (nextSnap snapped v) 0).1 := by
  subst h hu
  unfold snapshotFires
  rw [if_neg (by simp [hc, he]), hv]
  rfl

theorem applyFires_marked {s u : State} {v : Nat} (hc : s.clocksRun = true) (hv : shareMark s 1 = some v)
    (hu : u = (s.toMains v).dropMark .share 1) : applyFires s =
      if !shareRuns u || !u.shr.snapPending then u
      else if !u.shr.allocDone then
        postDev { u with shr := { u.shr with late := true, snapPending := false } } 0x0306 (p32 (v / 65536 % 2 ^ 32))
      else applyAll u ((v - 0x4000) / 65536) fun o => decide (0 < (u.shr1 o).waited) := by
  subst hu
  unfold applyFires
  rw [hv]
  exact if_neg (by simp [hc])

/-! ### A device that allocates alone (R301) -/

/-- The peers whose inputs are missing (R301). -/
def missingPeers (s : State) : List (Fin 4) := (sharePeers s).filter fun k => (vget s.shr.peerIn k).isNone

/-- The device tells its peers that it allocates alone (log 149). -/
def aloneTold (s : State) : State :=
  (List.finRange 3).foldl (fun s k => if (vget s.tie.ports ⟨k.val, by omega⟩).up then
    s.send (.tie ⟨k.val, by omega⟩ (.shareAlone s.slotNo s.cycle)) else s) s

/-- The grants of its own claimants within its part of the limits, in a state `w` in which the peers have been told. -/
def allocatedAlone (u w : State) : State :=
  noteGrants { w with shr := { w.shr with peerMode := true, peerFallback := true } }
    (allocate w.shr.frozen (clusterLimits u (vget u.cfg.peerShare (fin 4 u.slotNo))) w.shr.ramp)

theorem exec_peerFallback {s u : State} (hr : shareRuns s = true) (hp : s.shr.snapPending = true) (hd : s.shr.allocDone = false)
    (hu : u = s.toTick (s.shr.snapAt + 200 * usNs)) : exec .peerFallback s = .next (
      if (missingPeers u).isEmpty then allocCluster u
      else if !u.shr.peerMode then postDev (allocatedAlone u (aloneTold u)) 0x0305 (p8 ((missingPeers u).map fun k => 2 ^ k.val).sum ++ p8 0)
      else allocatedAlone u (aloneTold u)) := by
  subst hu
  change execPeerFallback s = _
  unfold execPeerFallback
  rw [if_neg (by simp [hr, hp, hd])]
  rfl

/-- Settles O24: each mark by what it makes of the state in which it has come, the minimums by `giveMinimums_within`. -/
theorem shareCycle : Obligations.ShareCycle := by
  refine ⟨fun s q u w v b hq hc he hv hu hw => ?snapshot, fun s q u v hq hc hv hu => ?apply, fun s he => ?disabled,
    fun s u w r miss hr hp hd hu hm hw hrs => ?fallback, fun lim l j hj h0 hl => ?within,
    fun lim l load c hc hl => giveMinimums_zeroOrMinimum lim l load hl c hc⟩
  case snapshot =>
    subst hq
    rw [exec_shareSnapshot, snapshotFires_marked hc he hv hu rfl, hw]
    exact ⟨fun hr hb => by rw [if_pos hr, if_pos hb], fun hr hb => by rw [if_pos hr, if_neg (by simp [hb])],
      fun hr => by rw [if_neg (by simp [hr])]⟩
  case apply =>
    subst hq
    rw [exec_shareApply, applyFires_marked hc hv hu]
    exact ⟨fun hr hp hd => by rw [if_neg (by simp [hr, hp]), if_neg (by simp [hd])],
      fun hr hp hd => by rw [if_neg (by simp [hr, hp]), if_pos (by simp [hd])], fun h => by rw [if_pos (by simpa using h)]⟩
  case disabled => rw [exec_shareSnapshot, snapshotFires_disabled he]
  case fallback =>
    obtain rfl : miss = missingPeers u := hm
    obtain rfl : w = aloneTold u := hw
    have alone : r = allocatedAlone u (aloneTold u) := hrs
    rw [exec_peerFallback hr hp hd hu, ← alone]
    exact ⟨fun h => by rw [if_pos (by simp [h])], fun h hm => by rw [if_neg (by simpa using h), if_neg (by simp [hm])],
      fun h hm => by rw [if_neg (by simpa using h), if_pos (by simp [hm])]⟩
  case within =>
    have empty : (List.replicate 4 (0 : Rat)).getD j 0 = 0 := by
      rw [List.getD_eq_getElem?_getD, List.getElem?_replicate, if_pos hj, Option.getD_some]
    have sum := giveMinimums_within hj l (List.replicate 4 0) hl (empty.trans_le h0)
    rwa [empty, zero_add] at sum

end Sys2Proof.Machine
end


section
/-! Energy accounting (R75, R376, R382 to R384, R387 to R393). -/

namespace Sys2Proof.Machine

/-! ### Commits (R376, R377) -/

theorem exec_commit (f : Fin 3) (s : State) : exec (.commit f) s = .next (commitFires f (inOrder .commit s)) := rfl

theorem commitFires_off {s : State} (h : s.clocksRun = false ∨ s.enr.stopped = true ∨ s.fwRuns 1 = false) (f : Fin 3) :
    commitFires f s = s := by
  refine if_pos ?_
  obtain h | h | h := h <;> simp [commits, h]

theorem commitFires_cut {s u : State} {f : Fin 3} (hc : s.clocksRun = true) (hs : s.enr.stopped = false) (hf : s.fwRuns 1 = true)
    (hu : u = energyCut (s.toMains ((s.keep.commitNo + 1) * 65536)) (s.keep.commitNo + 1) (s.keep.commitNo + 1) false f) :
    commitFires f s = switchAtMark (if f = 0 then u.count 1 0x11 1 else u) (f == 0) := by
  subst hu
  exact if_neg (by simp [commits, hc, hs, hf])

/-- A commit set written without a fault stands in its slot, good, and is the last one (R377). -/
theorem writeSlot_good (s : State) (n : Nat) (c : CommitSet) : vget (writeSlot s n c 0).keep.slots (fin 8 n) = some { c with good := true } ∧
    (writeSlot s n c 0).keep.commitNo = c.number ∧ (writeSlot s n c 0).enr.committed = some c := by
  refine ⟨?_, rfl, rfl⟩
  change vget (vmod s.keep.slots (fin 8 n) fun _ => some { c with good := true }) (fin 8 n) = _
  rw [vget_vmod_same]

/-! ### Pulse outputs (R382, R383) -/

theorem onPulse_pulses (s : State) (k j : Fin 8) (f : PulseOut → PulseOut) :
    vget (s.onPulse k f).enr.pulses j = if k = j then f (vget s.enr.pulses j) else vget s.enr.pulses j := vget_vmod _ _ _ _

@[simp] theorem onPulse_same (s : State) (k : Fin 8) (f : PulseOut → PulseOut) :
    vget (s.onPulse k f).enr.pulses k = f (vget s.enr.pulses k) := vget_vmod_same _ _ _

/-- The pulse on its way, once the running one and its pause have ended. -/
def pulseStarted (s : State) (k : Fin 8) : State := (s.toTick (vget s.enr.pulses k).busyUntil).send (.pulse k)

theorem exec_pulseSend {s : State} {k : Fin 8} (hp : s.glb.phase = .running) (he : (vget s.enr.pulses k).en = true)
    (ho : 0 < (vget s.enr.pulses k).owed) : exec (.pulseSend k) s = .next ((pulseStarted s k).onPulse k fun p => { p with
      owed := p.owed - 1, count := p.count + 1, lowUntil := (pulseStarted s k).now + p.width * msNs
      busyUntil := (pulseStarted s k).now + 2 * p.width * msNs }) := by
  change execPulseSend k s = _
  unfold execPulseSend
  dsimp only
  rw [if_neg (by simp [hp, he]; omega)]
  rfl

theorem pulseStarted_pulses (s : State) (k : Fin 8) : (pulseStarted s k).enr.pulses = s.enr.pulses := by
  rw [pulseStarted, toTick_frame]
  rfl

/-- A pulse quantum in 2^-48 of the source's unit times pulses per thousand units (R382). -/
def pulseQuantum : Nat := 1000000 * 2 ^ 48

/-- What a commit owes and what it carries over for a pulse output whose settings stay (R382). -/
theorem commitPulse_shares {s : State} {k : Fin 8} (h : (vget s.enr.pulses k).next = none) {p : PulseOut} (hp : p = vget s.enr.pulses k) {all : Nat}
    (ha : all = p.acc + (pulseSource s p.src p.outlet - p.lastSrc) * p.const) :
    (vget (commitPulse s k).enr.pulses k).owed = min (p.owed + all / pulseQuantum) 1000000 ∧
      (vget (commitPulse s k).enr.pulses k).acc = all % pulseQuantum := by
  subst ha hp
  unfold commitPulse
  dsimp only
  rw [h]
  dsimp only
  split_ifs <;> simp [pulseQuantum]

/-- Where nothing is dropped, the shares of a commit lose nothing. -/
theorem commitPulse_conserves {s : State} {k : Fin 8} {d : Nat} (h : (vget s.enr.pulses k).next = none)
    (hd : (vget s.enr.pulses k).lastSrc + d = pulseSource s (vget s.enr.pulses k).src (vget s.enr.pulses k).outlet)
    (ho : (vget s.enr.pulses k).owed + ((vget s.enr.pulses k).acc + d * (vget s.enr.pulses k).const) / pulseQuantum ≤ 1000000) :
    (vget (commitPulse s k).enr.pulses k).owed * pulseQuantum + (vget (commitPulse s k).enr.pulses k).acc =
      (vget s.enr.pulses k).owed * pulseQuantum + (vget s.enr.pulses k).acc + d * (vget s.enr.pulses k).const := by
  have all : (vget s.enr.pulses k).acc + d * (vget s.enr.pulses k).const = (vget s.enr.pulses k).acc +
      (pulseSource s (vget s.enr.pulses k).src (vget s.enr.pulses k).outlet - (vget s.enr.pulses k).lastSrc) * (vget s.enr.pulses k).const := by
    rw [← hd, Nat.add_sub_cancel_left]
  obtain ⟨owed, acc⟩ := commitPulse_shares h rfl all
  generalize pulseQuantum = q at *
  rw [owed, acc, min_eq_left ho, add_mul, add_assoc, Nat.div_add_mod', add_assoc]

/-! ### Keep (R391) -/

theorem exec_keepBurst {s : State} (hp : s.glb.phase = .keep) (he : s.enr.keepEn = true) (l : List Nat) : exec (.keepBurst l) s =
    .next { s.advance 100000000 with keep := { (s.advance 100000000).keep with
      chans := Vector.ofFn (burst (s.advance 100000000) l) } } := by
  change execKeepBurst l s = _
  unfold execKeepBurst
  rw [if_neg (by simp [hp, he])]

/-- Of keeping memory the passing of time changes the real-time clock only (R46, R78). -/
theorem advance_keep (s : State) (n : Nat) : ∃ a b, (s.advance n).keep = { s.keep with rtc := a, rtcRem := b } := by
  unfold State.advance
  split
  · exact ⟨s.keep.rtc, s.keep.rtcRem, rfl⟩
  · exact ⟨_, _, rfl⟩

theorem advance_keepChans (s : State) (n : Nat) : (s.advance n).keep.chans = s.keep.chans := by
  obtain ⟨a, b, h⟩ := advance_keep s n
  rw [h]

theorem burst_advanced (s : State) (n : Nat) (l : List Nat) (k : Fin 4) : burst (s.advance n) l k =
    if keepSkipped s k = true ∨ l.getD k.val 0 < s.cfg.keepThresh then vget s.keep.chans k else
      { charge := (vget s.keep.chans k).charge + l.getD k.val 0, bursts := (vget s.keep.chans k).bursts + 1
        maxRms := max (vget s.keep.chans k).maxRms (l.getD k.val 0)
        first := if (vget s.keep.chans k).bursts = 0 then (s.advance n).keep.rtc else (vget s.keep.chans k).first
        last := (s.advance n).keep.rtc } := by
  have skipped : keepSkipped (s.advance n) k = keepSkipped s k := by rw [advance_frame]; rfl
  have cfg : (s.advance n).cfg = s.cfg := by simp
  unfold burst
  dsimp only
  rw [skipped, cfg, advance_keepChans]
  exact if_congr (by simp) rfl rfl

/-! ### The energy balance (R387 to R390) -/

/-- The state in which window `w` has been evaluated with balance `d` (R388). -/
def balanceJudged (s : State) (w : BalWindow) (d : Int) (valid : Bool) : State :=
  { s with enr := { s.enr with balWait := none, balLastEval := some w.number, balD := d, balLastValid := valid } }

/-- The evaluation of a window: `d` is the balance, `k` its class, and `valid` whether the sums of every device came (R388). -/
theorem exec_balanceEvaluation {s u : State} {w : BalWindow} {d tol : Int} {valid : Bool} {k : BitVec 2} (hc : s.clocksRun = true)
    (hw : s.enr.balWait = some w) (hu : u = s.toTick (w.closedAt + 60 * secNs))
    (hd : d = w.einc - (w.eout + (w.peers.map (·.2.1)).sum) - ((u.cfg.auxW * w.span * 10 / (36 * secNs) : Nat) + (w.declared.getD 0 : Nat)))
    (hvalid : valid = (w.valid && !((sharePeers u).any fun k => !w.peers.any fun p => p.1 == k.val) && w.peers.all fun p => p.2.2))
    (htol : tol = w.einc * u.cfg.tolPct / 1000 + u.cfg.tolWh * 1000) (hk : k = (if tol < d then 1 else if d < -tol then 2 else 0)) :
    exec .balanceEvaluation s = .next (if u.tie.role == .standby then balanceJudged u w d valid
      else if valid then balanceAlarm (postDev (balanceJudged u w d valid) 0x0513
        (p64 (twos 64 d) ++ p8 (if valid then k.toNat else 3) ++ p32 (w.number % 2 ^ 32))) k d
      else postDev (balanceJudged u w d valid) 0x0513 (p64 (twos 64 d) ++ p8 (if valid then k.toNat else 3) ++ p32 (w.number % 2 ^ 32))) := by
  change execBalanceEvaluation s = _
  unfold execBalanceEvaluation
  rw [hw]
  dsimp only
  rw [if_neg (by simp [hc]), ← hu, ← hd, ← hvalid, ← htol, ← hk]
  rfl

theorem exec_balanceEvaluation_none {s : State} (h : s.enr.balWait = none) : exec .balanceEvaluation s = .next s := by
  change execBalanceEvaluation s = _
  rw [execBalanceEvaluation, h]

/-! ### Commands (R390, R393) -/

theorem effDeclareAuxiliary_late {s : State} {c : Cmd} {m : Nat} (h : s.enr.balLastEval = some m) (hm : (c.p 0).toNat ≤ m) :
    effDeclareAuxiliary c s = complete { s with enr := { s.enr with auxLate := true } } c 0x0A := by
  simp [effDeclareAuxiliary, h, hm]

theorem effDeclareAuxiliary_first {s : State} (h : s.enr.balLastEval = none) (hw : s.enr.balWait = none) (c : Cmd) :
    effDeclareAuxiliary c s = complete { s with enr := { s.enr with
      balDecl := ((c.p 0).toNat, c.p2 1) :: s.enr.balDecl.filter fun d => d.1 != (c.p 0).toNat } } c 0x00 := by
  simp [effDeclareAuxiliary, effDeclareAuxiliary.decl, h, hw]

theorem effReadEnergyRegister_outlet {s : State} {c : Cmd} {o : Fin 128} (hd : c.device = false) (ho : s.ofHandle c.handle.toNat = some o) :
    effReadEnergyRegister c s = if fld (c.p 0) 0 8 < 13
      then complete s c 0 (BitVec.ofNat 32 (reg48 (vget (s.committedOut o).regs (fin 13 (fld (c.p 0) 0 8))))) else complete s c 0x02 := by
  unfold effReadEnergyRegister
  dsimp only
  rw [if_neg (by simp [hd]), onOutlet_ofHandle ho]

theorem effReadEnergyRegister_site {s : State} {c : Cmd} (hd : c.device = true) :
    effReadEnergyRegister c s = if 0x80 ≤ fld (c.p 0) 0 8 ∧ fld (c.p 0) 0 8 < 0x8C
      then complete s c 0 (BitVec.ofNat 32 (reg48 (vget s.committedSite.regs (fin 12 (fld (c.p 0) 0 8 - 0x80))))) else complete s c 0x02 := by
  unfold effReadEnergyRegister
  dsimp only
  rw [if_pos hd]

/-- Settles O28: each happening by its equation; `commitPulse_conserves` for the pulses, `burst_advanced` for Keep. -/
theorem energyAccounting : Obligations.EnergyAccounting := by
  refine ⟨fun s q u f hq hc hs hf hu => ?cut, fun s q f hq h => ?stands, fun s c n => writeSlot_good s n c, fun s k hp he ho => ?pulse,
    fun s k d h hd ho => commitPulse_conserves h hd ho, fun s l hp he => ⟨_, exec_keepBurst hp he l, fun k => ?keep⟩,
    fun s u v w d tol valid k hc hw hu hd hvalid hv htol hk => ?balance, fun s => exec_balanceEvaluation_none,
    fun s c h => ⟨fun m hm hn => ready_eq h (effDeclareAuxiliary_late hm hn), fun he hw => ready_eq h (effDeclareAuxiliary_first he hw c)⟩,
    fun s c h => ⟨fun o hd ho hi => ?outlet, fun o hd ho hi => ?noOutletReg, fun hd h0 h1 => ?site, fun hd hi => ?noSiteReg⟩⟩
  case cut =>
    subst hq
    rw [exec_commit, commitFires_cut hc hs hf hu]
  case stands =>
    subst hq
    rw [exec_commit, commitFires_off h]
  case pulse =>
    refine ⟨_, exec_pulseSend hp he ho, List.mem_cons_self, ?_⟩
    have free : (vget s.enr.pulses k).busyUntil ≤ (pulseStarted s k).now := toTick_reaches s _
    simp only [onPulse_same, pulseStarted_pulses]
    exact ⟨trivial, trivial, free, rfl, rfl, fun j hj => by rw [onPulse_pulses, if_neg hj.symm, pulseStarted_pulses]⟩
  case keep =>
    refine Eq.trans ?_ (burst_advanced s 100000000 l k)
    simp [vget]
  case balance =>
    have cfg : u.cfg = s.cfg := by simp [hu]
    have role : u.tie.role = s.tie.role := by rw [hu, toTick_frame]
    have judged : v = balanceJudged u w d valid := hv
    rw [← cfg] at hd htol
    rw [exec_balanceEvaluation hc hw hu hd hvalid htol hk, role, ← judged]
    exact ⟨fun hr => by rw [if_pos (by simp [hr])], fun hr hn => by rw [if_neg (by simpa using hr), if_neg (by simp [hn]), if_neg (by simp [hn])],
      fun hr hy => by rw [if_neg (by simpa using hr), if_pos hy, if_pos hy]⟩
  case outlet => exact ⟨_, ready_eq h (by rw [effReadEnergyRegister_outlet hd ho, if_pos hi]), ready_completes h _ _⟩
  case noOutletReg => exact ready_eq h (by rw [effReadEnergyRegister_outlet hd ho, if_neg (by omega)])
  case site => exact ⟨_, ready_eq h (by rw [effReadEnergyRegister_site hd, if_pos ⟨h0, h1⟩]), ready_completes h _ _⟩
  case noSiteReg => exact ready_eq h (by rw [effReadEnergyRegister_site hd, if_neg (by omega)])

end Sys2Proof.Machine
end


section
/-! The update block (R588, R601, R604) under the operations of the other blocks: none of them touches it. -/

namespace Sys2Proof.Machine

@[simp] theorem foldl_upd {α : Type} {l : List α} {f : State → α → State} {s : State} (h : ∀ s x, (f s x).upd = s.upd) :
    (l.foldl f s).upd = s.upd :=
  foldl_inv (fun t => t.upd = s.upd) l f s rfl fun t x ht => (h t x).trans ht

@[simp] theorem forAll_upd {α : Type} {l : List α} {f : State → α → State} {s : State} (h : ∀ s x, (f s x).upd = s.upd) :
    (forAll l f s).upd = s.upd := foldl_upd h

@[simp] theorem onCont_upd (s : State) (o : Fin 128) (aux : Bool) (f : Contactor → Contactor) : (s.onCont o aux f).upd = s.upd := rfl

@[simp] theorem onRuns_upd (s : State) (f : List Run → List Run) : (s.onRuns f).upd = s.upd := rfl

@[simp] theorem onEpd_upd (s : State) (f : Epd → Epd) : (s.onEpd f).upd = s.upd := rfl

@[simp] theorem flagSession_upd (s : State) (o : Fin 128) (f : BitVec 15) : (flagSession s o f).upd = s.upd := by
  simp [flagSession]

@[simp] theorem flagAll_upd (s : State) (f : BitVec 15) : (flagAll s f).upd = s.upd := by
  simp [flagAll]

@[simp] theorem tamper_upd (s : State) (kind : Fin 16) (inst : Nat) (outlet : Option (Fin 128)) :
    (tamper s kind inst outlet).upd = s.upd := by
  unfold tamper; dsimp only; repeat' split
  all_goals simp

@[simp] theorem dropCheck_upd (s : State) (o : Fin 128) : (dropCheck s o).upd = s.upd := by
  simp [dropCheck]

@[simp] theorem withdraw_upd (s : State) (o : Fin 128) (arg : Nat) : (withdraw s o arg).upd = s.upd := by
  simp [withdraw]

@[simp] theorem evalPermit_upd (s : State) (o : Fin 128) (trip : Option Nat) : (evalPermit s o trip).upd = s.upd := by
  unfold evalPermit; dsimp only; repeat' split
  all_goals simp

@[simp] theorem imdUpdate_upd (s : State) (o : Fin 128) : (imdUpdate s o).upd = s.upd := by
  simp [imdUpdate]

@[simp] theorem startRdc_upd (s : State) (o : Fin 128) (why : RdcWhy) : (startRdc s o why).upd = s.upd := by
  simp [startRdc]

@[simp] theorem openSession_upd (s : State) (o : Fin 128) (by_ : Option Cmd) : (openSession s o by_).upd = s.upd := by
  simp [openSession]

@[simp] theorem closeSession_upd (s : State) (o : Fin 128) (reason : Nat) (waitOpen : Bool) :
    (closeSession s o reason waitOpen).upd = s.upd := by
  unfold closeSession; repeat' split
  all_goals simp

@[simp] theorem endToggle_upd (s : State) (r : Run) : (endToggle s r).upd = s.upd := by
  unfold endToggle
  refine foldl_upd fun s h => ?_
  split
  · split <;> simp
  · rfl

@[simp] theorem failRun_upd (s : State) (r : Run) (cause : Nat) (skip : Option Nat) : (failRun s r cause skip).upd = s.upd := by
  unfold failRun
  refine (foldl_upd fun s h => ?_).trans (by simp)
  split
  · simp
  · rfl

@[simp] theorem leaveRuns_upd (s : State) (o : Fin 128) : (leaveRuns s o).upd = s.upd := by
  simp [leaveRuns]

@[simp] theorem slacArm_upd (s : State) (o : Fin 128) : (slacArm s o).upd = s.upd := by
  simp [slacArm]

@[simp] theorem slacDisarm_upd (s : State) (o : Fin 128) : (slacDisarm s o).upd = s.upd := by
  simp [slacDisarm]

@[simp] theorem mirrorSta_upd (s : State) (o : Fin 128) : (mirrorSta s o).upd = s.upd := by
  simp [mirrorSta]

@[simp] theorem endAssoc_upd (s : State) (o : Fin 128) (cause : Nat) (by_ : Option Cmd) : (endAssoc s o cause by_).upd = s.upd := by
  simp [endAssoc]

@[simp] theorem setRequest_upd (s : State) (o : Fin 128) (ma : Nat) : (setRequest s o ma).upd = s.upd := by
  simp [setRequest]

@[simp] theorem recordPrio_upd (s : State) (o : Fin 128) : (recordPrio s o).upd = s.upd := by
  unfold recordPrio; repeat' split
  all_goals simp

@[simp] theorem shareClass_upd (s : State) (o : Fin 128) (k : Nat) : (shareClass s o k).upd = s.upd := by
  simp [shareClass]

@[simp] theorem localEnd_upd (s : State) (e : LocalEntry) : (localEnd s e).upd = s.upd := by
  simp [localEnd]

@[simp] theorem checkLocalEnd_upd (s : State) : (checkLocalEnd s).upd = s.upd := by
  unfold checkLocalEnd; repeat' split
  all_goals simp

@[simp] theorem sendPilot_upd (s : State) (o : Fin 128) (v : BitVec 3 × BitVec 10) : (sendPilot s o v).upd = s.upd := by
  simp [sendPilot]

@[simp] theorem setPilot_upd (s : State) (o : Fin 128) (sel : PilotSel) : (setPilot s o sel).upd = s.upd := by
  simp [setPilot]

@[simp] theorem switchNow_upd (s : State) (o : Fin 128) (aux close : Bool) (zp : Nat) (target : Nat) :
    (switchNow s o aux close zp target).upd = s.upd := by
  simp [switchNow]

@[simp] theorem switchCont_upd (s : State) (o : Fin 128) (aux close zp : Bool) : (switchCont s o aux close zp).upd = s.upd := by
  unfold switchCont; dsimp only; repeat' split
  all_goals simp

@[simp] theorem actionRefused_upd (s : State) (o : Fin 128) (w : Word) (cause : Nat) (by_ : Option Cmd) :
    (actionRefused s o w cause by_).upd = s.upd := by
  simp [actionRefused]

@[simp] theorem stopTimer_upd (s : State) (o : Fin 128) (t : Fin 4) : (stopTimer s o t).upd = s.upd := by
  simp [stopTimer]

@[simp] theorem startTimer_upd (s : State) (o : Fin 128) (t : Fin 4) (angle : Bool) (v : Nat) :
    (startTimer s o t angle v).upd = s.upd := by
  simp [startTimer]

@[simp] theorem moveLock_upd (s : State) (o : Fin 128) (engage : Bool) : (moveLock s o engage).upd = s.upd := by
  simp [moveLock]

@[simp] theorem execAct_upd (o : Fin 128) (by_ : Option Cmd) (w : Word) (s : State) : (execAct o by_ w s).1.upd = s.upd := by
  unfold execAct; dsimp only; repeat' split
  all_goals simp

@[simp] theorem runActs_upd (o : Fin 128) (by_ : Option Cmd) (l : List Word) (s : State) : (runActs o by_ l s).1.upd = s.upd := by
  induction l generalizing s with
  | nil => rfl
  | cons w l ih =>
    unfold runActs
    dsimp only
    split
    · simp
    · simp [ih]

@[simp] theorem switchProfile_upd (s : State) (o : Fin 128) (by_ : Option Cmd) : (switchProfile s o by_).upd = s.upd := by
  unfold switchProfile; dsimp only; repeat' split
  all_goals simp

@[simp] theorem enterHooks_upd (s : State) (o : Fin 128) (by_ : Option Cmd) : (enterHooks s o by_).upd = s.upd := by
  simp [enterHooks]

@[simp] theorem stateEntered_upd (s : State) (o : Fin 128) (old new trig arg idx : Nat) (by_ : Option Cmd) :
    (stateEntered s o old new trig arg idx by_).upd = s.upd := by
  simp [stateEntered]

@[simp] theorem runEntry_upd (o : Fin 128) (by_ : Option Cmd) (s : State) : (runEntry o by_ s).1.upd = s.upd := by
  unfold runEntry; dsimp only; repeat' split
  all_goals simp

@[simp] theorem takeTrans_upd (o : Fin 128) (by_ : Option Cmd) (trig arg idx : Nat) (t : TransRec) (s : State) :
    (takeTrans o by_ trig arg idx t s).1.upd = s.upd := by
  unfold takeTrans; dsimp only; repeat' split
  all_goals simp

@[simp] theorem enterFault_upd (o : Fin 128) (by_ : Option Cmd) (cause host trig arg : Nat) (s : State) :
    (enterFault o by_ cause host trig arg s).1.upd = s.upd := by
  unfold enterFault; dsimp only; repeat' split
  all_goals simp

@[simp] theorem settle_upd (o : Fin 128) (by_ : Option Cmd) (fuel : Nat) (g : Stage) (n : Nat) (s : State) :
    (settle o by_ fuel g n s).1.upd = s.upd := by
  induction fuel generalizing g n s with
  | zero => rfl
  | succ fuel ih =>
    unfold settle
    dsimp only
    repeat' split
    all_goals simp [ih]

@[simp] theorem enterInitial_upd (o : Fin 128) (by_ : Option Cmd) (s : State) : (enterInitial o by_ s).upd = s.upd := by
  unfold enterInitial; dsimp only; repeat' split
  all_goals simp

@[simp] theorem tellVersions_upd (s : State) : (tellVersions s).upd = s.upd := by
  simp [tellVersions]

@[simp] theorem putProfiles_upd (s : State) (img : ConfigImg) (version : Nat) : (putProfiles s img version).upd = s.upd := by
  simp [putProfiles]

@[simp] theorem restartCtx_upd (s : State) (o : Fin 128) (version : Nat) : (restartCtx s o version).upd = s.upd := by
  unfold restartCtx; dsimp only; repeat' split
  all_goals simp

@[simp] theorem putSafety_upd (s : State) (x : SafetySec) : (putSafety s x).upd = s.upd := by
  simp [putSafety]

@[simp] theorem putLegal_upd (s : State) (x : LegalSec) : (putLegal s x).upd = s.upd := by
  simp [putLegal]

@[simp] theorem putRest_upd (s : State) (img : ConfigImg) : (putRest s img).upd = s.upd := by
  simp [putRest]

@[simp] theorem putImage_upd (s : State) (img : ConfigImg) (version : Nat) : (putImage s img version).upd = s.upd := by
  simp [putImage]

end Sys2Proof.Machine
end


section
/-! The versions of a configuration (R73, R75, R76, R601, R603 to R605). -/

namespace Sys2Proof.Machine

theorem fin_val {n : Nat} [NeZero n] (k : Fin n) : fin n k.val = k := Fin.ext (Nat.mod_eq_of_lt k.isLt)

/-! ### Counting a fault leaves the update block, but for a trial that it fails (R528, R594) -/

@[simp] theorem lastingAction_upd (s : State) (cls : Nat) : (lastingAction s cls).upd = s.upd := by
  unfold lastingAction
  split <;> simp

theorem tally_upd (s : State) (cls inst : Nat) : (tally s cls inst).upd = (failTrial s cls).upd := by
  simp [tally, makeLasting, postFault]

@[simp] theorem refuseMark_upd (s : State) (w : MarkOwner) : (refuseMark s w).upd = s.upd := tally_upd s 7 _

@[simp] theorem configRefused_upd (s : State) (v : BitVec 32) (cause : Nat) (k : Option Cmd) : (configRefused s v cause k).upd = s.upd := by
  simp [configRefused]

/-! ### The causes of a refusal (R601) -/

theorem configCause_unparsed {m : List Host.Cell} (h : parseConfig (imgBody m) = none) (s : State) (role : Nat) (yoyo : Bool) :
    configCause s m role yoyo = 1 := by
  unfold configCause; rw [h]

/-- No image is accepted while one pends, nor, but for a yo-yo, one whose version is not above the highest. -/
theorem configCause_refuses {s : State} {m : List Host.Cell} {yoyo : Bool}
    (h : (yoyo = false ∧ (imgVersion m).toNat ≤ s.upd.cfgHighest.toNat) ∨ s.upd.cfgPend.isSome = true) (role : Nat) :
    configCause s m role yoyo ≠ 0 := by
  unfold configCause
  split
  · decide
  · split_ifs with h2 h3 h4 h5 h6
    · decide
    · decide
    · decide
    · decide
    · decide
    · exact absurd h (by simpa using h6)

/-! ### An accepted activation (R601, R73) -/

/-- The state in which an activation pends, with its mark. -/
def pended (s : State) (p : CfgPend) : State := { s with
  upd := { s.upd with
    cfg := if p.yoyo then s.upd.cfg else vmod s.upd.cfg p.slot fun x => { x with state := .pending }
    cfgPend := some p }
  tim := { s.tim with marks := s.tim.marks ++ [⟨.config, p.mark, false, p.slot.val, s.reached p.mark⟩] } }

theorem setMark_free {s : State} (h : s.markFree = true) (w : MarkOwner) (value ref : Nat) :
    (s.setMark w value ref).1 = { s with tim := { s.tim with marks := s.tim.marks ++ [⟨w, value, false, ref, s.reached value⟩] } } := by
  rw [State.setMark, if_pos h]

theorem pendConfig_marked {s : State} (h : s.markFree = true) (p : CfgPend) : pendConfig s p = pended s p := by
  unfold pendConfig
  rw [if_pos h]
  dsimp only
  cases hy : p.yoyo with
  | false =>
    rw [if_neg Bool.false_ne_true, pended, hy]
    refine (setMark_free ?_ _ _ _).trans rfl
    exact h
  | true =>
    rw [if_pos rfl, pended, hy]
    refine (setMark_free ?_ _ _ _).trans rfl
    exact h

theorem acceptConfig_marked {s : State} (h : s.markFree = true) (p : CfgPend) (hash : BitVec 256) :
    (acceptConfig s p hash).upd = (pended s p).upd ∧ (acceptConfig s p hash).tim = (pended s p).tim := by
  have sent (s : State) (k : Fin 4) (x : Out) : (if (vget s.tie.ports k).up then s.send x else s).upd = s.upd ∧
      (if (vget s.tie.ports k).up then s.send x else s).tim = s.tim := by
    split <;> exact ⟨rfl, rfl⟩
  unfold acceptConfig
  dsimp only
  rw [pendConfig_marked h, if_neg (show ¬ (pended s p).upd.cfgPend.isNone = true from Bool.false_ne_true)]
  exact ⟨foldl_upd fun s k => (sent s k _).1, foldl_tim fun s k => (sent s k _).2⟩

/-- Where no mark is free, nothing pends that did not pend before. -/
theorem acceptConfig_unmarked {s : State} (h : s.markFree = false) (p : CfgPend) (hash : BitVec 256) :
    (acceptConfig s p hash).upd = s.upd := by
  have refused : pendConfig s p = refuseMark s .config := if_neg (by simp [h])
  unfold acceptConfig
  dsimp only
  rw [refused]
  split
  · exact refuseMark_upd _ _
  · refine (foldl_upd fun s k => ?_).trans (refuseMark_upd _ _)
    split <;> rfl

/-! ### Commands (R601, R604, R605) -/

theorem exec_activateConfiguration {s : State} {c : Cmd} (h : Ready s c 0x0E05) :
    exec (.activateConfiguration c) s = .next (fireLate .config (effActivateConfiguration c s)) := by
  change execActivateConfiguration c s = _
  rw [execActivateConfiguration, cmdStep_ready _ _ _ _ h]

theorem effActivateConfiguration_notStored {s : State} {c : Cmd} {k : Fin 4} (hk : fld (c.p 0) 0 2 = k.val)
    (h : (s.cfgSlot k).state ≠ .stored) : effActivateConfiguration c s = complete s c 0x0A := by
  unfold effActivateConfiguration
  dsimp only
  rw [hk, fin_val, if_pos h]

/-- The mark of an activation: the cycle count of the command, or the first boundary (R601). -/
def activationMark (s : State) (c : Cmd) : Nat := if c.p2 1 = 0 then boundaryAfter s else c.p2 1 * 65536

theorem effActivateConfiguration_stored {s : State} {c : Cmd} {k : Fin 4} {q : Nat} (hk : fld (c.p 0) 0 2 = k.val)
    (h : (s.cfgSlot k).state = .stored) (hq : q = configCause s (s.cfgSlot k).bytes (s.roleOf c) false) :
    effActivateConfiguration c s = if q ≠ 0 then complete (configRefused s (s.cfgSlot k).version q (some c)) c 0x0A
      else if !s.markFree then complete (refuseMark s .config) c 0x05
      else complete (acceptConfig s ⟨activationMark s c, k, (s.cfgSlot k).version, 0, false, false⟩ (imgHash (s.cfgSlot k).bytes)) c 0
        (BitVec.ofNat 32 (activationMark s c / 65536)) := by
  subst hq
  unfold effActivateConfiguration
  dsimp only
  rw [hk, fin_val, if_neg (not_not_intro h)]
  rfl

/-- The first boundary at least 2 ms away (R601). -/
theorem boundaryAfter_spec (s : State) : boundaryAfter s % 65536 = 0 ∧ (s.tim.runMains 200000).mains ≤ boundaryAfter s ∧
    boundaryAfter s < (s.tim.runMains 200000).mains + 65536 := by
  unfold boundaryAfter
  generalize (s.tim.runMains 200000).mains = m
  omega

/-- The yo-yo to slot `k` (R604). -/
def yoyoTo (s : State) (k : Fin 4) (auto : Bool) : CfgPend := ⟨boundaryAfter s, k, revertVersion s, (s.cfgSlot k).version, true, auto⟩

theorem startYoyo_refused {s : State} {k : Fin 4} {role : Nat} (h : configCause s (s.cfgSlot k).bytes role true ≠ 0) (auto : Bool)
    (by_ : Option Cmd) : startYoyo s k role auto by_ =
      (configRefused s (s.cfgSlot k).version (configCause s (s.cfgSlot k).bytes role true) by_, false) := if_pos h

theorem startYoyo_accepted {s : State} {k : Fin 4} {role : Nat} (h : configCause s (s.cfgSlot k).bytes role true = 0) (auto : Bool)
    (by_ : Option Cmd) : startYoyo s k role auto by_ = (acceptConfig s (yoyoTo s k auto) (imgHash (s.cfgSlot k).bytes), true) :=
  if_neg (not_not_intro h)

theorem effRevertConfiguration_none {s : State} (h : s.cfgIn .previous = none) (c : Cmd) :
    effRevertConfiguration c s = complete s c 0x0A := by
  unfold effRevertConfiguration; rw [h]

theorem effRevertConfiguration_previous {s : State} {k : Fin 4} (h : s.cfgIn .previous = some k) (c : Cmd) :
    effRevertConfiguration c s = if !s.markFree then complete (refuseMark s .config) c 0x05
      else complete (startYoyo s k (s.roleOf c) false (some c)).1 c (if (startYoyo s k (s.roleOf c) false (some c)).2 then 0 else 0x0A) := by
  unfold effRevertConfiguration; rw [h]

/-! ### The automatic yo-yo (R604) -/

theorem exec_automaticYoYo_off {s : State} (h : s.upd.awaiting = none ∨ seqOn s = false) : exec .automaticYoYo s = .next s := by
  change execAutomaticYoYo s = _
  unfold execAutomaticYoYo
  split
  · rfl
  · next a ha => rw [if_pos (by simpa [ha] using h)]

/-- The state in which the confirmation has not come in time. -/
def unconfirmed (s : State) (a : Nat) : State :=
  let t := s.toTick (a + s.upd.cfgConfirmT * secNs)
  { t with upd := { t.upd with awaiting := none } }

theorem unconfirmed_upd (s : State) (a : Nat) : (unconfirmed s a).upd = { s.upd with awaiting := none } := by
  rw [unconfirmed, toTick_frame]

/-- The yo-yo to the PREVIOUS image, where there is one. -/
def yoyoBack (s : State) : State := ((s.cfgIn .previous).map fun k => (startYoyo s k 0 true none).1).getD s

theorem yoyoBack_none {s : State} (h : s.cfgIn .previous = none) : yoyoBack s = s := by rw [yoyoBack, h]; rfl

theorem yoyoBack_previous {s : State} {k : Fin 4} (h : s.cfgIn .previous = some k) : yoyoBack s = (startYoyo s k 0 true none).1 := by
  rw [yoyoBack, h]; rfl

theorem exec_automaticYoYo {s : State} {a : Nat} (h : s.upd.awaiting = some a) (hs : seqOn s = true) :
    exec .automaticYoYo s = .next (yoyoBack (unconfirmed s a)) := by
  change execAutomaticYoYo s = _
  unfold execAutomaticYoYo
  rw [h]
  dsimp only
  rw [hs, if_neg (by decide)]
  split
  · next k hk => exact congrArg Host.Outcome.next (yoyoBack_previous (s := unconfirmed s a) hk).symm
  · next hk => exact congrArg Host.Outcome.next (yoyoBack_none (s := unconfirmed s a) hk).symm

theorem effConfirmConfiguration_idle {s : State} (h : s.upd.awaiting = none) (c : Cmd) :
    effConfirmConfiguration c s = complete s c 0x0A := if_pos (by rw [h]; rfl)

theorem effConfirmConfiguration_awaiting {s : State} (h : s.upd.awaiting ≠ none) (c : Cmd) :
    effConfirmConfiguration c s = complete { s with upd := { s.upd with awaiting := none } } c 0x00 :=
  if_neg (by simpa using h)

/-! ### At the mark (R601, R603) -/

theorem inOrder_absent {a : MarkAct} {s : State} (h : ∀ m ∈ pendingMarks s, m.2 ≠ a) : inOrder a s = s :=
  inOrder_first fun _ _ k hk e => absurd e (h k hk)

theorem reservedMarks_ne_config {s : State} {o : Fin 128} {x : Nat × MarkAct} (h : x ∈ reservedMarks s o) : x.2 ≠ .config := by
  rintro e
  simp only [reservedMarks, List.mem_append, List.mem_filterMap] at h
  obtain (h | h) | ⟨t, -, h⟩ := h
  · split at h <;> aesop
  · split at h <;> aesop
  · split at h <;> aesop

theorem sharedMarks_config {s : State} {x : Nat × MarkAct} (h : x ∈ sharedMarks s) (e : x.2 = .config) :
    s.upd.cfgPend.isSome = true ∧ s.glb.phase = .running := by
  simp only [sharedMarks, List.mem_filterMap] at h
  obtain ⟨m, -, h⟩ := h
  split at h <;> aesop

/-- Nothing fires for a configuration that does not pend, nor outside RUNNING. -/
theorem inOrder_config_waits {s : State} (h : s.upd.cfgPend = none ∨ s.glb.phase ≠ .running) : inOrder .config s = s := by
  refine inOrder_absent fun m hm e => ?_
  rw [pendingMarks] at hm
  split at hm
  · exact absurd hm List.not_mem_nil
  simp only [List.mem_append, List.mem_flatMap] at hm
  obtain (hm | ⟨o, -, hm⟩) | hm := hm
  · split at hm <;> aesop
  · exact reservedMarks_ne_config hm e
  · obtain ⟨hp, hr⟩ := sharedMarks_config hm e
    obtain h | h := h
    · exact absurd hp (by rw [h]; exact Bool.false_ne_true)
    · exact h hr

theorem toMains_upd (s : State) (d : Nat) : (s.toMains d).upd = s.upd := by rw [toMains_frame]

theorem configFires_waits {s : State} (h : s.upd.cfgPend = none ∨ s.glb.phase ≠ .running) : configFires s = s := by
  unfold configFires
  split
  · next p hp => rw [if_pos (by simpa [hp] using h)]
  · rfl

theorem configFires_mark {s : State} {p : CfgPend} {m : Mark} (hp : s.upd.cfgPend = some p) (hr : s.glb.phase = .running)
    (hm : s.tim.marks.find? (fun x => x.owner == .config) = some m) :
    configFires s = activateConfig ((s.toMains m.value).dropMark .config m.ref) p m.late := by
  unfold configFires
  rw [hp]
  dsimp only
  rw [if_neg (by simp [hr]), hm]

theorem postDev_upd (s : State) (code : Nat) (p : List Byte) (k : Option Cmd) : (postDev s code p k).upd = s.upd := by
  simp

theorem activateConfig_unparsed {s : State} {p : CfgPend} (h : parseConfig (imgBody (s.cfgSlot p.slot).bytes) = none) (late : Bool) :
    (activateConfig s p late).upd =
      { s.upd with cfgPend := none, cfg := vmod s.upd.cfg p.slot fun x => { x with state := .bad } } := by
  unfold activateConfig
  dsimp only
  rw [show parseConfig (imgBody (({ s with upd := { s.upd with cfgPend := none } } : State).cfgSlot p.slot).bytes) = none from h]
  rfl

theorem activateConfig_parsed {s : State} {p : CfgPend} {img : ConfigImg}
    (h : parseConfig (imgBody (s.cfgSlot p.slot).bytes) = some img) (late : Bool) :
    (activateConfig s p late).upd = { s.upd with
      cfgPend := none, cfg := (turnSlots s p).upd.cfg, cfgActive := p.version, cfgHighest := p.version, cfgRevert := p.source
      awaiting := if p.yoyo || s.upd.cfgConfirmT == 0 then none else some s.now } := by
  unfold activateConfig
  dsimp only
  have h' : parseConfig (imgBody (({ s with upd := { s.upd with cfgPend := none } } : State).cfgSlot p.slot).bytes) = some img := h
  rw [h']
  exact (tellVersions_upd _).trans ((putImage_upd _ _ _).trans (postDev_upd _ _ _ _))

theorem turnSlots_slot (s : State) (p : CfgPend) : vget (turnSlots s p).upd.cfg p.slot = { s.cfgSlot p.slot with state := .active } := by
  simp [turnSlots, vget, State.cfgSlot]

theorem turnSlots_active {s : State} {p : CfgPend} {k : Fin 4} (hk : k ≠ p.slot) (ha : (s.cfgSlot k).state = .active) :
    vget (turnSlots s p).upd.cfg k = { s.cfgSlot k with state := .previous } := by
  have ha' : (vget s.upd.cfg k).state = .active := ha
  simp only [vget, State.cfgSlot] at ha' ⊢
  simp [turnSlots, vget, hk, ha']

/-- A yo-yo that is started or refused changes no slot; it pends only where nothing did. -/
theorem startYoyo_upd (s : State) (k : Fin 4) (role : Nat) (auto : Bool) (by_ : Option Cmd) :
    (startYoyo s k role auto by_).1.upd = s.upd ∨
      (s.upd.cfgPend = none ∧ (startYoyo s k role auto by_).1.upd = { s.upd with cfgPend := some (yoyoTo s k auto) }) := by
  by_cases hc : configCause s (s.cfgSlot k).bytes role true = 0
  · rw [startYoyo_accepted hc]
    cases hf : s.markFree with
    | false => exact .inl (acceptConfig_unmarked hf _ _)
    | true =>
      have hp : s.upd.cfgPend = none := by
        by_contra hp
        exact configCause_refuses (.inr (Option.isSome_iff_ne_none.mpr hp)) role hc
      exact .inr ⟨hp, (acceptConfig_marked hf _ _).1⟩
  · rw [startYoyo_refused hc]
    exact .inl (configRefused_upd _ _ _ _)

theorem unconfirmed_cfgIn (s : State) (a : Nat) (x : CfgState) : (unconfirmed s a).cfgIn x = s.cfgIn x := by
  unfold State.cfgIn State.cfgSlot
  rw [unconfirmed_upd]

theorem unconfirmed_yoyoTo (s : State) (a : Nat) (k : Fin 4) (auto : Bool) :
    yoyoTo (unconfirmed s a) k auto = { yoyoTo s k auto with mark := boundaryAfter (unconfirmed s a) } := by
  have tie : (unconfirmed s a).tie = s.tie := by
    have h : (unconfirmed s a).tie = (s.toTick (a + s.upd.cfgConfirmT * secNs)).tie := rfl
    rw [h, toTick_frame]
  unfold yoyoTo revertVersion State.cfgSlot
  rw [tie, unconfirmed_upd]

/-- What a pending activation leaves at its mark. -/
theorem activateConfig_slots {s : State} {p : CfgPend} (late : Bool) : (activateConfig s p late).upd.cfgPend = none ∧
    if (parseConfig (imgBody (s.cfgSlot p.slot).bytes)).isNone = true then ((activateConfig s p late).cfgSlot p.slot).state = .bad
    else ((activateConfig s p late).cfgSlot p.slot).state = .active ∧ (activateConfig s p late).upd.cfgActive = p.version ∧
      (activateConfig s p late).upd.cfgHighest = p.version ∧ (activateConfig s p late).upd.cfgRevert = p.source ∧
      (∀ k, k ≠ p.slot → (s.cfgSlot k).state = .active → ((activateConfig s p late).cfgSlot k).state = .previous) ∧
      (p.yoyo = true ∨ s.upd.cfgConfirmT = 0 → (activateConfig s p late).upd.awaiting = none) := by
  cases hp : parseConfig (imgBody (s.cfgSlot p.slot).bytes) with
  | none =>
    rw [if_pos (show (none : Option ConfigImg).isNone = true from rfl), State.cfgSlot, activateConfig_unparsed hp]
    exact ⟨rfl, by rw [vget_vmod_same]⟩
  | some img =>
    rw [if_neg (show ¬ (some img).isNone = true from Bool.false_ne_true)]
    unfold State.cfgSlot
    rw [activateConfig_parsed hp]
    refine ⟨rfl, by rw [turnSlots_slot], rfl, rfl, rfl, fun k hk ha => by rw [turnSlots_active hk ha], fun h => if_pos ?_⟩
    simpa using h

/-- Settles O58: each command by its checks, the yo-yo by the shared rule `startYoyo_upd`, and the mark by what `activateConfig` leaves. -/
theorem configurationVersions : Obligations.ConfigurationVersions := by
  unfold Obligations.ConfigurationVersions
  refine ⟨?notStored, fun s => fireLate_timely, ?activate, boundaryAfter_spec, ?revert, ?confirm, fun s => exec_automaticYoYo_off,
    ?yoyo, ?waits, ?mark⟩
  case notStored =>
    intro s c k h hk hs
    rw [exec_activateConfiguration h, effActivateConfiguration_notStored hk hs]
  case activate =>
    intro s c k h hk hs
    have cause : ∀ q, q = configCause s (s.cfgSlot k).bytes (s.roleOf c) false →
        ((imgVersion (s.cfgSlot k).bytes).toNat ≤ s.upd.cfgHighest.toNat ∨ s.upd.cfgPend.isSome = true → q ≠ 0) ∧
        (parseConfig (imgBody (s.cfgSlot k).bytes) = none → q = 1) := by
      rintro q rfl
      exact ⟨fun h => configCause_refuses (h.imp (.intro rfl) id) _, fun h => configCause_unparsed h _ _ _⟩
    obtain ⟨q, hq⟩ : ∃ q, q = configCause s (s.cfgSlot k).bytes (s.roleOf c) false := ⟨_, rfl⟩
    by_cases h0 : q = 0
    · refine ⟨q, acceptConfig s ⟨activationMark s c, k, (s.cfgSlot k).version, 0, false, false⟩ (imgHash (s.cfgSlot k).bytes), hq,
        (cause q hq).1, (cause q hq).2, ?_⟩
      rw [if_neg (not_not_intro h0), exec_activateConfiguration h, effActivateConfiguration_stored hk hs hq, if_neg (not_not_intro h0)]
      cases hf : s.markFree with
      | false => exact rfl
      | true =>
        obtain ⟨upd, tim⟩ := acceptConfig_marked hf ⟨activationMark s c, k, (s.cfgSlot k).version, 0, false, false⟩
          (imgHash (s.cfgSlot k).bytes)
        rw [if_neg (show ¬ true = false from nofun), if_neg (show ¬ (!true) = true from Bool.false_ne_true)]
        refine ⟨activationMark s c, rfl, rfl, by rw [upd]; rfl, ?_, fun j hj => ?_, s.reached (activationMark s c), by rw [tim]; rfl⟩
        · rw [State.cfgSlot, upd]
          exact congrArg CfgSlot.state (vget_vmod_same s.upd.cfg k fun x => { x with state := .pending })
        · rw [State.cfgSlot, upd]
          exact vget_vmod_other s.upd.cfg k j (fun x => { x with state := .pending }) hj.symm
    · refine ⟨q, configRefused s (s.cfgSlot k).version q (some c), hq, (cause q hq).1, (cause q hq).2, ?_⟩
      rw [if_pos h0, exec_activateConfiguration h, effActivateConfiguration_stored hk hs hq, if_pos h0, configRefused_upd]
      exact ⟨rfl, rfl, rfl⟩
  case revert =>
    intro s c h
    refine ⟨fun hn => ready_eq h (effRevertConfiguration_none hn c), fun k hk => ⟨fun hf => ?_, fun hf => ?_⟩⟩
    · exact ready_eq h (by rw [effRevertConfiguration_previous hk, hf]; rfl)
    · have free : effRevertConfiguration c s = complete (startYoyo s k (s.roleOf c) false (some c)).1 c
          (if (startYoyo s k (s.roleOf c) false (some c)).2 then 0 else 0x0A) := by
        rw [effRevertConfiguration_previous hk, hf, if_neg (by decide)]
      refine ⟨(startYoyo s k (s.roleOf c) false (some c)).1, ?_⟩
      by_cases hc : configCause s (s.cfgSlot k).bytes (s.roleOf c) true = 0
      · rw [startYoyo_accepted hc] at free ⊢
        rw [if_neg (not_not_intro hc), (acceptConfig_marked hf _ _).1]
        exact ⟨ready_eq h free, rfl, rfl⟩
      · rw [startYoyo_refused hc] at free ⊢
        rw [if_pos hc, configRefused_upd]
        exact ⟨ready_eq h free, rfl, rfl⟩
  case confirm =>
    exact fun s c h => ⟨fun ha => ready_eq h (effConfirmConfiguration_idle ha c),
      fun ha => ⟨_, ready_eq h (effConfirmConfiguration_awaiting ha c), rfl⟩⟩
  case yoyo =>
    intro s a ha hs
    refine ⟨_, exec_automaticYoYo ha hs, ?_⟩
    cases hk : s.cfgIn .previous with
    | none =>
      rw [yoyoBack_none ((unconfirmed_cfgIn s a _).trans hk), unconfirmed_upd]
      exact ⟨rfl, rfl, fun _ => rfl, fun k hk => nomatch hk⟩
    | some k =>
      rw [yoyoBack_previous ((unconfirmed_cfgIn s a _).trans hk)]
      obtain e | ⟨hp, e⟩ := startYoyo_upd (unconfirmed s a) k 0 true none
      · rw [e, unconfirmed_upd]
        exact ⟨rfl, rfl, nofun, fun _ _ => ⟨fun _ => rfl, fun p hn hp => absurd (hn.symm.trans hp) nofun⟩⟩
      · rw [unconfirmed_upd] at hp
        rw [e, unconfirmed_upd, unconfirmed_yoyoTo]
        refine ⟨rfl, rfl, nofun, fun j hj => ⟨fun h => ?_, fun p _ hq => ?_⟩⟩
        · exact absurd h (by rw [show s.upd.cfgPend = none from hp]; exact Bool.false_ne_true)
        · obtain rfl := Option.some.inj hj
          obtain rfl := Option.some.inj hq
          exact ⟨rfl, rfl, rfl, rfl, rfl⟩
  case waits =>
    intro s h
    have now : exec .configurationActivation s = .next (configFires (inOrder .config s)) := rfl
    rw [now, inOrder_config_waits h, configFires_waits h]
  case mark =>
    intro s u p m hu hp hr hm
    have upd : ((u.toMains m.value).dropMark .config m.ref).upd = u.upd := (toMains_upd u m.value)
    have done := @activateConfig_slots ((u.toMains m.value).dropMark .config m.ref) p m.late
    unfold State.cfgSlot at done ⊢
    rw [upd] at done
    refine ⟨_, ?_, done⟩
    rw [← configFires_mark hp hr hm, hu]
    rfl

end Sys2Proof.Machine
end


section
/-! The inputs, feedback and marks of the outlet sequencer (R75, R210, R217, R221 to R226, R230, R232). -/

namespace Sys2Proof.Machine

@[simp] theorem toTick_lane (s : State) (d : Nat) (o : Fin 128) : (s.toTick d).lane o = s.lane o := by
  unfold State.lane
  rw [toTick_frame]

theorem onCtx_ctx_same (s : State) (o : Fin 128) (f : Ctx → Ctx) : (s.onCtx o f).ctx o = f (s.ctx o) := vget_vmod_same _ _ _

/-- Changing a contactor leaves the profile a context runs. -/
theorem onCont_ctxProfile (s : State) (o : Fin 128) (aux : Bool) (f : Contactor → Contactor) :
    (s.onCont o aux f).ctxProfile o = s.ctxProfile o := by
  unfold State.ctxProfile State.onCont
  rw [onCtx_ctx_same]
  cases aux <;> rfl

/-! ### Proximity (R217) -/

theorem execProximityClass_stood {s : State} {o : Fin 128} {p : LoadedProfile} (hs : seqOn s = true) (hp : s.ctxProfile o = some p)
    (hm : p.prof.proxMode = 1) (hc : (s.ctx o).proxCand ≠ (s.ctx o).prox) (hl : (s.lane o).statusSeen = true) :
    execProximityClass o s =
      .next (queueTrig (postOut ((s.toTick ((s.ctx o).proxSince + p.prof.proxDebounce * msNs)).onCtx o fun c => { c with prox := c.proxCand })
        0x0102 o (p8 (s.ctx o).prox.toNat ++ p8 (s.ctx o).proxCand.toNat ++ p8 (s.lane o).status.ppRaw.toNat)) o 2 (s.ctx o).proxCand.toNat) := by
  unfold execProximityClass
  rw [hp]
  dsimp only
  rw [if_neg (by simp [hs, hm, hc, hl]), ← toTick_lane s ((s.ctx o).proxSince + p.prof.proxDebounce * msNs) o]
  rfl

/-! ### Timers (R210) -/

/-- A timer has expired: it stands off and its trigger is queued. -/
def timerDone (o : Fin 128) (k : Fin 4) (s : State) : State :=
  writeJournal (queueTrig (s.onCtx o fun c => { c with timers := vmod c.timers k fun _ => .off }) o 3 k.val) o

theorem timerFires_ms {s : State} {o : Fin 128} {k : Fin 4} {e : Nat} (hs : seqOn s = true) (h : vget (s.ctx o).timers k = .ms e) :
    timerFires o k s = timerDone o k (s.toTick e) := by
  unfold timerFires
  rw [if_neg (by simp [hs]), h]
  rfl

theorem timerFires_angle {s : State} {o : Fin 128} {k : Fin 4} {m : Nat} (hs : seqOn s = true) (h : vget (s.ctx o).timers k = .angle m) :
    timerFires o k s = timerDone o k (s.toMains m) := by
  unfold timerFires
  rw [if_neg (by simp [hs]), h]
  rfl

/-! ### Switching marks (R221, R222) -/

theorem switchFires_mark {s : State} {o : Fin 128} {aux : Bool} {z : ZpMark} (hz : ((s.ctx o).cont aux).zp = some z)
    (hm : mayStep s o = true) : switchFires o aux s = writeJournal (fireSwitch (s.toMains z.mark) o aux z) o := by
  unfold switchFires
  rw [hz]
  exact if_pos hm

theorem fireSwitch_allowed {s v : State} {o : Fin 128} {aux : Bool} {z : ZpMark} (hv : v = if z.close then evalPermit s o else s)
    (h : z.close = false ∨ (v.saf1 o).permit = true) :
    fireSwitch s o aux z = (switchNow v o aux z.close 1 (z.target % 65536)).onSta o fun x => { x with
      quietUntil := some ((switchNow v o aux z.close 1 (z.target % 65536)).now +
        (switchNow v o aux z.close 1 (z.target % 65536)).tim.unitsNs (z.target - z.mark) + 3 * msNs) } := by
  unfold fireSwitch
  rw [← hv]
  exact if_neg (by obtain h | h := h <;> simp [h])

theorem fireSwitch_cancelled {s v : State} {o : Fin 128} {aux : Bool} {z : ZpMark} (hv : v = if z.close then evalPermit s o else s)
    (hc : z.close = true) (h : (v.saf1 o).permit = false) :
    fireSwitch s o aux z = actionRefused (v.onCont o aux fun k => { k with zp := none }) o (pack [(0, 2), (8, b2n aux), (9, 1)])
      (refusalCause (v.onCont o aux fun k => { k with zp := none }) o false) none := by
  unfold fireSwitch
  rw [← hv]
  exact if_pos (by simp [hc, h])

/-! ### Feedback of the contactors and the lock (R223, R226) -/

theorem execContactorFeedback_confirms {s : State} {o : Fin 128} {aux : Bool} {w : ContWatch} {a : Nat} {p : LoadedProfile}
    (hs : seqOn s = true) (hn : ((s.ctx o).cont aux).fbNew = true) (hw : ((s.ctx o).cont aux).watch = some w) (ha : w.appliedAt = some a)
    (hp : s.ctxProfile o = some p) (hf : ((s.ctx o).cont aux).fb = w.close)
    (ht : ((s.ctx o).cont aux).fbSince ≤ a + p.prof.contTimeout * msNs) : execContactorFeedback o aux s =
      .next (writeJournal (confirmSwitch (s.onCont o aux fun k => { k with fbNew := false }) o aux p.prof w a) o) := by
  have hp' : (s.onCont o aux fun k => { k with fbNew := false }).ctxProfile o = some p := by
    rw [onCont_ctxProfile, hp]
  unfold execContactorFeedback
  dsimp only
  rw [if_neg (by simp [hs, hn]), hw, hp']
  dsimp only
  rw [ha]
  exact congrArg Host.Outcome.next (if_pos ⟨hf, ht⟩)

theorem execContactorTimeout_missed {s : State} {o : Fin 128} {aux : Bool} {w : ContWatch} {a : Nat} {p : LoadedProfile}
    (hs : seqOn s = true) (hw : ((s.ctx o).cont aux).watch = some w) (ha : w.appliedAt = some a) (hp : s.ctxProfile o = some p)
    (hf : ((s.ctx o).cont aux).fb ≠ w.close) : execContactorTimeout o aux s =
      .next (contFault ((s.toTick (a + p.prof.contTimeout * msNs)).onCont o aux fun k => { k with watch := none })
        o aux (4 + 2 * b2n aux + (if w.close then 0 else 1))) := by
  unfold execContactorTimeout
  dsimp only
  rw [if_neg (by simp [hs]), hw, hp]
  dsimp only
  rw [ha]
  exact congrArg Host.Outcome.next (if_neg (by simp [hf]))

theorem execContactorTimeout_unexpected {s : State} {o : Fin 128} {aux : Bool} {t : Nat} (hs : seqOn s = true)
    (hw : ((s.ctx o).cont aux).watch = none) (ht : ((s.ctx o).cont aux).unexpSince = some t) : execContactorTimeout o aux s =
      .next (contFault ((s.toTick (t + 10 * msNs)).onCont o aux fun k => { k with unexpSince := none }) o aux (8 + b2n aux)) := by
  unfold execContactorTimeout
  dsimp only
  rw [if_neg (by simp [hs]), hw, ht]

theorem execLockFeedback_reached {s : State} {o : Fin 128} {d : Nat} (hs : seqOn s = true) (hd : (s.ctx o).lockDue = some d)
    (h : (s.ctx o).lockFb = (s.ctx o).lockCmd) : execLockFeedback o s =
      .next (lockEvent (s.onCtx o fun c => { c with lockDue := none }) o (if (s.ctx o).lockCmd then 0 else 1)) := by
  unfold execLockFeedback
  dsimp only
  rw [if_neg (by simp [hs]), hd]
  exact congrArg Host.Outcome.next (if_pos h)

theorem execLockFeedback_missed {s : State} {o : Fin 128} {d : Nat} (hs : seqOn s = true) (hd : (s.ctx o).lockDue = some d)
    (h : (s.ctx o).lockFb ≠ (s.ctx o).lockCmd) : execLockFeedback o s =
      .next (lockEvent ((s.toTick d).onCtx o fun c => { c with lockDue := none }) o (if (s.ctx o).lockCmd then 2 else 3)) := by
  unfold execLockFeedback
  dsimp only
  rw [if_neg (by simp [hs]), hd]
  exact congrArg Host.Outcome.next (if_neg h)

/-! ### Profile copies and the start of a context (R230, R232) -/

theorem execProfileCheck_fails {s : State} {p : Fin 32} {v : Nat} {x : LoadedProfile} (hs : seqOn s = true) (hx : x ∈ s.seq.profiles)
    (hid : x.prof.id = p) (hv : x.version = v) (hb : (x.badA && x.badB) = false) (copy : Fin 3) (crc : Bool) :
    execProfileCheck p v copy crc s = .next (profileFails s p v (copy == 2) crc) := by
  have held : s.seq.profiles.any (fun x => x.prof.id == p && x.version == v && !(x.badA && x.badB)) = true :=
    List.any_eq_true.mpr ⟨x, hx, by rw [hid, hv, hb]; simp⟩
  exact congrArg Host.Outcome.next (if_pos (by rw [hs, held]; rfl))

/-- The outlet's lane is UP for the first time and its context waits for that (R230). -/
structure Starts (s : State) (o : Fin 128) : Prop where
  on : seqOn s = true
  waiting : (s.ctx o).waiting = true
  up : (s.lane o).link = .up
  seen : (s.lane o).statusSeen = true

/-- A context that no longer waits. -/
def awake (s : State) (o : Fin 128) : State := s.onCtx o fun c => { c with waiting := false }

/-- STATUS shows both contactors open, and SLACK is not 1 (R230). -/
def reportsOpen (x : StatusWord) : Bool := !x.contMain && !x.mainFb && !x.contAux && !x.auxFb && x.slack != 1

theorem execContextStart_idle {s : State} {o : Fin 128} (h : Starts s o) (hb : ((s.ctx o).bound && (s.ctx o).enabled) = false) :
    execContextStart o s = .next (awake s o) := by
  unfold execContextStart
  dsimp only
  rw [if_neg (by simp [h.on, h.waiting, h.up, h.seen]), if_pos (by simp [hb])]
  rfl

theorem execContextStart_runs {s : State} {o : Fin 128} (h : Starts s o) (hb : (s.ctx o).bound = true) (he : (s.ctx o).enabled = true) :
    execContextStart o s = .next (writeJournal (if reportsOpen (s.lane o).status then enterInitial o none (awake s o)
      else (faultTrans o none 7 0 0 0 (awake s o)).1) o) := by
  unfold execContextStart
  dsimp only
  rw [if_neg (by simp [h.on, h.waiting, h.up, h.seen]), if_neg (by simp [hb, he])]
  rfl

/-- Settles O19, one rule for each input, mark and expiry; what comes before a mark has fired in `u`. -/
theorem sequencerInputs : Obligations.SequencerInputs := by
  unfold Obligations.SequencerInputs
  refine ⟨fun s o p => execProximityClass_stood, ?ms, ?angle, ?zeroPoint, fun s a => inOrder_first,
    fun s o aux w a p => execContactorFeedback_confirms,
    fun s o aux w a p => execContactorTimeout_missed, fun s o aux t => execContactorTimeout_unexpected,
    fun s o d hs hd => ⟨execLockFeedback_reached hs hd, execLockFeedback_missed hs hd⟩,
    fun s p v x copy crc hs hx hid hv hb => execProfileCheck_fails hs hx hid hv hb copy crc,
    fun s o hs hw hu hl => execContextStart_idle ⟨hs, hw, hu, hl⟩, ?initial, ?fault⟩
  case ms =>
    rintro s u o k e rfl hs h
    exact congrArg Host.Outcome.next (timerFires_ms hs h)
  case angle =>
    rintro s u o k m rfl hs h
    exact congrArg Host.Outcome.next (timerFires_angle hs h)
  case zeroPoint =>
    rintro s u v o aux z hu hz hm hv
    have fires : exec (.zeroPointMark o aux) s = .next (writeJournal (fireSwitch (u.toMains z.mark) o aux z) o) := by
      rw [← switchFires_mark hz hm, hu]
      rfl
    refine ⟨fun h => ?_, fun hc h => ?_⟩
    · rw [fires, fireSwitch_allowed hv h]
    · rw [fires, fireSwitch_cancelled hv hc h]
  case initial =>
    intro s o hs hw hu hl hb he hcm hmf hca haf hsl
    have ok : reportsOpen (s.lane o).status = true := by
      simpa [reportsOpen, hcm, hmf, hca, haf] using hsl
    exact (execContextStart_runs ⟨hs, hw, hu, hl⟩ hb he).trans (by rw [if_pos ok]; rfl)
  case fault =>
    intro s o hs hw hu hl hb he hf
    have bad : ¬ reportsOpen (s.lane o).status = true := by
      obtain h | h | h | h | h := hf <;> simp [reportsOpen, h]
    exact (execContextStart_runs ⟨hs, hw, hu, hl⟩ hb he).trans (by rw [if_neg bad]; rfl)

end Sys2Proof.Machine
end


section
/-! The frames that have left and the cores of the lanes (R97, R102) under the operations of the other blocks: only a downlink frame adds
to the first, and of a lane a permit's evaluation and a change of link touch only what its core leaves out. -/

namespace Sys2Proof.Machine

/-! ### What is kept -/

/-- What of a lane its link and its attach do not decide: all but its link, the training step, the attach, and the two flags of
STR_LANE_STATUS that a STATUS word sets (R97, R116, R123). -/
def Lane.core (x : Lane) : Lane :=
  { x with trainStep := 0, link := .down, attach := .none, mbWait := none, slackSeen := false, conflictF := false }

/-- The cores of the lanes. -/
def laneCores (v : Vector Lane 128) : Vector Lane 128 := v.map Lane.core

/-- A downlink frame among what the block sends. -/
def isFrame : Out → Bool
  | .frame _ _ => true
  | _ => false

/-- The downlink frames that have left. -/
def sentFrames (l : List Out) : List Out := l.filter isFrame

@[simp] theorem ite_sentFrames (c : Prop) [Decidable c] (a b : List Out) :
    sentFrames (if c then a else b) = if c then sentFrames a else sentFrames b := apply_ite _ _ _ _

@[simp] theorem ite_laneCores (c : Prop) [Decidable c] (a b : Vector Lane 128) :
    laneCores (if c then a else b) = if c then laneCores a else laneCores b := apply_ite _ _ _ _

theorem mem_sentFrames (l : List Out) (o : Fin 128) (f : Frame) : Out.frame o f ∈ sentFrames l ↔ Out.frame o f ∈ l := by
  simp [sentFrames, isFrame]

theorem lane_core {s t : State} (h : laneCores t.lanes = laneCores s.lanes) (l : Fin 128) : (t.lane l).core = (s.lane l).core := by
  have same := congrArg (fun v => vget v l) h
  simpa [laneCores, vget, State.lane] using same

theorem lane_status {s t : State} (h : laneCores t.lanes = laneCores s.lanes) (l : Fin 128) : (t.lane l).status = (s.lane l).status :=
  (congrArg Lane.status (lane_core h l) :)

theorem lane_downNo {s t : State} (h : laneCores t.lanes = laneCores s.lanes) (l : Fin 128) : (t.lane l).downNo = (s.lane l).downNo :=
  (congrArg Lane.downNo (lane_core h l) :)

theorem LaneSame.core {x y : Lane} (h : LaneSame x y) : y.core = x.core := by rw [h]; rfl

theorem laneCores_ext {s t : State} (h : ∀ l, (t.lane l).core = (s.lane l).core) : laneCores t.lanes = laneCores s.lanes :=
  Vector.ext fun i hi => by simpa [laneCores, State.lane, vget] using h ⟨i, hi⟩

theorem LanesBut.cores {o : Fin 128} {s t : State} (h : LanesBut o s t) : laneCores t.lanes = laneCores s.lanes :=
  laneCores_ext fun l => if e : l = o then e ▸ h.1.core else congrArg _ (h.2 l e)

/-! ### The state's own operations -/

@[simp] theorem send_frames {s : State} {x : Out} (h : ∀ o f, x ≠ .frame o f) :
    sentFrames (s.send x).out = sentFrames s.out := by
  have other : isFrame x = false := by
    unfold isFrame; split
    · exact absurd rfl (h _ _)
    · rfl
  exact List.filter_cons_of_neg (by simp [other])

@[simp] theorem onLane_cores {s : State} {o : Fin 128} {f : Lane → Lane} (h : ∀ x, (f x).core = x.core) :
    laneCores (s.onLane o f).lanes = laneCores s.lanes :=
  laneCores_ext fun l => by rw [onLane_lane]; split <;> simp [h]

@[simp] theorem foldl_frames {α : Type} {l : List α} {f : State → α → State} {s : State}
    (h : ∀ s x, sentFrames (f s x).out = sentFrames s.out) : sentFrames (l.foldl f s).out = sentFrames s.out :=
  foldl_inv (fun t => sentFrames t.out = sentFrames s.out) l f s rfl fun t x ht => (h t x).trans ht

@[simp] theorem foldl_cores {α : Type} {l : List α} {f : State → α → State} {s : State}
    (h : ∀ s x, laneCores (f s x).lanes = laneCores s.lanes) : laneCores (l.foldl f s).lanes = laneCores s.lanes :=
  foldl_inv (fun t => laneCores t.lanes = laneCores s.lanes) l f s rfl fun t x ht => (h t x).trans ht

@[simp] theorem forAll_frames {α : Type} {l : List α} {f : State → α → State} {s : State}
    (h : ∀ s x, sentFrames (f s x).out = sentFrames s.out) : sentFrames (forAll l f s).out = sentFrames s.out := foldl_frames h

@[simp] theorem forAll_cores {α : Type} {l : List α} {f : State → α → State} {s : State}
    (h : ∀ s x, laneCores (f s x).lanes = laneCores s.lanes) : laneCores (forAll l f s).lanes = laneCores s.lanes := foldl_cores h

/-! ### Events and completions -/

@[simp] theorem hostWrite_frames (s : State) (a : BitVec 64) (b : List Byte) : sentFrames (s.hostWrite a b).out = sentFrames s.out := by
  simp [State.hostWrite]

@[simp] theorem sendMsix_frames (s : State) (v : BitVec 6) : sentFrames (sendMsix s v).out = sentFrames s.out := by
  simp [sendMsix]

@[simp] theorem writeBack_frames (s : State) (r : Fin 57) : sentFrames (writeBack s r).out = sentFrames s.out := by
  simp [writeBack]

@[simp] theorem afterEntry_frames (s : State) (r : Fin 57) (b : Bool) : sentFrames (afterEntry s r b).out = sentFrames s.out := by
  simp [afterEntry, signalRing]

@[simp] theorem rngInt_frames (s : State) (f : Rng → Rng) : sentFrames (rngInt s f).out = sentFrames s.out := by
  simp [rngInt]

@[simp] theorem putEvt_frames (s : State) (r : Fin 57) (e : Event) : sentFrames (putEvt s r e).out = sentFrames s.out := by
  simp [putEvt, State.writeEntry]

@[simp] theorem writeEvt_frames (s : State) (r : Fin 57) (e : Event) : sentFrames (writeEvt s r e).out = sentFrames s.out := by
  simp [writeEvt, numberEvt]

@[simp] theorem placeEvt_frames (s : State) (e : Event) : sentFrames (placeEvt s e).out = sentFrames s.out := by
  unfold placeEvt; dsimp only; repeat' split
  all_goals simp [placeEvt.enqueue, judgeBacklog, foldEvt]

@[simp] theorem postEvent_frames (s : State) (code : Nat) (o : Option (Fin 128)) (p : List Byte) (k : Option Cmd) :
    sentFrames (postEvent s code o p k).out = sentFrames s.out := by
  simp [postEvent, newEvent]

@[simp] theorem postDev_frames (s : State) (code : Nat) (p : List Byte) (k : Option Cmd) :
    sentFrames (postDev s code p k).out = sentFrames s.out := by
  simp [postDev]

@[simp] theorem postOut_frames (s : State) (code : Nat) (o : Fin 128) (p : List Byte) (k : Option Cmd) :
    sentFrames (postOut s code o p k).out = sentFrames s.out := by
  simp [postOut]

@[simp] theorem postFault_frames (s : State) (cls inst : Nat) (lasting : Bool) (n : Nat) :
    sentFrames (postFault s cls inst lasting n).out = sentFrames s.out := by
  simp [postFault]

@[simp] theorem tally_frames (s : State) (cls inst : Nat) : sentFrames (tally s cls inst).out = sentFrames s.out := by
  simp [tally, makeLasting]

@[simp] theorem mirror_frames (s : State) (kind : Nat) (words : List Nat) : sentFrames (s.mirror kind words).out = sentFrames s.out := by
  simp [State.mirror]

@[simp] theorem writeCpl_frames (s : State) (r : CmdRec) (st : BitVec 8) (v : BitVec 32) :
    sentFrames (writeCpl s r st v).out = sentFrames s.out := by
  simp [writeCpl, putCpl, State.writeEntry]

@[simp] theorem mirrorDone_frames (s : State) (c : Cmd) (st : BitVec 8) (v : BitVec 32) :
    sentFrames (mirrorDone s c st v).out = sentFrames s.out := by
  simp [mirrorDone]

@[simp] theorem complete_frames (s : State) (c : Cmd) (st : BitVec 8) (v : BitVec 32) :
    sentFrames (complete s c st v).out = sentFrames s.out := by
  unfold complete; split
  · dsimp only; split <;> simp
  · rfl

@[simp] theorem completeKey_frames (s : State) (r : Fin 16) (i : BitVec 32) (st : BitVec 8) (v : BitVec 32) :
    sentFrames (completeKey s r i st v).out = sentFrames s.out := by
  unfold completeKey; split <;> simp

/-! ### Triggers and permits -/

@[simp] theorem loseTrig_frames (s : State) (o : Fin 128) (t : Trigger) : sentFrames (loseTrig s o t).out = sentFrames s.out := by
  unfold loseTrig; dsimp only; split <;> simp

@[simp] theorem queueTrig_frames (s : State) (o : Fin 128) (code arg : Nat) (k : Option (Fin 16 × BitVec 32)) :
    sentFrames (queueTrig s o code arg k).out = sentFrames s.out := by
  unfold queueTrig; dsimp only; repeat' split
  all_goals simp

@[simp] theorem dropCheck_kept (s : State) (o : Fin 128) :
    sentFrames (dropCheck s o).out = sentFrames s.out ∧ laneCores (dropCheck s o).lanes = laneCores s.lanes :=
  ⟨by simp [dropCheck], (dropCheck_lanes s o).1.cores⟩

@[simp] theorem withdraw_frames (s : State) (o : Fin 128) (arg : Nat) : sentFrames (withdraw s o arg).out = sentFrames s.out := by
  simp [withdraw]

@[simp] theorem evalPermit_kept (s : State) (o : Fin 128) (trip : Option Nat) :
    sentFrames (evalPermit s o trip).out = sentFrames s.out ∧ laneCores (evalPermit s o trip).lanes = laneCores s.lanes := by
  refine ⟨?_, (evalPermit_lanes s o trip).1.cores⟩
  unfold evalPermit; dsimp only; repeat' split
  all_goals simp

@[simp] theorem startRdc_kept (s : State) (o : Fin 128) (why : RdcWhy) :
    sentFrames (startRdc s o why).out = sentFrames s.out ∧ laneCores (startRdc s o why).lanes = laneCores s.lanes := by
  simp [startRdc]

@[simp] theorem imdUpdate_kept (s : State) (o : Fin 128) :
    sentFrames (imdUpdate s o).out = sentFrames s.out ∧ laneCores (imdUpdate s o).lanes = laneCores s.lanes := by
  simp [imdUpdate]

/-! ### What the context's transitions call -/

@[simp] theorem onRuns_kept (s : State) (f : List Run → List Run) : (s.onRuns f).out = s.out ∧ (s.onRuns f).lanes = s.lanes :=
  ⟨rfl, rfl⟩

@[simp] theorem onCont_kept (s : State) (o : Fin 128) (aux : Bool) (f : Contactor → Contactor) :
    (s.onCont o aux f).out = s.out ∧ (s.onCont o aux f).lanes = s.lanes := ⟨rfl, rfl⟩

@[simp] theorem openSession_kept (s : State) (o : Fin 128) (by_ : Option Cmd) :
    sentFrames (openSession s o by_).out = sentFrames s.out ∧ laneCores (openSession s o by_).lanes = laneCores s.lanes := by
  simp [openSession]

@[simp] theorem closeSession_kept (s : State) (o : Fin 128) (reason : Nat) (waitOpen : Bool) :
    sentFrames (closeSession s o reason waitOpen).out = sentFrames s.out ∧
    laneCores (closeSession s o reason waitOpen).lanes = laneCores s.lanes := by
  unfold closeSession; repeat' split
  all_goals simp

@[simp] theorem endToggle_kept (s : State) (r : Run) :
    sentFrames (endToggle s r).out = sentFrames s.out ∧ laneCores (endToggle s r).lanes = laneCores s.lanes := by
  unfold endToggle
  refine ⟨foldl_frames fun s h => ?_, foldl_cores fun s h => ?_⟩
  all_goals repeat' split
  all_goals simp

@[simp] theorem failRun_kept (s : State) (r : Run) (cause : Nat) (skip : Option Nat) :
    sentFrames (failRun s r cause skip).out = sentFrames s.out ∧ laneCores (failRun s r cause skip).lanes = laneCores s.lanes := by
  unfold failRun
  refine ⟨(foldl_frames fun s h => ?_).trans (by simp), (foldl_cores fun s h => ?_).trans (by simp)⟩
  all_goals split <;> simp

@[simp] theorem leaveRuns_kept (s : State) (o : Fin 128) :
    sentFrames (leaveRuns s o).out = sentFrames s.out ∧ laneCores (leaveRuns s o).lanes = laneCores s.lanes := by
  simp [leaveRuns]

@[simp] theorem slacArm_kept (s : State) (o : Fin 128) :
    sentFrames (slacArm s o).out = sentFrames s.out ∧ laneCores (slacArm s o).lanes = laneCores s.lanes := by
  simp [slacArm]

@[simp] theorem slacDisarm_kept (s : State) (o : Fin 128) :
    sentFrames (slacDisarm s o).out = sentFrames s.out ∧ laneCores (slacDisarm s o).lanes = laneCores s.lanes := by
  simp [slacDisarm]

@[simp] theorem mirrorSta_kept (s : State) (o : Fin 128) :
    sentFrames (mirrorSta s o).out = sentFrames s.out ∧ laneCores (mirrorSta s o).lanes = laneCores s.lanes := by
  simp [mirrorSta]

@[simp] theorem endAssoc_kept (s : State) (o : Fin 128) (cause : Nat) (by_ : Option Cmd) :
    sentFrames (endAssoc s o cause by_).out = sentFrames s.out ∧ laneCores (endAssoc s o cause by_).lanes = laneCores s.lanes := by
  simp [endAssoc]

@[simp] theorem setRequest_kept (s : State) (o : Fin 128) (ma : Nat) :
    sentFrames (setRequest s o ma).out = sentFrames s.out ∧ laneCores (setRequest s o ma).lanes = laneCores s.lanes := by
  simp [setRequest]

@[simp] theorem recordPrio_kept (s : State) (o : Fin 128) :
    sentFrames (recordPrio s o).out = sentFrames s.out ∧ laneCores (recordPrio s o).lanes = laneCores s.lanes := by
  unfold recordPrio; repeat' split
  all_goals simp

@[simp] theorem shareClass_kept (s : State) (o : Fin 128) (k : Nat) :
    sentFrames (shareClass s o k).out = sentFrames s.out ∧ laneCores (shareClass s o k).lanes = laneCores s.lanes := by
  simp [shareClass]

@[simp] theorem localEnd_kept (s : State) (e : LocalEntry) :
    sentFrames (localEnd s e).out = sentFrames s.out ∧ laneCores (localEnd s e).lanes = laneCores s.lanes := by
  simp [localEnd]

@[simp] theorem checkLocalEnd_kept (s : State) :
    sentFrames (checkLocalEnd s).out = sentFrames s.out ∧ laneCores (checkLocalEnd s).lanes = laneCores s.lanes := by
  unfold checkLocalEnd; repeat' split
  all_goals simp

@[simp] theorem sendPilot_kept (s : State) (o : Fin 128) (v : BitVec 3 × BitVec 10) :
    sentFrames (sendPilot s o v).out = sentFrames s.out ∧ laneCores (sendPilot s o v).lanes = laneCores s.lanes := by
  simp [sendPilot]

@[simp] theorem setPilot_kept (s : State) (o : Fin 128) (sel : PilotSel) :
    sentFrames (setPilot s o sel).out = sentFrames s.out ∧ laneCores (setPilot s o sel).lanes = laneCores s.lanes := by
  simp [setPilot]

@[simp] theorem switchNow_kept (s : State) (o : Fin 128) (aux close : Bool) (zp target : Nat) :
    sentFrames (switchNow s o aux close zp target).out = sentFrames s.out ∧
    laneCores (switchNow s o aux close zp target).lanes = laneCores s.lanes := by
  simp [switchNow]

@[simp] theorem switchCont_kept (s : State) (o : Fin 128) (aux close zp : Bool) :
    sentFrames (switchCont s o aux close zp).out = sentFrames s.out ∧
    laneCores (switchCont s o aux close zp).lanes = laneCores s.lanes := by
  unfold switchCont; dsimp only; repeat' split
  all_goals simp

@[simp] theorem actionRefused_kept (s : State) (o : Fin 128) (w : Word) (cause : Nat) (by_ : Option Cmd) :
    sentFrames (actionRefused s o w cause by_).out = sentFrames s.out ∧
    laneCores (actionRefused s o w cause by_).lanes = laneCores s.lanes := by
  simp [actionRefused]

@[simp] theorem stopTimer_kept (s : State) (o : Fin 128) (t : Fin 4) :
    sentFrames (stopTimer s o t).out = sentFrames s.out ∧ laneCores (stopTimer s o t).lanes = laneCores s.lanes := by
  simp [stopTimer]

@[simp] theorem startTimer_kept (s : State) (o : Fin 128) (t : Fin 4) (angle : Bool) (v : Nat) :
    sentFrames (startTimer s o t angle v).out = sentFrames s.out ∧ laneCores (startTimer s o t angle v).lanes = laneCores s.lanes := by
  simp [startTimer]

@[simp] theorem moveLock_kept (s : State) (o : Fin 128) (engage : Bool) :
    sentFrames (moveLock s o engage).out = sentFrames s.out ∧ laneCores (moveLock s o engage).lanes = laneCores s.lanes := by
  simp [moveLock]

/-! ### A context's transitions -/

@[simp] theorem execAct_kept (o : Fin 128) (by_ : Option Cmd) (w : Word) (s : State) :
    sentFrames (execAct o by_ w s).1.out = sentFrames s.out ∧ laneCores (execAct o by_ w s).1.lanes = laneCores s.lanes := by
  unfold execAct; dsimp only; repeat' split
  all_goals simp

@[simp] theorem runActs_kept (o : Fin 128) (by_ : Option Cmd) (l : List Word) (s : State) :
    sentFrames (runActs o by_ l s).1.out = sentFrames s.out ∧ laneCores (runActs o by_ l s).1.lanes = laneCores s.lanes := by
  induction l generalizing s with
  | nil => exact ⟨rfl, rfl⟩
  | cons w l ih =>
    unfold runActs
    dsimp only
    split
    · simp
    · simp [ih]

@[simp] theorem switchProfile_kept (s : State) (o : Fin 128) (by_ : Option Cmd) :
    sentFrames (switchProfile s o by_).out = sentFrames s.out ∧ laneCores (switchProfile s o by_).lanes = laneCores s.lanes := by
  unfold switchProfile; dsimp only; repeat' split
  all_goals simp

@[simp] theorem enterHooks_kept (s : State) (o : Fin 128) (by_ : Option Cmd) :
    sentFrames (enterHooks s o by_).out = sentFrames s.out ∧ laneCores (enterHooks s o by_).lanes = laneCores s.lanes := by
  simp [enterHooks]

@[simp] theorem stateEntered_kept (s : State) (o : Fin 128) (old new trig arg idx : Nat) (by_ : Option Cmd) :
    sentFrames (stateEntered s o old new trig arg idx by_).out = sentFrames s.out ∧
    laneCores (stateEntered s o old new trig arg idx by_).lanes = laneCores s.lanes := by
  simp [stateEntered]

@[simp] theorem runEntry_kept (o : Fin 128) (by_ : Option Cmd) (s : State) :
    sentFrames (runEntry o by_ s).1.out = sentFrames s.out ∧ laneCores (runEntry o by_ s).1.lanes = laneCores s.lanes := by
  unfold runEntry; dsimp only; repeat' split
  all_goals simp

@[simp] theorem takeTrans_kept (o : Fin 128) (by_ : Option Cmd) (trig arg idx : Nat) (t : TransRec) (s : State) :
    sentFrames (takeTrans o by_ trig arg idx t s).1.out = sentFrames s.out ∧
    laneCores (takeTrans o by_ trig arg idx t s).1.lanes = laneCores s.lanes := by
  unfold takeTrans; dsimp only; repeat' split
  all_goals simp

@[simp] theorem enterFault_kept (o : Fin 128) (by_ : Option Cmd) (cause host trig arg : Nat) (s : State) :
    sentFrames (enterFault o by_ cause host trig arg s).1.out = sentFrames s.out ∧
    laneCores (enterFault o by_ cause host trig arg s).1.lanes = laneCores s.lanes := by
  unfold enterFault; dsimp only; repeat' split
  all_goals simp

@[simp] theorem settle_kept (o : Fin 128) (by_ : Option Cmd) (fuel : Nat) (g : Stage) (n : Nat) (s : State) :
    sentFrames (settle o by_ fuel g n s).1.out = sentFrames s.out ∧
    laneCores (settle o by_ fuel g n s).1.lanes = laneCores s.lanes := by
  induction fuel generalizing g n s with
  | zero => exact ⟨rfl, rfl⟩
  | succ fuel ih =>
    unfold settle
    dsimp only
    repeat' split
    all_goals simp [ih]

@[simp] theorem faultTrans_kept (o : Fin 128) (by_ : Option Cmd) (cause host trig arg : Nat) (s : State) :
    sentFrames (faultTrans o by_ cause host trig arg s).1.out = sentFrames s.out ∧
    laneCores (faultTrans o by_ cause host trig arg s).1.lanes = laneCores s.lanes := by
  unfold faultTrans; dsimp only; repeat' split
  all_goals simp

/-! ### A frame and the re-adoption after it (R102, R119, R229) -/

@[simp] theorem writeJournal_frames (s : State) (o : Fin 128) : sentFrames (writeJournal s o).out = sentFrames s.out := by
  simp [writeJournal]

@[simp] theorem dueTimers_kept (s : State) (o : Fin 128) :
    sentFrames (dueTimers s o).out = sentFrames s.out ∧ laneCores (dueTimers s o).lanes = laneCores s.lanes := by
  unfold dueTimers
  refine ⟨foldl_frames fun s t => ?_, foldl_cores fun s t => ?_⟩
  all_goals repeat' split
  all_goals simp

@[simp] theorem resumeCtx_kept (s : State) (o : Fin 128) (j : CtxJournal) :
    sentFrames (resumeCtx s o j).out = sentFrames s.out ∧ laneCores (resumeCtx s o j).lanes = laneCores s.lanes := by
  unfold resumeCtx; cases hm : j.zpMain <;> cases ha : j.zpAux
  all_goals simp

@[simp] theorem mismatchCtx_kept (s : State) (o : Fin 128) (j : CtxJournal) :
    sentFrames (mismatchCtx s o j).out = sentFrames s.out ∧ laneCores (mismatchCtx s o j).lanes = laneCores s.lanes := by
  simp [mismatchCtx]

@[simp] theorem adoptCtx_kept (s : State) (o : Fin 128) :
    sentFrames (adoptCtx s o).out = sentFrames s.out ∧ laneCores (adoptCtx s o).lanes = laneCores s.lanes := by
  unfold adoptCtx; dsimp only; repeat' split
  all_goals simp

@[simp] theorem applied_kept (s : State) (o : Fin 128) :
    sentFrames (applied s o).out = sentFrames s.out ∧ laneCores (applied s o).lanes = laneCores s.lanes := by
  simp [applied]

@[simp] theorem intervene_kept (s : State) (o : Fin 128) (d : BitVec 13) :
    sentFrames (intervene s o d).out = sentFrames s.out ∧ laneCores (intervene s o d).lanes = laneCores s.lanes := by
  simp [intervene]

@[simp] theorem applySignals_kept (s : State) (o : Fin 128) :
    sentFrames (applySignals s o).out = sentFrames s.out ∧ (applySignals s o).lanes = s.lanes := by
  unfold applySignals; dsimp only; split
  · exact ⟨rfl, rfl⟩
  · exact ⟨(foldl_frames fun s w => by simp).trans (by simp), foldl_inv (fun t : State => t.lanes = s.lanes) _ _ _ (by simp)
      (by simp)⟩

end Sys2Proof.Machine
end


section
/-! Downlink frames (R93, R94, R102, R105). -/

namespace Sys2Proof.Machine

theorem leBytes_length (n v : Nat) : (leBytes n v).length = n := by simp [leBytes]

theorem slotChars_length (x : MbSlot) : (slotChars x).length = 16 := by simp [slotChars]

theorem packSamples_length {w : Nat} (n : Nat) (l : List (BitVec w)) : (packSamples n l).length = n := leBytes_length _ _

theorem frameBody_length (f : Frame) : (frameBody f).length = 194 := by
  simp [frameBody, leBytes_length, packSamples_length, slotChars_length, p8]

/-- The CRC of a sealed frame covers its characters 1 to 194 (R94). -/
theorem sealFrame_crc (f : Frame) : (sealFrame f).crc = crc32 ((frameChars (sealFrame f)).take 194) := by
  unfold frameChars
  rw [List.take_left' (frameBody_length _)]
  rfl

theorem frameSent_frames (s : State) (l : Fin 128) (f : Frame) : sentFrames (frameSent s l f).out = sentFrames s.out := by
  simp [frameSent]

theorem frameSent_downNo (s : State) (l : Fin 128) (f : Frame) : ((frameSent s l f).lane l).downNo = (s.lane l).downNo + 1 := by
  have moved : (frameSent s l f).lanes = (s.onLane l fun y => { y with
    downNo := y.downNo + 1, downWraps := if y.downNo = 0xFFFF#16 then y.downWraps + 1 else y.downWraps
    mbOut := y.mbOut.drop 1 }).lanes := rfl
  rw [lane_congr moved, onLane_lane, if_pos rfl]

/-- The state in which a frame is made: the permits are evaluated and what the frame before has applied is taken (R102). -/
def frameReady (s : State) (l : Fin 128) : State :=
  applySignals (evalPermit (((s.count 6 0x12 1).count 2 0x10 1).laneBytes l true) l) l

theorem frameReady_lane (s : State) (l : Fin 128) (h : (s.lane l).link ≠ .train) :
    LaneSame (s.lane l) ((frameReady s l).lane l) ∧ ((frameReady s l).lane l).link = (s.lane l).link := by
  have counted : (((s.count 6 0x12 1).count 2 0x10 1).laneBytes l true).lane l = s.lane l := lane_congr (by simp) l
  have served : (frameReady s l).lane l = (evalPermit (((s.count 6 0x12 1).count 2 0x10 1).laneBytes l true) l).lane l :=
    lane_congr (applySignals_kept _ _).2 l
  obtain ⟨⟨same, -⟩, link⟩ := evalPermit_lanes (((s.count 6 0x12 1).count 2 0x10 1).laneBytes l true) l none
  rw [served, ← counted]
  exact ⟨same, link (by rw [counted]; exact h)⟩

/-- The guard test's second step sends a word with INV wrong (R273). -/
def frameWrong (s : State) (l : Fin 128) : Bool := (s.saf1 l).guardStep == 2 && !(s.saf1 l).guardSent && s.saf.restarting.isNone

/-- The frame that leaves. -/
def frameOut (s : State) (l : Fin 128) (d : BitVec 13) : Frame := nextFrame s l (frameBits s l d).1 (frameWrong s l)

/-- The frame has left, after an intervention of the sentinel where there is one (R263). -/
def frameLeft (s : State) (l : Fin 128) (d : BitVec 13) : State :=
  frameSent ((if (frameBits s l d).2 then intervene s l d else s).send (.frame l (frameOut s l d))) l (frameOut s l d)

/-- The word of an obeyed frame is kept for the sentinel, and the context is re-adopted or the frame applied (R119, R263). -/
def frameObeyed (s t : State) (l : Fin 128) (d : BitVec 13) : State :=
  let t := t.onSaf l fun y => { y with lastWord := BitVec.ofNat 16 (if frameWrong s l then 0 else (frameBits s l d).1) }
  if (s.lane l).hold then (adoptCtx t l).onLane l fun y => { y with hold := false } else applied t l

theorem execDownlinkFrame_sends (s : State) (l : Fin 128) (d : BitVec 13) (run : s.clocksRun = true) (going : (s.lane l).stopped = false)
    (up : (s.lane l).link ≠ .down) (trained : (s.lane l).link ≠ .train) :
    execDownlinkFrame l d s = .next (let u := frameReady s l
      if (frameOut u l d).listen then frameLeft u l d else frameObeyed u (frameLeft u l d) l d) :=
  congrArg Host.Outcome.next (if_neg (by simp [run, going, up, trained]))

theorem frameLeft_sent (s : State) (l : Fin 128) (d : BitVec 13) : Out.frame l (frameOut s l d) ∈ sentFrames (frameLeft s l d).out ∧
    ((frameLeft s l d).lane l).downNo = (s.lane l).downNo + 1 := by
  unfold frameLeft
  have cores : laneCores (if (frameBits s l d).2 then intervene s l d else s).lanes = laneCores s.lanes := by split <;> simp
  rw [frameSent_frames, mem_sentFrames, frameSent_downNo, send_lane, lane_downNo cores]
  exact ⟨List.mem_cons_self .., rfl⟩

/-- What follows an obeyed frame sends no other one and leaves the lane's frame number. -/
theorem frameObeyed_kept (s t : State) (l : Fin 128) (d : BitVec 13) : sentFrames (frameObeyed s t l d).out = sentFrames t.out ∧
    ((frameObeyed s t l d).lane l).downNo = (t.lane l).downNo := by
  have held : ∀ a : State, ((a.onLane l fun y => { y with hold := false }).lane l).downNo = (a.lane l).downNo := fun a => by
    rw [onLane_lane, if_pos rfl]
  unfold frameObeyed; dsimp only; split
  · exact ⟨by simp, (held _).trans (lane_downNo (by simp) l)⟩
  · exact ⟨by simp, lane_downNo (by simp) l⟩

theorem execDownlinkFrame_leaves (s : State) (l : Fin 128) (d : BitVec 13) (run : s.clocksRun = true) (going : (s.lane l).stopped = false)
    (up : (s.lane l).link ≠ .down) (trained : (s.lane l).link ≠ .train) :
    ∃ t, execDownlinkFrame l d s = .next t ∧ Out.frame l (frameOut (frameReady s l) l d) ∈ t.out ∧
      (t.lane l).downNo = ((frameReady s l).lane l).downNo + 1 := by
  refine ⟨_, execDownlinkFrame_sends s l d run going up trained, ?_⟩
  obtain ⟨left, counted⟩ := frameLeft_sent (frameReady s l) l d
  obtain ⟨kept, number⟩ := frameObeyed_kept (frameReady s l) (frameLeft (frameReady s l) l d) l d
  rw [← mem_sentFrames]
  dsimp only
  split
  · exact ⟨left, counted⟩
  · rw [kept, number]; exact ⟨left, counted⟩

theorem execDownlinkFrame_none (s : State) (l : Fin 128) (d : BitVec 13) (h : (s.lane l).stopped = true ∨ (s.lane l).link = .down ∨
    (s.lane l).link = .train) : execDownlinkFrame l d s = .next s :=
  congrArg Host.Outcome.next (if_pos (by rcases h with h | h | h <;> simp [h]))

/-- Settles O51: the frame is made of the lane as its link state and its core stand after the permits are evaluated, and what follows it in
the step sends no other frame and leaves the lane's core alone. -/
theorem downlinkFrames : Obligations.DownlinkFrames := by
  refine ⟨fun s l d run going up trained => ?_, fun s l d _ none_ => execDownlinkFrame_none s l d none_⟩
  obtain ⟨t, step, sent, counted⟩ := execDownlinkFrame_leaves s l d run going up trained
  obtain ⟨same, link⟩ := frameReady_lane s l trained
  have downNo : ((frameReady s l).lane l).downNo = (s.lane l).downNo := (congrArg Lane.downNo same.core :)
  have mbOut : ((frameReady s l).lane l).mbOut = (s.lane l).mbOut := (congrArg Lane.mbOut same.core :)
  refine ⟨t, frameOut (frameReady s l) l d, step, sent, downNo, counted.trans (by rw [downNo]), ?_, ?_, sealFrame_crc _⟩
  · simp [frameOut, nextFrame, sealFrame, link]
  · exact congrArg (·.headD emptySlot) mbOut

end Sys2Proof.Machine
end


section
/-! Training and the uplink of a lane (R90, R91, R94, R96, R98, R239, R339). -/

namespace Sys2Proof.Machine

/-! ### What a lane's other blocks do to it -/

/-- The island does not send DROP sets where its last word withdrew every permit (R97). -/
theorem dropCheck_idle (s : State) (o : Fin 128) (h : (s.saf1 o).lastWord.toNat &&& 7 = 0) : dropCheck s o = s := by
  unfold dropCheck
  simp [h]

theorem evalPermit_lanes_idle (s : State) (o : Fin 128) (t : Option Nat) (h : (s.saf1 o).lastWord.toNat &&& 7 = 0) :
    (evalPermit s o t).lanes = s.lanes := by
  unfold evalPermit
  extract_lets old inv new s1 s2
  have kept : s2.lanes = s.lanes := by
    unfold s2
    rw [dropCheck_idle]
    · rfl
    · simpa [s1, State.saf1, State.onSaf] using h
  clear_value s2
  rw [← kept]
  repeat' split
  all_goals simp [withdraw_lanes]

/-- Training of a lane that is down begins no silence and posts no trigger. -/
theorem setLink_train (s : State) (o : Fin 128) (h : (s.lane o).link = .down) :
    setLink s o .train = evalPermit (s.onLane o fun x => { x with link := .train }) o := by
  unfold setLink
  simp [h, LinkState.measured]

@[simp] theorem clocksIn_lanes (s : State) (o : Fin 128) (c : List (Option Byte)) : (clocksIn s o c).lanes = s.lanes := rfl

/-! ### A good frame leaves the lanes' cores -/

@[simp] theorem revote_lanes (s : State) : s.revote.lanes = s.lanes := by rw [revote_frame]

@[simp] theorem stateChanged_lanes (s : State) (old new : PwrState) : (stateChanged s old new).lanes = s.lanes := by
  simp [stateChanged]

@[simp] theorem leaveQuiet_lanes (s : State) (source detail : Nat) (replayed : Bool) (further : Nat) :
    (leaveQuiet s source detail replayed further).lanes = s.lanes := by
  simp [leaveQuiet, mirrorDomains, raiseVoted, wakeEvent, recordWake]

@[simp] theorem wake_lanes (s : State) (source detail : Nat) : (wake s source detail).lanes = s.lanes := by
  unfold wake; repeat' split
  all_goals simp

@[simp] theorem endGuard_cores (s : State) (o : Fin 128) (step : Nat) : laneCores (endGuard s o step).lanes = laneCores s.lanes := by
  simp [endGuard, mirrorSaf]

@[simp] theorem guardRdc_cores (s : State) (o : Fin 128) : laneCores (guardRdc s o).lanes = laneCores s.lanes := by
  simp [guardRdc]

@[simp] theorem guardSees_cores (s : State) (o : Fin 128) (ok : Bool) : laneCores (guardSees s o ok).lanes = laneCores s.lanes := by
  simp [guardSees]

@[simp] theorem setLink_cores (s : State) (o : Fin 128) (new : LinkState) : laneCores (setLink s o new).lanes = laneCores s.lanes :=
  (setLink_lanes s o new).1.cores

@[simp] theorem endAttach_cores (s : State) (o : Fin 128) :
    laneCores (s.onLane o fun x => { x with attach := .none, mbWait := none }).lanes = laneCores s.lanes := onLane_cores fun _ => rfl

@[simp] theorem slackSeen_cores (s : State) (o : Fin 128) :
    laneCores (s.onLane o fun x => { x with slackSeen := true }).lanes = laneCores s.lanes := onLane_cores fun _ => rfl

@[simp] theorem conflictF_cores (s : State) (o : Fin 128) :
    laneCores (s.onLane o fun x => { x with conflictF := true }).lanes = laneCores s.lanes := onLane_cores fun _ => rfl

@[simp] theorem slackStarts_cores (s : State) (o : Fin 128) (bothOpen : Bool) :
    laneCores (slackStarts s o bothOpen).lanes = laneCores s.lanes := by
  simp [slackStarts]

@[simp] theorem slackEnds_cores (s : State) (o : Fin 128) (code : BitVec 3) : laneCores (slackEnds s o code).lanes = laneCores s.lanes := by
  simp [slackEnds]

@[simp] theorem slackStep_cores (s : State) (o : Fin 128) (old new : BitVec 3) (bothOpen : Bool) :
    laneCores (slackStep s o old new bothOpen).lanes = laneCores s.lanes := by
  simp [slackStep]

@[simp] theorem silenceEnd_lanes (s : State) (o : Fin 128) : (silenceEnd s o).lanes = s.lanes := (silent_lanes s o).2

/-- After STATUS is taken only the link, the attach and the flags of the lane change (R98, R116). -/
theorem takeStatus_status (s : State) (o : Fin 128) (f : Uplink) : ((takeStatus s o f).lane o).status = f.status := by
  unfold takeStatus
  extract_lets x st old seen edge s1 s2 s3 marked str conflict s4 cand s5 s6 bothOpen s7 s8 s9 s10
  have cores : laneCores (evalPermit (guardSees s10 o st.permitOk) o).lanes = laneCores s1.lanes := by
    simp [s10, s9, s8, s7, s6, s5, s4, conflict, marked, s3, s2, takeTemp, requestEngine]
  rw [lane_status cores]
  unfold s1
  rw [onLane_lane, if_pos rfl]

/-! ### Training (R90) -/

theorem execTrainingSetReceived_ts1 (s : State) (l : Fin 128) (run : s.clocksRun = true) (step : (s.lane l).trainStep = 1) :
    execTrainingSetReceived l false s = .next ((setLink (s.onLane l fun y => { y with trainStep := 2 }) l .train).send (.setWord l 1)) := by
  unfold execTrainingSetReceived
  simp [run, step]

theorem execTrainingSetReceived_ts2 (s : State) (l : Fin 128) (run : s.clocksRun = true) (step : (s.lane l).trainStep = 2)
    (link : (s.lane l).link = .train) :
    execTrainingSetReceived l true s = .next ((s.onLane l fun y => { y with trainStep := 3 }).send (.setWord l 2)) := by
  unfold execTrainingSetReceived
  simp [run, step, link]

/-- A lane that is down starts step 2 as it is, where the island's last word has no permit left to withdraw. -/
theorem setLink_train_lanes (s : State) (l : Fin 128) (link : (s.lane l).link = .down)
    (word : (s.saf1 l).lastWord.toNat &&& 7 = 0) :
    (setLink s l .train).lanes = (s.onLane l fun x => { x with link := .train }).lanes := by
  rw [setLink_train s l link]
  exact evalPermit_lanes_idle _ _ _ word

theorem execEchoReceived_train (s : State) (l : Fin 128) (rtt : Nat) (run : s.clocksRun = true) (step : (s.lane l).trainStep = 3)
    (link : (s.lane l).link = .train) :
    ∃ t, execEchoReceived l rtt s = .next t ∧ (t.lane l).trainStep = 4 ∧ (t.lane l).link = .idle ∧
      (t.lane l).rtt = min rtt 4095 ∧ ∀ k, k ≠ l → t.lane k = s.lane k := by
  obtain ⟨⟨-, others⟩, idle⟩ := setLink_lanes s l .idle
  refine ⟨_, congrArg Host.Outcome.next (if_pos (by simp [run, step, link])), ?_⟩
  simp only [onLane_lane, if_pos]
  exact ⟨trivial, idle (by decide), trivial, fun k hk => (if_neg (Ne.symm hk)).trans (others k hk)⟩

/-! ### Missing frames (R91, R96, R239) -/

@[simp] theorem gapFrame_lanes (s : State) (l : Fin 128) : (gapFrame s l).lanes = s.lanes := by
  simp [gapFrame]

/-- The times of a lane that lie within the last millisecond, and the one that comes now. -/
def recentMisses (s : State) (t : List Nat) : List Nat := s.now :: t.filter fun t => decide (s.now < t + msNs)

/-- A lane with one more discarded frame (R96). -/
def missedLane (s : State) (crc : Bool) (x : Lane) : Lane :=
  { x with
    crcErr := x.crcErr + 1, missed := recentMisses s x.missed, lastMissAt := s.now, upNo := x.upNo.map (· + 1)
    crcFails := if crc then recentMisses s x.crcFails else x.crcFails }

/-- The discarded frame is counted and the outlet's measurement judged, before the sixteenth failed CRC takes the lane down (R96, R239). -/
def frameMissed (s : State) (l : Fin 128) (crc : Bool) : State :=
  let s := gapFrame (s.onLane l (missedLane s crc)) l
  let n := (s.lane l).missed.length
  if 8 ≤ n ∧ !(s.saf1 l).measLost then
    evalPermit (postOut (s.onSaf l fun x => { x with measLost := true }) 0x020F l (p16 n)) l
  else s

theorem missFrame_eq (s : State) (l : Fin 128) (crc : Bool) : missFrame s l crc =
    if crc ∧ 16 ≤ ((frameMissed s l crc).lane l).crcFails.length
    then laneDown ((frameMissed s l crc).onLane l fun x => { x with crcBurst := true }) l 2 else frameMissed s l crc := rfl

theorem frameMissed_lanes (s : State) (l : Fin 128) (crc : Bool) :
    LaneSame (missedLane s crc (s.lane l)) ((frameMissed s l crc).lane l) ∧
    ∀ k, k ≠ l → (frameMissed s l crc).lane k = s.lane k := by
  have counted : LanesBut l (s.onLane l (missedLane s crc)) (frameMissed s l crc) := by
    unfold frameMissed; dsimp only; split
    · exact (LanesBut.same (by simp)).trans (evalPermit_lanes _ _ _).1
    · exact .same (by simp)
  obtain ⟨same, others⟩ := counted
  rw [onLane_lane, if_pos rfl] at same
  exact ⟨same, fun k hk => by rw [others k hk, onLane_lane, if_neg (Ne.symm hk)]⟩

theorem frameMissed_counts (s : State) (l : Fin 128) (crc : Bool) :
    ((frameMissed s l crc).lane l).crcErr = (s.lane l).crcErr + 1 ∧ ((frameMissed s l crc).lane l).status = (s.lane l).status :=
  have same := (frameMissed_lanes s l crc).1.core
  ⟨(congrArg Lane.crcErr same :), (congrArg Lane.status same :)⟩

theorem execUplinkFrameReceived_bad (s : State) (l : Fin 128) (f : List Byte) (eof violation : Bool) (run : s.clocksRun = true)
    (up : (s.lane l).link ≠ .down) (trained : (s.lane l).link ≠ .train) (bad : frameGood f eof violation = false) :
    execUplinkFrameReceived l f eof violation s = .next (missFrame (s.count 6 0x11 1) l (!crcGood f)) := by
  unfold execUplinkFrameReceived
  simp [run, up, trained, bad]

theorem execUplinkFrameReceived_good (s : State) (l : Fin 128) (f : List Byte) (eof violation : Bool) (run : s.clocksRun = true)
    (up : (s.lane l).link ≠ .down) (trained : (s.lane l).link ≠ .train) (good : frameGood f eof violation = true) :
    execUplinkFrameReceived l f eof violation s = .next
      (let t := takeFrame ((s.count 6 0x10 1).laneBytes l false) l (uplinkOf f)
       if t.glb.phase = .running then (applySignals t l).revote else t) := by
  unfold execUplinkFrameReceived
  simp [run, up, trained, good]

/-- A discarded frame that does not bring the sixteenth failed CRC is only counted. -/
theorem missFrame_counted (s : State) (l : Fin 128) (crc : Bool)
    (few : crc = false ∨ ((s.lane l).crcFails.filter fun t => decide (s.now < t + msNs)).length < 15) :
    missFrame s l crc = frameMissed s l crc := by
  have fails : ((frameMissed s l crc).lane l).crcFails = (missedLane s crc (s.lane l)).crcFails :=
    (congrArg Lane.crcFails (frameMissed_lanes s l crc).1.core :)
  rw [missFrame_eq, fails]
  refine if_neg fun h => ?_
  obtain ⟨rfl, full⟩ := h
  simp only [missedLane, recentMisses, if_true, List.length_cons] at full
  obtain no | less := few
  · exact Bool.noConfusion no
  · omega

/-- The sixteenth failed CRC in a millisecond takes the lane down (R91). -/
theorem missFrame_burst (s : State) (l : Fin 128)
    (many : 15 ≤ ((s.lane l).crcFails.filter fun t => decide (s.now < t + msNs)).length) :
    missFrame s l true = laneDown ((frameMissed s l true).onLane l fun x => { x with crcBurst := true }) l 2 := by
  have fails : ((frameMissed s l true).lane l).crcFails = (missedLane s true (s.lane l)).crcFails :=
    (congrArg Lane.crcFails (frameMissed_lanes s l true).1.core :)
  rw [missFrame_eq, fails]
  refine if_pos ⟨rfl, ?_⟩
  simpa [missedLane, recentMisses] using many

theorem frameGood_iff (l : List Byte) (eof violation : Bool) : frameGood l eof violation = true ↔ l.length = 198 ∧
    (crc32 (l.take 194)).toNat = ofBytes ((l.drop 194).take 4) ∧ eof = true ∧ violation = false := by
  simp [frameGood, crcGood, numAt, charsAt, and_assoc]

/-! ### A good frame and a silence (R98, R101, R339) -/

theorem uplinkOf_status (l : List Byte) : (uplinkOf l).status = statusOf ((l.drop 110).take 16) := rfl

theorem takeFrame_status (s : State) (o : Fin 128) (f : Uplink) : ((takeFrame s o f).lane o).status = f.status := takeStatus_status _ _ _

/-- A silence that begins marks its outlet and the island, and is reported. -/
theorem silenceStart_marks (s : State) (o : Fin 128) (heard : (s.met1 o).silent = false) (role : s.tie.role ≠ .standby) :
    ((silenceStart s o).met1 o).silent = true ∧ (silenceStart s o).enr.silentAny = true ∧ (silenceStart s o).tim = s.tim ∧
    Posted s (silenceStart s o) 0x0517 (some o) (p8 0 ++ p32 0) := by
  unfold silenceStart
  rw [if_neg (by simp [heard])]
  refine ⟨?_, by simp, by simp [silentFlag], (postEvent_posted (by exact role) (by decide) _ _ _).since rfl⟩
  simp [State.met1, silentFlag, State.onMet]

/-! ### The statement -/

theorem count_lane (s : State) (a : Fin 8) (b n : Nat) (l : Fin 128) : (s.count a b n).lane l = s.lane l := lane_congr (by simp) l

/-- Settles O49: the lanes change by the link's own operations only, and what a good frame sets in motion leaves the STATUS it brought. -/
theorem laneLink : Obligations.LaneLink := by
  refine ⟨?ts1, fun s l run step link => execTrainingSetReceived_ts2 s l run step link, ?echo, ?fault, frameGood_iff, ?missed, ?burst,
    ?good, ?silent, ?restored⟩
  case ts1 =>
    intro s l run step link word
    refine ⟨_, _, execTrainingSetReceived_ts1 s l run step, rfl, ?_⟩
    have lanes := lane_congr (setLink_train_lanes (s.onLane l fun y => { y with trainStep := 2 }) l
      (by rw [onLane_lane, if_pos rfl]; exact link) word)
    simp only [send_lane, lanes, onLane_lane, if_pos, true_and]
    exact fun k hk => by simp [Ne.symm hk]
  case echo =>
    intro s l rtt run step link
    obtain ⟨t, ht, htrain, hlink, hrtt, others⟩ := execEchoReceived_train s l rtt run step link
    exact ⟨t, ht, htrain, hlink, fun h => by rw [hrtt]; omega, others⟩
  case fault =>
    intro s l cause run up
    obtain ⟨-, hlink, htrain, -, hattach, others⟩ :=
      laneDown_lanes (s.onLane l fun x => { x with crcBurst := x.crcBurst || cause == 2 }) l cause.val
    refine ⟨_, congrArg Host.Outcome.next (if_pos (by simp [run, up])), hlink, ?_, hattach, fun k hk => ?_⟩
    · rw [htrain, onLane_lane, if_pos rfl]
    · rw [others k hk, onLane_lane, if_neg (Ne.symm hk)]
  case missed =>
    intro s l f eof violation run up trained bad few
    have counted := missFrame_counted (s.count 6 0x11 1) l (!crcGood f) (few.imp (by simp) (by rw [count_lane]; exact id))
    obtain ⟨-, others⟩ := frameMissed_lanes (s.count 6 0x11 1) l (!crcGood f)
    obtain ⟨crcErr, status⟩ := frameMissed_counts (s.count 6 0x11 1) l (!crcGood f)
    rw [count_lane] at crcErr status
    refine ⟨_, (execUplinkFrameReceived_bad s l f eof violation run up trained bad).trans (congrArg _ counted), crcErr, status,
      fun k hk => ?_⟩
    rw [others k hk, count_lane]
  case burst =>
    intro s l f eof violation run up trained bad many
    have fails := missFrame_burst (s.count 6 0x11 1) l (by rw [count_lane]; exact many)
    obtain ⟨-, others⟩ := frameMissed_lanes (s.count 6 0x11 1) l true
    obtain ⟨-, down, -, -, -, kept⟩ :=
      laneDown_lanes ((frameMissed (s.count 6 0x11 1) l true).onLane l fun x => { x with crcBurst := true }) l 2
    have notGood : frameGood f eof violation = false := by simp [frameGood, bad]
    refine ⟨_, (execUplinkFrameReceived_bad s l f eof violation run up trained notGood).trans
      (by rw [bad]; exact congrArg _ fails), down, fun k hk => ?_⟩
    rw [kept k hk, onLane_lane, if_neg (Ne.symm hk), others k hk, count_lane]
  case good =>
    intro s l f run up trained good
    refine ⟨_, execUplinkFrameReceived_good s l f true false run up trained good, ?_⟩
    have taken := takeFrame_status ((s.count 6 0x10 1).laneBytes l false) l (uplinkOf f)
    rw [uplinkOf_status] at taken
    generalize takeFrame ((s.count 6 0x10 1).laneBytes l false) l (uplinkOf f) = u at taken ⊢
    dsimp only
    split
    · rw [lane_congr ((revote_lanes _).trans (applySignals_kept u l).2), taken]
    · exact taken
  case silent =>
    intro s l run measured heard role
    refine ⟨_, congrArg Host.Outcome.next (if_pos (by simp [run, measured, heard])), ?_⟩
    have reaches := toTick_reaches s ((s.lane l).lastFrameAt + 20 * msNs)
    have frame := toTick_frame s ((s.lane l).lastFrameAt + 20 * msNs)
    obtain ⟨marked, any, now, posted⟩ := silenceStart_marks (s.toTick ((s.lane l).lastFrameAt + 20 * msNs)) l
      (by rw [frame]; exact heard) (by rw [frame]; exact role)
    refine ⟨marked, any, ?_, posted.since (by rw [frame])⟩
    unfold State.now
    rw [now]
    exact reaches
  case restored =>
    intro s o run lost
    exact congrArg Host.Outcome.next (if_pos (by simp [execLinkRestored.islandRuns, run, lost]))

end Sys2Proof.Machine
end


section
/-! The phase (R119, R527) through the end of a service reset: nothing that is resumed, served or sent in it changes the phase again. -/

namespace Sys2Proof.Machine

/-! ### Loops and the faults they count -/

@[simp] theorem foldl_phase {α : Type} {l : List α} {f : State → α → State} {s : State}
    (h : ∀ s x, (f s x).glb.phase = s.glb.phase) : (l.foldl f s).glb.phase = s.glb.phase :=
  foldl_inv (fun t => t.glb.phase = s.glb.phase) l f s rfl fun t x ht => (h t x).trans ht

@[simp] theorem forAll_phase {α : Type} {l : List α} {f : State → α → State} {s : State}
    (h : ∀ s x, (f s x).glb.phase = s.glb.phase) : (forAll l f s).glb.phase = s.glb.phase := foldl_phase h

@[simp] theorem ite_phase (c : Prop) [Decidable c] (a b : Glb) : (if c then a else b).phase = if c then a.phase else b.phase :=
  apply_ite _ _ _ _

@[simp] theorem lastingAction_phase (s : State) (cls : Nat) : (lastingAction s cls).glb.phase = s.glb.phase := by
  unfold lastingAction; dsimp only; repeat' split
  all_goals simp

@[simp] theorem makeLasting_phase (s : State) (cls inst : Nat) : (makeLasting s cls inst).glb.phase = s.glb.phase := by
  simp [makeLasting]

@[simp] theorem tally_phase (s : State) (cls inst : Nat) : (tally s cls inst).glb.phase = s.glb.phase := by
  simp [tally]

@[simp] theorem flagAll_phase (s : State) (f : BitVec 15) : (flagAll s f).glb.phase = s.glb.phase := by
  simp [flagAll, flagSession]

/-! ### Rings (R131, R153, R161) -/

@[simp] theorem flushDone_phase (s : State) : (flushDone s).glb.phase = s.glb.phase := by
  unfold flushDone
  refine foldl_phase fun s x => ?_
  repeat' split
  all_goals simp

@[simp] theorem openRing_phase (s : State) (r : Fin 57) : (openRing s r).glb.phase = s.glb.phase := by
  simp [openRing, replayRing]

@[simp] theorem drainGo_phase (l : List Event) (s : State) : (drainGo l s).glb.phase = s.glb.phase := by
  induction l generalizing s with
  | nil => rfl
  | cons e l ih =>
    unfold drainGo; dsimp only
    repeat' split
    all_goals rw [ih]; simp

@[simp] theorem drainAll_phase (s : State) : (drainAll s).glb.phase = s.glb.phase := by
  simp [drainAll]

/-! ### Keys and images (R536 to R541, R589, R590) -/

@[simp] theorem checkSlot_phase (s : State) (slot : Fin 64) : (checkSlot s slot).glb.phase = s.glb.phase := by
  simp [checkSlot, slotUnusable]

@[simp] theorem loadEngine_phase (s : State) (slot : Fin 64) : (loadEngine s slot).glb.phase = s.glb.phase := by
  unfold loadEngine; dsimp only; repeat' split
  all_goals simp

@[simp] theorem useKey_phase (s : State) (slot : Fin 64) : (useKey s slot).2.glb.phase = s.glb.phase := by
  unfold useKey; dsimp only; repeat' split
  all_goals simp

@[simp] theorem imageKey_phase (s : State) (t : Nat) : (imageKey s t).2.glb.phase = s.glb.phase := by
  unfold imageKey; dsimp only; repeat' split
  all_goals simp

@[simp] theorem verifyCause_phase (s : State) (t : Nat) (m : List Host.Cell) (low : Bool) :
    (verifyCause s t m low).2.glb.phase = s.glb.phase := by
  unfold verifyCause; dsimp only; repeat' split
  all_goals simp

@[simp] theorem onFw_phase (s : State) (t : Fin 3) (b : Fin 2) (f : FwSlot → FwSlot) : (s.onFw t b f).glb.phase = s.glb.phase := rfl

@[simp] theorem onTrial_phase (s : State) (t : Fin 3) (f : Option Trial → Option Trial) : (s.onTrial t f).glb.phase = s.glb.phase := rfl

@[simp] theorem verifyFw_phase (s : State) (t : Fin 3) (b : Fin 2) (by_ : Option Cmd) : (verifyFw s t b by_).1.glb.phase = s.glb.phase := by
  simp [verifyFw, storedEvent]

/-! ### Ports, the display and Hub-Quiet (R166, R566, R578) -/

@[simp] theorem onPort_phase (s : State) (p : Fin 12) (f : Port → Port) : (s.onPort p f).glb.phase = s.glb.phase := by
  unfold State.onPort; repeat' split
  all_goals simp [State.onUart, State.onCan]

@[simp] theorem serveReads_phase (p : Fin 12) (l : List FbRead) (s : State) : (serveReads p l s).glb.phase = s.glb.phase := by
  induction l generalizing s with
  | nil => rfl
  | cons r l ih =>
    unfold serveReads; dsimp only
    split
    · rfl
    · simp [ih]

@[simp] theorem serve_phase (s : State) (p : Fin 12) : (serve s p).glb.phase = s.glb.phase := by
  simp [serve]

@[simp] theorem onEpd_phase (s : State) (f : Epd → Epd) : (s.onEpd f).glb.phase = s.glb.phase := rfl

@[simp] theorem resumeDisplay_phase (s : State) : (resumeDisplay s).glb.phase = s.glb.phase := by
  simp [resumeDisplay]

@[simp] theorem leaveQuiet_phase (s : State) (source detail : Nat) (replayed : Bool) (further : Nat) :
    (leaveQuiet s source detail replayed further).glb.phase = s.glb.phase := by
  simp [leaveQuiet, recordWake, wakeEvent, raiseVoted, mirrorDomains, stateChanged]

@[simp] theorem wake_phase (s : State) (source detail : Nat) : (wake s source detail).glb.phase = s.glb.phase := by
  unfold wake; dsimp only; repeat' split
  all_goals simp

@[simp] theorem replayWake_phase (s : State) : (replayWake s).glb.phase = s.glb.phase := by
  unfold replayWake; repeat' split
  all_goals simp

/-! ### Legal time (R81, R82, R580) -/

@[simp] theorem fireAlarm_phase (s : State) : (fireAlarm s).glb.phase = s.glb.phase := by
  simp [fireAlarm, wakeEvent]

@[simp] theorem stepLegal_phase (s : State) (d : Int) (src : Nat) : (stepLegal s d src).glb.phase = s.glb.phase := by
  simp [stepLegal, stepDemand]

@[simp] theorem syncLegal_phase (s : State) (utc t src : Nat) : (syncLegal s utc t src).glb.phase = s.glb.phase := by
  simp [syncLegal, acceptSync]

/-! ### Kite frames out (R486 to R489, R493, R498) -/

@[simp] theorem onNode_phase (s : State) (n : Fin 64) (f : KiteNode → KiteNode) : (s.onNode n f).glb.phase = s.glb.phase := rfl

@[simp] theorem onOutbox_phase (s : State) (f : List KiteOut → List KiteOut) : (s.onOutbox f).glb.phase = s.glb.phase := by
  simp [State.onOutbox, syncOutbox]

@[simp] theorem kiteQueue_phase (s : State) (typ pri : Nat) (dest : Fin 64) (bcast oneHop : Bool) (payload : List Byte) :
    (kiteQueue s typ pri dest bcast oneHop payload).glb.phase = s.glb.phase := by
  simp [kiteQueue]

@[simp] theorem sendKey_phase (s : State) : (sendKey s).2.glb.phase = s.glb.phase := by
  unfold sendKey
  refine foldl_inv (fun a : Option (BitVec 128) × State => a.2.glb.phase = s.glb.phase) _ _ _ rfl fun a x h => ?_
  split
  · exact h
  · simp [h]

@[simp] theorem transmit_phase (s : State) (f : KiteFrame) : (transmit s f).glb.phase = s.glb.phase := by
  unfold transmit; dsimp only; repeat' split
  all_goals simp [countFcnt]

@[simp] theorem sendAck_phase (s : State) (f : KiteFrame) (snr : Nat) : (sendAck s f snr).glb.phase = s.glb.phase := by
  simp [sendAck]

/-! ### Routes and neighbours (R488, R495 to R497) -/

@[simp] theorem rerouteOne_phase (s : State) (d : Fin 64) : (rerouteOne s d).glb.phase = s.glb.phase := by
  unfold rerouteOne; dsimp only; repeat' split
  all_goals simp [routeEvent]

@[simp] theorem settleRotation_phase (s : State) : (settleRotation s).glb.phase = s.glb.phase := by
  simp [settleRotation]

@[simp] theorem reroute_phase (s : State) : (reroute s).glb.phase = s.glb.phase := by
  simp [reroute]

@[simp] theorem gotAck_phase (s : State) (n : Fin 64) (snr : Nat) : (gotAck s n snr).glb.phase = s.glb.phase := by
  simp [gotAck, penaltyEvent]

@[simp] theorem nodeConflict_phase (s : State) (n : Fin 64) (other : BitVec 64) : (nodeConflict s n other).glb.phase = s.glb.phase := by
  simp [nodeConflict]

@[simp] theorem noteSerial_phase (s : State) (f : KiteFrame) : (noteSerial s f).glb.phase = s.glb.phase := by
  unfold noteSerial; dsimp only; repeat' split
  all_goals simp [neighbourEvent]

@[simp] theorem notePhase_phase (s : State) (f : KiteFrame) (angle : BitVec 16) : (notePhase s f angle).glb.phase = s.glb.phase := by
  simp [notePhase]

/-! ### Domino propagation (R598, R599) -/

@[simp] theorem dominoEvent_phase (s : State) (target : Nat) (version : BitVec 32) (node : Fin 64) (st : Nat) :
    (dominoEvent s target version node st).glb.phase = s.glb.phase := by
  simp [dominoEvent]

@[simp] theorem pauseDomino_phase (s : State) : (pauseDomino s).glb.phase = s.glb.phase := by
  unfold pauseDomino; dsimp only; repeat' split
  all_goals simp

@[simp] theorem sendPiece_phase (s : State) : (sendPiece s).glb.phase = s.glb.phase := by
  unfold sendPiece; dsimp only; repeat' split
  all_goals simp

@[simp] theorem startDomino_phase (s : State) (t : Fin 3) (v : BitVec 32) : (startDomino s t v).glb.phase = s.glb.phase := by
  simp [startDomino]

@[simp] theorem pieceSent_phase (s : State) : (pieceSent s).glb.phase = s.glb.phase := by
  unfold pieceSent; dsimp only; repeat' split
  all_goals simp

@[simp] theorem dominoDone_phase (s : State) (t : Fin 3) (b : Fin 2) (v : BitVec 32) (node : Fin 64) :
    (dominoDone s t b v node).glb.phase = s.glb.phase := by
  simp [dominoDone]

@[simp] theorem keepPiece_phase (s : State) (t : Fin 3) (b : Fin 2) (x : DominoPiece) : (keepPiece s t b x).glb.phase = s.glb.phase := by
  simp [keepPiece]

@[simp] theorem takeDomino_phase (s : State) (node : Fin 64) (pay : List Byte) : (takeDomino s node pay).glb.phase = s.glb.phase := by
  unfold takeDomino; dsimp only; repeat' split
  all_goals simp

/-! ### Kite frames in (R489 to R504) -/

@[simp] theorem takeHello_phase (s : State) (f : KiteFrame) : (takeHello s f).glb.phase = s.glb.phase := by
  simp [takeHello]

@[simp] theorem takeAck_phase (s : State) (f : KiteFrame) : (takeAck s f).glb.phase = s.glb.phase := by
  unfold takeAck; dsimp only; repeat' split
  all_goals simp

@[simp] theorem takeTime_phase (s : State) (f : KiteFrame) (t : Nat) : (takeTime s f t).glb.phase = s.glb.phase := by
  simp [takeTime]

@[simp] theorem takeEcho_phase (s : State) (p : List Byte) : (takeEcho s p).glb.phase = s.glb.phase := by
  simp [takeEcho]

@[simp] theorem deliverKite_phase (s : State) (f : KiteFrame) : (deliverKite s f).glb.phase = s.glb.phase := by
  unfold deliverKite; dsimp only; repeat' split
  all_goals simp [noteReport]

@[simp] theorem takeUnicast_phase (s : State) (f : KiteFrame) (snr : Nat) (ack : Bool) :
    (takeUnicast s f snr ack).glb.phase = s.glb.phase := by
  simp [takeUnicast]

@[simp] theorem serveKite_phase (s : State) (r : KiteIn) (ack : Bool) : (serveKite s r ack).glb.phase = s.glb.phase := by
  unfold serveKite; dsimp only; repeat' split
  all_goals simp

/-! ### The steps of the end (R119) -/

@[simp] theorem abortCommands_phase (s : State) : (abortCommands s).glb.phase = s.glb.phase := by
  unfold abortCommands
  refine foldl_phase fun s x => ?_
  repeat' split
  all_goals simp

@[simp] theorem dropOutstanding_phase (s : State) : (dropOutstanding s).glb.phase = s.glb.phase := by
  simp [dropOutstanding]

@[simp] theorem leaveRecovery_phase (s : State) : (leaveRecovery s).glb.phase = s.glb.phase := by
  simp [leaveRecovery]

@[simp] theorem resumeLane_phase (s : State) (l : Fin 128) : (resumeLane s l).glb.phase = s.glb.phase := by
  simp [resumeLane, reloadCtx]

@[simp] theorem rejoin_phase (s : State) : (rejoin s).glb.phase = s.glb.phase := by
  simp [rejoin, setRole]

@[simp] theorem serveInbox_phase (s : State) : (serveInbox s).glb.phase = s.glb.phase := by
  simp [serveInbox]

@[simp] theorem endReset_phase (s : State) : (endReset s).glb.phase = .running := by
  simp [endReset, lateConfig]

end Sys2Proof.Machine
end


section
/-! Service resets and memory errors (R119, R181, R527, R528). -/

namespace Sys2Proof.Machine

/-! ### The start of a reset leaves the clocks (R119, R330, R474) -/

@[simp] theorem endToggle_tim (s : State) (r : Run) : (endToggle s r).tim = s.tim := by
  unfold endToggle
  refine foldl_tim fun s h => ?_
  repeat' split
  all_goals simp

@[simp] theorem onRuns_tim (s : State) (f : List Run → List Run) : (s.onRuns f).tim = s.tim := rfl

@[simp] theorem failRun_tim (s : State) (r : Run) (cause : Nat) (skip : Option Nat) : (failRun s r cause skip).tim = s.tim := by
  unfold failRun
  refine (foldl_tim fun s h => ?_).trans (by simp)
  split <;> simp

@[simp] theorem loseInStation_tim (s : State) (o : Fin 128) : (loseInStation s o).tim = s.tim := by
  simp [loseInStation]

@[simp] theorem finishTx_tim (s : State) (e : Fin 16) : (finishTx s e).tim = s.tim := by
  unfold finishTx; split
  · simp
  · rfl

@[simp] theorem collapseTx_tim (s : State) (e : Fin 16) (t : Transaction) : (collapseTx s e t).tim = s.tim := by
  unfold collapseTx; dsimp only; repeat' split
  all_goals simp [mirrorTag, writeCollapsed, State.onTx]

@[simp] theorem collapseAt_tim (s : State) (e : Fin 16) : (collapseAt s e).tim = s.tim := by
  unfold collapseAt; split <;> simp

@[simp] theorem interruptDisplay_tim (s : State) : (interruptDisplay s).tim = s.tim := by
  simp [interruptDisplay, displayEvent, State.onEpd]

/-- A service reset stops the frames on every lane, and the refresh of the service source ends at its instant (R119, R557). -/
theorem beginReset_stops (s : State) : (beginReset s).glb.phase = .serviceReset ∧ (∀ l, ((beginReset s).lane l).stopped = true) ∧
    (vget (beginReset s).lsw.sources 0).stoppedAt = some s.now := by
  unfold beginReset
  extract_lets s1 s2 s3
  have now : s3.now = s.now := by
    have kept : s3.tim = s.tim := by simp [s3, s2, s1]
    exact congrArg Tim.tick kept
  clear_value s3
  refine ⟨rfl, fun l => ?_, ?_⟩
  · change (vget (vall s3.lanes fun x => { x with stopped := true }) l).stopped = true
    simp [vall, vget]
  · change (vget (vmod s3.lsw.sources 0 fun x => { x with stoppedAt := some s3.now }) 0).stoppedAt = some s.now
    rw [vget_vmod_same, now]

/-! ### An uncorrectable error in a queue (R181) -/

/-- A queue whose packets have no one to be told of their loss, but the Kite's own queues: no vehicle frame, no packet of a field bus and
no event of the backlog (R171). -/
def plainQ (q : Fin 1024) : Prop := (258 ≤ q.val ∧ q.val < 264) ∨ 288 ≤ q.val

theorem alloc_eccDrop (n : Nat) (m : Mpl) : (m.alloc n).2.eccDrop = m.eccDrop := by
  induction n generalizing m with
  | zero => rfl
  | succ n ih => exact (ih _).trans (by split <;> rfl)

/-- The cells of a queue are linked again without ECC_DROP (R181). -/
theorem onQ_eccDrop (s : State) (q : Fin 1024) (f : PoolQ → PoolQ) : (s.onQ q f).mpl.eccDrop = s.mpl.eccDrop :=
  foldl_inv (fun m : Mpl => m.eccDrop = s.mpl.eccDrop) _ _ _ rfl fun m _ h => (alloc_eccDrop _ m).trans h

theorem lostPacket_plain (s : State) {q : Fin 1024} (h : plainQ q) (p : Packet) : (lostPacket s q p).mpl = s.mpl := by
  unfold plainQ at h
  unfold lostPacket
  rw [if_neg (by omega), if_neg (by omega), dif_neg (by omega), dif_neg (by omega)]
  repeat' split
  all_goals rfl

theorem backlogNo_none {q : Nat} (h : 258 ≤ q) : backlogNo q = none := by
  unfold backlogNo
  rw [if_neg (by omega), if_neg (by omega)]

/-- One queue has lost packets, and no other one has changed. -/
def QueueLost (q : Fin 1024) (packets : List Packet) (s t : State) : Prop :=
  (t.poolQ q).packets = packets ∧ (t.poolQ q).staging = [] ∧ t.mpl.eccDrop = s.mpl.eccDrop ∧ ∀ k, k ≠ q → t.poolQ k = s.poolQ k

theorem onQ_dropOne (s : State) (q : Fin 1024) (hs : (s.poolQ q).staging = []) :
    QueueLost q (s.poolQ q).packets.tail s (s.onQ q PoolQ.dropOne) := by
  obtain ⟨dropped, staged⟩ := dropOne_packets _ hs
  refine ⟨?_, ?_, onQ_eccDrop .., fun k hk => ?_⟩
  · rw [onQ_poolQ, if_pos rfl, dropped, List.drop_one]
  · rw [onQ_poolQ, if_pos rfl, staged]
  · rw [onQ_poolQ, if_neg (Ne.symm hk)]

theorem QueueLost.congr {q : Fin 1024} {l : List Packet} {s t u : State} (h : QueueLost q l s t) (e : u.mpl = t.mpl) :
    QueueLost q l s u := by
  unfold QueueLost at *
  simp only [poolQ_congr e, e]
  exact h

theorem dropPacket_plain (s : State) {q : Fin 1024} (h : plainQ q) (hs : (s.poolQ q).staging = []) :
    QueueLost q (s.poolQ q).packets.tail s (dropPacket s q) := by
  unfold dropPacket
  rw [backlogNo_none (by unfold plainQ at h; omega)]
  dsimp only
  split
  · exact (onQ_dropOne s q hs).congr (lostPacket_plain _ h _)
  · rename_i none_
    exact ⟨by rw [none_]; rfl, hs, rfl, fun _ _ => rfl⟩

theorem repeat_dropPacket (s : State) {q : Fin 1024} (h : plainQ q) (hs : (s.poolQ q).staging = []) (n : Nat) :
    QueueLost q ((s.poolQ q).packets.drop n) s (Nat.repeat (fun s => dropPacket s q) n s) := by
  induction n with
  | zero => exact ⟨rfl, hs, rfl, fun _ _ => rfl⟩
  | succ n ih =>
    obtain ⟨left, staged, ecc, others⟩ := ih
    obtain ⟨left', staged', ecc', others'⟩ := dropPacket_plain _ h staged
    exact ⟨by rw [Nat.repeat, left', left, List.tail_drop], staged', ecc'.trans ecc, fun k hk => (others' k hk).trans (others k hk)⟩

theorem dropQueueAll_plain (s : State) {q : Fin 1024} (h : plainQ q) (hs : (s.poolQ q).staging = []) :
    QueueLost q [] s (dropQueueAll s q) := by
  have all := repeat_dropPacket s h hs (s.poolQ q).packets.length
  unfold dropQueueAll
  rw [backlogNo_none (by unfold plainQ at h; omega)]
  rwa [List.drop_length] at all

/-- The packets of a field-bus receive queue after the loss of data before them (R185). -/
def gapMarked : List Packet → List Packet
  | x :: l => { x with gap := true } :: l
  | [] => []

theorem markGap_marks (s : State) (p : Fin 12) (hs : (s.poolQ (portRxQ p)).staging = []) :
    QueueLost (portRxQ p) (gapMarked (s.poolQ (portRxQ p)).packets) s (markGap s p) := by
  unfold markGap
  split
  · rename_i x l full
    refine ⟨?_, ?_, onQ_eccDrop .., fun k hk => ?_⟩
    · rw [onQ_poolQ, if_pos rfl]; simp [full, gapMarked]
    · rw [onQ_poolQ, if_pos rfl]; exact hs
    · rw [onQ_poolQ, if_neg (Ne.symm hk)]
  · rename_i empty
    exact ⟨by rw [onPort_poolQ, empty]; rfl, by rw [onPort_poolQ]; exact hs, by rw [onPort_mpl], fun k _ => by rw [onPort_poolQ]⟩

theorem lostPacket_port (s : State) (p : Fin 12) (k : Packet) : lostPacket s (portRxQ p).val k = markGap s p := by
  change lostPacket s (264 + p.val) k = markGap s p
  unfold lostPacket
  rw [if_neg (by omega), if_neg (by omega), dif_pos (by omega)]
  exact congrArg (markGap s) (Fin.ext (Nat.add_sub_cancel_left ..))

theorem dropPacket_port (s : State) (p : Fin 12) (hs : (s.poolQ (portRxQ p)).staging = []) (full : (s.poolQ (portRxQ p)).packets ≠ []) :
    QueueLost (portRxQ p) (gapMarked (s.poolQ (portRxQ p)).packets.tail) s (dropPacket s (portRxQ p)) := by
  obtain ⟨left, staged, ecc, others⟩ := onQ_dropOne s (portRxQ p) hs
  obtain ⟨marked, staged', ecc', others'⟩ := markGap_marks _ p staged
  unfold dropPacket
  rw [backlogNo_none (by simp only [portRxQ]; omega)]
  dsimp only
  split
  · rw [lostPacket_port, ← left]
    exact ⟨marked, staged', ecc'.trans ecc, fun k hk => (others' k hk).trans (others k hk)⟩
  · exact absurd ‹_› full

/-! ### The instruction -/

/-- ECC_DROP is set (R181). -/
def eccDropped (s : State) : State := { s with mpl := { s.mpl with eccDrop := true } }

theorem execEccError_cell (s : State) (i : Nat) (run : s.clocksRun = true) :
    execEccError 1 i s = .next (tally (dropPacket (eccDropped s) (fin 1024 i)) 15 i) :=
  congrArg Host.Outcome.next (if_neg (by simp [run]))

theorem execEccError_link (s : State) (i : Nat) (run : s.clocksRun = true) :
    execEccError 2 i s = .next (tally (dropQueueAll (eccDropped s) (fin 1024 i)) 15 i) :=
  congrArg Host.Outcome.next (if_neg (by simp [run]))

/-- What the loss in a queue leaves after it is counted. -/
theorem QueueLost.tallied {q : Fin 1024} {l : List Packet} {s t : State} (h : QueueLost q l (eccDropped s) t) (i : Nat) :
    (tally t 15 i).mpl.eccDrop = true ∧ ((tally t 15 i).poolQ q).packets = l ∧
    ∀ k, k ≠ q → (tally t 15 i).poolQ k = s.poolQ k := by
  obtain ⟨left, -, ecc, others⟩ := h.congr (u := tally t 15 i) (by simp)
  exact ⟨ecc, left, others⟩

/-- Settles O47: the reset's own blocks leave the clocks at its start and the phase at its end, and the loss of a packet is followed
through its queue. -/
theorem resetsAndMemoryErrors : Obligations.ResetsAndMemoryErrors := by
  refine ⟨?start, ?ends, ?lasting, ?corrected, ?kept, ?drops, ?off, ?packet, ?port, ?queue⟩
  case start =>
    intro s run hands noSwitch
    have step : execServiceReset false s = .next (beginReset s) := by
      simp [execServiceReset, startReset, run, hands, noSwitch]
    obtain ⟨phase, stopped, source⟩ := beginReset_stops s
    exact ⟨_, step, phase, stopped, source⟩
  case ends =>
    intro s reset held
    have step : execServiceReset false s = .next (endReset s) := by
      simp [execServiceReset, reset, held]
    exact ⟨_, step, endReset_phase s⟩
  case lasting =>
    intro s reset held
    change execServiceReset false s = _
    simp [execServiceReset, reset, held]
  case corrected => exact fun s i run => congrArg Host.Outcome.next (if_neg (by simp [run]))
  case kept => exact fun s i run => congrArg Host.Outcome.next (if_neg (by simp [run]))
  case drops => exact fun s i run => ⟨execEccError_cell s i run, execEccError_link s i run⟩
  case off => exact fun s k i stopped => congrArg Host.Outcome.next (if_pos (by simp [stopped]))
  case packet =>
    intro s q run plain staged
    have lost := dropPacket_plain (eccDropped s) plain staged
    exact ⟨_, (execEccError_cell s q.val run).trans (by rw [fin_val]), lost.tallied q.val⟩
  case port =>
    intro s q run low high staged full
    obtain ⟨p, rfl⟩ : ∃ p : Fin 12, q = portRxQ p := ⟨⟨q.val - 264, by omega⟩, Fin.ext (by simp only [portRxQ]; omega)⟩
    have lost := dropPacket_port (eccDropped s) p staged full
    exact ⟨_, (execEccError_cell s (portRxQ p).val run).trans (by rw [fin_val]), lost.tallied (portRxQ p).val⟩
  case queue =>
    intro s q run plain staged
    have lost := dropQueueAll_plain (eccDropped s) plain staged
    exact ⟨_, (execEccError_link s q.val run).trans (by rw [fin_val]), lost.tallied q.val⟩

end Sys2Proof.Machine
end


section
/-! Completions, posted events and the ring-control commands (R131, R147, R152 to R154, R161, R168). -/

namespace Sys2Proof.Machine

/-- Settles O7: the completion is made on its ring, held for it, or waits for its events, and only the rings' own blocks are touched. -/
theorem completionIsMade : Obligations.CompletionIsMade :=
  fun _ _ st res inFlight => complete_completes inFlight st res

/-- Settles O8: an event that is not written is queued or folded, and neither touches another block. -/
theorem postedEventIsKept : Obligations.PostedEventIsKept :=
  fun s code o payload by_ family =>
    ⟨postEvent_eventsOnly s code o payload by_, fun active => postEvent_posted active family o payload by_⟩

/-! ### Ring-control commands (R168) -/

/-- No operation completes at once where nothing generated before it waits. -/
theorem effNoOperation_free {s : State} {c : Cmd} (later : ∀ e ∈ s.rng.backlog, s.rng.posted < e.ident) :
    effNoOperation c s = complete s c 0x00 := by
  have none_waits : ¬ (s.rng.backlog.any fun e => decide (e.ident < s.rng.posted + 1)) = true := by
    simp only [List.any_eq_true, decide_eq_true_eq, not_exists, not_and]
    intro e he
    have := later e he
    omega
  exact if_neg none_waits

/-- No operation waits for the events generated before it. -/
theorem effNoOperation_waits {s : State} {c : Cmd} (waits : ∃ e ∈ s.rng.backlog, e.ident ≤ s.rng.posted) :
    effNoOperation c s = s.onCmd c.ring c.index fun x => { x with phase := .done 0x00 0 (some (s.rng.posted + 1)) } := by
  obtain ⟨e, he, old⟩ := waits
  exact if_pos (List.any_eq_true.mpr ⟨e, he, decide_eq_true (Nat.lt_succ_of_le old)⟩)

theorem RingsOnly.eventsOnly {s t : State} (h : RingsOnly s t) : EventsOnly s t := by
  unfold RingsOnly at h
  unfold EventsOnly
  rw [h]

/-- Marker takes effect once nothing waits and every enabled EVT ring has room (log 20): the copies stand on those rings. -/
theorem effMarker_free {s : State} {c : Cmd} (inFlight : InFlight s c) (backlog : s.rng.backlog = []) (sums : s.rng.lostSums = [])
    (room : ∀ r ∈ evtRingsOn s, evtRoom s r = true) :
    EventsOnly s (effMarker c s) ∧ Done (effMarker c s) c 0x00 0 ∧
    ∀ r ∈ evtRingsOn s, ∃ e ∈ ((effMarker c s).ring r).evtUnacked,
      e.code = 0x0004 ∧ e.payload = p32 (c.p 0).toNat ∧ e.causeTag = c.tag := by
  obtain ⟨inFlight', only, -, copies⟩ := marker_fold c (evtRingsOn s) s inFlight
  unfold effMarker
  rw [if_pos (by simpa [backlog, sums] using room)]
  have made := complete_completes inFlight' 0x00 0
  refine ⟨eventsOnly_trans only made.2.eventsOnly, made.1, fun r on => ?_⟩
  rw [complete_ring_evt]
  exact copies r on

theorem effFlushTransmit_outlet {s : State} {c : Cmd} {o : Fin 128} (handle : s.ofHandle (fld (c.p 0) 0 16) = some o) :
    effFlushTransmit c s = complete (flushTx s o) c 0x00 := by
  unfold effFlushTransmit
  rw [handle]

/-- Settles O9: the copies of Marker and the frames of Flush transmit are followed through the lists they are made from. -/
theorem ringControlCommands : Obligations.RingControlCommands := by
  refine ⟨?free, ?waits, ?marker, ?flush⟩
  case free => exact fun s c ready later => ready_eq ready (effNoOperation_free later)
  case waits => exact fun s c ready waits => ready_eq ready (effNoOperation_waits waits)
  case marker =>
    intro s c ready backlog sums room
    have roomOn : ∀ r ∈ evtRingsOn s, evtRoom s r = true := by
      intro r hr
      obtain ⟨k, rfl, on⟩ := (mem_evtRingsOn s r).mp hr
      exact room k on
    obtain ⟨only, done, copies⟩ := effMarker_free ready.cmd backlog sums roomOn
    exact ⟨_, exec_ready ready, only, done, fun k on => copies _ ((mem_evtRingsOn s _).mpr ⟨k, rfl, on⟩)⟩
  case flush =>
    intro s c o ready handle staged
    obtain ⟨inFlight, emptied, others, -, done⟩ := flush_fold (txQ o) c _ s ready.cmd staged rfl
    refine ⟨_, ready_eq ready (effFlushTransmit_outlet handle), complete_done inFlight 0x00 0, ?_, fun q hq => ?_, ?_⟩
    · rw [complete_poolQ]
      exact emptied
    · rw [complete_poolQ]
      exact others q hq
    · exact fun p hp queued on active => complete_out _ _ _ _ _ (done p hp queued on active)

end Sys2Proof.Machine
end


section
/-! Register commands and accesses over the bus (R14, R128, R129, R168). -/

namespace Sys2Proof.Machine

theorem blockAnswers_served {s : State} (served : s.upd.recovery = false) (blk : Nat) : blockAnswers s blk = true := by
  simp [blockAnswers, served]

/-- A read that latches nothing gives the register's value and has no effect. -/
theorem busRead_plain {s : State} {off : Nat} (blk : off / 0x10000 ≤ 20) (snap : off ≠ 0x10010) (served : s.upd.recovery = false) :
    busRead s off = (readReg s off, s) := by
  have unlatched : latchRead s off = s := by
    unfold latchRead
    rw [if_neg snap, if_neg (by omega)]
  unfold busRead
  rw [if_pos (blockAnswers_served served _)]
  dsimp only
  rw [unlatched]

theorem effReadRegister_granted {s : State} {c : Cmd} {off : Nat} (reg : Cmd.regOff c = some off)
    (role : (readRoles (off / 0x10000)).contains (s.roleOf c) = true) :
    effReadRegister c s = complete (busRead s off).2 c 0x00 (busRead s off).1 := by
  unfold effReadRegister
  rw [reg]
  exact if_pos role

theorem effReadRegister_outside {s : State} {c : Cmd} (reg : Cmd.regOff c = none) : effReadRegister c s = complete s c 0x02 := by
  unfold effReadRegister
  rw [reg]

theorem effWriteRegister_granted {s : State} {c : Cmd} {off : Nat} (reg : Cmd.regOff c = some off)
    (role : writeRoles.contains (s.roleOf c) = true) : effWriteRegister c s = complete (writeReg s off (c.p 1)) c 0x00 := by
  unfold effWriteRegister
  rw [reg]
  exact if_pos role

theorem effWriteRegister_refused {s : State} {c : Cmd} {off : Nat} (reg : Cmd.regOff c = some off)
    (role : writeRoles.contains (s.roleOf c) = false) : effWriteRegister c s = complete (recordRefusal s c) c 0x03 := by
  unfold effWriteRegister
  rw [reg]
  exact if_neg (by rw [role]; exact Bool.false_ne_true)

theorem effWriteRegister_outside {s : State} {c : Cmd} (reg : Cmd.regOff c = none) : effWriteRegister c s = complete s c 0x02 := by
  unfold effWriteRegister
  rw [reg]

/-- Beyond the last block an aligned offset is reserved as well (R128). -/
theorem writeReg_reserved (s : State) {off : Nat} (v : BitVec 32) (beyond : 0x170000 ≤ off) : writeReg s off v = s := by
  obtain ⟨k, blk⟩ : ∃ k, off / 0x10000 = k + 23 := ⟨off / 0x10000 - 23, by omega⟩
  unfold writeReg
  simp only [blk]
  exact ite_self s

theorem exec_registerWrite {s : State} (reaches : HostReaches s) (off : Nat) (v : BitVec 32) :
    exec (.registerWrite 0 off v) s = .next (writeReg s off v) ∧ exec (.registerWrite 1 off v) s = .next (writeBar2 s off v) ∧
    exec (.registerWrite 2 off v) s = .next (writeBar4 s off v) ∧ exec (.registerWrite 3 off v) s = .next (writeConfig s off v) := by
  refine ⟨?_, ?_, ?_, ?_⟩
  all_goals exact congrArg Host.Outcome.next (viaHost_reaches reaches _)

theorem exec_barAccessUnaligned {s : State} (reaches : HostReaches s) (bar : Fin 3) (off size : Nat) (wr : Bool) :
    exec (.barAccessUnaligned bar off size wr) s = .next (if bar.val ≤ 1 ∧ (size ≠ 4 ∨ off % 4 ≠ 0)
      then { s with rng := { s.rng with aerUr := true } }.send .unsupported else s) :=
  congrArg Host.Outcome.next (viaHost_reaches reaches _)

/-- Settles O10: each access is its block's own write or read, and the refused ones leave the state to the completion alone. -/
theorem registerAccesses : Obligations.RegisterAccesses := by
  refine ⟨?read, ?plain, ?write, ?readOutside, ?writeOutside, ?refused, ?bus, ?reserved, ?ramp, ?status, ?unaligned, ?bar4⟩
  case read => exact fun s c off ready reg role => ready_eq ready (effReadRegister_granted reg role)
  case plain => exact fun s off blk snap served => busRead_plain blk snap served
  case write =>
    intro s c off ready reg role
    refine ready_eq ready (effWriteRegister_granted reg ?_)
    obtain role | role := role <;> rw [role] <;> rfl
  case readOutside => exact fun s c ready reg => ready_eq ready (effReadRegister_outside reg)
  case writeOutside => exact fun s c ready reg => ready_eq ready (effWriteRegister_outside reg)
  case refused =>
    intro s c off ready reg role
    refine ready_eq ready (effWriteRegister_refused reg ?_)
    rw [role]
    rfl
  case bus => exact fun s off v reaches => exec_registerWrite reaches off v
  case reserved => exact fun s off v beyond => writeReg_reserved s v beyond
  case ramp =>
    intro s v served
    exact if_neg (by simp [blockAnswers_served served])
  case status =>
    intro s v
    exact if_neg (by simp [blockAnswers])
  case unaligned =>
    intro s bar off size wr reaches low bad
    rw [exec_barAccessUnaligned reaches, if_pos ⟨low, bad⟩]
  case bar4 =>
    intro s off size wr reaches
    rw [exec_barAccessUnaligned reaches, if_neg (by simp)]

end Sys2Proof.Machine
end


section
/-! Doorbells, and rings that are enabled and disabled (R130, R131, R137, R138, R546, R618). -/

namespace Sys2Proof.Machine

/-! ### Ring errors (R138, R618) -/

theorem Posted.of_posted {s u t : State} {code : Nat} {o : Option (Fin 128)} {p : List Byte} (h : Posted u t code o p)
    (e : u.rng.posted = s.rng.posted) : Posted s t code o p := by
  unfold Posted
  rw [← e]
  exact h

/-- A flag of RNG_INT_STATUS posts nothing. -/
theorem rngInt_posted (s : State) {f : Rng → Rng} (kept : (f s.rng).posted = s.rng.posted) :
    (rngInt s f).rng.posted = s.rng.posted := by
  obtain ⟨m, h⟩ := sendMsix_flags { s with rng := f s.rng } s.rng.errVector
  exact (congrArg Rng.posted h).trans kept

theorem reportRingError_posted {s : State} (active : s.tie.role ≠ .standby) (r : Fin 57) (cause : Nat) :
    Posted s (reportRingError s r cause) 0x0003 none (p8 r.val ++ p8 cause) := by
  unfold reportRingError postDev
  dsimp only
  refine (postEvent_posted ?_ (by decide) _ _ _).of_posted ?_
  · simpa using active
  · exact rngInt_posted _ rfl

theorem ringError_posted {s : State} (active : s.tie.role ≠ .standby) (r : Fin 57) (cause : Nat) :
    Posted s (ringError s r cause) 0x0003 none (p8 r.val ++ p8 cause) := by
  have same := ringDown_same s r
  refine (reportRingError_posted (s := ringDown s r) ?_ r cause).of_posted ?_
  · rw [same]
    exact active
  · rw [same]

/-! ### Doorbell values (R137, R138) -/

/-- The latest value written to a doorbell is kept (R137). -/
def rung (s : State) (r : Fin 57) (v : BitVec 32) : State := s.onRing r fun x => { x with doorbell := v }

theorem rung_ring (s : State) (r : Fin 57) (v : BitVec 32) : (rung s r v).ring r = { s.ring r with doorbell := v } := onRing_ring _ _ _

/-- A doorbell of an enabled ring that the device works is judged by its value. -/
theorem doorbell_judged {s : State} {r : Fin 57} {v : BitVec 32} (alone : mirroring s = false) (works : shadowed s r = false)
    (on : (s.ring r).en = true) : doorbell s r v = (doorbellError (s.ring r) (ringKind r) v).elim
      (acknowledge (rung s r v) r v) fun cause => ringError (rung s r v) r cause := by
  have alone' : mirroring (rung s r v) = false := alone
  have works' : shadowed (rung s r v) r = false := works
  have judged : doorbellError ((rung s r v).ring r) (ringKind r) v = doorbellError (s.ring r) (ringKind r) v := by
    rw [rung_ring]
    rfl
  unfold doorbell
  extract_lets u w x
  have u_eq : u = rung s r v := rfl
  have w_eq : w = rung s r v := if_neg (by rw [u_eq, alone']; exact Bool.false_ne_true)
  have x_eq : x = (rung s r v).ring r := congrArg (State.ring · r) w_eq
  rw [x_eq, w_eq, judged, if_neg (by simp [works']), if_neg (by simp [rung_ring, on])]
  cases doorbellError (s.ring r) (ringKind r) v <;> rfl

theorem doorbellError_none {x : Ring} {k : RingKind} {v : BitVec 32} (order : v = x.hostIdx ∨ later v x.hostIdx = true)
    (fits : x.occupancy k v ≤ x.size) : doorbellError x k v = none := by
  unfold doorbellError
  rw [if_neg, if_neg (Nat.not_lt.mpr fits)]
  obtain rfl | ahead := order
  · exact fun h => h.1 rfl
  · simp [ahead]

theorem doorbellError_backwards {x : Ring} {k : RingKind} {v : BitVec 32} (moved : v ≠ x.hostIdx)
    (behind : later v x.hostIdx = false) : doorbellError x k v = some 2 :=
  if_pos ⟨moved, by simp [behind]⟩

theorem doorbellError_overrun {x : Ring} {k : RingKind} {v : BitVec 32} (order : v = x.hostIdx ∨ later v x.hostIdx = true)
    (beyond : x.size < x.occupancy k v) : doorbellError x k v = some 1 := by
  unfold doorbellError
  rw [if_neg, if_pos beyond]
  obtain rfl | ahead := order
  · exact fun h => h.1 rfl
  · simp [ahead]

theorem exec_doorbellWrite {s : State} (reaches : HostReaches s) (r : Fin 57) (v : BitVec 32) :
    exec (.doorbellWrite r v) s = .next (doorbell s r v) := congrArg Host.Outcome.next (viaHost_reaches reaches _)

/-- A doorbell value that is refused (R138): EN is cleared, the cause stands in the ring, and the event is posted. -/
theorem doorbell_refused {s : State} {r : Fin 57} {v : BitVec 32} {cause : Nat} (alone : mirroring s = false)
    (works : shadowed s r = false) (on : (s.ring r).en = true) (bad : doorbellError (s.ring r) (ringKind r) v = some cause) :
    ((doorbell s r v).ring r).en = false ∧ ((doorbell s r v).ring r).err = true ∧
    ((doorbell s r v).ring r).errCause = BitVec.ofNat 3 cause ∧ ((doorbell s r v).ring r).hostIdx = (s.ring r).hostIdx ∧
    (doorbell s r v).rng.ringErr = true ∧
    (s.tie.role ≠ .standby → Posted s (doorbell s r v) 0x0003 none (p8 r.val ++ p8 cause)) := by
  rw [doorbell_judged alone works on, bad]
  obtain ⟨off, err, stat, host, -, int⟩ := ringError_ring (rung s r v) r cause
  rw [rung_ring] at host
  exact ⟨off, err, stat, host, int, fun active => ringError_posted (s := rung s r v) active r cause⟩

/-- Settles O11: a value is taken by `acknowledge`, and each error of a doorbell is reported by `ringError`. -/
theorem doorbellWrites : Obligations.DoorbellWrites := by
  refine ⟨?taken, ?quiet, ?backwards, ?overrun⟩
  case taken =>
    intro s r v reaches alone works on order fits
    rw [exec_doorbellWrite reaches, doorbell_judged alone works on, doorbellError_none order fits]
    change Host.Outcome.next (openRing ((s.onRing r _).onRing r _) r) = _
    rw [onRing_onRing]
  case quiet => exact fun s r restart debug cpl evt => openRing_quiet restart debug cpl evt
  case backwards =>
    exact fun s r v reaches alone works on moved behind =>
      ⟨_, exec_doorbellWrite reaches r v, doorbell_refused alone works on (doorbellError_backwards moved behind)⟩
  case overrun =>
    exact fun s r v reaches alone works on order beyond =>
      ⟨_, exec_doorbellWrite reaches r v, doorbell_refused alone works on (doorbellError_overrun order beyond)⟩

/-! ### RNG_CTL (R131, R169, R618) -/

theorem bit_or_one (v : BitVec 32) : bit (v ||| 1) 0 = true := by simp [bit]

/-- Setting bit 0 leaves the fields above it. -/
theorem fld_or_one (v : BitVec 32) {lo : Nat} (above : 1 ≤ lo) (n : Nat) : fld (v ||| 1) lo n = fld v lo n := by
  have shifted : (v ||| 1).toNat / 2 ^ lo = v.toNat / 2 ^ lo := by
    rw [BitVec.toNat_or, ← Nat.shiftRight_eq_div_pow, ← Nat.shiftRight_eq_div_pow, Nat.shiftRight_or_distrib]
    have one : BitVec.toNat (1 : BitVec 32) >>> lo = 0 := by
      rw [Nat.shiftRight_eq_div_pow]
      exact Nat.div_eq_of_lt (Nat.one_lt_two_pow (by omega))
    rw [one, Nat.or_zero]
  unfold fld
  rw [shifted]

theorem exec_ringEnable {s : State} (reaches : HostReaches s) (r : Fin 57) (v : BitVec 32) :
    exec (.ringEnable r v) s = .next (writeRngCtl s r (v ||| 1)) := congrArg Host.Outcome.next (viaHost_reaches reaches _)

theorem writeRngCtl_up {s : State} {r : Fin 57} {v : BitVec 32} (served : s.upd.recovery = false) (off : (s.ring r).en = false)
    (obeys : enableError (ctlFields s r (v ||| 1)) r = none) :
    writeRngCtl s r (v ||| 1) = ringUp (ctlFields s r (v ||| 1)) r := by
  have served' : (ctlFields s r (v ||| 1)).upd.recovery = false := served
  unfold writeRngCtl
  dsimp only
  rw [bit_or_one, Bool.not_true, if_neg Bool.false_ne_true, served', Bool.and_false, Bool.false_and, if_neg Bool.false_ne_true, obeys]
  exact if_neg (by simp [off])

theorem writeRngCtl_again {s : State} {r : Fin 57} {v : BitVec 32} (on : (s.ring r).en = true)
    (obeys : enableError (ctlFields s r (v ||| 1)) r = none) : writeRngCtl s r (v ||| 1) = ctlFields s r (v ||| 1) := by
  unfold writeRngCtl
  dsimp only
  rw [bit_or_one, Bool.not_true, if_neg Bool.false_ne_true, if_neg (by simp [on]), obeys]
  exact if_pos on

theorem writeRngCtl_refused {s : State} {r : Fin 57} {v : BitVec 32} {cause : Nat} (served : s.upd.recovery = false)
    (off : (s.ring r).en = false) (breaks : enableError (ctlFields s r (v ||| 1)) r = some cause) :
    writeRngCtl s r (v ||| 1) = reportRingError (ctlFields s r (v ||| 1)) r cause := by
  have served' : (ctlFields s r (v ||| 1)).upd.recovery = false := served
  unfold writeRngCtl
  dsimp only
  rw [bit_or_one, Bool.not_true, if_neg Bool.false_ne_true, served', Bool.and_false, Bool.false_and, if_neg Bool.false_ne_true, breaks]
  dsimp only
  rw [if_neg (by simp [off])]

/-- What the fields of RNG_CTL leave of a ring, and what they make of it. -/
theorem ctlFields_ring (s : State) (r : Fin 57) (v : BitVec 32) :
    ((ctlFields s r (v ||| 1)).ring r).sizeCode.toNat = fld v 1 4 ∧
    ((ctlFields s r (v ||| 1)).ring r).role = BitVec.ofNat 3 (fld v 5 3) ∧
    ((ctlFields s r (v ||| 1)).ring r).en = (s.ring r).en := by
  unfold ctlFields
  rw [onRing_ring, fld_or_one v (by decide), fld_or_one v (by decide)]
  exact ⟨Nat.mod_eq_of_lt (fld_lt v 1 4), rfl, rfl⟩

/-- The fields of RNG_CTL leave what a ring owes. -/
theorem ctlFields_held (s : State) (r : Fin 57) (v : BitVec 32) :
    ((ctlFields s r v).ring r).restartDue = (s.ring r).restartDue ∧ ((ctlFields s r v).ring r).debugDue = (s.ring r).debugDue ∧
    ((ctlFields s r v).ring r).cplUnacked = (s.ring r).cplUnacked ∧ ((ctlFields s r v).ring r).cplHeld = (s.ring r).cplHeld := by
  unfold ctlFields
  rw [onRing_ring]
  exact ⟨rfl, rfl, rfl, rfl⟩

theorem enableError_size {s : State} {r : Fin 57} (large : 10 < (s.ring r).sizeCode.toNat) : enableError s r = some 7 := if_pos large

/-! ### What an enabled ring owes (R131) -/

/-- A ring that owes neither of its first events writes what it holds back. -/
theorem openRing_replays {s : State} {r : Fin 57} (on : (s.ring r).en = true) (works : canWrite s r = true)
    (restart : (s.ring r).restartDue = none) (debug : (s.ring r).debugDue = false) : openRing s r = replayRing s r := by
  have restarted : restartEvent s r = s := by
    unfold restartEvent
    rw [restart]
  have debugged : debugEvent s r = s := by
    unfold debugEvent
    rw [debug]
    exact if_neg Bool.false_ne_true
  unfold openRing
  rw [if_pos (by simp [on, works]), restarted, debugged]

theorem ringKind_cpl {r : Fin 57} (cpl : ringKind r = .cpl) : 16 ≤ r.val ∧ r.val < 32 := by
  unfold ringKind at cpl
  split_ifs at cpl
  omega

/-- A CPL ring with room for all that it holds writes it, in order (R131, R147). -/
theorem replayRing_cpl {s : State} {r : Fin 57} (cpl : ringKind r = .cpl)
    (room : (s.ring r).cplHeld.length ≤ (s.ring r).size - (s.ring r).used) :
    ((replayRing s r).ring r).en = (s.ring r).en ∧ ((replayRing s r).ring r).hostIdx = (s.ring r).hostIdx ∧
    ((replayRing s r).ring r).devIdx = (s.ring r).devIdx + BitVec.ofNat 32 (s.ring r).cplHeld.length ∧
    ((replayRing s r).ring r).cplUnacked = (s.ring r).cplUnacked ++ (s.ring r).cplHeld.map (sentCpl s) ∧
    ((replayRing s r).ring r).cplHeld = [] := by
  unfold replayRing
  extract_lets x n
  have all : x.cplHeld.take n = x.cplHeld := List.take_of_length_le room
  rw [if_pos (ringKind_cpl cpl), all]
  obtain ⟨sent, dev, en, host, held⟩ :=
    replay_fold r x.cplHeld (s.onRing r fun y => { y with cplHeld := y.cplHeld.drop n })
  rw [onRing_ring] at sent dev en host held
  exact ⟨en, host, dev, sent, held.trans (List.drop_of_length_le room)⟩

/-- A ring whose EN has been set: its indices are 0 (R131). -/
def ringOn (s : State) (r : Fin 57) : State := s.onRing r fun x => { x with en := true, hostIdx := 0, devIdx := 0, unsignalled := 0 }

theorem ringOn_ring (s : State) (r : Fin 57) :
    (ringOn s r).ring r = { s.ring r with en := true, hostIdx := 0, devIdx := 0, unsignalled := 0 } := onRing_ring _ _ _

/-- A CPL ring that is enabled writes what it held back (R131, R147). -/
theorem ringUp_cpl {s : State} {r : Fin 57} (cpl : ringKind r = .cpl) (works : canWrite s r = true)
    (restart : (s.ring r).restartDue = none) (debug : (s.ring r).debugDue = false) (unacked : (s.ring r).cplUnacked = [])
    (room : (s.ring r).cplHeld.length ≤ (s.ring r).size) :
    ((ringUp s r).ring r).en = true ∧ ((ringUp s r).ring r).hostIdx = 0 ∧
    ((ringUp s r).ring r).devIdx = BitVec.ofNat 32 (s.ring r).cplHeld.length ∧
    ((ringUp s r).ring r).cplUnacked = (s.ring r).cplHeld.map (sentCpl s) ∧ ((ringUp s r).ring r).cplHeld = [] := by
  have replays : ringUp s r = replayRing (ringOn s r) r :=
    openRing_replays (s := ringOn s r) (by rw [ringOn_ring]) works (by rw [ringOn_ring]; exact restart) (by rw [ringOn_ring]; exact debug)
  obtain ⟨en, host, dev, sent, held⟩ := replayRing_cpl (s := ringOn s r) cpl
    (by rw [ringOn_ring]; simpa [Ring.used, Ring.size] using room)
  rw [ringOn_ring] at en host dev sent
  rw [replays]
  refine ⟨en, host, dev.trans (BitVec.zero_add _), sent.trans ?_, held⟩
  dsimp only
  rw [unacked]
  rfl

/-! ### Rings that are disabled (R130, R131) -/

theorem exec_ringDisable {s : State} (reaches : HostReaches s) (r : Fin 57) :
    exec (.ringDisable r) s = .next (ringDown s r) := congrArg Host.Outcome.next (viaHost_reaches reaches _)

theorem ringDown_mpl {s : State} {r : Fin 57} (kind : ringKind r ≠ .ftx) : (ringDown s r).mpl = s.mpl := by
  unfold ringDown
  rw [(orphanFtx_same _ r).2 kind]
  rfl

/-- Every ring is down after link loss, and one that was down before is as it was (R130). -/
theorem allRingsDown_rings (s : State) : (∃ rings mpl, allRingsDown s = { s with rings := rings, mpl := mpl }) ∧
    (∀ r, ((allRingsDown s).ring r).en = false) ∧ ∀ r, (s.ring r).en = false → (allRingsDown s).ring r = s.ring r := by
  obtain ⟨same, off, kept⟩ := ringDown_fold (List.finRange 57) s
  exact ⟨⟨_, _, same⟩, fun r => off r (List.mem_finRange r), kept⟩

theorem linkLoss_ring (s : State) (cause : Nat) (r : Fin 57) : (linkLoss s cause).ring r = (allRingsDown s).ring r := by
  unfold linkLoss
  generalize allRingsDown s = down
  dsimp only
  split <;> rfl

/-- Of the blocks besides the rings, link loss changes the endpoint and, at PERST#, what the pin is taken for (R125, R130). -/
theorem linkLoss_frame (s : State) (cause : Nat) : linkLoss s cause = { s with
    rings := (linkLoss s cause).rings, mpl := (linkLoss s cause).mpl, glb := { s.glb with perst := (linkLoss s cause).glb.perst }
    rng := { s.rng with
      linkUp := (linkLoss s cause).rng.linkUp, d3hot := (linkLoss s cause).rng.d3hot, mps := (linkLoss s cause).rng.mps
      mrrs := (linkLoss s cause).rng.mrrs, aerUr := (linkLoss s cause).rng.aerUr, msixEn := (linkLoss s cause).rng.msixEn
      msixFuncMask := (linkLoss s cause).rng.msixFuncMask, msixTable := (linkLoss s cause).rng.msixTable
      msixMasked := (linkLoss s cause).rng.msixMasked, msixPending := (linkLoss s cause).rng.msixPending } } := by
  obtain ⟨⟨rings, mpl, down⟩, -, -⟩ := allRingsDown_rings s
  unfold linkLoss
  dsimp only
  rw [down]
  split <;> rfl

/-- Link loss that is no reset of the endpoint leaves the endpoint's settings (R130). -/
theorem linkLoss_rng {s : State} {cause : Nat} (noReset : ¬ (cause = 0 ∨ cause = 2)) :
    (linkLoss s cause).rng = { s.rng with linkUp := false, d3hot := (linkLoss s cause).rng.d3hot } := by
  obtain ⟨⟨rings, mpl, down⟩, -, -⟩ := allRingsDown_rings s
  unfold linkLoss
  dsimp only
  rw [down, if_neg noReset]

/-- Settles O12: an enabled ring is followed through its replay, a ring error through its report, and link loss through the rings. -/
theorem ringsUpAndDown : Obligations.RingsUpAndDown := by
  refine ⟨?up, ?replays, ?again, ?large, ?down, ?link⟩
  case up =>
    intro s r v reaches served off obeys
    rw [exec_ringEnable reaches, writeRngCtl_up served off obeys]
    rfl
  case replays =>
    intro s r v reaches served handing works cpl off restart debug unacked room obeys
    refine ⟨_, (exec_ringEnable reaches r v).trans (congrArg _ (writeRngCtl_up served off obeys)), ?_⟩
    have works' : canWrite (ctlFields s r (v ||| 1)) r = true := by
      change canWrite s r = true
      simp [canWrite, reaches.running, reaches.link, handing, works]
    obtain ⟨size, -, -⟩ := ctlFields_ring s r v
    obtain ⟨restart', debug', unacked', held'⟩ := ctlFields_held s r (v ||| 1)
    rw [← held']
    refine ringUp_cpl cpl works' (restart'.trans restart) (debug'.trans debug) (unacked'.trans unacked) ?_
    rw [held', Ring.size, size]
    exact room
  case again => exact fun s r v reaches on obeys => by rw [exec_ringEnable reaches, writeRngCtl_again on obeys]
  case large =>
    intro s r v reaches served off large
    obtain ⟨size, role, en⟩ := ctlFields_ring s r v
    have breaks : enableError (ctlFields s r (v ||| 1)) r = some 7 := enableError_size (by omega)
    obtain ⟨en', err, stat, -, role', int⟩ := reportRingError_ring (ctlFields s r (v ||| 1)) r 7
    exact ⟨_, (exec_ringEnable reaches r v).trans (congrArg _ (writeRngCtl_refused served off breaks)),
      en'.trans (en.trans off), err, stat, role'.trans role, int⟩
  case down =>
    intro s r reaches
    refine ⟨_, exec_ringDisable reaches r, ?_, fun k hk => ?_, ringDown_same s r, ringDown_mpl⟩
    · rw [ringDown_ring, if_pos rfl]
    · rw [ringDown_ring, if_neg (Ne.symm hk)]
  case link =>
    intro s k
    obtain ⟨-, off, kept⟩ := allRingsDown_rings s
    refine ⟨linkLoss s k.val, rfl, fun r => ?_, rfl, ?_, fun r down => ?_, linkLoss_frame s k.val, ?_⟩
    · rw [linkLoss_ring]
      exact off r
    · rintro rfl
      simp [linkLoss]
    · rw [linkLoss_ring]
      exact kept r down
    · rintro (rfl | rfl) <;> exact linkLoss_rng (by decide)

end Sys2Proof.Machine
end


section
/-! Commands that are fetched, and commands at their marks (R75, R131, R141 to R148, R167). -/

namespace Sys2Proof.Machine

/-! ### The fetch (R139, R141, R517) -/

/-- The next descriptor of a CMD ring as a command (R144). -/
def nextCmd (s : State) (r : Fin 16) (d : List Word) (data : List Byte) : Cmd := parseCmd r (s.ring (cmdRing r)).cmdNo d data

theorem mirrorCmd_same (s : State) (c : Cmd) :
    mirrorCmd s c = { s with out := (mirrorCmd s c).out } ∧ ∀ x ∈ s.out, x ∈ (mirrorCmd s c).out := by
  unfold mirrorCmd
  split
  · exact ⟨rfl, fun _ h => send_out h⟩
  · exact ⟨rfl, fun _ h => h⟩

theorem mirrorDone_same (s : State) (c : Cmd) (st : BitVec 8) (v : BitVec 32) :
    mirrorDone s c st v = { s with out := (mirrorDone s c st v).out } := by
  unfold mirrorDone
  split <;> rfl

theorem fetchStatus_fetched (s : State) (r : Fin 16) (d : List Word) (data : List Byte) :
    fetchStatus (fetched s r) (nextCmd s r d data) = fetchStatus s (nextCmd s r d data) :=
  fetchStatus_congr _ ((fetch_fields s r).1 _) (fetched_same s r)

theorem fetchable_running {s : State} {r : Fin 16} (fetch : fetchable s r = true) : requestsOn s = true := by
  simp only [fetchable, Bool.and_eq_true, beq_iff_eq] at fetch
  simp [requestsOn, fetch]

/-- A command that no check refuses is put in flight, and mirrored (R517). -/
theorem exec_commandFetch_taken {s : State} {r : Fin 16} {d : List Word} {data : List Byte} (fetch : fetchable s r = true)
    (pass : fetchStatus s (nextCmd s r d data) = none) : exec (.commandFetch r d data) s =
      .next (mirrorCmd (putInFlight (fetched s r) (nextCmd s r d data)) (nextCmd s r d data)) := by
  rw [← fetchStatus_fetched, fetched, nextCmd] at pass
  refine (next_if fetch _ _).trans (congrArg _ ?_)
  unfold fetchCommand
  dsimp only
  rw [pass]
  rfl

/-- The state in which a refused command's completion is written: the refusals of a role and of a mark are recorded (R143, R148). -/
def refusedAt (s : State) (r : Fin 16) (c : Cmd) (st : BitVec 8) : State :=
  let u := mirrorDone (mirrorCmd (fetched s r) c) c st 0
  if st = 0x03 then recordRefusal u c else if st = 0x05 then refuseMark u .sequencer else u

theorem exec_commandFetch_refused {s : State} {r : Fin 16} {d : List Word} {data : List Byte} {st : BitVec 8}
    (fetch : fetchable s r = true) (bad : fetchStatus s (nextCmd s r d data) = some st) : exec (.commandFetch r d data) s =
      .next (writeCpl (refusedAt s r (nextCmd s r d data) st) ⟨nextCmd s r d data, .ready, false, none, false, none⟩ st 0) := by
  rw [← fetchStatus_fetched, fetched, nextCmd] at bad
  refine (next_if fetch _ _).trans (congrArg _ ?_)
  unfold fetchCommand
  dsimp only
  rw [bad]
  rfl

/-! ### In flight (R145) -/

/-- The state in which a fetched command has its record, and the mark it waits for where it waits for one. -/
def withCmd (s : State) (x : CmdRec) (marks : List Mark) : State :=
  { s with rng := { s.rng with cmds := s.rng.cmds ++ [x] }, tim := { s.tim with marks := s.tim.marks ++ marks } }

theorem putInFlight_due {s : State} {c : Cmd} (now : c.atMark = 0) :
    putInFlight s c = withCmd s ⟨c, .ready, false, none, false, s.cmdOutlet c⟩ [] := by
  simp [putInFlight, now, withCmd]

theorem putInFlight_late {s : State} {c : Cmd} (marked : c.atMark ≠ 0) (past : c.atMark < s.tim.mains) :
    putInFlight s c = withCmd s ⟨c, .ready, true, none, false, s.cmdOutlet c⟩ [] := by
  simp [putInFlight, marked, withCmd, State.reached, past.le]

theorem putInFlight_waits {s : State} {c : Cmd} (marked : c.atMark ≠ 0) (ahead : s.tim.mains < c.atMark)
    (free : s.tim.marks.length < 1536) : putInFlight s c = withCmd s ⟨c, .waitMark, false, none, false, s.cmdOutlet c⟩
      [⟨.sequencer, c.atMark, false, c.ring.val + 16 * c.index.toNat, false⟩] := by
  simp [putInFlight, marked, withCmd, State.setMark, State.markFree, State.reached, ahead, free]

/-- The record of a command stands among those in flight, its ring has moved on, and a slot of the CPL ring is reserved (R131, R141). -/
theorem mirrorCmd_withCmd (s : State) (r : Fin 16) (x : CmdRec) (marks : List Mark) :
    let t := mirrorCmd (withCmd (fetched s r) x marks) x.cmd
    t.rng = { s.rng with cmds := s.rng.cmds ++ [x] } ∧ t.tim = { s.tim with marks := s.tim.marks ++ marks } ∧
    (t.ring (cmdRing r)).devIdx = (s.ring (cmdRing r)).devIdx + 1 ∧
    (t.ring (cplRing r)).reserved = (s.ring (cplRing r)).reserved + 1 ∧ ∀ y ∈ (fetched s r).out, y ∈ t.out := by
  obtain ⟨-, dev, slot, -⟩ := fetch_fields s r
  obtain ⟨same, sent⟩ := mirrorCmd_same (withCmd (fetched s r) x marks) x.cmd
  refine ⟨?_, ?_, ?_, ?_, sent⟩
  · rw [same, fetched_same]
    rfl
  · rw [same, fetched_same]
    rfl
  · rw [same]
    exact dev
  · rw [same]
    exact slot

/-- What the fetch of a command gives that no check refuses, by the record it is put in flight with. -/
theorem commandFetch_taken {s : State} {r : Fin 16} {d : List Word} {data : List Byte} {phase : CmdPhase} {late : Bool} {marks : List Mark}
    (fetch : fetchable s r = true) (pass : fetchStatus s (nextCmd s r d data) = none)
    (flight : putInFlight (fetched s r) (nextCmd s r d data) =
      withCmd (fetched s r) ⟨nextCmd s r d data, phase, late, none, false, (fetched s r).cmdOutlet (nextCmd s r d data)⟩ marks) :
    ∃ t, exec (.commandFetch r d data) s = .next t ∧
      t.rng = { s.rng with cmds := s.rng.cmds ++
        [⟨nextCmd s r d data, phase, late, none, false, s.cmdOutlet (nextCmd s r d data)⟩] } ∧
      t.tim = { s.tim with marks := s.tim.marks ++ marks } ∧
      (t.ring (cmdRing r)).devIdx = (s.ring (cmdRing r)).devIdx + 1 ∧
      (t.ring (cplRing r)).reserved = (s.ring (cplRing r)).reserved + 1 ∧
      Out.host (s.ring (cmdRing r)).wb (leBytes 4 ((s.ring (cmdRing r)).devIdx + 1).toNat) ∈ t.out := by
  obtain ⟨-, -, -, written⟩ := fetch_fields s r
  have outlet : (fetched s r).cmdOutlet (nextCmd s r d data) = s.cmdOutlet (nextCmd s r d data) :=
    cmdOutlet_congr _ (by rw [fetched_same])
  obtain ⟨rng, tim, dev, slot, sent⟩ := mirrorCmd_withCmd s r
    ⟨nextCmd s r d data, phase, late, none, false, s.cmdOutlet (nextCmd s r d data)⟩ marks
  rw [outlet] at flight
  exact ⟨_, (exec_commandFetch_taken fetch pass).trans (congrArg (fun u => Host.Outcome.next (mirrorCmd u _)) flight),
    rng, tim, dev, slot, sent _ (written (fetchable_running fetch))⟩

/-! ### Refusals (R143, R148, R167) -/

theorem RingsOnly.trans {s t u : State} (h : RingsOnly s t) (k : RingsOnly t u) : RingsOnly s u := by
  unfold RingsOnly at *
  rw [k, h]

/-- An opcode without a row is refused before every other check (log 9). -/
theorem fetchStatus_unknown {s : State} {c : Cmd} (served : s.upd.recovery = false)
    (unknown : opTable c.opcode.toNat c.params = none) : fetchStatus s c = some 0x01 := by
  unfold fetchStatus
  rw [if_neg (by simp [served]), unknown]

theorem nextCmd_opcode (s : State) (r : Fin 16) (d : List Word) (data : List Byte) :
    (nextCmd s r d data).opcode.toNat = fld (wAt d 0) 0 16 := Nat.mod_eq_of_lt (fld_lt _ _ _)

/-- A command refused with a status that is not recorded changes the rings only, and its ring has moved on. -/
theorem refusedAt_plain {s : State} {r : Fin 16} {c : Cmd} {st : BitVec 8} (role : st ≠ 0x03) (mark : st ≠ 0x05) :
    RingsOnly s (refusedAt s r c st) ∧
    ((refusedAt s r c st).ring (cmdRing r)).devIdx = (s.ring (cmdRing r)).devIdx + 1 := by
  obtain ⟨-, dev, -, -⟩ := fetch_fields s r
  unfold refusedAt
  dsimp only
  rw [if_neg role, if_neg mark, mirrorDone_same, (mirrorCmd_same _ _).1]
  refine ⟨?_, dev⟩
  rw [fetched_same]
  rfl

/-! ### Marks of commands (R75, R145) -/

/-- A command whose mark fires may take effect, and its mark is gone (R145). -/
theorem fireCmdMark_fires {s : State} {r : Fin 16} {index : BitVec 32} {x : CmdRec} (waiting : s.cmdRec r index = some x)
    (waits : x.phase = .waitMark) : ∃ late, fireCmdMark s r index =
      ((s.toMains x.cmd.atMark).dropMark .sequencer (r.val + 16 * index.toNat)).onCmd r index
        fun y => { y with phase := .ready, late := late } := by
  unfold fireCmdMark
  rw [waiting]
  dsimp only
  rw [if_pos waits]
  exact ⟨_, rfl⟩

/-- The mark of a command leaves the events that wait. -/
theorem fireCmdMark_backlog {s : State} {r : Fin 16} {index : BitVec 32} {x : CmdRec} (waiting : s.cmdRec r index = some x)
    (waits : x.phase = .waitMark) : (fireCmdMark s r index).rng.backlog = s.rng.backlog ∧
      (fireCmdMark s r index).rng.posted = s.rng.posted := by
  obtain ⟨late, fires⟩ := fireCmdMark_fires waiting waits
  rw [fires, toMains_frame]
  exact ⟨rfl, rfl⟩

theorem fireCmdMark_cmdRec {s : State} {r : Fin 16} {index : BitVec 32} {x : CmdRec} (waiting : s.cmdRec r index = some x)
    (waits : x.phase = .waitMark) : ∃ late, (fireCmdMark s r index).cmdRec r index = some { x with phase := .ready, late := late } := by
  obtain ⟨late, fires⟩ := fireCmdMark_fires waiting waits
  have changed := onCmd_cmdRec ((s.toMains x.cmd.atMark).dropMark .sequencer (r.val + 16 * index.toNat)) r index
    (fun y => { y with phase := .ready, late := late }) fun _ => rfl
  refine ⟨late, ?_⟩
  rw [fires, changed, toMains_frame]
  exact congrArg (Option.map _) waiting

theorem fireCmdMark_marks {s : State} {r : Fin 16} {index : BitVec 32} {x : CmdRec} (waiting : s.cmdRec r index = some x)
    (waits : x.phase = .waitMark) : ∀ m ∈ (fireCmdMark s r index).tim.marks,
      ¬ (m.owner = .sequencer ∧ m.ref = r.val + 16 * index.toNat) := by
  obtain ⟨late, fires⟩ := fireCmdMark_fires waiting waits
  rw [fires]
  intro m hm
  obtain ⟨-, other⟩ := List.mem_filter.mp hm
  rintro ⟨owner, ref⟩
  simp [owner, ref] at other

/-- At its mark, where no other pending mark comes before it, a command takes effect as its row does (R75, R145). -/
theorem commandAtMark_row {s : State} {r : Fin 16} {index : BitVec 32} {x : CmdRec} {op : Nat} (waiting : s.cmdRec r index = some x)
    (waits : x.phase = .waitMark) (run : s.clocksRun = true)
    (first : ∀ m ∈ pendingMarks s, ∀ k ∈ pendingMarks s, k.2 = .command r index → markBefore m k = false)
    (row : x.cmd.opcode.toNat = op) :
    exec (.commandAtMark r index) s = .next (cmdStep [op] (effOf op) x.cmd (fireCmdMark s r index)) := by
  subst row
  exact commandAtMark_eq waiting waits run first

/-- Settles O13: a fetched command is followed to its record or its refusal, and a mark to the command that waits for it. -/
theorem commandsAreFetched : Obligations.CommandsAreFetched := by
  refine ⟨?due, ?ahead, ?late, ?refused, ?unknown, ?fires, ?ready⟩
  case due =>
    intro s r d data fetch now pass
    obtain ⟨t, ran, rng, -, dev, slot, written⟩ := commandFetch_taken fetch pass (putInFlight_due now)
    exact ⟨t, ran, rng, dev, slot, written⟩
  case ahead =>
    intro s r d data fetch marked ahead free pass
    obtain ⟨t, ran, rng, tim, dev, -, -⟩ := commandFetch_taken fetch pass
      (putInFlight_waits marked (by rw [fetched_same]; exact ahead) (by rw [fetched_same]; exact free))
    exact ⟨t, ran, rng, tim, dev⟩
  case late =>
    intro s r d data fetch marked past pass
    obtain ⟨t, ran, rng, tim, dev, -, -⟩ := commandFetch_taken fetch pass
      (putInFlight_late marked (by rw [fetched_same]; exact past))
    exact ⟨t, ran, rng, tim.trans (by rw [List.append_nil]), dev⟩
  case refused => exact fun s r d data st fetch bad => ⟨_, exec_commandFetch_refused fetch bad, writeCpl_done _ _ _ _⟩
  case unknown =>
    intro s r d data fetch served unknown
    have bad : fetchStatus s (nextCmd s r d data) = some 0x01 :=
      fetchStatus_unknown served (by rw [nextCmd_opcode]; exact unknown)
    obtain ⟨only, dev⟩ := refusedAt_plain (s := s) (r := r) (c := nextCmd s r d data) (st := 0x01) (by decide) (by decide)
    refine ⟨_, exec_commandFetch_refused fetch bad, ?_, writeCpl_done _ _ _ _, only.trans (writeCpl_ringsOnly _ _ _ _)⟩
    rw [writeCpl_other _ _ _ _ _ (cpl_ne_cmd r)]
    exact dev
  case fires =>
    intro s r index x waiting waits run first
    have row := fun op => commandAtMark_row (op := op) waiting waits run first
    refine ⟨row _ rfl, fun none_ => row 0 (by rw [none_]; rfl), fun signal => row 0x100 (by rw [signal]; rfl), fun ready free => ?_⟩
    obtain ⟨backlog, posted⟩ := fireCmdMark_backlog waiting waits
    refine (row 0 ready.1).trans (ready_eq ready (effNoOperation_free ?_))
    rw [backlog, posted]
    exact free
  case ready => exact fun s r index x waiting waits => ⟨fireCmdMark_cmdRec waiting waits, fireCmdMark_marks waiting waits⟩

end Sys2Proof.Machine
end


section
/-! What waits is written: the backlog drains, and moderation ends (R153, R158). -/

namespace Sys2Proof.Machine

/-! ### The backlog (R153) -/

/-- Where no ring owes anything, opening the rings changes nothing (R131, R133, R548). -/
theorem openRings_quiet {s : State} (quiet : ∀ k, (s.ring k).restartDue = none ∧ (s.ring k).debugDue = false ∧
    (s.ring k).cplHeld = [] ∧ (s.ring k).evtHeld = []) (l : List (Fin 57)) : forAll l openRing s = s := by
  refine foldl_inv (fun t => t = s) l openRing s rfl fun t k same => ?_
  obtain ⟨restart, debug, cpl, evt⟩ := quiet k
  rw [same]
  exact openRing_quiet restart debug cpl evt

theorem writeSummary_nothing {s : State} (sums : s.rng.lostSums = []) (scope : Option (Fin 128)) : writeSummary s scope = s := by
  unfold writeSummary
  rw [sums]
  rfl

theorem flushDone_nothing {s : State} (cmds : s.rng.cmds = []) : flushDone s = s := by
  unfold flushDone
  rw [cmds]
  rfl

/-- One event that waits alone is written where its ring has room (R153). -/
theorem drainGo_single {s : State} {e : Event} {r : Fin 57} (backlog : s.rng.backlog = []) (sums : s.rng.lostSums = [])
    (target : evtTarget s e.code = some r) (room : evtRoom s r = true) : drainGo [e] s = writeEvt s r e := by
  have same : { s with rng := { s.rng with lostSums := s.rng.lostSums.map fun x =>
      if x.outlet = e.outlet then { x with after := x.after - 1 } else x } } = s := by
    rw [sums, List.map_nil, ← sums]
  unfold drainGo
  rw [writeSummary_nothing sums]
  dsimp only
  rw [target]
  dsimp only
  rw [if_pos ⟨room, by simp [backlog, sums]⟩, same]
  rfl

/-- The state in which what waits is being written: the backlog is taken out (R153). -/
def draining (s : State) : State := { s with rng := { s.rng with backlog := [] } }

theorem drainAll_single {s : State} {e : Event} {r : Fin 57} (on : writingOn s = true) (backlog : s.rng.backlog = [e])
    (sums : s.rng.lostSums = []) (cmds : s.rng.cmds = [])
    (quiet : ∀ k, (s.ring k).restartDue = none ∧ (s.ring k).debugDue = false ∧ (s.ring k).cplHeld = [] ∧ (s.ring k).evtHeld = [])
    (target : evtTarget s e.code = some r) (room : evtRoom s r = true) :
    drainAll s = judgeBacklog (writeEvt (draining s) r e) := by
  obtain ⟨sums', -, -⟩ := writeEvt_lost (draining s) r e
  have written : drainGo s.rng.backlog (draining s) = writeEvt (draining s) r e := by
    rw [backlog]
    exact drainGo_single rfl sums target room
  unfold drainAll
  dsimp only
  rw [openRings_quiet quiet, if_pos on]
  change flushDone (judgeBacklog ((drainGo s.rng.backlog (draining s)).rng.lostSums.foldl _ (drainGo s.rng.backlog (draining s)))) = _
  rw [written, sums']
  change flushDone (judgeBacklog (s.rng.lostSums.foldl _ _)) = _
  rw [sums]
  exact flushDone_nothing (writeEvt_cmds_nil _ _ _ cmds)

/-! ### Moderation (R158) -/

theorem exec_moderationTimeout {s : State} {r : Fin 57} (on : (s.ring r).en = true) (owed : (s.ring r).unsignalled ≠ 0) :
    exec (.moderationTimeout r) s =
      .next (signalRing (s.toTick ((s.ring r).firstUnsigAt + max 1 (s.ring r).modTime.toNat * usNs)) r true) :=
  next_if (by simp [on, owed]) _ _

/-- Settles O14: the one event that waits goes through its ring, and the end of moderation signals the ring at once. -/
theorem waitingEntriesAreSent : Obligations.WaitingEntriesAreSent := by
  refine ⟨?drain, ?moderation⟩
  case drain =>
    intro s e r on backlog sums cmds quiet target room
    have drained := drainAll_single on backlog sums cmds quiet target room
    obtain ⟨-, backlog', gseq⟩ := writeEvt_lost (draining s) r e
    obtain ⟨e', he, ident, code, outlet, payload, -⟩ := writeEvt_unacked (draining s) r e
    exact ⟨_, congrArg Host.Outcome.next drained, backlog', EventsOnly_of (by simp [draining]), gseq,
      e', he, ident, code, outlet, payload⟩
  case moderation =>
    intro s r on owed requests msix
    refine ⟨_, exec_moderationTimeout on owed, ?_⟩
    have reached := toTick_reaches s ((s.ring r).firstUnsigAt + max 1 (s.ring r).modTime.toNat * usNs)
    have frame := toTick_frame s ((s.ring r).firstUnsigAt + max 1 (s.ring r).modTime.toNat * usNs)
    generalize s.toTick ((s.ring r).firstUnsigAt + max 1 (s.ring r).modTime.toNat * usNs) = u at *
    have rings : u.ring r = s.ring r := by rw [frame]; rfl
    have rng : u.rng = s.rng := by rw [frame]
    have requests' : requestsOn u = true := by rw [requestsOn_congr (s := s) (by rw [frame]) (by rw [rng])]; exact requests
    obtain ⟨signalled, tim, message, pending⟩ := signalRing_now u r requests' (by rw [rng]; exact msix)
    rw [rng, rings] at message pending
    refine ⟨signalled, by rw [tim]; exact reached, fun unmasked free => ?_, pending⟩
    have sent := message unmasked free
    rwa [msixOf, rng] at sent

end Sys2Proof.Machine
end


section
/-! Vehicle frames between the FTX and FRX rings and a station (R155 to R157, R168, R179, R314). -/

namespace Sys2Proof.Machine

theorem writingOn_requests {s : State} (on : writingOn s = true) : requestsOn s = true := by
  simp only [writingOn, Bool.and_eq_true, beq_iff_eq] at on
  simp [requestsOn, on]

theorem writingOn_works {s : State} (on : writingOn s = true) (r : Fin 57) : shadowed s r = false := by
  simp only [writingOn, Bool.and_eq_true, bne_iff_ne, ne_eq] at on
  simp [shadowed, on]

/-! ### FTX descriptors (R155) -/

theorem parseFtx_handle (d : List Word) : (parseFtx d).handle.toNat = fld (wAt d 0) 0 16 := Nat.mod_eq_of_lt (fld_lt _ _ _)

theorem mirrorRing_kept (s : State) (r : Fin 57) : (mirrorRing s r).rings = s.rings ∧ (mirrorRing s r).mpl = s.mpl := by
  rw [(mirrorRing_frame s r).1]
  exact ⟨rfl, rfl⟩

/-- The device has taken an FTX descriptor: the consumer index advances, is written back, and is mirrored (R139, R155, R517). -/
def ftxTaken (s : State) (k : Fin 57) : State :=
  mirrorRing (writeBack (s.onRing k fun x => { x with devIdx := x.devIdx + 1 }) k) k

theorem ftxTaken_kept (s : State) (k : Fin 57) : ((ftxTaken s k).ring k).devIdx = (s.ring k).devIdx + 1 ∧
    (ftxTaken s k).mpl = s.mpl ∧ ∀ x ∈ s.out, x ∈ (ftxTaken s k).out := by
  unfold ftxTaken
  refine ⟨?_, ?_, fun x hx => (mirrorRing_frame _ k).2 x (writeBack_out _ _ x hx)⟩
  · rw [ring_congr (mirrorRing_kept _ _).1, writeBack_ring, onRing_ring]
  · rw [(mirrorRing_kept _ _).2]
    simp

theorem ftxSignal_kept (s : State) (ring : Nat) (irq : Bool) :
    (ftxSignal s ring irq).rings = s.rings ∧ (ftxSignal s ring irq).mpl = s.mpl := by simp

/-- A frame as it is queued from an FTX descriptor (R155). -/
def ftxFrame (d : FtxDesc) (bytes : List Byte) (k : Fin 57) (index : BitVec 32) : Packet :=
  { Packet.plain (bytes.take d.length) 0 with tag := d.tag, ring := k.val, index := index, irq := d.irq }

/-- The frame of an FTX descriptor stands in the transmit queue of its outlet, and the standby knows of it (R155, R165). -/
def ftxQueued (s : State) (k : Fin 57) (o : Fin 128) (p : Packet) : State :=
  mirrorFtx (s.onQ (txQ o) (·.link p)) k.val (s.ring k).devIdx o.val 1

theorem ftxQueued_kept (s : State) (k : Fin 57) (o : Fin 128) (p : Packet) : (ftxQueued s k o p).rings = s.rings ∧
    ∀ q, (ftxQueued s k o p).poolQ q = if txQ o = q then (s.poolQ q).link p else s.poolQ q := by
  refine ⟨by simp [ftxQueued], fun q => ?_⟩
  have mpl : (ftxQueued s k o p).mpl = (s.onQ (txQ o) (·.link p)).mpl := by simp [ftxQueued]
  rw [poolQ_congr mpl, onQ_poolQ]

theorem fetchFtx_queued {s : State} {k : Fin 57} {d : FtxDesc} {o : Fin 128} (bytes : List Byte) (pass : ftxRefusal s d = none)
    (handle : s.ofHandle d.handle.toNat = some o) (released : (s.poolQ (txQ o)).paused = false) : fetchFtx s k d bytes =
      ftxTaken (ftxQueued s k o (ftxFrame d bytes k (s.ring k).devIdx)) k := by
  unfold fetchFtx
  rw [pass, handle]
  dsimp only
  rw [released]
  rfl

theorem fetchFtx_turned {s : State} {k : Fin 57} {d : FtxDesc} {st : BitVec 8} (bytes : List Byte)
    (refused : ftxRefusal s d = some st) :
    fetchFtx s k d bytes = ftxSignal (ftxTaken (ftxWord7 s k.val (s.ring k).devIdx st) k) k.val d.irq := by
  unfold fetchFtx
  rw [refused]
  rfl

theorem ftxRefusal_none {s : State} {d : FtxDesc} {o : Fin 128} (long : 60 ≤ d.length) (short : d.length ≤ 1514)
    (handle : s.ofHandle d.handle.toNat = some o) (assoc : (s.sta o).assoc = true) (up : stationUp s o = true) :
    ftxRefusal s d = none := by
  unfold ftxRefusal
  rw [if_neg (by omega), handle]
  simp [assoc, up]

/-! ### FRX buffers (R156) -/

theorem writeEntry_sent {s : State} (on : requestsOn s = true) (r : Fin 57) (index : BitVec 32) (w : Nat) (l : List Word) :
    Out.host (entryAddr (s.ring r) r index w) (wordBytes l) ∈ (s.writeEntry r index w l).out := hostWrite_sent _ _ on

/-- A received frame that fills a buffer: its payload, its words and DONE are written (R126, R156). -/
theorem fillFrx_sent {s : State} (on : requestsOn s = true) (r : Fin 57) (buf : FrxBuf) (handle : Nat) (p : Packet) :
    Out.payload buf.addr (p.bytes.take buf.size) ∈ (fillFrx s r buf handle p).out ∧
    Out.host (entryAddr (s.ring r) r (s.ring r).devIdx 6) (wordBytes [word p.mains 0, word p.mains 1]) ∈
      (fillFrx s r buf handle p).out ∧
    Out.host (entryAddr (s.ring r) r (s.ring r).devIdx 0) (wordBytes [pack [(0, handle), (16, p.bytes.length)],
      pack [(0, 1), (1, (s.ring r).phase (s.ring r).devIdx), (8, b2n (decide (buf.size < p.bytes.length)))]]) ∈
      (fillFrx s r buf handle p).out := by
  unfold fillFrx
  dsimp only
  rw [if_pos on]
  have on_u : requestsOn (s.send (.payload buf.addr (p.bytes.take buf.size))) = true := on
  have ring_u : (s.send (.payload buf.addr (p.bytes.take buf.size))).ring r = s.ring r := rfl
  have first : Out.payload buf.addr (p.bytes.take buf.size) ∈ (s.send (.payload buf.addr (p.bytes.take buf.size))).out :=
    List.mem_cons_self
  generalize s.send (.payload buf.addr (p.bytes.take buf.size)) = u at on_u ring_u first
  have on_v (l : List Word) : requestsOn (u.writeEntry r (s.ring r).devIdx 6 l) = true :=
    (requestsOn_congr (by simp) (by simp)).trans on_u
  refine ⟨hostWrite_out _ _ (hostWrite_out _ _ first), hostWrite_out _ _ ?_, ?_⟩
  · have sent := writeEntry_sent on_u r (s.ring r).devIdx 6 [word p.mains 0, word p.mains 1]
    rwa [ring_u] at sent
  · have sent := writeEntry_sent (on_v [word p.mains 0, word p.mains 1]) r (s.ring r).devIdx 0
      [pack [(0, handle), (16, p.bytes.length)],
       pack [(0, 1), (1, (s.ring r).phase (s.ring r).devIdx), (8, b2n (decide (buf.size < p.bytes.length)))]]
    rwa [writeEntry_ring, ring_u] at sent

theorem fillFrx_kept (s : State) (r : Fin 57) (buf : FrxBuf) (handle : Nat) (p : Packet) :
    (fillFrx s r buf handle p).rings = s.rings ∧ (fillFrx s r buf handle p).mpl = s.mpl := by
  unfold fillFrx
  dsimp only
  split <;> simp [State.send]

/-- After an entry of an FRX ring is filled, it is counted and signalled, and the index is mirrored (R139, R157, R158, R517). -/
def frxFilled (s : State) (r : Fin 57) (o : Fin 128) : State := mirrorRing (afterEntry (frxLeft s o) r false) r

theorem frxFilled_kept (s : State) (r : Fin 57) (o : Fin 128) : ((frxFilled s r o).ring r).devIdx = (s.ring r).devIdx + 1 ∧
    (frxFilled s r o).mpl = s.mpl ∧ ∀ x ∈ s.out, x ∈ (frxFilled s r o).out := by
  unfold frxFilled
  refine ⟨?_, ?_, fun x hx => (mirrorRing_frame _ r).2 x (afterEntry_out _ _ _ x hx)⟩
  · rw [ring_congr (mirrorRing_kept _ _).1, afterEntry_devIdx]
    rfl
  · rw [(mirrorRing_kept _ _).2]
    simp [frxLeft]

/-- A received frame has left its queue: taken whole, or cut with its remainder dropped (R156, R179). -/
def frxTook (s : State) (o : Fin 128) (buf : FrxBuf) (p : Packet) : State :=
  s.onQ (rxQ o) (if buf.size < p.bytes.length then PoolQ.dropOne else PoolQ.take)

theorem frxTook_queue (s : State) (o : Fin 128) (buf : FrxBuf) (p : Packet) : (frxTook s o buf p).poolQ (rxQ o) =
    if buf.size < p.bytes.length then (s.poolQ (rxQ o)).dropOne else (s.poolQ (rxQ o)).take := by
  unfold frxTook
  rw [onQ_poolQ, if_pos rfl]
  split <;> rfl

theorem exec_frxFill {s : State} {o : Fin 128} {d : List Word} {p : Packet} {rest : List Packet} {r : Fin 57} (ring : frxRing s o = r)
    (queued : (s.poolQ (rxQ o)).packets = p :: rest) (on : writingOn s = true) (en : (s.ring r).en = true)
    (buffer : (s.ring r).hostIdx ≠ (s.ring r).devIdx) : exec (.frxFill o d) s =
      .next (frxFilled (fillFrx (frxTook s o (parseFrx d) p) r (parseFrx d) (s.handle o) p) r o) := by
  subst ring
  change execFrxFill o d s = _
  unfold execFrxFill
  rw [queued]
  exact if_pos (by simp [on, en, buffer])

/-! ### The station (R314) -/

/-- The station has accepted the oldest queued frame (R314). -/
def ftxAccepted (s : State) (o : Fin 128) (p : Packet) : State :=
  (s.onQ (txQ o) PoolQ.take).onSta o fun x => { x with inStation := x.inStation ++ [p] }

theorem exec_ftxDone_accepted {s : State} {o : Fin 128} {p : Packet} {rest : List Packet} (queued : (s.poolQ (txQ o)).packets = p :: rest)
    (run : s.glb.phase = .running) (assoc : (s.sta o).assoc = true) (up : stationUp s o = true) (idle : (s.sta o).inStation = []) :
    exec (.ftxDone o) s = .next (ftxDone (ftxAccepted s o p) p.ring p.index 0 p.irq) := by
  change execFtxDone o s = _
  unfold execFtxDone
  rw [queued]
  simp [run, assoc, up, stationSend_empty s o idle, ftxAccepted]

theorem exec_ftxDone_discarded {s : State} {o : Fin 128} {p : Packet} {rest : List Packet} (queued : (s.poolQ (txQ o)).packets = p :: rest)
    (run : s.glb.phase = .running) (apart : (s.sta o).assoc = false) :
    exec (.ftxDone o) s = .next (ftxDone (s.onQ (txQ o) PoolQ.take) p.ring p.index 1 p.irq) := by
  change execFtxDone o s = _
  unfold execFtxDone
  rw [queued]
  simp [run, apart, stationSend_idle s o apart]

/-- DONE of a frame leaves the stations and the queues as they are. -/
theorem ftxDone_kept (s : State) (ring : Nat) (index : BitVec 32) (st : BitVec 8) (irq : Bool) (o : Fin 128) (q : Fin 1024) :
    (ftxDone s ring index st irq).sta o = s.sta o ∧ (ftxDone s ring index st irq).poolQ q = s.poolQ q :=
  ⟨by unfold State.sta; simp, poolQ_congr (by simp) q⟩

/-- DONE of a frame is written where the rings stand as they did before the frame left its queue (R155). -/
theorem ftxDone_written {s u : State} (glb : u.glb = s.glb) (rng : u.rng = s.rng) (tie : u.tie = s.tie) (rings : u.rings = s.rings)
    (p : Packet) (st : BitVec 8) : p.ring ≠ 0 → requestsOn s = true → shadowed s (fin 57 p.ring) = false →
      doneWrite s (fin 57 p.ring) p.index st.toNat ∈ (ftxDone u p.ring p.index st p.irq).out := by
  intro queued on works
  have written := (ftxDone_out u p.ring p.index st p.irq).1 queued ((requestsOn_congr glb (congrArg Rng.linkUp rng)).trans on)
    ((shadowed_congr tie _).trans works)
  rwa [doneWrite, ring_congr rings] at written

/-- A station has dropped the oldest frame it had accepted (R314). -/
def droppedOne (s : State) (o : Fin 128) : State :=
  { s.onSta o fun x => { x with txDrop := x.txDrop + 1, inStation := x.inStation.drop 1 } with plc := { s.plc with frameDrop := true } }

theorem exec_stationTxDrop {s : State} {o : Fin 128} {p : Packet} {rest : List Packet} (accepted : (s.sta o).inStation = p :: rest)
    (run : s.glb.phase = .running) : exec (.stationTxDrop o) s = .next (framesLost (droppedOne s o) o 0 1) :=
  next_if (by simp [run, accepted]) _ _

theorem framesLost_flag (s : State) (o : Fin 128) (dir n : Nat) : (framesLost s o dir n).rng.framesLost = true := by
  obtain ⟨-, posted, -⟩ := postEvent_rngSame (rngInt s fun g => { g with framesLost := true }) 0x0005 none
    (p16 (s.handle o) ++ p8 dir ++ p32 n) none
  obtain ⟨-, flag, -⟩ := sendMsix_rngSame { s with rng := { s.rng with framesLost := true } } s.rng.errVector
  exact posted.trans flag

/-- Settles O15: each frame is followed from its descriptor through its queue to the station, and back to its buffer. -/
theorem vehicleFramesMove : Obligations.VehicleFramesMove := by
  refine ⟨?queued, ?turned, ?filled, ?accepted, ?discarded, ?dropped⟩
  case queued =>
    intro s r d bytes o k hk on en waits long short handle assoc up released
    rw [← parseFtx_handle] at handle
    obtain ⟨rings, queue⟩ := ftxQueued_kept s k o (ftxFrame (parseFtx d) bytes k (s.ring k).devIdx)
    obtain ⟨dev, mpl, -⟩ := ftxTaken_kept (ftxQueued s k o (ftxFrame (parseFtx d) bytes k (s.ring k).devIdx)) k
    have pass := ftxRefusal_none (d := parseFtx d) long short handle assoc up
    refine ⟨_, (ftxFetch_eq hk d bytes s (by simp [on, en, waits])).trans (congrArg _ (fetchFtx_queued bytes pass handle released)),
      ?_, ⟨ftxFrame (parseFtx d) bytes k (s.ring k).devIdx, ?_, rfl, rfl, rfl, rfl, rfl⟩, fun q hq => ?_⟩
    · rw [dev, ring_congr rings]
    · rw [poolQ_congr mpl, queue, if_pos rfl]
    · rw [poolQ_congr mpl, queue, if_neg (Ne.symm hq)]
  case turned =>
    intro s r d bytes k hk on en waits bad
    have refused : ftxRefusal s (parseFtx d) = some 2 := if_pos bad
    obtain ⟨dev, mpl, kept⟩ := ftxTaken_kept (ftxWord7 s k.val (s.ring k).devIdx 2) k
    have word7 := ftxWord7_same s k.val (s.ring k).devIdx 2
    have sent := ftxWord7_sent (s := s) (r := k.val) (i := (s.ring k).devIdx) (st := 2) (by omega) (writingOn_requests on)
      (writingOn_works on _)
    refine ⟨_, (ftxFetch_eq hk d bytes s (by simp [on, en, waits])).trans (congrArg _ (fetchFtx_turned bytes refused)), ?_, ?_, ?_⟩
    · rw [ring_congr (ftxSignal_kept _ _ _).1, dev, word7.1]
      rfl
    · rw [fin_val] at sent
      exact ftxSignal_out _ _ _ _ (kept _ sent)
    · rw [(ftxSignal_kept _ _ _).2, mpl, word7.1]
  case filled =>
    intro s o d p rest r ring queued on en buffer
    have requests : requestsOn (frxTook s o (parseFrx d) p) = true := writingOn_requests on
    have ring' : (frxTook s o (parseFrx d) p).ring r = s.ring r := ring_congr rfl r
    obtain ⟨payload, mains, done⟩ := fillFrx_sent requests r (parseFrx d) (s.handle o) p
    obtain ⟨rings, mpl⟩ := fillFrx_kept (frxTook s o (parseFrx d) p) r (parseFrx d) (s.handle o) p
    obtain ⟨dev, mpl', kept⟩ := frxFilled_kept (fillFrx (frxTook s o (parseFrx d) p) r (parseFrx d) (s.handle o) p) r o
    rw [ring'] at mains done
    refine ⟨_, exec_frxFill ring queued on en buffer, ?_, ?_, kept _ payload, kept _ mains, kept _ done⟩
    · rw [dev, ring_congr rings, ring']
    · rw [poolQ_congr mpl', poolQ_congr mpl]
      exact frxTook_queue s o (parseFrx d) p
  case accepted =>
    intro s o p rest queued run assoc up idle
    refine ⟨_, exec_ftxDone_accepted queued run assoc up idle, ?_, ?_, ftxDone_written (u := ftxAccepted s o p) rfl rfl rfl rfl p 0⟩
    · rw [(ftxDone_kept _ _ _ _ _ o (txQ o)).1, ftxAccepted, onSta_sta]
      exact congrArg (· ++ [p]) idle
    · rw [(ftxDone_kept _ _ _ _ _ o (txQ o)).2]
      exact (onQ_poolQ s _ _ _).trans (if_pos rfl)
  case discarded =>
    intro s o p rest queued run apart
    refine ⟨_, exec_ftxDone_discarded queued run apart, ?_, ?_, ftxDone_written (u := s.onQ (txQ o) PoolQ.take) rfl rfl rfl rfl p 1⟩
    · rw [(ftxDone_kept _ _ _ _ _ o (txQ o)).1]
      rfl
    · rw [(ftxDone_kept _ _ _ _ _ o (txQ o)).2]
      exact (onQ_poolQ s _ _ _).trans (if_pos rfl)
  case dropped =>
    intro s o p rest accepted run
    have station : (framesLost (droppedOne s o) o 0 1).sta o =
        { s.sta o with txDrop := (s.sta o).txDrop + 1, inStation := (s.sta o).inStation.drop 1 } := by
      have stas : (framesLost (droppedOne s o) o 0 1).stas = (droppedOne s o).stas := by simp
      unfold State.sta
      rw [stas]
      exact onSta_sta s o _
    refine ⟨_, exec_stationTxDrop accepted run, ?_, ?_, ?_, framesLost_flag _ _ _ _⟩
    · rw [station, accepted]
      rfl
    · rw [station]
    · have plc : (framesLost (droppedOne s o) o 0 1).plc = (droppedOne s o).plc := by simp
      rw [plc]
      rfl

end Sys2Proof.Machine
end


section
/-! The field-bus port commands: Read, Transmit and Abort port (R173, R183 to R187). -/

namespace Sys2Proof.Machine

theorem complete_port (s : State) (c : Cmd) (st : BitVec 8) (v : BitVec 32) (p : Fin 12) : (complete s c st v).port p = s.port p :=
  port_congr (by simp) (by simp) p

/-! ### Read (R185, R186) -/

/-- A Read stands outstanding at its port (R185). -/
def readQueued (s : State) (c : Cmd) (p : Fin 12) : State :=
  (started s c).onPort p fun x => { x with reads := x.reads ++ [⟨c, fld (c.p 3) 0 16, BitVec.ofNat 64 (c.p2 1)⟩] }

theorem readQueued_poolQ (s : State) (c : Cmd) (p : Fin 12) (q : Fin 1024) : (readQueued s c p).poolQ q = s.poolQ q :=
  onPort_poolQ (started s c) p _ q

theorem readQueued_reads (s : State) (c : Cmd) (p : Fin 12) :
    ((readQueued s c p).port p).reads = (s.port p).reads ++ [⟨c, fld (c.p 3) 0 16, BitVec.ofNat 64 (c.p2 1)⟩] := by
  unfold readQueued
  rw [onPort_port, if_pos rfl]
  rfl

theorem readQueued_inFlight {s : State} {c : Cmd} (h : InFlight s c) (p : Fin 12) : InFlight (readQueued s c p) c :=
  inFlight_same (started_inFlight h) (congrArg Rng.cmds (onPort_rng ..))

theorem readQueued_requestsOn (s : State) (c : Cmd) (p : Fin 12) : requestsOn (readQueued s c p) = requestsOn s :=
  (requestsOn_congr (s := started s c) (onPort_glb ..) (congrArg Rng.linkUp (onPort_rng ..))).trans rfl

theorem effRead_noPort {s : State} {c : Cmd} (noPort : Cmd.portNo c = none) : effRead c s = complete s c 0x02 := by
  unfold effRead
  rw [noPort]

theorem effRead_badSize {s : State} {c : Cmd} (bad : fld (c.p 3) 0 16 < 16 ∨ 4096 < fld (c.p 3) 0 16) :
    effRead c s = complete s c 0x02 := by
  unfold effRead
  split
  · rfl
  · exact if_pos bad

theorem effRead_port {s : State} {c : Cmd} {p : Fin 12} (port : Cmd.portNo c = some p) (large : 16 ≤ fld (c.p 3) 0 16)
    (small : fld (c.p 3) 0 16 ≤ 4096) : effRead c s =
      if 8 ≤ (s.port p).reads.length then complete s c 0x0A else serve (readQueued s c p) p := by
  unfold effRead
  rw [port]
  exact if_neg (by omega)

theorem serveReads_nothing {s : State} {p : Fin 12} (empty : (s.poolQ (portRxQ p)).packets = []) (l : List FbRead) :
    serveReads p l s = s := by
  cases l with
  | nil => rfl
  | cons r rest =>
    unfold serveReads
    rw [empty]

/-- The oldest Read of a port has taken the packet `k` into its buffer (R185). -/
def readTaken (s : State) (p : Fin 12) (r : FbRead) (k : Packet) : State :=
  ((s.onPort p fun x => { x with reads := x.reads.drop 1 }).onQ (portRxQ p)
    (if decide (r.size < k.bytes.length) then PoolQ.dropOne else PoolQ.take)).hostWrite r.addr (k.bytes.take r.size)

theorem readTaken_inFlight {s : State} {c : Cmd} (h : InFlight s c) (p : Fin 12) (r : FbRead) (k : Packet) :
    InFlight (readTaken s p r k) c := by
  unfold readTaken
  refine hostWrite_inFlight (inFlight_same h ?_) _ _
  exact congrArg Rng.cmds (onPort_rng s p _)

theorem readTaken_sent {s : State} (on : requestsOn s = true) (p : Fin 12) (r : FbRead) (k : Packet) :
    Out.host r.addr (k.bytes.take r.size) ∈ (readTaken s p r k).out := by
  refine hostWrite_sent _ _ ?_
  rw [← on]
  exact requestsOn_congr (onPort_glb s p _) (congrArg Rng.linkUp (onPort_rng s p _))

theorem serveReads_single {s : State} {p : Fin 12} {k : Packet} {l : List Packet} (packets : (s.poolQ (portRxQ p)).packets = k :: l)
    (r : FbRead) : serveReads p [r] s = complete (readTaken s p r k) r.cmd 0x00
      (readResult (min r.size k.bytes.length) (decide (r.size < k.bytes.length)) k.gap) := by
  unfold serveReads
  rw [packets]
  rfl

/-! ### Transmit (R173, R184) -/

/-- A Transmit stands queued on its port, its packet in the transmit queue (R171, R184). -/
def txQueued (s : State) (c : Cmd) (p : Fin 12) : State :=
  ((started s c).onQ (portTxQ p) (·.link (Packet.plain (c.data.take (fld (c.p 3) 0 16)) 0))).onPort p fun x =>
    { x with txs := x.txs ++ [⟨c, c.data.take (fld (c.p 3) 0 16), 0, false, none⟩] }

theorem txQueued_txs (s : State) (c : Cmd) (p : Fin 12) :
    ((txQueued s c p).port p).txs = (s.port p).txs ++ [⟨c, c.data.take (fld (c.p 3) 0 16), 0, false, none⟩] := by
  unfold txQueued
  rw [onPort_port, if_pos rfl]
  rfl

theorem effTransmit_noPort {s : State} {c : Cmd} (noPort : Cmd.portNo c = none) : effTransmit c s = complete s c 0x02 := by
  unfold effTransmit
  rw [noPort]

theorem effTransmit_badLength {s : State} {c : Cmd} {p : Fin 12} (port : Cmd.portNo c = some p)
    (bad : txLengthOk p (fld (c.p 3) 0 16) c.data = false) : effTransmit c s = complete s c 0x02 := by
  unfold effTransmit
  rw [port]
  exact if_pos (by simp [bad])

theorem effTransmit_port {s : State} {c : Cmd} {p : Fin 12} (port : Cmd.portNo c = some p)
    (length : txLengthOk p (fld (c.p 3) 0 16) c.data = true) : effTransmit c s =
      if !portTakesTx s p || !txKindOk s p c.data then complete s c 0x0A
      else if (s.poolQ (portTxQ p)).paused then s else runLine (txQueued s c p) p := by
  unfold effTransmit
  rw [port]
  exact if_neg (by simp [length])

/-- Going on the line changes no Transmit's command and no Transmit's data (R184). -/
theorem runLine_txs {s : State} {p : Fin 12} {x : FbTx} (queued : x ∈ (s.port p).txs) :
    ∃ y ∈ ((runLine s p).port p).txs, y.cmd = x.cmd ∧ y.bytes = x.bytes := by
  unfold runLine
  rw [onPort_port, if_pos rfl]
  split
  next t rest txs =>
    split
    · rw [txs] at queued
      obtain rfl | later := List.mem_cons.mp queued
      · exact ⟨_, List.mem_cons_self, rfl, rfl⟩
      · exact ⟨x, List.mem_cons_of_mem _ later, rfl, rfl⟩
    · exact ⟨x, queued, rfl, rfl⟩
  next => exact ⟨x, queued, rfl, rfl⟩

/-! ### Abort port (R187) -/

/-- Completing commands one after another leaves the ports. -/
theorem foldl_complete_port {α : Type} (cmd : α → Cmd) (v : BitVec 32) (l : List α) (s : State) (p : Fin 12) :
    (l.foldl (fun s x => complete s (cmd x) 0x00 v) s).port p = s.port p :=
  foldl_inv (fun t => t.port p = s.port p) l _ s rfl fun _ _ same => (complete_port ..).trans same

/-- Two Transmits of a port belong to one command. -/
def FbTx.sameCmd (y t : FbTx) : Bool := y.cmd.ring == t.cmd.ring && y.cmd.index == t.cmd.index

theorem endTx_port (s : State) (p : Fin 12) (t : FbTx) (sent outcome : Nat) :
    (endTx s p t sent outcome).port p = { s.port p with txs := (s.port p).txs.filter fun y => !y.sameCmd t } := by
  unfold endTx
  rw [complete_port, onQ_port, onPort_port, if_pos rfl]
  rfl

/-- The Transmits of a list end as aborted, each with the bytes it has sent (R187). -/
def txsEnded (sent : State → FbTx → Nat) (p : Fin 12) (l : List FbTx) (s : State) : State :=
  l.foldl (fun s t => endTx s p t (sent s t) 1) s

theorem txsEnded_port (sent : State → FbTx → Nat) (p : Fin 12) (l : List FbTx) (s : State) :
    (txsEnded sent p l s).port p = { s.port p with txs := (s.port p).txs.filter fun y => l.all fun t => !y.sameCmd t } := by
  induction l generalizing s with
  | nil => simp [txsEnded]
  | cons t rest ih =>
    refine (ih (endTx s p t (sent s t) 1)).trans ?_
    rw [endTx_port]
    simp [List.filter_filter, Bool.and_comm]

/-- The outstanding Reads of a port end as aborted (R187). -/
def readsEnded (s : State) (p : Fin 12) : State :=
  (s.port p).reads.foldl (fun s r => complete s r.cmd 0x00 (pack [(18, 1)])) (s.onPort p fun y => { y with reads := [] })

theorem readsEnded_port (s : State) (p : Fin 12) : (readsEnded s p).port p = { s.port p with reads := [] } := by
  unfold readsEnded
  rw [foldl_complete_port FbRead.cmd, onPort_port, if_pos rfl]

/-- The Transmits that wait at a paused transmit queue end with nothing sent (R173, R187). -/
def waitingEnded (l : List Cmd) (s : State) : State := l.foldl (fun s w => complete s w 0x00 (txResult 0 1)) s

/-- What Abort port ends before it completes: Reads, Transmits not started, those that wait, then the one on the line (R187). -/
def portAborted (s : State) (p : Fin 12) : State :=
  txsEnded (fun s t => sentBy s p t) p ((s.port p).txs.filter (·.started))
    (waitingEnded (waitingTx s p) (txsEnded (fun _ _ => 0) p ((s.port p).txs.filter (!·.started)) (readsEnded s p)))

theorem effAbortPort_noPort {s : State} {c : Cmd} (noPort : Cmd.portNo c = none) : effAbortPort c s = complete s c 0x02 := by
  unfold effAbortPort
  rw [noPort]

theorem effAbortPort_port {s : State} {c : Cmd} {p : Fin 12} (port : Cmd.portNo c = some p) :
    effAbortPort c s = complete (portAborted s p) c 0x00 := by
  unfold effAbortPort
  rw [port]
  rfl

theorem waitingTx_released {s : State} {p : Fin 12} (released : (s.poolQ (portTxQ p)).paused = false) : waitingTx s p = [] :=
  if_neg (by simp [released])

/-- Every Transmit is either started or not, so each is ended by one of the two passes over them. -/
theorem portAborted_port (s : State) (p : Fin 12) : ((portAborted s p).port p).reads = [] ∧ ((portAborted s p).port p).txs = [] := by
  unfold portAborted waitingEnded
  rw [txsEnded_port, foldl_complete_port (fun w => w), txsEnded_port, readsEnded_port]
  refine ⟨rfl, ?_⟩
  rw [List.filter_filter, List.filter_eq_nil_iff]
  intro y member both
  simp only [Bool.and_eq_true, List.all_filter, List.all_eq_true] at both
  obtain ⟨fromStarted, fromWaiting⟩ := both
  have own : y.sameCmd y = true := by simp [FbTx.sameCmd]
  cases started : y.started
  case false => simpa [own, started] using fromWaiting y member
  case true => simpa [own, started] using fromStarted y member

/-- Without Transmits only the Reads of a port are ended. -/
theorem portAborted_reads {s : State} {p : Fin 12} (txs : (s.port p).txs = []) (released : (s.poolQ (portTxQ p)).paused = false) :
    portAborted s p = readsEnded s p := by
  unfold portAborted
  rw [txs, waitingTx_released released]
  rfl

/-- Settles O54: each command by the equation of its effect; Abort port by the Transmits that its two passes leave, which are none. -/
theorem portCommands : Obligations.PortCommands := by
  refine ⟨?waits, ?takes, ?ninth, ?badRead, ?queued, ?paused, ?refused, ?badLength, ?noPort, ?noAbort, ?ends, ?reads, ?done⟩
  case waits =>
    intro s c p ready port large small few empty
    refine ready_eq ready ((effRead_port port large small).trans ((if_neg (by omega)).trans ?_))
    have nothing : ((readQueued s c p).poolQ (portRxQ p)).packets = [] := by rw [readQueued_poolQ, empty]
    unfold serve
    rw [serveReads_nothing nothing, ite_self]
    rfl
  case takes =>
    intro s c p k l ready port large small noReads packets running
    have phase : (readQueued s c p).glb.phase = .running := (congrArg Glb.phase (onPort_glb ..)).trans running
    have oldest : ((readQueued s c p).poolQ (portRxQ p)).packets = k :: l := by rw [readQueued_poolQ, packets]
    refine ⟨_, ready_eq ready ((effRead_port port large small).trans (if_neg (by simp [noReads]))), ?_⟩
    unfold serve
    rw [if_pos (by simp [phase]), readQueued_reads, noReads, List.nil_append, serveReads_single oldest]
    exact ⟨complete_done (readTaken_inFlight (readQueued_inFlight ready.cmd p) p _ k) 0x00 _,
      fun on => complete_out _ c 0x00 _ _ (readTaken_sent ((readQueued_requestsOn s c p).trans on) p _ k)⟩
  case ninth =>
    exact fun s c p ready port large small full => ready_eq ready ((effRead_port port large small).trans (if_pos full))
  case badRead => exact fun s c ready bad => ready_eq ready (bad.elim effRead_noPort effRead_badSize)
  case queued =>
    intro s c p ready port length takes kind released
    have queued : ⟨c, c.data.take (fld (c.p 3) 0 16), 0, false, none⟩ ∈ ((txQueued s c p).port p).txs := by simp [txQueued_txs]
    refine ⟨_, ready_eq ready ((effTransmit_port port length).trans ?_), runLine_txs queued⟩
    rw [if_neg (by simp [takes, kind]), if_neg (by simp [released])]
  case paused =>
    intro s c p ready port length takes kind paused
    exact ready_eq ready ((effTransmit_port port length).trans (by rw [if_neg (by simp [takes, kind]), if_pos paused]))
  case refused =>
    intro s c p ready port length refused
    exact ready_eq ready ((effTransmit_port port length).trans (if_pos (by simpa using refused)))
  case badLength => exact fun s c p ready port bad => ready_eq ready (effTransmit_badLength port bad)
  case noPort => exact fun s c ready noPort => ready_eq ready (effTransmit_noPort noPort)
  case noAbort => exact fun s c ready noPort => ready_eq ready (effAbortPort_noPort noPort)
  case ends => exact fun s c p ready port => ⟨_, ready_eq ready (effAbortPort_port port), portAborted_port s p⟩
  case reads =>
    intro s c p ready port txs released
    exact ready_eq ready ((effAbortPort_port port).trans (by rw [portAborted_reads txs released]; rfl))
  case done =>
    intro s c p ready port reads txs released
    refine ⟨_, ready_eq ready (effAbortPort_port port), complete_done ?_ 0x00 0⟩
    rw [portAborted_reads txs released, readsEnded, reads]
    exact inFlight_same ready.cmd (congrArg Rng.cmds (onPort_rng s p _))

end Sys2Proof.Machine
end


section
/-! Frames that a station receives, common impulses, and the association commands (R174, R313, R323, R327, R332, R333). -/

namespace Sys2Proof.Machine

/-! ### A queue is offered a packet (R174) -/

theorem offer_released {q : PoolQ} (released : q.paused = false) (empty : q.staging = []) (cap : Nat) (p : Packet) :
    q.offer cap p = (q.link p, true) :=
  if_pos (by simp [released, empty])

theorem offer_held {q : PoolQ} (held : q.paused = true ∨ q.staging ≠ []) (cap : Nat) (p : Packet) :
    q.offer cap p = if q.staged + p.bytes.length ≤ cap then ({ q with staging := q.staging ++ [p] }, true)
      else ({ q with drops := q.drops + 1 }, false) := by
  refine if_neg fun free => ?_
  obtain ⟨released, empty⟩ : q.paused = false ∧ q.staging = [] := by simpa using free
  obtain paused | staged := held
  · simp [released] at paused
  · exact staged empty

/-! ### Received frames (R313) -/

/-- The queue of a station has become `q` with a frame kept, which is counted (R313). -/
def frameKept (s : State) (o : Fin 128) (q : PoolQ) : State :=
  (s.onQ (rxQ o) fun _ => q).onSta o fun x => { x with rxFrames := x.rxFrames + 1 }

theorem frameKept_queue (s : State) (o : Fin 128) (q : PoolQ) : (frameKept s o q).poolQ (rxQ o) = q :=
  (onQ_poolQ s (rxQ o) (rxQ o) fun _ => q).trans (if_pos rfl)

theorem frameKept_rxFrames (s : State) (o : Fin 128) (q : PoolQ) : ((frameKept s o q).sta o).rxFrames = (s.sta o).rxFrames + 1 := by
  rw [frameKept, onSta_sta]
  rfl

theorem frameToHost_kept {s : State} {o : Fin 128} {bytes : List Byte} {q : PoolQ}
    (kept : (s.poolQ (rxQ o)).offer 2048 (Packet.plain bytes s.tim.mains) = (q, true)) :
    frameToHost s o bytes = frameKept s o q := by
  unfold frameToHost
  rw [kept]
  rfl

theorem frameToHost_lost {s : State} {o : Fin 128} {bytes : List Byte} {q : PoolQ}
    (lost : (s.poolQ (rxQ o)).offer 2048 (Packet.plain bytes s.tim.mains) = (q, false)) :
    frameToHost s o bytes = framesLost (s.onQ (rxQ o) fun _ => q) o 1 1 := by
  unfold frameToHost
  rw [lost]
  rfl

/-- A frame at a station without an association is dropped and counted (R313). -/
def frameUnassociated (s : State) (o : Fin 128) : State :=
  { s.onSta o (fun x => { x with rxDropped := x.rxDropped + 1 }) with plc := { s.plc with frameDrop := true } }

/-- Where a frame goes that carries no SLAC message: the first rule that applies (R313). -/
def frameRouted (s : State) (o : Fin 128) (bytes : List Byte) : State :=
  if ofBytesBE ((bytes.drop 12).take 2) = 0x88E1 then s
  else if (s.sta o).assoc = false then frameUnassociated s o
  else if addressed s o bytes = true then frameToHost s o bytes
  else s

theorem exec_plcFrameReceived_unheard {s : State} {o : Fin 128} {bytes : List Byte} (unheard : slacUp s o = false ∨ 1514 < bytes.length)
    (m : Option SlacMsg) : exec (.plcFrameReceived o m bytes) s = .next s :=
  congrArg Host.Outcome.next (if_pos (by simpa using unheard))

theorem exec_plcFrameReceived_message {s : State} {o : Fin 128} {bytes : List Byte} (up : slacUp s o = true) (short : bytes.length ≤ 1514)
    (m : SlacMsg) : exec (.plcFrameReceived o (some m) bytes) s = .next (slacMessage (stationSend s o) o m) :=
  congrArg Host.Outcome.next (if_neg (by simp [up, short]))

theorem exec_plcFrameReceived_plain {s : State} {o : Fin 128} {bytes : List Byte} (up : slacUp s o = true) (short : bytes.length ≤ 1514) :
    exec (.plcFrameReceived o none bytes) s = .next (frameRouted (stationSend s o) o bytes) := by
  refine congrArg Host.Outcome.next ((if_neg (by simp [up, short])).trans ?_)
  simp only [frameRouted, frameUnassociated, beq_iff_eq, Bool.not_eq_true']

theorem frameRouted_mme {s : State} {o : Fin 128} {bytes : List Byte} (mme : ofBytesBE ((bytes.drop 12).take 2) = 0x88E1) :
    frameRouted s o bytes = s := if_pos mme

theorem frameRouted_unassociated {s : State} {o : Fin 128} {bytes : List Byte} (data : ofBytesBE ((bytes.drop 12).take 2) ≠ 0x88E1)
    (alone : (s.sta o).assoc = false) : frameRouted s o bytes = frameUnassociated s o :=
  (if_neg data).trans (if_pos alone)

theorem frameRouted_associated {s : State} {o : Fin 128} {bytes : List Byte} (data : ofBytesBE ((bytes.drop 12).take 2) ≠ 0x88E1)
    (assoc : (s.sta o).assoc = true) : frameRouted s o bytes = if addressed s o bytes = true then frameToHost s o bytes else s :=
  (if_neg data).trans (if_neg (by simp [assoc]))

/-! ### Common impulses (R327) -/

/-- Symbols are marked on the stations of a list (R327). -/
def impulsesMarked (s : State) (l : List (Fin 128)) : State :=
  l.foldl (fun s o => s.onSta o fun x => { x with impulses := x.impulses + 1, markAt := some s.now }) s

theorem impulsesMarked_stas (s : State) (l : List (Fin 128)) : impulsesMarked s l = { s with stas := (impulsesMarked s l).stas } := by
  refine foldl_inv (fun t : State => t = { s with stas := t.stas }) l _ s rfl fun t o same => ?_
  rw [same]
  rfl

/-- A common impulse is counted with its instant (R327). -/
def commonImpulseCounted (s : State) : State :=
  { s with plc := { s.plc with commonImpulse := true, impulseCount := s.plc.impulseCount + 1, impulseAt := some s.now } }

theorem exec_commonImpulse (s : State) (l : List (Fin 128)) : exec (.commonImpulse l) s =
    .next (if 8 ≤ l.dedup.length then commonImpulseCounted (impulsesMarked s l.dedup) else impulsesMarked s l.dedup) := rfl

/-! ### Leave and Read association (R323, R333) -/

theorem effLeaveAssociation_outlet {s : State} {c : Cmd} {o : Fin 128} (handle : s.ofHandle c.handle.toNat = some o) :
    effLeaveAssociation c s =
      if (s.sta o).assoc then complete (endAssoc s o 4 (some c)).revote c 0x00 else complete s c 0x0A :=
  onOutlet_ofHandle handle _

/-- The first word of an element of an array of registers is that element's, at offset 0. -/
theorem arr_element (base : Nat) {stride n : Nat} (wide : 0 < stride) (i : Fin n) :
    arr (base + stride * i.val) base stride n = some (i, 0) := by
  have index : (base + stride * i.val - base) / stride = i.val := by
    rw [Nat.add_sub_cancel_left, Nat.mul_div_cancel_left _ wide]
  unfold arr
  rw [dif_pos ⟨Nat.le_add_right _ _, index.symm ▸ i.isLt⟩]
  simp [wide]

/-- PLC_STA_STATE of an outlet (R333). -/
theorem rdPlc_staState (s : State) (o : Fin 128) : rdPlc s (0x1000 + 0x20 * o.val) =
    pack [(0, s.staCode o), (3, b2n (s.sta o).assoc), (16, (s.sta o).score.toNat)] := by
  unfold rdPlc
  rw [if_neg (by omega), if_neg (by omega), if_neg (by omega), if_neg (by omega), if_neg (by omega), if_neg (by omega),
    if_neg (by omega), arr_element 0x1000 (by decide) o]
  rfl

theorem effReadAssociation_outlet {s : State} {c : Cmd} {o : Fin 128} (handle : s.ofHandle c.handle.toNat = some o) :
    effReadAssociation c s = complete s c 0x00
      (pack [(0, s.staCode o), (3, b2n (s.sta o).assoc), (16, (s.sta o).score.toNat)]) := by
  refine (onOutlet_ofHandle handle _).trans ?_
  rw [rdPlc_staState]

/-! ### TLS sign (R332) -/

/-- The signature of a TLS sign: over the command's data, with the key and a fresh nonce (R332). -/
def tlsSignature (s : State) (c : Cmd) (key : List Byte) : BitVec 256 × BitVec 256 :=
  ecdsaSign (num256 key) (num256 c.data) s.fresh

/-- The nonce of a TLS sign is used up, and its signature stands in the host's block (R332). -/
def tlsSigned (s : State) (c : Cmd) (key : List Byte) : State :=
  ({ s with fresh := s.fresh + 1 } : State).hostWrite (BitVec.ofNat 64 (c.p2 1 + 32))
    (beBytes 32 (tlsSignature s c key).1.toNat ++ beBytes 32 (tlsSignature s c key).2.toNat)

/-- What TLS sign does with the answer of its key slot (R332). -/
def tlsAnswered (c : Cmd) : Option (List Byte) × State → State
  | (some key, s) => complete (tlsSigned s c key) c 0x00
  | (none, s) => complete s c 0x0A

theorem effTlsSign_misaligned {s : State} {c : Cmd} (off : c.p2 1 % 64 ≠ 0) : effTlsSign c s = complete s c 0x02 := if_pos off

theorem fin_val_of_lt {n i : Nat} [NeZero n] (h : i < n) : (fin n i).val = i := Nat.mod_eq_of_lt h

theorem effTlsSign_notTls {s : State} {c : Cmd} (aligned : c.p2 1 % 64 = 0)
    (other : 64 ≤ fld (c.p 0) 0 8 ∨ keyUses (fld (c.p 0) 0 8) ≠ 16) : effTlsSign c s = complete s c 0x0A := by
  refine (if_neg (not_not.mpr aligned)).trans (if_pos ?_)
  by_cases slot : fld (c.p 0) 0 8 < 64
  · rw [fin_val_of_lt slot]
    exact other
  · exact .inl (Nat.le_of_not_lt slot)

theorem effTlsSign_tls {s : State} {c : Cmd} (aligned : c.p2 1 % 64 = 0) (slot : fld (c.p 0) 0 8 < 64)
    (tls : keyUses (fld (c.p 0) 0 8) = 16) (random : s.key.rngOk = true) :
    effTlsSign c s = tlsAnswered c (useKey s (fin 64 (fld (c.p 0) 0 8))) := by
  refine (if_neg (not_not.mpr aligned)).trans ((if_neg ?_).trans ((if_pos random).trans rfl))
  rw [fin_val_of_lt slot]
  omega

theorem tlsSigned_inFlight {s : State} {c : Cmd} (h : InFlight s c) (key : List Byte) : InFlight (tlsSigned s c key) c := by
  unfold tlsSigned
  refine hostWrite_inFlight (inFlight_same h ?_) _ _
  rfl

theorem tlsSigned_sent {s : State} (on : requestsOn s = true) (c : Cmd) (key : List Byte) :
    Out.host (BitVec.ofNat 64 (c.p2 1 + 32))
      (beBytes 32 (tlsSignature s c key).1.toNat ++ beBytes 32 (tlsSignature s c key).2.toNat) ∈ (tlsSigned s c key).out :=
  hostWrite_sent _ _ on

/-- Settles O26: each frame by the rule that routes it, each command by the equation of its effect. -/
theorem stationFrames : Obligations.StationFrames := by
  refine ⟨?frame, ?offer, ?unheard, ?impulse, ?leave, ?read, ?sign⟩
  case frame =>
    rintro s o bytes u up short rfl
    have plain := exec_plcFrameReceived_plain (bytes := bytes) up short
    refine ⟨exec_plcFrameReceived_message up short, fun mme => ?_, fun data alone => ?_, fun data assoc other => ?_,
      fun data assoc own q => ⟨fun kept => ?_, fun lost => ?_⟩⟩
    · rw [plain, frameRouted_mme mme]
    · rw [plain, frameRouted_unassociated data alone]
      rfl
    · rw [plain, frameRouted_associated data assoc, if_neg (by simp [other])]
    · refine ⟨_, plain, ?_⟩
      rw [frameRouted_associated data assoc, if_pos own, frameToHost_kept kept]
      exact ⟨frameKept_queue _ o q, frameKept_rxFrames _ o q⟩
    · rw [plain, frameRouted_associated data assoc, if_pos own, frameToHost_lost lost]
  case offer =>
    refine fun q cap p => ⟨fun released empty => ?_, fun held room => ?_, fun held full => ?_⟩
    · rw [offer_released released empty]
      exact ⟨rfl, link_packets q p⟩
    · rw [offer_held held, if_pos room]
    · rw [offer_held held, if_neg (by omega)]
  case unheard => exact fun s o m bytes unheard => exec_plcFrameReceived_unheard unheard m
  case impulse =>
    intro s l
    refine ⟨_, exec_commonImpulse s l, ?_⟩
    rw [impulsesMarked_stas s l.dedup]
    by_cases common : 8 ≤ l.dedup.length
    · rw [if_pos common]
      exact ⟨fun _ => rfl, fun few => absurd common (by omega), rfl⟩
    · rw [if_neg common]
      exact ⟨fun many => absurd many common, fun _ => rfl, rfl⟩
  case leave =>
    intro s c o ready handle
    have effect := effLeaveAssociation_outlet handle
    exact ⟨fun assoc => ready_eq ready (effect.trans (if_pos assoc)), fun alone => ready_eq ready (effect.trans (if_neg (by simp [alone])))⟩
  case read =>
    exact fun s c o ready handle => ⟨_, ready_eq ready (effReadAssociation_outlet handle), ready_completes ready 0x00 _⟩
  case sign =>
    refine fun s c ready => ⟨fun off => ready_eq ready (effTlsSign_misaligned off),
      fun aligned other => ready_eq ready (effTlsSign_notTls aligned other),
      fun key u aligned slot tls random used flight => ?_, fun u aligned slot tls random used => ?_⟩
    · refine ⟨complete (tlsSigned u c key) c 0x00, tlsSignature u c key, ready_eq ready ?_,
        complete_done (tlsSigned_inFlight flight key) 0x00 0, rfl, fun on => complete_out _ c 0x00 0 _ (tlsSigned_sent on c key)⟩
      rw [effTlsSign_tls aligned slot tls random, used]
      rfl
    · refine ready_eq ready ?_
      rw [effTlsSign_tls aligned slot tls random, used]
      rfl

end Sys2Proof.Machine
end


section
/-! The commands of the outlet sequencer (R146, R165, R233). -/

namespace Sys2Proof.Machine

/-- On a context that may be served, a command of the sequencer takes its own effect (R165, R233). -/
theorem seqCmd_context {s : State} {c : Cmd} {o : Fin 128} (h : ToContext s c o) (f : Fin 128 → State → State) : seqCmd c s f = f o s := by
  refine (onOutlet_ofHandle h.handle _).trans ?_
  rw [if_neg (by simp [h.link, h.power]), if_neg (by simp [h.held])]

section
variable {s : State} {c : Cmd} {o : Fin 128}

/-! ### Output changes (R146) -/

theorem completeApplied_atOnce {before : BitVec 3 × BitVec 10 × Bool × Bool × Bool}
    (h : (s.ctx o).outputs = before ∨ framesFlow s o = false) : completeApplied s o c before = complete s c 0x00 :=
  if_neg (by obtain same | still := h <;> simp [*])

theorem completeApplied_waits {before : BitVec 3 × BitVec 10 × Bool × Bool × Bool} (changed : (s.ctx o).outputs ≠ before)
    (flow : framesFlow s o = true) : completeApplied s o c before = (started s c).onCtx o fun x => { x with
      awaitApply := x.awaitApply ++ [⟨c.ring, c.index, 0, none⟩] } := if_pos (by simp [changed, flow])

/-! ### Bind profile -/

theorem effBindProfile_unknown (h : ToContext s c o) (unknown : s.activeProfile (fin 32 (fld (c.p 0) 0 5)) = none) :
    effBindProfile c s = complete s c 0x02 := by
  refine (seqCmd_context h _).trans ?_
  rw [unknown]

/-- A profile that can be read is bound where the context stands in CLASS 0 with both contactors open, and nowhere else. -/
theorem effBindProfile_known {p : LoadedProfile} (h : ToContext s c o) (known : s.activeProfile (fin 32 (fld (c.p 0) 0 5)) = some p)
    (readable : (p.badA && p.badB) = false) : effBindProfile c s =
      if s.ctxClass o = 0 ∧ (s.ctx o).bothOpen = true then
        completeApplied (writeJournal (bindProfile s o p c).revote o) o c (s.ctx o).outputs
      else complete s c 0x0A := by
  refine (seqCmd_context h _).trans ?_
  rw [known]
  dsimp only
  rw [if_neg (by simp [readable])]
  split_ifs <;> simp_all

/-! ### Enable outlet -/

theorem effEnableOutlet_enables {p : LoadedProfile} (h : ToContext s c o) (on : bit (c.p 0) 0 = true) (bound : (s.ctx o).bound = true)
    (profile : s.ctxProfile o = some p) (off : (s.ctx o).enabled = false) :
    effEnableOutlet c s = completeApplied (writeJournal (enableCtx s o c).revote o) o c (s.ctx o).outputs := by
  refine (seqCmd_context h _).trans ?_
  dsimp only
  rw [if_pos on, if_neg (by simp [bound, profile]), if_neg (by simp [off])]

/-- Enabling leaves the pilot selection and the limit that the pilot command is made of. -/
theorem enableCtx_eq (s : State) (o : Fin 128) (c : Cmd) : enableCtx s o c =
    enterInitial o (some c) (sendPilot (s.onCtx o fun x => { x with enabled := true }) o (pilotCmd (s.ctx o).pilotSel (s.ctx o).iEff)) := by
  unfold enableCtx
  dsimp only
  rw [onCtx_ctx_same]

theorem effEnableOutlet_disables (h : ToContext s c o) (off : bit (c.p 0) 0 = false) : effEnableOutlet c s =
    if s.ctxClass o = 0 then completeApplied (writeJournal (disableCtx s o c).revote o) o c (s.ctx o).outputs
    else complete s c 0x0A := by
  refine (seqCmd_context h _).trans ?_
  dsimp only
  rw [if_neg (by simp [off])]
  split_ifs <;> simp_all

/-! ### Authorise, Force fault and Reset context -/

theorem effAuthorise_runs (h : ToContext s c o) (runs : s.ctxRuns o = true) : effAuthorise c s =
    complete (writeJournal (queueTrig ((s.onCtx o fun x => { x with authorised := bit (c.p 0) 0 }).onBil o fun b =>
      if bit (c.p 0) 0 then { b with contract := 0 } else b) o 9 (if bit (c.p 0) 0 then 0 else 1)) o) c 0x00 :=
  (seqCmd_context h _).trans (if_neg (by simp [runs]))

/-- A context that runs outside FAULT takes the fault transition with cause 5, and no other does. -/
theorem effForceFault_context (h : ToContext s c o) : effForceFault c s =
    if s.ctxRuns o = false ∨ s.ctxClass o = 4 then complete s c 0x0A
    else completeApplied (writeJournal (faultTrans o (some c) 5 (fld (c.p 0) 0 8) 0 0 s).1 o) o c (s.ctx o).outputs := by
  refine (seqCmd_context h _).trans ?_
  split_ifs <;> simp_all

/-- FAULT with both contactors open is left only with nothing latched. -/
theorem effResetContext_fault (h : ToContext s c o) (fault : s.ctxClass o = 4) (opened : (s.ctx o).bothOpen = true) : effResetContext c s =
    if (s.safJ1 o).rc = true ∨ (s.safJ1 o).iso = true ∨ (s.safJ1 o).weld = true then complete s c 0x04
    else completeApplied (writeJournal (enterInitial o (some c) s) o) o c (s.ctx o).outputs := by
  refine (seqCmd_context h _).trans ?_
  dsimp only
  rw [if_neg (by simp [fault, opened])]
  simp only [Bool.or_eq_true, or_assoc]

/-! ### Forget delays, Read context and Signal -/

/-- With both bits set, every learnt delay is the profile's D0 again (R224). -/
theorem effForgetDelays_both {p : LoadedProfile} (h : ToContext s c o) (profile : s.ctxProfile o = some p) (main : bit (c.p 0) 0 = true)
    (aux : bit (c.p 0) 1 = true) :
    effForgetDelays c s = complete (writeJournal (s.onDelays o fun _ => p.prof.d0) o) c 0x00 := by
  refine (seqCmd_context h _).trans ?_
  simp only [profile, main, aux, if_true, Option.map_some, Option.getD_some]

theorem effReadContext_outlet (handle : s.ofHandle c.handle.toNat = some o) : effReadContext c s =
    complete s c 0x00 (pack [(0, (s.ctx o).state), (8, s.ctxClass o), (11, (s.ctx o).pilot.toNat), (14, (s.ctx o).prox.toNat),
      (17, (s.ctx o).flags.toNat)]) := onOutlet_ofHandle handle _

theorem effSignal_trigger (h : ToContext s c o) (valid : fld (c.p 0) 0 8 ≠ 255) :
    effSignal c s = queueTrig (started s c) o 4 (fld (c.p 0) 0 8) (some (c.ring, c.index)) :=
  (if_neg valid).trans (seqCmd_context h _)

end

/-- Settles O16: each command by the equation of its effect on a context that may be served. -/
theorem sequencerCommands : Obligations.SequencerCommands := by
  unfold Obligations.SequencerCommands
  refine ⟨?bind, ?bindRefused, ?bindUnknown, ?enable, ?disable, ?disableRefused, ?authorise, ?force, ?forceRefused, ?reset, ?resetLatched,
    ?forget, ?read, ?signal, fun s c o b => ⟨completeApplied_atOnce, completeApplied_waits⟩⟩
  case bind =>
    intro s c o p ready h known readable idle opened
    exact ready_eq ready ((effBindProfile_known h known readable).trans (if_pos ⟨idle, opened⟩))
  case bindRefused =>
    intro s c o p ready h known readable busy
    exact ready_eq ready ((effBindProfile_known h known readable).trans (if_neg fun free => by simp [free] at busy))
  case bindUnknown => exact fun s c o ready h unknown => ready_eq ready (effBindProfile_unknown h unknown)
  case enable =>
    intro s c o p ready h on bound profile off
    refine ready_eq ready ((effEnableOutlet_enables h on bound profile off).trans ?_)
    rw [enableCtx_eq]
  case disable => exact fun s c o ready h off idle => ready_eq ready ((effEnableOutlet_disables h off).trans (if_pos idle))
  case disableRefused => exact fun s c o ready h off busy => ready_eq ready ((effEnableOutlet_disables h off).trans (if_neg busy))
  case authorise => exact fun s c o ready h runs => ready_eq ready (effAuthorise_runs h runs)
  case force =>
    intro s c o ready h runs sound
    exact ready_eq ready ((effForceFault_context h).trans (if_neg (by simp [runs, sound])))
  case forceRefused => exact fun s c o ready h barred => ready_eq ready ((effForceFault_context h).trans (if_pos barred))
  case reset =>
    intro s c o ready h fault opened rc iso weld
    exact ready_eq ready ((effResetContext_fault h fault opened).trans (if_neg (by simp [rc, iso, weld])))
  case resetLatched =>
    exact fun s c o ready h fault opened latched => ready_eq ready ((effResetContext_fault h fault opened).trans (if_pos latched))
  case forget => exact fun s c o p ready h profile main aux => ready_eq ready (effForgetDelays_both h profile main aux)
  case read => exact fun s c o ready handle => ⟨_, ready_eq ready (effReadContext_outlet handle), ready_completes ready 0x00 _⟩
  case signal => exact fun s c o ready h valid => ready_eq ready (effSignal_trigger h valid)

end Sys2Proof.Machine
end


section
/-! The pilot's evaluations: their class by the two plateaus, and its debouncing (R214 to R216). -/

namespace Sys2Proof.Machine

/-! ### The class of an evaluation (R215) -/

theorem pilotClass_steady (high low : BitVec 12) : pilotClass 0 high low =
    if 3892 ≤ high.toNat then 7 else if 3482 ≤ high.toNat then 0 else if 3072 ≤ high.toNat then 1 else if 2663 ≤ high.toNat then 2
    else if 2253 ≤ high.toNat then 3 else if 1844 ≤ high.toNat then 4 else 7 := rfl

theorem pilotClass_negative (high low : BitVec 12) :
    pilotClass 2 high low = if 205 ≤ high.toNat ∧ high.toNat ≤ 614 then 5 else 7 := by
  simp [pilotClass]

/-- The classes B, C and D are those of the plateaus from 2253 to 3481. -/
theorem pilotClass_vehicle (high low : BitVec 12) :
    (pilotClass 0 high low = 1 ∨ pilotClass 0 high low = 2 ∨ pilotClass 0 high low = 3) ↔ 2253 ≤ high.toNat ∧ high.toNat ≤ 3481 := by
  rw [pilotClass_steady]
  split_ifs <;> simp <;> omega

/-- In MODE 1 the high plateau gives the class, but for B, C and D with the low plateau out of its band. -/
theorem pilotClass_pwm (high low : BitVec 12) : pilotClass 1 high low =
    if (2253 ≤ high.toNat ∧ high.toNat ≤ 3481) ∧ (low.toNat < 205 ∨ 614 < low.toNat) then 6 else pilotClass 0 high low := by
  simp only [← pilotClass_vehicle high low, pilotClass_steady]
  simp [pilotClass, or_assoc]

/-! ### Debouncing (R216) -/

theorem onCtx_onCtx (s : State) (o : Fin 128) (f g : Ctx → Ctx) : (s.onCtx o f).onCtx o g = s.onCtx o fun c => g (f c) :=
  congrArg (fun v => { s with ctxs := v }) (vmod_vmod s.ctxs o f g)

/-- The plateaus of an evaluation stand in the context. -/
def withPlateaus (u : State) (o : Fin 128) (high low : BitVec 12) : State := u.onCtx o fun c => { c with high := high, low := low }

theorem withPlateaus_ctx (u : State) (o : Fin 128) (high low : BitVec 12) :
    (withPlateaus u o high low).ctx o = { u.ctx o with high := high, low := low } := onCtx_ctx_same u o _

/-- A plateau without samples stays as it was (log 137). -/
theorem withPlateaus_getD (u : State) (o : Fin 128) (high : BitVec 12) (l : Option (BitVec 12)) :
    (u.onCtx o fun c => { c with high := high, low := l.getD c.low }) = withPlateaus u o high (l.getD (u.ctx o).low) :=
  congrArg (fun v => { u with ctxs := v }) (vmod_congr u.ctxs o _ _ rfl)

/-- A period with a MODE change clears the count and keeps the plateaus. -/
theorem withPlateaus_cleared (u : State) (o : Fin 128) (high : BitVec 12) (l : Option (BitVec 12)) :
    ((withPlateaus u o high (l.getD (u.ctx o).low)).onCtx o fun c => { c with pilotCount := 0 }) =
      u.onCtx o fun c => { c with high := high, low := l.getD c.low, pilotCount := 0 } := by
  rw [← withPlateaus_getD]
  exact onCtx_onCtx u o _ _

theorem withPlateaus_ctxProfile (u : State) (o : Fin 128) (high low : BitVec 12) :
    (withPlateaus u o high low).ctxProfile o = u.ctxProfile o := by
  unfold State.ctxProfile
  rw [withPlateaus_ctx]
  rfl

/-- What an evaluation of class `k` makes of the count that stood in `c` before it, where `need` of them in a row take effect. -/
def pilotJudged (c : Ctx) (need : Nat) (o : Fin 128) (k : BitVec 3) (v : State) : State :=
  if k = c.pilot then v.onCtx o fun x => { x with pilotCount := 0, pilotCand := k }
  else
    let first := c.pilotCount == 0 || k != c.pilotCand
    let n := if first then 1 else c.pilotCount + 1
    let t := v.onCtx o fun x => { x with
      pilotCand := k, pilotCount := n, pilotStamp := if first then v.tim.mains else x.pilotStamp
      pilotTick := if first then v.now else x.pilotTick }
    if need ≤ n then pilotEffect t o k else t

section
variable {c : Ctx} {need : Nat} {o : Fin 128} {k : BitVec 3} {v : State}

theorem pilotJudged_standing (same : k = c.pilot) :
    pilotJudged c need o k v = v.onCtx o fun x => { x with pilotCount := 0, pilotCand := k } := if_pos same

theorem pilotJudged_first {t : State} (other : k ≠ c.pilot) (first : c.pilotCount = 0 ∨ k ≠ c.pilotCand)
    (ht : t = v.onCtx o fun x => { x with pilotCand := k, pilotCount := 1, pilotStamp := v.tim.mains, pilotTick := v.now }) :
    pilotJudged c need o k v = if need ≤ 1 then pilotEffect t o k else t := by
  have begins : (c.pilotCount == 0 || k != c.pilotCand) = true := by simpa using first
  rw [ht]
  unfold pilotJudged
  simp only [begins, if_neg other, if_true]

theorem pilotJudged_again {t : State} (other : k ≠ c.pilot) (counting : c.pilotCount ≠ 0) (again : k = c.pilotCand)
    (ht : t = v.onCtx o fun x => { x with pilotCand := k, pilotCount := c.pilotCount + 1 }) :
    pilotJudged c need o k v = if need ≤ c.pilotCount + 1 then pilotEffect t o k else t := by
  have goesOn : (c.pilotCount == 0 || k != c.pilotCand) = false := by simp [counting, again]
  rw [ht]
  unfold pilotJudged
  simp only [goesOn, if_neg other, Bool.false_eq_true, if_false]

end

section
variable {s u : State} {o : Fin 128} {high low : BitVec 12} {p : LoadedProfile}

/-- An evaluation with both plateaus: in a period with a MODE change it only clears the count, and else its class is judged. -/
theorem pilotEval_profile (profile : u.ctxProfile o = some p) {k : BitVec 3} (hk : k = pilotClass ((u.ctx o).feMode u.now) high low) :
    pilotEval u o high low = if (u.ctx o).modeChanged u.now then (withPlateaus u o high low).onCtx o fun c => { c with pilotCount := 0 }
      else pilotJudged (u.ctx o) p.prof.debounce o k (toggleStep (islandPilot (withPlateaus u o high low) o k) o k) := by
  subst hk
  unfold pilotEval
  dsimp only
  rw [← withPlateaus, withPlateaus_ctxProfile, profile, withPlateaus_ctx]
  rfl

/-! ### The evaluation (R214) -/

/-- The state at the time of an evaluation: the PWM period's end, or the next millisecond of tick time (R214). -/
def atEvaluation (s : State) (o : Fin 128) : State :=
  if (s.ctx o).feMode s.now = 1 then s else s.toTick ((s.now / msNs + 1) * msNs)

theorem execPilotEvaluation_plateau {l : Option (BitVec 12)} (on : seqOn s = true) (hu : u = atEvaluation s o)
    (seen : plateaus ((s.ctx o).feMode s.now) (u.ctx o).duty.toNat (u.ctx o).pilots.reverse = (some high, l)) :
    execPilotEvaluation o s = .next (pilotEval u o high (l.getD (u.ctx o).low)) := by
  unfold execPilotEvaluation
  dsimp only
  rw [if_neg (by simp [on]), ← atEvaluation, ← hu, seen]

/-- Without a sample of its high part an evaluation counts for nothing (log 137). -/
theorem execPilotEvaluation_blind (on : seqOn s = true) (hu : u = atEvaluation s o)
    (blind : (plateaus ((s.ctx o).feMode s.now) (u.ctx o).duty.toNat (u.ctx o).pilots.reverse).1 = none) :
    execPilotEvaluation o s = .next u := by
  unfold execPilotEvaluation
  dsimp only
  rw [if_neg (by simp [on]), ← atEvaluation, ← hu, blind]

end

/-- Settles O18: the evaluation is `pilotJudged` by its count, or only clears it, and its class is the plateaus'. -/
theorem pilotEvaluations : Obligations.PilotEvaluations := by
  unfold Obligations.PilotEvaluations
  refine ⟨?judged, ?modeChange, fun s o u on hu blind => execPilotEvaluation_blind on hu blind, ?classes⟩
  case judged =>
    intro s o high low p u w v k on hu seen profile steady hw hk hv
    rw [withPlateaus_getD] at hw
    rw [hw, withPlateaus_ctx] at hk
    have judged : exec (.pilotEvaluation o) s = .next (pilotJudged (u.ctx o) p.prof.debounce o k v) := by
      refine (execPilotEvaluation_plateau on hu seen).trans (congrArg Host.Outcome.next ?_)
      rw [pilotEval_profile profile hk, if_neg (by simp [steady]), ← hw, ← hv]
    rw [judged]
    refine ⟨fun same => ?_, fun other first more => ?_, fun other first last => ?_, fun other counting again more => ?_,
      fun other counting again last => ?_⟩
    · rw [pilotJudged_standing same]
    · rw [pilotJudged_first other first rfl, if_neg (by omega)]
    · rw [pilotJudged_first other first rfl, if_pos last]
    · rw [pilotJudged_again other counting again rfl, if_neg (by omega)]
    · rw [pilotJudged_again other counting again rfl, if_pos last]
  case modeChange =>
    intro s o high low p u on hu seen profile changed
    refine (execPilotEvaluation_plateau on hu seen).trans (congrArg Host.Outcome.next ?_)
    rw [pilotEval_profile profile rfl, if_pos changed, withPlateaus_cleared]
  case classes =>
    intro high low
    refine ⟨fun h => ?_, fun least most => ?_, fun least most => ?_, fun least most => ?_, fun least most => ?_, fun least most => ?_,
      fun most => ?_, fun least most => ?_, fun off => ?_, fun least most => ?_, fun off least most => ?_, fun off => ?_⟩
    · rw [pilotClass_steady, if_pos h]
    · rw [pilotClass_steady, if_neg (by omega), if_pos least]
    · rw [pilotClass_steady, if_neg (by omega), if_neg (by omega), if_pos least]
    · rw [pilotClass_steady, if_neg (by omega), if_neg (by omega), if_neg (by omega), if_pos least]
    · rw [pilotClass_steady, if_neg (by omega), if_neg (by omega), if_neg (by omega), if_neg (by omega), if_pos least]
    · rw [pilotClass_steady, if_neg (by omega), if_neg (by omega), if_neg (by omega), if_neg (by omega), if_neg (by omega), if_pos least]
    · rw [pilotClass_steady, if_neg (by omega), if_neg (by omega), if_neg (by omega), if_neg (by omega), if_neg (by omega),
        if_neg (by omega)]
    · rw [pilotClass_negative, if_pos ⟨least, most⟩]
    · rw [pilotClass_negative, if_neg (by omega)]
    · rw [pilotClass_pwm, if_neg (by omega)]
    · rw [pilotClass_pwm, if_pos ⟨⟨least, most⟩, off⟩]
    · rw [pilotClass_pwm, if_neg (by omega)]

end Sys2Proof.Machine
end


section
/-! Residual current: the stages, their trips, and the RDC test (R240, R241, R244 to R247). -/

namespace Sys2Proof.Machine

/-! ### The delay of a stage (R241) -/

/-- What `n` evaluations in a row leave of a stage with delay `d` that was at rest, each at or above its threshold and none inhibited:
it counts up to its delay, trips, and stands past it. -/
def stageAfter (d n : Nat) : StageRun :=
  if n = 0 then ⟨false, 0⟩ else if n ≤ d then ⟨true, n - 1⟩ else ⟨true, d + 1⟩

/-- The next evaluation trips where the delay has just elapsed, and nowhere else. -/
theorem next_stageAfter (d n : Nat) : (stageAfter d n).next true d false = (stageAfter d (n + 1), decide (n = d)) := by
  unfold stageAfter StageRun.next
  obtain rfl | started := Nat.eq_zero_or_pos n
  · obtain rfl | delayed := Nat.eq_zero_or_pos d
    · rfl
    · simp [delayed.ne, delayed.ne', Nat.one_le_iff_ne_zero]
  · have count : n - 1 + 1 = n := by omega
    obtain waits | rfl | tripped := Nat.lt_trichotomy n d
    · simp [count, started.ne', waits.le, waits.ne, waits.not_ge, show n + 1 ≤ d from waits, show ¬ d < n - 1 by omega]
    · simp [count, started.ne', show ¬ n < n - 1 by omega]
    · simp [started.ne', tripped.not_ge, tripped.ne', show ¬ n + 1 ≤ d by omega]

theorem iterate_next_stageAfter (d n : Nat) :
    (fun x : StageRun => (x.next true d false).1)^[n] ⟨false, 0⟩ = stageAfter d n := by
  induction n with
  | zero => rfl
  | succ n ih => rw [Function.iterate_succ_apply', ih, next_stageAfter]

/-- An inhibited evaluation does not trip (R246). -/
theorem next_inhibited (x : StageRun) (d : Nat) : (x.next true d true).2 = false := by
  simp only [StageRun.next, Bool.not_true, Bool.false_eq_true, if_false, if_true]
  split_ifs <;> rfl

/-! ### An evaluation (R240, R244) -/

/-- The evaluation of each stage on the estimates, inhibited while an RDC test runs (R241, R246). -/
def stageSteps (s : State) (o : Fin 128) (r : SafetyRec) (idc : Int) (iac : Nat) (k : Fin 6) : StageRun × Bool :=
  (vget (s.saf1 o).stages k).next
    (decide (0 < vget r.thr k) && decide (vget r.thr k * 100 ≤ stageEstimate (s.isDc o) r idc iac k.val)) (vget r.delay k)
    ((s.saf1 o).rdc != .idle)

/-- A latch that is set changes the journal of its outlet as it says (R244, R251, R255). -/
theorem setLatch_safJ1 (s : State) (o : Fin 128) (was : Bool) (f : SafeJournal → SafeJournal) :
    (setLatch s o was f).safJ1 o = f (s.safJ1 o) := by
  simp [setLatch, State.safJ1, State.onSafJ]

theorem foldl_postOut_safJ {α : Type} (l : List α) (code : Nat) (o : Fin 128) (p : α → List Byte) (s : State) :
    (l.foldl (fun s k => postOut s code o (p k)) s).safJ = s.safJ :=
  foldl_inv (fun t : State => t.safJ = s.safJ) l _ s rfl fun t k h => by simp [h]

section
variable {s : State} {o : Fin 128} {r : SafetyRec} {idc : Int} {iac : Nat}

/-- Without a trip an evaluation takes the estimates and counts the stages on. -/
theorem evalResidual_quiet (record : s.safRec o = some r) (quiet : ∀ k, (stageSteps s o r idc iac k).2 = false) :
    evalResidual s o idc iac = s.onSaf o fun x => { x with
      idc := idc, iac := iac, stages := Vector.ofFn fun k => (stageSteps s o r idc iac k).1
      quietSince := if idc.natAbs < 3000 ∧ iac < 15000 then x.quietSince else s.now } := by
  unfold evalResidual
  rw [record]
  exact if_pos (List.isEmpty_iff.mpr (List.filter_eq_nil_iff.mpr fun k _ => Bool.not_eq_true _ ▸ quiet k))

/-- A trip sets RC_LATCH, and the permits are evaluated with it. -/
theorem evalResidual_trips (record : s.safRec o = some r) (trips : ∃ k, (stageSteps s o r idc iac k).2 = true) :
    ∃ t, evalResidual s o idc iac = evalPermit t o (some 0) ∧ (t.safJ1 o).rc = true := by
  obtain ⟨k, hk⟩ := trips
  have some_trip : ((List.finRange 6).filter fun k => (stageSteps s o r idc iac k).2).isEmpty ≠ true := fun h =>
    List.filter_eq_nil_iff.mp (List.isEmpty_iff.mp h) k (List.mem_finRange k) hk
  unfold evalResidual
  rw [record]
  refine ⟨_, if_neg some_trip, ?_⟩
  unfold State.safJ1
  rw [foldl_postOut_safJ]
  exact congrArg SafeJournal.rc (setLatch_safJ1 _ o _ _)

/-- While the island runs and the profile assigns IRES, the row is the evaluation 1 ms after the last one (R240). -/
theorem execRcEvaluation_on {v : State} (on : islandOn s = true) (sensed : s.hasIres o = true)
    (hv : v = s.toTick ((s.saf1 o).rcAt + msNs)) : execRcEvaluation o s = .next (evalResidual (v.onSaf o fun y => { y with rcAt := v.now }) o
      (meanOf (islandRole v o 8)) (rmsRaw ((islandRole v o 8).map fun x => x - meanOf (islandRole v o 8)))) := by
  subst hv
  exact congrArg Host.Outcome.next (if_pos (by simp [on, sensed]))

/-! ### The RDC test (R246, R247) -/

/-- An awaited estimate that comes in time takes the test on to its second wait. -/
theorem execRdcTestStep_wait1 {d : Nat} (on : islandOn s = true) (opened : (s.ctx o).bothOpen = true) (waits : (s.saf1 o).rdc = .wait1 d) :
    execRdcTestStep o s = .next (if rdcMet (s.saf1 o) = true ∧ s.now ≤ d then
      s.onSaf o fun x => { x with rdc := .wait2 (s.now + 100 * msNs) } else endRdc (s.toTick d) o 2) := by
  simp [execRdcTestStep, on, opened, waits]

/-- In its second wait the test passes with the awaited estimate, and fails at the bound. -/
theorem execRdcTestStep_wait2 {d : Nat} (on : islandOn s = true) (opened : (s.ctx o).bothOpen = true) (waits : (s.saf1 o).rdc = .wait2 d) :
    execRdcTestStep o s = .next (if rdcMet (s.saf1 o) = true ∧ s.now ≤ d then endRdc s o 0 else endRdc (s.toTick d) o 4) := by
  simp [execRdcTestStep, on, opened, waits]

/-! ### Run RDC test and Clear trip -/

variable {c : Cmd}

theorem effRunRdcTest_outlet (handle : s.ofHandle c.handle.toNat = some o) : effRunRdcTest c s =
    if s.ctxClass o ≤ 1 ∧ rdcFree s o = true then startRdc (started s c) o (.command c.ring c.index) else complete s c 0x0A :=
  onOutlet_ofHandle handle _

/-- A Clear trip of kind 0 needs one second of quiet estimates and a test that may start (R245). -/
theorem effClearTrip_rc (handle : s.ofHandle c.handle.toNat = some o) (kind : fld (c.p 0) 0 2 = 0) : effClearTrip c s =
    if (s.since (s.saf1 o).quietSince secNs && rdcFree s o) = true then startRdc (started s c) o (.clear c.ring c.index)
    else complete s c 0x0A := by
  unfold effClearTrip
  rw [onOutlet_ofHandle handle]
  simp only [kind]

/-- A Clear trip of kind 1 starts an insulation cycle (R252). -/
theorem effClearTrip_iso (handle : s.ofHandle c.handle.toNat = some o) (kind : fld (c.p 0) 0 2 = 1) (record : s.safRec o = some r)
    (idle : (s.saf1 o).imdClear = none) :
    effClearTrip c s = imdUpdate ((started s c).onSaf o fun x => { x with imdClear := some (c.ring, c.index) }) o := by
  unfold effClearTrip
  rw [onOutlet_ofHandle handle]
  simp only [kind]
  exact if_neg (by simp [record, idle])

/-- A Clear trip of kind 2 starts a weld check (R255). -/
theorem effClearTrip_weld (handle : s.ofHandle c.handle.toNat = some o) (kind : fld (c.p 0) 0 2 = 2) (record : s.safRec o = some r)
    (idle : (s.ctx o).checkWeld = false) : effClearTrip c s =
      (started s c).onCtx o fun x => { x with checkWeld := true, checkWeldCmd := some (c.ring, c.index) } := by
  unfold effClearTrip
  rw [onOutlet_ofHandle handle]
  simp only [kind]
  exact if_neg (by simp [record, idle])

theorem effClearTrip_unknown (handle : s.ofHandle c.handle.toNat = some o) (kind : fld (c.p 0) 0 2 = 3) :
    effClearTrip c s = complete s c 0x02 := by
  unfold effClearTrip
  rw [onOutlet_ofHandle handle]
  simp only [kind]

end

/-- Settles O20: a stage by `stageAfter`, an evaluation by whether one of its stages trips, and the RDC test by its two waits. -/
theorem residualCurrent : Obligations.ResidualCurrent := by
  unfold Obligations.ResidualCurrent
  refine ⟨?delay, fun x d inh => ⟨rfl, next_inhibited x d⟩, ?evaluation, ?test, ?expiry, ?run, ?clear⟩
  case delay =>
    intro d n
    rw [iterate_next_stageAfter, next_stageAfter]
  case evaluation =>
    intro s v u o idc iac r stp on sensed hv hidc hiac hu record hstp
    subst hidc hiac hu hstp
    have row := execRcEvaluation_on on sensed hv
    refine ⟨fun quiet => row.trans (congrArg Host.Outcome.next (evalResidual_quiet record quiet)), fun trips => ?_⟩
    obtain ⟨t, trip, latched⟩ := evalResidual_trips record trips
    exact ⟨t, row.trans (congrArg Host.Outcome.next trip), latched⟩
  case test =>
    intro s o d on opened
    refine ⟨fun waits met inTime => ?_, fun waits missed => ?_, fun waits met inTime => ?_, fun waits missed => ?_⟩
    · exact (execRdcTestStep_wait1 on opened waits).trans (next_if ⟨met, inTime⟩ _ _)
    · exact (execRdcTestStep_wait1 on opened waits).trans (congrArg Host.Outcome.next (if_neg (by simp [missed])))
    · exact (execRdcTestStep_wait2 on opened waits).trans (next_if ⟨met, inTime⟩ _ _)
    · exact (execRdcTestStep_wait2 on opened waits).trans (congrArg Host.Outcome.next (if_neg (by simp [missed])))
  case expiry => exact fun s o on passed => next_if (by simp [on, passed]) _ _
  case run =>
    intro s c o ready handle
    refine ⟨fun low free => ready_eq ready ((effRunRdcTest_outlet handle).trans (if_pos ⟨low, free⟩)), fun refused => ?_⟩
    refine ready_eq ready ((effRunRdcTest_outlet handle).trans (if_neg ?_))
    rintro ⟨low, free⟩
    obtain high | busy := refused
    · omega
    · simp [free] at busy
  case clear =>
    intro s c o ready handle
    refine ⟨fun kind quiet free => ?_, fun kind loud => ?_, fun r kind record idle => ?_, fun r kind record idle => ?_, fun kind => ?_⟩
    · exact ready_eq ready ((effClearTrip_rc handle kind).trans (if_pos (by simp [quiet, free])))
    · exact ready_eq ready ((effClearTrip_rc handle kind).trans (if_neg (by simp [loud])))
    · exact ready_eq ready (effClearTrip_iso handle kind record idle)
    · exact ready_eq ready (effClearTrip_weld handle kind record idle)
    · exact ready_eq ready (effClearTrip_unknown handle kind)

end Sys2Proof.Machine
end


section
/-! Insulation results, weld checks and the grace of the pilot (R249 to R256). -/

namespace Sys2Proof.Machine

/-! ### The class and r_iso of a result (R249, R250) -/

theorem isoResult_saturated {r : SafetyRec} {a b : Int} (h : 1990 * (r.vm : Int) ≤ a - b) : (isoResult r a b).cls = 3 := if_pos (.inl h)

/-- Where r_iso is a number of kΩ below the bound of class 3, it is the quotient of R249, and class 2 is below IMD_FAULT. -/
theorem isoResult_fraction {r : SafetyRec} {a b n d num den : Int} (hd : d = 2000 * (r.vm : Int) - (a - b)) (hn : n = r.rc * (a - b))
    (hnum : num = n * r.rm) (hden : den = r.rm * d - 2 * n) (low : a - b < 1990 * (r.vm : Int)) (dpos : 0 < d) (denpos : 0 < den)
    (numpos : 0 ≤ num) (measured : 1000 * n < 375 * (r.rm : Int) * d) :
    (isoResult r a b).riso = some (num / den).toNat ∧ ((isoResult r a b).cls = 2 ↔ num < r.imdFault * den) := by
  subst hd hn hnum hden
  refine ⟨if_pos ⟨dpos, denpos, numpos⟩, ?_⟩
  unfold isoResult
  dsimp only
  rw [if_neg (by omega)]
  split_ifs <;> simp_all

/-! ### The end of a half (R249) -/

section
variable {s : State} {o : Fin 128} {r : SafetyRec}

/-- A +VM half stores its Vc, and the −VM half follows. -/
theorem execImdHalfEnd_plus {u : State} (on : islandOn s = true) (record : s.safRec o = some r)
    (hu : u = s.toTick ((s.saf1 o).imdHalfAt + r.imdHalf * msNs)) (source : (s.saf1 o).imdSrc = 1) : execImdHalfEnd o s =
      .next (u.onSaf o fun x => { x with imdSrc := 2, imdHalfAt := u.now, vcPlus := some (vcNow u o) }) := by
  subst hu
  unfold execImdHalfEnd
  rw [record]
  dsimp only
  rw [if_neg (by simp [on, source]), if_pos source]

/-- A −VM half gives a result with the Vc of the half before it. -/
theorem execImdHalfEnd_minus {u : State} {v : Int} (on : islandOn s = true) (record : s.safRec o = some r)
    (hu : u = s.toTick ((s.saf1 o).imdHalfAt + r.imdHalf * msNs)) (source : (s.saf1 o).imdSrc = 2) (stored : (s.saf1 o).vcPlus = some v) :
    execImdHalfEnd o s = .next (imdUpdate (isoDone (u.onSaf o fun x => { x with imdSrc := 1, imdHalfAt := u.now, vcPlus := none }) o
      (isoResult r v (vcNow u o))) o) := by
  subst hu
  unfold execImdHalfEnd
  rw [record]
  dsimp only
  rw [if_neg (by simp [on, source]), if_neg (by simp [source]), stored]
  rfl

theorem execIsoResultAged_on {k : BitVec 2} (on : islandOn s = true) (record : s.safRec o = some r) (last : (s.saf1 o).lastClass = some k)
    (monitored : r.imdEn = true) :
    execIsoResultAged o s = .next (evalPermit (s.toTick ((s.saf1 o).lastIsoAt + r.imdAge * secNs)) o) := by
  unfold execIsoResultAged
  rw [record, last]
  exact next_if (by simp [on, monitored]) _ _

/-! ### The end of a weld check (R254) -/

theorem toTick_saf1 (s : State) (d : Nat) (o : Fin 128) : (s.toTick d).saf1 o = s.saf1 o := by rw [toTick_frame]; rfl

/-- On a DC outlet the voltage left decides. -/
theorem execCheckWeldEnd_dc (on : islandOn s = true) (record : s.safRec o = some r) (runs : (s.ctx o).checkWeld = true)
    (opened : (s.ctx o).main.fb = false) (dc : s.isDc o = true) : execCheckWeldEnd o s =
      .next (if (s.saf1 o).vdc ≤ r.weldVDc * 1000 then endCheckWeld s o none
        else endCheckWeld (s.toTick ((s.ctx o).main.fbSince + r.weldTDc * msNs)) o (some 1)) := by
  unfold execCheckWeldEnd
  rw [record]
  dsimp only
  rw [if_neg (by simp [on, runs, opened]), if_pos dc]

/-- On an AC outlet the voltage or the current of three evaluations in a row decides, 200 ms after the feedback read open. -/
theorem execCheckWeldEnd_ac (on : islandOn s = true) (record : s.safRec o = some r) (runs : (s.ctx o).checkWeld = true)
    (opened : (s.ctx o).main.fb = false) (ac : s.isDc o = false) : execCheckWeldEnd o s =
      .next (endCheckWeld (s.toTick ((s.ctx o).main.fbSince + 200 * msNs)) o
        (if 3 ≤ (s.saf1 o).weldRunV then some 0 else if 3 ≤ (s.saf1 o).weldRunI then some 2 else none)) := by
  unfold execCheckWeldEnd
  rw [record]
  dsimp only
  rw [if_neg (by simp [on, runs, opened]), if_neg (by simp [ac]), toTick_saf1]

/-! ### The grace of the pilot (R256) and Read insulation -/

theorem execPilotGraceEnd_on {d : Nat} (on : islandOn s = true) (grace : (s.saf1 o).pilotGraceUntil = some d) :
    execPilotGraceEnd o s = .next (evalPermit ((s.toTick d).onSaf o fun x => { x with pilotGraceUntil := none }) o) := by
  unfold execPilotGraceEnd
  rw [grace]
  exact next_if on _ _

theorem effReadInsulation_outlet {c : Cmd} (handle : s.ofHandle c.handle.toNat = some o) :
    effReadInsulation c s = complete s c 0x00 (s.saf1 o).riso := onOutlet_ofHandle handle _

end

/-- Settles O21: a half by its source, a result by the quotient of R249, and a weld check by what its outlet is. -/
theorem insulationAndWelds : Obligations.InsulationAndWelds := by
  unfold Obligations.InsulationAndWelds
  refine ⟨?half, fun r a b => isoResult_saturated, ?fraction, fun s o r k => execIsoResultAged_on, ?weldDc,
    fun s o r => execCheckWeldEnd_ac, fun s o d => execPilotGraceEnd_on, ?read⟩
  case half =>
    intro s o vc r on record hvc
    subst hvc
    exact ⟨execImdHalfEnd_plus on record rfl, fun v => execImdHalfEnd_minus on record rfl⟩
  case fraction =>
    intro r a b rm rc rises low measured
    have rises' : (0 : Int) < r.rc * (a - b) := mul_pos (by exact_mod_cast rc) rises
    have rm' : (0 : Int) < r.rm := by exact_mod_cast rm
    have dpos : 0 < 2000 * (r.vm : Int) - (a - b) := by omega
    have denpos : 0 < (r.rm : Int) * (2000 * r.vm - (a - b)) - 2 * (r.rc * (a - b)) := by nlinarith
    have numpos : 0 ≤ r.rc * (a - b) * r.rm := by positivity
    obtain ⟨riso, cls⟩ := isoResult_fraction rfl rfl rfl rfl low dpos denpos numpos (by linarith)
    have whole := Int.ediv_nonneg numpos denpos.le
    refine ⟨_, riso, ?_, ?_⟩
    · rw [Int.toNat_of_nonneg whole]
      linarith [Int.ediv_mul_le (r.rc * (a - b) * r.rm : Int) denpos.ne']
    · rw [cls, Int.toNat_lt whole, Int.ediv_lt_iff_lt_mul denpos]
  case weldDc =>
    intro s o r on record runs opened dc
    refine ⟨fun gone => ?_, fun left => ?_⟩
    · exact (execCheckWeldEnd_dc on record runs opened dc).trans (next_if gone _ _)
    · exact (execCheckWeldEnd_dc on record runs opened dc).trans (congrArg Host.Outcome.next (if_neg (by omega)))
  case read => exact fun s c o ready handle => ⟨_, ready_eq ready (effReadInsulation_outlet handle), ready_completes ready 0x00 _⟩

end Sys2Proof.Machine
end


section
/-! The measurement chains: temperature sources, the boundaries of R361, and verification by tone (R351, R355 to R361, R367, R377). -/

namespace Sys2Proof.Machine

/-! ### Temperature sources (R351) -/

section
variable {s : State} {o : Fin 128}

/-- A source found faulty: its outlet is marked, and `met.tempAny` with it. -/
def tempFaulted (s : State) (o : Fin 128) : State :=
  { s.onMet o fun m => { m with tempFault := true, tempOkSince := none } with met := { s.met with tempAny := true } }

theorem tempFaulted_fault (s : State) (o : Fin 128) : ((tempFaulted s o).met1 o).tempFault = true :=
  congrArg MetOut.tempFault (vget_vmod_same _ _ _)

/-- A bad STATUS is reported once, while the source is not yet faulty. -/
theorem execTemperatureSource_bad {k : Nat} (run : s.clocksRun = true) (seen : (s.lane o).statusSeen = true)
    (bad : tempBad (s.lane o).status = some k) : execTemperatureSource o s = .next (if (s.met1 o).tempFault = true then s
      else postOut (tempFaulted s o) 0x0503 o (p8 k ++ p16 (s.lane o).status.temp.toNat)) := by
  unfold execTemperatureSource
  dsimp only
  rw [if_neg (by simp [run, seen]), bad]
  rfl

/-- A faulty source is restored 1 s after its TEMP has become valid again. -/
theorem execTemperatureSource_restored {d : Nat} (run : s.clocksRun = true) (seen : (s.lane o).statusSeen = true)
    (good : tempBad (s.lane o).status = none) (fault : (s.met1 o).tempFault = true) (since : (s.met1 o).tempOkSince = some d) :
    execTemperatureSource o s = .next (postOut ((s.toTick (d + secNs)).onMet o fun m =>
      { m with tempFault := false, tempNext := some (s.lane o).status.temp }) 0x0503 o (p8 2 ++ p16 (s.lane o).status.temp.toNat)) := by
  unfold execTemperatureSource
  dsimp only
  rw [if_neg (by simp [run, seen]), good, fault, since]

end

/-! ### Metering boundaries (R361, R377) -/

/-- Decimation is stopped (R377), or the legal island's lasting fault stands (R528): no boundary delivers. -/
def decimationStopped (s : State) : Bool := s.enr.stopped || s.tie.legalStopped

theorem decimationStopped_iff (s : State) : decimationStopped s = true ↔ s.enr.stopped = true ∨ s.tie.legalStopped = true :=
  Bool.or_eq_true_iff

/-- The state at the incomer's next boundary, with the modulators' bits and the source's last cycle taken in. -/
def incomerReached (s : State) (bits : List Byte) (src : Option SrcCycle) : State :=
  let a := s.toMains (max ((s.met.incAt + 1) * 65536) (s.tim.mains / 65536 * 65536))
  let b := incomerBits { a with met := { a.met with incAt := a.tim.mains / 65536 } } bits
  src.elim b (trackSource b)

theorem incomerEnds_eq (s : State) (bits : List Byte) (src : Option SrcCycle) : incomerEnds s bits src =
    if decimationStopped (incomerReached s bits src) = true then incomerReached s bits src
    else incomerBoundary (incomerReached s bits src) := by
  cases src <;> rfl

/-- The state in which an outlet's cycle or window ends: of a DC profile at the next multiple of 20 ms, and judged by the safety
island. -/
def outletReached (s : State) (o : Fin 128) (p : Profile) : State :=
  let t := s.toTick (((s.met1 o).boundAt / (20 * msNs) + 1) * (20 * msNs))
  weldStep (if p.dc then t.onMet o fun x => { x with boundAt := t.now / (20 * msNs) * (20 * msNs) } else s) o p

theorem outletEnds_eq (s : State) (o : Fin 128) (p : Profile) : outletEnds s o p =
    if decimationStopped (outletReached s o p) = true then outletReached s o p else outletBoundary (outletReached s o p) o p := rfl

section
variable {s u : State} {o : Fin 128} {p : LoadedProfile} {bits : List Byte} {src : Option SrcCycle}

theorem execMeteringCycleBoundary_incomer (run : s.clocksRun = true) (hu : u = incomerReached s bits src) :
    execMeteringCycleBoundary none bits src s = .next (if decimationStopped u = true then u else incomerBoundary u) := by
  subst hu
  exact congrArg Host.Outcome.next ((if_neg (by simp [run])).trans (incomerEnds_eq s bits src))

theorem execMeteringCycleBoundary_outlet (run : s.clocksRun = true) (profile : s.ctxProfile o = some p)
    (hu : u = outletReached s o p.prof) : execMeteringCycleBoundary (some o) bits src s =
      .next (if decimationStopped u = true then u else outletBoundary u o p.prof) := by
  subst hu
  unfold execMeteringCycleBoundary
  rw [if_neg (by simp [run])]
  dsimp only
  rw [profile, ← outletEnds_eq]

/-- A measured outlet delivers the quantities of its own samples. -/
theorem outletBoundary_measured {p : Profile} {v : State} {m : CycleQ} (measured : (u.lane o).link.measured = true)
    (heard : (u.met1 o).silent = false) (hm : m = outletCycle u o p)
    (hv : v = applyTemp (deliver (accrue (gapStep (cycleUsed u o) o m) o p m) o p m) o) : outletBoundary u o p =
      overRangeStep (threePhase (if p.dc then v
        else outletPhase v o ((laneOf p 1).bind fun l => (vget m.cross l).map (·.toNat))) o p m) o m := by
  subst hm hv
  exact if_neg (by simp [measured, heard])

/-- An outlet that is not measured, or silent, has no samples to deliver (R339). -/
theorem outletBoundary_silent {p : Profile} (blocked : (u.lane o).link.measured = false ∨ (u.met1 o).silent = true) : outletBoundary u o p =
    cycleUsed (u.onMet o fun x => { x with lanes := vall x.lanes fun v => { v with angle := none, angleHist := [] } }) o :=
  if_pos (by simpa using blocked)

end

/-! ### Tone verification (R355 to R357) -/

/-- The state 1 s after the lane's last correlation. -/
def toneReached (s : State) (o : Fin 128) (l : Fin 8) : State :=
  let t := s.toTick ((vget (s.met1 o).lanes l).toneAt + secNs)
  t.onVLane o l fun v => { v with toneAt := t.now }

/-- The lane has no results: silent, disabled, recordless, or its window not yet full (R357, R359). -/
def resultless (u : State) (o : Fin 128) (l : Fin 8) : Bool :=
  let v := vget (u.met1 o).lanes l
  (u.met1 o).silent || v.state == .disabled || v.state == .noRecord || (v.state == .pending && !u.since v.enteredAt (60 * secNs))

theorem resultless_iff {u : State} {o : Fin 128} {l : Fin 8} : resultless u o l = true ↔ (u.met1 o).silent = true ∨
    (vget (u.met1 o).lanes l).state = .disabled ∨ (vget (u.met1 o).lanes l).state = .noRecord ∨
    ((vget (u.met1 o).lanes l).state = .pending ∧ u.since (vget (u.met1 o).lanes l).enteredAt (60 * secNs) = false) := by
  simp [resultless, or_assoc]

section
variable {s u : State} {o : Fin 128} {l : Fin 8} {r : CalRec} {x : LegalSec}

/-- A lane with a record is correlated once it has results. -/
theorem execToneCorrelation_recorded (run : s.clocksRun = true) (legal : s.tie.legalStopped = false) (record : findCal s o l = some r)
    (sec : s.met.legal = some x) (assigned : (assignedLanes s o).contains l = true) (hu : u = toneReached s o l) :
    execToneCorrelation o l s = .next (if resultless u o l = true then u else
      let t := correlate (vget (u.met1 o).chain.lanes l).tap r.toneRef
      toneResult u o l x r t.c0 t.lag t.se t.full) := by
  subst hu
  unfold execToneCorrelation
  rw [record, sec]
  exact congrArg Host.Outcome.next (if_neg (by simpa [run, legal] using assigned))

end

theorem devClass_pass {x : LegalSec} {d : Int} (within : d.natAbs ≤ x.driftLim) : devClass x d = .pass := if_pos within

theorem devClass_beyond {x : LegalSec} {d : Int} (beyond : x.driftLim < d.natAbs) :
    devClass x d = if d.natAbs ≤ x.failLim then .drift else .fail := if_neg (by omega)

/-! ### The incomer's check (R360) and the commands (R367) -/

section
variable {s : State}

/-- A deviation of a present channel is reported beyond 0.1 %. -/
theorem execIncomerCheck_present {k : Fin 8} (run : s.clocksRun = true) (present : s.met.incPresent.getLsbD k.val = true) (ppm : Int) :
    execIncomerCheck k ppm s = .next (if 1000 < ppm.natAbs then
      verifEvent { s with met := { s.met with incCheck := true } } none k.val 3 3 ppm 0 else s) := by
  simp [execIncomerCheck, run, present]

variable {c : Cmd} {o : Fin 128}

theorem effReadVerification_outlet (handle : s.ofHandle c.handle.toNat = some o) : effReadVerification c s =
    complete s c 0x00 (pack [(0, (vget (s.met1 o).lanes (fin 8 (fld (c.p 0) 0 3))).state.code),
      (8, twos 24 (max (-0x800000) (min 0x7FFFFF (vget (s.met1 o).lanes (fin 8 (fld (c.p 0) 0 3))).dev)))]) :=
  onOutlet_ofHandle handle _

theorem effToneControl_outlet (handle : s.ofHandle c.handle.toNat = some o) : effToneControl c s =
    complete (allVerif (recordOnly (s.onMet o fun m => { m with toneOff := !bit (c.p 0) 0 }) false 0x0786 (some o)
      (p8 ((assignedLanes s o).map fun l => 2 ^ l.val).sum ++ p8 (b2n (bit (c.p 0) 0)))) o
      (if bit (c.p 0) 0 then .pending else .disabled)) c 0x00 := onOutlet_ofHandle handle _

theorem effRestartVerification_outlet (handle : s.ofHandle c.handle.toNat = some o) : effRestartVerification c s =
    if (s.met1 o).toneOff = true then complete s c 0x0A else complete (allVerif s o .pending) c 0x00 := onOutlet_ofHandle handle _

end

/-- Settles O27: a source and a boundary by their equations, a correlation by whether its lane has results, and the commands by their
effects. -/
theorem measurementChains : Obligations.MeasurementChains := by
  unfold Obligations.MeasurementChains
  refine ⟨?faulty, fun s o d => execTemperatureSource_restored, ?incomer, ?outlet, fun s x bits src stands => next_if (by simp [stands]) _ _,
    ?tone, ?classes, ?check, ?read, fun s c o ready handle => ready_eq ready (effToneControl_outlet handle), ?restart⟩
  case faulty =>
    intro s o k run seen bad
    have row := execTemperatureSource_bad run seen bad
    exact ⟨fun healthy => ⟨tempFaulted s o, row.trans (congrArg Host.Outcome.next (if_neg (by simp [healthy]))),
      tempFaulted_fault s o, rfl, rfl⟩, fun fault => row.trans (next_if fault _ _)⟩
  case incomer =>
    intro s a u bits src run ha hu
    subst ha
    have row := execMeteringCycleBoundary_incomer run hu
    exact ⟨fun decimates sound => row.trans (congrArg Host.Outcome.next (if_neg (by simp [decimationStopped_iff, decimates, sound]))),
      fun stopped => row.trans (next_if ((decimationStopped_iff u).mpr stopped) _ _)⟩
  case outlet =>
    intro s u v bits src o p m run profile hu hm hv
    have row := execMeteringCycleBoundary_outlet (bits := bits) (src := src) run profile hu
    have closes (decimates : u.enr.stopped = false) (sound : u.tie.legalStopped = false) :
        exec (.meteringCycleBoundary (some o) bits src) s = .next (outletBoundary u o p.prof) :=
      row.trans (congrArg Host.Outcome.next (if_neg (by simp [decimationStopped_iff, decimates, sound])))
    refine ⟨fun stopped => row.trans (next_if ((decimationStopped_iff u).mpr stopped) _ _),
      fun decimates sound measured heard => ?_, fun decimates sound unheard => ?_⟩
    · rw [closes decimates sound, outletBoundary_measured measured heard hm hv]
    · rw [closes decimates sound, outletBoundary_silent unheard]
  case tone =>
    intro s u o l r x t run legal record sec assigned hu ht
    subst ht
    have row := execToneCorrelation_recorded run legal record sec assigned hu
    refine ⟨fun heard enabled recorded full => ?_, fun blocked => row.trans (next_if (resultless_iff.mpr blocked) _ _)⟩
    refine row.trans (congrArg Host.Outcome.next (if_neg ?_))
    rw [resultless_iff]
    rintro (silent | disabled | recordless | ⟨pending, early⟩)
    · simp [heard] at silent
    · exact enabled disabled
    · exact recorded recordless
    · obtain judged | late := full
      · exact judged pending
      · simp [late] at early
  case classes =>
    intro x d
    exact ⟨devClass_pass, fun beyond within => (devClass_beyond beyond).trans (if_pos within),
      fun beyond far => (devClass_beyond beyond).trans (if_neg (by omega))⟩
  case check =>
    intro s k ppm run present
    have row := execIncomerCheck_present run present ppm
    exact ⟨fun beyond => row.trans (next_if beyond _ _), fun within => row.trans (congrArg Host.Outcome.next (if_neg (by omega)))⟩
  case read => exact fun s c o ready handle => ⟨_, ready_eq ready (effReadVerification_outlet handle), ready_completes ready 0x00 _⟩
  case restart =>
    intro s c o ready handle
    have effect := effRestartVerification_outlet handle
    exact ⟨fun on => ready_eq ready (effect.trans (if_neg (by simp [on]))), fun off => ready_eq ready (effect.trans (if_pos off))⟩

end Sys2Proof.Machine
end


section
/-! The writes of the measurement settings: pulse outputs, the energy block's configuration, and bandwidth monitors (R384, R386, R388,
R611). -/

namespace Sys2Proof.Machine

variable {s : State} {v : BitVec 32}

/-! ### Pulse settings (R384) -/

theorem exec_pulseSettingsWrite (reaches : BarReaches s) (k : Fin 8) (isConst : Bool) (v : BitVec 32) :
    exec (.pulseSettingsWrite k isConst v) s = .next (writePulse s k isConst v) :=
  congrArg Host.Outcome.next (viaBar_reaches reaches 10 _)

/-- A change of a pulse output depends on the output's present settings only. -/
theorem onPulse_congr {k : Fin 8} {f g : PulseOut → PulseOut} (agree : f (vget s.enr.pulses k) = g (vget s.enr.pulses k)) :
    s.onPulse k f = s.onPulse k g :=
  congrArg (fun p => s.onPulse k fun _ => p) agree

/-- The settings an output has after the next commit: EN, SRC, OUTLET, WIDTH and CONST. -/
def PulseOut.upcoming (p : PulseOut) : Bool × BitVec 3 × Fin 128 × Nat × Nat := p.next.getD (p.en, p.src, p.outlet, p.width, p.const)

theorem upcoming_settled {p : PulseOut} (settled : p.next = none) : p.upcoming = (p.en, p.src, p.outlet, p.width, p.const) := by
  rw [PulseOut.upcoming, settled, Option.getD_none]

/-- A constant in range replaces the one of the upcoming settings. -/
theorem writePulse_const (s : State) (k : Fin 8) (v : BitVec 32) : writePulse s k true v =
    if 1 ≤ fld v 0 17 ∧ fld v 0 17 ≤ 100000 then s.onPulse k fun p => { p with
      next := some (p.upcoming.1, p.upcoming.2.1, p.upcoming.2.2.1, p.upcoming.2.2.2.1, fld v 0 17) } else s := rfl

/-- A configuration in range replaces all of the upcoming settings but the constant. -/
theorem writePulse_config (s : State) (k : Fin 8) (v : BitVec 32) : writePulse s k false v =
    if 1 ≤ fld v 16 9 ∧ fld v 16 9 ≤ 500 then s.onPulse k fun p => { p with
      next := some (v.getLsbD 0, BitVec.ofNat 3 (fld v 1 3), fin 128 (fld v 4 7), fld v 16 9, p.upcoming.2.2.2.2) } else s := rfl

/-! ### The configuration of the energy block (R386, R388) -/

theorem exec_demandLengthChange (reaches : BarReaches s) (v : BitVec 32) :
    exec (.demandLengthChange v) s = .next (writeEnrCfg s v) :=
  congrArg Host.Outcome.next (viaBar_reaches reaches 10 _)

theorem writeEnrCfg_accepted (length : fld v 0 3 ≤ 4) (low : 5 ≤ fld v 6 6) (high : fld v 6 6 ≤ 60) :
    writeEnrCfg s v = { s with enr := { s.enr with
      demandLenNext := if fld v 0 3 = s.enr.demandLen.toNat then none else some (BitVec.ofNat 3 (fld v 0 3))
      demandEvt := v.getLsbD 3, balEn := v.getLsbD 4, keepEn := v.getLsbD 5
      balInvalid := s.enr.balInvalid || fld v 6 6 != s.enr.balWin, balWin := fld v 6 6 } } :=
  if_neg (by omega)

theorem writeEnrCfg_refused (outside : 4 < fld v 0 3 ∨ fld v 6 6 < 5 ∨ 60 < fld v 6 6) : writeEnrCfg s v = s := if_pos outside

/-! ### Bandwidth monitors (R611) -/

theorem exec_bandwidthMonitorWrite (reaches : BarReaches s) (m : Fin 8) (v : BitVec 32) :
    exec (.bandwidthMonitorWrite m v) s = .next (writeBwCfg s m v) :=
  congrArg Host.Outcome.next (viaBar_reaches reaches 21 _)

/-- A new window starts the monitor afresh at its next boundary. -/
theorem writeBwCfg_window {m : Fin 8} (port : fld v 0 8 ≤ 132) (low : 1 ≤ fld v 12 20) (high : fld v 12 20 ≤ 1000000)
    (changed : (vget s.pmc.mons m).win ≠ fld v 12 20) : writeBwCfg s m v = s.onMon m fun _ => {
      port := BitVec.ofNat 8 (fld v 0 8), dir := v.getLsbD 8, win := fld v 12 20
      startAt := (s.now + fld v 12 20 * usNs - 1) / (fld v 12 20 * usNs) * (fld v 12 20 * usNs) } :=
  (if_neg (by omega)).trans (if_neg fun same => changed same.2.2)

theorem writeBwCfg_refused (outside : 132 < fld v 0 8 ∨ fld v 12 20 = 0 ∨ 1000000 < fld v 12 20) (m : Fin 8) : writeBwCfg s m v = s :=
  if_pos (by omega)

/-- Settles O33: each write reaches its block, which takes a value in range whole and ignores any other. -/
theorem measurementWrites : Obligations.MeasurementWrites := by
  unfold Obligations.MeasurementWrites
  refine ⟨?const, ?config, ?constOutside, ?configOutside, ?energy, ?energyOutside, ?monitor, ?monitorOutside⟩
  case const =>
    intro s k v reaches settled low high
    rw [exec_pulseSettingsWrite reaches, writePulse_const, if_pos ⟨low, high⟩]
    exact congrArg Host.Outcome.next (onPulse_congr (by rw [upcoming_settled settled]))
  case config =>
    intro s k v reaches settled low high
    rw [exec_pulseSettingsWrite reaches, writePulse_config, if_pos ⟨low, high⟩]
    exact congrArg Host.Outcome.next (onPulse_congr (by rw [upcoming_settled settled]))
  case constOutside =>
    intro s k v reaches outside
    rw [exec_pulseSettingsWrite reaches, writePulse_const, if_neg (by omega)]
  case configOutside =>
    intro s k v reaches outside
    rw [exec_pulseSettingsWrite reaches, writePulse_config, if_neg (by omega)]
  case energy =>
    intro s v reaches length low high
    rw [exec_demandLengthChange reaches, writeEnrCfg_accepted length low high]
  case energyOutside =>
    intro s v reaches outside
    rw [exec_demandLengthChange reaches, writeEnrCfg_refused outside]
  case monitor =>
    intro s m v reaches port low high changed
    rw [exec_bandwidthMonitorWrite reaches, writeBwCfg_window port low high changed]
  case monitorOutside =>
    intro s m v reaches outside
    rw [exec_bandwidthMonitorWrite reaches, writeBwCfg_refused outside]

end Sys2Proof.Machine
end


section
/-! The step and its queue, the settings after reset, and the bytes of an image (R588). -/

namespace Sys2Proof.Machine

/-- Settles O1: a step on a queue with a command at its front runs that command. -/
theorem stepRunsTheFrontCommand : Obligations.StepRunsTheFrontCommand := fun _ _ _ => step_front

/-- Settles O3: what every command keeps, for the queue. -/
theorem commandsLeaveTheQueue : Obligations.CommandsLeaveTheQueue := fun c s =>
  let ⟨t, answers, pending, _⟩ := exec_kept c s
  ⟨t, answers, pending⟩

/-- Settles O5: the settings of the reset state are the default ones. -/
theorem settingsInRangeAtReset : Obligations.SettingsInRangeAtReset := settings_reset

/-! ### Bytes of an image (R588) -/

/-- A form that begins at `lo` lists no address below `lo`. -/
theorem Memory.get_below {x : Nat} : ∀ {m : List Host.Cell} {lo : Nat}, Memory.wfFrom lo m = true → x < lo → Memory.get m x = Memory.blank
  | [], _, _, _ => rfl
  | c :: t, lo, form, below => by
    simp only [Memory.wfFrom, Bool.and_eq_true, decide_eq_true_eq] at form
    obtain ⟨⟨first, -⟩, rest⟩ := form
    rw [Memory.get, if_neg (by omega), Memory.get_below rest (by omega)]

theorem Memory.get_cons (c : Host.Cell) (t : List Host.Cell) (x : Nat) :
    Memory.get (c :: t) x = if c.1 = x then c.2 else Memory.get t x := rfl

/-- What a byte reads as after a write of one byte. -/
theorem Memory.get_put {a : Nat} {b : Byte} {x : Nat} : ∀ {m : List Host.Cell} {lo : Nat}, Memory.wfFrom lo m = true →
    Memory.get (Memory.put m a b) x = if x = a then b else Memory.get m x
  | [], _, _ => by
    rw [Memory.put, apply_ite (Memory.get · x), Memory.get_cons]
    grind [Memory.get]
  | c :: t, lo, form => by
    simp only [Memory.wfFrom, Bool.and_eq_true, decide_eq_true_eq] at form
    obtain ⟨-, rest⟩ := form
    have blankUpTo : x < c.1 + 1 → Memory.get t x = Memory.blank := Memory.get_below rest
    rcases Nat.lt_trichotomy a c.1 with before | same | after
    · rw [Memory.put, if_pos before, apply_ite (Memory.get · x), Memory.get_cons]
      grind [Memory.get_cons]
    · rw [Memory.put, if_neg (by omega), if_pos same, apply_ite (Memory.get · x), Memory.get_cons, Memory.get_cons]
      grind
    · rw [Memory.put, if_neg (by omega), if_neg (by omega), Memory.get_cons, Memory.get_cons, Memory.get_put rest]
      grind

/-- What a byte reads as after a write of bytes from `a` on. -/
theorem Memory.get_putAll {x : Nat} : ∀ {l : List Byte} {m : List Host.Cell} {a : Nat}, Memory.wf m = true →
    Memory.get (Memory.putAll m a l) x = if a ≤ x ∧ x < a + l.length then l.getD (x - a) 0 else Memory.get m x
  | [], m, a, _ => by rw [Memory.putAll, if_neg (by simp)]
  | b :: t, m, a, form => by
    rw [Memory.putAll, Memory.get_putAll (Memory.put_wf form a b), Memory.get_put form, List.length_cons]
    rcases Nat.lt_trichotomy x a with below | rfl | above
    · rw [if_neg (by omega), if_neg (by omega), if_neg (by omega)]
    · rw [if_neg (by omega), if_pos rfl, if_pos (by omega), Nat.sub_self, List.getD_cons_zero]
    · rw [if_neg (by omega : ¬ x = a), show x - a = (x - (a + 1)) + 1 by omega, List.getD_cons_succ]
      exact if_congr (by omega) rfl rfl

/-- Settles O6: a byte in the block is the block's, and any other the memory's. -/
theorem imageBytesReadBack : Obligations.ImageBytesReadBack := by
  intro m a l x form
  refine ⟨fun i inBlock at_ => ?_, fun outside => ?_⟩
  · rw [Memory.get_putAll form, if_pos (by omega), at_, Nat.add_sub_cancel_left, List.getD_eq_getElem _ _ inBlock]
  · rw [Memory.get_putAll form, if_neg (by omega)]

end Sys2Proof.Machine
end


section
/-! The writes of the event recorder, reads of its records, and snapshots (R434 to R437, R444, R449, R450). -/

namespace Sys2Proof.Machine

variable {s : State}

theorem onLog_log (s : State) (ops which : Bool) (f : Log → Log) :
    (s.onLog ops f).recd.log which = if ops = which then f (s.recd.log ops) else s.recd.log which := by
  cases ops <;> cases which <;> rfl

@[simp] theorem onLog_log_same (s : State) (ops : Bool) (f : Log → Log) : (s.onLog ops f).recd.log ops = f (s.recd.log ops) := by
  rw [onLog_log, if_pos rfl]

@[simp] theorem onLog_snapCmds (s : State) (ops : Bool) (f : Log → Log) : (s.onLog ops f).recd.snapCmds = s.recd.snapCmds := by
  cases ops <;> rfl

/-! ### Writes to keeping memory (R434 to R436, R444) -/

/-- Where the permanent area has room, a record is stored without an event. -/
theorem storeRecord_room {ops : Bool} (room : (s.recd.log ops).permA.length < permSlots ops) (r : LogRec) :
    storeRecord s ops r = s.onLog ops fun l => { l with
      next := l.next + 1
      circ := ({ r with gen := (s.recd.log ops).next, perm := false } :: l.circ).take (circSlots ops)
      permA := if r.perm || permKind ops r.code.toNat r.payload then l.permA ++ [{ r with gen := (s.recd.log ops).next, perm := true }]
        else l.permA } := by
  unfold storeRecord
  simp [Nat.not_le.mpr room]

theorem reportLost_none {ops : Bool} (kept : (s.recd.log ops).lostCount = 0) : reportLost s ops = s := if_pos kept

theorem snapDone_none (waits : s.recd.snapCmds = []) (ident : Nat) : snapDone s ident = s := by
  unfold snapDone
  rw [waits]
  rfl

/-- The one record that is staged leaves the staging and is stored. -/
theorem writeStaged_only {ops : Bool} {r : LogRec} (staged : (s.recd.log ops).staging = [r]) : writeStaged s ops =
    snapDone (reportLost (storeRecord (s.onLog ops fun l => { l with staging := [] }) ops r) ops) r.ident := by
  unfold writeStaged
  rw [staged]
  rfl

theorem writeStaged_empty {ops : Bool} (staged : (s.recd.log ops).staging = []) : writeStaged s ops = s := by
  unfold writeStaged
  rw [staged]
  rfl

theorem exec_recordWrite {legal : Bool} (run : s.clocksRun = true) (open_ : legal = true ∨ s.glb.phase = .running) :
    exec (.recordWrite legal) s = .next (writeStaged s !legal) :=
  congrArg Host.Outcome.next (if_pos (by simpa [run] using open_))

theorem exec_recordWrite_reset (held : s.glb.phase ≠ .running) : exec (.recordWrite false) s = .next s :=
  congrArg Host.Outcome.next (if_neg (by simp [held]))

/-! ### Read records (R449) -/

/-- The records that Read records asks for, in their order: from the permanent area or by their generation numbers. -/
def askedRecords (s : State) (c : Cmd) (ops : Bool) (n : Nat) : List (Option LogRec) := (List.range n).map fun i =>
  if bit (c.p 0) 1 then (s.recd.log ops).permA[(c.p 1).toNat + i]?
  else (s.recd.log ops).circ[((s.recd.log ops).next - 1 - (c.p 1 + BitVec.ofNat 32 i)).toNat]?

/-- The bytes that stand for a record, or for a slot that holds none. -/
def slotBytes (s : State) (ops perm : Bool) (r : Option LogRec) : List Byte := (r.map (logBytes s ops perm)).getD (List.replicate 256 0)

theorem effReadRecords_read {c : Cmd} {rs : List (Option LogRec)} (hrs : rs = askedRecords s c (bit (c.p 0) 0) (fld (c.p 2) 0 5))
    (some_ : 0 < fld (c.p 2) 0 5) (most : fld (c.p 2) 0 5 ≤ 16) (aligned : c.p2 3 % 256 = 0) : effReadRecords c s =
      complete (s.hostWrite (BitVec.ofNat 64 (c.p2 3)) (rs.flatMap (slotBytes s (bit (c.p 0) 0) (bit (c.p 0) 1)))) c 0
        (pack [(0, (rs.filter (·.isSome)).length), (16, fld (c.p 2) 0 5 - (rs.filter (·.isSome)).length)]) := by
  subst hrs
  unfold effReadRecords
  rw [if_neg (by omega)]
  have bytes : slotBytes s (bit (c.p 0) 0) (bit (c.p 0) 1) = fun r => match r with
      | some r => logBytes s (bit (c.p 0) 0) (bit (c.p 0) 1) r
      | none => List.replicate 256 0 := by
    funext r
    cases r <;> rfl
  rw [bytes]
  rfl

/-! ### Take snapshot (R450) -/

/-- The outlet of which a snapshot is taken: none for the device. -/
def SnapshotOf (s : State) (c : Cmd) (x : Option (Fin 128)) : Prop :=
  (c.device = true ∧ x = none) ∨ (c.device = false ∧ x ≠ none ∧ s.ofHandle c.handle.toNat = x)

/-- The record that Take snapshot stages. -/
def snapshotRecord (s : State) (c : Cmd) (x : Option (Fin 128)) : LogRec :=
  mkRecord { s with rng := { s.rng with posted := s.rng.posted + 1 } } true 0x0788 x
    (p8 (fld (c.p 0) 0 4) ++ leBytes 4 c.tag.toNat) (s.rng.posted + 1) (some (fld (c.p 0) 0 4))

/-- The state after the record has been pushed. -/
def snapshotPushed (s : State) (c : Cmd) (x : Option (Fin 128)) : State :=
  pushRecord { s with rng := { s.rng with posted := s.rng.posted + 1 } } true (snapshotRecord s c x)

theorem effTakeSnapshot_of {c : Cmd} {x : Option (Fin 128)} (of_ : SnapshotOf s c x) : effTakeSnapshot c s =
    if s.recd.ops.staging.length < stagingSlots true then
      { started (snapshotPushed s c x) c with recd := { (snapshotPushed s c x).recd with
        snapCmds := (BitVec.ofNat 32 (s.rng.posted + 1), c.ring, c.index) :: (snapshotPushed s c x).recd.snapCmds } }
    else complete (snapshotPushed s c x) c 0x0A := by
  unfold effTakeSnapshot
  rcases of_ with ⟨device, rfl⟩ | ⟨outlet, named, handle⟩
  · simp only [device, if_true, decide_eq_true_eq]
    rfl
  · obtain ⟨o, rfl⟩ := Option.ne_none_iff_exists'.mp named
    simp only [outlet, Bool.false_eq_true, if_false, onOutlet_ofHandle handle, decide_eq_true_eq]
    rfl

theorem pushRecord_room {ops : Bool} (room : (s.recd.log ops).staging.length < stagingSlots ops) (r : LogRec) :
    pushRecord s ops r = s.onLog ops fun l => { l with staging := l.staging ++ [r] } := if_pos room

theorem snapshotPushed_room (room : s.recd.ops.staging.length < stagingSlots true) (c : Cmd) (x : Option (Fin 128)) :
    snapshotPushed s c x = ({ s with rng := { s.rng with posted := s.rng.posted + 1 } } : State).onLog true fun l => { l with
      staging := l.staging ++ [snapshotRecord s c x] } :=
  pushRecord_room (s := { s with rng := { s.rng with posted := s.rng.posted + 1 } }) (ops := true) room _

/-- A record that finds the staging full is only counted. -/
theorem pushRecord_full {ops : Bool} (full : stagingSlots ops ≤ (s.recd.log ops).staging.length) (r : LogRec) :
    ((pushRecord s ops r).recd.log ops).staging = (s.recd.log ops).staging ∧
    (if ops then (pushRecord s ops r).recd.lostOps else (pushRecord s ops r).recd.lostLegal) = true := by
  unfold pushRecord
  rw [if_neg (Nat.not_lt.mpr full)]
  cases ops <;> exact ⟨rfl, rfl⟩

/-- Settles O59: a write by `storeRecord_room`, a read by the records asked for, a snapshot by what pushing its record does. -/
theorem recorderWrites : Obligations.RecorderWrites := by
  unfold Obligations.RecorderWrites
  refine ⟨?write, ?reset, ?nothing, ?read, ?readRefused, ?snapshot, ?snapshotRefused⟩
  case write =>
    intro s legal r l run open_ hl staged kept waits room
    subst hl
    have stored : writeStaged s (!legal) = (s.onLog (!legal) fun l => { l with staging := [] }).onLog (!legal) fun l => { l with
        next := l.next + 1
        circ := ({ r with gen := (s.recd.log !legal).next, perm := false } :: l.circ).take (circSlots !legal)
        permA := if r.perm || permKind (!legal) r.code.toNat r.payload then
          l.permA ++ [{ r with gen := (s.recd.log !legal).next, perm := true }] else l.permA } := by
      rw [writeStaged_only staged, storeRecord_room (by simpa using room), reportLost_none (by simpa using kept),
        snapDone_none (by simpa using waits), onLog_log_same]
    refine ⟨_, exec_recordWrite run open_, ?_, ?_, ?_⟩
    · rw [stored]; rfl
    · rw [stored, onLog_log_same, onLog_log_same]
    · rw [stored, onLog_log, if_neg (by simp), onLog_log, if_neg (by simp)]
  case reset => exact fun s held => exec_recordWrite_reset held
  case nothing =>
    intro s legal staged
    refine congrArg Host.Outcome.next ?_
    rw [writeStaged_empty staged, ite_self]
  case read =>
    intro s c ops n rs ready hops hn some_ most aligned hrs
    subst hops hn
    exact ⟨_, ready_eq ready (effReadRecords_read hrs some_ most aligned), complete_done (hostWrite_inFlight ready.cmd _ _) _ _,
      fun on => complete_out _ c _ _ _ (hostWrite_sent _ _ on)⟩
  case readRefused => exact fun s c ready bad => ready_eq ready (if_pos bad)
  case snapshot =>
    intro s c x ready of_ room
    have pushed := snapshotPushed_room room c x
    refine ⟨_, snapshotRecord s c x, ready_eq ready ((effTakeSnapshot_of of_).trans (if_pos room)), ?_, ?_, rfl, rfl, rfl, ?_⟩
    · exact inFlight_same (started_inFlight (inFlight_same (t := snapshotPushed s c x) ready.cmd (by rw [pushed]; rfl))) rfl
    · rw [pushed]; rfl
    · rw [pushed]; rfl
  case snapshotRefused =>
    intro s c ready device full
    obtain ⟨staging, lost⟩ := pushRecord_full (s := { s with rng := { s.rng with posted := s.rng.posted + 1 } }) (ops := true) full
      (snapshotRecord s c none)
    exact ⟨_, ready_eq ready ((effTakeSnapshot_of (.inl ⟨device, rfl⟩)).trans (if_neg (Nat.not_lt.mpr full))), staging, lost⟩

end Sys2Proof.Machine
end


section
/-! Reader transactions with a tag and a card (R454, R455, R467 to R470, R551). -/

namespace Sys2Proof.Machine

variable {s : State} {e : Fin 16} {x : Transaction}

theorem onAut_aut1 (s : State) (o k : Fin 128) (f : OutAut → OutAut) :
    (s.onAut o f).aut1 k = if o = k then f (s.aut1 k) else s.aut1 k := vget_vmod _ _ _ _

@[simp] theorem onAut_aut1_same (s : State) (o : Fin 128) (f : OutAut → OutAut) : (s.onAut o f).aut1 o = f (s.aut1 o) :=
  vget_vmod_same _ _ _

@[simp] theorem toTick_aut1 (s : State) (d : Nat) (o : Fin 128) : (s.toTick d).aut1 o = s.aut1 o := by rw [toTick_frame]; rfl

theorem toTick_now (s : State) (d : Nat) : d ≤ (s.toTick d).now := toTick_reaches s d

/-! ### The grant (R454, R455) -/

/-- The transaction with which an engine begins. -/
def newTransaction (s : State) (o : Fin 128) : Transaction :=
  { outlet := o, step := .harvest, startAt := s.now, sentAt := s.now, sent := [], crcBad := 0, tagId := 0, nr := 0, kTag := 0
    kts := 0, ctr := 0, bank0 := ⟨0, 0, 0, false⟩, bank1 := ⟨0, 0, 0, false⟩, commit := 0, wBank := false, wBytes := [], authed := false
    collapsed := false, cardNr := 0, cmds := (s.aut1 o).readCmds }

/-- The request is taken and the transaction stands. -/
def requestTaken (s : State) (e : Fin 16) (o : Fin 128) : State :=
  { s.onAut o fun a => { a with reqAt := none, waitLong := false, readCmds := [] } with
    aut := { s.aut with engines := vmod s.aut.engines e fun _ => some (newTransaction s o) } }

/-- The state after the harvest wait of a granted engine. -/
def engineGranted (s : State) (e : Fin 16) (o : Fin 128) : State := (requestTaken s e o).toTick (s.now + 5 * msNs)

theorem engineGranted_frame (s : State) (e : Fin 16) (o : Fin 128) : engineGranted s e o = { requestTaken s e o with
    tim := (engineGranted s e o).tim, keep := (engineGranted s e o).keep } := toTick_frame _ _

theorem engineGranted_transaction (s : State) (e : Fin 16) (o : Fin 128) :
    vget (engineGranted s e o).aut.engines e = some (newTransaction s o) := by
  rw [engineGranted_frame]
  exact vget_vmod_same _ _ _

theorem engineGranted_request (s : State) (e : Fin 16) (o : Fin 128) : ((engineGranted s e o).aut1 o).reqAt = none := by
  rw [engineGranted, toTick_aut1]
  change ((s.onAut o _).aut1 o).reqAt = none
  rw [onAut_aut1_same]

theorem exec_engineGrant {o : Fin 128} {n : Nat} (run : enginesRun s = true) (free : vget s.aut.engines e = none)
    (next : nextRequest s = some (o, n)) : exec (.engineGrant e) s = .next (
      if (s.aut1 o).tagEn = true ∧ (s.keySlot 2).state = .valid ∧ s.key.dbgKeys = false then tagSend (engineGranted s e o) e o .wakeAll 0x09 []
      else afterTag (engineGranted s e o) e) := by
  have slot : (engineGranted s e o).keySlot 2 = s.keySlot 2 := by rw [engineGranted_frame]; rfl
  have key : (engineGranted s e o).key = s.key := by rw [engineGranted_frame]; rfl
  change execEngineGrant e s = _
  unfold execEngineGrant
  rw [if_pos (by simp [run, free]), next]
  refine congrArg Host.Outcome.next (if_congr ?_ rfl rfl)
  change ((s.aut1 o).tagEn && ((engineGranted s e o).keySlot 2).state == .valid && !(engineGranted s e o).key.dbgKeys) = true ↔ _
  simp [slot, key, and_assoc]

theorem exec_engineGrant_none (none_ : enginesRun s = false ∨ vget s.aut.engines e ≠ none ∨ nextRequest s = none) :
    exec (.engineGrant e) s = .next s := by
  change execEngineGrant e s = _
  unfold execEngineGrant
  split
  · next serves =>
    simp only [Bool.and_eq_true, Option.isNone_iff_eq_none] at serves
    rcases none_ with off | busy | idle
    · simp [serves.1] at off
    · exact absurd serves.2 busy
    · rw [idle]
  · rfl

/-! ### The answers of a tag (R467 to R470) -/

/-- A reply's CRC_B passes over its flag and its content. -/
def SoundReply (l : List Byte) : Prop := 4 ≤ l.length ∧ l.head? = some 0xA7#8 ∧ crcB (l.take (l.length - 2)) = l.drop (l.length - 2)

theorem crcB_length (l : List Byte) : (crcB l).length = 2 := by simp [crcB, leBytes]

theorem soundReply_framed {p : List Byte} (content : 1 ≤ p.length) : SoundReply (0xA7 :: p ++ crcB (0xA7 :: p)) ∧
    (0xA7 :: p ++ crcB (0xA7 :: p)).take ((0xA7 :: p ++ crcB (0xA7 :: p)).length - 2) = 0xA7 :: p := by
  have body : (0xA7 :: p ++ crcB (0xA7 :: p)).length - 2 = ((0xA7 : Byte) :: p).length := by simp [crcB_length]
  refine ⟨⟨?_, rfl, ?_⟩, ?_⟩
  · simp [crcB_length]; omega
  · rw [body, List.take_left, List.drop_left]
  · rw [body, List.take_left]

theorem exec_tagReply (busy : vget s.aut.engines e = some x) (run : enginesRun s = true) (awaits : x.step.tagWait = true) (l : List Byte) :
    (SoundReply l → exec (.tagReply e l) s =
      .next (tagReply (s.onTx e fun t => { t with crcBad := 0 }) e x ((l.take (l.length - 2)).drop 2))) ∧
    (¬ SoundReply l → exec (.tagReply e l) s = .next (
      if x.crcBad = 0 then (s.send (.reader x.outlet x.sent)).onTx e fun t => { t with crcBad := 1, sentAt := s.now }
      else if x.step = .wakeAll ∨ x.step = .second then afterTag s e else collapseTx s e x)) := by
  have sound : (4 ≤ l.length && l.head? == some 0xA7#8 && crcB (l.take (l.length - 2)) == l.drop (l.length - 2)) = true ↔ SoundReply l := by
    simp [SoundReply, and_assoc]
  change (_ → execTagReply e l s = _) ∧ (_ → execTagReply e l s = _)
  unfold execTagReply
  rw [busy]
  dsimp only
  rw [if_neg (by simp [run, awaits])]
  exact ⟨fun h => by rw [if_pos (sound.mpr h)], fun h => by rw [if_neg (mt sound.mp h)]⟩

/-! ### The answers of a card (R456, R457) -/

theorem exec_cardResponse_polled (busy : vget s.aut.engines e = some x) (run : enginesRun s = true) (poll : x.step = .poll) :
    (∀ u, exec (.cardResponse e (.typeA u)) s = .next (cardPolled s e x 1 u (u.length == 4 || u.length == 7 || u.length == 10))) ∧
    (∀ u, exec (.cardResponse e (.typeB u)) s = .next (cardPolled s e x 2 u (u.length == 4))) ∧
    exec (.cardResponse e .collision) s = .next (cardOutcome s e x.outlet 5) ∧
    exec (.cardResponse e .failed) s = .next (cardOutcome s e x.outlet 7) := by
  refine ⟨fun u => ?_, fun u => ?_, ?_, ?_⟩
  all_goals
    change execCardResponse e _ s = _
    unfold execCardResponse
    rw [busy]
    dsimp only
    rw [if_neg (by simp [run]), poll]

theorem exec_cardResponse_keyed {id mac m : List Byte} {v : State} (busy : vget s.aut.engines e = some x) (run : enginesRun s = true)
    (exchange : x.step = .exchange) (key : useKey s 1 = (some m, v)) (sixteen : id.length = 16) : exec (.cardResponse e (.keyed id mac)) s =
      .next (if mac = tagMac (aesEncrypt (block128 m) (block128 id)) (p8 0x40 ++ leBytes 16 x.cardNr.toNat ++ id) then cardIs v e x.outlet 3 id
        else cardOutcome v e x.outlet 4) := by
  change execCardResponse e _ s = _
  unfold execCardResponse
  rw [busy]
  dsimp only
  rw [if_neg (by simp [run]), exchange]
  dsimp only
  unfold cardKeyed
  rw [key]
  dsimp only
  exact congrArg Host.Outcome.next (if_congr (and_iff_right sixteen) rfl rfl)

/-! ### Missing answers (R454, R467) -/

theorem exec_fieldCollapse (busy : vget s.aut.engines e = some x) (run : enginesRun s = true) :
    exec (.fieldCollapse e) s = .next (noAnswer (s.toTick (x.sentAt + 2 * msNs)) e x) := by
  change execFieldCollapse e s = _
  rw [execFieldCollapse, busy]
  exact congrArg Host.Outcome.next (if_pos run)

theorem exec_transactionTimeout (busy : vget s.aut.engines e = some x) (running : s.glb.phase = .running) :
    exec (.transactionTimeout e) s = .next (if (writeStep x.step).isSome then collapseTx (s.toTick (x.startAt + 200 * msNs)) e x
      else finishTx (s.toTick (x.startAt + 200 * msNs)) e) := by
  change execTransactionTimeout e s = _
  rw [execTransactionTimeout, busy]
  exact congrArg Host.Outcome.next (if_pos running)

/-- Settles O35: the grant by what has been granted, a reply by whether its CRC_B passes, a card's answer by the step that awaits it. -/
theorem readerTransactions : Obligations.ReaderTransactions := by
  unfold Obligations.ReaderTransactions
  refine ⟨?grant, fun s e none_ => exec_engineGrant_none none_, ?reply, fun s e x => exec_cardResponse_polled,
    fun s e x id mac m v => exec_cardResponse_keyed, fun s e x => exec_fieldCollapse, ?timeout⟩
  case grant =>
    intro s e o n run free next
    refine ⟨engineGranted s e o, newTransaction s o, engineGranted_transaction s e o, rfl, rfl, engineGranted_request s e o, toTick_now _ _, ?_, ?_⟩
    · intro tag key open_
      rw [exec_engineGrant run free next, if_pos ⟨tag, key, open_⟩]
    · intro noTag
      rw [exec_engineGrant run free next, if_neg]
      rintro ⟨tag, key, open_⟩
      simp [tag, key, open_] at noTag
  case reply =>
    intro s e x l busy run awaits
    obtain ⟨good, bad⟩ := exec_tagReply busy run awaits l
    refine ⟨?_, fun crc => ⟨?_, ?_⟩⟩
    · rintro p rfl content
      obtain ⟨sound, body⟩ := soundReply_framed content
      rw [good sound, body, List.drop_succ_cons]
    · intro first
      rw [bad fun sound => crc sound.2.2, if_pos first]
    · intro second wake other
      rw [bad fun sound => crc sound.2.2, if_neg second, if_neg (not_or.mpr ⟨wake, other⟩)]
  case timeout =>
    intro s e x busy running
    refine ⟨fun outside => ?_, fun writing => ?_⟩
    · rw [exec_transactionTimeout busy running, if_neg (by simp [outside])]
    · rw [exec_transactionTimeout busy running, if_pos (Option.isSome_iff_ne_none.mpr writing)]

end Sys2Proof.Machine
end


section
/-! Requests of a reader engine, the validity of a cable, and lookups (R453, R454, R461, R473, R477). -/

namespace Sys2Proof.Machine

variable {s : State} {o : Fin 128}

/-! ### Requests (R453, R454) -/

theorem exec_ping (running : s.glb.phase = .running) (watched : pingEn s o = true) :
    exec (.ping o) s = .next (wake (requestEngine s o) 4 o.val).revote :=
  congrArg Host.Outcome.next (if_pos (by simp [running, watched]))

theorem exec_ping_unwatched (unwatched : pingEn s o = false) : exec (.ping o) s = .next s :=
  congrArg Host.Outcome.next (if_neg (by simp [unwatched]))

theorem exec_tagPoll (running : s.glb.phase = .running) (en : s.aut.en = true) (awake : s.pwr.quiet = false)
    (tag : (s.aut1 o).tagEn = true) (classA : (s.ctx o).pilot = 0) (none_ : (s.aut1 o).reqAt = none) :
    exec (.tagPoll o) s = .next (requestEngine (s.toTick ((s.aut1 o).lastTxAt + s.cfg.pollT * secNs)) o).revote :=
  congrArg Host.Outcome.next (if_pos (by simp [running, en, awake, tag, classA, none_]))

/-- A request that has waited 1 s is marked, and so is the block. -/
def waitMarked (s : State) (o : Fin 128) (d : Nat) : State :=
  { (s.toTick (d + secNs)).onAut o fun a => { a with waitLong := true } with aut := { (s.toTick (d + secNs)).aut with waitLongF := true } }

theorem exec_requestWaitLong {d : Nat} (running : s.glb.phase = .running) (waits : (s.aut1 o).reqAt = some d)
    (first : (s.aut1 o).waitLong = false) : exec (.requestWaitLong o) s = .next (waitMarked s o d) := by
  change execRequestWaitLong o s = _
  unfold execRequestWaitLong
  dsimp only
  rw [waits]
  exact congrArg Host.Outcome.next (if_pos (by simp [running, first]))

theorem waitMarked_aut1 (s : State) (o k : Fin 128) (d : Nat) :
    (waitMarked s o d).aut1 k = if o = k then { s.aut1 k with waitLong := true } else s.aut1 k := by
  change ((s.toTick (d + secNs)).onAut o _).aut1 k = _
  rw [onAut_aut1, toTick_aut1]

@[simp] theorem revote_aut1 (s : State) (k : Fin 128) : s.revote.aut1 k = s.aut1 k := by simp [State.aut1]

/-- A request merges into the outlet's earlier one, which keeps its place. -/
theorem requestEngine_reqAt (s : State) (o : Fin 128) : ((requestEngine s o).aut1 o).reqAt = some ((s.aut1 o).reqAt.getD s.now) := by
  rw [requestEngine, onAut_aut1_same]
  cases waits : (s.aut1 o).reqAt <;> simp [waits]

theorem requestEngine_readCmds (s : State) (o : Fin 128) : ((requestEngine s o).aut1 o).readCmds = (s.aut1 o).readCmds := by
  rw [requestEngine, onAut_aut1_same, apply_ite OutAut.readCmds, ite_self]

/-! ### Cables (R473, R477) -/

theorem exec_tagAgeExpiry (running : s.glb.phase = .running) (valid : (s.aut1 o).cableValid = true) (classA : (s.ctx o).pilot = 0) :
    exec (.tagAgeExpiry o) s = .next (setCable (s.toTick ((s.aut1 o).lastAuthAt + s.cfg.tagAge * secNs)) o false) :=
  congrArg Host.Outcome.next (if_pos (by simp [running, valid, classA]))

theorem effBindCable_outlet {c : Cmd} (ho : s.ofHandle c.handle.toNat = some o) : effBindCable c s =
    if bit (c.p 0) 0 = true ∧ (s.tagJ1 o).authedOnce = false then complete s c 0x0A
    else complete (mirrorTag (setCable (s.onTagJ o fun j => { j with
      bound := if bit (c.p 0) 0 then some (s.tagJ1 o).tagId else none }) o false (some c)) o) c 0x00 := by
  rw [effBindCable, onOutlet_ofHandle ho]
  have own : (s.onTagJ o fun j => { j with bound := if bit (c.p 0) 0 then some j.tagId else none }) =
      s.onTagJ o fun j => { j with bound := if bit (c.p 0) 0 then some (s.tagJ1 o).tagId else none } :=
    congrArg (fun v => { s with tagJ := v }) (vmod_congr s.tagJ o _ _ rfl)
  dsimp only
  rw [own]
  exact if_congr (by simp) rfl rfl

/-- Read tag waits with the outlet's other Read tags. -/
def readTagQueued (s : State) (c : Cmd) (o : Fin 128) : State :=
  (requestEngine ((started s c).onAut o fun a => { a with readCmds := a.readCmds ++ [(c.ring, c.index)] }) o).revote

theorem effReadTag_outlet {c : Cmd} (ho : s.ofHandle c.handle.toNat = some o) :
    effReadTag c s = if (s.aut1 o).tagEn = true then readTagQueued s c o else complete s c 0x08 := by
  rw [effReadTag, onOutlet_ofHandle ho]
  by_cases tag : (s.aut1 o).tagEn = true
  · rw [if_neg (by simp [tag]), if_pos tag, readTagQueued]
  · rw [if_pos (by simpa using tag), if_neg tag]

theorem readTagQueued_aut1 (s : State) (c : Cmd) (o : Fin 128) :
    ((readTagQueued s c o).aut1 o).readCmds = (s.aut1 o).readCmds ++ [(c.ring, c.index)] ∧
    ((readTagQueued s c o).aut1 o).reqAt = some ((s.aut1 o).reqAt.getD s.now) := by
  rw [readTagQueued, revote_aut1, requestEngine_readCmds, requestEngine_reqAt, onAut_aut1_same]
  exact ⟨rfl, rfl⟩

theorem readTagQueued_inFlight {c : Cmd} (inFlight : InFlight s c) (o : Fin 128) : InFlight (readTagQueued s c o) c :=
  by
  rw [readTagQueued, revote_frame]
  exact inFlight_same (started_inFlight inFlight) rfl

/-! ### Lookups (R461) -/

theorem slotOutcome_accepted (s : State) (a : AuthSlot) : slotOutcome s a = 0 ↔ a.sound = true ∧ a.status ≠ 2 ∧ (a.expiry = 0 ∨
    (s.tim.legalState ≠ .unsync ∧ localDay s ≤ a.expiry.toNat)) := by
  unfold slotOutcome
  cases sound : a.sound
  · simp
  · by_cases blocked : a.status = 2#3
    · simp [blocked]
    · by_cases never : a.expiry = 0#16
      · simp [blocked, never]
      · by_cases unsync : s.tim.legalState = .unsync
        · simp [blocked, never, unsync]
        · simp [blocked, never, unsync]

/-- Settles O36: each request by what it leaves of its outlet, each command by the equation of its effect. -/
theorem readerRequests : Obligations.ReaderRequests := by
  unfold Obligations.ReaderRequests
  refine ⟨fun s o => exec_ping, fun s o => exec_ping_unwatched, fun s o => exec_tagPoll, ?wait, fun s o => exec_tagAgeExpiry, ?bind, ?read,
    slotOutcome_accepted⟩
  case wait =>
    intro s o d running waits first
    refine ⟨_, exec_requestWaitLong running waits first, ?_, rfl, toTick_now s _, fun j other => ?_⟩
    · rw [waitMarked_aut1, if_pos rfl]
    · rw [waitMarked_aut1, if_neg other.symm]
  case bind =>
    intro s c o ready ho
    refine ⟨fun allowed => ready_eq ready ?_, fun yes never => ready_eq ready ?_⟩
    · rw [effBindCable_outlet ho, if_neg]
      rintro ⟨yes, never⟩
      simp [yes, never] at allowed
    · rw [effBindCable_outlet ho, if_pos ⟨yes, never⟩]
  case read =>
    intro s c o ready ho
    refine ⟨fun tag => ⟨readTagQueued s c o, ready_eq ready ?_, ?_, readTagQueued_aut1 s c o⟩, fun noTag => ready_eq ready ?_⟩
    · rw [effReadTag_outlet ho, if_pos tag]
    · exact readTagQueued_inFlight ready.cmd o
    · rw [effReadTag_outlet ho, if_neg (by simp [noTag])]

end Sys2Proof.Machine
end


section
/-! What the operations on keys, marks and events leave of the Kite mesh, and what its own operations change of it: the frames to send,
the links and the routes (R488, R495 to R498, R500). -/

namespace Sys2Proof.Machine

variable {s : State}

/-! ### Operations of other blocks -/

theorem foldl_kit {α : Type} {l : List α} {f : State → α → State} {s : State} (h : ∀ s x, (f s x).kit = s.kit) : (l.foldl f s).kit = s.kit :=
  foldl_inv (fun t => t.kit = s.kit) l f s rfl fun t x same => (h t x).trans same

@[simp] theorem toTick_kit (s : State) (d : Nat) : (s.toTick d).kit = s.kit := by rw [toTick_frame]
@[simp] theorem toMains_kit (s : State) (v : Nat) : (s.toMains v).kit = s.kit := by rw [toMains_frame]

@[simp] theorem checkSlot_kit (s : State) (k : Fin 64) : (checkSlot s k).kit = s.kit := by
  unfold checkSlot slotUnusable; dsimp only; repeat' split
  all_goals simp

@[simp] theorem loadEngine_kit (s : State) (k : Fin 64) : (loadEngine s k).kit = s.kit := by
  unfold loadEngine; dsimp only; repeat' split
  all_goals simp

@[simp] theorem useKey_kit (s : State) (k : Fin 64) : (useKey s k).2.kit = s.kit := by
  unfold useKey; dsimp only; repeat' split
  all_goals simp

@[simp] theorem sendKey_kit (s : State) : (sendKey s).2.kit = s.kit := by
  refine foldl_inv (fun a : Option (BitVec 128) × State => a.2.kit = s.kit) _ _ (none, s) rfl fun a slot same => ?_
  dsimp only
  split
  · exact same
  · exact (useKey_kit a.2 slot).trans same

/-- Of the kept state, only the numbers of the events have changed (R151). -/
def NumbersOnly (s t : State) : Prop := t.keep = { s.keep with gseq := t.keep.gseq, outSeq := t.keep.outSeq }

theorem writeEvt_numbersOnly (s : State) (r : Fin 57) (e : Event) : NumbersOnly s (writeEvt s r e) := by
  simp [NumbersOnly, writeEvt, numberEvt]

theorem placeEvt_numbersOnly (s : State) (e : Event) : NumbersOnly s (placeEvt s e) := by
  have queued : NumbersOnly s (placeEvt.enqueue s e) := by simp [NumbersOnly]
  unfold placeEvt
  dsimp only
  split_ifs
  · exact rfl
  · exact queued
  · exact rfl
  · split
    · split
      · exact writeEvt_numbersOnly s _ e
      · exact queued
    · exact queued

theorem postEvent_numbersOnly (s : State) (code : Nat) (o : Option (Fin 128)) (p : List Byte) (k : Option Cmd) :
    NumbersOnly s (postEvent s code o p k) := by
  have new : (newEvent s code o p k).1.keep = s.keep := by simp
  exact (placeEvt_numbersOnly (newEvent s code o p k).1 (newEvent s code o p k).2).trans (by rw [new]; rfl)

theorem node_congr {s t : State} (same : t.kit = s.kit) (n : Fin 64) : t.node n = s.node n := by unfold State.node; rw [same]

theorem onNode_node (s : State) (n k : Fin 64) (f : KiteNode → KiteNode) :
    (s.onNode n f).node k = if n = k then f (s.node k) else s.node k := vget_vmod _ _ _ _

@[simp] theorem onNode_node_same (s : State) (n : Fin 64) (f : KiteNode → KiteNode) : (s.onNode n f).node n = f (s.node n) :=
  vget_vmod_same _ _ _

/-! ### The frames to send (R498) -/

@[simp] theorem onOutbox_kit (s : State) (f : List KiteOut → List KiteOut) :
    (s.onOutbox f).kit = { s.kit with outbox := f s.kit.outbox } := rfl

@[simp] theorem onOutbox_tim (s : State) (f : List KiteOut → List KiteOut) : (s.onOutbox f).tim = s.tim := rfl

@[simp] theorem onOutbox_now (s : State) (f : List KiteOut → List KiteOut) : (s.onOutbox f).now = s.now := rfl

/-- A queued frame stands last, and the node's sequence number counts on. -/
theorem kiteQueue_kit (s : State) (typ pri : Nat) (dest : Fin 64) (bcast oneHop : Bool) (payload : List Byte) :
    (kiteQueue s typ pri dest bcast oneHop payload).kit = { s.kit with
      seq := s.kit.seq + 1, outbox := s.kit.outbox ++ [⟨kiteFrame s typ pri dest bcast oneHop payload, 0, none⟩] } := rfl

theorem kiteQueue_now (s : State) (typ pri : Nat) (dest : Fin 64) (bcast oneHop : Bool) (payload : List Byte) :
    (kiteQueue s typ pri dest bcast oneHop payload).now = s.now := rfl

/-! ### Routes (R497, R500) -/

/-- Of a node, only its route has changed. -/
def OnlyRoute (x y : KiteNode) : Prop := y = { x with reachable := y.reachable, nextHop := y.nextHop, routeCost := y.routeCost }

/-- Of the mesh, only routes and the rotation that follows from them have changed. -/
structure RoutesOnly (s t : State) : Prop where
  kit : t.kit = { s.kit with nodes := t.kit.nodes, routeChange := t.kit.routeChange, rotation := t.kit.rotation }
  link : ∀ n, OnlyRoute (s.node n) (t.node n)

theorem RoutesOnly.of_kit {s t : State} (same : t.kit = s.kit) : RoutesOnly s t :=
  ⟨by rw [same], fun n => by rw [node_congr same]; rfl⟩

theorem RoutesOnly.trans {s t u : State} (h : RoutesOnly s t) (g : RoutesOnly t u) : RoutesOnly s u :=
  ⟨by rw [g.kit, h.kit], fun n => by have e := g.link n; rw [h.link n] at e; exact e⟩

theorem onNode_routesOnly {f : KiteNode → KiteNode} (kept : ∀ x, OnlyRoute x (f x)) (s : State) (n : Fin 64) : RoutesOnly s (s.onNode n f) :=
  ⟨rfl, fun k => by
    rw [onNode_node]
    split
    · exact kept _
    · rfl⟩

theorem routeEvent_routesOnly (s : State) (d : Fin 64) (old new : Option (Fin 64)) (cost : Nat) :
    RoutesOnly s (routeEvent s d old new cost) := by
  have kit : (routeEvent s d old new cost).kit = { s.kit with routeChange := true } := by simp [routeEvent]
  exact ⟨by rw [kit], fun n => by unfold State.node; rw [kit]; rfl⟩

theorem rerouteOne_routesOnly (s : State) (d : Fin 64) : RoutesOnly s (rerouteOne s d) := by
  have routed (f : KiteNode → KiteNode) (kept : ∀ x, OnlyRoute x (f x)) (old new : Option (Fin 64)) (cost : Nat) :
      RoutesOnly s (routeEvent (s.onNode d f) d old new cost) :=
    (onNode_routesOnly kept s d).trans (routeEvent_routesOnly _ d old new cost)
  unfold rerouteOne
  dsimp only
  split
  · exact .of_kit rfl
  · split
    · split
      · exact routed _ (by exact fun _ => rfl) _ _ _
      · exact onNode_routesOnly (by exact fun _ => rfl) s d
    · exact routed _ (by exact fun _ => rfl) _ _ _
    · split
      · exact routed _ (by exact fun _ => rfl) _ _ _
      · exact .of_kit rfl

theorem settleRotation_routesOnly (s : State) : RoutesOnly s (settleRotation s) := by
  unfold settleRotation
  dsimp only
  split
  · exact .of_kit rfl
  · have kit : (postDev { s with kit := { s.kit with rotation := rotationNow s } } 0x0906
        (p8 s.kit.rotation.toNat ++ p8 (rotationNow s).toNat)).kit = { s.kit with rotation := rotationNow s } := by simp
    exact ⟨by rw [kit], fun n => by unfold State.node; rw [kit]; rfl⟩

theorem reroute_routesOnly (s : State) : RoutesOnly s (reroute s) :=
  (foldl_inv (RoutesOnly s) kiteNodes rerouteOne s (.of_kit rfl) fun t d h => h.trans (rerouteOne_routesOnly t d)).trans
    (settleRotation_routesOnly _)

@[simp] theorem reroute_outbox (s : State) : (reroute s).kit.outbox = s.kit.outbox := by rw [(reroute_routesOnly s).kit]

/-- A change of routes leaves a link's neighbour, tally and penalty. -/
theorem reroute_node (s : State) (n : Fin 64) : ((reroute s).node n).neighbour = (s.node n).neighbour ∧
    ((reroute s).node n).penalty = (s.node n).penalty ∧ ((reroute s).node n).misses = (s.node n).misses ∧
    ((reroute s).node n).routes = (s.node n).routes := by
  rw [(reroute_routesOnly s).link n]
  exact ⟨rfl, rfl, rfl, rfl⟩

/-! ### A missed acknowledgement, and a frame that is abandoned (R488, R495, R505) -/

@[simp] theorem missAck_outbox (s : State) (n : Fin 64) : (missAck s n).kit.outbox = s.kit.outbox := by
  unfold missAck penaltyEvent
  dsimp only
  split
  · simp [State.onNode]
  · rfl

@[simp] theorem pauseDomino_kit (s : State) : (pauseDomino s).kit = s.kit := by
  unfold pauseDomino dominoEvent
  split
  · dsimp only
    split <;> simp
  · rfl

theorem failProbe_kit (s : State) (f : KiteFrame) : (failProbe s f).kit = { s.kit with probes := (failProbe s f).kit.probes } := by
  unfold failProbe
  split
  · dsimp only
    rw [foldl_kit fun _ _ => by simp]
  · rfl

theorem abandon_kit (s : State) (f : KiteFrame) : (abandon s f).kit = { s.kit with abandoned := true, probes := (abandon s f).kit.probes } := by
  unfold abandon
  rw [failProbe_kit]
  dsimp only
  split <;> simp

end Sys2Proof.Machine
end


section
/-! Kite frames from their queueing to their acknowledgement (R486 to R488, R493, R494, R502, R505). -/

namespace Sys2Proof.Machine

variable {s : State} {x : KiteOut} {f : KiteFrame}

/-! ### A frame goes out (R489, R493) -/

theorem transmit_unkeyed (none_ : (sendKey s).1 = none) (f : KiteFrame) : transmit s f = (sendKey s).2 := by
  unfold transmit
  dsimp only
  rw [none_]

/-- The state in which a sealed frame has started. -/
def frameStarted (s : State) (f : KiteFrame) (key : BitVec 128) : State :=
  countFcnt ((sendKey s).2.send (.kite ((stampFrame s f).seal key)))

/-- The state at the end of the frame. -/
def frameEnded (s : State) (f : KiteFrame) (key : BitVec 128) : State := (frameStarted s f key).toTick ((frameStarted s f key).now +
  kiteDuration (frameStarted s f key) (kiteMode (frameStarted s f key) (stampFrame s f)) (stampFrame s f).payload.length)

theorem transmit_keyed {key : BitVec 128} (keyed : (sendKey s).1 = some key) (f : KiteFrame) : transmit s f = { frameEnded s f key with
    kit := { (frameEnded s f key).kit with lastTxEnd := (frameEnded s f key).now, idleAt := (frameEnded s f key).now } } := by
  unfold transmit
  dsimp only
  rw [keyed]
  rfl

theorem frameEnded_kit (s : State) (f : KiteFrame) (key : BitVec 128) : (frameEnded s f key).kit = { s.kit with
    fcnt := s.kit.fcnt + 1, txCount := s.kit.txCount + 1 } := by
  rw [frameEnded, toTick_kit]
  change { (sendKey s).2.kit with
    fcnt := (sendKey s).2.kit.fcnt + 1, txCount := (sendKey s).2.kit.txCount + 1 } = _
  rw [sendKey_kit]

theorem frameEnded_sent (s : State) (f : KiteFrame) (key : BitVec 128) : .kite ((stampFrame s f).seal key) ∈ (frameEnded s f key).out := by
  rw [frameEnded, toTick_frame]
  exact List.mem_cons_self

@[simp] theorem transmit_outbox (s : State) (f : KiteFrame) : (transmit s f).kit.outbox = s.kit.outbox := by
  cases keyed : (sendKey s).1 with
  | none => rw [transmit_unkeyed keyed, sendKey_kit]
  | some key => rw [transmit_keyed keyed, frameEnded_kit]

/-! ### The picked slot (R486 to R488) -/

theorem exec_contentionSlot (next : nextKite s = some x) (sends : kiteSends s = true) : exec .contentionSlot s = .next (startKite
    (match guardEnd ((slotStart s x.frame.pri).2.toTick (slotStart s x.frame.pri).1) with
      | some m => ((slotStart s x.frame.pri).2.toTick (slotStart s x.frame.pri).1).toMains m
      | none => (slotStart s x.frame.pri).2.toTick (slotStart s x.frame.pri).1) x) := by
  change execContentionSlot s = _
  rw [execContentionSlot, next]
  exact congrArg Host.Outcome.next ((if_neg (by simp [sends])).trans rfl)

theorem exec_contentionSlot_none (none_ : nextKite s = none ∨ kiteSends s = false) : exec .contentionSlot s = .next s := by
  change execContentionSlot s = _
  unfold execContentionSlot
  split
  · rfl
  · next y next => rw [if_pos (by simpa [next] using none_)]

/-- The frame has left the frames to send. -/
def taken (s : State) (x : KiteOut) : State := s.onOutbox fun l => l.filter fun y => y != x

theorem startKite_bcast (bcast : x.frame.bcast = true) : startKite s x = taken (transmit s x.frame) x := if_pos bcast

theorem startKite_unreachable (unicast : x.frame.bcast = false) (lost : (s.node x.frame.dest).reachable = false) :
    startKite s x = abandon (taken s x) x.frame :=
  (if_neg (by simp [unicast])).trans (if_pos (by simp [lost]))

/-- The frame as it goes out on its route. -/
def routed (s : State) (x : KiteOut) : KiteFrame := { x.frame with rx := (s.node x.frame.dest).nextHop }

/-- The frame as it awaits its ACK. -/
def awaiting (s : State) (x : KiteOut) : KiteOut :=
  let t := transmit (taken s x) (routed s x)
  ⟨{ routed s x with fcnt := t.kit.fcnt, tx := t.kit.nodeId }, x.retries, some t.now⟩

theorem startKite_acked (unicast : x.frame.bcast = false) (reachable : (s.node x.frame.dest).reachable = true) (ack : x.frame.ackReq = true) :
    startKite s x = (transmit (taken s x) (routed s x)).onOutbox fun l => l ++ [awaiting s x] :=
  (if_neg (by simp [unicast])).trans ((if_neg (by simp [reachable])).trans (if_pos ack))

/-! ### HELLO and TIME (R494, R502) -/

/-- The instant at which the next HELLO is due, and the state after its random shift has been drawn. -/
def helloDue (s : State) : Nat :=
  if s.kit.lastHello < s.kit.startedAt ∨ s.kit.lastHello = 0 then s.kit.startedAt + s.draw.1.toNat % (2 * secNs + 1)
  else s.kit.lastHello + 9 * secNs + s.draw.1.toNat % (2 * secNs + 1)

theorem exec_helloTimer (sends : kiteSends s = true) : exec .helloTimer s = .next (sendHello (s.draw.2.toTick (helloDue s))) :=
  congrArg Host.Outcome.next (if_neg (by simp [sends]))

theorem helloDue_kit (s : State) : (s.draw.2.toTick (helloDue s)).kit = s.kit := by rw [toTick_kit]; rfl

theorem sendHello_outbox {t : State} (s : State) (same : t.kit = s.kit) : (sendHello t).kit.outbox = s.kit.outbox ++
    [⟨kiteFrame { t with kit := { t.kit with lastHello := t.now } } 1 1 0 true true (helloPayload t), 0, none⟩] := by
  rw [sendHello, kiteQueue_kit, same]

/-- The state in which TIME is due. -/
def timeDue (s : State) : State := s.toTick (s.kit.lastTime + 60 * secNs)

/-- TIME is queued; its payload is filled when it is sent. -/
def timeQueued (s : State) : State :=
  kiteQueue { timeDue s with kit := { (timeDue s).kit with lastTime := (timeDue s).now } } 3 1 0 true true (List.replicate 12 0)

theorem timeQueued_outbox (s : State) : (timeQueued s).kit.outbox = s.kit.outbox ++
    [⟨kiteFrame { timeDue s with kit := { (timeDue s).kit with lastTime := (timeDue s).now } } 3 1 0 true true (List.replicate 12 0), 0, none⟩] := by
  rw [timeQueued, kiteQueue_kit, timeDue, toTick_kit]

theorem timeQueued_now (s : State) :
    (timeQueued s).kit.lastTime = (timeQueued s).now ∧ s.kit.lastTime + 60000000000 ≤ (timeQueued s).now := by
  rw [timeQueued, kiteQueue_now, kiteQueue_kit]
  exact ⟨rfl, toTick_now s (s.kit.lastTime + 60 * secNs)⟩

theorem exec_timeBroadcast (sends : kiteSends s = true) (src : s.kit.timeSrc = true) (synced : s.tim.legalState = .synced) :
    exec .timeBroadcast s = .next (timeQueued s) :=
  congrArg Host.Outcome.next (if_pos (by simp [sends, src, synced]))

theorem exec_timeBroadcast_off (off : kiteSends s = false ∨ s.kit.timeSrc = false ∨ s.tim.legalState ≠ .synced) :
    exec .timeBroadcast s = .next s :=
  congrArg Host.Outcome.next (if_neg (by
    simp only [Bool.and_eq_true, beq_iff_eq, not_and, and_imp]
    intro sends src
    simpa [sends, src] using off))

/-! ### A missed ACK (R488) -/

/-- The frame whose ACK is missed has left the frames to send, and its link's tally counts. -/
def ackMissed (s : State) (x : KiteOut) (a : Nat) : State := missAck (taken (s.toTick (a + 10 * msNs)) x) x.frame.rx

theorem ackMissed_outbox (s : State) (x : KiteOut) (a : Nat) : (ackMissed s x a).kit.outbox = s.kit.outbox.filter fun y => y != x := by
  rw [ackMissed, missAck_outbox, taken, onOutbox_kit, toTick_kit]

theorem exec_ackTimeout {a : Nat} (found : (s.kit.outbox.find? fun y => y.sentAt.isSome) = some x) (sent : x.sentAt = some a)
    (running : s.glb.phase = .running) : exec .ackTimeout s = .next (if 7 ≤ x.retries then abandon (ackMissed s x a) x.frame
      else (ackMissed s x a).onOutbox fun l => l ++ [⟨x.frame, x.retries + 1, none⟩]) := by
  change execAckTimeout s = _
  rw [execAckTimeout, found]
  dsimp only
  rw [if_neg (by simp [running]), sent]
  rfl

/-! ### Commands (R505) -/

/-- A probe waits for its echo under the node's next sequence number. -/
def probeNoted (s : State) (c : Cmd) (n : Fin 64) : State :=
  started { s with kit := { s.kit with probes := s.kit.probes ++ [((s.kit.seq + 1).zeroExtend 32, n, c.ring, c.index, s.now)] } } c

theorem effProbeNode_sent {c : Cmd} {n : Fin 64} (hn : kiteCmdNode c = n) (sends : kiteSends s = true) (reachable : (s.node n).reachable = true)
    (other : n ≠ s.kit.nodeId) : effProbeNode c s = kiteQueue (probeNoted s c n) 7 1 n false false
      (leBytes 4 ((s.kit.seq + 1).zeroExtend 32).toNat ++ List.replicate 8 0) := by
  subst hn
  exact if_neg (by simp [sends, reachable, other])

theorem effProbeNode_refused {c : Cmd} (refused : kiteSends s = false ∨ (s.node (kiteCmdNode c)).reachable = false) :
    effProbeNode c s = complete s c 0x0A :=
  if_pos (by rcases refused with h | h <;> simp [h])

/-- The tally of a link is emptied, and its penalty taken off with its event. -/
def tallyEmptied (s : State) (c : Cmd) (n : Fin 64) : State :=
  let t := s.onNode n fun x => { x with misses := [], penalty := false, ackRun := 0 }
  if (s.node n).penalty then postDev t 0x0902 (p8 n.val ++ p8 1 ++ p16 0) (some c) else t

theorem effClearPenalty_neighbour {c : Cmd} {n : Fin 64} (hn : kiteCmdNode c = n) (neighbour : (s.node n).neighbour = true) :
    effClearPenalty c s = complete (reroute (tallyEmptied s c n)) c 0 := by
  subst hn
  exact if_neg (by simp [neighbour])

theorem tallyEmptied_node (s : State) (c : Cmd) (n : Fin 64) :
    (tallyEmptied s c n).node n = { s.node n with misses := [], penalty := false, ackRun := 0 } := by
  have kit : (tallyEmptied s c n).kit = (s.onNode n fun x => { x with misses := [], penalty := false, ackRun := 0 }).kit := by
    unfold tallyEmptied
    dsimp only
    split <;> simp
  rw [node_congr kit, onNode_node_same]

/-- Settles O40: each frame is followed from its queue through `transmit` to its ACK, which `awaiting` describes. -/
theorem kiteSending : Obligations.KiteSending := by
  unfold Obligations.KiteSending
  refine ⟨fun s => exec_contentionSlot_none, ?slot, fun s x => startKite_bcast, ?unreachable, ?acked, ?sealed, fun s f none_ => transmit_unkeyed none_ f,
    ?hello, ?time, fun s => exec_timeBroadcast_off, ?missed, ?probe, fun s c ready refused => ready_eq ready (effProbeNode_refused refused),
    ?clear, fun s c ready far => ready_eq ready (if_pos (by simp [far]))⟩
  case slot =>
    rintro s u x next sends rfl
    refine ⟨fun clear => ?_, fun m guarded => ?_⟩
    · rw [exec_contentionSlot next sends, clear]
    · rw [exec_contentionSlot next sends, guarded]
  case unreachable =>
    intro s x unicast lost
    rw [startKite_unreachable unicast lost, abandon_kit]
    exact ⟨rfl, rfl⟩
  case acked =>
    intro s x unicast reachable ack
    rw [startKite_acked unicast reachable ack, onOutbox_now, onOutbox_kit, transmit_outbox]
    exact ⟨awaiting s x, rfl, rfl, rfl, rfl, rfl, rfl⟩
  case sealed =>
    intro s f k keyed
    rw [transmit_keyed keyed]
    refine ⟨?_, ?_, frameEnded_sent s f k, rfl, rfl, rfl⟩
    all_goals rw [frameEnded_kit]
  case hello =>
    intro s sends
    exact ⟨_, _, exec_helloTimer sends, rfl, congrArg (·.seq + 1) (helloDue_kit s), sendHello_outbox _ (helloDue_kit s), rfl, rfl, rfl, rfl⟩
  case time =>
    intro s sends src synced
    exact ⟨_, _, exec_timeBroadcast sends src synced, (timeQueued_now s).1, (timeQueued_now s).2, timeQueued_outbox s, rfl, rfl⟩
  case missed =>
    intro s x a found sent running
    rw [exec_ackTimeout found sent running]
    refine ⟨fun again => ⟨_, rfl, ?_⟩, fun last => ⟨_, rfl, ?_⟩⟩
    · rw [if_neg (by omega), onOutbox_kit, ackMissed_outbox]
    · rw [if_pos last, abandon_kit, ackMissed_outbox]
      exact ⟨rfl, rfl⟩
  case probe =>
    intro s c n ready hn sends reachable other
    refine ⟨_, _, ready_eq ready (effProbeNode_sent hn sends reachable other), inFlight_same (started_inFlight (inFlight_same ready.cmd rfl)) rfl,
      rfl, rfl, rfl, rfl⟩
  case clear =>
    intro s c n ready hn neighbour
    obtain ⟨isNeighbour, penalty, misses, -⟩ := reroute_node (tallyEmptied s c n) n
    refine ⟨_, ready_eq ready (effClearPenalty_neighbour hn neighbour), ?_, ?_, ?_⟩
    · rw [penalty, tallyEmptied_node]
    · rw [misses, tallyEmptied_node]
    · rw [isNeighbour, tallyEmptied_node]
      exact neighbour

end Sys2Proof.Machine
end


section
/-! Kite frames that arrive, silent neighbours, and the Kite mark (R489 to R494, R498, R501, R503, R504, R538). -/

namespace Sys2Proof.Machine

variable {s : State}

/-! ### The checks of a frame, in their order (R489 to R493) -/

theorem exec_kiteFrameReceived (hears : kiteHears s = true) (r : KiteRx) : exec (.kiteFrameReceived r) s = .next (takeKite s r) :=
  congrArg Host.Outcome.next (if_pos hears)

theorem exec_kiteFrameReceived_off (off : kiteHears s = false) (r : KiteRx) : exec (.kiteFrameReceived r) s = .next s :=
  congrArg Host.Outcome.next (if_neg (by simp [off]))

theorem takeKite_noise {r : KiteRx} (unsound : kiteSound r.bytes = false) (s : State) :
    takeKite s r = { s with kit := { s.kit with idleAt := s.now, noiseDrop := s.kit.noiseDrop + 1 } } :=
  if_pos (by simp [unsound])

/-- The medium has become idle at the end of a frame. -/
def mediumIdle (s : State) : State := { s with kit := { s.kit with idleAt := s.now } }

theorem takeKite_opened {r : KiteRx} {f : KiteFrame} (sound : kiteSound r.bytes = true) (opened : (tryKeys (mediumIdle s) r.bytes).1 = some f) :
    takeKite s r = checkedKite (tryKeys (mediumIdle s) r.bytes).2.2 ⟨f, r.snr, r.angle, r.at_⟩ := by
  refine (if_neg (by simp [sound])).trans ?_
  change (match (tryKeys (mediumIdle s) r.bytes).1 with
    | some f => checkedKite (tryKeys (mediumIdle s) r.bytes).2.2 ⟨f, r.snr, r.angle, r.at_⟩
    | none => _) = _
  rw [opened]

theorem takeKite_closed {r : KiteRx} (sound : kiteSound r.bytes = true) (closed : (tryKeys (mediumIdle s) r.bytes).1 = none) :
    takeKite s r = if (tryKeys (mediumIdle s) r.bytes).2.1 then
      kiteSecurity (tryKeys (mediumIdle s) r.bytes).2.2 (KiteFrame.parse r.bytes) 0 else (tryKeys (mediumIdle s) r.bytes).2.2 := by
  refine (if_neg (by simp [sound])).trans ?_
  change (match (tryKeys (mediumIdle s) r.bytes).1 with
    | some _ => _
    | none => if (tryKeys (mediumIdle s) r.bytes).2.1 then
      kiteSecurity (tryKeys (mediumIdle s) r.bytes).2.2 (KiteFrame.parse r.bytes) 0 else (tryKeys (mediumIdle s) r.bytes).2.2) = _
  rw [closed]

/-- A security drop is counted before its event. -/
def securityCounted (s : State) (k : Nat) : State :=
  { s with kit := { s.kit with secDrop := s.kit.secDrop + 1, secFail := s.kit.secFail || decide (k < 2) } }

theorem kiteSecurity_posted (active : s.tie.role ≠ .standby) (f : KiteFrame) (k : Nat) :
    Posted (securityCounted s k) (kiteSecurity s f k) 0x0904 none (p8 k ++ p8 f.tx.val ++ leBytes 8 f.serial.toNat) :=
  postEvent_posted (s := securityCounted s k) active (by decide) _ _ none

theorem checkedKite_replayed {r : KiteIn} (old : fcntNew s r.f = false) : checkedKite s r = kiteSecurity s r.f 1 := if_pos (by simp [old])

theorem checkedKite_unknown {r : KiteIn} (new : fcntNew s r.f = true) (unknown : r.f.typ = 0 ∨ 8 < r.f.typ.toNat) :
    checkedKite s r = kiteSecurity (noteFcnt s r.f) r.f 2 :=
  (if_neg (by simp [new])).trans (if_pos unknown)

theorem checkedKite_good {r : KiteIn} (new : fcntNew s r.f = true) (some_ : r.f.typ ≠ 0) (known : r.f.typ.toNat ≤ 8)
    (long : r.f.longEnough = true) : checkedKite s r =
      if s.glb.phase = .running then serveKite (noteFcnt s r.f) r true else stageKite (noteFcnt s r.f) r := by
  refine (if_neg (by simp [new])).trans ((if_neg ?_).trans ((if_neg (by simp [long])).trans (if_congr ?_ rfl rfl)))
  · rintro (zero | above)
    · exact some_ zero
    · omega
  · exact beq_iff_eq

/-! ### A frame of this node's own number (R504) -/

theorem nodeConflict_kit (s : State) (n : Fin 64) (other : BitVec 64) :
    (nodeConflict s n other).kit = { s.kit with conflictSeen := true } := by simp [nodeConflict]

@[simp] theorem nodeConflict_serial (s : State) (n : Fin 64) (other : BitVec 64) : (nodeConflict s n other).keep.serial = s.keep.serial := by
  rw [nodeConflict, postDev, postEvent_numbersOnly]

theorem serveKite_conflict {r : KiteIn} (own : r.f.tx = s.kit.nodeId) (other : r.f.serial ≠ s.keep.serial) (stranger : r.f.serial ≠ s.tie.partner)
    (ack : Bool) : (serveKite s r ack).kit = { s.kit with
      rxCount := s.kit.rxCount + 1, conflictSeen := true, conflict := s.kit.conflict || decide (r.f.serial.toNat < s.keep.serial.toNat) } := by
  have conflict : serveKite s r ack = _ := (if_pos own).trans (if_neg (not_or.mpr ⟨other, stranger⟩))
  rw [conflict]
  dsimp only
  rw [nodeConflict_serial, apply_ite State.kit, nodeConflict_kit]
  by_cases lower : r.f.serial.toNat < s.keep.serial.toNat
  · simp [lower]
  · simp [lower]

/-! ### Unicast frames (R498) -/

theorem takeUnicast_duplicate {f : KiteFrame} (here : f.dest = s.kit.nodeId) (seen : (s.node f.orig).seqs.contains f.seq = true) (snr : Nat) :
    takeUnicast s f snr false = s :=
  (if_pos here).trans (if_pos seen)

theorem takeUnicast_forward {f : KiteFrame} (there : f.dest ≠ s.kit.nodeId) (snr : Nat) : takeUnicast s f snr false =
    if f.hops = 0 then s else s.onOutbox fun l => l ++ [⟨{ f with hops := f.hops - 1 }, 0, none⟩] :=
  if_neg there

/-! ### Silent neighbours and serials (R494, R504) -/

/-- A neighbour that has been silent for 35 s is one no more. -/
def neighbourForgotten (s : State) (n : Fin 64) : State :=
  (s.toTick ((s.node n).lastAt + 35 * secNs)).onNode n fun x => { x with neighbour := false, master := false, routes := [], snrIn := 0, snrOut := 0 }

theorem exec_neighbourLost {n : Fin 64} (hears : kiteHears s = true) (neighbour : (s.node n).neighbour = true) :
    exec (.neighbourLost n) s = .next (reroute (neighbourEvent (neighbourForgotten s n) n 1)) :=
  congrArg Host.Outcome.next (if_pos (by simp [hears, neighbour]))

theorem exec_neighbourLost_off {n : Fin 64} (off : kiteHears s = false ∨ (s.node n).neighbour = false) :
    exec (.neighbourLost n) s = .next s :=
  congrArg Host.Outcome.next (if_neg (by rcases off with h | h <;> simp [h]))

theorem neighbourLost_node (s : State) (n k : Fin 64) : ((neighbourEvent (neighbourForgotten s n) n 1)).node k =
    if n = k then { s.node k with neighbour := false, master := false, routes := [], snrIn := 0, snrOut := 0 } else s.node k := by
  have event : (neighbourEvent (neighbourForgotten s n) n 1).kit = (neighbourForgotten s n).kit := by simp [neighbourEvent]
  rw [node_congr event, neighbourForgotten, onNode_node, node_congr (toTick_kit _ _)]

/-- 1 s after it was heard, the new serial stands for the node. -/
def serialReplaced (s : State) (n : Fin 64) (new : BitVec 64) (heard : Nat) : State :=
  (s.toTick (heard + secNs)).onNode n fun x => { x with serial := new, newSerial := none, lastAt := (s.toTick (heard + secNs)).now }

theorem exec_nodeReplacement {n : Fin 64} {new : BitVec 64} {heard : Nat} (hears : kiteHears s = true)
    (waits : (s.node n).newSerial = some (new, heard)) : exec (.nodeReplacement n) s = .next (serialReplaced s n new heard) := by
  change execNodeReplacement n s = _
  rw [execNodeReplacement, waits]
  exact congrArg Host.Outcome.next (if_pos hears)

theorem exec_nodeReplacement_none {n : Fin 64} (none_ : (s.node n).newSerial = none) : exec (.nodeReplacement n) s = .next s := by
  change execNodeReplacement n s = _
  rw [execNodeReplacement, none_]

theorem serialReplaced_node (s : State) (n k : Fin 64) (new : BitVec 64) (heard : Nat) : (serialReplaced s n new heard).node k =
    if n = k then { s.node k with serial := new, newSerial := none, lastAt := (s.toTick (heard + secNs)).now } else s.node k := by
  rw [serialReplaced, onNode_node, node_congr (toTick_kit _ _)]

/-! ### The Kite mark (R303, R501) -/

theorem exec_kiteReport (s : State) : exec .kiteReport s = .next (kiteFires (inOrder .kite s)) := rfl

theorem kiteFires_off (off : s.clocksRun = false ∨ s.shr.kiteEn = false) : kiteFires s = s := if_pos (by rcases off with h | h <;> simp [h])

theorem kiteFires_first (run : s.clocksRun = true) (en : s.shr.kiteEn = true) (none_ : (s.tim.marks.find? fun m => m.owner == .kite) = none) :
    kiteFires s = (s.setMark .kite (nextApply s s.tim.mains) 0).1 := by
  rw [kiteFires, if_neg (by simp [run, en]), none_]

/-- Mains time has come to a mark of the Kite node, which is used up. -/
def kiteMarkReached (s : State) (m : Mark) : State := (s.toMains m.value).dropMark .kite 0

/-- The value of the next Kite mark. -/
def nextKiteMark (s : State) (m : Mark) : Nat := max (m.value + 65536 * s.cfg.kitePeriod) (nextApply s (s.toMains m.value).tim.mains)

/-- The next Kite mark is set. -/
def kiteMarkRenewed (s : State) (m : Mark) : State := ((kiteMarkReached s m).setMark .kite (nextKiteMark s m) 0).1

theorem kiteFires_mark {m : Mark} (run : s.clocksRun = true) (en : s.shr.kiteEn = true) (found : (s.tim.marks.find? fun m => m.owner == .kite) = some m) :
    kiteFires s = if kiteSends (kiteMarkRenewed s m) then kiteReport (kiteMarkRenewed s m) ((m.value - 0x4000) / 65536)
      else kiteMarkRenewed s m := by
  have renewed : kiteMarkRenewed s m = ((kiteMarkReached s m).setMark .kite (max (m.value + 65536 * (kiteMarkReached s m).cfg.kitePeriod)
      (nextApply (kiteMarkReached s m) (kiteMarkReached s m).tim.mains)) 0).1 := by
    have same : kiteMarkReached s m = { s with tim := (kiteMarkReached s m).tim, keep := (kiteMarkReached s m).keep } := by
      rw [kiteMarkReached, toMains_frame]; rfl
    have mark : nextApply (kiteMarkReached s m) (kiteMarkReached s m).tim.mains = nextApply s (s.toMains m.value).tim.mains := by
      unfold nextApply
      rw [same]
      rfl
    rw [kiteMarkRenewed, nextKiteMark, mark, same]
  rw [kiteFires, if_neg (by simp [run, en]), found, renewed]
  rfl

theorem kiteMarkRenewed_sends {m : Mark} (free : (kiteMarkReached s m).markFree = true) : kiteSends (kiteMarkRenewed s m) = kiteSends s := by
  rw [kiteMarkRenewed, setMark_free free, kiteMarkReached, toMains_frame]
  rfl

theorem setMark_mem (free : s.markFree = true) (w : MarkOwner) (value ref : Nat) :
    ∃ m ∈ (s.setMark w value ref).1.tim.marks, m.owner = w ∧ m.value = value := by
  rw [setMark_free free]
  exact ⟨_, List.mem_append_right _ List.mem_cons_self, rfl, rfl⟩

/-- Settles O41: a frame by the checks it passes, a silence by the node it is of, the Kite mark by the mark that it renews. -/
theorem kiteReceiving : Obligations.KiteReceiving := by
  unfold Obligations.KiteReceiving
  refine ⟨fun s r off => exec_kiteFrameReceived_off off r, ?noise, ?keys, ?security, fun s r => checkedKite_replayed,
    fun s r new unknown => ⟨checkedKite_unknown new unknown, rfl⟩, fun s r => checkedKite_good, ?conflict,
    fun s f snr here seen => takeUnicast_duplicate here seen snr, ?forward, ?lost, fun s n => exec_neighbourLost_off, ?replaced,
    fun s n => exec_nodeReplacement_none, ?off, ?first, ?silent, ?reports⟩
  case noise =>
    intro s r hears unsound
    rw [exec_kiteFrameReceived hears, takeKite_noise unsound]
  case keys =>
    rintro s u r hears sound rfl
    rw [exec_kiteFrameReceived hears]
    refine ⟨fun f opened => congrArg _ (takeKite_opened sound opened), fun closed unusable => ?_, fun closed usable => ?_⟩
    · exact congrArg _ ((takeKite_closed sound closed).trans (if_neg (Bool.eq_false_iff.mp unusable)))
    · exact congrArg _ ((takeKite_closed sound closed).trans (if_pos usable))
  case security =>
    intro s f k active
    exact ⟨securityCounted s k, by simp [kiteSecurity], kiteSecurity_posted active f k⟩
  case conflict =>
    intro s r own other stranger
    rw [serveKite_conflict own other stranger]
    refine ⟨rfl, rfl, fun lower => by simp [lower], fun higher => by simp [Nat.not_lt.mpr higher]⟩
  case forward =>
    intro s f snr there
    rw [takeUnicast_forward there]
    refine ⟨fun last => if_pos last, fun further => ?_⟩
    rw [if_neg further, onOutbox_kit]
  case lost =>
    intro s n hears neighbour
    refine ⟨_, exec_neighbourLost hears neighbour, ?_, ?_, fun k other => ?_⟩
    · rw [(reroute_node _ n).1, neighbourLost_node, if_pos rfl]
    · rw [(reroute_node _ n).2.2.2, neighbourLost_node, if_pos rfl]
    · rw [(reroute_node _ k).1, neighbourLost_node, if_neg other.symm]
  case replaced =>
    intro s n new heard hears waits
    refine ⟨_, exec_nodeReplacement hears waits, ?_, ?_, toTick_now s _, fun k other => ?_⟩
    · rw [serialReplaced_node, if_pos rfl]
    · rw [serialReplaced_node, if_pos rfl]
    · rw [serialReplaced_node, if_neg other.symm]
  case off =>
    rintro s u rfl off
    rw [exec_kiteReport, kiteFires_off off]
  case first =>
    rintro s u rfl run en none_ free
    exact ⟨_, congrArg Host.Outcome.next (kiteFires_first run en none_), setMark_mem free _ _ _⟩
  case silent =>
    rintro s u m rfl run en found silent free
    refine ⟨kiteMarkRenewed (inOrder .kite s) m, ?_, ?_⟩
    · rw [exec_kiteReport, kiteFires_mark run en found, kiteMarkRenewed_sends free, if_neg (by simp [silent])]
    · obtain ⟨x, mem, owner, value⟩ := setMark_mem free .kite (nextKiteMark (inOrder .kite s) m) 0
      exact ⟨x, mem, owner, value ▸ Nat.le_max_left _ _⟩
  case reports =>
    rintro s u v m rfl run en found rfl sends
    exact congrArg Host.Outcome.next ((kiteFires_mark run en found).trans (if_pos sends))

end Sys2Proof.Machine
end


section
/-! Tie ports, mains time in a cluster, and what a tie frame does (R508, R510, R512, R514, R515, R518, R521). -/

namespace Sys2Proof.Machine

variable {s : State}

/-! ### Ports (R508, R510) -/

theorem onTiePort_ports (s : State) (p q : Fin 4) (f : TiePort → TiePort) :
    vget (s.onTiePort p f).tie.ports q = if p = q then f (vget s.tie.ports q) else vget s.tie.ports q := vget_vmod _ _ _ _

@[simp] theorem tiePortEvent_tie (s : State) (p : Fin 4) (cause : Nat) (peer : BitVec 64) : (tiePortEvent s p cause peer).tie = s.tie := by
  simp [tiePortEvent]

@[simp] theorem tiePortEvent_tim (s : State) (p : Fin 4) (cause : Nat) (peer : BitVec 64) : (tiePortEvent s p cause peer).tim = s.tim := by
  simp [tiePortEvent]

@[simp] theorem setMember_tim (s : State) (slot : BitVec 2) (on : Bool) : (setMember s slot on).tim = s.tim := by
  unfold setMember
  split
  · rfl
  · simp

/-- A slot that appears or disappears changes the members and their flag only. -/
theorem setMember_tie (s : State) (slot : BitVec 2) (on : Bool) : (setMember s slot on).tie =
    { s.tie with members := (setMember s slot on).tie.members, memberLostF := (setMember s slot on).tie.memberLostF } := by
  unfold setMember
  split
  · rfl
  · simp

theorem setMember_present (s : State) (slot : BitVec 2) : (setMember s slot true).tie.members.getLsbD slot.toNat = true := by
  unfold setMember
  split
  · assumption
  · have below : slot.toNat < 4 := slot.isLt
    simp [below]

@[simp] theorem loseMains_tie (s : State) (cause freq : Nat) : (loseMains s cause freq).tie = s.tie := by
  unfold loseMains
  simp

/-- A port goes down: it is marked, and the flag of a lost port stands. -/
def portMarkedDown (s : State) (p : Fin 4) : State :=
  { s.onTiePort p fun y => { y with up := false, fails := 0 } with tie := { (s.onTiePort p fun y => { y with up := false, fails := 0 }).tie with
    portDownF := true } }

theorem portDown_ports (up : (vget s.tie.ports p).up = true) :
    (portDown s p).tie.ports = (portMarkedDown s p).tie.ports ∧ (portDown s p).tie.portDownF = true := by
  have eq : portDown s p = (if p = 3 then tiePortEvent (portMarkedDown s p) p 0 (vget s.tie.ports p).peer else _) := if_neg (by simp [up])
  rw [eq]
  split
  · rw [tiePortEvent_tie]
    exact ⟨rfl, rfl⟩
  · dsimp only
    split
    · rw [loseMains_tie, setMember_tie, tiePortEvent_tie]
      exact ⟨rfl, rfl⟩
    · rw [setMember_tie, tiePortEvent_tie]
      exact ⟨rfl, rfl⟩

theorem exec_tiePortDown (run : s.clocksRun = true) (p : Fin 4) : exec (.tiePortDown p) s = .next (portDown s p) :=
  congrArg Host.Outcome.next (if_pos run)

theorem exec_tiePortDown_down (down : (vget s.tie.ports p).up = false) : exec (.tiePortDown p) s = .next s := by
  refine congrArg Host.Outcome.next ?_
  split
  · exact if_pos (by simp [down])
  · rfl

/-- Whether the two ends of a port differ in what they must share (R508). -/
def peerDiffers (s : State) (x : TiePeer) : Bool :=
  x.clusterN != s.tie.clusterN || x.paired != s.tie.paired || x.version != s.upd.cfgActive

/-- What a port knows of its peer once they have exchanged their identities. -/
def portMet (s : State) (p : Fin 4) (x : TiePeer) : State := s.onTiePort p fun y =>
  { y with up := !peerDiffers s x, mismatch := peerDiffers s x, peer := x.serial, peerSlot := x.slot, peerSide := x.side }

theorem tiePortUp_up (up : (vget s.tie.ports p).up = true) (x : TiePeer) : tiePortUp p x s = s := if_pos (by simp [up])

/-- The ends of a port differ: it stays down, marked. -/
def portDiffers (s : State) (p : Fin 4) (x : TiePeer) : State :=
  { portMet s p x with tie := { (portMet s p x).tie with cfgMismatch := true } }

theorem tiePortUp_differs (run : s.clocksRun = true) (down : (vget s.tie.ports p).up = false) {x : TiePeer} (bad : peerDiffers s x = true) :
    tiePortUp p x s = tiePortEvent (portDiffers s p x) p 2 x.serial := by
  unfold tiePortUp portDiffers portMet
  unfold peerDiffers at *
  dsimp only
  rw [if_neg (by simp [run, down]), if_pos bad]

theorem tiePortEvent_posted (active : s.tie.role ≠ .standby) (p : Fin 4) (cause : Nat) (peer : BitVec 64) :
    Posted s (tiePortEvent s p cause peer) 0x0A05 none (sideSlot s ++ p8 p.val ++ p8 cause ++ leBytes 8 peer.toNat) :=
  postEvent_posted active (by decide) _ _ none

theorem takeCycle_behind {n : Nat} (behind : n ≤ s.cycle) : takeCycle s n = s := if_neg (by omega)

/-- A port whose ends agree has come up, before its slot or its partner is known. -/
def portJoined (s : State) (p : Fin 4) (x : TiePeer) : State := tellVersions (tiePortEvent (portMet s p x) p 1 x.serial)

theorem portMet_tim (s : State) (p : Fin 4) (x : TiePeer) : (portMet s p x).tim = s.tim := rfl

@[simp] theorem tellVersions_tie_tim (s : State) : (tellVersions s).tie = s.tie ∧ (tellVersions s).tim = s.tim := by
  refine foldl_inv (fun t => t.tie = s.tie ∧ t.tim = s.tim) _ _ s ⟨rfl, rfl⟩ fun t p same => ?_
  split
  · exact same
  · exact same

theorem portJoined_tie (s : State) (p : Fin 4) (x : TiePeer) : (portJoined s p x).tie = (portMet s p x).tie ∧ (portJoined s p x).tim = s.tim := by
  simp [portJoined, portMet_tim]

/-- The partner, or the slot of a peer, is known once its port has come up. -/
def peerKnown (s : State) (p : Fin 4) (x : TiePeer) : State :=
  if p = 3 then postDev { s with tie := { s.tie with partner := x.serial, lastBeat := s.now } } 0x0A03 (sideSlot s ++ p8 1)
  else setMember s x.slot true

theorem tiePortUp_agrees (run : s.clocksRun = true) (down : (vget s.tie.ports p).up = false) {x : TiePeer} (good : peerDiffers s x = false)
    (behind : x.cycle ≤ s.cycle) : tiePortUp p x s = peerKnown (portJoined s p x) p x := by
  have still : takeCycle (tiePortEvent (portMet s p x) p 1 x.serial) x.cycle = tiePortEvent (portMet s p x) p 1 x.serial :=
    takeCycle_behind (by unfold State.cycle; rw [tiePortEvent_tim]; exact behind)
  have eq : tiePortUp p x s = peerKnown (tellVersions (takeCycle (tiePortEvent (portMet s p x) p 1 x.serial) x.cycle)) p x := by
    unfold tiePortUp peerKnown portMet
    unfold peerDiffers at *
    dsimp only
    rw [if_neg (by simp [run, down]), if_neg (by exact Bool.eq_false_iff.mp good)]
  rw [eq, still, portJoined]

theorem peerKnown_ports (s : State) (p : Fin 4) (x : TiePeer) :
    (peerKnown s p x).tie.ports = s.tie.ports ∧ (peerKnown s p x).tim = s.tim := by
  unfold peerKnown
  split
  · simp
  · rw [setMember_tie, setMember_tim]
    exact ⟨rfl, rfl⟩

theorem peerKnown_partner (s : State) (x : TiePeer) :
    (peerKnown s 3 x).tie.partner = x.serial ∧ (peerKnown s 3 x).tie.lastBeat = s.now := by
  rw [peerKnown, if_pos rfl]
  simp

theorem portMet_ports (s : State) (p q : Fin 4) (x : TiePeer) : vget (portMet s p x).tie.ports q =
    if p = q then { vget s.tie.ports q with
      up := !peerDiffers s x, mismatch := peerDiffers s x, peer := x.serial, peerSlot := x.slot, peerSide := x.side }
    else vget s.tie.ports q := onTiePort_ports _ _ _ _

/-! ### Mains time in a cluster (R512) -/

/-- Peers are sent a message: only what has been sent changes. -/
theorem toPeers_frame (s : State) (m : TieMsg) : (toPeers s m).tie = s.tie ∧ (toPeers s m).tim = s.tim := by
  refine foldl_inv (fun t => t.tie = s.tie ∧ t.tim = s.tim) _ _ s ⟨rfl, rfl⟩ fun t k same => ?_
  split
  · exact same
  · exact same

theorem toPartner_up (up : s.pairLinkUp = true) (m : TieMsg) : toPartner s m = s.send (.tie 3 m) := if_pos up

/-- The next multiple of 10 µs of tick time. -/
def transferDue (s : State) : State := s.toTick ((s.now / 10000 + 1) * 10000)

/-- The mains time a device sends. -/
def timeSent (s : State) : TieMsg := .mainsTime s.tim.mains s.tim.freq (s.tim.mainsState == .locked)

theorem toTick_tie (s : State) (d : Nat) : (s.toTick d).tie = s.tie := by rw [toTick_frame]

/-- The time master's peers have been sent mains time. -/
def peersTimed (s : State) : State := if s.slotNo = 0 then toPeers s (timeSent s) else s

theorem peersTimed_frame (s : State) : (peersTimed s).tie = s.tie ∧ (peersTimed s).tim = s.tim := by
  unfold peersTimed
  split
  · exact toPeers_frame _ _
  · exact ⟨rfl, rfl⟩

theorem exec_mainsTimeTransfer_pair (run : s.clocksRun = true) (active : s.tie.role = .active) (up : s.pairLinkUp = true) :
    exec .mainsTimeTransfer s = .next ((peersTimed (transferDue s)).send (.tie 3 (timeSent (transferDue s)))) := by
  have tie : (peersTimed (transferDue s)).tie = s.tie := (peersTimed_frame _).1.trans (toTick_tie _ _)
  rw [← toPartner_up (by unfold State.pairLinkUp; rw [tie]; exact up)]
  exact congrArg Host.Outcome.next ((if_pos (by simp [run, sendsTime, active])).trans
    (if_pos (c := (peersTimed (transferDue s)).tie.role = .active) (by rw [tie]; exact active)))

/-! ### Frames (R508, R515) -/

theorem tieFrame_off (off : s.clocksRun = false ∨ (vget s.tie.ports p).up = false) (n : Nat) (m : TieMsg) : tieFrame p n m s = s :=
  if_pos (by rcases off with h | h <;> simp [h])

theorem tieFrame_clean (run : s.clocksRun = true) (up : (vget s.tie.ports p).up = true) (m : TieMsg) : tieFrame p 0 m s =
    takeAny ((s.count 7 0x12 0).onTiePort p fun x => { x with retry := x.retry + BitVec.ofNat 32 0 }) p m :=
  (if_neg (by simp [run, up])).trans (if_neg (by exact fun h => by simp [Nat.repeat] at h))

/-! ### Roles (R514, R521) -/

theorem setRole_role (s : State) (new : PairRole) (cause : Nat) : (setRole s new cause).tie.role = new := by
  unfold setRole
  dsimp only
  split
  · assumption
  · simp

theorem declareLost_active (standby : s.tie.role = .standby) (cause : Nat) : (declareLost s cause).tie.role = .active := by
  rw [declareLost, if_neg (by simp [standby])]
  exact setRole_role _ _ _

/-- A frame that a standby does not pass on is taken for itself (R515). -/
theorem takeAny_handover_withdrawal (standby : s.tie.role = .standby) :
    takeAny s 3 .handover = declareLost s 3 ∧ takeAny s 3 .withdrawal = declareLost s 2 := by
  have handover : takeAny s 3 .handover = declareLost (if s.tie.role = .standby then s else s) 3 := rfl
  have withdrawal : takeAny s 3 .withdrawal = withdrawalNotice (if s.tie.role = .standby then s else s) := rfl
  rw [handover, withdrawal, ite_self, withdrawalNotice, standby]
  exact ⟨rfl, rfl⟩

theorem takeAny_heartbeat (r : BitVec 2) (a b c : Nat) (k : Bool) : takeAny s 3 (.heartbeat r a b c k) = takeBeat s r k := by
  have eq : takeAny s 3 (.heartbeat r a b c k) = takeBeat (if s.tie.role = .standby then s else s) r k := rfl
  rw [eq, ite_self]

theorem takeAny_mirrorEvt (s : State) (r : Fin 57) (e : Event) : takeAny s 3 (.mirrorEvt r e) =
    if (s.tie.role = .standby ∨ s.tie.role = .joining) ∧ s.tie.lost = none then takeMirrorEvt s r e else s := by
  have eq : takeAny s 3 (.mirrorEvt r e) =
      (fun t => if true && (t.tie.role == .standby || t.tie.role == .joining) && t.tie.lost.isNone then takeMirrorEvt t r e else t)
        (if s.tie.role = .standby then s else s) := rfl
  rw [eq, ite_self]
  exact if_congr (by simp) rfl rfl

/-- The four codes of a partner's role (R534). -/
theorem takeBeat_eq (s : State) (r : BitVec 2) (k : Bool) : takeBeat s r k = { s with tie := { s.tie with
    lastBeat := s.now, partnerReady := k
    partnerRole := if r = 1 then .active else if r = 2 then .standby else if r = 3 then .joining else .alone } } := by
  have code : [PairRole.alone, .active, .standby, .joining].getD r.toNat .alone =
      if r = 1 then .active else if r = 2 then .standby else if r = 3 then .joining else .alone := by
    revert r
    decide
  rw [takeBeat, code]

/-- Settles O44, port by port and frame kind by frame kind. -/
theorem tiePorts : Obligations.TiePorts := by
  unfold Obligations.TiePorts
  refine ⟨?down, ?downOff, ?upJump, ?upAgrees, ?upDiffers, ?upAlready, ?transfer, ?transferOff, ?frameOff, ?frameClean, ?frameJump, ?beat,
    ?mirrored, ?handover, ?notMirrored⟩
  case down =>
    intro s p run up
    obtain ⟨ports, flag⟩ := portDown_ports up
    refine ⟨_, exec_tiePortDown run p, ?_, flag, fun q other => ?_⟩
    · rw [ports]
      exact congrArg TiePort.up (vget_vmod_same _ _ _)
    · rw [ports]
      exact vget_vmod_other _ _ _ _ (Ne.symm other)
  case downOff =>
    intro s p down
    exact exec_tiePortDown_down down
  case upJump =>
    intro s p x
    rfl
  case upAgrees =>
    intro s p x run down sameN samePaired sameVersion behind
    have good : peerDiffers s x = false := by simp [peerDiffers, sameN, samePaired, sameVersion]
    obtain ⟨joinedTie, joinedTim⟩ := portJoined_tie s p x
    obtain ⟨ports, tim⟩ := peerKnown_ports (portJoined s p x) p x
    have at_ (q : Fin 4) : vget (peerKnown (portJoined s p x) p x).tie.ports q = vget (portMet s p x).tie.ports q := by rw [ports, joinedTie]
    refine ⟨peerKnown (portJoined s p x) p x, ?_, ?_, ?_, ?_, fun third => ?_, fun peer => ?_, fun q other => ?_⟩
    · change Host.Outcome.next (afterJump s (tiePortUp p x s)) = _
      rw [tiePortUp_agrees run down good behind, afterJump_still (by rw [tim, joinedTim])]
    · rw [at_, portMet_ports, if_pos rfl, good]
      rfl
    · rw [at_, portMet_ports, if_pos rfl, good]
    · rw [at_, portMet_ports, if_pos rfl]
    · subst third
      obtain ⟨partner, beat⟩ := peerKnown_partner (portJoined s 3 x) x
      constructor
      · rw [partner]
      · rw [beat, State.now, State.now, joinedTim]
    · rw [peerKnown, if_neg peer]
      exact setMember_present _ _
    · rw [at_, portMet_ports, if_neg (Ne.symm other)]
  case upDiffers =>
    intro s p x run down active differs
    have bad : peerDiffers s x = true := by
      rcases differs with h | h | h <;> simp [peerDiffers, h]
    refine ⟨tiePortEvent (portDiffers s p x) p 2 x.serial, portDiffers s p x, ?_, ?_, ?_, ?_, ?_⟩
    · change Host.Outcome.next (afterJump s (tiePortUp p x s)) = _
      rw [tiePortUp_differs run down bad, afterJump_still (by rw [tiePortEvent_tim]; exact le_rfl)]
    · rw [tiePortEvent_tie]
      change (vget (portMet s p x).tie.ports p).up = false
      rw [portMet_ports, if_pos rfl, bad]
      rfl
    · rw [tiePortEvent_tie]
      change (vget (portMet s p x).tie.ports p).mismatch = true
      rw [portMet_ports, if_pos rfl, bad]
    · rw [tiePortEvent_tie]
      rfl
    · have posted := tiePortEvent_posted (s := portDiffers s p x) active p 2 x.serial
      have same : sideSlot (portDiffers s p x) = sideSlot s := rfl
      rw [same] at posted
      exact posted
  case upAlready =>
    intro s p x up
    change Host.Outcome.next (afterJump s (tiePortUp p x s)) = _
    rw [tiePortUp_up up, afterJump_still le_rfl]
  case transfer =>
    intro s run active up
    obtain ⟨-, tim⟩ := peersTimed_frame (transferDue s)
    refine ⟨_, (peersTimed (transferDue s)).out, exec_mainsTimeTransfer_pair run active up, ?_, ?_⟩
    · change _ = Out.tie 3 (timeSent (peersTimed (transferDue s))) :: _
      rw [timeSent, timeSent, tim]
      rfl
    · change _ ≤ (peersTimed (transferDue s)).tim.tick
      rw [tim]
      exact toTick_reaches _ _
  case transferOff =>
    intro s off
    exact congrArg Host.Outcome.next (if_neg (by simp [off]))
  case frameOff =>
    intro s p n m off
    change Host.Outcome.next (afterJump s (tieFrame p n m s)) = _
    rw [tieFrame_off off, afterJump_still le_rfl]
  case frameClean =>
    intro s p m run up
    change Host.Outcome.next (afterJump s (tieFrame p 0 m s)) = _
    rw [tieFrame_clean run up]
  case frameJump =>
    intro s p n m
    rfl
  case beat =>
    intro s r a b c k
    rw [takeAny_heartbeat, takeBeat_eq]
  case mirrored =>
    intro s r e shadow kept
    rw [takeAny_mirrorEvt, if_pos ⟨shadow, kept⟩]
    exact ⟨rfl, rfl⟩
  case handover =>
    intro s standby
    obtain ⟨handover, withdrawal⟩ := takeAny_handover_withdrawal standby
    rw [handover, withdrawal]
    exact ⟨declareLost_active standby _, declareLost_active standby _⟩
  case notMirrored =>
    intro s r e alone
    rw [takeAny_mirrorEvt, if_neg]
    rintro ⟨standby | joining, -⟩
    · rcases alone with h | h <;> simp [h] at standby
    · rcases alone with h | h <;> simp [h] at joining

end Sys2Proof.Machine
end


section
/-! Roles of a pair: lost partners, takeover, foreign epochs, join, handover, and the tally commands (R514, R521 to R524, R528 to R533). -/

namespace Sys2Proof.Machine

variable {s : State}

/-! ### What leaves the tie block and the images as they are -/

/-- Neither the tie block nor the images have changed. -/
def TieUpdKept (s t : State) : Prop := t.tie = s.tie ∧ t.upd = s.upd

theorem TieUpdKept.trans {s t u : State} (h : TieUpdKept s t) (g : TieUpdKept t u) : TieUpdKept s u :=
  ⟨g.1.trans h.1, g.2.trans h.2⟩

theorem dropCheck_tieUpdKept (s : State) (o : Fin 128) : TieUpdKept s (dropCheck s o) := by
  constructor <;> simp [dropCheck]

theorem withdraw_tieUpdKept (s : State) (o : Fin 128) (arg : Nat) : TieUpdKept s (withdraw s o arg) := by
  constructor <;> simp [withdraw]

theorem evalPermit_tieUpdKept (s : State) (o : Fin 128) : TieUpdKept s (evalPermit s o) := by
  unfold evalPermit
  extract_lets old inv new s1 s2
  have checked : TieUpdKept s s2 := dropCheck_tieUpdKept (s1.onSaf o _) o
  dsimp only
  split
  · exact checked.trans (withdraw_tieUpdKept _ _ _)
  · split
    · constructor <;> simp [checked.1, checked.2]
    · exact checked

theorem countSilence_tieUpdKept (s : State) (o : Fin 128) : TieUpdKept s (countSilence s o) := by
  unfold countSilence
  split
  · exact ⟨rfl, rfl⟩
  · exact ⟨rfl, rfl⟩

theorem silence_tieUpdKept (s : State) (o : Fin 128) : TieUpdKept s (silenceStart s o) ∧ TieUpdKept s (silenceEnd s o) := by
  constructor
  · unfold silenceStart
    split
    · exact ⟨rfl, rfl⟩
    · constructor <;> simp [silentFlag]
  · unfold silenceEnd
    split
    · exact ⟨rfl, rfl⟩
    · have counted := countSilence_tieUpdKept s o
      constructor
      · simp [silentFlag, counted.1]
      · simp [silentFlag, counted.2]

theorem setLink_tieUpdKept (s : State) (o : Fin 128) (new : LinkState) : TieUpdKept s (setLink s o new) := by
  unfold setLink
  extract_lets old s1 s2 st s3 s4 s5
  split
  · exact ⟨rfl, rfl⟩
  · have silence : TieUpdKept s s2 := by
      unfold s2
      split
      · exact (silence_tieUpdKept s1 o).1
      · split
        · exact (silence_tieUpdKept s1 o).2
        · exact ⟨rfl, rfl⟩
    have anyDown : TieUpdKept s s3 := by
      unfold s3
      split
      · exact silence
      · exact silence
    have left : TieUpdKept s s5 := by
      unfold s5
      split
      · split
        · exact anyDown.trans (by constructor <;> simp [s4])
        · exact anyDown
      · exact anyDown
    exact left.trans (evalPermit_tieUpdKept s5 o)

/-- The tie block, the images, the time base and the lanes are as they were. -/
def RoleKept (s t : State) : Prop := TieUpdKept s t ∧ t.tim = s.tim ∧ t.lanes = s.lanes

/-- The frames a device drops with its active role are in the queues and the rings. -/
theorem dropFrames_roleKept (s : State) : RoleKept s (dropFrames s) := by
  unfold dropFrames forAll
  refine foldl_inv (RoleKept s) _ _ _ ⟨⟨rfl, rfl⟩, rfl, rfl⟩ fun t o kept => ?_
  obtain ⟨⟨tie, upd⟩, tim, lanes⟩ := kept
  exact ⟨⟨by simp [tie], by simp [upd]⟩, by simp [tim], by simp [lanes]⟩

/-! ### Roles (R514, R534) -/

/-- A role other than the old one is taken. -/
def roleTaken (s : State) (new : PairRole) (cause : Nat) (old : PairRole) : State :=
  (postDev { s with tie := { s.tie with role := new } } 0x0A01 (sideSlot s ++ p8 old.code ++ p8 new.code ++ p8 cause)).revote

theorem roleTaken_frame (s : State) (new : PairRole) (cause : Nat) (old : PairRole) : (roleTaken s new cause old).tie = { s.tie with role := new } ∧
    (roleTaken s new cause old).upd = s.upd ∧ (roleTaken s new cause old).tim = s.tim ∧ (roleTaken s new cause old).lanes = s.lanes := by
  simp [roleTaken]

theorem setRole_frame (s : State) (new : PairRole) (cause : Nat) : (setRole s new cause).tie = { s.tie with role := new } ∧
    (setRole s new cause).upd = s.upd ∧ (setRole s new cause).tim = s.tim ∧ (setRole s new cause).lanes = s.lanes := by
  by_cases same : s.tie.role = new
  · rw [setRole, if_pos same, ← same]
    exact ⟨rfl, rfl, rfl, rfl⟩
  · have taken : setRole s new cause =
        roleTaken (if s.tie.role = .active ∧ new = .standby then dropFrames s else s) new cause s.tie.role := if_neg same
    have dropped : RoleKept s (if s.tie.role = .active ∧ new = .standby then dropFrames s else s) := by
      split
      · exact dropFrames_roleKept s
      · exact ⟨⟨rfl, rfl⟩, rfl, rfl⟩
    obtain ⟨⟨tie, upd⟩, tim, lanes⟩ := dropped
    obtain ⟨takenTie, takenUpd, takenTim, takenLanes⟩ :=
      roleTaken_frame (if s.tie.role = .active ∧ new = .standby then dropFrames s else s) new cause s.tie.role
    rw [taken, takenTie, takenUpd, takenTim, takenLanes, tie, upd, tim, lanes]
    exact ⟨rfl, rfl, rfl, rfl⟩

theorem declareLost_tie (standby : s.tie.role = .standby) (cause : Nat) : (declareLost s cause).tie =
    { s.tie with lost := some (BitVec.ofNat 4 cause, s.now), partnerReady := false, role := .active } := by
  rw [declareLost, if_neg (by simp [standby])]
  exact (setRole_frame _ _ _).1

theorem loseStandby_tie (active : s.tie.role = .active) (partner : s.tie.partnerRole ≠ .alone) : (loseStandby s).tie =
    { s.tie with partnerLostF := true, partnerReady := false, partnerRole := .alone } := by
  rw [loseStandby, if_pos (by simp [active, partner])]
  simp

/-! ### Heartbeats (R521, R522) -/

/-- The standby has missed a heartbeat. -/
def beatMissed (s : State) : State := s.toTick (s.tie.lastBeat + 8000)

theorem exec_heartbeatTimeout_standby (run : s.clocksRun = true) (standby : s.tie.role = .standby) : exec .heartbeatTimeout s = .next
    (if (listenLanes (beatMissed s)).isEmpty then declareLost ((beatMissed s).toTick ((beatMissed s).tie.lastBeat + 16000)) 1
    else if (listenLanes (beatMissed s)).length < 2 * ((listenLanes (beatMissed s)).filter (laneFree (beatMissed s))).length then
      declareLost (beatMissed s) 0
    else if (beatMissed s).pairLinkUp then tally (beatMissed s) 9 0
    else postDev { beatMissed s with tie := { (beatMissed s).tie with mirrorStale := true } } 0x0A03 (sideSlot (beatMissed s) ++ p8 0)) := by
  change execHeartbeatTimeout s = _
  rw [execHeartbeatTimeout, if_neg (by simp [run]), standby]
  rfl

theorem exec_heartbeatTimeout_active (run : s.clocksRun = true) (active : s.tie.role = .active) :
    exec .heartbeatTimeout s = .next (loseStandby (beatMissed s)) := by
  change execHeartbeatTimeout s = _
  rw [execHeartbeatTimeout, if_neg (by simp [run]), active]
  rfl

theorem withoutPartner (alone : s.tie.role = .alone ∨ s.tie.role = .joining) :
    exec .heartbeatTimeout s = .next s ∧ exec .withdrawalNotice s = .next s := by
  change execHeartbeatTimeout s = _ ∧ execWithdrawalNotice s = _
  rw [execHeartbeatTimeout, execWithdrawalNotice, withdrawalNotice]
  rcases alone with role | role
  · rw [role]
    exact ⟨by simp, by simp⟩
  · rw [role]
    exact ⟨by simp, by simp⟩

theorem exec_withdrawalNotice_standby (run : s.clocksRun = true) (standby : s.tie.role = .standby) :
    exec .withdrawalNotice s = .next (declareLost s 2) := by
  change execWithdrawalNotice s = _
  rw [execWithdrawalNotice, if_pos run, withdrawalNotice, standby]

/-! ### Role decision (R514) -/

theorem exec_roleDecision_linked (run : s.clocksRun = true) (joining : s.tie.role = .joining) (up : s.pairLinkUp = true)
    (partner : s.tie.partnerRole ≠ .active) : exec .roleDecision s = .next (if s.glb.side then s else setRole s .active 0) :=
  congrArg Host.Outcome.next ((if_neg (by simp [run, joining])).trans ((if_pos up).trans (if_neg partner)))

/-- 1 s after it entered JOINING. -/
def joinDue (s : State) : State := s.toTick (s.tie.joinAt + 1000000000)

theorem exec_roleDecision_alone (run : s.clocksRun = true) (joining : s.tie.role = .joining) (down : s.pairLinkUp = false)
    (first : s.glb.side = false) : exec .roleDecision s = .next (setRole (joinDue s) .active 0) :=
  congrArg Host.Outcome.next ((if_neg (by simp [run, joining])).trans ((if_neg (by simp [down])).trans
    (if_pos (c := (!(joinDue s).glb.side) = true) (by simp [joinDue, first]))))

theorem exec_roleDecision_off (other : s.tie.role ≠ .joining) : exec .roleDecision s = .next s :=
  congrArg Host.Outcome.next (if_pos (by simp [other]))

end Sys2Proof.Machine
end


section
/-! Takeover, foreign epochs, join, handover, and the commands of a pair and of the tally (R523 to R525, R528 to R530, R533). -/

namespace Sys2Proof.Machine

variable {s : State}

/-! ### Takeover (R524) -/

theorem takeoverDone_tie (s : State) (cause : BitVec 4) (us n : Nat) : (takeoverDone s cause us n).tie = { s.tie with
    lost := none, mirrorEvts := [], mirrorCpls := [], mirrorCmds := [], mirrorSess := [], takeoverF := true
    takeoverDur := BitVec.ofNat 16 us, takeoverCause := cause, takeovers := s.tie.takeovers + 1 } := by
  simp [takeoverDone]

@[simp] theorem helloAfter_tie (s : State) : (helloAfter s).tie = s.tie := by
  unfold helloAfter
  split
  · rfl
  · rfl

@[simp] theorem writeSummary_tie (s : State) (o : Option (Fin 128)) : (writeSummary s o).tie = s.tie := by
  unfold writeSummary; repeat' split
  all_goals simp

@[simp] theorem foldl_tie {α : Type} {l : List α} {f : State → α → State} {s : State} (h : ∀ s x, (f s x).tie = s.tie) :
    (l.foldl f s).tie = s.tie := foldl_inv (fun t => t.tie = s.tie) l f s rfl fun t x same => (h t x).trans same

@[simp] theorem openRing_tie (s : State) (r : Fin 57) : (openRing s r).tie = s.tie := by simp [openRing, replayRing]

@[simp] theorem drainGo_tie (l : List Event) (s : State) : (drainGo l s).tie = s.tie := by
  induction l generalizing s with
  | nil => rfl
  | cons e l ih =>
    unfold drainGo; dsimp only
    repeat' split
    all_goals rw [ih]; simp

@[simp] theorem flushDone_tie (s : State) : (flushDone s).tie = s.tie := by
  unfold flushDone
  refine foldl_tie fun t r => ?_
  repeat' split
  all_goals simp

/-- What waits for room on the rings leaves the tie block. -/
@[simp] theorem drainAll_tie (s : State) : (drainAll s).tie = s.tie := by
  unfold drainAll
  dsimp only
  rw [flushDone_tie]
  split
  · simp [judgeBacklog]
  · simp

theorem takenOver_tie (s : State) : (drainAll (helloAfter s)).revote.tie = s.tie := by
  simp

theorem exec_takeover {k : BitVec 4} {a : Nat} (lost : s.tie.lost = some (k, a)) (running : s.glb.phase = .running) (active : s.tie.role = .active) :
    exec .takeover s = .next (drainAll (helloAfter (takeoverDone (adoptAll s) k (takeoverUs (adoptAll s) k a)
      (min 16384 s.tie.mirrorEvts.length)))).revote := by
  change execTakeover s = _
  rw [execTakeover, lost]
  exact congrArg Host.Outcome.next (if_neg (by simp [running, active]))

/-! ### Foreign epochs (R523) -/

/-- A lane on which another EPOCH has been read for 10 µs is listened to. -/
def laneForeign (s : State) (l : Fin 128) (a : Nat) : State := setLink (s.toTick (a + 10000)) l .listen

/-- Without a lane of its own, the device becomes the standby where it listens to any. -/
def claimsLost (s : State) : State :=
  if (outlets.any fun k => (s.lane k).link == .up) || (listenLanes s).isEmpty then s
  else setRole { s with tie := { s.tie with mirrorStale := true, claimLost := true, ready := false } } .standby 3

theorem exec_foreignEpoch {l : Fin 128} {a : Nat} (foreign : (s.lane l).foreignSince = some a) (active : s.tie.role = .active)
    (up : (s.lane l).link = .up) : exec (.foreignEpoch l) s = .next (claimsLost (laneForeign s l a)) := by
  change execForeignEpoch l s = _
  rw [execForeignEpoch, foreign]
  exact congrArg Host.Outcome.next (if_neg (by simp [active, up]))

theorem exec_foreignEpoch_none {l : Fin 128} (none_ : (s.lane l).foreignSince = none) : exec (.foreignEpoch l) s = .next s := by
  change execForeignEpoch l s = _
  rw [execForeignEpoch, none_]

theorem claimsLost_lanes (s : State) : (claimsLost s).lanes = s.lanes := by
  unfold claimsLost
  split
  · rfl
  · exact (setRole_frame _ _ _).2.2.2

/-! ### Join (R516, R529) -/

@[simp] theorem joinEvent_tie (s : State) (cause ms : Nat) : (joinEvent s cause ms).tie = s.tie := by simp [joinEvent]

/-- The time since the device entered JOINING, in ms. -/
def joinMs (s : State) : Nat := min 0xFFFFFFFF ((s.now - s.tie.joinAt) / msNs)

/-- A joining device has taken its partner's copy. -/
def copyTaken (s : State) (copy : List (Nat × List Nat)) : State := copy.foldl (fun s w => takeMirror s w.1 w.2) (closeByPartner s)

/-- The copy makes the device READY as the standby. -/
def joined (s : State) (copy : List (Nat × List Nat)) : State :=
  setRole { copyTaken s copy with tie := { (copyTaken s copy).tie with ready := true, mirrorStale := false, lost := none } } .standby 0

section
variable {v : BitVec 32} {f : Nat} {w : List (Nat × List Nat)} (running : s.glb.phase = .running) (up : s.pairLinkUp = true)
  (joining : s.tie.role = .joining) (guard : s.saf.guardOk = true)
include running up joining guard

theorem exec_join_taken (sameV : v = s.upd.cfgActive) (sameF : f = fwMajorOf s) (active : s.tie.partnerRole = .active) :
    exec (.join v f w) s = .next (joinEvent (joined s w) 0 (joinMs s)) := by
  change execJoin v f w s = _
  simp only [execJoin]
  rw [if_neg (by simp [running, up]), joining]
  exact congrArg Host.Outcome.next ((if_neg (by simp [guard])).trans ((if_neg (by simp [sameV, sameF])).trans (if_neg (by simp [active]))))

theorem exec_join_refused (differ : v ≠ s.upd.cfgActive ∨ f ≠ fwMajorOf s) :
    exec (.join v f w) s = .next (joinEvent { s with tie := { s.tie with joinRefused := true } } 1 (joinMs s)) := by
  change execJoin v f w s = _
  simp only [execJoin]
  rw [if_neg (by simp [running, up]), joining]
  exact congrArg Host.Outcome.next ((if_neg (by simp [guard])).trans (if_pos (by simpa using differ)))

end

theorem joined_tie (s : State) (copy : List (Nat × List Nat)) : (joined s copy).tie =
    { (copyTaken s copy).tie with ready := true, mirrorStale := false, lost := none, role := .standby } :=
  (setRole_frame _ _ _).1

/-! ### Handover (R530) -/

/-- Nothing waits for a handover: no activation of this device or of the pair, no recovery, and no service reset. -/
structure NothingFollows (s : State) : Prop where
  switch : vget s.upd.switchDue 0 = none
  pair : s.upd.pairFw = none
  recover : s.upd.recoverDue = false
  reset : s.tie.resetDue = false

theorem NothingFollows.congr {s t : State} (h : NothingFollows s) (upd : t.upd = s.upd) (reset : t.tie.resetDue = s.tie.resetDue) :
    NothingFollows t :=
  ⟨by rw [upd]; exact h.switch, by rw [upd]; exact h.pair, by rw [upd]; exact h.recover, reset.trans h.reset⟩

theorem afterHandover_nothing (h : NothingFollows s) : afterHandover s = { s with tie := { s.tie with resetDue := false } } := by
  obtain ⟨switch, pair, recover, reset⟩ := h
  simp only [afterHandover, switch, pair, recover, reset]
  rfl

theorem completeSwitch_none (h : vget s.upd.switchDue 0 = none) : completeSwitch s = s := by
  rw [completeSwitch, h]

theorem handPairFw_none (h : s.upd.pairFw = none) : handPairFw s = s := by
  rw [handPairFw, h]

theorem completeHand_frame (s : State) (st : BitVec 8) :
    (completeHand s st).tie = { s.tie with handCmd := none } ∧ (completeHand s st).upd = s.upd := by
  unfold completeHand
  split
  · simp
  case h_2 none_ =>
    rw [← none_]
    exact ⟨rfl, rfl⟩

theorem handCommands_tieUpdKept (s : State) : TieUpdKept s (handCommands s) := by
  unfold handCommands forAll
  refine foldl_inv (TieUpdKept s) _ _ _ ⟨rfl, rfl⟩ fun t r kept => ?_
  obtain ⟨tie, upd⟩ := kept
  dsimp only
  split
  · exact ⟨tie, upd⟩
  · exact ⟨by simp [tie], by simp [upd]⟩

/-- A handover that has been started is taken up. -/
def handTaken (s : State) : State := { s with tie := { s.tie with handing := false } }

/-- Without a READY standby and anything that waits for it, a handover leaves the role. -/
theorem exec_handover_refused (handing : s.tie.handing = true) (unready : s.tie.partnerReady = false) (nothing : NothingFollows s) :
    ∃ u, exec .handover s = .next u ∧ u.tie = { s.tie with handing := false, handCmd := none, resetDue := false } := by
  obtain ⟨tie, upd⟩ := completeHand_frame (handTaken s) 0x0A
  have kept : NothingFollows (completeHand (handTaken s) 0x0A) := nothing.congr upd (by rw [tie]; rfl)
  have taken : exec .handover s = .next (refuseHandover (handTaken s)) :=
    congrArg Host.Outcome.next ((if_neg (by simp [handing])).trans (if_pos (by simp [unready])))
  refine ⟨_, taken, ?_⟩
  rw [refuseHandover]
  dsimp only
  rw [kept.pair]
  dsimp only
  rw [completeSwitch_none kept.switch, afterHandover_nothing kept, tie]
  rfl

/-- The active side listens to every lane it has conducted, having told its partner. -/
def lanesHanded (s : State) : State :=
  forAll outlets (fun s l => if (s.lane l).link == .up then setLink s l .listen else s) ((handTaken s).send (.tie 3 .handover))

theorem lanesHanded_tieUpdKept (s : State) : TieUpdKept (handTaken s) (lanesHanded s) := by
  unfold lanesHanded forAll
  refine foldl_inv (TieUpdKept (handTaken s)) _ _ _ ⟨rfl, rfl⟩ fun t l kept => ?_
  split
  · exact kept.trans (setLink_tieUpdKept _ _ _)
  · exact kept

/-- The partner is the active side. -/
def partnerActive (s : State) : State :=
  { s with tie := { s.tie with ready := true, partnerReady := false, partnerRole := .active, lastBeat := s.now } }

/-- What has been handed over, before what follows it. -/
def handedOver (s : State) : State := setRole (handCommands (partnerActive (completeHand (lanesHanded s) 0))) .standby 2

@[simp] theorem partnerActive_upd (s : State) : (partnerActive s).upd = s.upd := rfl

theorem handedOver_frame (s : State) : (handedOver s).upd = s.upd ∧ ∃ beat, (handedOver s).tie = { s.tie with
    handing := false, handCmd := none, ready := true, partnerReady := false, partnerRole := .active, lastBeat := beat, role := .standby } := by
  obtain ⟨roleTie, roleUpd, -, -⟩ := setRole_frame (handCommands (partnerActive (completeHand (lanesHanded s) 0))) .standby 2
  obtain ⟨cmdsTie, cmdsUpd⟩ := handCommands_tieUpdKept (partnerActive (completeHand (lanesHanded s) 0))
  obtain ⟨handTie, handUpd⟩ := completeHand_frame (lanesHanded s) 0
  obtain ⟨lanesTie, lanesUpd⟩ := lanesHanded_tieUpdKept s
  have listed : (partnerActive (completeHand (lanesHanded s) 0)).tie = { s.tie with
      handing := false, handCmd := none, ready := true, partnerReady := false, partnerRole := .active
      lastBeat := (completeHand (lanesHanded s) 0).now } := by
    rw [partnerActive, handTie, lanesTie]
    rfl
  rw [handedOver]
  refine ⟨?_, (completeHand (lanesHanded s) 0).now, ?_⟩
  · rw [roleUpd, cmdsUpd, partnerActive_upd, handUpd, lanesUpd]
    rfl
  · rw [roleTie, cmdsTie, listed]

theorem exec_handover_given (handing : s.tie.handing = true) (active : s.tie.role = .active) (ready : s.tie.partnerReady = true)
    (up : s.pairLinkUp = true) (nothing : NothingFollows s) :
    exec .handover s = .next { handedOver s with tie := { (handedOver s).tie with resetDue := false } } := by
  have given : exec .handover s = .next (afterHandover (setRole (handCommands (partnerActive (completeHand
      (forAll outlets (fun s l => if (s.lane l).link == .up then setLink s l .listen else s)
        (toPartner (handPairFw (completeSwitch (handTaken s))) .handover)) 0))) .standby 2)) := by
    change execHandover s = _
    unfold execHandover partnerActive handTaken
    dsimp only
    rw [if_neg (by simp [handing])]
    exact congrArg Host.Outcome.next (if_neg (by simp [active, ready, State.pairLinkUp] at up ⊢; exact up))
  have taken : NothingFollows (handTaken s) := nothing.congr rfl rfl
  obtain ⟨upd, beat, tie⟩ := handedOver_frame s
  rw [given, completeSwitch_none taken.switch, handPairFw_none taken.pair, toPartner_up (s := handTaken s) up]
  exact congrArg Host.Outcome.next (afterHandover_nothing (s := handedOver s) (nothing.congr upd (by rw [tie])))

/-! ### Commands (R533) -/

/-- A handover the host has asked for is owed. -/
def handStarted (s : State) (c : Cmd) : State :=
  { started s c with tie := { s.tie with handing := true, handCmd := some (c.ring, c.index) } }

theorem effHandOver_ready {c : Cmd} (active : s.tie.role = .active) (ready : s.tie.partnerReady = true) (idle : s.tie.handing = false) :
    effHandOver c s = handStarted s c :=
  (if_neg (by simp [active])).trans (if_neg (by simp [active, ready, idle]))

theorem effHandOver_unready {c : Cmd}
    (unready : s.tie.role = .alone ∨ s.tie.role = .joining ∨ (s.tie.role = .active ∧ s.tie.partnerReady = false)) :
    effHandOver c s = complete s c 0x0A := by
  rcases unready with role | role | ⟨role, partner⟩
  · exact (if_neg (by simp [role])).trans (if_pos (by simp [role]))
  · exact (if_neg (by simp [role])).trans (if_pos (by simp [role]))
  · exact (if_neg (by simp [role])).trans (if_pos (by simp [partner]))

/-- The tally without the entries of a class; the lasting state of class 2 has ended. -/
def tallyCleared (s : State) (k : Nat) : State := { s with tie := { s.tie with
  tally := s.tie.tally.filter fun e => e.cls.val != k, legalStopped := s.tie.legalStopped && k != 2 } }

/-- The event of a cleared tally. -/
def clearedEvent (s : State) (c : Cmd) (k n : Nat) : State := postDev s 0x1001 (sideSlot s ++ p8 k ++ p8 (min 255 n)) (some c)

theorem clearedEvent_tie (s : State) (c : Cmd) (k n : Nat) : (clearedEvent s c k n).tie = s.tie := by simp [clearedEvent]

theorem effClearTally_free {c : Cmd} (not3 : fld (c.p 0) 0 4 ≠ 3) (not4 : fld (c.p 0) 0 4 ≠ 4) : effClearTally c s =
    complete (clearedEvent (tallyCleared s (fld (c.p 0) 0 4)) c (fld (c.p 0) 0 4) (tallyEntries s (fld (c.p 0) 0 4)).length) c 0 :=
  if_neg (by simp [not3, not4])

theorem effClearTally_lasting {c : Cmd} {e : TallyEntry} (fixed : fld (c.p 0) 0 4 = 3 ∨ fld (c.p 0) 0 4 = 4) (entry : e ∈ s.tie.tally)
    (cls : e.cls.val = fld (c.p 0) 0 4) (lasting : e.lasting = true) : effClearTally c s = complete s c 0x0A := by
  have any : (s.tie.tally.filter fun e => e.cls.val == fld (c.p 0) 0 4).any (·.lasting) = true :=
    List.any_eq_true.mpr ⟨e, List.mem_filter.mpr ⟨entry, by simp [cls]⟩, lasting⟩
  exact if_pos (by simp only [decide_eq_true fixed, any]; rfl)

/-- Settles O45, role by role; what a takeover adopts and what a copy carries keeps none of the named fields from being set. -/
theorem pairRoles : Obligations.PairRoles := by
  unfold Obligations.PairRoles
  refine ⟨?majority, ?noLane, ?activeLoses, ?noPartner, ?withdrawal, ?decided, ?decidedAlone, ?decidedOff, ?takeover, ?takeoverOff, ?foreign,
    ?foreignOff, ?join, ?joinRefused, ?handOver, ?handOverUnready, ?handOverStandby, ?handoverOff, ?handoverRefused, ?handover, ?readPair,
    ?readTally, ?clear, ?clearLasting⟩
  case majority =>
    rintro s run standby _ rfl some_ majority
    change listenLanes (beatMissed s) ≠ [] at some_
    change (listenLanes (beatMissed s)).length < 2 * ((listenLanes (beatMissed s)).filter (laneFree (beatMissed s))).length at majority
    have tie : (beatMissed s).tie = s.tie := toTick_tie _ _
    have lost := declareLost_tie (s := beatMissed s) (by rw [tie]; exact standby) 0
    refine ⟨declareLost (beatMissed s) 0, ?_, by rw [lost], by rw [lost]; rfl, by rw [lost]⟩
    rw [exec_heartbeatTimeout_standby run standby, if_neg (by simpa using some_), if_pos majority]
  case noLane =>
    intro s run standby none_
    change listenLanes (beatMissed s) = [] at none_
    have tie : (beatMissed s).tie = s.tie := toTick_tie _ _
    have tie' : ((beatMissed s).toTick ((beatMissed s).tie.lastBeat + 16000)).tie = s.tie := (toTick_tie _ _).trans tie
    have lost := declareLost_tie (s := (beatMissed s).toTick ((beatMissed s).tie.lastBeat + 16000)) (by rw [tie']; exact standby) 1
    refine ⟨declareLost ((beatMissed s).toTick ((beatMissed s).tie.lastBeat + 16000)) 1, _, ?_, by rw [lost], by rw [lost]; rfl, ?_⟩
    · rw [exec_heartbeatTimeout_standby run standby, if_pos (by simpa using none_)]
    · rw [← tie]
      exact toTick_reaches _ _
  case activeLoses =>
    intro s run active partner
    have tie : (beatMissed s).tie = s.tie := toTick_tie _ _
    have lost := loseStandby_tie (s := beatMissed s) (by rw [tie]; exact active) (by rw [tie]; exact partner)
    refine ⟨_, exec_heartbeatTimeout_active run active, ?_, ?_, ?_, ?_⟩
    · rw [lost, tie]
      exact active
    all_goals rw [lost]
  case noPartner =>
    intro s role
    exact withoutPartner role
  case withdrawal =>
    intro s run standby
    have lost := declareLost_tie standby 2
    refine ⟨_, exec_withdrawalNotice_standby run standby, ?_, ?_⟩
    · rw [lost]
    · rw [lost]
      rfl
  case decided =>
    intro s run joining up partner
    rw [exec_roleDecision_linked run joining up partner]
    constructor
    · intro first
      refine ⟨setRole s .active 0, by rw [first]; rfl, ?_⟩
      rw [(setRole_frame _ _ _).1]
    · intro second
      rw [second]
      rfl
  case decidedAlone =>
    intro s run joining down first
    obtain ⟨tie, -, tim, -⟩ := setRole_frame (joinDue s) .active 0
    refine ⟨_, exec_roleDecision_alone run joining down first, by rw [tie], ?_⟩
    rw [State.now, tim]
    exact toTick_reaches _ _
  case decidedOff =>
    intro s other
    exact exec_roleDecision_off other
  case takeover =>
    intro s k a lost running active
    refine ⟨_, exec_takeover lost running active, ?_⟩
    rw [takenOver_tie, takeoverDone_tie]
    exact ⟨rfl, rfl, rfl, rfl, rfl⟩
  case takeoverOff =>
    intro s none_
    change execTakeover s = _
    rw [execTakeover, none_]
  case foreign =>
    intro s l a foreign active up
    obtain ⟨others, link⟩ := setLink_lanes (s.toTick (a + 10000)) l .listen
    refine ⟨_, exec_foreignEpoch foreign active up, ?_, fun k other => ?_⟩
    · rw [lane_congr (claimsLost_lanes _)]
      exact link (by decide)
    · rw [lane_congr (claimsLost_lanes _), laneForeign, others.2 k other, toTick_lane]
  case foreignOff =>
    intro s l none_
    exact exec_foreignEpoch_none none_
  case join =>
    intro s v f w running up joining guard sameV sameF active
    refine ⟨_, exec_join_taken running up joining guard sameV sameF active, ?_⟩
    rw [joinEvent_tie, joined_tie]
    exact ⟨rfl, rfl, rfl, rfl⟩
  case joinRefused =>
    intro s v f w running up joining guard differ
    refine ⟨_, exec_join_refused running up joining guard differ, ?_⟩
    rw [joinEvent_tie]
    exact ⟨joining, rfl⟩
  case handOver =>
    intro s c h active ready idle
    exact ⟨handStarted s c, ready_eq h (effHandOver_ready active ready idle), inFlight_same (started_inFlight h.cmd) rfl, rfl, rfl⟩
  case handOverUnready =>
    intro s c h unready
    exact ready_eq h (effHandOver_unready unready)
  case handOverStandby =>
    intro s c h standby
    exact ready_eq h (if_pos standby)
  case handoverOff =>
    intro s off
    exact congrArg Host.Outcome.next (if_pos (by simp [off]))
  case handoverRefused =>
    intro s k handing active unready cmd switch pair recover reset
    obtain ⟨u, eq, tie⟩ := exec_handover_refused handing unready ⟨switch, pair, recover, reset⟩
    refine ⟨u, eq, ?_⟩
    rw [tie]
    exact ⟨active, rfl, rfl⟩
  case handover =>
    intro s handing active ready up switch pair recover reset
    obtain ⟨-, beat, tie⟩ := handedOver_frame s
    refine ⟨_, exec_handover_given handing active ready up ⟨switch, pair, recover, reset⟩, ?_⟩
    dsimp only
    rw [tie]
    exact ⟨rfl, rfl, rfl, rfl⟩
  case readPair =>
    intro s c h
    exact exec_ready h
  case readTally =>
    intro s c h
    exact exec_ready h
  case clear =>
    rintro s c _ h rfl not3 not4
    refine ⟨_, ready_eq h (effClearTally_free not3 not4), ?_⟩
    rw [clearedEvent_tie]
    rfl
  case clearLasting =>
    rintro s c _ e h rfl fixed entry cls lasting
    exact ready_eq h (effClearTally_lasting fixed entry cls lasting)

end Sys2Proof.Machine
end


section
/-! Domains, wake sources, the RTC alarm and the quiet commands (R572 to R585). -/

namespace Sys2Proof.Machine

variable {s : State}

/-! ### Domains (R572 to R574) -/

theorem domain_congr {s t : State} (same : t.pwr.domains = s.pwr.domains) (d : Fin 19) : t.domain d = s.domain d := by
  unfold State.domain; rw [same]

theorem onDomain_domain (s : State) (d k : Fin 19) (f : Domain → Domain) :
    (s.onDomain d f).domain k = if d = k then f (s.domain k) else s.domain k := vget_vmod _ _ _ _

@[simp] theorem mirrorDomains_pwr_tim (s : State) : (mirrorDomains s).pwr = s.pwr ∧ (mirrorDomains s).tim = s.tim := by
  unfold mirrorDomains
  split
  · exact ⟨rfl, rfl⟩
  · exact ⟨rfl, rfl⟩

@[simp] theorem stateChanged_pwr_tim (s : State) (old new : PwrState) :
    (stateChanged s old new).pwr = s.pwr ∧ (stateChanged s old new).tim = s.tim := by
  unfold stateChanged
  split
  · exact ⟨rfl, rfl⟩
  · simp

/-- The state that follows the slices is all that changes (R575). -/
theorem settlePower_pwr_tim (s : State) :
    (settlePower s).pwr = { s.pwr with state := powerState s } ∧ (settlePower s).tim = s.tim := by
  simp [settlePower]

theorem dropDomain_domain (s : State) (d k : Fin 19) : (dropDomain s d).domain k =
    if d = k then { s.domain k with up := false, noVoteSince := none } else s.domain k := by
  have domains : (dropDomain s d).pwr.domains = (s.onDomain d fun x => { x with up := false, noVoteSince := none }).pwr.domains := by
    rw [dropDomain, (mirrorDomains_pwr_tim _).1, (settlePower_pwr_tim _).1]
  rw [domain_congr domains, onDomain_domain]

theorem dropDomain_now (s : State) (d : Fin 19) : (dropDomain s d).now = s.now := by
  rw [State.now, dropDomain, (mirrorDomains_pwr_tim _).2, (settlePower_pwr_tim _).2]
  rfl

/-- The end of DROP_HOLD for a domain without a vote. -/
def dropDue (s : State) (d : Fin 19) : State := s.toTick ((s.domain d).noVoteSince.getD s.now + s.cfg.dropHold * 1000000000)

theorem exec_domainDrop {d : Fin 19} (droppable : 6 ≤ d.val) (up : (s.domain d).up = true) (unvoted : s.voted d = false)
    (running : s.glb.phase = .running) (settled : s.pwr.state ≠ .entering) (own : s.tie.role ≠ .standby) (free : sliceHolds s d = false) :
    exec (.domainDrop d) s = .next (dropDomain (dropDue s d) d) := by
  have above : ¬ d.val < 6 := by omega
  exact (if_neg (by simp [above, up, running, own, free])).trans ((if_neg (by simp [unvoted])).trans (if_neg (by simp [settled])))

theorem exec_domainDrop_off {d : Fin 19} (off : d.val < 6 ∨ (s.domain d).up = false ∨ s.tie.role = .standby ∨ sliceHolds s d = true) :
    exec (.domainDrop d) s = .next s :=
  if_pos (by rcases off with h | h | h | h <;> simp [h])

/-- A vote has raised a domain. -/
def raised (s : State) (d : Fin 19) : State :=
  mirrorDomains (settlePower (s.onDomain d fun x => { x with up := true, fault := false, noVoteSince := none }))

theorem raised_domain (s : State) (d k : Fin 19) : (raised s d).domain k =
    if d = k then { s.domain k with up := true, fault := false, noVoteSince := none } else s.domain k := by
  have domains : (raised s d).pwr.domains = (s.onDomain d fun x => { x with up := true, fault := false, noVoteSince := none }).pwr.domains := by
    rw [raised, (mirrorDomains_pwr_tim _).1, (settlePower_pwr_tim _).1]
  rw [domain_congr domains, onDomain_domain]

/-- A domain has failed to rise. -/
def raiseFailed (s : State) (d : Fin 19) : State :=
  { s.onDomain d fun x => { x with fault := true } with pwr := { (s.onDomain d fun x => { x with fault := true }).pwr with faultF := true } }

theorem failWaiting_pwr (s : State) (d : Fin 19) : (failWaiting s d).pwr = s.pwr := by
  unfold failWaiting
  refine foldl_inv (fun t => t.pwr = s.pwr) _ _ s rfl fun t r same => ?_
  simpa using same

section
variable {d : Fin 19} (droppable : 6 ≤ d.val) (down : (s.domain d).up = false) (voted : s.voted d = true) (running : s.glb.phase = .running)
include droppable down voted running

theorem raises : ¬ (decide (d.val < 6) || (s.domain d).up || !s.voted d || !(s.glb.phase == .running || s.glb.phase == .serviceReset)) = true := by
  have above : ¬ d.val < 6 := by omega
  simp [above, down, voted, running]

theorem exec_domainRaise_good : exec (.domainRaise d true) s = .next (raised s d) :=
  (if_neg (raises droppable down voted running)).trans (if_pos rfl)

theorem exec_domainRaise_bad : exec (.domainRaise d false) s = .next (failWaiting (postDev (raiseFailed s d) 0x0D02 (p8 d.val)) d) :=
  (if_neg (raises droppable down voted running)).trans (if_neg Bool.false_ne_true)

end

/-! ### Wake sources (R578 to R581) -/

/-- A wake source is enabled (R578). -/
theorem source_enabled {k : Fin 9} (enabled : k.val = 2 ∨ (3 ≤ k.val ∧ s.cfg.wakeMask.getLsbD k.val = true)) :
    (decide (2 ≤ k.val) && decide (k.val ≤ 8) && (k.val == 2 || s.cfg.wakeMask.getLsbD k.val)) = true := by
  have below : k.val ≤ 8 := by omega
  rcases enabled with command | ⟨above, mask⟩
  · simp [command]
  · have above : 2 ≤ k.val := by omega
    simp [above, below, mask]

theorem exec_wake_quiet (running : s.glb.phase = .running) (quiet : s.pwr.state = .hubQuiet) {k : Fin 9}
    (enabled : k.val = 2 ∨ (3 ≤ k.val ∧ s.cfg.wakeMask.getLsbD k.val = true)) (x : BitVec 8) :
    exec (.wake k x) s = .next (leaveQuiet s k.val x.toNat false 0) :=
  congrArg Host.Outcome.next ((if_pos (by simp [running])).trans ((if_pos (source_enabled enabled)).trans
    ((if_neg (by simp [quiet, running])).trans (if_pos (by simp [quiet])))))

theorem exec_wake_entering (running : s.glb.phase = .running) (entering : s.pwr.state = .entering) (first : s.pwr.latchedWake = none) {k : Fin 9}
    (enabled : k.val = 2 ∨ (3 ≤ k.val ∧ s.cfg.wakeMask.getLsbD k.val = true)) (x : BitVec 8) :
    exec (.wake k x) s = .next { s with pwr := { s.pwr with latchedWake := some (k.val, x.toNat) } } := by
  change execWake k x s = _
  rw [execWake, if_pos (by simp [running]), wake, if_pos (source_enabled enabled), if_pos (by simp [entering]), first]

theorem exec_wake_run (run : s.pwr.state = .run) (k : Fin 9) (x : BitVec 8) : exec (.wake k x) s = .next s := by
  have still : wake s k.val x.toNat = s := by
    unfold wake
    split
    · rw [if_neg (by simp [run]), if_neg (by simp [run])]
    · rfl
  change execWake k x s = _
  rw [execWake, still, ite_self]

/-- Hub-Quiet has been left: the wake is recorded, and STATE is Run until the slices are judged (R578, R581). -/
def quietLeftBy (s : State) (source detail : Nat) (replayed : Bool) : State :=
  { recordWake s source detail replayed 2 with pwr := { (recordWake s source detail replayed 2).pwr with
    state := .run
    wakeF := true
    wakePinSince := if s.pwr.wakeEn && s.rng.d3hot then some s.now else s.pwr.wakePinSince
    latchedWake := none
    furtherWakes := 0 } }

/-- The domains that are voted for rise, and the partner is told (R578, R584). -/
def quietOver (s : State) : State :=
  mirrorDomains (if mirroring (raiseVoted s).revote then (raiseVoted s).revote.send (.tie 3 (.quiet 0)) else (raiseVoted s).revote)

theorem leaveQuiet_eq (s : State) (source detail : Nat) (replayed : Bool) (further : Nat) : ∃ u,
    u = quietOver (wakeEvent (quietLeftBy s source detail replayed) source detail replayed further) ∧
    leaveQuiet s source detail replayed further =
      stateChanged { u with pwr := { u.pwr with state := powerState u } } .hubQuiet (powerState u) := by
  refine ⟨_, rfl, ?_⟩
  unfold leaveQuiet quietOver quietLeftBy
  rfl

/-- Of the power state, only the domains have changed. -/
def DomainsOnly (s t : State) : Prop := ∃ domains, t.pwr = { s.pwr with domains := domains }

theorem DomainsOnly.trans {s t u : State} (h : DomainsOnly s t) (g : DomainsOnly t u) : DomainsOnly s u := by
  obtain ⟨one, first⟩ := h
  obtain ⟨two, second⟩ := g
  exact ⟨two, by rw [second, first]⟩

theorem raiseVoted_domainsOnly (s : State) : DomainsOnly s (raiseVoted s) := ⟨_, rfl⟩

theorem revote_domainsOnly (s : State) : DomainsOnly s s.revote := ⟨_, rfl⟩

theorem quietOver_domainsOnly (s : State) : DomainsOnly s (quietOver s) := by
  have pwr : (quietOver s).pwr = (raiseVoted s).revote.pwr := by
    rw [quietOver, (mirrorDomains_pwr_tim _).1, apply_ite State.pwr]
    exact ite_self _
  obtain ⟨domains, voted⟩ := (raiseVoted_domainsOnly s).trans (revote_domainsOnly _)
  exact ⟨domains, pwr.trans voted⟩

theorem powerState_awake (awake : s.pwr.quiet = false) : powerState s = .run ∨ powerState s = .baySleep := by
  rw [powerState, if_neg (by simp [awake])]
  split
  · exact .inl rfl
  · exact .inr rfl

theorem leaveQuiet_pwr (s : State) (source detail : Nat) (replayed : Bool) (further : Nat) : ∃ state domains,
    (state = .run ∨ state = .baySleep) ∧ (leaveQuiet s source detail replayed further).pwr =
      { (quietLeftBy s source detail replayed).pwr with state := state, domains := domains } := by
  obtain ⟨u, isOver, left⟩ := leaveQuiet_eq s source detail replayed further
  have event : (wakeEvent (quietLeftBy s source detail replayed) source detail replayed further).pwr =
      (quietLeftBy s source detail replayed).pwr := by simp [wakeEvent]
  obtain ⟨domains, pwr⟩ : ∃ domains, u.pwr = { (quietLeftBy s source detail replayed).pwr with domains := domains } := by
    rw [isOver, ← event]
    exact quietOver_domainsOnly _
  have awake : u.pwr.quiet = false := by
    rw [pwr]
    rfl
  refine ⟨powerState u, domains, powerState_awake awake, ?_⟩
  rw [left, (stateChanged_pwr_tim _ _ _).1]
  dsimp only
  rw [pwr]

/-! ### The RTC alarm and the wake pin (R580, R582) -/

/-- Legal seconds have reached the armed alarm. -/
def alarmReached (s : State) : State := s.toLegal (s.pwr.alarm.toNat * 2 ^ 24)

/-- An alarm that has fired is armed no more. -/
def disarmed (s : State) : State := { s with pwr := { s.pwr with armed := false } }

theorem exec_rtcAlarm (armed : s.pwr.armed = true) (run : s.clocksRun = true) (awake : s.pwr.quiet = false) :
    exec .rtcAlarm s = .next (wakeEvent (disarmed (alarmReached s)) 5 0 false 0) := by
  have awake' : (alarmReached s).pwr.quiet = false := by
    rw [alarmReached, toLegal_frame]
    exact awake
  have fires : exec .rtcAlarm s = .next (fireAlarm (alarmReached s)) := congrArg Host.Outcome.next (if_pos (by simp [armed, run]))
  rw [fires, fireAlarm_awake _ awake', disarmed]

theorem exec_wakeRelease {a : Nat} (held : s.pwr.wakePinSince = some a) : ∃ u,
    u = (if s.rng.linkUp && !s.rng.d3hot then s else s.toTick (a + 1000000000)) ∧
    exec .wakeRelease s = .next { u with pwr := { u.pwr with wakePinSince := none } } := by
  refine ⟨_, rfl, ?_⟩
  change execWakeRelease s = _
  rw [execWakeRelease, held]
  rfl

/-! ### Hub-Quiet (R576, R585) -/

theorem finishQuiet_waits (left : quietLeft s ≠ []) : finishQuiet s = s := if_neg (by simp [left])

/-- The entry to Hub-Quiet has begun. -/
def quietEntered (s : State) (c : Cmd) : State := { started s c with pwr := { s.pwr with
  quietFrom := s.pwr.state, state := .entering, quietCmd := some (c.ring, c.index), latchedWake := none, furtherWakes := 0 } }

theorem effEnterQuiet_free {c : Cmd} (own : s.tie.role ≠ .standby) (awake : s.pwr.quiet = false) (free : ∀ o, blocksQuiet s o = false) :
    effEnterQuiet c s = finishQuiet (quietEntered s c) :=
  (if_neg (by simp [own])).trans (if_neg (by simp [awake, free]))

theorem effEnterQuiet_refused {c : Cmd} (own : s.tie.role ≠ .standby) (blocked : s.pwr.quiet = true ∨ ∃ o, blocksQuiet s o = true) :
    effEnterQuiet c s = complete s c 0x0A := by
  refine (if_neg (by simp [own])).trans (if_pos ?_)
  rcases blocked with quiet | ⟨o, blocks⟩
  · simp [quiet]
  · simp only [Bool.or_eq_true, List.any_eq_true]
    exact .inr ⟨o, List.mem_finRange o, blocks⟩

/-- Settles O46, domain, source and command in turn. -/
theorem powerStates : Obligations.PowerStates := by
  unfold Obligations.PowerStates
  refine ⟨?drop, ?dropOff, ?raise, ?raiseFails, ?wake, ?wakeEntering, ?wakeRun, ?alarm, ?released, ?releasedLate, ?releasedOff, ?enter,
    ?enterRefused, ?leave, ?leaveRefused⟩
  case drop =>
    intro s d droppable up unvoted running settled own free
    have same (k : Fin 19) : (dropDue s d).domain k = s.domain k := domain_congr (by rw [dropDue, toTick_frame]) k
    refine ⟨_, exec_domainDrop droppable up unvoted running settled own free, ?_, fun k other => ?_, ?_⟩
    · rw [dropDomain_domain, if_pos rfl]
    · rw [dropDomain_domain, if_neg (Ne.symm other), same]
    · rw [dropDomain_now]
      exact toTick_reaches _ _
  case dropOff =>
    intro s d off
    exact exec_domainDrop_off off
  case raise =>
    intro s d droppable down voted running
    refine ⟨_, exec_domainRaise_good droppable down voted running, ?_, ?_, fun k other => ?_⟩
    · rw [raised_domain, if_pos rfl]
    · rw [raised_domain, if_pos rfl]
    · rw [raised_domain, if_neg (Ne.symm other)]
  case raiseFails =>
    intro s d droppable down voted running
    have pwr : (failWaiting (postDev (raiseFailed s d) 0x0D02 (p8 d.val)) d).pwr = (raiseFailed s d).pwr := by
      rw [failWaiting_pwr]
      simp
    have domain : (failWaiting (postDev (raiseFailed s d) 0x0D02 (p8 d.val)) d).domain d = { s.domain d with fault := true } := by
      rw [domain_congr (congrArg Pwr.domains pwr)]
      exact (onDomain_domain s d d _).trans (if_pos rfl)
    refine ⟨_, exec_domainRaise_bad droppable down voted running, ?_, ?_, ?_⟩
    · rw [domain]
    · rw [domain]
      exact down
    · rw [pwr]
      rfl
  case wake =>
    intro s k x running quiet enabled
    obtain ⟨state, domains, awake, pwr⟩ := leaveQuiet_pwr s k.val x.toNat false 0
    refine ⟨_, exec_wake_quiet running quiet enabled x, ?_, ?_, ?_, ?_⟩
    · rw [pwr]
      rfl
    · rw [pwr]
      rfl
    · rw [pwr]
      rcases awake with rfl | rfl
      · rfl
      · rfl
    · rw [pwr]
      rfl
  case wakeEntering =>
    intro s k x running entering first enabled
    exact exec_wake_entering running entering first enabled x
  case wakeRun =>
    intro s k x run
    exact exec_wake_run run k x
  case alarm =>
    intro s armed run awake own
    have rng : (alarmReached s).rng = s.rng := by rw [alarmReached, toLegal_frame]
    have tie : (alarmReached s).tie = s.tie := by rw [alarmReached, toLegal_frame]
    refine ⟨_, exec_rtcAlarm armed run awake, ?_, ?_⟩
    · simp [wakeEvent, disarmed]
    · have posted := postEvent_posted (s := disarmed (alarmReached s)) (by change (alarmReached s).tie.role ≠ _; rw [tie]; exact own)
        (code := 0x0D01) (by decide) none (p8 5 ++ p8 0 ++ p8 0 ++ p8 0) none
      exact posted.since rng
  case released =>
    intro s a held up awake
    obtain ⟨u, at_, release⟩ := exec_wakeRelease held
    rw [release, at_, if_pos (by simp [up, awake])]
  case releasedLate =>
    intro s a held away
    obtain ⟨u, at_, release⟩ := exec_wakeRelease held
    rw [if_neg (by rcases away with h | h <;> simp [h])] at at_
    refine ⟨_, release, rfl, ?_⟩
    change _ ≤ u.now
    rw [at_]
    exact toTick_reaches _ _
  case releasedOff =>
    intro s off
    change execWakeRelease s = _
    rw [execWakeRelease, off]
  case enter =>
    rintro s c h own awake free _ rfl left
    exact ready_eq h ((effEnterQuiet_free own awake free).trans (finishQuiet_waits left))
  case enterRefused =>
    intro s c h own blocked
    exact ready_eq h (effEnterQuiet_refused own blocked)
  case leave =>
    intro s c h own quiet
    exact ready_eq h ((if_neg (by simp [own])).trans (if_pos (by simp [quiet])))
  case leaveRefused =>
    intro s c h own awake
    exact ready_eq h ((if_neg (by simp [own])).trans (if_neg (by simp [awake])))

end Sys2Proof.Machine
end


section
/-! Key commands, credentials and the random source (R536 to R550). -/

namespace Sys2Proof.Machine

variable {s : State}

/-! ### Key slots (R536 to R543) -/

theorem keySlot_congr {s t : State} (same : t.keys = s.keys) (k : Fin 64) : t.keySlot k = s.keySlot k := by
  unfold State.keySlot; rw [same]

theorem onKey_keySlot (s : State) (k j : Fin 64) (f : KeySlot → KeySlot) :
    (s.onKey k f).keySlot j = if k = j then f (s.keySlot j) else s.keySlot j := vget_vmod _ _ _ _

/-- A changed slot takes its material with its GEN counted on; no other slot changes. -/
theorem changeSlot_keySlot (s : State) (k j : Fin 64) (st : KeyState) (mat : List Byte) (cause : Nat) (by_ : Option Cmd) :
    (changeSlot s k st mat cause by_).keySlot j =
      if k = j then ⟨st, (s.keySlot j).gen + 1, ⟨mat⟩, true, true, false⟩ else s.keySlot j := by
  have keys : (changeSlot s k st mat cause by_).keys = (s.onKey k fun x =>
      { state := st, gen := x.gen + 1, mat := ⟨mat⟩, soundA := true, soundB := true, posted := false }).keys := by
    unfold changeSlot
    dsimp only
    split
    · simp
    · simp
  rw [keySlot_congr keys, onKey_keySlot]

/-- An erased slot is in no working key register (R540). -/
theorem changeSlot_engines (s : State) (k : Fin 64) (mat : List Byte) (cause : Nat) (by_ : Option Cmd) (e : Fin 8)
    (held : (vget (changeSlot s k .empty mat cause by_).key.engines e).slot = k) :
    (vget (changeSlot s k .empty mat cause by_).key.engines e).loaded = false := by
  have engines : (changeSlot s k .empty mat cause by_).key.engines = vall s.key.engines fun e => if e.slot = k then {} else e := by
    unfold changeSlot
    simp
  rw [engines] at held ⊢
  unfold vget vall at *
  simp only [Vector.getElem_map] at held ⊢
  split at held
  case isTrue mine => rw [if_pos mine]
  case isFalse other => exact absurd held other

/-- STAGE is cleared (R549). -/
def stageCleared (s : State) : State := { s with key := { s.key with stage := Vector.replicate 256 0 } }

/-- A command may use the slot of a key command: debug holds no key back (R548). -/
theorem notHeldBack (plain : s.key.dbgKeys = false) (k : Fin 64) : ¬ (s.key.dbgKeys && (s.keySlot k).state != .empty) = true := by
  simp [plain]

section
variable {c : Cmd} (typed : keyType (keyCmdSlot c).val ≠ 0) (other : keyCmdSlot c ≠ 5) (may : mayLoad s (keyCmdSlot c) (s.roleOf c) = true)
  (plain : s.key.dbgKeys = false)
include typed other may plain

theorem effLoadKey_loads {m : List Byte} (staged : stagedKey s (keyCmdSlot c) = some m) :
    effLoadKey c s = stageCleared (complete (changeSlot s (keyCmdSlot c) .valid m 0 (some c)) c 0) := by
  rw [effLoadKey]
  dsimp only
  rw [if_neg (not_or.mpr ⟨typed, other⟩), if_neg (by simp [may]), if_neg (notHeldBack plain _), staged]
  rfl

theorem effLoadKey_unstaged (staged : stagedKey s (keyCmdSlot c) = none) : effLoadKey c s = stageCleared (complete s c 0x02) := by
  rw [effLoadKey]
  dsimp only
  rw [if_neg (not_or.mpr ⟨typed, other⟩), if_neg (by simp [may]), if_neg (notHeldBack plain _), staged]
  rfl

end

theorem effEraseKey_erases {c : Cmd} (typed : keyType (keyCmdSlot c).val ≠ 0) (other : keyCmdSlot c ≠ 5) (plain : s.key.dbgKeys = false) :
    effEraseKey c s = complete (changeSlot s (keyCmdSlot c) .empty [] 1 (some c)) c 0 :=
  (if_neg (not_or.mpr ⟨other, typed⟩)).trans (if_neg (notHeldBack plain _))

/-- A key has been drawn for a slot. -/
def keyDrawn (s : State) (c : Cmd) : State :=
  changeSlot s.draw.2 (keyCmdSlot c) .valid (beBytes 32 (privateKey s.draw.1)) 2 (some c)

theorem effGenerateKey_draws {c : Cmd} (use : keyUses (keyCmdSlot c).val = 16) (plain : s.key.dbgKeys = false) (ok : s.key.rngOk = true) :
    effGenerateKey c s = complete (keyDrawn s c) c 0 :=
  (if_neg (not_not.mpr use)).trans ((if_neg (notHeldBack plain _)).trans (if_pos ok))

theorem checkSlot_sound {k : Fin 64} (a : (s.keySlot k).soundA = true) (b : (s.keySlot k).soundB = true) : checkSlot s k = s := by
  rw [checkSlot, a, b, if_pos (c := (true && true) = true) rfl, ite_self]

theorem checkSlot_invalid {k : Fin 64} (invalid : (s.keySlot k).state ≠ .valid) : checkSlot s k = s := if_pos (by simp [invalid])

/-- Without debug, a public key is read of a slot whose copies have been checked (R537, R549). -/
theorem effReadPublicKey_checked {c : Cmd} (aligned : c.p2 1 % 64 = 0) (pair : keyType (keyCmdSlot c).val ≠ 1) (plain : s.key.dbgKeys = false)
    (same : checkSlot s (keyCmdSlot c) = s) : effReadPublicKey c s =
      if (s.keySlot (keyCmdSlot c)).state = .valid then
        complete (s.hostWrite (BitVec.ofNat 64 (c.p2 1)) (publicOf (keyCmdSlot c) (s.keySlot (keyCmdSlot c)).mat.words)) c 0
      else complete s c 0x0A := by
  have checked : (if s.key.dbgKeys = true then s else checkSlot s (keyCmdSlot c)) = s := by rw [same, ite_self]
  rw [effReadPublicKey]
  dsimp only
  rw [if_neg (not_or.mpr ⟨not_not.mpr aligned, pair⟩), checked]
  by_cases valid : (s.keySlot (keyCmdSlot c)).state = .valid
  · rw [if_pos valid, if_neg (by simp [valid, plain])]
  · rw [if_neg valid, if_pos (by simp [valid])]

/-! ### The random source (R547) -/

/-- The random source has failed. -/
def sourceFailed (s : State) : State := { s with key := { s.key with rngOk := false, rngFault := true, rngFailAt := some s.now } }

/-- The random source has returned. -/
def sourceRestored (s : State) : State := { s with key := { s.key with rngOk := true, rngFailAt := none } }

theorem exec_randomSourceFault (run : s.clocksRun = true) (ok : s.key.rngOk = true) :
    exec .randomSourceFault s = .next (postDev (sourceFailed s) 0x0B03 (p8 0)) :=
  congrArg Host.Outcome.next (if_pos (by simp [run, ok]))

theorem exec_randomSourceRestored {a : Nat} (run : s.clocksRun = true) (failed : s.key.rngOk = false) (since : s.key.rngFailAt = some a) :
    exec .randomSourceRestored s = .next (postDev (sourceRestored s) 0x0B03 (p8 1)) :=
  congrArg Host.Outcome.next (if_pos (by simp [run, failed, since]))

theorem withRandom_waits {a : Nat} (failed : s.key.rngOk = false) (since : s.key.rngFailAt = some a) (early : s.now < a + 10000000)
    (c : Cmd) (f : State → State) : withRandom c s f = s := by
  rw [withRandom, if_neg (by simp [failed]), since]
  have early' : s.tim.tick < a + 10000000 := early
  refine if_neg ?_
  rw [State.since, decide_eq_true_eq, msNs]
  omega

/-! ### Credentials (R546, R550) -/

/-- A challenge has been drawn for a ring and a role. -/
def challenged (s : State) (c : Cmd) : State := { s.draw.2 with key := { s.key with
  challenge := Vector.ofFn fun (i : Fin 32) => (leBytes 32 s.draw.1.toNat).getD i.val 0
  pending := some { ring := fin 16 (fld (c.p 0) 0 4), role := BitVec.ofNat 3 (fld (c.p 0) 4 3), value := s.draw.1, at_ := s.now } } }

theorem effBeginCredential_draws {c : Cmd} (low : 2 ≤ fld (c.p 0) 4 3) (high : fld (c.p 0) 4 3 ≤ 5) (free : throttled s = false)
    (ok : s.key.rngOk = true) : effBeginCredential c s = complete (challenged s c) c 0 :=
  (if_neg (by omega)).trans ((if_neg (by simp [free])).trans (if_pos ok))

/-- The role of the credential under way. -/
def claimedRole (s : State) : BitVec 3 := (s.key.pending.map (·.role)).getD 0

/-- A check with result `n` that ended in `u` is counted and reported. -/
def credentialJudged (u : State) (c : Cmd) (k : Fin 16) (role : BitVec 3) (n : Nat) : State :=
  postDev (countFail { u with key := { u.key with pending := none, credFail := u.key.credFail || n != 0 } } n) 0x0B02
    (p8 k.val ++ p8 role.toNat ++ p8 n) (some c)

theorem effProveCredential_eq {c : Cmd} {n : Nat} {u : State} (result : credentialResult s (fin 16 (fld (c.p 0) 0 4)) = (n, u)) :
    effProveCredential c s =
      if n = 0 then complete ((credentialJudged u c (fin 16 (fld (c.p 0) 0 4)) (claimedRole s) n).onRing
        (cmdRing (fin 16 (fld (c.p 0) 0 4))) fun x => { x with cred := claimedRole s }) c 0
      else complete (if claimedRole s = 4 then tamper (credentialJudged u c (fin 16 (fld (c.p 0) 0 4)) (claimedRole s) n) 8
          (fin 16 (fld (c.p 0) 0 4)).val none
        else credentialJudged u c (fin 16 (fld (c.p 0) 0 4)) (claimedRole s) n) c 0x0A (BitVec.ofNat 32 n) := by
  unfold effProveCredential credentialJudged claimedRole
  cases s.key.pending with
  | none =>
    dsimp only
    rw [result]
    rfl
  | some x =>
    dsimp only
    rw [result]
    rfl

theorem countFail_frame (s : State) (n : Nat) : (countFail s n).rings = s.rings ∧ (countFail s n).key.pending = s.key.pending ∧
    (countFail s n).key.credFail = s.key.credFail := by
  unfold countFail
  dsimp only
  split
  · exact ⟨rfl, rfl, rfl⟩
  · split
    · exact ⟨rfl, rfl, rfl⟩
    · exact ⟨rfl, rfl, rfl⟩

theorem credentialJudged_key (u : State) (c : Cmd) (k : Fin 16) (role : BitVec 3) (n : Nat) :
    (credentialJudged u c k role n).key.pending = none ∧
    (credentialJudged u c k role n).key.credFail = (u.key.credFail || n != 0) := by
  simp [credentialJudged, countFail_frame]

theorem credentialJudged_cred (u : State) (c : Cmd) (k : Fin 16) (role : BitVec 3) (n : Nat) (r : Fin 57) :
    ((credentialJudged u c k role n).ring r).cred = (u.ring r).cred := by
  unfold credentialJudged
  have posted := postEvent_same (countFail { u with key := { u.key with pending := none, credFail := u.key.credFail || n != 0 } } n)
    0x0B02 none (p8 k.val ++ p8 role.toNat ++ p8 n) (some c) r
  have same := ring_congr (countFail_frame { u with key := { u.key with pending := none, credFail := u.key.credFail || n != 0 } } n).1 r
  rw [postDev, posted, same]
  rfl

/-- A challenge of role 5 that is pending for its ring is proved under the ROM key (R546, R548). -/
theorem credentialResult_service {k : Fin 16} {x : Challenge} (free : throttled s = false) (pending : s.key.pending = some x) (ring : x.ring = k)
    (young : s.now < x.at_ + 60000000000) (service : x.role = 5) (plain : s.key.dbgKeys = false) : credentialResult s k =
      if ecdsaVerify (Config.romKey 0).1 (Config.romKey 0).2 (credentialDigest s x) (num256 s.key.response.toList)
        (num256 (s.key.response.toList.drop 32)) then (0, s) else (1, s) := by
  have key : credentialKey s x.role.toNat = (some (Config.romKey 0), s) := by
    rw [service]
    exact (if_neg (by simp [plain])).trans (if_pos rfl)
  rw [credentialResult, if_neg (by simp [free]), pending]
  dsimp only
  rw [if_pos ⟨ring, young⟩, key]

theorem credentialResult_none {k : Fin 16} (free : throttled s = false) (none_ : s.key.pending = none) : credentialResult s k = (3, s) := by
  rw [credentialResult, if_neg (by simp [free]), none_]

/-- The challenge is 60 s old. -/
def challengeDue (s : State) (x : Challenge) : State := s.toTick (x.at_ + 60000000000)

theorem exec_challengeExpiry {x : Challenge} (pending : s.key.pending = some x) (run : s.clocksRun = true) :
    exec .challengeExpiry s = .next { challengeDue s x with key := { (challengeDue s x).key with pending := none } } := by
  change execChallengeExpiry s = _
  rw [execChallengeExpiry, pending]
  exact congrArg Host.Outcome.next (if_pos run)

/-- Settles O48, command by command; a check of a credential through the one equation of Prove credential. -/
theorem keyCommands : Obligations.KeyCommands := by
  unfold Obligations.KeyCommands
  refine ⟨?load, ?loadBad, ?loadNone, ?erase, ?eraseNone, ?generate, ?generateNone, ?read, ?readInvalid, ?begin_, ?beginThrottled, ?service,
    ?noChallenge, ?prove, ?expiry, ?expiryOff, ?fault, ?restored, ?waits⟩
  case load =>
    rintro s c _ h rfl typed other may plain m staged
    have keys (j : Fin 64) : (stageCleared (complete (changeSlot s (keyCmdSlot c) .valid m 0 (some c)) c 0)).keySlot j =
        (changeSlot s (keyCmdSlot c) .valid m 0 (some c)).keySlot j := keySlot_congr (by simp [stageCleared]) j
    refine ⟨_, ready_eq h (effLoadKey_loads typed other may plain staged), ?_, fun j others => ?_, rfl⟩
    · rw [keys, changeSlot_keySlot, if_pos rfl]
    · rw [keys, changeSlot_keySlot, if_neg (Ne.symm others)]
  case loadBad =>
    rintro s c _ h rfl typed other may plain staged
    exact ready_eq h (effLoadKey_unstaged typed other may plain staged)
  case loadNone =>
    rintro s c _ h rfl reserved
    exact ready_eq h (if_pos reserved)
  case erase =>
    rintro s c _ h rfl typed other plain
    have keys (j : Fin 64) : (complete (changeSlot s (keyCmdSlot c) .empty [] 1 (some c)) c 0).keySlot j =
        (changeSlot s (keyCmdSlot c) .empty [] 1 (some c)).keySlot j := keySlot_congr (by simp) j
    have key : (complete (changeSlot s (keyCmdSlot c) .empty [] 1 (some c)) c 0).key =
        (changeSlot s (keyCmdSlot c) .empty [] 1 (some c)).key := by simp
    refine ⟨_, ready_eq h (effEraseKey_erases typed other plain), ?_, fun j others => ?_, fun e held => ?_⟩
    · rw [keys, changeSlot_keySlot, if_pos rfl]
    · rw [keys, changeSlot_keySlot, if_neg (Ne.symm others)]
    · rw [key] at held ⊢
      exact changeSlot_engines s _ _ _ _ e held
  case eraseNone =>
    intro s c h reserved
    exact ready_eq h (if_pos reserved)
  case generate =>
    rintro s c _ h rfl use plain ok
    have keys (j : Fin 64) : (complete (keyDrawn s c) c 0).keySlot j = (keyDrawn s c).keySlot j := keySlot_congr (by simp) j
    refine ⟨_, ready_eq h (effGenerateKey_draws use plain ok), ?_, fun j others => ?_, ?_⟩
    · rw [keys, keyDrawn, changeSlot_keySlot, if_pos rfl]
      rfl
    · rw [keys, keyDrawn, changeSlot_keySlot, if_neg (Ne.symm others)]
      rfl
    · simp [keyDrawn, changeSlot, State.draw]
  case generateNone =>
    intro s c h use
    exact ready_eq h (if_pos use)
  case read =>
    rintro s c _ h rfl aligned pair plain valid a b
    exact ready_eq h ((effReadPublicKey_checked aligned pair plain (checkSlot_sound a b)).trans (if_pos valid))
  case readInvalid =>
    rintro s c _ h rfl aligned pair plain invalid
    exact ready_eq h ((effReadPublicKey_checked aligned pair plain (checkSlot_invalid invalid)).trans (if_neg invalid))
  case begin_ =>
    intro s c h low high free ok
    exact ⟨challenged s c, ready_eq h (effBeginCredential_draws low high free ok), rfl, rfl⟩
  case beginThrottled =>
    intro s c h throttle low high
    exact ready_eq h ((if_neg (by omega)).trans (if_pos throttle))
  case service =>
    intro s c x h free pending ring young service plain
    have result := credentialResult_service free pending ring young service plain
    have role : claimedRole s = 5 := by rw [claimedRole, pending]; exact service
    by_cases verified : ecdsaVerify (Config.romKey 0).1 (Config.romKey 0).2 (credentialDigest s x) (num256 s.key.response.toList)
        (num256 (s.key.response.toList.drop 32)) = true
    · rw [if_pos verified] at result
      refine ⟨(credentialJudged s c (fin 16 (fld (c.p 0) 0 4)) (claimedRole s) 0).onRing (cmdRing (fin 16 (fld (c.p 0) 0 4)))
        fun x => { x with cred := claimedRole s }, (credentialJudged_key _ _ _ _ _).1, ?_⟩
      rw [if_pos verified]
      refine ⟨ready_eq h ((effProveCredential_eq result).trans (if_pos rfl)), ?_⟩
      rw [ring, onRing_ring, role]
    · rw [if_neg verified] at result
      obtain ⟨none_, failed⟩ := credentialJudged_key s c (fin 16 (fld (c.p 0) 0 4)) (claimedRole s) 1
      refine ⟨credentialJudged s c (fin 16 (fld (c.p 0) 0 4)) (claimedRole s) 1, none_, ?_⟩
      rw [if_neg verified]
      refine ⟨ready_eq h ?_, ?_, fun k => credentialJudged_cred _ _ _ _ _ _⟩
      · rw [effProveCredential_eq result, if_neg one_ne_zero, if_neg (by rw [role]; decide)]
        rfl
      · rw [failed]
        exact Bool.or_true _
  case noChallenge =>
    intro s c h free none_
    have result := credentialResult_none (k := fin 16 (fld (c.p 0) 0 4)) free none_
    have role : claimedRole s = 0 := by rw [claimedRole, none_]; rfl
    refine ⟨credentialJudged s c (fin 16 (fld (c.p 0) 0 4)) (claimedRole s) 3, ready_eq h ?_, ?_, fun k => credentialJudged_cred _ _ _ _ _ _⟩
    · rw [effProveCredential_eq result, if_neg three_ne_zero, if_neg (by rw [role]; decide)]
      rfl
    · rw [(credentialJudged_key _ _ _ _ _).2]
      exact Bool.or_true _
  case prove =>
    rintro s c _ _ n u _ h rfl rfl result rfl
    refine ⟨fun good => ready_eq h ((effProveCredential_eq result).trans (if_pos good)), fun bad (other : claimedRole s ≠ 4) => ready_eq h ?_,
      fun bad (host : claimedRole s = 4) => ready_eq h ?_⟩
    · rw [effProveCredential_eq result, if_neg bad, if_neg other]
      rfl
    · rw [effProveCredential_eq result, if_neg bad, if_pos host]
      rfl
  case expiry =>
    intro s x pending run
    exact ⟨_, exec_challengeExpiry pending run, rfl, toTick_reaches _ _⟩
  case expiryOff =>
    intro s none_
    change execChallengeExpiry s = _
    rw [execChallengeExpiry, none_]
  case fault =>
    intro s run ok own
    have posted := postEvent_posted (s := sourceFailed s) own (code := 0x0B03) (by decide) none (p8 0) none
    refine ⟨postDev (sourceFailed s) 0x0B03 (p8 0), sourceFailed s, exec_randomSourceFault run ok, ?_, ?_, ?_, posted⟩
    all_goals simp [sourceFailed]
  case restored =>
    intro s a run failed since own
    have posted := postEvent_posted (s := sourceRestored s) own (code := 0x0B03) (by decide) none (p8 1) none
    refine ⟨postDev (sourceRestored s) 0x0B03 (p8 1), sourceRestored s, exec_randomSourceRestored run failed since, ?_, ?_, posted⟩
    all_goals simp [sourceRestored]
  case waits =>
    intro s c f a failed since early
    exact withRandom_waits failed since early c f

end Sys2Proof.Machine
end


section
/-! Image blocks, their verification, and the states of the slots (R588, R590, R605). -/

namespace Sys2Proof.Machine

variable {s : State}

/-! ### Slots (R588) -/

theorem fwSlot_congr {s t : State} (same : t.upd.fw = s.upd.fw) (k : Fin 3) (b : Fin 2) : t.fwSlot k b = s.fwSlot k b := by
  unfold State.fwSlot; rw [same]

theorem cfgSlot_congr {s t : State} (same : t.upd.cfg = s.upd.cfg) (k : Fin 4) : t.cfgSlot k = s.cfgSlot k := by
  unfold State.cfgSlot; rw [same]

theorem onFw_fwSlot_same (s : State) (k : Fin 3) (b : Fin 2) (f : FwSlot → FwSlot) : (s.onFw k b f).fwSlot k b = f (s.fwSlot k b) := by
  unfold State.fwSlot State.onFw
  rw [vget_vmod_same, vget_vmod_same]

theorem onFw_fwSlot_other (s : State) {k j : Fin 3} {b a : Fin 2} (f : FwSlot → FwSlot) (other : ¬ (j = k ∧ a = b)) :
    (s.onFw k b f).fwSlot j a = s.fwSlot j a := by
  unfold State.fwSlot State.onFw
  dsimp only
  rw [vget_vmod]
  split
  case isTrue same => exact vget_vmod_other _ _ _ _ fun bank => other ⟨same.symm, bank.symm⟩
  case isFalse => rfl

theorem onCfg_cfgSlot (s : State) (k j : Fin 4) (f : CfgSlot → CfgSlot) :
    (s.onCfg k f).cfgSlot j = if k = j then f (s.cfgSlot j) else s.cfgSlot j := vget_vmod _ _ _ _

theorem fwIn_state {k : Fin 3} {st : FwState} {b : Fin 2} (found : s.fwIn k st = some b) : (s.fwSlot k b).state = st := by
  have holds := List.find?_some found
  simpa using holds

/-! ### Image blocks (R588) -/

/-- The slot's memory that a write of a block starts from: what is written so far, else nothing (R590). -/
theorem writtenSoFar_wf {m : List Host.Cell} {writing : Bool} (form : Memory.wf m = true) : Memory.wf (if writing then m else []) = true := by
  cases writing
  · rfl
  · exact form

theorem writeBlock_length (c : Cmd) : (writeBlock c).length = (c.p 4).toNat := by simp [writeBlock]

theorem writeBlock_getD {c : Cmd} {i : Nat} (inBlock : i < (c.p 4).toNat) : (writeBlock c).getD i 0 = c.data.getD i 0 := by
  simp [writeBlock, List.getD, inBlock]

/-- A block's bytes read back from the memory it is written to (R588). -/
theorem putBlock_inside {m : List Host.Cell} {c : Cmd} {a i : Nat} (form : Memory.wf m = true) (inBlock : i < (c.p 4).toNat) :
    Memory.get (Memory.putAll m a (writeBlock c)) (a + i) = c.data.getD i 0 := by
  rw [Memory.get_putAll form, writeBlock_length, if_pos (by omega), Nat.add_sub_cancel_left, writeBlock_getD inBlock]

theorem putBlock_outside {m : List Host.Cell} {c : Cmd} {a x : Nat} {writing : Bool} (form : Memory.wf m = true)
    (outside : x < a ∨ a + (c.p 4).toNat ≤ x) : Memory.get (Memory.putAll (if writing then m else []) a (writeBlock c)) x =
      if writing then Memory.get m x else Memory.blank := by
  rw [Memory.get_putAll (writtenSoFar_wf form), writeBlock_length, if_neg (by omega)]
  cases writing
  · rfl
  · rfl

/-- The arguments of a block that fits its target (R588, R605). -/
structure BlockFits (c : Cmd) (target : Nat) : Prop where
  offset : (c.p 1).toNat % 256 = 0
  address : c.p2 2 % 256 = 0
  length : (c.p 4).toNat % 256 = 0
  least : 256 ≤ (c.p 4).toNat
  most : (c.p 4).toNat ≤ 65536
  room : (c.p 1).toNat + (c.p 4).toNat ≤ imageRoom target
  target : fld (c.p 0) 0 2 = target

theorem BlockFits.accepted {c : Cmd} {target : Nat} (h : BlockFits c target) : ¬ ((c.p 1).toNat % 256 ≠ 0 ∨ c.p2 2 % 256 ≠ 0 ∨
    (c.p 4).toNat % 256 ≠ 0 ∨ (c.p 4).toNat < 256 ∨ 65536 < (c.p 4).toNat ∨ imageRoom (fld (c.p 0) 0 2) < (c.p 1).toNat + (c.p 4).toNat) := by
  obtain ⟨offset, address, length, least, most, room, rfl⟩ := h
  omega

/-- A firmware block has been written. -/
def fwWritten (s : State) (c : Cmd) (k : Fin 3) (b : Fin 2) : State := s.onFw k b fun x => x.write (c.p 1).toNat (writeBlock c)

/-- A firmware target's block goes into the slot that takes one. -/
theorem effWriteImageBlock_fw {c : Cmd} {k : Fin 3} (fits : BlockFits c k.val) : effWriteImageBlock c s = match s.fwFree k with
    | some b => complete (fwWritten s c k b) c 0
    | none => complete s c 0x0A := by
  have accepted := fits.accepted
  have below : fld (c.p 0) 0 2 < 3 := fits.target ▸ k.isLt
  have same : (⟨fld (c.p 0) 0 2, below⟩ : Fin 3) = k := Fin.ext fits.target
  unfold effWriteImageBlock
  dsimp only
  rw [if_neg accepted, dif_pos below, same]
  rfl

/-- A configuration block has been written; a stored image that it overwrites is told to be gone (R604). -/
def cfgWritten (s : State) (c : Cmd) (k : Fin 4) : State :=
  let t := s.onCfg k fun x => x.write (c.p 1).toNat (writeBlock c)
  if (s.cfgSlot k).state == .stored then tellVersions t else t

theorem cfgWritten_cfgSlot (s : State) (c : Cmd) (k j : Fin 4) : (cfgWritten s c k).cfgSlot j =
    if k = j then (s.cfgSlot j).write (c.p 1).toNat (writeBlock c) else s.cfgSlot j := by
  have cfg : (cfgWritten s c k).upd.cfg = (s.onCfg k fun x => x.write (c.p 1).toNat (writeBlock c)).upd.cfg := by
    unfold cfgWritten
    dsimp only
    split
    · rw [tellVersions_upd]
    · rfl
  rw [cfgSlot_congr cfg, onCfg_cfgSlot]

theorem effWriteImageBlock_cfg {c : Cmd} {k : Fin 4} (fits : BlockFits c 3) (slot : fld (c.p 0) 2 2 = k.val) : effWriteImageBlock c s =
    if (s.cfgSlot k).state.writable then complete (cfgWritten s c k) c 0 else complete s c 0x0A := by
  have accepted := fits.accepted
  have same : fin 4 (fld (c.p 0) 2 2) = k := by rw [slot]; exact fin_val k
  have above : ¬ fld (c.p 0) 0 2 < 3 := by rw [fits.target]; decide
  unfold effWriteImageBlock cfgWritten
  dsimp only
  rw [if_neg accepted, dif_neg above, same]
  cases (s.cfgSlot k).state.writable
  · rfl
  · rfl

theorem fwFree_writable {k : Fin 3} {b : Fin 2} (free : s.fwFree k = some b) : (s.fwSlot k b).state.writable = true := by
  rcases Option.or_eq_some_iff.mp free with writing | ⟨-, writable⟩
  · rw [fwIn_state writing]
    rfl
  · have takes := List.find?_some writable
    exact takes

/-! ### Verification (R590) -/

theorem verifyCause_header {t : Nat} {m : List Host.Cell} (bad : headerCause t m ≠ 0) (low : Bool) :
    verifyCause s t m low = (headerCause t m, s) := if_pos bad

theorem verifyCause_signed {t : Nat} {m : List Host.Cell} (good : headerCause t m = 0) (low : Bool) : verifyCause s t m low =
    (if !signatureOk m (imageKey s t).1 then 4 else if low then 5 else 0, (imageKey s t).2) := if_neg (not_not.mpr good)

theorem verifyCause_bad {t : Nat} {m : List Host.Cell} (bad : headerCause t m ≠ 0) (low : Bool) :
    (verifyCause s t m low).1 = headerCause t m := by rw [verifyCause_header bad]

/-- An image below its floor, or not above CFG_HIGHEST, never passes (R590, R591). -/
theorem verifyCause_low (s : State) (t : Nat) (m : List Host.Cell) : (verifyCause s t m true).1 ≠ 0 := by
  by_cases bad : headerCause t m ≠ 0
  · rw [verifyCause_bad bad]
    exact bad
  · rw [verifyCause_signed (not_not.mp bad)]
    dsimp only
    split
    · decide
    · decide

/-- A firmware image's key is in the ROM: no slot is checked for it (R590). -/
theorem imageKey_rom {t : Nat} (firmware : t < 3) : (imageKey s t).2 = s := by
  unfold imageKey
  dsimp only
  split
  · rfl
  · rw [if_pos (by omega)]

theorem verifyCause_rom {t : Nat} (firmware : t < 3) (m : List Host.Cell) (low : Bool) : (verifyCause s t m low).2 = s := by
  by_cases bad : headerCause t m ≠ 0
  · rw [verifyCause_header bad]
  · rw [verifyCause_signed (not_not.mp bad)]
    exact imageKey_rom firmware

/-- The cause a firmware slot's verification comes to, and whether its image stands below the floor (R590, R591). -/
def fwCause (s : State) (k : Fin 3) (b : Fin 2) : Nat := (verifyCause s k.val (s.fwSlot k b).bytes
  (decide ((imgVersion (s.fwSlot k b).bytes).toNat < (vget s.upd.floors k).toNat))).1

/-- What verification writes into a firmware slot. -/
def fwJudged (s : State) (k : Fin 3) (b : Fin 2) : State := s.onFw k b fun x =>
  { x with state := if fwCause s k b = 0 then .stored else .bad, version := imgVersion (s.fwSlot k b).bytes, hash := imgHash (s.fwSlot k b).bytes }

/-- VERIFY_FAIL with a cause other than 0. -/
def failMarked (s : State) (cause : Nat) : State := if cause = 0 then s else { s with upd := { s.upd with verifyFail := true } }

theorem failMarked_upd (s : State) (cause : Nat) : (failMarked s cause).upd = { s.upd with verifyFail := (failMarked s cause).upd.verifyFail } ∧
    (cause ≠ 0 → (failMarked s cause).upd.verifyFail = true) := by
  unfold failMarked
  split
  case isTrue good => exact ⟨rfl, fun bad => absurd good bad⟩
  case isFalse => exact ⟨rfl, fun _ => rfl⟩

@[simp] theorem storedEvent_upd (s : State) (t slot : Nat) (v : BitVec 32) (cause : Nat) (by_ : Option Cmd) :
    (storedEvent s t slot v cause by_).upd = s.upd := by simp [storedEvent]

/-- A firmware slot that has been verified. -/
def fwVerified (s : State) (k : Fin 3) (b : Fin 2) (by_ : Option Cmd) : State :=
  storedEvent (failMarked (fwJudged s k b) (fwCause s k b)) k.val b.val (imgVersion (s.fwSlot k b).bytes) (fwCause s k b) by_

theorem verifyFw_eq (s : State) (k : Fin 3) (b : Fin 2) (by_ : Option Cmd) : verifyFw s k b by_ = (fwVerified s k b by_, fwCause s k b == 0) := by
  unfold verifyFw fwVerified failMarked fwJudged fwCause
  dsimp only
  rw [verifyCause_rom k.isLt]

theorem fwVerified_fwSlot (s : State) (k : Fin 3) (b : Fin 2) (by_ : Option Cmd) : (fwVerified s k b by_).fwSlot k b = { s.fwSlot k b with
    state := if fwCause s k b = 0 then .stored else .bad, version := imgVersion (s.fwSlot k b).bytes, hash := imgHash (s.fwSlot k b).bytes } := by
  have fw : (fwVerified s k b by_).upd.fw = (fwJudged s k b).upd.fw := by
    rw [fwVerified, storedEvent_upd, (failMarked_upd _ _).1]
  rw [fwSlot_congr fw, fwJudged, onFw_fwSlot_same]

/-- The cause a configuration slot's verification comes to; its version must stand above CFG_HIGHEST (R590). -/
def cfgVerdict (s : State) (k : Fin 4) : Nat × State := verifyCause s 3 (s.cfgSlot k).bytes
  (decide ((imgVersion (s.cfgSlot k).bytes).toNat ≤ s.upd.cfgHighest.toNat))

/-- What verification writes into a configuration slot. -/
def cfgJudged (s : State) (k : Fin 4) : State := (cfgVerdict s k).2.onCfg k fun x => { x with
  state := if (cfgVerdict s k).1 = 0 then .stored else .bad, version := imgVersion (s.cfgSlot k).bytes
  format := BitVec.ofNat 8 (imgFormat (s.cfgSlot k).bytes) }

/-- A configuration slot that has been verified. -/
def cfgVerified (s : State) (k : Fin 4) (by_ : Option Cmd) : State :=
  tellVersions (storedEvent (failMarked (cfgJudged s k) (cfgVerdict s k).1) 3 k.val (imgVersion (s.cfgSlot k).bytes) (cfgVerdict s k).1 by_)

theorem verifyCfg_eq (s : State) (k : Fin 4) (by_ : Option Cmd) : verifyCfg s k by_ = (cfgVerified s k by_, (cfgVerdict s k).1 == 0) := rfl

theorem cfgVerified_cfgSlot (s : State) (k : Fin 4) (by_ : Option Cmd) : (cfgVerified s k by_).cfgSlot k = { (cfgVerdict s k).2.cfgSlot k with
    state := if (cfgVerdict s k).1 = 0 then .stored else .bad, version := imgVersion (s.cfgSlot k).bytes
    format := BitVec.ofNat 8 (imgFormat (s.cfgSlot k).bytes) } := by
  have cfg : (cfgVerified s k by_).upd.cfg = (cfgJudged s k).upd.cfg := by
    rw [cfgVerified, tellVersions_upd, storedEvent_upd, (failMarked_upd _ _).1]
  rw [cfgSlot_congr cfg, cfgJudged, onCfg_cfgSlot, if_pos rfl]

/-- The answer to a verification (R605). -/
def verifyAnswer (c : Cmd) (r : State × Bool) (v : BitVec 32) : State := complete r.1 c (if r.2 then 0 else 0x0A) v

theorem verifyAnswer_eq (c : Cmd) (t : State) (q : Nat) (v : BitVec 32) :
    verifyAnswer c (t, q == 0) v = complete t c (if q = 0 then 0x00 else 0x0A) v := by
  unfold verifyAnswer
  simp

theorem effVerifyImage_fw {c : Cmd} {k : Fin 3} (target : fld (c.p 0) 0 2 = k.val) : effVerifyImage c s = match s.fwWritten k with
    | some b => verifyAnswer c (verifyFw s k b (some c)) (imgVersion (s.fwSlot k b).bytes)
    | none => complete s c 0x0A := by
  have below : fld (c.p 0) 0 2 < 3 := target ▸ k.isLt
  have same : (⟨fld (c.p 0) 0 2, below⟩ : Fin 3) = k := Fin.ext target
  unfold effVerifyImage
  dsimp only
  rw [dif_pos below, same]
  rfl

theorem effVerifyImage_cfg {c : Cmd} {k : Fin 4} (target : fld (c.p 0) 0 2 = 3) (slot : fld (c.p 0) 2 2 = k.val) : effVerifyImage c s =
    if (s.cfgSlot k).state == .empty || !(s.cfgSlot k).state.writable then complete s c 0x0A
    else verifyAnswer c (verifyCfg s k (some c)) (imgVersion (s.cfgSlot k).bytes) := by
  have same : fin 4 (fld (c.p 0) 2 2) = k := by rw [slot]; exact fin_val k
  have above : ¬ fld (c.p 0) 0 2 < 3 := by rw [target]; decide
  unfold effVerifyImage
  dsimp only
  rw [dif_neg above, same]
  rfl

/-! ### Read slots (R605) -/

theorem toList_vget {α : Type} {n : Nat} (v : Vector α n) : v.toList = List.ofFn (vget v) :=
  List.ext_getElem (by simp) fun i _ _ => by simp [vget]

/-- The ten states in target order, as their codes. -/
theorem slotCodes (s : State) : (s.upd.fw.toList.flatMap fun v => v.toList.map fun x => x.state.code) ++ s.upd.cfg.toList.map (fun x => x.state.code) =
    [(s.fwSlot 0 0).state.code, (s.fwSlot 0 1).state.code, (s.fwSlot 1 0).state.code, (s.fwSlot 1 1).state.code, (s.fwSlot 2 0).state.code,
      (s.fwSlot 2 1).state.code, (s.cfgSlot 0).state.code, (s.cfgSlot 1).state.code, (s.cfgSlot 2).state.code, (s.cfgSlot 3).state.code] := by
  simp only [toList_vget]
  rfl

/-- Settles O56: blocks through the memory's own read after write, verification through the cause it comes to. -/
theorem imageSlots : Obligations.ImageSlots := by
  unfold Obligations.ImageSlots
  refine ⟨?refused, ?firmware, ?full, ?writable, ?config, ?nothing, ?verified, ?cfgNothing, ?cfgVerified, ?slots⟩
  case refused =>
    intro s c h bad
    exact ready_eq h (if_pos bad)
  case firmware =>
    intro s c k b h offset address length least most room target free form
    have fits : BlockFits c k.val := ⟨offset, address, length, least, most, room, target⟩
    have slot : (fwWritten s c k b).fwSlot k b = (s.fwSlot k b).write (c.p 1).toNat (writeBlock c) := onFw_fwSlot_same _ _ _ _
    refine ⟨fwWritten s c k b, ready_eq h (by rw [effWriteImageBlock_fw fits, free]), ?_, fun i inBlock => ?_, fun x outside => ?_,
      fun j a other => onFw_fwSlot_other s _ other⟩
    · rw [slot]
      rfl
    · rw [slot]
      exact putBlock_inside (writtenSoFar_wf form) inBlock
    · rw [slot]
      refine (putBlock_outside form outside).trans (if_congr ?_ rfl rfl)
      exact beq_iff_eq
  case full =>
    intro s c k h offset address length least most room target full
    have fits : BlockFits c k.val := ⟨offset, address, length, least, most, room, target⟩
    exact ready_eq h (by rw [effWriteImageBlock_fw fits, full])
  case writable =>
    intro s k b free
    exact fwFree_writable free
  case config =>
    intro s c k h offset address length least most room target slot form
    have fits : BlockFits c 3 := ⟨offset, address, length, least, most, room, target⟩
    have written : (cfgWritten s c k).cfgSlot k = (s.cfgSlot k).write (c.p 1).toNat (writeBlock c) := by rw [cfgWritten_cfgSlot, if_pos rfl]
    refine ⟨fun taken => ready_eq h ?_, fun free => ⟨cfgWritten s c k, ready_eq h ?_, ?_, fun i inBlock => ?_, fun x outside => ?_,
      fun j other => ?_⟩⟩
    · rw [effWriteImageBlock_cfg fits slot, taken]
      rfl
    · rw [effWriteImageBlock_cfg fits slot, free]
      rfl
    · rw [written]
      rfl
    · rw [written]
      exact putBlock_inside (writtenSoFar_wf form) inBlock
    · rw [written]
      refine (putBlock_outside form outside).trans (if_congr ?_ rfl rfl)
      exact beq_iff_eq
    · rw [cfgWritten_cfgSlot, if_neg (Ne.symm other)]
  case nothing =>
    intro s c k h target none_
    exact ready_eq h (by rw [effVerifyImage_fw target, none_])
  case verified =>
    intro s c k b h target some_
    have slot := fwVerified_fwSlot s k b (some c)
    refine ⟨fwVerified s k b (some c), fwCause s k b, ready_eq h ?_, ?_, ?_, ?_, fun bad => ?_, fun header => verifyCause_bad header _, fun low => ?_⟩
    · rw [effVerifyImage_fw target, some_]
      dsimp only
      rw [verifyFw_eq, verifyAnswer_eq]
    · rw [slot]
    · rw [slot]
    · rw [slot]
    · rw [fwVerified, storedEvent_upd]
      exact (failMarked_upd _ _).2 bad
    · rw [fwCause, decide_eq_true low]
      exact verifyCause_low _ _ _
  case cfgNothing =>
    intro s c k h target slot off
    exact ready_eq h ((effVerifyImage_cfg target slot).trans (if_pos (by rcases off with state | writable <;> simp [*])))
  case cfgVerified =>
    intro s c k h target slot written
    have judged := cfgVerified_cfgSlot s k (some c)
    refine ⟨cfgVerified s k (some c), (cfgVerdict s k).1, ready_eq h ?_, ?_, ?_, ?_, ?_⟩
    · rw [effVerifyImage_cfg target slot, if_neg (by rcases written with state | state | state <;> simp [state, CfgState.writable]),
        verifyCfg_eq, verifyAnswer_eq]
    · rw [judged]
    · rw [judged]
    · intro header
      rw [cfgVerdict]
      exact verifyCause_bad header _
    · intro low
      rw [cfgVerdict, decide_eq_true low]
      exact verifyCause_low _ _ _
  case slots =>
    intro s c h
    refine ready_eq h ?_
    unfold effReadSlots
    dsimp only
    rw [slotCodes]
    rfl

end Sys2Proof.Machine
end


section
/-! Firmware slots through activation, trial, confirmation and fall-back, and what a service reset leaves of them (R592 to R595, R119). -/

namespace Sys2Proof.Machine

variable {s : State}

/-! ### The start of a service reset leaves the images (R119, R330, R474) -/

@[simp] theorem loseInStation_upd (s : State) (o : Fin 128) : (loseInStation s o).upd = s.upd := by simp [loseInStation]

@[simp] theorem finishTx_upd (s : State) (e : Fin 16) : (finishTx s e).upd = s.upd := by
  unfold finishTx
  split
  · simp
  · rfl

@[simp] theorem writeCollapsed_upd (s : State) (o : Fin 128) (step : Nat) (target : BitVec 32) :
    (writeCollapsed s o step target).upd = s.upd := by simp [writeCollapsed]

@[simp] theorem collapseTx_upd (s : State) (e : Fin 16) (t : Transaction) : (collapseTx s e t).upd = s.upd := by
  unfold collapseTx
  dsimp only
  split
  · simp [mirrorTag, State.onTx]
  · split
    · simp [State.onTx]
    · simp [State.onTx]

@[simp] theorem collapseAt_upd (s : State) (e : Fin 16) : (collapseAt s e).upd = s.upd := by
  unfold collapseAt
  split
  · simp
  · rfl

@[simp] theorem interruptDisplay_upd (s : State) : (interruptDisplay s).upd = s.upd := by simp [interruptDisplay, displayEvent]

@[simp] theorem beginReset_upd (s : State) : (beginReset s).upd = s.upd := by
  unfold beginReset
  extract_lets s1 s2 s3
  have kept : s3.upd = s.upd := by simp [s3, s2, s1]
  clear_value s3
  exact kept

/-! ### Trials and slots (R592 to R595) -/

theorem onTrial_trial (s : State) (k j : Fin 3) (f : Option Trial → Option Trial) :
    (s.onTrial k f).trial j = if k = j then f (s.trial j) else s.trial j := vget_vmod _ _ _ _

theorem trial_congr {s t : State} (same : t.upd.trials = s.upd.trials) (k : Fin 3) : t.trial k = s.trial k := by
  unfold State.trial; rw [same]

theorem fwIn_congr {s t : State} (same : t.upd.fw = s.upd.fw) (k : Fin 3) (st : FwState) : t.fwIn k st = s.fwIn k st := by
  unfold State.fwIn; simp only [fwSlot_congr same]

/-- Slots of one target in different states are different slots. -/
theorem fwIn_ne {k : Fin 3} {x y : FwState} {a b : Fin 2} (one : s.fwIn k x = some a) (two : s.fwIn k y = some b) (differ : x ≠ y) : a ≠ b := by
  rintro rfl
  exact differ ((fwIn_state one).symm.trans (fwIn_state two))

/-- Where one slot is ACTIVE and the other PREVIOUS, there is no slot in another state. -/
theorem fwIn_none_of_both {k : Fin 3} {x y z : FwState} {a b : Fin 2} (one : s.fwIn k x = some a) (two : s.fwIn k y = some b) (differ : x ≠ y)
    (notX : z ≠ x) (notY : z ≠ y) : s.fwIn k z = none := by
  refine List.find?_eq_none.mpr fun d _ => ?_
  have which : d = a ∨ d = b := by
    have apart := fwIn_ne one two differ
    omega
  rcases which with rfl | rfl
  · simp [fwIn_state one, notX.symm]
  · simp [fwIn_state two, notY.symm]

/-- ACTIVE is PREVIOUS (R592). -/
def activeRetired (s : State) (k : Fin 3) : State := match s.fwIn k .active with
  | some a => s.onFw k a fun x => { x with state := .previous }
  | none => s

theorem activeRetired_fwSlot {k : Fin 3} {a : Fin 2} (active : s.fwIn k .active = some a) :
    (activeRetired s k).fwSlot k a = { s.fwSlot k a with state := .previous } := by
  rw [activeRetired, active]
  exact onFw_fwSlot_same _ _ _ _

/-- A trial has begun in a slot (R592, R594). -/
def trialBegun (s : State) (k : Fin 3) (b : Fin 2) : State :=
  ((activeRetired s k).onFw k b fun x => { x with state := .trial }).onTrial k fun _ => some ⟨b, s.now, false, 0, false, 0⟩

theorem trialBegun_fw (s : State) (k : Fin 3) (b : Fin 2) :
    (trialBegun s k b).upd.fw = ((activeRetired s k).onFw k b fun x => { x with state := .trial }).upd.fw := rfl

theorem startTrial_upd {k : Fin 3} {b : Fin 2} (stored : s.fwIn k .stored = some b) (by_ : Option Cmd) :
    (startTrial s k by_).upd = (trialBegun s k b).upd := by
  unfold startTrial trialBegun activeRetired
  rw [stored]
  dsimp only
  rw [postDev_upd]
  cases s.fwIn k .active <;> rfl

/-- What a trial's start makes of the slots: ACTIVE is PREVIOUS, and STORED is TRIAL (R592). -/
theorem startTrial_slots {k : Fin 3} {b : Fin 2} (stored : s.fwIn k .stored = some b) (by_ : Option Cmd) :
    ((startTrial s k by_).fwSlot k b).state = .trial ∧ (startTrial s k by_).trial k = some ⟨b, s.now, false, 0, false, 0⟩ ∧
    ∀ a, s.fwIn k .active = some a → ((startTrial s k by_).fwSlot k a).state = .previous := by
  have upd := startTrial_upd stored by_
  have fw : (startTrial s k by_).upd.fw = ((activeRetired s k).onFw k b fun x => { x with state := .trial }).upd.fw := by
    rw [upd, trialBegun_fw]
  refine ⟨?_, ?_, fun a active => ?_⟩
  · rw [fwSlot_congr fw, onFw_fwSlot_same]
  · rw [trial_congr (congrArg Upd.trials upd), trialBegun, onTrial_trial, if_pos rfl]
  · have apart : ¬ (k = k ∧ a = b) := fun same => fwIn_ne active stored (by decide) same.2
    rw [fwSlot_congr fw, onFw_fwSlot_other _ _ apart, activeRetired_fwSlot active]

/-! ### Fall-back (R595) -/

/-- The slot that fails, or is given up by hand, and the one that runs again. -/
def swappedBack (s : State) (k : Fin 3) (b p : Fin 2) (cause : Nat) : State :=
  (s.onFw k b fun x => { x with state := if cause = 4 then .previous else .bad }).onFw k p fun x => { x with state := .active }

/-- FELL_BACK stands for every cause but the host's own (R595, R605). -/
def fellMarked (s : State) (cause : Nat) : State := if cause = 4 then s else { s with upd := { s.upd with fellBack := true } }

theorem fellMarked_upd (s : State) (cause : Nat) : (fellMarked s cause).upd = { s.upd with fellBack := (fellMarked s cause).upd.fellBack } ∧
    (cause ≠ 4 → (fellMarked s cause).upd.fellBack = true) := by
  unfold fellMarked
  split
  case isTrue hand => exact ⟨rfl, fun other => absurd hand other⟩
  case isFalse => exact ⟨rfl, fun _ => rfl⟩

@[simp] theorem tellTrial_upd (s : State) (k : Fin 3) (ok : Bool) (v : BitVec 32) : (tellTrial s k ok v).upd = s.upd := by
  unfold tellTrial
  split
  · rfl
  · rfl

/-- A fall-back of the application swaps the slots and ends the trial (R595). -/
theorem fallBack_upd {b p : Fin 2} (failed : (s.fwIn 0 .trial).or (s.fwIn 0 .active) = some b) (previous : s.fwIn 0 .previous = some p)
    (cause : Nat) (by_ : Option Cmd) :
    (fallBack s 0 cause by_).upd = (fellMarked ((swappedBack s 0 b p cause).onTrial 0 fun _ => none) cause).upd := by
  have last (t : State) : (if cause = 4 || (0 : Fin 3) = 0 then t else tally t (if (0 : Fin 3) = 1 then 2 else 3) 0) = t :=
    if_pos (by simp)
  unfold fallBack fellMarked swappedBack
  rw [failed, previous]
  dsimp only
  rw [last, apply_ite State.upd, tellTrial_upd, ite_self, postDev_upd]

theorem fallBack_slots {b p : Fin 2} (failed : (s.fwIn 0 .trial).or (s.fwIn 0 .active) = some b) (previous : s.fwIn 0 .previous = some p)
    (apart : b ≠ p) (cause : Nat) (by_ : Option Cmd) :
    ((fallBack s 0 cause by_).fwSlot 0 b).state = (if cause = 4 then .previous else .bad) ∧
    ((fallBack s 0 cause by_).fwSlot 0 p).state = .active ∧ (fallBack s 0 cause by_).trial 0 = none ∧
    (cause ≠ 4 → (fallBack s 0 cause by_).upd.fellBack = true) := by
  obtain ⟨marked, fell⟩ := fellMarked_upd ((swappedBack s 0 b p cause).onTrial 0 fun _ => none) cause
  have upd := fallBack_upd failed previous cause by_
  have fw : (fallBack s 0 cause by_).upd.fw = (swappedBack s 0 b p cause).upd.fw := by
    rw [upd, marked]
    rfl
  refine ⟨?_, ?_, ?_, fun other => ?_⟩
  · rw [fwSlot_congr fw, swappedBack, onFw_fwSlot_other _ _ (fun same => apart same.2), onFw_fwSlot_same]
  · rw [fwSlot_congr fw, swappedBack, onFw_fwSlot_same]
  · have trials : (fallBack s 0 cause by_).upd.trials = ((swappedBack s 0 b p cause).onTrial 0 fun _ => none).upd.trials := by
      rw [upd, marked]
    rw [trial_congr trials, onTrial_trial, if_pos rfl]
  · rw [upd]
    exact fell other

/-! ### Confirmation (R591, R594) -/

theorem confirmTrial_upd (s : State) (k : Fin 3) (x : Trial) : (confirmTrial s k x).upd = { s.upd with
    fw := (s.onFw k x.slot fun y => { y with state := .active }).upd.fw, trials := (s.onTrial k fun _ => none).upd.trials
    floors := if bit (Memory.word (s.fwSlot k x.slot).bytes 12) 2 then vmod s.upd.floors k fun _ => (s.fwSlot k x.slot).version
      else s.upd.floors } := by
  unfold confirmTrial
  dsimp only
  rw [tellTrial_upd, postDev_upd]
  split
  · rfl
  · rfl

@[simp] theorem confirmTrial_tim (s : State) (k : Fin 3) (x : Trial) : (confirmTrial s k x).tim = s.tim := by
  unfold confirmTrial tellTrial
  dsimp only
  split
  · simp [State.onTrial, State.onFw]
  · simp [State.onTrial, State.onFw]

end Sys2Proof.Machine
end


section
/-! Activation, confirmation and fall-back of firmware, recovery, and domino transfers (R592 to R599, R605). -/

namespace Sys2Proof.Machine

variable {s : State}

/-! ### Activate firmware (R592, R593, R605) -/

theorem target_lt {n : Nat} {k : Fin 3} (target : n = k.val) : ∃ below : n < 3, (⟨n, below⟩ : Fin 3) = k :=
  ⟨target ▸ k.isLt, Fin.ext target⟩

/-- A stored image stands below its floor. -/
def belowFloor (s : State) (k : Fin 3) (b : Fin 2) : Bool := decide ((s.fwSlot k b).version.toNat < (vget s.upd.floors k).toNat)

theorem effActivateFirmware_target {c : Cmd} {k : Fin 3} (target : fld (c.p 0) 0 2 = k.val) : effActivateFirmware c s =
    match s.fwIn k .stored with
    | none => complete s c 0x0A
    | some b => if s.upd.cfgPend.isSome || belowFloor s k b then complete s c 0x0A
      else if k = 0 then activateApp s c b else islandSwitch s c k none := by
  obtain ⟨below, same⟩ := target_lt target
  unfold effActivateFirmware belowFloor
  dsimp only
  rw [dif_pos below, same] <;> rfl

/-- The command of an activation or a revert is outstanding until its switch. -/
def switchWaits (s : State) (c : Cmd) (k : Fin 3) (fallBack : Option Nat) : State :=
  (started s c).onSwitch k (some ⟨fallBack, some (c.ring, c.index)⟩)

theorem switchWaits_inFlight {c : Cmd} (h : InFlight s c) (k : Fin 3) (f : Option Nat) : InFlight (switchWaits s c k f) c :=
  inFlight_same (started_inFlight h) rfl

theorem onSwitch_switchDue (s : State) (k : Fin 3) (x : Option SwitchDue) : vget (s.onSwitch k x).upd.switchDue k = x :=
  vget_vmod_same _ _ _

theorem islandSwitch_blocked {k : Fin 3} (blocked : (vget s.upd.switchDue k).isSome = true ∨ (k = 2 ∧ allSto s = false)) (c : Cmd) (f : Option Nat) :
    islandSwitch s c k f = complete s c 0x0A := by
  refine if_pos ?_
  rcases blocked with due | ⟨rfl, moving⟩
  · simp [due]
  · simp [moving]

theorem islandSwitch_free {k : Fin 3} (none_ : vget s.upd.switchDue k = none) (still : k = 2 → allSto s = true) (c : Cmd) (f : Option Nat) :
    islandSwitch s c k f = switchWaits s c k f := by
  refine if_neg ?_
  by_cases safety : k = 2
  · simp [none_, still safety]
  · simp [none_, safety]

/-- The standby is told to activate first (R593). -/
def pairActivated (s : State) (c : Cmd) : State :=
  { started s c with upd := { (started s c).upd with pairFw := some ⟨1, c.ring, c.index, c.tag⟩ } }

section
variable {c : Cmd} {b : Fin 2}

theorem activateApp_format (unreadable : formatOk s (s.fwSlot 0 b).bytes = false) : activateApp s c b = complete s c 0x0A :=
  if_pos (by simp [unreadable])

variable (readable : formatOk s (s.fwSlot 0 b).bytes = true)
include readable

theorem activateApp_device (scope : bit (c.p 0) 8 = false) : activateApp s c b =
    if s.tie.role = .active then complete s c 0x09
    else if s.tie.role = .joining then complete s c 0x0A
    else beginReset (complete (startTrial s 0 (some c)) c 0) :=
  (if_neg (by simp [readable])).trans (if_neg (by simp [scope]))

theorem activateApp_pair_refused (scope : bit (c.p 0) 8 = true) (off : handsFirst s = false ∨ s.upd.pairFw.isSome = true) :
    activateApp s c b = complete s c 0x0A :=
  (if_neg (by simp [readable])).trans ((if_pos scope).trans (if_pos (by rcases off with h | h <;> simp [h])))

theorem activateApp_pair (scope : bit (c.p 0) 8 = true) (hands : handsFirst s = true) (none_ : s.upd.pairFw = none)
    (major : (s.fwSlot 0 b).version.toNat / 2 ^ 24 = fwMajorOf s) : activateApp s c b = (pairActivated s c).send (.tie 3 .fwActivate) := by
  have up : (pairActivated s c).pairLinkUp = true := by
    have linked : s.pairLinkUp = true := by simp [handsFirst] at hands; exact hands.2
    exact linked
  have same : decide ((s.fwSlot 0 b).version.toNat / 2 ^ 24 ≠ fwMajorOf s) = false := decide_eq_false (not_not.mpr major)
  rw [← toPartner_up up]
  exact (if_neg (by simp [readable])).trans ((if_pos scope).trans (if_neg (by rw [hands, none_, same]; decide)))

end

/-- The service reset into the new application leaves its trial as it was started (R592). -/
theorem appActivated_upd (s : State) (c : Cmd) : (beginReset (complete (startTrial s 0 (some c)) c 0)).upd = (startTrial s 0 (some c)).upd := by
  rw [beginReset_upd]
  simp

/-! ### Confirm and Revert firmware (R594, R595, R605) -/

theorem effConfirmFirmware_target {c : Cmd} {k : Fin 3} (target : fld (c.p 0) 0 2 = k.val) : effConfirmFirmware c s =
    if (s.trial k).isNone then complete s c 0x0A
    else complete (s.onTrial k fun x => x.map fun y => { y with hostOk := true }) c 0 := by
  obtain ⟨below, same⟩ := target_lt target
  unfold effConfirmFirmware
  dsimp only
  rw [dif_pos below, same]

/-- A switch of the application waits for the handover (R595). -/
def handoverFirst (s : State) (x : SwitchDue) : State := { s.onSwitch 0 (some x) with tie := { (s.onSwitch 0 (some x)).tie with handing := true } }

theorem handoverFirst_fw (s : State) (x : SwitchDue) : (handoverFirst s x).upd.fw = s.upd.fw := rfl

theorem effRevertFirmware_target {c : Cmd} {k : Fin 3} (target : fld (c.p 0) 0 2 = k.val) : effRevertFirmware c s =
    match s.fwIn k .active, s.fwIn k .previous with
    | some _, some p =>
      if belowFloor s k p then complete s c 0x0A
      else if k ≠ 0 then islandSwitch s c k (some 4)
      else if (vget s.upd.switchDue 0).isSome then complete s c 0x0A
      else if handsFirst s then handoverFirst (started s c) ⟨some 4, some (c.ring, c.index)⟩
      else beginReset (complete (fallBack s 0 4 (some c)) c 0)
    | _, _ => complete s c 0x0A := by
  obtain ⟨below, same⟩ := target_lt target
  unfold effRevertFirmware belowFloor
  dsimp only
  rw [dif_pos below, same]
  cases s.fwIn k .active with
  | none => rfl
  | some a =>
    cases s.fwIn k .previous with
    | none => rfl
    | some p =>
      dsimp only
      refine if_congr (by simp) rfl rfl

theorem effRevertFirmware_both {c : Cmd} {k : Fin 3} {a p : Fin 2} (target : fld (c.p 0) 0 2 = k.val) (active : s.fwIn k .active = some a)
    (previous : s.fwIn k .previous = some p) : effRevertFirmware c s =
      if belowFloor s k p then complete s c 0x0A
      else if k ≠ 0 then islandSwitch s c k (some 4)
      else if (vget s.upd.switchDue 0).isSome then complete s c 0x0A
      else if handsFirst s then handoverFirst (started s c) ⟨some 4, some (c.ring, c.index)⟩
      else beginReset (complete (fallBack s 0 4 (some c)) c 0) := by
  rw [effRevertFirmware_target target, active, previous]

theorem effRevertFirmware_refused {c : Cmd} {k : Fin 3} (target : fld (c.p 0) 0 2 = k.val) (off : s.fwIn k .active = none ∨
    s.fwIn k .previous = none ∨ (vget s.upd.switchDue k).isSome = true ∨ (k = 2 ∧ allSto s = false) ∨
    ∃ p, s.fwIn k .previous = some p ∧ (s.fwSlot k p).version.toNat < (vget s.upd.floors k).toNat) :
    effRevertFirmware c s = complete s c 0x0A := by
  rcases active : s.fwIn k .active with _ | a
  · rw [effRevertFirmware_target target, active]
  rcases previous : s.fwIn k .previous with _ | p
  · rw [effRevertFirmware_target target, active, previous]
  rw [effRevertFirmware_both target active previous]
  by_cases low : belowFloor s k p = true
  · exact if_pos low
  · have blocked : (vget s.upd.switchDue k).isSome = true ∨ (k = 2 ∧ allSto s = false) := by
      rcases off with none_ | none_ | due | moving | ⟨q, found, under⟩
      · rw [active] at none_
        exact absurd none_ (by simp)
      · rw [previous] at none_
        exact absurd none_ (by simp)
      · exact .inl due
      · exact .inr moving
      · rw [previous] at found
        obtain rfl := Option.some.inj found
        exact absurd (decide_eq_true under) low
    rw [if_neg low]
    by_cases island : k ≠ 0
    · rw [if_pos island, islandSwitch_blocked blocked]
    · obtain rfl : k = 0 := not_not.mp island
      obtain due | ⟨safety, -⟩ := blocked
      · rw [if_neg island, if_pos due]
      · exact absurd safety (by decide)

/-! ### Trials (R594, R595) -/

/-- The end of CONFIRM_T of a trial. -/
def trialOver (s : State) (x : Trial) : State := s.toTick (trialEnd s x)

theorem exec_trialConfirmed {k : Fin 3} {x : Trial} (trial : s.trial k = some x) (run : s.clocksRun = true) (met : trialMet s k x = true) :
    exec (.trialConfirmed k) s = .next (confirmTrial (trialOver s x) k x) := by
  change execTrialConfirmed k s = _
  rw [execTrialConfirmed, trial]
  exact congrArg Host.Outcome.next (if_pos (by simp [run, met]))

theorem exec_trialConfirmed_unmet {k : Fin 3} {x : Trial} (trial : s.trial k = some x) (unmet : trialMet s k x = false) :
    exec (.trialConfirmed k) s = .next s := by
  change execTrialConfirmed k s = _
  rw [execTrialConfirmed, trial]
  exact congrArg Host.Outcome.next (if_neg (by simp [unmet]))

theorem exec_fallBack_met {k : Fin 3} {x : Trial} (trial : s.trial k = some x) (met : trialMet s k x = true) :
    exec (.fallBack k true) s = .next s := by
  change execFallBack k true s = _
  rw [execFallBack, trial]
  exact congrArg Host.Outcome.next (if_pos (by simp [met]))

theorem noTrial {k : Fin 3} (none_ : s.trial k = none) : exec (.trialConfirmed k) s = .next s ∧ ∀ f, exec (.fallBack k f) s = .next s := by
  change execTrialConfirmed k s = _ ∧ ∀ f, execFallBack k f s = _
  refine ⟨?_, fun f => ?_⟩
  · rw [execTrialConfirmed, none_]
  · rw [execFallBack, none_]

/-- When a trial falls back: where a time-out is its cause, at the end of CONFIRM_T. -/
def fallBackAt (s : State) (x : Trial) (f : Bool) : State := if f then trialOver s x else s

theorem fallBackAt_frame (s : State) (x : Trial) (f : Bool) : (fallBackAt s x f).upd = s.upd ∧ (fallBackAt s x f).tie = s.tie := by
  unfold fallBackAt trialOver
  split
  · rw [toTick_frame]
    exact ⟨rfl, rfl⟩
  · exact ⟨rfl, rfl⟩

theorem trialOver_reached (s : State) (x : Trial) : x.startAt + s.cfg.confirmT * 1000000000 ≤ (trialOver s x).now := by
  have reached : trialEnd s x ≤ (trialOver s x).now := toTick_reaches _ _
  rw [trialEnd, secNs] at reached
  exact reached

theorem fallBackAt_reached (s : State) (x : Trial) : x.startAt + s.cfg.confirmT * 1000000000 ≤ (fallBackAt s x true).now := by
  rw [fallBackAt, if_pos rfl]
  exact trialOver_reached s x

theorem onSwitch_fw (s : State) (k : Fin 3) (x : Option SwitchDue) : (s.onSwitch k x).upd.fw = s.upd.fw := rfl

theorem handsFirst_congr {s t : State} (same : t.tie = s.tie) : handsFirst t = handsFirst s := by
  unfold handsFirst State.pairLinkUp; rw [same]

theorem exec_fallBack {k : Fin 3} {x : Trial} {f : Bool} (trial : s.trial k = some x) (run : s.clocksRun = true)
    (due : f = false ∨ trialMet s k x = false) : exec (.fallBack k f) s = .next (
      if k ≠ 0 then (fallBackAt s x f).onSwitch k (some ⟨some (b2n f), none⟩)
      else if handsFirst (fallBackAt s x f) then handoverFirst (fallBackAt s x f) ⟨some (b2n f), none⟩
      else appSwitch (fallBackAt s x f) ⟨some (b2n f), none⟩) := by
  change execFallBack k f s = _
  rw [execFallBack, trial]
  refine congrArg Host.Outcome.next ((if_neg ?_).trans rfl)
  rcases due with h | h
  · simp [run, h]
  · simp [run, h]

/-! ### Recovery (R597) -/

/-- The rings that recovery keeps: CMD 0, CPL 16 and EVT 32. -/
def keptRing (r : Fin 57) : Prop := r.val = 0 ∨ r.val = 16 ∨ r.val = 32

/-- Recovery disables a ring that it does not keep. -/
def closeRing (s : State) (r : Fin 57) : State :=
  if r.val = 0 ∨ r.val = 16 ∨ r.val = 32 ∨ !(s.ring r).en then s else (ringDown s r).onRing r fun x => { x with en := false }

theorem closeRing_closes (s : State) {r : Fin 57} (other : ¬ keptRing r) : ((closeRing s r).ring r).en = false := by
  unfold closeRing
  split
  case isTrue none_ =>
    rcases none_ with h | h | h | h
    · exact absurd (.inl h) other
    · exact absurd (.inr (.inl h)) other
    · exact absurd (.inr (.inr h)) other
    · simpa using h
  case isFalse => rw [onRing_ring]

theorem closeRing_stays {r : Fin 57} (closed : (s.ring r).en = false) (q : Fin 57) : ((closeRing s q).ring r).en = false := by
  unfold closeRing
  split
  case isTrue => exact closed
  case isFalse =>
    by_cases same : q = r
    · subst same
      rw [onRing_ring]
    · rw [onRing_ring_of _ same, ringDown_ring, if_neg same]
      exact closed

theorem closeRings_closed {r : Fin 57} (other : ¬ keptRing r) : ∀ (l : List (Fin 57)) (s : State), r ∈ l ∨ (s.ring r).en = false →
    ((l.foldl closeRing s).ring r).en = false
  | [], _, done => done.resolve_left List.not_mem_nil
  | q :: l, s, done => by
    refine closeRings_closed other l _ ?_
    rcases done with listed | closed
    · rcases List.mem_cons.mp listed with rfl | later
      · exact .inr (closeRing_closes s other)
      · exact .inl later
    · exact .inr (closeRing_stays closed q)

/-- Every ring that recovery does not keep has been closed. -/
def ringsClosed (s : State) : State := (List.finRange 57).foldl closeRing s

/-- RECOVERY stands, and no lane sends. -/
def recoveryMarked (s : State) : State :=
  { s with upd := { s.upd with recovery := true, recoverDue := false }, lanes := vall s.lanes fun x => { x with stopped := true } }

theorem enterRecovery_eq (s : State) (cause : Nat) (by_ : Option Cmd) :
    enterRecovery s cause by_ = postDev (recoveryMarked (ringsClosed s)) 0x0E07 (p8 cause) by_ := by
  unfold enterRecovery recoveryMarked ringsClosed closeRing
  dsimp only

theorem recoveryMarked_frame (s : State) : (recoveryMarked s).upd.recovery = true ∧ (∀ l, ((recoveryMarked s).lane l).stopped = true) ∧
    (recoveryMarked s).rings = s.rings := by
  refine ⟨rfl, fun l => ?_, rfl⟩
  simp [recoveryMarked, State.lane, vall, vget]

theorem enterRecovery_enters (s : State) (cause : Nat) (by_ : Option Cmd) : (enterRecovery s cause by_).upd.recovery = true ∧
    (∀ l, ((enterRecovery s cause by_).lane l).stopped = true) ∧ ∀ r, ¬ keptRing r → ((enterRecovery s cause by_).ring r).en = false := by
  obtain ⟨recovery, stopped, rings⟩ := recoveryMarked_frame (ringsClosed s)
  rw [enterRecovery_eq]
  refine ⟨?_, fun l => ?_, fun r other => ?_⟩
  · rw [postDev_upd]
    exact recovery
  · have lanes : (postDev (recoveryMarked (ringsClosed s)) 0x0E07 (p8 cause) by_).lanes = (recoveryMarked (ringsClosed s)).lanes := by simp
    rw [lane_congr lanes]
    exact stopped l
  · have posted : ((postDev (recoveryMarked (ringsClosed s)) 0x0E07 (p8 cause) by_).ring r).en = ((recoveryMarked (ringsClosed s)).ring r).en := by
      rw [postDev, postEvent_same (recoveryMarked (ringsClosed s)) 0x0E07 none (p8 cause) by_ r]
    rw [posted, ring_congr rings, ringsClosed]
    exact closeRings_closed other _ s (.inl (List.mem_finRange r))

/-- Recovery waits for the handover (R597). -/
def recoveryWaits (s : State) (c : Cmd) : State :=
  { complete s c 0 with tie := { (complete s c 0).tie with handing := true }, upd := { (complete s c 0).upd with recoverDue := true } }

theorem effEnterRecovery_eq (s : State) (c : Cmd) : effEnterRecovery c s =
    if handsFirst s then recoveryWaits s c else enterRecovery (complete s c 0) 1 (some c) := by
  have same : handsFirst (complete s c 0) = handsFirst s := handsFirst_congr (by simp)
  rw [← same]
  rfl

/-! ### Domino (R598, R599) -/

/-- A piece has at least one byte and at most 1,006. -/
theorem pieceSize_bounds (s : State) (pos total : Nat) : 1 ≤ pieceSize s pos total ∧ pieceSize s pos total ≤ 1006 := by
  unfold pieceSize
  extract_lets n mode top
  rcases found : ((List.range top).reverse.map (· + 1)).find? (fun k => decide (kiteDuration s mode (18 + k) ≤ secNs)) with _ | k
  · exact ⟨le_rfl, by decide⟩
  · obtain ⟨i, listed, rfl⟩ := List.mem_map.mp (List.mem_of_find?_eq_some found)
    have below : i < top := by simpa using listed
    have most : top ≤ 1006 := (min_le_left _ _).trans (min_le_left _ _)
    simp only [Option.getD_some]
    omega

theorem dominoSource_congr {s t : State} (same : t.upd.fw = s.upd.fw) (x : DominoTx) : dominoSource t x = dominoSource s x := by
  unfold dominoSource; simp only [fwSlot_congr same]

@[simp] theorem kiteQueue_upd (s : State) (typ pri : Nat) (dest : Fin 64) (bcast oneHop : Bool) (payload : List Byte) :
    (kiteQueue s typ pri dest bcast oneHop payload).upd = s.upd := rfl

/-- A piece of an image that is held goes to a neighbour. -/
theorem sendPiece_sends {x : DominoTx} {m : List Host.Cell} (tx : s.upd.dominoTx = some x) (source : dominoSource s x = some m)
    (heard : (s.node s.upd.dominoNext).neighbour = true) :
    ∃ n, (sendPiece s).upd.dominoTx = some { x with piece := n, paused := none } ∧ 1 ≤ n ∧ n ≤ 1006 := by
  refine ⟨pieceSize s x.pos (imgLength m + 256), ?_, pieceSize_bounds _ _ _⟩
  unfold sendPiece
  rw [tx]
  dsimp only
  rw [source]
  dsimp only
  rw [if_neg (by simp [heard]), kiteQueue_upd]

/-- Without its neighbour, a transfer that was paused is paused again. -/
theorem sendPiece_pauses {x : DominoTx} {m : List Host.Cell} {a : Nat} (tx : s.upd.dominoTx = some x) (paused : x.paused = some a)
    (source : dominoSource s x = some m) (silent : (s.node s.upd.dominoNext).neighbour = false) :
    (sendPiece s).upd.dominoTx = some { x with piece := 0, paused := some s.now } ∧ (sendPiece s).upd.dominoFail = true := by
  have pauses : sendPiece s = pauseDomino s := by
    unfold sendPiece
    rw [tx]
    dsimp only
    rw [source]
    exact if_pos (by simp [silent])
  rw [pauses, pauseDomino, tx]
  dsimp only
  rw [if_pos (by rw [paused]; rfl)]
  exact ⟨rfl, rfl⟩

/-- A transfer of a target's image begins. -/
def dominoBegun (s : State) (k : Fin 3) (v : BitVec 32) : State := { s with upd := { s.upd with dominoTx := some ⟨k, v, 0, 0, none⟩ } }

theorem dominoBegun_source {k : Fin 3} {b : Fin 2} (stored : s.fwIn k .stored = some b) : ∃ m,
    dominoSource (dominoBegun s k (s.fwSlot k b).version) ⟨k, (s.fwSlot k b).version, 0, 0, none⟩ = some m := by
  have state := fwIn_state stored
  have same (x : DominoTx) : dominoSource (dominoBegun s k (s.fwSlot k b).version) x = dominoSource s x := dominoSource_congr rfl x
  rw [same]
  unfold dominoSource
  rw [← Option.isSome_iff_exists, Option.isSome_map, List.find?_isSome]
  exact ⟨b, List.mem_finRange b, by simp [state]⟩

theorem effDominoSend_target {c : Cmd} {k : Fin 3} (target : fld (c.p 0) 0 2 = k.val) : effDominoSend c s = match s.fwIn k .stored with
    | some b => complete (startDomino s k (s.fwSlot k b).version) c 0
    | none => complete s c 0x0A := by
  obtain ⟨below, same⟩ := target_lt target
  unfold effDominoSend
  dsimp only
  rw [dif_pos below, same] <;> rfl

/-- 60 s after the node was found unreachable. -/
def retryDue (s : State) (a : Nat) : State := s.toTick (a + 60000000000)

theorem retryDue_frame (s : State) (a : Nat) : (retryDue s a).upd = s.upd ∧ (retryDue s a).kit = s.kit := by
  rw [retryDue, toTick_frame]
  exact ⟨rfl, rfl⟩

theorem exec_dominoRetry {x : DominoTx} {a : Nat} (tx : s.upd.dominoTx = some x) (paused : x.paused = some a) (sends : kiteSends s = true) :
    exec .dominoRetry s = .next (sendPiece (retryDue s a)) := by
  change execDominoRetry s = _
  rw [execDominoRetry, tx, Option.bind_some, paused]
  exact congrArg Host.Outcome.next (if_pos sends)

end Sys2Proof.Machine
end


section
/-! The obligation on firmware activation, trials, recovery and domino (R591 to R599, R605). -/

namespace Sys2Proof.Machine

/-- Settles O57: each command and each end of a trial through its equation, and the slots through the swap they make. -/
theorem firmwareActivation : Obligations.FirmwareActivation := by
  unfold Obligations.FirmwareActivation
  refine ⟨?noTarget, ?refused, ?island, ?application, ?confirm, ?revertRefused, ?revert, ?noTrial, ?unmet, ?confirmed, ?fallBackWaits,
    ?fallBack, ?recovery, ?domino, ?retryOff, ?retry⟩
  case noTarget =>
    intro s c other
    have above : ¬ fld (c.p 0) 0 2 < 3 := by rw [other]; decide
    exact ⟨fun h => ready_eq h (dif_neg above), fun h => ready_eq h (dif_neg above), fun h => ready_eq h (dif_neg above),
      fun h => ready_eq h (dif_neg above)⟩
  case refused =>
    intro s c k h target off
    refine ready_eq h ?_
    rw [effActivateFirmware_target target]
    rcases stored : s.fwIn k .stored with _ | b
    · rfl
    · refine if_pos ?_
      rcases off with none_ | pending | ⟨d, found, low⟩
      · rw [stored] at none_
        exact absurd none_ (by simp)
      · simp [pending]
      · rw [stored] at found
        obtain rfl := Option.some.inj found
        simp [belowFloor, low]
  case island =>
    intro s c k b h target stored noConfig atFloor other
    have free : ¬ (s.upd.cfgPend.isSome || belowFloor s k b) = true := by simp [noConfig, belowFloor, atFloor]
    have eq : effActivateFirmware c s = islandSwitch s c k none := by
      rw [effActivateFirmware_target target, stored]
      exact (if_neg free).trans (if_neg other)
    refine ⟨fun blocked => ready_eq h (eq.trans (islandSwitch_blocked blocked c none)), fun none_ still => ?_⟩
    exact ⟨_, ready_eq h (eq.trans (islandSwitch_free none_ still c none)), switchWaits_inFlight h.cmd k none, onSwitch_switchDue _ _ _, rfl⟩
  case application =>
    intro s c b h target stored noConfig atFloor
    have free : ¬ (s.upd.cfgPend.isSome || belowFloor s 0 b) = true := by simp [noConfig, belowFloor, atFloor]
    have eq : effActivateFirmware c s = activateApp s c b := by
      rw [effActivateFirmware_target (k := 0) target, stored]
      exact (if_neg free).trans (if_pos rfl)
    refine ⟨fun unreadable => ready_eq h (eq.trans (activateApp_format unreadable)), fun readable device => ⟨?active, ?joining, ?alone⟩,
      fun readable pair => ⟨?pairRefused, ?pair⟩⟩
    case active =>
      intro role
      exact ready_eq h (eq.trans ((activateApp_device readable device).trans (if_pos role)))
    case joining =>
      intro role
      exact ready_eq h (eq.trans ((activateApp_device readable device).trans ((if_neg (by simp [role])).trans (if_pos role))))
    case alone =>
      intro role
      obtain ⟨trial, begun, previous⟩ := startTrial_slots stored (some c)
      have upd := appActivated_upd s c
      refine ⟨beginReset (complete (startTrial s 0 (some c)) c 0), ready_eq h (eq.trans ((activateApp_device readable device).trans
        ((if_neg (by rcases role with r | r <;> simp [r])).trans (if_neg (by rcases role with r | r <;> simp [r]))))),
        (beginReset_stops _).1, ?_, ?_, fun a active => ?_⟩
      · rw [fwSlot_congr (congrArg Upd.fw upd)]
        exact trial
      · rw [trial_congr (congrArg Upd.trials upd)]
        exact begun
      · rw [fwSlot_congr (congrArg Upd.fw upd)]
        exact previous a active
    case pairRefused =>
      intro off
      exact ready_eq h (eq.trans (activateApp_pair_refused readable pair off))
    case pair =>
      intro hands none_ major
      exact ⟨_, (started s c).out, ready_eq h (eq.trans (activateApp_pair readable pair hands none_ major)),
        inFlight_same (started_inFlight h.cmd) rfl, rfl, rfl⟩
  case confirm =>
    intro s c k h target
    refine ⟨fun none_ => ready_eq h ?_, fun x trial => ⟨s.onTrial k fun x => x.map fun y => { y with hostOk := true }, ready_eq h ?_, ?_,
      fun j other => ?_⟩⟩
    · rw [effConfirmFirmware_target target, none_]
      rfl
    · rw [effConfirmFirmware_target target, trial]
      rfl
    · rw [onTrial_trial, if_pos rfl, trial]
      rfl
    · rw [onTrial_trial, if_neg (Ne.symm other)]
  case revertRefused =>
    intro s c k h target off
    exact ready_eq h (effRevertFirmware_refused target off)
  case revert =>
    intro s c k a p h target active previous atFloor none_ still
    have eq := (effRevertFirmware_both target active previous).trans (if_neg (by simp [belowFloor, atFloor]))
    refine ⟨fun waits => ?_, fun app alone => ?_⟩
    · by_cases island : k ≠ 0
      · refine ⟨switchWaits s c k (some 4), ready_eq h (eq.trans ((if_pos island).trans (islandSwitch_free none_ still c (some 4)))),
          switchWaits_inFlight h.cmd _ _, onSwitch_switchDue _ _ _, rfl, fun app => absurd app island⟩
      · obtain rfl : k = 0 := not_not.mp island
        have hands : handsFirst s = true := waits.resolve_left island
        exact ⟨handoverFirst (started s c) ⟨some 4, some (c.ring, c.index)⟩,
          ready_eq h (eq.trans ((if_neg island).trans ((if_neg (by simp [none_])).trans (if_pos hands)))),
          inFlight_same (started_inFlight h.cmd) rfl, onSwitch_switchDue _ _ _, rfl, fun _ => rfl⟩
    · subst app
      have apart : a ≠ p := fwIn_ne active previous (by decide)
      have none_trial : s.fwIn 0 .trial = none := fwIn_none_of_both active previous (by decide) (by decide) (by decide)
      obtain ⟨failed, runs, -, -⟩ := fallBack_slots (s := s) (b := a) (p := p) (by rw [none_trial, active]; rfl) previous apart 4 (some c)
      have upd : (beginReset (complete (fallBack s 0 4 (some c)) c 0)).upd = (fallBack s 0 4 (some c)).upd := by
        rw [beginReset_upd]
        simp
      refine ⟨beginReset (complete (fallBack s 0 4 (some c)) c 0),
        ready_eq h (eq.trans ((if_neg (by simp)).trans ((if_neg (by simp [none_])).trans (if_neg (by simp [alone]))))),
        (beginReset_stops _).1, ?_, ?_⟩
      · rw [fwSlot_congr (congrArg Upd.fw upd), failed, if_pos rfl]
      · rw [fwSlot_congr (congrArg Upd.fw upd), runs]
  case noTrial =>
    intro s k none_
    exact noTrial none_
  case unmet =>
    intro s k x trial unmet
    exact exec_trialConfirmed_unmet trial unmet
  case confirmed =>
    intro s k x trial run met
    have kept : (trialOver s x).upd = s.upd := by rw [trialOver, toTick_frame]
    have slot : (trialOver s x).fwSlot k x.slot = s.fwSlot k x.slot := fwSlot_congr (congrArg Upd.fw kept) _ _
    have upd := confirmTrial_upd (trialOver s x) k x
    refine ⟨exec_fallBack_met trial met, confirmTrial (trialOver s x) k x, exec_trialConfirmed trial run met, ?_, ?_, ?_, ?_⟩
    · rw [fwSlot_congr (t := confirmTrial (trialOver s x) k x) (s := (trialOver s x).onFw k x.slot fun y => { y with state := .active })
        (by rw [upd]), onFw_fwSlot_same]
    · rw [trial_congr (t := confirmTrial (trialOver s x) k x) (s := (trialOver s x).onTrial k fun _ => none) (by rw [upd]), onTrial_trial,
        if_pos rfl]
    · rw [upd]
      dsimp only
      rw [slot, kept]
      split
      · exact vget_vmod_same _ _ _
      · rfl
    · rw [State.now, confirmTrial_tim]
      exact trialOver_reached s x
  case fallBackWaits =>
    intro s k x f trial run waits due
    obtain ⟨upd, tie⟩ := fallBackAt_frame s x f
    have eq := exec_fallBack trial run due
    by_cases island : k ≠ 0
    · rw [if_pos island] at eq
      refine ⟨(fallBackAt s x f).onSwitch k (some ⟨some (b2n f), none⟩), eq, onSwitch_switchDue _ _ _, by rw [onSwitch_fw, upd],
        fun app => absurd app island, ?_⟩
      rintro rfl
      exact fallBackAt_reached s x
    · obtain rfl : k = 0 := not_not.mp island
      have hands : handsFirst (fallBackAt s x f) = true := (handsFirst_congr tie).trans (waits.resolve_left island)
      rw [if_neg island, if_pos hands] at eq
      refine ⟨handoverFirst (fallBackAt s x f) ⟨some (b2n f), none⟩, eq, onSwitch_switchDue _ _ _, by rw [handoverFirst_fw, upd], fun _ => rfl, ?_⟩
      rintro rfl
      exact fallBackAt_reached s x
  case fallBack =>
    intro s x f b p trial run alone due onTrial previous
    obtain ⟨upd, tie⟩ := fallBackAt_frame s x f
    have eq := exec_fallBack trial run due
    have stays : ¬ handsFirst (fallBackAt s x f) = true := by rw [handsFirst_congr tie, alone]; exact Bool.false_ne_true
    rw [if_neg (not_not.mpr rfl), if_neg stays] at eq
    have cause : b2n f ≠ 4 := by cases f <;> decide
    have fw : ((fallBackAt s x f).onSwitch 0 none).upd.fw = s.upd.fw := by rw [onSwitch_fw, upd]
    obtain ⟨failed, runs, ended, fell⟩ := fallBack_slots (s := (fallBackAt s x f).onSwitch 0 none) (b := b) (p := p)
      (by rw [fwIn_congr fw, onTrial]; rfl) (by rw [fwIn_congr fw, previous]) (fwIn_ne onTrial previous (by decide)) (b2n f) none
    have after : (appSwitch (fallBackAt s x f) ⟨some (b2n f), none⟩).upd =
        (Sys2Proof.Machine.fallBack ((fallBackAt s x f).onSwitch 0 none) 0 (b2n f) none).upd := beginReset_upd _
    refine ⟨appSwitch (fallBackAt s x f) ⟨some (b2n f), none⟩, eq, (beginReset_stops _).1, ?_, ?_, ?_, ?_⟩
    · rw [fwSlot_congr (congrArg Upd.fw after), failed, if_neg cause]
    · rw [fwSlot_congr (congrArg Upd.fw after), runs]
    · rw [trial_congr (congrArg Upd.trials after), ended]
    · rw [after, fell cause]
  case recovery =>
    intro s c h
    have eq := effEnterRecovery_eq s c
    refine ⟨fun hands => ⟨recoveryWaits s c, ready_eq h (eq.trans (if_pos hands)), rfl, rfl, by simp [recoveryWaits]⟩, fun alone => ?_⟩
    obtain ⟨recovery, stopped, closed⟩ := enterRecovery_enters (complete s c 0) 1 (some c)
    refine ⟨_, ready_eq h (eq.trans (if_neg (by simp [alone]))), recovery, stopped, fun r zero cpl evt => closed r ?_⟩
    rintro (h0 | h16 | h32)
    · exact zero h0
    · exact cpl h16
    · exact evt h32
  case domino =>
    intro s c k h target
    refine ⟨fun none_ => ready_eq h (by rw [effDominoSend_target target, none_]), fun b stored => ⟨fun last => ?_, fun next heard => ?_⟩⟩
    · refine ready_eq h ?_
      rw [effDominoSend_target target, stored]
      dsimp only
      rw [startDomino, if_pos last]
    · obtain ⟨m, source⟩ := dominoBegun_source stored
      obtain ⟨n, sent, least, most⟩ := sendPiece_sends (s := dominoBegun s k (s.fwSlot k b).version) rfl source heard
      refine ⟨sendPiece (dominoBegun s k (s.fwSlot k b).version), n, ready_eq h ?_, sent, least, most⟩
      rw [effDominoSend_target target, stored]
      dsimp only
      rw [startDomino, if_neg next]
      rfl
  case retryOff =>
    intro s none_
    change execDominoRetry s = _
    rw [execDominoRetry, none_]
    rfl
  case retry =>
    intro s x a m tx paused sends source
    obtain ⟨upd, kit⟩ := retryDue_frame s a
    have tx' : (retryDue s a).upd.dominoTx = some x := by rw [upd, tx]
    have source' : dominoSource (retryDue s a) x = some m := by rw [dominoSource_congr (congrArg Upd.fw upd), source]
    have node : ((retryDue s a).node (retryDue s a).upd.dominoNext).neighbour = (s.node s.upd.dominoNext).neighbour := by
      rw [node_congr kit, upd]
    refine ⟨fun heard => ?_, fun silent => ?_⟩
    · obtain ⟨n, sent, bounds⟩ := sendPiece_sends tx' source' (node.trans heard)
      exact ⟨_, n, exec_dominoRetry tx paused sends, sent, bounds⟩
    · obtain ⟨again, fails⟩ := sendPiece_pauses tx' paused source' (node.trans silent)
      exact ⟨_, (retryDue s a).now, exec_dominoRetry tx paused sends, toTick_reaches _ _, again, fails⟩

end Sys2Proof.Machine
end


section
/-! The display, its updates and commands, and the serial watchdog (R557 to R567). -/

namespace Sys2Proof.Machine

variable {s : State}

/-! ### Updates (R560, R566) -/

theorem exec_displayUpdate_common {k : Fin 4} (drive : drives s = true) (common : s.epd.common = some k) : exec .displayUpdate s =
    .next (continueUpdate (commonDone (s.toTick (s.epd.commonAt + ((s.epd.waves[s.epd.band.toNat]?).getD ⟨0, []⟩).total)) k)) := by
  change execDisplayUpdate s = _
  rw [execDisplayUpdate, if_neg (by simp [drive]), common]

theorem exec_displayUpdate_idle (drive : drives s = true) (none_ : s.epd.common = none) : exec .displayUpdate s = .next (startUpdate s) := by
  change execDisplayUpdate s = _
  rw [execDisplayUpdate, if_neg (by simp [drive]), none_]

theorem exec_display_off (off : drives s = false) : exec .displayUpdate s = .next s ∧ exec .blink s = .next s :=
  ⟨congrArg Host.Outcome.next (if_pos (by simp [off])), congrArg Host.Outcome.next (if_neg (by simp [off]))⟩

/-- In a full clear the driven common is light, and the others stay (R566). -/
theorem commonDone_clear (clearing : s.epd.clearLeft ≠ 0) (k : Fin 4) : (commonDone s k).epd.image = s.epd.image &&& ~~~commonMask k := by
  unfold commonDone State.onEpd
  dsimp only
  rw [if_pos (Nat.pos_of_ne_zero clearing)]

/-- The area an update of a common draws: the legal segments, or the operator's (R560). -/
def drawnArea (s : State) : BitVec 384 := if s.epd.legalPart then legalMask s else ~~~legalMask s

/-- Outside a full clear the driven common shows its part of the target in the area drawn (R560). -/
theorem commonDone_draw (drawing : s.epd.clearLeft = 0) (k : Fin 4) : (commonDone s k).epd.image =
    (s.epd.image &&& ~~~(commonMask k &&& drawnArea s)) ||| (s.epd.target &&& commonMask k &&& drawnArea s) := by
  unfold commonDone State.onEpd drawnArea
  dsimp only
  rw [if_neg (by omega)]

theorem drawnArea_bit (s : State) {i : Nat} (segment : i < 384) :
    (drawnArea s).getLsbD i = ((legalMask s).getLsbD i == s.epd.legalPart) := by
  unfold drawnArea
  cases s.epd.legalPart
  · simp [segment]
  · simp

/-- A segment outside the driven common keeps its state. -/
theorem commonDone_other {k : Fin 4} {i : Nat} (other : (commonMask k).getLsbD i = false) (segment : i < 384) :
    (commonDone s k).epd.image.getLsbD i = s.epd.image.getLsbD i := by
  by_cases drawing : s.epd.clearLeft = 0
  · rw [commonDone_draw drawing]
    simp only [BitVec.getLsbD_or, BitVec.getLsbD_and, BitVec.getLsbD_not, other, decide_eq_true segment]
    simp
  · rw [commonDone_clear drawing]
    simp only [BitVec.getLsbD_and, BitVec.getLsbD_not, other, decide_eq_true segment]
    simp

/-- The update is over: nothing waits for it, and its record is complete (R566). -/
def updateOver (s : State) : State := s.onEpd fun e => { e with
  busy := false, common := none, waitCmds := [], fromJournal := false
  journal := { e.journal with target := e.image, complete := true, valid := true } }

theorem foldl_epd {α : Type} {l : List α} {f : State → α → State} {s : State} (h : ∀ s x, (f s x).epd = s.epd) : (l.foldl f s).epd = s.epd :=
  foldl_inv (fun t => t.epd = s.epd) l f s rfl fun t x same => (h t x).trans same

@[simp] theorem displayEvent_epd (s : State) (result : Nat) : (displayEvent s result).epd = s.epd := by simp [displayEvent]

theorem endUpdate_epd (s : State) : (endUpdate s).epd = (updateOver s).epd := by
  unfold endUpdate updateOver
  dsimp only
  rw [foldl_epd fun t k => by simp, displayEvent_epd]

theorem continueUpdate_none (none_ : nextCommon s = none) : continueUpdate s = endUpdate s := by
  rw [continueUpdate, none_]

/-! ### Blinking (R563) -/

/-- BLINK_T has passed. -/
def blinkDue (s : State) : State := s.toTick (s.epd.blinkAt + s.epd.blinkT * 1000000000)

/-- The marked segments are reversed. -/
def blinked (s : State) : State := (blinkDue s).onEpd fun e => { e with blinkPhase := !e.blinkPhase, blinkAt := (blinkDue s).now }

theorem blinkDue_epd (s : State) : (blinkDue s).epd = s.epd ∧ legalMask (blinkDue s) = legalMask s := by
  rw [blinkDue, toTick_frame]
  exact ⟨rfl, rfl⟩

theorem exec_blink_busy (drive : drives s = true) (marked : s.epd.blink ≠ 0) (busy : s.epd.busy = true) : exec .blink s = .next
    ((blinked s).onEpd fun e => { e with target := e.target ^^^ ((blinked s).epd.blink &&& ~~~legalMask (blinked s)) }) := by
  have busy' : (blinked s).epd.busy = true := by
    change (blinkDue s).epd.busy = true
    rw [(blinkDue_epd s).1, busy]
  exact congrArg Host.Outcome.next ((if_pos (by rw [drive, Bool.true_and]; exact bne_iff_ne.mpr marked)).trans (if_pos busy'))

/-! ### The crack loop (R564) -/

/-- A pulse of the loop has been sent, and returned or not. -/
def pulsed (s : State) (returned : Bool) : State := (s.toTick (s.epd.pulseAt + 1000000000)).onEpd fun e => { e with
  pulseAt := (s.toTick (s.epd.pulseAt + 1000000000)).now, missedPulses := if returned then 0 else min 2 (e.missedPulses + 1)
  gotPulses := if returned then min 10 (e.gotPulses + 1) else 0 }

theorem pulsed_epd (s : State) (returned : Bool) : (pulsed s returned).epd = { s.epd with
    pulseAt := (pulsed s returned).epd.pulseAt, missedPulses := if returned then 0 else min 2 (s.epd.missedPulses + 1)
    gotPulses := if returned then min 10 (s.epd.gotPulses + 1) else 0 } := by
  unfold pulsed
  rw [toTick_frame]
  rfl

theorem pulsed_reached (s : State) (returned : Bool) : s.epd.pulseAt + 1000000000 ≤ (pulsed s returned).now := toTick_reaches _ _

theorem exec_crackPulse (running : s.glb.phase = .running) (returned : Bool) : exec (.crackPulse returned) s = .next (
    if !(pulsed s returned).epd.crack && (pulsed s returned).epd.missedPulses == 2 then
      postDev ((pulsed s returned).onEpd fun e => { e with crack := true, crackSeen := true }) 0x0C03 (p8 0)
    else if (pulsed s returned).epd.crack && (pulsed s returned).epd.gotPulses == 10 then
      postDev ((pulsed s returned).onEpd fun e => { e with crack := false }) 0x0C03 (p8 1)
    else pulsed s returned) :=
  congrArg Host.Outcome.next ((if_neg (by simp [running])).trans rfl)

/-! ### Display commands (R567) -/

/-- A display command is outstanding until the update that carries it out. -/
def updateAwaited (s : State) (c : Cmd) : State := (started s c).onEpd fun e => { e with nextCmds := e.nextCmds ++ [(c.ring, c.index)] }

theorem awaitUpdate_busy (busy : s.epd.busy = true) (c : Cmd) : awaitUpdate s c = updateAwaited s c := by
  have busy' : (updateAwaited s c).epd.busy = true := busy
  exact if_neg (c := (drives (updateAwaited s c) && !(updateAwaited s c).epd.busy) = true) (by rw [busy', Bool.not_true, Bool.and_false]; exact Bool.false_ne_true)

theorem updateAwaited_inFlight {c : Cmd} (h : InFlight s c) : InFlight (updateAwaited s c) c := inFlight_same (started_inFlight h) rfl

/-- The operator's part of the image, and its marked segments, as a command gives them. -/
def operWritten (s : State) (c : Cmd) : State := s.onEpd fun e => { e with
  operImage := (operBlock c).1 &&& ~~~legalMask s, blink := (operBlock c).2 &&& ~~~legalMask s, blinkPhase := false, blinkAt := s.now }

section
variable {c : Cmd} (aligned : c.p2 0 % 32 = 0)
include aligned

theorem effWriteOperatorArea_off (off : s.epd.enabled = false) : effWriteOperatorArea c s = complete s c 0x0A :=
  (if_neg (by simp [aligned])).trans (if_pos (by simp [off]))

theorem effWriteOperatorArea_many (on : s.epd.enabled = true) (many : 32 < ones ((operBlock c).2 &&& ~~~legalMask s)) :
    effWriteOperatorArea c s = complete s c 0x02 :=
  (if_neg (by simp [aligned])).trans ((if_neg (by simp [on])).trans (if_pos many))

theorem effWriteOperatorArea_few (on : s.epd.enabled = true) (few : ones ((operBlock c).2 &&& ~~~legalMask s) ≤ 32) :
    effWriteOperatorArea c s = awaitUpdate (operWritten s c) c :=
  (if_neg (by simp [aligned])).trans ((if_neg (by simp [on])).trans (if_neg (Nat.not_lt.mpr few)))

end

theorem effRedraw_off {c : Cmd} (off : s.epd.enabled = false) : effRedraw c s = complete s c 0x0A := if_pos (by simp [off])

/-- A redraw is owed. -/
def redrawOwed (s : State) : State := s.onEpd fun e => { e with redrawDue := true }

theorem effRedraw_busy {c : Cmd} (on : s.epd.enabled = true) (busy : s.epd.busy = true) : effRedraw c s = awaitUpdate (redrawOwed s) c := by
  have owed : (s.onEpd fun e => if e.busy then { e with redrawDue := true } else { e with redrawDue := true, fromJournal := true, target := wanted s }) =
      redrawOwed s := by
    unfold redrawOwed State.onEpd
    dsimp only
    rw [if_pos busy]
  unfold effRedraw
  dsimp only
  rw [if_neg (by simp [on]), owed]

/-! ### The serial watchdog (R557, R558) -/

/-- Of the load-channel block, only the channels and LATCH_ANY have changed. -/
def ChansOnly (s t : State) : Prop := t.lsw = { s.lsw with chans := t.lsw.chans, latchAny := t.lsw.latchAny }

theorem ChansOnly.refl (s : State) : ChansOnly s s := rfl

theorem ChansOnly.trans {s t u : State} (h : ChansOnly s t) (g : ChansOnly t u) : ChansOnly s u := by
  unfold ChansOnly at *
  rw [g, h]

theorem ChansOnly.of_lsw {s t : State} (same : t.lsw = s.lsw) : ChansOnly s t := by
  unfold ChansOnly
  rw [same]

theorem onChan_chansOnly (s : State) (k : Fin 32) (f : Chan → Chan) : ChansOnly s (s.onChan k f) := rfl

theorem measureChan_chansOnly (s : State) (k : Fin 32) : ChansOnly s (measureChan s k) := by
  unfold measureChan
  dsimp only
  split
  · rfl
  · split
    · rfl
    · rfl
    · rfl

theorem followDemand_chansOnly (s : State) (k : Fin 32) : ChansOnly s (followDemand s k) := by
  have on : ChansOnly s (chanOn s k) := (onChan_chansOnly s k _).trans (measureChan_chansOnly _ k)
  unfold followDemand
  dsimp only
  split
  · split
    · exact on
    · exact .refl s
  · split
    · rfl
    · rfl
    · rfl
    · rfl

/-- What the stored fail-safe state of a channel asks for (R558). -/
def failSafeDemand (c : Chan) : Bool := if c.failsafe = 1 then true else if c.failsafe = 2 then c.demand else false

/-- A channel's stored fail-safe state is in force (R558). -/
def failSafeSet (s : State) (k : Fin 32) : State := s.onChan k fun c => { c with fsOn := true, fsDemand := failSafeDemand (s.chan k) }

theorem failSafe_eq (s : State) (k : Fin 32) : failSafe s k = chanEvent (followDemand (failSafeSet s k) k) k 4 := rfl

theorem failSafe_chansOnly (s : State) (k : Fin 32) : ChansOnly s (failSafe s k) := by
  have event (t : State) : ChansOnly t (chanEvent t k 4) := .of_lsw (by simp [chanEvent])
  rw [failSafe_eq]
  exact ((onChan_chansOnly s k _).trans (followDemand_chansOnly _ k)).trans (event _)

theorem failSafe_only (s : State) (k : Fin 32) : ChanOnly k s (failSafe s k) := by
  rw [failSafe_eq]
  exact ((onChan_only s k _).trans (followDemand_only _ k)).trans (chanEvent_only _ k 4 none)

/-- A channel that follows what is asked of it keeps its fail-safe demand. -/
theorem followDemand_fsDemand (s : State) (k : Fin 32) : ((followDemand s k).chan k).fsDemand = (s.chan k).fsDemand := by
  unfold followDemand
  dsimp only
  split
  · split
    · rw [chanOn_chan]
    · rfl
  · split
    all_goals simp [enterChan_chan]

/-- A channel in its fail-safe state is asked for what that state says, and one whose state is off does not conduct (R558). -/
theorem failSafe_chan (s : State) (k : Fin 32) : ((failSafe s k).chan k).fsOn = true ∧
    ((failSafe s k).chan k).fsDemand = failSafeDemand (s.chan k) ∧
    ((s.chan k).failsafe = 0 → ((failSafe s k).chan k).state ≠ .on ∧ ((failSafe s k).chan k).state ≠ .limiting) := by
  have set : (failSafeSet s k).chan k = { s.chan k with fsOn := true, fsDemand := failSafeDemand (s.chan k) } := onChan_chan_same s k _
  rw [failSafe_eq, chanEvent_chan]
  refine ⟨?_, ?_, fun off => ?_⟩
  · rw [(followDemand_request _ k).2, set]
  · rw [followDemand_fsDemand, set]
  · have released : ((failSafeSet s k).chan k).demand = false := by
      rw [set]
      simp [Chan.demand, failSafeDemand, off]
    obtain ⟨-, -, -, state⟩ := followDemand_released released
    rw [state]
    split
    case isTrue held =>
      rcases held with latched | hot
      · simp [latched]
      · simp [hot]
    case isFalse => simp

/-- A refresh source has expired (R557). -/
def sourceExpired (s : State) (src : Fin 3) : State := { s with lsw := { s.lsw with
  wdExpired := true, sources := vmod s.lsw.sources src fun x => { x with expired := true } } }

/-- The expiry of a source is reported (R568). -/
def expiryReported (s : State) (src : Fin 3) : State := postDev (sourceExpired s src) 0x0C01 (p8 src.val ++ p8 0)

theorem expireSource_other {src : Fin 3} (other : src ≠ 0) : expireSource s src = expiryReported s src := if_neg other

theorem expireSource_service (s : State) : expireSource s 0 = forAll (List.finRange 32) failSafe (interruptDisplay (expiryReported s 0)) := rfl

@[simp] theorem expiryReported_lsw (s : State) (src : Fin 3) : (expiryReported s src).lsw = (sourceExpired s src).lsw := by simp [expiryReported]

@[simp] theorem interruptDisplay_lsw (s : State) : (interruptDisplay s).lsw = s.lsw := by
  unfold interruptDisplay
  split
  · simp [displayEvent, State.onEpd]
  · rfl

/-- The end of the window of a source that sends no refresh; elsewhere the expiry's own instant. -/
def windowOver (s : State) (src : Fin 3) : State := match (vget s.lsw.sources src).stoppedAt with
  | some t => s.toTick (t + s.cfg.wdWin * msNs)
  | none => s

theorem windowOver_frame (s : State) (src : Fin 3) : (windowOver s src).lsw = s.lsw ∧ (windowOver s src).tie = s.tie := by
  unfold windowOver
  split
  · rw [toTick_frame]
    exact ⟨rfl, rfl⟩
  · exact ⟨rfl, rfl⟩

theorem exec_watchdogExpiry {src : Fin 3} (run : s.clocksRun = true) (fresh : (vget s.lsw.sources src).expired = false) :
    exec (.watchdogExpiry src) s = .next (expireSource (windowOver s src) src) :=
  congrArg Host.Outcome.next (if_neg (by simp [run, fresh]))

/-- A valid refresh has arrived again (R558). -/
def sourceReturned (s : State) (src : Fin 3) : State := { s with lsw := { s.lsw with
  sources := vmod s.lsw.sources src fun x => { x with expired := false, stoppedAt := none, seq := x.seq + 1 } } }

theorem exec_watchdogRestored {src : Fin 3} (other : src ≠ 0) (run : s.clocksRun = true) (expired : (vget s.lsw.sources src).expired = true) :
    exec (.watchdogRestored src) s = .next (postDev (sourceReturned s src) 0x0C01 (p8 src.val ++ p8 1)) :=
  congrArg Host.Outcome.next ((if_neg (by simp [run, expired, other])).trans (if_neg other))

/-- Settles O53: the image segment by segment, the commands by the update they wait for, and the channels each by its own fail-safe
state. -/
theorem displayAndWatchdog : Obligations.DisplayAndWatchdog := by
  unfold Obligations.DisplayAndWatchdog
  refine ⟨?common, ?idle, ?off, ?driven, ?others, ?over_, ?blink, ?broken, ?restored, ?returned, ?view, ?noView, ?write, ?writeMany, ?writeOff,
    ?redrawOff, ?redraw, ?expiry, ?expiryService, ?sourceRestored⟩
  case common =>
    intro s k drive common
    exact exec_displayUpdate_common drive common
  case idle =>
    intro s drive none_
    exact exec_displayUpdate_idle drive none_
  case off =>
    intro s off
    exact exec_display_off off
  case driven =>
    intro s k i segment driven
    refine ⟨fun clearing => ?_, fun drawing inside => ?_, fun drawing outside => ?_⟩
    · rw [commonDone_clear clearing]
      simp only [BitVec.getLsbD_and, BitVec.getLsbD_not, driven, decide_eq_true segment]
      simp
    · have area : (drawnArea s).getLsbD i = true := by rw [drawnArea_bit s segment, inside]; exact beq_self_eq_true _
      rw [commonDone_draw drawing]
      simp only [BitVec.getLsbD_or, BitVec.getLsbD_and, BitVec.getLsbD_not, driven, area, decide_eq_true segment]
      simp
    · have area : (drawnArea s).getLsbD i = false := by rw [drawnArea_bit s segment]; exact beq_eq_false_iff_ne.mpr outside
      rw [commonDone_draw drawing]
      simp only [BitVec.getLsbD_or, BitVec.getLsbD_and, BitVec.getLsbD_not, driven, area, decide_eq_true segment]
      simp
  case others =>
    intro s k i segment other
    exact commonDone_other other segment
  case over_ =>
    intro s none_
    refine ⟨_, continueUpdate_none none_, ?_⟩
    rw [endUpdate_epd]
    exact ⟨rfl, rfl, rfl, rfl, rfl, rfl⟩
  case blink =>
    intro s drive marked busy
    obtain ⟨epd, mask⟩ := blinkDue_epd s
    refine ⟨_, exec_blink_busy drive marked busy, ?_, ?_, rfl, toTick_reaches _ _⟩
    · change (blinkDue s).epd.target ^^^ ((blinkDue s).epd.blink &&& ~~~legalMask (blinkDue s)) = _
      rw [epd, mask]
    · change (!(blinkDue s).epd.blinkPhase) = _
      rw [epd]
  case broken =>
    intro s running whole missed
    have epd := pulsed_epd s false
    have breaks : (!(pulsed s false).epd.crack && (pulsed s false).epd.missedPulses == 2) = true := by
      rw [epd]
      simp [whole, missed]
    refine ⟨_, (exec_crackPulse running false).trans (congrArg Host.Outcome.next (if_pos breaks)), ?_, ?_, ?_, ?_⟩
    · simp [State.onEpd]
    · simp [State.onEpd]
    · have same : (postDev ((pulsed s false).onEpd fun e => { e with crack := true, crackSeen := true }) 0x0C03 (p8 0)).epd =
          { (pulsed s false).epd with crack := true, crackSeen := true } := by simp [State.onEpd]
      rw [same, epd]
      rfl
    · have same : (postDev ((pulsed s false).onEpd fun e => { e with crack := true, crackSeen := true }) 0x0C03 (p8 0)).tim =
          (pulsed s false).tim := by simp [State.onEpd]
      rw [State.now, same]
      exact pulsed_reached s false
  case restored =>
    intro s running broken got
    have epd := pulsed_epd s true
    have stays : ¬ (!(pulsed s true).epd.crack && (pulsed s true).epd.missedPulses == 2) = true := by
      rw [epd]
      simp
    have mends : ((pulsed s true).epd.crack && (pulsed s true).epd.gotPulses == 10) = true := by
      rw [epd]
      simp [broken, got]
    have same : (postDev ((pulsed s true).onEpd fun e => { e with crack := false }) 0x0C03 (p8 1)).epd =
        { (pulsed s true).epd with crack := false } := by simp [State.onEpd]
    refine ⟨_, (exec_crackPulse running true).trans (congrArg Host.Outcome.next ((if_neg stays).trans (if_pos mends))), ?_⟩
    rw [same, epd]
    exact ⟨rfl, rfl, rfl⟩
  case returned =>
    intro s running whole
    have epd := pulsed_epd s true
    have stays : ¬ (!(pulsed s true).epd.crack && (pulsed s true).epd.missedPulses == 2) = true := by
      rw [epd]
      simp
    have unbroken : ¬ ((pulsed s true).epd.crack && (pulsed s true).epd.gotPulses == 10) = true := by
      rw [epd]
      simp [whole]
    refine ⟨_, (exec_crackPulse running true).trans (congrArg Host.Outcome.next ((if_neg stays).trans (if_neg unbroken))), ?_⟩
    rw [epd]
    exact ⟨whole, rfl, rfl⟩
  case view =>
    intro s c o h known
    refine ready_eq h ?_
    rw [effSetLegalView, known]
    rfl
  case noView =>
    intro s c h unknown
    refine ready_eq h ?_
    rw [effSetLegalView, unknown]
  case write =>
    intro s c h aligned on busy few
    exact ⟨updateAwaited (operWritten s c) c,
      ready_eq h ((effWriteOperatorArea_few aligned on few).trans (awaitUpdate_busy (s := operWritten s c) busy c)),
      updateAwaited_inFlight (inFlight_same h.cmd rfl), rfl, rfl, rfl, rfl⟩
  case writeMany =>
    intro s c h aligned on many
    exact ready_eq h (effWriteOperatorArea_many aligned on many)
  case writeOff =>
    intro s c h aligned off
    exact ready_eq h (effWriteOperatorArea_off aligned off)
  case redrawOff =>
    intro s c h off
    exact ready_eq h (effRedraw_off off)
  case redraw =>
    intro s c h on busy
    exact ⟨updateAwaited (redrawOwed s) c, ready_eq h ((effRedraw_busy on busy).trans (awaitUpdate_busy (s := redrawOwed s) busy c)),
      updateAwaited_inFlight (inFlight_same h.cmd rfl), rfl, rfl⟩
  case expiry =>
    intro s src other run fresh own
    obtain ⟨lsw, tie⟩ := windowOver_frame s src
    have role : (sourceExpired (windowOver s src) src).tie.role ≠ .standby := by
      change (windowOver s src).tie.role ≠ .standby
      rw [tie]
      exact own
    have posted := postEvent_posted role (code := 0x0C01) (by decide) none (p8 src.val ++ p8 0) none
    refine ⟨expiryReported (windowOver s src) src, sourceExpired (windowOver s src) src, ?_, ?_, ?_, ?_, posted⟩
    · rw [exec_watchdogExpiry run fresh, expireSource_other other]
    · rw [expiryReported_lsw]
      rfl
    · rw [expiryReported_lsw]
      exact congrArg Source.expired (vget_vmod_same _ _ _)
    · rw [expiryReported_lsw, ← lsw]
      rfl
  case expiryService =>
    intro s run fresh
    obtain ⟨lsw, -⟩ := windowOver_frame s 0
    have before : (interruptDisplay (expiryReported (windowOver s 0) 0)).lsw = (sourceExpired (windowOver s 0) 0).lsw := by
      rw [interruptDisplay_lsw, expiryReported_lsw]
    have kept : ChansOnly (interruptDisplay (expiryReported (windowOver s 0) 0)) (expireSource (windowOver s 0) 0) := by
      rw [expireSource_service]
      exact foldl_inv (ChansOnly _) _ _ _ (.refl _) fun t k h => h.trans (failSafe_chansOnly t k)
    obtain ⟨-, -, -, each⟩ := forAll_chans failSafe_only (List.finRange 32) (interruptDisplay (expiryReported (windowOver s 0) 0))
      (List.nodup_finRange 32)
    refine ⟨_, exec_watchdogExpiry run fresh, ?_, ?_, fun k => ?_⟩
    · rw [kept, before]
      rfl
    · rw [kept, before]
      exact congrArg Source.expired (vget_vmod_same _ _ _)
    · obtain ⟨t, alike, met⟩ := each k (List.mem_finRange k)
      have chan : t.chan k = s.chan k := by
        rw [alike.chan, chan_congr (congrArg Lsw.chans before), ← chan_congr (congrArg Lsw.chans lsw)]
        rfl
      rw [expireSource_service, met, ← chan]
      exact failSafe_chan t k
  case sourceRestored =>
    intro s src other run expired own
    have posted := postEvent_posted (s := sourceReturned s src) own (code := 0x0C01) (by decide) none (p8 src.val ++ p8 1) none
    have lsw : (postDev (sourceReturned s src) 0x0C01 (p8 src.val ++ p8 1)).lsw = (sourceReturned s src).lsw := by simp
    have source : vget (sourceReturned s src).lsw.sources src =
        { vget s.lsw.sources src with expired := false, stoppedAt := none, seq := (vget s.lsw.sources src).seq + 1 } := vget_vmod_same _ _ _
    refine ⟨postDev (sourceReturned s src) 0x0C01 (p8 src.val ++ p8 1), sourceReturned s src, exec_watchdogRestored other run expired,
      ?_, ?_, ?_, posted⟩
    · rw [lsw, source]
    · rw [lsw]
      rfl
    · rw [lsw, source]

end Sys2Proof.Machine
end
